-- ==== Sys2Proof/Word.lean ====
section
/-!
DEFINITION. The word types and the one sparse container of the model.

`Sparse α` lists (key, value) pairs; its canonical form (keys strictly rising, no value equal to the default) is defined
and kept by the operations of Sys2Proof/Machine/Sparse.lean.
-/
namespace Sys2Proof

/-- One byte. -/
abbrev Byte := BitVec 8

/-- One register word: every register access is 4 B wide (R488). -/
abbrev Word := BitVec 32

/-- A 64-bit value: counters, Gnomon counts, journal numbers. -/
abbrev DWord := BitVec 64

/-- A sparse table from numbers to values; an unlisted key holds the table's default value. -/
abbrev Sparse (α : Type) := List (Nat × α)

/-- A byte on its way through the module, with its poison tag (R240, R520). -/
structure PByte where
  val    : Byte
  poison : Bool
deriving DecidableEq, Repr

end Sys2Proof
end

