-- ==== Sys2Proof/Syntax.lean ====
section
/-!
DEFINITION. The commands of the module: one constructor of `Instr` per row of spec/opcode_table.json, with the operand
types the rows need. A tile instruction is carried as its 128-bit word (Table 2.3) with the site that issues it; a
message from outside carries the fields of its wire format; an order carries its originator (Table 14.7).
-/
namespace Sys2Proof

/-- Who sends an order or a register access (Table 14.7, R351, R457). The number is a hart, a ring or a key slot. -/
inductive Origin where
  | hart (h : Nat)
  | ring (n : Nat)
  | operator (slot : Nat)
  | custodian (slot : Nat)
  | debug (slot : Nat)
  | relayed (role : Nat)      -- ROLE of R343: 0 host ring, 1 operator, 2 custodian, 3 debug
  | boot                      -- boot code before the seal (R448)
deriving DecidableEq, Repr

/-- One order to a register: originator, page index, byte offset and value (R488). -/
structure RegOrder where
  origin : Origin
  page   : Nat
  off    : Nat
  value  : Word
deriving DecidableEq, Repr

/-- The content of a Gnomon word (Table 5.1). -/
structure GnomonWord where
  txCount     : Nat
  txFrac      : Nat
  masterPrio  : Nat
  masterId    : Nat
  epoch       : Nat
  seq         : Nat
  hops        : Nat
  echoRx      : Nat
  echoTurn    : Nat
  frame       : Nat
  flag        : Bool          -- STRETCH going down, LATE going up
  switchGo    : Bool
  switchAbort : Bool
  hold        : Bool
  start       : Nat           -- NEXT_START going down, LOCAL_NEXT going up
  switchFrame : Nat           -- SWITCH_FRAME going down, READY_FRAME going up
  readyCount  : Nat
deriving DecidableEq, Repr

/-- A step message on the timing tree (Table 10.9). -/
structure StepMsg where
  step    : Nat
  cause   : Nat               -- Table 7.5: bit 0 NONFINITE .. bit 4 NO_MAJORITY
  count   : Nat
  verdict : Nat
  ls      : Int
  run     : Nat
deriving DecidableEq, Repr

/-- A Penumbra message (Table 13.5). -/
structure PenumbraMsg where
  cause    : Nat
  count    : Nat
  score    : Nat
  deadSeen : Bool
  fail     : Bool
  step     : Nat
  frame    : Nat
  tUs      : Nat
  holdNo   : Nat
deriving DecidableEq, Repr

/-- A Spotlight message (Table 12.5). -/
structure SpotMsg where
  unsettled : Bool
  period    : Nat
  gseq      : Nat
  tokens    : Nat
  count     : Nat
  demand    : Nat
  need      : Nat
  sumH      : Nat
  sumBase   : Nat
deriving DecidableEq, Repr

/-- A Ray frame (Table 10.2) with its payload bytes. -/
structure RayFrame where
  type    : Nat
  seq     : Nat
  ack     : Nat
  nak     : Bool
  spec    : Bool
  stepTag : Nat
  crPool  : Nat
  crUnits : Nat
  stream  : Nat
  xseq    : Nat
  last    : Bool
  akind   : Bool              -- false: scratch offset of DST_TILE, true: device address
  dstTile : Nat
  dstPhys : Nat
  detour  : Bool
  pool    : Nat
  addr    : Nat
  srcPhys : Nat
  cc      : Nat
  ccEn    : Bool
  ck      : Nat
  ckEn    : Bool
  giveN   : Nat
  srcTile : Nat
  dirIn   : Nat
  poison  : Nat               -- bit i: payload bytes 64i to 64i + 63 carry the poison tag
  payload : List Byte
deriving DecidableEq, Repr

/-- The LINK control frame of a handshake (R311). -/
structure LinkMsg where
  phys    : Nat
  port    : Nat
  dims    : Nat
  skip    : Nat
  version : Nat
  lastSeq : Nat
deriving DecidableEq, Repr

/-- A management-channel message (Table 10.11): its header and body. -/
structure MgmtMsg where
  op   : Nat
  tag  : Nat
  role : Nat
  arg  : Nat
  src  : Nat                  -- physical number of the sender
  body : List Byte
deriving DecidableEq, Repr

/-- Who asks a Shade slice or a stack controller (R250, R252, R352). -/
inductive Agent where
  | tile (site : Nat)
  | host (hart : Nat)
  | ray (port : Nat)
  | fe (port : Nat)
  | pcie (port : Nat)
  | module                    -- the module's own engines
deriving DecidableEq, Repr

/-- A request to the Shade: device address, bytes, Shade class, agent, stamp flag (R241, R250). -/
structure ShadeReq where
  addr  : Nat
  len   : Nat
  cls   : Nat
  agent : Agent
  stamp : Bool
deriving DecidableEq, Repr

/-- An RDMA request or response packet that passed its ICRC, or did not (R368, R369). -/
structure RocePkt where
  port   : Nat
  qpn    : Nat
  psn    : Nat
  icrcOk : Bool
  ecnCe  : Bool
  addr   : Nat
  key    : Nat
  len    : Nat
  last   : Bool
  data   : List Byte
deriving DecidableEq, Repr

/-- What a link shows at training (R279, R280, R366). -/
structure LinkTraining where
  cxl      : Bool             -- the partner is a CXL 3.1 Type 3 device that R279 accepts
  x8       : Bool
  rate     : Nat              -- PCIE_INFO code: 1 for 2.5 GT/s up to 6 for 64 GT/s
  capacity : Nat              -- bytes
  latNs    : Nat
  devId    : Nat
  serial   : Nat
  buses    : Nat
deriving DecidableEq, Repr

/-- One sample of the module's temperatures: 64 readings per die in 0.25 °C, p(i) of the regions in mW, coolant (R403, R407). -/
structure ThermalSample where
  lumen  : List Int
  shadeL : List Int
  shadeU : List Int
  powerW : List Nat
  coolIn : Int
  coolOut : Int
  flow   : Nat
deriving DecidableEq, Repr

/-- A group of a coupler face as its receiver takes it (R232): its direction, and per physical lane of the direction the four
bits seen. -/
structure LaneGroup where
  up    : Bool
  lanes : List Nat
deriving DecidableEq, Repr

/-- What the environment shows while power-on runs: which flash items can be read and which slots the ROM accepts (R443, R445). -/
structure BootEnv where
  alertClear  : Bool          -- step 6 did not have to wait for ALERT_DARK_N (R507)
  siteMapOk   : Bool
  softFusesOk : Bool
  slotsOk     : Bool          -- management flash gives both firmware slots to the ROM
  trainedFe   : List (Nat × Nat)  -- front-end ports whose link comes up at step 7, with their PMD code
  swept       : List (Nat × Nat × Nat × Nat)  -- slice, lane, first code and number of codes of its open region (R230)
  rom         : List Byte     -- the ROM as step 2 measures it (R446)
  fuses       : List Byte     -- the fuse map and soft fuses, likewise
deriving DecidableEq, Repr

/-- The outcome of one hold item that only the hardware shows (Table 13.7). -/
structure HoldWork where
  remeasured : List (Nat × Nat)   -- site, FREQ_MEAS found by the re-measurement (R34)
  requalSens : List Nat           -- die × 64 + region of the suspect sensors that re-qualified (R405)
  requalLane : List (Nat × Nat)   -- slice key, lane found good (R230)
  retune     : Option (List (Nat × Nat × Nat × Nat))  -- a tuning on demand, as at power-on (R230)
  mergeOk    : List Nat           -- slice keys whose merge buffer passed its self-test (R261)
  fwOk       : Bool               -- every agent passed its self-check (R459)
deriving DecidableEq, Repr

/-- A command of the module. The operand `t` of a tile command is the site; `o` is the order's originator. -/
inductive Instr where
  -- tile instructions (chapters 2, 3, 7, 15)
  | nop (t : Nat) (w : BitVec 128)
  | frame (t : Nat) (w : BitVec 128)
  | rpoint (t : Nat) (w : BitVec 128)
  | waitc (t : Nat) (w : BitVec 128)
  | giveTile (t : Nat) (w : BitVec 128)
  | giveRemoteTile (t : Nat) (w : BitVec 128)
  | giveCollective (t : Nat) (w : BitVec 128)
  | illegalInstr (t : Nat) (w : BitVec 128)
  | mma (t : Nat) (w : BitVec 128)
  | mmaz (t : Nat) (w : BitVec 128)
  | accout (t : Nat) (w : BitVec 128)
  | accclr (t : Nat) (w : BitVec 128)
  | vopFma (t : Nat) (w : BitVec 128)
  | vopAdd (t : Nat) (w : BitVec 128)
  | vopMul (t : Nat) (w : BitVec 128)
  | vopMin (t : Nat) (w : BitVec 128)
  | vopMax (t : Nat) (w : BitVec 128)
  | vopCmplt (t : Nat) (w : BitVec 128)
  | vopSel (t : Nat) (w : BitVec 128)
  | expsplit (t : Nat) (w : BitVec 128)
  | ldexp (t : Nat) (w : BitVec 128)
  | rsum (t : Nat) (w : BitVec 128)
  | rmax (t : Nat) (w : BitVec 128)
  | cvtF8f (t : Nat) (w : BitVec 128)
  | cvtF8b (t : Nat) (w : BitVec 128)
  | cvtF16w (t : Nat) (w : BitVec 128)
  | cvtWiden (t : Nat) (w : BitVec 128)
  | vld (t : Nat) (w : BitVec 128)
  | vst (t : Nat) (w : BitVec 128)
  | dma (t : Nat) (w : BitVec 128)
  | dmaCopy (t : Nat) (q : Nat)
  | dmaReduceAdd (t : Nat) (q : Nat)
  | prism (t : Nat) (q : Nat)
  | gsend (t : Nat) (w : BitVec 128)
  | grecv (t : Nat) (w : BitVec 128)
  | ldc (t : Nat) (w : BitVec 128)
  | mirror (t : Nat) (w : BitVec 128)
  | mirrorTaskComplete (t : Nat)
  | spec (t : Nat) (w : BitVec 128)
  | specend (t : Nat) (w : BitVec 128)
  | dbgHaltAction (t : Nat) (w : BitVec 128)
  | mark (t : Nat) (w : BitVec 128)
  -- tile events
  | replayStart (t : Nat)
  | rescaleDecision (t : Nat) (acc : Nat)
  | rescaleRetry (t : Nat) (acc : Nat)
  | transferLanded (id : Nat)
  | inboundWrite (id : Nat)
  | inboundReduceAdd (id : Nat)
  | mailboxArrival (id : Nat)
  | readCacheFill (t : Nat) (line : Nat)
  | readCacheInvalidate (t : Nat) (line : Nat)
  | rcFlush (o : Origin) (t : Nat)
  | pathMonitorMeasure (t : Nat) (margins : List Nat)
  | prefetchCheck (t : Nat) (slot : Nat)
  | accRowLatch (t : Nat)
  | spectrumFlush (t : Nat) (tensor : Nat)
  | doneStepWrite
  -- Gnomon time, frames, admission (chapter 5)
  | gnomonWord (p : Nat) (w : GnomonWord) (arrival : Nat) (replayed : Bool)
  | gnomonWordSend (p : Nat)
  | holdover
  | masterLost
  | ppsEdge
  | ppsMissing
  | setHi (o : Origin) (v : Word)
  | frameBoundary
  | decisionPoint
  | check (o : Origin)
  | checkDone (found : Option (Nat × Nat × Nat))
  | arm (o : Origin)
  | withdraw (o : Origin)
  | end_ (o : Origin)
  | imageActivation
  | jobEnd
  | compoundRead (o : Origin) (unit : Nat) (off : Nat)
  | compoundWrite (o : Origin) (unit : Nat) (off : Nat) (v : Word)
  | mgmtReplyTimeout (tag : Nat)
  -- steps and verdicts (chapter 7)
  | stepClose
  | stepReport (p : Nat) (m : StepMsg)
  | commit (m : StepMsg)
  | discard (m : StepMsg)
  | rollback (m : StepMsg)
  | commitRepair (m : StepMsg)
  | undoDone
  | drained (p : Nat) (m : StepMsg)
  | resume (step : Nat)
  | specFrameRelease (p : Nat)
  -- Shade (chapter 8)
  | shadeRead (r : ShadeReq)
  | shadeReadDead (r : ShadeReq)
  | shadeWriteLine (r : ShadeReq) (data : List PByte)
  | shadeWritePart (r : ShadeReq) (data : List PByte)
  | shadeAdd (r : ShadeReq) (vals : List Word) (step : Nat)
  | lineFill (line : Nat)
  | invalidationAck (line : Nat)
  | mergeWriteback (k : Nat) (seg : Nat)
  | mergeOff (o : Origin) (k : Nat) (v : Bool)
  | recodeDone (k : Nat)
  | shadeRowSpare (k : Nat) (row : Nat)
  | laneCrc (k : Nat) (g : LaneGroup)
  | laneSwap (k : Nat) (lane : Nat)
  | dieCmd (o : Origin) (die : Nat) (v : Word)
  | progressTimeout (k : Nat)
  | dieResetDone (die : Nat)
  | retryResend (id : Nat)
  | arrayLost (die : Nat)
  | arrayFillDone (die : Nat)
  -- stacks and slow tier (chapter 9)
  | stackRead (addr : Nat) (a : Agent)
  | rowSpared (stack : Nat)
  | stackWrite (addr : Nat) (data : List PByte) (a : Agent)
  | stackPartialWrite (addr : Nat) (data : List PByte) (a : Agent)
  | patrolScrub (stack : Nat)
  | linkTrained (p : Nat) (i : LinkTraining)
  | expanderLost (p : Nat)
  | slowTierRead (id : Nat) (poisoned : Bool)
  | slowTierWrite (id : Nat)
  | devEvent (p : Nat) (correctable : Nat)
  | linkEn (o : Origin) (p : Nat) (v : Bool)
  | resCmd (o : Origin) (v : Word)
  | moveDone (block : Nat)
  -- Ray fabric (chapter 10)
  | frameTransmit (p : Nat)
  | idle (p : Nat) (f : RayFrame)
  | data (p : Nat) (f : RayFrame)
  | add (p : Nat) (f : RayFrame)
  | glint (p : Nat) (f : RayFrame)
  | giveFrame (p : Nat) (f : RayFrame)
  | bulk (p : Nat) (f : RayFrame)
  | audit (p : Nat) (f : RayFrame) (replayed : Bool)
  | frameFailedCrc (p : Nat) (f : RayFrame)
  | link (p : Nat) (m : LinkMsg) (grants : List Nat)
  | partnerBad (p : Nat)
  | retrain (p : Nat)
  | retrainReq (o : Origin) (p : Nat)
  | linkDown (p : Nat)
  | sync (p : Nat)
  | peerDead (p : Nat)
  | portEn (o : Origin) (p : Nat) (v : Bool)
  | modmapStage (o : Origin)
  | modmapWithdraw (o : Origin)
  | collRecordStart (q : Nat)
  | fpPiece (m : MgmtMsg)
  | mgmtRegRead (m : MgmtMsg)
  | mgmtRegWrite (m : MgmtMsg)
  | regReply (m : MgmtMsg)
  | memRead (m : MgmtMsg)
  | memData (m : MgmtMsg)
  -- host accesses and registers (chapters 11, 16)
  | hostLoad (h : Nat) (addr : Nat) (len : Nat)
  | hostStore (h : Nat) (addr : Nat) (data : List Byte)
  | registerWrite (w : RegOrder) (rivals : List RegOrder) (hwSet : Word)
  | evtMsiHoldoff (kind : Nat)
  | evtForce (o : Origin) (page : Nat) (v : Word)
  | lowWordRead (o : Origin) (page : Nat) (off : Nat)
  | sqDoorbell (o : Origin) (v : Word)
  | cqDoorbell (o : Origin) (v : Word)
  | ringEnable (o : Origin) (v : Word)
  | ringDisable (o : Origin) (v : Word)
  | commandFetch
  | cmdNop (seq : Nat)
  | cmdRegWrite (seq : Nat)
  | cmdRegRead (seq : Nat)
  | writeInline (seq : Nat)
  | copy (seq : Nat)
  | flush (seq : Nat)
  | fenceAll (seq : Nat)
  | residency (seq : Nat)
  | journalCopy (seq : Nat)
  | qpCreate (seq : Nat)
  | qpModify (seq : Nat)
  | qpDestroy (seq : Nat)
  | mrReg (seq : Nat)
  | mrDereg (seq : Nat)
  | rdmaPost (seq : Nat)
  | intakeSet (seq : Nat)
  | intakeResume (seq : Nat)
  | intakeOff (seq : Nat)
  | commandComplete (seq : Nat)
  | hostLost
  | wdogKick (o : Origin)
  | hostAttach (o : Origin)
  | hostDetach (o : Origin)
  | hostReset
  | rdmaWriteRequest (k : RocePkt)
  | rdmaReadRequest (k : RocePkt)
  | rdmaReadResponse (k : RocePkt)
  | roceAck (k : RocePkt)
  | roceNak (k : RocePkt) (error : Bool)
  | retransmitTimeout (qpn : Nat)
  | cnp (k : RocePkt)
  | rateIncrease (qpn : Nat)
  | fePortEn (o : Origin) (p : Nat) (v : Bool)
  | feLinkDown (p : Nat)
  | intakeStart
  | intakeReadDone (id : Nat) (ok : Bool)
  | endpointDma (p : Nat) (addr : Nat) (len : Nat) (write : Option (List Byte))
  | jrnlData0Read (o : Origin)
  -- power and thermal (chapter 12)
  | inputSample (vin : Nat) (iin : Nat)
  | brownOut
  | hsLimit
  | alertDark
  | duskExit
  | domainFault (d : Nat)
  | thermalSample (x : ThermalSample)
  | throttleStep
  | learnClear (o : Origin)
  | demandSend
  | demand (p : Nat) (m : SpotMsg)
  | grantSend
  | grant (p : Nat) (m : SpotMsg)
  | spotlightAck (p : Nat) (m : SpotMsg)
  | tokenReportSend
  | tokenReport (p : Nat) (m : SpotMsg)
  -- Penumbra, holds, sparing (chapter 13)
  | penumbraSample (answered : List Bool)
  | penumbraReport (p : Nat) (m : PenumbraMsg)
  | holdReq (o : Origin)
  | boundaryHoldOrder (m : PenumbraMsg)
  | holdBegin (w : HoldWork)
  | holdEnd
  | snapDone
  | drainDone (ok : Bool)
  | park
  | restoreReq (o : Origin)
  | holdTimeout
  | ready (p : Nat) (m : PenumbraMsg)
  | restoreHold (m : PenumbraMsg)
  | restoreDone
  | retireSite (o : Origin)
  | retireRow (o : Origin)
  | readmitSite (o : Origin)
  | readmitRow (o : Origin)
  | selfTest (o : Origin)
  | withdrawStagedMap (o : Origin)
  | selftestDone (pass : Bool)
  -- boot, sessions, firmware (chapter 14)
  | powerOn (e : BootEnv)
  | recoveryBundle (bundle : List Byte)
  | hello (nonce : List Byte) (slot : Nat) (role : Nat)
  | response (hs : Nat) (ct : List Byte) (sig : List Byte)
  | sessionRegRead (sid : Nat) (ctr : Nat) (page : Nat) (off : Nat) (tag : List Byte)
  | sessionRegWrite (sid : Nat) (ctr : Nat) (page : Nat) (off : Nat) (v : Word) (tag : List Byte)
  | fwWrite (sid : Nat) (ctr : Nat) (off : Nat) (data : List Byte) (tag : List Byte)
  | quote (sid : Nat) (ctr : Nat) (nonce : List Byte) (tag : List Byte)
  | certReadAndLogRead (sid : Nat) (ctr : Nat) (tag : List Byte)
  | keyEnroll (sid : Nat) (ctr : Nat) (slot : Nat) (key : List Byte) (roles : Nat) (tag : List Byte)
  | keyRevoke (sid : Nat) (ctr : Nat) (slot : Nat) (tag : List Byte)
  | configWrite (sid : Nat) (ctr : Nat) (record : List Word) (tag : List Byte)
  | svnCommit (sid : Nat) (ctr : Nat) (tag : List Byte)
  | afterglowClear (sid : Nat) (ctr : Nat) (tag : List Byte)
  | close (sid : Nat) (ctr : Nat) (tag : List Byte)
  | sessionIdleTimeout (sid : Nat)
  | fwVerify (o : Origin)
  | fwActivate (o : Origin)
  | fwDiscard (o : Origin)
  | hostQuote (o : Origin)
  | hostCert (o : Origin)
  | hostMeasLog (o : Origin)
  | quoteDone
  | keyWinCommit (o : Origin) (v : Word)
  | closeAll (o : Origin)
  -- Afterglow, counters, debug (chapter 15)
  | keptRecordWrite (ok : Bool)
  | capture
  | clearEraseDone
  | agDataRead (o : Origin)
  | stallClear (o : Origin) (t : Nat)
  | dbgAccSel (o : Origin) (t : Nat) (v : Word)
  | dbgHalt (o : Origin) (t : Nat)
  | dbgResume (o : Origin) (t : Nat)
  | checker (o : Origin) (page : Nat) (v : Bool)
  | rawRead (o : Origin) (page : Nat)
  | rawWrite (o : Origin) (page : Nat)
  -- link events and timers the table lists last
  | pcsLock (p : Nat)
  | feLinkUp (p : Nat) (pmd : Nat)
  | alertDarkNDeasserted
  | hartsReleased
  | fwVerifyDone (ok : Bool)
  | priorityFlowControl (p : Nat) (prio : Nat) (pause : Bool)
deriving DecidableEq, Repr

end Sys2Proof
end

