-- ==== Sys2Proof/WellFormed.lean ====
section
/-!
DEFINITION. Commands as the hardware can receive them: a part that Table 1.1 lists, an instruction word with the opcode
of its row (Tables 2.4 and 2.8), an originator that exists, and messages within their widths.
-/
namespace Sys2Proof

/-- A tile site (R12). -/
def siteOk (t : Nat) : Bool := t < 1152

def wordField (w : BitVec 128) (hi lo : Nat) : Nat := w.toNat / 2 ^ lo % 2 ^ (hi + 1 - lo)

/-- The opcode of Table 2.4. -/
def opIs (w : BitVec 128) (op : Nat) : Bool := wordField w 127 120 == op

/-- A VOP with the sub-operation of Table 2.8. -/
def vopIs (w : BitVec 128) (sub : Nat) : Bool := opIs w 0x20 && wordField w 63 56 == sub

/-- A GIVE of a kind. -/
def giveIs (w : BitVec 128) (kind : Nat) : Bool := opIs w 0x04 && wordField w 63 62 == kind

/-- A DBG with an action (R479). -/
def dbgIs (w : BitVec 128) (action : Nat) : Bool := opIs w 0xF0 && wordField w 63 56 == action

/-- An originator that exists (R351, R453, R343). -/
def originOk : Origin → Bool
  | .hart h => h < 32
  | .ring n => n < 1024
  | .operator k => k < 16
  | .custodian k => k < 16
  | .debug k => k < 16
  | .relayed r => r < 4
  | .boot => true

/-- A register access is 4 B wide and aligned, within a page (R488). -/
def offsetOk (off : Nat) : Bool := off < 4096 && off % 4 == 0

def orderOk (w : RegOrder) : Bool := originOk w.origin && w.page < 2 ^ 20 && offsetOk w.off

/-- A request to the Shade lies in one line (R241). -/
def requestOk (r : ShadeReq) : Bool := r.len != 0 && r.addr % 256 + r.len ≤ 256 && r.addr < 2 ^ 48 && r.cls < 6

/-- A frame within the widths of Table 10.2. -/
def frameOk (f : RayFrame) : Bool := f.type < 16 && f.seq < 4096 && f.ack < 4096 && f.payload.length ≤ 512

/-- A management message within Table 10.11. -/
def messageOk (m : MgmtMsg) : Bool := m.tag < 2 ^ 24 && m.role < 4 && m.arg < 2 ^ 48 && m.body.length ≤ 496

def packetOk (k : RocePkt) : Bool := k.port < 2 && k.qpn < 2 ^ 24 && k.psn < 2 ^ 24

/-- 64 readings per die, and a power for each region (R403). -/
def sampleOk (x : ThermalSample) : Bool :=
  x.lumen.length == 64 && x.shadeL.length == 64 && x.shadeU.length == 64 && x.powerW.length == 64

/-- A command that the hardware can receive. -/
def Instr.wf : Instr → Bool
  | .nop t w => siteOk t && opIs w 0x0
  | .frame t w => siteOk t && opIs w 0x1
  | .rpoint t w => siteOk t && opIs w 0x2
  | .waitc t w => siteOk t && opIs w 0x3
  | .giveTile t w => siteOk t && giveIs w 1
  | .giveRemoteTile t w => siteOk t && giveIs w 2
  | .giveCollective t w => siteOk t && giveIs w 3
  | .illegalInstr t _ => siteOk t
  | .mma t w => siteOk t && opIs w 0x10
  | .mmaz t w => siteOk t && opIs w 0x11
  | .accout t w => siteOk t && opIs w 0x12
  | .accclr t w => siteOk t && opIs w 0x13
  | .vopFma t w => siteOk t && vopIs w 0x0
  | .vopAdd t w => siteOk t && vopIs w 0x1
  | .vopMul t w => siteOk t && vopIs w 0x2
  | .vopMin t w => siteOk t && vopIs w 0x3
  | .vopMax t w => siteOk t && vopIs w 0x4
  | .vopCmplt t w => siteOk t && vopIs w 0x5
  | .vopSel t w => siteOk t && vopIs w 0x6
  | .expsplit t w => siteOk t && vopIs w 0x7
  | .ldexp t w => siteOk t && vopIs w 0x8
  | .rsum t w => siteOk t && vopIs w 0x10
  | .rmax t w => siteOk t && vopIs w 0x11
  | .cvtF8f t w => siteOk t && vopIs w 0x20
  | .cvtF8b t w => siteOk t && vopIs w 0x21
  | .cvtF16w t w => siteOk t && vopIs w 0x22
  | .cvtWiden t w => siteOk t && vopIs w 0x23
  | .vld t w => siteOk t && opIs w 0x21
  | .vst t w => siteOk t && opIs w 0x22
  | .dma t w => siteOk t && opIs w 0x30
  | .dmaCopy t q => siteOk t && q < 8
  | .dmaReduceAdd t q => siteOk t && q < 8
  | .prism t q => siteOk t && q < 8
  | .gsend t w => siteOk t && opIs w 0x38
  | .grecv t w => siteOk t && opIs w 0x39
  | .ldc t w => siteOk t && opIs w 0x40
  | .mirror t w => siteOk t && opIs w 0x50
  | .mirrorTaskComplete t => siteOk t
  | .spec t w => siteOk t && opIs w 0x60
  | .specend t w => siteOk t && opIs w 0x61
  | .dbgHaltAction t w => siteOk t && dbgIs w 1
  | .mark t w => siteOk t && dbgIs w 2
  | .replayStart t => siteOk t
  | .rescaleDecision t acc => siteOk t && acc < 16
  | .rescaleRetry t acc => siteOk t && acc < 16
  | .transferLanded _ => true
  | .inboundWrite _ => true
  | .inboundReduceAdd _ => true
  | .mailboxArrival _ => true
  | .readCacheFill t _ => siteOk t
  | .readCacheInvalidate t _ => siteOk t
  | .rcFlush o t => siteOk t && originOk o
  | .pathMonitorMeasure t margins => siteOk t && margins.length == 8
  | .prefetchCheck t slot => siteOk t && slot < 16
  | .accRowLatch t => siteOk t
  | .spectrumFlush t _ => siteOk t
  | .doneStepWrite => true
  | .gnomonWord p _ _ _ => p < 16
  | .gnomonWordSend p => p < 16
  | .holdover => true
  | .masterLost => true
  | .ppsEdge => true
  | .ppsMissing => true
  | .setHi o _ => originOk o
  | .frameBoundary => true
  | .decisionPoint => true
  | .check o => originOk o
  | .checkDone _ => true
  | .arm o => originOk o
  | .withdraw o => originOk o
  | .end_ o => originOk o
  | .imageActivation => true
  | .jobEnd => true
  | .compoundRead o unit off => originOk o && unit < 4096 && offsetOk off
  | .compoundWrite o unit off _ => originOk o && unit < 4096 && offsetOk off
  | .mgmtReplyTimeout _ => true
  | .stepClose => true
  | .stepReport p _ => p < 16
  | .commit _ => true
  | .discard _ => true
  | .rollback _ => true
  | .commitRepair _ => true
  | .undoDone => true
  | .drained p _ => p < 16
  | .resume _ => true
  | .specFrameRelease p => p < 16
  | .shadeRead r => requestOk r
  | .shadeReadDead r => requestOk r
  | .shadeWriteLine r _ => requestOk r
  | .shadeWritePart r _ => requestOk r
  | .shadeAdd r _ _ => requestOk r
  | .lineFill _ => true
  | .invalidationAck _ => true
  | .mergeWriteback k _ => k < 2304
  | .mergeOff o k _ => originOk o && k < 2304
  | .recodeDone k => k < 2304
  | .shadeRowSpare k _ => k < 2304
  | .laneCrc k _ => k < 2304
  | .laneSwap k _ => k < 2304
  | .dieCmd o die _ => originOk o && die < 2
  | .progressTimeout k => k < 2304
  | .dieResetDone die => die < 2
  | .retryResend _ => true
  | .arrayLost die => die < 2
  | .arrayFillDone die => die < 2
  | .stackRead _ _ => true
  | .rowSpared stack => stack < 8
  | .stackWrite _ _ _ => true
  | .stackPartialWrite _ _ _ => true
  | .patrolScrub stack => stack < 8
  | .linkTrained p _ => p < 2
  | .expanderLost p => p < 2
  | .slowTierRead _ _ => true
  | .slowTierWrite _ => true
  | .devEvent p _ => p < 2
  | .linkEn o p _ => originOk o && p < 2
  | .resCmd o _ => originOk o
  | .moveDone _ => true
  | .frameTransmit p => p < 16
  | .idle p f => p < 16 && frameOk f
  | .data p f => p < 16 && frameOk f
  | .add p f => p < 16 && frameOk f
  | .glint p f => p < 16 && frameOk f
  | .giveFrame p f => p < 16 && frameOk f
  | .bulk p f => p < 16 && frameOk f
  | .audit p f _ => p < 16 && frameOk f
  | .frameFailedCrc p f => p < 16 && frameOk f
  | .link p _ _ => p < 16
  | .partnerBad p => p < 16
  | .retrain p => p < 16
  | .retrainReq o p => originOk o && p < 16
  | .linkDown p => p < 16
  | .sync p => p < 16
  | .peerDead p => p < 16
  | .portEn o p _ => originOk o && p < 16
  | .modmapStage o => originOk o
  | .modmapWithdraw o => originOk o
  | .collRecordStart q => q < 16
  | .fpPiece m => messageOk m
  | .mgmtRegRead m => messageOk m
  | .mgmtRegWrite m => messageOk m
  | .regReply m => messageOk m
  | .memRead m => messageOk m
  | .memData m => messageOk m
  | .hostLoad h _ _ => h < 32
  | .hostStore h _ _ => h < 32
  | .registerWrite w rivals _ => orderOk w && rivals.all orderOk
  | .evtMsiHoldoff kind => kind < 21
  | .evtForce o page _ => originOk o && page < 2 ^ 20
  | .lowWordRead o page off => originOk o && page < 2 ^ 20 && offsetOk off
  | .sqDoorbell o _ => originOk o
  | .cqDoorbell o _ => originOk o
  | .ringEnable o _ => originOk o
  | .ringDisable o _ => originOk o
  | .commandFetch => true
  | .cmdNop _ => true
  | .cmdRegWrite _ => true
  | .cmdRegRead _ => true
  | .writeInline _ => true
  | .copy _ => true
  | .flush _ => true
  | .fenceAll _ => true
  | .residency _ => true
  | .journalCopy _ => true
  | .qpCreate _ => true
  | .qpModify _ => true
  | .qpDestroy _ => true
  | .mrReg _ => true
  | .mrDereg _ => true
  | .rdmaPost _ => true
  | .intakeSet _ => true
  | .intakeResume _ => true
  | .intakeOff _ => true
  | .commandComplete _ => true
  | .hostLost => true
  | .wdogKick o => originOk o
  | .hostAttach o => originOk o
  | .hostDetach o => originOk o
  | .hostReset => true
  | .rdmaWriteRequest k => packetOk k
  | .rdmaReadRequest k => packetOk k
  | .rdmaReadResponse k => packetOk k
  | .roceAck k => packetOk k
  | .roceNak k _ => packetOk k
  | .retransmitTimeout _ => true
  | .cnp k => packetOk k
  | .rateIncrease _ => true
  | .fePortEn o p _ => originOk o && p < 2
  | .feLinkDown p => p < 2
  | .intakeStart => true
  | .intakeReadDone _ _ => true
  | .endpointDma p _ _ _ => p < 2
  | .jrnlData0Read o => originOk o
  | .inputSample _ _ => true
  | .brownOut => true
  | .hsLimit => true
  | .alertDark => true
  | .duskExit => true
  | .domainFault d => d < 48
  | .thermalSample x => sampleOk x
  | .throttleStep => true
  | .learnClear o => originOk o
  | .demandSend => true
  | .demand p _ => p < 16
  | .grantSend => true
  | .grant p _ => p < 16
  | .spotlightAck p _ => p < 16
  | .tokenReportSend => true
  | .tokenReport p _ => p < 16
  | .penumbraSample answered => answered.length == 11
  | .penumbraReport p _ => p < 16
  | .holdReq o => originOk o
  | .boundaryHoldOrder _ => true
  | .holdBegin _ => true
  | .holdEnd => true
  | .snapDone => true
  | .drainDone _ => true
  | .park => true
  | .restoreReq o => originOk o
  | .holdTimeout => true
  | .ready p _ => p < 16
  | .restoreHold _ => true
  | .restoreDone => true
  | .retireSite o => originOk o
  | .retireRow o => originOk o
  | .readmitSite o => originOk o
  | .readmitRow o => originOk o
  | .selfTest o => originOk o
  | .withdrawStagedMap o => originOk o
  | .selftestDone _ => true
  | .powerOn _ => true
  | .recoveryBundle _ => true
  | .hello _ slot role => slot < 16 && role < 3
  | .response _ _ _ => true
  | .sessionRegRead _ _ page off _ => page < 2 ^ 20 && offsetOk off
  | .sessionRegWrite _ _ page off _ _ => page < 2 ^ 20 && offsetOk off
  | .fwWrite _ _ _ _ _ => true
  | .quote _ _ _ _ => true
  | .certReadAndLogRead _ _ _ => true
  | .keyEnroll _ _ slot _ _ _ => slot < 16
  | .keyRevoke _ _ slot _ => slot < 16
  | .configWrite _ _ _ _ => true
  | .svnCommit _ _ _ => true
  | .afterglowClear _ _ _ => true
  | .close _ _ _ => true
  | .sessionIdleTimeout _ => true
  | .fwVerify o => originOk o
  | .fwActivate o => originOk o
  | .fwDiscard o => originOk o
  | .hostQuote o => originOk o
  | .hostCert o => originOk o
  | .hostMeasLog o => originOk o
  | .quoteDone => true
  | .keyWinCommit o _ => originOk o
  | .closeAll o => originOk o
  | .keptRecordWrite _ => true
  | .capture => true
  | .clearEraseDone => true
  | .agDataRead o => originOk o
  | .stallClear o t => siteOk t && originOk o
  | .dbgAccSel o t _ => siteOk t && originOk o
  | .dbgHalt o t => siteOk t && originOk o
  | .dbgResume o t => siteOk t && originOk o
  | .checker o page _ => originOk o && page < 2 ^ 20
  | .rawRead o page => originOk o && page < 2 ^ 20
  | .rawWrite o page => originOk o && page < 2 ^ 20
  | .pcsLock p => p < 16
  | .feLinkUp p _ => p < 2
  | .alertDarkNDeasserted => true
  | .hartsReleased => true
  | .fwVerifyDone _ => true
  | .priorityFlowControl p prio _ => p < 2 && prio < 8

end Sys2Proof
end

