-- ==== Sys2Proof/Decode.lean ====
section
/-!
DEFINITION. The commands of this module have no encoding: no row of the opcode table gives bits, and the module takes its
commands as messages and events. No word spells one.
-/
namespace Sys2Proof

/-- The command that a word spells by the bits of the opcode table, which gives none. -/
def decodeTableWord (_nbits _w : Nat) : Option Instr := none

end Sys2Proof
end

