-- ==== Sys2Proof/Machine/Sparse.lean ====
section
/-!
DEFINITION. Sparse tables: sorted (key, value) lists, and their canonical form.

`sput` keeps keys strictly rising; `sset` also removes an entry that equals the default, so that equal tables are equal
data. Memory and registers use `sset`.
-/
namespace Sys2Proof.Machine

/-- The value listed for a key. -/
def sfind {α : Type} : Sparse α → Nat → Option α
  | [], _ => none
  | (k, v) :: m, q => if k == q then some v else sfind m q

/-- The value of a key: the default where none is listed. -/
def sget {α : Type} (d : α) (m : Sparse α) (q : Nat) : α := (sfind m q).getD d

/-- Lists a value for a key, in key order. -/
def sput {α : Type} : Sparse α → Nat → α → Sparse α
  | [], q, x => [(q, x)]
  | (k, v) :: m, q, x =>
    if q < k then (q, x) :: (k, v) :: m
    else if k == q then (q, x) :: m
    else (k, v) :: sput m q x

/-- Unlists a key. -/
def sdel {α : Type} (m : Sparse α) (q : Nat) : Sparse α := m.filter fun e => e.1 != q

/-- Writes a value, unlisting the key when the value is the default. -/
def sset {α : Type} [DecidableEq α] (d : α) (m : Sparse α) (q : Nat) (x : α) : Sparse α :=
  if x = d then sdel m q else sput m q x

/-- Every key is above `lo`, keys rise strictly, and no value is its key's default. -/
def swfAbove {α : Type} [DecidableEq α] (d : Nat → α) : Nat → Sparse α → Bool
  | _, [] => true
  | lo, (k, v) :: m => decide (lo < k) && !decide (v = d k) && swfAbove d k m

/-- The canonical form: keys rise strictly and no value is its key's default. -/
def swf {α : Type} [DecidableEq α] (d : Nat → α) : Sparse α → Bool
  | [] => true
  | (k, v) :: m => !decide (v = d k) && swfAbove d k m

/-- The first element of a list that a test accepts, with the list without it. -/
def takeFirst {α : Type} (p : α → Bool) : List α → Option (α × List α)
  | [] => none
  | x :: xs => if p x then some (x, xs) else (takeFirst p xs).map fun (y, ys) => (y, x :: ys)

/-- Replaces the first element that a test accepts. -/
def mapFirst {α : Type} (p : α → Bool) (f : α → α) : List α → List α
  | [] => []
  | x :: xs => if p x then f x :: xs else x :: mapFirst p f xs

/-- Inserts a number into an ascending list without repeats. -/
def insNat (n : Nat) : List Nat → List Nat
  | [] => [n]
  | x :: xs => if n < x then n :: x :: xs else if n == x then x :: xs else x :: insNat n xs

/-- The list 0 … n − 1, each element shifted by `b`. -/
def rangeFrom (b n : Nat) : List Nat := (List.range n).map (· + b)

/-- A fold over 0 … n − 1. -/
def forN {σ : Type} (n : Nat) (s : σ) (f : σ → Nat → σ) : σ := (List.range n).foldl f s

end Sys2Proof.Machine
end

