-- ==== Sys2Proof/Machine/Bytes.lean ====
section
/-!
DEFINITION. Byte order and bit fields: a value wider than a byte lies little-endian (R5).
-/
namespace Sys2Proof.Machine

/-- The number whose little-endian bytes these are (R5). -/
def leNat : List Byte → Nat
  | [] => 0
  | b :: bs => b.toNat + 256 * leNat bs

/-- The n little-endian bytes of a number (R5). -/
def natLe : Nat → Nat → List Byte
  | 0, _ => []
  | n + 1, x => BitVec.ofNat 8 x :: natLe n (x / 256)

/-- Bits [hi:lo] of a number. -/
def bits (x hi lo : Nat) : Nat := x / 2 ^ lo % 2 ^ (hi + 1 - lo)

/-- Bit i of a number. -/
def bit (x i : Nat) : Bool := Nat.testBit x i

/-- The number with bits [hi:lo] replaced. -/
def setBits (x hi lo v : Nat) : Nat :=
  x - bits x hi lo * 2 ^ lo + v % 2 ^ (hi + 1 - lo) * 2 ^ lo

/-- The signed value of an n-bit field. -/
def signedOf (n x : Nat) : Int := if x ≥ 2 ^ (n - 1) then (x : Int) - 2 ^ n else x

/-- The n-bit two's-complement field of an integer. -/
def fieldOf (n : Nat) (x : Int) : Nat := (x % 2 ^ n).toNat

/-- A number from a Bool. -/
def b2n (b : Bool) : Nat := if b then 1 else 0

def ceilDiv (a b : Nat) : Nat := (a + b - 1) / b

/-- Bytes [off, off + n) of a list, zero beyond its end. -/
def slice (bs : List Byte) (off n : Nat) : List Byte :=
  let t := (bs.drop off).take n
  t ++ List.replicate (n - t.length) 0

/-- The little-endian number in bytes [off, off + n). -/
def fieldAt (bs : List Byte) (off n : Nat) : Nat := leNat (slice bs off n)

/-- A list with bytes [off, …) replaced by others; its length stays. -/
def patch {α : Type} (bs : List α) (off : Nat) (xs : List α) : List α :=
  (bs.take off ++ xs ++ bs.drop (off + xs.length)).take bs.length

/-- The XOR of a list of bits. -/
def xorAll (l : List Bool) : Bool := l.foldl (· != ·) false

/-- The ASCII bytes of a label: only characters below 128 are used. -/
def ascii (s : String) : List Byte := s.toList.map fun c => BitVec.ofNat 8 c.toNat

end Sys2Proof.Machine
end

