-- ==== Sys2Proof/Config.lean ====
section
/-!
DEFINITION. What the manual leaves to the implementation or to a standard outside it, as constants with no body.

No proof can see a value of these: a statement that mentions one holds for every value of it. The cryptographic
primitives are those of standards the manual only names (FIPS 203, FIPS 205); `freeBits` is the source of every value
the manual leaves open at run time, applied to the counter `State.freeCount` that each use advances.
-/
namespace Sys2Proof

/-- The n-th value that the manual leaves open (assumption 3). -/
opaque Config.freeBits : Nat → BitVec 64

/-- SLH-DSA verification of FIPS 205 (R444, R453): public key, message, signature. -/
opaque Config.sigVerify : List Byte → List Byte → List Byte → Bool

/-- VENDOR_KEY_HASH, fused (R444). -/
opaque Config.vendorKeyHash : List Byte

/-- The firmware bundle in slot A of a module as shipped (assumption 58). -/
opaque Config.factoryBundle : List Byte

/-- MAC address of a front-end port, set from the device identity (Table 11.15). -/
opaque Config.mac : Nat → BitVec 48

/-- SERIAL_LO and SERIAL_HI, fused (R450). -/
opaque Config.serial : BitVec 64

/-- SLH-DSA signature of FIPS 205 with the module's identity key (R450, R451). -/
opaque Config.identitySign : List Byte → List Byte

/-- ML-KEM-768 encapsulation key of FIPS 203 that the module makes for a session (R454), from fresh randomness. -/
opaque Config.kemKey : BitVec 64 → List Byte

/-- ML-KEM-768 decapsulation of FIPS 203 (R454): the randomness behind the key, and the ciphertext. -/
opaque Config.kemDecaps : BitVec 64 → List Byte → List Byte

/-- The bytes of a session message: its type (0 HELLO, 1 CHALLENGE, 2 RESPONSE, 3 ACCEPT, 4 REJECT, 5 REPLY, 256 + code
for a COMMAND) and its fields. The manual names the fields and does not lay them out (assumption 69). -/
opaque Config.message : Nat → List (List Byte) → List Byte

/-- The DER certificate held in management flash (R450). -/
opaque Config.certificate : List Byte

/-- HALO_K of a die, in mK/W, fused per module (R404). -/
opaque Config.haloK : Nat → BitVec 16

/-- HALO_C of a die, signed in 0.01 °C, fused per module (R404). -/
opaque Config.haloC : Nat → BitVec 16

/-- Delay code that a tuning sets on a lane whose sweep no command tells (R230): the tuning, the slice and the lane. -/
opaque Config.laneDelay : Nat → Nat → Nat → BitVec 8

/-- SHA-256 of the SYSCOMPOUND section of the master's image armed for a frame, as a module other than the master knows it
(R161; assumption 82). -/
opaque Config.masterSysDigest : Nat → List Byte

/-- Digest of the master's staged module map, as a module other than the master knows it, by the HOLD_NO to come (R428;
assumption 121). -/
opaque Config.masterMapDigest : Nat → List Byte

/-- Row repair resources of one stack bank, which the standard behind R278 fixes and the manual does not. -/
opaque Config.bankRepairs : Nat

/-- The agent that performs an addition of a reduction (R148). -/
inductive ReduceAgent
  | dma
  | slice
  | collective
deriving DecidableEq, Repr

/-- An entry of a REDUCE record (R148): a segment's logical tile, accumulator index and the stream indices of its matrix
instructions; or a node's agent and the entries that are its children. -/
inductive ReduceEntry
  | segment (tile acc : Nat) (instrs : List Nat)
  | node (agent : ReduceAgent) (left right : Nat)
deriving DecidableEq, Repr

/-- The entries that the bytes of a reduction plan spell. The manual says what an entry names and does not lay it out
(assumption 114). -/
opaque Config.reduceEntries : List Byte → List ReduceEntry

/-- The direction that a route table loaded while modules are DEAD gives a frame that would pass through one of them: this
module, the destination, the DEAD neighbours (R337). -/
opaque Config.rerouteDir : Nat → Nat → List Nat → BitVec 4

/-- Smallest margin below which a path monitor's loss is soft, in percent of the period (R74). -/
def Config.softThreshold : Nat := 6

/-- Margin below which a path monitor's loss is hard, in percent of the period (R74). -/
def Config.hardThreshold : Nat := 3

end Sys2Proof
end

