-- ==== Sys2Proof/Machine/HostState.lean ====
section
/-!
DEFINITION. The state of the host coupling, rings, journal, front-end ports and data intake (chapter 11).
-/
namespace Sys2Proof.Machine

/-- A ring control block (Table 11.3). -/
structure Rcb where
  sqBase  : Nat
  logSq   : Nat
  cqBase  : Nat
  logCq   : Nat
  msiAddr : Nat
  msiData : Nat
deriving DecidableEq, Repr

/-- A command ring (R356 to R360, R527). -/
structure Ring where
  rcb      : Rcb
  enabled  : Bool := true
  stopping : Bool := false             -- disabled, with started commands not yet complete
  again    : Bool := false             -- an enable waits for the disable to finish
  fetch    : Nat := 0                  -- next SQ index
  tail     : Nat := 0
  head     : Nat := 0                  -- CQ head as the host last wrote it, counted on modulo 2^17
  cq       : Nat := 0                  -- next CQ index, modulo 2^17
deriving DecidableEq, Repr

/-- A fetched command (Table 11.4). Its journal SEQ is its number. -/
structure Cmd where
  seq     : Nat
  ring    : Nat
  idx     : Nat
  bytes   : List Byte
  started : Bool := false
  silent  : Bool := false              -- no completion entry and no interrupt (R364)
  noted   : Bool := false              -- its outcome is journalled
  done    : Option (Nat × Nat) := none -- STATUS and RESULT, once its effects are visible
deriving DecidableEq, Repr

/-- A journal entry (Table 11.6). -/
structure JEnt where
  seq    : Nat
  accept : Nat
  gtDone : Nat := 0
  cls    : Nat
  source : Nat
  opcode : Nat
  status : Nat
  cmdId  : Nat
  digest : List Byte
  arg    : Nat
  result : Nat := 0
  link   : Nat := 0xFFFFFFFFFFFFFFFF
deriving DecidableEq, Repr

/-- Who a register access answers to. -/
inductive Asker where
  | order (o : Origin)
  | load (h : Nat)                      -- a hart
  | cmd (seq : Nat)                     -- a ring command
  | session (sid ctr : Nat)
  | relay (dst tag role : Nat)          -- a management request of another module
deriving DecidableEq, Repr

/-- An access to a system compound unit that waits for member modules (R165, R518). -/
structure Compound where
  id    : Nat
  off   : Nat
  value : Option Word                   -- of a write
  by_   : Asker
  entry : Option (Nat × JEnt)           -- its journal entry
  parts : Sparse Word                   -- what has come, by logical module: a value read, or the status of a write
  wait  : List Nat                      -- member modules that have not answered
deriving DecidableEq, Repr

/-- An RDMA operation of a QP that has not ended. -/
structure RdmaOp where
  id     : Nat
  write  : Bool
  local_ : Nat
  len    : Nat
  remote : Nat
  key    : Nat
  psn    : Nat
  data   : List PByte := []             -- of a WRITE
  got    : Nat := 0                     -- bytes placed
  sent   : Bool := false                -- not held by a priority pause
  seq    : Option Nat := none           -- ring command
  intake : Bool := false
  hold    : Option Nat := none          -- a read of the restore engine: offset in the slot, 2^40 + k for the header of storage slot k
deriving DecidableEq, Repr

/-- A queue pair (R368, R370, R371). -/
structure Qp where
  state   : Nat := 0                    -- 0 RESET, 1 INIT, 2 RTR, 3 RTS, 4 ERROR
  attrs   : List Byte := []
  sendPsn : Nat := 0
  expPsn  : Nat := 0
  rate    : Nat := 819200               -- in 1/1,024 Gb/s
  tries   : Nat := 0
  ops     : List RdmaOp := []
  leaving : Option Nat := none          -- QP_DESTROY that waits
deriving DecidableEq, Repr

/-- A memory region (Table 11.8). -/
structure Mr where
  gen     : Nat := 0
  valid   : Bool := false
  start   : Nat := 0
  len     : Nat := 0
  write   : Bool := false
  read    : Bool := false
deriving DecidableEq, Repr

/-- An intake range (Table 11.10). -/
structure IRange where
  first : Nat
  count : Nat
  dest  : Nat
deriving DecidableEq, Repr

/-- The intake plan. -/
structure Plan where
  recBytes : Nat
  extRecs  : Nat
  nExt     : Nat
  extents  : Nat
  nrec     : Nat
  curBase  : Nat
  stepBase : Nat
  ranges   : List IRange
deriving DecidableEq, Repr

/-- One intake read (R375). -/
structure IRead where
  id     : Nat
  step   : Nat
  range  : Nat
  qpn    : Nat
  remote : Nat
  key    : Nat
  dest   : Nat
  len    : Nat
  issued : Bool := false
deriving DecidableEq, Repr

/-- The intake engine (R372 to R380). -/
structure Intake where
  plan    : Option Plan := none
  on      : Bool := false
  stalled : Bool := false
  reads   : List IRead := []            -- reads of started intakes that have not landed
  started : List Nat := []              -- steps whose intake has started and is not complete
  top     : Option Nat := none          -- highest step whose intake is complete
  complete : List Nat := []             -- steps whose intake is complete
  offSeq  : Option Nat := none          -- INTAKE_OFF that waits for its reads
deriving DecidableEq, Repr

/-- The host coupling (chapter 11). -/
structure HostSt where
  inReset  : Bool := false              -- PD46 in reset, until its harts are released
  rings   : Sparse Ring := []
  cmds    : List Cmd := []              -- fetched and not completed, oldest first
  lastRing : Nat := 1023                -- ring served last
  journal : Sparse JEnt := []           -- slot SEQ mod 65,536
  nextSeq : Nat := 0
  jShown  : List Byte := []             -- the journal entry that JRNL_DATA1 to 15 show (R382)
  linkAt  : Sparse Nat := []            -- PCIe/CXL port ↦ gt since power-on at which LINK_EN last became 1 (R511)
  kickAt  : Nat := 0                    -- gt count since power-on of the last start of the watchdog period
  qps     : Sparse Qp := []
  mrs     : Sparse Mr := []
  intake  : Intake := {}
  cnpAt   : Sparse Nat := []            -- time of the last CNP sent per QP
  paused  : List Nat := []              -- port × 8 + priority paused by PFC
  comps   : List Compound := []         -- accesses to system units in progress
deriving DecidableEq, Repr

end Sys2Proof.Machine
end

