-- ==== Sys2Proof/Machine/MgmtState.lean ====
section
/-!
DEFINITION. The state of the Mbohestan controller: boot, keys, sessions, firmware slots, measurement (chapter 14).
-/
namespace Sys2Proof.Machine

/-- A handshake that waits for RESPONSE (R454). -/
structure Shake where
  id     : Nat
  slot   : Nat
  role   : Nat
  script : List Byte                    -- transcript so far
  rand   : DWord                        -- randomness behind its encapsulation key
deriving DecidableEq, Repr

/-- An open session (R454, R455). -/
structure Sess where
  sid   : Nat
  slot  : Nat
  role  : Nat                           -- 0 operator, 1 custodian, 2 debug
  key   : List Byte
  ctr   : Option Nat := none            -- highest counter accepted
  fails : Nat := 0                      -- discarded COMMANDs
  heard : Nat := 0                      -- `now` at the last message
deriving DecidableEq, Repr

/-- An enrolled key slot (R453). -/
structure KeySlot where
  key   : List Byte
  roles : Nat
deriving DecidableEq, Repr

/-- A request for a quote, certificate or log written to QUOTE_DST (R452). -/
structure QuoteReq where
  kind  : Nat
  dst   : Nat
  nonce : List Byte
deriving DecidableEq, Repr

/-- The management and security block. -/
structure Mgmt where
  sealed    : Bool := false
  keys      : Sparse KeySlot := []
  shakes    : List Shake := []
  sessions  : List Sess := []
  slotA     : Sparse Byte := []         -- firmware slots in management flash: bytes that differ from those shipped
  slotB     : Sparse Byte := []
  active    : Nat := 0                  -- slot named by the boot record, whose bundle runs
  floor     : Nat := 0                  -- blown fuses of the SVN thermometer
  config    : Option (List Word) := none  -- configuration record: the RWL fields (assumption 107)
  log       : List (List Byte) := []    -- measurement log entries
  digest    : List Byte := List.replicate 32 0
  stagedOk  : Bool := false             -- the inactive slot holds a staged bundle
  staging   : Bool := false             -- FW_VERIFY runs
  recovery  : Bool := false             -- a bundle on TCP port 5152 is accepted (R443, R445)
  restarted : Bool := false             -- a recovery bundle was accepted: the controller runs again from step 2
  health    : Bool := false             -- HEALTH_N is asserted (R508)
  quotes    : List QuoteReq := []       -- the one running, then those that wait
deriving DecidableEq, Repr

end Sys2Proof.Machine
end

