-- ==== Sys2Proof/Machine/PlatformState.lean ====
section
/-!
DEFINITION. The state of the Afterglow recorder, power, boot and sessions (chapters 12, 14 and 15).
-/
namespace Sys2Proof.Machine

/-- An Afterglow record (Table 15.1). Its number is its key. -/
structure AgRec where
  code     : Nat
  lost     : Bool := false        -- LOST_BEFORE
  unlocked : Bool := false
  gt       : Nat := 0
  p        : List Nat := []       -- P0 to P3
  payload  : List Word := []      -- of a snapshot record
deriving DecidableEq, Repr

/-- A capture that a trigger asked for (R471). -/
structure Cap where
  trig : Nat
  page : Nat
  bit  : Nat
  set  : Nat
  gt   : Nat
  unlocked : Bool := false             -- before the first lock
deriving DecidableEq, Repr

/-- The Afterglow recorder (R465 to R474). -/
structure Ag where
  next     : Nat := 0
  circ     : Sparse AgRec := []   -- slot n mod 16,384
  circN    : Sparse Nat := []     -- slot ↦ record number it holds
  kept     : Sparse AgRec := []
  keptPend : List Nat := []       -- records below 4,096 not yet in flash
  caps     : List Cap := []       -- pending captures, oldest first
  lost     : Bool := false        -- a record was dropped since the last one written
  trigs    : Sparse Word := []    -- TRIG_DATA of each trigger
  sets     : Sparse Word := []    -- SET_DATA, key set × 128 + entry
  clearing : Bool := false
  clearReq : List Nat := []       -- clears that wait for the erase in progress: key slots
  saved    : Nat := 0             -- next record number as saved in flash
  shown    : List Byte := []      -- the record that AG_DATA shows, latched (R474)
deriving DecidableEq, Repr

end Sys2Proof.Machine
end

