-- ==== Sys2Proof/Machine/RayState.lean ====
section
/-!
DEFINITION. The state of the Ray ports, streams, slot table, collectives and management channel (chapter 10).
-/
namespace Sys2Proof.Machine

/-- A frame waiting at a port: the frame without its link fields, and its class. -/
structure TxItem where
  frame : RayFrame
  pool  : Nat                       -- 0 to 69; 127 for CTRL and AUDIT
  hold  : Option (Nat × Nat × Nat) := none   -- a forwarded frame: port, pool and units it occupies until sent
  coll  : Bool := false                      -- a frame of a collective record of this module (R340)
deriving DecidableEq, Repr

/-- A Ray port (R312 to R322). SEQ, ACK and the credit returns are put on a frame when it is sent. -/
structure Port where
  txSeq   : Nat := 0                -- SEQ of the next new frame
  rxSeq   : Nat := 4095             -- last SEQ received good
  ackDue  : Bool := false
  nakDue  : Bool := false
  resend  : List RayFrame := []     -- frames to send again after a NAK, in order
  unacked : List RayFrame := []     -- replay buffer, oldest first
  taken   : List TxItem := []       -- the twin's unacknowledged frames, sent before any new frame (R335)
  txq     : List TxItem := []       -- frames waiting, oldest first
  ctrlAt  : Option Nat := none      -- Gnomon count at the last CTRL frame sent (R338)
  credits : Sparse Nat := []        -- held, per pool of the peer
  txAlloc : Sparse Nat := []        -- the peer's allocation
  rxAlloc : Sparse Nat := []        -- this port's allocation
  occ     : Sparse Nat := []        -- units occupied per pool
  freed   : Sparse Nat := []        -- units freed and not yet returned
  rRecv   : Nat := 0                -- R: units ever received in returns
  rSent   : Nat := 0                -- Rr: units ever placed in returns
  early   : List RayFrame := []     -- frames of steps S + 2 or later, in their pools (R332)
  replays : Nat := 0                -- replays within the current frame
  slotUsed : Nat := 0               -- owner payload bytes sent in the current slot
  twinUsed : Nat := 0               -- the same for the twin's entry that this port serves
  glintUsed : Nat := 0              -- Glint wire bytes sent in the current slot
  slotAt  : Nat := 0                -- slot those counts belong to
  needSync : Bool := false          -- SYNC is due: no frame that occupies units starts (R322)
  granted : Bool := false           -- this end has sent its grants
  gotGrant : Bool := false          -- the peer's grants have come
  again   : Bool := false           -- a retrain is in progress, not a first training
deriving DecidableEq, Repr

/-- A stream record (Table 10.7). -/
structure Stream where
  from_   : Nat
  inDir   : Nat
  inStream : Nat
  srcTile : Nat
  dmaQ    : Nat
  dstMod  : Nat
  dstTile : Nat
  coll    : Nat
  deliver : Bool
  outPort : Nat
  outQueue : Nat
  outStream : Nat
  bytes   : Nat
deriving DecidableEq, Repr

/-- A COLL record (Table 10.10). -/
structure Coll where
  nb     : Nat
  frame  : Nat
  queue  : Nat
  waitCk : Option (Nat × Nat)
  add    : Bool
  dead   : Bool
  src    : Nat
  dst    : Nat
  len    : Nat
  dstMod : Nat
  dstCk  : Option Nat
  dstCc  : Option (Nat × Nat)       -- logical tile, counter
deriving DecidableEq, Repr

/-- One half of the slot table with the image's SLOTS data that goes with it (R324, R326). -/
structure SlotHalf where
  cycle   : Nat := 0
  entries : Sparse Word := []       -- p × 32,768 + c × 128 + k
  pools   : Sparse Nat := []        -- p × 64 + q ↦ units
  streams : List Stream := []
  colls   : List Coll := []
deriving DecidableEq, Repr

/-- A management request of this module that waits for its reply (R165, R217, R426). -/
inductive MgmtWant where
  | unit (id mod : Nat)                 -- a member module's part of a compound access (R165)
  | repair (entry src : Nat)
  | partner (reg : Nat)                 -- register 0 to 2 of the partner (R426)
  | head (slot : Nat)                   -- header of a partner slot (R429)
  | restore (off : Nat)                 -- a piece of the snapshot being restored
deriving DecidableEq, Repr

structure MgmtReq where
  tag  : Nat
  dst  : Nat                        -- physical module
  want : MgmtWant
  at_  : Nat := 0                   -- next address, or bytes that have come, of a memory fetch
  left : Nat := 0                   -- bytes still to come
deriving DecidableEq, Repr

/-- The fabric as one module holds it. -/
structure Ray where
  ports   : Sparse Port := []
  map     : Option (List Nat) := none      -- module map in force: physical number by logical number
  staged  : Option (List Nat) := none
  half    : Nat := 0                       -- half in use
  halves  : Sparse SlotHalf := []
  ck      : Sparse Nat := []               -- collective counters
  collPos : Sparse Nat := []               -- records that each collective queue has started since the image came into force
  collPass : Nat := 0                      -- body passes whose records may start: none before the verdict it follows (R340)
  collAt  : Sparse Nat := []               -- S of the begun frames that records of the passes in progress name, by frame
  xTx     : Sparse Nat := []               -- next XSEQ sent, by direction × 65,536 + stream or class
  xRx     : Sparse Nat := []               -- next XSEQ accepted
  routes  : List Nat := []                 -- ports that carry no unscheduled frames before the next frame boundary (R335)
  dead    : List Nat := []                 -- modules that were DEAD when the route table was last loaded (R334, R337)
  waiting : List (RayFrame × Option (Nat × Nat × Nat)) := []   -- unscheduled frames whose way is closed (R337)
  reqs    : List MgmtReq := []
  nextTag : Nat := 0
deriving DecidableEq, Repr

end Sys2Proof.Machine
end

