-- ==== Sys2Proof/Machine/RiskState.lean ====
section
/-!
DEFINITION. The state of power, thermal, Penumbra, Eclipse holds and sparing (chapters 12 and 13).
-/
namespace Sys2Proof.Machine

/-- One entry of the site map (R27, R30). -/
structure SiteEnt where
  tile   : Nat
  st     : Nat                  -- Table 2.2
  router : Bool := false        -- ROUTER_FAULT
deriving DecidableEq, Repr


/-- What Dimmer has learned of a tile in a phase (R397). -/
structure DimTile where
  fL   : Nat
  m    : Option Int := none            -- smallest margin of the occurrence in progress
  good : Bool := false                 -- the occurrence before ended with m ≥ SLACK_TGT
deriving DecidableEq, Repr

/-- An entry of the learned table (R397, R398). -/
structure DimEnt where
  image  : Nat                         -- IMAGE_ID
  phase  : Nat
  tiles  : Sparse DimTile := []        -- by logical tile
  power  : Sparse Nat := []            -- P_L by domain, in mW
  basis  : Sparse Nat := []            -- Σ f·V² of a tile domain when P_L was learned
  known  : Bool := false               -- a measurement has replaced the initial P_L
deriving DecidableEq, Repr

/-- A Spotlight grant that has not been acknowledged (R401). -/
structure Grant where
  port   : Nat
  gseq   : Nat
  tokens : Nat
deriving DecidableEq, Repr

/-- Input monitor, Dusk, Dimmer and Spotlight. -/
structure Power where
  vin     : Option Nat := none         -- the last sample of the input, 10 mV
  powers  : List Nat := []             -- input power of the last 10,000 samples in 0.1 mW, newest first
  below36 : Bool := false              -- the input's levels behind the 200 ns filter
  below37 : Bool := false
  above44 : Bool := false
  dipLen  : Nat := 0                   -- samples of the current excursion below 36.0 V
  okRun   : Nat := 0                   -- consecutive samples above 37.0 V
  duskAt  : Nat := 0                   -- `now` at which Dusk began
  duskUs  : Nat := 0                   -- gt in Dusk over earlier entries
  off     : Bool := true               -- power-on has not run to its end, or the module has left service
  table   : List DimEnt := []          -- from the least to the most recently used
  phase   : Option Nat := none         -- phase of the occurrence in progress
  clear   : Bool := false              -- LEARN_CLEAR waits for the next phase boundary
  caps    : Sparse Nat := []           -- thermal cap per region, MHz
  low     : Nat := 0                   -- frames of this Spotlight period with a low margin or LATE
  lowLast : Nat := 0                   -- of the period before
  lowNow  : Bool := false              -- a low margin or LATE in the frame in progress
  need    : Nat := 0                   -- N of the DEMAND sent in this period
  demandAt : Option Nat := none        -- period in which DEMAND was sent
  gseq    : Nat := 0
  grants  : List Grant := []
  demands : Sparse SpotMsg := []       -- by port, of this period
  granted : Bool := false              -- this period's GRANT is sent
  kids    : Sparse SpotMsg := []       -- children's REPORTs, by port
  auditAt : Option Nat := none         -- audit period whose own REPORT was made
  own     : Option SpotMsg := none     -- this module's own REPORT of the audit period in progress
deriving DecidableEq, Repr

/-- Sensors and Halo (R403 to R406). Sensor n is die × 64 + region. -/
structure Therm where
  raw     : Sparse Int := []
  halo    : Sparse Int := []           -- formed estimates, 0.25 °C
  ctl     : Sparse Int := []           -- control temperatures
  overs   : Sparse Nat := []           -- consecutive samples with Halo 6 °C above the reading
  suspect : List Nat := []
  fused   : List Nat := []             -- suspect sensors recorded in the soft fuses
  lost    : List Nat := []             -- regions without an estimate
  hot     : Sparse Nat := []           -- consecutive samples of a region at 103 °C or above
  cool    : Nat := 0                   -- consecutive samples with every region below 95 °C
  coolBad : Nat := 0                   -- consecutive samples of the coolant outside R407
  ticks   : Nat := 0                   -- samples since the last cap step
deriving DecidableEq, Repr

/-- A snapshot in progress (R424, R425). -/
structure SnapJob where
  slot   : Nat
  no     : Nat                         -- its HOLD_NO
  step   : Nat
  later  : List (Nat × Nat × Nat)      -- ranges of SLOW blocks still to copy: source, destination, bytes
  bytes  : Nat
deriving DecidableEq, Repr

/-- A COMPLETE snapshot that the module can obtain (R429): its step and body length, and where it lies: own slots 0 and 1,
the partner's as 2 and 3, storage slot k as 4 + k. -/
structure Cand where
  step   : Nat
  bytes  : Nat
  place  : Nat
deriving DecidableEq, Repr

/-- The partner whose SNAP_BASE_LO, SNAP_BASE_HI and SNAP_SLOT are read (R426, R429). -/
structure Partner where
  phys    : Nat
  restore : Bool                       -- for a restore; else for a drain
  regs    : Sparse Word := []          -- 0 to 2: the answers that have come
deriving DecidableEq, Repr

/-- Penumbra and Eclipse holds. -/
structure Pen where
  raw     : Sparse Nat := []           -- events since the last sample, by input
  win     : Sparse (List Nat) := []    -- buckets of 4,096 frames, newest first
  sampleAt : Option Nat := none        -- frame of the last sample
  x       : Sparse Nat := []           -- x_i in 1/61,440
  missed  : Sparse Nat := []           -- samples in a row without an answer
  cause   : Nat := 0                   -- this module's hold requests (Table 13.6)
  kids    : Sparse PenumbraMsg := []   -- children's REPORTs since the last sample, by port
  ready   : Sparse PenumbraMsg := []   -- children's READYs, by port
  fh      : Option Nat := none         -- F_h of the hold ordered, or K + 1 of the restore hold
  ordNo   : Nat := 0                   -- its HOLD_NO
  nextNo  : Nat := 0                   -- next HOLD_NO of the job
  holdAt  : Nat := 0                   -- `now` at which the module became quiet
  duskIn  : Nat := 0                   -- gt of Dusk since then
  planUs  : Nat := 0                   -- largest T_US received
  restore : Bool := false              -- the gap ordered is a restore hold
  target  : Nat := 0                   -- its STEP
  lastEnd : Option Nat := none         -- frame at which the last hold ended
  causes  : Nat := 0                   -- causes that the hold in progress serves
  snapOk  : Bool := false              -- the snapshot region is valid
  snap    : Option SnapJob := none
  draining : Option Nat := none        -- own slot being drained
  storing : Bool := false              -- a drain to storage is in progress
  partner : Option Partner := none
  failed  : Bool := false              -- FAIL of this module
  cands   : List Cand := []            -- snapshots found at the partner and in storage
  sought  : Bool := false              -- the search there has begun
  pick    : Option Cand := none        -- the snapshot being restored
  buf     : Sparse (List PByte) := []  -- what has come of it, by offset in its slot
  served  : List Nat := []             -- DEAD ports that a restore has dealt with
deriving DecidableEq, Repr

/-- A self-test in progress, for a bare test or as the first step of a re-admission (R437). -/
structure SelfTest where
  sites   : List Nat
  readmit : Bool
  row     : Bool
  back    : List Nat := []              -- those that were SPARE
deriving DecidableEq, Repr

/-- Sparing (R432 to R440). -/
structure Sparing where
  staged  : Option (Sparse SiteEnt) := none
  toOpen  : List Nat := []             -- rows retired in the staged map: their tile switch opens after the switch
  test    : Option SelfTest := none
  waiting : List (Nat × Nat × Bool) := []  -- sites that change state at the next frame boundary, the state, and whether a
                                       -- re-admission is complete with it (READMITTED)
  faces   : List Nat := []             -- slices whose face returns to service at the next frame boundary
  mapDown : List Nat := []             -- slices out of service when the map in force was applied (R226)
  tuned   : Nat := 0                   -- the model's own: names the last tuning of the couplers' lanes (R230)
  tunedAt : Nat := 0                   -- and its time
  opened  : List Nat := []             -- rows whose tile switch is open, or whose domain is lost
  low     : List Nat := []             -- budgets whose share has reached 3/4
  gone    : List Nat := []             -- budgets exhausted
  spent   : Bool := false              -- a unit failed whose budget is exhausted (Table 13.2)
deriving DecidableEq, Repr

end Sys2Proof.Machine
end

