-- ==== Sys2Proof/Machine/Float.lean ====
section
/-!
DEFINITION. The number formats, the rounding functions and the arithmetic of chapter 3.

Every finite value is exact: a sign, a natural magnitude and a power of two. Operations are computed exactly and
narrowed once, so each rounding of the manual is one visible call.
-/
namespace Sys2Proof.Machine

/-- A decoded value: NaN, an infinity, or (-1)^neg × mag × 2^ex exactly (R76). -/
inductive FVal where
  | nan
  | inf (neg : Bool)
  | fin (neg : Bool) (mag : Nat) (ex : Int)
deriving DecidableEq, Repr

/-- A stored format of Table 3.1: `maxCode` is the code of the largest finite magnitude, `infCode` that of infinity. -/
structure FFmt where
  bits    : Nat
  frac    : Nat
  bias    : Nat
  maxCode : Nat
  infCode : Option Nat
  nanCode : Nat
deriving DecidableEq, Repr

def fp32 : FFmt := ⟨32, 23, 127, 0x7F7FFFFF, some 0x7F800000, 0x7FC00000⟩
def f16w : FFmt := ⟨16, 7, 127, 0x7F7F, some 0x7F80, 0x7FC0⟩
def f8f : FFmt := ⟨8, 3, 7, 0x7E, none, 0x7F⟩
def f8b : FFmt := ⟨8, 2, 15, 0x7B, some 0x7C, 0x7E⟩
def a20 : FFmt := ⟨20, 11, 127, 0x7F7FF, some 0x7F800, 0x7FC00⟩

/-- The format of a format code of R38; none for BS8 and the reserved codes. -/
def fmtOfCode : Nat → Option FFmt
  | 0 => some fp32
  | 1 => some f16w
  | 2 => some f8f
  | 3 => some f8b
  | _ => none

def FVal.zero : FVal := .fin false 0 0

def FVal.isNaN : FVal → Bool
  | .nan => true
  | _ => false

def FVal.isFinite : FVal → Bool
  | .fin _ _ _ => true
  | _ => false

def FVal.isZero : FVal → Bool
  | .fin _ m _ => m == 0
  | _ => false

def FVal.isInf : FVal → Bool
  | .inf _ => true
  | _ => false

/-- The sign of a value; a NaN counts as positive. -/
def FVal.sign : FVal → Bool
  | .nan => false
  | .inf n => n
  | .fin n _ _ => n

/-- The value of an encoding of a format (R76, R77). -/
def decodeF (f : FFmt) (code : Nat) : FVal :=
  let neg := Nat.testBit code (f.bits - 1)
  let c := code % 2 ^ (f.bits - 1)
  let e := c / 2 ^ f.frac
  let m := c % 2 ^ f.frac
  if c > f.maxCode then
    if f.infCode == some c then .inf neg else .nan
  else if e == 0 then .fin neg m (1 - (f.bias : Int) - f.frac)
  else .fin neg (m + 2 ^ f.frac) ((e : Int) - f.bias - f.frac)

/-- floor(log2) of a nonzero magnitude. -/
def log2Of (m : Nat) (e : Int) : Int := (Nat.log2 m : Int) + e

/-- How a value is rounded: to nearest even, or stochastically with a 16-bit random value (R79). -/
inductive Rnd where
  | rne
  | srnd (r : Nat)
deriving DecidableEq, Repr

/-- The magnitude code of the rounded value, possibly beyond the largest finite one (R79). -/
def roundCode (f : FFmt) (rm : Rnd) (m : Nat) (e : Int) : Nat :=
  if m == 0 then 0 else
  let ex := max (log2Of m e) (1 - (f.bias : Int))
  let qe := ex - f.frac
  let n := if e ≥ qe then m * 2 ^ (e - qe).toNat else m / 2 ^ (qe - e).toNat
  let k := if e ≥ qe then 0 else (qe - e).toNat
  let rem := if e ≥ qe then 0 else m % 2 ^ k
  let up := match rm with
    | .rne => rem * 2 > 2 ^ k || (rem * 2 == 2 ^ k && k != 0 && n % 2 == 1)
    | .srnd r => rem * 65536 / 2 ^ k > r
  (ex + f.bias - 1).toNat * 2 ^ f.frac + n + (if up then 1 else 0)

def withSign (f : FFmt) (neg : Bool) (code : Nat) : Nat := if neg then code + 2 ^ (f.bits - 1) else code

/-- round32 of R80: an overflow gives an infinity. -/
def round32 : FVal → Word
  | .nan => 0x7FC00000
  | .inf n => if n then 0xFF800000 else 0x7F800000
  | .fin n m e =>
    let c := roundCode fp32 .rne m e
    BitVec.ofNat 32 (withSign fp32 n (if c > fp32.maxCode then 0x7F800000 else c))

/-- sat of R80 with the special values of Table 3.2: the encoding, and whether a saturation is reported. -/
def satF (f : FFmt) (rm : Rnd) : FVal → Nat × Bool
  | .nan => (f.nanCode, false)
  | .inf n => match f.infCode with
    | some c => (withSign f n c, false)
    | none => (f.nanCode, false)
  | .fin n m e =>
    let c := roundCode f rm m e
    if c > f.maxCode then (withSign f n f.maxCode, true) else (withSign f n c, false)

/-- sat32 of R80. -/
def sat32 (v : FVal) : Word × Bool :=
  let r := satF fp32 .rne v
  (BitVec.ofNat 32 r.1, r.2)

def decode32 (w : Word) : FVal := decodeF fp32 w.toNat

def FVal.neg : FVal → FVal
  | .nan => .nan
  | .inf n => .inf (!n)
  | .fin n m e => .fin (!n) m e

/-- The signed integer of a finite value on the grid 2^g, for g at most its exponent. -/
def onGrid (neg : Bool) (m : Nat) (e g : Int) : Int :=
  let x : Int := (m : Int) * (2 : Int) ^ (e - g).toNat
  if neg then -x else x

/-- The exact sum (R81): the sum of opposite zeros, and of opposite equal values, is +0. -/
def FVal.add : FVal → FVal → FVal
  | .nan, _ => .nan
  | _, .nan => .nan
  | .inf a, .inf b => if a == b then .inf a else .nan
  | .inf a, _ => .inf a
  | _, .inf b => .inf b
  | .fin n1 m1 e1, .fin n2 m2 e2 =>
    if m1 == 0 && m2 == 0 then .fin (n1 && n2) 0 0 else
    let g := if m1 == 0 then e2 else if m2 == 0 then e1 else min e1 e2
    let s := (if m1 == 0 then 0 else onGrid n1 m1 e1 g) + (if m2 == 0 then 0 else onGrid n2 m2 e2 g)
    .fin (s < 0) s.natAbs g

/-- The exact product (R81). -/
def FVal.mul : FVal → FVal → FVal
  | .nan, _ => .nan
  | _, .nan => .nan
  | .inf a, .inf b => .inf (a != b)
  | .inf a, .fin b m _ => if m == 0 then .nan else .inf (a != b)
  | .fin b m _, .inf a => if m == 0 then .nan else .inf (a != b)
  | .fin n1 m1 e1, .fin n2 m2 e2 => .fin (n1 != n2) (m1 * m2) (e1 + e2)

/-- The value times 2^k, exactly. -/
def FVal.scale (k : Int) : FVal → FVal
  | .fin n m e => .fin n m (e + k)
  | v => v

/-- IEEE 754 order of two finite or infinite values: a < b; false with a NaN (R516). -/
def FVal.lt : FVal → FVal → Bool
  | .nan, _ => false
  | _, .nan => false
  | .inf a, .inf b => a && !b
  | .inf a, _ => a
  | _, .inf b => !b
  | .fin n1 m1 e1, .fin n2 m2 e2 =>
    let g := min e1 e2
    onGrid n1 m1 e1 g < onGrid n2 m2 e2 g

/-- IEEE 754 equality; false with a NaN (R516). -/
def FVal.eq : FVal → FVal → Bool
  | .nan, _ => false
  | _, .nan => false
  | .inf a, .inf b => a == b
  | .fin n1 m1 e1, .fin n2 m2 e2 =>
    let g := min e1 e2
    onGrid n1 m1 e1 g == onGrid n2 m2 e2 g
  | _, _ => false

/-- |a| ≤ |b| of finite values. -/
def magLe (m1 : Nat) (e1 : Int) (m2 : Nat) (e2 : Int) : Bool :=
  let g := min e1 e2
  m1 * 2 ^ (e1 - g).toNat ≤ m2 * 2 ^ (e2 - g).toNat

/-! FP32 operations on stored words: the vector unit and Mirror (R61, R82, R196, R516), and sat32 adds (R100). -/

def canonical32 (w : Word) : Word := if (decode32 w).isNaN then 0x7FC00000 else w

def fpAdd (a b : Word) : Word := round32 ((decode32 a).add (decode32 b))
def fpMul (a b : Word) : Word := round32 ((decode32 a).mul (decode32 b))
def fpFma (a b c : Word) : Word := round32 (((decode32 a).mul (decode32 b)).add (decode32 c))

/-- The reduce-add of R100: sat32 of the sum, and whether it saturated. -/
def satAdd32 (a b : Word) : Word × Bool := sat32 ((decode32 a).add (decode32 b))

/-- `a` is ordered at or below `b`, with −0 below +0 (R82); neither is a NaN. -/
def leSigned (a b : Word) : Bool :=
  let x := decode32 a
  let y := decode32 b
  x.lt y || (x.eq y && (x.sign || !y.sign))

/-- MIN and MAX of R82. -/
def fpMin (a b : Word) : Word :=
  if (decode32 a).isNaN || (decode32 b).isNaN then 0x7FC00000 else if leSigned a b then a else b

def fpMax (a b : Word) : Word :=
  if (decode32 a).isNaN || (decode32 b).isNaN then 0x7FC00000 else if leSigned a b then b else a

/-- CMPLT of R516. -/
def fpCmplt (a b : Word) : Word := if (decode32 a).lt (decode32 b) then 0x3F800000 else 0

/-- SEL of R516: c ≠ +0.0 selects a, and a NaN is written canonical. -/
def fpSel (a b c : Word) : Word := canonical32 (if (decode32 c).isZero then b else a)

/-- ABS of R516. -/
def fpAbs (a : Word) : Word := if (decode32 a).isNaN then 0x7FC00000 else a &&& 0x7FFFFFFF

/-- The FP32 encoding of an integer that FP32 holds exactly. -/
def int32 (i : Int) : Word := round32 (.fin (i < 0) i.natAbs 0)

/-- EXPSPLIT of R62: the fraction in [1, 2) and the unbiased exponent. -/
def fpExpsplit (a : Word) : Word × Word :=
  match decode32 a with
  | .nan => (0x7FC00000, 0x7FC00000)
  | .inf _ => (a, 0x7F800000)
  | .fin n m e =>
    if m == 0 then (a, 0)
    else (round32 (.fin n m (-(Nat.log2 m : Int))), int32 (log2Of m e))

/-- floor of a finite value. -/
def floorInt (neg : Bool) (m : Nat) (e : Int) : Int :=
  let x : Int := if neg then -(m : Int) else m
  if e ≥ 0 then x * (2 : Int) ^ e.toNat else Int.fdiv x ((2 : Int) ^ (-e).toNat)

/-- LDEXP of R62: a × 2^floor(b) with its special values. -/
def fpLdexp (a b : Word) : Word :=
  match decode32 a, decode32 b with
  | .nan, _ => 0x7FC00000
  | _, .nan => 0x7FC00000
  | .inf _, .inf nb => if nb then 0x7FC00000 else a
  | .inf _, .fin _ _ _ => a
  | .fin n m _, .inf nb =>
    if nb then (if n then 0x80000000 else 0)
    else if m == 0 then 0x7FC00000 else round32 (.inf n)
  | .fin n m e, .fin nb mb eb =>
    let k := max (-300) (min 300 (if eb > 40 && mb ≠ 0 then (if nb then -300 else 300) else floorInt nb mb eb))
    round32 (.fin n m (e + k))

/-- Correctly rounded FP32 division (R196): quotient with a sticky bit below its 64 leading bits. -/
def fpDiv (a b : Word) : Word :=
  match decode32 a, decode32 b with
  | .nan, _ => 0x7FC00000
  | _, .nan => 0x7FC00000
  | .inf _, .inf _ => 0x7FC00000
  | .inf n, .fin nb _ _ => round32 (.inf (n != nb))
  | .fin n _ _, .inf nb => if n != nb then 0x80000000 else 0
  | .fin n m e, .fin nb mb eb =>
    if mb == 0 then (if m == 0 then 0x7FC00000 else round32 (.inf (n != nb)))
    else
      let num := m * 2 ^ 96
      let q := num / mb
      let st : Nat := if num % mb == 0 then 0 else 1
      round32 (.fin (n != nb) (2 * q + st) (e - eb - 97))

/-- Integer square root by bits from 2^(k-1) down. -/
def isqrtAux (n : Nat) : Nat → Nat → Nat
  | 0, r => r
  | k + 1, r => let c := r + 2 ^ k; isqrtAux n k (if c * c ≤ n then c else r)

/-- Correctly rounded FP32 square root (R196). -/
def fpSqrt (a : Word) : Word :=
  match decode32 a with
  | .nan => 0x7FC00000
  | .inf n => if n then 0x7FC00000 else a
  | .fin n m e =>
    if m == 0 then a else if n then 0x7FC00000 else
    let odd : Nat := if e % 2 == 0 then 0 else 1
    let x := m * 2 ^ (odd + 64)
    let r := isqrtAux x 60 0
    let st : Nat := if r * r == x then 0 else 1
    round32 (.fin false (2 * r + st) ((e - (odd : Int) - 64) / 2 - 1))

/-! Block scales and conversions (R78, R83 to R86). -/

/-- The value of an 8-bit or F16W element with its scale exponent byte; 0xFF makes it NaN (R78). -/
def scaledElem (f : FFmt) (code scale : Nat) : FVal :=
  if f.bits == 8 then
    if scale == 0xFF then .nan else (decodeF f code).scale ((scale : Int) - 127)
  else decodeF f code

/-- The largest magnitude of the finite values of a block; 0 if there is none. -/
def amax (vs : List FVal) : Nat × Int :=
  vs.foldl (fun a v => match v with
    | .fin _ m e => if magLe m e a.1 a.2 then a else (m, e)
    | _ => a) (0, 0)

/-- MAXF and EMAXF of R83, as an integer and an exponent. -/
def maxF (f : FFmt) : Nat := if f.frac == 3 then 448 else 57344
def emaxF (f : FFmt) : Int := if f.frac == 3 then 8 else 15

/-- The block scale exponent s of R83. -/
def blockScale (f : FFmt) (vs : List FVal) : Int :=
  let (m, e) := amax vs
  if m == 0 then 0 else
  let s := log2Of m e - emaxF f
  let s := if magLe m e (maxF f) s then s else s + 1
  min (max s (-127)) 127

/-- The Spectrum kind of one conversion (Table 3.2). -/
inductive SpecKind where
  | none
  | zero
  | sat
  | nonfinite
deriving DecidableEq, Repr

/-- Converts one value to a stored format: the code and its Spectrum event (R84). -/
def convElem (f : FFmt) (rm : Rnd) (v : FVal) : Nat × SpecKind :=
  let r := satF f rm v
  let k := if !v.isFinite then SpecKind.nonfinite
    else if r.2 then .sat
    else if r.1 % 2 ^ (f.bits - 1) == 0 then .zero else .none
  (r.1, k)

/-- Narrows a block of up to 32 values to F8F or F8B: the scale byte, the codes and the events (R83). -/
def convBlock (f : FFmt) (vs : List (FVal × Rnd)) : Nat × List (Nat × SpecKind) :=
  let s := blockScale f (vs.map (·.1))
  ((s + 127).toNat, vs.map fun (v, rm) => convElem f rm (v.scale (-s)))

/-! The A20 accumulation (R92, R93). -/

/-- The A20 value of one block for one output element, and whether sat reported a saturation (R92). -/
def a20Block (ab : List (FVal × FVal)) (osh : Nat) : FVal × Bool :=
  let ps := ab.map fun (a, b) => a.mul b
  if ps.any FVal.isNaN then (.nan, false)
  else if ps.any (fun p => p.isInf && p.sign) && ps.any (fun p => p.isInf && !p.sign) then (.nan, false)
  else if ps.any (fun p => p.isInf && p.sign) then (.inf true, false)
  else if ps.any FVal.isInf then (.inf false, false)
  else
    let qs := ps.map (FVal.scale (-(osh : Int)))
    let emax := qs.foldl (fun a p => match p with
      | .fin _ m e => if m == 0 then a else match a with
        | none => some (log2Of m e)
        | some x => some (max x (log2Of m e))
      | _ => a) (none : Option Int)
    match emax with
    | none => (FVal.zero, false)
    | some emax =>
      let u := emax - 26
      let t := qs.foldl (fun t p => match p with
        | .fin n m e =>
          let x : Nat := if e ≥ u then m * 2 ^ (e - u).toNat else m / 2 ^ (u - e).toNat
          if n then t - (x : Int) else t + (x : Int)
        | _ => t) (0 : Int)
      if t == 0 then (FVal.zero, false)
      else
        let r := satF a20 .rne (.fin (t < 0) t.natAbs u)
        (decodeF a20 r.1, r.2)

/-- The promotion of one A20 value into an accumulator element (R93): the new word and whether sat32 saturated. -/
def promote (acc : Word) (v : FVal) : Word × Bool := sat32 ((decode32 acc).add v)

/-! The random bits of stochastic rounding (R91). -/

def mix64 (z : DWord) : DWord :=
  let z := (z ^^^ (z >>> 32)) * 0x5E2DA7C391F46B3D#64
  let z := (z ^^^ (z >>> 29)) * 0xA9C41E6F7B38D205#64
  z ^^^ (z >>> 32)

def srbits (seed tensor step index : Nat) : Nat :=
  let k := mix64 (BitVec.ofNat 64 seed + BitVec.ofNat 64 tensor * 0x6C1A53E9B07D24F5#64)
  let k := mix64 (k ^^^ BitVec.ofNat 64 step)
  let z := mix64 (k + BitVec.ofNat 64 index * 0x8F1BC35A2D47E691#64)
  z.toNat % 65536

end Sys2Proof.Machine
end

