-- ==== Sys2Proof/Machine/TileState.lean ====
section
/-!
DEFINITION. The state of one tile site (chapters 2, 3, 4, 7 and 9).

Values that a page register shows and that nothing else computes from (LATE_COUNT, FREQ_MEAS and the like) live in the
register store; this file holds the rest: memories, queues, and records of work in progress.
-/
namespace Sys2Proof.Machine

/-- One accumulator index: 32 × 32 FP32 values, output shift and saturation bits (R94, R95). -/
structure Acc where
  vals : List Word := List.replicate 1024 0
  osh  : Nat := 0
  sat  : List Nat := []        -- elements whose saturation bit is set, ascending
  bad  : List Nat := []        -- elements whose stored parity is wrong (R71)
deriving DecidableEq, Repr

/-- A cleared index: +0.0 with output shift 0 and no saturation bit (R94). -/
def Acc.zero : Acc := {}

/-- An MMA or MMAZ with RESCALE whose decision is not final (R96). -/
structure Rescale where
  acc     : Nat
  word    : BitVec 128
  entry   : Acc                -- contents at entry; for MMAZ +0.0 with OSH 0
  retries : Nat := 0
  retry   : Bool := false      -- a retry has been decided and has not run
  reads   : List (Nat × Nat) := []   -- operand regions, held until the decision is final (R52)
  icount  : Nat := 0           -- number of the instruction since its RPOINT (R71)
deriving DecidableEq, Repr

/-- A completion or credit counter with its speculative part (R208). -/
structure Counter where
  base   : Nat := 0
  spec   : Nat := 0
  borrow : Nat := 0
deriving DecidableEq, Repr

/-- An endpoint of a descriptor (Table 2.10). -/
inductive Endpoint where
  | device (addr : Nat)
  | tile (t off : Nat)
  | remote (m t off : Nat)
deriving DecidableEq, Repr

/-- A DMA descriptor in a queue (Table 2.9), with the step and earliest time its DMA instruction gave it. -/
structure Desc where
  src     : Endpoint
  dst     : Endpoint
  len     : Nat
  op      : Nat
  sclass  : Nat
  dead    : Bool
  stamp   : Bool
  nb      : Nat
  kc      : Option Nat
  ccDst   : Option Nat
  ccSrc   : Option Nat
  sstride : Nat
  dstride : Nat
  rows    : Nat                -- ROWS field: rows − 1
  unit    : Nat                -- OP = 2
  slot    : Nat                -- STAMP
  tag     : Nat := 0           -- step t of its instruction (R207)
  start   : Nat := 0           -- S(J) of the frame open when it was placed
  icount  : Nat := 0           -- number of the DMA instruction since its RPOINT (R71, R522)
  rp      : Nat := 0           -- number of that RPOINT
  again   : Bool := false      -- repeated in a replay: its own-scratch part only, with no credit or completion (R71)
  poison  : Bool := false      -- its source failed and is not replayed: every byte is sent as the pattern (R522)
deriving DecidableEq, Repr

/-- A message waiting in a mailbox slot (R297). -/
structure GMsg where
  srcMod  : Nat
  srcTile : Nat
  kc      : Nat
  slot    : List Byte          -- the 256 B of the received slot
  tag     : Nat                -- step of its GSEND (R207)
deriving DecidableEq, Repr

/-- A valid line of the read cache. -/
structure RcLine where
  line : Nat                   -- device address / 256
  data : List PByte
  bad  : List Nat := []        -- bytes whose parity is wrong (R60)
deriving DecidableEq, Repr

/-- An entry of the Spectrum buffer (R117). -/
structure SpecEntry where
  tensor : Nat
  zeros  : Nat := 0
  sats   : Nat := 0
  nonfin : Nat := 0
deriving DecidableEq, Repr

/-- Counts of effects performed once and skipped in a replay (R71, R118). -/
structure Skips where
  waitc  : Nat := 0
  credit : Nat := 0
  give   : Nat := 0
  gsend  : Nat := 0
  writes : Nat := 0
  flush  : Nat := 0
  grecv  : Nat := 0
  sats   : Nat := 0            -- norm saturations counted in ADD_SATS
deriving DecidableEq, Repr

/-- The recovery point in force (R71): where the stream stood and the position of the rounding-base stream. -/
structure RPoint where
  addr     : Nat               -- recovery record; 0 for none
  pos      : Nat
  pass     : Nat
  reentry  : Option Nat
  rbase    : Nat
deriving DecidableEq, Repr

/-- A parity error that a read met and REPLAY_START has not yet handled (R71). -/
structure ParityErr where
  off     : Nat                -- byte offset, in scratch or in accumulator memory
  offs    : List Nat           -- scratch bytes, or elements of the index, that the read found wrong
  acc     : Bool
  icount  : Nat                -- number of the instruction since the RPOINT
  dma     : Option (Nat × Nat) := none  -- RPOINT and number of the DMA instruction whose transfer met it (R522)
deriving DecidableEq, Repr

/-- A stamped prefetch (R295). -/
structure Prefetch where
  chunks : List Nat            -- source address of each 4 KiB chunk
  dst    : Nat
  len    : Nat
  cls    : Nat                 -- Shade class of its reads
  stamps : List Nat            -- one per chunk
  stale  : List Nat            -- chunks a control reset marked (R266)
deriving DecidableEq, Repr

/-- A Mirror task that has computed and not completed (R194, R198). -/
structure MirrorTask where
  prog     : Nat
  norms    : List Word := []   -- segment sums to write
  normOut  : Nat := 0
  fprints  : List (Nat × DWord) := []  -- table index, fingerprint
  tag      : Nat := 0
  reads    : List (Nat × Nat) := []    -- scratch that it reads and writes, held until it completes (R42, R198)
  writes   : List (Nat × Nat) := []
deriving DecidableEq, Repr

/-- An LDC in progress (R60, R525): its word, the elements looked up, and their bytes in list order. -/
structure LdcRun where
  word : BitVec 128
  next : Nat := 0
  got  : List (List PByte) := []
deriving DecidableEq, Repr

/-- A tile site: memories, counters, queues, and its place in the instruction stream (R25, R144, R211). -/
structure Tile where
  scratch  : Sparse Byte := []
  badScr   : List Nat := []            -- scratch bytes whose parity is wrong
  inbound  : List (Nat × Nat) := []    -- regions written by inbound transfers since the RPOINT (R73): offset, length
  acc      : Sparse Acc := []
  rescale  : List Rescale := []
  vregs    : Sparse (List Word) := []
  rcache   : Sparse RcLine := []       -- key set × 8 + way
  rctree   : Sparse Nat := []          -- key set: tree bits b1 … b7
  rcWant   : List (Nat × Nat) := []    -- lines asked for and not arrived, with their class
  ldc      : Option LdcRun := none
  cc       : Sparse Counter := []
  kc       : Sparse Counter := []
  mbox     : Sparse (List GMsg) := []
  dmaq     : Sparse (List Desc) := []
  pf       : Sparse Prefetch := []
  spectrum : List SpecEntry := []      -- oldest first
  specStep : Nat := 0                  -- step of every entry
  specDue  : List (Nat × SpecEntry) := []  -- flushes on their way to the table, with their step (R117, R120)
  rpoint   : Option RPoint := none
  rpNo     : Nat := 0                  -- RPOINTs issued so far
  icount   : Nat := 0                  -- instructions issued since the RPOINT
  started  : List Nat := []            -- DMA instructions since the RPOINT whose descriptor has started
  taken    : List (List Byte) := []    -- slots that GRECV took since the RPOINT
  done     : Skips := {}               -- performed since the RPOINT
  skip     : Skips := {}               -- left to skip in the replay
  replayTo : Option Nat := none        -- a replay runs until this instruction number
  replayed : List Nat := []            -- byte offsets whose error started the replay in progress
  redo     : Option (Nat × Nat) := none  -- RPOINT and number of the DMA instruction whose transfer is performed again (R522)
  lagTo    : Nat := 0                  -- pass in which the replay in progress began
  sendBad  : Option (Nat × Nat) := none  -- RPOINT and number of the GSEND whose message is sent as the pattern (R522)
  perr     : Option ParityErr := none
  pos      : Nat := 0                  -- next instruction: prologue, then body
  pass     : Nat := 0                  -- completed passes of the body
  reentry  : Option Nat := none        -- next instruction of the re-entry block
  frame    : Option Nat := none        -- schedule frame of the last FRAME
  rbase    : Nat := 0                  -- rounding-base entries consumed
  region   : Option Nat := none        -- open speculative region
  regioned : Bool := false             -- regions of S + 1 were opened and the verdict is pending
  decided  : Bool := false             -- the verdict of this pass's step has come
  waitVerdict : Bool := false          -- first instruction of a pass waits for the verdict (R202)
  closed   : Bool := false             -- the contribution for the step is closed (R212)
  late     : Bool := false             -- LATE raised in the current frame
  reached  : Option (Nat × Nat) := none -- schedule frame whose FRAME the tile has reached, and the count then (R45)
  mirror   : Option MirrorTask := none
  rpFails  : List Nat := []            -- frames of REPLAY_FAIL (R72)
  softRuns : List Nat := List.replicate 8 0   -- consecutive frames of each monitor below the soft threshold
  softDrop : Bool := false             -- soft margin loss steps FREQ_MEAS down at the next frame boundary (R34)
  halting  : Bool := false             -- halted by DBG_HALT
  dbgRow   : Option (Nat × Nat) := none  -- latched accumulator row
  dbgAcc   : Acc := .zero                 -- contents latched with it
deriving DecidableEq, Repr

/-- A tile site that nothing has touched since power-on. -/
def Tile.initial : Tile := {}

end Sys2Proof.Machine
end

