-- ==== Sys2Proof/Machine/ShadeState.lean ====
section
/-!
DEFINITION. The state of the Shade slices, the directory, the stack controllers and the slow tier (chapters 8 and 9).
-/
namespace Sys2Proof.Machine

/-- Line states of Table 8.3. An INVALID line is listed only where its way is reserved for it (R253). -/
inductive LineState where
  | invalid
  | fill
  | clean
  | dirty
  | dead
deriving DecidableEq, Repr

/-- A request to a slice (Table 8.4). -/
inductive SReq where
  | read (r : ShadeReq)
  | readDead (r : ShadeReq)
  | write (r : ShadeReq) (data : List PByte)
  | add (r : ShadeReq) (vals : List Word) (step : Nat)
  | merge (r : ShadeReq) (tag a b c : Nat)   -- a Spectrum flush: tag and three counts of a 32 B entry (R256)
deriving DecidableEq, Repr

/-- A line of a slice: state, pin bit, poison mask, data, and stored check bits as a difference from the valid ones. -/
structure Line where
  line   : Nat                 -- device address / 256
  set    : Nat
  way    : Nat := 0            -- way of its set: ways 4r to 4r + 3 lie in one array row (assumption 15)
  st     : LineState
  pin    : Bool := false
  poison : Nat := 0            -- bit w: code word w of 8 B
  data   : List Byte := List.replicate 256 0
  chk    : Sparse Byte := []   -- code word ↦ stored check bits XOR the valid ones
  joined : List SReq := []        -- requests that wait for the fill (R243)
deriving DecidableEq, Repr

/-- A merge buffer entry (R259): a 64 B segment, its merged data, and the code words that changed. -/
structure MergeEnt where
  seg   : Nat                  -- device address / 64
  data  : List Byte
  words : Nat                  -- bit i: code word i of the segment changed
  bad   : Bool := false        -- its own parity is wrong (R261)
deriving DecidableEq, Repr

/-- A row log entry (R262, R274): a row, and the frames of its counted corrections, oldest first. -/
structure RowEnt where
  row    : Nat
  frames : List Nat
deriving DecidableEq, Repr

/-- A Shade slice (R224). `lines` runs from the least to the most recently used. -/
structure Slice where
  lines    : List Line := []
  merge    : List MergeEnt := []       -- oldest first
  evicted  : List Nat := []            -- tags of evicted lines, newest first (R254)
  rowLog   : List RowEnt := []
  spared   : List Nat := []            -- rows replaced by spare rows
  sparing  : List Nat := []            -- rows whose sparing was requested
  parity   : Bool := false             -- parity mode (R261)
  recoding : Option Bool := none       -- some true: towards parity mode
  faulted  : Bool := false             -- merge buffer reported a fault
  lanesBad : List Nat := []            -- failed physical lanes of Table 8.1
  halfFor  : List Nat := []            -- groups at half width for want of a soft fuse, by first lane
  faceDown : Bool := false
  wset     : Nat := 0                  -- declared unpinned working set of the image in force (R251)
  waiting  : List SReq := []           -- requests held at the slice, oldest first (R243, R261)
  codes    : Sparse (Nat × Nat) := []  -- lane ↦ delay code set or last read, and the time of that (R230, R231)
deriving DecidableEq, Repr

/-- Sharers of a directory entry (R246). -/
inductive Sharers where
  | sites (l : List Nat)
  | rows (l : List Nat)
deriving DecidableEq, Repr

/-- A directory entry (R245). -/
structure DirEnt where
  line    : Nat
  sharers : Sharers := .sites []
  host    : Bool := false
  version : Nat := 0
deriving DecidableEq, Repr

/-- A directory bank (R244): entries from the least to the most recently used, and FLOOR (R247). -/
structure DirBank where
  ents  : List DirEnt := []
  floor : Nat := 0
  bad   : Bool := false                -- holds an uncorrectable error (R264)
deriving DecidableEq, Repr

/-- A die's domains (R264 to R267). -/
structure Die where
  resetting : Bool := false            -- a control reset is in progress
  lost      : Bool := false            -- the array is lost and its fill is not complete
  epoch     : Nat := 0                 -- RESET_EPOCH
  netBad    : Bool := false            -- its network holds an uncorrectable error (R264)
deriving DecidableEq, Repr

/-- A write that waits for invalidations (R246), or a slice request held for them. -/
structure HeldWrite where
  line  : Nat
  sites : List Nat
  req   : SReq
deriving DecidableEq, Repr

/-- A stack controller (R269 to R278). -/
structure Stack where
  rowLog   : List RowEnt := []
  repaired : List Nat := []            -- rows replaced: pc × 2^21 + bank × 2^16 + row
  exhausted : Bool := false            -- SPARE_EXHAUSTED was raised
  pendRow  : Option Nat := none        -- row whose replacement is in progress (R278)
  pendNext : List Nat := []            -- rows that wait for theirs
  scrubPos : Nat := 0
  raced    : List Nat := []            -- granules written since the scrubber read them (R277)
  waiting  : List (Nat × Option (List PByte) × Agent) := []   -- requests to the bank in repair, oldest first
deriving DecidableEq, Repr

/-- A residency table entry (R284). -/
structure ResEnt where
  tier     : Nat := 3
  moving   : Bool := false
  visited  : Bool := false
  slowHome : Bool := false
deriving DecidableEq, Repr

/-- A residency move in progress or waiting (R288). -/
structure Move where
  block     : Nat
  target    : Nat
  requested : Bool                      -- asked by RES_CMD or the residency command (RES_DONE)
  seq       : Option Nat := none        -- ring command that asked
  running   : Bool := false             -- in progress; up to 8 run at once
  for_      : List (Nat × Nat) := []    -- accesses whose residency fault asked for it: tile, engine (R219)
deriving DecidableEq, Repr

/-- A slow-tier request outstanding on a PCIe/CXL port (R281). -/
structure SlowReq where
  id   : Nat
  port : Nat
  addr : Nat
  len  : Nat
  data : Option (List PByte) := none    -- some for a write
  xfers : List (Nat × Nat) := []        -- transfers and rows it serves
deriving DecidableEq, Repr

/-- The answer of a Shade or stack request to the agent that sent it: what the block returns on its response lanes. -/
structure Reply where
  agent : Agent
  addr  : Nat
  data  : List PByte
  stamp : Option (Nat × Nat) := none    -- (RESET_EPOCH, VERSION) of R247
  retry : Bool := false
deriving DecidableEq, Repr

/-- Where the bytes of a transfer go. -/
inductive XDst where
  | scratch (site tile : Nat)
  | device                             -- device addresses; rows not done are slow-tier writes
  | ray (port : Nat) (f : RayFrame)    -- frames for a Ray port, built on a template
deriving DecidableEq, Repr

/-- One row of a transfer: offset or address at the destination, and its bytes once read. -/
structure XRow where
  off  : Nat
  len  : Nat
  data : List PByte := []
  src  : Option Nat := none            -- slow-tier source still outstanding
  done : Bool := false                 -- its bytes are at the destination
deriving DecidableEq, Repr

/-- A transfer whose completion has not been counted (R67, R68). -/
structure Xfer where
  id     : Nat
  site   : Nat                          -- issuing site, or 1,152 + port for one that arrived from another module
  dst    : XDst
  rows   : List XRow
  add    : Bool := false
  cls    : Nat := 0                     -- Shade class at the destination
  cc     : Option (Nat × Nat) := none   -- site and completion counter
  ccSrc  : Option Nat := none           -- completion counter of the issuing site
  tag    : Nat := 0
  again  : Bool := false                -- performed again in a replay: nothing of it counts twice (R71)
  pf     : Option (Nat × Prefetch) := none  -- destination's prefetch slot
deriving DecidableEq, Repr

/-- A Glint message in flight (R297, R299). -/
structure GFlight where
  id   : Nat
  site : Nat                            -- destination site
  mbox : Nat
  msg  : GMsg
deriving DecidableEq, Repr

end Sys2Proof.Machine
end

