-- ==== Sys2Proof/Machine/TimeState.lean ====
section
/-!
DEFINITION. The state of Gnomon time, admission and the step structure (chapters 5 and 7).
-/
namespace Sys2Proof.Machine

/-- A section of an image (Table 5.3); `off` is its device address. -/
structure Sect where
  count : Nat
  off   : Nat
  len   : Nat
  index : Nat
deriving DecidableEq, Repr

/-- A pair region (R190). -/
structure Pair where
  base0 : Nat
  base1 : Nat
  len   : Nat
deriving DecidableEq, Repr

/-- A PLACE record (Table 8.5). -/
structure Place where
  die   : Nat
  first : Nat
  count : Nat
  base  : Nat
  lines : Nat
deriving DecidableEq, Repr

/-- A PIN record (Table 8.5). -/
structure Pin where
  window : Bool
  base   : Nat
  lines  : Nat
deriving DecidableEq, Repr

/-- A compound unit (R160): member kinds and numbers. -/
structure CUnit where
  unit    : Nat
  members : List (Nat × Nat)
deriving DecidableEq, Repr

/-- An image as the admission checker read it: header, sections, and the records that many commands use. The other
records are read in place, since an image stays unchanged while it is active (R144). -/
structure Image where
  base      : Nat
  len       : Nat
  id        : Nat
  numerics  : Nat
  seed      : Nat
  heritage  : Bool
  continues : Bool
  slack     : Nat
  modules   : Nat
  placement : List Byte
  proFrames : Nat
  bodyFrames : Nat
  sects     : Sparse Sect := []          -- by KIND
  pairs     : List Pair := []
  pins      : List Pin := []
  places    : List Place := []
  units     : List CUnit := []
  store     : List Word := []            -- Mirror program store (R220)
  progs     : List (Nat × Nat) := []     -- START, LEN − 1
  specBase  : Nat := 0
  specN     : Nat := 0
deriving DecidableEq, Repr

/-- The admission page's engine (R154 to R158). -/
structure Adm where
  state    : Nat := 0                     -- Table 5.13
  base     : Nat := 0                     -- base of the image under check
  by_      : Option Origin := none        -- who wrote the command
  img      : Option Image := none         -- admitted or armed
  active   : Option Image := none
  fa       : Nat := 0                     -- activation frame of the active image
  swFrame  : Nat := 0                     -- F of the armed switch or end
  armedEnd : Bool := false                -- END is armed
  g0       : Nat := 0
  go       : Option Nat := none           -- SWITCH_GO received for this frame
  mustWait : Bool := false                -- the incoming prologue waits for the last verdict (R214)
deriving DecidableEq, Repr

/-- A master as heard on one link (R132). -/
structure Heard where
  prio  : Nat
  id    : Nat
  epoch : Nat
  seq   : Nat
  hops  : Nat
  at_   : Nat                             -- local count when SEQ last advanced
deriving DecidableEq, Repr

/-- A subtree's report on one link (R135, R156). -/
structure SubReport where
  late    : Bool := false
  frame   : Nat := 0
  next    : Nat := 0
  ready   : Nat := 0
  readyN  : Nat := 0
deriving DecidableEq, Repr

/-- A decision of the master (R136): frame K, q(K), whether H(K) is nonzero, and S(K + 1). -/
structure Dec where
  frame   : Nat
  stretch : Bool
  hold    : Bool
  next    : Nat
deriving DecidableEq, Repr

/-- Gnomon time (R124 to R139). -/
structure Gnomon where
  count     : Nat := 0                    -- local Gnomon count
  locked    : Bool := false
  holdover  : Bool := false
  master    : Bool := false
  ppsUsed   : Bool := false
  everLock  : Bool := false               -- locked or master since power-on (Table 15.1 UNLOCKED)
  goodRun   : Nat := 0                    -- consecutive words with |e| ≤ 1.5 ns
  badRun    : Nat := 0                    -- consecutive words with |e| > 3 ns
  masterPrio : Nat := 0
  masterId  : Nat := 0
  epoch     : Nat := 0
  topEpoch  : Nat := 0                    -- highest epoch heard
  hops      : Nat := 0
  upstream  : Option Nat := none
  heard     : Sparse Heard := []
  subs      : Sparse SubReport := []      -- reports of the downstream links
  path      : Nat := 0                    -- PATH_GT
  phase     : Int := 0                    -- e in ps
  echoAt    : Sparse Nat := []            -- arrival of the last word per port, 1/256 gt: ECHO_RX
  delay     : Sparse Nat := []            -- one-way delay per port, 1/256 gt
  lastTx    : Sparse (List Nat) := []     -- transmissions of words per port, 1/256 gt, the latest first, back to the one
                                          -- that the peer last echoed
  far       : Option Nat := none          -- what the links past the first add to PATH_GT on the path now taken
  seq       : Nat := 0                    -- SEQ sent: own as master, else as last heard from it
  setPend   : Bool := false               -- SET_HI waits for a PPS edge
  running   : Bool := false               -- a job has frame starts
  frame     : Nat := 0                    -- current schedule frame J
  start     : Nat := 0                    -- S(J)
  dec       : Option Dec := none          -- the latest decision received or made
deriving DecidableEq, Repr

/-- The rest of Gnomon's state: own report, switch decisions to pass on, and counts of the stall rule. -/
structure Frames where
  rep       : Nat × Bool := (0, false)    -- REP_FRAME and LATE of the report sent up
  lateSeen  : Bool := false               -- master: a LATE report not yet counted
  switch    : Option (Bool × Nat × Nat) := none  -- the latest switch decision: GO (else ABORT), SWITCH_FRAME, and the
                                          -- NEXT_START of the decision that brought it, which tells a repeated word from a
                                          -- further decision for one F
  run       : Nat := 0                    -- consecutive stretched frames decided (R139)
  localNext : Nat := 0                    -- largest LOCAL_NEXT reported to a new master
deriving DecidableEq, Repr

/-- States of Table 7.7. -/
inductive StepPhase where
  | exec
  | reported
  | undoing
  | drained
  | restoring
deriving DecidableEq, Repr

/-- Steps, causes, verdicts and loss scaling (R201 to R219). -/
structure Steps where
  step     : Nat := 0                     -- step in progress S
  ls       : Int := 0
  run      : Nat := 0
  attempt  : Nat := 0
  inRow    : Nat := 0                     -- consecutive discards of one step
  phase    : StepPhase := .exec
  cause    : Nat := 0                     -- cause vector of S (Table 7.5)
  causeNext : Nat := 0                    -- causes raised inside regions, of S + 1
  verdict  : Nat := 0                     -- last verdict
  vcause   : Nat := 0                     -- its cause bits
  own      : Option StepMsg := none       -- the module's own report, made at its close
  ownDrain : Option StepMsg := none       -- the module's own DRAINED
  kids     : Sparse StepMsg := []         -- children's STEP_REPORT, by port
  kidsDrain : Sparse StepMsg := []        -- children's DRAINED, by port
  decided  : Option (Nat × StepMsg) := none  -- master: the verdict (1 to 4) it sent and has not applied itself
  resumed  : Option Nat := none           -- master: step of the RESUME it sent and has not applied itself
  undoTag  : Option Nat := none           -- step whose speculative work is being undone
  fpSent   : Bool := false                -- this module's fingerprint pieces of S are sent
  fpGot    : Sparse Nat := []             -- entries received, by (step mod 2^16) × 16 + member
  fpDone   : Bool := false                -- fingerprint comparison of S finished
  repairs  : List (Nat × Nat) := []       -- fingerprint entries to repair: entry, logical source module
  tries    : Sparse Nat := []             -- failed repairs per entry (R217)
  failed   : Bool := false                -- REPAIR_FAIL
  owners   : Sparse Nat := []             -- fingerprint entry ↦ site that wrote it last
  specAt   : Nat × Nat := (0, 0)          -- Spectrum table of the image in force at the module's report: base, N (R119)
  doneSteps : List (Nat × Nat × Nat) := []  -- committed steps whose DONE_STEP write waits for the flushes (R121), each with
                                          -- its Spectrum table
  rollTo   : Bool := false                -- ROLLBACK was applied: a restore follows
  hdrDue   : List (Nat × Nat × Nat) := []  -- step, ADD_SATS and STRAY that wait for the Spectrum header (R120)
deriving DecidableEq, Repr

end Sys2Proof.Machine
end

