-- ==== Sys2Proof/Machine/State.lean ====
section
/-!
DEFINITION. The whole state of the module, its value at reset, and the reasons a step can stop.
-/
namespace Sys2Proof.Machine

/-- Why the module stops with a fault. -/
inductive Fault where
  /-- A command names a part that the module does not contain (a tile site of 1,152 or more, a port, a queue, a slice or
  a stack that Table 1.1 does not list). Raised by every meaning whose operand selects a part. Safe: no such part exists,
  so the hardware has no behaviour there. -/
  | noSuchPart
deriving DecidableEq, Repr

/-- Why a step gives no meaning. -/
inductive Refusal where
  /-- The command has no meaning in this model. Raised by the dispatcher only. Safe: nothing is claimed. -/
  | notModelled (mnemonic : String)
deriving DecidableEq, Repr

/-- A message the module sends. -/
inductive Out where
  | reply (r : Reply)                               -- answer of a slice or stack controller to its agent
  | invalidate (site line : Nat)                    -- directory to a sharer (R246)
  | frame (p : Nat) (f : RayFrame) (crc : Word)      -- a Ray frame and its CRC (R312, R314)
  | link (p : Nat) (m : LinkMsg) (grants : List Nat)   -- LINK frame: handshake, or SYNC grants (R311, R322)
  | mgmt (dst : Nat) (m : MgmtMsg)                  -- operation of the management channel (R343)
  | session (sid kind : Nat) (d : List Byte)        -- message to a session's peer, kind as Config.message numbers it (R454, R455)
  | discarded (sid ctr : Nat)                       -- status TAG (R455)
  | evtMsi (kind addr data : Nat)                   -- R495
  | reg (o : Origin) (w : Word)                     -- value returned by a register read
  | status (o : Origin) (code : Nat)                -- status of an order that did not act (R489)
  | msi (addr data : Nat)                           -- completion interrupt of a ring
  | hartLoad (h : Nat) (d : List PByte)             -- data of a host load
  | hartFault (h addr : Nat)                        -- access fault on a hart
  | endpoint (p addr : Nat)                         -- host access to a PCIe window
  | completion (p : Nat) (ok : Bool) (d : List PByte)   -- answer to endpoint DMA; false: Unsupported Request
  | rdma (qpn : Nat) (write : Bool) (remote key psn len : Nat) (d : List PByte)   -- request sent by a QP
  | pfc (p prio : Nat) (pause : Bool)               -- IEEE 802.1Qbb frame of a front-end port (Table 12.2)
  | roce (qpn kind psn : Nat) (d : List PByte)      -- 0 acknowledge, 1 sequence NAK, 2 access NAK, 3 read response, 4 CNP
deriving DecidableEq, Repr

structure State where
  regs     : Sparse Word := []          -- register store: page × 1,024 + offset / 4
  mem      : List Host.Cell := []       -- stack memory and the slow tier, by device address
  ecc      : Sparse DWord := []         -- granule ↦ stored check symbols XOR the valid ones (R273)
  tiles    : Sparse Tile := []          -- by site
  slices   : Sparse Slice := []         -- die × 1,152 + site
  dirs     : Sparse DirBank := []       -- die × 32 + row
  dies     : Sparse Die := []
  hbm      : Sparse Stack := []
  res      : Sparse ResEnt := []        -- residency table
  moves    : List Move := []
  slow     : List SlowReq := []
  xfers    : List Xfer := []
  glints   : List GFlight := []
  failing  : List Nat := []             -- sites reported to sparing as failing (R34, R72)
  retries  : List (Nat × SReq) := []    -- requests answered RETRY, to be sent again (R265)
  held     : List HeldWrite := []       -- writes that wait for invalidations (R246)
  map      : Sparse SiteEnt := []       -- the site map in force; unlisted sites stand as shipped (R28)
  gn       : Gnomon := {}
  fr       : Frames := {}
  adm      : Adm := {}
  steps    : Steps := {}
  ray      : Ray := {}
  host     : HostSt := {}
  mg       : Mgmt := {}
  pow      : Power := {}
  therm    : Therm := {}
  pen      : Pen := {}
  spare    : Sparing := {}
  dusk     : Bool := false              -- the Dusk state: tile issue is stopped (R387)
  ag       : Ag := {}
  evtHold  : List Nat := []             -- KINDs within 2 µs of their last message (R495)
  evtAgain : List Nat := []             -- KINDs that began to signal within those 2 µs
  latches  : Sparse Word := []          -- source × 2^24 + register key (R491)
  out      : List Out := []             -- messages sent, oldest first
  events   : List (Nat × Nat) := []     -- events of the command in progress: page, bit
  nextId   : Nat := 0                   -- numbers transfers and requests
  freeCount : Nat := 0                  -- the model's own: free values drawn so far
  now      : Nat := 0                   -- the model's own: gt since power-on
  pending  : List Instr := []           -- commands that wait, first in first out
deriving DecidableEq, Repr

/-- The module right after its input is applied, before power-on runs. -/
def State.reset : State := {}

end Sys2Proof.Machine
end

