-- ==== Sys2Proof/Machine/Regs.lean ====
section
/-!
DEFINITION. The register pages (chapter 16): which block a page belongs to, and the value each stored register has after
power-on. Registers that show structured state are computed where they are read (Machine/Registers.lean).
-/
namespace Sys2Proof.Machine

def kTile : Nat := 1
def kShadeL : Nat := 2
def kShadeU : Nat := 3
def kStack : Nat := 4
def kRay : Nat := 5
def kRayCom : Nat := 6
def kFe : Nat := 7
def kPcie : Nat := 8
def kGnomon : Nat := 9
def kAdm : Nat := 10
def kSlots : Nat := 11
def kPower : Nat := 12
def kTherm : Nat := 13
def kInput : Nat := 14
def kPen : Nat := 15
def kSpare : Nat := 16
def kAg : Nat := 17
def kMgmt : Nat := 18
def kJrnl : Nat := 19
def kHost : Nat := 20

/-- KIND of a page index (Table 16.3); 0 for a reserved index and for a compound unit. -/
def pageKind (p : Nat) : Nat :=
  if p < 0x480 then kTile
  else if 0x800 ≤ p && p < 0xC80 then kShadeL
  else if 0x1000 ≤ p && p < 0x1480 then kShadeU
  else if 0x2000 ≤ p && p < 0x2008 then kStack
  else if 0x2100 ≤ p && p < 0x2110 then kRay
  else if p == 0x2110 then kRayCom
  else if p == 0x2120 || p == 0x2121 then kFe
  else if p == 0x2130 || p == 0x2131 then kPcie
  else if p == 0x2200 then kGnomon
  else if p == 0x2201 then kAdm
  else if p == 0x2202 then kSlots
  else if p == 0x2300 then kPower
  else if p == 0x2301 then kTherm
  else if p == 0x2302 then kInput
  else if p == 0x2400 then kPen
  else if p == 0x2401 then kSpare
  else if p == 0x2402 then kAg
  else if p == 0x2500 then kMgmt
  else if p == 0x2501 then kJrnl
  else if p == 0x2502 then kHost
  else 0

def isCompound (p : Nat) : Bool := 0x3000 ≤ p && p < 0x4000

/-- A page that Table 16.3 assigns (R486). -/
def pageAssigned (p : Nat) : Bool := pageKind p != 0 || isCompound p

/-- Page of Shade slice `k` = die × 1,152 + site (R13). -/
def slicePage (k : Nat) : Nat := if k < 1152 then 0x800 + k else 0x1000 + (k - 1152)

/-- Slice of a Shade page. -/
def sliceOfPage (p : Nat) : Nat := if p < 0x1000 then p - 0x800 else 1152 + (p - 0x1000)

def stackPage (k : Nat) : Nat := 0x2000 + k
def rayPage (p : Nat) : Nat := 0x2100 + p
def rayComPage : Nat := 0x2110
def fePage (p : Nat) : Nat := 0x2120 + p
def pciePage (p : Nat) : Nat := 0x2130 + p
def gnPage : Nat := 0x2200
def admPage : Nat := 0x2201
def slotPage : Nat := 0x2202
def powPage : Nat := 0x2300
def thermPage : Nat := 0x2301
def inPage : Nat := 0x2302
def penPage : Nat := 0x2400
def sparePage : Nat := 0x2401
def agPage : Nat := 0x2402
def mgmtPage : Nat := 0x2500
def jrnlPage : Nat := 0x2501
def hostPage : Nat := 0x2502

def offStatus : Nat := 0x008
def offControl : Nat := 0x00C
def offEvt : Nat := 0x010
def offEvtEn : Nat := 0x014
def offForce : Nat := 0x018
def offErrCount : Nat := 0x01C
def offErrLo : Nat := 0x020
def offErrHi : Nat := 0x024

/-- Value after power-on of a stored register, by KIND and offset (R485, R496; assumptions 20 to 24 where the manual
gives none). -/
def regResetOf (kind off : Nat) : Nat :=
  if kind == kTile then
    if off == offControl then 1
    else if off == 0x104 || off == 0x108 then 2400
    else if off == 0x110 then 1600
    else if off == 0x114 then 650
    else if off == 0x118 then 0xFF
    else 0
  else if kind == kShadeL || kind == kShadeU then
    if off == offControl then 6
    else if off == 0x10C then 256
    else if off == 0x128 || off == 0x12C || off == 0x130 || off == 0x134 || off == 0x138 then 0xFFFFFFFF
    else 0
  else if kind == kStack then
    if off == offControl then 1 + 24 * 256 else if off == 0x114 then 140 else 0
  else if kind == kPcie then
    if off == offControl then 1 else 0
  else if kind == kAg then
    if off == offControl then 1 else 0
  else if kind == kFe || kind == kRay || kind == kPower && off == offControl then
    if off == offControl then 1 else 0
  else if kind == kRayCom then
    if off == 0x108 then 0xF else 0
  else if kind == kPower then
    if off == 0x100 then 1100 else if off == 0x10C then 128 else if off == 0x110 then 600 else 0
  else if kind == kInput then
    if off == 0x110 then 0xFFFF else 0
  else if kind == kPen then
    if off == 0x104 then 32768 else if off == 0x114 then 65536 else if off == 0x150 then 2 else 0
  else if kind == kMgmt then
    if off == 0x100 then 4 else if off == 0x104 then 1 else if off == 0x10C then 0x0962FFFF
    else if off == 0x110 then 0x1F else 0
  else 0

/-- Key of a register in the store. -/
def regKey (page off : Nat) : Nat := page * 1024 + off / 4

def regReset (page off : Nat) : Word := BitVec.ofNat 32 (regResetOf (pageKind page) off)

/-- The reset value behind a key of the store. -/
def regResetKey (k : Nat) : Word := regReset (k / 1024) (k % 1024 * 4)

end Sys2Proof.Machine
end

