-- ==== Sys2Proof/Machine/Ops.lean ====
section
/-!
DEFINITION. The operations that every block shares: the register store, events, error registers, free values, the parts
of the state by number, and the outcome of a command.
-/
namespace Sys2Proof.Machine

/-! ## Registers -/

/-- The stored value of a register. -/
def State.rd (s : State) (page off : Nat) : Word := sget (regReset page off) s.regs (regKey page off)

def State.rdN (s : State) (page off : Nat) : Nat := (s.rd page off).toNat

/-- Stores a register. -/
def State.wr (s : State) (page off : Nat) (v : Word) : State :=
  { s with regs := sset (regReset page off) s.regs (regKey page off) v }

def State.wrN (s : State) (page off v : Nat) : State := s.wr page off (BitVec.ofNat 32 v)

/-- Field [hi:lo] of a stored register. -/
def State.field (s : State) (page off hi lo : Nat) : Nat := bits (s.rdN page off) hi lo

def State.setField (s : State) (page off hi lo v : Nat) : State := s.wrN page off (setBits (s.rdN page off) hi lo v)

def State.flag (s : State) (page off i : Nat) : Bool := bit (s.rdN page off) i

def State.setFlag (s : State) (page off i : Nat) (b : Bool) : State := s.setField page off i i (b2n b)

/-- A 64-bit register pair. -/
def State.rd64 (s : State) (page off : Nat) : Nat := s.rdN page off + 2 ^ 32 * s.rdN page (off + 4)

def State.wr64 (s : State) (page off v : Nat) : State := (s.wrN page off v).wrN page (off + 4) (v / 2 ^ 32)

/-- The next free value: bits that the manual leaves open (assumption 3). -/
def State.free (s : State) : DWord × State := (Config.freeBits s.freeCount, { s with freeCount := s.freeCount + 1 })

/-- Adds to a 32-bit counter. The manual does not say what follows the largest value: a free value (assumption 4). -/
def State.bump (s : State) (page off : Nat) (n : Nat := 1) : State :=
  let x := s.rdN page off + n
  if x < 2 ^ 32 then s.wrN page off x
  else
    let r := s.free
    r.2.wr page off (BitVec.truncate 32 r.1)

/-- Adds to a counter that stops at its largest value. -/
def State.bumpSat (s : State) (page off : Nat) (n : Nat := 1) : State :=
  s.wrN page off (min (s.rdN page off + n) 0xFFFFFFFF)

/-- Adds to a 64-bit counter that wraps. -/
def State.bump64 (s : State) (page off : Nat) (n : Nat := 1) : State := s.wr64 page off ((s.rd64 page off + n) % 2 ^ 64)

/-! ## Events and errors -/

/-- Hardware sets an event bit (R492); triggers and messages follow at the end of the command. -/
def State.raise (s : State) (page i : Nat) : State :=
  { s.setFlag page offEvt i true with events := s.events ++ [(page, i)] }

/-- Raises an event where a condition holds. -/
def State.raiseIf (s : State) (b : Bool) (page i : Nat) : State := if b then s.raise page i else s

/-- Records an address in the error registers (R493). -/
def State.logAddr (s : State) (page addr : Nat) : State :=
  (s.wrN page offErrLo addr).wrN page offErrHi (bits addr 47 32)

/-- Counts an error and records its address (R485, R493). -/
def State.logErr (s : State) (page addr : Nat) : State := (s.bumpSat page offErrCount).logAddr page addr

/-! ## Parts -/

def State.tile (s : State) (t : Nat) : Tile := sget Tile.initial s.tiles t
def State.setTile (s : State) (t : Nat) (x : Tile) : State := { s with tiles := sput s.tiles t x }
def State.modTile (s : State) (t : Nat) (f : Tile → Tile) : State := s.setTile t (f (s.tile t))

def State.slice (s : State) (k : Nat) : Slice := sget {} s.slices k
def State.setSlice (s : State) (k : Nat) (x : Slice) : State := { s with slices := sput s.slices k x }
def State.modSlice (s : State) (k : Nat) (f : Slice → Slice) : State := s.setSlice k (f (s.slice k))

def State.bank (s : State) (b : Nat) : DirBank := sget {} s.dirs b
def State.setBank (s : State) (b : Nat) (x : DirBank) : State := { s with dirs := sput s.dirs b x }

def State.die (s : State) (d : Nat) : Die := sget {} s.dies d
def State.setDie (s : State) (d : Nat) (x : Die) : State := { s with dies := sput s.dies d x }

def State.stack (s : State) (k : Nat) : Stack := sget {} s.hbm k
def State.setStack (s : State) (k : Nat) (x : Stack) : State := { s with hbm := sput s.hbm k x }

/-- The entry of a site in the map in force; as shipped, logical tile t lies on site t (R28; assumption 5). -/
def shippedSite (site : Nat) : SiteEnt := if site < 1024 then { tile := site, st := 0 } else { tile := 0, st := 1 }

def State.siteEnt (s : State) (site : Nat) : SiteEnt := sget (shippedSite site) s.map site

def State.carrying (s : State) (site : Nat) : Bool := site < 1152 && (s.siteEnt site).st == 0

/-- The site that carries a logical tile (R27, R31). -/
def State.siteOf (s : State) (t : Nat) : Option Nat :=
  match s.map.find? (fun e => e.2.st == 0 && e.2.tile == t) with
  | some e => some e.1
  | none => if t < 1024 && (sfind s.map t).isNone then some t else none

/-- The logical tile of a site. -/
def State.tileOf (s : State) (site : Nat) : Nat := (s.siteEnt site).tile

/-- Every CARRYING site, in ascending order. -/
def State.carryingSites (s : State) : List Nat := (List.range 1152).filter s.carrying

/-- Reports a site to sparing as failing (R34, R72, R432). -/
def State.failSite (s : State) (site : Nat) : State := { s with failing := insNat site s.failing }.raise sparePage 0

/-- Applies an operation to every CARRYING site. -/
def State.forSites (s : State) (f : State → Nat → State) : State := s.carryingSites.foldl f s

def State.say (s : State) (m : Out) : State := { s with out := s.out ++ [m] }

/-- Takes a fresh number for a transfer or request. -/
def State.fresh (s : State) : Nat × State := (s.nextId, { s with nextId := s.nextId + 1 })

/-- Power-good of a domain (PG_LO, PG_HI). -/
def State.setPg (s : State) (d : Nat) (v : Bool) : State :=
  if d < 32 then s.setFlag powPage 0x12C d v else s.setFlag powPage 0x130 (d - 32) v

/-! ## Step causes (Table 7.5) -/

def cNonfinite : Nat := 0
def cOverflow : Nat := 1
def cHardware : Nat := 2
def cDiverge : Nat := 3
def cNoMajority : Nat := 4

/-- Raises a cause bit for the step `tag` (R212): S, or S + 1 inside regions. -/
def State.cause (s : State) (tag i : Nat) : State :=
  if tag > s.steps.step then { s with steps := { s.steps with causeNext := s.steps.causeNext ||| 2 ^ i } }
  else { s with steps := { s.steps with cause := s.steps.cause ||| 2 ^ i } }

/-- Work tagged `tag` is speculative while the verdict for the step before it is pending (R207). -/
def State.speculative (s : State) (tag : Nat) : Bool := tag > s.steps.step || s.steps.undoTag == some tag

/-- What the tile issues now is speculative: it stands in a region, and the verdict of the pass is pending (R207, R209). -/
def Tile.inSpec (x : Tile) : Bool := x.region.isSome && !x.decided

/-- Passes that a replay still lies behind the pass in which it began: its instructions belong to the steps they had. -/
def Tile.lag (x : Tile) : Nat := if x.replayTo.isSome then x.lagTo - x.pass else 0

/-- The step of what a tile issues now (R201, R209): S + 1 in a region while the verdict of the pass is pending. -/
def State.tagOf (s : State) (t : Nat) : Nat :=
  (if (s.tile t).inSpec then s.steps.step + 1 else s.steps.step) - (s.tile t).lag

/-! ## Counters of a tile (R208) -/

def Counter.add (c : Counter) (n : Nat) (spec : Bool) : Counter :=
  if spec then { c with spec := (c.spec + n) % 2 ^ 32 } else { c with base := (c.base + n) % 2 ^ 32 }

/-- What an instruction sees: the base alone, or both inside a region. -/
def Counter.seen (c : Counter) (inRegion : Bool) : Nat := if inRegion then c.base + c.spec else c.base

/-- Takes `n`; inside a region the speculative part goes first and the rest is borrowed. -/
def Counter.take (c : Counter) (n : Nat) (inRegion : Bool) : Counter :=
  if inRegion then
    let x := min n c.spec
    { base := c.base - (n - x), spec := c.spec - x, borrow := c.borrow + (n - x) }
  else { c with base := c.base - n }

def State.addCC (s : State) (site c n tag : Nat) : State :=
  s.modTile site fun x => { x with cc := sput x.cc c ((sget {} x.cc c).add n (s.speculative tag)) }

def State.addKC (s : State) (site c n tag : Nat) : State :=
  s.modTile site fun x => { x with kc := sput x.kc c ((sget {} x.kc c).add n (s.speculative tag)) }

/-! ## Stall counters (R475, R476) -/

def engIssue : Nat := 0
def engMatrix : Nat := 1
def engVector : Nat := 2
def engMirror : Nat := 3
def engDma : Nat := 4
def engGlint : Nat := 5
def stOperand : Nat := 0
def stShade : Nat := 1
def stStack : Nat := 2
def stRay : Nat := 3
def stSlot : Nat := 4
def stAccBusy : Nat := 5
def stThrottle : Nat := 6
def stRecompute : Nat := 7

/-- One held attempt counts 1 tc under its engine and cause (R475, R476; assumption 7). -/
def State.stall (s : State) (t eng c : Nat) : State :=
  let off := 0x40 + 32 * eng + 4 * c
  let v := s.rdN t off
  if v == 0xFFFFFFFF then s
  else
    let s := s.wrN t off (v + 1)
    if v + 1 == 0xFFFFFFFF then s.raise t 17 else s

/-! ## Address faults of an agent (R21) -/

/-- The page on which an agent's address fault is recorded, and its event bit: Ray ports, front-end ports and the host
have none. -/
def faultPlace : Agent → Nat × Option Nat
  | .tile t => (t, some 3)
  | .host _ => (hostPage, none)
  | .ray p => (rayPage p, none)
  | .fe p => (fePage p, none)
  | .pcie p => (pciePage p, some 5)
  | .module => (stackPage 0, some 7)

/-- Records an address fault on the issuing agent's page, and raises it where the page has the bit. ERR_COUNT of a page
that counts other errors stays. -/
def State.addrFault (s : State) (a : Agent) (addr : Nat) : State :=
  let (page, i) := faultPlace a
  let k := pageKind page
  let s := if k == kTile || k == kPcie then s.logErr page addr else s.logAddr page addr
  match i with
  | some i => s.raise page i
  | none => s

/-! ## Power-down -/

/-- Registers kept in fuses and flash: AG_CLEARS and BOOT_COUNT. -/
def keptReg (k : Nat) : Bool :=
  k == regKey agPage 0x11C || k == regKey mgmtPage 0x1C4

/-- A slice with only what its soft fuses hold (R229, R262). -/
def Slice.fused (x : Slice) : Slice := { spared := x.spared, lanesBad := x.lanesBad, halfFor := x.halfFor }

def slowBase : Nat := 0x080000000000

/-- The module without power, until power-on runs: what fuses and management flash hold stays, and the slow tier, which lies outside the module.
Afterglow records that had not reached flash are lost (R468). -/
def State.cold (s : State) : State :=
  let k : State := {}
  let mg : Mgmt := { keys := s.mg.keys, slotA := s.mg.slotA, slotB := s.mg.slotB, active := s.mg.active,
                     floor := s.mg.floor, config := s.mg.config }
  { k with
    regs := s.regs.filter fun e => keptReg e.1
    mem := s.mem.filter fun c => slowBase ≤ c.1
    map := s.map
    slices := (s.slices.map fun e => (e.1, e.2.fused)).filter fun e => e.2 != {}
    hbm := (s.hbm.map fun e => (e.1, ({ repaired := e.2.repaired } : Stack))).filter fun e => e.2 != {}
    mg := mg
    therm := { suspect := s.therm.fused, fused := s.therm.fused }
    ag := { kept := s.ag.kept, saved := s.ag.saved }
    out := s.out, nextId := s.nextId, freeCount := s.freeCount, now := s.now }

/-- The module stops: no command acts until power-on (R385, R391, R413). -/
def State.stop (s : State) : State := s.cold

/-- A site or a Shade row fails after its spare budget is exhausted: the module stops at the end of the command (Table 13.2,
R449; assumption 120). -/
def State.spend (s : State) : State := { s with spare := { s.spare with spent := true } }

/-! ## Risk: hold requests, conservation faults, Penumbra's counts -/

/-- Counts an event toward a Penumbra input (Table 13.3). -/
def State.penCount (s : State) (i : Nat) (n : Nat := 1) : State :=
  { s with pen := { s.pen with raw := sput s.pen.raw i (sget 0 s.pen.raw i + n) } }

/-- Requests an Eclipse hold with a cause of Table 13.6 (R419). -/
def State.holdRequest (s : State) (cause : Nat) : State :=
  { s with pen := { s.pen with cause := s.pen.cause ||| 2 ^ cause } }

/-- The Penumbra input that an event counts toward (Table 13.3); a page in checker test mode counts none (R483). -/
def State.penInput (s : State) (page i : Nat) : Option Nat :=
  let k := pageKind page
  if k == kShadeL || k == kShadeU then
    if i == 7 || i == 8 then some 3
    else if s.flag page offControl 3 then none
    else if i == 0 then some 0 else if i == 1 || i == 2 then some 2 else none
  else if k == kStack then
    if s.flag page offControl 1 then none else if i == 0 then some 1 else if i == 1 then some 2 else none
  else if k == kPcie then (if i == 3 then some 2 else none)
  else if k == kInput then (if i ≤ 4 then some 6 else none)
  else if k == kTile then (if i == 6 then some 9 else if i == 15 then some 8 else none)
  else none

end Sys2Proof.Machine
end

