-- ==== Sys2Proof/Machine/Ecc.lean ====
section
/-!
DEFINITION. The codes that protect stored data: SEC-DED and byte parity of the Shade (R257, R261), and the Reed–Solomon
code of the stacks (R273, R275).
-/
namespace Sys2Proof.Machine

/-- Number of one bits of a byte value. -/
def weight8 (x : Nat) : Nat := ((List.range 8).filter (bit x)).length

/-- The columns of the data bits: the 56 bytes of weight 3, then the 8 smallest of weight 5 (R257). -/
def secCols : List Nat :=
  (List.range 256).filter (weight8 · == 3) ++ ((List.range 256).filter (weight8 · == 5)).take 8

/-- The check bits of a code word given as 64 data bits: the XOR of the columns of its one bits. -/
def secCheck (d : Nat) : Nat :=
  (secCols.zip (List.range 64)).foldl (fun c (col, j) => if bit d j then c ^^^ col else c) 0

/-- Parity check bits: bit i is the XOR of byte i (R261). -/
def parCheck (d : Nat) : Nat :=
  forN 8 0 fun c i => if weight8 (d / 2 ^ (8 * i) % 256) % 2 == 1 then c + 2 ^ i else c

/-- What a read of a code word finds. -/
inductive Ecc where
  | ok
  | corrected (d : Nat)
  | bad
deriving DecidableEq, Repr

/-- Decodes a code word from its data and syndrome (R257, R261). -/
def secDecode (parity : Bool) (d syn : Nat) : Ecc :=
  if syn == 0 then .ok
  else if parity then .bad
  else if weight8 syn == 1 then .corrected d
  else match (secCols.zip (List.range 64)).find? (fun e => e.1 == syn) with
    | some e => .corrected (d ^^^ 2 ^ e.2)
    | none => .bad

/-! ## The stacks' Reed–Solomon code over GF(2^16) -/

/-- Multiplication by α: the class of x under x^16 + x^12 + x^3 + x + 1. -/
def gfX (a : Nat) : Nat := if a ≥ 0x8000 then (a * 2) ^^^ 0x1100B else a * 2

def gfMul (a b : Nat) : Nat :=
  (forN 16 (0, a) fun (acc, x) i => (if bit b i then acc ^^^ x else acc, gfX x)).1

/-- α^n. -/
def gfPow (n : Nat) : Nat := forN n 1 fun x _ => gfX x

/-- Coefficients of (x − α^0)(x − α^1)(x − α^2)(x − α^3) below x^4, from x^3 down. -/
def rsGen : List Nat :=
  let mulRoot (g : List Nat) (r : Nat) : List Nat :=
    -- g holds all coefficients from the leading one down
    (List.zipWith (· ^^^ ·) (g ++ [0]) (0 :: g.map (gfMul r)))
  (forN 4 [1] fun g i => mulRoot g (gfPow i)).drop 1

/-- The check symbols 32 to 35 of 32 data symbols (R273). -/
def rsCheck (d : List Nat) : List Nat :=
  d.foldl (fun r x =>
    let f := (r.headD 0) ^^^ x
    List.zipWith (· ^^^ ·) (r.drop 1 ++ [0]) (rsGen.map (gfMul f))) [0, 0, 0, 0]

/-- Data symbols of a granule: 16-bit little-endian. -/
def symbols (bs : List Byte) : List Nat := (List.range 32).map fun i => fieldAt bs (2 * i) 2

/-- Packs check symbols 32 to 35 into 64 bits, symbol 32 lowest. -/
def packSyms (l : List Nat) : DWord := BitVec.ofNat 64 (l.foldr (fun x a => x + 65536 * a) 0)

def unpackSyms (d : DWord) : List Nat := (List.range 4).map fun i => d.toNat / 65536 ^ i % 65536

/-- The check symbols' difference from the valid ones in the stack poison code (R275). -/
def poisonDelta : DWord := packSyms [0, 0, 0x5A5A, 0xA5A5]

def allOnes (n : Nat) : List Byte := List.replicate n 0xFF

/-- What a read of a granule finds. -/
inductive RsRes where
  | ok
  | poison
  | corrected (data : List Byte)
  | bad
deriving DecidableEq, Repr

/-- Decodes a granule from its data and the difference of its check symbols (R273, R275). -/
def rsDecode (data : List Byte) (delta : DWord) : RsRes :=
  if delta = 0 then .ok
  else if delta = poisonDelta && data == allOnes 64 then .poison
  else
    let e := unpackSyms delta
    let syn (j : Nat) : Nat :=
      ((e.zip [3, 2, 1, 0]).foldl (fun a (x, p) => a ^^^ gfMul x (gfPow (j * p))) 0)
    let s0 := syn 0
    let s1 := syn 1
    let s2 := syn 2
    let s3 := syn 3
    if s0 == 0 then .bad
    else match (List.range 36).find? (fun x =>
        gfMul s0 (gfPow x) == s1 && gfMul s1 (gfPow x) == s2 && gfMul s2 (gfPow x) == s3) with
      | none => .bad
      | some x =>
        if x < 4 then .corrected data
        else
          let i := 35 - x
          .corrected (patch data (2 * i) (natLe 2 (fieldAt data (2 * i) 2 ^^^ s0)))

end Sys2Proof.Machine
end

