-- ==== Sys2Proof/Machine/Stacks.lean ====
section
/-!
DEFINITION. Device addresses (R20 to R23), stored bytes, and the stack controllers (R269 to R278).
-/
namespace Sys2Proof.Machine

/-! ## Stored bytes: stack memory and the slow tier -/

/-- What a byte of memory that nothing has written reads as: the fill at power-on writes zero (R442). -/
def memDefault : Nat → Byte := fun _ => 0

def State.byte (s : State) (a : Nat) : Byte := sget 0 s.mem a

def State.setByte (s : State) (a : Nat) (b : Byte) : State := { s with mem := sset 0 s.mem a b }

/-- The memory's canonical form: addresses rise strictly, and no entry equals what an unlisted address reads as. -/
def memWf (m : List Host.Cell) : Bool := swf memDefault m

def State.bytes (s : State) (a n : Nat) : List Byte := (List.range n).map fun i => s.byte (a + i)

def State.setBytes (s : State) : Nat → List Byte → State
  | _, [] => s
  | a, b :: bs => (s.setByte a b).setBytes (a + 1) bs

/-! ## Address map -/

def windowBase : Nat := 0x010000000000
def windowLen : Nat := 0xD8000000
def regBase : Nat := 0x018000000000

def isStack (a : Nat) : Bool := a < 0x10000000000
def isWindow (a : Nat) : Bool := windowBase ≤ a && a < windowBase + windowLen
def isRegSpace (a : Nat) : Bool := regBase ≤ a && a < regBase + 0x4000000
def isSlow (a : Nat) : Bool := slowBase ≤ a && a < 0x100000000000

/-- The PCIe/CXL port of a slow-tier address (R280). -/
def slowPort (a : Nat) : Nat := if a < 0x0C0000000000 then 0 else 1

/-- Populated bytes of a port's window (R280): shown in CAP, and only while POPULATED. -/
def State.slowCap (s : State) (p : Nat) : Nat :=
  if s.flag (pciePage p) offStatus 4 then s.rdN (pciePage p) 0x100 * 2 ^ 28 else 0

def State.slowPopulated (s : State) (a : Nat) : Bool :=
  let p := slowPort a
  isSlow a && a - (slowBase + p * 0x040000000000) < s.slowCap p

/-- First address of the host region (R22): HOST_REGION counts 16 GiB units; 0 stands for the default 64 GiB. -/
def State.hostBase (s : State) : Nat :=
  let n := s.field mgmtPage 0x100 4 0
  0x10000000000 - (if n == 0 then 4 else n) * 0x400000000

def State.inHostRegion (s : State) (a : Nat) : Bool := s.hostBase ≤ a && isStack a

/-! ## Placement of stack memory (R270) -/

structure Place3D where
  stack : Nat
  pc    : Nat
  loc   : Nat
deriving DecidableEq, Repr

/-- Stack, pseudo-channel and local index of a granule. -/
def granPlace (g : Nat) : Place3D :=
  { stack := bits g 2 0 ^^^ bits g 13 11 ^^^ bits g 24 22
    pc := bits g 8 3 ^^^ bits g 20 15
    loc := bits g 33 9 }

/-- The granule of a place: the inverse of R270. -/
def granOf (x : Place3D) : Nat :=
  let hi := x.loc * 512
  hi + (x.pc ^^^ bits hi 20 15) * 8 + (x.stack ^^^ bits hi 13 11 ^^^ bits hi 24 22)

def stackOf (g : Nat) : Nat := (granPlace g).stack

/-- Row identifier within a stack: pseudo-channel, bank and row (R270, Table 9.4 LAST_ROW order by weight). -/
def rowId (x : Place3D) : Nat := x.pc * 2 ^ 21 + bits x.loc 8 4 * 2 ^ 16 + bits x.loc 24 9

/-- Bank identifier of a row identifier. -/
def bankOfRow (r : Nat) : Nat := r / 2 ^ 16

/-- The 16 granules of a row. -/
def rowGranules (k r : Nat) : List Nat :=
  (List.range 16).map fun c =>
    granOf { stack := k, pc := r / 2 ^ 21, loc := r % 2 ^ 16 * 512 + r / 2 ^ 16 % 32 * 16 + c }

/-! ## Row logs (R262, R274) -/

/-- The frame number that row logs count in: Gnomon frames of 4,096 gt (assumption 12). -/
def State.frameNo (s : State) : Nat := s.gn.count / 4096

/-- The entries of a log that still hold a correction within the last 65,536 frames (R262, R274). -/
def rowLogLive (f : Nat) (log : List RowEnt) : List RowEnt :=
  (log.map fun e => { e with frames := e.frames.filter (fun x => f < x + 65536) }).filter fun e => !e.frames.isEmpty

/-- Enters a correction of a row at frame `f`: stale corrections go, a full log gives up its oldest entry. -/
def rowLogAdd (cap f row : Nat) (log : List RowEnt) : List RowEnt :=
  let live := rowLogLive f log
  if live.any (·.row == row) then
    live.map fun e => if e.row == row then { e with frames := e.frames ++ [f] } else e
  else if live.length < cap then live ++ [{ row := row, frames := [f] }]
  else
    let oldest := live.foldl (fun m e => min m (e.frames.getLastD 0)) f
    match takeFirst (fun e => e.frames.getLastD 0 == oldest) live with
    | some (_, rest) => rest ++ [{ row := row, frames := [f] }]
    | none => live

def rowLogCount (row : Nat) (log : List RowEnt) : Nat :=
  match log.find? (·.row == row) with
  | some e => e.frames.length
  | none => 0

/-! ## Granules -/

def State.ecc64 (s : State) (g : Nat) : DWord := sget 0 s.ecc g
def State.setEcc (s : State) (g : Nat) (d : DWord) : State := { s with ecc := sset 0 s.ecc g d }

def State.granule (s : State) (g : Nat) : List Byte := s.bytes (64 * g) 64

/-- Stores 64 bytes with valid check symbols. -/
def State.putGranule (s : State) (g : Nat) (d : List Byte) : State := (s.setBytes (64 * g) d).setEcc g 0

/-- Writes the stack poison code (R275). -/
def State.putPoison (s : State) (g : Nat) : State := (s.setBytes (64 * g) (allOnes 64)).setEcc g poisonDelta

def State.chkOn (s : State) (page : Nat) : Bool := s.flag page offControl (if pageKind page == kStack then 1 else 3)

/-- FUSEX_CTL allows soft-fuse entries of a kind (R449, Table 14.6). -/
def State.fuseOk (s : State) (kind : Nat) : Bool := s.flag mgmtPage 0x110 kind

/-- Asks for the replacement of a row (R278); the requests to its bank wait until ROW_SPARED. Rows are replaced one after
another. -/
def State.askRow (s : State) (k row : Nat) : State :=
  let st := s.stack k
  if s.chkOn (stackPage k) || st.pendRow == some row || st.pendNext.contains row then s
  else if st.pendRow.isSome then s.setStack k { st with pendNext := st.pendNext ++ [row] }
  else (s.setStack k { st with pendRow := some row }).setFlag (stackPage k) offStatus 2 true

/-- Records a corrected granule (R274, R278). -/
def State.stackCe (s : State) (g : Nat) : State :=
  let x := granPlace g
  let page := stackPage x.stack
  let s := (s.logErr page (64 * g)).raise page 0
  if s.chkOn page then s
  else
    let st := s.stack x.stack
    let log := rowLogAdd 64 s.frameNo (rowId x) st.rowLog
    let s := s.setStack x.stack { st with rowLog := log }
    if rowLogCount (rowId x) log ≥ 8 then s.askRow x.stack (rowId x) else s

/-- Records an uncorrectable granule (R275, R278). -/
def State.stackUe (s : State) (g : Nat) : State :=
  let x := granPlace g
  let page := stackPage x.stack
  (((s.logErr page (64 * g)).bump page 0x104).raise page 1).askRow x.stack (rowId x)

/-- The granule as the decoder delivers it: bytes, poison tag (R273 to R275). -/
def State.decodeGranule (s : State) (g : Nat) : List Byte × Bool × State :=
  let d := s.granule g
  match rsDecode d (s.ecc64 g) with
  | .ok => (d, false, s)
  | .poison => (allOnes 64, true, s.raise (stackPage (stackOf g)) 2)
  | .corrected d' => (d', false, s.stackCe g)
  | .bad => (allOnes 64, true, s.stackUe g)

def isHost : Agent → Bool
  | .host _ => true
  | _ => false

/-- A read of one granule by an agent, counted (R271, Table 9.2). -/
def State.readGranule (s : State) (g : Nat) (a : Agent) : List PByte × State :=
  let page := stackPage (stackOf g)
  let s := s.bump64 page 0x40
  let s := if isHost a then s.bump64 page 0x50 else s
  let (d, p, s) := s.decodeGranule g
  (d.map fun b => ⟨b, p⟩, s)

/-- A write to one granule at byte offset `o` (R276, R520): whole, partial, or poisoned. -/
def State.writeGranule (s : State) (g o : Nat) (data : List PByte) (a : Agent) : State :=
  let k := stackOf g
  let page := stackPage k
  let s := s.bump64 page 0x48
  let s := if isHost a then s.bump64 page 0x58 else s
  let s := s.setStack k { s.stack k with raced := insNat g (s.stack k).raced }
  if data.any (·.poison) then s.putPoison g
  else if data.length ≥ 64 then s.putGranule g (data.map (·.val))
  else
    let d := s.granule g
    match rsDecode d (s.ecc64 g) with
    | .poison => s.raise page 3
    | .bad => ((s.stackUe g).putPoison g).raise page 3
    | .ok => s.putGranule g (patch d o (data.map (·.val)))
    | .corrected d' => (s.stackCe g).putGranule g (patch d' o (data.map (·.val)))

/-- Reads bytes of stack memory through the controllers. -/
def State.readStack (s : State) (a n : Nat) (ag : Agent) : List PByte × State :=
  let g0 := a / 64
  let cnt := if n == 0 then 0 else (a + n - 1) / 64 - g0 + 1
  let (bs, s) := forN cnt (([] : List PByte), s) fun (acc, s) i =>
    let (d, s) := s.readGranule (g0 + i) ag
    (acc ++ d, s)
  ((bs.drop (a % 64)).take n, s)

/-- Writes bytes of stack memory through the controllers, granule by granule. -/
def State.writeStack (s : State) (a : Nat) (data : List PByte) (ag : Agent) : State :=
  let n := data.length
  let g0 := a / 64
  let cnt := if n == 0 then 0 else (a + n - 1) / 64 - g0 + 1
  forN cnt s fun s i =>
    let lo := max a (64 * (g0 + i))
    let hi := min (a + n) (64 * (g0 + i + 1))
    s.writeGranule (g0 + i) (lo % 64) ((data.drop (lo - a)).take (hi - lo)) ag

/-- Replaces the pending row of a stack (R278), steps 2 to 5. -/
def State.replaceRow (s : State) (k row : Nat) : State :=
  let st := s.stack k
  let page := stackPage k
  let used := (st.repaired.filter (fun r => bankOfRow r == bankOfRow row)).length
  let s := s.setFlag page offStatus 2 (!st.pendNext.isEmpty)
  if used ≥ Config.bankRepairs || st.repaired.length ≥ 4096 || !s.fuseOk 3 then
    (s.setStack k { st with pendRow := st.pendNext.head?, pendNext := st.pendNext.drop 1, exhausted := true }).raise page 5
  else
    let s := (rowGranules k row).foldl (fun s g =>
      match rsDecode (s.granule g) (s.ecc64 g) with
      | .corrected d => s.putGranule g d
      | .bad => s.putPoison g
      | _ => s) s
    let st := { s.stack k with pendRow := st.pendNext.head?, pendNext := st.pendNext.drop 1,
                               repaired := (s.stack k).repaired ++ [row],
                               rowLog := (s.stack k).rowLog.filter (·.row != row) }
    let s := s.setStack k st
    let s := s.wrN page 0x110 (row % 2 ^ 16 + row / 2 ^ 16 % 32 * 2 ^ 16 + row / 2 ^ 21 * 2 ^ 21)
    s.raise page 4

/-- Reads the next granule of the patrol scrub and acts on it (R277). -/
def State.scrubOne (s : State) (k : Nat) : State :=
  let page := stackPage k
  let st := s.stack k
  -- ascending local address: pseudo-channels within a local index (assumption 13)
  let n := st.scrubPos
  let g := granOf { stack := k, pc := n % 64, loc := n / 64 }
  let s := s.setFlag page offStatus 1 true
  let s := s.bump64 page 0x40
  let s := match rsDecode (s.granule g) (s.ecc64 g) with
    | .ok => s
    | .poison => s.raise page 2
    | .corrected d => let s := s.stackCe g
                      if st.raced.contains g then s else (s.putGranule g d).bump64 page 0x48
    | .bad => ((s.stackUe g).putPoison g).bump64 page 0x48
  let st := s.stack k
  let m := n + 1
  if m ≥ 2 ^ 31 then
    ((s.setStack k { st with scrubPos := 0, raced := [] }).setFlag page offStatus 1 false).raise page 6
  else s.setStack k { st with scrubPos := m, raced := [] }

end Sys2Proof.Machine
end

