-- ==== Sys2Proof/Machine/Shade.lean ====
section
/-!
DEFINITION. The Shade slices: homes, line states, the actions of Table 8.4, the directory, check bits and the merge
buffer (R224 to R263, R519, R520).
-/
namespace Sys2Proof.Machine

/-! ## Homes and positions (R226, R235, R236) -/

/-- The slice is in service (R225): its coupler, its die's array, and its control logic. -/
def State.sliceUp (s : State) (k : Nat) : Bool :=
  !(s.slice k).faceDown && !(s.die (k / 1152)).lost && !(s.die (k / 1152)).resetting

/-- The sites that carry no logical tile and whose slice of a die was in service when the map in force was applied,
ascending: positions stay until the map changes (R226). -/
def State.spareSlices (s : State) (die : Nat) : List Nat :=
  (List.range 1152).filter fun x => !s.carrying x && !s.spare.mapDown.contains (die * 1152 + x)

/-- The slice that holds a Shade position of a die. -/
def State.sliceAt (s : State) (die pos : Nat) : Option Nat :=
  if pos < 1024 then (s.siteOf pos).map (die * 1152 + ·)
  else ((s.spareSlices die)[pos - 1024]?).map (die * 1152 + ·)

structure Home where
  die : Nat
  pos : Nat
  set : Nat
deriving DecidableEq, Repr

/-- Home of a window line (R235); `line` is the device address / 256. -/
def windowHome (line : Nat) : Home :=
  let o := line * 256 - windowBase
  let j := o % 0x180000 / 256
  { die := if o ≥ 0x6C000000 then 1 else 0, pos := o % 0x6C000000 / 0x180000, set := j % 384 }

/-- Home of a stack-memory line under an image's PLACE records (R236). -/
def stackHome (places : List Place) (line : Nat) : Home :=
  match places.find? (fun p => p.base / 256 ≤ line && line < p.base / 256 + p.lines) with
  | some p =>
    let i := line - p.base / 256
    { die := p.die, pos := p.first + i % p.count, set := i / p.count % 384 }
  | none =>
    let h := line * 0xD6E8FEB86659FD93 % 2 ^ 64 / 2 ^ 40
    { die := h % 2, pos := h / 2 % 1024, set := h / 2 ^ 11 % 384 }

def isWindowLine (line : Nat) : Bool := isWindow (line * 256)

def State.placesNow (s : State) : List Place := match s.adm.active with
  | some i => i.places
  | none => []

def State.homeOf (s : State) (line : Nat) : Home :=
  if isWindowLine line then windowHome line else stackHome s.placesNow line

def State.homeSlice (s : State) (line : Nat) : Option Nat :=
  let h := s.homeOf line
  s.sliceAt h.die h.pos

/-- A window line is declared pinned by the image in force (R235, R253). -/
def State.windowDeclared (s : State) (line : Nat) : Bool := match s.adm.active with
  | some i => i.pins.any fun p => p.window && p.base / 256 ≤ line && line < p.base / 256 + p.lines
  | none => false

def State.stackPinned (s : State) (line : Nat) : Bool := match s.adm.active with
  | some i => i.pins.any fun p => !p.window && p.base / 256 ≤ line && line < p.base / 256 + p.lines
  | none => false

/-- An agent's own decode finds the address reserved (R20, R21, R23, R57, R487). -/
def State.reservedFor (s : State) (a : Nat) : Bool :=
  if isStack a then false
  else if isWindow a then
    let h := windowHome (a / 256)
    (s.sliceAt h.die h.pos).isNone
  else if isSlow a then !s.slowPopulated a
  else true

/-! ## The directory (R244 to R249) -/

/-- Bank of a line: its home die and the row of its home site. -/
def State.bankOf (s : State) (line : Nat) : Nat :=
  match s.homeSlice line with
  | some k => k / 1152 * 32 + k % 1152 / 36
  | none => (s.homeOf line).die * 32

/-- Page of a directory bank: the slice at column 0 of its row. -/
def bankPage (b : Nat) : Nat := slicePage (b / 32 * 1152 + 36 * (b % 32))

/-- Set of a line in a bank of 512 sets (assumption 14). -/
def dirSet (line : Nat) : Nat := line % 512

def DirBank.find (b : DirBank) (line : Nat) : Option DirEnt := b.ents.find? (·.line == line)

/-- Puts an entry at the most recently used end. -/
def DirBank.put (b : DirBank) (e : DirEnt) : DirBank := { b with ents := b.ents.filter (·.line != e.line) ++ [e] }

def DirBank.drop (b : DirBank) (line : Nat) : DirBank := { b with ents := b.ents.filter (·.line != line) }

/-- Sites that an invalidation goes to (R246). -/
def Sharers.targets : Sharers → List Nat
  | .sites l => l
  | .rows l => l.foldl (fun acc r => acc ++ rangeFrom (36 * r) 36) []

def Sharers.isEmpty : Sharers → Bool
  | .sites l => l.isEmpty
  | .rows l => l.isEmpty

/-- Adds a sharer; a fifth distinct one turns the list into a row vector (R246). -/
def Sharers.add (x : Sharers) (site : Nat) : Sharers :=
  match x with
  | .sites l => if l.contains site then x
    else if l.length < 4 then .sites (l ++ [site])
    else .rows ((l ++ [site]).foldl (fun acc t => insNat (t / 36) acc) [])
  | .rows l => .rows (insNat (site / 36) l)

/-- Removes a line from a tile's read cache; single invalidations leave the tree bits (R525). -/
def Tile.rcDrop (x : Tile) (line : Nat) : Tile :=
  { x with rcache := x.rcache.filter (fun e => e.2.line != line) }

/-- The tile holds a copy of a line. -/
def Tile.rcHas (x : Tile) (line : Nat) : Bool := x.rcache.any (·.2.line == line)

/-- Invalidates the read-cache copies of a line at some sites. -/
def State.invalidateAt (s : State) (line : Nat) (sites : List Nat) : State :=
  sites.foldl (fun s t => if (s.tile t).rcHas line then s.modTile t (·.rcDrop line) else s) s

/-- What is left of a line that is dropped: the way of a pinned stack line stays reserved (R253). -/
def Line.dropped (l : Line) : Option Line :=
  if l.pin && !isWindow (l.line * 256) then some { line := l.line, set := l.set, way := l.way, st := .invalid, pin := true }
  else none

/-- The pins of stack lines become those that `f` names; a way kept for an absent line is freed with its pin (R253). -/
def Slice.unpin (x : Slice) (f : Nat → Bool) : Slice :=
  let fix (l : Line) : Line := if isWindowLine l.line then l else { l with pin := f l.line }
  { x with lines := (x.lines.map fix).filter fun l => l.st != .invalid || l.pin }

/-- Drops a line of a slice, with its merge buffer entries. -/
def Slice.drop (x : Slice) (line : Nat) : Slice :=
  { x with lines := x.lines.filterMap (fun l => if l.line == line then l.dropped else some l)
           merge := x.merge.filter (·.seg / 4 != line) }

/-- Drops the Shade copy of a line without write-back, for a host-coherent copy (R248, R249). -/
def State.dropLine (s : State) (line : Nat) : State :=
  match s.homeSlice line with
  | none => s
  | some k => s.modSlice k (·.drop line)

/-- The entry that a full set gives up (R249): one with no sharer, else the least recently used. -/
def DirBank.victim (b : DirBank) (line : Nat) : DirEnt :=
  let same := b.ents.filter fun e => dirSet e.line == dirSet line
  match same.find? (fun e => e.sharers.isEmpty && !e.host) with
  | some e => e
  | none => same.headD { line := 0 }

/-- The directory entry of a line, created when absent; a full set evicts a victim (R247, R249). -/
def State.dirEnsure (s : State) (line : Nat) : DirEnt × State :=
  let b := s.bankOf line
  let bk := s.bank b
  match bk.find line with
  | some e => (e, s)
  | none =>
    let same := bk.ents.filter fun e => dirSet e.line == dirSet line
    let (bk, s) :=
      if same.length < 16 then (bk, s)
      else
        let v := bk.victim line
        let s := s.invalidateAt v.line v.sharers.targets
        let s := if v.host then s.dropLine v.line else s
        let s := (s.bump (bankPage b) 0x1C4).raise (bankPage b) 12
        ({ (bk.drop v.line) with floor := max bk.floor (v.version + 1) }, s)
    let e : DirEnt := { line := line, version := bk.floor }
    (e, s.setBank b (bk.put e))

/-- Sites that a write to a line invalidates (R246): every sharer but `own`, the tile that writes and updates its copy. -/
def State.sharersBut (s : State) (line : Nat) (own : Option Nat) : List Nat :=
  match (s.bank (s.bankOf line)).find line with
  | none => []
  | some e => e.sharers.targets.filter fun t => own != some t

/-- The directory's part of a write (R246): the sharers' copies go, VERSION rises and SHARERS is cleared. The tile `own`,
which writes and keeps its copy under R58, stays listed, or a later write of another agent would not reach it (R59, R245;
assumption 88). -/
def State.dirWrite (s : State) (line : Nat) (own : Option Nat) : State :=
  let b := s.bankOf line
  match (s.bank b).find line with
  | none => s
  | some e =>
    let s := s.invalidateAt line (s.sharersBut line own)
    let keep := own.toList.filter fun w => (s.tile w).rcHas line
    s.setBank b ((s.bank b).put { e with version := (e.version + 1) % 2 ^ 48, sharers := .sites keep })

/-- Takes the entry of a line out of its bank, with its sharers' copies; FLOOR rises as for an eviction (R247, R519). -/
def State.dirClear (s : State) (line : Nat) : State :=
  let b := s.bankOf line
  match (s.bank b).find line with
  | none => s
  | some e =>
    let s := s.invalidateAt line e.sharers.targets
    s.setBank b { (s.bank b).drop line with floor := max (s.bank b).floor (e.version + 1) }

/-- Current stamp term of a line (R247, R295): the die's RESET_EPOCH and VERSION, or FLOOR with no entry. -/
def State.stampOf (s : State) (line : Nat) : Nat × Nat :=
  let b := s.bankOf line
  let bk := s.bank b
  ((s.die (b / 32)).epoch, match bk.find line with
    | some e => e.version
    | none => bk.floor)

/-! ## Lines of a slice -/

/-- The line of a slice that holds something: a reserved way alone is INVALID. -/
def Slice.find (x : Slice) (line : Nat) : Option Line := x.lines.find? fun l => l.line == line && l.st != .invalid

/-- Puts a line at the most recently used end. -/
def Slice.put (x : Slice) (l : Line) : Slice := { x with lines := x.lines.filter (·.line != l.line) ++ [l] }

/-- Row of a line in its slice, four lines to a row (R262): which four is not stated (assumption 15). -/
def shadeRow (l : Line) : Nat := l.set * 4 + l.way / 4

/-- Asks for a row of a slice to be spared (R262). -/
def State.askShadeRow (s : State) (k row : Nat) : State :=
  let x := s.slice k
  if s.chkOn (slicePage k) || x.sparing.contains row then s
  else
    let s := (s.setSlice k { x with sparing := x.sparing ++ [row] }).raise (slicePage k) 15
    if x.spared.length + x.sparing.length < 24 && s.fuseOk 1 then s else s.spend

def State.shadeCe (s : State) (k : Nat) (l : Line) (w : Nat) : State :=
  let page := slicePage k
  let s := (s.logErr page (l.line * 256 + 8 * w)).raise page 0
  if s.chkOn page then s
  else
    let x := s.slice k
    let row := shadeRow l
    let log := rowLogAdd 16 s.frameNo row x.rowLog
    let s := s.setSlice k { x with rowLog := log }
    if rowLogCount row log ≥ 8 then s.askShadeRow k row else s

def State.shadeUe (s : State) (k : Nat) (l : Line) (w ev : Nat) : State :=
  let page := slicePage k
  (((s.logErr page (l.line * 256 + 8 * w)).bump page 0x118).raise page ev).askShadeRow k (shadeRow l)

/-- Code word w of a line, as a number. -/
def Line.word (l : Line) (w : Nat) : Nat := fieldAt l.data (8 * w) 8

def Line.poisoned (l : Line) (w : Nat) : Bool := l.st == .dead || bit l.poison w

/-- Stores a code word with valid check bits and no poison. -/
def Line.putWord (l : Line) (w v : Nat) : Line :=
  { l with data := patch l.data (8 * w) (natLe 8 v), chk := sdel l.chk w, poison := setBits l.poison w w 0 }

def Line.setPoison (l : Line) (w : Nat) : Line := { l with poison := setBits l.poison w w 1 }

/-- Fills a line's data from stack memory (R239, R242): poisoned granules poison their code words. -/
def State.fillData (s : State) (l : Line) (a : Agent) : Line × State :=
  let (bs, s) := s.readStack (l.line * 256) 256 a
  let mask := forN 32 0 fun m w => if ((bs.drop (8 * w)).take 8).any (·.poison) then m + 2 ^ w else m
  ({ l with data := bs.map (·.val), poison := mask, chk := [] }, s)

/-- Reads one code word of a line with its checks (R257, R258, R260): value, poisoned, the line and the state after. -/
def State.checkWord (s : State) (k : Nat) (l : Line) (w : Nat) (a : Agent) : Nat × Bool × Line × State :=
  if l.poisoned w then (2 ^ 64 - 1, true, l, s)
  else
    match secDecode (s.slice k).parity (l.word w) (sget 0 l.chk w).toNat with
    | .ok => (l.word w, false, l, s)
    | .corrected v => (v, false, l, s.shadeCe k l w)
    | .bad =>
      if l.st == .clean && !isWindowLine l.line then
        let s := s.shadeUe k l w 1
        let (l', s) := s.fillData l a
        if l'.poisoned w then (2 ^ 64 - 1, true, l', s) else (l'.word w, false, l', s)
      else
        (2 ^ 64 - 1, true, l.setPoison w, s.shadeUe k l w 2)

/-- Writes a merge buffer entry back: its changed words, each with recomputed check bits (R259). -/
def writeEntry (l : Line) (e : MergeEnt) : Line :=
  let q := e.seg % 4
  forN 8 l fun l i => if bit e.words i then l.putWord (8 * q + i) (fieldAt e.data (8 * i) 8) else l

/-- Writes back the merge buffer entry of a segment (R482). -/
def State.flushSegment (s : State) (k seg : Nat) : State :=
  let put (x : Slice) (e : MergeEnt) : Slice := { x with lines := x.lines.map fun l => if l.line == seg / 4 then writeEntry l e else l }
  s.modSlice k fun x => { (x.merge.filter (·.seg == seg)).foldl put x with merge := x.merge.filter (·.seg != seg) }

/-- Writes back every merge buffer entry of a line (R259 item 4). An entry of wrong parity is left to `checkMerge`. -/
def State.flushMerge (s : State) (k line : Nat) : State :=
  let x := s.slice k
  let es := x.merge.filter (·.seg / 4 == line)
  if es.isEmpty then s
  else match x.find line with
    | none => s.setSlice k { x with merge := x.merge.filter (·.seg / 4 != line) }
    | some l =>
      let l := es.foldl writeEntry l
      s.setSlice k { x with merge := x.merge.filter (·.seg / 4 != line),
                            lines := x.lines.map fun y => if y.line == line then l else y }

/-- Reads n code words of a line from word `w` with their checks. -/
def State.readWords (s : State) (k : Nat) (l : Line) (w n : Nat) (a : Agent) : List PByte × Line × State :=
  forN n ([], l, s) fun (acc, l, s) i =>
    let (v, p, l, s) := s.checkWord k l (w + i) a
    (acc ++ (natLe 8 v).map (⟨·, p⟩), l, s)

/-- Poisons the granules of a line in stack memory. -/
def State.poisonLine (s : State) (line : Nat) : State :=
  [0, 1, 2, 3].foldl (fun s i => s.putPoison (line * 4 + i)) s

/-- What an eviction does with a line's data (Table 8.4): write back, poison, or nothing. -/
def State.evictData (s : State) (k : Nat) (l : Line) : State :=
  if isWindowLine l.line then s
  else match l.st with
    | .dirty =>
      let r := s.readWords k l 0 32 .module
      r.2.2.writeStack (l.line * 256) r.1 .module
    | .dead => s.poisonLine l.line
    | _ => s

/-- Evicts a line (Table 8.4), after its merge buffer entries. -/
def State.evictLine (s : State) (k : Nat) (l : Line) : State :=
  let s := s.flushMerge k l.line
  let s := s.evictData k (((s.slice k).find l.line).getD l)
  s.modSlice k fun x => { x.drop l.line with evicted := (l.line :: x.evicted).take 1024 }

/-- Makes room for a line in its set (R237), and gives the way: a DEAD way, an INVALID way, else the least recently used
free one. -/
def State.makeWay (s : State) (k set : Nat) : Option (Nat × State) :=
  let x := s.slice k
  let same := x.lines.filter (·.set == set)
  match same.find? (fun l => l.st == .dead && !l.pin) with
  | some d => some (d.way, s.evictLine k d)
  | none =>
    match (List.range 16).find? fun w => !same.any (·.way == w) with
    | some w => some (w, s)
    | none => (same.find? fun l => !l.pin && l.st != .fill && !x.merge.any (·.seg / 4 == l.line)).map fun v =>
        (v.way, s.evictLine k v)

/-- Counts a hit or miss of a class (R250), and a re-miss (R254). -/
def State.countHit (s : State) (k cls : Nat) (hit : Bool) (line : Nat) : State :=
  let page := slicePage k
  let s := s.bump64 page (0x40 + 16 * cls + if hit then 0 else 8)
  if !hit && (s.slice k).evicted.contains line then s.setField page 0x114 15 0 (min 0xFFFF (s.field page 0x114 15 0 + 1))
  else s

/-- Class of an access: host-coherent for the host region (R248, R250). -/
def State.classOf (s : State) (a cls : Nat) : Nat := if s.inHostRegion a then 4 else cls

/-! ## Actions on a line that is present (Table 8.4) -/

/-- Reads bytes [off, off + n) of a present line. -/
def State.lineRead (s : State) (k : Nat) (l : Line) (off n : Nat) (a : Agent) : List PByte × Line × State :=
  if l.st == .dead then
    (List.replicate n ⟨0xFF, true⟩, l, s.raise (slicePage k) 3)
  else
    let w0 := off / 8
    let cnt := if n == 0 then 0 else (off + n - 1) / 8 - w0 + 1
    let (bs, l, s) := forN cnt (([] : List PByte), l, s) fun (acc, l, s) i =>
      let (v, p, l, s) := s.checkWord k l (w0 + i) a
      let s := if p then s.raise (slicePage k) 4 else s
      (acc ++ (natLe 8 v).map (fun b => (⟨if p then 0xFF else b, p⟩ : PByte)), l, s)
    ((bs.drop (off % 8)).take n, l, s)

/-- Merges a narrow write of one code word (R242, R259, R520): through the merge buffer in SEC-DED mode, directly with
its parity bits in parity mode. -/
def State.narrowWord (s : State) (k : Nat) (l : Line) (w o : Nat) (data : List PByte) (a : Agent) : Line × State :=
  if l.poisoned w then (l.setPoison w, s)
  else if data.any (·.poison) then
    let s := s.modSlice k fun x => { x with merge := x.merge.map fun e =>
      if e.seg == l.line * 4 + w / 8 then { e with words := setBits e.words (w % 8) (w % 8) 0 } else e }
    (l.setPoison w, s)
  else if (s.slice k).parity then
    let d := natLe 8 (l.word w)
    let c := sget 0 l.chk w
    let c := forN data.length c fun c i => c &&& ~~~(1#8 <<< (o + i))
    ({ l with data := patch l.data (8 * w) (patch d o (data.map (·.val))), chk := sset 0 l.chk w c }, s)
  else
    let seg := l.line * 4 + w / 8
    match (s.slice k).merge.find? (·.seg == seg) with
    | some e =>
      let e := { e with data := patch e.data (8 * (w % 8) + o) (data.map (·.val)), words := setBits e.words (w % 8) (w % 8) 1 }
      (l, s.modSlice k fun x => { x with merge := x.merge.filter (·.seg != seg) ++ [e] })
    | none =>
      let q := w / 8
      let r := s.readWords k l (8 * q) 8 a
      let bs := r.1
      let l := r.2.1
      let s := r.2.2
      if l.poisoned w then (l, s)
      else
        let e : MergeEnt := { seg := seg, data := patch (bs.map (·.val)) (8 * (w % 8) + o) (data.map (·.val)), words := 2 ^ (w % 8) }
        -- a full buffer gives up its oldest entry, which is written back
        let s := s.setSlice k ((s.slice k).put l)
        let s := match (s.slice k).merge with
          | e0 :: rest =>
            if rest.length < 7 then s
            else
              let put (y : Line) : Line := if y.line == e0.seg / 4 then writeEntry y e0 else y
              s.modSlice k fun x => { x with merge := rest, lines := x.lines.map put }
          | [] => s
        let l := ((s.slice k).find l.line).getD l
        (l, s.modSlice k fun x => { x with merge := x.merge ++ [e] })

/-- A whole code word written beside a merge buffer entry of its segment: the entry takes the word, which no longer has
to be written back (R259). -/
def State.entryWord (s : State) (k line w : Nat) (d : List Byte) : State :=
  s.modSlice k fun x => { x with merge := x.merge.map fun e =>
    if e.seg == line * 4 + w / 8 then
      { e with data := patch e.data (8 * (w % 8)) d, words := setBits e.words (w % 8) (w % 8) 0 }
    else e }

/-- One code word's part of a write at [off, …) of a present line. -/
def State.writeWord (s : State) (k : Nat) (l : Line) (off : Nat) (data : List PByte) (a : Agent) (w : Nat) : Line × State :=
  let lo := max off (8 * w)
  let hi := min (off + data.length) (8 * w + 8)
  let d := (data.drop (lo - off)).take (hi - lo)
  if hi - lo == 8 then
    let s := s.entryWord k l.line w (d.map (·.val))
    if d.any (·.poison) then (l.setPoison w, s) else (l.putWord w (leNat (d.map (·.val))), s)
  else s.narrowWord k l w (lo % 8) d a

/-- Writes bytes at [off, …) of a present line (Table 8.4, R259, R520). The words covered in part come first, since they
are read and may bring the whole line again (R260); the line is DIRTY after them. -/
def State.lineWrite (s : State) (k : Nat) (l : Line) (off : Nat) (data : List PByte) (a : Agent) : Line × State :=
  let n := data.length
  let l := if l.st == .dead then { l with st := .dirty, poison := 2 ^ 32 - 1 } else l
  let w0 := off / 8
  let ws := rangeFrom w0 (if n == 0 then 0 else (off + n - 1) / 8 - w0 + 1)
  let whole (w : Nat) : Bool := off ≤ 8 * w && 8 * w + 8 ≤ off + n
  let (l, s) := (ws.filter (!whole ·) ++ ws.filter whole).foldl (fun (l, s) w => s.writeWord k l off data a w) (l, s)
  ({ l with st := .dirty }, s)

/-- Whether every code word that a write touches is wholly covered (R259). -/
def isNarrow (off n : Nat) : Bool := off % 8 != 0 || (off + n) % 8 != 0

/-- Adds FP32 values to a present line (R255): the line, whether an element was poisoned, and saturations. Every word is
read and checked before any is written, since a check may bring the whole line again (R260). -/
def State.lineAdd (s : State) (k : Nat) (l : Line) (off : Nat) (vals : List Word) (a : Agent) :
    Line × Bool × Nat × State :=
  if l.st == .dead then (l, true, 0, s.raise (slicePage k) 3)
  else
    let w0 := off / 8
    let cnt := if vals.isEmpty then 0 else (off + 4 * vals.length - 1) / 8 - w0 + 1
    let (old, l, s) := forN cnt (([] : List (Nat × Bool)), l, s) fun (acc, l, s) i =>
      let (v, p, l, s) := s.checkWord k l (w0 + i) a
      (acc ++ [(v, p)], l, if p then s.raise (slicePage k) 4 else s)
    let (new, p, n) := (vals.zip (List.range vals.length)).foldl (fun (ws, p, n) (v, i) =>
      let o := off + 4 * i
      match ws[o / 8 - w0]? with
      | some (d, false) =>
        let (x, sat) := satAdd32 (BitVec.ofNat 32 (d / 2 ^ (8 * (o % 8)))) v
        (ws.set (o / 8 - w0) (setBits d (8 * (o % 8) + 31) (8 * (o % 8)) x.toNat, false), p, n + b2n sat)
      | _ => (ws, true, n)) (old, false, 0)
    let l := (new.zip (List.range cnt)).foldl (fun (l : Line) ((d, bad), i) => if bad then l else l.putWord (w0 + i) d) l
    ({ l with st := .dirty }, p, n, s)

def SReq.line : SReq → Nat
  | .read r => r.addr / 256
  | .readDead r => r.addr / 256
  | .write r _ => r.addr / 256
  | .add r _ _ => r.addr / 256
  | .merge r _ _ _ _ => r.addr / 256

def SReq.req : SReq → ShadeReq
  | .read r => r
  | .readDead r => r
  | .write r _ => r
  | .add r _ _ => r
  | .merge r _ _ _ _ => r

def SReq.isWrite : SReq → Bool
  | .write _ _ => true
  | .add _ _ _ => true
  | .merge _ _ _ _ _ => true
  | _ => false

/-- The tile that writes and updates its own copy of the line (R58). An adding tile cannot: its copy is invalidated like
any other (assumption 88). -/
def SReq.own : SReq → Option Nat
  | .write r _ => match r.agent with
    | .tile w => some w
    | _ => none
  | _ => none

/-- What a request's requester receives: data and stamp. -/
structure SAns where
  data  : List PByte := []
  stamp : Option (Nat × Nat) := none
deriving DecidableEq, Repr

/-- The Spectrum table's declaration in force (R119). -/
def State.specTable (s : State) : Nat × Nat := match s.adm.active with
  | some i => (i.specBase, i.specN)
  | none => (0, 0)

/-- Counts toward ADD_SATS and STRAY of a step's bank in the Spectrum header (R116, R120): they go to the header with the
next flush, and before DONE_STEP (`State.hdrFlush`; assumption 90). -/
def State.headerAdd (s : State) (step sats stray : Nat) : State :=
  if s.specTable.2 == 0 || sats + stray == 0 then s
  else
    let upd (e : Nat × Nat × Nat) : Nat × Nat × Nat := if e.1 == step then (step, e.2.1 + sats, e.2.2 + stray) else e
    let l := s.steps.hdrDue
    { s with steps := { s.steps with
        hdrDue := if l.any (·.1 == step) then l.map upd else l ++ [(step, sats, stray)] } }

/-- What precedes a request on a present line: the merge buffer entries of the line, unless a narrow write joins them
(R259), and the directory's part of a write (R246). -/
def State.beforeLine (s : State) (k : Nat) (q : SReq) : State :=
  let narrow := match q with
    | .write r d => isNarrow (r.addr % 256) d.length
    | _ => false
  let s := if narrow then s else s.flushMerge k q.line
  if q.isWrite then s.dirWrite q.line q.own else s

/-- Performs a request on a line that is present (CLEAN, DIRTY or DEAD) in slice k (Table 8.4). -/
def State.onLine (s : State) (k : Nat) (q : SReq) : SAns × State :=
  let line := q.line
  let r := q.req
  let off := r.addr % 256
  let s := s.beforeLine k q
  match (s.slice k).find line with
  | none => ({}, s)
  | some l =>
    match q with
    | .read r =>
      let (bs, l, s) := s.lineRead k l off r.len r.agent
      let s := s.setSlice k ((s.slice k).put l)
      if r.stamp then
        let s := (s.dirEnsure line).2
        ({ data := bs, stamp := some (s.stampOf line) }, s)
      else ({ data := bs }, s)
    | .readDead r =>
      let (bs, l, s) := s.lineRead k l off r.len r.agent
      let l := if r.len == 256 then { l with st := .dead, poison := 0, chk := [], data := List.replicate 256 0 } else l
      ({ data := bs }, s.setSlice k ((s.slice k).put l))
    | .write r d =>
      let (l, s) := s.lineWrite k l off d r.agent
      if s.inHostRegion r.addr then
        -- written through, and left CLEAN (R248)
        let s := s.writeStack r.addr d r.agent
        let s := s.setSlice k ((s.slice k).put l)
        let s := s.flushMerge k line
        ({}, s.modSlice k fun x => { x with lines := x.lines.map fun y => if y.line == line then { y with st := .clean } else y })
      else ({}, s.setSlice k ((s.slice k).put l))
    | .add r vals step =>
      let (l, p, n, s) := s.lineAdd k l off vals r.agent
      let s := s.setSlice k ((s.slice k).put l)
      -- written through, and left CLEAN (R248)
      let s := if s.inHostRegion r.addr && l.st == .dirty then
          let d := (List.range (4 * vals.length)).map fun i => (⟨l.data.getD (off + i) 0, l.poisoned ((off + i) / 8)⟩ : PByte)
          (s.writeStack r.addr d r.agent).modSlice k fun x =>
            { x with lines := x.lines.map fun y => if y.line == line then { y with st := .clean } else y }
        else s
      let s := if n > 0 then ((s.raise (slicePage k) 13).cause step cOverflow).headerAdd step n 0 else s
      ({ data := if p then List.replicate (4 * vals.length) ⟨0xFF, true⟩ else [] }, s)
    | .merge r tag a b c =>
      -- a poisoned entry has no tag to agree with: it is set (assumption 89)
      let (bs, l, s) := s.readWords k l (off / 8) 4 r.agent
      let old := bs.map (·.val)
      let same := !bs.any (·.poison) && l.st != .dead && fieldAt old 0 8 == tag
      let add (o v : Nat) : List Byte := natLe 8 ((if same then fieldAt old o 8 else 0) + v)
      let (l, s) := s.lineWrite k l off ((natLe 8 tag ++ add 8 a ++ add 16 b ++ add 24 c).map (⟨·, false⟩)) r.agent
      ({}, s.setSlice k ((s.slice k).put l))

/-- Enters a host-coherent line in the directory with HOST set (R248). -/
def State.markHost (s : State) (line : Nat) : State :=
  if s.inHostRegion (line * 256) then
    let (e, s) := s.dirEnsure line
    s.setBank (s.bankOf line) ((s.bank (s.bankOf line)).put { e with host := true })
  else s

/-- Completes the fill of a line in FILL: the data arrives and the line is CLEAN (R242). -/
def State.fillLine (s : State) (k line : Nat) : State :=
  match (s.slice k).find line with
  | none => s
  | some l =>
    -- a window line has no backing: it starts as zero data, DIRTY (R239)
    if isWindowLine line then
      s.setSlice k ((s.slice k).put { l with st := .dirty, joined := [], data := List.replicate 256 0, poison := 0, chk := [] })
    else
      let (l, s) := s.fillData { l with st := .clean, joined := [] } .module
      let s := s.setSlice k ((s.slice k).put l)
      s.markHost line

/-- Allocates a line in a state, in the way reserved for it where there is one; none where every way of its set is pinned
or busy (R237, R253). -/
def State.allocate (s : State) (k line : Nat) (st : LineState) : Option State :=
  let set := (s.homeOf line).set
  let put (w : Nat) (s : State) : State :=
    s.modSlice k fun x => x.put { line := line, set := set, way := w, st := st, pin := s.stackPinned line }
  match (s.slice k).lines.find? (·.line == line) with
  | some l => some (put l.way s)
  | none => (s.makeWay k set).map fun (w, s) => put w s

/-- A whole-line write needs no fill. -/
def SReq.wholeLine : SReq → Bool
  | .write r d => r.addr % 256 == 0 && d.length == 256
  | _ => false

/-- Agents whose writes do not allocate a line (R353, R369). -/
def hostLike : Agent → Bool
  | .host _ => true
  | .fe _ => true
  | .pcie _ => true
  | _ => false

/-- A store that goes to stack memory when its line is absent (R353). -/
def SReq.around : SReq → Option (Nat × List PByte)
  | .write r d => if hostLike r.agent && !isWindowLine (r.addr / 256) then some (r.addr, d) else none
  | _ => none

/-- Performs such a store, after the directory's actions. -/
def State.storeAround (s : State) (line addr : Nat) (d : List PByte) (ag : Agent) : State :=
  (s.dirWrite line none).writeStack addr d ag

/-! ## Resets and faults that a request meets -/

/-- The answer to an agent; the module's own engines take theirs within the step. -/
def State.answer (s : State) (q : SReq) (x : SAns) : State :=
  s.say (.reply { agent := q.req.agent, addr := q.req.addr, data := x.data, stamp := x.stamp })

/-- Performs a request on its present line and answers it. -/
def State.perform (s : State) (k : Nat) (q : SReq) : State :=
  let (x, s) := s.onLine k q
  s.answer q x

/-- A request is answered RETRY and is sent again later (R265). -/
def State.retry (s : State) (k : Nat) (q : SReq) : State :=
  let (id, s) := s.fresh
  let s := s.bump (slicePage k) 0x13C
  let s := { s with retries := s.retries ++ [(id, q)] }
  s.say (.reply { agent := q.req.agent, addr := q.req.addr, data := [], retry := true })

/-- The slices of a die that hold anything. -/
def State.liveSlices (s : State) (die : Nat) : List Nat := (s.slices.map (·.1)).filter fun k => k / 1152 == die

/-- Takes the waiting requests of a die's slices, of their lines in FILL and behind invalidations out of them: they are
answered RETRY (R265). -/
def State.retryOpen (s : State) (die : Nat) : State :=
  let s := (s.liveSlices die).foldl (fun s k =>
    let x := s.slice k
    let open_ := (x.lines.filter (·.st == .fill)).foldl (fun acc l => acc ++ l.joined) [] ++ x.waiting
    let keep (l : Line) : Option Line := if l.st == .fill then l.dropped else some l
    let s := s.setSlice k { x with lines := x.lines.filterMap keep, waiting := [] }
    open_.foldl (fun s q => s.retry k q) s) s
  let mine (h : HeldWrite) : Bool := (s.homeOf h.line).die == die
  let l := s.held.filter mine
  let s := { s with held := s.held.filter (!mine ·) }
  l.foldl (fun s h => s.retry ((s.homeSlice h.line).getD (die * 1152)) h.req) s

/-- A control reset is signalled (R264, R266 steps 1 and 2): merge buffers are written back, lines in FILL return to
INVALID, and requests without effect are answered RETRY. -/
def State.dieReset (s : State) (die : Nat) : State :=
  if (s.die die).resetting then s
  else
    let s := s.setDie die { s.die die with resetting := true }
    ((s.liveSlices die).foldl (fun s k => ((s.slice k).merge.map (·.seg / 4)).foldl (fun s l => s.flushMerge k l) s) s).retryOpen die

/-- Begins a change of mode (R261): new requests are held until RECODE_DONE. -/
def State.beginRecode (s : State) (k : Nat) (toParity : Bool) : State :=
  let x := s.slice k
  if x.parity == toParity || x.recoding.isSome then s
  else
    let s := (x.merge.map (·.seg / 4)).foldl (fun s l => s.flushMerge k l) s
    s.modSlice k fun x => { x with recoding := some toParity }

/-- A merge buffer reports a fault of its own parity (R261): what its wrong entries held is lost, so the words changed
there become poison (R260; assumption 91). -/
def State.mergeFault (s : State) (k : Nat) : State :=
  let lose (x : Slice) : Slice :=
    let es := x.merge.filter (·.bad)
    let hit (l : Line) (e : MergeEnt) : Line :=
      if e.seg / 4 == l.line then { l with poison := l.poison ||| e.words * 2 ^ (8 * (e.seg % 4)) } else l
    { x with merge := x.merge.filter (!·.bad), lines := x.lines.map fun l => es.foldl hit l, faulted := true }
  (((s.modSlice k lose).raise (slicePage k) 10).holdRequest 5).beginRecode k true

/-- What a request to slice k finds wrong before it is taken: an uncorrectable error in its directory bank or its die's
network, which resets the die (R264), or a merge buffer entry of wrong parity (R261). -/
def State.arrive (s : State) (k line : Nat) : State :=
  if (s.bank (s.bankOf line)).bad || (s.die (k / 1152)).netBad then s.dieReset (k / 1152)
  else if (s.slice k).merge.any (·.bad) then s.mergeFault k
  else s

/-! ## Whether a slice can take a request now -/

/-- The request needs stack memory: its line is absent, or it is written through (R242, R248). -/
def State.needsStack (s : State) (k : Nat) (q : SReq) : Bool :=
  ((s.slice k).find q.line).isNone || (q.isWrite && s.inHostRegion q.req.addr)

/-- Stack traffic of a slice passes: that of Shade-U goes through Shade-L (R234, R266). -/
def State.throughOpen (s : State) (k : Nat) : Bool := k / 1152 == 0 || !(s.die 0).resetting

/-- The miss buffer is full for a request that needs a new entry (R243). -/
def State.missFull (s : State) (k : Nat) (q : SReq) : Bool :=
  ((s.slice k).find q.line).isNone && q.around.isNone && !q.wholeLine &&
    ((s.slice k).lines.filter (·.st == .fill)).length ≥ 64

/-- The die answers RETRY (R265, R267). -/
def State.dieShut (s : State) (k : Nat) : Bool := (s.die (k / 1152)).resetting || (s.die (k / 1152)).lost

/-- A request must wait at the slice: for a recode, for an earlier request to its line, for the way to stack memory, or for
a place in the miss buffer (R234, R241, R243, R261). -/
def State.mustQueue (s : State) (k : Nat) (q : SReq) : Bool :=
  (s.slice k).recoding.isSome || (s.slice k).waiting.any (·.line == q.line) ||
    (s.needsStack k q && !s.throughOpen k) || s.missFull k q

/-- Puts a request that cannot be performed now where it waits: it is answered RETRY, stands behind an earlier write to its
line, or is held at the slice (R241, R246, R261, R265). -/
def State.defer (s : State) (k : Nat) (q : SReq) : State :=
  if s.dieShut k then s.retry k q
  else if s.held.any (·.line == q.line) then { s with held := s.held ++ [{ line := q.line, sites := [], req := q }] }
  else s.modSlice k fun x => { x with waiting := x.waiting ++ [q] }

/-- A line in FILL receives its data, and its joined requests are answered in order of joining (R243). -/
def State.fillAnswer (s : State) (k line : Nat) : State :=
  match (s.slice k).find line with
  | none => s
  | some l => l.joined.foldl (fun s q => s.perform k q) (s.fillLine k line)

/-- A slice takes a request, filling at once where Table 8.4 says Fill: for agents whose transfer is one command. A write
invalidates its sharers, which acknowledge, within the step (assumption 92). None where no way can hold the line. -/
def State.sliceTake (s : State) (k : Nat) (q : SReq) : Option (SAns × State) :=
  let line := q.line
  let cls := s.classOf q.req.addr q.req.cls
  match (s.slice k).find line with
    | some l =>
      let s := s.countHit k cls true line
      let s := if l.st == .fill then s.fillAnswer k line else s
      some (s.onLine k q)
    | none =>
      let s := s.countHit k cls false line
      match q.around with
      | some (a, d) => some ({}, s.storeAround line a d q.req.agent)
      | none =>
      if q.wholeLine then (s.allocate k line .dirty).map fun s => s.onLine k q
      else (s.allocate k line .fill).map fun s => (s.fillLine k line).onLine k q

/-- Such a request where nothing makes it wait; none where it cannot be performed now. -/
def State.sliceNow (s : State) (k : Nat) (q : SReq) : Option (SAns × State) :=
  if s.dieShut k || s.held.any (·.line == q.line) || s.mustQueue k q then none else s.sliceTake k q

/-- Whether the home slice takes a request to a line now: an access of an agent whose transfer is one command waits for
this. In Dusk the clocks of the slices stand, and the stacks are in self-refresh (Table 12.2). -/
def State.lineReady (s : State) (line : Nat) : Bool :=
  !s.dusk && match s.homeSlice line with
  | none => true
  | some k =>
    let q : SReq := .read { addr := line * 256, len := 256, cls := 5, agent := .module, stamp := false }
    !s.dieShut k && !s.held.any (·.line == line) && !s.mustQueue k q

/-! ## Accesses to device addresses by the module's agents -/

/-- Lines touched by [a, a + n). -/
def linesOf (a n : Nat) : List Nat := if n == 0 then [] else rangeFrom (a / 256) ((a + n - 1) / 256 - a / 256 + 1)

/-- Every Shade line of a range can be served now; otherwise the request is answered RETRY or waits (R261, R265). -/
def State.rangeReady (s : State) (a n : Nat) : Bool :=
  (linesOf a n).all fun l => !(isStack (l * 256) || isWindow (l * 256)) || s.lineReady l

/-- Translates an address in a pair region for the step `t` of an access (R190, R191). -/
def translate (pairs : List Pair) (t a : Nat) : Nat :=
  match pairs.find? (fun p => (p.base0 ≤ a && a < p.base0 + p.len) || (p.base1 ≤ a && a < p.base1 + p.len)) with
  | none => a
  | some p =>
    let c := if p.base0 ≤ a && a < p.base0 + p.len then 0 else 1
    let b (i : Nat) : Nat := if i == 0 then p.base0 else p.base1
    b ((c + t) % 2) + (a - b c)

def State.translate (s : State) (t a : Nat) : Nat :=
  match s.adm.active with
  | some i => Machine.translate i.pairs t a
  | none => a

/-- Reads the slow tier through its port (R281, R282): poisoned granules return the tagged pattern. -/
def State.slowRead (s : State) (a n : Nat) : List PByte × State :=
  let page := pciePage (slowPort a)
  let bs : List PByte := (List.range n).map fun i =>
    if s.ecc64 ((a + i) / 64) != 0 then ⟨0xFF, true⟩ else ⟨s.byte (a + i), false⟩
  let s := s.bump64 page 0x40 n
  if bs.any (·.poison) then (bs, (s.raise page 3).bump page 0x10C) else (bs, s)

/-- One granule's part of a write to the slow tier: a poisoned byte sends the whole with the CXL poison indication
(R282, R520); a part of a poisoned granule leaves it poisoned. -/
def State.slowGran (s : State) (a : Nat) (d : List PByte) : State :=
  if d.any (·.poison) then s.putPoison (a / 64)
  else if d.length ≥ 64 then s.putGranule (a / 64) (d.map (·.val))
  else if s.ecc64 (a / 64) != 0 then s
  else s.setBytes a (d.map (·.val))

def State.slowWrite (s : State) (a : Nat) (d : List PByte) : State :=
  let n := d.length
  let g0 := a / 64
  let cnt := if n == 0 then 0 else (a + n - 1) / 64 - g0 + 1
  let s := forN cnt s fun s i =>
    let lo := max a (64 * (g0 + i))
    let hi := min (a + n) (64 * (g0 + i + 1))
    s.slowGran lo ((d.drop (lo - a)).take (hi - lo))
  s.bump64 (pciePage (slowPort a)) 0x48 n

/-- One line's part of a read: bytes, and the line's stamp where asked. -/
def State.readLine1 (s : State) (q : ShadeReq) (dead : Bool) : SAns × State :=
  let poison : SAns := { data := List.replicate q.len ⟨0xFF, true⟩ }
  if s.reservedFor q.addr then (poison, s.addrFault q.agent q.addr)
  else if isSlow q.addr then
    let (d, s) := s.slowRead q.addr q.len
    ({ data := d }, s)
  else
    match s.homeSlice (q.addr / 256) with
    | none => (poison, s.addrFault q.agent q.addr)
    | some k =>
      if isWindowLine (q.addr / 256) && !s.windowDeclared (q.addr / 256) then
        (poison, (s.addrFault q.agent q.addr).logAddr (slicePage k) q.addr |>.raise (slicePage k) 14)
      else
        let s := s.arrive k (q.addr / 256)
        let r : SReq := if dead then .readDead q else .read q
        -- an agent whose command has no place to wait in reads as it will once the slice answers it (assumption 112)
        match (s.sliceNow k r).orElse fun _ => s.sliceTake k r with
        | some (x, s) => (x, s)
        | none => (poison, s)

/-- Reads device addresses through the Shade (R21, R242, R281): bytes and line stamps. -/
def State.devRead (s : State) (a n cls : Nat) (ag : Agent) (dead stamp : Bool) : List PByte × List (Nat × Nat) × State :=
  (linesOf a n).foldl (fun (bs, st, s) l =>
    let lo := max a (l * 256)
    let hi := min (a + n) (l * 256 + 256)
    let (x, s) := s.readLine1 { addr := lo, len := hi - lo, cls := cls, agent := ag, stamp := stamp } dead
    (bs ++ x.data, match x.stamp with
      | some y => st ++ [y]
      | none => st, s)) ([], [], s)

/-- A tile's own write updates its cached copy (R58). -/
def Tile.rcUpdate (x : Tile) (addr : Nat) (d : List PByte) : Tile :=
  let upd (e : RcLine) : RcLine := if e.line == addr / 256 then { e with data := patch e.data (addr % 256) d } else e
  { x with rcache := x.rcache.map (fun e => (e.1, upd e.2)) }

/-- One line's part of a write. -/
def State.writeLine1 (s : State) (addr : Nat) (d : List PByte) (cls : Nat) (ag : Agent) : State :=
  if s.reservedFor addr then s.addrFault ag addr
  else if isSlow addr then s.slowWrite addr d
  else
    match s.homeSlice (addr / 256) with
    | none => s.addrFault ag addr
    | some k =>
      if isWindowLine (addr / 256) && !s.windowDeclared (addr / 256) then
        (s.addrFault ag addr).logAddr (slicePage k) addr |>.raise (slicePage k) 14
      else
        let s := match ag with
          | .tile t => s.modTile t (·.rcUpdate addr d)
          | _ => s
        let q : SReq := .write { addr := addr, len := d.length, cls := cls, agent := ag, stamp := false } d
        let s := s.arrive k (addr / 256)
        match s.sliceNow k q with
        | some (_, s) => s
        | none => s.defer k q

/-- Writes device addresses through the Shade. -/
def State.devWrite (s : State) (a : Nat) (d : List PByte) (cls : Nat) (ag : Agent) : State :=
  (linesOf a d.length).foldl (fun s l =>
    let lo := max a (l * 256)
    let hi := min (a + d.length) (l * 256 + 256)
    s.writeLine1 lo ((d.drop (lo - a)).take (hi - lo)) cls ag) s

def sound (bs : List Byte) : List PByte := bs.map fun b => ⟨b, false⟩

/-- Adds FP32 values to device addresses at the home slices (R255): whether an element was poisoned, and the state. -/
def State.devAdd (s : State) (a : Nat) (vals : List Word) (cls step : Nat) (ag : Agent) : Bool × State :=
  let n := 4 * vals.length
  (linesOf a n).foldl (fun (p, s) l =>
    let lo := max a (l * 256)
    let hi := min (a + n) (l * 256 + 256)
    let vs := (vals.drop ((lo - a) / 4)).take ((hi - lo) / 4)
    let q : ShadeReq := { addr := lo, len := hi - lo, cls := cls, agent := ag, stamp := false }
    if s.reservedFor lo || isSlow lo then (p, s.addrFault ag lo)
    else match s.homeSlice l with
      | none => (p, s.addrFault ag lo)
      | some k =>
        if isWindowLine l && !s.windowDeclared l then (p, (s.addrFault ag lo).logAddr (slicePage k) lo |>.raise (slicePage k) 14)
        else
          let s := s.arrive k l
          match s.sliceNow k (.add q vs step) with
          | some (x, s) => (p || !x.data.isEmpty, s)
          | none => (p, s.defer k (.add q vs step))) (false, s)

/-- Bytes as every coherent reader sees them, without any effect: a valid Shade copy with its merge buffer, else stack
memory. -/
def State.peekLine (s : State) (line : Nat) : List Byte :=
  let here := s.bytes (line * 256) 256
  match s.homeSlice line with
  | none => here
  | some k => match (s.slice k).find line with
    | none => here
    | some l =>
      if l.st == .fill then here
      else if l.st == .dead then allOnes 256
      else ((s.slice k).merge.filter (·.seg / 4 == line)).foldl writeEntry l |>.data

def State.peek (s : State) (a n : Nat) : List Byte :=
  if s.slices.isEmpty then s.bytes a n
  else ((linesOf a n).foldl (fun acc l => acc ++ s.peekLine l) []).drop (a % 256) |>.take n

/-- The little-endian number of n bytes at a device address. -/
def State.peekN (s : State) (a n : Nat) : Nat := leNat (s.peek a n)

/-- EPOCH of the Spectrum header, as memory and the Shade hold it (R119). -/
def State.specEpochNow (s : State) : Nat := s.peekN (s.specTable.1 + 8) 2

/-- One merge request to a 32 B entry at its home slice (R120, R256); none where the slice cannot take it now. -/
def State.mergeAt (s : State) (at_ step a b c : Nat) (ag : Agent) : Option State :=
  match s.homeSlice (at_ / 256) with
  | none => none
  | some k =>
    let q : SReq := .merge { addr := at_, len := 32, cls := 5, agent := ag, stamp := false }
      (s.specEpochNow * 2 ^ 48 + step) a b c
    ((s.arrive k (at_ / 256)).sliceNow k q).map (·.2)

/-- The counts for the header that wait are merged into their banks where their slice takes them (R120). -/
def State.hdrFlush (s : State) : State :=
  s.steps.hdrDue.foldl (fun s e =>
    let done (s : State) : State := { s with steps := { s.steps with hdrDue := s.steps.hdrDue.filter (· != e) } }
    if s.specTable.2 == 0 then done s
    else ((s.mergeAt (s.specTable.1 + 0x20 + 32 * (e.1 % 4)) e.1 e.2.1 e.2.2 0 .module).map done).getD s) s

/-- One Spectrum flush: the 32 B entry of tensor t in the step's bank (R120); a tensor of N or more counts as STRAY. None
where the home slice cannot take it now. -/
def State.specFlush (s : State) (step : Nat) (e : SpecEntry) (ag : Agent) : Option State :=
  let (base, n) := s.specTable
  if n == 0 then some s
  else if e.tensor ≥ n then some (s.headerAdd step 0 (e.zeros + e.sats + e.nonfin))
  else s.mergeAt (base + 256 + step % 4 * 32 * n + 32 * e.tensor) step e.zeros e.sats e.nonfin ag

end Sys2Proof.Machine
end

