-- ==== Sys2Proof/Machine/Staging.lean ====
section
/-!
DEFINITION. Staged site maps (R30, R432, R433): the map in force with the logical tiles of failing sites moved to spares.
-/
namespace Sys2Proof.Machine

def State.modSpare (s : State) (f : Sparing → Sparing) : State := { s with spare := f s.spare }

/-- The staged site map is withdrawn. -/
def State.unstage (s : State) : State :=
  (s.modSpare fun x => { x with staged := none, toOpen := [] }).setFlag sparePage offStatus 0 false

/-- A row's tile switch opens or closes (Table 12.3). -/
def State.tileSwitch (s : State) (r : Nat) (on : Bool) : State :=
  (s.modSpare fun x => { x with opened := if on then x.opened.filter (· != r) else insNat r x.opened }).setPg (r + 1) on

def mapEnt (m : Sparse SiteEnt) (site : Nat) : SiteEnt := sget (shippedSite site) m site

/-- Lists an entry of a map where it differs from the map as shipped. -/
def mapPut (m : Sparse SiteEnt) (site : Nat) (e : SiteEnt) : Sparse SiteEnt :=
  if e = shippedSite site then sdel m site else sput m site e

/-- The map that a further replacement starts from: the staged one, else the one in force. -/
def State.mapBase (s : State) : Sparse SiteEnt := s.spare.staged.getD s.map

/-- The logical tile of each site moves to the lowest-numbered SPARE site outside `avoid`; the moved sites take state
`st`. None where spares do not suffice. -/
def moveTiles (st : Nat) (avoid : List Nat) : List Nat → Sparse SiteEnt → Option (Sparse SiteEnt)
  | [], m => some m
  | t :: ts, m =>
    let e := mapEnt m t
    if e.st != 0 then moveTiles st avoid ts (if e.st == 1 then mapPut m t { e with tile := 0, st := st } else m)
    else match (List.range 1152).find? fun n => (mapEnt m n).st == 1 && !avoid.contains n with
      | none => none
      | some n =>
        let m := mapPut m n { mapEnt m n with tile := e.tile, st := 0 }
        moveTiles st avoid ts (mapPut m t { e with tile := 0, st := st })

/-- Stages a map (R433) and requests a hold with cause SPARING (Table 13.6). -/
def State.stage (s : State) (m : Sparse SiteEnt) : State :=
  let s := { s with spare := { s.spare with staged := some m } }
  ((s.setFlag sparePage offStatus 0 true).raise sparePage 1).holdRequest 5

/-- Replaces sites: none where the spares or the soft fuses do not allow it (R449). -/
def State.replaceSites (s : State) (sites : List Nat) (st : Nat) : Option State :=
  if !s.fuseOk 0 then none else (moveTiles st sites sites s.mapBase).map s.stage

/-- The sites of a row. -/
def rowSites (r : Nat) : List Nat := rangeFrom (36 * r) 36

/-- The replacement of a whole row: its tile switch opens once the map is in force. -/
def State.replaceRowSites (s : State) (r st : Nat) : Option State :=
  (s.replaceSites (rowSites r) st).map fun s => { s with spare := { s.spare with toOpen := insNat r s.spare.toOpen } }

/-- Three sites of a row FAULTED in the map to come send the row's other tiles to spares (Table 13.9). -/
def State.rowOut (s : State) (r : Nat) : State :=
  let m := s.mapBase
  if (rowSites r).countP (fun t => (mapEnt m t).st == 3) < 3 || !(rowSites r).any (fun t => (mapEnt m t).st == 0) then s
  else (s.replaceRowSites r 2).getD s.spend

/-- Sites reported failing are replaced as they are reported (Table 13.9); one that finds no spare stops the module. -/
def State.spareFailing (s : State) : State :=
  s.failing.foldl (fun s t =>
    if (mapEnt s.mapBase t).st != 0 then { s with failing := s.failing.filter (· != t) }
    else match s.replaceSites [t] 2 with
      | some s => { s with failing := s.failing.filter (· != t) }
      | none => s.spend) s

end Sys2Proof.Machine
end

