-- ==== Sys2Proof/Machine/Finish.lean ====
section
/-!
DEFINITION. The end of every command: Afterglow triggers on the events it raised (R470, R472), event messages to the host
(R495), and the outcome. Also the recorder's fixed records (R466, R467).
-/
namespace Sys2Proof.Machine

/-! ## Records -/

/-- Numbers a record and writes it to the circulating area (R467, R468); the lowest 4,096 also wait for flash. -/
def State.agWrite (s : State) (r : AgRec) : State :=
  let a := s.ag
  let n := a.next
  let r := { r with lost := a.lost }
  { s with ag := { a with
      next := n + 1
      lost := false
      circ := sput a.circ (n % 16384) r
      circN := sput a.circN (n % 16384) n
      keptPend := if n < 4096 then a.keptPend ++ [n] else a.keptPend
      saved := if (n + 1) % 4096 == 0 then n + 1 else a.saved } }

/-- A fixed record of Table 15.2 at the current Gnomon count. -/
def State.agRecord (s : State) (code : Nat) (p : List Nat) : State :=
  s.agWrite { code := code, gt := s.gn.count, unlocked := !s.gn.everLock, p := p }

/-- A conservation fault of a kind of Table 13.11 (R438). -/
def State.consFault (s : State) (kind : Nat) (diff : Int := 0) : State :=
  let s := (((s.raise penPage 10).bump penPage 0x158).setField penPage 0x15C 3 0 kind).penCount 10
  s.agRecord 0x2009 [kind, fieldOf 32 diff]

/-! ## Triggers -/

def trigPage (w : Word) : Nat := bits w.toNat 13 0
def trigBit (w : Word) : Nat := bits w.toNat 18 14
def trigSet (w : Word) : Nat := bits w.toNat 23 19
def trigOn (w : Word) : Bool := bit w.toNat 24

/-- The triggers that an event fires (R470). -/
def State.trigsFor (s : State) (page i : Nat) : List (Nat × Word) :=
  if s.flag agPage offControl 0 then
    s.ag.trigs.filter fun e => trigOn e.2 && trigPage e.2 == page && trigBit e.2 == i && pageKind page != 0
  else []

/-- Queues one fired trigger: coalesced while its own capture is pending, dropped when 16 are pending (R472). The Bool
says that DROPPED was set. -/
def State.queueCap (s : State) (n : Nat) (w : Word) : State × Bool :=
  if s.ag.caps.any (·.trig == n) then (s.bump agPage 0x118, false)
  else if s.ag.caps.length ≥ 16 then
    let s := { s with ag := { s.ag with lost := true } }
    ((s.bump agPage 0x114).setFlag agPage offEvt 1 true, true)
  else
    let c : Cap := { trig := n, page := trigPage w, bit := trigBit w, set := trigSet w, gt := s.gn.count, unlocked := !s.gn.everLock }
    ({ s with ag := { s.ag with caps := s.ag.caps ++ [c] } }, false)

/-- Fires the triggers of one event; a drop sets DROPPED, which fires triggers once, unless a trigger on DROPPED itself
was dropped (R472). -/
def State.fireEvent (s : State) (page i : Nat) : State :=
  let r := (s.trigsFor page i).foldl (fun (s, d) (n, w) =>
    let (s, x) := s.queueCap n w
    (s, d || x)) (s, false)
  if r.2 && !(page == agPage && i == 1) then
    (r.1.trigsFor agPage 1).foldl (fun s (n, w) => (s.queueCap n w).1) r.1
  else r.1

/-! ## Messages -/

/-- A page signals (R492). -/
def State.signals (s : State) (page : Nat) : Bool := s.rd page offEvt &&& s.rd page offEvtEn != 0

/-- The pages whose event registers are not at reset. -/
def State.evtPages (s : State) : List Nat :=
  (s.regs.filter fun e => e.1 % 1024 == 4).map fun e => e.1 / 1024

/-- EVT_SUMMARY (R494): bit k while a page of KIND k signals. -/
def State.evtSummary (s : State) : Nat :=
  s.evtPages.foldl (fun m p => if s.signals p && pageKind p != 0 then m ||| 2 ^ pageKind p else m) 0

def State.hostAttached (s : State) : Bool := s.field hostPage offStatus 1 0 == 1

/-- The interrupt message address, with [1:0] zero. -/
def State.msiAddr (s : State) : Nat := s.field hostPage 0x184 31 2 * 4 + s.field hostPage 0x188 15 0 * 2 ^ 32

/-- Sends the event message of a KIND now, and starts its 2 µs (R495). -/
def State.sendMsi (s : State) (kind : Nat) : State :=
  let n := s.rdN hostPage 0x190
  let s := s.wrN hostPage 0x190 (n + 1)
  let s := s.say (.evtMsi kind s.msiAddr (s.rdN hostPage 0x18C))
  { s with evtHold := insNat kind s.evtHold }

/-- A page of a KIND began to signal (R495). -/
def State.beganKind (s : State) (kind : Nat) : State :=
  if !s.hostAttached || s.msiAddr == 0 then s
  else if s.evtHold.contains kind then { s with evtAgain := insNat kind s.evtAgain }
  else s.sendMsi kind

/-- KINDs of which a page signals after `t` and did not signal in `s`. -/
def newKinds (s t : State) : List Nat :=
  t.evtPages.foldl (fun l p => if t.signals p && !s.signals p && pageKind p != 0 then insNat (pageKind p) l else l) []

/-- The end of a command that began in `s`: staging for failing sites, triggers, messages, and the list of its events emptied;
and the stop of a module whose failing unit has no spare (Table 13.2). -/
def finish (s t : State) : State :=
  let t := t.spareFailing
  let t := t.events.foldl (fun t (p, i) => match t.penInput p i with
    | some n => t.penCount n
    | none => t) t
  let t := t.events.foldl (fun t (p, i) => t.fireEvent p i) t
  let t := (newKinds s t).foldl State.beganKind t
  let t := if t.spare.spent then t.stop else t
  { t with events := [], pending := s.pending }

/-- The outcome of a command whose effect is `f`. A module that power-on has not brought up, or that has left
service, does nothing until power-on (R385, R391, R441). -/
def runOn (s : State) (f : State → State) : Host.Outcome State Fault Refusal :=
  .next (if s.pow.off then s else finish s (f s))

/-- An effect of a part that Dusk stops (Table 12.2). -/
def State.awake (s : State) (f : State → State) : State := if s.dusk then s else f s

/-- The outcome of a command that names a part: a fault where the module has no such part. -/
def runPart (ok : Bool) (s : State) (f : State → State) : Host.Outcome State Fault Refusal :=
  if ok then runOn s f else .fault .noSuchPart

end Sys2Proof.Machine
end

