-- ==== Sys2Proof/Machine/Image.lean ====
section
/-!
DEFINITION. Reading a schedule image in place (R142 to R149, R220, R221): the records of its sections by logical tile.
-/
namespace Sys2Proof.Machine

/-- The record of a section whose TILE field names logical tile t (Tables 5.5, 5.7). -/
def State.tileRec (s : State) (i : Image) (kind rsize t : Nat) : Option Nat :=
  match sfind i.sects kind with
  | none => none
  | some c => ((List.range c.count).find? fun n => s.peekN (c.off + rsize * n) 2 % 1024 == t).map (c.off + rsize * ·)

/-- A STREAM record (Table 5.5). -/
structure StreamRec where
  code    : Nat
  proLen  : Nat
  bodyLen : Nat
  timed   : Nat
  ntimed  : Nat
deriving DecidableEq, Repr

def State.streamRec (s : State) (i : Image) (t : Nat) : Option StreamRec :=
  (s.tileRec i 1 32 t).map fun a =>
    { code := i.base + s.peekN (a + 8) 8, proLen := s.peekN (a + 0x10) 4, bodyLen := s.peekN (a + 0x14) 4,
      timed := s.peekN (a + 0x18) 4, ntimed := s.peekN (a + 0x1C) 4 }

/-- An RBASE record (Table 5.7): address of the first entry, PRO_N, BODY_N. -/
def State.rbaseRec (s : State) (i : Image) (t : Nat) : Nat × Nat × Nat :=
  match s.tileRec i 3 32 t with
  | none => (0, 0, 0)
  | some a => (i.base + s.peekN (a + 8) 8, s.peekN (a + 0x10) 4, s.peekN (a + 0x14) 4)

/-- The STEP record's address (Table 7.8). -/
def stepRec (i : Image) : Nat := match sfind i.sects 0xD with
  | some c => c.off
  | none => i.base

/-- A tile entry of the STEP section (Table 7.8, TILES). -/
structure StepTile where
  reentry : Nat
  reLen   : Nat
  lastNs  : Nat
  scalars : Nat
deriving DecidableEq, Repr

def State.stepTile (s : State) (i : Image) (t : Nat) : StepTile :=
  let a := i.base + s.peekN (stepRec i + 0x30) 8 + 32 * t
  { reentry := i.base + s.peekN a 8, reLen := s.peekN (a + 8) 4, lastNs := s.peekN (a + 0xC) 4,
    scalars := s.peekN (a + 0x10) 4 % 2 ^ 20 }

def State.growth (s : State) (i : Image) : Nat := s.peekN (stepRec i + 0xC) 2
def State.lsMin (s : State) (i : Image) : Int := signedOf 8 (s.peekN (stepRec i + 9) 1)
def State.lsMax (s : State) (i : Image) : Int := signedOf 8 (s.peekN (stepRec i + 10) 1)
def State.fpTable (s : State) (i : Image) : Nat := s.peekN (stepRec i + 0x20) 6
def State.fpBlocks (s : State) (i : Image) : Nat := s.peekN (stepRec i + 0x28) 4
def State.fpGroup (s : State) (i : Image) : Nat := s.peekN (stepRec i + 0x2C) 2 % 4096

/-- Ranges of a block entry (Table 7.9): address and length in bytes. -/
def State.blockRanges (s : State) (i : Image) (n : Nat) : List (Nat × Nat) :=
  let a := i.base + s.peekN (stepRec i + 0x38) 8 + 64 * n
  ((List.range 7).map fun r => (s.peekN (a + 8 + 8 * r) 6, 64 * s.peekN (a + 14 + 8 * r) 2)).filter (·.2 != 0)

/-- Number of block entries: what remains of the STEP section from BLOCKS on. -/
def State.blockCount (s : State) (i : Image) : Nat :=
  match sfind i.sects 0xD with
  | some c => (c.off + c.len - (i.base + s.peekN (stepRec i + 0x38) 8)) / 64
  | none => 0

/-! ## Compound units (R159 to R162) -/

/-- Logical tiles of a local unit; `fuel` bounds the nesting, which admission proves acyclic (R161). -/
def unitTiles (units : List CUnit) : Nat → Nat → List Nat
  | 0, _ => []
  | fuel + 1, u =>
    if u == 0 then List.range 1024
    else match units.find? (·.unit == u) with
      | none => []
      | some c => c.members.foldl (fun acc m =>
          if m.1 == 0 then insNat m.2 acc
          else if m.1 == 1 then (unitTiles units fuel m.2).foldl (fun l t => insNat t l) acc
          else acc) []

/-- Member modules of a system unit (R159). -/
def unitModules (units : List CUnit) : Nat → Nat → List Nat
  | 0, _ => []
  | fuel + 1, u =>
    match units.find? (·.unit == u) with
    | none => []
    | some c => c.members.foldl (fun acc m =>
        if m.1 == 2 then insNat m.2 acc
        else if m.1 == 3 then (unitModules units fuel m.2).foldl (fun l t => insNat t l) acc
        else acc) []

def State.unitsNow (s : State) : List CUnit := match s.adm.active with
  | some i => i.units
  | none => []

/-- The leaf set of a local unit as logical tiles (R162). -/
def State.leaves (s : State) (u : Nat) : List Nat := unitTiles s.unitsNow (s.unitsNow.length + 1) u

end Sys2Proof.Machine
end

