-- ==== Sys2Proof/Machine/Operands.lean ====
section
/-!
DEFINITION. The operand forms of the tile: fields of the instruction word (Tables 2.3 to 2.5), scratch, vector registers,
accumulators, descriptors and endpoints (Tables 2.9, 2.10).
-/
namespace Sys2Proof.Machine

/-! ## The instruction word -/

/-- Field [hi:lo] of an instruction word. -/
def fld (w : BitVec 128) (hi lo : Nat) : Nat := bits w.toNat hi lo

def opcodeOf (w : BitVec 128) : Nat := fld w 127 120
def fmtA (w : BitVec 128) : Nat := fld w 119 116
def fmtB (w : BitVec 128) : Nat := fld w 115 112
def accOf (w : BitVec 128) : Nat := fld w 111 108
def sclassOf (w : BitVec 128) : Nat := fld w 107 105
def rescaleOf (w : BitVec 128) : Bool := bit w.toNat 104
def reflA (w : BitVec 128) : Bool := bit w.toNat 103
def reflB (w : BitVec 128) : Bool := bit w.toNat 102
def rclassOf (w : BitVec 128) : Nat := fld w 101 96
def nbOf (w : BitVec 128) : Nat := fld w 95 64
def trafficOf (w : BitVec 128) : Nat := fld w 101 99
def srOf (w : BitVec 128) : Bool := bit w.toNat 98
def heritageOf (w : BitVec 128) : Bool := bit w.toNat 96

/-- Which common fields an opcode uses; all others must be zero (R38). -/
structure Uses where
  a      : Bool := false
  b      : Bool := false
  acc    : Bool := false
  sclass : Bool := false
  matrix : Bool := false      -- RESCALE, REFL_A, REFL_B, and RCLASS[0]
  conv   : Bool := false      -- RCLASS[5:2]
deriving DecidableEq, Repr

/-- The common fields hold no reserved value and no nonzero unused field (R38). -/
def commonOk (u : Uses) (w : BitVec 128) : Bool :=
  (u.a || fmtA w == 0) && (u.b || fmtB w == 0) && (u.acc || accOf w == 0) &&
  (if u.sclass then sclassOf w < 6 else sclassOf w == 0) &&
  (u.matrix || fld w 104 102 == 0) &&
  (if u.conv then fld w 97 96 == 0 && trafficOf w != 7
   else if u.matrix then fld w 101 97 == 0 else rclassOf w == 0) &&
  (nbOf w < 4096 || nbOf w == 0xFFFFFFFF)

/-- Bits [63:0] outside a mask are zero. -/
def layoutOk (w : BitVec 128) (mask : Nat) : Bool := fld w 63 0 &&& (2 ^ 64 - 1 - mask) == 0

def maskOf (l : List (Nat × Nat)) : Nat := l.foldl (fun m (hi, lo) => m ||| (2 ^ (hi + 1) - 2 ^ lo)) 0

/-! ## Scratch (R25, R40) -/

def scratchSize : Nat := 786432

/-- One scratch byte; at or above 768 KiB, the poison pattern (R40). -/
def Tile.byte (x : Tile) (o : Nat) : Byte := if o < scratchSize then sget 0 x.scratch o else 0xFF

def Tile.bytes (x : Tile) (o n : Nat) : List Byte := (List.range n).map fun i => x.byte (o + i)

/-- Writes one scratch byte with its parity bit; a write at or above 768 KiB is discarded (R40). -/
def Tile.setByte (x : Tile) (o : Nat) (b : Byte) : Tile :=
  if o < scratchSize then { x with scratch := sset 0 x.scratch o b, badScr := x.badScr.filter (· != o) } else x

def Tile.setBytes (x : Tile) : Nat → List Byte → Tile
  | _, [] => x
  | o, b :: bs => (x.setByte o b).setBytes (o + 1) bs

def Tile.num (x : Tile) (o n : Nat) : Nat := leNat (x.bytes o n)

/-- Writes bytes to the scratch of a site; a part at or above 768 KiB is an address fault (R21, R40). -/
def State.putScratch (s : State) (t o : Nat) (d : List Byte) : State :=
  let s := s.modTile t (·.setBytes o d)
  if o + d.length > scratchSize && !d.isEmpty then s.addrFault (.tile t) (max o scratchSize) else s

/-- Raises the address fault of reads that pass the end of scratch (R40). -/
def State.faultReads (s : State) (t : Nat) (rs : List (Nat × Nat)) : State :=
  rs.foldl (fun s (o, n) => if n > 0 && o + n > scratchSize then s.addrFault (.tile t) (max o scratchSize) else s) s

/-- Two ranges (offset, length) overlap. -/
def overlap (a b : Nat × Nat) : Bool := a.1 < b.1 + b.2 && b.1 < a.1 + a.2

def overlaps (l m : List (Nat × Nat)) : Bool := l.any fun a => m.any fun b => overlap a b

/-- The first byte of some ranges whose parity is wrong. -/
def Tile.firstBad (x : Tile) (rs : List (Nat × Nat)) : Option Nat :=
  x.badScr.find? fun o => rs.any fun r => r.1 ≤ o && o < r.1 + r.2

/-! ## Vector registers and accumulators -/

def zeroLanes : List Word := List.replicate 64 0

def Tile.vreg (x : Tile) (r : Nat) : List Word := sget zeroLanes x.vregs r

def Tile.setVreg (x : Tile) (r : Nat) (v : List Word) : Tile := { x with vregs := sput x.vregs r v }

def Tile.accAt (x : Tile) (i : Nat) : Acc := sget Acc.zero x.acc i

def Tile.setAcc (x : Tile) (i : Nat) (a : Acc) : Tile := { x with acc := sput x.acc i a }

/-- The bytes of 64 lanes, lane l at bytes 4l to 4l + 3. -/
def laneBytes (v : List Word) : List Byte := v.foldr (fun w acc => natLe 4 w.toNat ++ acc) []

def lanesOf (bs : List Byte) : List Word := (List.range 64).map fun i => BitVec.ofNat 32 (fieldAt bs (4 * i) 4)

/-- ACC_BUSY: the indices with promotions pending, those whose rescale decision is open (R97). -/
def Tile.accBusy (x : Tile) (i : Nat) : Bool := x.rescale.any (·.acc == i)

/-! ## Endpoints and descriptors -/

/-- An endpoint (Table 2.10); none for kind 3 or a nonzero unnamed bit. -/
def parseEnd (x : Nat) : Option Endpoint :=
  match bits x 63 62 with
  | 0 => if bits x 61 48 == 0 then some (.device (bits x 47 0)) else none
  | 1 => if bits x 61 42 == 0 && bits x 31 20 == 0 then some (.tile (bits x 41 32) (bits x 19 0)) else none
  | 2 => if bits x 46 42 == 0 && bits x 31 20 == 0 then some (.remote (bits x 61 47) (bits x 41 32) (bits x 19 0)) else none
  | _ => none

def Endpoint.low : Endpoint → Nat
  | .device a => a
  | .tile _ o => o
  | .remote _ _ o => o

/-- A descriptor from its 64 B (Table 2.9, R65, R291, R294); none where it holds a reserved value. -/
def parseDesc (bs : List Byte) : Option Desc :=
  let f (o n : Nat) : Nat := fieldAt bs o n
  let ctl := f 0x14 4
  let cnt := f 0x1C 4
  let op := bits ctl 2 0
  let sclass := bits ctl 5 3
  let stamp := bit ctl 7
  let len := bits (f 0x10 4) 23 0
  let tailOk :=
    bits (f 0x28 4) 31 16 == 0 &&
    (if op == 2 then bits (f 0x2C 4) 31 12 == 0 else f 0x2C 4 == 0) &&
    (if stamp then bits (f 0x30 4) 31 4 == 0 else f 0x30 4 == 0) && f 0x34 8 == 0 && f 0x3C 4 == 0
  let ok := op < 3 && sclass < 6 && bits (f 0x10 4) 31 24 == 0 && len != 0 && bits ctl 31 8 == 0 &&
    bits cnt 7 6 == 0 && bits cnt 15 14 == 0 && bits cnt 31 22 == 0 && tailOk &&
    (f 0x18 4 < 4096 || f 0x18 4 == 0xFFFFFFFF)
  match parseEnd (f 0 8), parseEnd (f 8 8) with
  | some src, some dst =>
    let addOk := op != 1 || (len % 4 == 0 && f 0x20 4 % 4 == 0 && f 0x24 4 % 4 == 0 && src.low % 4 == 0 && dst.low % 4 == 0)
    let prismOk := op != 2 || (match dst with
      | .tile t _ => t == 0
      | _ => false) && (match src with
      | .remote _ _ _ => false
      | _ => true)
    let total := len * (f 0x28 2 + 1)
    let stampOk := !stamp || (op != 1 && f 0x20 4 == len && f 0x24 4 == len && total % 4096 == 0 && total ≤ 786432 &&
      (match src with
       | .device a => a % 4096 == 0 && (isStack a || isWindow a)
       | _ => false) && (match dst with
       | .tile _ _ => true
       | _ => false))
    if ok && addOk && prismOk && stampOk then
      some { src := src, dst := dst, len := len, op := op, sclass := sclass, dead := bit ctl 6, stamp := stamp,
             nb := f 0x18 4, kc := if bit cnt 5 then some (bits cnt 4 0) else none,
             ccDst := if bit cnt 13 then some (bits cnt 12 8) else none,
             ccSrc := if bit cnt 21 then some (bits cnt 20 16) else none,
             sstride := f 0x20 4, dstride := f 0x24 4, rows := f 0x28 2,
             unit := bits (f 0x2C 4) 11 0, slot := bits (f 0x30 4) 3 0 }
    else none
  | _, _ => none

/-- Offsets of the rows of a side: base and stride. -/
def Desc.rowOffs (d : Desc) (base stride : Nat) : List Nat := (List.range (d.rows + 1)).map fun r => base + r * stride

end Sys2Proof.Machine
end

