-- ==== Sys2Proof/Machine/Flags.lean ====
section
/-!
DEFINITION. The flags of the step all-clear (R98, R240), and Spectrum counting (R116 to R118).
-/
namespace Sys2Proof.Machine

/-- The flags that conversions set (R98): non-finite in every class, saturation in traffic classes 2 to 5. -/
def State.convFlags (s : State) (tag traffic nonfin sats : Nat) : State :=
  let s := if nonfin > 0 then s.cause tag cNonfinite else s
  if sats > 0 && 2 ≤ traffic && traffic ≤ 5 then s.cause tag cOverflow else s

/-- A tile received tagged data (R240). -/
def State.tilePoison (s : State) (t tag : Nat) : State := (s.raise t 9).cause tag cHardware

/-- One entry of a tile's Spectrum buffer is flushed: its counts leave for the table, where SPECTRUM_FLUSH merges them. A
flush already performed before a replay is skipped by count (R117, R118). -/
def State.flushEntry (s : State) (t : Nat) (e : SpecEntry) : State :=
  s.modTile t fun x =>
    if x.skip.flush > 0 then { x with skip := { x.skip with flush := x.skip.flush - 1 } }
    else { x with done := { x.done with flush := x.done.flush + 1 }, specDue := x.specDue ++ [(x.specStep, e)] }

/-- Saturations of a tile's norm sums count toward ADD_SATS once, whatever is replayed (R116, R118). -/
def State.normSats (s : State) (t tag n : Nat) : State :=
  let x := s.tile t
  if n == 0 then s
  else if x.skip.sats ≥ n then s.modTile t fun x => { x with skip := { x.skip with sats := x.skip.sats - n } }
  else ((s.cause tag cOverflow).headerAdd tag n 0).modTile t fun x => { x with done := { x.done with sats := x.done.sats + n } }

/-- Flushes the whole buffer of a tile, oldest entry first. -/
def State.flushSpec (s : State) (t : Nat) : State :=
  let es := (s.tile t).spectrum
  (es.foldl (fun s e => s.flushEntry t e) s).modTile t fun x => { x with spectrum := [] }

/-- The buffer counts for the step `tag`: entries of another step are flushed first (R117). -/
def State.specBegin (s : State) (t tag : Nat) : State :=
  (if (s.tile t).specStep != tag && !(s.tile t).spectrum.isEmpty then s.flushSpec t else s).modTile t
    fun x => { x with specStep := tag }

/-- Flushes an entry and gives up its place. -/
def State.specOut (s : State) (t : Nat) (e : SpecEntry) : State :=
  (s.flushEntry t e).modTile t fun x => { x with spectrum := x.spectrum.filter (·.tensor != e.tensor) }

/-- An entry whose count would pass the largest value is flushed first. -/
def State.specRoom (s : State) (t tensor z sa nf : Nat) : State :=
  match (s.tile t).spectrum.find? (·.tensor == tensor) with
  | some e => if e.zeros + z ≥ 2 ^ 32 || e.sats + sa ≥ 2 ^ 32 || e.nonfin + nf ≥ 2 ^ 32 then s.specOut t e else s
  | none => s

/-- The oldest entry of a full buffer of 16 is flushed (R117). -/
def State.specEvict (s : State) (t : Nat) : State :=
  match (s.tile t).spectrum with
  | e :: rest => if rest.length ≥ 15 then s.specOut t e else s
  | [] => s

/-- Adds counts to the entry of a tensor, or enters it. -/
def State.specEnter (s : State) (t tensor z sa nf : Nat) : State :=
  let upd (e : SpecEntry) : SpecEntry :=
    if e.tensor == tensor then { e with zeros := e.zeros + z, sats := e.sats + sa, nonfin := e.nonfin + nf } else e
  if (s.tile t).spectrum.any (·.tensor == tensor) then s.modTile t fun x => { x with spectrum := x.spectrum.map upd }
  else (s.specEvict t).modTile t fun x =>
    { x with spectrum := x.spectrum ++ [{ tensor := tensor, zeros := z, sats := sa, nonfin := nf }] }

/-- Counts an instruction's events under a tensor identifier for the step `tag` (R116, R117). An instruction without events
counts nothing, so it flushes nothing either (assumption 96). -/
def State.countSpec (s : State) (t tensor tag z sa nf : Nat) : State :=
  if s.specTable.2 == 0 || (z == 0 && sa == 0 && nf == 0) then s
  else ((s.specBegin t tag).specRoom t tensor z sa nf).specEnter t tensor z sa nf

/-- Numbers of zero, saturation and non-finite events in a list. -/
def countKinds (l : List SpecKind) : Nat × Nat × Nat :=
  (l.countP (· == .zero), l.countP (· == .sat), l.countP (· == .nonfinite))

end Sys2Proof.Machine
end

