-- ==== Sys2Proof/Machine/Issue.lean ====
section
/-!
DEFINITION. How a tile issues an instruction: when it is held (R41, R42, R126, R202, R296), what an illegal one does
(R38), parity errors met by its reads (R71), and the advance of the stream (R144, R201, R212).
-/
namespace Sys2Proof.Machine

/-- The image and stream that a site executes; none where it executes nothing (R26, R158). -/
def State.streamOf (s : State) (t : Nat) : Option (Image × StreamRec) :=
  if s.carrying t && s.gn.running then
    match s.adm.active with
    | none => none
    | some i => (s.streamRec i (s.tileOf t)).map fun r => (i, r)
  else none

/-- RUNNING of STATUS (Table 2.12). -/
def State.running (s : State) (t : Nat) : Bool := (s.streamOf t).isSome

/-- The schedule frame and start count that NB refers to: the most recent FRAME (R41). -/
def State.frameStart (s : State) (t : Nat) : Nat := match (s.tile t).frame with
  | some j => if j == s.gn.frame then s.gn.start else if j < s.gn.frame then 0 else s.gn.start
  | none => 0

/-- The module is parked or restoring (R427, R430): HOLD_STATE 3 or 4, or restored and not yet released. -/
def State.parked (s : State) : Bool :=
  let h := s.field penPage offStatus 2 0
  3 ≤ h || (h == 2 && s.pen.restore)

/-- Why an instruction does not issue: nothing is counted, or 1 tc under a cause. -/
inductive Hold where
  | idle
  | wait (cause : Nat)
deriving DecidableEq, Repr

/-- A range of scratch in whole 1 KiB regions, the unit of R42. -/
def kib (r : Nat × Nat) : Nat × Nat := (r.1 / 1024 * 1024, (r.1 + r.2 + 1023) / 1024 * 1024 - r.1 / 1024 * 1024)

/-- Two lists of ranges share a 1 KiB region. -/
def meet (l m : List (Nat × Nat)) : Bool :=
  overlaps ((l.filter (·.2 != 0)).map kib) ((m.filter (·.2 != 0)).map kib)

/-- A pending access of the tile hazards with one that reads `rs` and writes `ws`: the operands of a matrix instruction whose
rescale decision is open, and the ranges of an open Mirror task (R42, R52, R198). -/
def Tile.hazard (x : Tile) (rs ws : List (Nat × Nat)) : Bool :=
  x.rescale.any (fun r => meet ws r.reads) ||
    x.mirror.any fun m => meet ws (m.reads ++ m.writes) || meet rs m.writes

/-- Regions of own scratch that a descriptor fills. -/
def Desc.fills (d : Desc) : List (Nat × Nat) := match d.dst with
  | .tile _ o => (d.rowOffs o d.dstride).map fun a => (a, d.len)
  | _ => []

/-- Repeated transfers to own scratch that a replay must wait for before touching their region (R71). -/
def State.replayWait (s : State) (t : Nat) (rs : List (Nat × Nat)) : Bool :=
  (s.tile t).replayTo.isSome &&
    ((s.tile t).dmaq.any (fun q => q.2.any fun d => d.again && overlaps rs d.fills) ||
     s.xfers.any fun x => x.site == t && (match x.dst with
       | .scratch d _ => d == t && x.rows.any (fun r => !r.done && overlaps rs [(r.off, r.len)])
       | _ => false))

/-- Regions of the valid prefetch entries (R296). -/
def Tile.pfRegions (x : Tile) : List (Nat × Nat) := x.pf.map fun e => (e.2.dst, e.2.len)

/-- The first instruction of a body pass, and a SPEC, wait for the intake of their step while intake is enabled (R376). -/
def State.intakeWait (s : State) (step : Nat) : Bool := s.host.intake.on && !s.host.intake.complete.contains step

/-- The tile stands at the first instruction of a body pass. -/
def State.atPassStart (s : State) (t : Nat) : Bool := match s.streamOf t with
  | some (_, r) => (s.tile t).reentry.isNone && (s.tile t).pos == r.proLen
  | none => false

/-- The tile has come to the body pass before which an ordered hold stops it (R421), or waits there for a snapshot's
slow-tier part (R425). -/
def State.atHold (s : State) (t : Nat) : Bool := match s.adm.active with
  | none => false
  | some i =>
    let x := s.tile t
    (match s.streamOf t with
      | some (_, r) => x.pos == r.proLen && (x.reentry.isNone || x.reentry == some 0)
      | none => false) &&
      ((match s.pen.fh with
        | some f => s.adm.fa + i.proFrames + x.pass * i.bodyFrames == f && !s.pen.restore
        | none => false) || s.pen.snap.any fun j => !j.later.isEmpty && s.steps.step > j.step)

/-- The rules that hold an instruction which reads `rs` and writes `ws` of scratch (R41, R42, R71, R202, R210, R296). -/
def State.holds (s : State) (t : Nat) (w : BitVec 128) (rs ws : List (Nat × Nat)) : Option Hold :=
  let x := s.tile t
  if !s.running t || s.spare.opened.contains (t / 36) || x.halting || s.dusk || s.parked then some .idle
  else if x.perr.isSome then some (.wait stRecompute)
  else if s.steps.phase != .exec && s.steps.phase != .reported then some (.wait stSlot)
  else if x.waitVerdict || s.adm.mustWait || s.adm.go == some s.gn.frame || s.atHold t then some (.wait stSlot)
  else if s.atPassStart t && s.intakeWait s.steps.step then some (.wait stSlot)
  else if nbOf w != 0xFFFFFFFF && s.gn.count < s.frameStart t + nbOf w then some (.wait stSlot)
  else if x.hazard rs ws then some (.wait stOperand)
  else if overlaps rs x.pfRegions then some (.wait stShade)
  else if s.replayWait t (rs ++ ws) then some (.wait stOperand)
  else none

/-- Index in the body of the next instruction; none outside the body. -/
def Tile.bodyIdx (x : Tile) (r : StreamRec) : Option Nat :=
  if x.reentry.isSome || x.pos < r.proLen then none else some (x.pos - r.proLen)

/-- 2^n as FP32, for −126 ≤ n ≤ 127. -/
def pow2Word (n : Int) : Nat := (n + 127).toNat * 2 ^ 23

/-- The step scalar record (Table 7.4). -/
def State.scalarBytes (s : State) : List Byte :=
  let st := s.steps
  natLe 8 (st.step % 2 ^ 48) ++ natLe 4 (round32 (.fin false (st.step + 1) 0)).toNat ++ natLe 4 (pow2Word st.ls) ++
    natLe 4 (pow2Word (-st.ls)) ++ natLe 4 (fieldOf 8 st.ls) ++ natLe 4 (st.attempt % 2 ^ 32) ++
    natLe 4 (st.verdict % 8) ++ List.replicate 32 0

/-- Writes the step scalar record into the scratch of a carrying tile (R203). -/
def State.writeScalars (s : State) (t : Nat) : State :=
  match s.adm.active with
  | some i => s.putScratch t (s.stepTile i (s.tileOf t)).scalars s.scalarBytes
  | none => s

/-- A replay ends once the instruction that met the error has been performed again, and the transfer that met it has started
(R71, R522). -/
def Tile.replayEnd (x : Tile) : Tile :=
  let waits := x.redo.any fun d => x.dmaq.any fun q => q.2.any fun e => (e.rp, e.icount) == d
  if x.replayTo.any (· < x.icount) && !waits then { x with replayTo := none, replayed := [], redo := none } else x

/-- The tile counts one instruction since its RPOINT. -/
def Tile.counted (x : Tile) : Tile := Tile.replayEnd { x with icount := x.icount + 1 }

/-- The place of the next instruction: the re-entry block, the prologue, then the body over and over (R144, R201). A pass
begins with rounding-base entry `pro`, and waits for the verdict if its step is closed (R202). A replay that crosses into the
pass in which it began finds that pass as it stood. -/
def Tile.moved (x : Tile) (r : StreamRec) (st : StepTile) (pro : Nat) : Tile :=
  match x.reentry with
  | some n => { x with reentry := if n + 1 ≥ st.reLen then none else some (n + 1) }
  | none =>
    if x.pos + 1 ≥ r.proLen + r.bodyLen then
      let y := { x with pos := r.proLen, pass := x.pass + 1, rbase := pro }
      if x.lag > 0 then y
      else { y with waitVerdict := x.closed && !x.decided, closed := x.closed && !x.decided, decided := false }
    else { x with pos := x.pos + 1 }

/-- The tile has performed LAST_NS of a pass: its Spectrum buffer is flushed (R117 item 5), and its contribution to the step
is closed (R212). A body that ends there waits at once for the verdict. A replay through a LAST_NS that was performed before
flushes again, which skips by count, and closes nothing. -/
def State.closeTile (s : State) (t tag : Nat) (again atEnd : Bool) : State :=
  let s := if (s.tile t).specStep == tag then s.flushSpec t else s
  if again then s else s.modTile t fun x => { x with closed := true, waitVerdict := x.waitVerdict || atEnd }

/-- The word of the next instruction of a site's stream, from the image (R144). -/
def State.nextWord (s : State) (t : Nat) : Option (BitVec 128) :=
  (s.streamOf t).map fun (i, r) =>
    let x := s.tile t
    let a := match x.reentry with
      | some n => (s.stepTile i (s.tileOf t)).reentry + 16 * n
      | none => r.code + 16 * x.pos
    BitVec.ofNat 128 (s.peekN a 16)

/-- The schedule frame that a FRAME opens (R125): the body counts its completed passes. -/
def State.frameOpened (s : State) (t : Nat) (w : BitVec 128) : Nat :=
  let x := s.tile t
  let inBody := match s.streamOf t with
    | some (_, r) => (x.bodyIdx r).isSome
    | none => false
  let bf := match s.adm.active with
    | some i => i.bodyFrames
    | none => 0
  s.adm.fa + fld w 39 0 + (if inBody then x.pass * bf else 0)

/-- The tile reaches the FRAME of schedule frame j (R45), with the count at which it does; a replay reaches none that it had
reached. -/
def Tile.reach (x : Tile) (j count : Nat) : Tile :=
  if x.reached.any (fun r => r.1 == j || (j < r.1 && x.replayTo.isSome)) then x else { x with reached := some (j, count) }

/-- Every instruction before the next has issued: where that is a FRAME, the tile has reached it (R45). -/
def State.reachNext (s : State) (t : Nat) : State :=
  match s.nextWord t with
  | some w => if opcodeOf w == 0x01 then s.modTile t (·.reach (s.frameOpened t w) s.gn.count) else s
  | none => s

/-- The stream moves past one instruction (R144, R146, R201, R202, R211, R212). A pass that begins without waiting for its
verdict has its scalars written, after a re-entry block too (R203). -/
def State.advance (s : State) (t : Nat) : State :=
  match s.streamOf t with
  | none => s
  | some (i, r) =>
    let x := s.tile t
    let st := s.stepTile i (s.tileOf t)
    let y := x.counted.moved r st (s.rbaseRec i (s.tileOf t)).2.1
    let s' := s.setTile t y
    let s' := if y.reentry.isNone && y.pos == r.proLen && !y.waitVerdict then s'.writeScalars t else s'
    let s' := if x.reentry.isNone && x.bodyIdx r == some st.lastNs then
        s'.closeTile t (s.tagOf t) (x.closed || x.lag > 0) (x.pos + 1 ≥ r.proLen + r.bodyLen) else s'
    s'.reachNext t

/-- An instruction that reaches issue with a reserved value (R38): a NOP that raises ILLEGAL_INSTR. -/
def State.illegal (s : State) (t : Nat) : State :=
  ((s.raise t 7).cause (s.tagOf t) cHardware).advance t

/-- A read found a parity error (R71 item 1); the instruction is not performed and the tile stops issuing. -/
def State.parityError (s : State) (t : Nat) (e : ParityErr) : State :=
  let s := (s.logErr t e.off).raise t (if e.acc then 2 else 1)
  s.modTile t fun x => { x with perr := some e }

/-- The scratch bytes of some ranges whose parity is wrong. -/
def Tile.allBad (x : Tile) (rs : List (Nat × Nat)) : List Nat :=
  x.badScr.filter fun o => rs.any fun r => r.1 ≤ o && o < r.1 + r.2

/-- A write of the tile to a prefetched region retires its entry (R296). -/
def Tile.retirePf (x : Tile) (ws : List (Nat × Nat)) : Tile :=
  { x with pf := x.pf.filter fun e => !overlaps [(e.2.dst, e.2.len)] ws }

/-- The state in which an issued instruction performs its effect: reads past the end of scratch are recorded, and prefetch
entries that it writes to are retired (R40, R296). -/
def State.ready (s : State) (t : Nat) (rs ws : List (Nat × Nat)) : State := (s.faultReads t rs).modTile t (·.retirePf ws)

/-- What the issue of an instruction depends on: its engine, whether its word holds no reserved value, the scratch whose
content it looks at before anything else and whether that content holds none, all the scratch it reads and writes, a further
hold of its own, and a failed read of its accumulator index. -/
structure Issue where
  eng     : Nat := engIssue
  form    : Bool
  head    : List (Nat × Nat) := []
  content : Bool := true
  reads   : List (Nat × Nat) := []
  writes  : List (Nat × Nat) := []
  also    : Option Hold := none
  accBad  : Option (Nat × List Nat) := none
deriving DecidableEq, Repr

/-- The parity error that a read of some scratch meets. -/
def Tile.parity (x : Tile) (rs : List (Nat × Nat)) : Option ParityErr :=
  (x.firstBad rs).map fun off => { off := off, offs := x.allBad rs, acc := false, icount := x.icount }

/-- Issues an instruction (R38, R40 to R42, R71): held, illegal, stopped by a parity error, or performed by `f`. -/
def State.issue (s : State) (t : Nat) (w : BitVec 128) (q : Issue) (f : State → State) : State :=
  let x := s.tile t
  match s.holds t w (if q.form then q.reads else []) (if q.form then q.writes else []) with
  | some .idle => s
  | some (.wait c) => s.stall t engIssue (if x.replayTo.isSome then stRecompute else c)
  | none =>
    if !q.form then s.illegal t
    else match x.parity q.head with
      | some e => s.parityError t e
      | none =>
        if !q.content then (s.faultReads t q.head).illegal t
        else match q.also with
          | some .idle => s
          | some (.wait c) => s.stall t q.eng c
          | none =>
            match x.parity q.reads, q.accBad with
            | some e, _ => s.parityError t e
            | none, some (off, offs) => s.parityError t { off := off, offs := offs, acc := true, icount := x.icount }
            | none, none => (f (s.ready t q.reads q.writes)).advance t

/-- The outcome of a tile instruction or of work of a tile at a site; in Dusk the tile's clock is stopped. -/
def tileRun (t : Nat) (s : State) (f : State → State) : Host.Outcome State Fault Refusal :=
  runPart (t < 1152) s (·.awake f)

/-- The outcome of a tile instruction: the word must spell the instruction that the command names, or the command is none of
the tile's (R39; assumption 95). -/
def instrRun (fits : Bool) (t : Nat) (s : State) (f : State → State) : Host.Outcome State Fault Refusal :=
  tileRun t s fun s => if fits then f s else s

/-- The opcode of a word. -/
def isOp (w : BitVec 128) (op : Nat) : Bool := opcodeOf w == op

/-- The opcode of a word and its field [63:hi], of a VOP (sub-operation) or a DBG (ACTION). -/
def isSub (w : BitVec 128) (op sub : Nat) : Bool := isOp w op && fld w 63 56 == sub

/-- A GIVE of a kind. -/
def isGive (w : BitVec 128) (kind : Nat) : Bool := isOp w 0x04 && fld w 63 62 == kind

end Sys2Proof.Machine
end

