-- ==== Sys2Proof/Machine/RayOps.lean ====
section
/-!
DEFINITION. Operations of the Ray fabric that other blocks use: numbers and directions (R306, R308), queues of frames, the
dimension-order route (R334), and the building of frames (R312, R329).
-/
namespace Sys2Proof.Machine

def State.port (s : State) (p : Nat) : Port := sget {} s.ray.ports p
def State.setPort (s : State) (p : Nat) (x : Port) : State := { s with ray := { s.ray with ports := sput s.ray.ports p x } }
def State.modPort (s : State) (p : Nat) (f : Port → Port) : State := s.setPort p (f (s.port p))

/-- STATE of a port (Table 10.14). -/
def State.portSt (s : State) (p : Nat) : Nat := s.field (rayPage p) offStatus 2 0
def State.setPortSt (s : State) (p v : Nat) : State := s.setField (rayPage p) offStatus 2 0 v
def State.portUp (s : State) (p : Nat) : Bool := s.portSt p == 3

/-- Direction number of a port (Table 10.1). -/
def dirOf (p : Nat) : Nat := if p < 12 then p / 2 else p - 6

/-- Ports that serve a direction. -/
def portsOf (d : Nat) : List Nat := if d < 6 then [2 * d, 2 * d + 1] else [d + 6]

/-- The other port of a direction; a skip port has none. -/
def twinOf (p : Nat) : Option Nat := if p < 12 then some (if p % 2 == 0 then p + 1 else p - 1) else none

/-- The peer port that Table 10.1 expects. -/
def peerPort (p : Nat) : Nat :=
  if p < 12 then (if p % 4 < 2 then p + 2 else p - 2) else if p % 2 == 0 then p + 1 else p - 1

/-- The opposite direction. -/
def oppDir (d : Nat) : Nat := if d % 2 == 0 then d + 1 else d - 1

/-! ## Numbers (R308) -/

def State.dims (s : State) : Nat × Nat × Nat :=
  (s.field rayComPage 0x104 4 0, s.field rayComPage 0x104 10 5, s.field rayComPage 0x104 16 11)

def State.coord (s : State) : Nat × Nat × Nat :=
  (s.field rayComPage 0x100 3 0, s.field rayComPage 0x100 12 8, s.field rayComPage 0x100 21 16)

def State.skipDim (s : State) (i : Nat) : Nat := s.field rayComPage 0x108 (2 * i + 1) (2 * i)

def dimAt (x : Nat × Nat × Nat) (i : Nat) : Nat := if i == 0 then x.1 else if i == 1 then x.2.1 else x.2.2

def withDim (x : Nat × Nat × Nat) (i v : Nat) : Nat × Nat × Nat :=
  if i == 0 then (v, x.2.1, x.2.2) else if i == 1 then (x.1, v, x.2.2) else (x.1, x.2.1, v)

def physOf (d c : Nat × Nat × Nat) : Nat := c.1 + d.1 * (c.2.1 + d.2.1 * c.2.2)

def coordOf (d : Nat × Nat × Nat) (p : Nat) : Nat × Nat × Nat :=
  (p % max d.1 1, p / max d.1 1 % max d.2.1 1, p / max d.1 1 / max d.2.1 1)

def State.phys (s : State) : Nat := physOf s.dims s.coord

/-- COORD and DIMS are valid (FORMED, R308). -/
def State.formed (s : State) : Bool :=
  let d := s.dims
  let c := s.coord
  1 ≤ d.1 && d.1 ≤ 16 && 1 ≤ d.2.1 && d.2.1 ≤ 32 && 1 ≤ d.2.2 && d.2.2 ≤ 40 &&
    c.1 < d.1 && c.2.1 < d.2.1 && c.2.2 < d.2.2

/-- Dimension and signed step of a direction. -/
def State.dirStep (s : State) (d : Nat) : Nat × Int :=
  if d < 6 then (d / 2, if d % 2 == 0 then 1 else -1)
  else (s.skipDim ((d - 6) / 2), if d % 2 == 0 then 2 else -2)

/-- The neighbour that a direction reaches (Table 10.1). -/
def State.neighbour (s : State) (d : Nat) : Nat :=
  let (i, k) := s.dirStep d
  let n := max (dimAt s.dims i) 1
  let x : Int := (dimAt s.coord i : Int) + k
  physOf s.dims (withDim s.coord i (x % n).toNat)

/-- A port is UNUSED (R308): its dimension has size 1, or it is a skip port of none or of a short dimension. -/
def State.portUnused (s : State) (p : Nat) : Bool :=
  if p < 12 then dimAt s.dims (p / 4) ≤ 1
  else
    let k := s.skipDim ((p - 12) / 2)
    k == 3 || dimAt s.dims k < 5

/-- Physical number of a logical module (R309); without a map, none. -/
def State.physOfLogical (s : State) (m : Nat) : Option Nat := match s.ray.map with
  | some l => l[m]?
  | none => none

/-- This module's logical number; none for a spare or without a map. -/
def State.logical (s : State) : Option Nat := match s.ray.map with
  | some l => l.findIdx? (· == s.phys)
  | none => none

/-! ## Queues -/

/-- Units that a frame occupies (R318). -/
def frameUnits (f : RayFrame) : Nat := (f.payload.length + 32 + 63) / 64

/-- Wire bytes of a frame (R312). -/
def wireBytes (f : RayFrame) : Nat := f.payload.length + 44

def emptyFrame : RayFrame :=
  { type := 0, seq := 0, ack := 0, nak := false, spec := false, stepTag := 0, crPool := 127, crUnits := 0,
    stream := 0xFFF, xseq := 0, last := false, akind := false, dstTile := 0, dstPhys := 0, detour := false, pool := 127,
    addr := 0, srcPhys := 0, cc := 0, ccEn := false, ck := 0, ckEn := false, giveN := 0, srcTile := 0, dirIn := 0,
    poison := 0, payload := [] }

/-- Whether a hop in this direction crosses the ring's wrap (R334). -/
def State.wraps (s : State) (d : Nat) : Bool :=
  let (i, k) := s.dirStep d
  let n := dimAt s.dims i
  let a := dimAt s.coord i
  if k > 0 then a + k.toNat ≥ n else a < k.natAbs

/-- Pool A of an unscheduled class: 64 Glint, 66 MGMT, 68 BULK (Table 10.4). -/
def classPool (type : Nat) : Nat := if type == 3 || type == 4 then 64 else if type == 8 then 68 else 66

/-- Key of an XSEQ count: the direction, and the stream or the class of an unscheduled frame (R330). -/
def xKey (dir : Nat) (f : RayFrame) : Nat :=
  dir * 65536 + if f.stream == 0xFFF then 0x1000 + classPool f.type else f.stream

/-- Bits of a port's STATUS (Table 10.14). -/
def State.portFlag (s : State) (p i : Nat) : Bool := s.flag (rayPage p) offStatus i
def State.setPortFlag (s : State) (p i : Nat) (b : Bool) : State := s.setFlag (rayPage p) offStatus i b

def pTakenOver : Nat := 3
def pServing : Nat := 4
def pDetour : Nat := 5
def pDead : Nat := 6

/-- Appends a frame that has its XSEQ to a port's queue. -/
def State.pushTx (s : State) (p : Nat) (x : TxItem) : State := s.modPort p fun y => { y with txq := y.txq ++ [x] }

/-- Puts a frame on the first hop of the detour of a lost direction d (R336): the first port of another dimension, + before
−, that is UP; a lost skip direction takes its dimension. It waits at the lost port where none is UP. -/
def State.sendDetour (s : State) (d : Nat) (x : TxItem) : State :=
  let f := { x.frame with detour := true, dstPhys := s.neighbour d, dirIn := oppDir d, pool := 66 }
  let dims := if d < 6 then (List.range 6).filter (fun e => e / 2 != d / 2)
    else [2 * (s.dirStep d).1 + d % 2]
  let ports := dims.foldl (fun acc e => acc ++ portsOf e) []
  match ports.find? s.portUp with
  | some p =>
    let f := { f with pool := 66 + b2n (s.wraps (dirOf p)) }
    s.pushTx p { x with frame := f, pool := f.pool }
  | none => s.pushTx ((portsOf d).headD 0) x

/-- Queues an item at a port, at its twin while that serves the port's scheduled entries (R335), or on the detour of the
port's direction (R336). -/
def State.route (s : State) (p : Nat) (x : TxItem) : State :=
  if s.portFlag p pDetour then s.sendDetour (dirOf p) x
  else match twinOf p with
    | some q => s.pushTx (if x.frame.stream != 0xFFF && s.portFlag p pTakenOver then q else p) x
    | none => s.pushTx p x

/-- Puts a frame on a port's queue with the next XSEQ of its direction and stream or class (R330). -/
def State.enqueue (s : State) (p : Nat) (f : RayFrame) (hold : Option (Nat × Nat × Nat) := none) (coll : Bool := false) :
    State :=
  let key := xKey (dirOf p) f
  let n := sget 0 s.ray.xTx key
  let f := { f with xseq := n % 65536 }
  let s := { s with ray := { s.ray with xTx := sset 0 s.ray.xTx key ((n + 1) % 65536) } }
  s.route p { frame := f, pool := f.pool, hold := hold, coll := coll }

/-- The direction of the next hop toward a physical module by dimension order, the shorter way round and + on a tie
(R334); none at the module itself. -/
def State.hopDir (s : State) (dst : Nat) : Option Nat :=
  let d := s.dims
  let here := s.coord
  let there := coordOf d dst
  (List.range 3).findSome? fun i =>
    let n := max (dimAt d i) 1
    let a := dimAt here i
    let b := dimAt there i
    if a == b then none
    else
      let fwd := (b + n - a) % n
      some (2 * i + if fwd ≤ n - fwd then 0 else 1)

/-- The port an unscheduled frame takes in a direction: the lower one while it is UP (R334). -/
def State.routePort (s : State) (d : Nat) : Nat :=
  match portsOf d with
  | [a, b] =>
    let ok (p : Nat) : Bool := s.portUp p && !s.ray.routes.contains p
    if ok a then a else if ok b then b else a
  | l => l.headD 0

/-- Every port of a direction shows its neighbour DEAD (R337). -/
def State.dirDead (s : State) (d : Nat) : Bool := (portsOf d).any fun p => s.portFlag p pDead

/-- Hops that are left toward a module in the dimension and sense of a direction. -/
def State.hopsLeft (s : State) (d dst : Nat) : Nat :=
  let (i, k) := s.dirStep d
  let n := max (dimAt s.dims i) 1
  let a := dimAt s.coord i
  let b := dimAt (coordOf s.dims dst) i
  if k > 0 then (b + n - a) % n else (a + n - b) % n

/-- The direction that an unscheduled frame to `dst` takes where the route gives direction d. One that would pass through a
DEAD neighbour along a skip dimension takes the skip port in the same sense. Any other waits until the route table is
loaded again: what the new table holds for it is not stated (R337). -/
def State.liveDir (s : State) (d dst : Nat) : Option Nat :=
  if !s.dirDead d then some d
  else match (List.range 10).find? fun e => e ≥ 6 && d < 6 && (s.dirStep e).1 == d / 2 && e % 2 == d % 2 &&
      s.hopsLeft d dst ≥ 2 && !s.portUnused (e + 6) && s.portUp (e + 6) with
    | some e => some e
    | none =>
      if !s.ray.dead.contains (s.neighbour d) then none
      else
        let e := (Config.rerouteDir s.phys dst s.ray.dead).toNat
        if e < 10 && !s.dirDead e && !s.portUnused (if e < 6 then 2 * e else e + 6) then some e else none

/-- Frees the units that a frame occupied at a port (R319). -/
def State.freeUnits (s : State) (h : Nat × Nat × Nat) : State :=
  if h.2.1 ≥ 70 then s
  else s.modPort h.1 fun x =>
    { x with occ := sset 0 x.occ h.2.1 (sget 0 x.occ h.2.1 - h.2.2)
             freed := sset 0 x.freed h.2.1 (sget 0 x.freed h.2.1 + h.2.2) }

/-- Sends an unscheduled frame toward its DST_PHYS (R334). `from_` is the port and pool it arrived in with its units. A
frame to a DEAD module is discarded at the hop before it; one whose way is closed waits (R337). -/
def State.sendUnscheduled (s : State) (f : RayFrame) (from_ : Option (Nat × Nat × Nat) := none) : State :=
  match s.hopDir f.dstPhys with
  | none => s
  | some d =>
    if s.dirDead d && s.neighbour d == f.dstPhys then
      let p := (portsOf d).headD 0
      let s := (s.raise (rayPage p) 10).bump (rayPage p) 0x11C
      match from_ with
      | some h => s.freeUnits h
      | none => s
    else match s.liveDir d f.dstPhys with
      | none => { s with ray := { s.ray with waiting := s.ray.waiting ++ [(f, from_)] } }
      | some e =>
        let sameDim := match from_ with
          | some (p, q, _) => q % 2 == 1 && (s.dirStep (dirOf p)).1 == (s.dirStep e).1
          | none => false
        s.enqueue (s.routePort e) { f with pool := classPool f.type + b2n (sameDim || s.wraps e), stream := 0xFFF } from_

/-- Frames that wait for a way are routed again, as a way has opened (R337). -/
def State.rerouteWaiting (s : State) : State :=
  let l := s.ray.waiting
  l.foldl (fun s x => s.sendUnscheduled x.1 x.2) { s with ray := { s.ray with waiting := [] } }

/-- The route table is loaded anew: at an activation and in a hold (R334). -/
def State.loadRoutes (s : State) : State :=
  let dead := (List.range 10).filter s.dirDead |>.map s.neighbour
  (({ s with ray := { s.ray with dead := dead } } : State).raise rayComPage 1).rerouteWaiting

/-- Bits of POISON for a payload (Table 10.2). -/
def poisonBits (d : List PByte) : Nat :=
  forN ((d.length + 63) / 64) 0 fun m i => if ((d.drop (64 * i)).take 64).any (·.poison) then m + 2 ^ i else m

/-- Pads a payload to whole units of 16 B. -/
def pad16 (bs : List Byte) : List Byte := bs ++ List.replicate ((16 - bs.length % 16) % 16) 0

/-- The streams of the image in force. -/
def State.slotHalf (s : State) : SlotHalf := sget {} s.ray.halves s.ray.half

/-- The stream of a tile's remote descriptor (R328). -/
def State.dmaStream (s : State) (tile q m dt : Nat) : Option Stream :=
  s.slotHalf.streams.find? fun x => x.from_ == 0 && x.srcTile == tile && x.dmaQ == q && x.dstMod == m && x.dstTile == dt

/-- The frames of one row of a remote transfer (R329): one per 512 B, in address order. -/
def rowFrames (f : RayFrame) (addr : Nat) (d : List PByte) : List RayFrame :=
  (List.range ((d.length + 511) / 512)).map fun i =>
    let part := (d.drop (512 * i)).take 512
    { f with addr := addr + 512 * i, payload := pad16 (part.map (·.val)), poison := poisonBits part }

/-- Marks the last frame of a transfer. -/
def markLast : List RayFrame → List RayFrame
  | [] => []
  | [f] => [{ f with last := true }]
  | f :: fs => f :: markLast fs

end Sys2Proof.Machine
end

