-- ==== Sys2Proof/Machine/Residency.lean ====
section
/-!
DEFINITION. The residency table and its engine (R284 to R290, R219).
-/
namespace Sys2Proof.Machine

def State.resEnt (s : State) (n : Nat) : ResEnt := sget {} s.res n

def State.setRes (s : State) (n : Nat) (e : ResEnt) : State := { s with res := sset {} s.res n e }

/-- The RESIDENCY records of an image: addresses of the 32 B records of one type (Tables 8.5, 9.1). -/
def State.resRecs (s : State) (i : Image) (type : Nat) : List Nat := match sfind i.sects 9 with
  | none => []
  | some c => ((List.range c.count).map (c.off + 32 * ·)).filter fun a => s.peekN a 1 == type

/-- Declared working sets under the map in force: slice, lines (Table 8.5). -/
def State.wsetsNow (s : State) (i : Image) : List (Nat × Nat) :=
  (s.resRecs i 3).filterMap fun a =>
    (s.sliceAt (s.peekN (a + 1) 1 % 2) (s.peekN (a + 4) 2 % 2048)).map fun k => (k, s.peekN (a + 8) 2 % 8192)

/-- WSET of every slice becomes what an image declares; 0 for a slice without a record (R251). -/
def State.takeWsets (s : State) (l : List (Nat × Nat)) : State :=
  let s := s.slices.foldl (fun s e => s.modSlice e.1 fun x => { x with wset := 0 }) s
  l.foldl (fun s e => s.modSlice e.1 fun x => { x with wset := x.wset + e.2 }) s

/-- A HOME record's INIT tier and SLOW_DELTA for a block; INIT 1 and no slow home where there is none (R285). -/
def State.homeRec (s : State) (i : Image) (n : Nat) : Nat × Int :=
  match (s.resRecs i 4).find? fun a => s.peekN (a + 4) 4 % 2 ^ 18 == n with
  | none => (1, 0)
  | some a => (s.peekN (a + 1) 1 % 4, signedOf 64 (s.peekN (a + 8) 8))

/-- A VISIT record (Table 9.1). -/
structure Visit where
  block : Nat
  first : Nat
  last  : Nat
  hold  : Nat
  stage : Nat
deriving DecidableEq, Repr

def State.visits (s : State) (i : Image) : List Visit :=
  (s.resRecs i 5).map fun a =>
    { block := s.peekN (a + 4) 4 % 2 ^ 18, first := s.peekN (a + 8) 2, last := s.peekN (a + 10) 2,
      hold := s.peekN (a + 16) 6, stage := s.peekN (a + 24) 6 }

/-- Length of a HOLD or STAGE region: the bytes of one copy of its block (assumption 60). -/
def State.holdLen (s : State) (i : Image) (n : Nat) : Nat := (s.blockRanges i n).foldl (fun a r => a + r.2) 0

/-- The HOLD and STAGE regions of an image's visits. -/
def State.visitRegions (s : State) (i : Image) : List (Nat × Nat) :=
  (s.visits i).foldl (fun acc v => acc ++ [(v.hold, s.holdLen i v.block), (v.stage, s.holdLen i v.block)]) []

/-- Both copies of a range whose start is a copy 0 address of a pair region (R190). -/
def bothCopies (pairs : List Pair) (r : Nat × Nat) : List (Nat × Nat) :=
  match pairs.find? fun p => p.base0 ≤ r.1 && r.1 < p.base0 + p.len with
  | some p => [r, (p.base1 + (r.1 - p.base0), r.2)]
  | none => [r]

def State.stackHome (s : State) (i : Image) (n : Nat) : List (Nat × Nat) :=
  (s.blockRanges i n).foldl (fun acc r => acc ++ bothCopies i.pairs r) []

def State.slowHome (s : State) (i : Image) (n : Nat) : List (Nat × Nat) :=
  let d := (s.homeRec i n).2
  if d == 0 then []
  else (s.blockRanges i n).foldl (fun acc r => acc ++ bothCopies i.pairs (((r.1 : Int) + d).toNat, r.2)) []

def inRanges (l : List (Nat × Nat)) (a : Nat) : Bool := l.any fun r => r.1 ≤ a && a < r.1 + r.2

/-- The body frame of the current schedule frame. -/
def State.bodyFrame (s : State) (i : Image) : Option Nat :=
  let j := s.gn.frame
  if j < s.adm.fa + i.proFrames then none else some ((j - s.adm.fa - i.proFrames) % max i.bodyFrames 1)

/-- A visit of block n declares the access now. -/
def State.visiting (s : State) (i : Image) (n : Nat) : Bool :=
  match s.bodyFrame i with
  | none => false
  | some b => (s.visits i).any fun v => v.block == n && v.first ≤ b && b ≤ v.last

/-- What the check of an SCLASS 3 access finds (R287). -/
inductive ResCheck where
  | ok
  | wait
  | fault (block target : Nat)
deriving DecidableEq, Repr

/-- The first of two findings that stops an access. -/
def ResCheck.or (a b : ResCheck) : ResCheck := if a == .ok then b else a

/-- Whether some ranges and [a, a + n) share a byte. -/
def touches (l : List (Nat × Nat)) (a n : Nat) : Bool := l.any fun r => r.1 < a + n && a < r.1 + r.2

/-- What an SCLASS 3 access to a home of block n finds. -/
def State.resBlock (s : State) (i : Image) (n : Nat) (slow : Bool) : ResCheck :=
  let e := s.resEnt n
  if slow && s.visiting i n then .ok
  else if e.moving then .wait
  else if slow then (if e.tier == 2 then .ok else .fault n 2)
  else if e.tier ≤ 1 then .ok
  else .fault n (if (s.homeRec i n).1 == 0 then 0 else 1)

/-- Checks the addresses [a, a + len) of an SCLASS 3 access against every block whose home they touch. -/
def State.resCheck (s : State) (a len : Nat) : ResCheck :=
  match s.adm.active with
  | none => .ok
  | some i => (List.range (s.blockCount i)).foldl (fun c n =>
      let home := if isSlow a then s.slowHome i n else s.stackHome i n
      c.or (if touches home a len then s.resBlock i n (isSlow a) else .ok)) .ok

/-- Starts the moves that may start: one per block, up to 8 at once (R288). -/
def State.startMoves (s : State) : State :=
  s.moves.foldl (fun s m =>
    if m.running || (s.resEnt m.block).moving || (s.moves.filter (·.running)).length ≥ 8 then s
    else
      let s := { s with moves := mapFirst (fun x => x.block == m.block && !x.running) (fun x => { x with running := true }) s.moves }
      s.setRes m.block { s.resEnt m.block with moving := true }) s

/-- Asks for a move. -/
def State.askMove (s : State) (m : Move) : State := { s with moves := s.moves ++ [m] }.startMoves

/-- A residency fault of an access: that of engine `eng` of a tile, a DMA queue or the read cache. It is raised once, and the
engine moves the block (R219, R287). -/
def State.resFault (s : State) (t eng n target : Nat) : State :=
  if s.moves.any fun m => m.block == n && m.for_.contains (t, eng) then s
  else
    let s := (s.raise t 11).bump t 0x2A0
    let s := (s.raise (stackPage 0) 8).bump (stackPage 0) 0x190
    let same (m : Move) : Bool := m.block == n && m.target == target && !m.running && !m.requested
    if s.moves.any same then
      { s with moves := mapFirst same (fun m => { m with for_ := m.for_ ++ [(t, eng)] }) s.moves }
    else s.askMove { block := n, target := target, requested := false, for_ := [(t, eng)] }

/-- Copies one range between homes; poisoned granules as poison (R288). -/
def State.copyRange (s : State) (src dst n : Nat) (cls : Nat) : State :=
  let (d, _, s) := s.devRead src n cls .module false false
  s.devWrite dst d cls .module

/-- The homes of a block for a tier. -/
def State.homeFor (s : State) (i : Image) (n tier : Nat) : List (Nat × Nat) :=
  if tier == 2 then s.slowHome i n else s.stackHome i n

/-- A checked access to some ranges has started and not ended: a row of an SCLASS 3 transfer, or its request to an expander. -/
def State.homeBusy (s : State) (l : List (Nat × Nat)) : Bool :=
  s.xfers.any fun x => x.cls == 3 && (s.slow.any (fun q => q.xfers.any (·.1 == x.id) && touches l q.addr q.len) ||
    (x.dst == .device && x.rows.any fun r => !r.done && touches l (s.translate x.tag r.off) r.len))

/-- A block's move can end: the accesses that had started are complete (R288), and the home slices take the copies now (R261,
R265). -/
def State.moveReady (s : State) (n : Nat) : Bool := match s.adm.active with
  | none => true
  | some i =>
    let l := s.stackHome i n ++ s.slowHome i n
    (l.all fun r => s.rangeReady r.1 r.2) && !s.homeBusy l

/-- The end of a block's move (R288): the copies are made, TIER set and MOVING cleared. -/
def State.endMove (s : State) (n : Nat) : State :=
  match s.moves.find? fun m => m.block == n && m.running with
  | none => s
  | some m =>
    let e := s.resEnt n
    let s := match s.adm.active with
      | none => s
      | some i =>
        if (e.tier == 2) == (m.target == 2) then s
        else ((s.homeFor i n e.tier).zip (s.homeFor i n m.target)).foldl
            (fun s (x : (Nat × Nat) × (Nat × Nat)) => s.copyRange x.1.1 x.2.1 x.1.2 5) s
    let s := s.setRes n { e with tier := m.target, moving := false }
    let s := { s with moves := s.moves.filter fun x => !(x.block == n && x.running) }
    let s := s.bump (stackPage 0) 0x194
    let s := if m.requested then
        ((s.setField (stackPage 0) 0x184 2 1 0).setFlag (stackPage 0) 0x184 0
          (s.moves.any (·.requested))).raise (stackPage 0) 9
      else s
    s.startMoves

/-- A residency request (R289): the result, 0 accepted, 1 refused, 2 no change. -/
def State.resRequest (s : State) (block target : Nat) (seq : Option Nat) : Nat × State :=
  let e := s.resEnt block
  let page := stackPage 0
  if target == 0 || target > 2 || e.tier == 0 || e.visited || (target == 2 && !e.slowHome) || e.tier == 3 then
    (1, s.setField page 0x184 2 1 1)
  else if e.tier == target && !e.moving then (2, s.setField page 0x184 2 1 2)
  else (0, (s.setFlag page 0x184 0 true).askMove { block := block, target := target, requested := true, seq := seq })

/-- The residency table at an image's activation (R290). -/
def State.resActivate (s : State) (i : Image) : State :=
  let vs := s.visits i
  let n := min (s.blockCount i) 262144
  let ents := (List.range n).foldl (fun (m : Sparse ResEnt) k =>
    let h := s.homeRec i k
    let old := s.resEnt k
    let tier := if i.continues then old.tier else h.1
    sset {} m k { tier := tier, moving := false, visited := vs.any (·.block == k), slowHome := h.2 != 0 }) []
  let s' := { s with res := ents, moves := [] }
  if i.continues then
    -- a block whose INIT is 0 or 2 moves there before the prologue's first instruction
    (List.range n).foldl (fun s k =>
      let h := s.homeRec i k
      if h.1 != 1 && (s.resEnt k).tier != h.1 then
        (s.askMove { block := k, target := h.1, requested := false }).endMove k
      else s) s'
  else s'

end Sys2Proof.Machine
end

