-- ==== Sys2Proof/Machine/Dma.lean ====
section
/-!
DEFINITION. DMA queues and transfers (R65 to R69, R291 to R295, R522, R523).
-/
namespace Sys2Proof.Machine

/-- Cuts [a, a + n) at 4 KiB boundaries, where pair regions begin and end (R190). -/
def pieces (a n : Nat) : List (Nat × Nat) :=
  if n == 0 then []
  else (rangeFrom (a / 4096) ((a + n - 1) / 4096 - a / 4096 + 1)).map fun b =>
    let lo := max a (b * 4096)
    (lo, min (a + n) (b * 4096 + 4096) - lo)

/-- Reads device addresses on behalf of step `tag` (R191). -/
def State.readT (s : State) (tag a n cls : Nat) (ag : Agent) (dead stamp : Bool) : List PByte × List (Nat × Nat) × State :=
  (pieces a n).foldl (fun (bs, st, s) p =>
    let (d, y, s) := s.devRead (s.translate tag p.1) p.2 cls ag dead stamp
    (bs ++ d, st ++ y, s)) ([], [], s)

/-- Writes device addresses on behalf of step `tag`. -/
def State.writeT (s : State) (tag a : Nat) (d : List PByte) (cls : Nat) (ag : Agent) : State :=
  (pieces a d.length).foldl (fun s p => s.devWrite (s.translate tag p.1) ((d.drop (p.1 - a)).take p.2) cls ag) s

def wordsOf (d : List PByte) : List Word := (List.range (d.length / 4)).map fun i =>
  BitVec.ofNat 32 (leNat (((d.drop (4 * i)).take 4).map (·.val)))

/-- Adds FP32 values at device addresses on behalf of step `tag`; poisoned words poison their destination (R255, R520).
The Bool says that a tagged response came back. -/
def State.addT (s : State) (tag a : Nat) (d : List PByte) (cls : Nat) (ag : Agent) : Bool × State :=
  (pieces a d.length).foldl (fun (p, s) x =>
    let part := (d.drop (x.1 - a)).take x.2
    let at_ := s.translate tag x.1
    if part.any (·.poison) then
      (List.range (part.length / 4)).foldl (fun (p, s) i =>
        let w := (part.drop (4 * i)).take 4
        if w.any (·.poison) then (p, s.devWrite (at_ + 4 * i) (w.map fun b => { b with poison := true }) cls ag)
        else
          let (q, s) := s.devAdd (at_ + 4 * i) (wordsOf w) cls tag ag
          (p || q, s)) (p, s)
    else
      let (q, s) := s.devAdd at_ (wordsOf part) cls tag ag
      (p || q, s)) (false, s)

/-- Agent that stands for a transfer: its issuing site, or the Ray port it came in by. -/
def Xfer.agent (x : Xfer) : Agent := if x.site < 1152 then .tile x.site else .ray (x.site - 1152)

/-! ## Progress of a transfer -/

/-- Asks an expander to write one row of a transfer. -/
def State.askSlowWrite (s : State) (x : Xfer) (r : Nat) (row : XRow) : State :=
  let a := s.translate x.tag row.off
  let (id, s) := s.fresh
  { s with slow := s.slow ++ [{ id := id, port := slowPort a, addr := a, len := row.len, data := some row.data, xfers := [(x.id, r)] }] }

/-- Whether a destination row of a transfer is served by the slow tier alone. -/
def State.rowSlow (s : State) (x : Xfer) (row : XRow) : Bool :=
  let a := s.translate x.tag row.off
  row.len != 0 && s.slowPopulated a && s.slowPopulated (a + row.len - 1)

/-- The home slices of a row's lines can take it now (R261, R265). -/
def State.rowReady (s : State) (x : Xfer) (row : XRow) : Bool :=
  (pieces row.off row.len).all fun p => s.rangeReady (s.translate x.tag p.1) p.2

/-- Performs one row whose bytes have been read, at a device destination; it waits where a home slice cannot take it. -/
def State.rowToDevice (s : State) (x : Xfer) (r : Nat) (row : XRow) : XRow × State :=
  if row.done || row.src.isSome || !s.rowReady x row then (row, s)
  else if s.rowSlow x row && !x.add then
    -- asked once: the request is in flight while the row is not done
    if s.slow.any (·.xfers.contains (x.id, r)) then (row, s) else (row, s.askSlowWrite x r row)
  else if x.add then
    let (p, s) := s.addT x.tag row.off row.data x.cls x.agent
    let s := if p && x.site < 1152 then s.tilePoison x.site x.tag else s
    ({ row with done := true }, s)
  else ({ row with done := true }, s.writeT x.tag row.off row.data x.cls x.agent)

/-- Counts the source completion once every source byte has been read (Table 2.9). -/
def State.countSrc (s : State) (x : Xfer) : Xfer × State :=
  match x.ccSrc with
  | some c => if x.rows.all (·.src.isNone) then ({ x with ccSrc := none }, s.addCC x.site c 1 x.tag) else (x, s)
  | none => (x, s)

/-- Does what can be done for a transfer now, and keeps it until its completion is counted. -/
def State.settle (s : State) (x : Xfer) : State :=
  let (x, s) := s.countSrc x
  match x.dst with
  | .scratch _ _ => { s with xfers := s.xfers.filter (·.id != x.id) ++ [x] }
  | .device =>
    let (rows, s) := (x.rows.zip (List.range x.rows.length)).foldl (fun (acc, s) (row, r) =>
      let (row, s) := s.rowToDevice x r row
      (acc ++ [row], s)) (([] : List XRow), s)
    { s with xfers := s.xfers.filter (·.id != x.id) ++ [{ x with rows := rows }] }
  | .ray p f =>
    if x.rows.all (·.src.isNone) then
      let fs := markLast (x.rows.foldl (fun acc row => acc ++ rowFrames f row.off row.data) [])
      let s := { s with xfers := s.xfers.filter (·.id != x.id) }
      fs.foldl (fun s f => s.enqueue p f) s
    else { s with xfers := s.xfers.filter (·.id != x.id) ++ [x] }

/-- The reading tile of a transfer received tagged data that goes on past its own scratch (R176, R240). -/
def State.readPoison (s : State) (t tag : Nat) (own : Bool) (d : List PByte) : State :=
  if own || t ≥ 1152 || !d.any (·.poison) then s else s.tilePoison t tag

/-- The destination of a transfer is its issuing tile's own scratch. -/
def Xfer.own (x : Xfer) : Bool := match x.dst with
  | .scratch o _ => o == x.site
  | _ => false

/-- The bytes of a slow-tier row arrive. -/
def State.rowArrives (s : State) (xid r : Nat) (d : List PByte) : State :=
  match s.xfers.find? (·.id == xid) with
  | none => s
  | some x =>
    let s := s.readPoison x.site x.tag x.own d
    let rows := (x.rows.zip (List.range x.rows.length)).map fun (row, k) =>
      if k == r then { row with data := d, src := none } else row
    s.settle { x with rows := rows }

/-- A slow-tier write of a row completes. -/
def State.rowWritten (s : State) (xid r : Nat) : State :=
  { s with xfers := s.xfers.map fun x => if x.id == xid then
      { x with rows := (x.rows.zip (List.range x.rows.length)).map fun (row, k) => if k == r then { row with done := true } else row }
    else x }

/-! ## Starting a descriptor -/

/-- Destinations of a descriptor, once known: device memory, sites with the offset, or a Ray stream. -/
inductive DmaDst where
  | device
  | sites (l : List Nat)
  | ray (st : Stream) (f : RayFrame)
deriving DecidableEq, Repr

/-- The sites a Prism descriptor fills (R291). -/
def State.prismSites (s : State) (d : Desc) : List Nat := (s.leaves d.unit).filterMap s.siteOf

/-- The frame that a remote descriptor's frames are built on (R329, R332). -/
def State.dmaFrame (s : State) (t : Nat) (d : Desc) (m dt : Nat) (st : Stream) : RayFrame :=
  { emptyFrame with
    type := if d.op == 1 then 2 else 1
    spec := s.speculative d.tag
    stepTag := d.tag % 256
    stream := st.outStream
    dstTile := dt
    dstPhys := (s.physOfLogical m).getD 0
    pool := st.outQueue
    srcPhys := s.phys
    cc := d.ccDst.getD 0
    ccEn := d.ccDst.isSome
    srcTile := s.tileOf t }

/-- Where a descriptor of queue q goes; none while no stream carries it. -/
def State.dmaDst (s : State) (t q : Nat) (d : Desc) : Option DmaDst :=
  let own (l : List Nat) : List Nat := if d.again then l.filter (· == t) else l
  if d.op == 2 then some (.sites (own (s.prismSites d)))
  else match d.dst with
    | .device _ => some .device
    | .tile lt _ => some (.sites (own (s.siteOf lt).toList))
    | .remote m lt _ => match s.physOfLogical m with
      | some _ => (s.dmaStream (s.tileOf t) q m lt).map fun st => .ray st (s.dmaFrame t d m lt st)
      | none => none

/-- Rows of a side: (address, length). -/
def Desc.srcRows (d : Desc) : List (Nat × Nat) := (d.rowOffs d.src.low d.sstride).map fun a => (a, d.len)
def Desc.dstRows (d : Desc) : List (Nat × Nat) := (d.rowOffs d.dst.low d.dstride).map fun a => (a, d.len)

def Endpoint.isDevice : Endpoint → Bool
  | .device _ => true
  | _ => false

/-- Device ranges that a descriptor touches, translated for its step. -/
def State.dmaRanges (s : State) (d : Desc) : List (Nat × Nat) :=
  let f (e : Endpoint) (l : List (Nat × Nat)) : List (Nat × Nat) :=
    if e.isDevice then l.foldl (fun acc r => acc ++ (pieces r.1 r.2).map fun p => (s.translate d.tag p.1, p.2)) [] else []
  f d.src d.srcRows ++ f d.dst d.dstRows

/-- The residency check of an SCLASS 3 descriptor. -/
def State.dmaResCheck (s : State) (d : Desc) : ResCheck :=
  if d.sclass != 3 then .ok
  else (s.dmaRanges d).foldl (fun c r => c.or (s.resCheck r.1 r.2)) .ok

/-- Credits that a descriptor needs (R67, R292). -/
def State.dmaCredits (s : State) (d : Desc) : Nat :=
  if d.again || d.kc.isNone then 0 else if d.op == 2 then (s.prismSites d).length else 1

def Endpoint.isRemote : Endpoint → Bool
  | .remote _ _ _ => true
  | _ => false

/-- Why the head of queue q waits: a stall cause, or none when it can start (R67, R287). -/
def State.dmaWait (s : State) (t q : Nat) (d : Desc) : Option Nat :=
  let x := s.tile t
  let slotOrRay := if d.dst.isRemote then stRay else stSlot
  let kc := sget {} x.kc (d.kc.getD 0)
  if x.perr.isSome then some stRecompute
  else if d.nb != 0xFFFFFFFF && s.gn.count < d.start + d.nb then some stSlot
  else if kc.seen (s.speculative d.tag) < s.dmaCredits d then some slotOrRay
  -- no mechanism reads another module's scratch: the descriptor waits (assumption 30)
  else if d.src.isRemote || (s.dmaDst t q d).isNone then some stRay
  else if s.dmaResCheck d != .ok then some stStack
  else if !((s.dmaRanges d).all fun r => s.rangeReady r.1 r.2) then some stShade
  else none

/-- Reads the source rows of a descriptor: rows with bytes or a slow-tier source, and the stamps. A failed byte of another
tile's scratch goes on as poison and is recorded there (assumption 97); a source that failed without a replay is all poison
(R522). -/
def State.dmaRead (s : State) (t : Nat) (d : Desc) : List XRow × State :=
  (d.srcRows.zip d.dstRows).foldl (fun (rows, s) (src, dst) =>
    let row : XRow := { off := dst.1, len := d.len }
    match d.src with
    | .device _ =>
      let a := s.translate d.tag src.1
      -- a row that leaves the populated slow tier is read in place, where each line finds its own fault (R23)
      if s.slowPopulated a && s.slowPopulated (a + d.len - 1) then (rows ++ [{ row with src := some a }], s)
      else
        let (bs, _, s) := s.readT d.tag src.1 d.len d.sclass (.tile t) d.dead d.stamp
        (rows ++ [{ row with data := bs }], s)
    | .tile lt _ =>
      match s.siteOf lt with
      | none => (rows ++ [{ row with data := List.replicate d.len ⟨0xFF, true⟩ }], s)
      | some o =>
        let s := match (if o == t then none else (s.tile o).firstBad [src]) with
          | some b => ((s.logErr o b).raise o 1).cause d.tag cHardware
          | none => s
        let s := s.faultReads t [src]
        let bs : List PByte := (List.range d.len).map fun i =>
          if d.poison || (s.tile o).badScr.contains (src.1 + i) then ⟨0xFF, true⟩ else ⟨(s.tile o).byte (src.1 + i), false⟩
        (rows ++ [{ row with data := bs }], s)
    | .remote _ _ _ => (rows, s)) ([], s)

/-- Current sum of the chunk at an address: over its 16 lines, RESET_EPOCH × 2^48 + VERSION, in 68 bits (R295). -/
def State.chunkNow (s : State) (a : Nat) : Nat :=
  (List.range 16).foldl (fun n l => let y := s.stampOf (a / 256 + l); n + y.1 * 2 ^ 48 + y.2) 0 % 2 ^ 68

/-- The prefetch entry of a stamped descriptor, once its lines are read: each chunk at its own translation (R191, R295). -/
def State.pfEntry (s : State) (d : Desc) : Option (Nat × Prefetch) :=
  if d.stamp then
    let total := d.len * (d.rows + 1)
    let chunks := (List.range (total / 4096)).map fun k => s.translate d.tag (d.src.low + 4096 * k)
    some (d.slot, { chunks := chunks, dst := d.dst.low, len := total, cls := d.sclass, stamps := chunks.map s.chunkNow, stale := [] })
  else none

/-- Starts a descriptor: credits, source reads, and one transfer per destination. -/
def State.dmaStart (s : State) (t : Nat) (d : Desc) (dst : DmaDst) : State :=
  let n := s.dmaCredits d
  let s := match d.kc with
    | some c =>
      let spec := s.speculative d.tag
      let pay (x : Tile) : Tile :=
        { x with kc := sput x.kc c ((sget ({} : Counter) x.kc c).take n spec), done := { x.done with credit := x.done.credit + n } }
      if n > 0 then s.modTile t pay else s
    | none => s
  let note (x : Tile) : Tile :=
    if d.rp == x.rpNo && !x.started.contains d.icount then { x with started := x.started ++ [d.icount] } else x
  let s := s.modTile t note
  let (rows, s) := s.dmaRead t d
  let own := match dst with
    | .sites l => l.contains t
    | _ => false
  let s := s.readPoison t d.tag own (rows.foldl (fun acc r => acc ++ r.data) [])
  let pf := s.pfEntry d
  let s := if d.again then s else match d.ccSrc with
    | some c => if rows.all (·.src.isNone) then s.addCC t c 1 d.tag else s
    | none => s
  let late := if d.again || rows.all (·.src.isNone) then none else d.ccSrc
  let base (id : Nat) (dest : XDst) : Xfer :=
    { id := id, site := t, dst := dest, rows := rows, add := d.op == 1, cls := d.sclass, tag := d.tag, ccSrc := late,
      again := d.again }
  let cc (site : Nat) : Option (Nat × Nat) := if d.again then none else d.ccDst.map (site, ·)
  let (ids, s) := match dst with
    | .device =>
      let (id, s) := s.fresh
      ([id], s.settle { base id .device with cc := cc t })
    | .sites l => l.foldl (fun (ids, s) o =>
        let (id, s) := s.fresh
        let b := base id (.scratch o (s.tileOf o))
        (ids ++ [id], s.settle { b with cc := cc o, pf := pf, ccSrc := if ids.isEmpty then b.ccSrc else none })) ([], s)
    | .ray sr f =>
      let (id, s) := s.fresh
      ([id], s.settle (base id (.ray sr.outPort f)))
  -- slow-tier source rows: one request serves every destination
  (rows.zip (List.range rows.length)).foldl (fun s (row, r) =>
    match row.src with
    | none => s
    | some a =>
      let (id, s) := s.fresh
      { s with slow := s.slow ++ [{ id := id, port := slowPort a, addr := a, len := row.len, xfers := ids.map fun x => (x, r) }] }) s

/-- The head of queue q with its operation. -/
def State.dmaHead (s : State) (t q : Nat) : Option Desc := (sget [] (s.tile t).dmaq q).head?

/-- The head of a queue leaves it; a replay that waited for it may end (R522). -/
def Tile.popDesc (x : Tile) (q : Nat) : Tile :=
  Tile.replayEnd { x with dmaq := sset [] x.dmaq q ((sget [] x.dmaq q).drop 1) }

/-- The first failed byte of the issuing tile's own scratch that a descriptor reads as data (R522). -/
def Desc.ownBad (d : Desc) (s : State) (t : Nat) : Option Nat := match d.src with
  | .tile lt _ => if s.siteOf lt == some t && !d.poison then (s.tile t).firstBad d.srcRows else none
  | _ => none

/-- The head of queue q starts if its operation is `op` and R67 allows; a wait counts 1 tc (R476). A parity error in its
own source stops the tile, with the descriptor still at the head (R522). -/
def State.dmaTry (s : State) (t q op : Nat) : State :=
  match s.dmaHead t q with
  | none => s
  | some d =>
    if d.op != op || !s.carrying t then s
    else match s.dmaWait t q d with
      | some c =>
        let s := s.stall t engDma c
        (match s.dmaResCheck d with
          | .fault n target => if c == stStack then s.resFault t q n target else s
          | _ => s)
      | none =>
        match d.ownBad s t, s.dmaDst t q d with
        | some off, _ => s.parityError t { off := off, offs := (s.tile t).allBad d.srcRows, acc := false,
                                           icount := d.icount, dma := some (d.rp, d.icount) }
        | none, some dst => (s.modTile t (·.popDesc q)).dmaStart t d dst
        | none, none => s

def execDmaCopy (t q : Nat) (s : State) : Host.Outcome State Fault Refusal :=
  runPart (t < 1152 && q < 8) s (·.awake (·.dmaTry t q 0))

def execDmaReduceAdd (t q : Nat) (s : State) : Host.Outcome State Fault Refusal :=
  runPart (t < 1152 && q < 8) s (·.awake (·.dmaTry t q 1))

def execPrism (t q : Nat) (s : State) : Host.Outcome State Fault Refusal :=
  runPart (t < 1152 && q < 8) s (·.awake (·.dmaTry t q 2))

/-- In a replay, what a DMA instruction whose descriptor had started places: its own-scratch part alone, or nothing (R71). -/
def State.placed (s : State) (t : Nat) (d : Desc) : Option Desc :=
  let x := s.tile t
  if x.replayTo.isSome && x.started.contains d.icount then
    match d.dst with
    | .tile lt _ =>
      let own := if d.op == 2 then (s.prismSites d).contains t else s.siteOf lt == some t
      if own then some { d with again := true } else none
    | _ => none
  else some d

/-- What the issue of a DMA depends on (R65, R66): a descriptor with a reserved value is never placed. -/
def State.dmaIssue (s : State) (t : Nat) (w : BitVec 128) : Issue :=
  let a := 64 * fld w 60 47
  let x := s.tile t
  { form := commonOk {} w && layoutOk w (maskOf [(63, 47)])
    head := [(a, 64)]
    content := (parseDesc (x.bytes a 64)).isSome
    reads := [(a, 64)]
    also := if (sget [] x.dmaq (fld w 63 61)).length ≥ 64 then some (.wait stOperand) else none }

/-- DMA (R65): places a descriptor in queue [63:61]. -/
def execDma (t : Nat) (w : BitVec 128) (s : State) : Host.Outcome State Fault Refusal :=
  instrRun (isOp w 0x30) t s fun s =>
    s.issue t w (s.dmaIssue t w) fun s =>
      let q := fld w 63 61
      let x := s.tile t
      match parseDesc (x.bytes (64 * fld w 60 47) 64) with
      | none => s
      | some d =>
        match s.placed t { d with tag := s.tagOf t, start := s.frameStart t, icount := x.icount, rp := x.rpNo } with
        | none => s
        | some d => s.modTile t fun x => { x with dmaq := sset [] x.dmaq q (sget [] x.dmaq q ++ [d]) }

/-! ## Arrival -/

/-- Writes bytes to the scratch of a site for a transfer; tagged bytes as the pattern (R40, R240). -/
def State.landScratch (s : State) (ag : Agent) (site tag o : Nat) (d : List PByte) : State :=
  let s := s.modTile site (·.setBytes o (d.map fun b => if b.poison then 0xFF else b.val))
  let s := if o + d.length > scratchSize && !d.isEmpty then s.addrFault ag (max o scratchSize) else s
  if d.any (·.poison) then s.tilePoison site tag else s

/-- Marks a region as written by an inbound transfer since the RPOINT (R73). -/
def State.markInbound (s : State) (from_ site o n : Nat) : State :=
  if from_ == site then s else s.modTile site fun x => { x with inbound := x.inbound ++ [(o, n)] }

/-- Adds FP32 elements into scratch (R100, R523): elements with a failed byte become the pattern, and the tile does not
replay. -/
def State.addScratch (s : State) (ag : Agent) (again : Bool) (site tag o : Nat) (d : List PByte) : State :=
  let s := (List.range (d.length / 4)).foldl (fun s i =>
    let a := o + 4 * i
    let v := (d.drop (4 * i)).take 4
    let x := s.tile site
    match x.firstBad [(a, 4)] with
    | some b => (((s.modTile site (·.setBytes a (allOnes 4))).logErr site b).raise site 1).cause tag cHardware
    | none =>
      if v.any (·.poison) then (s.modTile site (·.setBytes a (allOnes 4))).tilePoison site tag
      else
        let (y, sat) := satAdd32 (BitVec.ofNat 32 (x.num a 4)) (BitVec.ofNat 32 (leNat (v.map (·.val))))
        let s := s.modTile site (·.setBytes a (natLe 4 y.toNat))
        -- a transfer performed again in a replay has counted its saturations (R118)
        if sat then (if again then s.cause tag cOverflow else (s.cause tag cOverflow).headerAdd tag 1 0) else s) s
  if o + d.length > scratchSize && !d.isEmpty then s.addrFault ag (max o scratchSize) else s

/-- Nothing that left the same tile earlier for the same tile is still on its way (R37). -/
def State.inOrder (s : State) (x : Xfer) (site : Nat) : Bool :=
  !s.xfers.any fun y => y.id < x.id && y.site == x.site && (match y.dst with
    | .scratch o _ => o == site
    | _ => false) && y.rows.any fun r => !r.done && r.src.isNone

/-- The rows of a transfer whose bytes have been read land in the destination tile's scratch, in the order of R37. -/
def State.landRows (s : State) (id : Nat) (add : Bool) : State :=
  match s.xfers.find? (·.id == id) with
  | none => s
  | some x =>
    match x.dst with
    | .scratch site _ =>
      if x.add != add || !s.inOrder x site then s
      else
        let (rows, s) := x.rows.foldl (fun (acc, s) row =>
          if row.done || row.src.isSome then (acc ++ [row], s)
          else
            let s := if add then s.addScratch x.agent x.again site x.tag row.off row.data
              else s.landScratch x.agent site x.tag row.off row.data
            (acc ++ [{ row with done := true }], s.markInbound x.site site row.off row.len)) (([] : List XRow), s)
        { s with xfers := s.xfers.map fun y => if y.id == id then { x with rows := rows } else y }
    | _ => s

def execInboundWrite (id : Nat) (s : State) : Host.Outcome State Fault Refusal := runOn s (·.landRows id false)

def execInboundReduceAdd (id : Nat) (s : State) : Host.Outcome State Fault Refusal := runOn s (·.landRows id true)

/-- The completion of a transfer whose bytes are all at their destination is counted, once (R68). -/
def State.landed (s : State) (x : Xfer) : State :=
  let s := { s with xfers := s.xfers.filter (·.id != x.id) }
  let s := match x.cc with
    | some (site, c) => s.addCC site c 1 x.tag
    | none => s
  match x.dst, x.pf with
  | .scratch site _, some (k, p) => s.modTile site fun y => { y with pf := sput y.pf k p }
  | _, _ => s

/-- Rows that waited for a home slice are performed, and a transfer that is all at its destination is counted (R68). -/
def execTransferLanded (id : Nat) (s : State) : Host.Outcome State Fault Refusal :=
  runOn s fun s =>
    match s.xfers.find? (·.id == id) with
    | none => s
    | some x =>
      let s := match x.dst with
        | .device => s.settle x
        | _ => s
      match s.xfers.find? (·.id == id) with
      | none => s
      | some x => if x.rows.all (·.done) then s.landed x else s

end Sys2Proof.Machine
end

