-- ==== Sys2Proof/Machine/Recover.lean ====
section
/-!
DEFINITION. Recovery from parity errors (R71 to R73), and the path monitors (R34).
-/
namespace Sys2Proof.Machine

/-- The descriptors of a recovery record: 64 B each, up to one of zeros (assumption 33). -/
def State.recordDescs (s : State) (a : Nat) : Nat → List Desc
  | 0 => []
  | fuel + 1 =>
    let bs := s.peek a 64
    if bs.all (· == 0) then []
    else (parseDesc bs).toList ++ s.recordDescs (a + 64) fuel

/-- The rows that a descriptor of a recovery record reads. A failed byte of the tile's own scratch is recorded, and goes on as
poison (R56, R71). -/
def State.reloadRows (s : State) (t : Nat) (d : Desc) : List (List PByte) × State :=
  if d.src.isDevice then
    d.srcRows.foldl (fun (acc, s) r =>
      let (bs, _, s) := s.readT d.tag r.1 d.len d.sclass (.tile t) d.dead false
      (acc ++ [bs], s)) ([], s)
  else
    let s := match d.ownBad s t with
      | some b => ((s.logErr t b).raise t 1).cause d.tag cHardware
      | none => s
    let (rows, s) := s.dmaRead t d
    (rows.map (·.data), s)

/-- Runs one descriptor of a recovery record: a reload of the tile's own scratch. -/
def State.reload (s : State) (t : Nat) (d : Desc) : State :=
  let d := { d with tag := s.tagOf t }
  let (rows, s) := s.reloadRows t d
  (d.dstRows.zip rows).foldl (fun s (dst, bs) => s.landScratch (.tile t) t d.tag dst.1 bs) s

/-- What tells a failed read from another during one replay: its offset in scratch, or in accumulator memory (R72). -/
def ParityErr.key (e : ParityErr) : Nat := if e.acc then 2 ^ 20 + e.off else e.off

/-- The recovery point that a replay may use: one with a record, for a byte that no inbound transfer wrote, and that has not
failed before in this replay (R71 to R73; assumption 34). -/
def Tile.usable (x : Tile) (e : ParityErr) : Option RPoint :=
  match x.rpoint with
  | none => none
  | some r => if r.addr == 0 || x.replayed.contains e.key || (!e.acc && inRanges x.inbound e.off) then none else some r

/-- An outbound transfer whose source failed and is not replayed is sent as the pattern: a transfer of a queue, or the message
of the GSEND that is next (R522). -/
def Tile.sendPattern (x : Tile) (e : ParityErr) (gsend : Bool) : Tile :=
  match e.dma with
  | some k => { x with dmaq := x.dmaq.map fun (q : Nat × List Desc) =>
                  (q.1, mapFirst (fun d => (d.rp, d.icount) == k) (fun d => { d with poison := true }) q.2) }
  | none => if gsend then { x with sendBad := some (x.rpNo, x.icount) } else x

/-- R72: the tile goes on with the failed bytes as the poison pattern. -/
def State.replayFail (s : State) (t : Nat) (e : ParityErr) : State :=
  let gsend := (s.nextWord t).any (isOp · 0x38)
  let s := (s.raise t 8).cause (s.tagOf t) cHardware
  let j := s.gn.frame
  let twice := (s.tile t).rpFails.any fun f => j < f + 1024
  let give (x : Tile) : Tile :=
    let x := { x.sendPattern e gsend with perr := none, rpFails := (x.rpFails.filter fun f => j < f + 1024) ++ [j] }
    if e.acc then
      let i := e.off / 4096
      let a := x.accAt i
      x.setAcc i { a with vals := e.offs.foldl (fun v n => v.set n 0xFFFFFFFF) a.vals, bad := a.bad.filter (!e.offs.contains ·) }
    else e.offs.foldl (fun x o => x.setByte o 0xFF) x
  let s := s.modTile t give
  if twice then s.failSite t else s

/-- Every started access of the tile has finished. -/
def State.quiet (s : State) (t : Nat) : Bool :=
  !(s.xfers.any fun x => x.site == t && x.rows.any (!·.done)) && (s.tile t).rcWant.isEmpty && (s.tile t).mirror.isNone

/-- A tile goes back to its recovery point (R71): what it did since is discarded, but for what leaves the tile, which the
replay skips by count. -/
def Tile.back (x : Tile) (e : ParityErr) (r : RPoint) : Tile :=
  { x with
    perr := none, acc := [], rescale := [], ldc := none, spectrum := [], region := none
    dmaq := (x.dmaq.map fun q => (q.1, q.2.filter (·.rp != x.rpNo))).filter fun q => !q.2.isEmpty
    rbase := r.rbase, pos := r.pos, pass := r.pass, reentry := r.reentry
    skip := x.done, icount := 0
    replayTo := some (max x.icount (x.replayTo.getD 0)), redo := e.dma
    lagTo := if x.replayTo.isSome then x.lagTo else x.pass
    replayed := x.replayed ++ [e.key] }

/-- REPLAY_START (R71): the record is run and the stream goes back to the recovery point. -/
def State.replayStart (s : State) (t : Nat) : State :=
  match (s.tile t).perr with
  | none => s
  | some e =>
    if !s.quiet t then s.stall t engIssue stRecompute
    else match (s.tile t).usable e with
      | none => s.replayFail t e
      | some r =>
        let ds := s.recordDescs r.addr 1024
        if !(ds.all fun d => (s.dmaRanges d).all fun p => s.rangeReady p.1 p.2) then s.stall t engIssue stRecompute
        else ds.foldl (fun s d => s.reload t d) ((s.modTile t (·.back e r)).bump t 0x128)

def execReplayStart (t : Nat) (s : State) : Host.Outcome State Fault Refusal := tileRun t s (·.replayStart t)

/-! ## Path monitors -/

/-- FREQ_MAX (R33). -/
def State.freqMax (s : State) (t : Nat) : Nat := min (min (s.rdN t 0x104) (s.rdN t 0x108)) 2400

/-- The frequency of a site's clock generator (Table 2.2): Dimmer's for a CARRYING site, 1,600 MHz for the others within
FREQ_MAX. -/
def State.freqOp (s : State) (t : Nat) : Nat :=
  if s.carrying t then s.rdN t 0x110 else max 400 (min 1600 (s.freqMax t))

/-- FREQ_MEAS drops by `n` MHz, not below 400, and the operating frequency follows (R34). -/
def State.freqDrop (s : State) (t n : Nat) : State :=
  let s := s.wrN t 0x108 (max 400 (s.rdN t 0x108 - n))
  let s := if s.rdN t 0x110 > s.freqMax t then s.wrN t 0x110 (s.freqMax t) else s
  -- below 400 MHz and the guard of R150 the site goes to sparing (Table 13.9)
  let s := if s.freqMax t < 500 then s.failSite t else s
  s.raise t 6

/-- A monitor below the hard threshold (R34): FREQ_MEAS drops by 100 MHz. Of a tile that runs at 400 MHz, the lowest there is,
the results of the frame are not assured: it withholds its contribution and is reported as failing. -/
def State.hardLoss (s : State) (t : Nat) : State :=
  let slow := s.freqOp t ≤ 400
  let s := s.freqDrop t 100
  if !slow then s else (if s.carrying t then s.cause s.steps.step cHardware else s).failSite t

/-- The once-per-frame measurement of a site's eight monitors, in percent of the period (R34, Table 2.17). A monitor that stays
below the soft threshold loses 25 MHz at every fourth frame (assumption 100). -/
def execPathMonitorMeasure (t : Nat) (margins : List Nat) (s : State) : Host.Outcome State Fault Refusal :=
  tileRun t s fun s =>
    if !s.flag t offControl 0 || margins.isEmpty || (s.siteEnt t).st == 3 then s
    else
      let m := margins.foldl min 255
      let worst := (margins.findIdx? (· == m)).getD 0
      let runs := ((s.tile t).softRuns.zip margins).map fun (r, g) => if g < Config.softThreshold then r + 1 else 0
      let run := runs.foldl max 0
      let s := s.wrN t 0x118 (m + 256 * (worst % 8) + 2048 * min run 31)
      let s := s.modTile t fun x => { x with softRuns := runs, softDrop := x.softDrop || runs.any (fun r => r % 4 == 0 && r > 0) }
      if m < Config.hardThreshold then s.hardLoss t else s

end Sys2Proof.Machine
end

