-- ==== Sys2Proof/Machine/Dimmer.lean ====
section
/-!
DEFINITION. Operating points and Dimmer: voltages (R392 to R394), floors and learned frequencies (R396, R397), learned
power and the prediction (R398).
-/
namespace Sys2Proof.Machine

/-! ## Voltages -/

/-- Table 12.4: frequency in MHz and nominal voltage in mV. -/
def voltPoints : List (Nat × Nat) :=
  [(1000, 550), (1200, 580), (1400, 615), (1600, 650), (1800, 690), (2000, 730), (2200, 780), (2400, 830)]

def up5 (v : Nat) : Nat := (v + 4) / 5 * 5

/-- Nominal voltage at a frequency, interpolated and rounded up to 5 mV (R392). -/
def nominalMv (f : Nat) : Nat :=
  if f ≤ 1000 then 550
  else match (voltPoints.zip (voltPoints.drop 1)).find? fun p => p.1.1 ≤ f && f ≤ p.2.1 with
    | some ((f0, v0), (_, v1)) => up5 (v0 + ceilDiv ((f - f0) * (v1 - v0)) 200)
    | none => 830

/-- V_site(f) (R392). -/
def State.siteMv (s : State) (t f : Nat) : Nat := nominalMv f + 5 * s.field t 0x2E4 3 0

/-- The voltage of a tile-group domain (R393): FAULTED sites do not count. -/
def State.rowMv (s : State) (row : Nat) : Nat :=
  (rangeFrom (36 * row) 36).foldl (fun v t =>
    if (s.siteEnt t).st < 3 then max v (s.siteMv t (s.freqOp t)) else v) 0

/-- Sets the voltage that every site of a row shows. -/
def State.setRowMv (s : State) (row : Nat) : State :=
  let v := s.rowMv row
  (rangeFrom (36 * row) 36).foldl (fun s t => s.wrN t 0x114 v) s

/-- Region of a site (R403). -/
def regionOf (t : Nat) : Nat := 8 * (t / 36 / 4) + t % 36 * 8 / 36

/-- The thermal cap of a region (R406). -/
def State.thermCap (s : State) (r : Nat) : Nat := sget 2400 s.pow.caps r

/-- The highest frequency a tile may run at: FREQ_MAX and the thermal cap, which the cap keeps at 400 MHz or more. -/
def State.freqCap (s : State) (t : Nat) : Nat := min (s.freqMax t) (s.thermCap (regionOf t))

/-! ## The POWER section (R395) -/

def powSect (i : Image) : Nat × Nat := match sfind i.sects 0xE with
  | some c => (c.off, c.len)
  | none => (i.base, 0)

def State.phaseCount (s : State) (i : Image) : Nat := s.peekN (powSect i).1 2 % 512

/-- The phase byte of image frame j, counted over the passes of the body. -/
def State.phaseOf (s : State) (i : Image) (j : Nat) : Nat :=
  let n := if j < i.proFrames then j else i.proFrames + (j - i.proFrames) % max i.bodyFrames 1
  s.peekN ((powSect i).1 + 16 + n) 1

def phaseRec (i : Image) (ph : Nat) : Nat :=
  (powSect i).1 + 16 + ceilDiv (i.proFrames + i.bodyFrames) 16 * 16 + 16 * ph

def State.planW (s : State) (i : Image) (ph : Nat) : Nat := s.peekN (phaseRec i ph) 2 % 2048
def State.fStart (s : State) (i : Image) (ph : Nat) : Nat := s.peekN (phaseRec i ph + 4) 2 % 4096

/-! ## Floors (R396) -/

def up25 (a b : Nat) : Nat := ceilDiv (ceilDiv a b) 25 * 25

/-- The instruction of a stream record. -/
def State.instrAt (s : State) (r : StreamRec) (n : Nat) : BitVec 128 := BitVec.ofNat 128 (s.peekN (r.code + 16 * n) 16)

/-- Image frame of each instruction of a stream, prologue then first body pass: the frame of the last FRAME before or at
it. -/
def State.streamFrames (s : State) (r : StreamRec) : List Nat :=
  ((List.range (r.proLen + r.bodyLen)).foldl (fun (acc, j) n =>
    let w := s.instrAt r n
    let j := if opcodeOf w == 0x01 then fld w 39 0 else j
    (acc ++ [j], j)) (([] : List Nat), 0)).1

/-- f_need of a logical tile in a phase. -/
def State.fNeed (s : State) (i : Image) (t ph : Nat) : Nat :=
  match s.streamRec i t, sfind i.sects 2 with
  | some r, some c =>
    let fs := s.streamFrames r
    (rangeFrom r.timed r.ntimed).foldl (fun m k =>
      let a := c.off + 16 * k
      let frame := fs.getD (s.peekN a 4) 0
      let nb := s.peekN (a + 4) 4
      let work := s.peekN (a + 8) 4
      let end_ := s.peekN (a + 12) 4
      if s.phaseOf i frame == ph && nb < end_ then max m (up25 (work * 200) (end_ - nb)) else m) 400
  | _, _ => 400

/-- Holds a learned frequency within R396. -/
def clampF (need cap f : Nat) : Nat := min cap (max need f)

/-! ## The learned table (R397, R398) -/

def dimKey (image ph : Nat) (e : DimEnt) : Bool := e.image == image && e.phase == ph

/-- Tile-group domains 1 to 32, and the others with their load of Table 1.5 in W, shared equally within a load
(assumption 42). -/
def shareMw (plan d : Nat) : Nat :=
  let load : Nat × Nat :=
    if d == 0 then (5, 1) else if d ≤ 32 then (560, 32) else if d ≤ 37 then (110, 5) else if d ≤ 45 then (250, 8)
    else if d == 46 then (60, 1) else (120, 1)
  plan * 1000 * load.1 / (1200 * load.2)

/-- The entry of a phase, made from the image where the table has none; it becomes the most recently used of at most
1,024. -/
def State.dimEnt (s : State) (i : Image) (ph : Nat) : DimEnt × State :=
  let (e, rest) := match takeFirst (dimKey i.id ph) s.pow.table with
    | some (e, rest) => (e, rest)
    | none =>
      let e : DimEnt := { image := i.id, phase := ph, power := (List.range 48).map fun d => (d, shareMw (s.planW i ph) d) }
      (e, if s.pow.table.length ≥ 1024 then s.pow.table.drop 1 else s.pow.table)
  (e, { s with pow := { s.pow with table := rest ++ [e] } })

def State.putDim (s : State) (e : DimEnt) : State :=
  { s with pow := { s.pow with table := s.pow.table.filter (fun x => !dimKey e.image e.phase x) ++ [e] } }

/-- What Dimmer holds of a logical tile; F_START within R396 at first. -/
def State.dimTile (s : State) (i : Image) (ph : Nat) (e : DimEnt) (lt : Nat) : DimTile :=
  match sfind e.tiles lt with
  | some x => x
  | none =>
    let cap := match s.siteOf lt with
      | some t => s.freqCap t
      | none => 2400
    { fL := clampF (s.fNeed i lt ph) cap (s.fStart i ph) }

/-- Records a tile's margin in the phase in progress, in MARGIN, and for Spotlight (R397, R401). -/
def State.margin (s : State) (t : Nat) (m : Int) : State :=
  let s := s.wrN t 0x2E8 (fieldOf 16 m)
  let tgt := s.rdN powPage 0x10C
  let s := if 4 * m < (tgt : Int) then { s with pow := { s.pow with lowNow := true } } else s
  match s.adm.active, s.pow.phase with
  | some i, some ph =>
    let (e, s) := s.dimEnt i ph
    let x := s.dimTile i ph e (s.tileOf t)
    let x := { x with m := some (match x.m with
      | some y => min y m
      | none => m) }
    s.putDim { e with tiles := sput e.tiles (s.tileOf t) x }
  | _, _ => s

/-- Sum of f·V² over a row at its operating points, in MHz·mV²/10^6. -/
def State.rowFv2 (s : State) (row : Nat) (f : Nat → Nat) : Nat :=
  let v := (rangeFrom (36 * row) 36).foldl (fun v t => if (s.siteEnt t).st < 3 then max v (s.siteMv t (if s.carrying t then f t else s.freqOp t)) else v) 0
  (rangeFrom (36 * row) 36).foldl (fun a t => if s.carrying t then a + f t * v * v / 1000000 else a) 0

/-- The end of an occurrence of a phase (R397, R398): every f_L and P_L is updated. The measured power of a domain is
outside the manual's state: a free value (assumption 43). -/
def State.dimLearn (s : State) (i : Image) (ph : Nat) : State :=
  let (e, s) := s.dimEnt i ph
  let tgt := s.rdN powPage 0x10C
  let tiles := s.carryingSites.foldl (fun (m : Sparse DimTile) t =>
    let lt := s.tileOf t
    let x := s.dimTile i ph e lt
    let x' := match x.m with
      | none => x
      | some y =>
        let f := if 4 * y < (tgt : Int) then x.fL + 100
          else if (tgt : Int) ≤ y && x.good then x.fL - 25 else x.fL
        { fL := clampF (s.fNeed i lt ph) (s.freqCap t) f, m := none, good := (tgt : Int) ≤ y }
    sput m lt x') e.tiles
  let (power, s) := (List.range 48).foldl (fun (acc, s) d =>
    let r := State.free s
    let meas : Nat := r.1.toNat
    let old := sget 0 e.power d
    let new : Int := if e.known then (old : Int) + ((meas : Int) - old) / 8 else meas
    (acc ++ [(d, new.toNat)], r.2)) (([] : Sparse Nat), s)
  let basis := (List.range 32).map fun r => (r + 1, s.rowFv2 r fun t => s.rdN t 0x110)
  s.putDim { e with tiles := tiles, power := power, basis := basis, known := true }

/-- The prediction for planned frequencies (by logical tile), in mW (R398). -/
def State.predictMw (s : State) (e : DimEnt) (f : Nat → Nat) : Nat :=
  let sum := (List.range 48).foldl (fun a d =>
    let p := sget 0 e.power d
    let b := sget 0 e.basis d
    a + if 1 ≤ d && d ≤ 32 && b > 0 then p * s.rowFv2 (d - 1) (fun t => f (s.tileOf t)) / b else p) 0
  sum * 108 / 100

/-- B (R400), as the last prediction or reset of H left it. -/
def State.budgetW (s : State) : Nat := s.rdN powPage 0x108

/-- B takes the value of H. -/
def State.takeBudget (s : State) : State := s.wrN powPage 0x108 (min (s.rdN powPage 0x104) 1200)

/-- H is set to POWER_BASE, and B with it (R400). -/
def State.resetTokens (s : State) : State := (s.wrN powPage 0x104 (s.field powPage 0x100 10 0)).takeBudget

/-- Lowers by 25 MHz the tile whose f_L stands furthest above its floor, until the prediction fits or every tile is at its
floor; the Bool says the latter. -/
def State.dimFit (s : State) (e : DimEnt) (need : Sparse Nat) : Nat → Sparse DimTile → Sparse DimTile × Bool
  | 0, m => (m, true)
  | fuel + 1, m =>
    if s.predictMw e (fun lt => (sget { fL := 0 } m lt).fL) ≤ s.budgetW * 1000 then (m, false)
    else
      let excess (x : Nat × DimTile) : Nat := x.2.fL - sget 400 need x.1
      match m.foldl (fun (b : Option (Nat × DimTile)) x => match b with
          | none => if excess x > 0 then some x else none
          | some y => if excess x > excess y then some x else some y) none with
      | none => (m, true)
      | some (lt, x) => s.dimFit e need fuel (sput m lt { x with fL := max (x.fL - 25) (sget 400 need lt) })

/-- One frame before a phase begins: the prediction, and the lowering where it passes the budget (R398). -/
def State.dimPredict (s : State) (i : Image) (ph : Nat) : State :=
  let (e, s) := s.takeBudget.dimEnt i ph
  let tiles := s.carryingSites.foldl (fun (m : Sparse DimTile) t => sput m (s.tileOf t) (s.dimTile i ph e (s.tileOf t))) e.tiles
  let need := s.carryingSites.map fun t => (s.tileOf t, s.fNeed i (s.tileOf t) ph)
  let need := need.foldl (fun (m : Sparse Nat) x => sput m x.1 x.2) []
  let (tiles, short) := s.dimFit e need (tiles.length * 96) tiles
  let p := s.predictMw e (fun lt => (sget { fL := 0 } tiles lt).fL)
  let s := s.putDim { e with tiles := tiles }
  let s := s.wrN powPage 0x118 (p / 1000 % 2048)
  if short then s.raise powPage 3 else s

/-- A phase begins: the operating points that were set take effect (R394, R398), and the table is cleared first where
LEARN_CLEAR asks for it. -/
def State.dimApply (s : State) (i : Image) (ph : Nat) : State :=
  let s := if s.pow.clear then
      { s with pow := { s.pow with table := [], clear := false } }.setFlag powPage offControl 1 false
    else s
  let (e, s) := s.dimEnt i ph
  let s := s.carryingSites.foldl (fun s t =>
    let x := s.dimTile i ph e (s.tileOf t)
    let s := s.wrN t 0x110 (min x.fL (s.freqCap t))
    s.wrN t 0x2E0 (x.fL % 4096 + s.fNeed i (s.tileOf t) ph % 4096 * 65536)) s
  let s := { s with pow := { s.pow with phase := some ph } }
  (List.range 32).foldl (fun s r => s.setRowMv r) s

/-- The occurrence in progress ends with its image (R397). -/
def State.dimEnd (s : State) : State :=
  let t := match s.adm.active, s.pow.phase with
    | some i, some ph => s.dimLearn i ph
    | _, _ => s
  { t with pow := { t.pow with phase := none } }

/-- Dimmer at the first frame of an image: its first phase is predicted and begins. -/
def State.dimStart (s : State) : State :=
  match s.adm.active with
  | none => s
  | some i =>
    let now := s.phaseOf i 0
    let next := s.phaseOf i 1
    let s := ((s.wrN powPage 0x114 (now + 256 * next)).dimPredict i now).dimApply i now
    if next != now then s.dimPredict i next else s

/-- Dimmer at the start of schedule frame J; a frame at which the image is switched or ends is that of the switch. -/
def State.dimFrame (s : State) (j : Nat) : State :=
  match s.adm.active with
  | none => s
  | some i =>
    if j < s.adm.fa || s.adm.go == some j then s
    else
      let now := s.phaseOf i (j - s.adm.fa)
      let next := s.phaseOf i (j + 1 - s.adm.fa)
      let s := s.wrN powPage 0x114 (now + 256 * next)
      let s := if s.pow.phase == some now then s
        else
          let s := match s.pow.phase with
            | some ph => s.dimLearn i ph
            | none => s
          s.dimApply i now
      if next != now then s.dimPredict i next else s

end Sys2Proof.Machine
end

