-- ==== Sys2Proof/Machine/Control.lean ====
section
/-!
DEFINITION. Tile control instructions: NOP, FRAME, RPOINT, WAITC, GIVE to a tile, SPEC, SPECEND.
-/
namespace Sys2Proof.Machine

/-- The issue of an instruction whose word alone says whether it is legal: the fields of [63:0] that it uses. -/
def plainIssue (w : BitVec 128) (fields : List (Nat × Nat)) (also : Option Hold := none) : Issue :=
  { form := commonOk {} w && layoutOk w (maskOf fields), also := also }

def execNop (t : Nat) (w : BitVec 128) (s : State) : Host.Outcome State Fault Refusal :=
  instrRun (isOp w 0x00) t s fun s => s.issue t w (plainIssue w []) id

/-- A FRAME waits for its frame (R126). -/
def State.frameIssue (s : State) (t : Nat) (w : BitVec 128) : Issue :=
  plainIssue w [(39, 0)] (if s.gn.frame < s.frameOpened t w then some (.wait stSlot) else none)

/-- The margin of a FRAME that the tile reached after its frame had started (R45, R397); an earlier one has had its margin at
the boundary. -/
def State.lateMargin (s : State) (t j : Nat) : State := match (s.tile t).reached with
  | some (k, c) => if k == j && s.gn.frame == j && c ≥ s.gn.start then s.margin t ((s.gn.start : Int) - c) else s
  | none => s

/-- FRAME (R125, R126): issues once its frame has started. -/
def execFrame (t : Nat) (w : BitVec 128) (s : State) : Host.Outcome State Fault Refusal :=
  instrRun (isOp w 0x01) t s fun s =>
    s.issue t w (s.frameIssue t w) fun s =>
      let j := s.frameOpened t w
      ((s.modTile t (·.reach j s.gn.count)).lateMargin t j).modTile t (fun x => { x with frame := some j }) |>.wrN t 0x11C j

/-- The RPOINT at which a replay begins is issued again, and sets nothing anew: what was performed since then is still counted
(R71). -/
def Tile.atReplayPoint (x : Tile) : Bool := x.replayTo.isSome && x.icount == 0

/-- A recovery point set at an RPOINT with record `addr`; a replay in progress is over (R71). -/
def Tile.setRpoint (x : Tile) (addr : Nat) : Tile :=
  { x with rpoint := some { addr := addr, pos := x.pos, pass := x.pass, reentry := x.reentry, rbase := x.rbase }
           rpNo := x.rpNo + 1, icount := 0, started := [], taken := [], done := {}, skip := {}, inbound := []
           replayTo := none, replayed := [], redo := none }

/-- RPOINT (section 2.10, R71, R117): flushes the Spectrum buffer, then records where a replay starts. -/
def execRpoint (t : Nat) (w : BitVec 128) (s : State) : Host.Outcome State Fault Refusal :=
  instrRun (isOp w 0x02) t s fun s =>
    s.issue t w (plainIssue w [(47, 0)]) fun s =>
      if (s.tile t).atReplayPoint then s else (s.flushSpec t).modTile t (·.setRpoint (fld w 47 0))

/-- A WAITC waits until its counter reaches N; a subtraction made before a replay is skipped (R71, R208). -/
def State.waitcIssue (s : State) (t : Nat) (w : BitVec 128) : Issue :=
  let x := s.tile t
  plainIssue w [(63, 32), (4, 0)]
    (if x.skip.waitc > 0 || fld w 63 32 ≤ (sget {} x.cc (fld w 4 0)).seen x.inSpec then none else some (.wait stSlot))

/-- WAITC (R42, R208): waits until the counter reaches N, then subtracts N from it. -/
def execWaitc (t : Nat) (w : BitVec 128) (s : State) : Host.Outcome State Fault Refusal :=
  instrRun (isOp w 0x03) t s fun s =>
    s.issue t w (s.waitcIssue t w) fun s =>
      let c := fld w 4 0
      s.modTile t fun x =>
        if x.skip.waitc > 0 then { x with skip := { x.skip with waitc := x.skip.waitc - 1 } }
        else { x with cc := sput x.cc c ((sget {} x.cc c).take (fld w 63 32) x.inSpec)
                      done := { x.done with waitc := x.done.waitc + 1 } }

/-- A GIVE in a replay that was already performed is skipped by count (R71). -/
def State.giveOnce (s : State) (t : Nat) (f : State → State) : State :=
  if (s.tile t).skip.give > 0 then s.modTile t fun x => { x with skip := { x.skip with give := x.skip.give - 1 } }
  else f (s.modTile t fun x => { x with done := { x.done with give := x.done.give + 1 } })

/-- Fields of a GIVE of kind 1 or 2, and of kind 3. -/
def giveTileFields : List (Nat × Nat) := [(63, 62), (41, 32), (28, 24), (15, 0)]
def giveRemoteFields : List (Nat × Nat) := [(63, 47), (41, 32), (28, 24), (15, 0)]
def giveCollFields : List (Nat × Nat) := [(63, 62), (39, 32), (15, 0)]

/-- GIVE to a tile of this module (Table 2.4, kind 1). -/
def execGiveTile (t : Nat) (w : BitVec 128) (s : State) : Host.Outcome State Fault Refusal :=
  instrRun (isGive w 1) t s fun s =>
    s.issue t w (plainIssue w giveTileFields) fun s =>
      s.giveOnce t fun s =>
        match s.siteOf (fld w 41 32) with
        | some d => s.addKC d (fld w 28 24) (fld w 15 0) (s.tagOf t)
        | none => s

/-- The step whose input a SPEC waits for: S + 1, or the step in progress once the verdict has come (R206, R376). -/
def State.specIssue (s : State) (t : Nat) (w : BitVec 128) : Issue :=
  plainIssue w [(15, 0)]
    (if s.intakeWait (if (s.tile t).decided then s.steps.step else s.steps.step + 1) then some (.wait stSlot) else none)

/-- SPEC opens a speculative region (R206). -/
def execSpec (t : Nat) (w : BitVec 128) (s : State) : Host.Outcome State Fault Refusal :=
  instrRun (isOp w 0x60) t s fun s =>
    s.issue t w (s.specIssue t w) fun s =>
      s.modTile t fun x => { x with region := some (fld w 15 0), regioned := x.regioned || (!x.decided && x.lag == 0) }

/-- SPECEND closes it. -/
def execSpecend (t : Nat) (w : BitVec 128) (s : State) : Host.Outcome State Fault Refusal :=
  instrRun (isOp w 0x61) t s fun s =>
    s.issue t w (plainIssue w [(15, 0)]) fun s => s.modTile t fun x => { x with region := none }

end Sys2Proof.Machine
end

