-- ==== Sys2Proof/Machine/Matrix.lean ====
section
/-!
DEFINITION. The matrix unit: MMA, MMAZ, ACCOUT, ACCCLR and the rescale retries (R46 to R53, R92 to R99, R112).
-/
namespace Sys2Proof.Machine

/-! ## Heritage accumulation (R111, R112) -/

def h24 : FFmt := ⟨24, 15, 127, 0x7F7FFF, some 0x7F8000, 0x7FC000⟩

def addh (s p : FVal) : FVal :=
  match s.add p with
  | .fin n m e =>
    if m == 0 then .fin (s.sign && p.sign && s.isZero && p.isZero) 0 0
    else
      let c := roundCode h24 .rne m e
      if c > h24.maxCode then .inf n else decodeF h24 (withSign h24 n c)
  | v => v

def heritageBlock (ab : List (FVal × FVal)) (osh : Nat) (acc : Word) : Word :=
  let v := (a20Block ab osh).1
  if !v.isFinite then round32 ((decode32 acc).add v)
  else
    let s := ab.foldl (fun s (a, b) => addh s ((a.mul b).scale (-(osh : Int)))) FVal.zero
    round32 ((decode32 acc).add s)

/-! ## Operand blocks (R46, R48) -/

/-- An operand block as 32 stored rows of 32 values, each with its row's scale. -/
def readBlock (x : Tile) (f : FFmt) (addr scale : Nat) : List (List FVal) :=
  let es := f.bits / 8
  (List.range 32).map fun r =>
    let row := x.bytes (addr + 32 * es * r) (32 * es)
    let sc := if f.bits == 8 then (x.byte (scale + r)).toNat else 127
    (List.range 32).map fun k => scaledElem f (fieldAt row (es * k) es) sc

def transpose (m : List (List FVal)) : List (List FVal) :=
  (List.range 32).map fun k => m.map fun r => r.getD k .nan

/-- One block of a matrix instruction applied to an accumulator (R49, R92, R93, R112). -/
def accBlock (heritage : Bool) (a bT : List (List FVal)) (acc : Acc) : Acc :=
  let out := (List.range 1024).map fun e =>
    let ra := a.getD (e / 32) []
    let cb := bT.getD (e % 32) []
    let old := acc.vals.getD e 0
    if heritage then (heritageBlock (ra.zip cb) acc.osh old, false)
    else
      let (v, s1) := a20Block (ra.zip cb) acc.osh
      let (n, s2) := promote old v
      (n, s1 || s2)
  { acc with vals := out.map (·.1)
             sat := (out.zip (List.range 1024)).foldl (fun l (r, e) => if r.2 then insNat e l else l) acc.sat }

/-- The operand fields of an MMA or MMAZ (Table 2.5). -/
structure MatOps where
  fa   : FFmt
  fb   : FFmt
  a    : Nat
  b    : Nat
  sa   : Nat
  sb   : Nat
  d    : Nat
deriving DecidableEq, Repr

def matOps (w : BitVec 128) : Option MatOps :=
  match fmtOfCode (fmtA w), fmtOfCode (fmtB w) with
  | some fa, some fb => some { fa := fa, fb := fb, a := fld w 63 50 * 64, b := fld w 49 36 * 64,
                               sa := fld w 35 21 * 32, sb := fld w 20 6 * 32, d := fld w 5 0 + 1 }
  | _, _ => none

def MatOps.size (f : FFmt) : Nat := if f.bits == 8 then 1024 else 2048

/-- R46 and R47: pairing, alignment, and zero scales for F16W. -/
def matLegal (w : BitVec 128) : Bool :=
  commonOk { a := true, b := true, acc := true, matrix := true } w &&
  (match matOps w with
   | none => false
   | some m => (m.fa.bits == 8 || m.fa.bits == 16) && (m.fa.bits == m.fb.bits) &&
       m.a % MatOps.size m.fa == 0 && m.b % MatOps.size m.fb == 0 &&
       (m.fa.bits == 8 || (m.sa == 0 && m.sb == 0))) &&
  !(heritageOf w && rescaleOf w)

/-- Scratch read by a matrix instruction. -/
def matReads (w : BitVec 128) : List (Nat × Nat) :=
  match matOps w with
  | none => []
  | some m =>
    [(m.a, m.d * MatOps.size m.fa), (m.b, m.d * MatOps.size m.fb)] ++
      (if m.fa.bits == 8 then [(m.sa, 32 * m.d), (m.sb, 32 * m.d)] else [])

/-- Runs the d blocks of a matrix instruction on an accumulator (R49). -/
def matRun (x : Tile) (w : BitVec 128) (acc : Acc) : Acc :=
  match matOps w with
  | none => acc
  | some m => forN m.d acc fun acc n =>
      let a := readBlock x m.fa (m.a + n * MatOps.size m.fa) (m.sa + 32 * n)
      let b := readBlock x m.fb (m.b + n * MatOps.size m.fb) (m.sb + 32 * n)
      accBlock (heritageOf w) (if reflA w then transpose a else a) (if reflB w then b else transpose b) acc

/-- A read of an accumulator index finds a parity error: where, and the elements (R71). -/
def Tile.accBad (x : Tile) (i : Nat) : Option (Nat × List Nat) :=
  ((x.accAt i).bad.head?).map fun e => (i * 4096 + 4 * e, (x.accAt i).bad)

/-- A wait for accumulator indices whose rescale decision is open (R97). -/
def busyHold (b : Bool) : Option Hold := if b then some (.wait stAccBusy) else none

/-- What the issue of MMA (`z` false) and MMAZ depends on: MMA reads the index, and with RESCALE needs one of two entry
snapshots (R97). -/
def State.matrixIssue (s : State) (t : Nat) (w : BitVec 128) (z : Bool) : Issue :=
  let i := accOf w
  let x := s.tile t
  let snapFull := rescaleOf w && !z && (x.rescale.filter fun r => opcodeOf r.word == 0x10).length ≥ 2
  { eng := engMatrix, form := matLegal w, reads := matReads w, also := busyHold (x.accBusy i || snapFull)
    accBad := if z then none else x.accBad i }

/-- The body of MMA and MMAZ: `z` takes the index as +0.0 (R49, R94). -/
def Tile.matrix (x : Tile) (w : BitVec 128) (z : Bool) : Tile :=
  let i := accOf w
  let entry := if z then Acc.zero else x.accAt i
  let y := x.setAcc i (matRun x w entry)
  if rescaleOf w then
    { y with rescale := y.rescale ++ [{ acc := i, word := w, entry := entry, reads := matReads w, icount := x.icount }] }
  else y

def execMma (t : Nat) (w : BitVec 128) (s : State) : Host.Outcome State Fault Refusal :=
  instrRun (isOp w 0x10) t s fun s => s.issue t w (s.matrixIssue t w false) (·.modTile t (·.matrix w false))

def execMmaz (t : Nat) (w : BitVec 128) (s : State) : Host.Outcome State Fault Refusal :=
  instrRun (isOp w 0x11) t s fun s => s.issue t w (s.matrixIssue t w true) (·.modTile t (·.matrix w true))

/-- Retry r + 1 is permitted and the attempt just completed set a saturation bit: one that was not set at entry (R96;
assumption 101). -/
def retryDue (x : Tile) (r : Rescale) : Bool :=
  (x.accAt r.acc).sat.any (fun e => !r.entry.sat.contains e) && r.retries < 2 && r.entry.osh + 4 * (r.retries + 1) ≤ 64

/-- The rescale decision of an accumulator index (R96): a retry, or the result stands. -/
def execRescaleDecision (t acc : Nat) (s : State) : Host.Outcome State Fault Refusal :=
  tileRun t s fun s =>
    let x := s.tile t
    match x.rescale.find? (·.acc == acc) with
    | none => s
    | some r =>
      if r.retry then s
      else if retryDue x r then
        s.setTile t { x with rescale := mapFirst (·.acc == acc) (fun r => { r with retry := true }) x.rescale }
      else s.setTile t { x with rescale := x.rescale.filter (·.acc != acc) }

/-- The contents at entry, restored for retry n (R96 steps 1 to 3). -/
def retryEntry (e : Acc) (n : Nat) : Acc :=
  { e with osh := e.osh + 4 * n
           vals := (e.vals.zip (List.range 1024)).map fun (v, i) =>
             if e.sat.contains i then v else round32 ((decode32 v).scale (-(4 * (n : Int)))) }

/-- The array occupancy of a matrix instruction, in tc (R50). -/
def matOccupancy (w : BitVec 128) : Nat := match matOps w with
  | some m => (if m.fa.bits == 8 then 32 else 128) * m.d
  | none => 0

/-- A retry's occupancy counts as recompute (R52, R475). -/
def State.retryStall (s : State) (t n : Nat) : State :=
  let off := 0x40 + 32 * engMatrix + 4 * stRecompute
  let v := min (s.rdN t off + n) 0xFFFFFFFF
  let s' := s.wrN t off v
  if v == 0xFFFFFFFF && s.rdN t off != 0xFFFFFFFF then s'.raise t 17 else s'

/-- The index after retry number `r.retries + 1`, whose operands are read again (R96). -/
def Tile.rerun (x : Tile) (r : Rescale) : Tile :=
  let y := x.setAcc r.acc (matRun x r.word (retryEntry r.entry (r.retries + 1)))
  let upd (r : Rescale) : Rescale := { r with retry := false, retries := r.retries + 1 }
  { y with rescale := mapFirst (·.acc == r.acc) upd y.rescale }

/-- One rescale retry (R96): the index is restored, its output shift raised, and all blocks run again; the retry's array
occupancy is counted as recompute (R52). Its operand reads are checked like any (R56): the instruction meets the error. -/
def execRescaleRetry (t acc : Nat) (s : State) : Host.Outcome State Fault Refusal :=
  tileRun t s fun s =>
    let x := s.tile t
    match x.rescale.find? (·.acc == acc) with
    | none => s
    | some r =>
      if !r.retry || x.perr.isSome then s
      else match x.parity r.reads with
        | some e => s.parityError t { e with icount := r.icount }
        | none => (s.modTile t (·.rerun r)).retryStall t (matOccupancy r.word)

/-! ## Rounding-base stream (R89, R90) -/

/-- The next rounding-base entry of a tile: none where the pass has no further entry (R90). -/
def State.rbaseNext (s : State) (t : Nat) : Option Nat :=
  match s.streamOf t with
  | none => none
  | some (i, r) =>
    let x := s.tile t
    let (a, pro, body) := s.rbaseRec i (s.tileOf t)
    let lim := if x.reentry.isNone && x.pos < r.proLen then pro else pro + body
    if x.rbase < lim then some (a + 8 * x.rbase) else none

/-- A stochastic conversion waits for its entry, which comes through the Shade cache (R90). -/
def State.rbaseHold (s : State) (t : Nat) (w : BitVec 128) : Option Hold :=
  if srOf w then (match s.rbaseNext t with
    | some a => if s.rangeReady a 8 then none else some (.wait stShade)
    | none => none)
  else none

/-- A stochastic conversion for which the stream holds no further entry reaches issue (R90). -/
def State.rbaseEnd (s : State) (t : Nat) (w : BitVec 128) : Bool := srOf w && (s.rbaseNext t).isNone

/-- Consumes one entry: BASE and STRIDE. -/
def State.rbaseTake (s : State) (t : Nat) : Nat × Nat × State :=
  match s.rbaseNext t with
  | none => (0, 0, s)
  | some a =>
    let (bs, _, s) := s.devRead a 8 5 (.tile t) false false
    let n := leNat (bs.map (·.val))
    (bits n 39 0, bits n 63 40, s.modTile t fun x => { x with rbase := x.rbase + 1 })

def State.seedNow (s : State) : Nat := match s.adm.active with
  | some i => i.seed
  | none => 0

/-- The rounding of element (i, j) of a conversion (R79, R89, R91). The index is 40 bits wide (assumption 102). -/
def rndOf (sr : Bool) (seed tensor step base stride i j : Nat) : Rnd :=
  if sr then .srnd (srbits seed tensor step ((base + i * stride + j) % 2 ^ 40)) else .rne

/-! ## ACCOUT and ACCCLR -/

/-- Bytes per element of an output format. -/
def outBytes (fmt : Nat) : Nat := if fmt == 0 then 4 else if fmt == 1 then 2 else 1

/-- Scratch written by ACCOUT: the data, and the row scales of an 8-bit format (R51). -/
def accoutWrites (w : BitVec 128) : List (Nat × Nat) :=
  let fmt := fld w 34 31
  [(fld w 63 50 * 64, 1024 * outBytes fmt)] ++ (if fmt ≥ 2 then [(fld w 49 35 * 32, 32)] else [])

/-- The form of ACCOUT, whose RCLASS has no HERITAGE bit (R87; assumption 104). -/
def accoutLegal (w : BitVec 128) : Bool :=
  commonOk { acc := true, conv := true } w && layoutOk w (maskOf [(63, 10)]) && fld w 34 31 ≤ 3

/-- Converts one row of true values (R83, R95): scale byte, codes and events. -/
def convRow (fmt : Nat) (vs : List (FVal × Rnd)) : Nat × List (Nat × SpecKind) :=
  match fmt with
  | 2 => convBlock f8f vs
  | 3 => convBlock f8b vs
  | 1 => (0, vs.map fun (v, r) => convElem f16w r v)
  | _ => (0, vs.map fun (v, r) => convElem fp32 r v)

/-- What the issue of ACCOUT depends on. -/
def State.accoutIssue (s : State) (t : Nat) (w : BitVec 128) : Issue :=
  let x := s.tile t
  { eng := engMatrix, form := accoutLegal w, content := !s.rbaseEnd t w, writes := accoutWrites w
    also := if x.accBusy (accOf w) then some (.wait stAccBusy) else s.rbaseHold t w
    accBad := x.accBad (accOf w) }

/-- The rows of an index as ACCOUT converts them (R83, R95). -/
def accRows (a : Acc) (fmt : Nat) (rnd : Nat → Nat → Rnd) : List (Nat × List (Nat × SpecKind)) :=
  (List.range 32).map fun r => convRow fmt ((List.range 32).map fun j =>
    ((decode32 (a.vals.getD (32 * r + j) 0)).scale a.osh, rnd r j))

/-- The codes of converted rows, in order. -/
def rowBytes (fmt : Nat) (rows : List (Nat × List (Nat × SpecKind))) : List Byte :=
  rows.foldr (fun (_, es) acc => es.foldr (fun e acc => natLe (outBytes fmt) e.1 ++ acc) acc) []

/-- The events of ACCOUT: those of its conversions, and those that it counts, where a saturation bit takes an element's place
(R95, R116). -/
def accKinds (a : Acc) (rows : List (Nat × List (Nat × SpecKind))) : List (SpecKind × SpecKind) :=
  ((rows.foldr (fun (_, es) acc => es.map (·.2) ++ acc) []).zip (List.range 1024)).map fun (k, e) =>
    (if a.sat.contains e then SpecKind.sat else k, k)

/-- The effect of ACCOUT (R51, R95, R98, R116). -/
def State.accout (s : State) (t : Nat) (w : BitVec 128) : State :=
  let i := accOf w
  let fmt := fld w 34 31
  let a := (s.tile t).accAt i
  let tensor := fld w 30 11
  let tag := s.tagOf t
  let (base, stride, s) := if srOf w then s.rbaseTake t else (0, 0, s)
  let rows := accRows a fmt (rndOf (srOf w) s.seedNow tensor tag base stride)
  let s := s.putScratch t (fld w 63 50 * 64) (rowBytes fmt rows)
  let s := if fmt ≥ 2 then s.putScratch t (fld w 49 35 * 32) (rows.map fun r => BitVec.ofNat 8 r.1) else s
  let kinds := accKinds a rows
  let (z, sa, nf) := countKinds (kinds.map (·.1))
  let (_, convSat, convNf) := countKinds (kinds.map (·.2))
  let s := (s.countSpec t tensor tag z sa nf).convFlags tag (trafficOf w) convNf convSat
  let s := if a.sat.isEmpty then s else (s.raise t 4).cause tag cOverflow
  if bit (fld w 63 0) 10 then s.modTile t (·.setAcc i Acc.zero) else s

def execAccout (t : Nat) (w : BitVec 128) (s : State) : Host.Outcome State Fault Refusal :=
  instrRun (isOp w 0x12) t s fun s => s.issue t w (s.accoutIssue t w) (·.accout t w)

/-- The indices that ACCCLR selects. -/
def clrSel (w : BitVec 128) : List Nat := (List.range 16).filter fun i => bit (fld w 15 0) i

/-- ACCCLR (R94): the selected indices are +0.0, output shift 0, no saturation bit. -/
def execAccclr (t : Nat) (w : BitVec 128) (s : State) : Host.Outcome State Fault Refusal :=
  instrRun (isOp w 0x13) t s fun s =>
    s.issue t w { plainIssue w [(15, 0)] (busyHold ((clrSel w).any (s.tile t).accBusy)) with eng := engMatrix }
      (·.modTile t fun x => (clrSel w).foldl (fun x i => x.setAcc i Acc.zero) x)

end Sys2Proof.Machine
end

