-- ==== Sys2Proof/Machine/Vector.lean ====
section
/-!
DEFINITION. The vector unit: VOP, VLD, VST (R61 to R63, R82, R86, R516, R521).
-/
namespace Sys2Proof.Machine

def vdOf (w : BitVec 128) : Nat := fld w 55 51
def vaOf (w : BitVec 128) : Nat := fld w 50 46
def vbOf (w : BitVec 128) : Nat := fld w 45 41
def vcOf (w : BitVec 128) : Nat := fld w 40 36

/-- A VOP other than a conversion: its sub-operation and no reserved or unused bit. -/
def vopLegal (w : BitVec 128) (sub : Nat) : Bool :=
  commonOk {} w && fld w 63 56 == sub && layoutOk w (maskOf [(63, 36)])

/-- Lane by lane over va, vb and vc. -/
def lanes3 (f : Word → Word → Word → Word) (a b c : List Word) : List Word :=
  (a.zip (b.zip c)).map fun (x, y, z) => f x y z

/-- A VOP other than a conversion: its effect is on the vector registers alone (Table 2.8). -/
def vopRun (t : Nat) (w : BitVec 128) (sub : Nat) (s : State) (f : Tile → Tile) : Host.Outcome State Fault Refusal :=
  instrRun (isSub w 0x20 sub) t s fun s =>
    s.issue t w { eng := engVector, form := vopLegal w sub } (·.modTile t f)

/-- A VOP that computes each lane of vd from the lanes of va, vb and vc. -/
def Tile.vopLanes (w : BitVec 128) (f : Word → Word → Word → Word) (x : Tile) : Tile :=
  x.setVreg (vdOf w) (lanes3 f (x.vreg (vaOf w)) (x.vreg (vbOf w)) (x.vreg (vcOf w)))

def execVopFma (t : Nat) (w : BitVec 128) (s : State) : Host.Outcome State Fault Refusal :=
  vopRun t w 0x00 s (·.vopLanes w fpFma)

def execVopAdd (t : Nat) (w : BitVec 128) (s : State) : Host.Outcome State Fault Refusal :=
  vopRun t w 0x01 s (·.vopLanes w (fun a b _ => fpAdd a b))

def execVopMul (t : Nat) (w : BitVec 128) (s : State) : Host.Outcome State Fault Refusal :=
  vopRun t w 0x02 s (·.vopLanes w (fun a b _ => fpMul a b))

def execVopMin (t : Nat) (w : BitVec 128) (s : State) : Host.Outcome State Fault Refusal :=
  vopRun t w 0x03 s (·.vopLanes w (fun a b _ => fpMin a b))

def execVopMax (t : Nat) (w : BitVec 128) (s : State) : Host.Outcome State Fault Refusal :=
  vopRun t w 0x04 s (·.vopLanes w (fun a b _ => fpMax a b))

def execVopCmplt (t : Nat) (w : BitVec 128) (s : State) : Host.Outcome State Fault Refusal :=
  vopRun t w 0x05 s (·.vopLanes w (fun a b _ => fpCmplt a b))

def execVopSel (t : Nat) (w : BitVec 128) (s : State) : Host.Outcome State Fault Refusal :=
  vopRun t w 0x06 s (·.vopLanes w fpSel)

/-- EXPSPLIT (R62): vd takes the fractions, then vc the exponents. -/
def execExpsplit (t : Nat) (w : BitVec 128) (s : State) : Host.Outcome State Fault Refusal :=
  vopRun t w 0x07 s fun x =>
    let r := (x.vreg (vaOf w)).map fpExpsplit
    (x.setVreg (vdOf w) (r.map (·.1))).setVreg (vcOf w) (r.map (·.2))

def execLdexp (t : Nat) (w : BitVec 128) (s : State) : Host.Outcome State Fault Refusal :=
  vopRun t w 0x08 s (·.vopLanes w (fun a b _ => fpLdexp a b))

/-- One level of the RSUM tree: neighbours at even positions. -/
def sumPairs : List Word → List Word
  | a :: b :: r => fpAdd a b :: sumPairs r
  | l => l

/-- The sum of 64 lanes by the fixed tree of Table 2.8: six levels of neighbouring pairs. -/
def rsum (v : List Word) : Word := (forN 6 v fun v _ => sumPairs v).headD 0

def laneZero (x : Word) : List Word := x :: List.replicate 63 0

def execRsum (t : Nat) (w : BitVec 128) (s : State) : Host.Outcome State Fault Refusal :=
  vopRun t w 0x10 s fun x => x.setVreg (vdOf w) (laneZero (rsum (x.vreg (vaOf w))))

/-- The maximum over lanes (R82). -/
def rmax (v : List Word) : Word := v.drop 1 |>.foldl fpMax (v.headD 0)

def execRmax (t : Nat) (w : BitVec 128) (s : State) : Host.Outcome State Fault Refusal :=
  vopRun t w 0x11 s fun x => x.setVreg (vdOf w) (laneZero (rmax (x.vreg (vaOf w))))

/-! ## Conversions (R86) -/

/-- vd of a narrowing conversion: the codes, then the two scales of an 8-bit format. -/
def cvtPack (fmt : Nat) (a b : Nat × List (Nat × SpecKind)) : List Byte :=
  let codes := (a.2 ++ b.2).foldr (fun e acc => natLe (outBytes fmt) e.1 ++ acc) []
  let sc := if fmt == 1 then [] else [BitVec.ofNat 8 a.1, BitVec.ofNat 8 b.1]
  slice (codes ++ sc) 0 256

/-- The form of a narrowing conversion. -/
def cvtLegal (w : BitVec 128) : Bool := commonOk { conv := true } w && layoutOk w (maskOf [(63, 36)])

/-- What the issue of a narrowing conversion depends on. The tensor identifier in lane 0 of vc has 20 bits: nonzero bits above
them are a reserved value of these three alone (R86; assumption 103). -/
def State.cvtIssue (s : State) (t : Nat) (w : BitVec 128) : Issue :=
  { eng := engVector, form := cvtLegal w
    content := bits (((s.tile t).vreg (vcOf w)).headD 0).toNat 31 20 == 0 && !s.rbaseEnd t w
    also := s.rbaseHold t w }

/-- The effect of CVT to a stored format (R86, R98, R116). -/
def State.cvtNarrow (s : State) (t : Nat) (w : BitVec 128) (fmt : Nat) : State :=
  let tensor := bits (((s.tile t).vreg (vcOf w)).headD 0).toNat 19 0
  let tag := s.tagOf t
  let (base, stride, s) := if srOf w then s.rbaseTake t else (0, 0, s)
  let v := (s.tile t).vreg (vaOf w)
  let half (i : Nat) := convRow fmt ((List.range 32).map fun j =>
    (decode32 (v.getD (32 * i + j) 0), rndOf (srOf w) s.seedNow tensor tag base stride i j))
  let a := half 0
  let b := half 1
  let s := s.modTile t fun x => x.setVreg (vdOf w) (lanesOf (cvtPack fmt a b))
  let (z, sa, nf) := countKinds ((a.2 ++ b.2).map (·.2))
  (s.countSpec t tensor tag z sa nf).convFlags tag (trafficOf w) nf sa

def execCvtF8f (t : Nat) (w : BitVec 128) (s : State) : Host.Outcome State Fault Refusal :=
  instrRun (isSub w 0x20 0x20) t s fun s => s.issue t w (s.cvtIssue t w) (·.cvtNarrow t w 2)

def execCvtF8b (t : Nat) (w : BitVec 128) (s : State) : Host.Outcome State Fault Refusal :=
  instrRun (isSub w 0x20 0x21) t s fun s => s.issue t w (s.cvtIssue t w) (·.cvtNarrow t w 3)

def execCvtF16w (t : Nat) (w : BitVec 128) (s : State) : Host.Outcome State Fault Refusal :=
  instrRun (isSub w 0x20 0x22) t s fun s => s.issue t w (s.cvtIssue t w) (·.cvtNarrow t w 1)

/-- The 64 FP32 lanes of a packed register (R85, R86). -/
def cvtUnpack (fmt : Nat) (v : List Word) : List Word :=
  let bs := laneBytes v
  (List.range 64).map fun l =>
    let x := match fmt with
      | 1 => decodeF f16w (fieldAt bs (2 * l) 2)
      | 2 => scaledElem f8f (fieldAt bs l 1) (fieldAt bs (64 + l / 32) 1)
      | _ => scaledElem f8b (fieldAt bs l 1) (fieldAt bs (64 + l / 32) 1)
    (sat32 x).1

/-- The form of the widening conversion. -/
def widenLegal (w : BitVec 128) : Bool :=
  commonOk { a := true } w && layoutOk w (maskOf [(63, 36)]) && 1 ≤ fmtA w && fmtA w ≤ 3

/-- How many values are not finite. -/
def nonfinites (l : List Word) : Nat := l.countP fun v => !(decode32 v).isFinite

/-- CVT widening (R85, R86): it counts nothing (R116), but a non-finite result sets the non-finite flag (R98). -/
def execCvtWiden (t : Nat) (w : BitVec 128) (s : State) : Host.Outcome State Fault Refusal :=
  instrRun (isSub w 0x20 0x23) t s fun s =>
    s.issue t w { eng := engVector, form := widenLegal w } fun s =>
      let v := cvtUnpack (fmtA w) ((s.tile t).vreg (vaOf w))
      (s.modTile t (·.setVreg (vdOf w) v)).convFlags (s.tagOf t) 0 (nonfinites v) 0

/-! ## Loads and stores (R521) -/

def vmemLegal (w : BitVec 128) : Bool := commonOk {} w && layoutOk w (maskOf [(63, 47)])

/-- The 256 B of scratch that VLD and VST name. -/
def vmemAt (w : BitVec 128) : Nat := fld w 63 52 * 256

def execVld (t : Nat) (w : BitVec 128) (s : State) : Host.Outcome State Fault Refusal :=
  instrRun (isOp w 0x21) t s fun s =>
    s.issue t w { eng := engVector, form := vmemLegal w, reads := [(vmemAt w, 256)] }
      (·.modTile t fun x => x.setVreg (fld w 51 47) (lanesOf (x.bytes (vmemAt w) 256)))

def execVst (t : Nat) (w : BitVec 128) (s : State) : Host.Outcome State Fault Refusal :=
  instrRun (isOp w 0x22) t s fun s =>
    s.issue t w { eng := engVector, form := vmemLegal w, writes := [(vmemAt w, 256)] } fun s =>
      s.putScratch t (vmemAt w) (laneBytes ((s.tile t).vreg (fld w 51 47)))

end Sys2Proof.Machine
end

