-- ==== Sys2Proof/Machine/Mirror.lean ====
section
/-!
DEFINITION. The Mirror engine: task records, microinstructions, norms, fingerprints (R192 to R200, R215, R220).
-/
namespace Sys2Proof.Machine

/-- A stream of a task record (Table 7.2). -/
structure MStream where
  off     : Nat
  fmt     : Nat
  sr      : Bool
  traffic : Nat
  specEn  : Bool
  fpEn    : Bool
  used    : Bool
  tensor  : Nat
  soff    : Nat
deriving DecidableEq, Repr

/-- A task record (Table 7.2). -/
structure MTask where
  e       : Nat
  scalars : Nat
  base    : Nat
  streams : List MStream
  normOut : Nat
  log2g   : Nat
  fpFirst : Nat
  fpOn    : Bool
deriving DecidableEq, Repr

/-- Reads a task record; none where a reserved bit is set (R193). -/
def parseTask (bs : List Byte) : Option MTask :=
  let f (o n : Nat) : Nat := fieldAt bs o n
  let streams := (List.range 8).map fun k =>
    let x := f (0x10 + 8 * k) 8
    { off := bits x 19 0, fmt := bits x 23 20, sr := bit x 24, traffic := bits x 27 25, specEn := bit x 28,
      fpEn := bit x 29, used := bit x 30, tensor := bits x 51 32, soff := bits x 63 52 * 256 : MStream }
  let rsv := bits (f 0 4) 31 17 == 0 && bits (f 4 4) 31 20 == 0 && bits (f 8 8) 63 40 == 0 &&
    ((List.range 8).all fun k => !bit (f (0x10 + 8 * k) 8) 31) &&
    bits (f 0x50 8) 63 24 == 0 && bits (f 0x5C 4) 31 1 == 0 && (bs.drop 0x60).all (· == 0)
  if rsv then
    some { e := bits (f 0 4) 16 0, scalars := bits (f 4 4) 19 0, base := bits (f 8 8) 39 0, streams := streams,
           normOut := bits (f 0x50 4) 19 0, log2g := bits (f 0x50 4) 23 20 , fpFirst := f 0x58 4, fpOn := bit (f 0x5C 4) 0 }
  else none

/-- Fields of a microinstruction (R195). -/
def uOp (m : Word) : Nat := bits m.toNat 31 26
def uD (m : Word) : Nat := bits m.toNat 25 22
def uA (m : Word) : Nat := bits m.toNat 21 17
def uB (m : Word) : Nat := bits m.toNat 16 12
def uC (m : Word) : Nat := bits m.toNat 11 7
def uK (m : Word) : Nat := bits m.toNat 2 0

/-- A program: its microinstructions up to and without END. -/
def progOf (img : Image) (n : Nat) : List Word :=
  match img.progs[n]? with
  | none => []
  | some (st, len1) => ((img.store.drop st).take (len1 + 1)).takeWhile fun m => uOp m != 0x3F

/-- LOG2G above 16 is reserved; F8 streams and fingerprints need aligned ranges; used streams must exist (R193, R194,
R199). -/
def taskLegal (heritage : Bool) (prog : List Word) (x : MTask) : Bool :=
  let usedK := (prog.filter fun m => uOp m == 1 || uOp m == 2).map uK
  let sq := prog.any fun m => uOp m == 0x10
  1 ≤ x.e && x.e ≤ 65536 && x.scalars % 64 == 0 && x.normOut % 4 == 0 && x.log2g ≤ 16 &&
  (usedK.all fun k => match x.streams[k]? with
    | some y => y.used
    | none => false) &&
  (x.streams.all fun y => !y.used || (y.fmt ≤ 3 && y.traffic != 7 &&
    (y.fmt < 2 || (x.e % 32 == 0 && x.base % 32 == 0)) && !(heritage && y.sr))) &&
  (!x.fpOn || (x.base % 16384 == 0 && x.e % 16384 == 0)) &&
  (!sq || x.base % (32 * 2 ^ x.log2g) == 0)

def elemBytes (fmt : Nat) : Nat := outBytes fmt

def fmtFloat (fmt : Nat) : FFmt := match fmt with
  | 0 => fp32
  | 1 => f16w
  | 2 => f8f
  | _ => f8b

/-- Scratch of a stream: its elements, and the scale row of an 8-bit one. -/
def MTask.streamRanges (x : MTask) (k : Nat) : List (Nat × Nat) := match x.streams[k]? with
  | some y => (y.off, x.e * elemBytes y.fmt) :: (if y.fmt ≥ 2 then [(y.soff, (x.e + 31) / 32)] else [])
  | none => []

/-- A program reads a stream: its first use of it is not a store, whose value alone a later load returns (R197). -/
def readsStream (prog : List Word) (k : Nat) : Bool :=
  (prog.find? fun m => (uOp m == 1 || uOp m == 2) && uK m == k).any (uOp · == 1)

/-- Scratch that a task reads (R198). -/
def taskReads (prog : List Word) (x : MTask) : List (Nat × Nat) :=
  (x.scalars, 64) :: ((List.range 8).filter (readsStream prog)).foldr (fun k acc => x.streamRanges k ++ acc) []

/-- Scratch that a task stores to. -/
def taskStores (prog : List Word) (x : MTask) : List (Nat × Nat) :=
  ((List.range 8).filter fun k => prog.any fun m => uOp m == 2 && uK m == k).foldr (fun k acc => x.streamRanges k ++ acc) []

/-- The NORM_OUT range of a task: 4 B for each segment that it touches (R199). -/
def taskNorms (prog : List Word) (x : MTask) : List (Nat × Nat) :=
  if prog.any (uOp · == 0x10) && x.e > 0 then
    let g := 32 * 2 ^ x.log2g
    [(x.normOut, 4 * ((x.base + x.e - 1) / g - x.base / g + 1))]
  else []

/-- What the engine carries through the elements of a task. -/
structure MRun where
  tile   : Tile
  regs   : List Word := List.replicate 16 0
  pend   : Sparse (List FVal) := []           -- F8 stream ↦ last value stored to each place of the open 32-element block
  leaf   : List FVal := []                    -- squares of the open norm leaf
  segs   : List Word := []                    -- finished segment sums
  seg    : Option (Word × Nat) := none        -- open segment: sum, index
  sats   : Nat := 0                           -- sat32 saturations of the norm sums
  counts : List (Nat × SpecKind) := []        -- stream, event of each conversion
  loadNf : Nat := 0                           -- loads that widened to a non-finite value
deriving DecidableEq, Repr

def MRun.val (r : MRun) (scal : List Word) (code : Nat) : Word :=
  if code < 16 then r.regs.getD code 0 else scal.getD (code - 16) 0

def MRun.set (r : MRun) (d : Nat) (v : Word) : MRun := { r with regs := r.regs.set d v }

/-- Loads element e of a stream, widened (R85). -/
def loadElem (x : Tile) (y : MStream) (e : Nat) : Word :=
  let n := elemBytes y.fmt
  let code := x.num (y.off + e * n) n
  match y.fmt with
  | 0 => canonical32 (BitVec.ofNat 32 code)
  | 1 => (sat32 (decodeF f16w code)).1
  | _ => (sat32 (scaledElem (fmtFloat y.fmt) code (x.byte (y.soff + e / 32)).toNat)).1

/-- The rounding of a store (R197). -/
def storeRnd (seed tag base : Nat) (y : MStream) (e : Nat) : Rnd :=
  if y.sr then .srnd (srbits seed y.tensor tag (base + e)) else .rne

/-- Stores one element. An 8-bit stream keeps it until its run of 32 is complete (R83, R197). -/
def storeElem (seed tag base : Nat) (k : Nat) (y : MStream) (e : Nat) (v : Word) (r : MRun) : MRun :=
  if y.fmt < 2 then
    let (code, kind) := convElem (fmtFloat y.fmt) (storeRnd seed tag base y e) (decode32 v)
    let n := elemBytes y.fmt
    { r with tile := r.tile.setBytes (y.off + e * n) (natLe n code), counts := r.counts ++ [(k, kind)] }
  else
    let l := sget [] r.pend k
    { r with pend := sput r.pend k (if e % 32 < l.length then l.set (e % 32) (decode32 v) else l ++ [decode32 v]) }

/-- The end of a run of 32 elements of an 8-bit stream: one scale for the values stored last to each (R83, R197; assumption
109). -/
def storeBlock (seed tag base e : Nat) (streams : List MStream) (r : MRun) (p : Nat × List FVal) : MRun :=
  match streams[p.1]? with
  | none => r
  | some y =>
    let b := e - 31
    let (sc, cs) := convBlock (fmtFloat y.fmt)
      ((p.2.zip (List.range 32)).map fun (x, j) => (x, storeRnd seed tag base y (b + j)))
    { r with tile := (r.tile.setBytes (y.off + b) (cs.map fun c => BitVec.ofNat 8 c.1)).setByte (y.soff + e / 32) (BitVec.ofNat 8 sc)
             counts := r.counts ++ cs.map fun c => (p.1, c.2) }

/-- Loads element e: a widening whose result is not finite is remembered (R98; assumption 108). -/
def MRun.load (r : MRun) (d : Nat) (y : MStream) (e : Nat) : MRun :=
  let v := loadElem r.tile y e
  { r.set d v with loadNf := r.loadNf + (if y.fmt == 0 then 0 else nonfinites [v]) }

/-- Runs one microinstruction for element e (Table 7.3). R196 gives its arithmetic, which rounds to infinity, where R100 says
sat32 of every addition outside the vector unit and the array (assumption 105). -/
def microOp (scal : List Word) (task : MTask) (seed tag e : Nat) (r : MRun) (m : Word) : MRun :=
  let a := r.val scal (uA m)
  let b := r.val scal (uB m)
  let c := r.val scal (uC m)
  let set (v : Word) : MRun := r.set (uD m) v
  match uOp m with
  | 0x01 => match task.streams[uK m]? with
    | some y => r.load (uD m) y e
    | none => r
  | 0x02 => match task.streams[uK m]? with
    | some y => storeElem seed tag task.base (uK m) y e a r
    | none => r
  | 0x03 => set (canonical32 a)
  | 0x04 => set (fpFma a b c)
  | 0x05 => set (fpAdd a b)
  | 0x06 => set (round32 ((decode32 a).add (decode32 b).neg))
  | 0x07 => set (fpMul a b)
  | 0x08 => set (fpDiv a b)
  | 0x09 => set (fpSqrt a)
  | 0x0A => set (fpMin a b)
  | 0x0B => set (fpMax a b)
  | 0x0C => set (fpAbs a)
  | 0x0D => set (fpSel a b c)
  | 0x0E => set (fpCmplt a b)
  | 0x0F => set (fpLdexp a b)
  | 0x10 => { r with leaf := r.leaf ++ [(decode32 a).mul (decode32 a)] }
  | _ => r

/-- Closes the open norm leaf into its segment (R199). -/
def closeLeaf (r : MRun) (idx log2g : Nat) : MRun :=
  if r.leaf.isEmpty then r
  else
    let (leaf, s1) := sat32 (r.leaf.foldl FVal.add FVal.zero)
    let j := idx / 32 / 2 ^ log2g
    let (sum, segs) := match r.seg with
      | some (v, i) => if i == j then (v, r.segs) else (0, r.segs ++ [v])
      | none => (0, r.segs)
    let (v, s2) := satAdd32 sum leaf
    { r with leaf := [], seg := some (v, j), segs := segs, sats := r.sats + b2n s1 + b2n s2 }

/-- Runs the program for element e, with registers at +0.0 (R194). -/
def runElem (prog : List Word) (scal : List Word) (task : MTask) (seed tag : Nat) (r : MRun) (e : Nat) : MRun :=
  let r := prog.foldl (microOp scal task seed tag e) { r with regs := List.replicate 16 0 }
  let r := if e % 32 == 31 then
      { r.pend.foldl (storeBlock seed tag task.base e task.streams) r with pend := [] }
    else r
  if (task.base + e) % 32 == 31 || e + 1 == task.e then closeLeaf r (task.base + e) task.log2g else r

/-! ## Fingerprints (R215) -/

def crc64Byte (c : DWord) (x : Byte) : DWord :=
  forN 8 (c ^^^ BitVec.zeroExtend 64 x) fun c _ =>
    if c &&& 1 = 1 then (c >>> 1) ^^^ 0xC96C5795D7870F42#64 else c >>> 1

def crc64 (bs : List Byte) : DWord := (bs.foldl crc64Byte 0xFFFFFFFFFFFFFFFF#64) ^^^ 0xFFFFFFFFFFFFFFFF#64

/-- The bytes fingerprinted for block i of a task: header, then each FP_EN stream's part of the block. -/
def fpBytes (x : Tile) (task : MTask) (tag i : Nat) : List Byte :=
  let ss := task.streams.filter fun y => y.used && y.fpEn
  let tensor := match ss with
    | y :: _ => y.tensor
    | [] => 0
  natLe 4 tensor ++ natLe 4 (task.base / 16384 + i) ++ natLe 8 tag ++
    ss.foldr (fun y acc => x.bytes (y.off + i * 16384 * elemBytes y.fmt) (16384 * elemBytes y.fmt) ++ acc) []

/-- Stands where no image is active. -/
def noImage : Image := ⟨0, 0, 0, 0, 0, false, false, 0, 1, [], 0, 1, [], [], [], [], [], [], [], 0, 0⟩

/-- Address of the task record and number of the program that a MIRROR names (R192). -/
def mirrorRec (w : BitVec 128) : Nat := fld w 63 50 * 64
def mirrorProg (w : BitVec 128) : Nat := fld w 49 45

/-- The image whose programs a tile holds. -/
def State.mirrorImage (s : State) : Image := s.adm.active.getD noImage

/-- The task that a MIRROR names, where its record keeps R193 and R194. -/
def State.mirrorTask (s : State) (t : Nat) (w : BitVec 128) : Option MTask :=
  let i := s.mirrorImage
  (parseTask ((s.tile t).bytes (mirrorRec w) 128)).filter (taskLegal i.heritage (progOf i (mirrorProg w)))

/-- What the issue of a MIRROR depends on. The engine takes one task at a time. -/
def State.mirrorIssue (s : State) (t : Nat) (w : BitVec 128) : Issue :=
  let rec_ := [(mirrorRec w, 128)]
  let prog := progOf s.mirrorImage (mirrorProg w)
  let k := s.mirrorTask t w
  { eng := engMirror
    form := commonOk {} w && layoutOk w (maskOf [(63, 45)]) && mirrorRec w % 128 == 0
    head := rec_
    content := k.isSome
    reads := rec_ ++ (match k with
      | some k => taskReads prog k
      | none => [])
    writes := match k with
      | some k => taskStores prog k ++ taskNorms prog k
      | none => []
    also := if (s.tile t).mirror.isSome then some (.wait stOperand) else none }

/-- The elements of a task, run in order from the tile's scratch (R194). -/
def Tile.mirrorRun (x : Tile) (i : Image) (prog : List Word) (k : MTask) (tag : Nat) : MRun :=
  let scal := (List.range 16).map fun n => BitVec.ofNat 32 (x.num (k.scalars + 4 * n) 4)
  forN k.e { tile := x : MRun } fun r e => runElem prog scal k i.seed tag r e

/-- The flags of a task's conversions, and its Spectrum events by stream (R98, R197). -/
def State.mirrorCounts (s : State) (t tag : Nat) (k : MTask) (r : MRun) : State :=
  let s := s.convFlags tag 0 r.loadNf 0
  (List.range 8).foldl (fun s n => match k.streams[n]? with
    | none => s
    | some y =>
      let (z, sa, nf) := countKinds ((r.counts.filter (·.1 == n)).map (·.2))
      let s := s.convFlags tag y.traffic nf sa
      if y.specEn then s.countSpec t y.tensor tag z sa nf else s) s

/-- What a task leaves to be written when it completes (R199, R215). -/
def mirrorEnd (k : MTask) (prog tag : Nat) (q : Issue) (r : MRun) : MirrorTask :=
  { prog := prog, norms := r.segs ++ (r.seg.map (·.1)).toList, normOut := k.normOut
    fprints := if k.fpOn then (List.range (k.e / 16384)).map fun i => (k.fpFirst + i, crc64 (fpBytes r.tile k tag i)) else []
    tag := tag, reads := q.reads, writes := q.writes }

/-- The effect of MIRROR: the task's elements run; its norm sums and fingerprints are written when it completes. -/
def State.mirror (s : State) (t : Nat) (w : BitVec 128) (q : Issue) : State := match s.mirrorTask t w with
  | none => s
  | some k =>
    let tag := s.tagOf t
    let i := s.mirrorImage
    let prog := progOf i (mirrorProg w)
    let s := s.faultReads t (taskStores prog k)
    let r := (s.tile t).mirrorRun i prog k tag
    let s := s.setTile t { r.tile with mirror := some (mirrorEnd k (mirrorProg w) tag q r) }
    ((s.mirrorCounts t tag k r).normSats t tag r.sats).bump t 0x29C ((k.e + 15) / 16)

/-- MIRROR (R192 to R199). -/
def execMirror (t : Nat) (w : BitVec 128) (s : State) : Host.Outcome State Fault Refusal :=
  instrRun (isOp w 0x50) t s fun s =>
    let q := s.mirrorIssue t w
    s.issue t w q (·.mirror t w q)

/-- The end of a Mirror task: NORM_OUT and the fingerprint table entries are written (R198, R199, R215). -/
def execMirrorTaskComplete (t : Nat) (s : State) : Host.Outcome State Fault Refusal :=
  tileRun t s fun s =>
    match (s.tile t).mirror with
    | none => s
    | some m =>
      let s := s.modTile t fun x => { x with mirror := none }
      let s := if m.norms.isEmpty then s else s.putScratch t m.normOut (m.norms.foldr (fun v acc => natLe 4 v.toNat ++ acc) [])
      match s.adm.active with
      | none => s
      | some i =>
        m.fprints.foldl (fun s (n, c) =>
          if (s.tile t).skip.writes > 0 then s.modTile t fun x => { x with skip := { x.skip with writes := x.skip.writes - 1 } }
          else
            let a := s.fpTable i + 8 * (m.tag % 2 * s.fpBlocks i + n)
            let s := { s with steps := { s.steps with owners := sput s.steps.owners n t } }
            (s.devWrite a (sound (natLe 8 c.toNat)) 5 (.tile t)).modTile t fun x =>
              { x with done := { x.done with writes := x.done.writes + 1 } }) s

end Sys2Proof.Machine
end

