-- ==== Sys2Proof/Machine/Glint.lean ====
section
/-!
DEFINITION. The Glint path and credits that leave the tile: GSEND, GRECV, mailbox arrival, GIVE of kinds 2 and 3
(R70, R297 to R299, R333).
-/
namespace Sys2Proof.Machine

/-- The header of a message to be sent (R297). -/
structure GHead where
  remote : Option Nat          -- logical module of a message that leaves this one
  tile   : Nat
  mbox   : Nat
  len    : Nat
  kc     : Nat
  low    : Nat                 -- the 8 B at 0x08
deriving DecidableEq, Repr

/-- Reads a message header; none where it holds a reserved value. -/
def parseHead (bs : List Byte) : Option GHead :=
  let d := fieldAt bs 0 8
  let x := fieldAt bs 8 8
  let kind := bits d 63 62
  let ok := (kind == 1 && bits d 61 47 == 0 || kind == 2) && bits d 46 42 == 0 && bits d 31 2 == 0 &&
    bits x 7 0 < 240 && bits x 15 13 == 0 && bits x 63 32 == 0
  if ok then
    some { remote := if kind == 2 then some (bits d 61 47) else none, tile := bits d 41 32, mbox := bits d 1 0,
           len := bits x 7 0 + 1, kc := bits x 12 8, low := x }
  else none

/-- The 256 B of a received slot (R297). -/
def glintSlot (remote : Bool) (mod tile : Nat) (low : Nat) (payload : List Byte) : List Byte :=
  let src := (if remote then 2 ^ 63 + mod * 2 ^ 47 else 2 ^ 62) + tile * 2 ^ 32
  let bs := natLe 8 src ++ natLe 8 low ++ payload
  bs ++ List.replicate (256 - bs.length) 0

/-- Sends a message: to a mailbox of this module, or as a GLINT frame (R298, R299). -/
def State.gsend (s : State) (t : Nat) (h : GHead) (payload : List Byte) : State :=
  let tag := s.tagOf t
  let me := s.tileOf t
  let pay (x : Tile) : Tile :=
    { x with kc := sput x.kc h.kc ((sget ({} : Counter) x.kc h.kc).take 1 x.inSpec),
             done := { x.done with gsend := x.done.gsend + 1 } }
  let s := (s.modTile t pay).bump t 0x2CC
  match h.remote with
  | none =>
    match s.siteOf h.tile with
    | none => s
    | some d =>
      let (id, s) := s.fresh
      let m : GMsg := { srcMod := s.logical.getD 0, srcTile := me, kc := h.kc, slot := glintSlot false 0 me h.low payload,
                        tag := tag }
      { s with glints := s.glints ++ [{ id := id, site := d, mbox := h.mbox, msg := m }] }
  | some m =>
    let dest := 2 ^ 63 + m * 2 ^ 47 + h.tile * 2 ^ 32 + h.mbox
    s.sendUnscheduled { emptyFrame with
      type := 3, spec := s.speculative tag, stepTag := tag % 256, dstTile := h.tile
      dstPhys := (s.physOfLogical m).getD 0, srcPhys := s.phys, srcTile := me
      payload := pad16 (natLe 8 dest ++ natLe 8 h.low ++ payload) }

/-- Address of the message of a GSEND, or of the destination of a GRECV. -/
def glintAt (w : BitVec 128) : Nat := 64 * fld w 63 50

/-- Messages of a tile that are in flight in this module (R299). -/
def State.inFlight (s : State) (t : Nat) : Nat :=
  s.glints.countP fun g => g.msg.srcTile == s.tileOf t && g.msg.srcMod == s.logical.getD 0

/-- Why a message does not leave yet (R298, R299). -/
def State.gsendHold (s : State) (t : Nat) (h : GHead) : Option Hold :=
  let x := s.tile t
  if (sget {} x.kc h.kc).seen x.inSpec < 1 then some (.wait (if h.remote.isSome then stRay else stSlot))
  else if h.remote.any (fun m => (s.physOfLogical m).isNone) then some (.wait stRay)
  else if s.inFlight t ≥ 16 then some (.wait stOperand)
  else none

/-- What the issue of a GSEND depends on. One that a replay skips reads nothing (R71). -/
def State.gsendIssue (s : State) (t : Nat) (w : BitVec 128) : Issue :=
  let q : Issue := { eng := engGlint, form := commonOk {} w && layoutOk w (maskOf [(63, 50)]) }
  if (s.tile t).skip.gsend > 0 then q
  else
    let a := glintAt w
    match parseHead ((s.tile t).bytes a 16) with
    | none => { q with head := [(a, 16)], content := false }
    | some h => { q with head := [(a, 16)], reads := [(a, 16 + h.len)], also := s.gsendHold t h }

/-- The payload of a message: the pattern, where its read failed and was not replayed (R522). -/
def Tile.gsendPayload (x : Tile) (a n : Nat) : List Byte :=
  if x.sendBad == some (x.rpNo, x.icount) then allOnes n else x.bytes (a + 16) n

/-- GSEND (R70, R297 to R299). -/
def execGsend (t : Nat) (w : BitVec 128) (s : State) : Host.Outcome State Fault Refusal :=
  instrRun (isOp w 0x38) t s fun s =>
    s.issue t w (s.gsendIssue t w) fun s =>
      let x := s.tile t
      let a := glintAt w
      if x.skip.gsend > 0 then s.modTile t fun x => { x with skip := { x.skip with gsend := x.skip.gsend - 1 } }
      else match parseHead (x.bytes a 16) with
        | none => s
        | some h => s.gsend t h (x.gsendPayload a h.len)

/-- Returns a slot credit to the sender of a message, with the tag that the message carries (R207, R208, R298). -/
def State.giveBack (s : State) (m : GMsg) : State :=
  if m.srcMod == s.logical.getD 0 then
    match s.siteOf m.srcTile with
    | some d => s.addKC d m.kc 1 m.tag
    | none => s
  else
    s.sendUnscheduled { emptyFrame with
      type := 4, spec := s.speculative m.tag, stepTag := m.tag % 256, dstTile := m.srcTile
      dstPhys := (s.physOfLogical m.srcMod).getD 0, srcPhys := s.phys, cc := m.kc, giveN := 1 }

/-- The message that GRECV takes: the oldest that the instruction may see (R70, R208; assumption 31). -/
def State.nextMsg (s : State) (t m : Nat) : Option (GMsg × List GMsg) :=
  let x := s.tile t
  takeFirst (fun g => x.inSpec || !s.speculative g.tag) (sget [] x.mbox m)

/-- What the issue of a GRECV depends on. -/
def State.grecvIssue (s : State) (t : Nat) (w : BitVec 128) : Issue :=
  { eng := engGlint, form := commonOk {} w && layoutOk w (maskOf [(63, 50), (1, 0)]), writes := [(glintAt w, 256)]
    also := if (s.tile t).skip.grecv > 0 || (s.nextMsg t (fld w 1 0)).isSome then none else some (.wait stSlot) }

/-- The slot that a replay's GRECV copies again: the one that it took before the error (R71; assumption 32). -/
def Tile.takenSlot (x : Tile) : List Byte := x.taken.getD (x.done.grecv - x.skip.grecv) []

/-- GRECV (R70, R298): copies the oldest message's slot to scratch and returns its credit, with the tag of the instruction
(R207). -/
def execGrecv (t : Nat) (w : BitVec 128) (s : State) : Host.Outcome State Fault Refusal :=
  instrRun (isOp w 0x39) t s fun s =>
    s.issue t w (s.grecvIssue t w) fun s =>
      let a := glintAt w
      let m := fld w 1 0
      if (s.tile t).skip.grecv > 0 then
        (s.putScratch t a (s.tile t).takenSlot).modTile t fun x => { x with skip := { x.skip with grecv := x.skip.grecv - 1 } }
      else match s.nextMsg t m with
        | none => s
        | some (g, rest) =>
          let tag := s.tagOf t
          let s := (s.putScratch t a g.slot).modTile t fun x =>
            { x with mbox := sset [] x.mbox m rest, taken := x.taken ++ [g.slot], done := { x.done with grecv := x.done.grecv + 1 } }
          (s.bump t 0x2D0).giveBack { g with tag := tag }

/-- A message left the same sender earlier for the same tile: the mesh delivers it first (R37, R70). -/
def GFlight.before (h g : GFlight) : Bool :=
  h.id < g.id && h.site == g.site && h.msg.srcMod == g.msg.srcMod && h.msg.srcTile == g.msg.srcTile

/-- A Glint message lands in its mailbox slot (R70); the sender's credit stands for a free slot. -/
def execMailboxArrival (id : Nat) (s : State) : Host.Outcome State Fault Refusal :=
  runOn s fun s =>
    match s.glints.find? (·.id == id) with
    | none => s
    | some g =>
      if (sget [] (s.tile g.site).mbox g.mbox).length ≥ 4 || s.glints.any (·.before g) then s
      else
        let s := { s with glints := s.glints.filter (·.id != id) }
        s.modTile g.site fun x => { x with mbox := sset [] x.mbox g.mbox (sget [] x.mbox g.mbox ++ [g.msg]) }

/-- GIVE to a tile of another module: a GIVE frame in the Glint class (R333). -/
def execGiveRemoteTile (t : Nat) (w : BitVec 128) (s : State) : Host.Outcome State Fault Refusal :=
  instrRun (isGive w 2) t s fun s =>
    let m := fld w 61 47
    s.issue t w (plainIssue w giveRemoteFields
      (if (s.tile t).skip.give == 0 && (s.physOfLogical m).isNone then some (.wait stRay) else none)) fun s =>
      let tag := s.tagOf t
      s.giveOnce t fun s => s.sendUnscheduled { emptyFrame with
        type := 4, spec := s.speculative tag, stepTag := tag % 256, dstTile := fld w 41 32
        dstPhys := (s.physOfLogical m).getD 0, srcPhys := s.phys, srcTile := s.tileOf t
        cc := fld w 28 24, giveN := fld w 15 0 }

/-- GIVE to a collective counter of this module (R333, R340). -/
def execGiveCollective (t : Nat) (w : BitVec 128) (s : State) : Host.Outcome State Fault Refusal :=
  instrRun (isGive w 3) t s fun s =>
    let c := fld w 39 32
    s.issue t w (plainIssue w giveCollFields) fun s =>
      s.giveOnce t fun s =>
        { s with ray := { s.ray with ck := sset 0 s.ray.ck c ((sget 0 s.ray.ck c + fld w 15 0) % 2 ^ 32) } }

end Sys2Proof.Machine
end

