-- ==== Sys2Proof/Machine/Ctrl.lean ====
section
/-!
DEFINITION. Control frames (R338): their bodies as bytes (Tables 5.1, 10.9, 12.5, 13.5), and their place in a port's queue.
-/
namespace Sys2Proof.Machine

/-- A word of fields, each (low bit, width, value). -/
def packBits (l : List (Nat × Nat × Nat)) : Nat := l.foldl (fun a x => a + x.2.2 % 2 ^ x.2.1 * 2 ^ x.1) 0

/-! ## Ray frames -/

/-- The 32 B header of a Ray frame (Table 10.2). -/
def headerBytes (f : RayFrame) : List Byte :=
  natLe 8 (packBits [(0, 4, f.type), (4, 6, f.payload.length / 16), (10, 12, f.seq), (22, 12, f.ack), (34, 1, b2n f.nak),
    (35, 1, b2n f.spec), (36, 8, f.stepTag), (44, 7, f.crPool), (51, 13, f.crUnits)]) ++
  natLe 8 (packBits [(0, 12, f.stream), (12, 16, f.xseq), (28, 1, b2n f.last), (29, 1, b2n f.akind), (30, 10, f.dstTile),
    (40, 15, f.dstPhys), (55, 1, b2n f.detour), (56, 7, f.pool)]) ++
  natLe 8 (packBits [(0, 48, f.addr), (48, 15, f.srcPhys)]) ++
  natLe 8 (packBits [(0, 5, f.cc), (5, 1, b2n f.ccEn), (6, 8, f.ck), (14, 1, b2n f.ckEn), (16, 16, f.giveN),
    (32, 10, f.srcTile), (42, 4, f.dirIn), (46, 8, f.poison)])

/-- One byte of the CRC-32 of IEEE 802.3, reflected. -/
def crc32Byte (c : Word) (x : Byte) : Word :=
  (List.range 8).foldl (fun r _ => if r.getLsbD 0 then (r >>> 1) ^^^ 0xEDB88320#32 else r >>> 1) (c ^^^ x.setWidth 32)

/-- CRC-32 (R314): initial value all ones, final complement. -/
def crc32 (bs : List Byte) : Word := ~~~ bs.foldl crc32Byte 0xFFFFFFFF#32

/-- The CRC of a frame, over its header and payload. -/
def frameCrc (f : RayFrame) : Word := crc32 (headerBytes f ++ f.payload)

/-- The 64 B of a Gnomon word (Table 5.1). -/
def gnomonBytes (w : GnomonWord) : List Byte :=
  natLe 8 w.txCount ++
  natLe 8 (packBits [(0, 8, w.txFrac), (8, 8, w.masterPrio), (16, 15, w.masterId), (32, 32, w.epoch)]) ++
  natLe 8 (packBits [(0, 32, w.seq), (32, 8, w.hops)]) ++
  natLe 8 w.echoRx ++ natLe 8 (w.echoTurn % 2 ^ 32) ++
  natLe 8 (packBits [(0, 40, w.frame), (40, 1, b2n w.flag), (41, 1, b2n w.switchGo), (42, 1, b2n w.switchAbort),
                     (43, 1, b2n w.hold)]) ++
  natLe 8 w.start ++ natLe 8 (packBits [(0, 40, w.switchFrame), (40, 24, w.readyCount)])

/-- The 16 B of a STEP body (Table 10.9). -/
def stepBytes (kind : Nat) (m : StepMsg) : List Byte :=
  natLe 8 (packBits [(0, 2, kind), (2, 48, m.step)]) ++
  natLe 8 (packBits [(0, 5, m.cause), (5, 15, m.count), (20, 3, m.verdict), (23, 8, fieldOf 8 m.ls), (31, 16, m.run)])

/-- The 32 B of a PENUMBRA body (Table 13.5). -/
def penumbraBytes (kind mode : Nat) (m : PenumbraMsg) : List Byte :=
  natLe 8 (packBits [(0, 2, kind), (2, 8, m.cause), (10, 15, m.count), (25, 16, m.score), (41, 2, mode),
                     (43, 1, b2n m.deadSeen), (44, 1, b2n m.fail)]) ++
  natLe 8 (m.step % 2 ^ 48) ++ natLe 8 (m.frame % 2 ^ 40) ++ natLe 8 (packBits [(0, 32, m.tUs), (32, 32, m.holdNo)])

def emptyPen : PenumbraMsg :=
  { cause := 0, count := 0, score := 0, deadSeen := false, fail := false, step := 0, frame := 0, tUs := 0, holdNo := 0 }

/-- The 16 B of a SPOTLIGHT body (Table 12.5). -/
def spotBytes (kind : Nat) (m : SpotMsg) : List Byte :=
  natLe 8 (packBits [(0, 2, kind), (2, 1, b2n m.unsettled), (3, 13, m.period), (16, 16, m.gseq), (32, 16, m.tokens),
                     (48, 15, m.count)]) ++
  natLe 8 (if kind == 3 then packBits [(0, 32, m.sumH), (32, 32, m.sumBase)] else packBits [(0, 16, m.demand), (16, 16, m.need)])

/-- A CTRL frame of a subtype (R338). -/
def ctrlFrame (sub : Nat) (body : List Byte) : RayFrame :=
  { emptyFrame with type := 5, payload := natLe 16 sub ++ pad16 body }

/-- Queues a CTRL frame at a port; CTRL frames occupy no units and no XSEQ. -/
def State.sendCtrl (s : State) (p sub : Nat) (body : List Byte) : State :=
  s.modPort p fun x => { x with txq := x.txq ++ [{ frame := ctrlFrame sub body, pool := 127 }] }

/-- A CTRL message was accepted at a port: it takes a SEQ and is acknowledged (R315). -/
def State.ctrlIn (s : State) (p : Nat) : State :=
  (s.modPort p fun x => { x with rxSeq := (x.rxSeq + 1) % 4096, ackDue := true }).bump64 (rayPage p) 0x48

/-- Ports of the timing tree below this module: those whose partner reports to it. -/
def State.kidPorts (s : State) : List Nat := s.gn.subs.map (·.1)

/-- Ports that are UP. -/
def State.upPorts (s : State) : List Nat := (List.range 16).filter s.portUp

/-- Sends a STEP message up the tree, or to every child. -/
def State.stepUp (s : State) (kind : Nat) (m : StepMsg) : State := match s.gn.upstream with
  | some p => s.sendCtrl p 2 (stepBytes kind m)
  | none => s

def State.stepDown (s : State) (kind : Nat) (m : StepMsg) : State :=
  s.kidPorts.foldl (fun s p => s.sendCtrl p 2 (stepBytes kind m)) s

def State.penUp (s : State) (kind : Nat) (m : PenumbraMsg) : State := match s.gn.upstream with
  | some p => s.sendCtrl p 3 (penumbraBytes kind 0 m)
  | none => s

def State.penDown (s : State) (mode : Nat) (m : PenumbraMsg) : State :=
  s.kidPorts.foldl (fun s p => s.sendCtrl p 3 (penumbraBytes 1 mode m)) s

end Sys2Proof.Machine
end

