-- ==== Sys2Proof/Machine/Sha.lean ====
section
/-!
DEFINITION. SHA-256, HMAC-SHA-256 and HKDF-SHA-256, which journal entries, measurements and sessions use.
-/
namespace Sys2Proof.Machine

def shaK : List Word := [
  0x428a2f98, 0x71374491, 0xb5c0fbcf, 0xe9b5dba5, 0x3956c25b, 0x59f111f1, 0x923f82a4, 0xab1c5ed5,
  0xd807aa98, 0x12835b01, 0x243185be, 0x550c7dc3, 0x72be5d74, 0x80deb1fe, 0x9bdc06a7, 0xc19bf174,
  0xe49b69c1, 0xefbe4786, 0x0fc19dc6, 0x240ca1cc, 0x2de92c6f, 0x4a7484aa, 0x5cb0a9dc, 0x76f988da,
  0x983e5152, 0xa831c66d, 0xb00327c8, 0xbf597fc7, 0xc6e00bf3, 0xd5a79147, 0x06ca6351, 0x14292967] ++ [
  0x27b70a85, 0x2e1b2138, 0x4d2c6dfc, 0x53380d13, 0x650a7354, 0x766a0abb, 0x81c2c92e, 0x92722c85,
  0xa2bfe8a1, 0xa81a664b, 0xc24b8b70, 0xc76c51a3, 0xd192e819, 0xd6990624, 0xf40e3585, 0x106aa070,
  0x19a4c116, 0x1e376c08, 0x2748774c, 0x34b0bcb5, 0x391c0cb3, 0x4ed8aa4a, 0x5b9cca4f, 0x682e6ff3,
  0x748f82ee, 0x78a5636f, 0x84c87814, 0x8cc70208, 0x90befffa, 0xa4506ceb, 0xbef9a3f7, 0xc67178f2]

def shaInit : List Word :=
  [0x6a09e667, 0xbb67ae85, 0x3c6ef372, 0xa54ff53a, 0x510e527f, 0x9b05688c, 0x1f83d9ab, 0x5be0cd19]

/-- A big-endian number of n bytes. -/
def natBe (n x : Nat) : List Byte := (natLe n x).reverse
def beNat (bs : List Byte) : Nat := leNat bs.reverse

def shaPad (m : List Byte) : List Byte :=
  m ++ [0x80] ++ List.replicate ((119 - m.length % 64) % 64) 0 ++ natBe 8 (8 * m.length)

/-- The 64 words of a block's schedule. -/
def shaWords (b : List Byte) : List Word :=
  let w0 := (List.range 16).map fun i => BitVec.ofNat 32 (beNat ((b.drop (4 * i)).take 4))
  -- newest first while it grows
  (forN 48 w0.reverse fun l _ =>
    let a := l.getD 14 0
    let e := l.getD 1 0
    let s0 := a.rotateRight 7 ^^^ a.rotateRight 18 ^^^ (a >>> 3)
    let s1 := e.rotateRight 17 ^^^ e.rotateRight 19 ^^^ (e >>> 10)
    (s1 + l.getD 6 0 + s0 + l.getD 15 0) :: l).reverse

structure ShaReg where
  a : Word
  b : Word
  c : Word
  d : Word
  e : Word
  f : Word
  g : Word
  h : Word
deriving DecidableEq, Repr

def ShaReg.round (r : ShaReg) (k w : Word) : ShaReg :=
  let s1 := r.e.rotateRight 6 ^^^ r.e.rotateRight 11 ^^^ r.e.rotateRight 25
  let ch := (r.e &&& r.f) ^^^ (~~~r.e &&& r.g)
  let t1 := r.h + s1 + ch + k + w
  let s0 := r.a.rotateRight 2 ^^^ r.a.rotateRight 13 ^^^ r.a.rotateRight 22
  let mj := (r.a &&& r.b) ^^^ (r.a &&& r.c) ^^^ (r.b &&& r.c)
  ⟨t1 + (s0 + mj), r.a, r.b, r.c, r.d + t1, r.e, r.f, r.g⟩

def shaBlock (h : List Word) (b : List Byte) : List Word :=
  let r0 : ShaReg := ⟨h.getD 0 0, h.getD 1 0, h.getD 2 0, h.getD 3 0, h.getD 4 0, h.getD 5 0, h.getD 6 0, h.getD 7 0⟩
  let r := (shaK.zip (shaWords b)).foldl (fun r p => r.round p.1 p.2) r0
  List.zipWith (· + ·) h [r.a, r.b, r.c, r.d, r.e, r.f, r.g, r.h]

def shaBlocks : Nat → List Word → List Byte → List Word
  | 0, h, _ => h
  | n + 1, h, bs => shaBlocks n (shaBlock h (bs.take 64)) (bs.drop 64)

def sha256 (m : List Byte) : List Byte :=
  let p := shaPad m
  (shaBlocks (p.length / 64) shaInit p).foldr (fun w acc => natBe 4 w.toNat ++ acc) []

def hmac (key m : List Byte) : List Byte :=
  let k := if key.length > 64 then sha256 key else key
  let k := k ++ List.replicate (64 - k.length) 0
  sha256 (k.map (· ^^^ 0x5C) ++ sha256 (k.map (· ^^^ 0x36) ++ m))

/-- HKDF-SHA-256 with an output of 32 B: extract, then one block of expand. -/
def hkdf32 (salt ikm info : List Byte) : List Byte := hmac (hmac salt ikm) (info ++ [1])

end Sys2Proof.Machine
end

