-- ==== Sys2Proof/Machine/Gnomon.lean ====
section
/-!
DEFINITION. Gnomon time: election, delay and phase, decisions and reports, frame starts (R124 to R139, R512).
-/
namespace Sys2Proof.Machine

def State.modGn (s : State) (f : Gnomon → Gnomon) : State := { s with gn := f s.gn }
def State.modFr (s : State) (f : Frames → Frames) : State := { s with fr := f s.fr }

/-- S(J + 1), once the decision for the current frame is known (R137). -/
def State.nextStart (s : State) : Option Nat := match s.gn.dec with
  | some d => if s.gn.running && d.frame == s.gn.frame then some d.next else none
  | none => none

/-! ## Election (R132) -/

/-- (priority, module) `a` is a better master than `b`. -/
def better (a b : Nat × Nat) : Bool := a.1 > b.1 || (a.1 == b.1 && a.2 < b.2)

def State.candidate (s : State) : Option (Nat × Nat) :=
  if s.flag gnPage offControl 0 then some (s.field gnPage offControl 15 8, s.phys) else none

/-- The best master heard: priority, module. -/
def State.bestHeard (s : State) : Option (Nat × Nat) :=
  s.gn.heard.foldl (fun b e => match b with
    | none => some (e.2.prio, e.2.id)
    | some y => if better (e.2.prio, e.2.id) y then some (e.2.prio, e.2.id) else some y) none

/-- Follows a master: MASTER_CHANGED and its record when the master or its epoch is new (Table 5.19). -/
def State.follow (s : State) (prio id epoch : Nat) : State :=
  let new := s.gn.masterId != id || s.gn.epoch != epoch
  let s := s.modGn fun g => { g with masterPrio := prio, masterId := id, epoch := epoch }
  if new then (s.raise gnPage 2).agRecord 0x200E [id, epoch] else s

/-- A report of LATE has reached this module for a frame that no decision it knows has counted (R136). -/
def State.lateOpen (s : State) : Bool :=
  let open_ (f : Nat) : Bool := match s.gn.dec with
    | some d => d.frame < f
    | none => true
  (s.fr.rep.2 && open_ s.fr.rep.1) || s.gn.subs.any fun x => x.2.late && open_ x.2.frame

/-- Becomes master with EPOCH one greater than the highest heard, and takes over the reports that no decision has counted. A
master that stays one sends its PRIORITY as it now is. -/
def State.lead (s : State) (me : Nat × Nat) : State :=
  if s.gn.master then s.modGn fun g => { g with masterPrio := me.1 }
  else
    let late := s.lateOpen
    let e := (max s.gn.topEpoch s.gn.epoch + 1) % 2 ^ 32
    let local_ := s.gn.subs.foldl (fun m x => max m x.2.next) 0
    let s := s.follow me.1 me.2 e
    (s.modGn fun g => { g with master := true, upstream := none, hops := 0, everLock := true, holdover := false,
                               path := 0, topEpoch := e }).modFr fun f =>
      { f with localNext := local_, lateSeen := f.lateSeen || late }

/-- Takes as upstream the link with the fewest hops to the best master, the lowest port among equals. -/
def State.followBest (s : State) (b : Nat × Nat) : State :=
  let same := s.gn.heard.filter fun e => e.2.prio == b.1 && e.2.id == b.2
  let hops := same.foldl (fun m e => min m e.2.hops) 256
  match same.find? fun e => e.2.hops == hops with
  | none => s
  | some (p, h) =>
    let s := s.follow h.prio h.id h.epoch
    let hops := min (h.hops + 1) 255
    s.modGn fun g => { g with
      master := false, ppsUsed := false, setPend := false, upstream := some p, hops := hops, seq := h.seq
      far := if g.upstream == some p && g.hops == hops && s.gn.masterId == h.id then g.far else none }

/-- Election: this module becomes or stays master, follows the best master it hears, or has none. -/
def State.elect (s : State) : State :=
  match s.candidate, s.bestHeard with
  | none, none => s.modGn fun g => { g with master := false, ppsUsed := false, setPend := false, upstream := none }
  | some me, none => s.lead me
  | some me, some b => if better b me then s.followBest b else s.lead me
  | none, some b => s.followBest b

/-! ## Switch decisions (R156) -/

/-- This module is armed, for a switch or for an end, at frame F. -/
def State.armedFor (s : State) (f : Nat) : Bool := (s.adm.state == 4 || s.adm.armedEnd) && s.adm.swFrame == f

/-- The switch part of a decision reaches this module: GO (true) or ABORT and its frame, or none; `key` is the decision's
NEXT_START, and a decision seen before does nothing anew. -/
def State.switchSeen (s : State) (d : Option (Bool × Nat)) (key : Nat) : State :=
  let new := d.map fun x => (x.1, x.2, key)
  if s.fr.switch == new then s
  else
    let s := s.modFr fun x => { x with switch := new }
    match d with
    | none => s
    | some (true, f) => if s.armedFor f then { s with adm := { s.adm with go := some f } } else s
    | some (false, _) =>
      { s with adm := { s.adm with state := if s.adm.state == 4 then 3 else s.adm.state, armedEnd := false } }.raise admPage 4

/-- Takes a decision for frame K (R136, R137); a repeated one changes nothing. -/
def State.takeDecision (s : State) (d : Dec) : State :=
  if s.gn.dec.any (fun x => x.frame == d.frame && (s.gn.running || x.next == d.next)) || (s.gn.running && d.frame < s.gn.frame) then s
  else
    let s := s.modGn fun g => { g with dec := some d }
    if !s.gn.running then s
    else if d.stretch then
      let s := (s.raise gnPage 3).bump gnPage 0x138
      (s.setField gnPage 0x13C 7 0 (min 255 (s.field gnPage 0x13C 7 0 + 1))).modFr fun f => { f with run := f.run + 1 }
    else (s.setField gnPage 0x13C 7 0 0).modFr fun f => { f with run := 0 }

/-! ## Reports (R135, R156) -/

/-- SHA-256 of the SYSCOMPOUND section of the armed image, nothing where it has none. -/
def State.sysDigest (s : State) : List Byte := match s.adm.img.bind fun i => sfind i.sects 0xB with
  | some c => sha256 (s.peek c.off c.len)
  | none => []

/-- The frame this module is ready to switch at (R155): armed, PATH_LONG not raised by the path as it is, and its SYSCOMPOUND
section the master's (R161; what a module other than the master knows of that is a constant of the configuration, assumption
82). -/
def State.readyFor (s : State) : Option Nat :=
  if (s.adm.state == 4 || s.adm.armedEnd) && s.gn.path ≤ 1600 && !s.parked &&
      (s.adm.state != 4 || s.gn.master || s.sysDigest == Config.masterSysDigest s.adm.swFrame) then some s.adm.swFrame else none

/-- READY_FRAME and READY_COUNT of the subtree. -/
def State.readyUp (s : State) : Nat × Nat :=
  let f := match s.readyFor with
    | some f => f
    | none => match s.gn.subs.find? (fun x => x.2.readyN > 0) with
      | some x => x.2.ready
      | none => 0
  let own := if s.readyFor == some f then 1 else 0
  (f, s.gn.subs.foldl (fun n x => if x.2.readyN > 0 && x.2.ready == f then n + x.2.readyN else n) own)

/-- A LATE of frame J, own or of the subtree, goes into this module's report; the master counts it (R135, R136). -/
def State.lateReport (s : State) (j : Nat) : State :=
  s.modFr fun f => { f with rep := (j, true), lateSeen := f.lateSeen || s.gn.master }

/-- This module reports LATE of its own tiles. -/
def State.ownLate (s : State) (j : Nat) : State :=
  let s := s.raise gnPage 4
  let s := if s.fr.rep == (j, true) then s else s.bump gnPage 0x140
  s.lateReport j

/-- The word for a port (Table 5.1): upward content for the upstream, downward for every other link. -/
def State.wordFor (s : State) (p : Nat) : GnomonWord :=
  let g := s.gn
  let up := g.upstream == some p
  let d := g.dec.getD ⟨0, false, false, 0⟩
  let r := s.readyUp
  let localNext := if s.fr.rep.1 == g.frame then s.nextStart.getD 0 else if s.fr.rep.1 + 1 == g.frame then g.start else 0
  { txCount := g.count, txFrac := 0, masterPrio := g.masterPrio, masterId := g.masterId, epoch := g.epoch
    seq := if up then 0 else g.seq, hops := g.hops, echoRx := sget 0 g.echoAt p % 2 ^ 64, echoTurn := 0
    frame := if up then s.fr.rep.1 else d.frame
    flag := if up then s.fr.rep.2 else d.stretch
    switchGo := !up && s.fr.switch.any (·.1), switchAbort := !up && s.fr.switch.any (!·.1)
    hold := !up && d.hold
    start := if up then localNext else d.next
    switchFrame := if up then r.1 else (s.fr.switch.map (·.2.1)).getD 0
    readyCount := if up then r.2 else 0 }

/-! ## Phase and lock (R128, R130) -/

/-- A phase error e in 1/256 gt: PHASE_ERR, the lock counts, and a step of the count at initial lock or beyond 1 µs while
no image is active. Slewing moves only when a tick falls. -/
def State.phaseErr (s : State) (e : Int) : State :=
  let ps := e * 5000 / 256
  let s := s.modGn fun g => { g with phase := ps }
  let a := e.natAbs * 5000
  let good := if a ≤ 1500 * 256 then s.gn.goodRun + 1 else 0
  let bad := if a > 3000 * 256 then s.gn.badRun + 1 else 0
  let s := s.modGn fun g => { g with goodRun := good, badRun := bad, holdover := false }
  let s := if good ≥ 16 && !s.gn.locked then
      (s.modGn fun g => { g with locked := true, everLock := true }).raise gnPage 1
    else if bad ≥ 4 && s.gn.locked then (s.modGn fun g => { g with locked := false }).raise gnPage 0
    else s
  if !s.gn.running && (e.natAbs > 51200 || !s.gn.everLock && e != 0) then
    let s := if s.gn.locked then (s.modGn fun g => { g with locked := false }).raise gnPage 0 else s
    s.modGn fun g => { g with count := ((g.count : Int) - e / 256).toNat, goodRun := 0, badRun := 0 }
  else s

/-- PATH_GT (R134): the delays of the path's links and 16 gt a hop. What the further links add no word carries: a free value,
one for as long as the path is the same (assumption 44). -/
def State.pathGt (s : State) (d : Nat) : Nat × State :=
  let near := ceilDiv d 256 + 16 * s.gn.hops
  if s.gn.hops ≤ 1 then (near, s)
  else match s.gn.far with
    | some n => (near + n, s)
    | none =>
      let r := State.free s
      (near + r.1.toNat, r.2.modGn fun g => { g with far := some r.1.toNat })

/-- When this module sent the word that a peer's ECHO_RX is of: the latest that can have reached the peer by then (R130;
assumption 116). -/
def echoed (sent : List Nat) (w : GnomonWord) (arrival : Nat) : Option Nat :=
  if w.echoRx == 0 then none else sent.find? fun t => t + w.echoTurn ≤ arrival

/-- A word's measurements: delay, and from the upstream the phase error and PATH_GT. -/
def State.measureWord (s : State) (p : Nat) (w : GnomonWord) (arrival : Nat) : State :=
  let s := s.modGn fun g => { g with echoAt := sput g.echoAt p arrival }
  let sent := (sfind s.gn.lastTx p).getD []
  match echoed sent w arrival with
  | none => s
  | some t1 =>
    let t2 : Int := w.echoRx
    let d := (((t2 - t1) + ((arrival : Int) - (t2 + w.echoTurn))) / 2).toNat
    let s := s.modGn fun g => { g with delay := sput g.delay p d, lastTx := sput g.lastTx p (sent.filter (t1 ≤ ·)) }
    if s.gn.upstream != some p || w.seq == 0 then s
    else
      let s := s.phaseErr ((arrival : Int) - (w.txCount * 256 + w.txFrac + d))
      let was := s.gn.path
      let (n, s) := s.pathGt d
      let s := s.modGn fun g => { g with path := n }
      if n > 1600 && was ≤ 1600 then s.raise gnPage 6 else s

/-- A word that names a master (SEQ is not zero: downward content, R129): the entry of its link. -/
def State.hearMaster (s : State) (p : Nat) (w : GnomonWord) : State :=
  let old := sfind s.gn.heard p
  let at_ := match old with
    | some h => if h.seq == w.seq && h.id == w.masterId && h.epoch == w.epoch then h.at_ else s.gn.count
    | none => s.gn.count
  s.modGn fun g => { g with
    heard := sput g.heard p { prio := w.masterPrio, id := w.masterId, epoch := w.epoch, seq := w.seq, hops := w.hops, at_ := at_ }
    topEpoch := max g.topEpoch w.epoch
    subs := sdel g.subs p }

/-- A report from below: its LATE counts once, its readiness replaces the last. -/
def State.hearReport (s : State) (p : Nat) (w : GnomonWord) : State :=
  let old := sfind s.gn.subs p
  let new := w.flag && !(old.any fun o => o.late && o.frame == w.frame)
  let s := s.modGn fun g => { g with
    subs := sput g.subs p { late := w.flag, frame := w.frame, next := w.start, ready := w.switchFrame, readyN := w.readyCount }
    heard := sdel g.heard p }
  let s := s.modFr fun f => { f with localNext := max f.localNext w.start }
  if new then s.lateReport w.frame else s

/-- GNOMON_WORD (R129 to R137). -/
def execGnomonWord (p : Nat) (w : GnomonWord) (arrival : Nat) (replayed : Bool) (s : State) :
    Host.Outcome State Fault Refusal :=
  runPart (p < 16) s fun s =>
    if !s.portUp p then s
    else
      let s := s.ctrlIn p
      let s := if w.seq == 0 then s.hearReport p w else s.hearMaster p w
      let s := s.elect
      let s := if replayed then s else s.measureWord p w arrival
      if s.gn.upstream == some p && w.seq != 0 then
        let s := if w.start == 0 then s else s.takeDecision ⟨w.frame, w.flag, w.hold, w.start⟩
        s.switchSeen (if w.switchGo || w.switchAbort then some (w.switchGo, w.switchFrame) else none) w.start
      else s

/-- GNOMON_WORD_SEND (R129): a word goes into the port's queue; FRAME_TRANSMIT stamps it (R339). -/
def execGnomonWordSend (p : Nat) (s : State) : Host.Outcome State Fault Refusal :=
  runPart (p < 16) s fun s =>
    if !s.portUp p then s
    else
      let s := if s.gn.master then s.modGn fun g => { g with seq := if g.seq + 1 ≥ 2 ^ 32 then 1 else g.seq + 1 } else s
      s.sendCtrl p 1 (gnomonBytes (s.wordFor p))

/-- HOLDOVER (R130): no upstream word for 8 Gnomon frames; the module leaves LOCKED. -/
def execHoldover (s : State) : Host.Outcome State Fault Refusal :=
  runOn s fun s =>
    if s.gn.master || s.gn.upstream.isNone || s.gn.holdover then s
    else
      let was := s.gn.locked
      let s := s.modGn fun g => { g with holdover := true, locked := false, goodRun := 0 }
      if was then s.raise gnPage 0 else s

/-- MASTER_LOST (R132 item 4): the entry of the upstream is dropped, and another master is followed. -/
def execMasterLost (s : State) : Host.Outcome State Fault Refusal :=
  runOn s fun s =>
    match s.gn.upstream with
    | none => s
    | some _ =>
      let m := s.gn.masterId
      let s := s.modGn fun g => { g with heard := g.heard.filter fun e => e.2.id != m }
      (s.modGn fun g => { g with upstream := none }).elect

/-! ## PPS and setting the count (R133, R512) -/

/-- The count written to SET_LO and SET_HI. -/
def State.setValue (s : State) : Nat := s.rdN gnPage 0x148 + 2 ^ 32 * s.rdN gnPage 0x14C

/-- PPS_EDGE (R133, R512): a pending SET_HI is applied; the count is otherwise slewed toward a multiple of 200,000,000,
which moves only when a tick falls (R128). -/
def execPpsEdge (s : State) : Host.Outcome State Fault Refusal :=
  runOn s fun s =>
    if !s.gn.master then s
    else
      let s := s.modGn fun g => { g with ppsUsed := s.flag gnPage offControl 1 }
      if s.gn.setPend && !s.gn.running then
        s.modGn fun g => { g with count := s.setValue, setPend := false }
      else s

/-- PPS_MISSING (R512). -/
def execPpsMissing (s : State) : Host.Outcome State Fault Refusal :=
  runOn s fun s =>
    if s.flag gnPage offControl 1 then (s.modGn fun g => { g with ppsUsed := false }).raise gnPage 5 else s

/-- A write of SET_HI (R133): acts on the master while no image is active. -/
def State.setHi (s : State) (v : Word) : State :=
  if !s.gn.master || s.gn.running then s
  else
    let s := s.wr gnPage 0x14C v
    if s.gn.ppsUsed then s.modGn fun g => { g with setPend := true }
    else s.modGn fun g => { g with count := s.setValue, setPend := false }

end Sys2Proof.Machine
end

