-- ==== Sys2Proof/Machine/Journal.lean ====
section
/-!
DEFINITION. Roles and sources of orders (Table 14.7, R351, R456, R457), the journal (R361, R362), and the outcome of ring
commands.
-/
namespace Sys2Proof.Machine

/-! ## Roles -/

/-- The role that an order acts under; a host store acts with the role of a host ring (R351). -/
inductive Role where
  | host
  | operator
  | custodian
  | debug
  | boot
deriving DecidableEq, Repr

def roleOf : Origin → Role
  | .hart _ => .host
  | .ring _ => .host
  | .operator _ => .operator
  | .custodian _ => .custodian
  | .debug _ => .debug
  | .relayed r => if r == 0 then .host else if r == 1 then .operator else if r == 2 then .custodian else .debug
  | .boot => .boot

/-- Default sources (R489): host, operator, custodian. -/
def anyButDebug : Role → Bool
  | .debug => false
  | _ => true

/-- "Acts only from an operator session": also a custodian session (R456), and boot code. -/
def operatorOnly : Role → Bool
  | .operator => true
  | .custodian => true
  | .boot => true
  | _ => false

def custodianOnly : Role → Bool
  | .custodian => true
  | .boot => true
  | _ => false

def debugOnly : Role → Bool
  | .debug => true
  | _ => false

/-- Class of Table 14.7. -/
def classOfOrigin (o : Origin) : Nat := match roleOf o with
  | .host => 4
  | .debug => 5
  | _ => 3

/-- SOURCE of Table 14.7 and Table 11.6. -/
def sourceOf : Origin → Nat
  | .hart h => 1024 + h
  | .ring n => n
  | .operator k => k
  | .custodian k => k
  | .debug k => k
  | .relayed _ => 4095
  | .boot => 0

/-! ## The journal -/

/-- Status codes of Table 11.7. -/
def stOk : Nat := 0
def stPending : Nat := 1
def stSuperseded : Nat := 2
def stFormat : Nat := 3
def stAccess : Nat := 4
def stAddress : Nat := 5
def stAborted : Nat := 6
def stRefused : Nat := 7
def stPoison : Nat := 8
def stQpError : Nat := 9
def stPartial : Nat := 10

/-- Appends an entry (R361); answers its SEQ. -/
def State.append (s : State) (e : JEnt) : Nat × State :=
  let n := s.host.nextSeq
  let j := sput s.host.journal (n % 65536) { e with seq := n }
  (n, { s with host := { s.host with journal := j, nextSeq := n + 1 } })

/-- An entry at acceptance. -/
def State.entry (s : State) (cls src opcode status : Nat) (digestOf : List Byte) (arg cmdId : Nat) : JEnt :=
  { seq := 0, accept := s.gn.count, gtDone := if status == stPending then 0 else s.gn.count, cls := cls, source := src,
    opcode := opcode, status := status, cmdId := cmdId, digest := (sha256 digestOf).take 16, arg := arg % 2 ^ 32 }

/-- Journals an order that is accepted and complete at once. -/
def State.jOrder (s : State) (o : Origin) (opcode status : Nat) (digestOf : List Byte) (arg : Nat) : State :=
  (s.append (s.entry (classOfOrigin o) (sourceOf o) opcode status digestOf arg 0)).2

/-- Journals a decision of hardware safety or of the Gnomon master (Table 14.7). -/
def State.jDecision (s : State) (cls src opcode arg : Nat) : State :=
  (s.append (s.entry cls src opcode stOk (natLe 8 arg) arg 0)).2

/-- Device address [31:0] of a register: its offset within register space. -/
def regAddr (page off : Nat) : Nat := page * 4096 + off

/-- Writes the final fields of an entry, or a completion entry when its slot has been taken (R362). -/
def State.jFinish (s : State) (seq status result : Nat) (orig : JEnt) : State :=
  match sfind s.host.journal (seq % 65536) with
  | some e =>
    if e.seq == seq then
      let e := { e with status := status, gtDone := s.gn.count, result := result % 2 ^ 32 }
      { s with host := { s.host with journal := sput s.host.journal (seq % 65536) e } }
    else
      (s.append { orig with opcode := 0xFD, status := status, accept := s.gn.count, gtDone := s.gn.count,
                            result := result % 2 ^ 32, link := seq }).2
  | none => s

/-- Links two entries of a contradiction (R363). -/
def State.jLink (s : State) (a b : Nat) : State :=
  let put (s : State) (x y : Nat) : State := match sfind s.host.journal (x % 65536) with
    | some e => if e.seq == x then
        { s with host := { s.host with journal := sput s.host.journal (x % 65536) { e with link := y } } } else s
    | none => s
  put (put s a b) b a

/-! ## Ring commands -/

def State.cmd (s : State) (seq : Nat) : Option Cmd := s.host.cmds.find? (·.seq == seq)

def State.setCmd (s : State) (c : Cmd) : State :=
  { s with host := { s.host with cmds := s.host.cmds.map fun x => if x.seq == c.seq then c else x } }

/-- A command's effects are visible: its outcome waits for COMMAND_COMPLETE. -/
def State.cmdDone (s : State) (seq status result : Nat) : State :=
  match s.cmd seq with
  | some c => if c.done.isNone then s.setCmd { c with started := true, done := some (status, result) } else s
  | none => s

/-- HOST_DENIED (R351). -/
def State.denied (s : State) : State := s.raise hostPage 5

end Sys2Proof.Machine
end

