-- ==== Sys2Proof/Machine/ReadCache.lean ====
section
/-!
DEFINITION. The read cache (R57 to R60, R525), LDC, the directory's invalidations, and stamped prefetch checks (R296).
-/
namespace Sys2Proof.Machine

/-! ## Ways of a set (R525) -/

/-- The set of a line: its number modulo 16, which the manual does not state (assumption 98). -/
def rcSet (line : Nat) : Nat := line % 16

/-- Tree bit b_n. -/
def treeBit (b n : Nat) : Nat := bits b n n

def victim (b : Nat) : Nat :=
  let n := 2 * 1 + treeBit b 1
  let n := 2 * n + treeBit b n
  2 * n + treeBit b n - 8

/-- Points the tree away from the way just used. -/
def touch (b way : Nat) : Nat :=
  (forN 3 (b, way + 8) fun (b, n) _ => (setBits b (n / 2) (n / 2) (1 - n % 2), n / 2)).1

def Tile.rcTouch (x : Tile) (key : Nat) : Tile :=
  { x with rctree := sset 0 x.rctree (key / 8) (touch (sget 0 x.rctree (key / 8)) (key % 8)) }

/-- Key (set × 8 + way) of a valid line. -/
def Tile.rcKey (x : Tile) (line : Nat) : Option Nat := (x.rcache.find? (·.2.line == line)).map (·.1)

/-- Fills a line into its set. -/
def Tile.rcFill (x : Tile) (l : RcLine) : Tile :=
  let set := rcSet l.line
  let way := match (List.range 8).find? fun w => (sfind x.rcache (set * 8 + w)).isNone with
    | some w => w
    | none => victim (sget 0 x.rctree set)
  { x with rcache := sput x.rcache (set * 8 + way) l }.rcTouch (set * 8 + way)

/-- The whole read cache is invalidated (RC_FLUSH, R266). -/
def Tile.rcClear (x : Tile) : Tile := { x with rcache := [], rctree := [] }

/-! ## LDC -/

def ldcSize (w : BitVec 128) : Nat := 4 * 2 ^ fld w 29 27
def ldcCount (w : BitVec 128) : Nat := fld w 35 30 + 1
def ldcList (w : BitVec 128) : Nat := 64 * fld w 63 50
def ldcDst (w : BitVec 128) : Nat := 64 * fld w 49 36

/-- Addresses of the list, translated for the step. -/
def State.ldcAddrs (s : State) (t : Nat) (w : BitVec 128) : List Nat :=
  (List.range (ldcCount w)).map fun e => s.translate (s.tagOf t) ((s.tile t).num (ldcList w + 8 * e) 6)

/-- An element that LDC cannot read: reserved, in register space, or not aligned to its size. -/
def State.ldcBad (s : State) (a n : Nat) : Bool := a % n != 0 || s.reservedFor a

/-- An element that LDC reads past the read cache: in the slow tier, or in a window line that the image does not declare,
whose slice discards the access (R57, R235). -/
def State.ldcDirect (s : State) (a : Nat) : Bool := isSlow a || (isWindow a && !s.windowDeclared (a / 256))

/-- A cached line whose bytes in [o, o + n) have wrong parity is invalidated and counted; its next lookup misses (R60). -/
def State.ldcParity (s : State) (t a n : Nat) : State :=
  match (s.tile t).rcache.find? (·.2.line == a / 256) with
  | some (_, l) =>
    match l.bad.find? fun b => a % 256 ≤ b && b < a % 256 + n with
    | some b => ((s.modTile t (·.rcDrop (a / 256))).logErr t (a / 256 * 256 + b)).raise t 5
    | none => s
  | none => s

/-- Looks up one element of the list: its bytes, where it needs no fill (R60, R525). The pattern that stands for an address
this tile finds reserved carries no tag: no data was returned (assumption 99). -/
def State.ldcElem (s : State) (t n cls a : Nat) : Option (List PByte) × State :=
  if s.ldcBad a n then (some (List.replicate n ⟨0xFF, false⟩), s.addrFault (.tile t) a)
  else if s.ldcDirect a then
    let (d, _, s) := s.devRead a n cls (.tile t) false false
    (some d, s)
  else
    let s := s.ldcParity t a n
    match (s.tile t).rcache.find? (·.2.line == a / 256) with
    | some (k, l) => (some ((l.data.drop (a % 256)).take n), s.modTile t (·.rcTouch k))
    | none => (none, s)

/-- Asks for the line of an element that missed. -/
def State.ldcWant (s : State) (t cls a : Nat) : State :=
  s.modTile t fun x => { x with rcWant := if x.rcWant.any (·.1 == a / 256) then x.rcWant else x.rcWant ++ [(a / 256, cls)] }

/-- Looks up the elements that are left, in list order, up to one that misses. -/
def State.ldcGather (s : State) (t n cls : Nat) : List Nat → LdcRun → State
  | [], r => s.modTile t fun x => { x with ldc := some r }
  | a :: as, r =>
    match s.ldcElem t n cls a with
    | (some d, s) => s.ldcGather t n cls as { r with next := r.next + 1, got := r.got ++ [d] }
    | (none, s) => (s.ldcWant t cls a).modTile t fun x => { x with ldc := some r }

/-- The LDC of a word, begun or in progress. -/
def Tile.ldcRun (x : Tile) (w : BitVec 128) : LdcRun := match x.ldc with
  | some r => if r.word = w then r else { word := w }
  | none => { word := w }

/-- What the residency check finds of the elements of an SCLASS 3 LDC (R219). -/
def State.ldcRes (s : State) (t : Nat) (w : BitVec 128) : ResCheck :=
  if sclassOf w == 3 then
    (s.ldcAddrs t w).foldl (fun c a => if s.ldcBad a (ldcSize w) then c else c.or (s.resCheck a (ldcSize w))) .ok
  else .ok

/-- What the issue of an LDC depends on. -/
def State.ldcIssue (s : State) (t : Nat) (w : BitVec 128) : Issue :=
  let cnt := ldcCount w
  let x := s.tile t
  let rs := [(ldcList w, 8 * cnt)]
  { eng := engGlint
    form := commonOk { sclass := true } w && layoutOk w (maskOf [(63, 27)]) && fld w 29 27 < 5
    head := rs
    content := (List.range cnt).all fun e => x.num (ldcList w + 8 * e + 6) 2 == 0
    reads := rs
    writes := [(ldcDst w, ldcSize w * cnt)]
    also := if s.ldcRes t w != .ok then some (.wait stStack)
      else if (x.ldcRun w).next < cnt then some (.wait stShade) else none }

/-- The list of an LDC may be looked up: nothing holds the instruction but its own misses. -/
def State.ldcMay (s : State) (t : Nat) (w : BitVec 128) : Bool :=
  let q := s.ldcIssue t w
  (s.holds t w q.reads q.writes).isNone && q.form && q.content && ((s.tile t).parity q.head).isNone

/-- The lookups of one attempt, or the residency fault of an SCLASS 3 access. -/
def State.ldcTry (s : State) (t : Nat) (w : BitVec 128) : State :=
  if !s.ldcMay t w then s
  else match s.ldcRes t w with
    | .fault b k => s.resFault t 8 b k
    | .wait => s
    | .ok =>
      let r := (s.tile t).ldcRun w
      s.ldcGather t (ldcSize w) (sclassOf w) ((s.ldcAddrs t w).drop r.next) r

/-- LDC (R57, R60): gathers its elements in list order and writes them to scratch. -/
def execLdc (t : Nat) (w : BitVec 128) (s : State) : Host.Outcome State Fault Refusal :=
  instrRun (isOp w 0x40) t s fun s =>
    let s := s.ldcTry t w
    s.issue t w (s.ldcIssue t w) fun s =>
      let n := ldcSize w
      let tag := s.tagOf t
      let s := ((s.tile t).ldcRun w).got.foldl (fun (e, s) d => (e + 1, s.landScratch (.tile t) t tag (ldcDst w + n * e) d)) (0, s) |>.2
      s.modTile t fun x => { x with ldc := none }

/-- A missed line arrives from its home slice and fills a way; the directory lists the tile (R60, R246, R525). -/
def execReadCacheFill (t line : Nat) (s : State) : Host.Outcome State Fault Refusal :=
  runPart (t < 1152) s fun s =>
    match (s.tile t).rcWant.find? (·.1 == line) with
    | none => s
    | some (_, cls) =>
      if !s.rangeReady (line * 256) 256 then s.stall t engIssue stShade
      else
        let s := s.modTile t fun x => { x with rcWant := x.rcWant.filter (·.1 != line) }
        -- the line's home may have gone while it was asked for: its next lookup finds that
        if s.reservedFor (line * 256) || s.ldcDirect (line * 256) then s
        else
          let (d, _, s) := s.devRead (line * 256) 256 cls (.tile t) false false
          let (e, s) := s.dirEnsure line
          let b := s.bankOf line
          let s := s.setBank b ((s.bank b).put { e with sharers := e.sharers.add t })
          s.modTile t (·.rcFill { line := line, data := d })

/-- A directory invalidation removes a line from a tile's read cache and is acknowledged (R59, R246). -/
def execReadCacheInvalidate (t line : Nat) (s : State) : Host.Outcome State Fault Refusal :=
  runPart (t < 1152) s fun s =>
    let s := s.modTile t (·.rcDrop line)
    { s with held := s.held.map fun h => if h.line == line then { h with sites := h.sites.filter (· != t) } else h }

/-! ## Prefetch checks (R296) -/

/-- Fetches a chunk again and records its new stamp. -/
def State.refetch (s : State) (t slot k : Nat) (p : Prefetch) : Prefetch × State :=
  let a := p.chunks.getD k 0
  let (d, _, s) := s.devRead a 4096 p.cls (.tile t) false true
  let s := s.landScratch (.tile t) t s.steps.step (p.dst + 4096 * k) d
  let s := (s.raise t 16).bump t 0x2C8
  let p := { p with stamps := p.stamps.set k (s.chunkNow a), stale := p.stale.filter (· != k) }
  (p, s.modTile t fun x => { x with pf := sput x.pf slot p })

/-- The check of a prefetch entry: chunks whose sum differs, or that a control reset marked, are fetched again; the entry
then retires. -/
def execPrefetchCheck (t slot : Nat) (s : State) : Host.Outcome State Fault Refusal :=
  runPart (t < 1152 && slot < 16) s fun s => s.awake fun s =>
    match sfind (s.tile t).pf slot with
    | none => s
    | some p =>
      if !(p.chunks.all fun a => s.rangeReady a 4096) then s.stall t engIssue stShade
      else
        let (_, s) := (List.range p.chunks.length).foldl (fun (p, s) k =>
          if p.stale.contains k || s.chunkNow (p.chunks.getD k 0) != p.stamps.getD k 0 then s.refetch t slot k p else (p, s))
          (p, s)
        s.modTile t fun x => { x with pf := sdel x.pf slot }

/-- The merge of one flushed entry into the table at its home slice; it waits where the slice cannot take it (R117, R120,
R265). The counts that wait for the header go with it. -/
def execSpectrumFlush (t tensor : Nat) (s : State) : Host.Outcome State Fault Refusal :=
  tileRun t s fun s =>
    match takeFirst (fun d => d.2.tensor == tensor) (s.tile t).specDue with
    | none => s
    | some ((step, e), rest) =>
      match s.specFlush step e (.tile t) with
      | none => s.stall t engIssue stShade
      | some s => (s.modTile t fun x => { x with specDue := rest }).hdrFlush

end Sys2Proof.Machine
end

