-- ==== Sys2Proof/Machine/Slices.lean ====
section
/-!
DEFINITION. The commands of the Shade slices and dies: requests (Table 8.4), fills (R243), invalidations (R246), the merge
buffer (R259, R261), lanes (R229 to R233), resets and losses (R264 to R267).
-/
namespace Sys2Proof.Machine

/-! ## Requests -/

def SReq.isRead : SReq → Bool
  | .read _ => true
  | .readDead _ => true
  | _ => false

def SReq.answers : SReq → Bool
  | .write _ _ => false
  | _ => true

/-- The slice's part of a request whose directory actions are done: hit, join, fill, or wait (R237, R243, Table 8.4). -/
def State.takeRequest (s : State) (k : Nat) (q : SReq) : State :=
  let line := q.line
  let cls := s.classOf q.req.addr q.req.cls
  let hold := s.modSlice k fun x => { x with waiting := x.waiting ++ [q] }
  let join (y : Line) : Line := if y.line == line then { y with joined := y.joined ++ [q] } else y
  match (s.slice k).find line with
  | some l =>
    let s := s.countHit k cls true line
    if l.st == .fill then s.modSlice k fun x => { x with lines := x.lines.map join } else s.perform k q
  | none =>
    match q.around with
    | some (a, d) => ((s.countHit k cls false line).storeAround line a d q.req.agent).answer q {}
    | none =>
    if q.wholeLine then
      match s.allocate k line .dirty with
      | some s => (s.countHit k cls false line).perform k q
      | none => hold
    else if s.missFull k q then hold
    else match s.allocate k line .fill with
      | some s => (s.countHit k cls false line).modSlice k fun x => { x with lines := x.lines.map join }
      | none => hold

/-- A request that is discarded: an address fault, and the poison pattern to its sender (R21, R235). -/
def State.reject (s : State) (q : SReq) (slice : Option Nat) : State :=
  let a := q.req.addr
  let s := s.addrFault q.req.agent a
  let s := match slice with
    | some k => (s.logAddr (slicePage k) a).raise (slicePage k) 14
    | none => s
  s.answer q (if q.answers then { data := List.replicate q.req.len ⟨0xFF, true⟩ } else {})

/-- A request arrives for its home slice (R21, R235, R241, R242, R246, R261, R265). -/
def State.request (s : State) (q : SReq) : State :=
  let r := q.req
  let line := q.line
  if s.reservedFor r.addr || !(isStack r.addr || isWindow r.addr) then s.reject q none
  else match s.homeSlice line with
    | none => s.reject q none
    | some k =>
      if isWindowLine line && !s.windowDeclared line then s.reject q (some k)
      else
        let s := s.arrive k line
        if s.dieShut k || s.held.any (·.line == line) || s.mustQueue k q then s.defer k q
        else
          let sites := if q.isWrite then s.sharersBut line q.own else []
          if sites.isEmpty then s.takeRequest k q
          else
            let s := sites.foldl (fun s t => s.say (.invalidate t line)) s
            { s with held := s.held ++ [{ line := line, sites := sites, req := q }] }

/-- The bytes of a request lie in one line. -/
def oneLine (r : ShadeReq) (n : Nat) : Bool := n != 0 && r.addr % 256 + n ≤ 256

def execShadeRead (r : ShadeReq) (s : State) : Host.Outcome State Fault Refusal :=
  runOn s fun s => s.awake fun s => if oneLine r r.len then s.request (.read r) else s

def execShadeReadDead (r : ShadeReq) (s : State) : Host.Outcome State Fault Refusal :=
  runOn s fun s => s.awake fun s => if oneLine r r.len then s.request (.readDead r) else s

def execShadeWriteLine (r : ShadeReq) (data : List PByte) (s : State) : Host.Outcome State Fault Refusal :=
  runOn s fun s => s.awake fun s => if r.addr % 256 == 0 && data.length == 256 then s.request (.write r data) else s

def execShadeWritePart (r : ShadeReq) (data : List PByte) (s : State) : Host.Outcome State Fault Refusal :=
  runOn s fun s => s.awake fun s => if oneLine r data.length && data.length != 256 then s.request (.write r data) else s

def execShadeAdd (r : ShadeReq) (vals : List Word) (step : Nat) (s : State) : Host.Outcome State Fault Refusal :=
  runOn s fun s => s.awake fun s => if oneLine r (4 * vals.length) && r.addr % 4 == 0 then s.request (.add r vals step) else s

/-- Requests that a slice held are taken again, in order. -/
def State.release (s : State) (k : Nat) : State :=
  let l := (s.slice k).waiting
  l.foldl (fun s q => s.request q) (s.modSlice k fun x => { x with waiting := [] })

/-- A stack fill arrives: the line is CLEAN, and every joined request is answered in order of joining (R243). A fill of
Shade-U passes Shade-L, and waits while that die is in reset (R234, R266). -/
def execLineFill (line : Nat) (s : State) : Host.Outcome State Fault Refusal :=
  runOn s fun s =>
    match s.homeSlice line with
    | none => s
    | some k =>
      match (s.slice k).find line with
      | none => s
      | some l =>
        if l.st != .fill || !s.throughOpen k then s
        else
          (s.fillAnswer k line).release k

/-- Every invalidated site has acknowledged: the write is applied, VERSION rises, and requests behind it go on (R246). -/
def execInvalidationAck (line : Nat) (s : State) : Host.Outcome State Fault Refusal :=
  runOn s fun s =>
    let mine := s.held.filter (·.line == line)
    match mine with
    | [] => s
    | h :: rest =>
      if !h.sites.isEmpty then s
      else
        let s := { s with held := s.held.filter (·.line != line) }
        let s := match s.homeSlice line with
          | some k => if (s.slice k).recoding.isSome then s.defer k h.req else s.takeRequest k h.req
          | none => s.reject h.req none
        rest.foldl (fun s h => s.request h.req) s

/-! ## Merge buffer, recoding, rows -/

/-- Writes one merge buffer entry back (R259); one of wrong parity is reported instead (R261). -/
def execMergeWriteback (k seg : Nat) (s : State) : Host.Outcome State Fault Refusal :=
  runPart (k < 2304) s fun s =>
    s.awake fun s => match (s.slice k).merge.find? (·.seg == seg) with
    | none => s
    | some e =>
      if e.bad then s.mergeFault k
      else
        let put (x : Slice) : Slice :=
          { x with merge := x.merge.filter (·.seg != seg)
                   lines := x.lines.map fun y => if y.line == seg / 4 then writeEntry y e else y }
        (s.modSlice k put).release k

/-- Reads every word with stored errors under the mode in force and stores it with valid check bits. -/
def State.recodeLine (s : State) (k : Nat) (l : Line) : State :=
  let ws := l.chk.map (·.1)
  let (l, s) := ws.foldl (fun (l, s) w =>
    let (v, p, l, s) := s.checkWord k l w .module
    (if p then { l.setPoison w with chk := sdel l.chk w } else l.putWord w v, s)) (l, s)
  s.modSlice k fun x => { x with lines := x.lines.map fun y => if y.line == l.line then l else y }

/-- Every line is recoded: the mode changes and requests go on. -/
def execRecodeDone (k : Nat) (s : State) : Host.Outcome State Fault Refusal :=
  runPart (k < 2304) s fun s =>
    s.awake fun s => match (s.slice k).recoding with
    | none => s
    | some p =>
      let s := (s.slice k).lines.foldl (fun s l => s.recodeLine k l) s
      let s := s.modSlice k fun x => { x with parity := p, recoding := none, faulted := x.faulted && p }
      (s.raise (slicePage k) 11).release k

/-- A Shade row is copied to a spare row and switched (R434): no value changes. -/
def execShadeRowSpare (k row : Nat) (s : State) : Host.Outcome State Fault Refusal :=
  runPart (k < 2304) s fun s =>
    let x := s.slice k
    if !s.dusk && x.sparing.contains row && x.spared.length < 24 && s.fuseOk 1 then
      let y : Slice := { x with
        sparing := x.sparing.filter (· != row), spared := x.spared ++ [row], rowLog := x.rowLog.filter (·.row != row) }
      (s.agRecord 0x200B [2, slicePage k]).setSlice k y
    else s

/-! ## Coupler lanes (Table 8.1, R229 to R233) -/

/-- Lanes of a group: first and count. -/
def laneGroups : List (Nat × Nat) := [(0, 2), (2, 136), (138, 14), (152, 136), (288, 14)]

def Slice.failedIn (x : Slice) (g : Nat × Nat) : Nat := x.lanesBad.countP fun l => g.1 ≤ l && l < g.1 + g.2

def Slice.half (x : Slice) (g : Nat × Nat) : Bool := (9 ≤ x.failedIn g || x.halfFor.contains g.1) && x.failedIn g ≤ 72

/-- The face is out of service (R229). -/
def Slice.lanesDown (x : Slice) : Bool :=
  x.failedIn (0, 2) ≥ 2 || x.failedIn (138, 14) ≥ 3 || x.failedIn (288, 14) ≥ 3 ||
    x.failedIn (2, 136) > 72 || x.failedIn (152, 136) > 72

/-- Logical lanes of a group: 1 clock, 128 data or 64 at half width, 12 control (Table 8.1, R229). -/
def Slice.width (x : Slice) (g : Nat × Nat) : Nat := if g.2 == 2 then 1 else if g.2 == 14 then 12 else if x.half g then 64 else 128

/-- The physical lanes, within their group, of a group's logical lanes: the lowest-numbered that are not recorded as failed,
ascending (R229, Example 8.1). -/
def Slice.laneMap (x : Slice) (g : Nat × Nat) : List Nat :=
  ((List.range g.2).filter fun l => !x.lanesBad.contains (g.1 + l)).take (x.width g)

/-- One bit into a CRC-16 with the generator x^16 + x^12 + x^5 + 1 (R232). -/
def crc16Bit (c : Nat) (b : Bool) : Nat :=
  let d := c * 2 % 65536
  if (c ≥ 32768) != b then d ^^^ 0x1021 else d

/-- A direction's group of 4 tc as its receiver takes it: per logical lane the four bits seen, bit i at tc i. Physical lane n
of the direction is lane n of its data group, or 136 + n of its control group. -/
def Slice.groupBits (x : Slice) (up : Bool) (lanes : List Nat) : List Nat × List Nat :=
  let b := if up then 152 else 2
  ((x.laneMap (b, 136)).map fun l => lanes.getD l 0, (x.laneMap (b + 136, 14)).map fun l => lanes.getD (136 + l) 0)

/-- The check of a group (R232): the CRC over its data lanes and its 8 header lanes, tc by tc, against the four check lanes,
taken in the same order (assumption 93). -/
def Slice.groupOk (x : Slice) (up : Bool) (lanes : List Nat) : Bool :=
  let (d, c) := x.groupBits up lanes
  let at_ (l : List Nat) : List Bool := (List.range 4).foldl (fun acc i => acc ++ l.map fun v => bit v i) []
  let crc := (at_ (d ++ c.take 8)).foldl crc16Bit 0xFFFF
  crc == (at_ (c.drop 8)).foldl (fun v b => 2 * v + b2n b) 0

/-- A group of a direction arrives with the given bits. One whose check fails is discarded with those after it and sent again
until it is sound: each group is acted on exactly once, and only the count of replays is left of it (R232; assumption 93). -/
def execLaneCrc (k : Nat) (g : LaneGroup) (s : State) : Host.Outcome State Fault Refusal :=
  runPart (k < 2304) s fun s =>
    if (s.slice k).groupOk g.up g.lanes then s else (s.raise (slicePage k) 6).bump (slicePage k) 0x124

/-- A lane is recorded as failed and swapped out (R229): in service with LANE_SWAP (R233), at a tuning without (R230). -/
def State.laneFail (s : State) (k lane : Nat) (swap : Bool := true) : State :=
  let x := s.slice k
  if x.lanesBad.contains lane then s
  else
    let y := { x with lanesBad := insNat lane x.lanesBad }
    let g := ((laneGroups.filter fun g => g.1 ≤ lane).getLast?).getD (0, 2)
    -- with no soft fuse allowed, the group is handled as though its spares were exhausted (R449)
    let y : Slice := if s.fuseOk 2 then y
      else if g.2 == 136 then { y with halfFor := insNat g.1 y.halfFor }
      else { y with faceDown := true }
    let y : Slice := { y with faceDown := y.lanesDown || y.faceDown }
    let s := (s.agRecord 0x200B [3, slicePage k]).holdRequest 5
    let s := s.setSlice k y
    let page := slicePage k
    if y.faceDown && !x.faceDown then (s.raise page 9).failSite (k % 1152)
    else if (y.half (2, 136) && !x.half (2, 136)) || (y.half (152, 136) && !x.half (152, 136)) then s.raise page 8
    else if swap then s.raise page 7 else s

/-- An open region narrower than 40 % of the 2.4 GHz period, in codes of 2 ps (R230). -/
def narrowLane (codes : Nat) : Bool := 24 * codes < 2000

/-- Tunes every lane (R230). The command tells the sweeps that it knows: a narrow open region fails its lane, another sets
the code at its centre. Every other lane is open, and its code is what the hardware found. -/
def State.tuneLanes (s : State) (swept : List (Nat × Nat × Nat × Nat)) : State :=
  let s := { s with spare := { s.spare with tuned := s.freeCount, tunedAt := s.now } }
  let s := s.free.2
  let s := { s with slices := s.slices.map fun (e : Nat × Slice) => (e.1, { e.2 with codes := [] }) }
  let s := swept.foldl (fun s (k, lane, lo, n) =>
    if k ≥ 2304 || lane ≥ 302 then s
    else if narrowLane n then s.laneFail k lane false
    else s.modSlice k fun x => { x with codes := sput x.codes lane ((lo + n / 2) % 256, s.now) }) s
  s.slices.foldl (fun s (e : Nat × Slice) =>
    if e.2.lanesBad.isEmpty then s else s.agRecord 0x1002 [slicePage e.1, (s.slice e.1).lanesBad.length]) s

/-- The delay code of a lane (R231): what was set or last seen, moved since then by at most one step per 64 tc of the
site's clock while tracking is on. -/
def State.delayCode (s : State) (k lane : Nat) : Nat × State :=
  let (c, at_) := (sfind (s.slice k).codes lane).getD ((Config.laneDelay s.spare.tuned k lane).toNat, s.spare.tunedAt)
  if !s.flag (slicePage k) offControl 2 then (c, s)
  else
    let steps := (s.now - at_) * s.rdN (k % 1152) 0x110 / 12800
    let (r, s) := s.free
    let c := min 255 (c - steps + r.toNat % (min (c + steps) 255 - (c - steps) + 1))
    (c, s.modSlice k fun x => { x with codes := sput x.codes lane (c, s.now) })

def execLaneSwap (k lane : Nat) (s : State) : Host.Outcome State Fault Refusal :=
  runPart (k < 2304 && lane < 302) s (·.laneFail k lane)

/-! ## Control resets and array losses -/

/-- A slice's request made no progress for 65,536 tc (R264). -/
def execProgressTimeout (k : Nat) (s : State) : Host.Outcome State Fault Refusal :=
  runPart (k < 2304) s (·.dieReset (k / 1152))

/-- Marks every chunk of every valid prefetch entry (R266 step 3). -/
def State.markStale (s : State) : State :=
  let all (p : Prefetch) : Prefetch := { p with stale := List.range p.stamps.length }
  -- a stamp taken by a transfer that has not landed mismatches as well
  let each (e : Nat × Prefetch) : Nat × Prefetch := (e.1, all e.2)
  let s := { s with xfers := s.xfers.map fun (x : Xfer) => { x with pf := x.pf.map each } }
  (s.tiles.map (·.1)).foldl (fun s t => s.modTile t fun (x : Tile) => { x with pf := x.pf.map each }) s

/-- Clears every tile read cache (R266 step 4, RC_FLUSH). -/
def State.clearCaches (s : State) : State := (s.tiles.map (·.1)).foldl (fun s t => s.modTile t (·.rcClear)) s

/-- Steps 3 to 6 of R266: directories cleared, RESET_EPOCH up, stamps and read caches invalid, the die resumes. -/
def execDieResetDone (die : Nat) (s : State) : Host.Outcome State Fault Refusal :=
  runPart (die < 2) s fun s =>
    let d := s.die die
    if !d.resetting || s.dusk then s
    else
      let s := { s with dirs := s.dirs.filter fun e => e.1 / 32 != die }
      let s := s.setDie die { d with resetting := false, epoch := (d.epoch + 1) % 65536 }
      let s := s.setDie die { s.die die with netBad := false }
      let s := (s.markStale.clearCaches.raise (slicePage (die * 1152)) 16).setPg (34 + 2 * die) true
      -- stack traffic of Shade-U that waited for Shade-L goes on (R234)
      if die == 0 then (s.liveSlices 1).foldl State.release s else s

/-- A request answered RETRY is sent again (R265). -/
def execRetryResend (id : Nat) (s : State) : Host.Outcome State Fault Refusal :=
  runOn s fun s =>
    match s.retries.find? (·.1 == id) with
    | none => s
    | some (_, q) => { s with retries := s.retries.filter (·.1 != id) }.request q

/-- A die's array is lost (R267): its reads answer RETRY until the fill, and the step cannot commit. -/
def State.loseArray (s : State) (die : Nat) : State :=
  let s := s.setDie die { s.die die with lost := true }
  let s := s.retryOpen die
  let s := (s.liveSlices die).foldl (fun s k => s.modSlice k fun x => { x with lines := [], merge := [] }) s
  let s := (s.raise (slicePage (die * 1152)) 17).cause s.steps.step cNoMajority
  -- a module that is undoing puts the cause on its DRAINED
  { s with steps := { s.steps with failed := s.steps.failed || s.steps.phase == .undoing } }

def execArrayLost (die : Nat) (s : State) : Host.Outcome State Fault Refusal :=
  runPart (die < 2) s (·.loseArray die)

/-- The fill of a lost die completes: every line is INVALID with valid check bits, as at power-on. -/
def execArrayFillDone (die : Nat) (s : State) : Host.Outcome State Fault Refusal :=
  runPart (die < 2) s fun s =>
    if !(s.die die).lost then s
    else (s.setDie die { s.die die with lost := false }).setPg (33 + 2 * die) true

end Sys2Proof.Machine
end

