-- ==== Sys2Proof/Machine/Memory.lean ====
section
/-!
DEFINITION. The commands of the stack controllers, the PCIe/CXL ports with the slow tier, and residency moves (chapter 9).
-/
namespace Sys2Proof.Machine

/-! ## Stack controllers -/

/-- Every Shade and read-cache copy of a line goes before a host write at the stack completes (R248). -/
def State.hostWriteBack (s : State) (line : Nat) (a : Agent) : State :=
  if isHost a && s.inHostRegion (line * 256) then (s.invalidateAt line (s.sharersBut line none)).dropLine line else s

/-- A request that reaches a stack controller (R271, R276, R278): held while its bank is in repair. -/
def State.stackReq (s : State) (addr : Nat) (data : Option (List PByte)) (a : Agent) : State :=
  if !isStack addr then
    let s := s.addrFault a addr
    match data with
    | none => s.say (.reply { agent := a, addr := addr, data := List.replicate 64 ⟨0xFF, true⟩ })
    | some _ => s
  else
    let g := addr / 64
    let x := granPlace g
    let st := s.stack x.stack
    if st.pendRow.any fun r => bankOfRow r == bankOfRow (rowId x) then
      s.setStack x.stack { st with waiting := st.waiting ++ [(addr, data, a)] }
    else match data with
      | none =>
        let (d, s) := s.readGranule g a
        s.say (.reply { agent := a, addr := 64 * g, data := d })
      | some d => (s.hostWriteBack (addr / 256) a).writeGranule g (addr % 64) d a

def execStackRead (addr : Nat) (a : Agent) (s : State) : Host.Outcome State Fault Refusal :=
  runOn s (·.awake (·.stackReq addr none a))

def execStackWrite (addr : Nat) (data : List PByte) (a : Agent) (s : State) : Host.Outcome State Fault Refusal :=
  runOn s fun s => s.awake fun s => if addr % 64 == 0 && data.length == 64 then s.stackReq addr (some data) a else s

def execStackPartialWrite (addr : Nat) (data : List PByte) (a : Agent) (s : State) : Host.Outcome State Fault Refusal :=
  runOn s fun s => s.awake fun s =>
    if !data.isEmpty && data.length < 64 && addr % 64 + data.length ≤ 64 then s.stackReq addr (some data) a else s

/-- A row replacement completes (R278), and the requests to its bank go on. -/
def execRowSpared (stack : Nat) (s : State) : Host.Outcome State Fault Refusal :=
  runPart (stack < 8) s fun s => s.awake fun s =>
    match (s.stack stack).pendRow with
    | none => s
    | some row =>
      let before := (s.stack stack).repaired.length
      let s := s.replaceRow stack row
      let st := s.stack stack
      let s := if before < st.repaired.length then s.agRecord 0x200B [4, stackPage stack] else s
      st.waiting.foldl (fun s (a, d, ag) => s.stackReq a d ag) (s.setStack stack { st with waiting := [] })

/-- The patrol scrubber takes its next granule (R277) while SCRUB_EN is set and CHECKER is not (R481). -/
def execPatrolScrub (stack : Nat) (s : State) : Host.Outcome State Fault Refusal :=
  runPart (stack < 8) s fun s => if s.flag (stackPage stack) offControl 0 && !s.chkOn (stackPage stack) && !s.dusk then s.scrubOne stack else s

/-! ## PCIe/CXL ports (R279 to R283, R366) -/

/-- A link stays untrained (R279). -/
def State.untrained (s : State) (p : Nat) : State :=
  (s.setField (pciePage p) offStatus 4 0 0).raise (pciePage p) 0

def execLinkTrained (p : Nat) (i : LinkTraining) (s : State) : Host.Outcome State Fault Refusal :=
  runPart (p < 2) s fun s =>
    let page := pciePage p
    let mode := s.field page 0x140 1 0
    let cxlRate := i.rate == 6 || i.rate == 5
    let cxl := mode != 2 && i.cxl && cxlRate
    if !s.flag page offControl 0 then s
    else if (mode == 1 && !cxl) || (mode != 2 && i.cxl && !cxlRate) then s.untrained p
    else
      let st := 1 + (if cxl then 2 + 16 else 0) + (if i.x8 then 4 else 0) + (if i.rate == 5 then 8 else 0)
      let s := s.setField page offStatus 4 0 st
      let s := s.wrN page 0x144 (i.rate % 16 + (if i.x8 then 8 else 16) * 16 + i.buses % 256 * 2 ^ 16)
      let s := if cxl then
          let s := s.wrN page 0x100 (min (i.capacity / 2 ^ 28) 16384)
          let s := s.wrN page 0x104 (i.latNs % 65536)
          let s := s.wrN page 0x110 i.devId
          s.wr64 page 0x114 i.serial
        else s
      s.raise page 1

/-- Some block's state lies in the window of a port. -/
def State.blocksIn (s : State) (p : Nat) : Bool := match s.adm.active with
  | none => false
  | some i => (List.range (s.blockCount i)).any fun n =>
      (s.resEnt n).tier == 2 && (s.slowHome i n).any fun r => slowPort r.1 == p

/-- The link of a port goes away (R283): outstanding reads return tagged, outstanding writes complete as discarded. -/
def State.linkLost (s : State) (p : Nat) : State :=
  let page := pciePage p
  let had := s.flag page offStatus 4
  let lost := had && s.blocksIn p
  let s := s.setField page offStatus 4 0 0
  if !had then s
  else
    let s := (s.wrN page 0x100 0).raise page 2
    let mine := s.slow.filter (·.port == p)
    let s := { s with slow := s.slow.filter (·.port != p) }
    let s := mine.foldl (fun s q => q.xfers.foldl (fun s (x, r) => match q.data with
      | none => s.rowArrives x r (List.replicate q.len ⟨0xFF, true⟩)
      | some _ => s.rowWritten x r) s) s
    if lost then s.cause s.steps.step cNoMajority else s

def execExpanderLost (p : Nat) (s : State) : Host.Outcome State Fault Refusal := runPart (p < 2) s (·.linkLost p)

/-- No request to a granule of this one was issued before it (R281). -/
def State.slowFirst (s : State) (q : SlowReq) : Bool :=
  !s.slow.any fun y => y.id < q.id && y.addr / 64 ≤ (q.addr + q.len - 1) / 64 && q.addr / 64 ≤ (y.addr + y.len - 1) / 64

/-- An expander's data returns (R281, R282). -/
def execSlowTierRead (id : Nat) (poisoned : Bool) (s : State) : Host.Outcome State Fault Refusal :=
  runOn s fun s =>
    match s.slow.find? fun q => q.id == id && q.data.isNone && s.slowFirst q with
    | none => s
    | some q =>
      let s := { s with slow := s.slow.filter (·.id != id) }
      let page := pciePage q.port
      let (d, s) := s.slowRead q.addr q.len
      let sound := d.all fun b => !b.poison
      let (d, s) := if poisoned && sound then
          (List.replicate q.len (⟨0xFF, true⟩ : PByte), (s.raise page 3).bump page 0x10C) else (d, s)
      q.xfers.foldl (fun s (x, r) => s.rowArrives x r d) s

/-- An expander's completion of a write returns. -/
def execSlowTierWrite (id : Nat) (s : State) : Host.Outcome State Fault Refusal :=
  runOn s fun s =>
    match s.slow.find? fun q => q.id == id && q.data.isSome && s.slowFirst q with
    | none => s
    | some q =>
      let s := { s with slow := s.slow.filter (·.id != id) }
      let s := s.slowWrite q.addr (q.data.getD [])
      q.xfers.foldl (fun s (x, r) => s.rowWritten x r) s

/-- The expander's event records, read over CXL.io (R282). -/
def execDevEvent (p correctable : Nat) (s : State) : Host.Outcome State Fault Refusal :=
  runPart (p < 2) s fun s =>
    if s.flag (pciePage p) offStatus 4 then ((s.raise (pciePage p) 4).bump (pciePage p) 0x108 correctable).penCount 1 correctable else s

/-! ## Residency moves -/

/-- A block's move that is in progress ends (R288), and the ring command that asked for it has its outcome. -/
def State.finishMove (s : State) (block : Nat) : State :=
  match s.moves.find? fun m => m.block == block && m.running with
  | none => s
  | some m =>
    let s := s.endMove block
    match m.seq with
    | some q => s.cmdDone q stOk 0
    | none => s

/-- Every move asked for ends, in order: before an image gives way to another (R290). -/
def State.settleMoves (s : State) : State :=
  forN s.moves.length s fun s _ => match s.moves.find? (·.running) with
    | some m => s.finishMove m.block
    | none => s

/-- A block's move ends (R288); a ring command that asked for it has its outcome. -/
def execMoveDone (block : Nat) (s : State) : Host.Outcome State Fault Refusal :=
  runOn s fun s => s.awake fun s =>
    match s.moves.find? fun m => m.block == block && m.running with
    | none => s
    | some _ => if s.moveReady block then s.finishMove block else s

end Sys2Proof.Machine
end

