-- ==== Sys2Proof/Machine/Rings.lean ====
section
/-!
DEFINITION. Command rings and the commands that need no register page (R356 to R360, R526, R527), attachment and the
watchdog (R364).
-/
namespace Sys2Proof.Machine

/-! ## Host memory as the module's own agents reach it -/

def State.modHost (s : State) (f : HostSt → HostSt) : State := { s with host := f s.host }

/-- Reads the host region or device memory on the module's own behalf: class 5, or 4 in the host region (R248, R250). -/
def State.modRead (s : State) (a n : Nat) : List PByte × State :=
  let (d, _, s) := s.devRead a n 5 .module false false
  (d, s)

def State.modWrite (s : State) (a : Nat) (d : List PByte) : State := s.devWrite a d 5 .module

/-- A range lies in the host region. -/
def State.inHost (s : State) (a n : Nat) : Bool := s.hostBase ≤ a && a + n ≤ 0x10000000000

/-- A range lies in device memory. -/
def State.inDevMem (s : State) (a n : Nat) : Bool := a + n ≤ s.hostBase

/-- A range lies in stack memory: device memory or the host region. -/
def inStacks (a n : Nat) : Bool := a + n ≤ 0x10000000000

/-! ## Rings -/

def State.ring (s : State) (n : Nat) : Option Ring := sfind s.host.rings n
def State.setRing (s : State) (n : Nat) (r : Ring) : State := s.modHost fun h => { h with rings := sput h.rings n r }

def State.cmdsOf (s : State) (n : Nat) : List Cmd := s.host.cmds.filter (·.ring == n)

def State.rcbTable (s : State) : Nat := s.field hostPage 0x100 31 16 * 65536 + s.field hostPage 0x104 15 0 * 2 ^ 32

/-- Checks and reads an RCB (R526); none leaves the ring disabled. -/
def State.parseRcb (s : State) (bs : List Byte) : Option Rcb :=
  let a := fieldAt bs 0 8
  let b := fieldAt bs 8 8
  let r : Rcb := { sqBase := bits a 47 0, logSq := bits a 52 48, cqBase := bits b 47 0, logCq := bits b 52 48,
                   msiAddr := fieldAt bs 0x10 8, msiData := fieldAt bs 0x18 4 }
  let zero := bits a 63 53 == 0 && bits b 63 53 == 0 && (bs.drop 0x1C).all (· == 0)
  let logs := 4 ≤ r.logSq && r.logSq ≤ 16 && 4 ≤ r.logCq && r.logCq ≤ 16 && r.logSq ≤ r.logCq
  let place := r.sqBase % 4096 == 0 && r.cqBase % 4096 == 0 && s.inHost r.sqBase (256 * 2 ^ r.logSq) &&
    s.inHost r.cqBase (32 * 2 ^ r.logCq)
  if zero && logs && place then some r else none

/-- Enables a ring (R356, R526, R527). -/
def State.ringEnable (s : State) (n : Nat) : State :=
  match s.ring n with
  | some r =>
    if r.stopping then s.setRing n { r with again := true }
    else s
  | none =>
    if !s.hostAttached then s
    else
      let a := s.rcbTable + 64 * n
      if !s.inHost a 64 then s.raise hostPage 3
      else
        let (d, s) := s.modRead a 64
        match s.parseRcb (d.map (·.val)) with
        | some rcb => s.setRing n { rcb := rcb }
        | none => s.raise hostPage 3

/-- A stopped ring with no started command left is disabled; an enable that waited takes place. -/
def State.ringSettle (s : State) (n : Nat) : State :=
  match s.ring n with
  | some r =>
    if r.stopping && (s.cmdsOf n).isEmpty then
      let s := s.modHost fun h => { h with rings := sdel h.rings n }
      if r.again then s.ringEnable n else s
    else s
  | none => s

/-- The entry that a late completion of a command repeats (R362). -/
def State.cmdEntry (s : State) (c : Cmd) : JEnt :=
  s.entry 4 c.ring (fieldAt c.bytes 0 1) stPending c.bytes (fieldAt c.bytes 8 4) (fieldAt c.bytes 4 4)

/-- Disables a ring (R527): unstarted commands complete as ABORTED, started ones in silence. -/
def State.ringDisable (s : State) (n : Nat) : State :=
  match s.ring n with
  | none => s
  | some r =>
    let mine := s.cmdsOf n
    let s := (mine.filter fun c => !c.started).foldl (fun s c => s.jFinish c.seq stAborted 0 (s.cmdEntry c)) s
    let s := s.modHost fun h => { h with
      cmds := (h.cmds.filter fun c => c.ring != n || (c.started && !c.noted)).map fun c =>
        if c.ring == n then { c with silent := true } else c }
    (s.setRing n { r with enabled := false, stopping := true, again := false }).ringSettle n

/-- RING_CTL (R527). -/
def State.ringCtl (s : State) (v : Word) : State :=
  let n := bits v.toNat 9 0
  if bit v.toNat 17 then s.ringDisable n else if bit v.toNat 16 then s.ringEnable n else s

/-! ## Completion -/

/-- Posts the completion entry and the interrupt of a command whose outcome is journalled (R359); it stays while its CQ
slot is not free. -/
def State.post (s : State) (c : Cmd) (st result : Nat) : State :=
  let drop (s : State) : State := (s.modHost fun h => { h with cmds := h.cmds.filter (·.seq != c.seq) }).ringSettle c.ring
  match s.ring c.ring with
  | none => drop s
  | some r =>
    let noCq := bit (fieldAt c.bytes 0 4) 10
    if c.silent then drop s
    else if noCq then drop s
    else
      let size := 2 ^ r.rcb.logCq
      -- counts modulo 2^17 tell a full queue of 65,536 entries from an empty one
      if (r.cq + 2 ^ 17 - r.head) % 2 ^ 17 ≥ size then s.raise hostPage 7
      else
        let phase := 1 - r.cq / size % 2
        let e := natLe 4 (fieldAt c.bytes 4 4) ++ natLe 4 (st + c.idx * 2 ^ 16) ++ natLe 8 c.seq ++ natLe 8 result ++
          natLe 8 (phase + c.ring * 2 ^ 16)
        let s := s.modWrite (r.rcb.cqBase + 32 * (r.cq % size)) (sound e)
        let s := s.setRing c.ring { r with cq := (r.cq + 1) % 2 ^ 17 }
        let s := if bit (fieldAt c.bytes 0 4) 9 then s.say (.msi r.rcb.msiAddr r.rcb.msiData) else s
        drop s

/-- A command's outcome is journalled and posted (R360). -/
def State.complete (s : State) (seq : Nat) : State :=
  match s.cmd seq with
  | none => s
  | some c =>
    match c.done with
    | none => s
    | some (st, result) =>
      let s := if c.noted then s else (s.jFinish seq st result (s.cmdEntry c)).setCmd { c with noted := true }
      s.post { c with noted := true } st result

/-- COMMAND_COMPLETE; in Dusk, with the stacks in self-refresh, no completion entry is written (Table 12.2). -/
def execCommandComplete (seq : Nat) (s : State) : Host.Outcome State Fault Refusal := runOn s (·.awake (·.complete seq))

/-- RING_DB (R357, R359): the SQ tail or the CQ head; held entries of the ring are posted as slots come free. -/
def State.ringDb (s : State) (v : Word) : State :=
  let n := bits v.toNat 9 0
  let i := bits v.toNat 31 16
  match s.ring n with
  | none => s
  | some r =>
    if r.stopping then s
    else if bit v.toNat 10 then
      let s := s.setRing n { r with head := (r.head + (i + 65536 - r.head % 65536) % 65536) % 2 ^ 17 }
      ((s.cmdsOf n).filter (·.noted)).foldl (fun s c => s.complete c.seq) s
    else s.setRing n { r with tail := i }

/-! ## Fetching -/

def Cmd.arg (c : Cmd) (k : Nat) : Nat := fieldAt c.bytes (8 + 8 * k) 8
def Cmd.len (c : Cmd) : Nat := fieldAt c.bytes 2 1
def Cmd.opcode (c : Cmd) : Nat := fieldAt c.bytes 0 1
def Cmd.payload (c : Cmd) : List Byte := (c.bytes.drop 0x40).take c.len
def Cmd.fence (c : Cmd) : Bool := bit (fieldAt c.bytes 0 4) 8

/-- Largest value of each argument of an opcode, and whether its alignment and length hold (Table 11.5, R358). -/
def cmdForm (c : Cmd) : Bool :=
  let top (a b d : Nat) : Bool := c.arg 0 < a && c.arg 1 < b && c.arg 2 < d
  match c.opcode with
  | 0x00 => top 1 1 1
  | 0x01 => top (2 ^ 32) (2 ^ 32) 1 && bits (c.arg 0) 31 30 == 0
  | 0x02 => top (2 ^ 32) 1 1 && bits (c.arg 0) 31 30 == 0
  | 0x03 => top (2 ^ 48) 1 1 && 1 ≤ c.len
  | 0x04 => top (2 ^ 48) (2 ^ 48) (2 ^ 32 + 1) && 1 ≤ c.arg 2
  | 0x05 => top (2 ^ 48) (2 ^ 64) 1 && c.arg 0 % 256 == 0 && c.arg 1 % 256 == 0
  | 0x06 => top 1 1 1
  | 0x08 => top (2 ^ 20) 1 1
  | 0x09 => top (2 ^ 64) 65537 (2 ^ 48) && 1 ≤ c.arg 1 && c.arg 2 % 64 == 0
  | 0x10 => top 2048 1 1
  | 0x11 => top (2 ^ 19) 1 1 && bits (c.arg 0) 15 11 == 0
  | 0x12 => top 2048 1 1
  | 0x13 => top (2 ^ 48) (2 ^ 64) (2 ^ 14)
  | 0x14 => top 1 1 4096
  | 0x15 => top (2 ^ 17) (2 ^ 48) (2 ^ 32) && bits (c.arg 0) 15 11 == 0
  | 0x18 => top (2 ^ 48) 1 1
  | 0x19 => top 1 1 1
  | 0x1A => top 1 1 1
  | _ => false

/-- A command's header and arguments hold no reserved value (R358). -/
def cmdOk (c : Cmd) : Bool :=
  bits (fieldAt c.bytes 0 4) 15 11 == 0 && bits (fieldAt c.bytes 0 4) 31 24 == 0 && c.len ≤ 192 &&
    ((c.bytes.drop 0x20).take 0x20).all (· == 0) && cmdForm c

/-- The ring served next: enabled, with an entry below its tail and fewer than 8 commands open (R357). -/
def State.nextRing (s : State) : Option Nat :=
  if s.host.cmds.length ≥ 1024 then none
  else
    let ok := (s.host.rings.filter fun e =>
      e.2.enabled && !e.2.stopping && e.2.fetch != e.2.tail && (s.cmdsOf e.1).length < 8).map (·.1)
    match ok.find? (s.host.lastRing < ·) with
    | some n => some n
    | none => ok.head?

/-- COMMAND_FETCH (R357, R358, R361): the command is read with snooping and journalled; a malformed one completes with
FORMAT. -/
def execCommandFetch (s : State) : Host.Outcome State Fault Refusal :=
  runOn s fun s => s.awake fun s =>
    match s.nextRing with
    | none => s
    | some n =>
      match s.ring n with
      | none => s
      | some r =>
        let a := r.rcb.sqBase + 256 * (r.fetch % 2 ^ r.rcb.logSq)
        let (d, s) := s.modRead a 256
        let c : Cmd := { seq := s.host.nextSeq, ring := n, idx := r.fetch, bytes := d.map (·.val) }
        let (seq, s) := s.append (s.cmdEntry c)
        let c := { c with seq := seq }
        let s := s.setRing n { r with fetch := (r.fetch + 1) % 65536 }
        let s := s.modHost fun h => { h with cmds := h.cmds ++ [c], lastRing := n }
        if cmdOk c then s else (s.raise hostPage 3).cmdDone seq stFormat 0

/-! ## Starting -/

/-- A command may start: ring order, FENCE, FENCE_ALL (R360). An earlier command has completed once its outcome is
journalled, also where its completion entry is held back. -/
def State.mayStart (s : State) (c : Cmd) : Bool :=
  let before := s.host.cmds.filter (·.seq < c.seq)
  let mine := before.filter (·.ring == c.ring)
  mine.all (·.started) && (!c.fence || mine.all (·.noted)) && (c.opcode != 6 || before.all (·.noted))

/-- Starts a fetched command of an opcode and performs its effect. -/
def State.runCmd (s : State) (seq op : Nat) (f : Cmd → State → State) : State :=
  match s.cmd seq with
  | none => s
  | some c =>
    if c.opcode != op || c.started || !s.mayStart c then s
    else
      let c := { c with started := true }
      f c (s.setCmd c)

def execCmdNop (seq : Nat) (s : State) : Host.Outcome State Fault Refusal :=
  runOn s fun s => s.runCmd seq 0x00 fun c s => s.cmdDone c.seq stOk 0

def execFenceAll (seq : Nat) (s : State) : Host.Outcome State Fault Refusal :=
  runOn s fun s => s.runCmd seq 0x06 fun c s => s.cmdDone c.seq stOk 0

/-- A host store to stack memory on behalf of a ring (R353). -/
def State.ringStore (s : State) (ring a : Nat) (d : List Byte) : State := s.devWrite a (sound d) 5 (.host (1024 + ring))

def execWriteInline (seq : Nat) (s : State) : Host.Outcome State Fault Refusal :=
  runOn s fun s =>
    match s.cmd seq with
    | none => s
    | some c =>
      if inStacks (c.arg 0) c.len && !s.rangeReady (c.arg 0) c.len then s
      else s.runCmd seq 0x03 fun c s =>
        if inStacks (c.arg 0) c.len then (s.ringStore c.ring (c.arg 0) c.payload).cmdDone c.seq stOk 0
        else s.cmdDone c.seq stAddress 0

/-- COPY (Table 11.5, R520). -/
def execCopy (seq : Nat) (s : State) : Host.Outcome State Fault Refusal :=
  runOn s fun s =>
    match s.cmd seq with
    | none => s
    | some c =>
      let n := c.arg 2
      let ok := inStacks (c.arg 0) n && inStacks (c.arg 1) n
      if ok && !(s.rangeReady (c.arg 0) n && s.rangeReady (c.arg 1) n) then s
      else s.runCmd seq 0x04 fun c s =>
        if ok then
          let (d, s) := s.modRead (c.arg 0) n
          (s.modWrite (c.arg 1) d).cmdDone c.seq (if d.any (·.poison) then stPoison else stOk) 0
        else s.cmdDone c.seq stAddress 0

/-- Writes a DIRTY line back and leaves it CLEAN (R354). -/
def State.cleanLine (s : State) (line : Nat) : State :=
  match s.homeSlice line with
  | none => s
  | some k =>
    let s := s.flushMerge k line
    match (s.slice k).find line with
    | none => s
    | some l =>
      if l.st != .dirty || isWindowLine line then s
      else
        let (bs, l, s) := forN 32 (([] : List PByte), l, s) fun (acc, l, s) w =>
          let (v, p, l, s) := s.checkWord k l w .module
          (acc ++ (natLe 8 v).map (fun b => (⟨b, p⟩ : PByte)), l, s)
        let s := s.writeStack (line * 256) bs .module
        s.modSlice k fun x => { x with lines := x.lines.map fun y => if y.line == line then { l with st := .clean } else y }

/-- The DIRTY lines of a range. -/
def State.dirtyIn (s : State) (a n : Nat) : List Nat :=
  s.slices.foldl (fun acc e => acc ++ (e.2.lines.filter fun l =>
    l.st == .dirty && a ≤ l.line * 256 && l.line * 256 < a + n).map (·.line)) []

def execFlush (seq : Nat) (s : State) : Host.Outcome State Fault Refusal :=
  runOn s fun s => s.awake fun s => s.runCmd seq 0x05 fun c s =>
    if s.inDevMem (c.arg 0) (c.arg 1) then
      ((s.dirtyIn (c.arg 0) (c.arg 1)).foldl State.cleanLine s).cmdDone c.seq stOk 0
    else s.cmdDone c.seq stAddress 0

/-- RESIDENCY (R289): a request that starts a move completes with it. -/
def execResidency (seq : Nat) (s : State) : Host.Outcome State Fault Refusal :=
  runOn s fun s => s.runCmd seq 0x08 fun c s =>
    let (r, s) := s.resRequest (bits (c.arg 0) 17 0) (bits (c.arg 0) 19 18) (some c.seq)
    if r == 0 then s else s.cmdDone c.seq (if r == 1 then stRefused else stOk) r

/-! ## Journal entries as bytes -/

def jBytes (e : JEnt) : List Byte :=
  natLe 8 e.seq ++ natLe 8 e.accept ++ natLe 8 e.gtDone ++
    natLe 4 (e.cls % 8 + e.source % 4096 * 16 + e.opcode % 256 * 2 ^ 16 + e.status % 256 * 2 ^ 24) ++ natLe 4 e.cmdId ++
    e.digest ++ natLe 4 e.arg ++ natLe 4 e.result ++ natLe 8 e.link

/-- JRNL_SEL_STATE of a SEQ: 0 held, 1 overwritten, 2 not yet written. -/
def State.jState (s : State) (seq : Nat) : Nat :=
  if seq ≥ s.host.nextSeq then 2 else if seq + 65536 < s.host.nextSeq then 1 else 0

def State.jShow (s : State) (seq : Nat) : List Byte :=
  if s.jState seq == 0 then
    match sfind s.host.journal (seq % 65536) with
    | some e => jBytes e
    | none => allOnes 64
  else allOnes 64

def execJournalCopy (seq : Nat) (s : State) : Host.Outcome State Fault Refusal :=
  runOn s fun s => s.awake fun s => s.runCmd seq 0x09 fun c s =>
    let n := c.arg 1
    if s.inHost (c.arg 2) (64 * n) then
      let held := (List.range n).countP fun i => s.jState (c.arg 0 + i) == 0
      let s := (List.range n).foldl (fun s i => s.modWrite (c.arg 2 + 64 * i) (sound (s.jShow (c.arg 0 + i)))) s
      s.cmdDone c.seq stOk held
    else s.cmdDone c.seq stAddress 0

/-! ## Attachment (R364) -/

/-- Detaches the host; `why` is P0 of the Afterglow record: 1 watchdog, 2 PD46 reset, 3 ATTACH written 0. -/
def State.detach (s : State) (why : Nat) : State :=
  if !s.hostAttached then s
  else
    let s := (s.host.rings.map (·.1)).foldl State.ringDisable s
    let s := (s.setField hostPage offStatus 1 0 0).setFlag hostPage offControl 0 false
    (s.agRecord 0x2005 [why])

/-- The watchdog period, in ms of 200,000 gt, has passed since it last started. -/
def State.wdogOver (s : State) : Bool :=
  let ms := s.field hostPage 0x118 15 0
  ms != 0 && s.host.kickAt + 200000 * ms ≤ s.now

/-- The watchdog period passed without a kick (R364). -/
def execHostLost (s : State) : Host.Outcome State Fault Refusal :=
  runOn s fun s =>
    if s.hostAttached && s.wdogOver && !s.dusk then (s.detach 1).raise hostPage 0 else s

/-- A reset of PD46. -/
def State.resetHost (s : State) : State :=
  let s := if s.hostAttached then (s.detach 2).raise hostPage 1 else s
  (s.modHost fun h => { h with inReset := true }).setField hostPage offStatus 1 0 2

def execHostReset (s : State) : Host.Outcome State Fault Refusal := runOn s (·.resetHost)

/-- The harts are released after a PD46 reset. -/
def execHartsReleased (s : State) : Host.Outcome State Fault Refusal :=
  runOn s fun s =>
    if s.host.inReset then ((s.modHost fun h => { h with inReset := false }).setField hostPage offStatus 1 0 0).setPg 46 true
    else s

/-- Attaches the host (R364, R495): one message is sent if a page signals. -/
def State.attach (s : State) : State :=
  if s.hostAttached || s.host.inReset then s
  else
    let s := s.modHost fun h => { h with kickAt := s.now }
    let s := (s.setField hostPage offStatus 1 0 1).setFlag hostPage offControl 0 true
    let s := if s.evtSummary != 0 && s.msiAddr != 0 then
        let n := s.rdN hostPage 0x190
        (s.wrN hostPage 0x190 (n + 1)).say (.evtMsi 0 s.msiAddr (s.rdN hostPage 0x18C))
      else s
    s.raise hostPage 2

/-- WDOG_KICK restarts the watchdog period. -/
def State.kick (s : State) : State := s.modHost fun h => { h with kickAt := s.now }

end Sys2Proof.Machine
end

