-- ==== Sys2Proof/Machine/Steps.lean ====
section
/-!
DEFINITION. Steps: closing, reports, verdicts, undo, resume (R201 to R214), the fingerprint comparison and repair (R215 to
R217, R342, R343), and the write of DONE_STEP (R121).
-/
namespace Sys2Proof.Machine

def State.modSteps (s : State) (f : Steps → Steps) : State := { s with steps := f s.steps }

/-- M of the active image. -/
def State.modules (s : State) : Nat := match s.adm.active with
  | some i => i.modules
  | none => 1

/-! ## Fingerprint groups (R216, R342) -/

def State.fpGroupNo (s : State) : Nat := match s.adm.active with
  | some i => s.fpGroup i
  | none => 0

/-- Member modules of the fingerprint group, ascending. -/
def State.fpMembers (s : State) : List Nat :=
  let g := s.fpGroupNo
  if g == 0 then [] else (unitModules s.unitsNow (s.unitsNow.length + 1) g)

def State.fpIndex (s : State) (m : Nat) : Nat := (s.fpMembers.findIdx? (· == m)).getD 0

/-- Where the comparison keeps member g's bank. -/
def State.fpBank (s : State) (i : Image) (g : Nat) : Nat := s.fpTable i + 16 * s.fpBlocks i + 8 * s.fpBlocks i * g

def fpKey (step g : Nat) : Nat := step % 65536 * 16 + g

/-- Sends an operation of the management channel. -/
def State.sendMgmt (s : State) (dst : Nat) (m : MgmtMsg) : State := s.say (.mgmt dst { m with src := s.phys })

/-- Sends the own bank of step S to every other member, and stores it at the own index (R342 items 1 and 2). -/
def State.fpSend (s : State) (i : Image) : State :=
  let step := s.steps.step
  let n := s.fpBlocks i
  let me := s.logical.getD 0
  let (d, s) := s.modRead (s.fpTable i + 8 * (step % 2 * n)) (8 * n)
  let s := s.modWrite (s.fpBank i (s.fpIndex me)) d
  let bytes := d.map (·.val)
  let s := s.fpMembers.foldl (fun s m =>
    if m == me then s
    else (List.range ((n + 61) / 62)).foldl (fun s k =>
      s.sendMgmt ((s.physOfLogical m).getD 0)
        { op := 6, tag := 0, role := 0, arg := 62 * k + step % 65536 * 2 ^ 32, src := 0
          body := (bytes.drop (496 * k)).take 496 }) s) s
  s.modSteps fun x => { x with fpSent := true, fpGot := sput x.fpGot (fpKey step (s.fpIndex me)) n }

/-- The value of an entry at each member of the group. -/
def State.fpValues (s : State) (i : Image) (n : Nat) : List (Nat × Nat) :=
  (s.fpMembers.zip (List.range s.fpMembers.length)).map fun (m, g) => (m, s.peekN (s.fpBank i g + 8 * n) 8)

/-- The comparison of R216, once every piece is in. -/
def State.fpCompare (s : State) (i : Image) : State :=
  let me := s.logical.getD 0
  let all := s.fpMembers
  let s := (List.range (s.fpBlocks i)).foldl (fun s n =>
    let vs := s.fpValues i n
    let mine := (vs.find? (·.1 == me)).map (·.2)
    if vs.all (fun v => some v.2 == mine) then s
    else
      let s := s.bump rayComPage 0x12C
      match vs.find? fun v => 2 * vs.countP (·.2 == v.2) > all.length with
      | none => s.modSteps fun x => { x with cause := x.cause ||| 2 ^ cNoMajority }
      | some v =>
        if some v.2 == mine then s
        else
          let s := if bit s.steps.cause cDiverge then s else s.penCount 8
          s.modSteps fun x => { x with cause := x.cause ||| 2 ^ cDiverge, repairs := x.repairs ++ [(n, v.1)] })
    (s.wrN rayComPage 0x12C 0)
  (s.raise rayComPage 2).modSteps fun x => { x with fpDone := true }

/-- The comparison runs once this module has sent its bank and every member's is complete. -/
def State.fpTry (s : State) : State :=
  match s.adm.active with
  | none => s
  | some i =>
    let full := (List.range s.fpMembers.length).all fun g => sget 0 s.steps.fpGot (fpKey s.steps.step g) ≥ s.fpBlocks i
    if s.steps.fpSent && !s.steps.fpDone && full then s.fpCompare i else s

/-- FP_PIECE (R342). -/
def execFpPiece (m : MgmtMsg) (s : State) : Host.Outcome State Fault Refusal :=
  runOn s fun s =>
    match s.adm.active, s.ray.map with
    | some i, some l =>
      match l.findIdx? (· == m.src) with
      | none => s
      | some lm =>
        if !s.fpMembers.contains lm then s
        else
          let first := m.arg % 2 ^ 32
          let cnt := min (m.body.length / 8) 62
          let g := s.fpIndex lm
          let s := s.modWrite (s.fpBank i g + 8 * first) (sound (m.body.take (8 * cnt)))
          let key := fpKey (m.arg / 2 ^ 32) g
          (s.modSteps fun x => { x with fpGot := sput x.fpGot key (sget 0 x.fpGot key + cnt) }).fpTry
    | _, _ => s

/-! ## Loss scaling and verdicts (R204, R213) -/

/-- R204: LS, RUN, and whether SCALE_FLOOR is raised. -/
def scaleAfter (growth : Nat) (lo hi : Int) (verdict cause : Nat) (ls : Int) (run : Nat) : Int × Nat × Bool :=
  if verdict == 3 && (bit cause cNonfinite || bit cause cOverflow) then
    if ls > lo then (ls - 1, 0, false) else (ls, 0, true)
  else if verdict == 1 || verdict == 2 then
    if run + 1 == growth then (if ls < hi then ls + 1 else ls, 0, false) else (ls, run + 1, false)
  else (ls, run, false)

/-- Raises an event on every carrying tile's page. -/
def State.raiseTiles (s : State) (b : Nat) : State := s.forSites fun s t => s.raise t b

/-- Takes up a verdict: LS and RUN by R204, and the registers that show it. -/
def State.scaleBy (s : State) (verdict cause : Nat) : State :=
  match s.adm.active with
  | none => s
  | some i =>
    let (ls, run, floor) := scaleAfter (s.growth i) (s.lsMin i) (s.lsMax i) verdict cause s.steps.ls s.steps.run
    let s := s.modSteps fun x => { x with ls := ls, run := run, verdict := verdict, vcause := cause }
    if floor then s.raiseTiles 13 else s

/-- The verdict of Table 7.6 for the OR of the causes. -/
def verdictOf (cause : Nat) : Nat :=
  if bit cause cNonfinite || bit cause cOverflow || bit cause cHardware then 3
  else if bit cause cNoMajority then 4
  else if bit cause cDiverge then 2
  else 1

/-- Merges messages of one step (R212): causes by OR, COUNT by sum. -/
def mergeStep (own : StepMsg) (kids : Sparse StepMsg) : StepMsg :=
  kids.foldl (fun m k => if k.2.step == own.step then { m with cause := m.cause ||| k.2.cause, count := m.count + k.2.count } else m) own

/-- A report goes up merged; the master decides at a COUNT of M (R213) and sends the verdict down. -/
def State.tryReport (s : State) : State :=
  match s.steps.own with
  | none => s
  | some o =>
    let m := mergeStep o s.steps.kids
    if !s.gn.master then s.stepUp 0 m
    else if m.count < s.modules || s.steps.decided.isSome then s
    else match s.adm.active with
      | none => s
      | some i =>
        let v := verdictOf m.cause
        let (ls, run, _) := scaleAfter (s.growth i) (s.lsMin i) (s.lsMax i) v m.cause s.steps.ls s.steps.run
        let out : StepMsg := { step := o.step, cause := m.cause, count := 0, verdict := v, ls := ls, run := run }
        let s := s.modSteps fun x => { x with decided := some (v, out) }
        let s := s.stepDown 2 out
        -- with a ROLLBACK goes the order to park (R427)
        let s := if v == 4 then s.penDown 1 { emptyPen with cause := 128 } else s
        let s := s.agRecord 0x2002 [o.step % 2 ^ 32, o.step / 2 ^ 32, v + 256 * m.cause, fieldOf 32 ls]
        s.jDecision 2 0 0xD2 (v + 8 * m.cause)

/-- A tile has closed its contribution to step `st`: nothing of it is open, not even a flush (R117, R212). -/
def Tile.quietFor (x : Tile) (st : Nat) : Bool :=
  x.closed && x.mirror.isNone && x.perr.isNone && x.replayTo.isNone && x.specDue.all (·.1 > st) &&
    !x.dmaq.any fun q => q.2.any (·.tag ≤ st)

/-- Every operation of step S by an agent of the module is complete (R212). -/
def State.stepQuiet (s : State) : Bool :=
  let st := s.steps.step
  s.carryingSites.all (fun t => !s.running t || (s.tile t).quietFor st) &&
  !(s.xfers.any (·.tag ≤ st)) && !s.glints.any (·.msg.tag ≤ st)

/-- A collective record is in progress: frames of it wait to be sent (Table 10.17). -/
def State.collBusy (s : State) : Bool := s.ray.ports.any fun p => (p.2.txq ++ p.2.taken).any (·.coll)

/-- The collective records of the pass are sent (R340): every queue has started all of its records, and none is in
progress. -/
def State.collDone (s : State) : Bool :=
  !s.collBusy && (List.range 16).all fun q =>
    s.ray.collPass * (s.slotHalf.colls.filter (·.queue == q)).length ≤ sget 0 s.ray.collPos q

/-- A further body pass may begin, so its collective records may start (R202, R340). What was kept of frames before the
passes in progress goes. -/
def State.nextPass (s : State) : State := match s.adm.active with
  | some i =>
    let from_ := s.adm.fa + i.proFrames + s.ray.collPass * i.bodyFrames
    { s with ray := { s.ray with collPass := s.ray.collPass + 1, collAt := s.ray.collAt.filter (from_ ≤ ·.1) } }
  | none => s

/-- STEP_CLOSE (R212): once the tiles have closed, the fingerprints are compared, and the module reports. -/
def execStepClose (s : State) : Host.Outcome State Fault Refusal :=
  runOn s fun s =>
    match s.adm.active with
    | none => s
    | some i =>
      if s.steps.phase != .exec || !s.gn.running || !s.stepQuiet || !s.collDone then s
      else
        let s := if s.fpGroupNo != 0 && !s.steps.fpSent then (s.fpSend i).fpTry
          else if s.fpGroupNo == 0 then s.modSteps fun x => { x with fpDone := true } else s.fpTry
        if !s.steps.fpDone then s
        else
          let m : StepMsg := { step := s.steps.step, cause := s.steps.cause, count := 1, verdict := 0, ls := 0, run := 0 }
          (s.modSteps fun x => { x with own := some m, phase := .reported, specAt := (i.specBase, i.specN) }).tryReport

/-- STEP_REPORT from a child (R212, R213). -/
def execStepReport (p : Nat) (m : StepMsg) (s : State) : Host.Outcome State Fault Refusal :=
  runPart (p < 16) s fun s =>
    if !s.portUp p then s
    else ((s.ctrlIn p).modSteps fun x => { x with kids := sput x.kids p m }).tryReport

/-! ## Applying verdicts -/

/-- What a step begins with: no causes of its own but those already raised for it, no reports, and no fingerprints of the
attempt that ends (R216). -/
def freshStep (x : Steps) (cause : Nat) : Steps :=
  { x with fpGot := x.fpGot.filter (·.1 / 16 != x.step % 65536), own := none, ownDrain := none, kids := x.kids.filter (fun k => k.2.step > x.step),
           kidsDrain := [], cause := cause, causeNext := 0, fpSent := false, fpDone := false, decided := none }

/-- A verdict for the reported step, of this kind, may be applied: a module that is not the master takes it from its
upstream and passes it on; the master applies the one it sent. -/
def State.takeVerdict (s : State) (v : Nat) (m : StepMsg) : Option State :=
  if s.steps.phase != .reported || m.step != s.steps.step then none
  else if s.gn.master then
    match s.steps.decided with
    | some (w, d) => if w == v && d.step == m.step then some s else none
    | none => none
  else match s.gn.upstream with
    | some p => some ((s.ctrlIn p).stepDown 2 { m with verdict := v })
    | none => none

/-- The step counter rises (R201, R204, Table 7.6). -/
def State.commitStep (s : State) (v cause : Nat) : State :=
  let done := s.steps.step
  let s := s.scaleBy v cause
  let next := s.steps.causeNext
  s.modSteps fun x => { freshStep x next with step := done + 1, attempt := 0, inRow := 0, phase := .exec,
                                              doneSteps := x.doneSteps ++ [(done, x.specAt)] }

/-- R209 on a tile: speculative values join the base. -/
def Tile.merge (x : Tile) : Tile :=
  let f (m : Sparse Counter) : Sparse Counter := m.map fun c => (c.1, { base := (c.2.base + c.2.spec) % 2 ^ 32 })
  { x with cc := f x.cc, kc := f x.kc, regioned := false, closed := false, decided := !x.waitVerdict, waitVerdict := false }

/-- COMMIT (Table 7.6). -/
def execCommit (m : StepMsg) (s : State) : Host.Outcome State Fault Refusal :=
  runOn s fun s =>
    match s.takeVerdict 1 m with
    | none => s
    | some s =>
      let s := (s.commitStep 1 m.cause).nextPass
      let s := { s with adm := { s.adm with mustWait := false } }
      s.forSites fun s t =>
        -- a tile without a stream has its record as the module's pass begins (R203)
        let wait := (s.tile t).waitVerdict || !s.running t
        let s := s.modTile t (·.merge)
        if wait then s.writeScalars t else s

/-- R210 items 1 and 2 on a tile: descriptors of `tag` that have not started leave its queues. A tile past LAST_NS goes to the
start of its next pass, where rounding-base entry `pro` is next; what a replay or an LDC in progress was for is undone. -/
def Tile.undo (x : Tile) (tag proLen pro : Nat) : Tile :=
  let qs : Sparse (List Desc) := x.dmaq.map fun q => (q.1, q.2.filter (·.tag != tag))
  let y := { x with
    dmaq := qs.filter (fun q => !q.2.isEmpty), region := none, regioned := false, waitVerdict := false, closed := false
    perr := none, ldc := none, rpoint := none, skip := {}, replayTo := none, replayed := [], redo := none, sendBad := none }
  if x.lag > 0 then { y with pos := proLen, pass := x.lagTo, rbase := pro }
  else if x.closed && x.pos > proLen then { y with pos := proLen, pass := x.pass + 1, rbase := pro }
  else y

/-- R210 items 1 and 2: the tiles stop and go to the start of their next pass. -/
def State.beginUndo (s : State) (tag : Nat) : State :=
  let s := s.modSteps fun x => { x with phase := .undoing, undoTag := some tag }
  let s := (s.raiseTiles 10)
  s.forSites fun s t =>
    let s := s.bump t 0x294
    match s.streamOf t with
    | none => s
    | some (i, r) =>
      s.modTile t (·.undo tag r.proLen (s.rbaseRec i (s.tileOf t)).2.1)

/-- The mailboxes without the messages of a step. -/
def Tile.mboxWithout (x : Tile) (tag : Nat) : Sparse (List GMsg) :=
  let bs : Sparse (List GMsg) := x.mbox.map fun b => (b.1, b.2.filter (·.tag != tag))
  bs.filter fun b => !b.2.isEmpty

/-- R210 items 4 and 5: speculative values go, borrows return, messages give their slots back to the base, counts are
dropped. -/
def State.dropSpec (s : State) (tag : Nat) : State :=
  let f (m : Sparse Counter) : Sparse Counter := m.map fun c => (c.1, { base := (c.2.base + c.2.borrow) % 2 ^ 32 })
  let fly := s.glints.filter (·.msg.tag == tag)
  let s := { s with glints := s.glints.filter (·.msg.tag != tag) }
  let held : List GMsg := s.tiles.foldl (fun acc e => acc ++ e.2.mbox.foldl (fun a b => a ++ b.2.filter (·.tag == tag)) []) []
  let gone := held ++ fly.map (·.msg)
  let s := s.tiles.foldl (fun s e => s.modTile e.1 fun x =>
    { x with cc := f x.cc, kc := f x.kc
             mbox := Tile.mboxWithout x tag
             spectrum := if x.specStep == tag then [] else x.spectrum }) s
  gone.foldl (fun s g => s.giveBack { g with tag := tag - 1 }) s

/-- DISCARD (Table 7.6). -/
def execDiscard (m : StepMsg) (s : State) : Host.Outcome State Fault Refusal :=
  runOn s fun s =>
    match s.takeVerdict 3 m with
    | none => s
    | some s =>
      let s := s.scaleBy 3 m.cause
      let n := s.steps.inRow + 1
      let tag := s.steps.step + 1
      let s := s.modSteps fun x => { freshStep x 0 with attempt := x.attempt + 1, inRow := n, repairs := [] }
      let s := if n == 8 then (s.raiseTiles 14).holdRequest 2 else s
      s.beginUndo tag

/-- ROLLBACK (Table 7.6): undo, then the restore of R427. -/
def execRollback (m : StepMsg) (s : State) : Host.Outcome State Fault Refusal :=
  runOn s fun s =>
    -- the master may send it in place of RESUME, when a repair has failed (R217)
    let late := s.steps.phase == .drained && m.step + 1 == s.steps.step
    let t := if late then
        (if s.gn.master then (if s.steps.decided.any (·.1 == 4) then some s else none)
         else s.gn.upstream.map fun p => (s.ctrlIn p).stepDown 2 { m with verdict := 4 })
      else s.takeVerdict 4 m
    match t with
    | none => s
    | some s =>
      let s := s.modSteps fun x => { x with verdict := 4, vcause := m.cause, rollTo := true, decided := none }
      if late then s
      else
        let tag := s.steps.step + 1
        (s.modSteps fun x => freshStep x 0).beginUndo tag

/-! ## Repair (R217) -/

/-- Requests of one entry's ranges from its source module: MEM_READs of at most 1,024 units. -/
def State.fetchEntry (s : State) (n src : Nat) : State :=
  match s.adm.active with
  | none => s
  | some i =>
    let dst := (s.physOfLogical src).getD 0
    (s.blockRanges i n).foldl (fun s r =>
      let a := s.translate s.steps.step r.1
      (List.range (ceilDiv r.2 65536)).foldl (fun s k =>
        let at_ := a + 65536 * k
        let len := min 65536 (r.2 - 65536 * k)
        let tag := s.ray.nextTag
        let q : MgmtReq := { tag := tag, dst := dst, want := .repair n src, at_ := at_, left := len }
        let s := { s with ray := { s.ray with nextTag := (tag + 1) % 2 ^ 24, reqs := s.ray.reqs ++ [q] } }
        s.sendMgmt dst { op := 4, tag := tag, role := 0, arg := at_, src := 0, body := natLe 2 (len / 64) }) s) s

/-- COMMIT_REPAIR (Table 7.6): the commit, then the undo of the regions of S + 1, then the repairs. -/
def execCommitRepair (m : StepMsg) (s : State) : Host.Outcome State Fault Refusal :=
  runOn s fun s =>
    match s.takeVerdict 2 m with
    | none => s
    | some s =>
      let tag := s.steps.step + 1
      let s := s.commitStep 2 m.cause
      let s := s.modSteps fun x => { x with cause := 0 }
      s.beginUndo tag

/-- A DRAINED goes up merged; at a COUNT of M the master sends RESUME, or ROLLBACK after a failed repair. -/
def State.tryDrained (s : State) : State :=
  match s.steps.ownDrain with
  | none => s
  | some o =>
    let m := mergeStep o s.steps.kidsDrain
    if !s.gn.master then s.stepUp 1 m
    else if m.count < s.modules || s.steps.rollTo || s.steps.resumed.isSome || s.steps.decided.isSome then s
    else if bit m.cause cNoMajority then
      let out : StepMsg := { step := o.step, cause := m.cause, count := 0, verdict := 4, ls := s.steps.ls, run := s.steps.run }
      let s := s.modSteps fun x => { x with decided := some (4, out) }
      let s := s.agRecord 0x2002 [o.step % 2 ^ 32, o.step / 2 ^ 32, 4 + 256 * m.cause, fieldOf 32 s.steps.ls]
      ((s.stepDown 2 out).penDown 1 { emptyPen with cause := 128 }).jDecision 2 0 0xD2 (4 + 8 * m.cause)
    else
      let r := s.steps.step
      let s := s.modSteps fun x => { x with resumed := some r }
      (s.stepDown 3 { o with step := r, cause := 0, count := 0 }).jDecision 2 0 0xD4 r

/-- The step whose verdict is being drained: S after a DISCARD or ROLLBACK, S − 1 after a COMMIT_REPAIR. -/
def State.drainStep (s : State) : Nat := if s.steps.verdict == 2 then s.steps.step - 1 else s.steps.step

/-- The module sends DRAINED (R210, R217). -/
def State.drained (s : State) : State :=
  let m : StepMsg := { step := s.drainStep, cause := if s.steps.failed then 2 ^ cNoMajority else 0, count := 1,
                       verdict := 0, ls := 0, run := 0 }
  (s.modSteps fun x => { x with phase := .drained, ownDrain := some m, repairs := [], tries := [] }).tryDrained

/-- UNDO_DONE (R210): once the speculative transfers have landed; the repairs, if any, come before DRAINED. -/
def execUndoDone (s : State) : Host.Outcome State Fault Refusal :=
  runOn s fun s =>
    match s.steps.undoTag with
    | none => s
    | some tag =>
      if s.dusk || s.steps.phase != .undoing || s.xfers.any (·.tag == tag) then s
      else
        let s := s.dropSpec tag
        if s.steps.verdict == 2 && !s.steps.repairs.isEmpty then
          if s.ray.reqs.any (fun q => match q.want with
            | .repair _ _ => true
            | _ => false) then s
          else s.steps.repairs.foldl (fun s r => s.fetchEntry r.1 r.2) s
        else s.drained

/-- A DRAINED from a child (R211). -/
def execDrained (p : Nat) (m : StepMsg) (s : State) : Host.Outcome State Fault Refusal :=
  runPart (p < 16) s fun s =>
    if !s.portUp p then s
    else ((s.ctrlIn p).modSteps fun x => { x with kidsDrain := sput x.kidsDrain p m }).tryDrained

/-- RESUME (R211): every tile runs its re-entry block and then the pass from its start; a tile at the start of a prologue
runs that instead (R214). -/
def execResume (step : Nat) (s : State) : Host.Outcome State Fault Refusal :=
  runOn s fun s =>
    if s.steps.phase != .drained || step != s.steps.step || s.steps.rollTo then s
    else
      let from_ := if s.gn.master then (if s.steps.resumed == some step then some s else none)
        else s.gn.upstream.map fun p =>
          (s.ctrlIn p).stepDown 3 { step := step, cause := 0, count := 0, verdict := 0, ls := 0, run := 0 }
      match from_ with
      | none => s
      | some s =>
        let s := match s.steps.undoTag with
          | some tag => s.dropSpec tag
          | none => s
        let s := (s.modSteps fun x => { freshStep x 0 with phase := .exec, undoTag := none, resumed := none, failed := false }).nextPass
        let s := { s with adm := { s.adm with mustWait := false } }
        s.forSites fun s t =>
          match s.streamOf t with
          | none => s.writeScalars t
          | some (i, r) =>
            let len := (s.stepTile i (s.tileOf t)).reLen
            let s := s.modTile t fun x =>
              { x with waitVerdict := false, decided := false, closed := false
                       reentry := if x.pos == r.proLen && x.pass > 0 && len > 0 then some 0 else x.reentry }
            (s.writeScalars t).reachNext t

/-! ## Memory over the management channel (R343) -/

/-- MEM_READ: answered in order with MEM_DATA of up to 496 B each. -/
def execMemRead (m : MgmtMsg) (s : State) : Host.Outcome State Fault Refusal :=
  runOn s fun s => s.awake fun s =>
    let n := 64 * fieldAt m.body 0 2
    let a := m.arg % 2 ^ 48
    if a % 64 != 0 || n == 0 || n > 65536 then s
    else
      let (d, s) := s.modRead a n
      (List.range (ceilDiv n 496)).foldl (fun s k =>
        s.sendMgmt m.src { op := 5, tag := m.tag, role := m.role, arg := a + 496 * k, src := 0
                           body := ((d.drop (496 * k)).take 496).map fun b => if b.poison then 0xFF else b.val }) s

/-- Ends the repair of an entry (R217 item 3): the fingerprint of the fetched bytes against the majority's. -/
def State.repairCheck (s : State) (n src : Nat) : State :=
  match s.adm.active with
  | none => s
  | some i =>
    let step := s.steps.step
    let rs := s.blockRanges i n
    let (bs, s) := rs.foldl (fun (acc, s) r =>
      let (d, s) := State.modRead s (s.translate step r.1) r.2
      (acc ++ d.map (·.val), s)) (([] : List Byte), s)
    let a := i.base + s.peekN (stepRec i + 0x38) 8 + 64 * n
    let head := s.peekN a 8
    let crc := crc64 (natLe 4 (head % 2 ^ 20) ++ natLe 4 (head / 2 ^ 20 % 2 ^ 32) ++ natLe 8 (step - 1) ++ bs)
    let want := s.peekN (s.fpBank i (s.fpIndex src) + 8 * n) 8
    let site := sget 0 s.steps.owners n
    let rest (x : Steps) : Steps := { x with repairs := x.repairs.filter (·.1 != n) }
    let s := if crc.toNat == want then (((s.modSteps rest).raise site 12).bump site 0x2A4)
      else
        let k := sget 0 s.steps.tries n + 1
        let s := s.modSteps fun x => { x with tries := sput x.tries n k }
        if k ≥ 3 then ((s.modSteps rest).modSteps fun x => { x with failed := true }).raise site 15
        else s.fetchEntry n src
    if s.steps.repairs.isEmpty && s.steps.phase == .undoing then s.drained else s

end Sys2Proof.Machine
end

