-- ==== Sys2Proof/Machine/ReadImage.lean ====
section
/-!
DEFINITION. Reading an image for admission (R142 to R149, R160, R190, R220, R221, R251), and the form of every tile
instruction as the checker sees it (R38, R39, R46, R47).
-/
namespace Sys2Proof.Machine

/-- A raw section table entry (Table 5.3). -/
structure RawSect where
  kind  : Nat
  sver  : Nat
  count : Nat
  off   : Nat
  len   : Nat
  rsize : Nat
deriving DecidableEq, Repr

def State.rawSects (s : State) (base : Nat) : List RawSect :=
  let t := base + s.peekN (base + 0x38) 8
  (List.range (min 64 (s.peekN (base + 0x34) 4))).map fun n =>
    let a := t + 32 * n
    { kind := s.peekN a 2, sver := s.peekN (a + 2) 2, count := s.peekN (a + 4) 4, off := s.peekN (a + 8) 8,
      len := s.peekN (a + 0x10) 8, rsize := s.peekN (a + 0x18) 4 }

/-- Bytes per record that Table 5.4 gives a kind; 0 for variable or other content. -/
def rsizeOf (kind : Nat) : Nat :=
  ([0, 32, 16, 32, 64, 32, 0, 64, 0, 32, 0, 0, 0, 0, 0, 16, 0] : List Nat).getD kind 0

def pairOf (x y : Nat) : Pair :=
  { base0 := x % 2 ^ 48, base1 := y % 2 ^ 48, len := (x / 2 ^ 48 + y / 2 ^ 48 * 65536) * 4096 }

/-- The compound units of a section: records of 16 B, with the members at LIST (R160; assumption 45). -/
def State.readUnits (s : State) (base : Nat) (c : Sect) : List CUnit :=
  (List.range c.count).map fun n =>
    let a := c.off + 16 * n
    let l := base + s.peekN (a + 8) 8
    { unit := s.peekN a 2 % 4096
      members := (List.range (min 4096 (s.peekN (a + 2) 2))).map fun k =>
        let x := s.peekN (l + 4 * k) 4
        (x % 4, x / 4 % 2 ^ 15) }

/-- What the checker reads of an image whose sections are sound. -/
def State.readImage (s : State) (base : Nat) : Image :=
  let raw := s.rawSects base
  let sects : Sparse Sect := (raw.zip (List.range raw.length)).foldl (fun m (r, n) =>
    sput m r.kind { count := r.count, off := base + r.off, len := r.len, index := n }) []
  let res : List Nat := match sfind sects 9 with
    | some c => (List.range c.count).map (c.off + 32 * ·)
    | none => []
  let pairs := match sfind sects 0xD with
    | some c => (List.range (s.peekN (c.off + 0x10) 1 % 128)).map fun n =>
        let a := base + s.peekN (c.off + 0x18) 8 + 16 * n
        pairOf (s.peekN a 8) (s.peekN (a + 8) 8)
    | none => []
  let units (k : Nat) : List CUnit := match sfind sects k with
    | some c => s.readUnits base c
    | none => []
  { base := base, len := s.peekN (base + 8) 8, id := s.peekN (base + 0x10) 8, numerics := s.peekN (base + 0x18) 8
    seed := s.peekN (base + 0x20) 8, heritage := bit (s.peekN (base + 0x28) 1) 0
    continues := bit (s.peekN (base + 0x28) 1) 1, slack := s.peekN (base + 0x2C) 2 % 4096
    modules := s.peekN (base + 0x30) 2, placement := s.peek (base + 0x40) 32
    proFrames := s.peekN (base + 0x80) 2, bodyFrames := s.peekN (base + 0x82) 2
    sects := sects, pairs := pairs
    pins := (res.filter fun a => s.peekN a 1 == 1).map fun a =>
      { window := s.peekN (a + 1) 1 % 2 == 0, base := s.peekN (a + 8) 6, lines := s.peekN (a + 0x10) 4 }
    places := (res.filter fun a => s.peekN a 1 == 2).map fun a =>
      { die := s.peekN (a + 1) 1 % 2, first := s.peekN (a + 4) 2 % 2048, count := s.peekN (a + 6) 2 % 2048 + 1
        base := s.peekN (a + 8) 6, lines := s.peekN (a + 0x10) 4 }
    units := units 0xA ++ units 0xB
    store := match sfind sects 0xC with
      | some c => (List.range 256).map fun n => BitVec.ofNat 32 (s.peekN (c.off + 4 * n) 4)
      | none => []
    progs := match sfind sects 0xC with
      | some c => (List.range 32).map fun n =>
          (s.peekN (c.off + 1024 + 4 * n) 1, s.peekN (c.off + 1025 + 4 * n) 1)
      | none => []
    specBase := match sfind sects 0xF with
      | some c => s.peekN c.off 6
      | none => 0
    specN := match sfind sects 0xF with
      | some c => s.peekN (c.off + 8) 4 % 2 ^ 21
      | none => 0 }

/-! ## Instructions as the checker sees them -/

/-- Fields of a DBG word (R479); other bits and other ACTION values are reserved. -/
def dbgLegal (w : BitVec 128) : Bool :=
  commonOk {} w && (fld w 63 56 == 1 || fld w 63 56 == 2) && layoutOk w (maskOf [(63, 56), (31, 0)])

/-- An instruction with no reserved value of its own word (R38, R39, R46, R47). -/
def instrForm (w : BitVec 128) : Bool :=
  let plain (l : List (Nat × Nat)) : Bool := commonOk {} w && layoutOk w (maskOf l)
  match opcodeOf w with
  | 0x00 => plain []
  | 0x01 => plain [(39, 0)]
  | 0x02 => plain [(47, 0)]
  | 0x03 => plain [(63, 32), (4, 0)]
  | 0x04 => match fld w 63 62 with
    | 1 => plain [(63, 62), (41, 32), (28, 24), (15, 0)]
    | 2 => plain [(63, 47), (41, 32), (28, 24), (15, 0)]
    | 3 => plain [(63, 62), (39, 32), (15, 0)]
    | _ => false
  | 0x10 => matLegal w
  | 0x11 => matLegal w
  | 0x12 => accoutLegal w
  | 0x13 => plain [(15, 0)]
  | 0x20 =>
    let sub := fld w 63 56
    if 0x20 ≤ sub && sub ≤ 0x22 then commonOk { conv := true } w && layoutOk w (maskOf [(63, 36)])
    else if sub == 0x23 then commonOk { a := true } w && layoutOk w (maskOf [(63, 36)]) && 1 ≤ fmtA w && fmtA w ≤ 3
    else (sub ≤ 8 || sub == 0x10 || sub == 0x11) && plain [(63, 36)]
  | 0x21 => vmemLegal w
  | 0x22 => vmemLegal w
  | 0x30 => plain [(63, 47)]
  | 0x38 => plain [(63, 50)]
  | 0x39 => plain [(63, 50), (1, 0)]
  | 0x40 => commonOk { sclass := true } w && layoutOk w (maskOf [(63, 27)]) && fld w 29 27 < 5
  | 0x50 => plain [(63, 45)] && fld w 63 50 % 2 == 0
  | 0x60 => plain [(15, 0)]
  | 0x61 => plain [(15, 0)]
  | 0xF0 => dbgLegal w
  | _ => false

/-- ACCOUT and the narrowing conversions, which have TRAFFIC and SR (R88). -/
def isConv (w : BitVec 128) : Bool :=
  opcodeOf w == 0x12 || (opcodeOf w == 0x20 && 0x20 ≤ fld w 63 56 && fld w 63 56 ≤ 0x22)

/-- Table 3.4. -/
def roundingOk (traffic : Nat) (sr : Bool) : Bool :=
  if traffic == 0 || traffic == 1 || traffic == 5 then !sr else if traffic == 2 then sr else traffic != 7

def isMma (w : BitVec 128) : Bool := opcodeOf w == 0x10 || opcodeOf w == 0x11

/-- Scratch ranges that an instruction names by itself (R40). -/
def instrScratch (w : BitVec 128) : List (Nat × Nat) :=
  match opcodeOf w with
  | 0x10 => matReads w
  | 0x11 => matReads w
  | 0x12 => accoutWrites w
  | 0x21 => [(256 * fld w 63 52, 256)]
  | 0x22 => [(256 * fld w 63 52, 256)]
  | 0x30 => [(64 * fld w 60 47, 64)]
  | 0x38 => [(64 * fld w 63 50, 16)]
  | 0x39 => [(64 * fld w 63 50, 256)]
  | 0x40 => [(ldcList w, 8 * ldcCount w), (ldcDst w, ldcSize w * ldcCount w)]
  | 0x50 => [(64 * fld w 63 50, 128)]
  | _ => []

/-- An instruction without its RCLASS bits but HERITAGE of a matrix instruction: the form that INSTR judges, where RCLASS has a
reason of its own (R88; assumption 75). -/
def withoutRclass (w : BitVec 128) : BitVec 128 :=
  w &&& ~~~ BitVec.ofNat 128 (2 ^ 102 - (if isMma w then 2 ^ 97 else 2 ^ 96))

/-- RESCALE stands cleared in a matrix instruction of a heritage image: there it has the reason HERITAGE (R114). -/
def withoutRescale (w : BitVec 128) : BitVec 128 := if isMma w then w &&& ~~~ BitVec.ofNat 128 (2 ^ 104) else w

/-- Fixed occupancy of the matrix unit and its completion tail (R50, R113, Table 2.7, R524). -/
def matrixCost (w : BitVec 128) : Nat × Nat :=
  let d := fld w 5 0 + 1
  if isMma w then ((if heritageOf w then 8 else 1) * (if fmtA w == 1 then 128 else 32) * d, 9)
  else if opcodeOf w == 0x12 then (16, match fld w 34 31 with
    | 0 => 21
    | 1 => 5
    | _ => 6)
  else if opcodeOf w == 0x13 then (1, 1) else (0, 0)

/-- The fixed cost of a timed group (R151 item 1): its instructions, or the matrix unit's occupancies and the tail of its last
instruction. The vector unit takes an operation per tc, which the count of instructions covers (assumption 76). -/
def fixedCost (ws : List (BitVec 128)) : Nat :=
  let m := (ws.map matrixCost).filter (·.1 != 0)
  max ws.length ((m.map (·.1)).foldl (· + ·) 0 + (m.getLastD (0, 0)).2)

/-! ## Site maps -/

/-- The encoding of a site map (R30). -/
def mapBytes (m : Sparse SiteEnt) : List Byte :=
  (List.range 1152).foldr (fun t acc =>
    let e := sget (shippedSite t) m t
    natLe 2 ((if e.st == 0 then e.tile % 1024 else 0) + e.st % 4 * 4096 + b2n e.router * 16384) ++ acc) []

/-- The map that will be in force at an activation: the staged one where there is one (R29, R156). -/
def State.mapNext (s : State) : Sparse SiteEnt := s.spare.staged.getD s.map

end Sys2Proof.Machine
end

