-- ==== Sys2Proof/Machine/Plan.lean ====
section
/-!
DEFINITION. The admission checks that follow a stream's own instructions: timed groups against their records (R145), inbound
regions (R147), accumulator indices (R152) and reduction plans (R148, R102). What depends on descriptors and messages that a
tile builds in scratch is outside them (assumption 46).
-/
namespace Sys2Proof.Machine

def indexed {α : Type} (l : List α) : List (Nat × α) := (List.range l.length).zip l

/-- The instructions of every stream of an image: logical tile and words, prologue then body. -/
def State.streams (s : State) (i : Image) : List (Nat × StreamRec × List (BitVec 128)) :=
  match sfind i.sects 1 with
  | none => []
  | some c => (List.range c.count).filterMap fun n =>
      let t := s.peekN (c.off + 32 * n) 2 % 1024
      (s.streamRec i t).map fun r => (t, r, (List.range (r.proLen + r.bodyLen)).map (s.instrAt r))

/-! ## Timed groups -/

/-- Where the timed groups of a stream begin: the instructions whose NB is not 0xFFFF_FFFF (R145). -/
def groupStarts (ws : List (BitVec 128)) : List (Nat × Nat) :=
  ((indexed ws).filter fun x => nbOf x.2 != 0xFFFFFFFF).map fun x => (x.1, nbOf x.2)

/-- The first record of a tile that is not that of its group: each timed group has its record, in stream order, and it repeats
the group's first instruction and offset (R145). -/
def State.groupBad (s : State) (i : Image) (r : StreamRec) (ws : List (BitVec 128)) : Option Nat :=
  let starts := groupStarts ws
  match sfind i.sects 2 with
  | none => none
  | some c =>
    ((List.range (max starts.length r.ntimed)).find? fun k =>
      let a := c.off + 16 * (r.timed + k)
      decide (r.ntimed ≤ k) || decide (c.count ≤ r.timed + k) || starts[k]? != some (s.peekN a 4, s.peekN (a + 4) 4)).map
        (r.timed + ·)

/-! ## Inbound regions -/

/-- A BUFFER record (Table 5.8). -/
structure Buf where
  tile    : Nat
  kind    : Nat
  base    : Nat
  size    : Nat
  arrive  : Nat
  release : Nat
deriving DecidableEq, Repr

def State.buffers (s : State) (i : Image) : List Buf :=
  match sfind i.sects 5 with
  | none => []
  | some c => (List.range c.count).map fun n =>
      let a := c.off + 32 * n
      let w := s.peekN a 4
      { tile := bits w 9 0, kind := bits w 11 10, base := s.peekN (a + 4) 4 % 2 ^ 20, size := s.peekN (a + 8) 4 % 2 ^ 20
        arrive := s.peekN (a + 0xC) 4 % 32, release := bits (s.peekN (a + 0xC) 4) 12 8 }

/-- TYPE is not reserved, and a region is made of whole 1 KiB blocks of scratch. -/
def Buf.formOk (b : Buf) : Bool :=
  decide (b.kind ≤ 1) && (b.kind == 1 || (b.base % 1024 == 0 && b.size % 1024 == 0 && decide (b.base + b.size ≤ scratchSize)))

def Buf.uses (b : Buf) (w : BitVec 128) : Bool := b.kind == 0 && (instrScratch w).any fun r => overlap r (b.base, b.size)
def Buf.arrives (b : Buf) (w : BitVec 128) : Bool := opcodeOf w == 3 && fld w 4 0 == b.arrive
def Buf.releases (b : Buf) (w : BitVec 128) : Bool :=
  opcodeOf w == 4 && (fld w 63 62 == 1 || fld w 63 62 == 2) && fld w 28 24 == b.release

/-- A GIVE that may free the region: on RELEASE, or to a collective of this module, which names no counter of a writer. -/
def Buf.frees (b : Buf) (w : BitVec 128) : Bool := b.releases w || (opcodeOf w == 4 && fld w 63 62 == 3)

/-- The first access of one pass that does not lie after a WAITC on ARRIVE and before the GIVE on RELEASE (R152). -/
def Buf.breach (b : Buf) : Bool → List (BitVec 128) → Option Nat
  | _, [] => none
  | held, w :: rest =>
    if b.uses w && !(held && rest.any b.frees) then some 0
    else (b.breach ((held || b.arrives w) && !b.releases w) rest).map (· + 1)

/-- BUFFER: the record, and the instruction of its owner (Table 5.12). -/
def State.checkBuffer (s : State) (i : Image) : Option (Nat × Nat) :=
  let all := s.streams i
  (indexed (s.buffers i)).findSome? fun (n, b) =>
    if !b.formOk then some (n, 0)
    else (all.filter (·.1 == b.tile)).findSome? fun (_, r, ws) =>
      match b.breach false (ws.take r.proLen) with
      | some k => some (n, k)
      | none => (b.breach false (ws.drop r.proLen)).map fun k => (n, r.proLen + k)

/-! ## Accumulator indices -/

/-- What an instruction does to an accumulator index. -/
inductive AccUse
  | start
  | add
  | clear
  | read
  | readClear
deriving DecidableEq, Repr

def accUse (i : Nat) (w : BitVec 128) : Option AccUse :=
  match opcodeOf w with
  | 0x10 => if accOf w == i then some .add else none
  | 0x11 => if accOf w == i then some .start else none
  | 0x12 => if accOf w == i then some (if bit (fld w 63 0) 10 then .readClear else .read) else none
  | 0x13 => if bit (fld w 15 0) i then some .clear else none
  | _ => none

/-- How an index stands in a stream: nothing begun, cleared, holding a segment that is not read out, read out. -/
inductive AccStand
  | none
  | clear
  | holds
  | out
deriving DecidableEq, Repr

/-- An index holds one reduction's segment from its first MMAZ, ACCCLR or clearing ACCOUT until it is read out: no segment is
begun over one that is not read out, and none is continued that was not begun (R152). -/
def AccStand.next (x : AccStand) : AccUse → Option AccStand
  | .start => if x == .holds then Option.none else some .holds
  | .clear => if x == .holds then Option.none else some .clear
  | .add => if x == .clear || x == .holds then some .holds else Option.none
  | .read => some (if x == .none then .none else .out)
  | .readClear => some .clear

/-- The first instruction that breaks it for an index. -/
def accBreach (i : Nat) : AccStand → List (Nat × BitVec 128) → Option Nat
  | _, [] => none
  | x, (n, w) :: rest =>
    match accUse i w with
    | none => accBreach i x rest
    | some u => match x.next u with
      | none => some n
      | some y => accBreach i y rest

/-- ACC_INDEX: the prologue, and two passes of the body after it. -/
def State.checkAccIndex (s : State) (i : Image) : Option (Nat × Nat) :=
  (s.streams i).findSome? fun (t, r, ws) =>
    let l := indexed ws
    (List.range 16).findSome? fun k => (accBreach k .none (l ++ l.drop r.proLen)).map (t, ·)

/-- An index is live where its next use adds to it or reads it. -/
def accLive (i : Nat) (later : List (BitVec 128)) : Bool :=
  match later.findSome? (accUse i) with
  | some .add | some .read | some .readClear => true
  | _ => false

/-- RPOINT: a recovery point at which an accumulator index is live (R152). What its record reloads is outside (assumption 46). -/
def State.checkRpoint (s : State) (i : Image) : Option (Nat × Nat) :=
  (s.streams i).findSome? fun (t, r, ws) =>
    ((indexed ws).find? fun (n, w) => opcodeOf w == 2 &&
      (List.range 16).any fun k => accLive k (ws.drop (n + 1) ++ ws.drop r.proLen)).map fun x => (t, x.1)

/-! ## Reduction plans -/

/-- A REDUCE record's header (Table 5.9). The headers stand one after another at the start of the section (assumption 114). -/
structure Reduce where
  rid     : Nat
  leaves  : Nat
  log2g   : Nat
  segs    : Nat
  entries : Nat
deriving DecidableEq, Repr

def State.reduces (s : State) (i : Image) : List Reduce :=
  match sfind i.sects 6 with
  | none => []
  | some c => (List.range c.count).map fun n =>
      let a := c.off + 32 * n
      { rid := s.peekN a 4, leaves := s.peekN (a + 8) 4, log2g := s.peekN (a + 0xC) 1 % 32, segs := s.peekN (a + 0x10) 4
        entries := s.peekN (a + 0x18) 8 }

/-- The segment and node entries of a record: their layout is a constant of the configuration, read from ENTRIES to the end of
the section (assumption 114). -/
def State.reduceEntries (s : State) (i : Image) (d : Reduce) : List ReduceEntry :=
  match sfind i.sects 6 with
  | none => []
  | some c => Config.reduceEntries (s.peek (i.base + d.entries) (c.off + c.len - (i.base + d.entries)))

/-- The additions of the tree of R102 over S segments: first segment, first of the right child, one past the last. An absent
node passes its sibling, so it adds nothing. -/
def treeNodes (segs : Nat) : List (Nat × Nat × Nat) :=
  ((List.range (Nat.log2 segs + 1)).map fun v =>
    (List.range (ceilDiv segs (2 * 2 ^ v))).filterMap fun k =>
      let mid := (2 * k + 1) * 2 ^ v
      if mid < segs then some (2 * k * 2 ^ v, mid, min ((2 * k + 2) * 2 ^ v) segs) else none).flatten

/-- The segments that entry k adds up; `fuel` bounds the depth of the plan. -/
def spanOf (es : List ReduceEntry) : Nat → Nat → Option (Nat × Nat)
  | 0, _ => none
  | fuel + 1, k => match es[k]? with
    | some (.segment ..) => some (k, k + 1)
    | some (.node _ l r) => match spanOf es fuel l, spanOf es fuel r with
      | some a, some b => if a.2 == b.1 then some (a.1, b.2) else none
      | _, _ => none
    | none => none

/-- The addition that entry k performs, as `treeNodes` writes it. -/
def nodeOf (es : List ReduceEntry) (k : Nat) : Option (Nat × Nat × Nat) :=
  match es[k]? with
  | some (.node _ l r) => match spanOf es es.length l, spanOf es es.length r with
    | some a, some b => if a.2 == b.1 then some (a.1, a.2, b.2) else none
    | _, _ => none
  | _ => none

def ascending : List Nat → Bool
  | a :: b :: l => decide (a < b) && ascending (b :: l)
  | _ => true

/-- Entry j names a tile, an accumulator index and matrix instructions in ascending order, whose blocks are the leaves of
segment j (R101 to R103). -/
def State.segmentOk (s : State) (i : Image) (d : Reduce) (j : Nat) : ReduceEntry → Bool
  | .segment t a ns =>
    let g := 2 ^ d.log2g
    match (s.streams i).find? (·.1 == t) with
    | none => false
    | some (_, _, ws) =>
      let ms := ns.filterMap (ws[·]?)
      ascending ns && ms.length == ns.length && ms.all (fun w => isMma w && accOf w == a) &&
        (ms.map fun w => fld w 5 0 + 1).foldl (· + ·) 0 == min g (d.leaves - j * g)
  | .node .. => false

/-- The first entry of a plan that is not of the tree of R102 for L and G. -/
def State.planBad (s : State) (i : Image) (d : Reduce) : Option Nat :=
  let es := s.reduceEntries i d
  if d.leaves == 0 || 16 < d.log2g || d.segs != ceilDiv d.leaves (2 ^ d.log2g) || es.length != 2 * d.segs - 1 then some 0
  else match (indexed (es.take d.segs)).find? fun x => !s.segmentOk i d x.1 x.2 with
    | some x => some x.1
    | none =>
      let nodes := (List.range (d.segs - 1)).map fun k => nodeOf es (d.segs + k)
      ((indexed nodes).find? fun (k, n) => match n with
        | none => true
        | some m => !(treeNodes d.segs).contains m || (nodes.take k).contains n).map fun x => d.segs + x.1

/-- REDUCE: RID and entry (R148, R152). -/
def State.checkReduce (s : State) (i : Image) : Option (Nat × Nat) :=
  let ds := s.reduces i
  (indexed ds).findSome? fun (n, d) =>
    if (ds.take n).any (·.rid == d.rid) then some (d.rid, 0) else (s.planBad i d).map (d.rid, ·)

end Sys2Proof.Machine
end

