-- ==== Sys2Proof/Machine/Check.lean ====
section
/-!
DEFINITION. The admission checks (R142 to R153, R88, R114, R161, R190, R206, R222, R252, R286, R327, R395): each answers
the place of its failure, DETAIL and DETAIL2 of Table 5.12.

Checks that need the contents of scratch or the flow of data through it are made outside this model: CHECK_DONE carries
what they found (assumption 46).
-/
namespace Sys2Proof.Machine

/-- The first place where a test fails. -/
def firstBadAt {α : Type} (l : List α) (bad : α → Option (Nat × Nat)) : Option (Nat × Nat) := l.findSome? bad

def inside (a : Nat × Nat) (b : Nat × Nat) : Bool := b.1 ≤ a.1 && a.1 + a.2 ≤ b.1 + b.2

/-! ## Header and sections -/

/-- FORMAT: offset of the bad header field (Table 5.2, R142). -/
def State.checkHeader (s : State) (b : Nat) : Option (Nat × Nat) :=
  let f (o n : Nat) : Nat := s.peekN (b + o) n
  let zero (o n : Nat) : Bool := (s.peek (b + o) n).all (· == 0)
  let tests : List (Nat × Bool) :=
    [(0, f 0 4 == 0x57533354), (4, f 4 2 == 3 && f 6 2 == 0x100), (8, f 8 8 % 4096 == 0 && 256 ≤ f 8 8),
     (0x28, f 0x28 4 < 4), (0x2C, 64 ≤ f 0x2C 4 && f 0x2C 4 ≤ 2048), (0x30, 1 ≤ f 0x30 4 && f 0x30 4 ≤ 20480),
     (0x34, 1 ≤ f 0x34 4 && f 0x34 4 ≤ 64), (0x38, f 0x38 8 % 256 == 0 && f 0x38 8 + 32 * f 0x34 4 ≤ f 8 8),
     (0x80, 1 ≤ f 0x82 2), (0x84, zero 0x84 0x7C)]
  (tests.find? (!·.2)).map fun t => (t.1, 0)

/-- DIGEST: SHA-256 of the image with the digest's bytes as zero. -/
def State.checkDigest (s : State) (b : Nat) : Bool :=
  let len := s.peekN (b + 8) 8
  sha256 (s.peek b 0x60 ++ List.replicate 32 0 ++ s.peek (b + 0x80) (len - 0x80)) == s.peek (b + 0x60) 32

/-- One section table entry by itself (R143, Tables 5.3 and 5.4). -/
def rawOk (len phases : Nat) (r : RawSect) : Bool :=
  1 ≤ r.kind && r.kind ≤ 0x10 && r.sver == 1 && r.rsize == rsizeOf r.kind && r.off % 256 == 0 && r.off + r.len ≤ len &&
  r.count * r.rsize ≤ r.len &&
  (if r.kind == 4 then r.count * 64 == r.len
   else if r.kind == 8 || r.kind == 0xC || r.kind == 0xD || r.kind == 0xF then r.count == 1
   else if r.kind == 0xE then r.count == phases else true)

/-- Data that the records of a section name: record index, range (R143). -/
def State.named (s : State) (i : Image) (kind : Nat) (c : Sect) : List (Nat × Nat × Nat) :=
  let f (a n : Nat) : Nat := s.peekN a n
  match kind with
  | 1 => (List.range c.count).map fun n =>
      let a := c.off + 32 * n
      (n, i.base + f (a + 8) 8, 16 * (f (a + 0x10) 4 + f (a + 0x14) 4))
  | 3 => (List.range c.count).map fun n =>
      let a := c.off + 32 * n
      (n, i.base + f (a + 8) 8, 8 * (f (a + 0x10) 4 + f (a + 0x14) 4))
  | 6 => (indexed (s.reduces i)).map fun (n, d) => (n, i.base + d.entries, 1)
  | 0xA => (List.range c.count).map fun n => (n, i.base + f (c.off + 16 * n + 8) 8, 4 * f (c.off + 16 * n + 2) 2)
  | 0xB => (List.range c.count).map fun n => (n, i.base + f (c.off + 16 * n + 8) 8, 4 * f (c.off + 16 * n + 2) 2)
  | 8 => [(0, i.base + f (c.off + 0x10) 8, 16 * f c.off 2 * 128 * 4), (0, i.base + f (c.off + 0x18) 8, 2048),
          (0, i.base + f (c.off + 0x20) 8, 16 * f (c.off + 4) 4), (0, i.base + f (c.off + 0x28) 8, 48 * f (c.off + 8) 2)]
  | 0xC => [(0, c.off, 1152)]
  | 0xD => [(0, i.base + f (c.off + 0x18) 8, 16 * (f (c.off + 0x10) 1 % 128)), (0, i.base + f (c.off + 0x30) 8, 32768),
            (0, i.base + f (c.off + 0x38) 8, 0)] ++
      (List.range 1024).map fun t => let x := s.stepTile i t
        if x.reLen == 0 then (0, c.off, 0) else (0, x.reentry, 16 * x.reLen)
  | _ => []

/-- SECTIONS: table index and record, or one past the last and the missing kind (R143, Table 5.12). -/
def State.checkSections (s : State) (i : Image) : Option (Nat × Nat) :=
  let raw := s.rawSects i.base
  let phases := match raw.find? (·.kind == 0xE) with
    | some r => s.peekN (i.base + r.off) 2 % 512
    | none => 0
  let bad1 := firstBadAt (indexed raw) fun (n, r) =>
    let others := (indexed raw).filter (·.1 < n)
    if !rawOk i.len phases r || others.any (fun o => o.2.kind == r.kind || overlap (o.2.off, o.2.len) (r.off, r.len)) then
      some (n, 0)
    else none
  let has (k : Nat) : Bool := (sfind i.sects k).isSome
  let all := s.streams i
  let any (p : BitVec 128 → Bool) : Bool := all.any fun x => x.2.2.any p
  let need : List Nat := [1, 2] ++ (if any fun w => isConv w && srOf w then [3] else []) ++ [5] ++ (if any isMma then [6] else []) ++
    (if any fun w => opcodeOf w == 2 && fld w 47 0 != 0 then [7] else []) ++ (if i.modules > 1 then [8] else []) ++ [9] ++
    (if any fun w => opcodeOf w == 0x50 then [0xC] else []) ++ [0xD, 0xE]
  match bad1 with
  | some x => some x
  | none => match need.find? (!has ·) with
    | some k => some (raw.length, k)
    | none => firstBadAt (indexed raw) fun (n, r) =>
        match sfind i.sects r.kind with
        | none => none
        | some c => ((s.named i r.kind c).find? fun d => !inside d.2 (c.off, c.len) || (r.kind == 1 && d.2.1 % 16 != 0)).map
            fun d => (n, d.1)

/-! ## Instructions -/

/-- The first instruction of any stream that a test refuses: logical tile, index. -/
def State.badInstr (s : State) (i : Image) (bad : BitVec 128 → Bool) : Option (Nat × Nat) :=
  firstBadAt (s.streams i) fun (t, _, ws) => (ws.findIdx? bad).map fun n => (t, n)

/-- INSTR: the form of the word but for RCLASS, and for RESCALE in a heritage image (R38, R39, R46, R47, R99). -/
def formBad (heritage : Bool) (w : BitVec 128) : Bool :=
  !instrForm (withoutRclass (if heritage then withoutRescale w else w))

/-- RCLASS: Table 3.4 for a conversion, the zero rule for every other instruction (R88, R192). -/
def rclassBad (heritage : Bool) (w : BitVec 128) : Bool :=
  if isConv w then fld w 97 96 != 0 || trafficOf w == 7 || (!heritage && !roundingOk (trafficOf w) (srOf w))
  else if isMma w then fld w 101 97 != 0 else fld w 101 96 != 0

def heritageBad (w : BitVec 128) : Bool :=
  if isMma w then !heritageOf w || rescaleOf w else isConv w && srOf w

/-- A descriptor of the RPOINT section: record index and bytes; units of zeros end a record (assumption 33). -/
def State.recordUnits (s : State) (i : Image) : List (Nat × List Byte) :=
  match sfind i.sects 7 with
  | none => []
  | some c => ((List.range c.count).map fun n => (n, s.peek (c.off + 64 * n) 64)).filter fun x => x.2.any (· != 0)

def sectDetail (i : Image) (kind : Nat) : Nat := match sfind i.sects kind with
  | some c => c.index + 0x10000
  | none => 0

/-- INSTR: every instruction, and the descriptors of recovery records (R65, R66). -/
def State.checkInstr (s : State) (i : Image) : Option (Nat × Nat) :=
  match s.badInstr i (formBad i.heritage) with
  | some x => some x
  | none => (s.recordUnits i).findSome? fun x => if (parseDesc x.2).isNone then some (sectDetail i 7, x.1) else none

/-- HERITAGE (R114). -/
def State.checkHeritage (s : State) (i : Image) : Option (Nat × Nat) :=
  if i.heritage then s.badInstr i heritageBad else none

/-- The device ranges that PAYLOAD records fill, with the address of their bytes (Table 5.4). -/
def State.payloads (s : State) (i : Image) : List (Nat × Nat × Nat) :=
  match sfind i.sects 0x10 with
  | none => []
  | some c => ((List.range c.count).foldl (fun (acc, a) _ =>
      let n := s.peekN (a + 8) 8
      (acc ++ [(s.peekN a 8, n, a + 16)], a + ceilDiv (16 + n) 256 * 256)) (([] : List (Nat × Nat × Nat)), c.off)).1

/-- Device addresses that an image may name: stack memory below the host region, window lines that it pins, and the attached
slow tier (R20, R152, R235). -/
def State.devOk (s : State) (i : Image) (a n : Nat) : Bool :=
  let last := a + max n 1 - 1
  if isStack a then last < s.hostBase
  else if isWindow a then isWindow last && i.pins.any fun p => p.window && p.base / 256 ≤ a / 256 && last / 256 < p.base / 256 + p.lines
  else s.slowPopulated a && s.slowPopulated last && slowPort a == slowPort last

/-- The addresses of a descriptor: device ranges, and scratch below 768 KiB (R40). -/
def State.descOk (s : State) (i : Image) (d : Desc) : Bool :=
  let side (e : Endpoint) (stride : Nat) : Bool :=
    let span := d.rows * stride + d.len
    if e.isDevice then s.devOk i e.low span else e.low + span ≤ scratchSize
  side d.src d.sstride && side d.dst d.dstride

/-- A PIN, PLACE or WSET record names addresses and positions that exist (R251). -/
def State.shadeRecOk (s : State) (i : Image) (a : Nat) : Bool :=
  let s' := { s with map := s.mapNext }
  let die := s.peekN (a + 1) 1 % 2
  let first := s.peekN (a + 4) 2 % 2048
  let base := s.peekN (a + 8) 6
  let n := 256 * s.peekN (a + 0x10) 4
  let at' (d p : Nat) : Bool := (s'.sliceAt d p).isSome
  match s.peekN a 1 with
  | 1 => base % 256 == 0 && (if die == 1 then isStack base && base + n ≤ s.hostBase
      else isWindow base && s.devOk i base n &&
        (rangeFrom (base / 256) (n / 256)).all fun l => at' (windowHome l).die (windowHome l).pos)
  | 2 => (rangeFrom first (s.peekN (a + 6) 2 % 2048 + 1)).all (at' die) && base % 65536 == 0 && isStack base && base + n ≤ s.hostBase
  | 3 => at' die first
  | _ => true

/-- ADDRESS: scratch ranges (R40) and recovery records of instructions; descriptors of recovery records; the PIN, PLACE and
WSET records (R251); the destinations of PAYLOAD. -/
def State.checkAddress (s : State) (i : Image) : Option (Nat × Nat) :=
  let bad (w : BitVec 128) : Bool := (instrScratch w).any (fun r => r.1 + r.2 > scratchSize) ||
    (opcodeOf w == 2 && fld w 47 0 != 0 && !s.devOk i (fld w 47 0) 64)
  match s.badInstr i bad with
  | some x => some x
  | none => match (s.recordUnits i).findSome? fun x => match parseDesc x.2 with
      | some d => if s.descOk i d then none else some (sectDetail i 7, x.1)
      | none => none with
    | some x => some x
    | none => match (indexed (s.payloads i)).find? fun x => !s.devOk i x.2.1 x.2.2.1 with
      | some x => some (sectDetail i 0x10, x.1)
      | none => match sfind i.sects 9 with
        | none => none
        | some c => ((List.range c.count).find? fun n => !s.shadeRecOk i (c.off + 32 * n)).map fun n => (sectDetail i 9, n)

/-! ## Time -/

/-- f_chk of a logical tile at the site that will carry it (R150). -/
def State.fChk (s : State) (t : Nat) : Nat :=
  match ({ s with map := s.mapNext } : State).siteOf t with
  | some site => s.freqMax site - 100
  | none => 0

def State.checkFreq (s : State) (i : Image) : Option (Nat × Nat) :=
  firstBadAt (s.streams i) fun (t, _, _) => if s.fChk t < 400 then some (t, s.fChk t) else none

/-- One timed group: TIMING index, instructions, NB, WORK, END, and the NB of the next group of its frame (R145). -/
structure TGroup where
  index : Nat
  ws    : List (BitVec 128)
  nb    : Nat
  work  : Nat
  end_  : Nat
  next  : Option Nat
deriving DecidableEq, Repr

/-- The instructions of a group from its first: up to the next NB or FRAME (R145). -/
def groupFrom (ws : List (BitVec 128)) (first : Nat) : List (BitVec 128) :=
  match ws.drop first with
  | [] => []
  | w :: rest => w :: rest.takeWhile fun x => nbOf x == 0xFFFFFFFF && opcodeOf x != 1

def State.groups (s : State) (i : Image) (r : StreamRec) (ws : List (BitVec 128)) : List TGroup :=
  match sfind i.sects 2 with
  | none => []
  | some c =>
    let fs := s.streamFrames r
    let first (k : Nat) : Nat := s.peekN (c.off + 16 * k) 4
    (rangeFrom r.timed r.ntimed).map fun k =>
      let a := c.off + 16 * k
      let last := k + 1 ≥ r.timed + r.ntimed || fs.getD (first k) 0 != fs.getD (first (k + 1)) 0
      { index := k, ws := groupFrom ws (first k), nb := s.peekN (a + 4) 4, work := s.peekN (a + 8) 4
        end_ := s.peekN (a + 12) 4, next := if last then none else some (s.peekN (a + 20) 4) }

/-- TIME_DECL: a group without its record (R145), and R151 items 1 and 3. -/
def State.checkDecl (s : State) (i : Image) : Option (Nat × Nat) :=
  firstBadAt (s.streams i) fun (t, r, ws) => match s.groupBad i r ws with
    | some k => some (t, k)
    | none => ((s.groups i r ws).find? fun g => g.ws.isEmpty || g.work < fixedCost g.ws || (match g.next with
      | some nb => g.end_ > nb
      | none => false)).map fun g => (t, g.index)

/-- TILE_TIME (R151 items 2 and 4). -/
def State.checkTime (s : State) (i : Image) : Option (Nat × Nat) :=
  firstBadAt (s.streams i) fun (t, r, ws) =>
    ((s.groups i r ws).find? fun g => g.nb + ceilDiv (g.work * 200) (s.fChk t) > g.end_ ||
      (g.next.isNone && g.end_ > 4096 - i.slack)).map fun g => (t, g.index)

/-- RBASE: the counts of SR = 1 conversions (R146). -/
def State.checkRbase (s : State) (i : Image) : Option (Nat × Nat) :=
  firstBadAt (s.streams i) fun (t, r, ws) =>
    let n (l : List (BitVec 128)) : Nat := l.countP fun w => isConv w && srOf w
    let rb := s.rbaseRec i t
    if rb.2.1 != n (ws.take r.proLen) then some (t, n (ws.take r.proLen))
    else if rb.2.2 != n (ws.drop r.proLen) then some (t, n (ws.drop r.proLen)) else none

/-! ## Slots (R327) -/

def State.checkSlots (s : State) (i : Image) : Option (Nat × Nat) :=
  match sfind i.sects 8 with
  | none => none
  | some c =>
    let cyc := s.peekN c.off 2 % 512
    let ent := i.base + s.peekN (c.off + 0x10) 8
    let pool (p q : Nat) : Nat := s.peekN (i.base + s.peekN (c.off + 0x18) 8 + 2 * (64 * p + q)) 2 % 2 ^ 14
    let slot (p n : Nat) : Nat := s.peekN (ent + 4 * (p * cyc * 128 + n)) 4
    let budget (p q : Nat) : Nat := (List.range (cyc * 128)).foldl (fun a n =>
      let e := slot p n
      if bit e 6 && e % 64 == q then a + 64 * bits e 14 7 else a) 0
    let strs : List Nat := (List.range (s.peekN (c.off + 4) 4 % 2 ^ 17)).map fun n => i.base + s.peekN (c.off + 0x20) 8 + 16 * n
    let key (a : Nat) : Nat × Nat × Nat :=
      let w := s.peekN a 4
      let y := s.peekN (a + 4) 4
      match w % 4 with
      | 0 => (0, bits w 30 18, y % 2 ^ 25)
      | 1 => (1, bits w 17 2, 0)
      | k => (k, y % 65536, 0)
    let colls := s.peekN (c.off + 8) 2
    let collLen (n : Nat) : Nat := s.peekN (i.base + s.peekN (c.off + 0x28) 8 + 48 * n + 0x20) 4
    let out (a : Nat) : Nat × Nat := (bits (s.peekN (a + 8) 4) 4 1, bits (s.peekN (a + 8) 4) 10 5)
    let deliver (a : Nat) : Bool := bit (s.peekN (a + 8) 4) 0
    if cyc == 0 || cyc > 256 || i.proFrames % cyc != 0 || i.bodyFrames % cyc != 0 then some (0, 0)
    else match firstBadAt (List.range 16) (fun p =>
        if (List.range 64).foldl (fun a q => a + pool p q) 0 > 10240 then some (p, 0)
        else ((List.range (cyc * 128)).find? fun n =>
          let e := slot p n
          bits e 14 7 > 192 || (bit e 6 && pool p (e % 64) == 0)).map fun n => (p, n)) with
      | some x => some x
      | none => match (List.range colls).find? fun n => !strs.any fun a => key a == (2, n, 0) with
      | some n => some (17, n)
      | none => firstBadAt (indexed strs) fun (n, a) =>
          let (p, q) := out a
          let load := (strs.filter fun b => out b == (p, q) && !deliver b).foldl (fun m b => m + s.peekN (b + 12) 4) 0
          if (strs.take n).any (fun b => key b == key a) || (!deliver a && (s.portUnused p || load > budget p q)) ||
              s.peekN a 4 % 4 == 3 || (s.peekN a 4 % 4 == 2 &&
                (s.peekN (a + 4) 4 ≥ colls || s.peekN (a + 12) 4 != collLen (s.peekN (a + 4) 4))) then some (16, n)
          else none

/-! ## Pins, working sets, residency, power -/

/-- Lines counted against the limits of R252: the image's pins, the window lines that the active image declares, and those
held at the time of the check (R253); each with its home slice and set. -/
def State.pinHomes (s : State) (i : Image) : List (Nat × Nat) :=
  let s' : State := { s with map := s.mapNext }
  let linesOfPin (p : Pin) : List Nat := rangeFrom (p.base / 256) p.lines
  let own := i.pins.foldl (fun acc p => acc ++ linesOfPin p) []
  let act := match s.adm.active with
    | some o => (o.pins.foldl (fun acc p => acc ++ linesOfPin p) []).filter isWindowLine
    | none => []
  let held := s.slices.foldl (fun acc e => acc ++ (e.2.lines.map (·.line)).filter isWindowLine) []
  ((own ++ act ++ held).foldl (fun l n => insNat n l) []).filterMap fun l =>
    let h := if isWindowLine l then windowHome l else Machine.stackHome i.places l
    (s'.sliceAt h.die h.pos).map fun k => (k, h.set)

/-- PIN_CAP (R252). -/
def State.checkPins (s : State) (i : Image) : Option (Nat × Nat) :=
  let hs := s.pinHomes i
  firstBadAt hs fun (k, set) =>
    let n := hs.countP (·.1 == k)
    if n > 4608 then some (slicePage k, n)
    else if hs.countP (· == (k, set)) > 12 then some (slicePage k, set + 0x10000) else none

/-- Declared working sets: slice, lines (Table 8.5); several records of a slice add up (assumption 77). -/
def State.wsets (s : State) (i : Image) : List (Nat × Nat) :=
  ({ s with map := s.mapNext } : State).wsetsNow i

/-- WORKING_SET: declared lines against 6,144 less the pinned ones. -/
def State.checkWset (s : State) (i : Image) : Option (Nat × Nat) :=
  let hs := s.pinHomes i
  let ws := s.wsets i
  firstBadAt ws fun (k, _) =>
    let n := ((ws.filter (·.1 == k)).map (·.2)).foldl (· + ·) 0
    if n + hs.countP (·.1 == k) > 6144 then some (slicePage k, n) else none

/-- Both copies of every pair region. -/
def Image.pairRanges (i : Image) : List (Nat × Nat) :=
  i.pairs.foldl (fun acc p => acc ++ [(p.base0, p.len), (p.base1, p.len)]) []

def Image.specRange (i : Image) : Nat × Nat := (i.specBase, if i.specN == 0 then 0 else 256 + 128 * i.specN)

/-- RESIDENCY (R284, R286): the record that breaks it. -/
def State.checkResidency (s : State) (i : Image) : Option (Nat × Nat) :=
  match sfind i.sects 9 with
  | none => none
  | some c =>
    let n := s.blockCount i
    let vs := s.visits i
    let regions := s.visitRegions i
    let memOk (a n : Nat) : Bool := decide (a + max n 1 ≤ s.hostBase) &&
      !overlaps [(a, n)] (i.pairRanges ++ [(i.base, i.len), i.specRange]) &&
      regions.countP (fun r => overlap (a, max n 1) (r.1, max r.2 1)) == 1
    if n > 262144 then some (0, 0)
    else firstBadAt (List.range c.count) fun k =>
      let a := c.off + 32 * k
      let b := s.peekN (a + 4) 4 % 2 ^ 18
      let bad := match s.peekN a 1 with
        | 1 => false
        | 2 => false
        | 3 => false
        | 4 =>
          let init := s.peekN (a + 1) 1 % 4
          let pinned (r : Nat × Nat) : Bool := (linesOf r.1 r.2).all fun l =>
            i.pins.any fun p => p.base / 256 ≤ l && l < p.base / 256 + p.lines
          b ≥ n || init == 3 ||
            ((s.resRecs i 4).filter fun x => s.peekN (x + 4) 4 % 2 ^ 18 == b).length > 1 ||
            (init == 0 && !(s.stackHome i b).all pinned) ||
            !((s.slowHome i b).all fun r => s.slowPopulated r.1 && s.slowPopulated (r.1 + r.2 - 1) &&
                i.pairRanges.any (inside r)) ||
            (init == 2 && !(vs.any (·.block == b))) ||
            (i.continues && (match s.adm.active with
              | some o => s.homeRec o b != s.homeRec i b
              | none => false))
        | 5 => b ≥ n || (s.homeRec i b).1 != 2 || !memOk (s.peekN (a + 16) 6) (s.holdLen i b) ||
            !memOk (s.peekN (a + 24) 6) (s.holdLen i b)
        | _ => true
      if bad then some (k, 0) else none

/-- POWER: the phase (R395). -/
def State.checkPower (s : State) (i : Image) : Option (Nat × Nat) :=
  let n := s.phaseCount i
  let frames := i.proFrames + i.bodyFrames
  let (off, len) := powSect i
  if n == 0 || n > 256 || 16 + ceilDiv frames 16 * 16 + 16 * n > len then some (0, 0)
  else match (List.range frames).find? fun j => s.peekN (off + 16 + j) 1 ≥ n with
    | some j => some (s.peekN (off + 16 + j) 1, 0)
    | none => firstBadAt (List.range n) fun ph =>
        let w := s.planW i ph
        let f := s.fStart i ph
        if w > s.rdN powPage 0x100 || f % 25 != 0 || f < 400 || f > 2400 then some (ph, w) else none

/-! ## Step structure and Mirror -/

/-- Tier of a range: 0 stack, 1 window, 2 slow tier. -/
def tierOf (a n : Nat) : Option Nat :=
  if isStack a && a + n ≤ 0x10000000000 then some 0
  else if isWindow a && a + n ≤ windowBase + windowLen then some 1
  else if isSlow a && a + n ≤ 0x100000000000 then some 2 else none

/-- Regions of a body: (region of each instruction), none outside; a breach of the form answers none (R206). -/
def regionsOf (ws : List (BitVec 128)) : Option (List (Option Nat)) :=
  (ws.foldl (fun (acc : Option (List (Option Nat) × Option Nat × List Nat)) w =>
    match acc with
    | none => none
    | some (l, cur, used) =>
      let r := fld w 15 0
      if opcodeOf w == 0x60 then
        if cur.isSome || used.contains r then none else some (l ++ [some r], some r, r :: used)
      else if opcodeOf w == 0x61 then
        if cur == some r then some (l ++ [some r], none, used) else none
      else some (l ++ [cur], cur, used)) (some ([], none, []))).bind fun x => if x.2.1.isNone then some x.1 else none

/-- What no region contains, as far as the instruction alone shows it (R206, R333). -/
def notInRegion (w : BitVec 128) : Bool :=
  opcodeOf w == 0x50 || opcodeOf w == 2 || (isConv w && srOf w) || (opcodeOf w == 4 && fld w 63 62 == 3)

/-- A tile's stream keeps R206, and its re-entry block holds its regions' instructions (R222). -/
def State.tileStepOk (s : State) (i : Image) (t : Nat) (r : StreamRec) (ws : List (BitVec 128)) : Bool :=
  let body := ws.drop r.proLen
  let x := s.stepTile i t
  match regionsOf body with
  | none => false
  | some rs =>
    let pairs := body.zip rs
    let inner := (pairs.filter fun y => y.2.isSome && opcodeOf y.1 != 0x60 && opcodeOf y.1 != 0x61).map (·.1)
    let re := (List.range x.reLen).map fun n => BitVec.ofNat 128 (s.peekN (x.reentry + 16 * n) 16)
    pairs.all (fun y => y.2.isNone || !notInRegion y.1) &&
      ((indexed rs).all fun y => y.1 ≤ x.lastNs || y.2.isSome) && x.lastNs < r.bodyLen &&
      (match rs[x.lastNs]? with
        | some none => true
        | _ => false) && re == inner && x.scalars % 4 == 0 && x.scalars + 64 ≤ scratchSize

/-- A visit ends before LAST_NS of no tile, though some tile must perform it: its block (R218). Which tile performs it is in
descriptors (assumption 46). -/
def State.visitBad (s : State) (i : Image) : Option Nat :=
  let ends := (s.streams i).map fun (t, r, _) =>
    (s.streamFrames r).getD (r.proLen + (s.stepTile i t).lastNs) 0
  ((s.visits i).find? fun v => ends.all fun e => e ≤ i.proFrames + v.last).map (·.block)

def State.checkStep (s : State) (i : Image) : Option (Nat × Nat) :=
  let a := stepRec i
  let lo := s.lsMin i
  let hi := s.lsMax i
  let ls := signedOf 8 (s.peekN (a + 8) 1)
  let g := s.fpGroup i
  let ms := unitModules i.units (i.units.length + 1) g
  let me := (match s.ray.staged.orElse (fun _ => s.ray.map) with
    | some l => l.findIdx? (· == s.phys)
    | none => none).getD 0
  let fpLen := if g == 0 then 16 * s.fpBlocks i else (16 + 8 * ms.length) * s.fpBlocks i
  let recordOk := -126 ≤ lo && lo ≤ ls && ls ≤ hi && hi ≤ 126 && s.growth i ≥ 1 && i.pairs.length ≤ 64 &&
    s.fpTable i % 256 == 0 && s.fpTable i + fpLen ≤ s.hostBase &&
    (g == 0 || (g ≥ 2048 && 2 ≤ ms.length && ms.length ≤ 8 && ms.contains me))
  let pairBad (n : Nat) (p : Pair) : Bool :=
    let mine := [(p.base0, p.len), (p.base1, p.len)]
    let others := (i.pairs.take n).foldl (fun acc q => acc ++ [(q.base0, q.len), (q.base1, q.len)]) [(i.base, i.len), i.specRange]
    p.base0 % 4096 != 0 || p.base1 % 4096 != 0 || p.len == 0 || (tierOf p.base0 p.len).isNone ||
      tierOf p.base0 p.len != tierOf p.base1 p.len || overlap (p.base0, p.len) (p.base1, p.len) || overlaps mine others
  if !recordOk then some (0, 0)
  else match (indexed i.pairs).find? fun x => pairBad x.1 x.2 with
    | some x => some (1 + x.1, 0)
    | none => match (s.streams i).find? fun (t, r, ws) => !s.tileStepOk i t r ws with
      | some x => some (0x10000 + x.1, 0)
      | none => match (List.range (s.blockCount i)).find? fun n =>
          (s.blockRanges i n).any fun r => !(i.pairs.any fun p => inside r (p.base0, p.len)) with
        | some n => some (0x20000 + n, 0)
        | none => (s.visitBad i).map fun n => (0x20000 + n, 0)

/-- Unused fields of a microinstruction are zero, and its opcode exists (R195). -/
def microOk (m : Word) : Bool :=
  let x := m.toNat
  let only (mask : Nat) : Bool := x &&& (2 ^ 26 - 1 - mask) == 0
  let d := maskOf [(25, 22)]
  let a := maskOf [(21, 17)]
  let b := maskOf [(16, 12)]
  let c := maskOf [(11, 7)]
  match uOp m with
  | 0x00 => only 0
  | 0x01 => only (d ||| 7)
  | 0x02 => only (a ||| 7)
  | 0x03 => only (d ||| a)
  | 0x09 => only (d ||| a)
  | 0x0C => only (d ||| a)
  | 0x04 => only (d ||| a ||| b ||| c)
  | 0x0D => only (d ||| a ||| b ||| c)
  | 0x10 => only a
  | 0x3F => only 0
  | n => (5 ≤ n && n ≤ 0xF) && only (d ||| a ||| b)

/-- MIRROR: the programs of the table, those whose entry is not zero or that an instruction names (R220, R222; assumption 47). -/
def State.checkMirror (s : State) (i : Image) : Option (Nat × Nat) :=
  let all := (s.streams i).foldl (fun acc x => acc ++ x.2.2) []
  let used := (List.range 32).filter fun n =>
    i.progs.getD n (0, 0) != (0, 0) || all.any fun w => opcodeOf w == 0x50 && fld w 49 45 == n
  firstBadAt used fun n =>
    match i.progs[n]? with
    | none => some (n, 0)
    | some (st, l) =>
      let ms := (i.store.drop st).take (l + 1)
      if st + l + 1 > 256 then some (n, 0)
      else if used.any fun k => k < n && (match i.progs[k]? with
          | some (s2, l2) => overlap (st, l + 1) (s2, l2 + 1)
          | none => false) then some (n, 0)
      else match ms.findIdx? fun m => !microOk m with
        | some k => some (n, k)
        | none => if ms.any fun m => uOp m == 0x3F then none else some (n, l)

/-! ## Compound units (R161) -/

/-- Numbers of units reached from one, for the cycle test. -/
def unitReach (units : List CUnit) (kind : Nat) : Nat → List Nat → List Nat
  | 0, l => l
  | fuel + 1, l => unitReach units kind fuel (units.foldl (fun acc u =>
      if acc.contains u.unit then (u.members.filter (·.1 == kind)).foldl (fun a m => insNat m.2 a) acc else acc) l)

def State.checkCompound (s : State) (i : Image) : Option (Nat × Nat) :=
  let _ := s
  let defined (u : Nat) : Bool := u == 0 || i.units.any (·.unit == u)
  let nloc := match sfind i.sects 0xA with
    | some c => c.count
    | none => 0
  firstBadAt (indexed i.units) fun (n, u) =>
    let isLocal := decide (n < nloc)
    let kind := if isLocal then 1 else 3
    if u.unit == 0 || (i.units.take n).any (·.unit == u.unit) || isLocal != decide (u.unit < 2048) || u.members.isEmpty then
      some (u.unit, 0)
    else match (indexed u.members).find? fun (_, k, m) =>
        (isLocal != decide (k < 2)) || (k == 0 && m > 1023) || (k == 1 && (!defined m || m ≥ 2048)) ||
          (k == 2 && m ≥ i.modules) || (k == 3 && (!defined m || m < 2048)) with
      | some x => some (u.unit, x.1)
      | none =>
        let next := (u.members.filter (·.1 == kind)).map (·.2)
        if (unitReach i.units kind i.units.length next).contains u.unit then some (u.unit, 0) else none

/-! ## The rest -/

/-- SPECTRUM: alignment, place, overlaps. -/
def State.checkSpectrum (s : State) (i : Image) : Option (Nat × Nat) :=
  let r := i.specRange
  let others := [(i.base, i.len)] ++ (s.payloads i).map (fun p => (p.1, p.2.1)) ++
    s.visitRegions i
  if i.specN > 2 ^ 20 || i.specBase % 256 != 0 || r.1 + r.2 > s.hostBase || overlaps [r] others then some (0, 0) else none

/-- SWITCH_POINT: FIRST_FRAME after the first body frame and LAST_FRAME before the last. -/
def State.checkSwitch (s : State) (i : Image) : Option (Nat × Nat) :=
  match sfind i.sects 5 with
  | none => none
  | some c => firstBadAt (List.range c.count) fun n =>
      let a := c.off + 32 * n
      if s.peekN (a + 1) 1 / 4 % 4 == 1 then none
      else if s.peekN (a + 0x10) 2 == 0 || s.peekN (a + 0x12) 2 + 1 ≥ i.bodyFrames then some (n, 0) else none

/-- NUMERICS (R153). -/
def State.checkNumerics (s : State) (i : Image) : Option (Nat × Nat) :=
  match s.adm.active with
  | some o => if i.continues && (o.numerics != i.numerics || o.seed != i.seed) then some (0, 0) else none
  | none => none

/-- The check of the image at a base: the first failure in ascending order of reason code (assumption 48), where the form,
the place in memory and the digest come first. -/
def State.checkImage (s : State) (b : Nat) : Option (Nat × Nat × Nat) :=
  let len := s.peekN (b + 8) 8
  let tag (c : Nat) (r : Option (Nat × Nat)) : Option (Nat × Nat × Nat) := r.map fun x => (c, x.1, x.2)
  if s.inHostRegion b then some (0x1E, 0, 0)
  else match tag 1 (s.checkHeader b) with
    | some x => some x
    | none =>
      if b + len > s.hostBase then some (0x1E, 0, 0)
      else if !s.checkDigest b then some (2, 0, 0)
      else
        let i := s.readImage b
        match tag 3 (s.checkSections i) with
        | some x => some x
        | none =>
          let rest : List (Nat × (Unit → Option (Nat × Nat))) :=
            [(4, fun _ => s.checkInstr i), (5, fun _ => s.badInstr i (rclassBad i.heritage)),
             (6, fun _ => s.checkHeritage i), (7, fun _ => s.checkAddress i), (8, fun _ => s.checkFreq i),
             (9, fun _ => s.checkDecl i), (10, fun _ => s.checkTime i), (11, fun _ => s.checkRbase i),
             (0xC, fun _ => s.checkBuffer i), (0xE, fun _ => s.checkRpoint i), (0xF, fun _ => s.checkAccIndex i),
             (0x10, fun _ => s.checkReduce i),
             (0x12, fun _ => s.checkSlots i), (0x13, fun _ => s.checkPins i), (0x14, fun _ => s.checkWset i),
             (0x15, fun _ => s.checkResidency i), (0x16, fun _ => s.checkPower i), (0x17, fun _ => s.checkStep i),
             (0x18, fun _ => s.checkMirror i), (0x19, fun _ => s.checkCompound i), (0x1A, fun _ => s.checkSpectrum i),
             (0x1B, fun _ => if sha256 (mapBytes s.mapNext) == i.placement then none else some (0, 0)),
             (0x1C, fun _ => s.checkSwitch i), (0x1D, fun _ => s.checkNumerics i)]
          rest.findSome? fun x => tag x.1 (x.2 ())

/-- Reasons with a check that follows descriptors, messages and task records through scratch: CHECK_DONE says what it found
(assumption 46). -/
def flowReasons : List Nat := [4, 6, 7, 9, 0xC, 0xD, 0xE, 0x10, 0x11, 0x12, 0x15, 0x17, 0x18]

end Sys2Proof.Machine
end

