-- ==== Sys2Proof/Machine/Eclipse.lean ====
section
/-!
DEFINITION. The snapshot region and its snapshots (R423 to R425, R429), orders of holds (R420, R422), parks (R427), READY
(R428) and the end of a job (R158, R431). Boundary, restore and drains are in Sys2Proof/Machine/Holds.lean.
-/
namespace Sys2Proof.Machine

def State.modPen (s : State) (f : Pen → Pen) : State := { s with pen := f s.pen }

/-- HOLD_STATE: 0 NONE, 1 ORDERED, 2 HOLDING, 3 PARKED, 4 RESTORING. -/
def State.holdState (s : State) : Nat := s.field penPage offStatus 2 0
def State.setHold (s : State) (v : Nat) : State := s.setField penPage offStatus 2 0 v

/-! ## Module maps -/

/-- The encoding of a module map (R310). -/
def modmapBytes (l : List Nat) : List Byte :=
  natLe 4 0x504D335A ++ natLe 4 l.length ++ natLe 8 0 ++ l.foldr (fun x acc => natLe 2 x ++ acc) []

/-- The module map that an activation would put in force. -/
def State.mapComing (s : State) : Option (List Nat) := s.ray.staged.orElse fun _ => s.ray.map

/-- This module's logical number under that map. -/
def State.logicalComing (s : State) : Option Nat := s.mapComing.bind fun l => l.findIdx? (· == s.phys)

/-! ## The snapshot region (R423, R424) -/

def State.snapBase (s : State) : Nat := s.field penPage 0x118 31 12 * 4096 + s.field penPage 0x11C 15 0 * 2 ^ 32
def State.snapSlot (s : State) : Nat := s.field penPage 0x120 23 0 * 2 ^ 20

/-- Start of slot n: own slots 0 and 1, partner slots 2 and 3. -/
def State.slotAddr (s : State) (n : Nat) : Nat := s.snapBase + n * s.snapSlot

/-- The body of a snapshot of a step, in order: address, bytes, and whether the bytes lie in the slow tier. -/
def State.snapBody (s : State) (i : Image) (step : Nat) : List (Nat × Nat × Bool) :=
  let blocks := (List.range (s.blockCount i)).foldl (fun acc n =>
    let slow := (s.resEnt n).tier == 2
    let d := if slow then (s.homeRec i n).2 else 0
    acc ++ (s.blockRanges i n).map fun r => (Machine.translate i.pairs step (((r.1 : Int) + d).toNat), r.2, slow)) []
  blocks ++ (s.visits i).map fun v => (v.hold, s.holdLen i v.block, false)

/-- S: bytes of a body. -/
def bodyBytes (l : List (Nat × Nat × Bool)) : Nat := l.foldl (fun a r => a + r.2.1) 0

/-- The region obeys R423 and holds a snapshot of the image. -/
def State.snapRegionOk (s : State) (i : Image) : Bool :=
  let r := (s.snapBase, 4 * s.snapSlot)
  r.1 + r.2 ≤ s.hostBase && !overlaps [r] ([(i.base, i.len), i.specRange] ++ i.pairRanges ++ s.visitRegions i) &&
    256 + bodyBytes (s.snapBody i s.steps.step) ≤ s.snapSlot

def State.stride (s : State) : Nat := s.field penPage 0x13C 14 0

/-- The check at each activation (R423, R426). -/
def State.snapCheck (s : State) (i : Image) : State :=
  let ok := s.snapRegionOk i
  let s := s.wr64 penPage 0x124 (bodyBytes (s.snapBody i s.steps.step))
  let s := s.modPen fun p => { p with snapOk := ok }
  if !ok || s.stride % max i.modules 1 == 0 then s.raise penPage 5 else s

/-! ## Headers (Table 13.8) -/

/-- C(S) of the data intake (R373, R374); 0 without a plan. -/
def State.cursorNow (s : State) : Nat := match s.host.intake.plan with
  | some p => p.curBase + (s.steps.step - p.stepBase) * p.nrec
  | none => 0

/-- Spectrum EPOCH of the table in memory (Table 4.3). -/
def State.specEpoch (s : State) (i : Image) : Nat := if i.specN == 0 then 0 else s.peekN (i.specBase + 8) 2

/-- The header of a snapshot, without DIGEST and COMPLETE. -/
def State.snapHeader (s : State) (i : Image) (bytes : Nat) : List Byte :=
  natLe 4 0x504E535A ++ natLe 4 1 ++ natLe 8 (s.steps.step % 2 ^ 48) ++ natLe 8 i.id ++ natLe 8 i.numerics ++
    natLe 8 i.seed ++ natLe 8 (fieldOf 8 s.steps.ls + s.steps.run % 2 ^ 16 * 2 ^ 8) ++ natLe 8 s.cursorNow ++
    natLe 8 s.gn.count ++ natLe 8 (s.pen.fh.getD 0 % 2 ^ 40) ++
    natLe 8 (s.logical.getD 0 % 2 ^ 15 + s.phys % 2 ^ 15 * 2 ^ 16) ++ natLe 8 bytes ++ natLe 4 s.pen.ordNo ++
    natLe 4 (s.specEpoch i) ++ List.replicate 32 0 ++ sha256 (modmapBytes (s.ray.map.getD [])) ++ List.replicate 96 0

/-- What a header of a COMPLETE snapshot of a logical module names: step and body length. -/
def headOf (logical : Nat) (h : List Byte) : Option (Nat × Nat) :=
  if fieldAt h 0 4 == 0x504E535A && fieldAt h 4 2 == 1 && bit (fieldAt h 0xA0 1) 0 && fieldAt h 0x48 2 % 2 ^ 15 == logical then
    some (fieldAt h 8 6, fieldAt h 0x50 8)
  else none

/-- COMPLETE snapshots in the own slots. -/
def State.ownCands (s : State) : List Cand := match s.logicalComing with
  | none => []
  | some m => [0, 1].filterMap fun n =>
      (headOf m (s.peek (s.slotAddr n) 256)).map fun x => { step := x.1, bytes := x.2, place := n }

/-- Every restorable snapshot, in order of preference (R429). -/
def State.allCands (s : State) : List Cand := s.ownCands ++ s.pen.cands

/-- The newest, the preferred place among equals. -/
def newest (l : List Cand) : Option Cand := l.foldl (fun b c => match b with
  | none => some c
  | some x => if c.step > x.step then some c else some x) none

/-- Planned time of a copy in µs (R422, R429). -/
def Cand.us (c : Cand) : Nat := if c.place < 2 then c.bytes / 6400000 else c.bytes / 150000

/-- T_US of this module's snapshot (R425): it does no hold work beyond Table 13.7. -/
def State.snapUs (s : State) : Nat := match s.adm.active with
  | some i => if s.pen.snapOk then bodyBytes ((s.snapBody i s.steps.step).filter (!·.2.2)) / 6400000 else 0
  | none => 0

/-! ## Messages -/

/-- Merges REPORTs or READYs (R418). -/
def mergePen (a b : PenumbraMsg) : PenumbraMsg :=
  { a with cause := a.cause ||| b.cause, count := a.count + b.count, score := max a.score b.score
           deadSeen := a.deadSeen || b.deadSeen, fail := a.fail || b.fail, step := min a.step b.step, tUs := max a.tUs b.tUs }

/-- H(K) for the planned work T (R420): 4,096 × the least frames not shorter than 24.97 ms + T. -/
def gapLen (tUs : Nat) : Nat := 4096 * ceilDiv ((24970 + tUs) * 200) 4096

/-- H(K) that the master sets for frame K. -/
def State.gapFor (s : State) (k : Nat) : Nat :=
  if s.pen.fh == some (k + 1) && s.holdState != 0 then gapLen s.pen.planUs else 0

/-! ## The end of a job -/

/-- Counters and mailboxes found nonzero at a switch (R157, R438 kinds 3 and 4), then taken as zero for the prologue. -/
def State.zeroCounters (s : State) : State :=
  let left := s.tiles.foldl (fun n e => (e.2.cc ++ e.2.kc).foldl (fun n c => n + c.2.base + c.2.spec) n)
    (s.ray.ck.foldl (fun n c => n + c.2) (0 : Nat))
  let msgs := s.tiles.foldl (fun n e => e.2.mbox.foldl (fun n b => n + b.2.length) n) 0
  let s := if left != 0 then s.consFault 3 left else s
  let s := if msgs != 0 then s.consFault 4 msgs else s
  { s with ray := { s.ray with ck := [], collPos := [], collPass := 0, collAt := [] } }

/-- A tile at the start of a stream. -/
def Tile.atStart (x : Tile) : Tile :=
  { x with ldc := none, redo := none, lagTo := 0, sendBad := none, cc := [], kc := [], mbox := [], pos := 0, pass := 0, reentry := none, frame := none, reached := none, rbase := 0
           region := none, regioned := false, decided := false, waitVerdict := false, closed := false, late := false
           rpoint := none, icount := 0, started := [], taken := [], done := {}, skip := {}, replayTo := none, replayed := []
           perr := none, inbound := [], pf := [] }

/-- Counts that a tile keeps since image start (R74, Tables 7.11 and 9.7): LATE_COUNT, DISCARDS, MIRROR_GROUPS, GLINT_SENT
and GLINT_RECV. -/
def State.zeroCounts (s : State) : State :=
  s.forSites fun s t => [0x124, 0x294, 0x29C, 0x2CC, 0x2D0].foldl (fun s o => s.wrN t o 0) s

/-- The step of the speculative regions of the image in force: S + 1 before the verdict for S is applied, and the step in
progress after it, when all its tiles stand at the end of a pass (R207, R214). -/
def State.outTag (s : State) : Nat := if s.steps.phase == .exec then s.steps.step else s.steps.step + 1

/-- A switch or END discards the regions of the outgoing image (R214): their speculative effects, and the descriptors that
have not started. -/
def State.dropRegions (s : State) : State :=
  let tag := s.outTag
  let keep (x : Tile) : Tile :=
    let qs : Sparse (List Desc) := x.dmaq.map fun q => (q.1, q.2.filter (·.tag != tag))
    { x with dmaq := qs.filter fun q => !q.2.isEmpty }
  s.tiles.foldl (fun s e => s.modTile e.1 keep) (s.dropSpec tag)

/-- The job ends (R158). -/
def State.endJob (s : State) : State :=
  let s := s.dimEnd.settleMoves.zeroCounters
  let s := { s with adm := { s.adm with active := none, armedEnd := false, go := none, mustWait := false } }
  let s := s.modGn fun g => { g with running := false, frame := 0, start := 0, dec := none }
  let s := s.modFr fun f => { f with rep := (0, false), lateSeen := false, run := 0 }
  let s := s.tiles.foldl (fun s e => s.modTile e.1 (·.atStart)) s
  -- stack lines are no longer pinned, and the ways kept for absent ones are free (R253)
  let s := s.slices.foldl (fun s e => s.modSlice e.1 (·.unpin fun _ => false)) s
  (s.takeWsets []).raise admPage 3

/-- RESTORE_FAIL (R431). -/
def State.restoreFail (s : State) : State :=
  let s := (s.raise penPage 9).agRecord 0x2007 [4, s.pen.target % 2 ^ 32]
  let s := s.modPen fun p => { p with fh := none, restore := false, pick := none, buf := [], cands := [], ready := [],
                                      sought := false, failed := false, partner := none }
  (if s.adm.active.isSome then s.endJob else s).setHold 0

/-! ## Orders -/

/-- F_h of R420 item 1. -/
def State.chooseFh (s : State) (i : Image) : Nat :=
  let low := s.gn.frame + 4
  let first := s.adm.fa + i.proFrames
  let body := max i.bodyFrames 1
  let sw := s.adm.state == 4 && (s.ray.staged.isSome || (match s.spare.staged, s.adm.img with
    | some m, some j => sha256 (mapBytes m) == j.placement
    | _, _ => false))
  if sw then s.adm.swFrame else first + body * ceilDiv (low - first) body

/-- The order of a boundary hold takes effect in this module. -/
def State.takeHold (s : State) (fh no cause : Nat) : State :=
  (s.modPen fun p => { p with fh := some fh, ordNo := no, nextNo := no + 1, restore := false, causes := cause }).setHold 1

/-- The master orders a boundary hold, unless one is in progress. -/
def State.orderHold (s : State) (cause tUs : Nat) : State :=
  match s.adm.active with
  | none => s
  | some i =>
    if s.holdState != 0 || !s.gn.running then s
    else
      let fh := s.chooseFh i
      let no := s.pen.nextNo
      let s := s.penDown 0 { emptyPen with cause := cause % 256, frame := fh - 1, holdNo := no }
      let s := (s.modPen fun p => { p with planUs := tUs }).takeHold fh no cause
      s.jDecision 2 0 0xD3 (no % 2 ^ 30 * 4)

/-- MODMAP_DIGEST: of the staged module map, 0 without one. -/
def State.mapDigest (s : State) : List Byte := match s.ray.staged with
  | some l => sha256 (modmapBytes l)
  | none => List.replicate 32 0

/-- The digest of the staged module map equals the master's (R428; assumption 121). -/
def State.sameMap (s : State) : Bool := s.gn.master || s.mapDigest == Config.masterMapDigest s.pen.nextNo

/-- Answers of the partner or of storage to the search for snapshots are still awaited. -/
def State.seeking (s : State) : Bool :=
  s.ray.reqs.any (fun q => match q.want with
    | .partner _ => true
    | .head _ => true
    | _ => false) || s.host.qps.any fun q => q.2.ops.any fun o => o.hold.any (2 ^ 40 ≤ ·)

/-- Raises READY while parked (R428): the own report where the module holds a snapshot and the master's map, merged with the
children's. The master orders the restore hold at a COUNT of M, or ends the job on FAIL. -/
def State.tryReady (s : State) : State :=
  if s.holdState != 3 || s.pen.restore then s
  else
    let best := if s.seeking || !s.sameMap then none else newest s.allCands
    let lost := (newest s.allCands).isNone && s.logicalComing.isSome && s.pen.sought && !s.seeking
    let own : PenumbraMsg := match s.logicalComing, best with
      | some _, some c => { emptyPen with cause := 128, count := 1, step := c.step, tUs := c.us, fail := s.pen.failed }
      | _, _ => { emptyPen with cause := 128, step := 2 ^ 48 - 1, fail := s.pen.failed || lost }
    let m := s.pen.ready.foldl (fun a k => mergePen a k.2) own
    if !s.gn.master then (if m.count == 0 && !m.fail then s else s.penUp 2 m)
    else if m.fail then s.restoreFail
    else match s.mapComing with
      | none => s
      | some l =>
        if m.count != l.length || !s.gn.running then s
        else
          let k := s.gn.frame + 4
          let no := s.pen.nextNo
          let s := s.penDown 2 { emptyPen with cause := 128, step := m.step, frame := k, holdNo := no }
          let s := s.modPen fun p => { p with fh := some (k + 1), restore := true, target := m.step, planUs := m.tUs }
          s.jDecision 2 0 0xD3 (no % 2 ^ 30 * 4 + 2)

/-- A read of the restore engine has come in: a header of a storage slot, or a piece of the snapshot being restored. -/
def State.holdData (s : State) (key : Nat) (d : List PByte) : State :=
  if key < 2 ^ 40 then s.modPen fun p => { p with buf := sput p.buf key d }
  else match s.logicalComing.bind fun m => headOf m (d.map (·.val)) with
    | some x =>
      (s.modPen fun p => { p with cands := p.cands ++ [{ step := x.1, bytes := x.2, place := 4 + (key - 2 ^ 40) }] }).tryReady
    | none => s.tryReady

/-- The module parks (R427): issue stops, and queues, counters, messages and counts go. -/
def State.park (s : State) : State :=
  if s.holdState ≥ 3 then s
  else
    let s := s.tiles.foldl (fun s e => s.modTile e.1 fun x =>
      { x with dmaq := [], cc := [], kc := [], mbox := [], spectrum := [] }) s
    let s := { s with glints := [], ray := { s.ray with ck := [] } }
    let s := s.modPen fun p => { p with
      fh := none, restore := false, snap := none, cause := p.cause ||| 128, ready := [], cands := [], sought := false
      pick := none, buf := [], failed := false, partner := if p.draining.isSome then p.partner else none }
    (((s.setHold 3).raise penPage 6).agRecord 0x2007 [1]).tryReady

/-- The master orders a park of every module, and parks. -/
def State.orderPark (s : State) : State :=
  if s.holdState ≥ 3 then s
  else
    let s := s.penDown 1 { emptyPen with cause := 128 }
    (s.jDecision 2 0 0xD3 1).park

/-- Ports whose neighbour is DEAD and that no restore has dealt with. -/
def State.deadPorts (s : State) : List Nat :=
  (List.range 16).filter fun p => s.portFlag p pDead && !s.pen.served.contains p

/-- This module's REPORT (R418). -/
def State.ownReport (s : State) : PenumbraMsg :=
  { emptyPen with cause := s.pen.cause % 256, count := 1, score := s.field penPage 0x100 15 0, deadSeen := !s.deadPorts.isEmpty
                  fail := s.pen.failed, step := ((newest s.allCands).map (·.step)).getD 0, tUs := s.snapUs }

/-- The master acts on the merged report as it stands (R418, R420, R427, R431). -/
def State.masterAct (s : State) : State :=
  if !s.gn.master || !s.gn.running then s
  else
    let m := s.pen.kids.foldl (fun a k => mergePen a k.2) s.ownReport
    let free := match s.pen.lastEnd with
      | some f => f + s.rdN penPage 0x114 ≤ s.gn.frame
      | none => true
    let cause := m.cause ||| (if m.score ≥ s.field penPage 0x104 15 0 && free then 1 else 0)
    if m.fail && s.holdState ≥ 3 then s.restoreFail
    else if m.deadSeen || bit cause 7 then s.orderPark
    else if cause != 0 then s.orderHold cause m.tUs
    else s

end Sys2Proof.Machine
end

