-- ==== Sys2Proof/Machine/RayPort.lean ====
section
/-!
DEFINITION. Ray ports: acceptance by SEQ and XSEQ (R315, R330), credits and audits (R318 to R322), the transmit order
(R325), takeover, detour and DEAD neighbours (R335 to R337), training (R305, R311, R317), effects of frames (R313, R329,
R331, R332), collective records (R340).
-/
namespace Sys2Proof.Machine

/-! ## Pools and SYNC -/

/-- The pools whose allocation no image gives (Table 10.4). -/
def fixedPools : Sparse Nat := [(64, 512), (65, 512), (66, 256), (67, 256), (68, 256), (69, 256)]

/-- Allocation of a port's receive pools: the image's queues, and the fixed pools of Table 10.4. -/
def SlotHalf.allocOf (h : SlotHalf) (p : Nat) : Sparse Nat :=
  ((List.range 64).filterMap fun q => (sfind h.pools (p * 64 + q)).map fun n => (q, n)).filter (·.2 != 0) ++ fixedPools

def sumOf (m : Sparse Nat) : Nat := m.foldl (fun a x => a + x.2) 0

/-- The LINK frame of this module at a port (R311). -/
def State.linkMsg (s : State) (p : Nat) : LinkMsg :=
  { phys := s.phys, port := p, dims := s.rdN rayComPage 0x104, skip := s.rdN rayComPage 0x108, version := 1,
    lastSeq := (s.port p).rxSeq }

/-- The items of frames that were sent and not acknowledged. -/
def Port.unackedItems (x : Port) : List TxItem :=
  (x.unacked.filter fun f => f.pool < 70).map fun f => { frame := f, pool := f.pool : TxItem }

/-- What a port that is not UP leaves to be sent elsewhere, in order: its unacknowledged frames, those of its twin that it
was to send first, and its queue. -/
def Port.waitingItems (x : Port) : List TxItem := x.unackedItems ++ x.taken ++ x.txq.filter (·.pool < 70)

/-- A port with nothing left to send, and a fresh SEQ space (R335). -/
def Port.emptied (x : Port) : Port := { x with unacked := [], resend := [], taken := [], txq := [], txSeq := 0, rxSeq := 4095 }

/-- A port leaves UP: its twin, while UP, takes its unacknowledged frames first, and its queue (R335). The twin serves its own
entries again if the port had taken them over. -/
def State.leaveUp (s : State) (p : Nat) : State :=
  let x := s.port p
  match twinOf p with
  | none => s
  | some q =>
    if !s.portUp q then s
    else
      let s := s.modPort q fun y => { y with taken := y.taken ++ x.unackedItems ++ x.taken
                                             txq := y.txq ++ x.txq.filter (·.pool < 70) }
      let s := s.setPort p x.emptied
      let s := (s.setPortFlag q pTakenOver false).setPortFlag p pServing false
      let s := (s.setPortFlag p pTakenOver true).setPortFlag q pServing true
      (s.agRecord 0x200B [5, rayPage p]).raise (rayPage q) 7

/-- The port goes UP once both ends have granted (R322). -/
def State.tryUp (s : State) (p : Nat) : State :=
  let x := s.port p
  if !(x.granted && x.gotGrant) then s
  else
    let s := s.setPort p { x with needSync := false, granted := false, gotGrant := false, again := false }
    if s.portSt p != 5 then s
    else
      let s := (s.setPortSt p 3).setFlag (rayPage p) offControl 1 false
      let s := { s with ray := { s.ray with routes := if x.again then insNat p s.ray.routes else s.ray.routes } }
      let s := (portsOf (dirOf p)).foldl (fun s q => s.setPortFlag q pDetour false) s
      let same := (List.range 16).filter fun q => s.neighbour (dirOf q) == s.neighbour (dirOf p)
      let s := same.foldl (fun s q => s.setPortFlag q pDead false) s
      let s := (s.raise (rayPage p) 0).raiseIf x.again (rayPage p) 2
      -- a twin that left UP while this port was not UP is served from now on (R335)
      let s := match twinOf p with
        | some q => if s.portUp q || (s.port q).waitingItems.isEmpty then s else s.leaveUp q
        | none => s
      s.rerouteWaiting

/-- The receiver's part of SYNC: a grant of the allocation less what is occupied, for every pool; freed units count as
returned by it (R322). -/
def State.sendGrants (s : State) (p : Nat) : State :=
  let x := s.port p
  let g := (List.range 70).map fun q => sget 0 x.rxAlloc q - sget 0 x.occ q
  let s := s.say (.link p (s.linkMsg p) g)
  (s.setPort p { x with freed := [], granted := true }).tryUp p

/-- SYNC: performed once no frame that occupies units is left unacknowledged. -/
def execSync (p : Nat) (s : State) : Host.Outcome State Fault Refusal :=
  runPart (p < 16) s fun s =>
    let x := s.port p
    if (s.portSt p == 5 || (s.portUp p && x.needSync)) && !x.granted && x.resend.isEmpty &&
        x.unacked.all (fun f => f.pool ≥ 70) then s.sendGrants p
    else s

/-- SYNC is due at an UP port with new allocations (R322); a pool found occupied is a conservation fault of kind 8. -/
def State.beginSync (s : State) (p : Nat) (alloc : Sparse Nat) : State :=
  let x := s.port p
  let bad := x.occ.any fun o => o.1 < 64 && o.2 > 0
  let s := s.setPort p { x with rxAlloc := alloc, needSync := true, granted := false, gotGrant := false }
  if bad then (s.consFault 8 (sumOf x.occ)).raise rayComPage 3 else s

/-! ## Leaving UP (R335, R336) -/

/-- Both ports of the direction, or the one skip port, are DOWN. -/
def State.dirDown (s : State) (d : Nat) : Bool := (portsOf d).all fun p => s.portSt p == 0

/-- Frames of the direction of a lost port take the detour once no port serves it. -/
def State.beginDetour (s : State) (p : Nat) : State :=
  let d := dirOf p
  if !s.dirDown d || (portsOf d).any (fun p => s.portFlag p pDetour) then s
  else
    let items := (portsOf d).foldl (fun acc p => acc ++ (s.port p).waitingItems) []
    let s := (portsOf d).foldl (fun s p => ((s.setPortFlag p pDetour true).modPort p (·.emptied)).raise (rayPage p) 8) (s.agRecord 0x200B [5, rayPage p])
    items.foldl (fun s x => s.sendDetour d x) s

/-- Starts a retrain of an UP port (R317). -/
def State.retrainPort (s : State) (p : Nat) : State :=
  if !s.portUp p then s
  else
    let s := (((s.setPortSt p 4).bump64 (rayPage p) 0x78).penCount 3).modPort p fun x =>
      { x with again := true, granted := false, gotGrant := false, needSync := true }
    (s.setField (rayPage p) 0x104 7 4 0).leaveUp p

def execRetrain (p : Nat) (s : State) : Host.Outcome State Fault Refusal := runPart (p < 16) s (·.retrainPort p)

/-- Takes a port DOWN. -/
def State.portDown (s : State) (p : Nat) : State :=
  let was := s.portUp p
  let s := ((s.setPortSt p 0).setField (rayPage p) 0x104 7 4 0).modPort p fun x =>
    { x with again := false, granted := false, gotGrant := false }
  let s := if was then s.leaveUp p else s
  s.beginDetour p

/-- LINK_DOWN (R317): a port in training again was not UP within 100 ms. -/
def execLinkDown (p : Nat) (s : State) : Host.Outcome State Fault Refusal :=
  runPart (p < 16) s fun s =>
    let st := s.portSt p
    if st == 0 || st == 3 || st == 6 || !(s.port p).again then s else (s.portDown p).raise (rayPage p) 1

/-- A write to PORT_EN (Table 10.14). -/
def State.portEnable (s : State) (p : Nat) (v : Bool) : State :=
  if s.portUnused p then s
  else if v then (if s.portSt p == 0 then s.setPortSt p 1 else s)
  else s.portDown p

/-- PEER_DEAD (R337): a neighbour that answers on none of its ports. -/
def execPeerDead (p : Nat) (s : State) : Host.Outcome State Fault Refusal :=
  runPart (p < 16) s fun s =>
    let n := s.neighbour (dirOf p)
    let ports := (List.range 16).filter fun q => !s.portUnused q && s.neighbour (dirOf q) == n
    if ports.any s.portUp || s.portUnused p then s
    else
      let s := ports.foldl (fun s q => s.setPortFlag q pDead true) s
      let s := s.raise (rayPage p) 9
      -- unscheduled frames that wait at its ports are routed again: the neighbour's own are discarded
      let items := ports.foldl (fun acc q => acc ++ (s.port q).txq.filter fun x => 64 ≤ x.pool && x.pool < 70 && !x.frame.detour) []
      let s := ports.foldl (fun s q => s.modPort q fun x =>
        { x with txq := x.txq.filter fun y => !(64 ≤ y.pool && y.pool < 70 && !y.frame.detour) }) s
      items.foldl (fun s x => s.sendUnscheduled x.frame x.hold) s

/-! ## Training -/

/-- PCS_LOCK (R311): the handshake starts. Which PMD the link uses is not stated: a free value (assumption 49). -/
def execPcsLock (p : Nat) (s : State) : Host.Outcome State Fault Refusal :=
  runPart (p < 16) s fun s =>
    let st := s.portSt p
    if st != 1 && st != 4 then s
    else
      let r := s.free
      let s := r.2.wrN (rayPage p) 0x104 (1 + r.1.toNat % 2 + 0xF0)
      let s := s.setPortSt p 2
      s.say (.link p (s.linkMsg p) [])

/-- PARTNER_BAD (R305). -/
def execPartnerBad (p : Nat) (s : State) : Host.Outcome State Fault Refusal :=
  runPart (p < 16) s fun s =>
    if s.portSt p == 2 then (s.portDown p).raise (rayPage p) 6 else s

/-- Distance from `a` forward to `b` in SEQ numbers. -/
def seqDist (a b : Nat) : Nat := (b + 4096 - a % 4096) % 4096

/-- Drops the frames that an acknowledgement covers. -/
def Port.acked (x : Port) (ack : Nat) : Port :=
  { x with unacked := x.unacked.filter fun f => !(seqDist f.seq ack < 2048)
           resend := x.resend.filter fun f => !(seqDist f.seq ack < 2048) }

/-- The handshake of R311: the partner is the neighbour and the peer port that R306 expects. -/
def State.handshake (s : State) (p : Nat) (m : LinkMsg) : State :=
  let ok := s.formed && m.phys == s.neighbour (dirOf p) && m.port == peerPort p
  if !ok then (s.portDown p).raise (rayPage p) 5
  else
    let s := (s.setPortSt p 5).wrN (rayPage p) 0x100 (m.phys % 2 ^ 15 + m.port % 16 * 2 ^ 16 + 2 ^ 20)
    s.modPort p fun x =>
      let x := x.acked m.lastSeq
      let alloc := if x.rxAlloc.isEmpty then s.slotHalf.allocOf p else x.rxAlloc
      { x with resend := x.unacked, needSync := true, rxAlloc := alloc, ackDue := false, nakDue := false }

/-- LINK: a handshake, or the peer's grants, which become the credits held (R322). -/
def execLink (p : Nat) (m : LinkMsg) (grants : List Nat) (s : State) : Host.Outcome State Fault Refusal :=
  runPart (p < 16) s fun s =>
    if grants.isEmpty then (if s.portSt p == 2 then s.handshake p m else s)
    else if s.portSt p == 5 || (s.portUp p && (s.port p).needSync) then
      let x := s.port p
      let g : Sparse Nat := (List.range 70).zip grants |>.filter (·.2 != 0)
      let s := if x.again then s.wrN (rayPage p) 0x10C (fieldOf 32 ((sumOf x.credits : Int) - sumOf g)) else s
      let alloc := if x.again && !x.txAlloc.isEmpty then x.txAlloc else g.filter (·.1 < 64) ++ fixedPools
      (s.modPort p fun x => { x with credits := g, txAlloc := alloc, gotGrant := true }).tryUp p
    else s

/-! ## Acceptance (R315, R316, R319) -/

/-- A NAK: every frame after ACK is sent again, in order (R315). -/
def State.nakIn (s : State) (p : Nat) : State :=
  let x := s.port p
  if x.unacked.isEmpty then s else (s.setPort p { x with resend := x.unacked }).raise (rayPage p) 3

/-- A frame is sent again: a replay, which ERR_COUNT counts (R346); more than 64 within one schedule frame make a retrain
(R317). -/
def State.replayOut (s : State) (p : Nat) (f : RayFrame) : State :=
  let n := (s.port p).replays + 1
  let s := (((s.modPort p fun x => { x with replays := n }).bump64 (rayPage p) 0x70).bumpSat (rayPage p) offErrCount)
  let s := ((s.bump64 (rayPage p) 0x40).bump64 (rayPage p) 0x50 (wireBytes f)).say (.frame p f (frameCrc f))
  if n > 64 then s.retrainPort p else s

/-- Takes a frame with a good CRC: its ACK and NAK, its SEQ, its credit return, its place in the buffer. Answers none where
the SEQ is not the next expected one. -/
def State.acceptSeq (s : State) (p : Nat) (f : RayFrame) : Option State × State :=
  let s := (s.bump64 (rayPage p) 0x48).bump64 (rayPage p) 0x58 (wireBytes f)
  let s := s.modPort p (·.acked f.ack)
  let s := if f.nak then s.nakIn p else s
  let x := s.port p
  if f.seq != (x.rxSeq + 1) % 4096 then
    -- a frame already accepted is discarded; a gap asks for a replay
    (none, s.modPort p fun x => if seqDist f.seq x.rxSeq < 2048 then { x with ackDue := true } else { x with nakDue := true })
  else
    let s := s.modPort p fun x =>
      let x := { x with rxSeq := f.seq, ackDue := true, nakDue := false }
      if f.crPool < 70 && f.crUnits > 0 then
        { x with credits := sset 0 x.credits f.crPool (sget 0 x.credits f.crPool + f.crUnits)
                 rRecv := (x.rRecv + f.crUnits) % 2 ^ 32 }
      else x
    (some s, s)

/-- A port takes frames while it is UP or in SYNC. -/
def State.portOpen (s : State) (p : Nat) : Bool := s.portUp p || s.portSt p == 5

/-! ## Effects at the destination -/

/-- The step that a frame's tag names (R332). -/
def State.stepOfTag (s : State) (tag : Nat) : Nat :=
  let st := s.steps.step
  let d := (tag + 256 - st % 256) % 256
  if d ≤ 128 then st + d else st + d - 256

/-- Payload bytes with their poison tags. -/
def frameData (f : RayFrame) : List PByte :=
  (f.payload.zip (List.range f.payload.length)).map fun x => ⟨x.1, bit f.poison (x.2 / 64)⟩

/-- Adds 1 to the counters that the last frame of a transfer names (R68, R329, R340). -/
def State.countLast (s : State) (f : RayFrame) (tag : Nat) : State :=
  if !f.last then s
  else
    let s := if f.ccEn then match s.siteOf f.dstTile with
        | some t => s.addCC t f.cc 1 tag
        | none => s
      else s
    if f.ckEn then { s with ray := { s.ray with ck := sset 0 s.ray.ck f.ck ((sget 0 s.ray.ck f.ck + 1) % 2 ^ 32) } } else s

/-- The effect of a frame at the module it is addressed to (Table 10.3). -/
def State.frameEffect (s : State) (p : Nat) (f : RayFrame) : State :=
  let tag := s.stepOfTag f.stepTag
  let d := frameData f
  let ag := Agent.ray p
  match f.type with
  | 3 =>
    let h := fieldAt f.payload 0 8
    let x := fieldAt f.payload 8 8
    match s.siteOf (bits h 41 32) with
    | none => s
    | some t =>
      let (id, s) := s.fresh
      let m := ((s.ray.map.getD []).findIdx? (· == f.srcPhys)).getD 0
      let g : GMsg := { srcMod := m, srcTile := f.srcTile, kc := bits x 12 8,
                        slot := glintSlot true m f.srcTile x ((f.payload.drop 16).take (bits x 7 0 + 1)), tag := tag }
      { s with glints := s.glints ++ [{ id := id, site := t, mbox := bits h 1 0, msg := g }] }
  | 4 => match s.siteOf f.dstTile with
    | some t => s.addKC t f.cc f.giveN tag
    | none => s
  | 8 => s.devWrite f.addr d 5 ag
  | ty =>
    let s :=
      if f.akind then
        if ty == 2 then (s.addT tag f.addr d 2 ag).2 else s.writeT tag f.addr d 5 ag
      else match s.siteOf f.dstTile with
        | none => s
        | some t =>
          let o := f.addr % 2 ^ 20
          let s := if ty == 2 then s.addScratch ag false t tag o d else s.landScratch ag t tag o d
          s.markInbound 1152 t o d.length
    s.countLast f tag

/-! ## Order and delivery (R330 to R332) -/

/-- The direction in which a frame counts as arriving. -/
def inDirOf (p : Nat) (f : RayFrame) (phys : Nat) : Nat := if f.detour && f.dstPhys == phys then f.dirIn else dirOf p

/-- The stream record of a scheduled frame (R328). -/
def State.inStream (s : State) (dir : Nat) (f : RayFrame) : Option Stream :=
  s.slotHalf.streams.find? fun x => x.from_ == 1 && x.inDir == dir && x.inStream == f.stream

/-- A frame that passes through on a detour: the other differing dimension first, so that the route goes round (R336). -/
def State.passDetour (s : State) (p : Nat) (f : RayFrame) (h : Nat × Nat × Nat) : State :=
  let here := s.coord
  let there := coordOf s.dims f.dstPhys
  let came := (s.dirStep (dirOf p)).1
  let differ := (List.range 3).filter fun i => dimAt here i != dimAt there i
  let i := match differ.find? (· != came) with
    | some i => i
    | none => came
  let n := max (dimAt s.dims i) 1
  let fwd := (dimAt there i + n - dimAt here i) % n
  let d := 2 * i + if fwd ≤ n - fwd then 0 else 1
  let f := { f with pool := 66 + b2n (s.wraps d) }
  s.pushTx (s.routePort d) { frame := f, pool := f.pool, hold := some h }

/-- An accepted frame has its effect, or goes on. -/
def State.deliver (s : State) (p : Nat) (f : RayFrame) : State :=
  let h := (p, f.pool, frameUnits f)
  if f.stream == 0xFFF then
    if f.dstPhys == s.phys then (s.frameEffect p f).freeUnits h else s.sendUnscheduled f (some h)
  else match s.inStream (inDirOf p f s.phys) f with
    | none => ((s.freeUnits h).raise (rayPage p) 11).bump (rayPage p) 0x124
    | some st =>
      if st.deliver then (s.frameEffect p f).freeUnits h
      else s.enqueue st.outPort { f with stream := st.outStream, pool := st.outQueue, detour := false, dirIn := 0 } (some h)

/-- A frame waits in its pool: its step is S + 2 or later at its destination (R332), or the module is in Dusk (Table
12.2). -/
def State.tooEarly (s : State) (p : Nat) (f : RayFrame) : Bool :=
  let here := if f.stream == 0xFFF then f.dstPhys == s.phys else match s.inStream (inDirOf p f s.phys) f with
    | some st => st.deliver
    | none => false
  here && (s.dusk || f.spec && s.stepOfTag f.stepTag ≥ s.steps.step + 2)

/-- Key of the receiving side of a frame's order. -/
def State.rxKey (s : State) (p : Nat) (f : RayFrame) : Nat := xKey (inDirOf p f s.phys) f

/-- Takes a frame in order: 0 taken or discarded, 1 it waits (R330, R332). -/
def State.tryTake (s : State) (p : Nat) (f : RayFrame) : Bool × State :=
  if f.detour && f.dstPhys != s.phys then (true, s.passDetour p f (p, f.pool, frameUnits f))
  else
    let key := s.rxKey p f
    let next := sget 0 s.ray.xRx key
    let ahead := (f.xseq + 65536 - next) % 65536
    if ahead ≥ 32768 then (true, s.freeUnits (p, f.pool, frameUnits f))
    else if ahead > 0 || s.tooEarly p f then (false, s)
    else (true, { s with ray := { s.ray with xRx := sset 0 s.ray.xRx key ((next + 1) % 65536) } }.deliver p f)

/-- One pass over the frames that wait at a port; answers whether one was taken. -/
def State.takeEarly (s : State) (p : Nat) : List RayFrame → List RayFrame → Bool × State
  | _, [] => (false, s)
  | before, f :: rest =>
    match s.tryTake p f with
    | (true, t) => (true, t.modPort p fun x => { x with early := before ++ rest })
    | (false, _) => s.takeEarly p (before ++ [f]) rest

/-- Takes waiting frames until none can be taken, at the ports of both twins. -/
def State.drainEarly : Nat → State → Nat → State
  | 0, s, _ => s
  | fuel + 1, s, p =>
    match (portsOf (dirOf p)).findSome? fun q => match s.takeEarly q [] (s.port q).early with
      | (true, t) => some t
      | _ => none with
    | some t => t.drainEarly fuel p
    | none => s

def State.earlyCount (s : State) (p : Nat) : Nat :=
  (portsOf (dirOf p)).foldl (fun n q => n + (s.port q).early.length) 0

/-- A frame that occupies units arrives with a good CRC. -/
def State.frameIn (s : State) (p : Nat) (f : RayFrame) : State :=
  if !s.portOpen p then s
  else match s.acceptSeq p f with
    | (none, s) => s
    | (some s, _) =>
      let s := s.modPort p fun x => { x with occ := sset 0 x.occ f.pool (sget 0 x.occ f.pool + frameUnits f)
                                             early := x.early ++ [f] }
      s.drainEarly (s.earlyCount p) p

def execData (p : Nat) (f : RayFrame) (s : State) : Host.Outcome State Fault Refusal :=
  runPart (p < 16) s (·.frameIn p { f with type := 1 })

def execAdd (p : Nat) (f : RayFrame) (s : State) : Host.Outcome State Fault Refusal :=
  runPart (p < 16) s (·.frameIn p { f with type := 2 })

def execGlint (p : Nat) (f : RayFrame) (s : State) : Host.Outcome State Fault Refusal :=
  runPart (p < 16) s (·.frameIn p { f with type := 3 })

def execGiveFrame (p : Nat) (f : RayFrame) (s : State) : Host.Outcome State Fault Refusal :=
  runPart (p < 16) s (·.frameIn p { f with type := 4 })

def execBulk (p : Nat) (f : RayFrame) (s : State) : Host.Outcome State Fault Refusal :=
  runPart (p < 16) s (·.frameIn p { f with type := 8 })

/-- SPEC_FRAME_RELEASE (R332). -/
def execSpecFrameRelease (p : Nat) (s : State) : Host.Outcome State Fault Refusal :=
  runPart (p < 16) s fun s => s.drainEarly (s.earlyCount p) p

/-- IDLE: ACK, NAK and credit returns only. -/
def execIdle (p : Nat) (f : RayFrame) (s : State) : Host.Outcome State Fault Refusal :=
  runPart (p < 16) s fun s => if s.portOpen p then (s.acceptSeq p f).1.getD (s.acceptSeq p f).2 else s

/-- A frame with a bad CRC (R313, R315). -/
def execFrameFailedCrc (p : Nat) (_f : RayFrame) (s : State) : Host.Outcome State Fault Refusal :=
  runPart (p < 16) s fun s => if s.portOpen p then s.modPort p fun x => { x with nakDue := true } else s

/-- AUDIT (R320, R321). -/
def execAudit (p : Nat) (f : RayFrame) (replayed : Bool) (s : State) : Host.Outcome State Fault Refusal :=
  runPart (p < 16) s fun s =>
    if !s.portOpen p then s
    else match s.acceptSeq p f with
      | (none, s) => s
      | (some s, _) =>
        let x := s.port p
        let h := fieldAt f.payload 0 4
        let r := fieldAt f.payload 4 4
        let sum : Int := ((h + sumOf x.occ + sumOf x.freed + x.rSent : Nat) : Int) - r - sumOf x.rxAlloc
        if replayed || x.needSync || sum % 2 ^ 32 == 0 then s
        else
          let s := ((s.raise (rayPage p) 4).bump (rayPage p) 0x108).bumpSat (rayPage p) offErrCount
          (s.consFault 1 sum).retrainPort p

/-! ## Transmission (R319, R325, R335) -/

/-- The slot in progress: (c, k), none in unslotted time (R323, R324). -/
def State.slotNow (s : State) : Option (Nat × Nat) :=
  if s.gn.running && s.gn.start ≤ s.gn.count && s.gn.count < s.gn.start + 4096 && s.slotHalf.cycle > 0 then
    some ((s.gn.frame - s.adm.fa) % s.slotHalf.cycle, (s.gn.count - s.gn.start) / 32)
  else none

/-- The entry of a port for the slot in progress; none where it is not VALID. -/
def State.slotEntry (s : State) (p : Nat) : Option (Nat × Nat) := match s.slotNow with
  | none => none
  | some (c, k) =>
    let e := (sget 0 s.slotHalf.entries (p * 32768 + c * 128 + k)).toNat
    if bit e 6 then some (e % 64, bits e 14 7) else none

/-- A number for the slot in progress. -/
def State.slotId (s : State) : Nat := match s.slotNow with
  | some (_, k) => s.gn.frame * 128 + k + 1
  | none => 0

/-- The first waiting item of some pools that the credits held allow. -/
def Port.pick (x : Port) (pools : List Nat) (also : TxItem → Bool) : Option TxItem :=
  pools.findSome? fun q => match x.txq.find? (·.pool == q) with
    | some i => if !x.needSync && frameUnits i.frame ≤ sget 0 x.credits q && also i then some i else none
    | none => none

/-- An item of rank 2 may start: no two CTRL frames start within 16 gt (R338). -/
def Port.ctrlFree (x : Port) (now : Nat) (i : TxItem) : Bool :=
  i.frame.type != 5 || match x.ctrlAt with
    | some c => 16 ≤ (now + 2 ^ 64 - c) % 2 ^ 64
    | none => true

/-- The first of the twin's frames that this port sends before any new one, once its credits allow (R335). -/
def Port.nextTaken (x : Port) : Option TxItem :=
  x.taken.head?.filter fun i => !x.needSync && frameUnits i.frame ≤ sget 0 x.credits i.pool

/-- What a port sends next when no replay is due: the twin's frames, then ranks 2 to 8 of Table 10.6 (in Dusk CTRL and AUDIT
alone, Table 12.2), and what the frame is charged to: 1 the owner, 2 the twin's owner, 3 Glint; 4 a frame of the twin. -/
def State.nextItem (s : State) (p : Nat) : Option (TxItem × Nat) :=
  let x := s.port p
  let own := s.slotEntry p
  let twin := match twinOf p with
    | some q => if s.portFlag p pServing then s.slotEntry q else none
    | none => none
  let owner (e : Option (Nat × Nat)) (used n : Nat) : Option (TxItem × Nat) := match e with
    | some (q, b) => (x.pick [q] fun i => used + i.frame.payload.length ≤ 64 * b).map fun i => (i, n)
    | none => none
  let first := match own with
    | some (q, _) => q + 1
    | none => 0
  let ranks : List (Option (TxItem × Nat)) :=
    [(x.txq.find? fun i => i.pool ≥ 70 && x.ctrlFree s.gn.count i).map fun i => (i, 0),
     (x.pick [64, 65] fun i => x.glintUsed + wireBytes i.frame ≤ 2048).map fun i => (i, 3),
     owner own x.slotUsed 1, owner twin x.twinUsed 2,
     (x.pick [64, 65] fun _ => true).map fun i => (i, 3),
     (x.pick [66, 67] fun _ => true).map fun i => (i, 0),
     (x.pick ((List.range 64).map fun n => (first + n) % 64) fun _ => true).map fun i => (i, 0),
     (x.pick [68, 69] fun _ => true).map fun i => (i, 0)]
  if s.dusk then ranks.head?.join else (x.nextTaken.map fun i => (i, 4)).orElse fun _ => ranks.findSome? id

/-- Stamps the frames whose content is fixed when they are sent: AUDIT (R320) and Gnomon words (R339). -/
def State.stampFrame (s : State) (p : Nat) (f : RayFrame) : RayFrame × State :=
  let x := s.port p
  if f.type == 6 then ({ f with payload := pad16 (natLe 4 (sumOf x.credits) ++ natLe 4 x.rRecv) }, s)
  else if f.type == 5 && fieldAt f.payload 0 1 == 1 then
    let now := s.gn.count * 256
    let pl := patch f.payload 16 (natLe 8 s.gn.count ++ natLe 1 0)
    let pl := match sfind s.gn.echoAt p with
      | some e => patch (patch pl 40 (natLe 8 e)) 48 (natLe 4 (now - e))
      | none => pl
    ({ f with payload := pl }, { s with gn := { s.gn with lastTx := sput s.gn.lastTx p (now :: (sfind s.gn.lastTx p).getD []) } })
  else (f, s)

/-- Gives a frame its link fields and sends it. -/
def State.launch (s : State) (p : Nat) (f : RayFrame) : State :=
  let x := s.port p
  let ret := x.freed.find? fun r => r.2 > 0
  let (q, n) := match ret with
    | some (q, n) => (q, min n 8191)
    | none => (127, 0)
  let f := { f with seq := x.txSeq, ack := x.rxSeq, nak := x.nakDue, crPool := q, crUnits := n }
  let freed := if q < 70 then sset 0 x.freed q (sget 0 x.freed q - n) else x.freed
  let credits := if f.pool < 70 then sset 0 x.credits f.pool (sget 0 x.credits f.pool - frameUnits f) else x.credits
  let s := s.setPort p { x with
    txSeq := (x.txSeq + 1) % 4096, ackDue := false, nakDue := false, freed := freed, rSent := (x.rSent + n) % 2 ^ 32
    credits := credits, unacked := x.unacked ++ [f] }
  ((s.bump64 (rayPage p) 0x40).bump64 (rayPage p) 0x50 (wireBytes f)).say (.frame p f (frameCrc f))

/-- The replay buffer has room for one more frame (R315). -/
def Port.roomFor (x : Port) (f : RayFrame) : Bool :=
  x.unacked.length < 2048 && (x.unacked.foldl (fun a g => a + wireBytes g) 0) + wireBytes f ≤ 2 ^ 20

/-- FRAME_TRANSMIT: the next frame by rank (Table 10.6). -/
def execFrameTransmit (p : Nat) (s : State) : Host.Outcome State Fault Refusal :=
  runPart (p < 16) s fun s =>
    if !s.portOpen p then s
    else
      let s := s.modPort p fun x =>
        if x.slotAt == s.slotId then x else { x with slotAt := s.slotId, slotUsed := 0, twinUsed := 0, glintUsed := 0 }
      let x := s.port p
      match x.resend with
      | f :: rest =>
        (s.setPort p { x with resend := rest }).replayOut p f
      | [] => match s.nextItem p with
        | some (i, kind) =>
          if !x.roomFor i.frame then s
          else
            let (f, s) := s.stampFrame p i.frame
            let n := i.frame.payload.length
            let s := s.modPort p fun x =>
              let x := if kind == 4 then { x with taken := x.taken.drop 1 } else { x with
                txq := match takeFirst (· == i) x.txq with
                  | some (_, rest) => rest
                  | none => x.txq
                ctrlAt := if i.frame.type == 5 then some s.gn.count else x.ctrlAt }
              if kind == 1 then { x with slotUsed := x.slotUsed + n }
              else if kind == 2 then { x with twinUsed := x.twinUsed + n }
              else if kind == 3 then { x with glintUsed := x.glintUsed + wireBytes i.frame } else x
            let s := s.launch p f
            -- a collective record is complete once its last frame is sent (R340, Table 10.18)
            let s := if i.coll && f.last then s.bump rayComPage 0x128 else s
            match i.hold with
            | some h => s.freeUnits h
            | none => s
        | none =>
          if x.ackDue || x.nakDue || x.freed.any (·.2 > 0) then s.launch p emptyFrame else s

/-- Payload bytes sent for a port's own entry in the slot in progress: by its twin while that serves the entry (R335). -/
def State.ownerSent (s : State) (p : Nat) : Nat :=
  match (if s.portFlag p pTakenOver then twinOf p else none) with
  | some q => if (s.port q).slotAt == s.slotId then (s.port q).twinUsed else 0
  | none => if (s.port p).slotAt == s.slotId then (s.port p).slotUsed else 0

/-- The end of a slot: an owner that sent less than its budget counts in OWNER_SHORT of the entry's port (R325). -/
def State.slotEnd (s : State) : State :=
  (List.range 16).foldl (fun s p => match s.slotEntry p with
    | some (_, b) => if s.ownerSent p < 64 * b then s.bump (rayPage p) 0x120 else s
    | none => s) s

/-! ## Collective records (R340) -/

/-- The frames of a collective record. -/
def State.collFrames (s : State) (c : Coll) (st : Stream) (d : List PByte) : List RayFrame :=
  let f : RayFrame := { emptyFrame with
    type := if c.add then 2 else 1, stepTag := s.steps.step % 256, stream := st.outStream, akind := true
    dstTile := (c.dstCc.map (·.1)).getD 0, dstPhys := (s.physOfLogical c.dstMod).getD 0, pool := st.outQueue
    srcPhys := s.phys, cc := (c.dstCc.map (·.2)).getD 0, ccEn := c.dstCc.isSome, ck := c.dstCk.getD 0
    ckEn := c.dstCk.isSome }
  markLast (rowFrames f c.dst d)

/-- Records of a collective queue, each with its index in the image. -/
def SlotHalf.queueColls (h : SlotHalf) (q : Nat) : List (Nat × Coll) :=
  ((List.range h.colls.length).zip h.colls).filter (·.2.queue == q)

/-- The schedule frame in which record `c` starts in pass k of image i. -/
def Image.collFrame (i : Image) (fa k : Nat) (c : Coll) : Nat := fa + i.proFrames + k * i.bodyFrames + c.frame

/-- A frame of a pass begins: its S is kept when a record names it. -/
def State.noteFrame (s : State) : State := match s.adm.active with
  | some i =>
    let b := s.adm.fa + i.proFrames
    if b ≤ s.gn.frame && s.slotHalf.colls.any (fun c => (s.gn.frame - b) % max i.bodyFrames 1 == c.frame) then
      { s with ray := { s.ray with collAt := sput s.ray.collAt s.gn.frame s.gn.start } }
    else s
  | none => s

/-- Record `c` of pass k may start by time: its frame has begun and its NB has passed (R340, R41). -/
def State.collTime (s : State) (i : Image) (k : Nat) (c : Coll) : Bool :=
  match sfind s.ray.collAt (i.collFrame s.adm.fa k c) with
  | some st => c.nb == 0xFFFFFFFF || st + c.nb ≤ s.gn.count
  | none => false

/-- The counter that a record waits on holds enough (R340). -/
def State.collReady (s : State) (c : Coll) : Bool := match c.waitCk with
  | some (k, m) => m ≤ sget 0 s.ray.ck k
  | none => true

/-- Starts a record on its stream: the wait is subtracted, the source is read, and the frames are queued (R340). -/
def State.collStart (s : State) (q : Nat) (c : Coll) (st : Stream) : State :=
  let s := match c.waitCk with
    | some (k, m) => { s with ray := { s.ray with ck := sset 0 s.ray.ck k (sget 0 s.ray.ck k - m) } }
    | none => s
  let (d, _, s) := s.readT s.steps.step c.src c.len 2 .module c.dead false
  let s := (s.collFrames c st d).foldl (fun s f => s.enqueue st.outPort f none true) s
  { s with ray := { s.ray with collPos := sput s.ray.collPos q (sget 0 s.ray.collPos q + 1) } }

/-- COLL_RECORD_START (R340): the next record of a queue, in list order, once per body pass. -/
def execCollRecordStart (q : Nat) (s : State) : Host.Outcome State Fault Refusal :=
  runPart (q < 16) s fun s =>
    let mine := s.slotHalf.queueColls q
    let pos := sget 0 s.ray.collPos q
    let pass := pos / max mine.length 1
    match s.adm.active, mine[pos % max mine.length 1]? with
    | some i, some (n, c) =>
      match s.slotHalf.streams.find? fun x => x.from_ == 2 && x.coll == n with
      | none => s
      | some st =>
        if pass < s.ray.collPass && s.collTime i pass c && s.collReady c && !s.parked && s.steps.phase == .exec &&
            s.rangeReady (s.translate s.steps.step c.src) c.len then s.collStart q c st
        else s
    | _, _ => s

end Sys2Proof.Machine
end

