-- ==== Sys2Proof/Machine/Admission.lean ====
section
/-!
DEFINITION. The admission page and the switch of images (R153 to R158, R29, R214, R253, R309, R310, R324, R435, R519), and
the master's decisions (R136, R139).
-/
namespace Sys2Proof.Machine

def State.modAdm (s : State) (f : Adm → Adm) : State := { s with adm := f s.adm }

/-! ## The SLOTS section (Tables 10.5, 10.7, 10.10) -/

def State.readStream (s : State) (a : Nat) : Stream :=
  let w := s.peekN a 4
  let y := s.peekN (a + 4) 4
  let z := s.peekN (a + 8) 4
  { from_ := w % 4, inDir := bits w 5 2, inStream := bits w 17 6, srcTile := bits w 27 18, dmaQ := bits w 30 28
    dstMod := bits y 14 0, dstTile := bits y 24 15, coll := bits y 15 0, deliver := bit z 0, outPort := bits z 4 1
    outQueue := bits z 10 5, outStream := bits z 22 11, bytes := s.peekN (a + 12) 4 }

def State.readColl (s : State) (a : Nat) : Coll :=
  let x := s.peekN (a + 4) 4
  let w := s.peekN (a + 8) 4
  let o := s.peekN (a + 12) 4
  let d := s.peekN (a + 0x28) 4
  { nb := s.peekN a 4, frame := bits x 15 0, queue := bits x 19 16
    waitCk := if bit w 8 then some (bits w 7 0, bits w 31 16) else none
    add := bit o 0, dead := bit o 1, src := s.peekN (a + 0x10) 6, dst := s.peekN (a + 0x18) 6, len := s.peekN (a + 0x20) 4
    dstMod := s.peekN (a + 0x24) 2 % 2 ^ 15, dstCk := if bit d 8 then some (bits d 7 0) else none
    dstCc := if bit d 24 then some (bits d 18 9, bits d 23 19) else none }

/-- The slot table half of an image; empty for an image without SLOTS. -/
def State.readSlots (s : State) (i : Image) : SlotHalf :=
  match sfind i.sects 8 with
  | none => {}
  | some c =>
    let cyc := s.peekN c.off 2 % 512
    let at_ (o : Nat) : Nat := i.base + s.peekN (c.off + o) 8
    let ent : Sparse Word := (List.range (16 * cyc * 128)).map fun n =>
      let p := n / (cyc * 128)
      (p * 32768 + n % (cyc * 128), BitVec.ofNat 32 (s.peekN (at_ 0x10 + 4 * n) 4))
    { cycle := cyc, entries := ent.filter (·.2 != 0)
      pools := ((List.range 1024).map fun n => (n, s.peekN (at_ 0x18 + 2 * n) 2 % 2 ^ 14)).filter (·.2 != 0)
      streams := (List.range (s.peekN (c.off + 4) 4 % 2 ^ 17)).map fun n => s.readStream (at_ 0x20 + 16 * n)
      colls := (List.range (s.peekN (c.off + 8) 2)).map fun n => s.readColl (at_ 0x28 + 48 * n) }

/-! ## Commands of the page (Table 5.13, R154, R155) -/

/-- A command that the state does not allow, or that breaks R155: the Bool says it was rejected. -/
def State.cmdReject (s : State) : Bool × State := (true, s.raise admPage 5)

def State.imgBase (s : State) : Nat := s.field admPage 0x100 31 12 * 4096 + s.field admPage 0x104 15 0 * 2 ^ 32
def State.swFrame (s : State) : Nat := s.rdN admPage 0x114 + s.field admPage 0x118 7 0 * 2 ^ 32

/-- F is the first frame of a body pass of the active image. -/
def State.passStart (s : State) (i : Image) (f : Nat) : Bool :=
  s.adm.fa + i.proFrames ≤ f && (f - s.adm.fa - i.proFrames) % max i.bodyFrames 1 == 0

/-- CHECK. -/
def State.admCheck (s : State) (o : Origin) : Bool × State :=
  if s.adm.state == 1 || s.adm.state == 4 then s.cmdReject
  else (false, s.modAdm fun a => { a with state := 1, img := none, base := s.imgBase, by_ := some o })

/-- ARM: the slot table of the image goes into the half not in use (R324). An END armed before is no more (assumption 115). -/
def State.admArm (s : State) : Bool × State :=
  match s.adm.state, s.adm.img with
  | 3, some i =>
    let first := s.adm.active.isNone
    let f := if first then 0 else s.swFrame
    let g0 := s.rd64 admPage 0x11C
    -- a parked module ignores SW_FRAME and R155: the restore activates the image (R427)
    let bad := if s.holdState == 3 then false else match s.adm.active with
      | some o => !s.passStart o f || f < s.gn.frame + 4 || !i.continues
      | none => i.continues || g0 < s.gn.count + 6 * 4096 || (match s.mapComing with
          | none => true
          | some l => l.length != i.modules)
    if bad then s.cmdReject
    else
      let half := 1 - s.ray.half
      let h := s.readSlots i
      let s := { s with ray := { s.ray with halves := sput s.ray.halves half h } }
      (false, (s.modAdm fun a => { a with state := 4, armedEnd := false, swFrame := f, g0 := g0, go := none }).raise admPage 2)
  | _, _ => s.cmdReject

/-- WITHDRAW; from ARMED only before the decision point of R156. -/
def State.admWithdraw (s : State) : Bool × State :=
  let a := s.adm
  let before := if s.gn.running then s.gn.frame + 2 < a.swFrame ||
      (s.gn.frame + 2 == a.swFrame && s.gn.count < s.gn.start + 2048) else s.gn.count + 8192 < a.g0 + 2048
  match a.state with
  | 1 => (false, s.modAdm fun a => { a with state := 0 })
  | 3 => (false, s.modAdm fun a => { a with state := 0, img := none })
  | 4 => if before && a.go.isNone then (false, s.modAdm fun a => { a with state := 3 }) else s.cmdReject
  | _ => s.cmdReject

/-- END; a further one takes F anew (assumption 115). -/
def State.admEnd (s : State) : Bool × State :=
  match s.adm.active with
  | none => s.cmdReject
  | some i =>
    let f := s.swFrame
    if !(s.adm.state == 0 || s.adm.state == 2 || s.adm.state == 3) || !s.passStart i f || f < s.gn.frame + 4 then s.cmdReject
    else (false, (s.modAdm fun a => { a with armedEnd := true, swFrame := f, go := none }).raise admPage 2)

/-- A write of CMD; a reserved value is not a command and is rejected. -/
def State.admCmd (s : State) (o : Origin) (v : Nat) : Bool × State :=
  match v with
  | 1 => s.admCheck o
  | 2 => s.admArm
  | 3 => s.admWithdraw
  | 5 => s.admEnd
  | _ => s.cmdReject

/-- CHECK_DONE (R152, R153): what the checker finds, or what it found in the flow of data. -/
def execCheckDone (found : Option (Nat × Nat × Nat)) (s : State) : Host.Outcome State Fault Refusal :=
  runOn s fun s =>
    if s.adm.state != 1 then s
    else
      let b := s.adm.base
      let mine := s.checkImage b
      let res := match mine, found.filter (fun x => flowReasons.contains x.1) with
        | none, x => x
        | some x, none => some x
        | some x, some y => if y.1 < x.1 && 3 < x.1 && x.1 != 0x1E then some y else some x
      let s := s.raise admPage 0
      match res with
      | none =>
        let i := s.readImage b
        let s := (s.wrN admPage 0x124 0).wrN admPage 0x128 0 |>.wrN admPage 0x12C 0
        (s.setField admPage 0x154 7 0 100).modAdm fun a => { a with state := 3, img := some i }
      | some (r, d, d2) =>
        let s := (s.wrN admPage 0x124 r).wrN admPage 0x128 d |>.wrN admPage 0x12C d2
        -- how much had been checked when the failure was found is left open
        let (v, s) := s.free
        let s := s.setField admPage 0x154 7 0 (v.toNat % 101)
        let s := (s.modAdm fun a => { a with state := 2 }).raise admPage 1
        -- the refusal is journalled under the source of the CHECK (assumption 50)
        s.jOrder (s.adm.by_.getD .boot) 0x02 stRefused (natLe 4 (regAddr admPage 0x110) ++ natLe 4 1) r

/-! ## Module maps (R309, R310) -/

/-- STAGE and WITHDRAW act only while no image is active or the module is parked. -/
def State.modmapFree (s : State) : Bool := s.adm.active.isNone || s.field penPage offStatus 2 0 == 3

def State.modmapStage (s : State) : State :=
  let a := s.field rayComPage 0x130 31 4 * 16 + s.field rayComPage 0x134 15 0 * 2 ^ 32
  let m := s.peekN (a + 4) 2 % 2 ^ 15
  let l := (List.range m).map fun n => s.peekN (a + 16 + 2 * n) 2 % 2 ^ 15
  let d := s.dims
  let why := if m == 0 || m > 20480 then 1
    else if l.any (fun p => p ≥ d.1 * d.2.1 * d.2.2) then 2
    else if (indexed l).any (fun x => (l.take x.1).contains x.2) then 3 else 0
  if !s.modmapFree then s
  else if why != 0 then s.setField rayComPage 0x13C 3 1 (1 + 2 * why)
  else
    let s := (s.setField rayComPage 0x13C 3 1 0).setFlag rayComPage 0x13C 0 true
    { s with ray := { s.ray with staged := some l } }.raise sparePage 1

def State.modmapWithdraw (s : State) : State :=
  if !s.modmapFree then s
  else { s with ray := { s.ray with staged := none } }.setFlag rayComPage 0x13C 0 false

/-- A staged module map comes into force. -/
def State.mapSwitch (s : State) : State := match s.ray.staged with
  | none => s
  | some l =>
    -- another physical module in a place of the map is the replacement of a module (Table 13.9)
    let s := if s.ray.map.any fun old => old != l then s.agRecord 0x200B [6] else s
    ({ s with ray := { s.ray with map := some l, staged := none } }.setFlag rayComPage 0x13C 0 false).raise rayComPage 0

/-! ## Activation -/

/-- A map gives every logical tile exactly one CARRYING site, and no other site a tile (R27). -/
def mapOk (m : Sparse SiteEnt) : Bool :=
  let ents := (List.range 1152).map (mapEnt m)
  let at_ := (ents.filter (·.st == 0)).map (·.tile)
  ents.all (fun e => e.st == 0 || e.tile == 0) && (List.range 1024).all fun t => at_.count t == 1

/-- What each Shade position holds moves to the slice that holds the position in the state `s`, where that is another than in
`old` (R435). -/
def State.movePositions (s old : State) : State :=
  let held := old.slices.foldl (fun (acc : List Line) e => acc ++ e.2.lines) []
  let moved := held.filter fun l => old.homeSlice l.line != s.homeSlice l.line
  let s := moved.foldl (fun s l => match old.homeSlice l.line with
    | some k => s.modSlice k fun x => { x with lines := x.lines.filter (·.line != l.line) }
    | none => s) s
  moved.foldl (fun s l => match s.homeSlice l.line with
    | some k => s.modSlice k (·.put l)
    | none => s) s

/-- The control logic of a die whose positions moved is reset: its directory names homes that are no more (R264; assumption
113). -/
def State.resetMoved (s old : State) : State :=
  [0, 1].foldl (fun s d =>
    if (List.range 1152).all fun p => s.sliceAt d p == old.sliceAt d p then s else s.dieReset d) s

/-- A site map comes into force with the slices then out of service: what each Shade position holds moves to the position's
slice (R29, R226, R435). One that breaks R27 is not applied. -/
def State.siteMapSwitch (s : State) (m : Sparse SiteEnt) : State :=
  if !mapOk m then s.unstage
  else
  let s := s.slices.foldl (fun s e => ((s.slice e.1).merge.map (·.seg / 4)).foldl (fun s l => s.flushMerge e.1 l) s) s
  let old := s
  let down := (s.slices.filter fun e => !s.sliceUp e.1).map (·.1)
  let s : State := { s with map := m, spare := { s.spare with mapDown := down } }
  let s := (s.movePositions old).resetMoved old
  let s := s.spare.toOpen.foldl (fun s r => (s.tileSwitch r false).agRecord 0x200B [1, 36 * r]) s
  let moved := (List.range 1152).filter fun t => old.carrying t && !s.carrying t && !s.spare.toOpen.contains (t / 36)
  let s := moved.foldl (fun s t => s.agRecord 0x200B [0, t]) s
  let s := ((s.modSpare fun x => { x with toOpen := [] }).setFlag sparePage offStatus 0 false)
  let s := (List.range 32).foldl (fun s r => s.setRowMv r) s
  s.raise sparePage 2

/-- The home of a stack line changes with some PLACE records. -/
def State.rehomed (s : State) (places : List Place) (line : Nat) : Bool :=
  !isWindowLine line && Machine.stackHome places line != Machine.stackHome s.placesNow line

/-- Lines whose home changes with the PLACE records are written back, unshared, their directory entries cleared, and dropped
(R519). Requests that waited for one go to its new home, by the list that is returned. -/
def State.homeChange (s : State) (places : List Place) : List SReq × State :=
  let lines := s.slices.foldl (fun (acc : List (Nat × Line)) e => acc ++ e.2.lines.map fun l => (e.1, l)) []
  let (again, s) := lines.foldl (fun (again, s) (k, l) =>
    if s.rehomed places l.line then
      (again ++ l.joined, ((s.evictLine k l).dirClear l.line).modSlice k fun x => { x with lines := x.lines.filter (·.line != l.line) })
    else (again, s)) (([] : List SReq), s)
  let ents := s.dirs.foldl (fun (acc : List Nat) b => acc ++ b.2.ents.map (·.line)) []
  let s := (ents.filter (s.rehomed places)).foldl State.dirClear s
  (again, s)

/-- A set of a slice is made free of what could keep a pin out: merge buffer entries are written back, and lines in FILL that no
pin holds return to INVALID, their requests to be taken again. -/
def State.freeSet (s : State) (k set : Nat) : State :=
  let ls := (s.slice k).lines.filter (·.set == set)
  let s := ls.foldl (fun s l => s.flushMerge k l.line) s
  let open_ := ls.filter fun l => l.st == .fill && !l.pin
  let again := open_.foldl (fun acc l => acc ++ l.joined) []
  s.modSlice k fun x =>
    { x with lines := x.lines.filter fun l => !open_.any (·.line == l.line), waiting := x.waiting ++ again }

/-- A pinned line that holds no way takes one. -/
def State.takeWay (s : State) (k line : Nat) (window : Bool) : State :=
  let st : LineState := if window then .dirty else .invalid
  let s := if (s.makeWay k (s.homeOf line).set).isNone then s.freeSet k (s.homeOf line).set else s
  match s.allocate k line st with
  | some s => s.modSlice k fun x => { x with lines := x.lines.map fun y => if y.line == line then { y with pin := true } else y }
  | none => s

/-- Pins of the incoming image (R253): a window line takes its way as zero data, DIRTY, and a stack line keeps one. A way that
an ordinary line holds is given up for it. -/
def State.applyPins (s : State) (i : Image) : State :=
  let s := s.slices.foldl (fun s e => s.modSlice e.1 (·.unpin s.stackPinned)) s
  i.pins.foldl (fun s p =>
    (rangeFrom (p.base / 256) p.lines).foldl (fun s l => match s.homeSlice l with
      | none => s
      | some k => if (s.slice k).lines.any (·.line == l) then s else s.takeWay k l p.window) s) s

/-- PAYLOAD copies (R156). -/
def State.payloadCopy (s : State) (i : Image) : State :=
  (s.payloads i).foldl (fun s p =>
    let (d, s) := s.modRead p.2.2 p.2.1
    s.modWrite p.1 d) s

/-- The reset values of the Spectrum table (Table 4.3, Table 4.4). -/
def State.spectrumReset (s : State) (i : Image) : State :=
  if i.specN == 0 then s
  else s.modWrite i.specBase (sound (natLe 8 i.specN ++ natLe 8 0 ++ List.replicate 8 0xFF ++
    List.replicate (256 - 24 + 128 * i.specN) 0))

/-- Every tile that runs stands at the end of a pass, or the prologue's (the last instruction before F has issued). -/
def State.allAtEnd (s : State) : Bool := s.carryingSites.all fun t => match s.streamOf t with
  | some (_, r) => (s.tile t).pos == r.proLen && (s.tile t).reentry.isNone && (s.tile t).perr.isNone
  | none => true

/-- The ports of a new slot table half go through SYNC, and TAKEN_OVER ends (R322, R335). -/
def State.portsAnew (s : State) : State :=
  (List.range 16).foldl (fun s p =>
    let s := if s.portUp p then ((s.beginSync p (s.slotHalf.allocOf p)).setPortFlag p pTakenOver false).setPortFlag p pServing false
      else s.modPort p fun x => { x with rxAlloc := s.slotHalf.allocOf p }
    s.wrN (rayPage p) 0x120 0) s

/-- An image comes into force at frame fa (R156, R157): `swap` takes the half of the slot table that ARM filled; `wait`
holds the prologue for the last verdict (R214); `keep` treats residency as for a CONTINUES image (R430). -/
def State.bringUp (s : State) (i : Image) (fa : Nat) (swap wait keep : Bool) : State :=
  let s := s.dimEnd.settleMoves.zeroCounters.zeroCounts
  let (again, s) := s.homeChange i.places
  let s := s.modAdm fun x => { x with active := some i, fa := fa, go := none, mustWait := wait }
  let s := if swap then
      { s with adm := { s.adm with state := 0, img := none }, ray := { s.ray with half := 1 - s.ray.half } }
    else s
  let s := (s.applyPins i).takeWsets (s.wsetsNow i)
  let s := s.resActivate { i with continues := i.continues || keep }
  let s := s.portsAnew.loadRoutes.wrN rayComPage 0x128 0
  let s := { s with ray := { s.ray with collPass := b2n (!wait) } }
  let s := s.snapCheck i
  let s := s.tiles.foldl (fun s e => s.modTile e.1 (·.atStart)) s
  -- a stream without a prologue begins with a body pass (R203)
  let s := s.forSites fun s t => match s.streamOf t with
    | some (_, r) =>
      let s := if r.proLen != 0 then s
        else if wait then s.modTile t fun x => { x with waitVerdict := true } else s.writeScalars t
      s.reachNext t
    | none => if wait then s else s.writeScalars t
  let s := (s.slices.map (·.1)).foldl State.release s
  ((again.foldl (fun s q => s.request q) s).raise admPage 3).noteFrame.dimStart

/-- Nothing of the outgoing image is open that its last step or its regions still need: the step has closed, and what the
regions started has landed (R210, R212, R214; assumption 111). -/
def State.outgoingDone (s : State) : Bool :=
  !s.xfers.any (·.tag == s.outTag) &&
    (s.steps.phase != .exec || s.carryingSites.all fun t => !s.running t || !(s.tile t).closed)

/-- IMAGE_ACTIVATION (R156). -/
def execImageActivation (s : State) : Host.Outcome State Fault Refusal :=
  runOn s fun s =>
    let a := s.adm
    match a.img with
    | none => s
    | some i =>
      let due := if s.gn.running then s.gn.frame == a.swFrame && s.allAtEnd && s.outgoingDone else a.g0 ≤ s.gn.count
      if a.state != 4 || a.go != some a.swFrame || !due then s
      else
        let first := a.active.isNone
        let s := (s.payloadCopy i).spectrumReset i
        let s := match s.spare.staged with
          | some m => if sha256 (mapBytes m) == i.placement then
              ({ s with spare := { s.spare with staged := none } }).siteMapSwitch m else s
          | none => s
        let s := s.mapSwitch
        -- the speculative regions of the outgoing image are discarded (R214)
        let s := if first then s else s.dropRegions
        let wait := !first && s.steps.phase != .exec
        let s := if first then
            { s with steps := { step := s.peekN (stepRec i) 6, ls := signedOf 8 (s.peekN (stepRec i + 8) 1) }
                     pen := { s.pen with nextNo := 0, lastEnd := none } }
          else s
        let s := s.bringUp i a.swFrame true wait false
        if first then
          let s := s.modGn fun g => { g with running := true, frame := 0, start := a.g0, dec := none }
          let s := s.modFr fun _ => {}
          ((s.wrN gnPage 0x138 0).wrN gnPage 0x13C 0).resetTokens.noteFrame
        else s

/-- The end of the job at F after END and SWITCH_GO (R158). -/
def execJobEnd (s : State) : Host.Outcome State Fault Refusal :=
  runOn s fun s =>
    let a := s.adm
    if !a.armedEnd || a.go != some a.swFrame || !s.gn.running || s.gn.frame != a.swFrame || !s.allAtEnd || !s.outgoingDone then s
    else s.dropRegions.endJob

/-! ## The master's decision (R136, R139, R156) -/

/-- READY_COUNT received for frame F, this module's own among them. -/
def State.readyCount (s : State) (f : Nat) : Nat :=
  s.gn.subs.foldl (fun n x => if x.2.readyN > 0 && x.2.ready == f then n + x.2.readyN else n) (b2n (s.readyFor == some f))

/-- GO or ABORT for frame F where it is a switch frame: this module is armed for it, or some module is ready for it. `key` is
the decision's NEXT_START. -/
def State.decideSwitch (s : State) (f key : Nat) : State :=
  let n := s.readyCount f
  let mine := if s.adm.state == 4 && s.adm.swFrame == f then s.adm.img.map (·.modules)
    else if s.adm.armedEnd && s.adm.swFrame == f then s.adm.active.map (·.modules) else none
  if n == 0 && !s.armedFor f then s.switchSeen none key
  else
    let go := mine == some n
    let s := s.jDecision 2 0 0xD1 (f % 2 ^ 31 * 2 + b2n go)
    s.switchSeen (some (go, f)) key

/-- DECISION_POINT. -/
def execDecisionPoint (s : State) : Host.Outcome State Fault Refusal :=
  runOn s fun s =>
    let g := s.gn
    if !g.master then s
    else if !g.running then
      -- the decision for frame −2, at S(−2) + 2,048: its NEXT_START is S(−1)
      if s.adm.state == 4 && s.adm.go.isNone && s.adm.g0 + 2048 ≤ g.count + 8192 then
        let key := s.adm.g0 - 4096
        (s.takeDecision ⟨2 ^ 40 - 2, false, false, key⟩).decideSwitch 0 key
      else s
    else if g.count < g.start + 2048 || g.dec.any (fun d => d.frame == g.frame) then s
    else
      let k := g.frame
      let q := s.fr.lateSeen
      let h := s.gapFor k
      let next := max (g.start + 4096 + (if q then 256 else 0) + h) s.fr.localNext
      let s := s.modFr fun f => { f with lateSeen := false, localNext := 0 }
      let s := s.takeDecision ⟨k, q, h != 0, next⟩
      let s := if q then s.agRecord 0x2001 [k % 2 ^ 32, k / 2 ^ 32] else s
      let s := if s.fr.run == 32 then (s.raise gnPage 7).holdRequest 1 else s
      (s.decideSwitch (k + 2) next).masterAct

end Sys2Proof.Machine
end

