-- ==== Sys2Proof/Machine/Power.lean ====
section
/-!
DEFINITION. Input, Dusk, throttle and Spotlight (R384 to R389, R399 to R402).
-/
namespace Sys2Proof.Machine

def State.modPow (s : State) (f : Power → Power) : State := { s with pow := f s.pow }

/-! ## Dusk (R387 to R390) -/

/-- Causes of Dusk by their bit of STATUS. -/
def duskSupply : Nat := 1
def duskAlert : Nat := 2
def duskThermal : Nat := 3

def State.duskCauses (s : State) : Nat := s.field powPage offStatus 3 1

/-- Front-end ports send PFC pause in Dusk, or its end, where PFC_EN is set (Table 12.2). -/
def State.duskPfc (s : State) (pause : Bool) : State :=
  [0, 1].foldl (fun s p =>
    if s.flag (fePage p) offControl 1 && s.flag (fePage p) offStatus 0 then
      s.say (.pfc p (s.field (fePage p) 0x120 2 0) pause)
    else s) s

/-- A cause of Dusk arises: the module enters Dusk at once, and requests a hold while an image is active (R387, R389). -/
def State.duskEnter (s : State) (c : Nat) : State :=
  let s := s.setFlag powPage offStatus c true
  if s.dusk then s
  else
    let s := { s with dusk := true }.setFlag powPage offStatus 0 true
    let s := (s.modPow fun p => { p with duskAt := s.now }).bump powPage 0x11C
    let s := (s.raise powPage 0).agRecord 0x2003 [s.duskCauses, s.rdN inPage 0x100]
    let s := (s.jDecision 1 0 0xE1 s.duskCauses).duskPfc true
    if s.adm.active.isSome then s.holdRequest 3 else s

/-- DUSK_EXIT (R388): with every cause cleared, the parts resume; held frames are taken. The watchdog period did not
advance. The order asserts that an ALERT's 500 µs have passed since the pin's deassertion. -/
def execDuskExit (s : State) : Host.Outcome State Fault Refusal :=
  runOn s fun s =>
    let s := if s.flag inPage offStatus 2 then s else s.setFlag powPage offStatus duskAlert false
    if !s.dusk || s.duskCauses != 0 then s
    else
      let d := s.now - s.pow.duskAt
      let s := { s with dusk := false }.setFlag powPage offStatus 0 false
      let s := s.modPow fun p => { p with duskUs := p.duskUs + d }
      let s := { s with host := { s.host with kickAt := s.host.kickAt + d }
                        pen := { s.pen with duskIn := s.pen.duskIn + d } }
      let s := (s.raise powPage 1).agRecord 0x2004 [d / 200]
      let s := (s.jDecision 1 0 0xE2 (d / 200)).duskPfc false
      (List.range 16).foldl (fun s p => s.drainEarly (s.earlyCount p) p) s

/-! ## Input (R384 to R386) -/

/-- A level comparator behind the 200 ns filter: it moves when two samples agree. -/
def filtered (was now before : Bool) : Bool := if now == before then now else was

/-- Average of the newest n samples of input power exceeds w watts. -/
def avgAbove (l : List Nat) (n w : Nat) : Bool :=
  let l := l.take n
  l.foldl (· + ·) 0 > w * 10000 * l.length

/-- Average of the newest n samples in W. -/
def avgW (l : List Nat) (n : Nat) : Nat :=
  let l := l.take n
  l.foldl (· + ·) 0 / (10000 * max l.length 1)

/-- INPUT_SAMPLE (R384, R386): voltage in 10 mV, current in 10 mA. -/
def execInputSample (vin iin : Nat) (s : State) : Host.Outcome State Fault Refusal :=
  runOn s fun s =>
    let p := s.pow
    let was := p.vin.getD vin
    let dip := filtered p.below36 (vin < 3600) (was < 3600)
    let under := filtered p.below37 (vin < 3700) (was < 3700)
    let high := filtered p.above44 (vin > 4400) (was > 4400)
    let powers := (vin * iin :: p.powers).take 10000
    let ok := if vin > 3700 then p.okRun + 1 else 0
    let s := s.modPow fun p => { p with
      vin := some vin, powers := powers, okRun := ok, below36 := dip, below37 := under, above44 := high
      dipLen := if dip then p.dipLen + 1 else 0 }
    let s := ((s.wrN inPage 0x100 (vin % 65536)).wrN inPage 0x104 (iin % 65536)).wrN inPage 0x108 (avgW powers 100 % 2048)
    let s := s.wrN inPage 0x10C (avgW powers 10000 % 2048)
    let s := s.wrN inPage 0x110 (min (s.rdN inPage 0x110) (vin % 65536))
    let s := s.wrN inPage 0x114 (max (s.rdN inPage 0x114) (vin % 65536))
    let s := (s.setFlag inPage offStatus 0 (!under && !high)).setFlag inPage offStatus 1 dip
    -- the current limit holds the input at 38 A (assumption 51)
    let s := s.setFlag inPage offStatus 3 (iin ≥ 3800)
    let s := if high && !p.above44 then s.raise inPage 2 else s
    let s := if under && !dip && (!p.below37 || p.below36) then s.raise inPage 0 else s
    let s := if dip && !p.below36 then ((s.raise inPage 1).bump inPage 0x118).duskEnter duskSupply else s
    let s := if p.below36 && !dip then s.wrN inPage 0x11C (p.dipLen / 10 % 2 ^ 32) else s
    let s := if ok ≥ 5000 && s.flag powPage offStatus duskSupply then
        (s.setFlag powPage offStatus duskSupply false).raise inPage 5
      else s
    if vin > 4700 && was > 4700 then s.stop else s

/-- BROWN_OUT (R384): every domain is reset; power-on follows when the input is back in range. -/
def execBrownOut (s : State) : Host.Outcome State Fault Refusal := runOn s (·.cold)

/-- HS_LIMIT (R385): the event first, then the input switch opens. -/
def execHsLimit (s : State) : Host.Outcome State Fault Refusal :=
  runOn s fun s => (finish s (s.raise inPage 4)).stop

/-- ALERT_DARK_N asserted (R387). -/
def execAlertDark (s : State) : Host.Outcome State Fault Refusal :=
  runOn s fun s => ((s.setFlag inPage offStatus 2 true).raise inPage 3).duskEnter duskAlert

/-- ALERT_DARK_N back at its inactive level; DUSK_EXIT comes when its timer has run out. -/
def execAlertDarkNDeasserted (s : State) : Host.Outcome State Fault Refusal :=
  runOn s fun s => s.setFlag inPage offStatus 2 false

/-! ## Throttle (R399) -/

def State.throttle (s : State) : Nat := s.field powPage offStatus 5 4

/-- THROTTLE_STEP: one step up while an average is over its limit, one down once both have cleared. -/
def execThrottleStep (s : State) : Host.Outcome State Fault Refusal :=
  runOn s fun s =>
    let n := s.throttle
    if avgAbove s.pow.powers 10000 s.budgetW || avgAbove s.pow.powers 100 1380 then
      let s := s.setField powPage offStatus 5 4 (min 3 (n + 1))
      if n == 0 then s.raise powPage 2 else s
    else s.setField powPage offStatus 5 4 (n - 1)

/-! ## Spotlight (R401, R402) -/

def emptySpot : SpotMsg :=
  { unsettled := false, period := 0, gseq := 0, tokens := 0, count := 0, demand := 0, need := 0, sumH := 0, sumBase := 0 }

def State.tokens (s : State) : Nat := s.field powPage 0x104 10 0
def State.spotOn (s : State) : Bool := s.flag powPage offControl 0

/-- One UP port toward each neighbour: the lowest. -/
def State.neighbourPorts (s : State) : List Nat :=
  let up := s.upPorts
  up.filter fun p => !(up.any fun q => q < p && s.neighbour (dirOf q) == s.neighbour (dirOf p))

/-- N: the largest prediction over the phases of the period that begins at frame J, in W, plus 20. -/
def State.spotNeed (s : State) : Nat := match s.adm.active with
  | none => 20
  | some i =>
    let phs := (List.range 16).foldl (fun l n =>
      if s.gn.frame + n < s.adm.fa then l else insNat (s.phaseOf i (s.gn.frame + n - s.adm.fa)) l) []
    let one (ph : Nat) : Nat :=
      let e := (s.dimEnt i ph).1
      s.predictMw e (fun lt => (s.dimTile i ph e lt).fL) / 1000
    phs.foldl (fun m ph => max m (one ph)) 0 + 20

/-- DEMAND_SEND: in the first frame of a period. -/
def execDemandSend (s : State) : Host.Outcome State Fault Refusal :=
  runOn s fun s =>
    let k := s.gn.frame / 16
    if !s.gn.running || s.gn.frame % 16 != 0 || s.pow.demandAt == some k || !s.spotOn then s
    else
      let need := s.spotNeed
      let s := s.modPow fun p => { p with demandAt := some k, need := need, granted := false }
      let s := s.wrN powPage 0x124 (s.pow.lowLast % 65536)
      let m : SpotMsg := { emptySpot with demand := s.pow.lowLast, need := need }
      s.neighbourPorts.foldl (fun s p => s.sendCtrl p 4 (spotBytes 0 m)) s

/-- DEMAND from a neighbour. -/
def execDemand (p : Nat) (m : SpotMsg) (s : State) : Host.Outcome State Fault Refusal :=
  runPart (p < 16) s fun s =>
    if !s.portUp p then s else (s.ctrlIn p).modPow fun x => { x with demands := sput x.demands p m }

/-- GRANT_SEND: in the second frame of a period, at most once. -/
def execGrantSend (s : State) : Host.Outcome State Fault Refusal :=
  runOn s fun s =>
    let p := s.pow
    let h := s.tokens
    let fl := s.field powPage 0x110 10 0
    if !s.gn.running || s.gn.frame % 16 != 1 || p.demandAt != some (s.gn.frame / 16) || p.granted || !s.spotOn ||
        h ≤ p.need || h ≤ fl then s
    else
      let best := p.demands.foldl (fun (b : Option (Nat × SpotMsg)) x =>
        if x.2.demand > p.lowLast && s.portUp x.1 && (b.all fun y => x.2.demand > y.2.demand) then some x else b) none
      match best with
      | none => s
      | some (port, _) =>
        let g := min (min (h - p.need) (h - fl)) 64
        let n := p.gseq % 65536
        let s := s.wrN powPage 0x104 (h - g)
        let s := s.modPow fun x => { x with
          granted := true, gseq := n + 1, grants := x.grants ++ [{ port := port, gseq := n, tokens := g }] }
        s.sendCtrl port 4 (spotBytes 1 { emptySpot with gseq := n, tokens := g })

/-- GRANT: the receiver accepts what keeps H at 1,200 or less, and returns the rest. -/
def execGrant (p : Nat) (m : SpotMsg) (s : State) : Host.Outcome State Fault Refusal :=
  runPart (p < 16) s fun s =>
    if !s.portUp p then s
    else
      let s := s.ctrlIn p
      let a := if s.spotOn then min m.tokens (1200 - s.tokens) else 0
      let s := s.wrN powPage 0x104 (s.tokens + a)
      s.sendCtrl p 4 (spotBytes 2 { emptySpot with gseq := m.gseq, tokens := m.tokens - a })

/-- ACK of a grant. -/
def execSpotlightAck (p : Nat) (m : SpotMsg) (s : State) : Host.Outcome State Fault Refusal :=
  runPart (p < 16) s fun s =>
    if !s.portUp p then s
    else
      let s := s.ctrlIn p
      match takeFirst (fun (g : Grant) => g.gseq == m.gseq) s.pow.grants with
      | none => s
      | some (_, rest) => (s.modPow fun x => { x with grants := rest }).wrN powPage 0x104 (s.tokens + m.tokens)

/-- Once this module's REPORT and every child's of the period are there, they go up, or the master audits them (R402). -/
def State.tryAudit (s : State) : State :=
  match s.pow.own with
  | none => s
  | some o =>
    let kids := s.kidPorts.map fun p => (s.pow.kids.find? fun e => e.1 == p && e.2.period == o.period).map (·.2)
    if kids.any (·.isNone) then s
    else
      let m := kids.foldl (fun (a : SpotMsg) k => match k with
        | some b => { a with unsettled := a.unsettled || b.unsettled, count := a.count + b.count, sumH := a.sumH + b.sumH,
                             sumBase := a.sumBase + b.sumBase }
        | none => a) o
      let s := s.modPow fun p => { p with own := none, kids := [] }
      if !s.gn.master then match s.gn.upstream with
        | some p => s.sendCtrl p 4 (spotBytes 3 m)
        | none => s
      else if m.count == s.modules && !m.unsettled && m.sumH != m.sumBase then
        let d := fieldOf 32 ((m.sumH : Int) - m.sumBase)
        let s := ((s.raise powPage 4).wrN powPage 0x128 d).agRecord 0x200A [d]
        s.consFault 2 ((m.sumH : Int) - m.sumBase)
      else s

/-- TOKEN_REPORT_SEND: at every frame J with J mod 64 = 0. -/
def execTokenReportSend (s : State) : Host.Outcome State Fault Refusal :=
  runOn s fun s =>
    let k := s.gn.frame / 64 % 8192
    if !s.gn.running || s.gn.frame % 64 != 0 || s.pow.auditAt == some k then s
    else
      let m : SpotMsg := { emptySpot with
        unsettled := !s.pow.grants.isEmpty, period := k, count := 1, sumH := s.tokens, sumBase := s.field powPage 0x100 10 0 }
      (s.modPow fun p => { p with own := some m, auditAt := some k }).tryAudit

/-- REPORT of a child. -/
def execTokenReport (p : Nat) (m : SpotMsg) (s : State) : Host.Outcome State Fault Refusal :=
  runPart (p < 16) s fun s =>
    if !s.portUp p then s
    else ((s.ctrlIn p).modPow fun x => { x with kids := sput x.kids p m }).tryAudit

end Sys2Proof.Machine
end

