-- ==== Sys2Proof/Machine/Sparing.lean ====
section
/-!
DEFINITION. Retirement, self-tests and re-admission (R432 to R437, R440), and the loss of a power domain (R391).
-/
namespace Sys2Proof.Machine

/-- The staged map after a site takes a state: a tile that the map moves there moves on to another spare, and where there is
none the map is withdrawn (R27, R433). -/
def restage (t st : Nat) (m : Sparse SiteEnt) : Option (Sparse SiteEnt) :=
  if (mapEnt m t).st == 0 then moveTiles st [t] [t] m else some (mapPut m t { mapEnt m t with tile := 0, st := st })

/-- A site of a new state; the logical tile it does not carry is 0. -/
def State.siteState (s : State) (t st : Nat) : State :=
  let s := { s with map := mapPut s.map t { s.siteEnt t with tile := 0, st := st } }
  match s.spare.staged with
  | none => s
  | some m => match restage t st m with
    | some m => s.modSpare fun x => { x with staged := some m }
    | none => s.unstage

/-- A site that carries no tile takes a new state at the next frame boundary, at once where no frames run (R29); `done` ends a
re-admission. -/
def State.siteLater (s : State) (t st : Nat) (done : Bool := false) : State :=
  if s.gn.running then s.modSpare fun x => { x with waiting := x.waiting ++ [(t, st, done)] }
  else (s.siteState t st).raiseIf done sparePage 3

/-- Table 13.10 steps 2 and 3: counters, queues and mailboxes of the site are zero, its read cache is empty, and no
SHARERS field names it. -/
def State.siteClean (s : State) (t : Nat) : State :=
  let drop (e : DirEnt) : DirEnt := match e.sharers with
    | .sites l => { e with sharers := .sites (l.filter (· != t)) }
    | .rows _ => e
  let s := s.modTile t fun x => { x with cc := [], kc := [], dmaq := [], mbox := [] }
  let s := s.modTile t (·.rcClear)
  { s with dirs := s.dirs.map fun b => (b.1, { b.2 with ents := b.2.ents.map drop }) }

/-! ## Commands of STAGE_CMD (R440) -/

/-- RETIRE_SITE. -/
def State.retireSite (s : State) (t : Nat) : Option State :=
  if (mapEnt s.mapBase t).st != 0 then none else s.replaceSites [t] 2

/-- READMIT_SITE and SELF_TEST begin a self-test of one site, READMIT_ROW of a row whose switch closes first. A site under test
that carries no tile is in state TEST (Table 2.2). -/
def State.beginTest (s : State) (x : SelfTest) : Option State :=
  if s.spare.test.isSome || x.sites.isEmpty then none
  else
    let back := x.sites.filter fun t => (s.siteEnt t).st == 1
    let s := (s.modSpare fun y => { y with test := some { x with back := back } }).setFlag sparePage offStatus 2 true
    some ((x.sites.filter fun t => (s.siteEnt t).st == 1 || (s.siteEnt t).st == 3).foldl (fun s t => s.siteLater t 2) s)

/-- Sites of the row that are out of service. -/
def State.outSites (s : State) (r : Nat) : List Nat := (rowSites r).filter fun t => (s.siteEnt t).st ≥ 2

/-- A write of STAGE_CMD for the site in STAGE_SITE; none where the command does not act. -/
def State.stageCmd (s : State) (v : Nat) : Option State :=
  let t := s.field sparePage 0x100 10 0
  if t ≥ 1152 then none
  else
    let st := (s.siteEnt t).st
    let r := t / 36
    match v with
    | 1 => s.retireSite t
    | 2 => if s.spare.opened.contains r || s.spare.toOpen.contains r then none else s.replaceRowSites r 2
    | 3 => if st ≥ 2 && !s.spare.opened.contains r then s.beginTest { sites := [t], readmit := true, row := false } else none
    | 4 =>
      if (s.outSites r).isEmpty then none
      else (s.beginTest { sites := s.outSites r, readmit := true, row := true }).map (·.tileSwitch r true)
    | 5 =>
      if st == 3 || (st == 0 && s.adm.active.isSome) || s.spare.opened.contains r then none
      else s.beginTest { sites := [t], readmit := false, row := false }
    | 6 => if s.spare.staged.isNone then none
      else some s.unstage
    | _ => none

/-- SELFTEST_DONE: a unit that passes a re-admission goes on to SPARE; one that fails is FAULTED, and a tile it carries
goes to a spare (Table 13.9, Table 13.10). -/
def execSelftestDone (pass : Bool) (s : State) : Host.Outcome State Fault Refusal :=
  runOn s fun s =>
    match s.spare.test with
    | none => s
    | some x =>
      let s := (s.modSpare fun y => { y with test := none }).setFlag sparePage offStatus 2 false
      let s := x.sites.foldl (fun s t => s.agRecord 0x1001 [t, b2n (!pass)]) s
      if pass then
        if x.readmit then x.sites.foldl (fun s t => (s.siteClean t).siteLater t 1 true) s
        else x.back.foldl (fun s t => s.siteLater t 1) s
      else
        let s := s.raise sparePage 4
        let s := x.sites.foldl (fun s t =>
          if s.carrying t then ((s.replaceSites [t] 3).getD s.spend).raise sparePage 0 else s.siteLater t 3) s
        let s := if x.row then x.sites.foldl (fun s t => s.tileSwitch (t / 36) false) s else s
        x.sites.foldl (fun s t => s.rowOut (t / 36)) s

/-! ## Loss of a domain -/

/-- DOMAIN_FAULT (Table 12.3). The tiles of a lost row stop at once; the sites are FAULTED in the staged map, and each
logical tile stays on its site until the switch (R433; assumption 56). -/
def execDomainFault (d : Nat) (s : State) : Host.Outcome State Fault Refusal :=
  runPart (d < 48) s fun s =>
    let s := ((s.raise powPage 5).agRecord 0x200D [d]).setPg d false
    if d == 0 then s.cold
    else if d ≤ 32 then
      let s := s.tileSwitch (d - 1) false
      (s.replaceRowSites (d - 1) 3).getD s.spend
    else if d == 33 then s.loseArray 0
    else if d == 34 then s.dieReset 0
    else if d == 35 then s.loseArray 1
    else if d == 36 then s.dieReset 1
    else if d == 46 then s.resetHost
    else s.stop

end Sys2Proof.Machine
end

