-- ==== Sys2Proof/Machine/Firmware.lean ====
section
/-!
DEFINITION. Firmware slots and bundles (R444, R445), the measurement log (R446), and activation (R458, R459).
-/
namespace Sys2Proof.Machine

def State.modMg (s : State) (f : Mgmt → Mgmt) : State := { s with mg := f s.mg }

/-! ## Slots and bundles -/

/-- Bytes of a firmware slot: what FW_WRITE and recovery wrote, over what the module was shipped with. -/
def State.slotBytes (s : State) (slot off n : Nat) : List Byte :=
  let m := if slot == 0 then s.mg.slotA else s.mg.slotB
  let base := if slot == 0 then Config.factoryBundle else []
  (rangeFrom off n).map fun o => (sfind m o).getD (base.getD o 0)

def State.slotN (s : State) (slot off n : Nat) : Nat := leNat (s.slotBytes slot off n)

/-- Bytes of a slot are replaced. -/
def State.putSlot (s : State) (slot off : Nat) (bs : List Byte) : State :=
  let put (m : Sparse Byte) : Sparse Byte := ((rangeFrom off bs.length).zip bs).foldl (fun m x => sput m x.1 x.2) m
  s.modMg fun g => if slot == 0 then { g with slotA := put g.slotA } else { g with slotB := put g.slotB }

/-- A component of a bundle (Table 14.2). -/
structure FwComp where
  agent : Nat
  off   : Nat
  len   : Nat
  hash  : List Byte
deriving DecidableEq, Repr

def State.fwComps (s : State) (slot : Nat) : List FwComp :=
  (List.range (s.slotN slot 0x44 1 % 16)).map fun c =>
    { agent := s.slotN slot (0x80 + 48 * c) 1 % 16, off := s.slotN slot (0x84 + 48 * c) 4
      len := s.slotN slot (0x88 + 48 * c) 4, hash := s.slotBytes slot (0x90 + 48 * c) 32 }

def State.fwVersion (s : State) (slot : Nat) : Nat := s.slotN slot 8 4
def State.fwSvn (s : State) (slot : Nat) : Nat := s.slotN slot 0xC 1

/-- The slot holds the bundle it was shipped with. -/
def State.factory (s : State) (slot : Nat) : Bool := slot == 0 && s.mg.slotA.isEmpty

/-- The ROM accepts a slot (R445). The bundle a module was shipped with passes every check but that of the floor, which
may have risen since (assumption 58). -/
def State.slotOk (s : State) (slot : Nat) : Bool :=
  let floorOk := s.mg.floor == 0 || s.mg.floor ≤ s.fwSvn slot
  if s.factory slot then floorOk
  else
    let len := s.slotN slot 0x40 4
    let cs := s.fwComps slot
    s.slotN slot 0 4 == 0x4D424657 && s.slotN slot 4 2 == 1 && floorOk && s.fwSvn slot ≤ 64 &&
      1 ≤ cs.length && cs.length ≤ 8 && cs.any (·.agent == 0) &&
      0x80 + 48 * cs.length ≤ len && len + 16224 ≤ 2 ^ 25 &&
      sha256 (s.slotBytes slot 0x10 48) == Config.vendorKeyHash &&
      Config.sigVerify (s.slotBytes slot 0x10 48) (s.slotBytes slot 0 len) (s.slotBytes slot len 16224) &&
      cs.all fun c => c.off + c.len ≤ len && sha256 (s.slotBytes slot c.off c.len) == c.hash

/-! ## Measurement log (R446) -/

/-- Appends an entry and extends MEAS_DIGEST. The Gnomon count is 0 before the first lock. -/
def State.measure (s : State) (kind agent svn ver : Nat) (hash : List Byte) : State :=
  let n := s.mg.log.length
  if n ≥ 256 then s
  else
    let gt := if s.gn.everLock then s.gn.count else 0
    let e := natLe 1 n ++ natLe 1 kind ++ natLe 1 agent ++ natLe 1 svn ++ natLe 4 ver ++ natLe 8 gt ++ hash.take 32 ++
      List.replicate 16 0
    s.modMg fun g => { g with log := g.log ++ [e], digest := sha256 (g.digest ++ e) }

/-- The entries of a slot's bundle and of its components. -/
def State.measureSlot (s : State) (slot : Nat) : State :=
  let len := s.slotN slot 0x40 4
  let svn := s.fwSvn slot
  let ver := s.fwVersion slot
  let s := s.measure 2 0 svn ver (sha256 (s.slotBytes slot 0 len))
  (s.fwComps slot).foldl (fun s c => s.measure 3 c.agent svn ver c.hash) s

/-! ## FW_CMD (R458, R459) -/

def State.fwState (s : State) (v : Nat) : State := s.setField mgmtPage 0x128 2 0 v

/-- The slot that the boot record does not name. -/
def State.otherSlot (s : State) : Nat := 1 - s.mg.active

/-- The inactive slot changes: its bundle is staged no longer (assumption 57). -/
def State.unstageFw (s : State) : State :=
  if s.mg.staging || s.mg.stagedOk then (s.modMg fun g => { g with staging := false, stagedOk := false }).fwState 0 else s

/-- FW_CMD = 1. -/
def State.fwBegin (s : State) : Bool × State :=
  if s.mg.staging || s.mg.stagedOk then (true, s)
  else (false, (s.modMg fun g => { g with staging := true }).fwState 1)

/-- FW_VERIFY_DONE: the bundle is staged when the ROM's checks pass and its entries fit the log. -/
def execFwVerifyDone (ok : Bool) (s : State) : Host.Outcome State Fault Refusal :=
  runOn s fun s =>
    if !s.mg.staging then s
    else
      let n := s.otherSlot
      let good := ok && s.slotOk n && s.mg.log.length + 1 + (s.fwComps n).length ≤ 256
      let s := s.modMg fun g => { g with staging := false, stagedOk := good }
      if good then ((s.fwState 2).raise mgmtPage 3).holdRequest 6 else s.fwState 3

/-- Step 3 and 4 of R458 with the agents' self-checks passed, or the return to the previous bundle (R459). A bundle that
was reverted is no longer staged (assumption 57); nor is one activated that a floor raised since has passed (R447). -/
def State.fwAdopt (s : State) (ok : Bool) : State :=
  if !s.mg.stagedOk then s
  else
    let n := s.otherSlot
    let ver := s.fwVersion n
    let svn := s.fwSvn n
    let s := (s.modMg fun g => { g with stagedOk := false }).fwState 0
    if ok && decide (s.mg.floor ≤ svn) then
      let s := (s.modMg fun g => { g with active := n }).measureSlot n
      let s := (s.setFlag mgmtPage offStatus 1 (n == 1)).raise mgmtPage 4
      s.agRecord 0x0005 [ver, svn, 1]
    else (s.raise mgmtPage 5).agRecord 0x0005 [ver, svn, 2]

/-- FW_CMD = 2: at once, while no image is active. What the agents' self-checks show there no operand tells: a free
value (assumption 59). -/
def State.fwActivateNow (s : State) : Bool × State :=
  if s.adm.active.isSome || !s.mg.stagedOk then (true, s)
  else
    let r := s.free
    (false, r.2.fwAdopt (bit r.1.toNat 0))

/-- FW_CMD = 3. -/
def State.fwDrop (s : State) : Bool × State :=
  if !s.mg.stagedOk then (true, s)
  else (false, (s.modMg fun g => { g with stagedOk := false }).fwState 0)

end Sys2Proof.Machine
end

