-- ==== Sys2Proof/Machine/Roce.lean ====
section
/-!
DEFINITION. Queue pairs, memory regions and RoCE (R368 to R371), data intake (R372 to R380), front-end links (R383) and
endpoint DMA (R367).
-/
namespace Sys2Proof.Machine

def State.qp (s : State) (n : Nat) : Qp := sget {} s.host.qps n
def State.setQp (s : State) (n : Nat) (q : Qp) : State := s.modHost fun h => { h with qps := sput h.qps n q }

def Qp.port (q : Qp) : Nat := fieldAt q.attrs 0 1 % 2
def Qp.mtu (q : Qp) : Nat := 1024 * 2 ^ (fieldAt q.attrs 1 1 % 4)
def Qp.retry (q : Qp) : Nat := fieldAt q.attrs 0x35 1 % 8

/-- Packets of a message. -/
def Qp.packets (q : Qp) (len : Nat) : Nat := max 1 (ceilDiv len q.mtu)

/-- Transmission of the flow-controlled priority is paused on a port (R368). -/
def State.pausedPort (s : State) (p : Nat) : Bool :=
  s.flag (fePage p) offControl 1 && s.host.paused.contains (p * 8 + s.field (fePage p) 0x120 2 0)

/-- Sends the request packets of an operation, unless a pause holds them. -/
def State.sendOp (s : State) (n : Nat) (o : RdmaOp) : State :=
  let q := s.qp n
  if s.pausedPort q.port || o.sent then s
  else
    let s := s.bump64 (fePage q.port) 0x40 (if o.write then o.len else 0)
    let s := s.say (.rdma n o.write o.remote o.key o.psn o.len o.data)
    s.setQp n { q with ops := q.ops.map fun x => if x.id == o.id then { x with sent := true } else x }

/-- Adds an operation to a QP and sends it. -/
def State.postOp (s : State) (n : Nat) (o : RdmaOp) : State :=
  let q := s.qp n
  let o := { o with psn := q.sendPsn }
  let s := s.setQp n { q with ops := q.ops ++ [o], sendPsn := (q.sendPsn + q.packets o.len) % 2 ^ 24 }
  s.sendOp n o

def State.modIntake (s : State) (f : Intake → Intake) : State := s.modHost fun h => { h with intake := f h.intake }

/-- The engine gives its reads up, at a new plan or a restore: those in progress end on their QPs as any other READ, and an
INTAKE_OFF that waited for them completes. -/
def State.dropIntake (s : State) : State :=
  let loose (q : Qp) : Qp :=
    { q with ops := (q.ops.filter fun o => !(o.intake && o.len ≤ o.got)).map fun o => { o with intake := false } }
  let s := s.modHost fun h => { h with qps := h.qps.map fun e => (e.1, loose e.2) }
  let s := match s.host.intake.offSeq with
    | some seq => s.cmdDone seq stOk 0
    | none => s
  s.modIntake fun i => { i with reads := [], started := [], offSeq := none }

/-- The intake engine stops on a failed read (R377). -/
def State.intakeStall (s : State) (qpn range : Nat) : State :=
  let s := s.modIntake fun i => { i with stalled := true }
  let s := (s.setFlag hostPage offStatus 3 true).raise hostPage 6
  s.wrN hostPage 0x130 (qpn % 2048 + range % 16 * 2 ^ 16)

/-- A QP whose operations have ended leaves, where QP_DESTROY waits. -/
def State.qpSettle (s : State) (n : Nat) : State :=
  let q := s.qp n
  match q.leaving with
  | some seq =>
    if q.ops.isEmpty then (s.modHost fun h => { h with qps := sdel h.qps n }).cmdDone seq stOk 0 else s
  | none => s

/-- A QP enters ERROR: its operations end, and an intake read on it stalls the engine (R369, R377, R383). -/
def State.qpError (s : State) (n : Nat) : State :=
  let q := s.qp n
  if q.state == 4 then s
  else
    let page := fePage q.port
    let s := (s.bumpSat page offErrCount).raise page 2
    -- a drain to storage on it fails (R426)
    let s := if s.pen.storing && n == s.field penPage 0x140 10 0 then (s.modPen fun p => { p with storing := false }).raise penPage 4
      else s
    let s := q.ops.foldl (fun s o =>
      let s := match o.seq with
        | some seq => s.cmdDone seq stQpError 0
        | none => s
      if o.intake then s.intakeStall n (((s.host.intake.reads.find? (·.id == o.id)).map (·.range)).getD 0) else s) s
    let s := (s.setQp n { q with state := 4, ops := [] }).qpSettle n
    if q.ops.any (·.hold.isSome) then s.tryReady else s

/-! ## Ring commands on QPs and regions -/

def execQpCreate (seq : Nat) (s : State) : Host.Outcome State Fault Refusal :=
  runOn s fun s => s.runCmd seq 0x10 fun c s =>
    let n := c.arg 0 % 2048
    let q := s.qp n
    -- a QP in RESET or in ERROR may be created anew (R379; assumption 40)
    if q.state != 0 && q.state != 4 then s.cmdDone c.seq stRefused 0
    else
      let attrs := slice c.payload 0 0x38
      (s.setQp n { state := 1, attrs := attrs }).cmdDone c.seq stOk 0

def execQpModify (seq : Nat) (s : State) : Host.Outcome State Fault Refusal :=
  runOn s fun s => s.runCmd seq 0x11 fun c s =>
    let n := c.arg 0 % 2048
    let goal := bits (c.arg 0) 18 16
    let q := s.qp n
    let p := slice c.payload 0 0x38
    if goal == 2 && (q.state == 1 || q.state == 4) then
      let attrs := patch q.attrs 0 (p.take 0x30)
      (s.setQp n { q with state := 2, attrs := attrs, expPsn := fieldAt p 0x24 3, ops := [], tries := 0 }).cmdDone c.seq stOk 0
    else if goal == 3 && q.state == 2 then
      let attrs := patch q.attrs 0x30 ((p.drop 0x30).take 8)
      (s.setQp n { q with state := 3, attrs := attrs, sendPsn := fieldAt p 0x30 3 }).cmdDone c.seq stOk 0
    else if goal == 4 && q.state != 0 then (s.qpError n).cmdDone c.seq stOk 0
    else s.cmdDone c.seq stRefused 0

def execQpDestroy (seq : Nat) (s : State) : Host.Outcome State Fault Refusal :=
  runOn s fun s => s.runCmd seq 0x12 fun c s =>
    let n := c.arg 0 % 2048
    if (s.qp n).state == 0 then s.cmdDone c.seq stRefused 0
    else (s.setQp n { s.qp n with leaving := some c.seq }).qpSettle n

def State.mr (s : State) (i : Nat) : Mr := sget {} s.host.mrs i

def execMrReg (seq : Nat) (s : State) : Host.Outcome State Fault Refusal :=
  runOn s fun s => s.runCmd seq 0x13 fun c s =>
    let i := c.arg 2 % 4096
    if !inStacks (c.arg 0) (c.arg 1) then s.cmdDone c.seq stAddress 0
    else
      let gen := ((s.mr i).gen + 1) % 2 ^ 20
      let m : Mr := { gen := gen, valid := true, start := c.arg 0, len := c.arg 1, write := bit (c.arg 2) 12,
                      read := bit (c.arg 2) 13 }
      (s.modHost fun h => { h with mrs := sput h.mrs i m }).cmdDone c.seq stOk (i + gen * 4096)

/-- MR_DEREG: an operation that uses a region is one command here, so none is in progress. -/
def execMrDereg (seq : Nat) (s : State) : Host.Outcome State Fault Refusal :=
  runOn s fun s => s.runCmd seq 0x14 fun c s =>
    let i := c.arg 2 % 4096
    (s.modHost fun h => { h with mrs := sput h.mrs i { s.mr i with valid := false } }).cmdDone c.seq stOk 0

/-- RDMA_POST: a READ waits while 16 are outstanding on its QP. -/
def execRdmaPost (seq : Nat) (s : State) : Host.Outcome State Fault Refusal :=
  runOn s fun s =>
    match s.cmd seq with
    | none => s
    | some c =>
      let n := c.arg 0 % 2048
      let q := s.qp n
      let write := bit (c.arg 0) 16
      let len := c.arg 2
      if !write && ((q.ops.filter fun o => !o.write).length ≥ 16) then s
      else s.runCmd seq 0x15 fun c s =>
        if q.state != 3 then s.cmdDone c.seq stRefused 0
        else if !inStacks (c.arg 1) len || len == 0 || len > 2 ^ 31 then s.cmdDone c.seq stAddress 0
        else
          let p := c.payload
          let (id, s) := s.fresh
          let (d, s) := if write then s.modRead (c.arg 1) len else ([], s)
          s.postOp n { id := id, write := write, local_ := c.arg 1, len := len, remote := fieldAt p 0 8, key := fieldAt p 8 4,
                       psn := 0, data := d, seq := some c.seq }

/-! ## Packets -/

/-- A packet is received on its port; one that fails its ICRC is dropped and counted (Table 11.8). -/
def State.rxOk (s : State) (k : RocePkt) : Bool × State :=
  let page := fePage k.port
  if s.dusk then (false, s) else
  let s := s.bump64 page 0x48 k.data.length
  if k.icrcOk then (true, s)
  else (false, ((s.bump64 page 0x68).bumpSat page offErrCount).raise page 3)

/-- A CNP for an ECN-CE packet, at most one per QP per 50 µs (Table 11.8). -/
def State.ecn (s : State) (k : RocePkt) : State :=
  let recent := match sfind s.host.cnpAt k.qpn with
    | some t => s.now < t + 10000
    | none => false
  if k.ecnCe && !recent then
    ((s.modHost fun h => { h with cnpAt := sput h.cnpAt k.qpn s.now }).bump64 (fePage k.port) 0x58).say (.roce k.qpn 4 0 [])
  else s

/-- A region that a key names, with its rights and range (R369). -/
def State.mrOk (s : State) (key addr len : Nat) (write : Bool) : Bool :=
  let m := s.mr (key % 4096)
  m.valid && m.gen == key / 4096 && m.start ≤ addr && addr + len ≤ m.start + m.len && (if write then m.write else m.read)

/-- An incoming request: PSN order, duplicates, sequence NAK; then `f` (R368, R369). A duplicate WRITE is acknowledged, a
duplicate READ is served again. -/
def State.request_ (s : State) (k : RocePkt) (n : Nat) (write : Bool) (f : State → State) : State :=
  let (ok, s) := s.rxOk k
  let q := s.qp k.qpn
  if !ok || !(q.state == 2 || q.state == 3) || q.port != k.port then s
  else
    let s := s.ecn k
    let ahead := (k.psn + 2 ^ 24 - q.expPsn) % 2 ^ 24
    if ahead != 0 then
      if ahead < 2 ^ 23 then s.say (.roce k.qpn 1 q.expPsn [])
      else if write then s.say (.roce k.qpn 0 k.psn [])
      else if s.mrOk k.key k.addr k.len false then f s else s
    else if !s.mrOk k.key k.addr k.len write then
      ((s.say (.roce k.qpn 2 k.psn [])).raise (fePage k.port) 4).qpError k.qpn
    else f (s.setQp k.qpn { q with expPsn := (q.expPsn + n) % 2 ^ 24 })

/-- RDMA WRITE data is placed as a host store; it waits at the port while a home slice cannot take it (R369). -/
def execRdmaWriteRequest (k : RocePkt) (s : State) : Host.Outcome State Fault Refusal :=
  runPart (k.port < 2) s fun s =>
    if !s.rangeReady k.addr k.data.length then s
    else s.request_ k 1 true fun s =>
      (s.devWrite k.addr (sound k.data) 5 (.fe k.port)).say (.roce k.qpn 0 k.psn [])

def execRdmaReadRequest (k : RocePkt) (s : State) : Host.Outcome State Fault Refusal :=
  runPart (k.port < 2) s fun s =>
    if !s.rangeReady k.addr k.len then s
    else s.request_ k ((s.qp k.qpn).packets k.len) false fun s =>
      let (d, _, s) := s.devRead k.addr k.len 5 (.fe k.port) false false
      (s.bump64 (fePage k.port) 0x40 k.len).say (.roce k.qpn 3 k.psn d)

/-- Response data of a READ: placed in order at the operation's local address (R369). -/
def execRdmaReadResponse (k : RocePkt) (s : State) : Host.Outcome State Fault Refusal :=
  runPart (k.port < 2) s fun s =>
    let open_ (q : Qp) : Option RdmaOp := q.ops.find? fun o => !o.write && o.got < o.len
    if (open_ (s.qp k.qpn)).any fun o => o.hold.isNone && !s.rangeReady (o.local_ + o.got) k.data.length then s
    else
      let (ok, s) := s.rxOk k
      let q := s.qp k.qpn
      if !ok || q.state != 3 || q.port != k.port then s
      else match open_ q with
        | none => s
        | some o =>
          if (o.psn + o.got / q.mtu) % 2 ^ 24 != k.psn then s
          else
            let d := k.data.take (o.len - o.got)
            let s := s.ecn k
            let s := if o.hold.isSome then s else s.devWrite (o.local_ + o.got) (sound d) 5 (.fe k.port)
            let o' := { o with got := o.got + d.length, data := if o.hold.isSome then o.data ++ sound d else o.data }
            let full := o'.got ≥ o.len
            let q := s.qp k.qpn
            if full && !o.intake then
              let s := s.setQp k.qpn { q with ops := q.ops.filter (·.id != o.id), tries := 0 }
              let s := match o.seq with
                | some seq => s.cmdDone seq stOk 0
                | none => s
              let s := match o.hold with
                | some key => s.holdData key o'.data
                | none => s
              s.qpSettle k.qpn
            else s.setQp k.qpn { q with ops := q.ops.map (fun x => if x.id == o.id then o' else x), tries := 0 }

/-- An acknowledgement completes the WRITEs that it covers (R368). -/
def execRoceAck (k : RocePkt) (s : State) : Host.Outcome State Fault Refusal :=
  runPart (k.port < 2) s fun s =>
    let (ok, s) := s.rxOk k
    if !ok || (s.qp k.qpn).port != k.port then s
    else
      let q := s.qp k.qpn
      let covers (o : RdmaOp) : Bool :=
        o.write && (k.psn + 2 ^ 24 - (o.psn + q.packets o.len - 1)) % 2 ^ 24 < 2 ^ 23
      let s := (q.ops.filter covers).foldl (fun s o => match o.seq with
        | some seq => s.cmdDone seq stOk 0
        | none => s) s
      (s.setQp k.qpn { q with ops := q.ops.filter (fun o => !covers o), tries := 0 }).qpSettle k.qpn

/-- Go-back-N: every operation from a PSN on is sent again (R368). -/
def State.goBack (s : State) (n psn : Nat) : State :=
  let q := s.qp n
  let late (o : RdmaOp) : Bool := (o.psn + q.packets o.len + 0xFFFFFF - psn) % 0x1000000 < 0x800000
  let again := q.ops.filter late
  let count := again.foldl (fun m o => m + q.packets o.len) 0
  let s := s.bump64 (fePage q.port) 0x50 count
  let redo (o : RdmaOp) : RdmaOp := if late o then { o with sent := false } else o
  let s := s.setQp n { q with ops := q.ops.map redo }
  again.foldl (fun s o => s.sendOp n { o with sent := false }) s

def execRoceNak (k : RocePkt) (error : Bool) (s : State) : Host.Outcome State Fault Refusal :=
  runPart (k.port < 2) s fun s =>
    let (ok, s) := s.rxOk k
    if !ok || (s.qp k.qpn).port != k.port then s
    else if error then (if (s.qp k.qpn).state == 0 then s else s.qpError k.qpn)
    else s.goBack k.qpn k.psn

/-- A RoCE timeout retransmits or, after the retries, moves the QP to ERROR (R368). -/
def execRetransmitTimeout (qpn : Nat) (s : State) : Host.Outcome State Fault Refusal :=
  runPart (qpn < 2048) s fun s =>
    let q := s.qp qpn
    match q.ops.head? with
    | none => s
    | some o =>
      if q.tries ≥ q.retry then s.qpError qpn
      else (s.setQp qpn { q with tries := q.tries + 1 }).goBack qpn o.psn

/-- A CNP halves the rate limit, down to 1 Gb/s (R370). -/
def execCnp (k : RocePkt) (s : State) : Host.Outcome State Fault Refusal :=
  runPart (k.port < 2) s fun s =>
    let (ok, s) := s.rxOk k
    if !ok || (s.qp k.qpn).port != k.port then s
    else
      let q := s.qp k.qpn
      (s.setQp k.qpn { q with rate := max 1024 (q.rate / 2) }).bump64 (fePage k.port) 0x60

/-- 55 µs without a CNP raise the rate limit by 5 Gb/s, up to the port rate (R370). -/
def execRateIncrease (qpn : Nat) (s : State) : Host.Outcome State Fault Refusal :=
  runPart (qpn < 2048) s fun s =>
    let q := s.qp qpn
    if q.state == 0 then s else s.setQp qpn { q with rate := min 819200 (q.rate + 5120) }

/-- Sends the operations of a port that a pause no longer holds. -/
def State.sendWaiting (s : State) (p : Nat) : State :=
  s.host.qps.foldl (fun s e => if e.2.port == p then e.2.ops.foldl (fun s o => s.sendOp e.1 o) s else s) s

/-- An IEEE 802.1Qbb frame pauses or resumes the priority of PFC_CFG (R368). -/
def execPriorityFlowControl (p prio : Nat) (pause : Bool) (s : State) : Host.Outcome State Fault Refusal :=
  runPart (p < 2 && prio < 8) s fun s =>
    let key := p * 8 + prio
    (s.modHost fun h => { h with paused := if pause then insNat key h.paused else h.paused.filter (· != key) }).sendWaiting p

/-! ## Front-end links (R383) -/

/-- The QPs bound to a port move to ERROR. -/
def State.portQps (s : State) (p : Nat) : State :=
  (s.host.qps.filter fun e => e.2.port == p && e.2.state != 0).foldl (fun s e => s.qpError e.1) s

def State.feDown (s : State) (p : Nat) : State :=
  if s.flag (fePage p) offStatus 0 then (s.setField (fePage p) offStatus 2 0 0).raise (fePage p) 1 else s

def execFeLinkDown (p : Nat) (s : State) : Host.Outcome State Fault Refusal := runPart (p < 2) s (·.feDown p)

def execFeLinkUp (p pmd : Nat) (s : State) : Host.Outcome State Fault Refusal :=
  runPart (p < 2) s fun s =>
    if s.flag (fePage p) offControl 0 then
      (s.setField (fePage p) offStatus 2 0 (1 + 2 * (pmd % 4))).raise (fePage p) 0
    else s

/-- CONTROL.PORT_EN of a front-end port. -/
def State.feEnable (s : State) (p : Nat) (v : Bool) : State :=
  let s := s.setFlag (fePage p) offControl 0 v
  if v then s else (s.feDown p).portQps p

/-- Endpoint DMA below a PCIe-mode port (R367). -/
def execEndpointDma (p addr len : Nat) (write : Option (List Byte)) (s : State) : Host.Outcome State Fault Refusal :=
  runPart (p < 2) s fun s =>
    if s.dusk || !(s.flag (pciePage p) offStatus 0 && !s.flag (pciePage p) offStatus 1) then s
    else
      let n := match write with
        | some d => d.length
        | none => len
      if !s.inHost addr n then s.say (.completion p false [])
      else match write with
        | some d => (s.devWrite addr (sound d) 5 (.pcie p)).say (.completion p true [])
        | none =>
          let (d, s) := s.readStack addr n (.pcie p)
          s.say (.completion p true d)

/-! ## Intake (R372 to R380) -/

/-- Both copies of the pair region that holds an address: its base and length. -/
def Image.inPair (i : Image) (a n : Nat) : Bool := i.pairs.any fun p => p.base0 ≤ a && a + n ≤ p.base0 + p.len

/-- Reads an intake descriptor (Table 11.10); none where R372 refuses it. -/
def State.parsePlan (s : State) (bs : List Byte) : Option Plan :=
  let f (o n : Nat) : Nat := fieldAt bs o n
  let nr := f 0x30 1
  let rs : List IRange := (List.range (min nr 16)).map fun i =>
    { first := f (0x40 + 16 * i) 4, count := f (0x44 + 16 * i) 4, dest := f (0x48 + 16 * i) 6 }
  let p : Plan := { recBytes := f 0 4, extRecs := f 4 4, nExt := f 8 4, extents := f 0x10 6, nrec := f 0x18 8,
                    curBase := f 0x20 8, stepBase := f 0x28 6, ranges := rs }
  let zero := f 0x0C 4 == 0 && f 0x16 2 == 0 && f 0x2E 2 == 0 && ((bs.drop 0x31).take 15).all (· == 0) &&
    ((List.range nr).all fun i => f (0x4E + 16 * i) 2 == 0) && (bs.drop (0x40 + 16 * nr)).all (· == 0)
  let shape := 64 ≤ p.recBytes && p.recBytes ≤ 2 ^ 20 && p.recBytes % 64 == 0 && 1 ≤ p.extRecs && 1 ≤ p.nExt &&
    p.nExt ≤ 65536 && 1 ≤ nr && nr ≤ 16
  let span (r : IRange) : Nat × Nat := (r.dest, r.count * p.recBytes)
  let places := match s.adm.active with
    | none => false
    | some i => rs.all fun r => r.dest % 64 == 0 && i.inPair r.dest (r.count * p.recBytes) && r.first + r.count ≤ p.nrec
  let apart := (List.range rs.length).all fun a => (List.range rs.length).all fun b =>
    a == b || match rs[a]?, rs[b]? with
      | some x, some y => !overlap (span x) (span y)
      | _, _ => true
  if zero && shape && places && apart then some p else none

def execIntakeSet (seq : Nat) (s : State) : Host.Outcome State Fault Refusal :=
  runOn s fun s => s.awake fun s => s.runCmd seq 0x18 fun c s =>
    if !s.inHost (c.arg 0) 320 then s.cmdDone c.seq stAddress 0
    else
      let (d, s) := s.modRead (c.arg 0) 320
      match s.parsePlan (d.map (·.val)) with
      | none => s.cmdDone c.seq stFormat 0
      | some p =>
        let s := s.dropIntake.modIntake fun _ => { plan := some p, on := true }
        ((s.setFlag hostPage offStatus 2 true).setFlag hostPage offStatus 3 false).cmdDone c.seq stOk 0

/-- C(S) of R373. -/
def Plan.cursor (p : Plan) (step : Nat) : Nat := p.curBase + (step - p.stepBase) * p.nrec

/-- An extent entry (R372): QPN, remote address, key. -/
def State.extent (s : State) (p : Plan) (e : Nat) : Nat × Nat × Nat :=
  let a := p.extents + 32 * e
  (s.peekN a 2 % 2048, s.peekN (a + 8) 8, s.peekN (a + 16) 4)

/-- The reads of one range of a step, in ascending record order: at most 256 KiB, each within one extent (R375). -/
def State.rangeReads (s : State) (p : Plan) (step ri : Nat) (r : IRange) : Nat → Nat → List IRead
  | 0, _ => []
  | fuel + 1, done =>
    let total := r.count * p.recBytes
    if done ≥ total then []
    else
      let b := r.first + done / p.recBytes
      let rec_ := p.cursor step + b
      let inRec := done % p.recBytes
      let e := rec_ / p.extRecs % p.nExt
      let left := (p.extRecs - rec_ % p.extRecs) * p.recBytes - inRec
      let n := min (min 262144 left) (total - done)
      let (qpn, remote, key) := s.extent p e
      let x : IRead := { id := 0, step := step, range := ri, qpn := qpn, key := key, len := n,
                         remote := remote + (rec_ % p.extRecs) * p.recBytes + inRec,
                         dest := s.translate step (r.dest + done) }
      x :: s.rangeReads p step ri r fuel (done + n)

/-- Issues the reads that may be issued: the QP in RTS with fewer than 16 outstanding; a QP in another state is a failed
read (R375, R377). -/
def State.issueReads (s : State) : State :=
  s.host.intake.reads.foldl (fun s r =>
    if r.issued || s.host.intake.stalled || !s.host.intake.on then s
    else
      let q := s.qp r.qpn
      if q.state != 3 then s.intakeStall r.qpn r.range
      else if (q.ops.filter fun o => !o.write).length ≥ 16 then s
      else
        let s := s.modIntake fun i => { i with reads := i.reads.map fun x => if x.id == r.id then { x with issued := true } else x }
        s.postOp r.qpn { id := r.id, write := false, local_ := r.dest, len := r.len, remote := r.remote, key := r.key, psn := 0,
                         intake := true }) s

/-- The intake of the next step that may start, S or S + 1, starts (R375); later calls issue what waits. -/
def execIntakeStart (s : State) : Host.Outcome State Fault Refusal :=
  runOn s fun s =>
    let i := s.host.intake
    match i.plan with
    | none => s
    | some p =>
      if !i.on || i.stalled then s
      else match [s.steps.step, s.steps.step + 1].find? fun t => !i.started.contains t && !i.complete.contains t with
        | none => s.issueReads
        | some t =>
          let rs := (p.ranges.zip (List.range p.ranges.length)).foldl (fun acc (r, k) =>
            acc ++ s.rangeReads p t k r (r.count * p.recBytes / 64 + 1) 0) []
          let (rs, s) := rs.foldl (fun (acc, s) r =>
            let (id, s) := s.fresh
            (acc ++ [{ r with id := id }], s)) (([] : List IRead), s)
          let s := s.modIntake fun i => { i with reads := i.reads ++ rs, started := i.started ++ [t] }
          s.issueReads

/-- An intake step with no read left is complete. -/
def State.intakeSettle (s : State) (t : Nat) : State :=
  let i := s.host.intake
  if i.started.contains t && !(i.reads.any (·.step == t)) then
    s.modIntake fun i => { i with started := i.started.filter (· != t), complete := (i.complete ++ [t]).filter (s.steps.step ≤ · + 1)
                                  top := some (max t (i.top.getD 0)) }
  else s

/-- An intake read lands or fails (R375, R377). -/
def execIntakeReadDone (id : Nat) (ok : Bool) (s : State) : Host.Outcome State Fault Refusal :=
  runOn s fun s =>
    match s.host.intake.reads.find? fun r => r.id == id && r.issued with
    | none => s
    | some r =>
      let q := s.qp r.qpn
      if !ok then
        (if q.state == 4 || q.state == 0 then s.intakeStall r.qpn r.range else s.qpError r.qpn)
      else if !(q.ops.any fun o => o.id == id && o.got ≥ o.len) then s
      else
        let s := (s.setQp r.qpn { q with ops := q.ops.filter (·.id != id) }).qpSettle r.qpn
        let s := s.modIntake fun i => { i with reads := i.reads.filter (·.id != id) }
        let s := s.intakeSettle r.step
        let s := match s.host.intake.offSeq with
          | some seq =>
            if s.host.intake.reads.any (·.issued) then s
            else (s.modIntake fun i => { i with offSeq := none, reads := [], started := [] }).cmdDone seq stOk 0
          | none => s
        s.issueReads

/-- INTAKE_RESUME (R380): every read that did not complete is issued again, from extent entries as they now stand. -/
def execIntakeResume (seq : Nat) (s : State) : Host.Outcome State Fault Refusal :=
  runOn s fun s => s.runCmd seq 0x19 fun c s =>
    let s :=
      if s.host.intake.stalled then
        let ids := s.host.qps.foldl (fun acc e => acc ++ e.2.ops.map (·.id)) []
        let s := s.modIntake fun i => { i with
          stalled := false, reads := i.reads.map fun r => { r with issued := r.issued && ids.contains r.id } }
        (s.setFlag hostPage offStatus 3 false).issueReads
      else s
    s.cmdDone c.seq stOk 0

/-- INTAKE_OFF: stops intake after its reads in progress. -/
def execIntakeOff (seq : Nat) (s : State) : Host.Outcome State Fault Refusal :=
  runOn s fun s => s.runCmd seq 0x1A fun c s =>
    let s := (s.setFlag hostPage offStatus 2 false).modIntake fun i => { i with on := false }
    if s.host.intake.reads.any (·.issued) then s.modIntake fun i => { i with offSeq := some c.seq }
    else (s.modIntake fun i => { i with reads := [], started := [] }).cmdDone c.seq stOk 0

end Sys2Proof.Machine
end

