-- ==== Sys2Proof/Machine/Penumbra.lean ====
section
/-!
DEFINITION. Penumbra: inputs, budgets, score and reports (R415 to R419). x_i is held in units of 1/61,440, in which every
full scale and budget of Tables 13.3 and 13.4 is whole.
-/
namespace Sys2Proof.Machine

/-- Denominator of x_i. -/
def xOne : Nat := 61440

/-- Weights of Table 13.3. -/
def penWeight (i : Nat) : Nat :=
  [6144, 6144, 12288, 8192, 12288, 8192, 8192, 16384, 12288, 4096, 32768].getD i 0

/-- Full scales of the windowed inputs. -/
def penScale (i : Nat) : Nat := match i with
  | 0 => 4096
  | 1 => 4096
  | 2 => 4
  | 3 => 16
  | 6 => 8
  | 8 => 4
  | 9 => 64
  | _ => 1

def windowed (i : Nat) : Bool := i != 4 && i != 5 && i != 7

/-! ## Budgets (Table 13.4) -/

def State.sitesIn (s : State) (st : Nat) : Nat := (List.range 1152).countP fun t => (s.siteEnt t).st == st

/-- Failed lanes of a slice as a share of its groups' spares. -/
def Slice.laneShare (x : Slice) : Nat :=
  let data (g : Nat × Nat) : Nat := min 8 (x.failedIn g) * 7680
  let ctl (g : Nat × Nat) : Nat := min 2 (x.failedIn g) * 30720
  max (max (data (2, 136)) (data (152, 136))) (max (ctl (138, 14)) (ctl (288, 14)))

def Stack.share (x : Stack) : Nat := if x.exhausted then xOne else min xOne (x.repaired.length * 15)

/-- Both ports of a torus direction DOWN: the whole budget; one: half. -/
def State.linkShare (s : State) (d : Nat) : Nat :=
  if s.portUnused (2 * d) then 0 else (portsOf d).countP (fun p => s.portSt p == 0) * 30720

/-- Used shares, by row of Table 13.4. -/
def State.budgets (s : State) : List Nat :=
  [(128 - min 128 (s.sitesIn 1)) * 480,
   s.slices.foldl (fun m e => max m (e.2.spared.length * 2560)) 0,
   s.slices.foldl (fun m e => max m e.2.laneShare) 0,
   s.hbm.foldl (fun m e => max m e.2.share) 0,
   (List.range 6).foldl (fun m d => max m (s.linkShare d)) 0]

/-- Position of the largest value, the first among equals. -/
def argmax (l : List Nat) : Nat :=
  let m := l.foldl max 0
  (l.findIdx? (· == m)).getD 0

/-- DEPLETION, BUDGET_LOW and BUDGET_EXHAUSTED, each as a share reaches its mark. -/
def State.budgetCheck (s : State) : State :=
  let l := s.budgets
  let low := (List.range l.length).filter fun k => l.getD k 0 * 4 ≥ xOne * 3
  let gone := (List.range l.length).filter fun k => l.getD k 0 ≥ xOne
  let s := if low.any fun k => !s.spare.low.contains k then s.raise sparePage 5 else s
  let s := if gone.any fun k => !s.spare.gone.contains k then s.raise sparePage 6 else s
  let s := s.modSpare fun x => { x with low := low, gone := gone }
  (s.wrN sparePage 0x10C (min 65535 (l.foldl max 0 * 65536 / xOne))).wrN sparePage 0x110 (argmax l)

/-! ## Samples (R415, R416) -/

/-- The largest control temperature, in 0.25 °C. -/
def State.hottest (s : State) : Option Int := s.therm.ctl.foldl (fun m e => match m with
  | none => some e.2
  | some x => some (max x e.2)) none

/-- The value of an input that is not windowed, as x_i; none when it fails its range check. -/
def State.xNow (s : State) (i : Nat) : Option Nat :=
  if i == 4 then match s.hottest with
    | none => some 0
    | some t => if t < -160 || 600 < t then none else some (min xOne ((t - 340) * 768).toNat)
  else if i == 5 then
    some (min xOne ((s.therm.suspect.length + s.therm.lost.length + b2n (s.therm.coolBad ≥ 100000)) * 15360))
  else some (s.budgets.foldl max 0)

/-- The buckets of a window after a sample: `turns` new ones have begun since the last (R415). -/
def winAdd (turns add : Nat) (b : List Nat) : List Nat :=
  match List.replicate turns 0 ++ b with
  | [] => [add]
  | x :: l => ((x + add) :: l).take 16

/-- Buckets of 4,096 frames that have begun since the last sample. -/
def State.winTurns (s : State) : Nat := match s.pen.sampleAt with
  | none => 0
  | some j => min 16 (s.gn.frame / 4096 - j / 4096)

/-- One input is sampled. -/
def State.penInputSample (s : State) (i : Nat) (answered : Bool) : State :=
  let old := sget 0 s.pen.x i
  if !answered then
    let n := sget 0 s.pen.missed i + 1
    let s := s.modPen fun p => { p with missed := sput p.missed i n, win := sset [] p.win i (winAdd s.winTurns 0 (sget [] p.win i)) }
    if n < 16 then s
    else
      let s := s.modPen fun p => { p with x := sset 0 p.x i (max old (xOne / 2)) }
      if n == 16 then s.raise penPage 12 else s
  else
    let s := s.modPen fun p => { p with missed := sdel p.missed i }
    if windowed i then
      let inc := sget 0 s.pen.raw i
      let s := s.modPen fun p => { p with raw := sdel p.raw i }
      let good := inc ≤ 2 ^ 20
      let add := if good then inc else 0
      let b := winAdd s.winTurns add (sget [] s.pen.win i)
      let x := min xOne (b.foldl (· + ·) 0 * (xOne / penScale i))
      let s := s.modPen fun p => { p with win := sset [] p.win i b }
      if good then s.modPen fun p => { p with x := sset 0 p.x i x } else s.raise penPage 11
    else match s.xNow i with
      | some x => s.modPen fun p => { p with x := sset 0 p.x i x }
      | none => s.raise penPage 11

/-- Score and TOP_INPUT (R417). -/
def State.penScore (s : State) : State :=
  let ws := (List.range 11).map fun i => penWeight i * sget 0 s.pen.x i
  let score := min 65535 (ws.foldl (· + ·) 0 / xOne)
  let s := (s.setField penPage 0x100 15 0 score).wrN penPage 0x108 (argmax ws)
  s.setFlag penPage offStatus 5 (score ≥ s.field penPage 0x104 15 0)

/-! ## Searching for a snapshot (R429) -/

/-- A management request of this module. -/
def State.ask (s : State) (dst op arg : Nat) (body : List Byte) (want : MgmtWant) (at_ left : Nat) : State :=
  let tag := s.ray.nextTag
  let q : MgmtReq := { tag := tag, dst := dst, want := want, at_ := at_, left := left }
  let s := { s with ray := { s.ray with nextTag := (tag + 1) % 2 ^ 24, reqs := s.ray.reqs ++ [q] } }
  s.sendMgmt dst { op := op, tag := tag, role := 0, arg := arg, src := 0, body := body }

/-- REG_READs of SNAP_BASE_LO, SNAP_BASE_HI and SNAP_SLOT of a module (R426). -/
def State.askPartner (s : State) (phys : Nat) (restore : Bool) : State :=
  let s := s.modPen fun p => { p with partner := some { phys := phys, restore := restore } }
  [(0, 0x118), (1, 0x11C), (2, 0x120)].foldl (fun s r =>
    s.ask phys 1 (penPage + r.2 / 4 * 2 ^ 20) [] (.partner r.1) 0 0) s

/-- Physical number of the module (m + PARTNER_STRIDE) mod M of a map; none where the stride is 0 mod M. -/
def State.partnerOf (s : State) (l : List Nat) (m : Nat) : Option Nat :=
  if s.stride % max l.length 1 == 0 then none else l[(m + s.stride) % l.length]?

/-- Remote address of a slot in storage (R426). -/
def State.storeAddr (s : State) (m k : Nat) : Nat :=
  s.rd64 penPage 0x148 + (m * s.field penPage 0x150 7 0 + k) * s.snapSlot

/-- RDMA READ of the restore engine from storage. -/
def State.storeRead (s : State) (remote len key : Nat) : State :=
  let r := s.fresh
  r.2.postOp (s.field penPage 0x140 10 0)
    { id := r.1, write := false, local_ := 0, len := len, remote := remote, key := s.rdN penPage 0x144, psn := 0, hold := some key }

/-- Headers of the storage slots are read, where the QP can. -/
def State.seekStorage (s : State) : State :=
  match s.logicalComing with
  | none => s
  | some m =>
    if !s.flag penPage offControl 2 || (s.qp (s.field penPage 0x140 10 0)).state != 3 then s.tryReady
    else (List.range (s.field penPage 0x150 7 0)).foldl (fun s k => s.storeRead (s.storeAddr m k) 256 (2 ^ 40 + k)) s

/-- The snapshots of its own do not serve the module: it holds none, or not that of the step ordered (R429). -/
def State.ownLacks (s : State) : Bool :=
  if s.pen.restore then !s.ownCands.any (·.step == s.pen.target) else s.ownCands.isEmpty

/-- A parked module that its own snapshots do not serve asks its partner, then storage. -/
def State.seek (s : State) : State :=
  match s.mapComing, s.logicalComing with
  | some l, some m =>
    if s.holdState != 3 || s.pen.sought || !s.ownLacks then s
    else
      let s := s.modPen fun p => { p with sought := true }
      match s.partnerOf l m with
      | some phys => s.askPartner phys true
      | none => s.seekStorage
  | _, _ => s

/-! ## Rows -/

/-- PENUMBRA_SAMPLE: once at each frame J with J mod 64 = 0; `answered` says which inputs' sources answered. -/
def execPenumbraSample (answered : List Bool) (s : State) : Host.Outcome State Fault Refusal :=
  runOn s fun s =>
    if !s.gn.running || s.gn.frame % 64 != 0 || s.pen.sampleAt == some s.gn.frame then s
    else
      let s := s.budgetCheck
      let s := (List.range 11).foldl (fun s i => s.penInputSample i (answered.getD i true)) s
      let s := s.modPen fun p => { p with sampleAt := some s.gn.frame }
      let s := s.penScore.seek
      if s.gn.master then s.masterAct
      else s.penUp 0 (s.pen.kids.foldl (fun a k => mergePen a k.2) s.ownReport)

/-- PENUMBRA_REPORT from a child. -/
def execPenumbraReport (p : Nat) (m : PenumbraMsg) (s : State) : Host.Outcome State Fault Refusal :=
  runPart (p < 16) s fun s =>
    if !s.portUp p then s
    else
      let s := (s.ctrlIn p).modPen fun x => { x with kids := sput x.kids p m, planUs := if x.fh.isSome then max x.planUs m.tUs else x.planUs }
      (s.setField penPage 0x100 31 16 (m.score % 65536)).masterAct

/-- HOLD_REQ: cause OPERATOR; the bit reads 1 until the hold begins. -/
def State.holdReq (s : State) : State := ((s.setFlag penPage offControl 0 true).holdRequest 4).masterAct

/-- RESTORE_REQ: the module parks, and the master orders every module to. -/
def State.restoreReq (s : State) : State :=
  let s := s.setFlag penPage offControl 1 true
  (if s.gn.master && s.gn.running then s.orderPark else s.park).seek

end Sys2Proof.Machine
end

