-- ==== Sys2Proof/Machine/Holds.lean ====
section
/-!
DEFINITION. Eclipse holds and their work (R420 to R422, Table 13.7), snapshots and drains (R424 to R426), parks and restores
(R427 to R431).
-/
namespace Sys2Proof.Machine

/-! ## Drains (R426) -/

/-- The bytes of own slot n: header and body. -/
def State.slotData (s : State) (n : Nat) : List PByte × State :=
  let len := fieldAt (s.peek (s.slotAddr n) 256) 0x50 8
  s.modRead (s.slotAddr n) (256 + len)

/-- The drain of hold `no` to storage: the body, then the header. -/
def State.drainStore (s : State) (n no : Nat) : State :=
  let q := s.field penPage 0x140 10 0
  if !s.flag penPage offControl 2 then s
  else if (s.qp q).state != 3 then s.raise penPage 4
  else
    let (d, s) := s.slotData n
    let dest := s.storeAddr (s.logical.getD 0) (no % max (s.field penPage 0x150 7 0) 1)
    let post (s : State) (off : Nat) (d : List PByte) : State :=
      let r := s.fresh
      r.2.postOp q { id := r.1, write := true, local_ := s.slotAddr n + off, len := d.length, remote := dest + off,
                     key := s.rdN penPage 0x144, psn := 0, data := d }
    let s := s.modPen fun p => { p with storing := true }
    let s := if d.length > 256 then post s 256 (d.drop 256) else s
    post s 0 (d.take 256)

/-- BULK frames of own slot n to an address of a module: ascending, the header last. -/
def State.drainFrames (s : State) (phys addr n : Nat) : State :=
  let (d, s) := s.slotData n
  let f : RayFrame := { emptyFrame with type := 8, akind := true, dstPhys := phys, srcPhys := s.phys }
  let frames := markLast (rowFrames f (addr + 256) (d.drop 256) ++ rowFrames f addr (d.take 256))
  frames.foldl (fun s f => s.sendUnscheduled f) s

/-- The drain to the partner begins with the partner's SNAP registers. -/
def State.drainPartner (s : State) : State :=
  match s.ray.map, s.logical with
  | some l, some m => match s.partnerOf l m with
    | some phys => s.askPartner phys false
    | none => s.raise penPage 4
  | _, _ => s.raise penPage 4

/-- COMPLETE is written: both drains of own slot n begin, for hold `no`. -/
def State.drainBegin (s : State) (n no : Nat) : State :=
  let s := (s.modPen fun p => { p with draining := some n, storing := false, partner := none })
  let s := (s.setFlag penPage offStatus 4 true).wrN penPage 0x154 0
  let s := (s.drainStore n no).drainPartner
  if s.pen.storing || s.pen.partner.isSome then s
  else (s.modPen fun p => { p with draining := none }).setFlag penPage offStatus 4 false

/-- The partner did not answer, or its slot is too small: no drain to it in this hold; a restore asks storage. -/
def State.partnerLost (s : State) : State :=
  match s.pen.partner with
  | none => s
  | some q =>
    let s := s.modPen fun p => { p with partner := none }
    let s := { s with ray := { s.ray with reqs := s.ray.reqs.filter fun r => match r.want with
      | .partner _ => false
      | _ => true } }
    if q.restore then s.seekStorage
    else
      let s := s.raise penPage 4
      if s.pen.storing then s else (s.modPen fun p => { p with draining := none }).setFlag penPage offStatus 4 false

/-- SNAP_BASE and the slot size that the partner answered. -/
def Partner.place (q : Partner) : Nat × Nat :=
  ((sget 0 q.regs 0).toNat / 4096 * 4096 + (sget 0 q.regs 1).toNat % 65536 * 2 ^ 32, (sget 0 q.regs 2).toNat % 2 ^ 24 * 2 ^ 20)

/-- An answer to a REG_READ of the partner. -/
def State.partnerReply (s : State) (reg : Nat) (v : Word) : State :=
  match s.pen.partner with
  | none => s
  | some q =>
    let q := { q with regs := sput q.regs reg v }
    let s := s.modPen fun p => { p with partner := some q }
    if q.regs.length < 3 then s
    else
      let (base, size) := q.place
      if q.restore then [2, 3].foldl (fun s n => s.ask q.phys 4 (base + n * size) (natLe 2 4) (.head n) 0 256) s
      else match s.pen.draining with
        | none => s
        | some n =>
          let bytes := fieldAt (s.peek (s.slotAddr n) 256) 0x50 8
          if size < 256 + bytes then s.partnerLost else s.drainFrames q.phys (base + (2 + n) * size) n

/-- A part of the drains is still to be answered, sent or acknowledged: the partner's registers, the WRITEs of the drain to
storage, or BULK frames that wait here. -/
def State.drainOpen (s : State) : Bool :=
  let bulk (f : RayFrame) : Bool := f.type == 8 && f.srcPhys == s.phys
  s.ray.reqs.any (fun q => match q.want with
    | .partner _ => true
    | _ => false) ||
  (s.pen.storing && (s.qp (s.field penPage 0x140 10 0)).ops.any fun o => o.write && o.seq.isNone) ||
  s.ray.waiting.any (fun x => bulk x.1) || s.ray.ports.any fun p => p.2.waitingItems.any fun x => bulk x.frame

/-- DRAIN_DONE: every drain is acknowledged, or one failed. -/
def execDrainDone (ok : Bool) (s : State) : Host.Outcome State Fault Refusal :=
  runOn s fun s =>
    match s.pen.draining with
    | none => s
    | some _ =>
      if ok && s.drainOpen then s
      else
      let s := s.modPen fun p => { p with draining := none, storing := false, partner := none }
      let s := s.setFlag penPage offStatus 4 false
      if ok then (s.wrN penPage 0x154 100).raise penPage 3 else s.raise penPage 4

/-! ## Snapshots (R424, R425) -/

/-- The snapshot of a boundary hold: the header without COMPLETE, and every range that is not in the slow tier. -/
def State.snapBegin (s : State) (i : Image) : State :=
  let n := s.pen.ordNo % 2
  let s := if s.pen.draining == some n then
      (s.modPen fun p => { p with draining := none, storing := false, partner := none }).setFlag penPage offStatus 4 false
    else s
  let body := s.snapBody i s.steps.step
  let s := s.modWrite (s.slotAddr n) (sound (s.snapHeader i (bodyBytes body)))
  let r := body.foldl (fun (acc : State × Nat × List (Nat × Nat × Nat)) x =>
    let (s, at_, later) := acc
    if x.2.2 then (s, at_ + x.2.1, later ++ [(x.1, at_, x.2.1)])
    else
      let (d, s) := s.modRead x.1 x.2.1
      (s.modWrite at_ d, at_ + x.2.1, later)) (s, s.slotAddr n + 256, [])
  r.1.modPen fun p => { p with snap := some { slot := n, no := s.pen.ordNo, step := s.steps.step, later := r.2.2, bytes := bodyBytes body } }

/-- SNAP_DONE: slow ranges are copied once the hold has ended, then DIGEST and COMPLETE are written, and the drains begin. -/
def execSnapDone (s : State) : Host.Outcome State Fault Refusal :=
  runOn s fun s =>
    match s.pen.snap, s.adm.active with
    | some j, some _ =>
      if !j.later.isEmpty && s.holdState != 0 then s
      else
        let s := j.later.foldl (fun s x =>
          let (d, s) := s.modRead x.1 x.2.2
          s.modWrite x.2.1 d) s
        let a := s.slotAddr j.slot
        let (d, s) := s.modRead (a + 256) j.bytes
        let s := s.modWrite (a + 0x60) (sound (sha256 (d.map (·.val))))
        let s := s.modWrite (a + 0xA0) (sound [1])
        let s := s.modPen fun p => { p with snap := none }
        let s := (s.setFlag penPage offStatus 3 true).wrN penPage 0x12C j.step
        let s := (s.wrN penPage 0x130 (j.step / 2 ^ 32 % 65536)).raise penPage 2
        s.drainBegin j.slot j.no
    | _, _ => s

/-! ## Restores (R429, R430) -/

/-- The image that the restore activates: the armed one, else the active one. -/
def State.restoreImage (s : State) : Option Image := if s.adm.state == 4 then s.adm.img else s.adm.active

/-- R430 item 1, on the bytes of a slot. -/
def snapFits (i : Image) (d : List PByte) : Bool :=
  let h := d.map (·.val)
  slice h 0x60 32 == sha256 (h.drop 256) && fieldAt h 0x18 8 == i.numerics && fieldAt h 0x20 8 == i.seed

/-- The restore is refused: the module is parked again, and FAIL goes up. -/
def State.restoreRefuse (s : State) (event : Bool) : State :=
  let s := if event then (s.raise penPage 8).agRecord 0x2007 [3, s.pen.target % 2 ^ 32] else s
  let s := s.modPen fun p => { p with failed := true, restore := false, fh := none, pick := none, buf := [] }
  (s.setHold 3).tryReady

/-- The copy begins: own slots are checked at once, pieces of the others are asked for. -/
def State.restoreBegin (s : State) : State :=
  match s.allCands.find? (·.step == s.pen.target), s.restoreImage with
  | some c, some i =>
    let s := s.modPen fun p => { p with pick := some c, buf := [] }
    let len := 256 + c.bytes
    if c.place < 2 then
      let (d, s) := s.slotData c.place
      if snapFits i d then s else s.restoreRefuse true
    else if c.place < 4 then match s.pen.partner with
      | none => s.restoreRefuse false
      | some q =>
        let (base, size) := q.place
        (List.range (ceilDiv len 65536)).foldl (fun s k =>
          let n := min 65536 (ceilDiv (len - 65536 * k) 64 * 64)
          s.ask q.phys 4 (base + c.place * size + 65536 * k) (natLe 2 (n / 64)) (.restore (65536 * k)) 0 n) s
    else s.storeRead (s.storeAddr (s.logicalComing.getD 0) (c.place - 4)) len 0
  | _, _ => s.restoreRefuse false

/-- Every piece that was asked for has come. -/
def State.restoreIn (s : State) : Bool :=
  !(s.ray.reqs.any fun q => match q.want with
    | .restore _ => true
    | _ => false) && !(s.host.qps.any fun q => q.2.ops.any (·.hold.isSome))

/-- The bytes of the snapshot being restored. -/
def State.restoreData (s : State) (c : Cand) : List PByte × State :=
  if c.place < 2 then s.slotData c.place
  else ((s.pen.buf.foldl (fun acc x => acc ++ x.2) []).take (256 + c.bytes), s)

/-- R430 items 2 to 7 for image i, from the bytes of a slot; the image runs from frame fa. -/
def State.restoreFrom (s : State) (i : Image) (d : List PByte) (fa : Nat) : State :=
  let h := (d.take 256).map (·.val)
  let step := fieldAt h 8 6
  let armed := s.adm.state == 4
  -- an armed image brings its PAYLOAD and its Spectrum table (R156) before the restored ranges
  let s := if armed then (s.payloadCopy i).spectrumReset i else s
  let s := match s.spare.staged with
    | some m => (s.modSpare fun x => { x with staged := none }).siteMapSwitch m
    | none => s
  let s := s.mapSwitch
  -- every block lies in its stack home
  let s := { s with res := (List.range (min (s.blockCount i) 262144)).map fun n => (n, { s.resEnt n with tier := 1, moving := false })
                    moves := [] }
  let s := (s.snapBody i step).foldl (fun (acc : State × List PByte) x =>
    (acc.1.modWrite x.1 (acc.2.take x.2.1), acc.2.drop x.2.1)) (s, d.drop 256) |>.1
  let s := { s with steps := { step := step, ls := signedOf 8 (fieldAt h 0x28 1), run := fieldAt h 0x29 2 } }
  let s := s.dropIntake.modIntake fun x =>
    let plan : Option Plan := x.plan.map fun p => { p with curBase := fieldAt h 0x30 8, stepBase := step }
    { x with plan := plan, complete := [], top := none }
  let s := if i.specN == 0 then s else s.modWrite (i.specBase + 8) (sound (natLe 2 (s.specEpoch i + 1)))
  let s := s.tiles.foldl (fun s e => s.modTile e.1 fun x =>
    { x.atStart with dmaq := [], mirror := none, spectrum := [], specDue := [], rescale := [] }) s
  let s := { s with glints := [], ray := { s.ray with ck := [] } }
  s.bringUp i fa armed false true

/-- RESTORE_DONE: at S(K + 1), with the copy complete. -/
def execRestoreDone (s : State) : Host.Outcome State Fault Refusal :=
  runOn s fun s =>
    match s.pen.pick, s.restoreImage, s.pen.fh with
    | some c, some i, some fh =>
      -- a spare module learns its place in the frames from the decision for frame K
      let start := match s.gn.dec with
        | some x => if x.frame + 1 == fh then some x.next else none
        | none => none
      let due := if s.gn.running then fh ≤ s.gn.frame else start.any (· ≤ s.gn.count)
      if s.holdState != 4 || !due || !s.restoreIn then s
      else
        let (d, s) := s.restoreData c
        if !snapFits i d then s.restoreRefuse true
        else
          let s := if s.gn.running then s
            else s.modGn fun g => { g with running := true, frame := fh, start := start.getD 0 }
          let s := s.restoreFrom i d fh
          let s := (s.raise penPage 7).agRecord 0x2007 [2, c.step % 2 ^ 32]
          let s := (s.setFlag penPage offControl 1 false).setHold 2
          s.modPen fun p => { p with pick := none, buf := [], cands := [], partner := none, failed := false, sought := false
                                     ready := [], served := p.served ++ s.deadPorts }
    | _, _, _ => s

/-! ## Parks and their orders -/

/-- PARK: ORDER MODE 1 from the upstream, passed on; or a ROLLBACK that was applied (R427). -/
def execPark (s : State) : Host.Outcome State Fault Refusal :=
  runOn s fun s =>
    if s.holdState ≥ 3 then s
    else if s.steps.rollTo then s.park.seek
    else match s.gn.upstream with
      | some p => ((s.ctrlIn p).penDown 1 { emptyPen with cause := 128 }).park.seek
      | none => s

/-- HOLD_TIMEOUT: a boundary hold has not begun 8,192 frames after F_h. -/
def execHoldTimeout (s : State) : Host.Outcome State Fault Refusal :=
  runOn s fun s =>
    match s.pen.fh with
    | some f => if s.gn.master && s.holdState == 1 && f + 8192 ≤ s.gn.frame then s.orderPark.seek else s
    | none => s

/-- READY from a child. -/
def execReady (p : Nat) (m : PenumbraMsg) (s : State) : Host.Outcome State Fault Refusal :=
  runPart (p < 16) s fun s =>
    if !s.portUp p then s
    else ((s.ctrlIn p).modPen fun x => { x with ready := sput x.ready p m }).tryReady.seek

/-- RESTORE_HOLD: ORDER MODE 2 from the upstream. -/
def execRestoreHold (m : PenumbraMsg) (s : State) : Host.Outcome State Fault Refusal :=
  runOn s fun s =>
    match s.gn.upstream with
    | none => s
    | some p =>
      let s := (s.ctrlIn p).penDown 2 m
      if s.holdState != 3 then s
      else (s.modPen fun x => { x with fh := some (m.frame + 1), restore := true, target := m.step }).seek

/-- BOUNDARY_HOLD_ORDER: ORDER MODE 0 from the upstream. -/
def execBoundaryHoldOrder (m : PenumbraMsg) (s : State) : Host.Outcome State Fault Refusal :=
  runOn s fun s =>
    match s.gn.upstream with
    | none => s
    | some p =>
      let s := (s.ctrlIn p).penDown 0 m
      if s.holdState != 0 || s.adm.active.isNone then s else s.takeHold (m.frame + 1) m.holdNo m.cause

/-! ## Holds -/

/-- The module is quiet for a boundary hold (R421). -/
def State.quietNow (s : State) : Bool :=
  s.carryingSites.all (fun t => !s.running t || (s.atHold t && !(s.tile t).waitVerdict && (s.tile t).mirror.isNone)) &&
    s.steps.phase == .exec && s.steps.own.isNone && s.xfers.isEmpty && s.glints.isEmpty && s.retries.isEmpty &&
    s.held.isEmpty && !s.moves.any (·.running)

/-- The module may begin its hold now. -/
def State.holdDue (s : State) : Bool := match s.pen.fh with
  | none => false
  | some fh =>
    if s.pen.restore then
      s.holdState == 3 && s.xfers.isEmpty && !s.seeking && (if s.gn.running then fh ≤ s.gn.frame + 1 else s.gn.dec.any fun d => fh ≤ d.frame + 1)
    else s.holdState == 1 && s.quietNow

/-- FREQ_MEAS of a site as re-measured (R34): never above FREQ_FUSE nor below 400 MHz. -/
def State.remeasure (s : State) (t f : Nat) : State :=
  if t ≥ 1152 then s
  else
    let s := s.wrN t 0x108 (max 400 (min f (s.rdN t 0x104)) / 25 * 25)
    if s.rdN t 0x110 > s.freqMax t then s.wrN t 0x110 (s.freqMax t) else s

/-- A suspect sensor that re-qualified (R405). -/
def State.requalSensor (s : State) (n : Nat) : State :=
  if !s.therm.suspect.contains n then s
  else
    let l := s.therm.suspect.filter (· != n)
    let s := { s with therm := { s.therm with 
      suspect := l, fused := s.therm.fused.filter (· != n), overs := sdel s.therm.overs n } }
    (s.wrN thermPage 0x134 (l.length % 256)).raise thermPage 6

/-- A failed lane that re-qualified (R230); a face that is sound again returns at the next frame boundary. -/
def State.requalLane (s : State) (k lane : Nat) : State :=
  let x := s.slice k
  if k ≥ 2304 || !x.lanesBad.contains lane then s
  else
    let y : Slice := { x with lanesBad := x.lanesBad.filter (· != lane) }
    let y : Slice := { y with halfFor := y.halfFor.filter fun g => laneGroups.any fun r => r.1 == g && 1 ≤ y.failedIn r }
    let s := s.setSlice k y
    if x.faceDown && !y.lanesDown then s.modSpare fun z => { z with faces := insNat k z.faces } else s

/-- Hold work of Table 13.7 beside the snapshot and the restore. -/
def State.holdWork (s : State) (w : HoldWork) : State :=
  let s := s.fwAdopt w.fwOk
  let s := w.remeasured.foldl (fun s x => s.remeasure x.1 x.2) s
  let s := w.requalSens.foldl State.requalSensor s
  let s := w.requalLane.foldl (fun s x => s.requalLane x.1 x.2) s
  let s := match w.retune with
    | some l => s.tuneLanes l
    | none => s
  w.mergeOk.foldl (fun s k => if k < 2304 && (s.slice k).parity then s.beginRecode k false else s) s

/-- HOLD_BEGIN (R421). -/
def execHoldBegin (w : HoldWork) (s : State) : Host.Outcome State Fault Refusal :=
  runOn s fun s =>
    if !s.holdDue then s
    else
      let restore := s.pen.restore
      let s := (s.setHold (if restore then 4 else 2)).raise penPage 0
      let s := s.setFlag penPage offControl 0 false
      let s := s.modPen fun p => { p with
        causes := p.causes ||| p.cause ||| (if restore then 128 else 0), cause := 0, kids := [], holdAt := s.now, duskIn := 0 }
      -- kind 5 of Table 13.11
      let left := s.tiles.foldl (fun n e => e.2.dmaq.foldl (fun n q => n + q.2.length) n) 0
      let s := if left != 0 then s.consFault 5 left else s
      let s := if restore then s else s.wrN penPage 0x134 s.pen.ordNo
      let s := match s.adm.active with
        | some i => if !restore && s.pen.snapOk then s.snapBegin i else s
        | none => s
      let s := s.holdWork w
      -- the route table is loaded for DEAD modules or changed routes (Table 13.7)
      let s := if (List.range 10).any s.dirDead || !s.ray.dead.isEmpty then s.loadRoutes else s
      if restore then s.restoreBegin else s

/-- A tile is late in the frame in progress (R45). -/
def State.lateTile (s : State) (t : Nat) : State :=
  let s := (s.raise t 0).bump t 0x124
  let s := s.modTile t fun x => { x with late := true }
  s.modPow fun p => { p with lowNow := true }

/-- HOLD_END: the tiles are released at S(K + 1), late when the work ends later. -/
def execHoldEnd (s : State) : Host.Outcome State Fault Refusal :=
  runOn s fun s =>
    match s.pen.fh with
    | none => s
    | some fh =>
      if s.holdState != 2 || s.gn.frame < fh then s
      else
        let us := (s.now - s.pen.holdAt - s.pen.duskIn) / 200
        let s := (s.setHold 0).raise penPage 1
        let s := (s.wrN penPage 0x138 us).agRecord 0x2006 [s.pen.ordNo, s.pen.causes, us]
        let late := s.gn.frame > fh || s.gn.count > s.gn.start
        let s := s.modPen fun p => { p with fh := none, restore := false, causes := 0, lastEnd := some s.gn.frame }
        let s := s.resetTokens
        let s := { s with ag := { s.ag with saved := s.ag.next } }
        if late && s.carryingSites.any s.running then
          (s.forSites fun s t => if s.running t then s.lateTile t else s).ownLate s.gn.frame
        else s

end Sys2Proof.Machine
end

