-- ==== Sys2Proof/Machine/Boundary.lean ====
section
/-!
DEFINITION. The frame boundary (R124, R45, R254, R320, R437) and the write of DONE_STEP (R121).
-/
namespace Sys2Proof.Machine

/-- Whether a running tile is late for frame j (R45): it has not reached the FRAME of j. At a switch the last instruction
before j must have issued (R156). A module that is parked, or in the gap of its hold, has no late tile (R421, R427). -/
def State.isLate (s : State) (j t : Nat) : Bool :=
  if !s.running t || s.parked || (s.holdState == 2 && s.pen.fh == some j) then false
  else if s.adm.go == some j then match s.streamOf t with
    | some (_, r) => (s.tile t).pos != r.proLen || (s.tile t).reentry.isSome
    | none => false
  else !((s.tile t).reached.any (·.1 == j))

/-- Lateness and margins at the start of frame j (R45, R135, R397). -/
def State.boundaryTiles (s : State) (j : Nat) : State :=
  let late := s.carryingSites.filter (s.isLate j)
  let s := late.foldl State.lateTile s
  let s := if late.isEmpty then s else s.ownLate j
  s.carryingSites.foldl (fun s t => match (s.tile t).reached with
    | some (k, c) => if k == j then s.margin t ((s.gn.start : Int) - c) else s
    | none => s) s

/-- THRASH at a frame boundary (R254). -/
def State.thrashCheck (s : State) : State :=
  s.slices.foldl (fun s e =>
    let page := slicePage e.1
    let n := s.field page 0x114 15 0
    let s := if s.flag page offControl 1 && n > s.field page 0x10C 15 0 then (s.raise page 5).bump page 0x110 else s
    s.setField page 0x114 15 0 0) s

/-- Drops the directory entries of a slice's lines (Table 13.10 step 3). -/
def State.dropEntries (s : State) (k : Nat) : State :=
  { s with dirs := s.dirs.map fun b => (b.1, { b.2 with ents := b.2.ents.filter fun e => s.homeSlice e.line != some k }) }

/-- Units that passed their self-test are admitted (Table 13.10 step 4). -/
def State.admitUnits (s : State) : State :=
  let w := s.spare.waiting
  let f := s.spare.faces
  let s := s.modSpare fun x => { x with waiting := [], faces := [] }
  let s := w.foldl (fun s x => (s.siteState x.1 x.2.1).raiseIf x.2.2 sparePage 3) s
  f.foldl (fun s k =>
    if (s.slice k).lanesDown then s
    else ((s.modSlice k fun x => { x with faceDown := false }).dropEntries k).raise sparePage 3) s

/-- An AUDIT frame before any other (R320); retrain counts and waiting classes start anew (R317, R335). -/
def State.boundaryPorts (s : State) : State :=
  let audit : TxItem := { frame := { emptyFrame with type := 6 }, pool := 127 }
  let s := (List.range 16).foldl (fun s p =>
    s.modPort p fun x => { x with replays := 0, txq := if s.portUp p then audit :: x.txq else x.txq }) s
  { s with ray := { s.ray with routes := (List.range 16).filter fun p => !s.portUp p } }.rerouteWaiting

/-- Spotlight's count of frames with a low margin, by period (R401). -/
def State.boundarySpot (s : State) (j : Nat) : State :=
  s.modPow fun p =>
    let low := p.low + b2n p.lowNow
    if j % 16 == 0 then { p with low := 0, lowLast := low, lowNow := false, demands := [] } else { p with low := low, lowNow := false }

/-- Soft margin losses lower FREQ_MEAS at the boundary (R34). -/
def State.softDrops (s : State) : State :=
  (s.tiles.filter (·.2.softDrop)).foldl (fun s e =>
    (s.modTile e.1 fun x => { x with softDrop := false }).freqDrop e.1 25) s

/-- FRAME_BOUNDARY: the count has reached S(J). -/
def execFrameBoundary (s : State) : Host.Outcome State Fault Refusal :=
  runOn s fun s =>
    match s.nextStart with
    | none => s
    | some n =>
      if s.gn.count < n then s
      else
        let j := s.gn.frame + 1
        let s := s.modGn fun g => { g with frame := j, start := n }
        let s := s.modFr fun f => if f.rep.1 == j then f else { f with rep := (j, false) }
        let tiles : Sparse Tile := s.tiles.map fun (e : Nat × Tile) => (e.1, { e.2 with late := false })
        let s := { s with tiles := tiles }
        let s := ((s.boundarySpot j).admitUnits.softDrops).dimFrame j
        (s.boundaryTiles j).thrashCheck.noteFrame.boundaryPorts

/-! ## DONE_STEP -/

/-- Every flush of a committed step has been performed: those of the tiles, and the counts for the header (R120, R121). -/
def State.flushed (s : State) (step : Nat) : Bool :=
  !s.steps.hdrDue.any (·.1 == step) &&
    !s.tiles.any fun e => (e.2.specStep == step && !e.2.spectrum.isEmpty) || e.2.specDue.any (·.1 == step)

/-- The Spectrum table of a committed step can be written now: its header and the lines of its bank (R261, R265). -/
def State.doneReady (s : State) (step base n : Nat) : Bool :=
  n == 0 || (s.rangeReady base 256 && s.rangeReady (base + 256 + step % 4 * 32 * n) (32 * n))

/-- The bank of a committed step goes back to stack memory, then DONE_GT and DONE_STEP are written (R121). -/
def State.writeDone (s : State) (step base n : Nat) : State :=
  if n == 0 then s
  else
    let s := (s.dirtyIn (base + 256 + step % 4 * 32 * n) (32 * n)).foldl State.cleanLine s
    let s := s.modWrite (base + 0x18) (sound (natLe 8 s.gn.count))
    s.modWrite (base + 0x10) (sound (natLe 8 step))

/-- DONE_STEP_WRITE: for the oldest committed step, once all that counts in it has been flushed. -/
def execDoneStepWrite (s : State) : Host.Outcome State Fault Refusal :=
  runOn s fun s =>
    let s := s.hdrFlush
    match s.steps.doneSteps with
    | [] => s
    | (step, base, n) :: rest =>
      if !s.flushed step || !s.doneReady step base n then s
      else (s.modSteps fun x => { x with doneSteps := rest }).writeDone step base n

end Sys2Proof.Machine
end

