-- ==== Sys2Proof/Machine/Thermal.lean ====
section
/-!
DEFINITION. Sensors, Halo estimates and thermal actions (R403 to R407).

Temperatures are in 0.25 °C. A Halo estimate is formed exactly, in µ°C, and rounded down to 0.25 °C.
-/
namespace Sys2Proof.Machine

def State.modTherm (s : State) (f : Therm → Therm) : State := { s with therm := f s.therm }

/-- Sensor of a die at region i. -/
def sensorOf (die i : Nat) : Nat := die * 64 + i

/-- The reading of a sensor in a sample; one that the sample does not give keeps its value. -/
def State.reading (s : State) (x : ThermalSample) (n : Nat) : Int :=
  let l := if n < 64 then x.lumen else if n < 128 then x.shadeL else x.shadeU
  l.getD (n % 64) (sget 0 s.therm.raw n)

/-- k · p and c of a die in µ°C. -/
def haloTerm (die p : Nat) : Int := (((Config.haloK die).toNat * p : Nat) : Int)
def haloBase (die : Nat) : Int := (Config.haloC die).toInt * 10000

/-- The Halo estimate of sensor n from readings t (R404): none where it needs a suspect sensor. -/
def haloOf (suspect : List Nat) (t : Nat → Int) (p : Nat → Nat) (n : Nat) : Option Int :=
  let i := n % 64
  let die := n / 64
  if die == 0 then
    if suspect.contains (sensorOf 1 i) || suspect.contains (sensorOf 2 i) then none
    else some (((t (sensorOf 1 i) + t (sensorOf 2 i)) * 125000 + haloTerm 0 (p i) + haloBase 0) / 250000)
  else if suspect.contains i then none
  else some ((t i * 250000 - haloTerm die (p i) + haloBase die) / 250000)

/-- The largest unsuspected reading of the three dies at region i. -/
def bestReading (suspect : List Nat) (t : Nat → Int) (i : Nat) : Option Int :=
  [i, 64 + i, 128 + i].foldl (fun m n =>
    if suspect.contains n then m
    else match m with
      | none => some (t n)
      | some x => some (max x (t n))) none

/-- The control temperature of region n (R404, R405). Where no sensor of the three dies is unsuspected, the manual states
none: a free value. -/
def State.controlTemp (s : State) (t : Nat → Int) (n : Nat) (halo : Option Int) : Int × State :=
  match halo with
  | some h => (if s.therm.suspect.contains n then h + 20 else t n, s)
  | none => match bestReading s.therm.suspect t (n % 64) with
    | some x => (x + 40, s)
    | none =>
      let r := s.free
      (signedOf 12 (r.1.toNat % 4096), r.2)

/-- The sensors are read: readings, estimates and control temperatures. -/
def State.senseAll (s : State) (x : ThermalSample) : State :=
  let t := s.reading x
  let ns := List.range 192
  let halos := ns.map fun n => (n, haloOf s.therm.suspect t (fun i => x.powerW.getD i 0) n)
  let (ctl, s) := halos.foldl (fun (acc, s) (n, h) =>
    let r := State.controlTemp s t n h
    (acc ++ [(n, r.1)], r.2)) (([] : Sparse Int), s)
  s.modTherm fun y => { y with
    raw := ns.map fun n => (n, t n)
    halo := halos.filterMap fun (n, h) => h.map fun v => (n, v)
    ctl := ctl }

/-- A sensor whose estimate stood more than 6 °C above it for 1,000 samples becomes suspect (R405). -/
def State.suspectSensor (s : State) (n : Nat) : State :=
  let s := s.modTherm fun y => { y with
    suspect := insNat n y.suspect
    fused := if s.fuseOk 4 then insNat n y.fused else y.fused
    overs := sdel y.overs n }
  let s := s.raise thermPage 3
  (s.agRecord 0x2008 [n / 64, n % 64, fieldOf 12 (sget 0 s.therm.raw n), fieldOf 12 (sget 0 s.therm.halo n)]).holdRequest 5

def State.suspectCheck (s : State) : State :=
  (List.range 192).foldl (fun s n =>
    if s.therm.suspect.contains n then s
    else match sfind s.therm.halo n with
      | some h =>
        if h - sget 0 s.therm.raw n > 24 then
          let c := sget 0 s.therm.overs n + 1
          if c ≥ 1000 then s.suspectSensor n else s.modTherm fun y => { y with overs := sput y.overs n c }
        else s.modTherm fun y => { y with overs := sdel y.overs n }
      | none => s.modTherm fun y => { y with overs := sdel y.overs n }) s

/-- Regions whose estimate is not formed (R404). -/
def State.lostCheck (s : State) : State :=
  let lost := (List.range 192).filter fun n => (sfind s.therm.halo n).isNone
  let new := lost.any fun n => !s.therm.lost.contains n
  let s := s.modTherm fun y => { y with lost := lost }
  if new then s.raise thermPage 4 else s

/-- A region reached `lim` at this sample. -/
def reached (was now : Sparse Int) (lim : Int) : Bool :=
  now.any fun e => lim ≤ e.2 && (match sfind was e.1 with
    | some v => decide (v < lim)
    | none => true)

/-- The caps of the regions' tiles, once per ms (R406), and the operating points under them. -/
def State.capStep (s : State) : State :=
  let caps := (List.range 64).foldl (fun (m : Sparse Nat) i =>
    let l := [i, 64 + i, 128 + i].map fun n => sget 0 s.therm.ctl n
    let c := sget 2400 m i
    if l.any (380 ≤ ·) then sset 2400 m i (max 400 (c - 100))
    else if l.all (· < 368) then sset 2400 m i (min 2400 (c + 25)) else m) s.pow.caps
  if caps = s.pow.caps then s
  else
    let s := { s with pow := { s.pow with caps := caps } }
    -- with no phase in progress there is no planned frequency to return to
    let want (s : State) (t : Nat) : Nat := if s.pow.phase.isNone then s.rdN t 0x110 else s.field t 0x2E0 11 0
    let s := s.carryingSites.foldl (fun s t => s.wrN t 0x110 (min (want s t) (s.freqCap t))) s
    (List.range 32).foldl (fun s r => s.setRowMv r) s

/-- Dusk for heat (R406): a region at 103 °C or above for 100 µs; the cause clears when every region was below 95 °C for
1 ms. -/
def State.heatDusk (s : State) : State :=
  let hot := s.therm.ctl.foldl (fun (m : Sparse Nat) e => if 412 ≤ e.2 then sput m e.1 (sget 0 s.therm.hot e.1 + 1) else m) []
  let cool := if s.therm.ctl.all (·.2 < 380) then s.therm.cool + 1 else 0
  let began := hot.any fun e => e.2 == 10
  let s := s.modTherm fun y => { y with hot := hot, cool := cool }
  let s := if began then (s.raise thermPage 2).duskEnter duskThermal else s
  if cool ≥ 100 then s.setFlag powPage offStatus duskThermal false else s

/-- Coolant (R407). -/
def State.coolant (s : State) (x : ThermalSample) : State :=
  let s := ((s.wrN thermPage 0x128 (fieldOf 12 x.coolIn)).wrN thermPage 0x12C (fieldOf 12 x.coolOut)).wrN thermPage 0x130
    (x.flow % 4096)
  let n := if 140 < x.coolIn || x.flow < 200 then s.therm.coolBad + 1 else 0
  let s := s.modTherm fun y => { y with coolBad := n }
  if n == 100000 then s.raise thermPage 5 else s

/-- The thermal page's status and maxima. -/
def State.thermRegs (s : State) : State :=
  let top (d : Nat) : Int := ((s.therm.ctl.filter fun e => e.1 / 64 == d).map (·.2)).foldl max (-2048)
  let s := s.setFlag thermPage offStatus 0 (s.therm.ctl.any (380 ≤ ·.2))
  let s := s.setFlag thermPage offStatus 1 (s.therm.ctl.any (400 ≤ ·.2))
  let s := s.setFlag thermPage offStatus 2 (!s.therm.suspect.isEmpty)
  let s := s.setFlag thermPage offStatus 3 (!s.therm.lost.isEmpty)
  let s := s.wrN thermPage 0x134 (s.therm.suspect.length % 256)
  (List.range 3).foldl (fun s d => s.wrN thermPage (0x114 + 4 * d) (fieldOf 12 (top d))) s

/-- THERMAL_SAMPLE. A reading or a control temperature of 110 °C opens the input switch (R406). -/
def execThermalSample (x : ThermalSample) (s : State) : Host.Outcome State Fault Refusal :=
  runOn s fun s =>
    let was := s.therm.ctl
    let s := ((s.senseAll x).lostCheck).suspectCheck
    let s := if reached was s.therm.ctl 380 then s.raise thermPage 0 else s
    let s := if reached was s.therm.ctl 400 then s.raise thermPage 1 else s
    let s := (s.heatDusk.coolant x).thermRegs
    let s := if s.therm.ticks + 1 < 100 then s.modTherm fun y => { y with ticks := y.ticks + 1 }
      else (s.modTherm fun y => { y with ticks := 0 }).capStep
    if s.therm.raw.any (440 ≤ ·.2) || s.therm.ctl.any (440 ≤ ·.2) then s.stop else s

end Sys2Proof.Machine
end

