-- ==== Sys2Proof/Machine/Boot.lean ====
section
/-!
DEFINITION. Power-on and recovery (R441 to R448).

POWER_ON is the whole sequence of Table 14.1. What only the environment decides comes with the command: which flash items
can be read, which front-end links come up, and what the ROM measures of itself and of the fuses.
-/
namespace Sys2Proof.Machine

/-- Ends a step: its BOOT_STEP record. How many ms have passed by then is free within the step's bound; `extra` extends
the bound where the manual lifts it (R507). The number carried is the ms of the step before. -/
def State.bootStep (s : State) (ms n bound extra : Nat) : State × Nat :=
  let r := s.free
  let t := ms + r.1.toNat % (bound + extra + 1 - ms)
  (r.2.agRecord 2 [n, t], t)

/-- BOOT_HALT at a step (R443): a bundle on TCP port 5152 is the only recovery. -/
def State.bootHalt (s : State) (step : Nat) : State :=
  ((s.modMg fun g => { g with recovery := true }).raise mgmtPage 9).agRecord 3 [step]

/-- The slot that the ROM boots, with the fallback of R445; none for recovery. -/
def State.selectSlot (s : State) : Option State :=
  if s.slotOk s.mg.active then some s
  else if s.slotOk s.otherSlot then
    let s := (s.modMg fun g => { g with active := s.otherSlot }).raise mgmtPage 6
    some (s.agRecord 5 [s.fwVersion s.mg.active, s.fwSvn s.mg.active, 3])
  else none

/-- Recovery (R445): the ROM waits for a bundle. -/
def State.enterRecovery (s : State) : State := (s.modMg fun g => { g with recovery := true }).setFlag mgmtPage offStatus 4 true

/-- Step 1: the boot count, the GAP record first, then POWER_ON (R441, R468). The saved record number follows the
numbering, so that no number is used twice (R467; assumption 68). -/
def State.boot1 (s : State) : State :=
  let n := s.rdN mgmtPage 0x1C4 + 1
  let s := s.wrN mgmtPage 0x1C4 n
  let at_ := s.ag.saved + 4096
  let s := { s with ag := { s.ag with next := at_, saved := at_ } }
  let s := s.setFlag agPage offStatus 0 (sfind s.ag.kept 4095).isSome
  (s.agRecord 0x200F [4096]).agRecord 1 [n, s.mg.active]

/-- Step 2: the ROM, the fuses and the bundle are measured (R446; assumption 66). -/
def State.boot2 (s : State) (e : BootEnv) : State :=
  let s := s.modMg fun g => { g with log := [], digest := List.replicate 32 0 }
  let s := ((s.measure 0 0 0 0 (sha256 e.rom)).measure 1 0 0 0 (sha256 e.fuses)).measureSlot s.mg.active
  s.setFlag mgmtPage offStatus 1 (s.mg.active == 1)

/-- Step 3: every domain is powered, soft fuses are re-applied and lanes tuned (R230). -/
def State.boot3 (s : State) (e : BootEnv) : State :=
  let s := (s.wrN powPage 0x12C 0xFFFFFFFF).wrN powPage 0x130 0xFFFF
  let slices := s.slices.map fun (e : Nat × Slice) => (e.1, { e.2 with faceDown := e.2.lanesDown })
  let s := { s with slices := slices }
  (s.wrN thermPage 0x134 (s.therm.suspect.length % 256)).tuneLanes e.swept

/-- An RWL field: page, offset, the bits that are fields, and whether a value lies in its range. -/
structure Rwl where
  page : Nat
  off  : Nat
  mask : Nat
  ok   : Nat → Bool

/-- The RWL fields in the order of the configuration record: those of Table 14.4, then MODE_SEL of the two PCIe/CXL ports
(Table 11.13; assumption 107). -/
def rwlFields : List Rwl :=
  [⟨mgmtPage, 0x100, 0xFFFFFFFF, fun v => decide (1 ≤ v ∧ v ≤ 16)⟩, ⟨mgmtPage, 0x104, 0xFFFFFFFF, fun v => decide (v ≤ 1)⟩,
   ⟨mgmtPage, 0x108, 0xFFFFFFFF, fun v => decide (v ≤ 7)⟩, ⟨mgmtPage, 0x10C, 0x3FFEFFFF, fun _ => true⟩,
   ⟨mgmtPage, 0x110, 0xFFFFFFFF, fun v => decide (v ≤ 31)⟩, ⟨pciePage 0, 0x140, 0xFFFFFFFF, fun v => decide (v ≤ 2)⟩,
   ⟨pciePage 1, 0x140, 0xFFFFFFFF, fun v => decide (v ≤ 2)⟩]

/-- Step 4: boot code writes the RWL fields and seals them (R448). A value out of range leaves its field at the reset
value. -/
def State.boot4 (s : State) : State :=
  let s := match s.mg.config with
    | none => s
    | some l =>
      let s := (rwlFields.zip l).foldl (fun (s : State) (x : Rwl × Word) =>
        if x.1.ok x.2.toNat then s.wrN x.1.page x.1.off (x.2.toNat &&& x.1.mask) else s) s
      s.measure 4 0 0 0 (sha256 (l.foldl (fun (acc : List Byte) (w : Word) => acc ++ natLe 4 w.toNat) []))
  let s := (s.modMg fun g => { g with sealed := true }).setFlag mgmtPage offStatus 0 true
  s.agRecord 4 [s.rdN mgmtPage 0x100, s.rdN mgmtPage 0x108]

/-- Step 6: the stores hold zero data, which is what unlisted cells read as (R442), the site map is applied, and the sites
are released. -/
def State.boot6 (s : State) : State :=
  let s := (s.setFlag mgmtPage offStatus 3 true).wrN mgmtPage 0x1C0 100
  let down := (s.slices.filter (·.2.faceDown)).map (·.1)
  (List.range 32).foldl (fun s r => s.setRowMv r) { s with spare := { s.spare with mapDown := down } }

/-- A Ray port that DIMS and SKIP leave unused shows UNUSED; another that was unused is DOWN, or trains (Table 10.14). -/
def State.portModes (s : State) : State :=
  (List.range 16).foldl (fun s p =>
    if s.portUnused p then s.setPortSt p 6
    else if s.portSt p == 6 then s.setPortSt p (if s.flag (rayPage p) offControl 0 then 1 else 0) else s) s

/-- Step 7: ports train, and the module accepts a first image. -/
def State.boot7 (s : State) (e : BootEnv) : State :=
  let s := (List.range 16).foldl (fun s p => s.setPortSt p (if s.portUnused p then 6 else 1)) s
  let s := e.trainedFe.foldl (fun s x =>
    if x.1 < 2 then (s.setField (fePage x.1) offStatus 2 0 (1 + 2 * (x.2 % 4))).raise (fePage x.1) 0 else s) s
  s.modMg fun g => { g with health := true }

/-- Steps 2 (after the slot is chosen) to 7. -/
def State.bootRest (s : State) (e : BootEnv) (ms late : Nat) : State :=
  let (s, ms) := (s.boot2 e).bootStep ms 2 60 late
  if !e.softFusesOk then s.bootHalt 3
  else
    let (s, ms) := (s.boot3 e).bootStep ms 3 150 late
    let (s, ms) := s.boot4.bootStep ms 4 155 late
    let (s, ms) := (s.setFlag mgmtPage offStatus 2 true).bootStep ms 5 180 late
    if !e.siteMapOk then s.bootHalt 6
    else
      let r := s.free
      let late := if e.alertClear then late else late + r.1.toNat % 2 ^ 30
      let s := if e.alertClear then s else r.2
      let (s, ms) := s.boot6.bootStep ms 6 280 late
      let (s, _) := (s.boot7 e).bootStep ms 7 1000 late
      { s with pow := { s.pow with off := false } }

/-- The power-on sequence, from a module without power or from a controller that recovery restarted. -/
def State.powerOn (s : State) (e : BootEnv) : State :=
  if s.mg.restarted then
    let r := s.free
    (r.2.modMg fun g => { g with restarted := false }).bootRest e 0 (r.1.toNat % 2 ^ 30)
  else
    let (s, ms) := s.cold.boot1.bootStep 0 1 10 0
    if !e.slotsOk then s.bootHalt 2
    else match s.selectSlot with
      | some s => s.bootRest e ms 0
      | none => s.enterRecovery

/-- POWER_ON. A module in service has its input already. -/
def execPowerOn (e : BootEnv) (s : State) : Host.Outcome State Fault Refusal :=
  .next (if s.pow.off then finish s (s.powerOn e) else s)

/-- RECOVERY_BUNDLE (R445): written to slot A and checked; a good one restarts the controller, whose ROM boots it. The
rest of the power-on sequence is then a POWER_ON. -/
def execRecoveryBundle (bundle : List Byte) (s : State) : Host.Outcome State Fault Refusal :=
  .next (
    if !s.mg.recovery || bundle.length > 2 ^ 25 then s
    else
      let t := s.putSlot 0 0 bundle
      if !t.slotOk 0 then t
      else
        let t := (t.modMg fun g => { g with recovery := false, restarted := true }).setFlag mgmtPage offStatus 4 false
        finish s (t.selectSlot.getD t))

end Sys2Proof.Machine
end

