-- ==== Sys2Proof/Machine/Recorder.lean ====
section
/-!
DEFINITION. The Afterglow areas: the kept area in flash and clears (R468, R469).
-/
namespace Sys2Proof.Machine

def State.modAg (s : State) (f : Ag → Ag) : State := { s with ag := f s.ag }

/-- KEPT_RECORD_WRITE: the oldest record that waits reaches the kept area, or flash fails it (Table 15.3). Nothing is
written while an erase runs (R469). -/
def execKeptRecordWrite (ok : Bool) (s : State) : Host.Outcome State Fault Refusal :=
  runOn s fun s =>
    match s.ag.keptPend with
    | n :: rest =>
      if s.ag.clearing then s
      else
        let s := s.modAg fun a => { a with keptPend := rest }
        if !ok then s.raise agPage 3
        else match sfind s.ag.circ (n % 16384) with
          | some r =>
            let s := s.modAg fun a => { a with kept := sput a.kept n r }
            if n == 4095 then (s.setFlag agPage offStatus 0 true).raise agPage 0 else s
          | none => s
    | [] => s

/-- Numbers of the records that either area holds. -/
def Ag.heldCount (a : Ag) : Nat :=
  a.circ.length + (a.kept.filter fun e => sget (e.1 + 1) a.circN (e.1 % 16384) != e.1).length

/-- A clear at a record boundary (R469): captures whose event came before are written and erased with the rest; record 0
is in the kept area at once. -/
def State.agClear (s : State) (slot : Nat) : State :=
  if s.ag.clearing then s.modAg fun a => { a with clearReq := a.clearReq ++ [slot] }
  else
    let n := s.ag.heldCount + s.ag.caps.length
    let s := s.modAg fun a => { a with next := 0, saved := 0, circ := [], circN := [], kept := [], keptPend := [], caps := []
                                       clearing := true, lost := false }
    let s := s.agRecord 0x200C [slot, n % 2 ^ 32, n / 2 ^ 32]
    let s := s.modAg fun a => { a with
      keptPend := [], kept := (sfind a.circ 0).elim [] fun r => [(0, r)] }
    let s := (s.setFlag agPage offStatus 0 false).setFlag agPage offStatus 2 true
    (s.bump agPage 0x11C).raise agPage 2

/-- CLEAR_ERASE_DONE: the records that waited may reach flash; a clear that waited begins. -/
def execClearEraseDone (s : State) : Host.Outcome State Fault Refusal :=
  runOn s fun s =>
    if !s.ag.clearing then s
    else
      let s := (s.modAg fun a => { a with clearing := false }).setFlag agPage offStatus 2 false
      match s.ag.clearReq with
      | slot :: rest => (s.modAg fun a => { a with clearReq := rest }).agClear slot
      | [] => s

end Sys2Proof.Machine
end

