-- ==== Sys2Proof/Machine/Sessions.lean ====
section
/-!
DEFINITION. Identity, quotes and sessions (R450 to R457).
-/
namespace Sys2Proof.Machine

/-! ## Quotes (R451, R452) -/

/-- The 256 B body of Table 14.5. -/
def State.quoteBody (s : State) (nonce : List Byte) : List Byte :=
  let id := match s.adm.active with
    | some i => i.id
    | none => 0
  let b := natLe 8 0x5154335A ++ Machine.slice nonce 0 32 ++ natLe 8 Config.serial.toNat ++ s.mg.digest ++
    natLe 8 s.mg.log.length ++ natLe 8 s.gn.count ++ natLe 8 s.host.nextSeq ++ natLe 8 id ++
    natLe 4 (s.fwVersion s.mg.active) ++ natLe 4 (s.fwSvn s.mg.active + 256 * s.mg.floor) ++
    [0x100, 0x104, 0x108, 0x10C, 0x110].foldl (fun acc o => acc ++ natLe 4 (s.rdN mgmtPage o)) [] ++
    natLe 4 (b2n s.mg.sealed)
  Machine.slice b 0 256

def State.quoteOf (s : State) (nonce : List Byte) : List Byte :=
  let b := s.quoteBody nonce
  b ++ Config.identitySign b

def State.logBytes (s : State) : List Byte := s.mg.log.foldl (· ++ ·) []

/-- QUOTE_CMD (R452): 1 quote, 2 certificate, 3 measurement log. -/
def State.quoteReq (s : State) (kind : Nat) : State :=
  let nonce := (List.range 8).foldl (fun acc k => acc ++ natLe 4 (s.rdN mgmtPage (0x180 + 4 * k))) []
  let q : QuoteReq := { kind := kind, dst := s.field mgmtPage 0x160 31 6 * 64 + s.field mgmtPage 0x164 15 0 * 2 ^ 32, nonce := nonce }
  s.modMg fun g => { g with quotes := g.quotes ++ [q] }

/-- QUOTE_DONE: the request in front is written. Bytes outside the host region are not written (assumption 70). -/
def execQuoteDone (s : State) : Host.Outcome State Fault Refusal :=
  runOn s fun s =>
    match s.mg.quotes with
    | [] => s
    | q :: rest =>
      let s := s.modMg fun g => { g with quotes := rest }
      let d := if q.kind == 1 then s.quoteOf q.nonce else if q.kind == 2 then Config.certificate else s.logBytes
      let s := if s.inHost q.dst d.length then s.modWrite q.dst (sound d) else s
      s.raise mgmtPage 8

/-! ## Keys (R453) -/

def State.closeWhere (s : State) (p : Sess → Bool) : State :=
  s.modMg fun g => { g with sessions := g.sessions.filter fun x => !p x }

def State.enroll (s : State) (slot : Nat) (key : List Byte) (roles : Nat) : State :=
  (s.modMg fun g => { g with keys := sput g.keys slot { key := key, roles := roles } }).raise mgmtPage 7

/-- A revocation closes every session of the slot. -/
def State.revoke (s : State) (slot : Nat) : State :=
  ((s.modMg fun g => { g with keys := sdel g.keys slot }).closeWhere (·.slot == slot)).raise mgmtPage 7

/-- KEY_WIN_CTL (Table 14.6): enrols slot 0 while no slot is enrolled; the Bool says that the commit is denied. -/
def State.keyWin (s : State) (v : Nat) : Bool × State :=
  if !s.mg.keys.isEmpty then (true, s)
  else if v != 0x100 then (false, s)
  else (false, s.enroll 0 ((List.range 8).foldl (fun acc k => acc ++ natLe 4 (s.rdN mgmtPage (0x1A0 + 4 * k))) []) 7)

/-! ## Opening a session (R454) -/

/-- HELLO: CHALLENGE answers it, with a fresh nonce and a fresh encapsulation key, both free values. -/
def execHello (nonce : List Byte) (slot role : Nat) (s : State) : Host.Outcome State Fault Refusal :=
  runOn s fun s =>
    let hello := Config.message 0 [nonce, natLe 1 slot, natLe 1 role]
    let (own, s) := (List.range 4).foldl (fun (acc, s) _ =>
      let r := State.free s
      (acc ++ natLe 8 r.1.toNat, r.2)) (([] : List Byte), s)
    let r := s.free
    let (id, s) := r.2.fresh
    let ek := Config.kemKey r.1
    let sig := Config.identitySign (sha256 (hello ++ Config.message 1 [own, ek]))
    let ch := Config.message 1 [own, ek, sig]
    let x : Shake := { id := id, slot := slot, role := role, script := hello ++ ch, rand := r.1 }
    (s.modMg fun g => { g with shakes := g.shakes ++ [x] }).say (.session id 1 ch)

/-- What refuses a session before its signature is looked at. -/
def State.mayOpen (s : State) (x : Shake) : Bool :=
  match sfind s.mg.keys x.slot with
  | none => false
  | some k =>
    x.slot < 16 && bit (s.rdN mgmtPage 0x10C) x.slot && x.role < 3 && bit k.roles x.role &&
      (x.role != 2 || s.flag mgmtPage 0x108 0) && s.mg.sessions.length < 8

/-- An SID that no open session has, free otherwise. -/
def State.freshSid (s : State) : Nat × State :=
  let r := s.free
  let n := (List.range 9).find? fun k => !(s.mg.sessions.any fun x => x.sid == (r.1.toNat + k) % 2 ^ 32)
  ((r.1.toNat + n.getD 0) % 2 ^ 32, r.2)

/-- RESPONSE: ACCEPT or REJECT. -/
def execResponse (hs : Nat) (ct sig : List Byte) (s : State) : Host.Outcome State Fault Refusal :=
  runOn s fun s =>
    match takeFirst (fun (x : Shake) => x.id == hs) s.mg.shakes with
    | none => s
    | some (x, rest) =>
      let s := s.modMg fun g => { g with shakes := rest }
      let hash := sha256 (x.script ++ Config.message 2 [ct])
      let key := match sfind s.mg.keys x.slot with
        | some k => k.key
        | none => []
      if !s.mayOpen x || !Config.sigVerify key hash sig then (s.raise mgmtPage 1).say (.session hs 4 (Config.message 4 []))
      else
        let (sid, s) := s.freshSid
        let y : Sess := { sid := sid, slot := x.slot, role := x.role
                          key := hkdf32 hash (Config.kemDecaps x.rand ct) (ascii "ZT3 session"), ctr := none, heard := s.now }
        let s := (s.modMg fun g => { g with sessions := g.sessions ++ [y] }).raise mgmtPage 0
        s.say (.session hs 3 (Config.message 3 [natLe 4 sid, natLe 2 x.slot]))

/-! ## Commands (R455) -/

/-- Origin of a session's orders. -/
def Sess.origin (x : Sess) : Origin :=
  if x.role == 0 then .operator x.slot else if x.role == 1 then .custodian x.slot else .debug x.slot

/-- A session is open in the debug role. -/
def State.debugOpen (s : State) : Bool := s.mg.sessions.any (·.role == 2)

/-- The tag of a COMMAND or REPLY: HMAC-SHA-256 over SID, CTR and body. -/
def tagOfMsg (key : List Byte) (sid ctr : Nat) (body : List Byte) : List Byte := hmac key (natLe 4 sid ++ natLe 8 ctr ++ body)

/-- REPLY: the same CTR, a status, a value and its own tag. -/
def State.replySess (s : State) (x : Sess) (ctr status : Nat) (value : List Byte) : State :=
  let body := Config.message 5 [natLe 1 status, value]
  s.say (.session x.sid 5 (natLe 8 ctr ++ body ++ tagOfMsg x.key x.sid ctr body))

/-- The journal entry of a COMMAND. What Table 11.6 does not give for one (CMD_ID, and ARG except for a register access)
is free (assumption 71). -/
def State.sessEntry (s : State) (x : Option Sess) (code status : Nat) (msg : List Byte) (arg : Option Nat) : JEnt × State :=
  let r := s.free
  let o := match x with
    | some x => x.origin
    | none => .operator (r.1.toNat / 2 ^ 48 % 4096)
  (s.entry (classOfOrigin o) (sourceOf o) code status msg (arg.getD r.1.toNat) (r.1.toNat / 2 ^ 32 % 65536), r.2)

/-- A COMMAND that is not authentic or not new (R455). Table 11.7 has no code for status TAG: free. -/
def State.discardCmd (s : State) (sid ctr code : Nat) (x : Option Sess) (msg : List Byte) : State :=
  let r := s.free
  let (e, s) := r.2.sessEntry x code (r.1.toNat % 256) msg none
  let s := (((s.append e).2).bump mgmtPage 0x13C).raise mgmtPage 2
  let s := s.modMg fun g => { g with sessions := g.sessions.map fun y => if y.sid == sid then { y with fails := y.fails + 1, heard := s.now } else y }
  (s.closeWhere fun y => y.sid == sid && 16 ≤ y.fails).say (.discarded sid ctr)

/-- The frame of every session command: authentic and new, journalled before it acts, and answered. The role is checked
by `mayRun`; the action answers a status, a value and the state. -/
def State.sessCmd (s : State) (sid ctr code : Nat) (fields : List (List Byte)) (tag : List Byte) (arg : Option Nat)
    (mayRun : Role → Bool) (act : Sess → Nat → State → Nat × List Byte × State) : State :=
  let body := Config.message (256 + code) fields
  let msg := natLe 4 sid ++ natLe 8 ctr ++ body
  match s.mg.sessions.find? (·.sid == sid) with
  | none => s.discardCmd sid ctr code none msg
  | some x =>
    if tag != tagOfMsg x.key sid ctr body || !(x.ctr.all (· < ctr)) then s.discardCmd sid ctr code (some x) msg
    else
      let s := s.modMg fun g => { g with sessions := g.sessions.map fun y => if y.sid == sid then { y with ctr := some ctr, heard := s.now } else y }
      let (e, s) := s.sessEntry (some x) code stPending msg arg
      let (n, s) := s.append e
      let (st, v, s) := if mayRun (roleOf x.origin) then act x n s else (stAccess, [], s)
      -- a command that waits for its outcome answers later (PENDING)
      if st == stPending then s else ((s.jFinish n st (leNat v) e).replySess x ctr st v)

def anyRole : Role → Bool := fun _ => true

/-- A command whose action always completes. -/
def doneSess (v : List Byte) (s : State) : Nat × List Byte × State := (stOk, v, s)

/-- FW_WRITE (R458): up to 60 KiB into the inactive slot. -/
def execFwWrite (sid ctr off : Nat) (data tag : List Byte) (s : State) : Host.Outcome State Fault Refusal :=
  runOn s fun s => s.sessCmd sid ctr 3 [natLe 4 off, data] tag none operatorOnly fun _ _ s =>
    if data.length ≤ 61440 && off + data.length ≤ 2 ^ 25 then doneSess [] (s.unstageFw.putSlot s.otherSlot off data)
    else (stFormat, [], s)

def execQuote (sid ctr : Nat) (nonce tag : List Byte) (s : State) : Host.Outcome State Fault Refusal :=
  runOn s fun s => s.sessCmd sid ctr 4 [nonce] tag none anyRole fun _ _ s => doneSess (s.quoteOf nonce) s

def execCertReadAndLogRead (sid ctr : Nat) (tag : List Byte) (s : State) : Host.Outcome State Fault Refusal :=
  runOn s fun s => s.sessCmd sid ctr 5 [] tag none anyRole fun _ _ s => doneSess (Config.certificate ++ s.logBytes) s

/-- KEY_ENROLL: a 32 B key into one of 16 slots. -/
def execKeyEnroll (sid ctr slot : Nat) (key : List Byte) (roles : Nat) (tag : List Byte) (s : State) :
    Host.Outcome State Fault Refusal :=
  runOn s fun s => s.sessCmd sid ctr 6 [natLe 1 slot, key, natLe 1 roles] tag none custodianOnly fun _ _ s =>
    if slot < 16 && key.length == 32 && roles < 8 then doneSess [] (s.enroll slot key roles) else (stFormat, [], s)

def execKeyRevoke (sid ctr slot : Nat) (tag : List Byte) (s : State) : Host.Outcome State Fault Refusal :=
  runOn s fun s => s.sessCmd sid ctr 7 [natLe 1 slot] tag none custodianOnly fun _ _ s =>
    if slot < 16 then doneSess [] (s.revoke slot) else (stFormat, [], s)

/-- CONFIG_WRITE: the record for the next power-on, one word for each RWL field, those of Table 14.4 and
then MODE_SEL of both PCIe/CXL ports (assumption 107). -/
def execConfigWrite (sid ctr : Nat) (record : List Word) (tag : List Byte) (s : State) : Host.Outcome State Fault Refusal :=
  runOn s fun s => s.sessCmd sid ctr 8 (record.map fun w => natLe 4 w.toNat) tag none custodianOnly fun _ _ s =>
    if record.length == 7 then doneSess [] (s.modMg fun g => { g with config := some record }) else (stFormat, [], s)

/-- SVN_COMMIT (R447): fuses are blown up to the running bundle's SVN. -/
def execSvnCommit (sid ctr : Nat) (tag : List Byte) (s : State) : Host.Outcome State Fault Refusal :=
  runOn s fun s => s.sessCmd sid ctr 9 [] tag none custodianOnly fun _ _ s =>
    doneSess [] (s.modMg fun g => { g with floor := max g.floor (min 64 (s.fwSvn g.active)) })

def execAfterglowClear (sid ctr : Nat) (tag : List Byte) (s : State) : Host.Outcome State Fault Refusal :=
  runOn s fun s => s.sessCmd sid ctr 10 [] tag none custodianOnly fun x _ s => doneSess [] (s.agClear x.slot)

def execClose (sid ctr : Nat) (tag : List Byte) (s : State) : Host.Outcome State Fault Refusal :=
  runOn s fun s => s.sessCmd sid ctr 11 [] tag none anyRole fun _ _ s => doneSess [] (s.closeWhere (·.sid == sid))

/-- IDLE of SESSION_POLICY in s (Table 14.6). -/
def State.idleTime (s : State) : Nat :=
  let n := s.field mgmtPage 0x10C 29 18
  if 60 ≤ n && n ≤ 3600 then n else 600

/-- The session has sent nothing for the idle timeout. -/
def State.idleOver (s : State) (x : Sess) : Bool := x.heard + 200000000 * s.idleTime ≤ s.now

/-- SESSION_IDLE_TIMEOUT: a session that has sent nothing for the idle timeout is closed. -/
def execSessionIdleTimeout (sid : Nat) (s : State) : Host.Outcome State Fault Refusal :=
  runOn s fun s => s.closeWhere fun x => x.sid == sid && s.idleOver x

end Sys2Proof.Machine
end

