-- ==== Sys2Proof/Machine/RegRead.lean ====
section
/-!
DEFINITION. What each register reads (R484 to R488, R491, R496, and the register tables of every chapter).

`State.regValue` is the value that a register holds for a reader with the debug role; it latches nothing.
-/
namespace Sys2Proof.Machine

/-! ## Bytes shown through windows -/

/-- The 544 B of a record (Table 15.1). -/
def agBytes (n : Nat) (kept : Bool) (r : AgRec) : List Byte :=
  let snap := decide (0x8000 ≤ r.code)
  let len := ceilDiv r.payload.length 16
  let flags := b2n snap + 2 * b2n kept + 4 * b2n r.lost + 8 * b2n r.unlocked + len * 256
  let head := natLe 2 r.code ++ natLe 2 flags ++ natLe 4 n ++ natLe 8 r.gt ++
    natLe 4 (r.p.getD 0 0) ++ natLe 4 (r.p.getD 1 0) ++ natLe 4 (r.p.getD 2 0) ++ natLe 4 (r.p.getD 3 0)
  slice (r.payload.foldl (fun acc w => acc ++ natLe 4 w.toNat) head) 0 544

def State.agSel (s : State) : Nat := s.rd64 agPage 0x108

/-- AG_SEL_STATE (Table 15.4). -/
def State.agSelState (s : State) : Nat :=
  let n := s.agSel
  if (sfind s.ag.kept n).isSome then 4
  else if sfind s.ag.circN (n % 16384) == some n then 0
  else if s.ag.next ≤ n then 2 else 1

/-- The selected record's bytes; zero when it is not held. -/
def State.agShow (s : State) : List Byte :=
  let n := s.agSel
  match sfind s.ag.kept n with
  | some r => agBytes n true r
  | none => if sfind s.ag.circN (n % 16384) == some n then
      match sfind s.ag.circ (n % 16384) with
      | some r => agBytes n false r
      | none => []
    else []

def wordAt (bs : List Byte) (i : Nat) : Nat := fieldAt bs (4 * i) 4

/-! ## Tile pages -/

/-- Debug mode of a tile (section 15.6). -/
def State.debugMode (s : State) (t : Nat) : Bool := (s.tile t).halting && s.debugOpen

/-- The registers that act only in debug mode (Table 15.6). -/
def State.dbgReg (s : State) (t off : Nat) : Nat :=
  let x := s.tile t
  if !s.debugMode t then 0
  else if off == 0x300 then s.rdN t 0x300
  else match x.dbgRow with
    | none => 0
    | some (_, row) =>
      if off == 0x304 then 1 + x.dbgAcc.osh % 128 * 256
      else if off == 0x308 then x.dbgAcc.sat.foldl (fun m e => if e / 32 == row then m ||| 2 ^ (e % 32) else m) 0
      else if 0x380 ≤ off && off < 0x400 then (x.dbgAcc.vals.getD (32 * row + (off - 0x380) / 4) 0).toNat
      else 0

/-- Granules that the bytes from an address on touch. -/
def granules (a n : Nat) : Nat := if n == 0 then 0 else (a % 64 + n + 63) / 64

/-- Read granules outstanding, at most 48 (R272): four for each line that an LDC waits for, and those of the slow tier. -/
def State.stackOut (s : State) (t : Nat) : Nat :=
  let slow := s.slow.filter fun r => r.data.isNone && r.xfers.any fun x => s.xfers.any fun y => y.id == x.1 && y.site == t
  min 48 (slow.foldl (fun n r => n + granules r.addr r.len) (4 * (s.tile t).rcWant.length))

/-- Write granules that await completion, at most 48 (R272): the rows of the tile's transfers to device memory. -/
def State.writeOut (s : State) (t : Nat) : Nat :=
  let mine := s.xfers.filter fun y => y.site == t && (match y.dst with
    | .device => true
    | _ => false)
  min 48 (mine.foldl (fun n y => y.rows.foldl (fun n r => if r.done then n else n + granules r.off r.len) n) 0)

def State.tileReg (s : State) (t off : Nat) : Nat :=
  let x := s.tile t
  let e := s.siteEnt t
  if off == offStatus then
    b2n (s.running t) + 2 * b2n x.late + 4 * b2n x.replayTo.isSome + 8 * b2n x.region.isSome + 16 * b2n x.halting
  else if off == 0x100 then e.tile % 1024 + e.st % 4 * 4096 + b2n e.router * 2 ^ 14
  else if off == 0x10C then s.freqMax t
  else if off == 0x110 then s.freqOp t
  else if off == 0x120 then x.rescale.foldl (fun m r => m ||| 2 ^ r.acc) 0
  else if 0x140 ≤ off && off < 0x160 then
    let l := sget [] x.dmaq ((off - 0x140) / 4)
    let wait := match l with
      | d :: _ => (match s.dmaWait t ((off - 0x140) / 4) d with
        | some c => c + 1
        | none => 0)
      | [] => 0
    l.length + wait * 256
  else if 0x160 ≤ off && off < 0x170 then
    let n := (sget [] x.mbox ((off - 0x160) / 4)).length
    n + (4 - n) * 8
  else if 0x180 ≤ off && off < 0x200 then (sget {} x.cc ((off - 0x180) / 4)).base
  else if 0x200 ≤ off && off < 0x280 then (sget {} x.kc ((off - 0x200) / 4)).base
  else if off == 0x280 then s.steps.step
  else if off == 0x284 then s.steps.step / 2 ^ 32
  else if off == 0x288 then fieldOf 8 s.steps.ls + s.steps.run % 2 ^ 16 * 256
  else if off == 0x28C then
    if s.steps.undoTag.isSome then 3 else if x.region.isSome then 1 else if x.regioned then 2 else 0
  else if off == 0x290 then s.steps.verdict + s.steps.vcause * 256
  else if off == 0x298 then match x.mirror with
    | some m => 1 + m.prog % 32 * 16
    | none => 0
  else if off == 0x2C0 then s.stackOut t + s.writeOut t * 2 ^ 16
  else if off == 0x2C4 then x.pf.foldl (fun m p => m ||| 2 ^ p.1) 0
  else if off == 0x300 || off == 0x304 || off == 0x308 || (0x380 ≤ off && off < 0x400) then s.dbgReg t off
  else s.rdN t off

/-- What a site whose tile switch is open still shows (R496). -/
def tileKept (off : Nat) : Bool :=
  (0x100 ≤ off && off ≤ 0x110) || (0x40 ≤ off && off < 0x100) || off == offErrCount || off == 0x124 || off == 0x128 ||
    (0x180 ≤ off && off < 0x280) || off == 0x294 || (0x29C ≤ off && off ≤ 0x2A4) || (0x2C8 ≤ off && off ≤ 0x2D0)

/-! ## Shade slice pages -/

/-- Failed lanes of a group as bytes from entry `b`, 0xFF where unused. -/
def failedLaneBytes (x : Slice) (first n b count : Nat) : Nat :=
  let l := (x.lanesBad.filter fun l => first ≤ l && l < first + n).map (· - first)
  leNat ((List.range count).map fun i => BitVec.ofNat 8 (l.getD (b + i) 0xFF))

/-- Shade position of a slice (R226). -/
def State.positionOf (s : State) (k : Nat) : Option Nat :=
  let site := k % 1152
  if !s.sliceUp k then none
  else if s.carrying site then some (s.tileOf site)
  else ((s.spareSlices (k / 1152)).findIdx? (· == site)).map (· + 1024)

def State.sliceReg (s : State) (k off : Nat) : Nat :=
  let page := slicePage k
  let x := s.slice k
  let die := k / 1152
  let bank := die * 32 + k % 1152 / 36
  if off == offStatus then
    b2n (s.sliceUp k) + 2 * b2n x.parity + 4 * b2n x.recoding.isSome + 8 * b2n (s.die die).resetting +
      16 * b2n (x.half (2, 136)) + 32 * b2n (x.half (152, 136)) + 64 * b2n x.faceDown
  else if off == 0x100 then match s.positionOf k with
    | some p => p % 2048 + 2048 + die * 4096
    | none => die * 4096
  else if off == 0x104 then x.lines.countP (fun l => l.pin) + x.lines.countP (·.st == .dirty) * 2 ^ 16
  else if off == 0x108 then x.wset
  else if off == 0x11C then (rowLogLive s.frameNo x.rowLog).length + (24 - x.spared.length) * 256
  else if off == 0x120 then 2 ^ x.merge.length - 1 + 256 * b2n x.faulted
  else if off == 0x128 then failedLaneBytes x 2 136 0 4
  else if off == 0x12C then failedLaneBytes x 2 136 4 4
  else if off == 0x130 then failedLaneBytes x 152 136 0 4
  else if off == 0x134 then failedLaneBytes x 152 136 4 4
  else if off == 0x138 then failedLaneBytes x 138 14 0 2 + failedLaneBytes x 288 14 0 2 * 2 ^ 16
  else if off == 0x180 then 0
  else if off == 0x184 then if k % 1152 == 0 then (s.die die).epoch else 0
  else if 0x1C0 ≤ off && off ≤ 0x1CC then
    if k % 36 != 0 then 0
    else if off == 0x1C0 then (s.bank bank).ents.length
    else if off == 0x1C4 then s.rdN page off
    else if off == 0x1C8 then (s.bank bank).floor
    else (s.bank bank).floor / 2 ^ 32
  else if off == 0x214 then 0
  else if 0x200 ≤ off && off ≤ 0x218 then if s.chkOn page then s.rdN page off else 0
  else s.rdN page off

/-! ## Stack pages -/

def State.stackReg (s : State) (k off : Nat) : Nat :=
  let page := stackPage k
  let x := s.stack k
  if off == offStatus then s.rdN page off ||| b2n (!s.pow.off)
  else if off == 0x100 then x.scrubPos / 64
  else if off == 0x114 then (if s.pow.off then 0 else 140)
  else if off == 0x108 then (rowLogLive s.frameNo x.rowLog).length
  else if off == 0x10C then x.repaired.length + (4096 - x.repaired.length) * 2 ^ 16
  else if off == 0x180 then 0
  else if 0x184 ≤ off && off ≤ 0x194 then
    if k != 0 then 0
    else if off == 0x18C then
      let e := s.resEnt (s.field page 0x188 17 0)
      e.tier + 4 * b2n e.moving + 8 * b2n e.visited + 16 * b2n e.slowHome
    else s.rdN page off
  else if off == 0x288 then 0
  else if 0x200 ≤ off && off ≤ 0x28C then if s.chkOn page then s.rdN page off else 0
  else s.rdN page off

/-! ## Ray pages -/

def State.rayReg (s : State) (p off : Nat) : Nat :=
  let x := s.port p
  let q := s.field (rayPage p) 0x110 6 0
  if off == 0x114 then sget 0 x.credits q % 2 ^ 14 + sget 0 x.txAlloc q % 2 ^ 14 * 2 ^ 16
  else if off == 0x118 then sget 0 x.occ q % 2 ^ 14 + sget 0 x.rxAlloc q % 2 ^ 14 * 2 ^ 16
  else s.rdN (rayPage p) off

def digestWord (d : Option (List Byte)) (i : Nat) : Nat := match d with
  | some b => wordAt (sha256 b) i
  | none => 0

def State.rayComReg (s : State) (off : Nat) : Nat :=
  if off == offStatus then b2n s.formed + 2 * b2n s.ray.map.isSome + 4 * b2n s.collBusy
  else if off == 0x10C then s.phys
  else if off == 0x110 then match s.logical with
    | some m => m
    | none => if s.ray.map.isSome then 2 ^ 15 else 0
  else if off == 0x114 then (s.ray.map.getD []).length
  else if off == 0x11C then match s.physOfLogical (s.field rayComPage 0x118 14 0) with
    | some n => n + 2 ^ 15
    | none => 0
  else if off == 0x124 then sget 0 s.ray.ck (s.field rayComPage 0x120 7 0) % 2 ^ 32
  else if off == 0x138 then 0
  else if 0x140 ≤ off && off < 0x160 then digestWord (s.ray.map.map modmapBytes) ((off - 0x140) / 4)
  else s.rdN rayComPage off

def State.slotReg (s : State) (off : Nat) : Nat :=
  let i := s.field slotPage 0x100 18 0
  let h := if s.flag slotPage 0x100 19 then 1 else 0
  if off == 0x104 then (sget 0 (sget {} s.ray.halves h).entries i).toNat
  else if off == 0x108 then
    let act := if s.adm.active.isSome then (sget {} s.ray.halves s.ray.half).cycle else 0
    let armed := if s.adm.state == 4 then (sget {} s.ray.halves (1 - s.ray.half)).cycle else 0
    s.ray.half + act * 16 + armed * 2 ^ 16
  else if off == 0x10C then match s.slotNow with
    | some (c, k) => c % 256 + k % 128 * 256
    | none => 2 ^ 15
  else s.rdN slotPage off

/-! ## Front-end pages -/

def State.feReg (s : State) (p off : Nat) : Nat :=
  let page := fePage p
  if off == 0x100 then (Config.mac p).toNat
  else if off == 0x104 then (Config.mac p).toNat / 2 ^ 32
  else if off == 0x128 then
    let q := s.qp (s.field page 0x124 10 0)
    q.state + 8 * b2n (q.state != 0 && q.port == p) + q.ops.countP (fun o => !o.write) % 256 * 16 +
      q.rate / 1024 % 2 ^ 16 * 2 ^ 16
  else if off == 0x12C then s.host.qps.countP fun e => e.2.state != 0 && e.2.port == p
  else s.rdN page off

/-! ## Gnomon and admission pages -/

def State.gnReg (s : State) (off : Nat) : Nat :=
  let g := s.gn
  if off == offStatus then
    b2n g.locked + 2 * b2n g.master + 4 * b2n g.holdover + 8 * b2n g.ppsUsed + 16 * b2n s.adm.active.isSome
  else if off == 0x100 then g.count
  else if off == 0x104 then g.count / 2 ^ 32
  else if off == 0x108 then fieldOf 32 g.phase
  else if off == 0x10C then g.masterId % 2 ^ 15 + g.masterPrio % 256 * 2 ^ 16
  else if off == 0x110 then g.epoch
  else if off == 0x114 then g.upstream.getD 0 % 16 + 16 * b2n g.upstream.isNone + g.hops % 256 * 256
  else if off == 0x118 then g.path % 65536
  else if off == 0x11C then match g.upstream with
    | some p => sget 0 g.delay p
    | none => 0
  else if off == 0x120 then g.frame
  else if off == 0x124 then g.frame / 2 ^ 32 % 256
  else if off == 0x128 then g.start
  else if off == 0x12C then g.start / 2 ^ 32
  else if off == 0x130 then s.nextStart.getD 0
  else if off == 0x134 then s.nextStart.getD 0 / 2 ^ 32
  else if off == 0x148 || off == 0x14C then 0
  else s.rdN gnPage off

def State.admReg (s : State) (off : Nat) : Nat :=
  let a := s.adm
  let pend := match a.img with
    | some i => if a.state == 3 || a.state == 4 then i.id else 0
    | none => 0
  let act (f : Image → Nat) : Nat := match a.active with
    | some i => f i
    | none => 0
  if off == offStatus then a.state + 8 * b2n a.active.isSome
  else if off == 0x110 then 0
  else if off == 0x130 then pend
  else if off == 0x134 then pend / 2 ^ 32
  else if off == 0x138 then act (·.id)
  else if off == 0x13C then act (·.id / 2 ^ 32)
  else if off == 0x140 then act (·.numerics)
  else if off == 0x144 then act (·.numerics / 2 ^ 32)
  else if off == 0x148 then act fun _ => a.fa
  else if off == 0x14C then act fun _ => a.fa / 2 ^ 32 % 256
  else s.rdN admPage off

/-! ## Thermal, Penumbra, sparing, Afterglow, management, journal, host -/

def State.thermReg (s : State) (off : Nat) : Nat :=
  let d := s.field thermPage 0x100 1 0
  let n := sensorOf d (s.field thermPage 0x100 13 8)
  let known := d < 3
  if off == 0x104 then if known then fieldOf 12 (sget 0 s.therm.raw n) else 0
  else if off == 0x108 then if known then fieldOf 12 (sget 0 s.therm.halo n) else 0
  else if off == 0x10C then if known then fieldOf 12 (sget 0 s.therm.ctl n) else 0
  else if off == 0x110 then
    if known then b2n (s.therm.suspect.contains n) + 2 * b2n (sfind s.therm.halo n).isSome else 0
  else if off == 0x120 then if known then (Config.haloK d).toNat else 0
  else if off == 0x124 then if known then (Config.haloC d).toNat else 0
  else s.rdN thermPage off

def State.penReg (s : State) (off : Nat) : Nat :=
  let i := s.field penPage 0x10C 3 0
  if off == 0x110 then min 0xFFFF (sget 0 s.pen.x i * 65536 / xOne) + b2n (decide (16 ≤ sget 0 s.pen.missed i)) * 2 ^ 16
  else s.rdN penPage off

def State.spareReg (s : State) (off : Nat) : Nat :=
  if off == offStatus then setBits (s.rdN sparePage off) 1 1 (b2n s.ray.staged.isSome)
  else if off == 0x104 then 0
  else if off == 0x108 then s.sitesIn 1 % 256 + s.sitesIn 3 % 256 * 256
  else if 0x140 ≤ off && off < 0x160 then digestWord (s.spare.staged.map mapBytes) ((off - 0x140) / 4)
  else if 0x160 ≤ off && off < 0x180 then digestWord (s.ray.staged.map modmapBytes) ((off - 0x160) / 4)
  else s.rdN sparePage off

def State.agReg (s : State) (off : Nat) : Nat :=
  if off == offStatus then setBits (s.rdN agPage off) 1 1 (b2n (!s.ag.caps.isEmpty))
  else if off == 0x100 then s.ag.next
  else if off == 0x104 then s.ag.next / 2 ^ 32
  else if off == 0x110 then s.agSelState
  else if off == 0x124 then (sget 0 s.ag.trigs (s.field agPage 0x120 5 0)).toNat
  else if off == 0x12C then (sget 0 s.ag.sets (s.field agPage 0x128 11 0)).toNat
  else if off == 0x400 then wordAt s.agShow 0
  else if 0x400 < off && off < 0x620 then wordAt s.ag.shown ((off - 0x400) / 4)
  else s.rdN agPage off

/-- The power page: DUSK_TIME counts on while Dusk lasts (Table 12.7). -/
def State.powReg (s : State) (off : Nat) : Nat :=
  if off == 0x120 then (s.pow.duskUs + if s.dusk then s.now - s.pow.duskAt else 0) / 200 else s.rdN powPage off

def State.mgmtReg (s : State) (off : Nat) : Nat :=
  let key := sfind s.mg.keys (s.field mgmtPage 0x130 3 0)
  if off == 0x118 then s.fwVersion 0
  else if off == 0x11C then s.fwVersion 1
  else if off == 0x120 then s.fwSvn s.mg.active + s.mg.floor * 256
  else if off == 0x12C then s.mg.log.length
  else if off == 0x134 then match key with
    | some k => 1 + k.roles % 8 * 2
    | none => 0
  else if off == 0x138 then s.mg.sessions.length
  else if 0x140 ≤ off && off < 0x160 then wordAt s.mg.digest ((off - 0x140) / 4)
  else if off == 0x114 || off == 0x124 || off == 0x168 || off == 0x16C || (0x1A0 ≤ off && off < 0x1C0) then 0
  else if off == 0x1C8 then Config.serial.toNat
  else if off == 0x1CC then Config.serial.toNat / 2 ^ 32
  else s.rdN mgmtPage off

def State.jrnlReg (s : State) (off : Nat) : Nat :=
  let sel := s.rd64 jrnlPage 0x108
  if off == 0x100 then s.host.nextSeq
  else if off == 0x104 then s.host.nextSeq / 2 ^ 32
  else if off == 0x110 then s.jState sel
  else if off == 0x140 then wordAt (s.jShow sel) 0
  else if 0x140 < off && off < 0x180 then wordAt s.host.jShown ((off - 0x140) / 4)
  else s.rdN jrnlPage off

def State.hostReg (s : State) (off : Nat) : Nat :=
  if off == 0x108 || off == 0x10C || off == 0x11C then 0
  else if off == 0x114 then
    let n := s.field hostPage 0x110 9 0
    match s.ring n with
    | some r => b2n (r.enabled || r.stopping) + min 8 (s.cmdsOf n).length * 2 + r.fetch % 2 ^ 16 * 2 ^ 16
    | none => 0
  else if off == 0x120 then s.cursorNow
  else if off == 0x124 then s.cursorNow / 2 ^ 32
  else if off == 0x128 then s.host.intake.top.getD 0
  else if off == 0x12C then s.host.intake.top.getD 0 / 2 ^ 32 % 65536
  else if off == 0x134 then s.host.cmds.length
  else if off == 0x180 then s.evtSummary
  else s.rdN hostPage off

/-! ## Any page -/

/-- The value of a register on an assigned page that is not a compound page. -/
def State.regValue (s : State) (page off : Nat) : Word :=
  let k := pageKind page
  let shut := k == kTile && s.spare.opened.contains (page / 36) && !tileKept off
  let v : Nat :=
    if k == 0 || shut then 0
    else if off == 0 then k + 0x100
    else if off == 4 then 0x100
    else if off == offForce then 0
    else if k == kTile then s.tileReg page off
    else if k == kShadeL || k == kShadeU then s.sliceReg (sliceOfPage page) off
    else if k == kStack then s.stackReg (page - 0x2000) off
    else if k == kRay then s.rayReg (page - 0x2100) off
    else if k == kRayCom then s.rayComReg off
    else if k == kSlots then s.slotReg off
    else if k == kFe then s.feReg (page - 0x2120) off
    else if k == kGnomon then s.gnReg off
    else if k == kAdm then s.admReg off
    else if k == kTherm then s.thermReg off
    else if k == kPower then s.powReg off
    else if k == kPen then s.penReg off
    else if k == kSpare then s.spareReg off
    else if k == kAg then s.agReg off
    else if k == kMgmt then s.mgmtReg off
    else if k == kJrnl then s.jrnlReg off
    else if k == kHost then s.hostReg off
    else s.rdN page off
  BitVec.ofNat 32 v

/-- A word of the delay window (Table 8.9): four lanes, one byte each. -/
def isDelay (page off : Nat) : Bool :=
  (pageKind page == kShadeL || pageKind page == kShadeU) && 0x400 ≤ off && off < 0x530

/-- Four delay codes as a register word; lanes beyond 301 read zero. -/
def State.delayWord (s : State) (k off : Nat) : Nat × State :=
  forN 4 (0, s) fun (v, s) i =>
    let lane := off - 0x400 + i
    if lane < 302 then
      let (c, s) := s.delayCode k lane
      (v + c * 2 ^ (8 * i), s)
    else (v, s)

/-- FEC_CORR and FEC_UNCORR (Table 10.14): the FEC lies below the frames, so their counts are free (assumption 11). -/
def isFec (page off : Nat) : Bool := pageKind page == kRay && 0x60 ≤ off && off < 0x70

/-- CHECK_PROGRESS during a check and DRAIN_PROGRESS during a drain are what the hardware shows. -/
def State.shown (s : State) (page off : Nat) : Bool :=
  off == 0x154 && ((pageKind page == kAdm && s.adm.state == 1) || (pageKind page == kPen && s.pen.draining.isSome))

/-- Reads a register; a value that only hardware shows is free: a progress, in percent. -/
def State.regLook (s : State) (page off : Nat) : Word × State :=
  if s.shown page off then
    let r := s.free
    (BitVec.ofNat 32 (r.1.toNat % 101), r.2)
  else if isFec page off then (s.free.1.setWidth 32, s.free.2)
  else if isDelay page off then
    let (v, s) := s.delayWord (sliceOfPage page) off
    (BitVec.ofNat 32 v, s)
  else (s.regValue page off, s)

/-! ## Latches (R491) -/

/-- First offset and words of the value wider than 32 bits that a register is part of. -/
def wideOf (page off : Nat) : Option (Nat × Nat) :=
  let k := pageKind page
  let pair (l : List Nat) : Option (Nat × Nat) := (l.find? fun b => b == off || b + 4 == off).map fun b => (b, 2)
  let many (b n : Nat) : Option (Nat × Nat) := if b ≤ off && off < b + 4 * n then some (b, n) else none
  let window (n : Nat) : Option (Nat × Nat) := if 0x40 ≤ off && off < 0x40 + 8 * n then some (off / 8 * 8, 2) else none
  if off == 0x20 || off == 0x24 then some (0x20, 2)
  else if k == kTile then pair [0x280]
  else if k == kShadeL || k == kShadeU then (window 12).orElse fun _ => pair [0x128, 0x130, 0x1C8, 0x200, 0x208]
  else if k == kStack then (window 4).orElse fun _ => (pair [0x200, 0x280]).orElse fun _ => many 0x240 16
  else if k == kRay then window 8
  else if k == kRayCom then (pair [0x130]).orElse fun _ => many 0x140 8
  else if k == kFe then (window 6).orElse fun _ => (pair [0x100]).orElse fun _ => many 0x110 4
  else if k == kPcie then (window 2).orElse fun _ => pair [0x114]
  else if k == kGnomon then pair [0x100, 0x120, 0x128, 0x130]
  else if k == kAdm then pair [0x100, 0x114, 0x11C, 0x130, 0x138, 0x140, 0x148]
  else if k == kPower then pair [0x12C]
  else if k == kPen then pair [0x118, 0x124, 0x12C, 0x148]
  else if k == kSpare then (many 0x140 8).orElse fun _ => many 0x160 8
  else if k == kAg then pair [0x100, 0x108]
  else if k == kMgmt then (many 0x140 8).orElse fun _ => (many 0x180 8).orElse fun _ => pair [0x160, 0x1C8]
  else if k == kJrnl then pair [0x100, 0x108]
  else if k == kHost then pair [0x100, 0x120, 0x128, 0x184]
  else none

/-- Each hart, ring, key slot and relayed role has latches of its own. -/
def latchSource : Origin → Nat
  | .hart h => h
  | .ring n => 1024 + n
  | .operator k => 4096 + k
  | .custodian k => 4112 + k
  | .debug k => 4128 + k
  | .relayed r => 4160 + r
  | .boot => 4192

def latchKey (src page off : Nat) : Nat := src * 2 ^ 24 + regKey page off

/-- A register read by a source (R491): the lowest word latches the others for it; AG_DATA and JRNL_DATA latch their whole
record (R382, R474). -/
def State.readReg (s : State) (src page off : Nat) : Word × State :=
  let r := s.regLook page off
  let s := r.2
  if isFec page off then r
  else if page == agPage && off == 0x400 then (r.1, s.modAg fun a => { a with shown := s.agShow })
  else if page == jrnlPage && off == 0x140 then
    (r.1, s.modHost fun h => { h with jShown := s.jShow (s.rd64 jrnlPage 0x108) })
  else match wideOf page off with
    | none => (r.1, s)
    | some (b, n) =>
      if off == b then
        (r.1, { s with latches := (List.range n).foldl (fun m i =>
          if i == 0 then m else sput m (latchKey src page (b + 4 * i)) (s.regValue page (b + 4 * i))) s.latches })
      else ((sfind s.latches (latchKey src page off)).getD r.1, s)

end Sys2Proof.Machine
end

