-- ==== Sys2Proof/Machine/Checker.lean ====
section
/-!
DEFINITION. Checker test mode (R481 to R483) and debug access to a tile (R477 to R480).
-/
namespace Sys2Proof.Machine

/-! ## Raw accesses (R482) -/

/-- CHK_STAT: BUSY is never seen, since a raw access is one indivisible request. -/
def State.chkMissed (s : State) (page : Nat) (b : Bool) : State := s.setFlag page (if pageKind page == kStack then 0x28C else 0x218) 1 b

/-- The line and code word that CHK_ADDR names on a slice page, when a raw access acts there. -/
def State.chkWord (s : State) (k : Nat) : Option (Line × Nat) :=
  let page := slicePage k
  let a := s.field page 0x200 31 3 * 8 + s.field page 0x204 15 0 * 2 ^ 32
  if !(isStack a || isWindow a) || s.homeSlice (a / 256) != some k then none
  else ((s.slice k).find (a / 256)).bind fun l =>
    if l.st == .dead || l.st == .fill then none else some (l, a % 256 / 8)

/-- The check bits that a slice stores for a code word: those of its mode, changed by the stored errors. -/
def State.storedCheck (s : State) (k : Nat) (l : Line) (w : Nat) : Nat :=
  (if (s.slice k).parity then parCheck (l.word w) else secCheck (l.word w)) ^^^ (sget 0 l.chk w).toNat

/-- CHK_CMD of a slice. -/
def State.rawSlice (s : State) (k : Nat) (write : Bool) : State :=
  let page := slicePage k
  match s.chkWord k with
  | none => s.chkMissed page true
  | some (l, w) =>
    let s := s.chkMissed page false
    if !write then
      -- the stored word; a merge buffer entry of the segment is not part of the array
      (s.wr64 page 0x208 (l.word w)).wrN page 0x210 (s.storedCheck k l w)
    else
      let s := s.flushSegment k (l.line * 4 + w / 8)
      match (s.slice k).find l.line with
      | none => s
      | some l =>
        let v := s.rd64 page 0x208
        let good := if (s.slice k).parity then parCheck v else secCheck v
        let d := BitVec.ofNat 8 (good ^^^ s.field page 0x210 7 0)
        s.modSlice k fun x => x.put { l with data := patch l.data (8 * w) (natLe 8 v), chk := sset 0 l.chk w d }

/-- The granule that CHK_ADDR names on a stack page, when it lies in that stack. -/
def State.chkGranule (s : State) (k : Nat) : Option Nat :=
  let page := stackPage k
  let a := s.field page 0x200 31 6 * 64 + s.field page 0x204 15 0 * 2 ^ 32
  if isStack a && stackOf (a / 64) == k then some (a / 64) else none

/-- CHK_CMD of a stack controller. -/
def State.rawStack (s : State) (k : Nat) (write : Bool) : State :=
  let page := stackPage k
  match s.chkGranule k with
  | none => s.chkMissed page true
  | some g =>
    let s := s.chkMissed page false
    if !write then
      let d := s.granule g
      let good := packSyms (rsCheck (symbols d))
      let s := forN 16 s fun s i => s.wrN page (0x240 + 4 * i) (fieldAt d (4 * i) 4)
      s.wr64 page 0x280 (good ^^^ s.ecc64 g).toNat
    else
      let d := (List.range 16).foldl (fun (acc : List Byte) i => acc ++ natLe 4 (s.rdN page (0x240 + 4 * i))) []
      let good := packSyms (rsCheck (symbols d))
      (s.setBytes (64 * g) d).setEcc g (good ^^^ BitVec.ofNat 64 (s.rd64 page 0x280))

/-- A write of CHK_CMD; a reserved value starts nothing. -/
def State.rawCmd (s : State) (page v : Nat) : State :=
  if v != 1 && v != 2 then s
  else if pageKind page == kStack then s.rawStack (page - 0x2000) (v == 2)
  else s.rawSlice (sliceOfPage page) (v == 2)

/-- CHECKER changes: a CHECKER record. -/
def State.setChecker (s : State) (page : Nat) (v : Bool) : State :=
  if s.chkOn page == v then s
  else (s.setFlag page offControl (if pageKind page == kStack then 1 else 3) v).agRecord 0x1003 [page, b2n v]

/-! ## Debug mode of a tile -/

/-- DBG_HALT. Leaving debug mode gives up the latched row. -/
def State.setHalt (s : State) (t : Nat) (v : Bool) : State :=
  (s.setFlag t offControl 1 v).modTile t fun x => { x with halting := v, dbgRow := if v then x.dbgRow else none }

/-- ACC_ROW_LATCH (R477): the selected row, once its index's bit in ACC_BUSY is clear. -/
def execAccRowLatch (t : Nat) (s : State) : Host.Outcome State Fault Refusal :=
  runPart (t < 1152) s fun s =>
    let i := s.field t 0x300 3 0
    let x := s.tile t
    if !s.debugMode t || x.dbgRow.isSome || x.rescale.any (·.acc == i) then s
    else s.setTile t { x with dbgRow := some (i, s.field t 0x300 8 4), dbgAcc := x.accAt i }

/-- DBG acts only while a debug session is open and DEBUG_EN[1] is set (R479). -/
def State.dbgActs (s : State) : Bool := s.debugOpen && s.flag mgmtPage 0x108 1

/-- DBG HALT: DBG_HALT is set after the instruction. -/
def execDbgHaltAction (t : Nat) (w : BitVec 128) (s : State) : Host.Outcome State Fault Refusal :=
  instrRun (isSub w 0xF0 1) t s fun s => s.issue t w { form := dbgLegal w } fun s =>
    if s.dbgActs then s.setHalt t true else s

/-- DBG MARK: a MARK record with the tile's logical number and TAG. -/
def execMark (t : Nat) (w : BitVec 128) (s : State) : Host.Outcome State Fault Refusal :=
  instrRun (isSub w 0xF0 2) t s fun s => s.issue t w { form := dbgLegal w } fun s =>
    if s.dbgActs then s.agRecord 0x1004 [s.tileOf t, fld w 31 0] else s

end Sys2Proof.Machine
end

