-- ==== Sys2Proof/Machine/RegWrite.lean ====
section
/-!
DEFINITION. What a write to each register does (R7, R489, and the register tables of every chapter).

`State.fields` gives the bits of a register that are fields, and those of them that an order of a role may change now;
`State.act` is the write's effect. A field that only boot code writes (RWL) is sealed before any order can reach it, and is
no field here.
-/
namespace Sys2Proof.Machine

/-! ## Who may write what -/

/-- Bits of EVT_STATUS of each KIND. -/
def evtMask (k : Nat) : Nat :=
  if k == kTile || k == kShadeL || k == kShadeU then 0x3FFFF
  else if k == kStack then 0x3FF
  else if k == kRay then 0xFFF
  else if k == kRayCom || k == kAg then 0xF
  else if k == kFe then 0x1F
  else if k == kPcie || k == kPower || k == kInput then 0x3F
  else if k == kGnomon || k == kHost then 0xFF
  else if k == kAdm || k == kTherm || k == kSpare then 0x7F
  else if k == kPen then 0x1FFF
  else if k == kMgmt then 0x3FF
  else 0

/-- Bits of a register that are fields, and those of them that may change. -/
abbrev Fields := Nat × Nat

def noField : Fields := (0, 0)

/-- A register all of whose fields follow one condition. -/
def allOf (mask : Nat) (ok : Bool) : Fields := (mask, if ok then mask else 0)

/-- A register whose fields follow their own: place, width and condition of each. -/
def eachOf (l : List (Nat × Nat × Bool)) : Fields :=
  l.foldl (fun m x => (m.1 ||| (2 ^ x.2.1 - 1) * 2 ^ x.1, if x.2.2 then m.2 ||| (2 ^ x.2.1 - 1) * 2 ^ x.1 else m.2)) (0, 0)

def State.noImage (s : State) : Bool := s.adm.active.isNone

/-- A write of 1 to CHECKER (R481). -/
def State.checkerOk (s : State) (r : Role) (one : Bool) : Bool :=
  debugOnly r && (!one || (s.flag mgmtPage 0x108 2 && s.noImage))

/-- The checker registers take writes while CHECKER is 1, from the debug session that set it and from the page's own sources
(assumption 72). -/
def State.chkFields (s : State) (r : Role) (page mask : Nat) : Fields :=
  allOf mask (s.chkOn page && (debugOnly r || operatorOnly r))

/-- A field that a debug-role session may write is written by it with either value (assumption 72). -/
def State.tileFields (s : State) (r : Role) (t off v : Nat) : Fields :=
  if off == offControl then
    eachOf [(0, 1, debugOnly r || (bit v 0 && anyButDebug r)), (1, 1, debugOnly r), (2, 2, anyButDebug r)]
  else if off == 0x300 then allOf 0x1FF (s.debugMode t)
  else noField

def State.sliceFields (s : State) (r : Role) (k off v : Nat) : Fields :=
  let page := slicePage k
  let op := operatorOnly r
  if off == offControl then
    eachOf [(0, 1, op && (bit v 0 || s.holdState == 2)), (1, 1, op), (2, 1, debugOnly r || (bit v 2 && op)),
            (3, 1, s.checkerOk r (bit v 3))]
  else if off == 0x10C then allOf 0xFFFF op
  else if off == 0x180 && k % 1152 == 0 then allOf 1 op
  else if off == 0x200 then s.chkFields r page 0xFFFFFFF8
  else if off == 0x204 then s.chkFields r page 0xFFFF
  else if off == 0x208 || off == 0x20C then s.chkFields r page 0xFFFFFFFF
  else if off == 0x210 then s.chkFields r page 0xFF
  else if off == 0x214 then s.chkFields r page 3
  else noField

def State.stackFields (s : State) (r : Role) (k off v : Nat) : Fields :=
  let page := stackPage k
  if off == offControl then
    eachOf [(0, 1, debugOnly r || (bit v 0 && operatorOnly r)), (1, 1, s.checkerOk r (bit v 1)), (8, 8, operatorOnly r)]
  else if off == 0x180 && k == 0 then allOf 0xFFFFF (anyButDebug r)
  else if off == 0x188 && k == 0 then allOf 0x3FFFF true
  else if off == 0x200 then s.chkFields r page 0xFFFFFFC0
  else if off == 0x204 then s.chkFields r page 0xFFFF
  else if (0x240 ≤ off && off < 0x280) || off == 0x280 || off == 0x284 then s.chkFields r page 0xFFFFFFFF
  else if off == 0x288 then s.chkFields r page 3
  else noField

def State.rayFields (s : State) (r : Role) (off : Nat) : Fields :=
  if off == offControl then eachOf [(0, 2, operatorOnly r), (2, 1, debugOnly r && s.noImage)]
  else if off == 0x110 then allOf 0x7F true
  else noField

/-- COORD, DIMS and SKIP follow the page's rule; MODMAP_BASE and MODMAP_CMD act as R310 says. -/
def State.rayComFields (s : State) (r : Role) (off : Nat) : Fields :=
  if off == 0x100 then allOf 0x3F1F0F (operatorOnly r && s.noImage)
  else if off == 0x104 then allOf 0x1FFFF (operatorOnly r && s.noImage)
  else if off == 0x108 then allOf 0xF (operatorOnly r && s.noImage)
  else if off == 0x118 then allOf 0x7FFF true
  else if off == 0x120 then allOf 0xFF true
  else if off == 0x130 then allOf 0xFFFFFFF0 (anyButDebug r)
  else if off == 0x134 then allOf 0xFFFF (anyButDebug r)
  else if off == 0x138 then allOf 3 (anyButDebug r && s.modmapFree)
  else noField

def feFields (r : Role) (off : Nat) : Fields :=
  if off == offControl then allOf 3 (anyButDebug r)
  else if off == 0x108 || (0x110 ≤ off && off < 0x120) then allOf 0xFFFFFFFF (anyButDebug r)
  else if off == 0x120 then allOf 7 (anyButDebug r)
  else if off == 0x124 then allOf 0x7FF true
  else noField

def State.gnFields (s : State) (r : Role) (off : Nat) : Fields :=
  if off == offControl then allOf 0xFF03 (operatorOnly r)
  else if off == 0x148 then allOf 0xFFFFFFFF (operatorOnly r)
  else if off == 0x14C then allOf 0xFFFFFFFF (operatorOnly r && s.gn.master && s.noImage)
  else noField

def admFields (r : Role) (off : Nat) : Fields :=
  let ok := anyButDebug r
  if off == 0x100 then allOf 0xFFFFF000 ok
  else if off == 0x104 then allOf 0xFFFF ok
  else if off == 0x110 then allOf 7 ok
  else if off == 0x114 || off == 0x11C || off == 0x120 then allOf 0xFFFFFFFF ok
  else if off == 0x118 then allOf 0xFF ok
  else noField

def State.powFields (s : State) (r : Role) (off : Nat) : Fields :=
  let op := operatorOnly r
  if off == offControl then eachOf [(0, 1, op), (1, 1, op || r == .host)]
  else if off == 0x100 then allOf 0x7FF (op && s.noImage)
  else if off == 0x10C then allOf 0xFFF op
  else if off == 0x110 then allOf 0x7FF op
  else noField

def State.penFields (s : State) (r : Role) (off : Nat) : Fields :=
  let op := operatorOnly r
  let idle := op && s.noImage
  if off == offControl then allOf 7 op
  else if off == 0x104 then allOf 0xFFFF op
  else if off == 0x10C then allOf 0xF true
  else if off == 0x114 then allOf 0xFFFFFFFF op
  else if off == 0x118 then allOf 0xFFFFF000 idle
  else if off == 0x11C then allOf 0xFFFF idle
  else if off == 0x120 then allOf 0xFFFFFF idle
  else if off == 0x13C then allOf 0x7FFF idle
  else if off == 0x140 then allOf 0x7FF idle
  else if off == 0x144 || off == 0x148 || off == 0x14C then allOf 0xFFFFFFFF idle
  else if off == 0x150 then allOf 0xFF idle
  else noField

def agFields (r : Role) (off : Nat) : Fields :=
  if off == offControl then allOf 1 (anyButDebug r)
  else if off == 0x108 || off == 0x10C then allOf 0xFFFFFFFF true
  else if off == 0x120 then allOf 0x3F (operatorOnly r)
  else if off == 0x124 || off == 0x12C then allOf 0x1FFFFFF (operatorOnly r)
  else if off == 0x128 then allOf 0xFFF (operatorOnly r)
  else noField

/-- KEY_WIN takes the page's sources and, for the one sequence of R453, a host ring. -/
def State.mgmtFields (s : State) (r : Role) (off : Nat) : Fields :=
  let op := operatorOnly r
  let host := decide (r = .host)
  let noKey := s.mg.keys.isEmpty
  if off == offControl then allOf 1 (custodianOnly r)
  else if off == 0x114 then allOf 1 false
  else if off == 0x124 then allOf 3 op
  else if off == 0x130 then allOf 0xF true
  else if off == 0x160 then allOf 0xFFFFFFC0 (op || host)
  else if off == 0x164 then allOf 0xFFFF (op || host)
  else if off == 0x168 then allOf 3 (op || host)
  else if off == 0x16C then allOf 0xFFFFFFFF (host && noKey)
  else if 0x180 ≤ off && off < 0x1A0 then allOf 0xFFFFFFFF (op || host)
  else if 0x1A0 ≤ off && off < 0x1C0 then allOf 0xFFFFFFFF (op || (host && noKey))
  else noField

def hostFields (r : Role) (off : Nat) : Fields :=
  let ok := anyButDebug r
  if off == offControl then allOf 1 ok
  else if off == 0x100 then allOf 0xFFFF0000 ok
  else if off == 0x104 || off == 0x118 || off == 0x188 then allOf 0xFFFF ok
  else if off == 0x108 then allOf 0x303FF ok
  else if off == 0x10C then allOf 0xFFFF07FF ok
  else if off == 0x110 then allOf 0x3FF true
  else if off == 0x11C || off == 0x18C then allOf 0xFFFFFFFF ok
  else if off == 0x184 then allOf 0xFFFFFFFC ok
  else noField

/-- Fields of a register on an assigned page that is not a compound page. -/
def State.fields (s : State) (r : Role) (page off v : Nat) : Fields :=
  let k := pageKind page
  if off == offEvt || off == offEvtEn then allOf (evtMask k) (anyButDebug r)
  else if off == offForce then allOf (evtMask k) (debugOnly r)
  else if k == kTile then s.tileFields r page off v
  else if k == kShadeL || k == kShadeU then s.sliceFields r (sliceOfPage page) off v
  else if k == kStack then s.stackFields r (page - 0x2000) off v
  else if k == kRay then s.rayFields r off
  else if k == kRayCom then s.rayComFields r off
  else if k == kSlots then (if off == 0x100 then allOf 0xFFFFF true else noField)
  else if k == kFe then feFields r off
  else if k == kPcie then (if off == offControl then allOf 1 (operatorOnly r) else noField)
  else if k == kGnomon then s.gnFields r off
  else if k == kAdm then admFields r off
  else if k == kPower then s.powFields r off
  else if k == kTherm then (if off == 0x100 then allOf 0x3F03 true else noField)
  else if k == kPen then s.penFields r off
  else if k == kSpare then
    (if off == 0x100 then allOf 0x7FF (anyButDebug r) else if off == 0x104 then allOf 7 (anyButDebug r) else noField)
  else if k == kAg then agFields r off
  else if k == kMgmt then s.mgmtFields r off
  else if k == kJrnl then (if off == 0x108 || off == 0x10C then allOf 0xFFFFFFFF true else noField)
  else if k == kHost then hostFields r off
  else noField

/-- The selector registers (R517). -/
def isSelector (page off : Nat) : Bool :=
  let k := pageKind page
  (k == kHost && off == 0x110) || ((k == kJrnl || k == kAg) && (off == 0x108 || off == 0x10C)) ||
    (page == stackPage 0 && off == 0x188) || (k == kRay && off == 0x110) || (k == kRayCom && (off == 0x118 || off == 0x120)) ||
    (k == kSlots && off == 0x100) || (k == kTherm && off == 0x100) || (k == kPen && off == 0x10C) ||
    (k == kMgmt && off == 0x130) || (k == kFe && off == 0x124)

/-! ## Effects -/

/-- Stores the bits of a mask. -/
def State.keep (s : State) (page off mask v : Nat) : State :=
  let x := s.rdN page off
  s.wrN page off ((x ^^^ (x &&& mask)) ||| (v &&& mask))

/-- STALL_CLEAR (R476). -/
def State.stallClear (s : State) (t : Nat) : State := forN 48 s fun s i => s.wrN t (0x40 + 4 * i) 0

/-- PCIEp_PERST_N is asserted while LINK_EN is 0 and for 100 ms after it becomes 1 (R511). -/
def State.perst (s : State) (p : Nat) : Bool :=
  !s.flag (pciePage p) offControl 0 || (sfind s.host.linkAt p).any fun t => s.now < t + 20000000

/-- A write of LINK_EN. -/
def State.linkEnable (s : State) (p : Nat) (on : Bool) : State :=
  let was := s.flag (pciePage p) offControl 0
  let s := s.setFlag (pciePage p) offControl 0 on
  if !on then s.linkLost p
  else if was then s
  else { s with host := { s.host with linkAt := sput s.host.linkAt p s.now } }

def State.actTile (s : State) (t off v : Nat) : State :=
  if off == offControl then
    let s := s.keep t offControl 1 v
    let s := if bit v 1 != (s.tile t).halting then s.setHalt t (bit v 1) else s
    let s := if bit v 2 then s.modTile t (·.rcClear) else s
    if bit v 3 then s.stallClear t else s
  else (s.keep t off 0x1FF v).modTile t fun x => { x with dbgRow := none }

def State.actSlice (s : State) (k off mask v : Nat) : State :=
  let page := slicePage k
  if off == offControl then
    let s := s.keep page off 7 v
    let s := if bit v 0 then s.beginRecode k true else if bit mask 0 && s.holdState == 2 then s.beginRecode k false else s
    s.setChecker page (bit v 3)
  else if off == 0x180 then (if bit v 0 then s.dieReset (k / 1152) else s)
  else if off == 0x214 then s.rawCmd page v
  else s.keep page off mask v

/-- RES_CMD answers REFUSED for a request that the residency rules refuse. -/
def State.actStack (s : State) (k off mask v : Nat) : Nat × State :=
  let page := stackPage k
  if off == offControl then (stOk, (s.keep page off 0xFF01 v).setChecker page (bit v 1))
  else if off == 0x180 then
    let r := s.resRequest (bits v 17 0) (bits v 19 18) none
    (if r.1 == 1 then stRefused else stOk, r.2)
  else if off == 0x288 then (stOk, s.rawCmd page v)
  else (stOk, s.keep page off mask v)

def State.actRay (s : State) (p off mask v : Nat) : State :=
  let page := rayPage p
  if off == offControl then
    let was := s.flag page off 0
    let s := s.keep page off 5 v
    let s := if bit v 0 then s.portEnable p true else if was then s.portEnable p false else s
    if bit v 1 && s.portUp p then (s.setFlag page off 1 true).retrainPort p else s
  else s.keep page off mask v

def State.actRayCom (s : State) (off mask v : Nat) : State :=
  if off == 0x138 then
    if v == 1 then s.modmapStage.seek.tryReady else if v == 2 then s.modmapWithdraw.tryReady else s
  else
    let s := s.keep rayComPage off mask v
    if off == 0x100 || off == 0x104 || off == 0x108 then s.portModes else s

def State.actFe (s : State) (p off mask v : Nat) : State :=
  let page := fePage p
  if off == offControl then
    let s := (s.keep page off 2 v).sendWaiting p
    if s.flag page off 0 == bit v 0 then s else s.feEnable p (bit v 0)
  else
    let s := s.keep page off mask v
    if off == 0x120 then s.sendWaiting p else s

def State.actPen (s : State) (off mask v : Nat) : State :=
  if off == offControl then
    let s := (s.keep penPage off 4 v).setFlag penPage off 1 (bit v 1)
    let s := if bit v 0 then s.holdReq else s
    if bit v 1 then s.restoreReq else s
  else s.keep penPage off mask v

/-- A condition of FW_CMD or QUOTE_CMD that does not hold is a refusal by ACCESS (R489). -/
def State.actMgmt (s : State) (off mask v : Nat) : Nat × State :=
  let cmd (r : Bool × State) : Nat × State := (if r.1 then stAccess else stOk, r.2)
  if off == offControl then (stOk, if bit v 0 then s.closeWhere fun _ => true else s)
  else if off == 0x124 then
    if v == 1 then cmd s.fwBegin else if v == 2 then cmd s.fwActivateNow else if v == 3 then cmd s.fwDrop else (stOk, s)
  else if off == 0x168 then (stOk, if v == 0 then s else s.quoteReq v)
  else if off == 0x16C then cmd (s.keyWin v)
  else (stOk, s.keep mgmtPage off mask v)

def State.actHost (s : State) (off mask v : Nat) : State :=
  if off == offControl then (if bit v 0 then s.attach else s.detach 3)
  else if off == 0x108 then s.ringCtl (BitVec.ofNat 32 v)
  else if off == 0x10C then s.ringDb (BitVec.ofNat 32 v)
  else if off == 0x11C then s.kick
  else s.keep hostPage off mask v

/-- The effect of a write that acts, with its masked value; answers a status of Table 11.7. -/
def State.act (s : State) (o : Origin) (page off mask v : Nat) : Nat × State :=
  let k := pageKind page
  let done (s : State) : Nat × State := (stOk, s)
  if off == offEvt then done (s.wrN page off (s.rdN page off ^^^ (s.rdN page off &&& v)))
  else if off == offEvtEn then done (s.keep page off mask v)
  else if off == offForce then
    -- R492: the bits are set, signalled and offered to the triggers, and nothing else
    done ((List.range 32).foldl (fun s i => if bit v i then (s.setFlag page offEvt i true).fireEvent page i else s) s)
  else if k == kTile then done (s.actTile page off v)
  else if k == kShadeL || k == kShadeU then done (s.actSlice (sliceOfPage page) off mask v)
  else if k == kStack then s.actStack (page - 0x2000) off mask v
  else if k == kRay then done (s.actRay (page - 0x2100) off mask v)
  else if k == kRayCom then done (s.actRayCom off mask v)
  else if k == kFe then done (s.actFe (page - 0x2120) off mask v)
  else if k == kPcie then
    done (s.linkEnable (page - 0x2130) (bit v 0))
  else if k == kGnomon then
    if off == 0x14C then done (s.setHi (BitVec.ofNat 32 v))
    else
      let s := s.keep page off mask v
      done (if off == offControl then
        (if s.flag gnPage offControl 1 then s else s.modGn fun g => { g with ppsUsed := false }).elect else s)
  else if k == kAdm && off == 0x110 then
    let r := s.admCmd o v
    (if r.1 then stRefused else stOk, r.2)
  else if k == kPower && off == offControl then
    let s := s.keep page off 1 v
    done (if bit v 1 then (s.setFlag page off 1 true).modPow fun p => { p with clear := true } else s)
  else if k == kPen then done (s.actPen off mask v)
  else if k == kSpare && off == 0x104 then match s.stageCmd v with
    | some s => (stOk, s)
    | none => (stAccess, s)
  else if k == kAg && off == 0x124 then
    done (s.modAg fun a => { a with trigs := sset 0 a.trigs (s.field agPage 0x120 5 0) (BitVec.ofNat 32 v) })
  else if k == kAg && off == 0x12C then
    done (s.modAg fun a => { a with sets := sset 0 a.sets (s.field agPage 0x128 11 0) (BitVec.ofNat 32 v) })
  else if k == kMgmt then s.actMgmt off mask v
  else if k == kHost then done (s.actHost off mask v)
  else done (s.keep page off mask v)

/-! ## A write -/

/-- What a field reads as for R489: action bits and write-only fields read zero. -/
def State.current (s : State) (page off : Nat) : Nat := if off == offEvt then 0 else (s.regValue page off).toNat

/-- A write may act: its role may write the register, and every field it would change (R489). -/
def State.mayWrite (s : State) (r : Role) (page off v : Nat) : Bool :=
  let f := s.fields r page off v
  f.1 == 0 || (f.2 != 0 && ((v ^^^ s.current page off) &&& f.1 &&& (f.1 ^^^ f.2)) == 0)

/-- Applies a write to an assigned page that is not a compound page: its status and the state. A write to a page whose
tile switch is open has no effect (R496). -/
def State.applyWrite (s : State) (o : Origin) (page off : Nat) (v : Word) : Nat × State :=
  let r := roleOf o
  let f := s.fields r page off v.toNat
  if f.1 == 0 then (stOk, s)
  else if pageKind page == kTile && s.spare.opened.contains (page / 36) then (stOk, s)
  else if !s.mayWrite r page off v.toNat then (stAccess, s)
  else s.act o page off f.2 (v.toNat &&& f.1)

end Sys2Proof.Machine
end

