-- ==== Sys2Proof/Machine/Orders.lean ====
section
/-!
DEFINITION. Orders from every source: journalling and outcomes (R351, R361, R461, R489), compound pages (R162 to R165,
R497, R518) and the register operations of the management channel (R343, R457).
-/
namespace Sys2Proof.Machine

/-! ## The outcome of an access -/

/-- Ends a register access: its journal entry and the answer to whoever sent it. A refusal by ACCESS of a host store or a
ring command raises HOST_DENIED. The body of a REG_REPLY to a write is the status (assumption 73). -/
def State.accessEnd (s : State) (a : Asker) (e : Option (Nat × JEnt)) (st : Nat) (value : Option Word) : State :=
  let fin (s : State) : State := match e with
    | some (n, e) => s.jFinish n st ((value.getD 0).toNat) e
    | none => s
  match a with
  | .order o =>
    let s := fin s
    let s := match o with
      | .hart _ => if st == stAccess then s.denied else s
      | .ring _ => if st == stAccess then s.denied else s
      | _ => s
    match value with
    | some v => s.say (.reg o v)
    | none => if st == stOk then s else s.say (.status o st)
  | .load h => s.say (.hartLoad h (sound (natLe 4 (value.getD 0).toNat)))
  | .cmd seq =>
    let s := if st == stAccess then s.denied else s
    s.cmdDone seq st (value.getD 0).toNat
  | .session sid ctr =>
    match s.mg.sessions.find? (·.sid == sid) with
    | some x => (fin s).replySess x ctr st (value.elim [] fun v => natLe 4 v.toNat)
    | none => fin s
  | .relay dst tag role =>
    (fin s).sendMgmt dst { op := 3, tag := tag, role := role, arg := 0, src := 0
                           body := natLe 4 (value.elim st (·.toNat)) }

/-! ## Aggregation of tile pages (Table 5.15) -/

inductive Agg where
  | flag
  | count
  | low
  | high
  | same
  | lowS            -- the smallest signed value
deriving DecidableEq, Repr

/-- Fields and classes of a tile page (Tables 5.16, 7.11, 9.7, 12.10, 15.6): highest bit, lowest bit, class. Version is
the minimum; address and none are treated apart. -/
def tileClasses (off : Nat) : List (Nat × Nat × Agg) :=
  if off == 0 then [(31, 0, .same)]
  else if off == 4 then [(7, 0, .low), (15, 8, .low)]
  else if off == offStatus || off == offControl || off == offEvt || off == offEvtEn || off == 0x120 || off == 0x2C4 then
    [(31, 0, .flag)]
  else if off == offErrCount || (0x40 ≤ off && off < 0x100) || off == 0x124 || off == 0x128 || (0x180 ≤ off && off < 0x280) ||
      (0x29C ≤ off && off ≤ 0x2A4) || (0x2C8 ≤ off && off ≤ 0x2D0) then [(31, 0, .count)]
  else if off == 0x100 then [(13, 12, .high), (14, 14, .flag)]
  else if off == 0x104 || off == 0x108 || off == 0x10C || off == 0x110 then [(11, 0, .low)]
  else if off == 0x114 then [(11, 0, .high)]
  else if off == 0x118 then [(7, 0, .low), (15, 11, .high)]
  else if off == 0x11C || off == 0x280 || off == 0x284 || off == 0x294 then [(31, 0, .low)]
  else if 0x140 ≤ off && off < 0x160 then [(6, 0, .count)]
  else if 0x160 ≤ off && off < 0x170 then [(2, 0, .count), (5, 3, .low)]
  else if off == 0x288 then [(7, 0, .same), (23, 8, .same)]
  else if off == 0x28C then [(1, 0, .high)]
  else if off == 0x290 then [(2, 0, .same), (12, 8, .flag)]
  else if off == 0x298 then [(0, 0, .flag)]
  else if off == 0x2C0 then [(5, 0, .count), (21, 16, .count)]
  else if off == 0x2E0 then [(11, 0, .low), (27, 16, .low)]
  else if off == 0x2E4 then [(3, 0, .high)]
  else if off == 0x2E8 then [(15, 0, .lowS)]
  else []

/-- Combines two values of a field of `n` bits. -/
def Agg.join (n : Nat) : Agg → Nat → Nat → Nat
  | .flag, a, b => a ||| b
  | .count, a, b => min (a + b) (2 ^ n - 1)
  | .low, a, b => min a b
  | .high, a, b => max a b
  | .same, a, b => if a == b then a else 0
  | .lowS, a, b => if signedOf n b < signedOf n a then b else a

/-- Combines the samples of a register that is no address (R164). -/
def aggregate (off : Nat) (l : List Word) : Word :=
  let get (c : Nat × Nat × Agg) (w : Word) : Nat := bits w.toNat c.1 c.2.1
  match l with
  | [] => 0
  | w :: ws => BitVec.ofNat 32 ((tileClasses off).foldl (fun m c =>
      m ||| (ws.foldl (fun a x => c.2.2.join (c.1 + 1 - c.2.1) a (get c x)) (get c w)) * 2 ^ c.2.1) 0)

/-- A register of the class address (Table 5.16). -/
def isErrAddr (off : Nat) : Bool := off == offErrLo || off == offErrHi

/-- What a member module answers beside an address: its ERR_COUNT, under its number plus this. -/
def countKey : Nat := 2 ^ 15

/-- Combines the answers of the member modules (R164): for an address, that of the lowest module whose ERR_COUNT is nonzero. -/
def combine (off : Nat) (parts : Sparse Word) : Word :=
  if isErrAddr off then match parts.find? fun p => countKey ≤ p.1 && p.2 != 0 with
    | some p => sget 0 parts (p.1 - countKey)
    | none => 0
  else aggregate off (parts.map (·.2))

/-! ## Compound units -/

/-- Sites of the leaves of a local unit (R162). -/
def State.leafSites (s : State) (u : Nat) : List Nat := (s.leaves u).filterMap s.siteOf

/-- A local unit's register (R164); an address is that of a leaf whose ERR_COUNT is nonzero. -/
def State.unitValue (s : State) (u off : Nat) : Word :=
  let sites := s.leafSites u
  if off == offErrLo || off == offErrHi then match sites.find? fun t => s.rdN t offErrCount != 0 with
    | some t => s.regValue t off
    | none => 0
  else aggregate off (sites.map fun t => s.regValue t off)

/-- Members of a system unit: physical numbers by logical module (R159). -/
def State.memberModules (s : State) (u : Nat) : List Nat :=
  unitModules s.unitsNow (s.unitsNow.length + 1) u

/-- Journal OPCODE of a write by an originator (Table 14.7). -/
def writeOp : Origin → Nat
  | .hart _ => 0xFE
  | .ring _ => 0x01
  | .relayed r => if r == 0 then 0x01 else 0x02
  | _ => 0x02

def writeDigest (page off : Nat) (v : Word) : List Byte := natLe 4 (regAddr page off) ++ natLe 4 v.toNat

/-- A write to a local unit: every leaf applies it and journals its part (R163, R518), but for the leaves at which an order of
the same cycle takes precedence (R165). -/
def State.unitWrite (s : State) (o : Origin) (u off : Nat) (v : Word) (lost : List Nat := []) : Nat × State :=
  (s.leafSites u).foldl (fun (x : Nat × State) t =>
    let r := if lost.contains t then (stSuperseded, x.2) else x.2.applyWrite o t off v
    (if x.1 == stOk then r.1 else x.1, r.2.jOrder o (writeOp o) r.1 (writeDigest t off v) (regAddr t off))) (stOk, s)

/-- ROLE of R343 under which an originator's access is relayed. -/
def relayRole (o : Origin) : Nat := match roleOf o with
  | .host => 0
  | .operator => 1
  | .boot => 1
  | .custodian => 2
  | .debug => 3

def State.modComps (s : State) (f : List Compound → List Compound) : State := s.modHost fun h => { h with comps := f h.comps }

/-- Ends a compound access: every member has answered, or is left out (R165, R518). -/
def State.compEnd (s : State) (c : Compound) : State :=
  let s := s.modComps fun l => l.filter (·.id != c.id)
  let s := { s with ray := { s.ray with reqs := s.ray.reqs.filter fun q => match q.want with
    | .unit id _ => id != c.id
    | _ => true } }
  let partly := !c.wait.isEmpty
  let s := if partly then (s.bump admPage 0x150).raise admPage 6 else s
  match c.value with
  | none => s.accessEnd c.by_ c.entry stOk (some (if partly then 0xFFFFFFFF else combine c.off c.parts))
  | some _ =>
    let bad := (c.parts.find? fun p => p.2 != 0).map (·.2.toNat)
    s.accessEnd c.by_ c.entry (bad.getD (if partly then stPartial else stOk)) none

/-- Begins an access to a system unit: the own part at once, the others over the management channel (R165). -/
def State.compBegin (s : State) (o : Origin) (by_ : Asker) (entry : Option (Nat × JEnt)) (u off : Nat) (v : Option Word)
    (lost : List Nat := []) : State :=
  let mods := s.memberModules u
  let counts := v.isNone && isErrAddr off
  let (id, s) := s.fresh
  let here := s.logical.any mods.contains
  let (own, s) : Sparse Word × State :=
    if !here then ([], s)
    else match v with
      | none => ((s.logical.getD 0, s.unitValue 0 off) ::
          (if counts then [(s.logical.getD 0 + countKey, s.unitValue 0 offErrCount)] else []), s)
      | some v =>
        let r := s.unitWrite o 0 off v lost
        ([(s.logical.getD 0, BitVec.ofNat 32 r.1)], r.2)
  let others := mods.filter fun m => !(here && s.logical == some m)
  let others := others ++ (if counts then others.map (· + countKey) else [])
  let c : Compound := { id := id, off := off, value := v, by_ := by_, entry := entry, parts := own, wait := others }
  let s := s.modComps (· ++ [c])
  if others.isEmpty then s.compEnd c
  else others.foldl (fun (s : State) m =>
    let tag := s.ray.nextTag
    let d := s.physOfLogical (m % countKey)
    let off := if countKey ≤ m then offErrCount else off
    -- a member that no map names answers nothing
    let q : MgmtReq := { tag := tag, dst := d.getD (2 ^ 15), want := .unit id m }
    let s : State := { s with ray := { s.ray with nextTag := (tag + 1) % 2 ^ 24, reqs := s.ray.reqs ++ [q] } }
    match d with
    | none => s
    | some d =>
      s.sendMgmt d { op := if v.isSome then 2 else 1, tag := tag, role := relayRole o, arg := 0x3000 + off / 4 * 2 ^ 20, src := 0
                     body := v.elim [] fun v => natLe 4 v.toNat }) s

/-- A member module's part has come. -/
def State.compPart (s : State) (id m : Nat) (v : Word) : State :=
  match s.host.comps.find? (·.id == id) with
  | none => s
  | some c =>
    let c := { c with parts := sput c.parts m v, wait := c.wait.filter (· != m) }
    if c.wait.isEmpty then s.compEnd c else s.modComps fun l => l.map fun x => if x.id == id then c else x

/-! ## Reads and writes of any page -/

/-- A page whose accesses travel to other modules. -/
def isSystemUnit (page : Nat) : Bool := 0x3800 ≤ page && page < 0x4000

/-- An access to a reserved page is one to a reserved address (R21, R486): the agent through which the order came records it. -/
def State.pageFault (s : State) (o : Origin) (page off : Nat) : State :=
  let at_ := match o with
    | .hart _ | .ring _ => hostPage
    | _ => mgmtPage
  s.logAddr at_ (regBase + regAddr page off)

/-- A write that no other module takes part in: its status. `lost` are the pages on which another order of the same cycle takes
precedence. -/
def State.writeNow (s : State) (o : Origin) (page off : Nat) (v : Word) (lost : List Nat := []) : Nat × State :=
  if !pageAssigned page then (stAddress, s.pageFault o page off)
  else if isCompound page then s.unitWrite o (page - 0x3000) off v lost
  else if lost.contains page then (stSuperseded, s)
  else s.applyWrite o page off v

/-- A read that no other module takes part in. A reserved page reads as the poison pattern. -/
def State.readNow (s : State) (o : Origin) (page off : Nat) : Nat × Word × State :=
  if !pageAssigned page then (stAddress, 0xFFFFFFFF, s.pageFault o page off)
  else if isCompound page then (stOk, s.unitValue (page - 0x3000) off, s)
  else (stOk, s.readReg (latchSource o) page off)

/-- A write that is accepted and in the journal: it acts, and its outcome is reported. -/
def State.writeAny (s : State) (o : Origin) (by_ : Asker) (e : Option (Nat × JEnt)) (page off : Nat) (v : Word)
    (lost : List Nat := []) : State :=
  if isSystemUnit page then s.compBegin o by_ e (page - 0x3000) off (some v) lost
  else
    let r := s.writeNow o page off v lost
    r.2.accessEnd by_ e r.1 none

def State.readAny (s : State) (o : Origin) (by_ : Asker) (e : Option (Nat × JEnt)) (page off : Nat) : State :=
  if isSystemUnit page then s.compBegin o by_ e (page - 0x3000) off none
  else
    let r := s.readNow o page off
    r.2.2.accessEnd by_ e r.1 (some r.2.1)

/-- Host stores that are not journalled (R361). -/
def notJournalled (page off : Nat) : Bool :=
  (page == hostPage && (off == 0x10C || off == 0x11C)) || isSelector page off

/-- The open REG_WRITE of a ring that orders this write. -/
def State.ringCmd (s : State) (n page off : Nat) (v : Word) : Option Cmd :=
  (s.cmdsOf n).find? fun c => c.opcode == 1 && c.arg 0 == page + off / 4 * 2 ^ 20 && c.arg 1 == v.toNat && c.done.isNone

/-- Accepts an order: who it answers to, and its journal entry. A ring's order is in the journal since its command was
fetched. -/
def State.accept (s : State) (o : Origin) (page off : Nat) (v : Word) : Asker × Option (Nat × JEnt) × State :=
  let own (s : State) : Asker × Option (Nat × JEnt) × State :=
    let e := s.entry (classOfOrigin o) (sourceOf o) (writeOp o) stPending (writeDigest page off v) (regAddr page off) 0
    let r := s.append e
    (.order o, some (r.1, e), r.2)
  match o with
  | .boot => (.order o, none, s)
  | .ring n => match s.ringCmd n page off v with
    | some c => (.cmd c.seq, none, s)
    | none => (.order o, none, s)
  | .hart _ => if notJournalled page off then (.order o, none, s) else own s
  | _ => own s

/-- An order to a register. -/
def State.order (s : State) (o : Origin) (page off : Nat) (v : Word) : State :=
  let r := s.accept o page off v
  r.2.2.writeAny o r.1 r.2.1 page off v

/-! ## Contradiction (R461 to R463) -/

/-- An order to one field among those of one cycle. -/
def State.wouldAct (s : State) (w : RegOrder) : Bool :=
  (s.fields (roleOf w.origin) w.page w.off w.value.toNat).1 != 0 && s.mayWrite (roleOf w.origin) w.page w.off w.value.toNat

/-- Two orders that act leave a field with different values. A W1C bit and EVT_FORCE take every 1. -/
def State.contradict (s : State) (a b : RegOrder) : Bool :=
  a.off != offEvt && a.off != offForce &&
    ((a.value ^^^ b.value).toNat &&& (s.fields (roleOf a.origin) a.page a.off a.value.toNat).1) != 0

/-- Precedence: the lower class, then the lower source, then the earlier. -/
def firstOf (l : List RegOrder) : Option RegOrder :=
  l.foldl (fun b w => match b with
    | none => some w
    | some x =>
      let cx := classOfOrigin x.origin
      let cw := classOfOrigin w.origin
      if cw < cx || (cw == cx && sourceOf w.origin < sourceOf x.origin) then some w else some x) none

/-- The pages of this module that a write acts on: its own, or the leaves of its compound unit (R462). -/
def State.leafPages (s : State) (w : RegOrder) : List Nat :=
  if isSystemUnit w.page then
    (if s.logical.any (s.memberModules (w.page - 0x3000)).contains then s.leafSites 0 else [])
  else if isCompound w.page then s.leafSites (w.page - 0x3000) else [w.page]

/-- The order that stands at a page among those of one cycle. -/
def State.winnerAt (s : State) (ws : List RegOrder) (p : Nat) : Option RegOrder :=
  firstOf (ws.filter fun x => (s.leafPages x).contains p && s.wouldAct { x with page := p })

/-- The pages on which an order contradicts the one that stands there. -/
def State.lostAt (s : State) (ws : List RegOrder) (w : RegOrder) : List Nat :=
  (s.leafPages w).filter fun p => match s.winnerAt ws p with
    | some x => s.wouldAct { w with page := p } && s.contradict { w with page := p } { x with page := p }
    | none => false

/-- SEQ of an accepted order. -/
def seqOf (x : Asker × Option (Nat × JEnt)) : Option Nat := match x with
  | (.cmd n, _) => some n
  | (_, some (n, _)) => some n
  | _ => none

/-- Orders that reach one register in one cycle, by themselves or through a compound unit: the winner acts, those that
contradict it do not. -/
def State.sameCycle (s : State) (ws : List RegOrder) : State :=
  let acc (x : List (RegOrder × Asker × Option (Nat × JEnt)) × State) (w : RegOrder) :=
    let r := x.2.accept w.origin w.page w.off w.value
    (x.1 ++ [(w, r.1, r.2.1)], r.2.2)
  let (l, s) := ws.foldl acc (([] : List (RegOrder × Asker × Option (Nat × JEnt))), s)
  l.foldl (fun (t : State) x =>
    let lost := s.lostAt ws x.1
    let t := t.raiseIf (!lost.isEmpty && classOfOrigin x.1.origin == 4) hostPage 4
    let t := t.writeAny x.1.origin x.2.1 x.2.2 x.1.page x.1.off x.1.value lost
    let stands := (lost.head?.bind (s.winnerAt ws)).bind fun win => (l.find? (·.1 == win)).bind fun y => seqOf y.2
    match stands, seqOf x.2 with
    | some a, some b => t.jLink a b
    | _, _ => t) s

/-- REGISTER_WRITE: an order, with those that reach the same register in the same cycle, and the bits that hardware sets in
that cycle (R8). Hardware's setting stands and is an event; an order stands for every other field. -/
def execRegisterWrite (w : RegOrder) (rivals : List RegOrder) (hwSet : Word) (s : State) : Host.Outcome State Fault Refusal :=
  runOn s fun s =>
    let ws := w :: rivals.filter fun x => x.off == w.off && (x.page == w.page || (s.leafPages x).any (s.leafPages w).contains)
    let s := if ws.length == 1 || !pageAssigned w.page then ws.foldl (fun s w => s.order w.origin w.page w.off w.value) s
      else s.sameCycle ws
    if w.off == offEvt then
      (List.range 32).foldl (fun s i =>
        if bit hwSet.toNat i && bit (evtMask (pageKind w.page)) i then s.raise w.page i else s) s
    else s

/-! ## The management channel (R343, R457) -/

/-- Page and offset of a register operation. -/
def relayPage (m : MgmtMsg) : Nat := m.arg % 2 ^ 20
def relayOff (m : MgmtMsg) : Nat := m.arg / 2 ^ 20 % 4096 * 4

/-- An access acts only while SESSION_POLICY[17] is set, and is journalled under source 4,095. -/
def State.relayed (s : State) (m : MgmtMsg) (opcode : Nat) (d : List Byte) (f : Option (Nat × JEnt) → State → State) : State :=
  let o := Origin.relayed m.role
  let e := s.entry (classOfOrigin o) (sourceOf o) opcode stPending d (regAddr (relayPage m) (relayOff m)) 0
  let (n, s) := s.append e
  if s.flag mgmtPage 0x10C 17 then f (some (n, e)) s
  else s.accessEnd (.relay m.src m.tag m.role) (some (n, e)) stAccess none

def execMgmtRegRead (m : MgmtMsg) (s : State) : Host.Outcome State Fault Refusal :=
  runOn s fun s => s.relayed m (if m.role == 0 then 0x02 else 0x01) (natLe 4 (regAddr (relayPage m) (relayOff m))) fun e s =>
    s.readAny (.relayed m.role) (.relay m.src m.tag m.role) e (relayPage m) (relayOff m)

def execMgmtRegWrite (m : MgmtMsg) (s : State) : Host.Outcome State Fault Refusal :=
  runOn s fun s =>
    let v := BitVec.ofNat 32 (fieldAt m.body 0 4)
    s.relayed m (writeOp (.relayed m.role)) (writeDigest (relayPage m) (relayOff m) v) fun e s =>
      s.writeAny (.relayed m.role) (.relay m.src m.tag m.role) e (relayPage m) (relayOff m) v

/-- The request that a reply names; requests and replies of one pair of modules share a TAG. -/
def State.reqOf (s : State) (m : MgmtMsg) : Option MgmtReq := s.ray.reqs.find? fun q => q.tag == m.tag && q.dst == m.src

def State.dropReq (s : State) (tag : Nat) : State := { s with ray := { s.ray with reqs := s.ray.reqs.filter (·.tag != tag) } }

def execRegReply (m : MgmtMsg) (s : State) : Host.Outcome State Fault Refusal :=
  runOn s fun s =>
    match s.reqOf m with
    | none => s
    | some q =>
      let v := BitVec.ofNat 32 (fieldAt m.body 0 4)
      match q.want with
      | .unit id k => (s.dropReq q.tag).compPart id k v
      | .partner reg => (s.dropReq q.tag).partnerReply reg v
      | _ => s

/-- A memory fetch is complete when no byte of it is missing. -/
def State.fetched (s : State) (q : MgmtReq) (n : Nat) : Bool × State :=
  if q.left ≤ n then (true, s.dropReq q.tag)
  else (false, { s with ray := { s.ray with reqs := s.ray.reqs.map fun x =>
    if x.tag == q.tag then { x with at_ := x.at_ + n, left := x.left - n } else x } })

/-- No header of the partner's slots is still awaited: the search goes on in storage (R429). -/
def State.headsIn (s : State) : State :=
  if s.ray.reqs.any (fun q => match q.want with
    | .head _ => true
    | _ => false) then s
  else s.seekStorage

/-- MEM_DATA (R217, R429): a piece of a repair, of a partner's snapshot header, or of the snapshot being restored. -/
def execMemData (m : MgmtMsg) (s : State) : Host.Outcome State Fault Refusal :=
  runOn s fun s =>
    match s.reqOf m with
    | none => s
    | some q =>
      let n := m.body.length
      match q.want with
      | .repair entry src =>
        let s := s.modWrite q.at_ (sound (m.body.take q.left))
        let r := s.fetched q n
        let more := r.2.ray.reqs.any fun x => match x.want with
          | .repair e _ => e == entry
          | _ => false
        if r.1 && !more then r.2.repairCheck entry src else r.2
      | .head slot =>
        let r := s.fetched q n
        match s.logicalComing.bind fun k => headOf k m.body with
        | some x => (r.2.modPen fun p => { p with cands := p.cands ++ [{ step := x.1, bytes := x.2, place := slot }] }).headsIn
        | none => r.2.headsIn
      | .restore off =>
        let r := s.fetched q n
        r.2.modPen fun p => { p with buf := sput p.buf (off + q.at_) (sound m.body) }
      | _ => s

/-- MGMT_REPLY_TIMEOUT: a member module has not answered within 1 ms and is left out (R165). The partner's silence ends a
drain or a search (R426). -/
def execMgmtReplyTimeout (tag : Nat) (s : State) : Host.Outcome State Fault Refusal :=
  runOn s fun s =>
    match s.ray.reqs.find? (·.tag == tag) with
    | none => s
    | some q => match q.want with
      | .unit id _ =>
        match s.host.comps.find? (·.id == id) with
        | some c => s.compEnd c
        | none => s.dropReq tag
      | .partner _ => s.partnerLost
      | .head _ => (s.dropReq tag).headsIn
      | .repair _ _ => s
      | .restore _ => (s.modPen fun p => { p with failed := true }).dropReq tag

end Sys2Proof.Machine
end

