-- ==== Sys2Proof/Machine/Access.lean ====
section
/-!
DEFINITION. Host accesses (R350 to R353), register commands of rings and sessions, and one meaning for every row that is
an order to a particular register; captures (R471) and the holdoff of event messages (R495).
-/
namespace Sys2Proof.Machine

/-! ## The host's address map (Table 11.1) -/

/-- PCIe port whose memory window or configuration space holds an address. -/
def endpointPort (a : Nat) : Option Nat :=
  if 0x100000000000 ≤ a && a < 0x104000000000 then some 0
  else if 0x104000000000 ≤ a && a < 0x108000000000 then some 1
  else if 0x110000000000 ≤ a && a < 0x110002000000 then some 0
  else if 0x110002000000 ≤ a && a < 0x110004000000 then some 1
  else none

/-- The boot ROM, IMSIC pages, timers and console of the host complex: not part of the module's own state. -/
def isHostOwn (a : Nat) : Bool := 0x120000000000 ≤ a && a < 0x120001000000

/-- A host access to stack memory that the seal allows: the host region, or device memory while HOST_WIN is set. -/
def State.hostMem (s : State) (a n : Nat) : Bool :=
  s.inHost a n || (s.inDevMem a n && s.flag mgmtPage 0x104 0)

def regPageOf (a : Nat) : Nat := (a - regBase) / 4096
def regOffOf (a : Nat) : Nat := (a - regBase) % 4096

/-- HOST_LOAD. -/
def execHostLoad (h addr len : Nat) (s : State) : Host.Outcome State Fault Refusal :=
  runPart (h < 32) s fun s =>
    -- in Dusk the hart clocks stand (Table 12.2)
    if s.host.inReset || s.dusk then s
    else if isRegSpace addr then
      if len != 4 || addr % 4 != 0 then s.say (.hartFault h addr)
      else if !pageAssigned (regPageOf addr) then
        -- a reserved address (R21): the poison pattern, and the address on the host coupling page
        (s.addrFault (.host h) addr).say (.hartLoad h (List.replicate 4 ⟨0xFF, true⟩))
      else s.readAny (.hart h) (.load h) none (regPageOf addr) (regOffOf addr)
    else if s.hostMem addr len then
      let (d, s) := s.readStack addr len (.host h)
      s.say (.hartLoad h d)
    else match endpointPort addr with
      | some p => s.say (.endpoint p addr)
      | none => if isHostOwn addr then s else s.say (.hartFault h addr)

/-- HOST_STORE. -/
def execHostStore (h addr : Nat) (data : List Byte) (s : State) : Host.Outcome State Fault Refusal :=
  runPart (h < 32) s fun s =>
    if s.host.inReset || s.dusk then s
    else if isRegSpace addr then
      if data.length != 4 || addr % 4 != 0 then s.say (.hartFault h addr)
      else s.order (.hart h) (regPageOf addr) (regOffOf addr) (BitVec.ofNat 32 (leNat data))
    else if s.hostMem addr data.length then
      s.devWrite addr (sound data) 5 (.host h)
    else match endpointPort addr with
      | some p => s.say (.endpoint p addr)
      | none => if isHostOwn addr then s else s.say (.hartFault h addr)

/-! ## Ring and session commands -/

def Cmd.regPage (c : Cmd) : Nat := c.arg 0 % 2 ^ 20
def Cmd.regOff (c : Cmd) : Nat := c.arg 0 / 2 ^ 20 * 4

/-- REG_WRITE of a ring (Table 11.5). -/
def execCmdRegWrite (seq : Nat) (s : State) : Host.Outcome State Fault Refusal :=
  runOn s fun s => s.runCmd seq 0x01 fun c s =>
    s.writeAny (.ring c.ring) (.cmd c.seq) none c.regPage c.regOff (BitVec.ofNat 32 (c.arg 1))

/-- REG_READ of a ring. -/
def execCmdRegRead (seq : Nat) (s : State) : Host.Outcome State Fault Refusal :=
  runOn s fun s => s.runCmd seq 0x02 fun c s => s.readAny (.ring c.ring) (.cmd c.seq) none c.regPage c.regOff

/-- The journal entry of an accepted session command. -/
def State.jAt (s : State) (n : Nat) : Option (Nat × JEnt) := (sfind s.host.journal (n % 65536)).map fun e => (n, e)

/-- REG_READ of a session. -/
def execSessionRegRead (sid ctr page off : Nat) (tag : List Byte) (s : State) : Host.Outcome State Fault Refusal :=
  runOn s fun s => s.sessCmd sid ctr 1 [natLe 4 page, natLe 4 off] tag (some (regAddr page off)) anyRole fun x n s =>
    if isSystemUnit page then
      (stPending, [], s.compBegin x.origin (.session sid ctr) (s.jAt n) (page - 0x3000) off none)
    else
      let r := s.readNow x.origin page off
      (r.1, natLe 4 r.2.1.toNat, r.2.2)

/-- REG_WRITE of a session: the field's own rule checks the role. -/
def execSessionRegWrite (sid ctr page off : Nat) (v : Word) (tag : List Byte) (s : State) : Host.Outcome State Fault Refusal :=
  runOn s fun s => s.sessCmd sid ctr 2 [natLe 4 page, natLe 4 off, natLe 4 v.toNat] tag (some (regAddr page off)) anyRole
    fun x n s =>
      if isSystemUnit page then
        (stPending, [], s.compBegin x.origin (.session sid ctr) (s.jAt n) (page - 0x3000) off (some v))
      else
        let r := s.writeNow x.origin page off v
        (r.1, [], r.2)

/-! ## Reads that latch -/

def execLowWordRead (o : Origin) (page off : Nat) (s : State) : Host.Outcome State Fault Refusal :=
  runOn s fun s => s.readAny o (.order o) none page off

def execAgDataRead (o : Origin) (s : State) : Host.Outcome State Fault Refusal :=
  runOn s fun s => s.readAny o (.order o) none agPage 0x400

def execJrnlData0Read (o : Origin) (s : State) : Host.Outcome State Fault Refusal :=
  runOn s fun s => s.readAny o (.order o) none jrnlPage 0x140

/-! ## Compound pages -/

def execCompoundRead (o : Origin) (unit off : Nat) (s : State) : Host.Outcome State Fault Refusal :=
  runPart (unit < 4096) s fun s => s.readAny o (.order o) none (0x3000 + unit) off

def execCompoundWrite (o : Origin) (unit off : Nat) (v : Word) (s : State) : Host.Outcome State Fault Refusal :=
  runPart (unit < 4096) s fun s => s.order o (0x3000 + unit) off v

/-! ## Orders to particular registers -/

/-- A register with one bit set or cleared, its other fields as they stand. -/
def State.withBit (s : State) (page off i : Nat) (v : Bool) : Word := BitVec.ofNat 32 (setBits (s.rdN page off) i i (b2n v))

/-- An order that writes one bit of CONTROL. -/
def State.control (s : State) (o : Origin) (page i : Nat) (v : Bool) : State := s.order o page offControl (s.withBit page offControl i v)

def execEvtForce (o : Origin) (page : Nat) (v : Word) (s : State) : Host.Outcome State Fault Refusal :=
  runOn s fun s => s.order o page offForce v

def execRcFlush (o : Origin) (t : Nat) (s : State) : Host.Outcome State Fault Refusal :=
  runPart (t < 1152) s fun s => s.control o t 2 true

def execStallClear (o : Origin) (t : Nat) (s : State) : Host.Outcome State Fault Refusal :=
  runPart (t < 1152) s fun s => s.control o t 3 true

def execDbgHalt (o : Origin) (t : Nat) (s : State) : Host.Outcome State Fault Refusal :=
  runPart (t < 1152) s fun s => s.control o t 1 true

def execDbgResume (o : Origin) (t : Nat) (s : State) : Host.Outcome State Fault Refusal :=
  runPart (t < 1152) s fun s => s.control o t 1 false

def execDbgAccSel (o : Origin) (t : Nat) (v : Word) (s : State) : Host.Outcome State Fault Refusal :=
  runPart (t < 1152) s fun s => s.order o t 0x300 v

def execMergeOff (o : Origin) (k : Nat) (v : Bool) (s : State) : Host.Outcome State Fault Refusal :=
  runPart (k < 2304) s fun s => s.control o (slicePage k) 0 v

def execDieCmd (o : Origin) (die : Nat) (v : Word) (s : State) : Host.Outcome State Fault Refusal :=
  runPart (die < 2) s fun s => s.order o (slicePage (1152 * die)) 0x180 v

/-- CHECKER of a slice or stack page. -/
def execChecker (o : Origin) (page : Nat) (v : Bool) (s : State) : Host.Outcome State Fault Refusal :=
  let k := pageKind page
  runPart (k == kShadeL || k == kShadeU || k == kStack) s fun s => s.control o page (if k == kStack then 1 else 3) v

/-- Offset of CHK_CMD. -/
def chkCmdOff (page : Nat) : Nat := if pageKind page == kStack then 0x288 else 0x214

def execRawRead (o : Origin) (page : Nat) (s : State) : Host.Outcome State Fault Refusal :=
  let k := pageKind page
  runPart (k == kShadeL || k == kShadeU || k == kStack) s fun s => s.order o page (chkCmdOff page) 1

def execRawWrite (o : Origin) (page : Nat) (s : State) : Host.Outcome State Fault Refusal :=
  let k := pageKind page
  runPart (k == kShadeL || k == kShadeU || k == kStack) s fun s => s.order o page (chkCmdOff page) 2

def execResCmd (o : Origin) (v : Word) (s : State) : Host.Outcome State Fault Refusal :=
  runOn s fun s => s.order o (stackPage 0) 0x180 v

def execLinkEn (o : Origin) (p : Nat) (v : Bool) (s : State) : Host.Outcome State Fault Refusal :=
  runPart (p < 2) s fun s => s.control o (pciePage p) 0 v

def execPortEn (o : Origin) (p : Nat) (v : Bool) (s : State) : Host.Outcome State Fault Refusal :=
  runPart (p < 16) s fun s => s.control o (rayPage p) 0 v

def execRetrainReq (o : Origin) (p : Nat) (s : State) : Host.Outcome State Fault Refusal :=
  runPart (p < 16) s fun s => s.control o (rayPage p) 1 true

def execModmapStage (o : Origin) (s : State) : Host.Outcome State Fault Refusal := runOn s fun s => s.order o rayComPage 0x138 1

def execModmapWithdraw (o : Origin) (s : State) : Host.Outcome State Fault Refusal := runOn s fun s => s.order o rayComPage 0x138 2

def execFePortEn (o : Origin) (p : Nat) (v : Bool) (s : State) : Host.Outcome State Fault Refusal :=
  runPart (p < 2) s fun s => s.control o (fePage p) 0 v

def execSetHi (o : Origin) (v : Word) (s : State) : Host.Outcome State Fault Refusal := runOn s fun s => s.order o gnPage 0x14C v

def execCheck (o : Origin) (s : State) : Host.Outcome State Fault Refusal := runOn s fun s => s.order o admPage 0x110 1

def execArm (o : Origin) (s : State) : Host.Outcome State Fault Refusal := runOn s fun s => s.order o admPage 0x110 2

def execWithdraw (o : Origin) (s : State) : Host.Outcome State Fault Refusal := runOn s fun s => s.order o admPage 0x110 3

def execEnd (o : Origin) (s : State) : Host.Outcome State Fault Refusal := runOn s fun s => s.order o admPage 0x110 5

def execLearnClear (o : Origin) (s : State) : Host.Outcome State Fault Refusal := runOn s fun s => s.control o powPage 1 true

def execHoldReq (o : Origin) (s : State) : Host.Outcome State Fault Refusal := runOn s fun s => s.control o penPage 0 true

def execRestoreReq (o : Origin) (s : State) : Host.Outcome State Fault Refusal := runOn s fun s => s.control o penPage 1 true

def execRetireSite (o : Origin) (s : State) : Host.Outcome State Fault Refusal := runOn s fun s => s.order o sparePage 0x104 1

def execRetireRow (o : Origin) (s : State) : Host.Outcome State Fault Refusal := runOn s fun s => s.order o sparePage 0x104 2

def execReadmitSite (o : Origin) (s : State) : Host.Outcome State Fault Refusal := runOn s fun s => s.order o sparePage 0x104 3

def execReadmitRow (o : Origin) (s : State) : Host.Outcome State Fault Refusal := runOn s fun s => s.order o sparePage 0x104 4

def execSelfTest (o : Origin) (s : State) : Host.Outcome State Fault Refusal := runOn s fun s => s.order o sparePage 0x104 5

def execWithdrawStagedMap (o : Origin) (s : State) : Host.Outcome State Fault Refusal := runOn s fun s => s.order o sparePage 0x104 6

def execFwVerify (o : Origin) (s : State) : Host.Outcome State Fault Refusal := runOn s fun s => s.order o mgmtPage 0x124 1

def execFwActivate (o : Origin) (s : State) : Host.Outcome State Fault Refusal := runOn s fun s => s.order o mgmtPage 0x124 2

def execFwDiscard (o : Origin) (s : State) : Host.Outcome State Fault Refusal := runOn s fun s => s.order o mgmtPage 0x124 3

def execHostQuote (o : Origin) (s : State) : Host.Outcome State Fault Refusal := runOn s fun s => s.order o mgmtPage 0x168 1

def execHostCert (o : Origin) (s : State) : Host.Outcome State Fault Refusal := runOn s fun s => s.order o mgmtPage 0x168 2

def execHostMeasLog (o : Origin) (s : State) : Host.Outcome State Fault Refusal := runOn s fun s => s.order o mgmtPage 0x168 3

def execKeyWinCommit (o : Origin) (v : Word) (s : State) : Host.Outcome State Fault Refusal :=
  runOn s fun s => s.order o mgmtPage 0x16C v

def execCloseAll (o : Origin) (s : State) : Host.Outcome State Fault Refusal := runOn s fun s => s.control o mgmtPage 0 true

/-- RING_DB with KIND 0 or 1: the row's KIND is that of its value. -/
def execSqDoorbell (o : Origin) (v : Word) (s : State) : Host.Outcome State Fault Refusal :=
  runOn s fun s => s.order o hostPage 0x10C (BitVec.ofNat 32 (setBits v.toNat 10 10 0))

def execCqDoorbell (o : Origin) (v : Word) (s : State) : Host.Outcome State Fault Refusal :=
  runOn s fun s => s.order o hostPage 0x10C (BitVec.ofNat 32 (setBits v.toNat 10 10 1))

/-- RING_CTL with its enable bit alone. -/
def execRingEnable (o : Origin) (v : Word) (s : State) : Host.Outcome State Fault Refusal :=
  runOn s fun s => s.order o hostPage 0x108 (BitVec.ofNat 32 (setBits v.toNat 17 16 1))

/-- RING_CTL with its disable bit alone. -/
def execRingDisable (o : Origin) (v : Word) (s : State) : Host.Outcome State Fault Refusal :=
  runOn s fun s => s.order o hostPage 0x108 (BitVec.ofNat 32 (setBits v.toNat 17 16 2))

def execWdogKick (o : Origin) (s : State) : Host.Outcome State Fault Refusal := runOn s fun s => s.order o hostPage 0x11C 1

def execHostAttach (o : Origin) (s : State) : Host.Outcome State Fault Refusal := runOn s fun s => s.control o hostPage 0 true

def execHostDetach (o : Origin) (s : State) : Host.Outcome State Fault Refusal := runOn s fun s => s.control o hostPage 0 false

/-! ## Captures and event messages -/

/-- One entry of a register set, read with the operator role: debug-only fields read zero, and a system unit, which no
capture can wait for, is free (assumption 74). -/
def State.captured (s : State) (w : Word) : Word × State :=
  let page := bits w.toNat 13 0
  let off := bits w.toNat 23 14 * 4
  if !pageAssigned page then (0xFFFFFFFF, s)
  else if isSystemUnit page then
    let r := s.free
    (BitVec.truncate 32 r.1, r.2)
  else if isCompound page then (s.unitValue (page - 0x3000) off, s)
  else if pageKind page == kTile && 0x300 ≤ off then (0, s)
  else s.regLook page off

/-- CAPTURE: the oldest pending capture becomes a snapshot record (R471). -/
def execCapture (s : State) : Host.Outcome State Fault Refusal :=
  runOn s fun s =>
    match s.ag.caps with
    | [] => s
    | c :: rest =>
      let s := s.modAg fun a => { a with caps := rest }
      let ents := (List.range 128).filterMap fun i =>
        (sfind s.ag.sets (c.set * 128 + i)).bind fun (w : Word) => if bit w.toNat 24 then some w else none
      let (vals, s) := ents.foldl (fun (x : List Word × State) w =>
        let r := x.2.captured w
        (x.1 ++ [r.1], r.2)) (([] : List Word), s)
      s.agWrite { code := 0x8000 + c.trig, gt := c.gt, unlocked := c.unlocked, p := [c.set, c.page, c.bit], payload := vals }

/-- EVT_MSI_HOLDOFF: 2 µs have passed since the KIND's last message. -/
def execEvtMsiHoldoff (kind : Nat) (s : State) : Host.Outcome State Fault Refusal :=
  runOn s fun s =>
    if !s.evtHold.contains kind then s
    else
      let again := s.evtAgain.contains kind
      let s := { s with evtHold := s.evtHold.filter (· != kind), evtAgain := s.evtAgain.filter (· != kind) }
      if again && s.hostAttached && s.msiAddr != 0 then s.sendMsi kind else s

end Sys2Proof.Machine
end

