-- ==== Sys2Proof/Machine/Illegal.lean ====
section
/-!
DEFINITION. An instruction that reaches issue with a reserved value (R38, R39).
-/
namespace Sys2Proof.Machine

/-- The issue of the instructions whose operands can hold a reserved value (R38, R60, R65, R86, R90, R193, R297); of any
other, the word alone tells. -/
def State.operandIssue (s : State) (t : Nat) (w : BitVec 128) : Issue := match opcodeOf w with
  | 0x12 => s.accoutIssue t w
  | 0x20 => if 0x20 ≤ fld w 63 56 && fld w 63 56 ≤ 0x22 then s.cvtIssue t w else { form := true }
  | 0x30 => s.dmaIssue t w
  | 0x38 => s.gsendIssue t w
  | 0x40 => s.ldcIssue t w
  | 0x50 => s.mirrorIssue t w
  | _ => { form := true }

/-- The issue of a word that may be illegal: in itself, or in the operands that it reads first. -/
def State.illegalIssue (s : State) (t : Nat) (w : BitVec 128) : Issue :=
  { s.operandIssue t w with form := instrForm w }

/-- An instruction with a reserved value reaches issue: a NOP that raises ILLEGAL_INSTR (R38). A sound one has a command of its
own (assumption 95). -/
def execIllegalInstr (t : Nat) (w : BitVec 128) (s : State) : Host.Outcome State Fault Refusal :=
  tileRun t s fun s =>
    let q := s.illegalIssue t w
    if q.form && q.content then s else s.issue t w q id

end Sys2Proof.Machine
end

