-- ==== Sys2Proof/Machine/Dispatch.lean ====
section
/-!
DEFINITION. Which meaning each command has: one arm per row of the table of commands.
-/
namespace Sys2Proof.Machine

/-- The effect of one command on everything but the queue. -/
def exec (i : Instr) (s : State) : Host.Outcome State Fault Refusal :=
  match i with
  | .nop t w => Sys2Proof.Machine.execNop t w s
  | .frame t w => Sys2Proof.Machine.execFrame t w s
  | .rpoint t w => Sys2Proof.Machine.execRpoint t w s
  | .waitc t w => Sys2Proof.Machine.execWaitc t w s
  | .giveTile t w => Sys2Proof.Machine.execGiveTile t w s
  | .giveRemoteTile t w => Sys2Proof.Machine.execGiveRemoteTile t w s
  | .giveCollective t w => Sys2Proof.Machine.execGiveCollective t w s
  | .illegalInstr t w => Sys2Proof.Machine.execIllegalInstr t w s
  | .mma t w => Sys2Proof.Machine.execMma t w s
  | .mmaz t w => Sys2Proof.Machine.execMmaz t w s
  | .accout t w => Sys2Proof.Machine.execAccout t w s
  | .accclr t w => Sys2Proof.Machine.execAccclr t w s
  | .vopFma t w => Sys2Proof.Machine.execVopFma t w s
  | .vopAdd t w => Sys2Proof.Machine.execVopAdd t w s
  | .vopMul t w => Sys2Proof.Machine.execVopMul t w s
  | .vopMin t w => Sys2Proof.Machine.execVopMin t w s
  | .vopMax t w => Sys2Proof.Machine.execVopMax t w s
  | .vopCmplt t w => Sys2Proof.Machine.execVopCmplt t w s
  | .vopSel t w => Sys2Proof.Machine.execVopSel t w s
  | .expsplit t w => Sys2Proof.Machine.execExpsplit t w s
  | .ldexp t w => Sys2Proof.Machine.execLdexp t w s
  | .rsum t w => Sys2Proof.Machine.execRsum t w s
  | .rmax t w => Sys2Proof.Machine.execRmax t w s
  | .cvtF8f t w => Sys2Proof.Machine.execCvtF8f t w s
  | .cvtF8b t w => Sys2Proof.Machine.execCvtF8b t w s
  | .cvtF16w t w => Sys2Proof.Machine.execCvtF16w t w s
  | .cvtWiden t w => Sys2Proof.Machine.execCvtWiden t w s
  | .vld t w => Sys2Proof.Machine.execVld t w s
  | .vst t w => Sys2Proof.Machine.execVst t w s
  | .dma t w => Sys2Proof.Machine.execDma t w s
  | .dmaCopy t q => Sys2Proof.Machine.execDmaCopy t q s
  | .dmaReduceAdd t q => Sys2Proof.Machine.execDmaReduceAdd t q s
  | .prism t q => Sys2Proof.Machine.execPrism t q s
  | .gsend t w => Sys2Proof.Machine.execGsend t w s
  | .grecv t w => Sys2Proof.Machine.execGrecv t w s
  | .ldc t w => Sys2Proof.Machine.execLdc t w s
  | .mirror t w => Sys2Proof.Machine.execMirror t w s
  | .mirrorTaskComplete t => Sys2Proof.Machine.execMirrorTaskComplete t s
  | .spec t w => Sys2Proof.Machine.execSpec t w s
  | .specend t w => Sys2Proof.Machine.execSpecend t w s
  | .dbgHaltAction t w => Sys2Proof.Machine.execDbgHaltAction t w s
  | .mark t w => Sys2Proof.Machine.execMark t w s
  | .replayStart t => Sys2Proof.Machine.execReplayStart t s
  | .rescaleDecision t acc => Sys2Proof.Machine.execRescaleDecision t acc s
  | .rescaleRetry t acc => Sys2Proof.Machine.execRescaleRetry t acc s
  | .transferLanded id => Sys2Proof.Machine.execTransferLanded id s
  | .inboundWrite id => Sys2Proof.Machine.execInboundWrite id s
  | .inboundReduceAdd id => Sys2Proof.Machine.execInboundReduceAdd id s
  | .mailboxArrival id => Sys2Proof.Machine.execMailboxArrival id s
  | .readCacheFill t line => Sys2Proof.Machine.execReadCacheFill t line s
  | .readCacheInvalidate t line => Sys2Proof.Machine.execReadCacheInvalidate t line s
  | .rcFlush o t => Sys2Proof.Machine.execRcFlush o t s
  | .pathMonitorMeasure t margins => Sys2Proof.Machine.execPathMonitorMeasure t margins s
  | .prefetchCheck t slot => Sys2Proof.Machine.execPrefetchCheck t slot s
  | .accRowLatch t => Sys2Proof.Machine.execAccRowLatch t s
  | .spectrumFlush t tensor => Sys2Proof.Machine.execSpectrumFlush t tensor s
  | .doneStepWrite => Sys2Proof.Machine.execDoneStepWrite s
  | .gnomonWord p w arrival replayed => Sys2Proof.Machine.execGnomonWord p w arrival replayed s
  | .gnomonWordSend p => Sys2Proof.Machine.execGnomonWordSend p s
  | .holdover => Sys2Proof.Machine.execHoldover s
  | .masterLost => Sys2Proof.Machine.execMasterLost s
  | .ppsEdge => Sys2Proof.Machine.execPpsEdge s
  | .ppsMissing => Sys2Proof.Machine.execPpsMissing s
  | .setHi o v => Sys2Proof.Machine.execSetHi o v s
  | .frameBoundary => Sys2Proof.Machine.execFrameBoundary s
  | .decisionPoint => Sys2Proof.Machine.execDecisionPoint s
  | .check o => Sys2Proof.Machine.execCheck o s
  | .checkDone found => Sys2Proof.Machine.execCheckDone found s
  | .arm o => Sys2Proof.Machine.execArm o s
  | .withdraw o => Sys2Proof.Machine.execWithdraw o s
  | .end_ o => Sys2Proof.Machine.execEnd o s
  | .imageActivation => Sys2Proof.Machine.execImageActivation s
  | .jobEnd => Sys2Proof.Machine.execJobEnd s
  | .compoundRead o unit off => Sys2Proof.Machine.execCompoundRead o unit off s
  | .compoundWrite o unit off v => Sys2Proof.Machine.execCompoundWrite o unit off v s
  | .mgmtReplyTimeout tag => Sys2Proof.Machine.execMgmtReplyTimeout tag s
  | .stepClose => Sys2Proof.Machine.execStepClose s
  | .stepReport p m => Sys2Proof.Machine.execStepReport p m s
  | .commit m => Sys2Proof.Machine.execCommit m s
  | .discard m => Sys2Proof.Machine.execDiscard m s
  | .rollback m => Sys2Proof.Machine.execRollback m s
  | .commitRepair m => Sys2Proof.Machine.execCommitRepair m s
  | .undoDone => Sys2Proof.Machine.execUndoDone s
  | .drained p m => Sys2Proof.Machine.execDrained p m s
  | .resume step => Sys2Proof.Machine.execResume step s
  | .specFrameRelease p => Sys2Proof.Machine.execSpecFrameRelease p s
  | .shadeRead r => Sys2Proof.Machine.execShadeRead r s
  | .shadeReadDead r => Sys2Proof.Machine.execShadeReadDead r s
  | .shadeWriteLine r data => Sys2Proof.Machine.execShadeWriteLine r data s
  | .shadeWritePart r data => Sys2Proof.Machine.execShadeWritePart r data s
  | .shadeAdd r vals step => Sys2Proof.Machine.execShadeAdd r vals step s
  | .lineFill line => Sys2Proof.Machine.execLineFill line s
  | .invalidationAck line => Sys2Proof.Machine.execInvalidationAck line s
  | .mergeWriteback k seg => Sys2Proof.Machine.execMergeWriteback k seg s
  | .mergeOff o k v => Sys2Proof.Machine.execMergeOff o k v s
  | .recodeDone k => Sys2Proof.Machine.execRecodeDone k s
  | .shadeRowSpare k row => Sys2Proof.Machine.execShadeRowSpare k row s
  | .laneCrc k g => Sys2Proof.Machine.execLaneCrc k g s
  | .laneSwap k lane => Sys2Proof.Machine.execLaneSwap k lane s
  | .dieCmd o die v => Sys2Proof.Machine.execDieCmd o die v s
  | .progressTimeout k => Sys2Proof.Machine.execProgressTimeout k s
  | .dieResetDone die => Sys2Proof.Machine.execDieResetDone die s
  | .retryResend id => Sys2Proof.Machine.execRetryResend id s
  | .arrayLost die => Sys2Proof.Machine.execArrayLost die s
  | .arrayFillDone die => Sys2Proof.Machine.execArrayFillDone die s
  | .stackRead addr a => Sys2Proof.Machine.execStackRead addr a s
  | .rowSpared stack => Sys2Proof.Machine.execRowSpared stack s
  | .stackWrite addr data a => Sys2Proof.Machine.execStackWrite addr data a s
  | .stackPartialWrite addr data a => Sys2Proof.Machine.execStackPartialWrite addr data a s
  | .patrolScrub stack => Sys2Proof.Machine.execPatrolScrub stack s
  | .linkTrained p x => Sys2Proof.Machine.execLinkTrained p x s
  | .expanderLost p => Sys2Proof.Machine.execExpanderLost p s
  | .slowTierRead id poisoned => Sys2Proof.Machine.execSlowTierRead id poisoned s
  | .slowTierWrite id => Sys2Proof.Machine.execSlowTierWrite id s
  | .devEvent p correctable => Sys2Proof.Machine.execDevEvent p correctable s
  | .linkEn o p v => Sys2Proof.Machine.execLinkEn o p v s
  | .resCmd o v => Sys2Proof.Machine.execResCmd o v s
  | .moveDone block => Sys2Proof.Machine.execMoveDone block s
  | .frameTransmit p => Sys2Proof.Machine.execFrameTransmit p s
  | .idle p f => Sys2Proof.Machine.execIdle p f s
  | .data p f => Sys2Proof.Machine.execData p f s
  | .add p f => Sys2Proof.Machine.execAdd p f s
  | .glint p f => Sys2Proof.Machine.execGlint p f s
  | .giveFrame p f => Sys2Proof.Machine.execGiveFrame p f s
  | .bulk p f => Sys2Proof.Machine.execBulk p f s
  | .audit p f replayed => Sys2Proof.Machine.execAudit p f replayed s
  | .frameFailedCrc p f => Sys2Proof.Machine.execFrameFailedCrc p f s
  | .link p m grants => Sys2Proof.Machine.execLink p m grants s
  | .partnerBad p => Sys2Proof.Machine.execPartnerBad p s
  | .retrain p => Sys2Proof.Machine.execRetrain p s
  | .retrainReq o p => Sys2Proof.Machine.execRetrainReq o p s
  | .linkDown p => Sys2Proof.Machine.execLinkDown p s
  | .sync p => Sys2Proof.Machine.execSync p s
  | .peerDead p => Sys2Proof.Machine.execPeerDead p s
  | .portEn o p v => Sys2Proof.Machine.execPortEn o p v s
  | .modmapStage o => Sys2Proof.Machine.execModmapStage o s
  | .modmapWithdraw o => Sys2Proof.Machine.execModmapWithdraw o s
  | .collRecordStart q => Sys2Proof.Machine.execCollRecordStart q s
  | .fpPiece m => Sys2Proof.Machine.execFpPiece m s
  | .mgmtRegRead m => Sys2Proof.Machine.execMgmtRegRead m s
  | .mgmtRegWrite m => Sys2Proof.Machine.execMgmtRegWrite m s
  | .regReply m => Sys2Proof.Machine.execRegReply m s
  | .memRead m => Sys2Proof.Machine.execMemRead m s
  | .memData m => Sys2Proof.Machine.execMemData m s
  | .hostLoad h addr len => Sys2Proof.Machine.execHostLoad h addr len s
  | .hostStore h addr data => Sys2Proof.Machine.execHostStore h addr data s
  | .registerWrite w rivals hwSet => Sys2Proof.Machine.execRegisterWrite w rivals hwSet s
  | .evtMsiHoldoff kind => Sys2Proof.Machine.execEvtMsiHoldoff kind s
  | .evtForce o page v => Sys2Proof.Machine.execEvtForce o page v s
  | .lowWordRead o page off => Sys2Proof.Machine.execLowWordRead o page off s
  | .sqDoorbell o v => Sys2Proof.Machine.execSqDoorbell o v s
  | .cqDoorbell o v => Sys2Proof.Machine.execCqDoorbell o v s
  | .ringEnable o v => Sys2Proof.Machine.execRingEnable o v s
  | .ringDisable o v => Sys2Proof.Machine.execRingDisable o v s
  | .commandFetch => Sys2Proof.Machine.execCommandFetch s
  | .cmdNop seq => Sys2Proof.Machine.execCmdNop seq s
  | .cmdRegWrite seq => Sys2Proof.Machine.execCmdRegWrite seq s
  | .cmdRegRead seq => Sys2Proof.Machine.execCmdRegRead seq s
  | .writeInline seq => Sys2Proof.Machine.execWriteInline seq s
  | .copy seq => Sys2Proof.Machine.execCopy seq s
  | .flush seq => Sys2Proof.Machine.execFlush seq s
  | .fenceAll seq => Sys2Proof.Machine.execFenceAll seq s
  | .residency seq => Sys2Proof.Machine.execResidency seq s
  | .journalCopy seq => Sys2Proof.Machine.execJournalCopy seq s
  | .qpCreate seq => Sys2Proof.Machine.execQpCreate seq s
  | .qpModify seq => Sys2Proof.Machine.execQpModify seq s
  | .qpDestroy seq => Sys2Proof.Machine.execQpDestroy seq s
  | .mrReg seq => Sys2Proof.Machine.execMrReg seq s
  | .mrDereg seq => Sys2Proof.Machine.execMrDereg seq s
  | .rdmaPost seq => Sys2Proof.Machine.execRdmaPost seq s
  | .intakeSet seq => Sys2Proof.Machine.execIntakeSet seq s
  | .intakeResume seq => Sys2Proof.Machine.execIntakeResume seq s
  | .intakeOff seq => Sys2Proof.Machine.execIntakeOff seq s
  | .commandComplete seq => Sys2Proof.Machine.execCommandComplete seq s
  | .hostLost => Sys2Proof.Machine.execHostLost s
  | .wdogKick o => Sys2Proof.Machine.execWdogKick o s
  | .hostAttach o => Sys2Proof.Machine.execHostAttach o s
  | .hostDetach o => Sys2Proof.Machine.execHostDetach o s
  | .hostReset => Sys2Proof.Machine.execHostReset s
  | .rdmaWriteRequest k => Sys2Proof.Machine.execRdmaWriteRequest k s
  | .rdmaReadRequest k => Sys2Proof.Machine.execRdmaReadRequest k s
  | .rdmaReadResponse k => Sys2Proof.Machine.execRdmaReadResponse k s
  | .roceAck k => Sys2Proof.Machine.execRoceAck k s
  | .roceNak k error => Sys2Proof.Machine.execRoceNak k error s
  | .retransmitTimeout qpn => Sys2Proof.Machine.execRetransmitTimeout qpn s
  | .cnp k => Sys2Proof.Machine.execCnp k s
  | .rateIncrease qpn => Sys2Proof.Machine.execRateIncrease qpn s
  | .fePortEn o p v => Sys2Proof.Machine.execFePortEn o p v s
  | .feLinkDown p => Sys2Proof.Machine.execFeLinkDown p s
  | .intakeStart => Sys2Proof.Machine.execIntakeStart s
  | .intakeReadDone id ok => Sys2Proof.Machine.execIntakeReadDone id ok s
  | .endpointDma p addr len write => Sys2Proof.Machine.execEndpointDma p addr len write s
  | .jrnlData0Read o => Sys2Proof.Machine.execJrnlData0Read o s
  | .inputSample vin iin => Sys2Proof.Machine.execInputSample vin iin s
  | .brownOut => Sys2Proof.Machine.execBrownOut s
  | .hsLimit => Sys2Proof.Machine.execHsLimit s
  | .alertDark => Sys2Proof.Machine.execAlertDark s
  | .duskExit => Sys2Proof.Machine.execDuskExit s
  | .domainFault d => Sys2Proof.Machine.execDomainFault d s
  | .thermalSample x => Sys2Proof.Machine.execThermalSample x s
  | .throttleStep => Sys2Proof.Machine.execThrottleStep s
  | .learnClear o => Sys2Proof.Machine.execLearnClear o s
  | .demandSend => Sys2Proof.Machine.execDemandSend s
  | .demand p m => Sys2Proof.Machine.execDemand p m s
  | .grantSend => Sys2Proof.Machine.execGrantSend s
  | .grant p m => Sys2Proof.Machine.execGrant p m s
  | .spotlightAck p m => Sys2Proof.Machine.execSpotlightAck p m s
  | .tokenReportSend => Sys2Proof.Machine.execTokenReportSend s
  | .tokenReport p m => Sys2Proof.Machine.execTokenReport p m s
  | .penumbraSample answered => Sys2Proof.Machine.execPenumbraSample answered s
  | .penumbraReport p m => Sys2Proof.Machine.execPenumbraReport p m s
  | .holdReq o => Sys2Proof.Machine.execHoldReq o s
  | .boundaryHoldOrder m => Sys2Proof.Machine.execBoundaryHoldOrder m s
  | .holdBegin w => Sys2Proof.Machine.execHoldBegin w s
  | .holdEnd => Sys2Proof.Machine.execHoldEnd s
  | .snapDone => Sys2Proof.Machine.execSnapDone s
  | .drainDone ok => Sys2Proof.Machine.execDrainDone ok s
  | .park => Sys2Proof.Machine.execPark s
  | .restoreReq o => Sys2Proof.Machine.execRestoreReq o s
  | .holdTimeout => Sys2Proof.Machine.execHoldTimeout s
  | .ready p m => Sys2Proof.Machine.execReady p m s
  | .restoreHold m => Sys2Proof.Machine.execRestoreHold m s
  | .restoreDone => Sys2Proof.Machine.execRestoreDone s
  | .retireSite o => Sys2Proof.Machine.execRetireSite o s
  | .retireRow o => Sys2Proof.Machine.execRetireRow o s
  | .readmitSite o => Sys2Proof.Machine.execReadmitSite o s
  | .readmitRow o => Sys2Proof.Machine.execReadmitRow o s
  | .selfTest o => Sys2Proof.Machine.execSelfTest o s
  | .withdrawStagedMap o => Sys2Proof.Machine.execWithdrawStagedMap o s
  | .selftestDone pass => Sys2Proof.Machine.execSelftestDone pass s
  | .powerOn e => Sys2Proof.Machine.execPowerOn e s
  | .recoveryBundle bundle => Sys2Proof.Machine.execRecoveryBundle bundle s
  | .hello nonce slot role => Sys2Proof.Machine.execHello nonce slot role s
  | .response hs ct sig => Sys2Proof.Machine.execResponse hs ct sig s
  | .sessionRegRead sid ctr page off tag => Sys2Proof.Machine.execSessionRegRead sid ctr page off tag s
  | .sessionRegWrite sid ctr page off v tag => Sys2Proof.Machine.execSessionRegWrite sid ctr page off v tag s
  | .fwWrite sid ctr off data tag => Sys2Proof.Machine.execFwWrite sid ctr off data tag s
  | .quote sid ctr nonce tag => Sys2Proof.Machine.execQuote sid ctr nonce tag s
  | .certReadAndLogRead sid ctr tag => Sys2Proof.Machine.execCertReadAndLogRead sid ctr tag s
  | .keyEnroll sid ctr slot key roles tag => Sys2Proof.Machine.execKeyEnroll sid ctr slot key roles tag s
  | .keyRevoke sid ctr slot tag => Sys2Proof.Machine.execKeyRevoke sid ctr slot tag s
  | .configWrite sid ctr record tag => Sys2Proof.Machine.execConfigWrite sid ctr record tag s
  | .svnCommit sid ctr tag => Sys2Proof.Machine.execSvnCommit sid ctr tag s
  | .afterglowClear sid ctr tag => Sys2Proof.Machine.execAfterglowClear sid ctr tag s
  | .close sid ctr tag => Sys2Proof.Machine.execClose sid ctr tag s
  | .sessionIdleTimeout sid => Sys2Proof.Machine.execSessionIdleTimeout sid s
  | .fwVerify o => Sys2Proof.Machine.execFwVerify o s
  | .fwActivate o => Sys2Proof.Machine.execFwActivate o s
  | .fwDiscard o => Sys2Proof.Machine.execFwDiscard o s
  | .hostQuote o => Sys2Proof.Machine.execHostQuote o s
  | .hostCert o => Sys2Proof.Machine.execHostCert o s
  | .hostMeasLog o => Sys2Proof.Machine.execHostMeasLog o s
  | .quoteDone => Sys2Proof.Machine.execQuoteDone s
  | .keyWinCommit o v => Sys2Proof.Machine.execKeyWinCommit o v s
  | .closeAll o => Sys2Proof.Machine.execCloseAll o s
  | .keptRecordWrite ok => Sys2Proof.Machine.execKeptRecordWrite ok s
  | .capture => Sys2Proof.Machine.execCapture s
  | .clearEraseDone => Sys2Proof.Machine.execClearEraseDone s
  | .agDataRead o => Sys2Proof.Machine.execAgDataRead o s
  | .stallClear o t => Sys2Proof.Machine.execStallClear o t s
  | .dbgAccSel o t v => Sys2Proof.Machine.execDbgAccSel o t v s
  | .dbgHalt o t => Sys2Proof.Machine.execDbgHalt o t s
  | .dbgResume o t => Sys2Proof.Machine.execDbgResume o t s
  | .checker o page v => Sys2Proof.Machine.execChecker o page v s
  | .rawRead o page => Sys2Proof.Machine.execRawRead o page s
  | .rawWrite o page => Sys2Proof.Machine.execRawWrite o page s
  | .pcsLock p => Sys2Proof.Machine.execPcsLock p s
  | .feLinkUp p pmd => Sys2Proof.Machine.execFeLinkUp p pmd s
  | .alertDarkNDeasserted => Sys2Proof.Machine.execAlertDarkNDeasserted s
  | .hartsReleased => Sys2Proof.Machine.execHartsReleased s
  | .fwVerifyDone ok => Sys2Proof.Machine.execFwVerifyDone ok s
  | .priorityFlowControl p prio pause => Sys2Proof.Machine.execPriorityFlowControl p prio pause s

end Sys2Proof.Machine
end

