-- ==== Sys2Proof/Machine/Tick.lean ====
section
/-!
DEFINITION. What one Gnomon tick does by itself (R6, R325): the count rises, and the end of a Ray slot is counted.
-/
namespace Sys2Proof.Machine

/-- One gt passes. A module that is not in service has no time. The Gnomon count wraps after 2^64 gt (R6). -/
def State.tick (s : State) : State :=
  if s.pow.off then s
  else
    let t := { s with now := s.now + 1, gn := { s.gn with count := (s.gn.count + 1) % 2 ^ 64 } }
    if t.slotId == s.slotId then t
    else { s.slotEnd with now := t.now, gn := t.gn }

end Sys2Proof.Machine
end

