-- ==== Sys2Proof/Machine/Step.lean ====
section
/-!
DEFINITION. One step: the command in front of the queue, or the passing of one Gnomon tick while none waits.
-/
namespace Sys2Proof.Machine

/-- One step. A command takes no time; an empty queue lets one Gnomon tick pass (assumption 1). -/
def step (s : State) : Host.Outcome State Fault Refusal :=
  match s.pending with
  | [] => .next s.tick
  | c :: rest => exec c { s with pending := rest }

/-- The state with the command that a word spells in front of its queue; no word spells one. -/
def State.withFetchWord (s : State) (nbits w : Nat) : State :=
  match decodeTableWord nbits w with
  | some c => { s with pending := c :: s.pending }
  | none => s

end Sys2Proof.Machine
end

