-- ==== Sys2Proof/Safety.lean ====
section
/-!
DEFINITION. The terms that statements use: what every step must keep, what the end of a command leaves alone, and when a
tile instruction can issue.
-/
namespace Sys2Proof.Machine

/-- Memory lists addresses in rising order and no byte that an unlisted address reads as. -/
def State.memOk (s : State) : Prop := memWf s.mem = true

/-- Between two commands no event waits for its triggers and messages (R470, R495), no failing site waits for its
replacement (R432), and no failing unit is without a spare (Table 13.2). -/
def State.settled (s : State) : Prop := s.events = [] ∧ s.failing = [] ∧ s.spare.spent = false

/-- A module in service, between two commands. -/
structure State.Serves (s : State) : Prop where
  on : s.pow.off = false
  settled : s.settled

/-- Such a module with its clocks running (Table 12.2). -/
structure State.Awake (s : State) : Prop extends s.Serves where
  light : s.dusk = false

/-- Spares suffice for every site that a command has reported as failing (Table 13.2, R449). -/
def State.Spared (s : State) : Prop := s.spareFailing.spare.spent = false

/-- The registers that the end of a command may write, as (page, offset): the sparing page's STATUS and EVT, Afterglow's
EVT, DROPPED_COUNT and COALESCED_COUNT, and the host page's EVT_MSI_COUNT (R432, R472, R495). -/
def tailRegs : List (Nat × Nat) :=
  [(sparePage, offStatus), (sparePage, offEvt), (agPage, offEvt), (agPage, 0x114), (agPage, 0x118), (hostPage, 0x190)]

/-- An offset at which a page has a register: aligned to 4 B, inside the page (R488). -/
abbrev regOff (off : Nat) : Prop := off % 4 = 0 ∧ off < 4096

/-- The state without what the end of a command may change: registers, the staged map, Penumbra's counts and the causes of
hold requests, Afterglow's captures, messages sent, and the lists of events and failing sites. -/
def State.body (s : State) : State :=
  { s with
    regs := [], pen := { s.pen with cause := 0, raw := [] }, spare := { s.spare with staged := none },
    ag := { s.ag with caps := [], lost := false }, failing := [], evtHold := [], evtAgain := [], out := [], events := [],
    freeCount := 0, pending := [] }

/-- `u` differs from `t` only in what the end of a command does (Machine/Finish.lean): the staged map and hold cause of
sites that fail (R432, R433), the Penumbra counts of events (R411), Afterglow's captures (R470, R472), event messages
(R495), and registers of `tailRegs`. -/
structure Tail (t u : State) : Prop where
  body : u.body = t.body
  reg : ∀ page off, regOff off → (page, off) ∉ tailRegs → u.rd page off = t.rd page off
  out : ∃ l, u.out = t.out ++ l ∧ ∀ m ∈ l, ∃ kind a d, m = .evtMsi kind a d

/-- The command answers a next state `u`, which is `t` but for the end of a command; where a failing unit of `t` finds no
spare, the module has stopped (Table 13.2). -/
def Ends (o : Host.Outcome State Fault Refusal) (t : State) : Prop :=
  ∃ u, o = .next u ∧ (t.Spared → Tail t u) ∧ (¬t.Spared → u.pow.off = true)

/-- A tile without the contents of its read cache. -/
def Tile.uncached (x : Tile) : Tile := { x with rcache := [], rctree := [] }

/-- The state without what an access to device memory may change: stored bytes and check symbols, Shade lines, the
directory, read-cache copies, a die's reset (R264), requests that wait or are answered RETRY (R241, R265), row logs and repairs, registers,
step causes and counts for the Spectrum header (R98, R116, R240), the hold of a faulted merge buffer (R261) and events. -/
def State.offMem (s : State) : State :=
  { s with
    regs := [], mem := [], ecc := [], tiles := [], slices := [], dirs := [], dies := [], hbm := [], retries := [], held := [],
    out := [], events := [], nextId := 0, freeCount := 0,
    steps := { s.steps with cause := 0, causeNext := 0, hdrDue := [] }, pen := { s.pen with cause := 0 },
    spare := { s.spare with spent := false } }

/-- `t` differs from `s` only in what an access to device memory does. Memory keeps its canonical form. -/
structure MemOnly (s t : State) : Prop where
  memOk : s.memOk → t.memOk
  tiles : ∀ i, (t.tile i).uncached = (s.tile i).uncached
  rest : t.offMem = s.offMem

/-- A tile without its place in the stream, its Spectrum buffer, and its scratch: what remains when its stream moves past
an instruction. -/
def Tile.datapath (x : Tile) : Tile :=
  { x with
    scratch := [], badScr := [], spectrum := [], specStep := 0, specDue := [], done := {}, skip := {}, icount := 0,
    replayTo := none, replayed := [], redo := none, pos := 0, pass := 0, reentry := none, rbase := 0, waitVerdict := false,
    closed := false, decided := false, reached := none }

/-- Offset of the step scalar record in the scratch of a tile (R203). -/
def State.scalarsAt (s : State) (t : Nat) : Option Nat := match s.adm.active with
  | some i => some (s.stepTile i (s.tileOf t)).scalars
  | none => none

/-- The scratch of a tile is the same outside its scalar record at `a`. -/
def scratchKept (a : Option Nat) (x y : Tile) : Prop :=
  ∀ o, (∀ b ∈ a, o < b ∨ b + 64 ≤ o) → y.byte o = x.byte o

/-- `t` differs from `s` only in what the progress of site `n`'s stream does: its place in the stream (R144, R201), the flush
of its Spectrum buffer at its close (R117, R212), and its scalar record at the start of a pass (R203), with an address fault
where that record passes the end of scratch (R40). -/
structure StreamOnly (n : Nat) (s t : State) : Prop where
  data : (t.tile n).datapath = (s.tile n).datapath
  scratch : scratchKept (s.scalarsAt n) (s.tile n) (t.tile n)
  other : ∀ i, i ≠ n → t.tile i = s.tile i
  reg : (∀ b ∈ s.scalarsAt n, b + 64 ≤ scratchSize) → t.regs = s.regs ∧ t.events = s.events
  rest : { t with tiles := [], regs := [], events := [] } = { s with tiles := [], regs := [], events := [] }

/-- Site `t` can issue the word `w` as `q` describes it: the module is in service and light, no rule holds the instruction
(R41, R42, R126, R202, R296), it is legal in form and content (R38), and nothing that it reads has wrong parity (R71). -/
structure State.CanIssue (s : State) (t : Nat) (w : BitVec 128) (q : Issue) : Prop where
  site : t < 1152
  awake : s.Awake
  free : s.holds t w q.reads q.writes = none
  form : q.form = true
  content : q.content = true
  also : q.also = none
  head : (s.tile t).parity q.head = none
  sound : (s.tile t).parity q.reads = none
  acc : q.accBad = none

/-- The command answers a next state in which `P` holds. -/
def Gives (o : Host.Outcome State Fault Refusal) (P : State → Prop) : Prop := ∃ u, o = .next u ∧ P u

/-- The ranges of scratch lie inside it. -/
def inScratch (rs : List (Nat × Nat)) : Prop := ∀ r ∈ rs, r.1 + r.2 ≤ scratchSize

/-- `u` is `s` after an instruction of site `t` that reads `rs` of its scratch and has the effect `g` on its tile, writing no
scratch: every other tile, the tile's other state, and the module's other parts stay, memory among them. Registers stay too,
unless one of its ranges or its scalar record passes the end of scratch (R40). -/
structure TileBecomes (s : State) (t : Nat) (rs : List (Nat × Nat)) (g : Tile → Tile) (u : State) : Prop where
  count : (u.tile t).icount = (s.tile t).icount + 1
  data : (u.tile t).datapath = (g (s.tile t)).datapath
  scratch : scratchKept (s.scalarsAt t) (s.tile t) (u.tile t)
  other : ∀ i, i ≠ t → u.tile i = s.tile i
  reg : (∀ b ∈ s.scalarsAt t, b + 64 ≤ scratchSize) → inScratch rs →
    ∀ page off, regOff off → (page, off) ∉ tailRegs → u.rd page off = s.rd page off
  rest : { u.body with tiles := [] } = { s.body with tiles := [] }

/-- The instruction completes: its own effect leads to the state `v`, from which site `t`'s stream moves on (`State.advance`,
whose effect is a statement of its own), and the command ends. -/
def Performs (o : Host.Outcome State Fault Refusal) (t : Nat) (v : State) : Prop := Ends o (v.advance t)

/-- The instruction completes: site `t`'s tile becomes `g` of itself. -/
def TileIssues (o : Host.Outcome State Fault Refusal) (s : State) (t : Nat) (rs : List (Nat × Nat)) (g : Tile → Tile) : Prop :=
  Gives o (TileBecomes s t rs g)

/-- The fetched command `seq` of a ring can start as an opcode (R360): it has not started, and the commands before it of its
ring have. -/
structure State.Starts (s : State) (seq op : Nat) (c : Cmd) : Prop where
  serves : s.Serves
  cmd : s.cmd seq = some c
  code : c.opcode = op
  fresh : c.started = false
  open_ : c.done = none
  may : s.mayStart c = true

/-- Command `seq` has had its effects, and waits to be completed with a status of Table 11.7 and a result. -/
def State.Answers (s : State) (seq status result : Nat) : Prop :=
  (s.cmd seq).map (fun c => (c.started, c.done)) = some (true, some (status, result))

/-- A request of an agent to a device address is one for slice `k` of the Shade (R21, R235). -/
structure State.Reaches (s : State) (addr k : Nat) : Prop where
  device : isStack addr = true ∨ isWindow addr = true
  known : s.reservedFor addr = false
  declared : isWindowLine (addr / 256) = true → s.windowDeclared (addr / 256) = true
  home : s.homeSlice (addr / 256) = some k

/-- Slice `k` holds line number `n` as `l`, with sound data and nothing in the merge buffer. -/
structure State.Hits (s : State) (k n : Nat) (l : Line) : Prop where
  found : (s.slice k).find n = some l
  state : l.st = .clean ∨ l.st = .dirty
  sound : l.poison = 0 ∧ l.chk = [] ∧ l.data.length = 256
  unmerged : ∀ e ∈ (s.slice k).merge, e.seg / 4 ≠ n

/-- The frame is for this module, next in the order of its stream or class, and its step has come (R330, R332), so that port
`p` may take it. -/
structure State.MayTake (s : State) (p : Nat) (f : RayFrame) : Prop where
  port : p < 16
  awake : s.Awake
  straight : f.detour = false
  here : (f.stream = 0xFFF ∧ f.dstPhys = s.phys) ∨
    (f.stream ≠ 0xFFF ∧ ∃ st, s.inStream (dirOf p) f = some st ∧ st.deliver = true)
  order : f.xseq < 65536 ∧ f.xseq = sget 0 s.ray.xRx (s.rxKey p f)
  now : f.spec = false ∨ s.stepOfTag f.stepTag < s.steps.step + 2

/-- Such a frame comes to an open port with the SEQ expected, no NAK, and no frame waiting before it (R315). -/
structure State.TakesFrame (s : State) (p : Nat) (f : RayFrame) : Prop extends s.MayTake p f where
  opened : s.portOpen p = true
  seq : f.seq = ((s.port p).rxSeq + 1) % 4096
  sound : f.nak = false
  first : ∀ q ∈ portsOf (dirOf p), (s.port q).early = []

/-- COMMAND `code` with these fields is authentic and new for the open session `x` (R455). -/
structure State.Authentic (s : State) (sid ctr code : Nat) (fields : List (List Byte)) (tag : List Byte) (x : Sess) : Prop where
  serves : s.Serves
  session : s.mg.sessions.find? (·.sid == sid) = some x
  tagged : tag = tagOfMsg x.key sid ctr (Config.message (256 + code) fields)
  fresh : ∀ c ∈ x.ctr, c < ctr

/-- The REPLY of a session to COMMAND `ctr` (R455). -/
def Sess.reply (x : Sess) (ctr status : Nat) (value : List Byte) : Out :=
  let body := Config.message 5 [natLe 1 status, value]
  .session x.sid 5 (natLe 8 ctr ++ body ++ tagOfMsg x.key x.sid ctr body)

end Sys2Proof.Machine
end

