-- ==== Sys2Proof/Certificates/Slice0/Obligations.lean ====
section
/-!
DEFINITION. What is claimed of the model. Each statement names the commands it is about; one about a command's completion
concludes that `exec` answers a next state, and says which: `Ends` and `Performs` name the whole state that the command's
effect leaves, before the end of the command (`Tail`); `TileIssues` and `Gives` say what holds of the answer.
-/
open Sys2Proof Sys2Proof.Machine

/-! ## Steps -/

/-- A step takes the command in front of the queue and runs it with the rest of the queue. -/
def Obligations.StepRunsFrontCommand : Prop :=
  ∀ (s : State) (c : Instr) (rest : List Instr), s.pending = c :: rest → step s = exec c { s with pending := rest }

/-- On an empty queue a step lets one Gnomon tick pass (the model's choice, assumption 1): the count rises by 1 and wraps
after 2^64, the model's own clock rises by 1, and nothing else changes but registers and the count of free values drawn. A
module that is not in service stays as it is. -/
def Obligations.IdleStepTicks : Prop :=
  ∀ s : State, s.pending = [] →
    (s.pow.off = true → step s = .next s) ∧
    (s.pow.off = false → ∃ t, step s = .next t ∧
      t = { s with gn := { s.gn with count := (s.gn.count + 1) % 2 ^ 64 }, now := s.now + 1, regs := t.regs,
                   freeCount := t.freeCount })

/-- A step that starts between two commands ends between two commands: no event waits for its triggers and messages, no
failing site waits for its replacement, and no failing unit is left without a spare in a module that runs on. -/
def Obligations.StepsStaySettled : Prop :=
  ∀ s t : State, s.settled → step s = .next t → t.settled

/-- The invariants of `StepsStaySettled` and `StepsKeepMemoryForm` hold at reset, where no command waits. -/
def Obligations.ResetHolds : Prop := State.reset.settled ∧ State.reset.memOk ∧ State.reset.pending = []

/-- Commands keep the queue: after a command has run, exactly the commands behind it wait. Every command answers a next
state, or stops with the one fault of the model: it names a part that the module does not have. -/
def Obligations.CommandsAnswerAndKeepTheQueue : Prop :=
  (∀ (s t : State) (c : Instr) (rest : List Instr), s.pending = c :: rest → step s = .next t → t.pending = rest) ∧
  (∀ (s : State) (c : Instr), (∃ t, exec c s = .next t) ∨ exec c s = .fault .noSuchPart)

/-- A module that power-on has not brought up, or that has left service, is changed by POWER_ON and RECOVERY_BUNDLE alone:
every other command leaves the whole state as it is. -/
def Obligations.OnlyPowerOnLeavesOff : Prop :=
  ∀ (s t : State) (c : Instr), s.pow.off = true → (∀ e, c ≠ .powerOn e) → (∀ b, c ≠ .recoveryBundle b) →
    exec c s = .next t → t = s

/-! ## Tile instructions -/

/-- FMA, ADD, MUL, MIN, MAX, CMPLT, SEL and LDEXP complete: lane l of vd becomes the result of lanes l of va, vb and vc
(Table 2.8). Nothing else of the tile's data changes, no other tile, and nothing of the module outside the tiles but, where
the step scalar record passes the end of scratch, registers. -/
def Obligations.VectorLanesComplete : Prop :=
  ∀ (s : State) (t : Nat) (w : BitVec 128) (sub : Nat), isSub w 0x20 sub = true →
    s.CanIssue t w { eng := engVector, form := vopLegal w sub } →
    let set (f : Word → Word → Word → Word) (x : Tile) : Tile :=
      x.setVreg (vdOf w) (lanes3 f (x.vreg (vaOf w)) (x.vreg (vbOf w)) (x.vreg (vcOf w)))
    (sub = 0x00 → TileIssues (exec (.vopFma t w) s) s t [] (set fpFma)) ∧
    (sub = 0x01 → TileIssues (exec (.vopAdd t w) s) s t [] (set fun a b _ => fpAdd a b)) ∧
    (sub = 0x02 → TileIssues (exec (.vopMul t w) s) s t [] (set fun a b _ => fpMul a b)) ∧
    (sub = 0x03 → TileIssues (exec (.vopMin t w) s) s t [] (set fun a b _ => fpMin a b)) ∧
    (sub = 0x04 → TileIssues (exec (.vopMax t w) s) s t [] (set fun a b _ => fpMax a b)) ∧
    (sub = 0x05 → TileIssues (exec (.vopCmplt t w) s) s t [] (set fun a b _ => fpCmplt a b)) ∧
    (sub = 0x06 → TileIssues (exec (.vopSel t w) s) s t [] (set fpSel)) ∧
    (sub = 0x08 → TileIssues (exec (.ldexp t w) s) s t [] (set fun a b _ => fpLdexp a b))

/-- EXPSPLIT writes the fractions to vd and then the exponents to vc, RSUM and RMAX write their result to lane 0 and +0.0 to
the other lanes, and VLD the 256 bytes at its address; nothing else of the tile's data changes. CVT_WIDEN writes the 64
unpacked lanes, and then the step of the instruction has the cause NONFINITE where a lane is not finite. VST completes: its
address on holds the bytes of its register's lanes, lane l at bytes 4l to 4l + 3, as far as scratch reaches; every other
byte of scratch outside the step scalar record stays, and the prefetch entries of the 256 bytes retire. Nothing else of the
tile's data changes, no other tile, and nothing of the module outside the tiles but, where a range or the scalar record
passes the end of scratch, registers. -/
def Obligations.VectorRegistersAreWrittenAndStored : Prop :=
  (∀ (s : State) (t : Nat) (w : BitVec 128),
      (isSub w 0x20 0x07 = true → s.CanIssue t w { eng := engVector, form := vopLegal w 0x07 } →
        TileIssues (exec (.expsplit t w) s) s t [] fun x =>
          (x.setVreg (vdOf w) ((x.vreg (vaOf w)).map fun v => (fpExpsplit v).1)).setVreg (vcOf w)
            ((x.vreg (vaOf w)).map fun v => (fpExpsplit v).2)) ∧
      (isSub w 0x20 0x10 = true → s.CanIssue t w { eng := engVector, form := vopLegal w 0x10 } →
        TileIssues (exec (.rsum t w) s) s t [] fun x =>
          x.setVreg (vdOf w) (rsum (x.vreg (vaOf w)) :: List.replicate 63 0)) ∧
      (isSub w 0x20 0x11 = true → s.CanIssue t w { eng := engVector, form := vopLegal w 0x11 } →
        TileIssues (exec (.rmax t w) s) s t [] fun x =>
          x.setVreg (vdOf w) (rmax (x.vreg (vaOf w)) :: List.replicate 63 0)) ∧
      (isOp w 0x21 = true →
        s.CanIssue t w { eng := engVector, form := vmemLegal w, reads := [(fld w 63 52 * 256, 256)] } →
        TileIssues (exec (.vld t w) s) s t [(fld w 63 52 * 256, 256)] fun x =>
          x.setVreg (fld w 51 47) (lanesOf (x.bytes (fld w 63 52 * 256) 256)))) ∧
  (∀ (s : State) (t : Nat) (w : BitVec 128), isSub w 0x20 0x23 = true →
      s.CanIssue t w { eng := engVector, form := widenLegal w } →
      let v := cvtUnpack (fmtA w) ((s.tile t).vreg (vaOf w))
      let set := (s.ready t [] []).modTile t fun x => x.setVreg (vdOf w) v
      Performs (exec (.cvtWiden t w) s) t (if nonfinites v = 0 then set else set.cause (s.tagOf t) cNonfinite)) ∧
  (∀ (s : State) (t : Nat) (w : BitVec 128),
      let a := fld w 63 52 * 256
      let d := laneBytes ((s.tile t).vreg (fld w 51 47))
      isOp w 0x22 = true → s.CanIssue t w { eng := engVector, form := vmemLegal w, writes := [(a, 256)] } →
      Gives (exec (.vst t w) s) fun u =>
        (∀ o, (∀ b ∈ s.scalarsAt t, o < b ∨ b + 64 ≤ o) →
          (u.tile t).byte o =
            if a ≤ o ∧ o < a + d.length ∧ o < scratchSize then d.getD (o - a) 0 else (s.tile t).byte o) ∧
        (u.tile t).datapath = ((s.tile t).retirePf [(a, 256)]).datapath ∧ (u.tile t).icount = (s.tile t).icount + 1 ∧
        (∀ i, i ≠ t → u.tile i = s.tile i) ∧
        ((∀ b ∈ s.scalarsAt t, b + 64 ≤ scratchSize) → a + d.length ≤ scratchSize →
          ∀ page off, regOff off → (page, off) ∉ tailRegs → u.rd page off = s.rd page off) ∧
        { u.body with tiles := [] } = { s.body with tiles := [] })

/-- CVT_F8F, CVT_F8B and CVT_F16W complete: vd becomes the codes of the 64 lanes of va and, for an 8-bit format, the scales
of the two blocks of 32, each element rounded to nearest or, with SR, by the next entry of the rounding-base stream, which
is taken. Their zero, saturation and non-finite results are counted under the tensor identifier in lane 0 of vc for the
step of the instruction, and then flagged: a non-finite one as NONFINITE, a saturated one of traffic class 2 to 5 as
OVERFLOW. Counting changes only the tile's Spectrum buffer, which gains the counts at the tensor's entry where no other
step's counts are in it, there is room, and no count passes its largest value. -/
def Obligations.NarrowingConversionsComplete : Prop :=
  (∀ (s : State) (t : Nat) (w : BitVec 128), s.CanIssue t w (s.cvtIssue t w) →
      let tensor := bits (((s.tile t).vreg (vcOf w)).headD 0).toNat 19 0
      let r := s.ready t [] []
      let e := if srOf w then r.rbaseTake t else (0, 0, r)
      let v := (s.tile t).vreg (vaOf w)
      let half (fmt i : Nat) := convRow fmt ((List.range 32).map fun j =>
        (decode32 (v.getD (32 * i + j) 0),
          if srOf w then Rnd.srnd (srbits s.seedNow tensor (s.tagOf t) ((e.1 + i * e.2.1 + j) % 2 ^ 40)) else Rnd.rne))
      let kinds (fmt : Nat) := ((half fmt 0).2 ++ (half fmt 1).2).map (·.2)
      let done (fmt : Nat) : State :=
        let set := e.2.2.modTile t fun x => x.setVreg (vdOf w) (lanesOf (cvtPack fmt (half fmt 0) (half fmt 1)))
        let n := countKinds (kinds fmt)
        let c := set.countSpec t tensor (s.tagOf t) n.1 n.2.1 n.2.2
        let c := if 0 < n.2.2 then c.cause (s.tagOf t) cNonfinite else c
        if 0 < n.2.1 ∧ 2 ≤ trafficOf w ∧ trafficOf w ≤ 5 then c.cause (s.tagOf t) cOverflow else c
      (isSub w 0x20 0x20 = true → Performs (exec (.cvtF8f t w) s) t (done 2)) ∧
      (isSub w 0x20 0x21 = true → Performs (exec (.cvtF8b t w) s) t (done 3)) ∧
      (isSub w 0x20 0x22 = true → Performs (exec (.cvtF16w t w) s) t (done 1))) ∧
  (∀ (s : State) (t tensor tag z sa nf : Nat),
      let u := s.countSpec t tensor tag z sa nf
      (u.tile t).datapath = (s.tile t).datapath ∧ (∀ o, (u.tile t).byte o = (s.tile t).byte o) ∧
      (∀ i, i ≠ t → u.tile i = s.tile i) ∧ { u with tiles := [] } = { s with tiles := [] } ∧
      (s.specTable.2 ≠ 0 → 0 < z + sa + nf → (s.tile t).specStep = tag →
        (∀ e, (s.tile t).spectrum.find? (·.tensor == tensor) = some e →
          e.zeros + z < 2 ^ 32 → e.sats + sa < 2 ^ 32 → e.nonfin + nf < 2 ^ 32 →
          (u.tile t).spectrum = (s.tile t).spectrum.map fun e => if e.tensor == tensor then
            { e with zeros := e.zeros + z, sats := e.sats + sa, nonfin := e.nonfin + nf } else e) ∧
        ((s.tile t).spectrum.any (·.tensor == tensor) = false → (s.tile t).spectrum.length < 16 →
          (u.tile t).spectrum = (s.tile t).spectrum ++ [{ tensor := tensor, zeros := z, sats := sa, nonfin := nf }])))

/-- MMA and MMAZ complete: the accumulator index named becomes the blocks applied to its contents, or to zeros for MMAZ;
with RESCALE the contents at entry and the operand regions are kept for the decision. ACCCLR completes: the selected
indices are cleared. Nothing else of the tile's data changes, no other tile, and nothing of the module outside the tiles
but, where an operand or the scalar record passes the end of scratch, registers. -/
def Obligations.MatrixCompletes : Prop :=
  ∀ (s : State) (t : Nat) (w : BitVec 128),
    let i := accOf w
    let run (entry : Tile → Acc) (x : Tile) : Tile :=
      let y := x.setAcc i (matRun x w (entry x))
      if rescaleOf w then
        { y with rescale := y.rescale ++ [{ acc := i, word := w, entry := entry x, reads := matReads w, icount := x.icount }] }
      else y
    (isOp w 0x10 = true → s.CanIssue t w (s.matrixIssue t w false) →
      TileIssues (exec (.mma t w) s) s t (matReads w) (run fun x => x.accAt i)) ∧
    (isOp w 0x11 = true → s.CanIssue t w (s.matrixIssue t w true) →
      TileIssues (exec (.mmaz t w) s) s t (matReads w) (run fun _ => Acc.zero)) ∧
    (isOp w 0x13 = true →
      s.CanIssue t w { plainIssue w [(15, 0)] (busyHold ((clrSel w).any (s.tile t).accBusy)) with eng := engMatrix } →
      TileIssues (exec (.accclr t w) s) s t [] fun x =>
        ((List.range 16).filter fun n => bit (fld w 15 0) n).foldl (fun x n => x.setAcc n Acc.zero) x)

/-- ACCOUT completes: the 32 × 32 values of the index, each scaled by its output shift, are converted row by row and stored
from the data address on, with the row scales of an 8-bit format at theirs; its events are counted under its tensor
identifier and flagged, a saturation bit of the index raises ACC_SAT with the cause OVERFLOW, and the index is cleared if
the word says so.
RESCALE_DECISION completes: the result stands and its record goes, or a retry is decided. RESCALE_RETRY completes: the index
is restored with its output shift raised and all blocks run again, one more retry is counted, and the array's occupancy
counts as recompute; an operand of wrong parity is met as an error of the instruction instead. -/
def Obligations.AccumulatorsAreReadOutAndRescaled : Prop :=
  (∀ (s : State) (t : Nat) (w : BitVec 128), isOp w 0x12 = true → s.CanIssue t w (s.accoutIssue t w) →
      let i := accOf w
      let a := (s.tile t).accAt i
      let fmt := fld w 34 31
      let r := s.ready t [] (accoutWrites w)
      let e := if srOf w then r.rbaseTake t else (0, 0, r)
      let rows := (List.range 32).map fun r =>
        convRow fmt ((List.range 32).map fun j =>
          ((decode32 (a.vals.getD (32 * r + j) 0)).scale a.osh,
            if srOf w then Rnd.srnd (srbits s.seedNow (fld w 30 11) (s.tagOf t) ((e.1 + r * e.2.1 + j) % 2 ^ 40)) else Rnd.rne))
      let data := rows.foldr (fun r acc => r.2.foldr (fun e acc => natLe (outBytes fmt) e.1 ++ acc) acc) []
      let v := e.2.2.putScratch t (fld w 63 50 * 64) data
      let v := if 2 ≤ fmt then v.putScratch t (fld w 49 35 * 32) (rows.map fun r => BitVec.ofNat 8 r.1) else v
      let kinds := accKinds a rows
      let n := countKinds (kinds.map (·.1))
      let c := countKinds (kinds.map (·.2))
      let v := (v.countSpec t (fld w 30 11) (s.tagOf t) n.1 n.2.1 n.2.2).convFlags (s.tagOf t) (trafficOf w) c.2.2 c.2.1
      let v := if a.sat = [] then v else (v.raise t 4).cause (s.tagOf t) cOverflow
      Performs (exec (.accout t w) s) t (if bit (fld w 63 0) 10 then v.modTile t (·.setAcc i Acc.zero) else v)) ∧
  (∀ (s : State) (t n : Nat) (r : Rescale), t < 1152 → s.Awake → (s.tile t).rescale.find? (·.acc == n) = some r →
      (r.retry = false → Ends (exec (.rescaleDecision t n) s) (s.setTile t { s.tile t with
        rescale := if retryDue (s.tile t) r then mapFirst (·.acc == n) (fun r => { r with retry := true }) (s.tile t).rescale
          else (s.tile t).rescale.filter (·.acc != n) })) ∧
      (r.retry = true → (s.tile t).perr = none → (s.tile t).parity r.reads = none →
        Ends (exec (.rescaleRetry t n) s) ((s.setTile t { (s.tile t).setAcc n
            (matRun (s.tile t) r.word (retryEntry r.entry (r.retries + 1))) with
          rescale := mapFirst (·.acc == n) (fun r => { r with retry := false, retries := r.retries + 1 })
            (s.tile t).rescale }).retryStall t (matOccupancy r.word))) ∧
      (∀ e, r.retry = true → (s.tile t).perr = none → (s.tile t).parity r.reads = some e →
        Ends (exec (.rescaleRetry t n) s) (s.parityError t { e with icount := r.icount })))

/-- NOP, SPEC, SPECEND and WAITC complete: a region opens or closes, a counter loses what WAITC waited for (none of it in a
replay that has it still to skip), NOP changes nothing. A DBG word does nothing while no debug session may act. With a debug
session open and DEBUG_EN[1] set, HALT sets DBG_HALT and stops the tile, and MARK makes an Afterglow record of the tile's logical
number and its tag. FRAME completes once its schedule frame has started: the frame is open, its number stands in FRAME_POS,
the tile has reached it, and its margin is kept if the frame had started before. RPOINT completes: its Spectrum buffer is
flushed, the stream's place and rounding-base position are recorded, and its counts start again; the RPOINT at which a
replay begins sets nothing anew. -/
def Obligations.ControlFamilyCompletes : Prop :=
  (∀ (s : State) (t : Nat) (w : BitVec 128),
      (isOp w 0x00 = true → s.CanIssue t w (plainIssue w []) → TileIssues (exec (.nop t w) s) s t [] id) ∧
      (isOp w 0x60 = true → s.CanIssue t w (s.specIssue t w) → TileIssues (exec (.spec t w) s) s t [] fun x =>
        { x with region := some (fld w 15 0), regioned := x.regioned || (!x.decided && x.lag == 0) }) ∧
      (isOp w 0x61 = true → s.CanIssue t w (plainIssue w [(15, 0)]) →
        TileIssues (exec (.specend t w) s) s t [] fun x => { x with region := none }) ∧
      (isOp w 0x03 = true → s.CanIssue t w (s.waitcIssue t w) →
        let c := fld w 4 0
        ((s.tile t).skip.waitc = 0 → Performs (exec (.waitc t w) s) t ((s.ready t [] []).modTile t fun x =>
          { x with cc := sput x.cc c ((sget {} x.cc c).take (fld w 63 32) x.inSpec),
                   done := { x.done with waitc := x.done.waitc + 1 } })) ∧
        (0 < (s.tile t).skip.waitc → Performs (exec (.waitc t w) s) t ((s.ready t [] []).modTile t fun x =>
          { x with skip := { x.skip with waitc := x.skip.waitc - 1 } })))) ∧
  (∀ (s : State) (t : Nat) (w : BitVec 128), s.CanIssue t w { form := dbgLegal w } →
      let r := s.ready t [] []
      (isSub w 0xF0 1 = true → Performs (exec (.dbgHaltAction t w) s) t 
        (if s.dbgActs then (r.setFlag t offControl 1 true).modTile t fun x => { x with halting := true } else r)) ∧
      (isSub w 0xF0 2 = true → Performs (exec (.mark t w) s) t
        (if s.dbgActs then r.agRecord 0x1004 [s.tileOf t, fld w 31 0] else r))) ∧
  (∀ (s : State) (t : Nat) (w : BitVec 128),
      (isOp w 0x01 = true → s.CanIssue t w (s.frameIssue t w) →
        let j := s.frameOpened t w
        let reached := (s.ready t [] []).modTile t (·.reach j s.gn.count)
        Performs (exec (.frame t w) s) t
          (((reached.lateMargin t j).modTile t fun x => { x with frame := some j }).wrN t 0x11C j)) ∧
      (isOp w 0x02 = true → s.CanIssue t w (plainIssue w [(47, 0)]) →
        let r := s.ready t [] []
        ((s.tile t).replayTo.isSome = true ∧ (s.tile t).icount = 0 → Performs (exec (.rpoint t w) s) t r) ∧
        (¬((s.tile t).replayTo.isSome = true ∧ (s.tile t).icount = 0) →
          Performs (exec (.rpoint t w) s) t ((r.flushSpec t).modTile t fun x =>
            { x with rpoint := some { addr := fld w 47 0, pos := x.pos, pass := x.pass, reentry := x.reentry, rbase := x.rbase }
                     rpNo := x.rpNo + 1, icount := 0, started := [], taken := [], done := {}, skip := {}, inbound := []
                     replayTo := none, replayed := [], redo := none }))))

/-- The progress of a stream (what `Performs` ends with) counts its instruction while the site has a stream, and changes
only what `StreamOnly` names: of its own tile the place in the stream, the Spectrum buffer and the step scalar record; of
everything else only, where that record passes the end of scratch, registers and events. -/
def Obligations.StreamProgressKeeps : Prop :=
  ∀ (s : State) (t : Nat), StreamOnly t s (s.advance t) ∧
    ((s.streamOf t).isSome = true → ((s.advance t).tile t).icount = (s.tile t).icount + 1)

/-- A word that Table 2.4 does not give, or that holds a reserved value, completes as an instruction that does nothing but
raise ILLEGAL_INSTR and the HARDWARE cause of its step; one whose operands in scratch hold the reserved value records first
the addresses past the end of scratch that it read. A word of a sound instruction does nothing under ILLEGAL_INSTR (the
model's choice, assumption 95). -/
def Obligations.ReservedWordRaisesIllegal : Prop :=
  ∀ (s : State) (t : Nat) (w : BitVec 128), t < 1152 → s.Awake →
    let q := s.illegalIssue t w
    let stop (s : State) : State := (s.raise t 7).cause (s.tagOf t) cHardware
    (q.form = false → s.holds t w [] [] = none → Performs (exec (.illegalInstr t w) s) t (stop s)) ∧
    (q.form = true → q.content = false → s.holds t w q.reads q.writes = none → (s.tile t).parity q.head = none →
      Performs (exec (.illegalInstr t w) s) t (stop (s.faultReads t q.head))) ∧
    (q.form = true → q.content = true → Ends (exec (.illegalInstr t w) s) s)

/-- GIVE completes, of each kind. Kind 1 adds to the credit counter of the tile that it names, modulo 2^32, to its
speculative part where the step of the instruction is speculative; a tile that no site carries has none. Kind 2 hands one
GIVE frame with the count to the route toward the module. Kind 3 adds to the collective counter, modulo 2^32. The tile
counts one GIVE. In a replay a GIVE already done only uses up its skip. -/
def Obligations.GiveCompletes : Prop :=
  ∀ (s : State) (t : Nat) (w : BitVec 128),
    let tag := s.tagOf t
    let r := s.ready t [] []
    let once := r.modTile t fun x => { x with done := { x.done with give := x.done.give + 1 } }
    let skipped := r.modTile t fun x => { x with skip := { x.skip with give := x.skip.give - 1 } }
    (isGive w 1 = true → s.CanIssue t w (plainIssue w [(63, 62), (41, 32), (28, 24), (15, 0)]) →
      ((s.tile t).skip.give = 0 → ∀ d, s.siteOf (fld w 41 32) = some d →
        Performs (exec (.giveTile t w) s) t (once.modTile d fun x =>
          { x with kc := sput x.kc (fld w 28 24) (
              let c := sget {} x.kc (fld w 28 24)
              if s.speculative tag then { c with spec := (c.spec + fld w 15 0) % 2 ^ 32 }
              else { c with base := (c.base + fld w 15 0) % 2 ^ 32 }) })) ∧
      ((s.tile t).skip.give = 0 → s.siteOf (fld w 41 32) = none → Performs (exec (.giveTile t w) s) t once) ∧
      (0 < (s.tile t).skip.give → Performs (exec (.giveTile t w) s) t skipped)) ∧
    (isGive w 2 = true → s.CanIssue t w (plainIssue w [(63, 47), (41, 32), (28, 24), (15, 0)]) →
      (∀ m, (s.tile t).skip.give = 0 → s.physOfLogical (fld w 61 47) = some m →
        Performs (exec (.giveRemoteTile t w) s) t (once.sendUnscheduled { emptyFrame with
          type := 4, spec := s.speculative tag, stepTag := tag % 256, dstTile := fld w 41 32, dstPhys := m
          srcPhys := s.phys, srcTile := s.tileOf t, cc := fld w 28 24, giveN := fld w 15 0 })) ∧
      (0 < (s.tile t).skip.give → Performs (exec (.giveRemoteTile t w) s) t skipped)) ∧
    (isGive w 3 = true → s.CanIssue t w (plainIssue w [(63, 62), (39, 32), (15, 0)]) →
      ((s.tile t).skip.give = 0 →
        Performs (exec (.giveCollective t w) s) t { once with ray := { s.ray with
          ck := sset 0 s.ray.ck (fld w 39 32) ((sget 0 s.ray.ck (fld w 39 32) + fld w 15 0) % 2 ^ 32) } }) ∧
      (0 < (s.tile t).skip.give → Performs (exec (.giveCollective t w) s) t skipped))

/-- DMA completes: its descriptor, with the step, the start of the frame and the place of its instruction, stands last in
the queue that the word names; in a replay a descriptor that had started stands there for its part to the tile's own
scratch alone, or not at all. DMA_COPY, DMA_REDUCE_ADD and PRISM complete: the head of the queue leaves it and starts
(`State.dmaStart`), where it has that operation, nothing makes it wait, its own source is sound and its destination is
known. Where something makes it wait, the wait counts 1 tc under its cause, and where its own source holds a failed byte,
the tile meets a parity error. A start takes the credits of the descriptor, leaves every other tile's queues and all
scratch as they are, and leaves for each destination site, or for a destination in device memory, a transfer whose rows
have the offsets and lengths of the descriptor. -/
def Obligations.DescriptorsArePlacedAndStart : Prop :=
  (∀ (s : State) (t : Nat) (w : BitVec 128) (d : Desc),
      let a := 64 * fld w 60 47
      let q := fld w 63 61
      let r := s.ready t [(a, 64)] []
      isOp w 0x30 = true → s.CanIssue t w (s.dmaIssue t w) → parseDesc ((s.tile t).bytes a 64) = some d →
      let e := { d with tag := s.tagOf t, start := s.frameStart t, icount := (s.tile t).icount, rp := (s.tile t).rpNo }
      let own : Bool := match d.dst with
        | .tile lt _ => if d.op == 2 then (r.prismSites d).contains t else r.siteOf lt == some t
        | _ => false
      let again : Bool := (s.tile t).replayTo.isSome && (s.tile t).started.contains (s.tile t).icount
      let place (f : Desc) : State := r.modTile t fun x => { x with dmaq := sset [] x.dmaq q (sget [] x.dmaq q ++ [f]) }
      (again = false → Performs (exec (.dma t w) s) t (place e)) ∧
      (again = true → own = true → Performs (exec (.dma t w) s) t (place { e with again := true })) ∧
      (again = true → own = false → Performs (exec (.dma t w) s) t r)) ∧
  (∀ (s : State) (t q : Nat) (d : Desc), t < 1152 → q < 8 → s.Awake → s.carrying t = true → s.dmaHead t q = some d →
      let all (u : State) : Prop :=
        (d.op = 0 → Ends (exec (.dmaCopy t q) s) u) ∧ (d.op = 1 → Ends (exec (.dmaReduceAdd t q) s) u) ∧
        (d.op = 2 → Ends (exec (.prism t q) s) u)
      (∀ c, s.dmaWait t q d = some c → s.dmaResCheck d = .ok → all (s.stall t engDma c)) ∧
      (∀ off, s.dmaWait t q d = none → d.ownBad s t = some off → all (s.parityError t
        { off := off, offs := (s.tile t).allBad d.srcRows, acc := false, icount := d.icount, dma := some (d.rp, d.icount) })) ∧
      (∀ dst, s.dmaWait t q d = none → d.ownBad s t = none → s.dmaDst t q d = some dst →
        let u := (s.modTile t (·.popDesc q)).dmaStart t d dst
        all u ∧
        (∀ c, d.kc = some c → 0 < s.dmaCredits d →
          (u.tile t).kc = sput (s.tile t).kc c ((sget {} (s.tile t).kc c).take (s.dmaCredits d) (s.speculative d.tag))) ∧
        (u.tile t).dmaq = ((s.tile t).popDesc q).dmaq ∧
        (∀ i, (u.tile i).scratch = (s.tile i).scratch ∧ (i ≠ t → (u.tile i).dmaq = (s.tile i).dmaq)) ∧
        (∀ l, dst = .sites l → ∀ o ∈ l, ∃ x ∈ u.xfers,
          x.dst = .scratch o (s.tileOf o) ∧ x.site = t ∧ x.add = (d.op == 1) ∧ x.tag = d.tag ∧ x.cls = d.sclass ∧
          x.rows.map (fun r => (r.off, r.len)) = d.dstRows) ∧
        (dst = .device → ∃ x ∈ u.xfers, x.dst = .device ∧ x.site = t ∧ x.add = (d.op == 1) ∧ x.tag = d.tag ∧
          x.cls = d.sclass ∧ x.rows.map (fun r => (r.off, r.len)) = d.dstRows)))

/-- INBOUND_WRITE completes: every row of the transfer whose bytes have come lands in the destination tile's scratch, is
marked as inbound since the recovery point where it came from another tile, and is done; INBOUND_REDUCE_ADD does the same
by adding. Where the transfer is of the other kind, or an earlier one of its sender to its tile is still on its way,
nothing happens. Bytes land as they are, or as 0xFF where tagged as poison, and no other byte of scratch changes; one sound
element that is added becomes the sat32 sum. TRANSFER_LANDED completes: a transfer all of whose rows are done leaves, its
completion counter rises by 1 and its prefetch entry stands; one with a row to come stays. A transfer to device memory
performs first the rows that can be performed. -/
def Obligations.InboundTransfersLandAndCount : Prop :=
  (∀ (s : State) (id site lt : Nat) (x : Xfer), s.Serves → s.xfers.find? (·.id == id) = some x → x.dst = .scratch site lt →
      let step (f : State → XRow → State) (u : State) (r : XRow) : State :=
        if r.done || r.src.isSome then u else (f u r).markInbound x.site site r.off r.len
      let done (u : State) : State := { u with xfers := u.xfers.map fun y => if y.id == id then
        { x with rows := x.rows.map fun r => if r.done || r.src.isSome then r else { r with done := true } } else y }
      (x.add = false → s.inOrder x site = true → Ends (exec (.inboundWrite id) s)
        (done (x.rows.foldl (step fun u r => u.landScratch x.agent site x.tag r.off r.data) s))) ∧
      (x.add = true → s.inOrder x site = true → Ends (exec (.inboundReduceAdd id) s)
        (done (x.rows.foldl (step fun u r => u.addScratch x.agent x.again site x.tag r.off r.data) s))) ∧
      (x.add = true ∨ s.inOrder x site = false → Ends (exec (.inboundWrite id) s) s) ∧
      (x.add = false ∨ s.inOrder x site = false → Ends (exec (.inboundReduceAdd id) s) s)) ∧
  (∀ (s : State) (ag : Agent) (site tag o : Nat) (d : List PByte),
      let u := s.landScratch ag site tag o d
      (∀ k, (u.tile site).byte k = if o ≤ k ∧ k < o + d.length ∧ k < scratchSize then
          (if (d.getD (k - o) ⟨0, false⟩).poison then 0xFF else (d.getD (k - o) ⟨0, false⟩).val) else (s.tile site).byte k) ∧
      (∀ i, i ≠ site → u.tile i = s.tile i) ∧ u.mem = s.mem ∧ u.xfers = s.xfers) ∧
  (∀ (s : State) (ag : Agent) (again : Bool) (site tag o : Nat) (d : List PByte),
      let u := s.addScratch ag again site tag o d
      let a := satAdd32 (BitVec.ofNat 32 ((s.tile site).num o 4)) (BitVec.ofNat 32 (leNat (d.map (·.val))))
      d.length = 4 → d.any (·.poison) = false → o + 4 ≤ scratchSize → (s.tile site).firstBad [(o, 4)] = none →
      (u.tile site).num o 4 = a.1.toNat ∧ (∀ k, k < o ∨ o + 4 ≤ k → (u.tile site).byte k = (s.tile site).byte k) ∧
      (∀ i, i ≠ site → (u.tile i).scratch = (s.tile i).scratch) ∧ (a.2 = false → u.mem = s.mem ∧ u.regs = s.regs)) ∧
  (∀ (s : State) (id : Nat) (x : Xfer), s.Serves → s.xfers.find? (·.id == id) = some x →
      (x.dst ≠ .device → x.rows.all (·.done) = true → Ends (exec (.transferLanded id) s) (s.landed x)) ∧
      (x.dst ≠ .device → x.rows.all (·.done) = false → Ends (exec (.transferLanded id) s) s) ∧
      (x.dst = .device → ∃ y, (s.settle x).xfers.find? (·.id == id) = some y ∧ y.cc = x.cc ∧ y.tag = x.tag ∧
        y.rows.map (fun r => (r.off, r.len)) = x.rows.map (fun r => (r.off, r.len)) ∧
        Ends (exec (.transferLanded id) s) (if y.rows.all (·.done) then (s.settle x).landed y else s.settle x))) ∧
  (∀ (s : State) (x : Xfer),
      let u := s.landed x
      u.xfers = s.xfers.filter (·.id != x.id) ∧
      (∀ i, (u.tile i).cc = match x.cc with
        | some (site, c) => if i = site then
            sput (s.tile i).cc c ((sget {} (s.tile i).cc c).add 1 (s.speculative x.tag)) else (s.tile i).cc
        | none => (s.tile i).cc) ∧
      (∀ site lt k p, x.dst = .scratch site lt → x.pf = some (k, p) → sfind (u.tile site).pf k = some p) ∧
      (∀ i, (u.tile i).scratch = (s.tile i).scratch ∧ (u.tile i).kc = (s.tile i).kc) ∧ u.mem = s.mem ∧ u.regs = s.regs)

/-- GSEND completes: one credit is taken and one send counted, and the message is under way to the mailbox of the tile that
its header names, or handed as a GLINT frame to the route of its module; a message for a tile that no site carries is
lost. GRECV completes: the oldest message that it may see leaves its mailbox into scratch, and its credit goes back to the
sender, as a count in this module or as a GIVE frame. In a replay a GSEND already done only uses up its skip, and a GRECV
already done copies again the slot that it took. MAILBOX_ARRIVAL completes: a message under way stands last in its mailbox;
while the mailbox holds four, or an earlier message of its sender to its tile is under way, nothing happens. -/
def Obligations.GlintMessagesComplete : Prop :=
  (∀ (s : State) (t : Nat) (w : BitVec 128), isOp w 0x38 = true → s.CanIssue t w (s.gsendIssue t w) →
      let a := 64 * fld w 63 50
      let x := s.tile t
      (0 < x.skip.gsend → Performs (exec (.gsend t w) s) t ((s.ready t [] []).modTile t fun x =>
        { x with skip := { x.skip with gsend := x.skip.gsend - 1 } })) ∧
      (∀ h, x.skip.gsend = 0 → parseHead (x.bytes a 16) = some h →
        let paid := ((s.ready t [(a, 16 + h.len)] []).modTile t fun x =>
          { x with kc := sput x.kc h.kc ((sget {} x.kc h.kc).take 1 x.inSpec),
                   done := { x.done with gsend := x.done.gsend + 1 } }).bump t 0x2CC
        let p := x.gsendPayload a h.len
        (h.remote = none → s.siteOf h.tile = none → Performs (exec (.gsend t w) s) t paid) ∧
        (∀ d, h.remote = none → s.siteOf h.tile = some d → Performs (exec (.gsend t w) s) t
          { paid with
            nextId := s.nextId + 1
            glints := s.glints ++ [{ id := s.nextId, site := d, mbox := h.mbox,
                                     msg := { srcMod := s.logical.getD 0, srcTile := s.tileOf t, kc := h.kc,
                                              slot := glintSlot false 0 (s.tileOf t) h.low p, tag := s.tagOf t } }] }) ∧
        (∀ m n, h.remote = some m → s.physOfLogical m = some n → Performs (exec (.gsend t w) s) t
          (paid.sendUnscheduled { emptyFrame with
            type := 3, spec := s.speculative (s.tagOf t), stepTag := s.tagOf t % 256, dstTile := h.tile, dstPhys := n
            srcPhys := s.phys, srcTile := s.tileOf t
            payload := pad16 (natLe 8 (2 ^ 63 + m * 2 ^ 47 + h.tile * 2 ^ 32 + h.mbox) ++ natLe 8 h.low ++ p) })))) ∧
  (∀ (s : State) (t : Nat) (w : BitVec 128), isOp w 0x39 = true → s.CanIssue t w (s.grecvIssue t w) →
      let a := 64 * fld w 63 50
      let m := fld w 1 0
      let r := s.ready t [] [(a, 256)]
      (0 < (s.tile t).skip.grecv → Performs (exec (.grecv t w) s) t ((r.putScratch t a (s.tile t).takenSlot).modTile t
        fun x => { x with skip := { x.skip with grecv := x.skip.grecv - 1 } })) ∧
      (∀ g rest, (s.tile t).skip.grecv = 0 → s.nextMsg t m = some (g, rest) →
        let took := ((r.putScratch t a g.slot).modTile t fun x =>
          { x with mbox := sset [] x.mbox m rest, taken := x.taken ++ [g.slot],
                   done := { x.done with grecv := x.done.grecv + 1 } }).bump t 0x2D0
        (∀ d, g.srcMod = s.logical.getD 0 → s.siteOf g.srcTile = some d → Performs (exec (.grecv t w) s) t
          (took.modTile d fun x =>
            { x with kc := sput x.kc g.kc ((sget {} x.kc g.kc).add 1 (s.speculative (s.tagOf t))) })) ∧
        (g.srcMod = s.logical.getD 0 → s.siteOf g.srcTile = none → Performs (exec (.grecv t w) s) t took) ∧
        (g.srcMod ≠ s.logical.getD 0 → Performs (exec (.grecv t w) s) t (took.sendUnscheduled { emptyFrame with
          type := 4, spec := s.speculative (s.tagOf t), stepTag := s.tagOf t % 256, dstTile := g.srcTile
          dstPhys := (s.physOfLogical g.srcMod).getD 0, srcPhys := s.phys, cc := g.kc, giveN := 1 })))) ∧
  (∀ (s : State) (id : Nat) (g : GFlight), s.Serves → s.glints.find? (·.id == id) = some g →
      ((sget [] (s.tile g.site).mbox g.mbox).length < 4 → s.glints.any (·.before g) = false →
        Ends (exec (.mailboxArrival id) s)
          ({ s with glints := s.glints.filter (·.id != id) }.modTile g.site fun x =>
            { x with mbox := sset [] x.mbox g.mbox (sget [] x.mbox g.mbox ++ [g.msg]) })) ∧
      (4 ≤ (sget [] (s.tile g.site).mbox g.mbox).length ∨ s.glints.any (·.before g) = true →
        Ends (exec (.mailboxArrival id) s) s))

/-- LDC completes: an LDC whose lines are all in the cache with sound bytes at its places writes them, element by element,
to its destination; with `State.ldcTry` for what earlier lookups and other elements have done, it does so whenever no
element waits for a line. An element that the tile may not read gives the poison pattern with an address fault, one outside
the cache its read, and one that misses asks for its line, at which the LDC waits. READ_CACHE_FILL completes: the line that
an LDC asked for is read from its home slice, stands in the cache, and the tile is among its sharers; it is asked for no
more; where the home cannot take the read, it waits. READ_CACHE_INVALIDATE completes: the tile's copy goes, and the writes
that wait for it wait for this tile no more. -/
def Obligations.ReadCacheFamilyCompletes : Prop :=
  (∀ (s : State) (t : Nat) (w : BitVec 128), isOp w 0x40 = true →
      let n := ldcSize w
      let rs := [(ldcList w, 8 * ldcCount w)]
      let ws := [(ldcDst w, n * ldcCount w)]
      let write (s : State) (got : List (List PByte)) : State :=
        ((got.zip (List.range got.length)).foldl (fun s p =>
          s.landScratch (.tile t) t (s.tagOf t) (ldcDst w + n * p.2) p.1) s).modTile t fun x => { x with ldc := none }
      (let u := s.ldcTry t w
       u.CanIssue t w (u.ldcIssue t w) → Performs (exec (.ldc t w) s) t (write (u.ready t rs ws) ((u.tile t).ldcRun w).got)) ∧
      (let r := (s.tile t).ldcRun w
       let as := (s.ldcAddrs t w).drop r.next
       let line (a : Nat) : RcLine := (((s.tile t).rcache.find? (·.2.line == a / 256)).map (·.2)).getD { line := 0, data := [] }
       s.CanIssue t w { s.ldcIssue t w with also := none } → sclassOf w ≠ 3 →
       (∀ a ∈ as, s.ldcBad a n = false ∧ s.ldcDirect a = false ∧ (s.tile t).rcHas (a / 256) = true ∧
          ∀ b ∈ (line a).bad, ¬(a % 256 ≤ b ∧ b < a % 256 + n)) →
       Gives (exec (.ldc t w) s) fun u =>
         (∀ i, i ≠ t → u.tile i = s.tile i) ∧ (u.tile t).ldc = none ∧ (u.tile t).icount = (s.tile t).icount + 1 ∧
         (∀ l, (u.tile t).rcHas l = (s.tile t).rcHas l) ∧ u.mem = s.mem ∧ u.slices = s.slices ∧
         (r.next = 0 → r.got = [] → ∀ e k, e < ldcCount w → k < n → ldcDst w + n * e + k < scratchSize →
           (∀ b ∈ s.scalarsAt t, ldcDst w + n * e + k < b ∨ b + 64 ≤ ldcDst w + n * e + k) →
           let a := as.getD e 0
           let d := (line a).data.getD (a % 256 + k) ⟨0, false⟩
           a % 256 + n ≤ (line a).data.length →
           (u.tile t).byte (ldcDst w + n * e + k) = if d.poison then 0xFF else d.val))) ∧
  (∀ (s : State) (t n cls a : Nat),
      (s.ldcBad a n = true → s.ldcElem t n cls a = (some (List.replicate n ⟨0xFF, false⟩), s.addrFault (.tile t) a)) ∧
      (s.ldcBad a n = false → s.ldcDirect a = true →
        let r := s.devRead a n cls (.tile t) false false
        s.ldcElem t n cls a = (some r.1, r.2.2))) ∧
  (∀ (s : State) (t : Nat) (w : BitVec 128) (a : Nat) (as : List Nat),
      let r := (s.tile t).ldcRun w
      isOp w 0x40 = true → s.CanIssue t w { s.ldcIssue t w with also := none } → sclassOf w ≠ 3 →
      (s.ldcAddrs t w).drop r.next = a :: as → s.ldcBad a (ldcSize w) = false → s.ldcDirect a = false →
      (s.tile t).rcHas (a / 256) = false →
      Ends (exec (.ldc t w) s) ((s.modTile t fun x => { x with
        ldc := some r
        rcWant := if x.rcWant.any (·.1 == a / 256) then x.rcWant else x.rcWant ++ [(a / 256, sclassOf w)] }).stall t
          engGlint stShade)) ∧
  (∀ (s : State) (t line : Nat), t < 1152 → s.Serves →
      let gone := s.modTile t fun x => { x with rcWant := x.rcWant.filter (·.1 != line) }
      let r := gone.devRead (line * 256) 256
      (∀ cls, (s.tile t).rcWant.find? (·.1 == line) = some (line, cls) → s.rangeReady (line * 256) 256 = true →
        gone.reservedFor (line * 256) = false → gone.ldcDirect (line * 256) = false →
        let u := (r cls (.tile t) false false).2.2.dirEnsure line
        Ends (exec (.readCacheFill t line) s)
          ((u.2.setBank (u.2.bankOf line) ((u.2.bank (u.2.bankOf line)).put { u.1 with sharers := u.1.sharers.add t })).modTile t
            (·.rcFill { line := line, data := (r cls (.tile t) false false).1 }))) ∧
      (∀ cls, (s.tile t).rcWant.find? (·.1 == line) = some (line, cls) → s.rangeReady (line * 256) 256 = true →
        gone.reservedFor (line * 256) = true ∨ gone.ldcDirect (line * 256) = true →
        Ends (exec (.readCacheFill t line) s) gone) ∧
      (∀ cls, (s.tile t).rcWant.find? (·.1 == line) = some (line, cls) → s.rangeReady (line * 256) 256 = false →
        Ends (exec (.readCacheFill t line) s) (s.stall t engIssue stShade)) ∧
      ((s.tile t).rcWant.any (·.1 == line) = false → Ends (exec (.readCacheFill t line) s) s) ∧
      Ends (exec (.readCacheInvalidate t line) s) { s.modTile t (·.rcDrop line) with
        held := s.held.map fun h => if h.line == line then { h with sites := h.sites.filter (· != t) } else h })

/-- PREFETCH_CHECK completes: every chunk that is marked or whose stamps have changed is fetched again, and the entry
retires; where none is, nothing else changes; it waits while a home slice cannot take the reads. REPLAY_START completes:
once every started access has finished, a tile with a usable recovery point goes back to it, one replay is counted and
its record is run; without one the failed bytes become the poison pattern, REPLAY_FAIL is raised, and the tile goes on; a
tile whose last failures were twice in 1,024 frames is reported as failing. PATH_MONITOR_MEASURE completes at a site with
monitors on: it shows the smallest margin, its monitor and the longest run of soft frames, a run of a multiple of four
frames asks for a drop, and a margin under the hard threshold takes 100 MHz off FREQ_MEAS, not below 400 MHz.
SPECTRUM_FLUSH completes: the tensor's oldest flushed entry is merged at its home slice, or waits for it. DONE_STEP_WRITE
completes: once every tile has flushed the oldest finished step and the header's slice can take it, the step leaves the
list, and DONE_STEP and DONE_GT of an image's Spectrum table are written. -/
def Obligations.TileEventsComplete : Prop :=
  (∀ (s : State) (t slot : Nat) (p : Prefetch), t < 1152 → slot < 16 → s.Awake → sfind (s.tile t).pf slot = some p →
      let retire (u : State) : State := u.modTile t fun x => { x with pf := sdel x.pf slot }
      let chunk (r : Prefetch × State) (k : Nat) : Prefetch × State :=
        if r.1.stale.contains k || r.2.chunkNow (r.1.chunks.getD k 0) != r.1.stamps.getD k 0 then r.2.refetch t slot k r.1
        else r
      ((p.chunks.all fun a => s.rangeReady a 4096) = true →
        Ends (exec (.prefetchCheck t slot) s) (retire ((List.range p.chunks.length).foldl chunk (p, s)).2)) ∧
      ((p.chunks.all fun a => s.rangeReady a 4096) = true →
        (∀ k < p.chunks.length, p.stale.contains k = false ∧ s.chunkNow (p.chunks.getD k 0) = p.stamps.getD k 0) →
        Ends (exec (.prefetchCheck t slot) s) (retire s)) ∧
      ((p.chunks.all fun a => s.rangeReady a 4096) = false →
        Ends (exec (.prefetchCheck t slot) s) (s.stall t engIssue stShade))) ∧
  (∀ (s : State) (t : Nat) (e : ParityErr), t < 1152 → s.Awake → (s.tile t).perr = some e →
      (s.quiet t = false → Ends (exec (.replayStart t) s) (s.stall t engIssue stRecompute)) ∧
      (s.quiet t = true → (s.tile t).usable e = none → Ends (exec (.replayStart t) s) (s.replayFail t e)) ∧
      (∀ r, s.quiet t = true → (s.tile t).usable e = some r →
        let ds := s.recordDescs r.addr 1024
        let ok := ds.all fun d => (s.dmaRanges d).all fun p => s.rangeReady p.1 p.2
        (ok = false → Ends (exec (.replayStart t) s) (s.stall t engIssue stRecompute)) ∧
        (ok = true → Ends (exec (.replayStart t) s)
          (ds.foldl (fun s d => s.reload t d) ((s.modTile t fun x =>
            { x with
              perr := none, acc := [], rescale := [], ldc := none, spectrum := [], region := none
              dmaq := (x.dmaq.map fun q => (q.1, q.2.filter (·.rp != x.rpNo))).filter fun q => !q.2.isEmpty
              rbase := r.rbase, pos := r.pos, pass := r.pass, reentry := r.reentry, skip := x.done, icount := 0
              replayTo := some (max x.icount (x.replayTo.getD 0)), redo := e.dma
              lagTo := if x.replayTo.isSome then x.lagTo else x.pass, replayed := x.replayed ++ [e.key] }).bump t 0x128))))) ∧
  (∀ (s : State) (t : Nat) (e : ParityErr), t < 1152 →
      let u := s.replayFail t e
      u.flag t offEvt 8 = true ∧ (u.tile t).perr = none ∧ (u.tile t).pos = (s.tile t).pos ∧
      (e.acc = false → ∀ o, (u.tile t).byte o = if o ∈ e.offs ∧ o < scratchSize then 0xFF else (s.tile t).byte o) ∧
      (e.acc = true → (u.tile t).scratch = (s.tile t).scratch) ∧ (∀ i, i ≠ t → u.tile i = s.tile i) ∧ u.mem = s.mem ∧
      ((s.tile t).rpFails.any (s.gn.frame < · + 1024) = true → t ∈ u.failing)) ∧
  (∀ (s : State) (t : Nat) (l : List Nat), t < 1152 → s.Awake →
      let m := l.foldl min 255
      let runs := ((s.tile t).softRuns.zip l).map fun (r, g) => if g < Config.softThreshold then r + 1 else 0
      let shown := (s.wrN t 0x118 (m + 256 * ((l.findIdx? (· == m)).getD 0 % 8) + 2048 * min (runs.foldl max 0) 31)).modTile t
        fun x => { x with softRuns := runs, softDrop := x.softDrop || runs.any (fun r => r % 4 == 0 && r > 0) }
      (s.flag t offControl 0 = false ∨ l = [] ∨ (s.siteEnt t).st = 3 → Ends (exec (.pathMonitorMeasure t l) s) s) ∧
      (s.flag t offControl 0 = true → l ≠ [] → (s.siteEnt t).st ≠ 3 →
        (Config.hardThreshold ≤ m → Ends (exec (.pathMonitorMeasure t l) s) shown) ∧
        (m < Config.hardThreshold → Ends (exec (.pathMonitorMeasure t l) s) (shown.hardLoss t)))) ∧
  (∀ (s : State) (t : Nat), t < 1152 →
      let u := s.hardLoss t
      u.rdN t 0x108 = max 400 (s.rdN t 0x108 - 100) ∧ u.flag t offEvt 6 = true ∧ u.rdN t 0x110 = min (s.rdN t 0x110) (u.freqMax t) ∧
      (s.freqOp t ≤ 400 → t ∈ u.failing) ∧ u.tiles = s.tiles ∧ u.mem = s.mem) ∧
  (∀ (s : State) (t tensor step : Nat) (e : SpecEntry) (rest : List (Nat × SpecEntry)), t < 1152 → s.Awake →
      takeFirst (fun d => d.2.tensor == tensor) (s.tile t).specDue = some ((step, e), rest) →
      (s.specFlush step e (.tile t) = none → Ends (exec (.spectrumFlush t tensor) s) (s.stall t engIssue stShade)) ∧
      (∀ u, s.specFlush step e (.tile t) = some u →
        Ends (exec (.spectrumFlush t tensor) s) (u.modTile t fun x => { x with specDue := rest }).hdrFlush)) ∧
  (∀ (s : State), s.Serves →
      let h := s.hdrFlush
      (h.steps.doneSteps = [] → Ends (exec .doneStepWrite s) h) ∧
      (∀ step base n rest, h.steps.doneSteps = (step, base, n) :: rest →
        let left : State := { h with steps := { h.steps with doneSteps := rest } }
        let written := ((left.dirtyIn (base + 256 + step % 4 * 32 * n) (32 * n)).foldl State.cleanLine left).modWrite
          (base + 0x18) (sound (natLe 8 h.gn.count))
        (h.flushed step = false ∨ h.doneReady step base n = false → Ends (exec .doneStepWrite s) h) ∧
        (h.flushed step = true → n = 0 → Ends (exec .doneStepWrite s) left) ∧
        (h.flushed step = true → h.doneReady step base n = true → n ≠ 0 →
          Ends (exec .doneStepWrite s) (written.modWrite (base + 0x10) (sound (natLe 8 step))))))

/-- MIRROR completes: its program runs over the elements of the task in order, from the tile's scratch and the task's
scalars; what the elements leave in scratch stands there, the conversions are counted and flagged by stream
(`State.mirrorCounts`), the saturations of the norm sums are counted, the groups of 16 elements are counted, and the task
is open with its norm sums, its fingerprints and its ranges. MIRROR_TASK_COMPLETE completes: the engine is free, the norm
sums stand from NORM_OUT on, and each fingerprint is written to its entry of the step's table with this site as its owner;
in a replay a write already done only uses up its skip. -/
def Obligations.MirrorTasksRunAndEnd : Prop :=
  (∀ (s : State) (t : Nat) (w : BitVec 128) (k : MTask),
      let i := s.mirrorImage
      let n := fld w 49 45
      let prog := progOf i n
      let q := s.mirrorIssue t w
      let tag := s.tagOf t
      let f := (s.ready t q.reads q.writes).faultReads t (taskStores prog k)
      let scal := (List.range 16).map fun j => BitVec.ofNat 32 ((s.tile t).num (k.scalars + 4 * j) 4)
      let r := forN k.e { tile := f.tile t : MRun } fun r e => runElem prog scal k i.seed tag r e
      let prints := if k.fpOn then (List.range (k.e / 16384)).map fun b => (k.fpFirst + b, crc64 (fpBytes r.tile k tag b)) else []
      let m : MirrorTask :=
        { prog := n, norms := r.segs ++ (r.seg.map (·.1)).toList, normOut := k.normOut, fprints := prints, tag := tag,
          reads := q.reads, writes := q.writes }
      let open_ := f.setTile t { r.tile with mirror := some m }
      isOp w 0x50 = true → s.CanIssue t w q → s.mirrorTask t w = some k →
      Performs (exec (.mirror t w) s) t (((open_.mirrorCounts t tag k r).normSats t tag r.sats).bump t 0x29C ((k.e + 15) / 16))) ∧
  (∀ (s : State) (t : Nat) (m : MirrorTask), t < 1152 → s.Awake → (s.tile t).mirror = some m →
      let free := s.modTile t fun x => { x with mirror := none }
      let normed := if m.norms = [] then free else
        free.putScratch t m.normOut (m.norms.foldr (fun v acc => natLe 4 v.toNat ++ acc) [])
      let print (i : Image) (u : State) (p : Nat × DWord) : State :=
        if 0 < (u.tile t).skip.writes then u.modTile t fun x => { x with skip := { x.skip with writes := x.skip.writes - 1 } }
        else (({ u with steps := { u.steps with owners := sput u.steps.owners p.1 t } }.devWrite
            (u.fpTable i + 8 * (m.tag % 2 * u.fpBlocks i + p.1)) (sound (natLe 8 p.2.toNat)) 5 (.tile t)).modTile t fun x =>
          { x with done := { x.done with writes := x.done.writes + 1 } })
      (s.adm.active = none → Ends (exec (.mirrorTaskComplete t) s) normed) ∧
      (∀ i, s.adm.active = some i → Ends (exec (.mirrorTaskComplete t) s) (m.fprints.foldl (print i) normed))) ∧
  (∀ (s : State) (t : Nat), t < 1152 → s.Awake → (s.tile t).mirror = none → Ends (exec (.mirrorTaskComplete t) s) s)

/-- GNOMON_WORD completes. At a port that is not UP it does nothing. Otherwise the frame is taken; a word without SEQ enters
the reports of the subtree, and one with SEQ the masters heard, in place of the link's other entry; a master is elected;
the word's times are measured unless it was replayed; and from the upstream it brings the decision for its frame, where it
has one, and the decision on a switch. GNOMON_WORD_SEND completes: a word goes into the queue of a port that is UP, and only
the master counts its SEQ, which is never 0. HOLDOVER leaves LOCKED and raises UNLOCK where it was held; MASTER_LOST drops
the entries of the master that is gone and elects anew; PPS_EDGE at the master notes whether the PPS is used and applies a
pending SET_HI while no frames run; PPS_MISSING takes that mark away and raises PPS_LOSS while the PPS is enabled. SET_HI is
an order to its register; an operator's, at the master while no frames run, sets the count to SET_HI and SET_LO, at once or
at the next PPS edge while the PPS is used. -/
def Obligations.GnomonFamilyCompletes : Prop :=
  (∀ (s : State) (p : Nat) (w : GnomonWord) (arrival : Nat) (replayed : Bool), p < 16 → s.Serves →
      let took := if w.seq = 0 then (s.ctrlIn p).hearReport p w else (s.ctrlIn p).hearMaster p w
      let m := if replayed then took.elect else took.elect.measureWord p w arrival
      (s.portUp p = false → Ends (exec (.gnomonWord p w arrival replayed) s) s ∧ Ends (exec (.gnomonWordSend p) s) s) ∧
      (s.portUp p = true →
        (w.seq = 0 → sfind took.gn.heard p = none ∧ sfind took.gn.subs p =
          some { late := w.flag, frame := w.frame, next := w.start, ready := w.switchFrame, readyN := w.readyCount }) ∧
        (w.seq ≠ 0 → sfind took.gn.subs p = none ∧
          (sfind took.gn.heard p).map (fun h => (h.prio, h.id, h.epoch, h.seq, h.hops)) =
            some (w.masterPrio, w.masterId, w.epoch, w.seq, w.hops)) ∧
        (m.gn.upstream ≠ some p ∨ w.seq = 0 → Ends (exec (.gnomonWord p w arrival replayed) s) m) ∧
        (m.gn.upstream = some p → w.seq ≠ 0 → Ends (exec (.gnomonWord p w arrival replayed) s)
          ((if w.start = 0 then m else m.takeDecision ⟨w.frame, w.flag, w.hold, w.start⟩).switchSeen
            (if w.switchGo || w.switchAbort then some (w.switchGo, w.switchFrame) else none) w.start)) ∧
        (let n : State := if s.gn.master then
            { s with gn := { s.gn with seq := if s.gn.seq + 1 ≥ 2 ^ 32 then 1 else s.gn.seq + 1 } } else s
         Ends (exec (.gnomonWordSend p) s) (n.sendCtrl p 1 (gnomonBytes (n.wordFor p)))))) ∧
  (∀ s : State, s.Serves →
      let held : State := { s with gn := { s.gn with holdover := true, locked := false, goodRun := 0 } }
      (s.gn.master = true ∨ s.gn.upstream = none ∨ s.gn.holdover = true → Ends (exec .holdover s) s) ∧
      (s.gn.master = false → s.gn.upstream.isSome = true → s.gn.holdover = false →
        Ends (exec .holdover s) (if s.gn.locked then held.raise gnPage 0 else held)) ∧
      (s.gn.upstream = none → Ends (exec .masterLost s) s) ∧
      (s.gn.upstream.isSome = true → Ends (exec .masterLost s) { s with gn := { s.gn with
        heard := s.gn.heard.filter fun e => e.2.id != s.gn.masterId, upstream := none } }.elect) ∧
      (s.gn.master = false → Ends (exec .ppsEdge s) s) ∧
      (s.gn.master = true →
        let used := s.flag gnPage offControl 1
        (s.gn.setPend = true → s.gn.running = false → Ends (exec .ppsEdge s)
          { s with gn := { s.gn with
            ppsUsed := used, setPend := false, count := s.rdN gnPage 0x148 + 2 ^ 32 * s.rdN gnPage 0x14C } }) ∧
        (s.gn.setPend = false ∨ s.gn.running = true →
          Ends (exec .ppsEdge s) { s with gn := { s.gn with ppsUsed := used } })) ∧
      (s.flag gnPage offControl 1 = true →
        Ends (exec .ppsMissing s) ({ s with gn := { s.gn with ppsUsed := false } }.raise gnPage 5)) ∧
      (s.flag gnPage offControl 1 = false → Ends (exec .ppsMissing s) s)) ∧
  (∀ (s : State) (o : Origin) (v : Word), s.Serves →
      let u := s.order o gnPage 0x14C v
      Ends (exec (.setHi o v) s) u ∧
      (operatorOnly (roleOf o) = true → s.gn.master = true → s.adm.active = none →
        u.rd gnPage 0x14C = v ∧ u.tiles = s.tiles ∧ u.mem = s.mem ∧ u.adm = s.adm ∧
        (s.gn.ppsUsed = false → u.gn = { s.gn with count := s.rdN gnPage 0x148 + 2 ^ 32 * v.toNat, setPend := false }) ∧
        (s.gn.ppsUsed = true → u.gn = { s.gn with setPend := true })))

/-- The boundary of a frame: while no decision for the frame is known, or the count has not reached its end, nothing
happens; then the frame number rises by 1 with that start (`State.boundary…`: lateness, margins, replacements, heat and
ports follow), while the count, the decisions, the step and the vector registers and scratch of tiles stay. DECISION_POINT
does nothing where the module is not the master, has decided for the frame, or has not come to 2,048 gt of it. Otherwise the
master decides for frame K: it is stretched when a LATE report came, and S(K + 1) is 4,096 gt after S(K), 256 more when
stretched, and the gap of a hold more, or what a module of the subtree asks for if later; the reports count anew, a
stretched frame makes a record, and the 32nd in a row a hold request; then follow the decision on a switch at K + 2 and
the master's orders. Before the first frame its one decision is on the switch at frame 0. -/
def Obligations.FramesBeginAndDecide : Prop :=
  (∀ s : State, s.Serves →
      (s.nextStart = none → Ends (exec .frameBoundary s) s) ∧
      (∀ n, s.nextStart = some n → s.gn.count < n → Ends (exec .frameBoundary s) s) ∧
      (∀ n, s.nextStart = some n → n ≤ s.gn.count →
        let j := s.gn.frame + 1
        let began : State := { s with
          gn := { s.gn with frame := j, start := n }
          fr := if s.fr.rep.1 = j then s.fr else { s.fr with rep := (j, false) }
          tiles := s.tiles.map fun e => (e.1, { e.2 with late := false }) }
        let u := ((((((began.boundarySpot j).admitUnits.softDrops).dimFrame j).boundaryTiles j).thrashCheck).noteFrame).boundaryPorts
        Ends (exec .frameBoundary s) u ∧
        u.gn = { s.gn with frame := j, start := n } ∧ u.steps.step = s.steps.step ∧
        ∀ t, (u.tile t).vregs = (s.tile t).vregs ∧ (u.tile t).scratch = (s.tile t).scratch)) ∧
  (∀ s : State, s.Serves →
      (s.gn.master = false ∨ (s.gn.running = true ∧ (s.gn.count < s.gn.start + 2048 ∨ s.gn.dec.any (·.frame == s.gn.frame) = true)) →
        Ends (exec .decisionPoint s) s) ∧
      (s.gn.master = true → s.gn.running = true → s.gn.start + 2048 ≤ s.gn.count → s.gn.dec.any (·.frame == s.gn.frame) = false →
        let k := s.gn.frame
        let q := s.fr.lateSeen
        let h := s.gapFor k
        let next := max (s.gn.start + 4096 + (if q then 256 else 0) + h) s.fr.localNext
        let took := { s with fr := { s.fr with lateSeen := false, localNext := 0 } }.takeDecision ⟨k, q, h != 0, next⟩
        let noted := if q then took.agRecord 0x2001 [k % 2 ^ 32, k / 2 ^ 32] else took
        let u := if noted.fr.run = 32 then (noted.raise gnPage 7).holdRequest 1 else noted
        Ends (exec .decisionPoint s) (u.decideSwitch (k + 2) next).masterAct) ∧
      (s.gn.master = true → s.gn.running = false →
        let due : Bool := s.adm.state == 4 && s.adm.go.isNone && s.adm.g0 + 2048 ≤ s.gn.count + 8192
        (due = false → Ends (exec .decisionPoint s) s) ∧
        (due = true → Ends (exec .decisionPoint s)
          ((s.takeDecision ⟨2 ^ 40 - 2, false, false, s.adm.g0 - 4096⟩).decideSwitch 0 (s.adm.g0 - 4096)))))

/-- CHECK_DONE completes: outside CHECKING it does nothing; with no violation found by the checker's own rules or in the flow
of data the image is admitted, the error registers read zero and the progress 100; a violation leaves its reason and
details in the registers, the page in REFUSED with IMAGE_REFUSED raised, and an entry of the journal; which of two stands is
said in the order of the reasons. CHECK, ARM, WITHDRAW and END are orders to CMD. Of an originator that may write the page
they take it to the state that they name, where the state and the switch frame allow them: ARM fills the half of the slot
table not in use; otherwise the page stays and raises CMD_REJECTED. A debug session's order leaves the page as it is.
IMAGE_ACTIVATION and JOB_END do nothing before the switch is decided, its frame has come, and every tile stands at the end
of its pass with its last step closed. Then an activation copies the payload, resets the Spectrum table, applies a staged
site map of the image and the module map, and brings the image up from its frame on; the first one starts frame 0 at G0. The
end of the job leaves no image in force and no frame running. -/
def Obligations.AdmissionFamilyCompletes : Prop :=
  (∀ (s : State) (f : Option (Nat × Nat × Nat)), s.Serves →
      let mine := s.checkImage s.adm.base
      let flow := f.filter fun x => flowReasons.contains x.1
      let done := s.raise admPage 0
      let refused (x : Nat × Nat × Nat) : State :=
        let w := ((done.wrN admPage 0x124 x.1).wrN admPage 0x128 x.2.1).wrN admPage 0x12C x.2.2
        let v := w.free
        let r := ({ v.2.setField admPage 0x154 7 0 (v.1.toNat % 101) with adm := { s.adm with state := 2 } } : State).raise admPage 1
        r.jOrder (s.adm.by_.getD .boot) 0x02 stRefused (natLe 4 (regAddr admPage 0x110) ++ natLe 4 1) x.1
      (s.adm.state ≠ 1 → Ends (exec (.checkDone f) s) s) ∧
      (s.adm.state = 1 →
        (mine = none → flow = none → Ends (exec (.checkDone f) s)
          { (((done.wrN admPage 0x124 0).wrN admPage 0x128 0).wrN admPage 0x12C 0).setField admPage 0x154 7 0 100 with
            adm := { s.adm with state := 3, img := some (done.readImage s.adm.base) } }) ∧
        (∀ y, mine = none → flow = some y → Ends (exec (.checkDone f) s) (refused y)) ∧
        (∀ x, mine = some x → flow = none → Ends (exec (.checkDone f) s) (refused x)) ∧
        (∀ x y, mine = some x → flow = some y → Ends (exec (.checkDone f) s)
          (refused (if y.1 < x.1 ∧ 3 < x.1 ∧ x.1 ≠ 0x1E then y else x))))) ∧
  (∀ (s : State) (o : Origin), s.Serves →
      let u (n : Word) : State := s.order o admPage 0x110 n
      let rejected (u : State) : Prop := u.adm = s.adm ∧ u.flag admPage offEvt 5 = true
      let f := s.swFrame
      let g0 := s.rd64 admPage 0x11C
      Ends (exec (.check o) s) (u 1) ∧ Ends (exec (.arm o) s) (u 2) ∧ Ends (exec (.withdraw o) s) (u 3) ∧
      Ends (exec (.end_ o) s) (u 5) ∧
      (∀ n, (u n).tiles = s.tiles ∧ (u n).mem = s.mem ∧ (u n).gn = s.gn) ∧
      (anyButDebug (roleOf o) = false → ∀ n, (u n).adm = s.adm) ∧
      (anyButDebug (roleOf o) = true →
        (s.adm.state ≠ 1 → s.adm.state ≠ 4 → (u 1).adm = { s.adm with state := 1, img := none, base := s.imgBase, by_ := some o }) ∧
        (s.adm.state = 1 ∨ s.adm.state = 4 → rejected (u 1)) ∧
        (∀ i, s.adm.state = 3 → s.adm.img = some i →
          let first : Prop := i.continues = false ∧ s.gn.count + 6 * 4096 ≤ g0 ∧ ∃ l, s.mapComing = some l ∧ l.length = i.modules
          let next (a : Image) : Prop := i.continues = true ∧ s.passStart a f = true ∧ s.gn.frame + 4 ≤ f
          let armed (f : Nat) : Prop :=
            (u 2).adm = { s.adm with state := 4, armedEnd := false, swFrame := f, g0 := g0, go := none } ∧
            sfind (u 2).ray.halves (1 - s.ray.half) = some (s.readSlots i) ∧ (u 2).ray.half = s.ray.half ∧
            (u 2).flag admPage offEvt 2 = true
          (s.adm.active = none → s.holdState = 3 ∨ first → armed 0) ∧
          (s.adm.active = none → s.holdState ≠ 3 → ¬first → rejected (u 2)) ∧
          (∀ a, s.adm.active = some a → s.holdState = 3 ∨ next a → armed f) ∧
          (∀ a, s.adm.active = some a → s.holdState ≠ 3 → ¬next a → rejected (u 2))) ∧
        (s.adm.state ≠ 3 ∨ s.adm.img = none → rejected (u 2)) ∧
        (s.adm.state = 1 → (u 3).adm = { s.adm with state := 0 }) ∧
        (s.adm.state = 3 → (u 3).adm = { s.adm with state := 0, img := none }) ∧
        (s.adm.state = 4 →
          let before : Prop := if s.gn.running then s.gn.frame + 2 < s.adm.swFrame ∨
              (s.gn.frame + 2 = s.adm.swFrame ∧ s.gn.count < s.gn.start + 2048) else s.gn.count + 8192 < s.adm.g0 + 2048
          (before → s.adm.go = none → (u 3).adm = { s.adm with state := 3 }) ∧
          (¬before ∨ s.adm.go.isSome = true → rejected (u 3))) ∧
        (s.adm.state ≠ 1 → s.adm.state ≠ 3 → s.adm.state ≠ 4 → rejected (u 3)) ∧
        (∀ i, s.adm.active = some i →
          let may : Prop := (s.adm.state = 0 ∨ s.adm.state = 2 ∨ s.adm.state = 3) ∧ s.passStart i f = true ∧ s.gn.frame + 4 ≤ f
          (may → (u 5).adm = { s.adm with armedEnd := true, swFrame := f, go := none } ∧ (u 5).flag admPage offEvt 2 = true) ∧
          (¬may → rejected (u 5))) ∧
        (s.adm.active = none → rejected (u 5)))) ∧
  (∀ s : State, s.Serves →
      let at_ : Bool := s.gn.running && s.gn.frame == s.adm.swFrame && s.allAtEnd && s.outgoingDone
      let go : Prop := s.adm.go = some s.adm.swFrame
      let due : Prop := s.adm.state = 4 ∧ go ∧ (if s.gn.running then at_ = true else s.adm.g0 ≤ s.gn.count)
      (s.adm.img = none ∨ ¬due → Ends (exec .imageActivation s) s) ∧
      (∀ i, s.adm.img = some i → due →
        let first := s.adm.active.isNone
        let copied := (s.payloadCopy i).spectrumReset i
        let placed := match copied.spare.staged with
          | some m => if sha256 (mapBytes m) == i.placement then
              ({ copied with spare := { copied.spare with staged := none } }).siteMapSwitch m else copied
          | none => copied
        let left := if first then placed.mapSwitch else placed.mapSwitch.dropRegions
        let begun : State := if first then
            { left with steps := { step := left.peekN (stepRec i) 6, ls := signedOf 8 (left.peekN (stepRec i + 8) 1) }
                        pen := { left.pen with nextNo := 0, lastEnd := none } } else left
        let up := begun.bringUp i s.adm.swFrame true (!first && left.steps.phase != .exec) false
        let started : State := { up with gn := { up.gn with running := true, frame := 0, start := s.adm.g0, dec := none }, fr := {} }
        let u := if first then ((started.wrN gnPage 0x138 0).wrN gnPage 0x13C 0).resetTokens.noteFrame else up
        Ends (exec .imageActivation s) u ∧ u.adm.active = some i ∧ u.adm.fa = s.adm.swFrame ∧ u.adm.state = 0 ∧
        u.adm.img = none ∧ u.ray.half = 1 - s.ray.half ∧ u.gn.count = s.gn.count ∧
        (first = true → u.gn.running = true ∧ u.gn.frame = 0 ∧ u.gn.start = s.adm.g0)) ∧
      (s.adm.armedEnd = false ∨ ¬go ∨ at_ = false → Ends (exec .jobEnd s) s) ∧
      (s.adm.armedEnd = true → go → at_ = true →
        let u := s.dropRegions.endJob
        Ends (exec .jobEnd s) u ∧ u.adm.active = none ∧ u.adm.armedEnd = false ∧ u.gn.running = false ∧ u.gn.dec = none ∧
        u.gn.count = s.gn.count ∧ ∀ t, (u.tile t).scratch = (s.tile t).scratch))

/-- An access to a compound unit of this module completes: a read answers the aggregate of its leaves' registers, and a
write is journalled, reaches every leaf, and reports a status other than OK; a write of EVT_ENABLE by a source that is no
debug session sets it on the page of every leaf whose tile switch is closed. An access to a unit of other modules does its
part here and waits for each other member, with a request to each whose place is known. A member that has not answered
within 1 ms is left out: the access ends without it, as other requests of the management channel do. -/
def Obligations.CompoundAccessesComplete : Prop :=
  (∀ (s : State) (o : Origin) (unit off : Nat) (v : Word), s.Serves →
      let local_ := s.order o (0x3000 + unit) off v
      (unit < 0x800 → Ends (exec (.compoundRead o unit off) s) (s.say (.reg o (s.unitValue unit off))) ∧
        Ends (exec (.compoundWrite o unit off v) s) local_ ∧
        (anyButDebug (roleOf o) = true → off = offEvtEn →
          ((∀ t ∈ s.leafSites unit, t < 1152 → s.spare.opened.contains (t / 36) = false →
            local_.rdN t offEvtEn &&& 0x3FFFF = v.toNat &&& 0x3FFFF) ∧ local_.tiles = s.tiles ∧ local_.mem = s.mem))) ∧
      (0x800 ≤ unit → unit < 0x1000 →
        let a := s.accept o (0x3000 + unit) off v
        let waits (u : State) : Prop := (∀ m ∈ s.memberModules unit, s.logical ≠ some m → ∃ c ∈ u.host.comps,
          c.off = off ∧ m ∈ c.wait) ∧ u.mem = s.mem
        Ends (exec (.compoundRead o unit off) s) (s.compBegin o (.order o) none unit off none) ∧
        Ends (exec (.compoundWrite o unit off v) s) (a.2.2.compBegin o a.1 a.2.1 unit off (some v)) ∧
        waits (s.compBegin o (.order o) none unit off none))) ∧
  (∀ (s : State) (tag : Nat), s.Serves →
      (s.ray.reqs.find? (·.tag == tag) = none → Ends (exec (.mgmtReplyTimeout tag) s) s) ∧
      (∀ q, s.ray.reqs.find? (·.tag == tag) = some q →
        (∀ id m c, q.want = .unit id m → s.host.comps.find? (·.id == id) = some c →
          Ends (exec (.mgmtReplyTimeout tag) s) (s.compEnd c) ∧
          (s.compEnd c).host.comps = s.host.comps.filter (·.id != c.id)) ∧
        (∀ id m, q.want = .unit id m → s.host.comps.find? (·.id == id) = none →
          Ends (exec (.mgmtReplyTimeout tag) s) (s.dropReq tag)) ∧
        (∀ r, q.want = .partner r → Ends (exec (.mgmtReplyTimeout tag) s) s.partnerLost) ∧
        (∀ n, q.want = .head n → Ends (exec (.mgmtReplyTimeout tag) s) (s.dropReq tag).headsIn) ∧
        (∀ e n, q.want = .repair e n → Ends (exec (.mgmtReplyTimeout tag) s) s) ∧
        (∀ n, q.want = .restore n → Ends (exec (.mgmtReplyTimeout tag) s)
          ({ s with pen := { s.pen with failed := true } }.dropReq tag))))

/-- Loss scaling by a verdict: a discard for NONFINITE or OVERFLOW halves the scale, not below LS_MIN; GROWTH committed
steps in a row double it, not above LS_MAX; a rollback leaves it and the run of commits. So the scale stays in its range. -/
def Obligations.LossScaleStaysInRange : Prop :=
  ∀ (growth verdict cause run : Nat) (lo hi ls : Int), lo ≤ ls → ls ≤ hi →
    let r := scaleAfter growth lo hi verdict cause ls run
    lo ≤ r.1 ∧ r.1 ≤ hi ∧
    (verdict = 3 → (bit cause cNonfinite || bit cause cOverflow) = true →
      r.1 = max lo (ls - 1) ∧ (lo < ls → r.2.1 = 0 ∧ r.2.2 = false) ∧ (ls = lo → r.2.1 = 0 ∧ r.2.2 = true)) ∧
    (verdict = 1 ∨ verdict = 2 → run + 1 = growth → r.1 = min hi (ls + 1) ∧ r.2.1 = 0) ∧
    (verdict = 1 ∨ verdict = 2 → run + 1 ≠ growth → r.1 = ls ∧ r.2.1 = run + 1) ∧
    (verdict = 4 → r.1 = ls ∧ r.2.1 = run)

/-- A verdict is taken by a module that has reported the step that it is for: the master takes the one it sent, another
module the one from its upstream, which it passes on. COMMIT then completes: the step rises, waits for its DONE_STEP write,
and begins with the causes already raised for it, the scale follows, the speculative values of every tile join the base, and
tiles that waited go on. DISCARD repeats the step, COMMIT_REPAIR begins the next, and ROLLBACK stays for the restore; each
begins the undo of what was speculative, the eighth discard in a row with an event and a hold request. A ROLLBACK also comes
in place of RESUME. A verdict that is not taken does nothing. -/
def Obligations.VerdictsAndStepsComplete : Prop :=
  (∀ (s : State) (m : StepMsg) (v : Nat),
      (s.steps.phase ≠ .reported ∨ m.step ≠ s.steps.step → s.takeVerdict v m = none) ∧
      (s.steps.phase = .reported → m.step = s.steps.step →
        (∀ p, s.gn.master = false → s.gn.upstream = some p →
          s.takeVerdict v m = some ((s.ctrlIn p).stepDown 2 { m with verdict := v })) ∧
        (∀ d, s.gn.master = true → s.steps.decided = some (v, d) → d.step = m.step → s.takeVerdict v m = some s))) ∧
  (∀ (s : State) (m : StepMsg), s.Serves →
      (s.takeVerdict 1 m = none → Ends (exec (.commit m) s) s) ∧
      (s.takeVerdict 2 m = none → Ends (exec (.commitRepair m) s) s) ∧
      (s.takeVerdict 3 m = none → Ends (exec (.discard m) s) s) ∧
      (∀ t, s.takeVerdict 1 m = some t →
        let c := (t.commitStep 1 m.cause).nextPass
        Ends (exec (.commit m) s) (State.forSites { c with adm := { c.adm with mustWait := false } } fun s n =>
          if (s.tile n).waitVerdict || !s.running n then (s.modTile n (·.merge)).writeScalars n else s.modTile n (·.merge))) ∧
      (∀ t, s.takeVerdict 2 m = some t →
        let c := t.commitStep 2 m.cause
        Ends (exec (.commitRepair m) s) ({ c with steps := { c.steps with cause := 0 } }.beginUndo (t.steps.step + 1))) ∧
      (∀ t, s.takeVerdict 3 m = some t →
        let c := t.scaleBy 3 m.cause
        let n := c.steps.inRow + 1
        let again : State := { c with steps := { freshStep c.steps 0 with
          attempt := c.steps.attempt + 1, inRow := n, repairs := [] } }
        Ends (exec (.discard m) s)
          ((if n = 8 then (again.raiseTiles 14).holdRequest 2 else again).beginUndo (c.steps.step + 1))) ∧
      (let late : Bool := s.steps.phase == .drained && m.step + 1 == s.steps.step
       let marked (t : State) : State := { t with steps := { t.steps with
         verdict := 4, vcause := m.cause, rollTo := true, decided := none } }
       (late = false → s.takeVerdict 4 m = none → Ends (exec (.rollback m) s) s) ∧
       (∀ t, late = false → s.takeVerdict 4 m = some t → Ends (exec (.rollback m) s)
         ({ marked t with steps := freshStep (marked t).steps 0 }.beginUndo (t.steps.step + 1))) ∧
       (∀ p, late = true → s.gn.master = false → s.gn.upstream = some p →
         Ends (exec (.rollback m) s) (marked ((s.ctrlIn p).stepDown 2 { m with verdict := 4 }))) ∧
       (∀ d, late = true → s.gn.master = true → s.steps.decided = some (4, d) → Ends (exec (.rollback m) s) (marked s)) ∧
       (late = true → s.gn.master = false → s.gn.upstream = none → Ends (exec (.rollback m) s) s) ∧
       (late = true → s.gn.master = true → s.steps.decided.any (·.1 == 4) = false → Ends (exec (.rollback m) s) s))) ∧
  (∀ (t : State) (v cause : Nat) (i : Image), t.adm.active = some i →
      let u := t.commitStep v cause
      let sc := scaleAfter (t.growth i) (t.lsMin i) (t.lsMax i) v cause t.steps.ls t.steps.run
      u.steps.step = t.steps.step + 1 ∧ u.steps.phase = .exec ∧ u.steps.attempt = 0 ∧ u.steps.inRow = 0 ∧
      u.steps.cause = t.steps.causeNext ∧ u.steps.causeNext = 0 ∧
      u.steps.doneSteps = t.steps.doneSteps ++ [(t.steps.step, t.steps.specAt)] ∧
      u.steps.ls = sc.1 ∧ u.steps.run = sc.2.1 ∧ u.steps.verdict = v) ∧
  (∀ (t : State) (tag : Nat),
      let u := t.beginUndo tag
      u.steps = { t.steps with phase := .undoing, undoTag := some tag } ∧ u.gn = t.gn ∧ u.adm = t.adm ∧
      ∀ n, (u.tile n).cc = (t.tile n).cc ∧ (u.tile n).scratch = (t.tile n).scratch ∧ (u.tile n).acc = (t.tile n).acc)

/-- A child's STEP_REPORT and DRAINED are kept by port, at a port that is UP, and the module's own goes up once it is due.
STEP_CLOSE completes: while an operation of the step is open nothing happens; then the fingerprints of a group are sent and
compared, and once they are compared, or there is no group, the module has reported its causes. UNDO_DONE completes: while a
transfer of the undone step is open nothing happens; then its effects are dropped, and the module has drained, or asks for
the repairs of a COMMIT_REPAIR first. RESUME completes: the undone effects are dropped, the step begins anew without causes,
and every tile with a stream goes to its re-entry block or its pass. -/
def Obligations.StepsCloseDrainAndResume : Prop :=
  (∀ (s : State) (p : Nat) (m : StepMsg), p < 16 → s.Serves →
      let in_ := s.ctrlIn p
      (s.portUp p = false → Ends (exec (.stepReport p m) s) s ∧ Ends (exec (.drained p m) s) s) ∧
      (s.portUp p = true →
        Ends (exec (.stepReport p m) s) (State.tryReport { in_ with steps := { s.steps with kids := sput s.steps.kids p m } }) ∧
        Ends (exec (.drained p m) s)
          (State.tryDrained { in_ with steps := { s.steps with kidsDrain := sput s.steps.kidsDrain p m } }))) ∧
  (∀ s : State, s.Serves →
      let open_ : Prop := s.steps.phase ≠ .exec ∨ s.gn.running = false ∨ s.stepQuiet = false ∨ s.collDone = false
      (s.adm.active = none ∨ open_ → Ends (exec .stepClose s) s) ∧
      (∀ i, s.adm.active = some i → ¬open_ →
        let compared : State := if s.fpGroupNo = 0 then { s with steps := { s.steps with fpDone := true } }
          else if s.steps.fpSent then s.fpTry else (s.fpSend i).fpTry
        let own : StepMsg :=
          { step := compared.steps.step, cause := compared.steps.cause, count := 1, verdict := 0, ls := 0, run := 0 }
        (compared.steps.fpDone = false → Ends (exec .stepClose s) compared) ∧
        (compared.steps.fpDone = true → Ends (exec .stepClose s) (State.tryReport { compared with
          steps := { compared.steps with own := some own, phase := .reported, specAt := (i.specBase, i.specN) } })))) ∧
  (∀ s : State, s.Serves →
      (s.steps.undoTag = none → Ends (exec .undoDone s) s) ∧
      (∀ tag, s.steps.undoTag = some tag →
        let d := s.dropSpec tag
        let fetching := d.ray.reqs.any fun q => match q.want with
          | .repair _ _ => true
          | _ => false
        (s.dusk = true ∨ s.steps.phase ≠ .undoing ∨ s.xfers.any (·.tag == tag) = true → Ends (exec .undoDone s) s) ∧
        (s.dusk = false → s.steps.phase = .undoing → s.xfers.any (·.tag == tag) = false →
          (d.steps.verdict ≠ 2 ∨ d.steps.repairs = [] → Ends (exec .undoDone s) d.drained) ∧
          (d.steps.verdict = 2 → d.steps.repairs ≠ [] →
            Ends (exec .undoDone s) (if fetching then d else d.steps.repairs.foldl (fun s r => s.fetchEntry r.1 r.2) d))))) ∧
  (∀ (s : State) (n : Nat), s.Serves →
      let may : Prop := s.steps.phase = .drained ∧ n = s.steps.step ∧ s.steps.rollTo = false
      let go (f : State) : State :=
        let d := match f.steps.undoTag with
          | some tag => f.dropSpec tag
          | none => f
        let b := ({ d with steps := { freshStep d.steps 0 with
          phase := .exec, undoTag := none, resumed := none, failed := false } } : State).nextPass
        State.forSites { b with adm := { b.adm with mustWait := false } } fun s t => match s.streamOf t with
          | none => s.writeScalars t
          | some (i, r) => ((s.modTile t fun x =>
              { x with waitVerdict := false, decided := false, closed := false
                       reentry := if x.pos == r.proLen && x.pass > 0 && (s.stepTile i (s.tileOf t)).reLen > 0 then some 0
                         else x.reentry }).writeScalars t).reachNext t
      (¬may → Ends (exec (.resume n) s) s) ∧
      (∀ p, may → s.gn.master = false → s.gn.upstream = some p → Ends (exec (.resume n) s)
        (go ((s.ctrlIn p).stepDown 3 { step := n, cause := 0, count := 0, verdict := 0, ls := 0, run := 0 }))) ∧
      (may → s.gn.master = true → s.steps.resumed = some n → Ends (exec (.resume n) s) (go s)) ∧
      (may → s.gn.master = true → s.steps.resumed ≠ some n → Ends (exec (.resume n) s) s) ∧
      (may → s.gn.master = false → s.gn.upstream = none → Ends (exec (.resume n) s) s))

/-- Fingerprint pieces, memory and registers over the management channel complete. FP_PIECE of a member of the step's group
stores its entries in the member's bank, counts them, and tries the comparison; of another module it does nothing. MEM_READ
of 1 to 1,024 units at an address of whole units is answered with MEM_DATA of at most 496 bytes each, tagged bytes as 0xFF; a
malformed one, or one in Dusk, does nothing. MEM_DATA goes where its request asks: to a repair, which is checked once its
last bytes are in, to the search for a snapshot, or to the snapshot being restored. REG_REPLY goes to the access or the
partner's register that waits for it; without a request both do nothing. MGMT_REG_READ and MGMT_REG_WRITE of another module
are journalled under source 4,095, and then act and are answered while SESSION_POLICY[17] is set, or are answered with
ACCESS; a read of a register of one word on a tile page answers its value. -/
def Obligations.ManagementPathCompletes : Prop :=
  (∀ (s : State) (m : MgmtMsg), s.Serves →
      (∀ i l lm, s.adm.active = some i → s.ray.map = some l → l.findIdx? (· == m.src) = some lm →
        s.fpMembers.contains lm = true →
        let cnt := min (m.body.length / 8) 62
        let g := s.fpIndex lm
        let key := fpKey (m.arg / 2 ^ 32) g
        let w := s.modWrite (s.fpBank i g + 8 * (m.arg % 2 ^ 32)) (sound (m.body.take (8 * cnt)))
        Ends (exec (.fpPiece m) s)
          (State.fpTry { w with steps := { w.steps with fpGot := sput w.steps.fpGot key (sget 0 w.steps.fpGot key + cnt) } })) ∧
      (s.adm.active = none ∨ s.ray.map = none ∨ (∀ l, s.ray.map = some l → l.findIdx? (· == m.src) = none ∨
          ∃ lm, l.findIdx? (· == m.src) = some lm ∧ s.fpMembers.contains lm = false) → Ends (exec (.fpPiece m) s) s)) ∧
  (∀ (s : State) (m : MgmtMsg), s.Serves →
      let n := 64 * fieldAt m.body 0 2
      let a := m.arg % 2 ^ 48
      let good : Prop := a % 64 = 0 ∧ 0 < n ∧ n ≤ 65536
      let r := s.modRead a n
      (s.dusk = true ∨ ¬good → Ends (exec (.memRead m) s) s) ∧
      (s.dusk = false → good → Ends (exec (.memRead m) s) ((List.range (ceilDiv n 496)).foldl (fun s k =>
        s.sendMgmt m.src { op := 5, tag := m.tag, role := m.role, arg := a + 496 * k, src := 0
                           body := ((r.1.drop (496 * k)).take 496).map fun b => if b.poison then 0xFF else b.val }) r.2))) ∧
  (∀ (s : State) (m : MgmtMsg), s.Serves →
      let v := BitVec.ofNat 32 (fieldAt m.body 0 4)
      (s.reqOf m = none → Ends (exec (.memData m) s) s ∧ Ends (exec (.regReply m) s) s) ∧
      (∀ q, s.reqOf m = some q →
        let f := s.fetched q m.body.length
        (∀ e g, q.want = .repair e g →
          let r := (s.modWrite q.at_ (sound (m.body.take q.left))).fetched q m.body.length
          let more := r.2.ray.reqs.any fun x => match x.want with
            | .repair k _ => k == e
            | _ => false
          Ends (exec (.memData m) s) (if r.1 && !more then r.2.repairCheck e g else r.2) ∧ Ends (exec (.regReply m) s) s) ∧
        (∀ k, q.want = .head k →
          let noted : State := match s.logicalComing.bind fun k => headOf k m.body with
            | some x => { f.2 with pen := { f.2.pen with cands := f.2.pen.cands ++ [{ step := x.1, bytes := x.2, place := k }] } }
            | none => f.2
          Ends (exec (.memData m) s) noted.headsIn ∧ Ends (exec (.regReply m) s) s) ∧
        (∀ off, q.want = .restore off → Ends (exec (.memData m) s)
            { f.2 with pen := { f.2.pen with buf := sput f.2.pen.buf (off + q.at_) (sound m.body) } } ∧
          Ends (exec (.regReply m) s) s) ∧
        (∀ id k, q.want = .unit id k →
          Ends (exec (.regReply m) s) ((s.dropReq q.tag).compPart id k v) ∧ Ends (exec (.memData m) s) s) ∧
        (∀ r, q.want = .partner r →
          Ends (exec (.regReply m) s) ((s.dropReq q.tag).partnerReply r v) ∧ Ends (exec (.memData m) s) s) ∧
        (m.body.length < q.left → f = (false, { s with ray := { s.ray with reqs := s.ray.reqs.map fun x =>
          if x.tag == q.tag then { x with at_ := x.at_ + m.body.length, left := x.left - m.body.length } else x } })) ∧
        (q.left ≤ m.body.length → f = (true, { s with ray := { s.ray with reqs := s.ray.reqs.filter (·.tag != q.tag) } })))) ∧
  (∀ (s : State) (m : MgmtMsg), s.Serves →
      let page := relayPage m
      let off := relayOff m
      let o := Origin.relayed m.role
      let v := BitVec.ofNat 32 (fieldAt m.body 0 4)
      let entry (op : Nat) (d : List Byte) : JEnt :=
        s.entry (classOfOrigin o) 4095 op stPending d (regAddr page off) 0
      let rd := entry (if m.role == 0 then 0x02 else 0x01) (natLe 4 (regAddr page off))
      let wr := entry (if m.role == 0 then 0x01 else 0x02) (natLe 4 (regAddr page off) ++ natLe 4 v.toNat)
      let r := s.append rd
      let w := s.append wr
      let by_ := Asker.relay m.src m.tag m.role
      (s.flag mgmtPage 0x10C 17 = true →
        Ends (exec (.mgmtRegRead m) s) (r.2.readAny o by_ (some (r.1, rd)) page off) ∧
        Ends (exec (.mgmtRegWrite m) s) (w.2.writeAny o by_ (some (w.1, wr)) page off v) ∧
        (page < 0x480 → wideOf page off = none →
          (r.2.readAny o by_ (some (r.1, rd)) page off).out = s.out ++ [.mgmt m.src
            { op := 3, tag := m.tag, role := m.role, arg := 0, src := s.phys, body := natLe 4 (s.regValue page off).toNat }])) ∧
      (s.flag mgmtPage 0x10C 17 = false →
        Ends (exec (.mgmtRegRead m) s) (r.2.accessEnd by_ (some (r.1, rd)) stAccess none) ∧
        Ends (exec (.mgmtRegWrite m) s) (w.2.accessEnd by_ (some (w.1, wr)) stAccess none)))

/-- A host load or store completes. While the harts are in reset or the module in Dusk it does nothing. In register space one
of another size or alignment is a fault of the hart; a load of a page that no table assigns gives the poison pattern and the
address on the host's page, and of another page reads the register; a store is an order. In memory that the seal allows, a
load is answered from the stack controllers, and a store goes to the Shade. In a PCIe window or configuration space it goes
to the endpoint, in the host complex's own space it stays there, and elsewhere it is a fault of the hart. A load of a
register of one word on a tile page answers its value, and a store to EVT_ENABLE of a tile with a closed switch sets it. -/
def Obligations.HostAccessesComplete : Prop :=
  ∀ (s : State) (h addr : Nat), h < 32 → s.Serves →
    let page := regPageOf addr
    let off := regOffOf addr
    (∀ len d, s.host.inReset = true ∨ s.dusk = true →
      Ends (exec (.hostLoad h addr len) s) s ∧ Ends (exec (.hostStore h addr d) s) s) ∧
    (s.host.inReset = false → s.dusk = false →
      (∀ len, isRegSpace addr = true → len ≠ 4 ∨ addr % 4 ≠ 0 → Ends (exec (.hostLoad h addr len) s) (s.say (.hartFault h addr))) ∧
      (∀ d, isRegSpace addr = true → d.length ≠ 4 ∨ addr % 4 ≠ 0 →
        Ends (exec (.hostStore h addr d) s) (s.say (.hartFault h addr))) ∧
      (isRegSpace addr = true → addr % 4 = 0 → pageAssigned page = false → Ends (exec (.hostLoad h addr 4) s)
        ((s.addrFault (.host h) addr).say (.hartLoad h (List.replicate 4 ⟨0xFF, true⟩)))) ∧
      (isRegSpace addr = true → addr % 4 = 0 → pageAssigned page = true →
        Ends (exec (.hostLoad h addr 4) s) (s.readAny (.hart h) (.load h) none page off) ∧
        (page < 0x480 → wideOf page off = none →
          s.readAny (.hart h) (.load h) none page off = s.say (.hartLoad h (sound (natLe 4 (s.regValue page off).toNat))))) ∧
      (∀ d, isRegSpace addr = true → d.length = 4 → addr % 4 = 0 →
        let u := s.order (.hart h) page off (BitVec.ofNat 32 (leNat d))
        Ends (exec (.hostStore h addr d) s) u ∧
        (page < 0x480 → off = offEvtEn → s.spare.opened.contains (page / 36) = false →
          u.rdN page offEvtEn &&& 0x3FFFF = leNat d &&& 0x3FFFF ∧ u.host.nextSeq = s.host.nextSeq + 1 ∧
          u.tiles = s.tiles ∧ u.mem = s.mem)) ∧
      (∀ len, isRegSpace addr = false → s.hostMem addr len = true →
        let r := s.readStack addr len (.host h)
        Ends (exec (.hostLoad h addr len) s) (r.2.say (.hartLoad h r.1))) ∧
      (∀ d, isRegSpace addr = false → s.hostMem addr d.length = true →
        Ends (exec (.hostStore h addr d) s) (s.devWrite addr (sound d) 5 (.host h))) ∧
      (∀ len d p, isRegSpace addr = false → s.hostMem addr len = false → s.hostMem addr d.length = false →
        endpointPort addr = some p → Ends (exec (.hostLoad h addr len) s) (s.say (.endpoint p addr)) ∧
          Ends (exec (.hostStore h addr d) s) (s.say (.endpoint p addr))) ∧
      (∀ len d, isRegSpace addr = false → s.hostMem addr len = false → s.hostMem addr d.length = false →
        endpointPort addr = none →
          let u := if isHostOwn addr then s else s.say (.hartFault h addr)
          Ends (exec (.hostLoad h addr len) s) u ∧ Ends (exec (.hostStore h addr d) s) u))

/-- COMMAND_FETCH completes: the next ring's command is read, journalled under the next SEQ, and waits, and the ring's fetch
index rises; a malformed one has the outcome FORMAT and raises CMD_FORMAT; in Dusk, or where no ring may be served, nothing
happens. NOP, FENCE_ALL, REG_READ, REG_WRITE, WRITE_INLINE, COPY, FLUSH and JOURNAL_COPY of a ring complete: started, they
have their effect and the outcome OK, or ADDRESS without an effect for a range outside the memory that their row names; a
copy of poisoned bytes has the outcome POISON. One that may not start does nothing, and neither does a store, a copy, a flush
or a journal copy whose memory cannot take it now. Doorbells and RING_CTL are orders; of an originator that is no debug
session they set the SQ tail or the CQ head of the ring that the value names, enable it from a sound control block, and
disable it, once no command of it is open. -/
def Obligations.RingFamilyCompletes : Prop :=
  (∀ s : State, s.Serves →
      (s.dusk = true ∨ s.nextRing = none → Ends (exec .commandFetch s) s) ∧
      (∀ n r, s.dusk = false → s.nextRing = some n → s.ring n = some r →
        let got := s.modRead (r.rcb.sqBase + 256 * (r.fetch % 2 ^ r.rcb.logSq)) 256
        let c : Cmd := { seq := s.host.nextSeq, ring := n, idx := r.fetch, bytes := got.1.map (·.val) }
        let app := got.2.append (got.2.cmdEntry c)
        let moved := app.2.setRing n { r with fetch := (r.fetch + 1) % 65536 }
        let u : State := { moved with host := { moved.host with cmds := moved.host.cmds ++ [c], lastRing := n } }
        Ends (exec .commandFetch s) (if cmdOk c then u else (u.raise hostPage 3).cmdDone s.host.nextSeq stFormat 0))) ∧
  (∀ (s : State) (seq : Nat) (c : Cmd),
      let g := s.setCmd { c with started := true }
      let ends (u : State) (st result : Nat) : State := u.cmdDone c.seq st result
      (s.Starts seq 0x00 c → Ends (exec (.cmdNop seq) s) (ends g stOk 0)) ∧
      (s.Starts seq 0x06 c → Ends (exec (.fenceAll seq) s) (ends g stOk 0)) ∧
      (s.Starts seq 0x02 c →
        Ends (exec (.cmdRegRead seq) s) (g.readAny (.ring c.ring) (.cmd c.seq) none c.regPage c.regOff) ∧
        (c.regPage < 0x480 → wideOf c.regPage c.regOff = none →
          g.readAny (.ring c.ring) (.cmd c.seq) none c.regPage c.regOff = ends g stOk (s.regValue c.regPage c.regOff).toNat)) ∧
      (s.Starts seq 0x01 c →
        let u := g.writeAny (.ring c.ring) (.cmd c.seq) none c.regPage c.regOff (BitVec.ofNat 32 (c.arg 1))
        Ends (exec (.cmdRegWrite seq) s) u ∧
        (c.regPage < 0x480 → c.regOff = offEvtEn → s.spare.opened.contains (c.regPage / 36) = false →
          u.Answers seq stOk 0 ∧ u.rdN c.regPage offEvtEn &&& 0x3FFFF = c.arg 1 &&& 0x3FFFF ∧ u.tiles = s.tiles ∧ u.mem = s.mem)) ∧
      (s.Starts seq 0x03 c →
        (inStacks (c.arg 0) c.len = true → s.rangeReady (c.arg 0) c.len = true → Ends (exec (.writeInline seq) s)
          (ends (g.devWrite (c.arg 0) (sound c.payload) 5 (.host (1024 + c.ring))) stOk 0)) ∧
        (inStacks (c.arg 0) c.len = true → s.rangeReady (c.arg 0) c.len = false → Ends (exec (.writeInline seq) s) s) ∧
        (inStacks (c.arg 0) c.len = false → Ends (exec (.writeInline seq) s) (ends g stAddress 0))) ∧
      (s.Starts seq 0x04 c →
        let n := c.arg 2
        let ok : Prop := inStacks (c.arg 0) n = true ∧ inStacks (c.arg 1) n = true
        let ready : Prop := s.rangeReady (c.arg 0) n = true ∧ s.rangeReady (c.arg 1) n = true
        let r := g.modRead (c.arg 0) n
        (ok → ready → Ends (exec (.copy seq) s)
          (ends (r.2.modWrite (c.arg 1) r.1) (if r.1.any (·.poison) then stPoison else stOk) 0)) ∧
        (ok → ¬ready → Ends (exec (.copy seq) s) s) ∧
        (¬ok → Ends (exec (.copy seq) s) (ends g stAddress 0))) ∧
      (s.Starts seq 0x05 c →
        (s.dusk = true → Ends (exec (.flush seq) s) s) ∧
        (s.dusk = false → s.inDevMem (c.arg 0) (c.arg 1) = true → Ends (exec (.flush seq) s)
          (ends ((g.dirtyIn (c.arg 0) (c.arg 1)).foldl State.cleanLine g) stOk 0)) ∧
        (s.dusk = false → s.inDevMem (c.arg 0) (c.arg 1) = false → Ends (exec (.flush seq) s) (ends g stAddress 0))) ∧
      (s.Starts seq 0x09 c →
        let n := c.arg 1
        (s.dusk = true → Ends (exec (.journalCopy seq) s) s) ∧
        (s.dusk = false → s.inHost (c.arg 2) (64 * n) = true → Ends (exec (.journalCopy seq) s)
          (ends ((List.range n).foldl (fun s i => s.modWrite (c.arg 2 + 64 * i) (sound (s.jShow (c.arg 0 + i)))) g) stOk
            ((List.range n).countP fun i => s.jState (c.arg 0 + i) == 0))) ∧
        (s.dusk = false → s.inHost (c.arg 2) (64 * n) = false → Ends (exec (.journalCopy seq) s) (ends g stAddress 0)))) ∧
  (∀ (s : State) (seq : Nat), s.Serves →
      let not_ (op : Nat) : Prop := ∀ c, s.cmd seq = some c → c.opcode ≠ op ∨ c.started = true ∨ s.mayStart c = false
      (not_ 0x00 → Ends (exec (.cmdNop seq) s) s) ∧ (not_ 0x06 → Ends (exec (.fenceAll seq) s) s) ∧
      (not_ 0x02 → Ends (exec (.cmdRegRead seq) s) s) ∧ (not_ 0x01 → Ends (exec (.cmdRegWrite seq) s) s) ∧
      (not_ 0x03 → Ends (exec (.writeInline seq) s) s) ∧ (not_ 0x04 → Ends (exec (.copy seq) s) s) ∧
      (not_ 0x05 → Ends (exec (.flush seq) s) s) ∧ (not_ 0x09 → Ends (exec (.journalCopy seq) s) s)) ∧
  (∀ (s : State) (o : Origin) (v : Word), s.Serves →
      let n := bits v.toNat 9 0
      let value (hi lo x : Nat) : Word := BitVec.ofNat 32 (setBits v.toNat hi lo x)
      let sq := s.order o hostPage 0x10C (value 10 10 0)
      let cq := s.order o hostPage 0x10C (value 10 10 1)
      let on := s.order o hostPage 0x108 (value 17 16 1)
      let off := s.order o hostPage 0x108 (value 17 16 2)
      Ends (exec (.sqDoorbell o v) s) sq ∧ Ends (exec (.cqDoorbell o v) s) cq ∧ Ends (exec (.ringEnable o v) s) on ∧
      Ends (exec (.ringDisable o v) s) off ∧
      (anyButDebug (roleOf o) = true →
        let got := (s.accept o hostPage 0x108 (value 17 16 1)).2.2.modRead (s.rcbTable + 64 * n) 64
        let others (u : State) : Prop := ∀ m, m ≠ n → u.ring m = s.ring m
        (∀ r, s.ring n = some r → r.stopping = false →
          sq.ring n = some { r with tail := bits v.toNat 31 16 } ∧ others sq ∧ sq.mem = s.mem) ∧
        (∀ r, s.ring n = some r → r.stopping = false → (∀ c ∈ s.cmdsOf n, c.noted = false) →
          cq.ring n = some { r with head := (r.head + (bits v.toNat 31 16 + 65536 - r.head % 65536) % 65536) % 2 ^ 17 } ∧
          others cq ∧ cq.mem = s.mem) ∧
        (s.ring n = none → s.hostAttached = true → s.inHost (s.rcbTable + 64 * n) 64 = false →
          on.ring n = none ∧ on.flag hostPage offEvt 3 = true) ∧
        (∀ rcb, s.ring n = none → s.hostAttached = true → s.inHost (s.rcbTable + 64 * n) 64 = true →
          got.2.parseRcb (got.1.map (·.val)) = some rcb → on.ring n = some { rcb := rcb } ∧ others on) ∧
        (s.ring n = none → s.hostAttached = true → s.inHost (s.rcbTable + 64 * n) 64 = true →
          got.2.parseRcb (got.1.map (·.val)) = none → on.ring n = none ∧ on.flag hostPage offEvt 3 = true) ∧
        (s.ring n = none → s.hostAttached = false → on.ring n = none) ∧
        (∀ r, s.ring n = some r → r.stopping = true → on.ring n = some { r with again := true }) ∧
        (∀ r, s.ring n = some r → s.cmdsOf n = [] → off.ring n = none ∧ others off)))

/-- RESIDENCY of a ring completes: it is REFUSED for a block that may not move to that tier, has the result 2 for one that is
there, and else asks for the move with which it will complete. COMMAND_COMPLETE completes: in Dusk, or for a command without
an outcome, it does nothing; else the outcome is journalled once, and the completion entry is posted and the command gone;
the command is gone without an entry where it asks for none, is silent, or its ring is gone; and while no slot of the queue
is free the entry is held and CQ_FULL raised. -/
def Obligations.ResidencyAndCompletionComplete : Prop :=
  (∀ (s : State) (seq : Nat) (c : Cmd), s.Starts seq 0x08 c →
      let b := bits (c.arg 0) 17 0
      let tier := bits (c.arg 0) 19 18
      let e := s.resEnt b
      let g := s.setCmd { c with started := true }
      let page := stackPage 0
      let may : Prop := (tier = 1 ∨ (tier = 2 ∧ e.slowHome = true)) ∧ e.tier ≠ 0 ∧ e.tier ≠ 3 ∧ e.visited = false
      (¬may → Ends (exec (.residency seq) s) ((g.setField page 0x184 2 1 1).cmdDone c.seq stRefused 1)) ∧
      (may → e.tier = tier → e.moving = false →
        Ends (exec (.residency seq) s) ((g.setField page 0x184 2 1 2).cmdDone c.seq stOk 2)) ∧
      (may → e.tier ≠ tier ∨ e.moving = true → Ends (exec (.residency seq) s)
        ((g.setFlag page 0x184 0 true).askMove { block := b, target := tier, requested := true, seq := some c.seq }))) ∧
  (∀ (s : State) (seq : Nat), s.Serves →
      (∀ c, s.cmd seq = some c → c.opcode ≠ 0x08 ∨ c.started = true ∨ s.mayStart c = false → Ends (exec (.residency seq) s) s) ∧
      (s.dusk = true ∨ s.cmd seq = none ∨ (∃ c, s.cmd seq = some c ∧ c.done = none) → Ends (exec (.commandComplete seq) s) s)) ∧
  (∀ (s : State) (seq st result : Nat) (c : Cmd), s.Serves → s.dusk = false → s.cmd seq = some c → c.done = some (st, result) →
      let n := if c.noted then s else (s.jFinish seq st result (s.cmdEntry c)).setCmd { c with noted := true }
      let gone (u : State) : State :=
        ({ u with host := { u.host with cmds := u.host.cmds.filter (·.seq != c.seq) } } : State).ringSettle c.ring
      let silent : Prop := s.ring c.ring = none ∨ c.silent = true ∨ bit (fieldAt c.bytes 0 4) 10 = true
      (silent → Ends (exec (.commandComplete seq) s) (gone n)) ∧
      (∀ r, s.ring c.ring = some r → ¬silent →
        let size := 2 ^ r.rcb.logCq
        let used := (r.cq + 2 ^ 17 - r.head) % 2 ^ 17
        let entry := natLe 4 (fieldAt c.bytes 4 4) ++ natLe 4 (st + c.idx * 2 ^ 16) ++ natLe 8 c.seq ++ natLe 8 result ++
          natLe 8 (1 - r.cq / size % 2 + c.ring * 2 ^ 16)
        let posted := (n.modWrite (r.rcb.cqBase + 32 * (r.cq % size)) (sound entry)).setRing c.ring
          { r with cq := (r.cq + 1) % 2 ^ 17 }
        (size ≤ used → Ends (exec (.commandComplete seq) s) (n.raise hostPage 7)) ∧
        (used < size → Ends (exec (.commandComplete seq) s)
          (gone (if bit (fieldAt c.bytes 0 4) 9 then posted.say (.msi r.rcb.msiAddr r.rcb.msiData) else posted)))))

/-- QP_CREATE, QP_MODIFY, QP_DESTROY, MR_REG, MR_DEREG and RDMA_POST complete: the queue pair or region takes what the
command gives it. QP_MODIFY goes from INIT or ERROR to RTR, from RTR to RTS, and from any state but RESET to ERROR, in which
its operations end. QP_DESTROY waits for open operations. A command that the queue pair's state does not allow is REFUSED, a
region or an operand outside the stacks an ADDRESS error, and a READ waits while 16 are outstanding. One that may not start
does nothing. -/
def Obligations.QueuePairCommandsComplete : Prop :=
  (∀ (s : State) (seq : Nat) (c : Cmd),
      let n := c.arg 0 % 2048
      let q := s.qp n
      let goal := bits (c.arg 0) 18 16
      let p := slice c.payload 0 0x38
      let i := c.arg 2 % 4096
      let g := s.setCmd { c with started := true }
      let ends (u : State) (st result : Nat) : State := u.cmdDone c.seq st result
      (s.Starts seq 0x10 c →
        (q.state = 0 ∨ q.state = 4 → Ends (exec (.qpCreate seq) s) (ends (g.setQp n { state := 1, attrs := p }) stOk 0)) ∧
        (q.state ≠ 0 → q.state ≠ 4 → Ends (exec (.qpCreate seq) s) (ends g stRefused 0))) ∧
      (s.Starts seq 0x11 c →
        (goal = 2 → q.state = 1 ∨ q.state = 4 → Ends (exec (.qpModify seq) s)
          (ends (g.setQp n { q with state := 2, attrs := patch q.attrs 0 (p.take 0x30), expPsn := fieldAt p 0x24 3, ops := [],
                                    tries := 0 }) stOk 0)) ∧
        (goal = 3 → q.state = 2 → Ends (exec (.qpModify seq) s)
          (ends (g.setQp n { q with state := 3, attrs := patch q.attrs 0x30 ((p.drop 0x30).take 8),
                                    sendPsn := fieldAt p 0x30 3 }) stOk 0)) ∧
        (goal = 4 → q.state ≠ 0 → Ends (exec (.qpModify seq) s) (ends (g.qpError n) stOk 0)) ∧
        (¬(goal = 2 ∧ (q.state = 1 ∨ q.state = 4)) → ¬(goal = 3 ∧ q.state = 2) → ¬(goal = 4 ∧ q.state ≠ 0) →
          Ends (exec (.qpModify seq) s) (ends g stRefused 0))) ∧
      (s.Starts seq 0x12 c →
        let leaving := g.setQp n { q with leaving := some c.seq }
        (q.state = 0 → Ends (exec (.qpDestroy seq) s) (ends g stRefused 0)) ∧
        (q.state ≠ 0 → q.ops = [] → Ends (exec (.qpDestroy seq) s)
          (ends { leaving with host := { leaving.host with qps := sdel leaving.host.qps n } } stOk 0)) ∧
        (q.state ≠ 0 → q.ops ≠ [] → Ends (exec (.qpDestroy seq) s) leaving)) ∧
      (s.Starts seq 0x13 c →
        let gen := ((s.mr i).gen + 1) % 2 ^ 20
        let m : Mr := { gen := gen, valid := true, start := c.arg 0, len := c.arg 1, write := bit (c.arg 2) 12,
                        read := bit (c.arg 2) 13 }
        (inStacks (c.arg 0) (c.arg 1) = true → Ends (exec (.mrReg seq) s)
          (ends { g with host := { g.host with mrs := sput g.host.mrs i m } } stOk (i + gen * 4096))) ∧
        (inStacks (c.arg 0) (c.arg 1) = false → Ends (exec (.mrReg seq) s) (ends g stAddress 0))) ∧
      (s.Starts seq 0x14 c → Ends (exec (.mrDereg seq) s)
        (ends { g with host := { g.host with mrs := sput g.host.mrs i { s.mr i with valid := false } } } stOk 0)) ∧
      (s.Starts seq 0x15 c →
        let write := bit (c.arg 0) 16
        let full : Prop := write = false ∧ 16 ≤ (q.ops.filter fun o => !o.write).length
        let good : Prop := inStacks (c.arg 1) (c.arg 2) = true ∧ 0 < c.arg 2 ∧ c.arg 2 ≤ 2 ^ 31
        let numbered : State := { g with nextId := s.nextId + 1 }
        let got := if write then numbered.modRead (c.arg 1) (c.arg 2) else ([], numbered)
        (full → Ends (exec (.rdmaPost seq) s) s) ∧
        (¬full → q.state ≠ 3 → Ends (exec (.rdmaPost seq) s) (ends g stRefused 0)) ∧
        (¬full → q.state = 3 → ¬good → Ends (exec (.rdmaPost seq) s) (ends g stAddress 0)) ∧
        (¬full → q.state = 3 → good → Ends (exec (.rdmaPost seq) s) (got.2.postOp n
          { id := s.nextId, write := write, local_ := c.arg 1, len := c.arg 2, remote := fieldAt c.payload 0 8
            key := fieldAt c.payload 8 4, psn := 0, data := got.1, seq := some c.seq })))) ∧
  (∀ (s : State) (n : Nat) (o : RdmaOp),
      let q := s.qp n
      let u := s.postOp n o
      (u.qp n).ops.map (·.id) = q.ops.map (·.id) ++ [o.id] ∧
      (u.qp n).sendPsn = (q.sendPsn + q.packets o.len) % 2 ^ 24 ∧ (∀ k, k ≠ n → u.qp k = s.qp k) ∧ u.mem = s.mem ∧ u.tiles = s.tiles) ∧
  (∀ (s : State) (n : Nat),
      let u := s.qpError n
      (s.qp n).state ≠ 4 → (s.qp n).leaving = none → (s.qp n).ops = [] → u.qp n = { s.qp n with state := 4 } ∧
      (∀ k, k ≠ n → u.qp k = s.qp k) ∧ u.flag (fePage (s.qp n).port) offEvt 2 = true) ∧
  (∀ (s : State) (seq : Nat), s.Serves →
      let not_ (op : Nat) : Prop := ∀ c, s.cmd seq = some c → c.opcode ≠ op ∨ c.started = true ∨ s.mayStart c = false
      (not_ 0x10 → Ends (exec (.qpCreate seq) s) s) ∧ (not_ 0x11 → Ends (exec (.qpModify seq) s) s) ∧
      (not_ 0x12 → Ends (exec (.qpDestroy seq) s) s) ∧ (not_ 0x13 → Ends (exec (.mrReg seq) s) s) ∧
      (not_ 0x14 → Ends (exec (.mrDereg seq) s) s) ∧ (not_ 0x15 → Ends (exec (.rdmaPost seq) s) s))

/-- INTAKE_SET, INTAKE_RESUME and INTAKE_OFF complete: a sound plan is in force and the engine on, with the reads of an
earlier plan given up; a plan outside host memory is an ADDRESS and an unsound one a FORMAT error; intake that has stalled
issues its reads again; and intake is off, at once, or once the reads in progress are done. INTAKE_START completes: intake
that is on and has not stalled starts the first of the step in progress and the next that has not started, and issues what
may be issued. INTAKE_READ_DONE completes: a failed read stalls the engine, with its queue pair in ERROR; a read that has its
bytes leaves with its operation, its step is complete with its last read, an INTAKE_OFF that waited for it completes, and
what may be issued is; one that has not does nothing. -/
def Obligations.IntakeFamilyCompletes : Prop :=
  (∀ (s : State) (seq : Nat) (c : Cmd),
      let g := s.setCmd { c with started := true }
      let k := s.host.intake
      let intake (u : State) (x : Intake) : State := { u with host := { u.host with intake := x } }
      let r := g.modRead (c.arg 0) 320
      (s.Starts seq 0x18 c →
        (s.dusk = true → Ends (exec (.intakeSet seq) s) s) ∧
        (s.dusk = false → s.inHost (c.arg 0) 320 = false → Ends (exec (.intakeSet seq) s) (g.cmdDone c.seq stAddress 0)) ∧
        (s.dusk = false → s.inHost (c.arg 0) 320 = true → r.2.parsePlan (r.1.map (·.val)) = none →
          Ends (exec (.intakeSet seq) s) (r.2.cmdDone c.seq stFormat 0)) ∧
        (∀ p, s.dusk = false → s.inHost (c.arg 0) 320 = true → r.2.parsePlan (r.1.map (·.val)) = some p →
          Ends (exec (.intakeSet seq) s)
            ((((intake r.2.dropIntake { plan := some p, on := true }).setFlag hostPage offStatus 2 true).setFlag
              hostPage offStatus 3 false).cmdDone c.seq stOk 0))) ∧
      (s.Starts seq 0x19 c →
        (k.stalled = false → Ends (exec (.intakeResume seq) s) (g.cmdDone c.seq stOk 0)) ∧
        (k.stalled = true →
          let ids := s.host.qps.foldl (fun acc e => acc ++ e.2.ops.map (·.id)) []
          Ends (exec (.intakeResume seq) s) ((((intake g { k with
            stalled := false, reads := k.reads.map fun r => { r with issued := r.issued && ids.contains r.id } }).setFlag
              hostPage offStatus 3 false).issueReads).cmdDone c.seq stOk 0))) ∧
      (s.Starts seq 0x1A c →
        let off := g.setFlag hostPage offStatus 2 false
        (k.reads.any (·.issued) = false → Ends (exec (.intakeOff seq) s)
          ((intake off { k with on := false, reads := [], started := [] }).cmdDone c.seq stOk 0)) ∧
        (k.reads.any (·.issued) = true → Ends (exec (.intakeOff seq) s)
          (intake off { k with on := false, offSeq := some c.seq })))) ∧
  (∀ (s : State) (seq : Nat), s.Serves →
      let not_ (op : Nat) : Prop := ∀ c, s.cmd seq = some c → c.opcode ≠ op ∨ c.started = true ∨ s.mayStart c = false
      (not_ 0x18 → Ends (exec (.intakeSet seq) s) s) ∧ (not_ 0x19 → Ends (exec (.intakeResume seq) s) s) ∧
      (not_ 0x1A → Ends (exec (.intakeOff seq) s) s)) ∧
  (∀ s : State, s.Serves →
      let k := s.host.intake
      let next := [s.steps.step, s.steps.step + 1].find? fun t => !k.started.contains t && !k.complete.contains t
      (k.plan = none ∨ k.on = false ∨ k.stalled = true → Ends (exec .intakeStart s) s) ∧
      (∀ p, k.plan = some p → k.on = true → k.stalled = false →
        (next = none → Ends (exec .intakeStart s) s.issueReads) ∧
        (∀ t, next = some t →
          let rs := (p.ranges.zip (List.range p.ranges.length)).foldl (fun acc x =>
            acc ++ s.rangeReads p t x.2 x.1 (x.1.count * p.recBytes / 64 + 1) 0) []
          let named := (rs.zip (List.range rs.length)).map fun x => { x.1 with id := s.nextId + x.2 }
          Ends (exec .intakeStart s) (State.issueReads { s with
            nextId := s.nextId + rs.length
            host := { s.host with intake := { k with reads := k.reads ++ named, started := k.started ++ [t] } } })))) ∧
  (∀ (s : State) (id : Nat), s.Serves →
      (s.host.intake.reads.find? (fun r => r.id == id && r.issued) = none → ∀ ok, Ends (exec (.intakeReadDone id ok) s) s) ∧
      (∀ r, s.host.intake.reads.find? (fun r => r.id == id && r.issued) = some r →
        let q := s.qp r.qpn
        let out := (s.setQp r.qpn { q with ops := q.ops.filter (·.id != id) }).qpSettle r.qpn
        let settled := ({ out with host := { out.host with intake := { out.host.intake with
          reads := out.host.intake.reads.filter (·.id != id) } } } : State).intakeSettle r.step
        let h := settled.host.intake
        (q.state = 4 ∨ q.state = 0 → Ends (exec (.intakeReadDone id false) s) (s.intakeStall r.qpn r.range)) ∧
        (q.state ≠ 4 → q.state ≠ 0 → Ends (exec (.intakeReadDone id false) s) (s.qpError r.qpn)) ∧
        (q.ops.any (fun o => o.id == id && o.got ≥ o.len) = false → Ends (exec (.intakeReadDone id true) s) s) ∧
        (q.ops.any (fun o => o.id == id && o.got ≥ o.len) = true →
          (h.offSeq = none ∨ h.reads.any (·.issued) = true → Ends (exec (.intakeReadDone id true) s) settled.issueReads) ∧
          (∀ seq, h.offSeq = some seq → h.reads.any (·.issued) = false → Ends (exec (.intakeReadDone id true) s)
            (State.issueReads (({ settled with host := { settled.host with intake :=
              { h with offSeq := none, reads := [], started := [] } } } : State).cmdDone seq stOk 0)))))) ∧
  (∀ (s : State) (t : Nat),
      let k := s.host.intake
      (k.started.contains t = true → k.reads.any (·.step == t) = false → (s.intakeSettle t).host.intake = { k with
        started := k.started.filter (· != t), complete := (k.complete ++ [t]).filter (s.steps.step ≤ · + 1)
        top := some (max t (k.top.getD 0)) }) ∧
      (k.started.contains t = false ∨ k.reads.any (·.step == t) = true → s.intakeSettle t = s))

/-- RDMA packets complete at a port with a sound check value. A WRITE or READ in order of a queue pair that takes requests,
with a key for its range, is placed and acknowledged, or answered with its data, and the expected number goes on; one out of
order is answered with a NAK, an earlier WRITE is acknowledged and an earlier READ served again; without a key the queue pair
goes to ERROR. The response next in order to a READ is placed at its local address, and ends it when it is whole. An
acknowledgement ends the WRITEs that it covers. A NAK of an error moves the queue pair to ERROR, and another sends again
from its number on, as a timeout does until its retries are used. A CNP halves the rate limit, and 55 µs without one raise it.
A pause holds a priority of its port, and its end releases it. A packet with a bad check value is counted alone, and one in
Dusk, or for a home slice that cannot take it, waits outside. -/
def Obligations.RdmaFamilyCompletes : Prop :=
  (∀ (s : State) (k : RocePkt), k.port < 2 → s.Serves → s.dusk = false →
      let q := s.qp k.qpn
      let page := fePage k.port
      let rx := s.bump64 page 0x48 k.data.length
      let bad := ((rx.bump64 page 0x68).bumpSat page offErrCount).raise page 3
      let x := rx.ecn k
      let takes : Prop := k.icrcOk = true ∧ (q.state = 2 ∨ q.state = 3) ∧ q.port = k.port
      let ahead := (k.psn + 2 ^ 24 - q.expPsn) % 2 ^ 24
      let next (n : Nat) : State := x.setQp k.qpn { q with expPsn := (q.expPsn + n) % 2 ^ 24 }
      let place (u : State) : State := (u.devWrite k.addr (sound k.data) 5 (.fe k.port)).say (.roce k.qpn 0 k.psn [])
      let serve (u : State) : State :=
        let r := u.devRead k.addr k.len 5 (.fe k.port) false false
        (r.2.2.bump64 page 0x40 k.len).say (.roce k.qpn 3 k.psn r.1)
      let denied := ((x.say (.roce k.qpn 2 k.psn [])).raise page 4).qpError k.qpn
      (s.rangeReady k.addr k.data.length = false → Ends (exec (.rdmaWriteRequest k) s) s) ∧
      (s.rangeReady k.addr k.data.length = true →
        (k.icrcOk = false → Ends (exec (.rdmaWriteRequest k) s) bad) ∧
        (k.icrcOk = true → ¬takes → Ends (exec (.rdmaWriteRequest k) s) rx) ∧
        (takes → ahead = 0 → x.mrOk k.key k.addr k.len true = true → Ends (exec (.rdmaWriteRequest k) s) (place (next 1))) ∧
        (takes → ahead = 0 → x.mrOk k.key k.addr k.len true = false → Ends (exec (.rdmaWriteRequest k) s) denied) ∧
        (takes → ahead ≠ 0 → ahead < 2 ^ 23 → Ends (exec (.rdmaWriteRequest k) s) (x.say (.roce k.qpn 1 q.expPsn []))) ∧
        (takes → 2 ^ 23 ≤ ahead → Ends (exec (.rdmaWriteRequest k) s) (x.say (.roce k.qpn 0 k.psn [])))) ∧
      (s.rangeReady k.addr k.len = false → Ends (exec (.rdmaReadRequest k) s) s) ∧
      (s.rangeReady k.addr k.len = true →
        (k.icrcOk = false → Ends (exec (.rdmaReadRequest k) s) bad) ∧
        (k.icrcOk = true → ¬takes → Ends (exec (.rdmaReadRequest k) s) rx) ∧
        (takes → ahead = 0 → x.mrOk k.key k.addr k.len false = true →
          Ends (exec (.rdmaReadRequest k) s) (serve (next (q.packets k.len)))) ∧
        (takes → ahead = 0 → x.mrOk k.key k.addr k.len false = false → Ends (exec (.rdmaReadRequest k) s) denied) ∧
        (takes → ahead ≠ 0 → ahead < 2 ^ 23 → Ends (exec (.rdmaReadRequest k) s) (x.say (.roce k.qpn 1 q.expPsn []))) ∧
        (takes → 2 ^ 23 ≤ ahead → x.mrOk k.key k.addr k.len false = true → Ends (exec (.rdmaReadRequest k) s) (serve x)) ∧
        (takes → 2 ^ 23 ≤ ahead → x.mrOk k.key k.addr k.len false = false → Ends (exec (.rdmaReadRequest k) s) x))) ∧
  (∀ (s : State) (k : RocePkt) (o : RdmaOp), k.port < 2 → s.Serves → s.dusk = false → k.icrcOk = true →
      let q := s.qp k.qpn
      let rx := s.bump64 (fePage k.port) 0x48 k.data.length
      let d := k.data.take (o.len - o.got)
      q.state = 3 → q.port = k.port → (q.ops.find? fun o => !o.write && o.got < o.len) = some o →
      (o.hold = none → s.rangeReady (o.local_ + o.got) k.data.length = false → Ends (exec (.rdmaReadResponse k) s) s) ∧
      (o.hold.isSome = true ∨ s.rangeReady (o.local_ + o.got) k.data.length = true →
        ((o.psn + o.got / q.mtu) % 2 ^ 24 ≠ k.psn → Ends (exec (.rdmaReadResponse k) s) rx) ∧
        ((o.psn + o.got / q.mtu) % 2 ^ 24 = k.psn →
          let x := rx.ecn k
          let put := if o.hold.isSome then x else x.devWrite (o.local_ + o.got) (sound d) 5 (.fe k.port)
          let o' := { o with got := o.got + d.length, data := if o.hold.isSome then o.data ++ sound d else o.data }
          let ended := put.setQp k.qpn { q with ops := q.ops.filter (·.id != o.id), tries := 0 }
          let told := match o.seq with
            | some seq => ended.cmdDone seq stOk 0
            | none => ended
          let held := match o.hold with
            | some key => told.holdData key o'.data
            | none => told
          (o.len ≤ o'.got → o.intake = false → Ends (exec (.rdmaReadResponse k) s) (held.qpSettle k.qpn)) ∧
          (o'.got < o.len ∨ o.intake = true → Ends (exec (.rdmaReadResponse k) s) (put.setQp k.qpn
            { q with ops := q.ops.map (fun y => if y.id == o.id then o' else y), tries := 0 }))))) ∧
  (∀ (s : State) (k : RocePkt), k.port < 2 → s.Serves →
      let q := s.qp k.qpn
      let page := fePage k.port
      let rx := s.bump64 page 0x48 k.data.length
      let bad := ((rx.bump64 page 0x68).bumpSat page offErrCount).raise page 3
      let covers (o : RdmaOp) : Bool := o.write && (k.psn + 2 ^ 24 - (o.psn + q.packets o.len - 1)) % 2 ^ 24 < 2 ^ 23
      let told := (q.ops.filter covers).foldl (fun s o => match o.seq with
        | some seq => s.cmdDone seq stOk 0
        | none => s) rx
      let runs (c : Instr) (u : State) : Prop := Ends (exec c s) u
      (s.dusk = true → runs (.roceAck k) s ∧ runs (.roceNak k true) s ∧ runs (.roceNak k false) s ∧ runs (.cnp k) s) ∧
      (s.dusk = false → k.icrcOk = false →
        runs (.roceAck k) bad ∧ runs (.roceNak k true) bad ∧ runs (.roceNak k false) bad ∧ runs (.cnp k) bad) ∧
      (s.dusk = false → k.icrcOk = true → q.port ≠ k.port →
        runs (.roceAck k) rx ∧ runs (.roceNak k true) rx ∧ runs (.roceNak k false) rx ∧ runs (.cnp k) rx) ∧
      (s.dusk = false → k.icrcOk = true → q.port = k.port →
        runs (.roceAck k) ((told.setQp k.qpn { q with ops := q.ops.filter (fun o => !covers o), tries := 0 }).qpSettle k.qpn) ∧
        runs (.roceNak k true) (if q.state = 0 then rx else rx.qpError k.qpn) ∧
        runs (.roceNak k false) (rx.goBack k.qpn k.psn) ∧
        runs (.cnp k) ((rx.setQp k.qpn { q with rate := max 1024 (q.rate / 2) }).bump64 page 0x60))) ∧
  (∀ (s : State) (n : Nat), n < 2048 → s.Serves →
      let q := s.qp n
      (q.ops = [] → Ends (exec (.retransmitTimeout n) s) s) ∧
      (∀ o rest, q.ops = o :: rest → q.tries < q.retry →
        Ends (exec (.retransmitTimeout n) s) ((s.setQp n { q with tries := q.tries + 1 }).goBack n o.psn)) ∧
      (∀ o rest, q.ops = o :: rest → q.retry ≤ q.tries → Ends (exec (.retransmitTimeout n) s) (s.qpError n)) ∧
      (q.state = 0 → Ends (exec (.rateIncrease n) s) s) ∧
      (q.state ≠ 0 → Ends (exec (.rateIncrease n) s) (s.setQp n { q with rate := min 819200 (q.rate + 5120) }))) ∧
  (∀ (s : State) (n psn : Nat),
      let u := s.goBack n psn
      (u.qp n).ops.map (·.id) = (s.qp n).ops.map (·.id) ∧ (u.qp n).state = (s.qp n).state ∧ (∀ k, k ≠ n → u.qp k = s.qp k) ∧
      u.mem = s.mem ∧ u.tiles = s.tiles) ∧
  (∀ (s : State) (p prio : Nat), p < 2 → prio < 8 → s.Serves →
      Ends (exec (.priorityFlowControl p prio true) s)
        (State.sendWaiting { s with host := { s.host with paused := insNat (p * 8 + prio) s.host.paused } } p) ∧
      Ends (exec (.priorityFlowControl p prio false) s)
        (State.sendWaiting { s with host := { s.host with paused := s.host.paused.filter (· != p * 8 + prio) } } p))

/-- The links of the front end and endpoint DMA below a PCIe port complete: a link of an enabled port that comes up, or one
that goes down, shows it and raises its event; PORT_EN is an order, and of an originator that is no debug session it sets the
bit and clears the link of a port that it disables. DMA at a trained link that is no CXL link reaches the host region alone,
and is answered as unsupported elsewhere; at another link, or in Dusk, nothing happens. The host goes and comes: the watchdog
detaches it once its period is over, and a reset of PD46 at once and holds its harts until their release; ATTACH, DETACH and
a kick are orders that do as STATUS and the watchdog then show. -/
def Obligations.FrontEndFamilyCompletes : Prop :=
  (∀ (s : State) (p : Nat), p < 2 → s.Serves →
      let page := fePage p
      (∀ pmd, s.flag page offControl 0 = true →
        Ends (exec (.feLinkUp p pmd) s) ((s.setField page offStatus 2 0 (1 + 2 * (pmd % 4))).raise page 0)) ∧
      (∀ pmd, s.flag page offControl 0 = false → Ends (exec (.feLinkUp p pmd) s) s) ∧
      (s.flag page offStatus 0 = true → Ends (exec (.feLinkDown p) s) ((s.setField page offStatus 2 0 0).raise page 1)) ∧
      (s.flag page offStatus 0 = false → Ends (exec (.feLinkDown p) s) s) ∧
      (∀ o v,
        let u := s.order o page offControl (s.withBit page offControl 0 v)
        Ends (exec (.fePortEn o p v) s) u ∧
        (anyButDebug (roleOf o) = true → u.flag page offControl 0 = v ∧ u.mem = s.mem ∧ u.tiles = s.tiles ∧
          (v = false → s.flag page offControl 0 = true → u.flag page offStatus 0 = false)))) ∧
  (∀ (s : State) (p addr len : Nat) (d : List Byte), p < 2 → s.Serves →
      let up : Prop := s.dusk = false ∧ s.flag (pciePage p) offStatus 0 = true ∧ s.flag (pciePage p) offStatus 1 = false
      let r := s.readStack addr len (.pcie p)
      (¬up → Ends (exec (.endpointDma p addr len none) s) s ∧ Ends (exec (.endpointDma p addr len (some d)) s) s) ∧
      (up →
        (s.inHost addr len = false → Ends (exec (.endpointDma p addr len none) s) (s.say (.completion p false []))) ∧
        (s.inHost addr len = true → Ends (exec (.endpointDma p addr len none) s) (r.2.say (.completion p true r.1))) ∧
        (s.inHost addr d.length = false → Ends (exec (.endpointDma p addr len (some d)) s) (s.say (.completion p false []))) ∧
        (s.inHost addr d.length = true → Ends (exec (.endpointDma p addr len (some d)) s)
          ((s.devWrite addr (sound d) 5 (.pcie p)).say (.completion p true []))))) ∧
  (∀ (s : State), s.Serves →
      let lost : Prop := s.hostAttached = true ∧ s.wdogOver = true ∧ s.dusk = false
      (lost → Ends (exec .hostLost s) ((s.detach 1).raise hostPage 0)) ∧
      (¬lost → Ends (exec .hostLost s) s) ∧
      (let out := if s.hostAttached then (s.detach 2).raise hostPage 1 else s
       Ends (exec .hostReset s)
         (State.setField { out with host := { out.host with inReset := true } } hostPage offStatus 1 0 2)) ∧
      (s.host.inReset = true → Ends (exec .hartsReleased s)
        ((State.setField { s with host := { s.host with inReset := false } } hostPage offStatus 1 0 0).setPg 46 true)) ∧
      (s.host.inReset = false → Ends (exec .hartsReleased s) s)) ∧
  (∀ (s : State) (why : Nat),
      let u := s.detach why
      (s.hostAttached = false → u = s) ∧
      (s.hostAttached = true → u.hostAttached = false ∧ u.flag hostPage offControl 0 = false ∧ u.gn = s.gn ∧ u.adm = s.adm ∧
        u.tiles = s.tiles)) ∧
  (∀ (s : State) (o : Origin), s.Serves →
      let on := s.order o hostPage offControl (s.withBit hostPage offControl 0 true)
      let off := s.order o hostPage offControl (s.withBit hostPage offControl 0 false)
      let kick := s.order o hostPage 0x11C 1
      let kept (u : State) : Prop := u.gn = s.gn ∧ u.adm = s.adm ∧ u.tiles = s.tiles
      Ends (exec (.hostAttach o) s) on ∧ Ends (exec (.hostDetach o) s) off ∧ Ends (exec (.wdogKick o) s) kick ∧
      (anyButDebug (roleOf o) = true → kept on ∧ kept off ∧ kept kick ∧
        (s.hostAttached = false → s.host.inReset = false → on.field hostPage offStatus 1 0 = 1 ∧ on.host.kickAt = s.now ∧
          on.flag hostPage offEvt 2 = true) ∧
        (s.hostAttached = true ∨ s.host.inReset = true → on.field hostPage offStatus 1 0 = s.field hostPage offStatus 1 0) ∧
        off.hostAttached = false ∧ kick.host.kickAt = s.now))

/-- SHADE_READ, SHADE_READ_DEAD, SHADE_WRITE_LINE, SHADE_WRITE_PART and SHADE_ADD complete. A request of another shape does
nothing. One to an address that is reserved, or to a window line that no image declared, is rejected; one to an unsound
directory bank or network begins the die's reset, and one to an unsound merge buffer the change of mode; one that must wait is
deferred; a write or add to a line that others cache is held, and their copies are called in; every other is taken. When it
is taken, a line that the slice holds answers its bytes to a read; takes a write, and is DIRTY, or CLEAN and written through
in the host region; puts a narrow write into the merge buffer; is DEAD after a read that says so; takes the sum of an add; and
a read of an absent line starts a fill and joins it. -/
def Obligations.SliceRequestsComplete : Prop :=
  (∀ (s : State) (r : ShadeReq) (d : List PByte) (vals : List Word) (step : Nat), s.Awake →
      let n := r.addr / 256
      let u (k : Nat) : State := s.arrive k n
      let stops (k : Nat) (q : SReq) : Prop := (u k).dieShut k = true ∨ (∃ h ∈ (u k).held, h.line = n) ∨ (u k).mustQueue k q = true
      let takes (c : Instr) (q : SReq) : Prop :=
        (s.reservedFor r.addr = true ∨ (isStack r.addr = false ∧ isWindow r.addr = false) ∨ s.homeSlice n = none →
          Ends (exec c s) (s.reject q none)) ∧
        (∀ k, s.reservedFor r.addr = false → isStack r.addr = true ∨ isWindow r.addr = true → s.homeSlice n = some k →
          isWindowLine n = true → s.windowDeclared n = false → Ends (exec c s) (s.reject q (some k))) ∧
        (∀ k, s.Reaches r.addr k →
          let sites := if q.isWrite then (u k).sharersBut n q.own else []
          let asked := sites.foldl (fun s t => s.say (.invalidate t n)) (u k)
          (stops k q → Ends (exec c s) ((u k).defer k q)) ∧
          (¬stops k q → sites = [] → Ends (exec c s) ((u k).takeRequest k q)) ∧
          (¬stops k q → sites ≠ [] → Ends (exec c s)
            { asked with held := asked.held ++ [{ line := n, sites := sites, req := q }] }))
      let fits (n : Nat) : Prop := 0 < n ∧ r.addr % 256 + n ≤ 256
      (fits r.len → takes (.shadeRead r) (.read r) ∧ takes (.shadeReadDead r) (.readDead r)) ∧
      (¬fits r.len → Ends (exec (.shadeRead r) s) s ∧ Ends (exec (.shadeReadDead r) s) s) ∧
      (r.addr % 256 = 0 ∧ d.length = 256 → takes (.shadeWriteLine r d) (.write r d)) ∧
      (¬(r.addr % 256 = 0 ∧ d.length = 256) → Ends (exec (.shadeWriteLine r d) s) s) ∧
      (fits d.length ∧ d.length < 256 → takes (.shadeWritePart r d) (.write r d)) ∧
      (¬(fits d.length ∧ d.length < 256) → Ends (exec (.shadeWritePart r d) s) s) ∧
      (fits (4 * vals.length) ∧ r.addr % 4 = 0 → takes (.shadeAdd r vals step) (.add r vals step)) ∧
      (¬(fits (4 * vals.length) ∧ r.addr % 4 = 0) → Ends (exec (.shadeAdd r vals step) s) s)) ∧
  (∀ (s : State) (k n : Nat),
      let u := s.arrive k n
      let wrong : Prop := (s.bank (s.bankOf n)).bad = true ∨ (s.die (k / 1152)).netBad = true
      (wrong → (u.die (k / 1152)).resetting = true ∧ u.mem = s.mem) ∧
      (¬wrong → (∃ e ∈ (s.slice k).merge, e.bad = true) → (s.slice k).parity = false → (s.slice k).recoding = none →
        (u.slice k).recoding = some true ∧ (∀ e ∈ (u.slice k).merge, e.bad = false) ∧ u.flag (slicePage k) offEvt 10 = true) ∧
      (¬wrong → (∀ e ∈ (s.slice k).merge, e.bad = false) → u = s)) ∧
  (∀ (s : State) (q : SReq) (k : Nat),
      let u := s.defer k q
      (s.dieShut k = true → u.retries = s.retries ++ [(s.nextId, q)] ∧ u.slices = s.slices ∧ u.held = s.held ∧ u.mem = s.mem ∧
        Out.reply { agent := q.req.agent, addr := q.req.addr, data := [], retry := true } ∈ u.out) ∧
      (s.dieShut k = false → (∃ h ∈ s.held, h.line = q.line) →
        u = { s with held := s.held ++ [{ line := q.line, sites := [], req := q }] }) ∧
      (s.dieShut k = false → (∀ h ∈ s.held, h.line ≠ q.line) →
        u = s.modSlice k fun x => { x with waiting := x.waiting ++ [q] })) ∧
  (∀ (s : State) (r : ShadeReq) (k : Nat),
      let n := r.addr / 256
      let off := r.addr % 256
      let put (u : State) (l : Line) : Prop :=
        (u.slice k).find n = some l ∧ ∀ m, m ≠ n → (u.slice k).find m = (s.slice k).find m
      let after : LineState := if s.inHostRegion r.addr then .clean else .dirty
      (∀ l, s.Hits k n l → 0 < r.len → off + r.len ≤ 256 → r.stamp = false →
        let u := s.takeRequest k (.read r)
        Out.reply { agent := r.agent, addr := r.addr, data := sound ((l.data.drop off).take r.len) } ∈ u.out ∧
        put u l ∧ u.mem = s.mem) ∧
      (∀ l, (s.slice k).find n = some l → l.st = .dead → (∀ e ∈ (s.slice k).merge, e.seg / 4 ≠ n) → r.stamp = false →
        let u := s.takeRequest k (.read r)
        Out.reply { agent := r.agent, addr := r.addr, data := List.replicate r.len ⟨0xFF, true⟩ } ∈ u.out ∧ put u l ∧
        u.flag (slicePage k) offEvt 3 = true) ∧
      (∀ l, s.Hits k n l → r.len = 256 → off = 0 →
        let u := s.takeRequest k (.readDead r)
        Out.reply { agent := r.agent, addr := r.addr, data := sound l.data } ∈ u.out ∧
        put u { l with st := .dead, data := List.replicate 256 0 } ∧ u.mem = s.mem) ∧
      (∀ l (d : List PByte), s.Hits k n l → off % 8 = 0 → d.length % 8 = 0 → 0 < d.length → off + d.length ≤ 256 →
        d.any (·.poison) = false →
        let u := s.takeRequest k (.write r d)
        put u { l with st := after, data := patch l.data off (d.map (·.val)) } ∧ (s.inHostRegion r.addr = false → u.mem = s.mem)) ∧
      (∀ l (d : List PByte), s.Hits k n l → 0 < d.length → d.length < 8 → off % 8 + d.length ≤ 8 → d.any (·.poison) = false →
        s.inHostRegion r.addr = false → (s.slice k).parity = false → (s.slice k).merge.length < 8 →
        let u := s.takeRequest k (.write r d)
        put u { l with st := .dirty } ∧ u.mem = s.mem ∧ ∃ e ∈ (u.slice k).merge, e.seg = r.addr / 64 ∧
          e.words = 2 ^ (off / 8 % 8) ∧ slice e.data (r.addr % 64) d.length = d.map (·.val)) ∧
      (∀ l v step, s.Hits k n l → off % 4 = 0 →
        let x := satAdd32 (BitVec.ofNat 32 (fieldAt l.data off 4)) v
        let u := s.takeRequest k (.add r [v] step)
        put u { l with st := after, data := patch l.data off (natLe 4 x.1.toNat) } ∧
        (s.inHostRegion r.addr = false → u.mem = s.mem) ∧ (x.2 = true → u.flag (slicePage k) offEvt 13 = true)) ∧
      (∀ d : List PByte, (s.slice k).find n = none → hostLike r.agent = true → isWindowLine n = false →
        (s.takeRequest k (.write r d)).slices = s.slices) ∧
      ((s.slice k).find n = none → ((s.slice k).lines.filter (·.set == (s.homeOf n).set)).length < 16 →
        (∀ l ∈ (s.slice k).lines, l.st ≠ .dead) → ((s.slice k).lines.filter (·.st == .fill)).length < 64 →
        let u := s.takeRequest k (.read r)
        (∃ w, put u { line := n, set := (s.homeOf n).set, way := w, st := .fill, pin := s.stackPinned n, joined := [.read r] }) ∧
        u.mem = s.mem))

/-- What the slices do by themselves completes. A line fill brings its line, answers what joined it in order, and lets waiting
requests go on; it does nothing for a line that is not in FILL, or whose way to the stacks is shut. A write that was held goes
on once its invalidations are acknowledged, with the requests behind it, and a request answered RETRY when it is sent again.
The merge buffer writes an entry back, or reports its own fault. Recoding ends in the mode asked for. A row whose sparing was
asked for takes a spare one. A slice without progress begins its die's reset, whose end clears the directory and the read
caches and counts RESET_EPOCH. A lost array empties its slices until it is filled again. A lane group with a bad check is
counted and one with a sound check changes nothing; a lane that fails is recorded. Where there is nothing to do each of these
commands leaves the state as it is. -/
def Obligations.SliceEventsComplete : Prop :=
  (∀ (s : State) (k n : Nat), s.Serves → k < 2304 →
      let gone : State := { s with held := s.held.filter (·.line != n) }
      let x := s.slice k
      let again (u : State) (l : List HeldWrite) : State := l.foldl (fun s h => s.request h.req) u
      (s.homeSlice n = some k →
        (∀ l, x.find n = some l → l.st = .fill → s.throughOpen k = true →
          Ends (exec (.lineFill n) s) ((s.fillAnswer k n).release k)) ∧
        ((∀ l, x.find n = some l → l.st ≠ .fill) ∨ s.throughOpen k = false → Ends (exec (.lineFill n) s) s) ∧
        (∀ h rest, s.held.filter (·.line == n) = h :: rest → h.sites = [] →
          (x.recoding = none → Ends (exec (.invalidationAck n) s) (again (gone.takeRequest k h.req) rest)) ∧
          (x.recoding.isSome = true → Ends (exec (.invalidationAck n) s) (again (gone.defer k h.req) rest)))) ∧
      (s.homeSlice n = none → Ends (exec (.lineFill n) s) s ∧
        (∀ h rest, s.held.filter (·.line == n) = h :: rest → h.sites = [] →
          Ends (exec (.invalidationAck n) s) (again (gone.reject h.req none) rest))) ∧
      ((∀ h ∈ (s.held.filter (·.line == n)).head?, h.sites ≠ []) → Ends (exec (.invalidationAck n) s) s) ∧
      (∀ q, s.retries.find? (·.1 == n) = some (n, q) →
        Ends (exec (.retryResend n) s) (State.request { s with retries := s.retries.filter (·.1 != n) } q)) ∧
      ((∀ e ∈ s.retries, e.1 ≠ n) → Ends (exec (.retryResend n) s) s) ∧
      (let out := s.modSlice k fun x => { x with
         sparing := x.sparing.filter (· != n), spared := x.spared ++ [n], rowLog := x.rowLog.filter (·.row != n) }
       let may : Prop := s.dusk = false ∧ x.sparing.contains n = true ∧ x.spared.length < 24 ∧ s.fuseOk 1 = true
       (may → ∃ u, Ends (exec (.shadeRowSpare k n) s) u ∧ u.slice k = out.slice k ∧ u.mem = s.mem ∧
         ∀ j, j ≠ k → u.slice j = s.slice j) ∧
       (¬may → Ends (exec (.shadeRowSpare k n) s) s)) ∧
      Ends (exec (.progressTimeout k) s) (s.dieReset (k / 1152)) ∧
      (∀ g : LaneGroup, (x.groupOk g.up g.lanes = true → Ends (exec (.laneCrc k g) s) s) ∧
        (x.groupOk g.up g.lanes = false → Ends (exec (.laneCrc k g) s)
          ((s.raise (slicePage k) 6).bump (slicePage k) 0x124))) ∧
      (n < 302 → Ends (exec (.laneSwap k n) s) (s.laneFail k n))) ∧
  (∀ (s : State) (k seg : Nat), s.Awake → k < 2304 →
      (∀ e, (s.slice k).merge.find? (·.seg == seg) = some e →
        (e.bad = true → Ends (exec (.mergeWriteback k seg) s) (s.mergeFault k)) ∧
        (e.bad = false → Ends (exec (.mergeWriteback k seg) s) ((s.modSlice k fun x => { x with
          merge := x.merge.filter (·.seg != seg)
          lines := x.lines.map fun y => if y.line == seg / 4 then writeEntry y e else y }).release k))) ∧
      ((s.slice k).merge.find? (·.seg == seg) = none → Ends (exec (.mergeWriteback k seg) s) s) ∧
      (∀ p, (s.slice k).recoding = some p →
        let done := (s.slice k).lines.foldl (fun s l => s.recodeLine k l) s
        Ends (exec (.recodeDone k) s) (State.release ((done.modSlice k fun x => { x with
          parity := p, recoding := none, faulted := x.faulted && p }).raise (slicePage k) 11) k)) ∧
      ((s.slice k).recoding = none → Ends (exec (.recodeDone k) s) s)) ∧
  (∀ (s : State) (d : Nat), s.Serves → d < 2 →
      let lost := s.loseArray d
      ((s.die d).resetting = true → s.dusk = false → ∃ u, Ends (exec (.dieResetDone d) s) u ∧
        (u.die d).resetting = false ∧ (u.die d).netBad = false ∧ (u.die d).epoch = ((s.die d).epoch + 1) % 65536 ∧
        (d = 1 ∨ (∀ k, (s.slice k).waiting = []) → (∀ b, b / 32 = d → u.bank b = {}) ∧ (∀ t, (u.tile t).rcache = []) ∧ u.mem = s.mem) ∧
        u.flag (slicePage (d * 1152)) offEvt 16 = true) ∧
      ((s.die d).resetting = false ∨ s.dusk = true → Ends (exec (.dieResetDone d) s) s) ∧
      Ends (exec (.arrayLost d) s) lost ∧
      (lost.die d).lost = true ∧ (∀ j, j / 1152 = d → (lost.slice j).lines = [] ∧ (lost.slice j).merge = []) ∧
      lost.flag (slicePage (d * 1152)) offEvt 17 = true ∧ lost.mem = s.mem ∧
      ((s.die d).lost = true → Ends (exec (.arrayFillDone d) s)
        ((s.setDie d { s.die d with lost := false }).setPg (33 + 2 * d) true)) ∧
      ((s.die d).lost = false → Ends (exec (.arrayFillDone d) s) s)) ∧
  (∀ (s : State) (k n : Nat) (l : Line), (s.slice k).find n = some l →
      let u := s.fillLine k n
      (isWindowLine n = true → (u.slice k).find n =
        some { l with st := .dirty, joined := [], data := List.replicate 256 0, poison := 0, chk := [] }) ∧
      (isWindowLine n = false → ∃ p, (u.slice k).find n = some { l with
        st := .clean, joined := [], data := (s.readStack (n * 256) 256 .module).1.map (·.val), poison := p, chk := [] }) ∧
      u.mem = s.mem ∧ s.fillAnswer k n = l.joined.foldl (fun s q => s.perform k q) u) ∧
  (∀ (s : State) (d : Nat), (s.die d).resetting = false →
      let u := s.dieReset d
      (u.die d).resetting = true ∧ (∀ j, j / 1152 = d → (∀ l ∈ (u.slice j).lines, l.st ≠ .fill) ∧ (u.slice j).waiting = []) ∧
      u.mem = s.mem ∧ u.gn = s.gn ∧ u.tiles = s.tiles) ∧
  (∀ (s : State) (k lane : Nat), lane < 302 → (s.slice k).lanesBad.contains lane = false →
      let u := s.laneFail k lane
      (u.slice k).lanesBad = insNat lane (s.slice k).lanesBad ∧ (u.slice k).lines = (s.slice k).lines ∧ u.mem = s.mem) ∧
  (∀ (s : State) (o : Origin) (k d : Nat) (v : Word), s.Serves → k < 2304 → d < 2 →
      let page := slicePage k
      let op : Prop := operatorOnly (roleOf o) = true
      let off (b : Bool) : State := s.order o page offControl (s.withBit page offControl 0 b)
      let cmd := s.order o (slicePage (1152 * d)) 0x180 v
      let idle (u : State) : Prop := u.slices = s.slices ∧ u.dies = s.dies ∧ u.mem = s.mem
      (∀ b, Ends (exec (.mergeOff o k b) s) (off b) ∧ (¬op → idle (off b))) ∧
      (op → (s.slice k).recoding = none → (s.slice k).merge = [] →
        ((s.slice k).parity = false → (off true).slice k = { s.slice k with recoding := some true }) ∧
        (s.holdState = 2 → (s.slice k).parity = true → (off false).slice k = { s.slice k with recoding := some false })) ∧
      Ends (exec (.dieCmd o d v) s) cmd ∧ (¬op ∨ bit v.toNat 0 = false → idle cmd) ∧
      (op → bit v.toNat 0 = true → (s.die d).resetting = false → (cmd.die d).resetting = true ∧ cmd.mem = s.mem ∧
        cmd.tiles = s.tiles))

/-- STACK_READ, STACK_WRITE and STACK_PARTIAL_WRITE complete: outside stack memory a request is an address fault, and a read
answers the pattern; while its bank is in repair a request waits; else a sound granule is read as it stands, a whole write
stores its bytes with valid check symbols, or the poison code when a byte of it is poisoned, and a partial write changes its
own bytes of a sound granule. A write of another shape does nothing. ROW_SPARED completes: the row is replaced, or its spares
are exhausted, the next row that waits is taken up, and the requests that waited go on. PATROL_SCRUB completes: while it may
run, the scrubber takes its next granule. MOVE_DONE completes: a running move whose block can move now ends with the block at
its target, and a ring command that asked for it has its outcome.
The PCIe/CXL ports and the slow tier complete. LINK_TRAINED: with LINK_EN set the link trains as its port's mode asks,
with the expander's capacity, latency and identity for CXL, or stays untrained; with LINK_EN clear nothing happens.
EXPANDER_LOST: the link goes down, its window is empty, and what was outstanding there ends. LINK_EN of an operator is shown
in CONTROL, and 0 takes the link down. DEV_EVENT is counted on a port with an expander. SLOW_TIER_READ and SLOW_TIER_WRITE:
the data reaches every row that waits for it, as poison where the expander says so, and a write's bytes are stored; one that
stands behind an earlier request to its granule, or is unknown, changes nothing. RES_CMD of any order but a debug session's
asks for the move, or is refused, or finds the block there. -/
def Obligations.StackAndSlowTierComplete : Prop :=
  (∀ (s : State) (a : Nat) (d : List PByte) (ag : Agent), s.Awake →
      let runs (c : Instr) (x : Option (List PByte)) : Prop := Ends (exec c s) (s.stackReq a x ag)
      runs (.stackRead a ag) none ∧
      (a % 64 = 0 → d.length = 64 → runs (.stackWrite a d ag) (some d)) ∧
      (a % 64 ≠ 0 ∨ d.length ≠ 64 → Ends (exec (.stackWrite a d ag) s) s) ∧
      (d ≠ [] → d.length < 64 → a % 64 + d.length ≤ 64 → runs (.stackPartialWrite a d ag) (some d)) ∧
      (d = [] ∨ 64 ≤ d.length ∨ 64 < a % 64 + d.length → Ends (exec (.stackPartialWrite a d ag) s) s)) ∧
  (∀ (s : State) (a : Nat) (d : List PByte) (ag : Agent),
      let g := a / 64
      let k := stackOf g
      let r := s.stackReq a none ag
      let w := s.stackReq a (some d) ag
      let repair : Prop := ∃ x ∈ (s.stack k).pendRow, bankOfRow x = bankOfRow (rowId (granPlace g))
      (isStack a = false → w = s.addrFault ag a ∧
        r = (s.addrFault ag a).say (.reply { agent := ag, addr := a, data := List.replicate 64 ⟨0xFF, true⟩ })) ∧
      (isStack a = true → repair →
        (∀ x, s.stackReq a x ag = s.setStack k { s.stack k with waiting := (s.stack k).waiting ++ [(a, x, ag)] })) ∧
      (isStack a = true → ¬repair →
        (s.ecc64 g = 0 → Out.reply { agent := ag, addr := 64 * g, data := sound (s.granule g) } ∈ r.out ∧ r.mem = s.mem ∧
          r.ecc = s.ecc) ∧
        (s.ecc64 g = poisonDelta → s.granule g = allOnes 64 →
          Out.reply { agent := ag, addr := 64 * g, data := List.replicate 64 ⟨0xFF, true⟩ } ∈ r.out ∧ r.mem = s.mem) ∧
        (a % 64 = 0 → d.length = 64 → d.any (·.poison) = false → w.ecc64 g = 0 ∧
          ∀ i, w.byte i = if a ≤ i ∧ i < a + 64 then (d.getD (i - a) ⟨0, false⟩).val else s.byte i) ∧
        (d.any (·.poison) = true → w.ecc64 g = poisonDelta ∧
          ∀ i, w.byte i = if 64 * g ≤ i ∧ i < 64 * g + 64 then 0xFF else s.byte i) ∧
        (s.ecc64 g = 0 → a % 64 + d.length ≤ 64 → d.any (·.poison) = false → w.ecc64 g = 0 ∧
          ∀ i, w.byte i = if a ≤ i ∧ i < a + d.length then (d.getD (i - a) ⟨0, false⟩).val else s.byte i))) ∧
  (∀ (s : State) (k : Nat), s.Awake → k < 8 →
      ((s.stack k).pendRow = none → Ends (exec (.rowSpared k) s) s) ∧
      (∀ row, (s.stack k).pendRow = some row →
        let r := s.replaceRow k row
        let x := r.stack k
        let told := if (s.stack k).repaired.length < x.repaired.length then r.agRecord 0x200B [4, stackPage k] else r
        Ends (exec (.rowSpared k) s)
          (x.waiting.foldl (fun s (a, d, ag) => s.stackReq a d ag) (told.setStack k { x with waiting := [] })))) ∧
  (∀ (s : State) (k row : Nat), (s.stack k).pendRow = some row →
      let r := s.replaceRow k row
      let old := (s.stack k).repaired
      (r.stack k).pendRow = (s.stack k).pendNext.head? ∧ (r.stack k).pendNext = (s.stack k).pendNext.drop 1 ∧
      r.flag (stackPage k) offStatus 2 = !(s.stack k).pendNext.isEmpty ∧
      (if (old.filter fun x => bankOfRow x == bankOfRow row).length < Config.bankRepairs ∧ old.length < 4096 ∧ s.fuseOk 3 = true then
        (r.stack k).repaired = old ++ [row] ∧ r.flag (stackPage k) offEvt 4 = true
      else (r.stack k).repaired = old ∧ (r.stack k).exhausted = true ∧ r.flag (stackPage k) offEvt 5 = true ∧ r.mem = s.mem)) ∧
  (∀ (s : State) (k : Nat), s.Serves → k < 8 →
      let may : Prop := s.flag (stackPage k) offControl 0 = true ∧ s.chkOn (stackPage k) = false ∧ s.dusk = false
      (may → Ends (exec (.patrolScrub k) s) (s.scrubOne k)) ∧ (¬may → Ends (exec (.patrolScrub k) s) s)) ∧
  (∀ (s : State) (k : Nat),
      let u := s.scrubOne k
      let n := (s.stack k).scrubPos + 1
      (s.memOk → u.memOk) ∧
      (n < 2 ^ 31 → (u.stack k).scrubPos = n ∧ u.flag (stackPage k) offStatus 1 = true) ∧
      (2 ^ 31 ≤ n → (u.stack k).scrubPos = 0 ∧ u.flag (stackPage k) offStatus 1 = false ∧ u.flag (stackPage k) offEvt 6 = true)) ∧
  (∀ (s : State) (b : Nat), s.Awake →
      let on : Prop := ∃ m ∈ s.moves, m.block = b ∧ m.running = true
      (on → s.moveReady b = true → Ends (exec (.moveDone b) s) (s.finishMove b)) ∧
      (¬on ∨ s.moveReady b = false → Ends (exec (.moveDone b) s) s)) ∧
  (∀ (s : State) (m : Move), s.moves = [m] → m.running = true →
      let u := s.endMove m.block
      u.moves = [] ∧ u.resEnt m.block = { s.resEnt m.block with tier := m.target, moving := false } ∧ (s.memOk → u.memOk) ∧
      (m.seq = none → s.finishMove m.block = u) ∧ (∀ q, m.seq = some q → s.finishMove m.block = u.cmdDone q stOk 0) ∧
      (m.requested = true → u.flag (stackPage 0) offEvt 9 = true ∧ u.field (stackPage 0) 0x184 2 0 = 0)) ∧
  (∀ (s : State) (p : Nat), s.Serves → p < 2 →
      let page := pciePage p
      let mode := s.field page 0x140 1 0
      let speed (i : LinkTraining) : Nat := (if i.x8 then 4 else 0) + (if i.rate == 5 then 8 else 0)
      let cxlRate (i : LinkTraining) : Prop := i.rate = 5 ∨ i.rate = 6
      let up (i : LinkTraining) (st : Nat) : State := (s.setField page offStatus 4 0 st).wrN page 0x144
        (i.rate % 16 + (if i.x8 then 8 else 16) * 16 + i.buses % 256 * 2 ^ 16)
      let cxl (i : LinkTraining) : Prop := mode ≠ 2 ∧ i.cxl = true ∧ cxlRate i
      (∀ i : LinkTraining,
        (s.flag page offControl 0 = false → Ends (exec (.linkTrained p i) s) s) ∧
        (s.flag page offControl 0 = true → cxl i → Ends (exec (.linkTrained p i) s)
          ((((((up i (19 + speed i)).wrN page 0x100 (min (i.capacity / 2 ^ 28) 16384)).wrN page 0x104
            (i.latNs % 65536)).wrN page 0x110 i.devId).wr64 page 0x114 i.serial).raise page 1)) ∧
        (s.flag page offControl 0 = true → ¬cxl i →
          ((mode = 1 ∨ (mode ≠ 2 ∧ i.cxl = true)) → Ends (exec (.linkTrained p i) s)
            ((s.setField page offStatus 4 0 0).raise page 0)) ∧
          (mode ≠ 1 → mode = 2 ∨ i.cxl = false → Ends (exec (.linkTrained p i) s) ((up i (1 + speed i)).raise page 1)))) ∧
      Ends (exec (.expanderLost p) s) (s.linkLost p) ∧
      (∀ n, (s.flag page offStatus 4 = true → Ends (exec (.devEvent p n) s)
          (((s.raise page 4).bump page 0x108 n).penCount 1 n)) ∧
        (s.flag page offStatus 4 = false → Ends (exec (.devEvent p n) s) s)) ∧
      (∀ o on, let u := s.order o page offControl (s.withBit page offControl 0 on)
        Ends (exec (.linkEn o p on) s) u ∧ (operatorOnly (roleOf o) = true → u.flag page offControl 0 = on ∧
          (on = false → u.field page offStatus 4 0 = 0) ∧
          (on = true → u.field page offStatus 4 0 = s.field page offStatus 4 0 ∧ u.mem = s.mem)))) ∧
  (∀ (s : State) (p : Nat), p < 2 →
      let u := s.linkLost p
      u.field (pciePage p) offStatus 4 0 = 0 ∧ (s.flag (pciePage p) offStatus 4 = true →
        u.rdN (pciePage p) 0x100 = 0 ∧ u.flag (pciePage p) offEvt 2 = true)) ∧
  (∀ (s : State) (id : Nat), s.Serves →
      let gone : State := { s with slow := s.slow.filter (·.id != id) }
      (∀ q bad, s.slow.find? (fun q => q.id == id && q.data.isNone && s.slowFirst q) = some q →
        let r := gone.slowRead q.addr q.len
        let fine := r.1.all fun b => !b.poison
        let at_ := pciePage q.port
        (bad = false ∨ fine = false → Ends (exec (.slowTierRead id bad) s)
          (q.xfers.foldl (fun s (x, j) => s.rowArrives x j r.1) r.2)) ∧
        (bad = true → fine = true → Ends (exec (.slowTierRead id bad) s)
          (q.xfers.foldl (fun s (x, j) => s.rowArrives x j (List.replicate q.len ⟨0xFF, true⟩))
            ((r.2.raise at_ 3).bump at_ 0x10C)))) ∧
      (s.slow.find? (fun q => q.id == id && q.data.isNone && s.slowFirst q) = none →
        ∀ bad, Ends (exec (.slowTierRead id bad) s) s) ∧
      (∀ q d, s.slow.find? (fun q => q.id == id && q.data.isSome && s.slowFirst q) = some q → q.data = some d →
        Ends (exec (.slowTierWrite id) s) (q.xfers.foldl (fun s (x, j) => s.rowWritten x j) (gone.slowWrite q.addr d))) ∧
      (s.slow.find? (fun q => q.id == id && q.data.isSome && s.slowFirst q) = none → Ends (exec (.slowTierWrite id) s) s)) ∧
  (∀ (s : State) (a : Nat) (d : List PByte), d.any (·.poison) = false → (∀ g, a / 64 ≤ g → g * 64 < a + d.length → s.ecc64 g = 0) →
      ∀ i, (s.slowWrite a d).byte i = if a ≤ i ∧ i < a + d.length then (d.getD (i - a) ⟨0, false⟩).val else s.byte i) ∧
  (∀ (s : State) (x : Xfer) (j site lt : Nat) (d : List PByte), s.xfers.find? (·.id == x.id) = some x →
      x.dst = .scratch site lt → x.ccSrc = none → (s.rowArrives x.id j d).xfers = s.xfers.filter (·.id != x.id) ++ [{ x with
        rows := (x.rows.zip (List.range x.rows.length)).map fun y => if y.2 == j then { y.1 with data := d, src := none } else y.1 }]) ∧
  (∀ (s : State) (o : Origin) (v : Word), s.Serves →
      let u := s.order o (stackPage 0) 0x180 v
      let b := bits v.toNat 17 0
      let tier := bits v.toNat 19 18
      let e := s.resEnt b
      let may : Prop := (tier = 1 ∨ (tier = 2 ∧ e.slowHome = true)) ∧ e.tier ≠ 0 ∧ e.tier ≠ 3 ∧ e.visited = false
      Ends (exec (.resCmd o v) s) u ∧ (anyButDebug (roleOf o) = true →
        (¬may → u.field (stackPage 0) 0x184 2 1 = 1 ∧ u.moves = s.moves ∧ u.res = s.res) ∧
        (may → e.tier = tier → e.moving = false → u.field (stackPage 0) 0x184 2 1 = 2 ∧ u.moves = s.moves ∧ u.res = s.res) ∧
        (may → e.tier ≠ tier ∨ e.moving = true → u.flag (stackPage 0) 0x184 0 = true ∧ u.mem = s.mem ∧
          ∃ m ∈ u.moves, m.block = b ∧ m.target = tier ∧ m.requested = true ∧ m.seq = none)))

/-- Frames complete. DATA, ADD, GLINT, GIVE and BULK that come to a closed port are lost; one whose SEQ is not the next is
discarded, and asked for again where it leaves a gap; another enters the buffer, and what is next in order there is taken. One
that is taken at this module puts its bytes into scratch, as the poison pattern where its unit is tagged, or into device
memory; adds its elements; is under way to its mailbox; adds to a credit counter; and the last frame of a transfer counts
where it says. One that passes through goes on with its stream's number. SPEC_FRAME_RELEASE takes what waited and may be taken
now. IDLE acknowledges and returns credits. FRAME_FAILED_CRC asks for a replay. AUDIT with a wrong sum counts a conservation
fault and retrains, but not while grants are under way or when it was sent again. -/
def Obligations.FramesComplete : Prop :=
  (∀ (s : State) (p : Nat) (f : RayFrame), s.Serves → p < 16 →
      let heard := (s.acceptSeq p f).2
      let x := heard.port p
      let sum : Int := ((fieldAt f.payload 0 4 + sumOf x.occ + sumOf x.freed + x.rSent : Nat) : Int) - (fieldAt f.payload 4 4 : Int) -
        (sumOf x.rxAlloc : Int)
      let next : Prop := f.seq = ((s.port p).rxSeq + 1) % 4096
      Ends (exec (.data p f) s) (s.frameIn p { f with type := 1 }) ∧ Ends (exec (.add p f) s) (s.frameIn p { f with type := 2 }) ∧
      Ends (exec (.glint p f) s) (s.frameIn p { f with type := 3 }) ∧
      Ends (exec (.giveFrame p f) s) (s.frameIn p { f with type := 4 }) ∧
      Ends (exec (.bulk p f) s) (s.frameIn p { f with type := 8 }) ∧
      Ends (exec (.specFrameRelease p) s) (s.drainEarly (s.earlyCount p) p) ∧
      (s.portOpen p = false → Ends (exec (.idle p f) s) s ∧ Ends (exec (.frameFailedCrc p f) s) s ∧
        ∀ again, Ends (exec (.audit p f again) s) s) ∧
      (s.portOpen p = true → Ends (exec (.idle p f) s) heard ∧
        Ends (exec (.frameFailedCrc p f) s) (s.modPort p fun x => { x with nakDue := true }) ∧
        (∀ again, ¬next ∨ again = true ∨ x.needSync = true ∨ sum % 2 ^ 32 = 0 → Ends (exec (.audit p f again) s) heard) ∧
        (next → x.needSync = false → sum % 2 ^ 32 ≠ 0 → Ends (exec (.audit p f false) s)
          (((((heard.raise (rayPage p) 4).bump (rayPage p) 0x108).bumpSat (rayPage p) offErrCount).consFault 1 sum).retrainPort p)))) ∧
  (∀ (s : State) (p : Nat) (f : RayFrame),
      let x := s.port p
      let u := (s.acceptSeq p f).2
      (f.nak = false → f.seq = (x.rxSeq + 1) % 4096 →
        (u.port p).rxSeq = f.seq ∧ (u.port p).ackDue = true ∧ (u.port p).unacked = (x.acked f.ack).unacked ∧
        (f.crPool < 70 → 0 < f.crUnits → sget 0 (u.port p).credits f.crPool = sget 0 x.credits f.crPool + f.crUnits)) ∧
      (f.seq ≠ (x.rxSeq + 1) % 4096 → (u.port p).rxSeq = x.rxSeq ∧ (u.port p).early = x.early ∧
        (if seqDist f.seq x.rxSeq < 2048 then (u.port p).ackDue = true else (u.port p).nakDue = true)) ∧
      (f.nak = true → (x.acked f.ack).unacked ≠ [] → (u.port p).resend = (x.acked f.ack).unacked ∧
        u.flag (rayPage p) offEvt 3 = true) ∧
      u.mem = s.mem ∧ u.tiles = s.tiles ∧ (s.portOpen p = false → s.frameIn p f = s) ∧
      (s.portOpen p = true → f.seq ≠ (x.rxSeq + 1) % 4096 → s.frameIn p f = u)) ∧
  (∀ (s : State) (p : Nat) (f : RayFrame) (st : Stream), f.stream ≠ 0xFFF → s.inStream (inDirOf p f s.phys) f = some st →
      st.deliver = false → s.deliver p f = s.enqueue st.outPort
        { f with stream := st.outStream, pool := st.outQueue, detour := false, dirIn := 0 } (some (p, f.pool, frameUnits f))) ∧
  (∀ (s : State) (p : Nat) (f : RayFrame), s.TakesFrame p f →
      let u := s.frameIn p f
      let tag := s.stepOfTag f.stepTag
      let o := f.addr % 2 ^ 20
      (sget 0 u.ray.xRx (s.rxKey p f) = (f.xseq + 1) % 65536 ∧ (u.port p).early = [] ∧ (u.port p).rxSeq = f.seq ∧ u.gn = s.gn ∧
        u.adm = s.adm) ∧
      (∀ t, f.type = 1 → f.akind = false → s.siteOf f.dstTile = some t → u.mem = s.mem ∧
        (∀ k, k < f.payload.length → o + k < scratchSize →
          (u.tile t).byte (o + k) = if bit f.poison (k / 64) then 0xFF else f.payload.getD k 0) ∧
        (∀ i, i ≠ t → (u.tile i).scratch = (s.tile i).scratch) ∧
        (f.last = true → f.ccEn = true → (u.tile t).cc =
          sput (s.tile t).cc f.cc ((sget {} (s.tile t).cc f.cc).add 1 (s.speculative tag)))) ∧
      (f.type = 1 → f.akind = false → s.siteOf f.dstTile = none → u.mem = s.mem ∧ u.tiles = s.tiles) ∧
      (f.type = 1 ∨ f.type = 2 → f.last = true → f.ckEn = true →
        sget 0 u.ray.ck f.ck = (sget 0 s.ray.ck f.ck + 1) % 2 ^ 32) ∧
      (f.type = 1 ∨ f.type = 2 ∨ f.type = 8 → s.memOk → u.memOk) ∧
      (∀ t, f.type = 2 → f.akind = false → s.siteOf f.dstTile = some t → f.payload.length = 4 → f.poison = 0 →
        o + 4 ≤ scratchSize → (s.tile t).firstBad [(o, 4)] = none → (u.tile t).num o 4 =
          (satAdd32 (BitVec.ofNat 32 ((s.tile t).num o 4)) (BitVec.ofNat 32 (leNat f.payload))).1.toNat) ∧
      (∀ t, f.type = 3 → s.siteOf (bits (fieldAt f.payload 0 8) 41 32) = some t →
        let m := ((s.ray.map.getD []).findIdx? (· == f.srcPhys)).getD 0
        let x := fieldAt f.payload 8 8
        u.mem = s.mem ∧ u.glints = s.glints ++ [{
          id := s.nextId, site := t, mbox := bits (fieldAt f.payload 0 8) 1 0,
          msg := { srcMod := m, srcTile := f.srcTile, kc := bits x 12 8, tag := tag,
                   slot := glintSlot true m f.srcTile x ((f.payload.drop 16).take (bits x 7 0 + 1)) } }]) ∧
      (∀ t, f.type = 4 → s.siteOf f.dstTile = some t → u.mem = s.mem ∧
        (u.tile t).kc = sput (s.tile t).kc f.cc ((sget {} (s.tile t).kc f.cc).add f.giveN (s.speculative tag)))) ∧
  (∀ (s : State) (p : Nat) (f : RayFrame), s.MayTake p f → (s.port p).early = [f] →
      (∀ q ∈ portsOf (dirOf p), q ≠ p → (s.port q).early = []) →
      let u := s.drainEarly (s.earlyCount p) p
      sget 0 u.ray.xRx (s.rxKey p f) = (f.xseq + 1) % 65536 ∧ (u.port p).early = [])

/-- What a port does completes. FRAME_TRANSMIT sends first what must be sent again, and else the next frame by rank with its
link fields, while the replay buffer has room; with nothing to send it sends what it owes the peer, or nothing. A collective
record starts once it may, and not before. PCS_LOCK offers the handshake; LINK accepts it from the neighbour's port of Table
10.1 and refuses another; SYNC sends the grants, and the port is UP once both ends have granted. A retrain leaves UP; a link
that stays down, a bad partner and PORT_EN = 0 take the port DOWN; PORT_EN = 1 starts training; a neighbour that answers on no
port is DEAD. In any other state of the port each of these commands leaves the module as it is. -/
def Obligations.PortFamilyCompletes : Prop :=
  (∀ (s : State) (p : Nat), s.Serves → p < 16 →
      let v := s.modPort p fun x =>
        if x.slotAt == s.slotId then x else { x with slotAt := s.slotId, slotUsed := 0, twinUsed := 0, glintUsed := 0 }
      let x := v.port p
      let runs (u : State) : Prop := Ends (exec (.frameTransmit p) s) u
      (s.portOpen p = false → runs s) ∧
      (∀ f rest, s.portOpen p = true → x.resend = f :: rest → runs ((v.setPort p { x with resend := rest }).replayOut p f)) ∧
      (s.portOpen p = true → x.resend = [] → v.nextItem p = none →
        let owes : Prop := x.ackDue = true ∨ x.nakDue = true ∨ x.freed.any (·.2 > 0) = true
        (owes → runs (v.launch p emptyFrame)) ∧ (¬owes → runs v)) ∧
      (∀ i kind, s.portOpen p = true → x.resend = [] → v.nextItem p = some (i, kind) →
        (x.roomFor i.frame = false → runs v) ∧
        (x.roomFor i.frame = true → ∃ u, runs u ∧
          let g := (v.stampFrame p i.frame).1
          (∃ h, Out.frame p h (frameCrc h) ∈ u.out ∧ h.seq = x.txSeq ∧ h.ack = x.rxSeq ∧ h.nak = x.nakDue ∧
            { h with seq := g.seq, ack := g.ack, nak := g.nak, crPool := g.crPool, crUnits := g.crUnits } = g ∧
            ((∀ q n m, i.hold ≠ some (q, n, m)) → (u.port p).unacked = x.unacked ++ [h])) ∧
          (u.port p).txSeq = (x.txSeq + 1) % 4096 ∧ u.mem = s.mem ∧ u.tiles = s.tiles ∧
          (i.frame.pool < 70 → sget 0 (u.port p).credits i.frame.pool = sget 0 x.credits i.frame.pool - frameUnits i.frame)))) ∧
  (∀ (s : State) (p : Nat), s.Serves → p < 16 →
      let mine := s.slotHalf.queueColls p
      let pos := sget 0 s.ray.collPos p
      let pass := pos / max mine.length 1
      let may (i : Image) (n : Nat) (c : Coll) (st : Stream) : Prop :=
        s.adm.active = some i ∧ mine[pos % max mine.length 1]? = some (n, c) ∧
        s.slotHalf.streams.find? (fun x => x.from_ == 2 && x.coll == n) = some st ∧ pass < s.ray.collPass ∧
        s.collTime i pass c = true ∧ s.collReady c = true ∧ s.parked = false ∧ s.steps.phase = .exec ∧
        s.rangeReady (s.translate s.steps.step c.src) c.len = true
      (∀ i n c st, may i n c st → Ends (exec (.collRecordStart p) s) (s.collStart p c st) ∧
        sget 0 (s.collStart p c st).ray.collPos p = pos + 1 ∧ (s.memOk → (s.collStart p c st).memOk) ∧
        (∀ k m, c.waitCk = some (k, m) → sget 0 (s.collStart p c st).ray.ck k = sget 0 s.ray.ck k - m)) ∧
      ((¬∃ i n c st, may i n c st) → Ends (exec (.collRecordStart p) s) s)) ∧
  (∀ (s : State) (p : Nat) (m : LinkMsg) (g : List Nat), s.Serves → p < 16 →
      let st := s.portSt p
      let x := s.port p
      let pick := (s.free.2.wrN (rayPage p) 0x104 (1 + s.free.1.toNat % 2 + 0xF0)).setPortSt p 2
      let syncing : Prop := st = 5 ∨ (st = 3 ∧ x.needSync = true)
      let got : Sparse Nat := ((List.range 70).zip g).filter (·.2 != 0)
      let shown := if x.again then s.wrN (rayPage p) 0x10C (fieldOf 32 ((sumOf x.credits : Int) - sumOf got)) else s
      let alloc := if x.again && !x.txAlloc.isEmpty then x.txAlloc else got.filter (·.1 < 64) ++ fixedPools
      let ready : Prop := syncing ∧ x.granted = false ∧ x.resend = [] ∧ ∀ f ∈ x.unacked, 70 ≤ f.pool
      let down : Prop := x.again = true ∧ st ≠ 0 ∧ st ≠ 3 ∧ st ≠ 6
      let runs (c : Instr) (u : State) : Prop := Ends (exec c s) u
      (st = 1 ∨ st = 4 → runs (.pcsLock p) (pick.say (.link p (s.linkMsg p) []))) ∧ (st ≠ 1 → st ≠ 4 → runs (.pcsLock p) s) ∧
      (st = 2 → runs (.link p m []) (s.handshake p m) ∧ runs (.partnerBad p) ((s.portDown p).raise (rayPage p) 6)) ∧
      (st ≠ 2 → runs (.link p m []) s ∧ runs (.partnerBad p) s) ∧
      (g ≠ [] → syncing → runs (.link p m g)
        ((shown.modPort p fun x => { x with credits := got, txAlloc := alloc, gotGrant := true }).tryUp p)) ∧
      (g ≠ [] → ¬syncing → runs (.link p m g) s) ∧
      (ready → runs (.sync p) (s.sendGrants p)) ∧ (¬ready → runs (.sync p) s) ∧
      runs (.retrain p) (s.retrainPort p) ∧
      (down → runs (.linkDown p) ((s.portDown p).raise (rayPage p) 1)) ∧ (¬down → runs (.linkDown p) s) ∧
      (let same (q : Nat) : Prop := q < 16 ∧ s.portUnused q = false ∧ s.neighbour (dirOf q) = s.neighbour (dirOf p)
       let gone : Prop := s.portUnused p = false ∧ ∀ q, same q → s.portUp q = false
       (gone → ∃ u, runs (.peerDead p) u ∧ (∀ q, same q → u.portFlag q pDead = true) ∧ u.flag (rayPage p) offEvt 9 = true ∧
         u.mem = s.mem ∧ u.tiles = s.tiles) ∧
       (¬gone → runs (.peerDead p) s))) ∧
  (∀ (s : State) (p : Nat) (m : LinkMsg), p < 16 →
      let x := s.port p
      let kept (u : State) : Prop := u.mem = s.mem ∧ u.tiles = s.tiles ∧ u.gn = s.gn
      let good : Prop := s.formed = true ∧ m.phys = s.neighbour (dirOf p) ∧ m.port = peerPort p
      let h := s.handshake p m
      let g := s.sendGrants p
      (good → h.portSt p = 5 ∧ h.rdN (rayPage p) 0x100 = m.phys % 2 ^ 15 + m.port % 16 * 2 ^ 16 + 2 ^ 20 ∧
        (h.port p).needSync = true ∧ (h.port p).resend = (x.acked m.lastSeq).unacked ∧ kept h) ∧
      (¬good → h.portSt p = 0 ∧ h.flag (rayPage p) offEvt 5 = true ∧ kept h) ∧
      (x.gotGrant = false → (g.port p).granted = true ∧ (g.port p).freed = [] ∧ g.portSt p = s.portSt p ∧ kept g ∧
        Out.link p (s.linkMsg p) ((List.range 70).map fun q => sget 0 x.rxAlloc q - sget 0 x.occ q) ∈ g.out) ∧
      (s.portSt p = 5 → x.granted = true → x.gotGrant = true → (s.tryUp p).portSt p = 3 ∧ kept (s.tryUp p) ∧
        (s.tryUp p).flag (rayPage p) offEvt 0 = true ∧ (x.again = true → (s.tryUp p).flag (rayPage p) offEvt 2 = true)) ∧
      (x.granted = false ∨ x.gotGrant = false → s.tryUp p = s) ∧
      (s.portUp p = true → (s.retrainPort p).portSt p = 4 ∧ ((s.retrainPort p).port p).again = true ∧ kept (s.retrainPort p)) ∧
      (s.portUp p = false → s.retrainPort p = s) ∧ (s.portDown p).portSt p = 0 ∧ kept (s.portDown p)) ∧
  (∀ (s : State) (p : Nat) (o : Origin), s.Serves → p < 16 →
      let page := rayPage p
      let kept (u : State) : Prop := u.mem = s.mem ∧ u.tiles = s.tiles ∧ u.gn = s.gn
      let again := s.order o page offControl (s.withBit page offControl 1 true)
      let on := s.order o page offControl (s.withBit page offControl 0 true)
      let off := s.order o page offControl (s.withBit page offControl 0 false)
      Ends (exec (.retrainReq o p) s) again ∧ Ends (exec (.portEn o p true) s) on ∧ Ends (exec (.portEn o p false) s) off ∧
      (operatorOnly (roleOf o) = true →
        (s.portUp p = true → s.flag page offControl 0 = true → again.portSt p = 4 ∧ again.flag page offControl 1 = true ∧
          kept again) ∧
        (s.portUnused p = false →
          (s.portSt p = 0 → on.portSt p = 1 ∧ on.flag page offControl 0 = true ∧ kept on) ∧
          (s.flag page offControl 0 = true → off.portSt p = 0 ∧ off.flag page offControl 0 = false ∧ kept off))))

/-- MODMAP_CMD completes: with no image in force and no boundary in progress, an order of any but a debug session that
stages takes a module map with sound contents, or shows that it has none; and one that withdraws leaves none staged (a parked
master may go on to its restore hold with either). -/
def Obligations.ModuleMapCommandsComplete : Prop :=
  ∀ (s : State) (o : Origin), s.Serves →
    let stage := s.order o rayComPage 0x138 1
    let withdraw := s.order o rayComPage 0x138 2
    Ends (exec (.modmapStage o) s) stage ∧ Ends (exec (.modmapWithdraw o) s) withdraw ∧
    (anyButDebug (roleOf o) = true → s.modmapFree = true → s.holdState ≠ 3 ∨ s.gn.master = false →
      let a := s.field rayComPage 0x130 31 4 * 16 + s.field rayComPage 0x134 15 0 * 2 ^ 32
      let l := (List.range (s.peekN (a + 4) 2 % 2 ^ 15)).map fun n => s.peekN (a + 16 + 2 * n) 2 % 2 ^ 15
      let kept (u : State) : Prop := u.ray.map = s.ray.map ∧ u.mem = s.mem ∧ u.tiles = s.tiles
      (l ≠ [] → l.length ≤ 20480 → (∀ m ∈ l, m < s.dims.1 * s.dims.2.1 * s.dims.2.2) → l.Nodup →
        stage.ray.staged = some l ∧ stage.field rayComPage 0x13C 3 0 = 1 ∧ kept stage) ∧
      (l = [] → stage.ray.staged = s.ray.staged ∧ stage.field rayComPage 0x13C 3 1 = 3 ∧ kept stage) ∧
      withdraw.ray.staged = none ∧ withdraw.flag rayComPage 0x13C 0 = false ∧ kept withdraw)

/-- Event bits. Hardware sets a bit of EVT_STATUS whatever EVT_ENABLE holds, and a page signals while the two have a bit in
common. A write of 1 to EVT_FORCE acts only in a debug-role session, where it sets the bit and fires the Afterglow triggers
on it, and nothing else: no register, counter, Penumbra input or step cause changes. A bit that hardware sets in the cycle of
a software clear reads 1; another bit is cleared by a 1 and kept by a 0. Of the other registers, the six of `tailRegs`, which
the end of a command may write, are left aside. -/
def Obligations.EventBitsFollowTheirRules : Prop :=
  ∀ (s : State) (page : Nat) (o : Origin) (v : Word),
    let mask := evtMask (pageKind page)
    (∀ i, i < 32 → (s.raise page i).flag page offEvt i = true ∧ (s.raise page i).rd page offEvtEn = s.rd page offEvtEn ∧
      ∀ j, j < 32 → j ≠ i → (s.raise page i).flag page offEvt j = s.flag page offEvt j) ∧
    (s.signals page = true ↔ ∃ i, i < 32 ∧ s.flag page offEvt i = true ∧ s.flag page offEvtEn i = true) ∧
    (s.Serves → Ends (exec (.evtForce o page v) s) (s.order o page offForce v)) ∧
    (s.Serves → pageKind page ≠ 0 → (page = agPage → s.ag.caps = [] ∧ s.ag.trigs.length ≤ 16) →
      (pageKind page = kTile → s.spare.opened.contains (page / 36) = false) →
      (debugOnly (roleOf o) = true → Gives (exec (.evtForce o page v) s) fun u =>
        (∀ i, i < 32 → u.flag page offEvt i = (s.flag page offEvt i || (bit v.toNat i && bit mask i))) ∧
        (∀ i n w, i < 32 → bit v.toNat i = true → bit mask i = true → s.flag agPage offControl 0 = true →
          (n, w) ∈ s.ag.trigs → trigOn w = true → trigPage w = page → trigBit w = i → s.ag.caps = [] →
          s.ag.trigs.length ≤ 16 → ∃ c ∈ u.ag.caps, c.trig = n) ∧
        (∀ p off, regOff off → (p, off) ∉ tailRegs → (p, off) ≠ (page, offEvt) → u.rd p off = s.rd p off) ∧
        u.steps = s.steps ∧ u.tiles = s.tiles ∧ u.mem = s.mem ∧ u.slices = s.slices ∧ u.hbm = s.hbm ∧ u.pen = s.pen) ∧
      (debugOnly (roleOf o) = false → Gives (exec (.evtForce o page v) s) fun u =>
        ∀ i, i < 32 → (page = hostPage → i ≠ 5) → u.flag page offEvt i = s.flag page offEvt i) ∧
      (∀ hw : Word, anyButDebug (roleOf o) = true →
        Gives (exec (.registerWrite { origin := o, page := page, off := offEvt, value := v } [] hw) s) fun u =>
          ∀ i, i < 32 → bit mask i = true → u.flag page offEvt i =
            (bit hw.toNat i || (s.flag page offEvt i && !bit v.toNat i))))

/-- REGISTER_WRITE completes: alone it is an order, with others of the same cycle it is decided among them, and the bits that
hardware sets in that cycle are set after it. An order to a page of one unit acts, and is answered, as the register's fields
and its originator's role allow: on a register without such fields, or a tile whose switch is open, it has no effect, and one
that the role may not give is answered ACCESS. On a tile page, one of a role that may write it changes its fields; one of a
debug session is answered ACCESS and changes nothing, and is journalled; and of two contradicting orders of one cycle the
lower class wins while the other is answered SUPERSEDED. -/
def Obligations.RegisterOrdersComplete : Prop :=
  (∀ (s : State) (w : RegOrder) (rivals : List RegOrder) (hw : Word), s.Serves →
      let ws := w :: rivals.filter fun x => x.off == w.off && (x.page == w.page || (s.leafPages x).any (s.leafPages w).contains)
      let u := if ws.length == 1 || !pageAssigned w.page then ws.foldl (fun s w => s.order w.origin w.page w.off w.value) s
        else s.sameCycle ws
      (w.off ≠ offEvt → Ends (exec (.registerWrite w rivals hw) s) u) ∧
      (w.off = offEvt → Ends (exec (.registerWrite w rivals hw) s) ((List.range 32).foldl (fun s i =>
        if bit hw.toNat i && bit (evtMask (pageKind w.page)) i then s.raise w.page i else s) u))) ∧
  (∀ (s : State) (o : Origin) (page off : Nat) (v : Word), pageAssigned page = true → isCompound page = false →
      let a := s.accept o page off v
      let t := a.2.2
      let f := t.fields (roleOf o) page off v.toNat
      let open_ : Prop := pageKind page = kTile ∧ t.spare.opened.contains (page / 36) = true
      let may : Prop := t.mayWrite (roleOf o) page off v.toNat = true
      let answers (st : Nat) (u : State) : Prop := s.order o page off v = u.accessEnd a.1 a.2.1 st none
      (f.1 = 0 ∨ open_ → answers stOk t) ∧ (f.1 ≠ 0 → ¬open_ → ¬may → answers stAccess t) ∧
      (f.1 ≠ 0 → ¬open_ → may → let r := t.act o page off f.2 (v.toNat &&& f.1)
        answers r.1 r.2)) ∧
  (∀ (s : State) (page k h : Nat) (v w : Word), s.Serves → page < 0x480 → s.spare.opened.contains (page / 36) = false →
      let order (o : Origin) (v : Word) : RegOrder := { origin := o, page := page, off := offEvtEn, value := v }
      let kept (u : State) : Prop := u.tiles = s.tiles ∧ u.mem = s.mem ∧ u.slices = s.slices ∧ u.gn = s.gn ∧ u.adm = s.adm
      (∀ o hw, anyButDebug (roleOf o) = true → Gives (exec (.registerWrite (order o v) [] hw) s) fun u =>
        u.rdN page offEvtEn &&& 0x3FFFF = v.toNat &&& 0x3FFFF ∧ kept u) ∧
      (∀ hw, v.toNat &&& 0x3FFFF ≠ s.rdN page offEvtEn &&& 0x3FFFF →
        Gives (exec (.registerWrite (order (.debug k) v) [] hw) s) fun u =>
          u.rd page offEvtEn = s.rd page offEvtEn ∧ Out.status (.debug k) stAccess ∈ u.out ∧
          u.host.nextSeq = s.host.nextSeq + 1 ∧ kept u) ∧
      ((v ^^^ w).toNat &&& 0x3FFFF ≠ 0 →
        Gives (exec (.registerWrite (order (.hart h) w) [order (.operator k) v] 0) s) fun u =>
          u.rdN page offEvtEn &&& 0x3FFFF = v.toNat &&& 0x3FFFF ∧ Out.status (.hart h) stSuperseded ∈ u.out ∧
          u.host.nextSeq = s.host.nextSeq + 2 ∧ kept u))

/-- Reads that latch complete: the lowest word of a wider value is answered and the next word is latched for its source; the
first words of AG_DATA and JRNL_DATA latch the selected record. The end of the 2 µs after an event message sends the message
that waited. A capture becomes a snapshot record. A record reaches the kept area, or flash fails it, but not while an erase
runs; and the end of an erase begins the clear that waited. With nothing to do each of these leaves the state as it is. -/
def Obligations.LatchesAndRecordsComplete : Prop :=
  ∀ (s : State) (o : Origin), s.Serves →
    let kept (u : State) : Prop := u.tiles = s.tiles ∧ u.mem = s.mem ∧ u.slices = s.slices ∧ u.gn = s.gn
    let read (page off : Nat) : State := s.readAny o (.order o) none page off
    let ag (a : Ag) : State := { s with ag := a }
    (∀ page off, Ends (exec (.lowWordRead o page off) s) (read page off) ∧
      (pageKind page ≠ 0 → wideOf page off = some (off, 2) → page ≠ agPage → page ≠ jrnlPage → s.shown page off = false →
        Out.reg o (s.regValue page off) ∈ (read page off).out ∧ kept (read page off) ∧
        sfind (read page off).latches (latchKey (latchSource o) page (off + 4)) = some (s.regValue page (off + 4)))) ∧
    (Ends (exec (.agDataRead o) s) (read agPage 0x400) ∧ Out.reg o (s.regValue agPage 0x400) ∈ (read agPage 0x400).out ∧
      (read agPage 0x400).ag.shown = s.agShow ∧ kept (read agPage 0x400)) ∧
    (Ends (exec (.jrnlData0Read o) s) (read jrnlPage 0x140) ∧
      Out.reg o (s.regValue jrnlPage 0x140) ∈ (read jrnlPage 0x140).out ∧
      (read jrnlPage 0x140).host.jShown = s.jShow (s.rd64 jrnlPage 0x108) ∧ kept (read jrnlPage 0x140)) ∧
    (∀ kind,
      let t : State := { s with
        evtHold := s.evtHold.filter (· != kind), evtAgain := s.evtAgain.filter (· != kind) }
      let again : Prop := s.evtAgain.contains kind = true ∧ s.hostAttached = true ∧ s.msiAddr ≠ 0
      (s.evtHold.contains kind = false → Ends (exec (.evtMsiHoldoff kind) s) s) ∧
      (s.evtHold.contains kind = true → again → Ends (exec (.evtMsiHoldoff kind) s) (t.sendMsi kind) ∧
        Out.evtMsi kind s.msiAddr (s.rdN hostPage 0x18C) ∈ (t.sendMsi kind).out) ∧
      (s.evtHold.contains kind = true → ¬again → Ends (exec (.evtMsiHoldoff kind) s) t)) ∧
    (s.ag.caps = [] → Ends (exec .capture s) s) ∧
    (∀ c rest, s.ag.caps = c :: rest → ∃ u, Ends (exec .capture s) u ∧ u.ag.caps = rest ∧
      u.ag.next = s.ag.next + 1 ∧ (sfind u.ag.circ (s.ag.next % 16384)).map (fun r => (r.code, r.gt, r.unlocked, r.p)) =
        some (0x8000 + c.trig, c.gt, c.unlocked, [c.set, c.page, c.bit]) ∧ kept u) ∧
    (s.ag.keptPend = [] ∨ s.ag.clearing = true → ∀ ok, Ends (exec (.keptRecordWrite ok) s) s) ∧
    (∀ n rest, s.ag.keptPend = n :: rest → s.ag.clearing = false →
      Ends (exec (.keptRecordWrite false) s) ((ag { s.ag with keptPend := rest }).raise agPage 3) ∧
      (sfind s.ag.circ (n % 16384) = none → Ends (exec (.keptRecordWrite true) s) (ag { s.ag with keptPend := rest })) ∧
      (∀ r, sfind s.ag.circ (n % 16384) = some r →
        let t := ag { s.ag with keptPend := rest, kept := sput s.ag.kept n r }
        (n ≠ 4095 → Ends (exec (.keptRecordWrite true) s) t) ∧
        (n = 4095 → Ends (exec (.keptRecordWrite true) s) ((t.setFlag agPage offStatus 0 true).raise agPage 0)))) ∧
    (s.ag.clearing = false → Ends (exec .clearEraseDone s) s) ∧
    (s.ag.clearing = true →
      let t := (ag { s.ag with clearing := false }).setFlag agPage offStatus 2 false
      (s.ag.clearReq = [] → Ends (exec .clearEraseDone s) t) ∧
      (∀ n rest, s.ag.clearReq = n :: rest → ∃ u, Ends (exec .clearEraseDone s) u ∧ u.ag.clearing = true ∧
        u.ag.clearReq = rest ∧ u.ag.next = 1 ∧ u.flag agPage offStatus 2 = true ∧ kept u))

/-- Debug access completes. RC_FLUSH of any but a debug session empties a tile's read cache and STALL_CLEAR zeroes its stall
counters; DBG_HALT and DBG_RESUME of a debug session stop and start a tile; in debug mode DBG_ACC_SEL selects a row of an
accumulator, and it is latched once no retry of that accumulator is open. CHECKER follows a debug session. A raw access reads
or writes the word, or the granule, that CHK_ADDR names, with its check bits, and says when it names none. -/
def Obligations.DebugAccessCompletes : Prop :=
  ∀ (s : State) (o : Origin) (t k j : Nat), s.Serves → t < 1152 → k < 2304 → j < 8 →
    let page := slicePage k
    let sp := stackPage j
    let may := debugOnly (roleOf o) = true ∨ operatorOnly (roleOf o) = true
    let kept (u : State) : Prop := u.gn = s.gn ∧ u.adm = s.adm ∧ ∀ i, i ≠ t → u.tile i = s.tile i
    let same (u : State) : Prop := kept u ∧ u.mem = s.mem ∧ (u.tile t).scratch = (s.tile t).scratch
    let ctl (i : Nat) (b : Bool) : State := s.order o t offControl (s.withBit t offControl i b)
    let chk (b : Bool) : State := s.order o page offControl (s.withBit page offControl 3 b)
    let chkS (b : Bool) : State := s.order o sp offControl (s.withBit sp offControl 1 b)
    let raw (n : Word) : State := s.order o page 0x214 n
    let rawS (n : Word) : State := s.order o sp 0x288 n
    let closed : Prop := s.spare.opened.contains (t / 36) = false
    (Ends (exec (.rcFlush o t) s) (ctl 2 true) ∧ Ends (exec (.stallClear o t) s) (ctl 3 true) ∧
      Ends (exec (.dbgHalt o t) s) (ctl 1 true) ∧ Ends (exec (.dbgResume o t) s) (ctl 1 false) ∧
      (∀ v, Ends (exec (.dbgAccSel o t v) s) (s.order o t 0x300 v)) ∧
      (∀ b, Ends (exec (.checker o page b) s) (chk b) ∧ Ends (exec (.checker o sp b) s) (chkS b)) ∧
      Ends (exec (.rawRead o page) s) (raw 1) ∧ Ends (exec (.rawWrite o page) s) (raw 2) ∧
      Ends (exec (.rawRead o sp) s) (rawS 1) ∧ Ends (exec (.rawWrite o sp) s) (rawS 2)) ∧
    (closed → anyButDebug (roleOf o) = true → ((ctl 2 true).tile t).rcache = [] ∧ same (ctl 2 true) ∧
      (∀ i, i < 48 → (ctl 3 true).rdN t (0x40 + 4 * i) = 0) ∧ same (ctl 3 true)) ∧
    (closed → debugOnly (roleOf o) = true → ((ctl 1 true).tile t).halting = true ∧ same (ctl 1 true) ∧
      ((ctl 1 false).tile t).halting = false ∧ same (ctl 1 false)) ∧
    (∀ v : Word, closed → s.debugMode t = true → let u := s.order o t 0x300 v
      u.rdN t 0x300 &&& 0x1FF = v.toNat &&& 0x1FF ∧ u.tile t = { s.tile t with dbgRow := none } ∧ same u) ∧
    (let acc := s.field t 0x300 3 0
     let open_ : Prop := s.debugMode t = true ∧ (s.tile t).dbgRow = none ∧ ∀ r ∈ (s.tile t).rescale, r.acc ≠ acc
     (open_ → Ends (exec (.accRowLatch t) s) (s.setTile t { s.tile t with
       dbgRow := some (acc, s.field t 0x300 8 4), dbgAcc := (s.tile t).accAt acc })) ∧
     (¬open_ → Ends (exec (.accRowLatch t) s) s)) ∧
    (debugOnly (roleOf o) = true → s.flag mgmtPage 0x108 2 = true → s.adm.active = none →
      (chk true).flag page offControl 3 = true ∧ same (chk true) ∧ (chkS true).flag sp offControl 1 = true ∧ same (chkS true)) ∧
    (debugOnly (roleOf o) = true → (chk false).flag page offControl 3 = false ∧ same (chk false)) ∧
    (∀ l w, may → s.flag page offControl 3 = true → s.chkWord k = some (l, w) →
      ((raw 1).rd64 page 0x208 = l.word w ∧ (raw 1).rdN page 0x210 = s.storedCheck k l w ∧ (raw 1).flag page 0x218 1 = false ∧
        (raw 1).slices = s.slices ∧ same (raw 1)) ∧
      ((∀ e ∈ (s.slice k).merge, e.seg / 4 ≠ l.line) →
        ((raw 2).slice k).find l.line = some { l with
          data := patch l.data (8 * w) (natLe 8 (s.rd64 page 0x208))
          chk := sset 0 l.chk w (BitVec.ofNat 8 ((if (s.slice k).parity then parCheck (s.rd64 page 0x208)
            else secCheck (s.rd64 page 0x208)) ^^^ s.field page 0x210 7 0)) } ∧ same (raw 2))) ∧
    (may → s.flag page offControl 3 = true → s.chkWord k = none → ∀ n ∈ ([1, 2] : List Word),
      (raw n).flag page 0x218 1 = true ∧ (raw n).slices = s.slices ∧ same (raw n)) ∧
    (∀ g, may → s.flag sp offControl 1 = true → s.chkGranule j = some g →
      ((∀ i, i < 16 → (rawS 1).rdN sp (0x240 + 4 * i) = fieldAt (s.granule g) (4 * i) 4) ∧ (rawS 1).flag sp 0x28C 1 = false ∧
        (rawS 1).ecc = s.ecc ∧ same (rawS 1)) ∧
      ((rawS 2).granule g = (List.range 16).foldl (fun acc i => acc ++ natLe 4 (s.rdN sp (0x240 + 4 * i))) [] ∧
        (∀ h, h ≠ g → (rawS 2).granule h = s.granule h ∧ (rawS 2).ecc64 h = s.ecc64 h) ∧ kept (rawS 2)))

/-- Power, Dusk and domains complete. A sample of the input is shown and kept; two below 36.0 V bring Dusk, and two above
47.0 V stop the module, as HS_LIMIT and a brown-out do, which leave what fuses and flash hold and the slow tier.
ALERT_DARK_N brings Dusk and, once high and with no other cause, lets it end. The throttle takes one step. The loss of a
domain stops what it powers. -/
def Obligations.PowerEventsComplete : Prop :=
  (∀ s : State, s.Serves →
    let page := powPage
    (∀ vin iin,
      let before := s.pow.vin.getD vin
      let cut : Prop := 4700 < vin ∧ 4700 < before
      let dip : Prop := vin < 3600 ∧ before < 3600
      ∃ u, Ends (exec (.inputSample vin iin) s) u ∧ (cut → u.pow.off = true) ∧
        (¬cut → u.rdN inPage 0x100 = vin % 65536 ∧ u.rdN inPage 0x104 = iin % 65536 ∧ u.pow.vin = some vin ∧
          u.pow.powers = (vin * iin :: s.pow.powers).take 10000 ∧ u.mem = s.mem ∧ u.tiles = s.tiles ∧
          (s.pow.below36 = false → dip → u.dusk = true ∧ u.flag page offStatus 1 = true ∧ u.flag inPage offEvt 1 = true) ∧
          (s.pow.below36 = false → ¬dip → u.dusk = s.dusk))) ∧
    Ends (exec .brownOut s) s.cold ∧ Ends (exec .hsLimit s) (finish s (s.raise inPage 4)).cold ∧
    Ends (exec .alertDark s) (((s.setFlag inPage offStatus 2 true).raise inPage 3).duskEnter duskAlert) ∧
    Ends (exec .alertDarkNDeasserted s) (s.setFlag inPage offStatus 2 false) ∧
    (let v := if s.flag inPage offStatus 2 then s else s.setFlag page offStatus duskAlert false
     let drain (u : State) : State := (List.range 16).foldl (fun s p => s.drainEarly (s.earlyCount p) p) u
     let stays : Prop := s.dusk = false ∨ v.duskCauses ≠ 0
     (stays → Ends (exec .duskExit s) v) ∧
     (¬stays → ∃ u, Ends (exec .duskExit s) (drain u) ∧ u.dusk = false ∧ u.flag page offStatus 0 = false ∧
       u.flag page offEvt 1 = true ∧ u.host.kickAt = s.host.kickAt + (s.now - s.pow.duskAt) ∧ u.mem = s.mem ∧
       u.tiles = s.tiles)) ∧
    (let hot := avgAbove s.pow.powers 10000 s.budgetW || avgAbove s.pow.powers 100 1380
     let to_ (n : Nat) : State := s.setField page offStatus 5 4 n
     (hot = true → s.throttle = 0 → Ends (exec .throttleStep s) ((to_ 1).raise page 2)) ∧
     (hot = true → s.throttle ≠ 0 → Ends (exec .throttleStep s) (to_ (min 3 (s.throttle + 1)))) ∧
     (hot = false → Ends (exec .throttleStep s) (to_ (s.throttle - 1)))) ∧
    (∀ d, d < 48 →
      let t := ((s.raise page 5).agRecord 0x200D [d]).setPg d false
      let runs (u : State) : Prop := Ends (exec (.domainFault d) s) u
      (d = 0 ∨ (37 ≤ d ∧ d ≠ 46) → runs t.cold) ∧ (d = 33 ∨ d = 35 → runs (t.loseArray ((d - 33) / 2))) ∧
      (d = 34 ∨ d = 36 → runs (t.dieReset ((d - 34) / 2))) ∧ (d = 46 → runs t.resetHost) ∧
      (1 ≤ d → d ≤ 32 →
        let out := t.tileSwitch (d - 1) false
        out.spare.opened = insNat (d - 1) s.spare.opened ∧
        (∀ u, out.replaceRowSites (d - 1) 3 = some u → runs u) ∧
        (out.replaceRowSites (d - 1) 3 = none → Gives (exec (.domainFault d) s) fun u => u.pow.off = true)))) ∧
  (∀ s : State,
    let u := s.cold
    u.pow.off = true ∧ u.map = s.map ∧ u.mem = s.mem.filter (fun c => slowBase ≤ c.1) ∧ u.tiles = [] ∧ u.pending = [] ∧
    u.mg.floor = s.mg.floor ∧ u.ag.kept = s.ag.kept) ∧
  (∀ (s : State) (c : Nat), c = duskSupply ∨ c = duskAlert ∨ c = duskThermal →
    let u := s.duskEnter c
    u.dusk = true ∧ u.flag powPage offStatus c = true ∧ u.mem = s.mem ∧ u.tiles = s.tiles ∧
    (s.dusk = true → u = s.setFlag powPage offStatus c true) ∧
    (s.dusk = false → u.flag powPage offStatus 0 = true ∧ u.flag powPage offEvt 0 = true ∧ u.pow.duskAt = s.now ∧
      (s.adm.active.isSome = true → bit u.pen.cause 3 = true)))

/-- Spotlight, LEARN_CLEAR and the thermal sample complete. DEMAND, GRANT, ACK and REPORT are sent once their period has
come and not again in it, and taken at an UP port; the tokens move with them. LEARN_CLEAR asks for an empty table. A thermal
sample is kept and shown, and a reading of 110 °C stops the module. -/
def Obligations.SpotlightAndHeatComplete : Prop :=
  ∀ (s : State) (p : Nat) (m : SpotMsg), s.Serves → p < 16 →
    let pow (x : Power) : State := { s with pow := x }
    let heard := s.ctrlIn p
    let hears (x : Power) : State := { heard with pow := x }
    let frame := s.gn.frame
    let floor := s.field powPage 0x110 10 0
    (let now : Prop := s.gn.running = true ∧ frame % 16 = 0 ∧ s.pow.demandAt ≠ some (frame / 16) ∧ s.spotOn = true
     let need := s.spotNeed
     let t := (pow { s.pow with demandAt := some (frame / 16), need := need, granted := false }).wrN powPage 0x124
       (s.pow.lowLast % 65536)
     (now → Ends (exec .demandSend s) (t.neighbourPorts.foldl (fun s q => s.sendCtrl q 4 (spotBytes 0
       { emptySpot with demand := t.pow.lowLast, need := need })) t)) ∧
     (¬now → Ends (exec .demandSend s) s)) ∧
    (let may : Prop := s.gn.running = true ∧ frame % 16 = 1 ∧ s.pow.demandAt = some (frame / 16) ∧ s.pow.granted = false ∧
       s.spotOn = true ∧ s.pow.need < s.tokens ∧ floor < s.tokens
     let asks (x : Nat × SpotMsg) : Prop := x ∈ s.pow.demands ∧ s.pow.lowLast < x.2.demand ∧ s.portUp x.1 = true
     let g := min (min (s.tokens - s.pow.need) (s.tokens - floor)) 64
     (may → (∃ x, asks x) → ∃ x u, asks x ∧ (∀ y, asks y → y.2.demand ≤ x.2.demand) ∧ Ends (exec .grantSend s) u ∧
       u.tokens = s.tokens - g ∧ u.pow.granted = true ∧ u.mem = s.mem ∧ u.tiles = s.tiles ∧
       u.pow.grants = s.pow.grants ++ [{ port := x.1, gseq := s.pow.gseq % 65536, tokens := g }]) ∧
     (¬may ∨ (¬∃ x, asks x) → Ends (exec .grantSend s) s)) ∧
    (let now : Prop := s.gn.running = true ∧ frame % 64 = 0 ∧ s.pow.auditAt ≠ some (frame / 64 % 8192)
     let own : SpotMsg := { emptySpot with
       unsettled := !s.pow.grants.isEmpty, period := frame / 64 % 8192, count := 1, sumH := s.tokens
       sumBase := s.field powPage 0x100 10 0 }
     (now → Ends (exec .tokenReportSend s) (pow { s.pow with own := some own, auditAt := some (frame / 64 % 8192) }).tryAudit) ∧
     (¬now → Ends (exec .tokenReportSend s) s)) ∧
    (s.portUp p = false → ∀ c ∈ [Instr.demand p m, .grant p m, .spotlightAck p m, .tokenReport p m], Ends (exec c s) s) ∧
    (s.portUp p = true →
      let took := if s.spotOn then min m.tokens (1200 - s.tokens) else 0
      Ends (exec (.demand p m) s) (hears { s.pow with demands := sput s.pow.demands p m }) ∧
      Ends (exec (.grant p m) s) ((heard.wrN powPage 0x104 (s.tokens + took)).sendCtrl p 4
        (spotBytes 2 { emptySpot with gseq := m.gseq, tokens := m.tokens - took })) ∧
      (∀ g rest, takeFirst (fun (g : Grant) => g.gseq == m.gseq) s.pow.grants = some (g, rest) →
        Ends (exec (.spotlightAck p m) s) ((hears { s.pow with grants := rest }).wrN powPage 0x104 (s.tokens + m.tokens))) ∧
      ((∀ g ∈ s.pow.grants, g.gseq ≠ m.gseq) → Ends (exec (.spotlightAck p m) s) heard) ∧
      Ends (exec (.tokenReport p m) s) (hears { s.pow with kids := sput s.pow.kids p m }).tryAudit) ∧
    (let t := s.tryAudit
     (s.pow.own = none → t = s) ∧
     (∀ o, s.pow.own = some o → (∃ q ∈ s.kidPorts, ∀ e ∈ s.pow.kids, e.1 = q → e.2.period ≠ o.period) → t = s) ∧
     (∀ o, s.pow.own = some o → (∀ q ∈ s.kidPorts, ∃ e, s.pow.kids.find? (fun e => e.1 == q && e.2.period == o.period) = some e) →
       t.pow = { s.pow with own := none, kids := [] } ∧ t.mem = s.mem ∧ t.tiles = s.tiles ∧
       (s.gn.master = true → s.kidPorts = [] → s.modules = o.count → o.unsettled = false → o.sumH ≠ o.sumBase →
         t.flag powPage offEvt 4 = true))) ∧
    (∀ o, let u := s.order o powPage offControl (s.withBit powPage offControl 1 true)
      Ends (exec (.learnClear o) s) u ∧ (operatorOnly (roleOf o) = true ∨ roleOf o = .host →
        u.pow = { s.pow with clear := true } ∧ u.flag powPage offControl 1 = true ∧ u.mem = s.mem ∧ u.tiles = s.tiles)) ∧
    (∀ x : ThermalSample, ∃ u, Ends (exec (.thermalSample x) s) u ∧
      ((∃ n, n < 192 ∧ 440 ≤ s.reading x n) → u.pow.off = true) ∧
      (u.pow.off = true ∨ (u.therm.raw = (List.range 192).map (fun n => (n, s.reading x n)) ∧
        u.rdN thermPage 0x130 = x.flow % 4096 ∧ u.mem = s.mem ∧ u.gn = s.gn)))

/-- Samples, reports and orders of holds complete. A module samples its inputs once at a frame that is a multiple of 64, and
sends its report or acts on it; it takes a child's report at an UP port. HOLD_REQ of an operator asks for a hold, which a
master of a running job orders at once. A module takes the order of its upstream. The hold begins once the module is due and
quiet, and ends at its frame with the cause and its length recorded. SNAP_DONE completes the snapshot once what had to wait
for the end of the hold may be copied; DRAIN_DONE ends the drains, but not as done while a part of them is open. In any other
case each of these commands changes nothing, or only takes its message. -/
def Obligations.HoldsComplete : Prop :=
  (∀ (s : State) (p : Nat) (m : PenumbraMsg), s.Serves → p < 16 →
      let pen (u : State) (x : Pen) : State := { u with pen := x }
      let heard := s.ctrlIn p
      (∀ l : List Bool,
        let due : Prop := s.gn.running = true ∧ s.gn.frame % 64 = 0 ∧ s.pen.sampleAt ≠ some s.gn.frame
        let x := (List.range 11).foldl (fun s i => s.penInputSample i (l.getD i true)) s.budgetCheck
        let z := (pen x { x.pen with sampleAt := some s.gn.frame }).penScore.seek
        (due → Ends (exec (.penumbraSample l) s) (if z.gn.master then z.masterAct
          else z.penUp 0 (z.pen.kids.foldl (fun a k => mergePen a k.2) z.ownReport))) ∧
        (¬due → Ends (exec (.penumbraSample l) s) s)) ∧
      (s.portUp p = false → Ends (exec (.penumbraReport p m) s) s) ∧
      (s.portUp p = true → Ends (exec (.penumbraReport p m) s) (((pen heard { s.pen with
        kids := sput s.pen.kids p m, planUs := if s.pen.fh.isSome then max s.pen.planUs m.tUs else s.pen.planUs }).setField
          penPage 0x100 31 16 (m.score % 65536)).masterAct)) ∧
      (s.gn.upstream = none → Ends (exec (.boundaryHoldOrder m) s) s) ∧
      (∀ q, s.gn.upstream = some q →
        let down := (s.ctrlIn q).penDown 0 m
        (down.holdState ≠ 0 ∨ down.adm.active = none → Ends (exec (.boundaryHoldOrder m) s) down) ∧
        (down.holdState = 0 → down.adm.active.isSome = true →
          Ends (exec (.boundaryHoldOrder m) s) (down.takeHold (m.frame + 1) m.holdNo m.cause)))) ∧
  (∀ (s : State) (o : Origin), s.Serves →
      let u := s.order o penPage offControl (s.withBit penPage offControl 0 true)
      Ends (exec (.holdReq o) s) u ∧ (operatorOnly (roleOf o) = true → s.flag penPage offControl 1 = false →
        u.flag penPage offControl 0 = true ∧ u.mem = s.mem ∧
        (∀ i, s.adm.active = some i → s.gn.master = true → s.gn.running = true → s.holdState = 0 → s.pen.kids = [] →
          s.deadPorts = [] → s.pen.failed = false → bit s.pen.cause 7 = false →
          u.holdState = 1 ∧ u.pen.fh = some (s.chooseFh i) ∧ u.pen.ordNo = s.pen.nextNo))) ∧
  (∀ (s : State) (i : Nat) (answered : Bool), i < 11 →
      let old := sget 0 s.pen.x i
      let n := sget 0 s.pen.missed i + 1
      let inc := sget 0 s.pen.raw i
      let win := winAdd s.winTurns (if inc ≤ 2 ^ 20 then inc else 0) (sget [] s.pen.win i)
      let u := s.penInputSample i answered
      (answered = false → sget 0 u.pen.x i = (if n < 16 then old else max old (xOne / 2)) ∧ sget 0 u.pen.missed i = n) ∧
      (answered = true → windowed i = true → sget 0 u.pen.raw i = 0 ∧ sget [] u.pen.win i = win ∧
        sget 0 u.pen.x i = if inc ≤ 2 ^ 20 then min xOne (win.foldl (· + ·) 0 * (xOne / penScale i)) else old) ∧
      (answered = true → windowed i = false → sget 0 u.pen.x i = (s.xNow i).getD old) ∧
      u.mem = s.mem ∧ u.tiles = s.tiles ∧ s.budgetCheck.rdN sparePage 0x110 = argmax s.budgets) ∧
  (∀ (s : State) (w : HoldWork), s.Serves →
      (s.holdDue = false → Ends (exec (.holdBegin w) s) s) ∧
      (s.holdDue = true → s.pen.restore = false → ∃ u, Ends (exec (.holdBegin w) s) u ∧
        u.holdState = 2 ∧ u.flag penPage offControl 0 = false ∧ u.flag penPage offEvt 0 = true ∧ u.pen.holdAt = s.now ∧
        u.rdN penPage 0x134 = s.pen.ordNo % 2 ^ 32 ∧ (s.memOk → u.memOk)) ∧
      (s.holdDue = true → s.pen.restore = true → ∃ t : State, Ends (exec (.holdBegin w) s) t.restoreBegin ∧
        t.holdState = 4 ∧ t.flag penPage offControl 0 = false ∧ t.flag penPage offEvt 0 = true ∧ t.mem = s.mem)) ∧
  (∀ s : State, s.Serves →
      let pen (u : State) (x : Pen) : State := { u with pen := x }
      (let due : Prop := s.holdState = 2 ∧ ∃ f, s.pen.fh = some f ∧ f ≤ s.gn.frame
       (¬due → Ends (exec .holdEnd s) s) ∧
       (due → ∃ u, Ends (exec .holdEnd s) u ∧ u.holdState = 0 ∧ u.pen.fh = none ∧ u.pen.causes = 0 ∧
         u.flag penPage offEvt 1 = true ∧ u.rdN penPage 0x138 = (s.now - s.pen.holdAt - s.pen.duskIn) / 200 % 2 ^ 32 ∧
         u.rdN powPage 0x104 = s.field powPage 0x100 10 0 ∧ u.mem = s.mem)) ∧
      (let due (j : SnapJob) : Prop := s.pen.snap = some j ∧ s.adm.active.isSome = true ∧ (j.later = [] ∨ s.holdState = 0)
       ((¬∃ j, due j) → Ends (exec .snapDone s) s) ∧
       (∀ j, due j → ∃ u, Ends (exec .snapDone s) u ∧ u.pen.snap = none ∧ u.flag penPage offStatus 3 = true ∧
         u.flag penPage offEvt 2 = true ∧ u.rdN penPage 0x12C = j.step % 2 ^ 32 ∧ (s.memOk → u.memOk))) ∧
      (let done := (pen s { s.pen with draining := none, storing := false, partner := none }).setFlag penPage offStatus 4 false
       (s.pen.draining = none → ∀ ok, Ends (exec (.drainDone ok) s) s) ∧
       (∀ n, s.pen.draining = some n →
         (s.drainOpen = true → Ends (exec (.drainDone true) s) s) ∧
         (s.drainOpen = false → Ends (exec (.drainDone true) s) ((done.wrN penPage 0x154 100).raise penPage 3)) ∧
         Ends (exec (.drainDone false) s) (done.raise penPage 4))))

/-- Parks and restores complete. A module parks on its upstream's order and on a rollback; on RESTORE_REQ of an operator; and,
being the master, when a hold has not begun in time: queues, counters and messages go and scratch stays. It takes READY of a
child and the order of the restore hold. A restore whose copy is complete, and whose frame has come, brings back the step of
its header when the copy fits, and parks the module again when it does not. In any other case each of these commands changes
nothing, or only takes its message. -/
def Obligations.RestoresComplete : Prop :=
  (∀ (s : State) (p : Nat) (m : PenumbraMsg), s.Serves → p < 16 →
      let pen (u : State) (x : Pen) : State := { u with pen := x }
      let heard := s.ctrlIn p
      (3 ≤ s.holdState ∨ (s.steps.rollTo = false ∧ s.gn.upstream = none) → Ends (exec .park s) s) ∧
      (s.holdState < 3 → s.steps.rollTo = true → Ends (exec .park s) s.park.seek) ∧
      (∀ q, s.holdState < 3 → s.steps.rollTo = false → s.gn.upstream = some q →
        Ends (exec .park s) (((s.ctrlIn q).penDown 1 { emptyPen with cause := 128 }).park.seek)) ∧
      (let late : Prop := s.gn.master = true ∧ s.holdState = 1 ∧ ∃ f, s.pen.fh = some f ∧ f + 8192 ≤ s.gn.frame
       (late → Ends (exec .holdTimeout s) s.orderPark.seek) ∧ (¬late → Ends (exec .holdTimeout s) s)) ∧
      (s.portUp p = false → Ends (exec (.ready p m) s) s) ∧
      (s.portUp p = true → Ends (exec (.ready p m) s) (pen heard { s.pen with ready := sput s.pen.ready p m }).tryReady.seek) ∧
      (s.gn.upstream = none → Ends (exec (.restoreHold m) s) s) ∧
      (∀ q, s.gn.upstream = some q →
        let down := (s.ctrlIn q).penDown 2 m
        (s.holdState ≠ 3 → Ends (exec (.restoreHold m) s) down) ∧
        (s.holdState = 3 → Ends (exec (.restoreHold m) s)
          (pen down { s.pen with fh := some (m.frame + 1), restore := true, target := m.step }).seek))) ∧
  (∀ (s : State) (o : Origin), s.Serves →
      let u := s.order o penPage offControl (s.withBit penPage offControl 1 true)
      Ends (exec (.restoreReq o) s) u ∧ (operatorOnly (roleOf o) = true → s.flag penPage offControl 0 = false →
        s.gn.master = false → s.holdState < 3 → u.holdState = 3 ∧ u.flag penPage offControl 1 = true ∧ u.glints = [] ∧
        ∀ t, (u.tile t).dmaq = [] ∧ (u.tile t).scratch = (s.tile t).scratch)) ∧
  (∀ s : State,
      let u := s.park
      (3 ≤ s.holdState → u = s ∧ s.orderPark = s) ∧
      (s.holdState < 3 → u.glints = [] ∧ (∀ t, (u.tile t).dmaq = [] ∧ (u.tile t).cc = [] ∧ (u.tile t).kc = [] ∧
        (u.tile t).mbox = [] ∧ (u.tile t).scratch = (s.tile t).scratch) ∧ u.flag penPage offEvt 6 = true ∧
        (s.gn.master = false → u.holdState = 3))) ∧
  (∀ s : State, s.Serves →
      let start (f : Nat) : Option Nat := match s.gn.dec with
        | some x => if x.frame + 1 = f then some x.next else none
        | none => none
      let due (f : Nat) : Prop := if s.gn.running then f ≤ s.gn.frame else ∃ x, start f = some x ∧ x ≤ s.gn.count
      let ready (c : Cand) (i : Image) : Prop := s.pen.pick = some c ∧ s.restoreImage = some i ∧
        (∃ f, s.pen.fh = some f ∧ due f) ∧ s.holdState = 4 ∧ s.restoreIn = true
      ((¬∃ c i, ready c i) → Ends (exec .restoreDone s) s) ∧
      (∀ c i, ready c i →
        let r := s.restoreData c
        (snapFits i r.1 = false → Ends (exec .restoreDone s) (r.2.restoreRefuse true) ∧
          (s.gn.master = false → (r.2.restoreRefuse true).holdState = 3 ∧ (r.2.restoreRefuse true).pen.pick = none ∧
            (r.2.restoreRefuse true).flag penPage offEvt 8 = true)) ∧
        (snapFits i r.1 = true → ∃ u, Ends (exec .restoreDone s) u ∧ u.holdState = 2 ∧ u.pen.pick = none ∧
          u.flag penPage offControl 1 = false ∧ u.flag penPage offEvt 7 = true ∧
          u.steps.step = fieldAt ((r.1.take 256).map (·.val)) 8 6)))

/-- The commands of STAGE_CMD complete as orders. For every role but debug: the tile of a retired site or row moves to spares
in the staged map, a self-test or re-admission begins, a staged map is withdrawn, and one that may not act changes nothing. The
end of a self-test lets a site that passes a re-admission go on to SPARE, and one that fails be FAULTED, its tile moving to a
spare; without a test it does nothing. -/
def Obligations.SparingCompletes : Prop :=
  (∀ (s : State) (o : Origin), s.Serves →
      let u (n : Word) : State := s.order o sparePage 0x104 n
      let t := s.field sparePage 0x100 10 0
      let r := t / 36
      let st := (s.siteEnt t).st
      let kept (u : State) : Prop := u.mem = s.mem ∧ u.tiles = s.tiles ∧ u.gn = s.gn
      let begun (x : SelfTest) (u : State) : Prop := kept u ∧ u.flag sparePage offStatus 2 = true ∧
        u.spare.test = some { x with back := x.sites.filter fun t => (s.siteEnt t).st == 1 } ∧
        (s.gn.running = true → u.map = s.map ∧ u.spare.waiting = s.spare.waiting ++ (x.sites.filter fun t =>
          (s.siteEnt t).st == 1 || (s.siteEnt t).st == 3).map fun t => (t, 2, false))
      let may : Prop := anyButDebug (roleOf o) = true ∧ t < 1152
      (Ends (exec (.retireSite o) s) (u 1) ∧ Ends (exec (.retireRow o) s) (u 2) ∧ Ends (exec (.readmitSite o) s) (u 3) ∧
        Ends (exec (.readmitRow o) s) (u 4) ∧ Ends (exec (.selfTest o) s) (u 5) ∧ Ends (exec (.withdrawStagedMap o) s) (u 6)) ∧
      (∀ n ∈ ([1, 2, 3, 4, 5, 6] : List Word), anyButDebug (roleOf o) = false ∨ s.stageCmd n.toNat = none →
        (u n).spare = s.spare ∧ (u n).map = s.map ∧ kept (u n)) ∧
      (∀ m, may → (mapEnt s.mapBase t).st = 0 → s.fuseOk 0 = true → moveTiles 2 [t] [t] s.mapBase = some m →
        (u 1).spare = { s.spare with staged := some m } ∧ (u 1).map = s.map ∧ kept (u 1)) ∧
      (∀ m, may → s.spare.opened.contains r = false → s.spare.toOpen.contains r = false → s.fuseOk 0 = true →
        moveTiles 2 (rowSites r) (rowSites r) s.mapBase = some m →
        (u 2).spare = { s.spare with staged := some m, toOpen := insNat r s.spare.toOpen } ∧ (u 2).map = s.map ∧ kept (u 2)) ∧
      (may → 2 ≤ st → s.spare.opened.contains r = false → s.spare.test = none →
        begun { sites := [t], readmit := true, row := false } (u 3)) ∧
      (may → s.outSites r ≠ [] → s.spare.test = none →
        begun { sites := s.outSites r, readmit := true, row := true } (u 4) ∧
        (u 4).spare.opened = s.spare.opened.filter (· != r)) ∧
      (may → st ≠ 3 → st ≠ 0 ∨ s.adm.active = none → s.spare.opened.contains r = false → s.spare.test = none →
        begun { sites := [t], readmit := false, row := false } (u 5)) ∧
      (may → s.spare.staged.isSome = true →
        (u 6).spare = { s.spare with staged := none, toOpen := [] } ∧ (u 6).map = s.map ∧ kept (u 6))) ∧
  (∀ s : State, s.Serves →
      (s.spare.test = none → ∀ pass, Ends (exec (.selftestDone pass) s) s) ∧
      (∀ x, s.spare.test = some x →
        let ended : State := (s.modSpare fun y => { y with test := none }).setFlag sparePage offStatus 2 false
        let told (b : Nat) : State := x.sites.foldl (fun s t => s.agRecord 0x1001 [t, b]) ended
        let bad := x.sites.foldl (fun s t =>
          if s.carrying t then ((s.replaceSites [t] 3).getD s.spend).raise sparePage 0 else s.siteLater t 3)
          ((told 1).raise sparePage 4)
        let cut := if x.row then x.sites.foldl (fun s t => s.tileSwitch (t / 36) false) bad else bad
        (x.readmit = true → Ends (exec (.selftestDone true) s)
          (x.sites.foldl (fun s t => (s.siteClean t).siteLater t 1 true) (told 0))) ∧
        (x.readmit = false → Ends (exec (.selftestDone true) s) (x.back.foldl (fun s t => s.siteLater t 1) (told 0))) ∧
        Ends (exec (.selftestDone false) s) (x.sites.foldl (fun s t => s.rowOut (t / 36)) cut))) ∧
  (∀ (s : State) (t st : Nat) (b : Bool),
      (s.gn.running = true → (s.siteLater t st b).spare = { s.spare with waiting := s.spare.waiting ++ [(t, st, b)] } ∧
        (s.siteLater t st b).map = s.map) ∧
      (s.gn.running = false → t < 1152 → s.spare.staged = none → (s.siteLater t st b).siteEnt t =
        { s.siteEnt t with tile := 0, st := st }) ∧
      ((s.siteClean t).tile t).cc = [] ∧ ((s.siteClean t).tile t).rcache = [] ∧ ((s.siteClean t).tile t).dmaq = [])

/-! ## Management -/

/-- POWER_ON completes. A module in service has its input already: nothing happens. A module without power counts the boot,
loses every location that power does not keep, and keeps the slow tier, the site map and what its flash and fuses hold. With
flash that reads and a sound slot it is in service, sealed and healthy, with its ports training; it runs the other slot where
only that is sound, and says so. It halts where the slots, the soft fuses or the site map cannot be read, and waits for a bundle
where no slot is sound. RECOVERY_BUNDLE completes: a bundle that nobody waits for, or longer than a slot, does nothing;
another is written to slot A, and one that is sound there restarts the controller, which POWER_ON then brings up. -/
def Obligations.PowerOnCompletes : Prop :=
  (∀ (s : State) (e : BootEnv),
      let u := s.powerOn e
      let cold : Prop := s.mg.restarted = false
      let sound : Prop := s.slotOk s.mg.active = true ∨ s.slotOk s.otherSlot = true
      let goes : Prop := s.mg.restarted = true ∨ (e.slotsOk = true ∧ sound)
      let halts : Prop := u.pow.off = true ∧ u.mg.recovery = true ∧ u.flag mgmtPage offEvt 9 = true
      (s.pow.off = false → exec (.powerOn e) s = .next s) ∧
      (s.pow.off = true →
        Ends (exec (.powerOn e) s) u ∧
        (cold → u.rdN mgmtPage 0x1C4 = (s.rdN mgmtPage 0x1C4 + 1) % 2 ^ 32 ∧ u.tiles = [] ∧
          u.mem = s.mem.filter (fun c => slowBase ≤ c.1) ∧ u.map = s.map ∧ u.mg.keys = s.mg.keys ∧ u.mg.floor = s.mg.floor ∧
          u.mg.sessions = []) ∧
        (cold → e.slotsOk = false → halts) ∧
        (cold → e.slotsOk = true → ¬sound →
          u.pow.off = true ∧ u.mg.recovery = true ∧ u.flag mgmtPage offStatus 4 = true) ∧
        (goes → (e.softFusesOk && e.siteMapOk) = false → halts) ∧
        (goes → e.softFusesOk = true → e.siteMapOk = true → u.pow.off = false ∧ u.mg.sealed = true ∧ u.mg.health = true ∧
          u.mg.restarted = false ∧ ∀ p, p < 16 → u.portSt p = if u.portUnused p then 6 else 1) ∧
        (cold → e.slotsOk = true → s.slotOk s.mg.active = true → u.mg.active = s.mg.active) ∧
        (cold → e.slotsOk = true → s.slotOk s.mg.active = false → s.slotOk s.otherSlot = true →
          u.mg.active = s.otherSlot ∧ u.flag mgmtPage offEvt 6 = true))) ∧
  (∀ (s : State) (b : List Byte),
      let t := s.putSlot 0 0 b
      let v := (t.modMg fun g => { g with recovery := false, restarted := true }).setFlag mgmtPage offStatus 4 false
      let u := v.selectSlot.getD v
      (s.mg.recovery = false ∨ 2 ^ 25 < b.length → exec (.recoveryBundle b) s = .next s) ∧
      (s.mg.recovery = true → b.length ≤ 2 ^ 25 →
        (t.slotOk 0 = false → exec (.recoveryBundle b) s = .next t) ∧
        (t.slotOk 0 = true → Ends (exec (.recoveryBundle b) s) u ∧ u.mg.recovery = false ∧ u.mg.restarted = true ∧
          u.slotOk u.mg.active = true ∧ u.flag mgmtPage offStatus 4 = false ∧ u.mem = s.mem ∧ u.tiles = s.tiles)))

/-- Sessions open, complete their commands and close. HELLO is answered with a CHALLENGE. A RESPONSE to it is answered with
ACCEPT where the slot, the role and the signature allow the session, and else with REJECT. An authentic COMMAND that its role may
give and whose form is right has its effect, is in the journal before it, and is answered: with OK, or with what its access to a
register gave; an access to a system unit is answered once the members have. One that its role may not give is answered ACCESS,
and one of a wrong form FORMAT, neither with an effect. Any other COMMAND is discarded, journalled and counted, and the
sixteenth such one closes the session. CLOSE, the revocation of its key and a timeout of silence close sessions. -/
def Obligations.SessionFamilyCompletes : Prop :=
  (∀ s : State, s.Serves →
      (∀ nonce slot role, ∃ u, Ends (exec (.hello nonce slot role) s) u ∧
        (∃ x, u.mg = { s.mg with shakes := s.mg.shakes ++ [x] } ∧ x.id = s.nextId ∧ x.slot = slot ∧ x.role = role) ∧
        (∃ d, u.out = s.out ++ [.session s.nextId 1 d]) ∧ u.body = { s.body with mg := u.mg, nextId := s.nextId + 1 }) ∧
      (∀ hs ct sig, takeFirst (fun (x : Shake) => x.id == hs) s.mg.shakes = none → Ends (exec (.response hs ct sig) s) s) ∧
      (∀ hs x rest ct sig, takeFirst (fun (x : Shake) => x.id == hs) s.mg.shakes = some (x, rest) →
        let hash := sha256 (x.script ++ Config.message 2 [ct])
        let good := s.mayOpen x && Config.sigVerify (((sfind s.mg.keys x.slot).map (·.key)).getD []) hash sig
        (good = true → ∃ u, Ends (exec (.response hs ct sig) s) u ∧
          (∃ y, u.mg = { s.mg with shakes := rest, sessions := s.mg.sessions ++ [y] } ∧ y.slot = x.slot ∧ y.role = x.role ∧
            y.ctr = none ∧ y.key = hkdf32 hash (Config.kemDecaps x.rand ct) (ascii "ZT3 session") ∧
            (∀ z ∈ s.mg.sessions, z.sid ≠ y.sid) ∧
            u.out = s.out ++ [.session hs 3 (Config.message 3 [natLe 4 y.sid, natLe 2 x.slot])]) ∧
          u.flag mgmtPage offEvt 0 = true ∧ u.body = { s.body with mg := u.mg }) ∧
        (good = false → Ends (exec (.response hs ct sig) s)
          (((s.modMg fun g => { g with shakes := rest }).raise mgmtPage 1).say (.session hs 4 (Config.message 4 []))))) ∧
      (∀ sid, Ends (exec (.sessionIdleTimeout sid) s) (s.closeWhere fun y => y.sid == sid && s.idleOver y))) ∧
  (∀ (s : State) (sid ctr page off : Nat) (v : Word) (tag : List Byte) (x : Sess),
      let taken := s.modMg fun g => { g with sessions := g.sessions.map fun y =>
        if y.sid == sid then { y with ctr := some ctr, heard := s.now } else y }
      let entry (code : Nat) (fields : List (List Byte)) := taken.sessEntry (some x) code stPending
        (natLe 4 sid ++ natLe 8 ctr ++ Config.message (256 + code) fields) (some (regAddr page off))
      let rd := entry 1 [natLe 4 page, natLe 4 off]
      let wr := entry 2 [natLe 4 page, natLe 4 off, natLe 4 v.toNat]
      let at_ (e : JEnt × State) := e.2.append e.1
      let answer (e : JEnt × State) (st : Nat) (d : List Byte) (u : State) : State :=
        (u.jFinish (at_ e).1 st (leNat d) e.1).replySess x ctr st d
      (s.Authentic sid ctr 1 [natLe 4 page, natLe 4 off] tag x →
        let r := (at_ rd).2.readNow x.origin page off
        (isSystemUnit page = false → r.1 ≠ stPending → Ends (exec (.sessionRegRead sid ctr page off tag) s)
          (answer rd r.1 (natLe 4 r.2.1.toNat) r.2.2)) ∧
        (isSystemUnit page = true → Ends (exec (.sessionRegRead sid ctr page off tag) s)
          ((at_ rd).2.compBegin x.origin (.session sid ctr) ((at_ rd).2.jAt (at_ rd).1) (page - 0x3000) off none)) ∧
        (page < 0x480 → wideOf page off = none → isDelay page off = false →
          r = (stOk, s.regValue page off, (at_ rd).2))) ∧
      (s.Authentic sid ctr 2 [natLe 4 page, natLe 4 off, natLe 4 v.toNat] tag x →
        let r := (at_ wr).2.writeNow x.origin page off v
        (isSystemUnit page = false → r.1 ≠ stPending → Ends (exec (.sessionRegWrite sid ctr page off v tag) s)
          (answer wr r.1 [] r.2)) ∧
        (isSystemUnit page = true → Ends (exec (.sessionRegWrite sid ctr page off v tag) s)
          ((at_ wr).2.compBegin x.origin (.session sid ctr) ((at_ wr).2.jAt (at_ wr).1) (page - 0x3000) off (some v))) ∧
        (page < 0x480 → off = offEvtEn → x.role < 2 → s.spare.opened.contains (page / 36) = false →
          r.1 = stOk ∧ r.2.rdN page offEvtEn &&& 0x3FFFF = v.toNat &&& 0x3FFFF ∧ r.2.mem = s.mem ∧ r.2.tiles = s.tiles))) ∧
  (∀ (s : State) (sid ctr : Nat) (tag : List Byte) (x : Sess),
      let taken : Mgmt := { s.mg with sessions := s.mg.sessions.map fun y =>
        if y.sid == sid then { y with ctr := some ctr, heard := s.now } else y }
      let ended (code st : Nat) (d : List Byte) (g : Mgmt) (u : State) : Prop :=
        u.mg = g ∧ u.out = s.out ++ [x.reply ctr st d] ∧ u.host.nextSeq = s.host.nextSeq + 1 ∧
        (∃ e, sfind u.host.journal (s.host.nextSeq % 65536) = some e ∧ e.opcode = code ∧ e.status = st ∧
          e.cls = classOfOrigin x.origin ∧ e.source = sourceOf x.origin ∧ e.seq = s.host.nextSeq) ∧
        u.body = { s.body with mg := g, host := u.host, ag := u.body.ag }
      let does (c : Instr) (code : Nat) (d : List Byte) (g : Mgmt) (p : State → Prop) : Prop :=
        ∃ u, Ends (exec c s) u ∧ ended code stOk d g u ∧ p u
      let quiet (u : State) : Prop := u.ag = s.ag
      let refuses (c : Instr) (code : Nat) : Prop := ∃ u, Ends (exec c s) u ∧ ended code stAccess [] taken u ∧ u.ag = s.ag
      let malformed (c : Instr) (code : Nat) : Prop := ∃ u, Ends (exec c s) u ∧ ended code stFormat [] taken u ∧ u.ag = s.ag
      (∀ off d, s.Authentic sid ctr 3 [natLe 4 off, d] tag x →
        let c := Instr.fwWrite sid ctr off d tag
        let fits : Prop := d.length ≤ 61440 ∧ off + d.length ≤ 2 ^ 25
        (2 ≤ x.role → refuses c 3) ∧ (x.role < 2 → ¬fits → malformed c 3) ∧
        (x.role < 2 → fits → ∃ u, Ends (exec c s) u ∧ ended 3 stOk [] u.mg u ∧ u.slotBytes s.otherSlot off d.length = d ∧
          u.mg.staging = false ∧ u.mg.stagedOk = false ∧ u.mg.sessions = taken.sessions ∧ u.mg.active = s.mg.active ∧
          (s.mg.active = 0 → u.mg.slotA = s.mg.slotA) ∧ (s.mg.active = 1 → u.mg.slotB = s.mg.slotB))) ∧
      (∀ nonce, s.Authentic sid ctr 4 [nonce] tag x → ∃ d, does (.quote sid ctr nonce tag) 4 d taken quiet ∧
        slice d 8 32 = slice nonce 0 32 ∧ (s.mg.digest.length = 32 → slice d 48 32 = s.mg.digest)) ∧
      (s.Authentic sid ctr 5 [] tag x →
        does (.certReadAndLogRead sid ctr tag) 5 (Config.certificate ++ s.logBytes) taken quiet) ∧
      (∀ n key roles, s.Authentic sid ctr 6 [natLe 1 n, key, natLe 1 roles] tag x →
        let c := Instr.keyEnroll sid ctr n key roles tag
        let fits : Prop := n < 16 ∧ key.length = 32 ∧ roles < 8
        (x.role ≠ 1 → refuses c 6) ∧ (x.role = 1 → ¬fits → malformed c 6) ∧
        (x.role = 1 → fits → does c 6 [] { taken with keys := sput s.mg.keys n { key := key, roles := roles } } fun u =>
          u.flag mgmtPage offEvt 7 = true)) ∧
      (∀ n, s.Authentic sid ctr 7 [natLe 1 n] tag x →
        let c := Instr.keyRevoke sid ctr n tag
        (x.role ≠ 1 → refuses c 7) ∧ (x.role = 1 → 16 ≤ n → malformed c 7) ∧
        (x.role = 1 → n < 16 → does c 7 [] { taken with
          keys := sdel s.mg.keys n, sessions := taken.sessions.filter fun y => !(y.slot == n) } fun u =>
            u.flag mgmtPage offEvt 7 = true)) ∧
      (∀ rec : List Word, s.Authentic sid ctr 8 (rec.map fun w => natLe 4 w.toNat) tag x →
        let c := Instr.configWrite sid ctr rec tag
        (x.role ≠ 1 → refuses c 8) ∧ (x.role = 1 → rec.length ≠ 7 → malformed c 8) ∧
        (x.role = 1 → rec.length = 7 → does c 8 [] { taken with config := some rec } quiet)) ∧
      (s.Authentic sid ctr 9 [] tag x →
        (x.role ≠ 1 → refuses (.svnCommit sid ctr tag) 9) ∧
        (x.role = 1 → does (.svnCommit sid ctr tag) 9 [] { taken with
          floor := max s.mg.floor (min 64 (s.fwSvn s.mg.active)) } quiet)) ∧
      (s.Authentic sid ctr 10 [] tag x →
        (x.role ≠ 1 → refuses (.afterglowClear sid ctr tag) 10) ∧
        (x.role = 1 → s.ag.clearing = true → does (.afterglowClear sid ctr tag) 10 [] taken fun u =>
          u.ag = { s.ag with clearReq := s.ag.clearReq ++ [x.slot] }) ∧
        (x.role = 1 → s.ag.clearing = false → does (.afterglowClear sid ctr tag) 10 [] taken fun u =>
          u.ag.clearing = true ∧ u.ag.next = 1 ∧ u.ag.caps = [] ∧ u.flag agPage offEvt 2 = true ∧
          ∃ r, u.ag.kept = [(0, r)] ∧ r.code = 0x200C)) ∧
      (s.Authentic sid ctr 11 [] tag x → does (.close sid ctr tag) 11 [] { taken with
        sessions := taken.sessions.filter fun y => !(y.sid == sid) } quiet)) ∧
  (∀ (s : State) (sid ctr : Nat) (tag : List Byte), s.Serves →
      let who := s.mg.sessions.find? (·.sid == sid)
      let bad (code : Nat) (fields : List (List Byte)) : Prop := ∀ x ∈ who,
        tag ≠ tagOfMsg x.key sid ctr (Config.message (256 + code) fields) ∨ ∃ c ∈ x.ctr, ctr ≤ c
      let drops (c : Instr) (code : Nat) (fields : List (List Byte)) : Prop := bad code fields →
        Ends (exec c s) (s.discardCmd sid ctr code who (natLe 4 sid ++ natLe 8 ctr ++ Config.message (256 + code) fields))
      (∀ (n m : Nat) (v : Word) (a : List Byte) (rec : List Word),
        drops (.sessionRegRead sid ctr n m tag) 1 [natLe 4 n, natLe 4 m] ∧
        drops (.sessionRegWrite sid ctr n m v tag) 2 [natLe 4 n, natLe 4 m, natLe 4 v.toNat] ∧
        drops (.fwWrite sid ctr n a tag) 3 [natLe 4 n, a] ∧ drops (.quote sid ctr a tag) 4 [a] ∧
        drops (.certReadAndLogRead sid ctr tag) 5 [] ∧ drops (.keyEnroll sid ctr n a m tag) 6 [natLe 1 n, a, natLe 1 m] ∧
        drops (.keyRevoke sid ctr n tag) 7 [natLe 1 n] ∧
        drops (.configWrite sid ctr rec tag) 8 (rec.map fun w => natLe 4 w.toNat) ∧ drops (.svnCommit sid ctr tag) 9 [] ∧
        drops (.afterglowClear sid ctr tag) 10 [] ∧ drops (.close sid ctr tag) 11 []) ∧
      (∀ code msg, let u := s.discardCmd sid ctr code who msg
        u.out = s.out ++ [.discarded sid ctr] ∧ u.host.nextSeq = s.host.nextSeq + 1 ∧ u.flag mgmtPage offEvt 2 = true ∧
        (s.rdN mgmtPage 0x13C + 1 < 2 ^ 32 → u.rdN mgmtPage 0x13C = s.rdN mgmtPage 0x13C + 1) ∧
        u.mg = { s.mg with sessions := (s.mg.sessions.map fun y =>
          if y.sid == sid then { y with fails := y.fails + 1, heard := s.now } else y).filter fun y =>
            !(y.sid == sid && decide (16 ≤ y.fails)) } ∧
        u.body = { s.body with mg := u.mg, host := u.host }))

/-- Orders of firmware, quotes, the key window and CLOSE_ALL complete. For a role that may give it, with what it needs in place:
FW_VERIFY begins the check of the inactive slot, FW_ACTIVATE while no image runs puts the staged bundle in force where the
agents' own checks pass and its SVN is not below the floor, FW_DISCARD drops it; a quote, a certificate or the log is asked for;
the host enrols the first key; and every session is closed. In any other case the firmware, the quotes, the keys and the sessions
stay. The end of a check stages a sound bundle, for which a hold is requested; the end of a quote writes it to the host region,
or nothing outside it. -/
def Obligations.FirmwareAndQuotesComplete : Prop :=
  (∀ (s : State) (o : Origin), s.Serves →
      let fw (v : Word) : State := s.order o mgmtPage 0x124 v
      let ask (v : Word) : State := s.order o mgmtPage 0x168 v
      let kept (u : State) : Prop := u.tiles = s.tiles ∧ u.gn = s.gn ∧ u.adm = s.adm ∧ u.mem = s.mem
      let shows (n : Nat) (u : State) : Prop := u.field mgmtPage 0x128 2 0 = n ∧ kept u
      let same (u : State) : Prop := u.mg = s.mg ∧ kept u
      let op : Prop := operatorOnly (roleOf o) = true
      let q (kind : Nat) : QuoteReq :=
        { kind := kind, dst := s.field mgmtPage 0x160 31 6 * 64 + s.field mgmtPage 0x164 15 0 * 2 ^ 32
          nonce := (List.range 8).foldl (fun acc k => acc ++ natLe 4 (s.rdN mgmtPage (0x180 + 4 * k))) [] }
      (Ends (exec (.fwVerify o) s) (fw 1) ∧
        (op → s.mg.staging = false → s.mg.stagedOk = false → (fw 1).mg = { s.mg with staging := true } ∧ shows 1 (fw 1)) ∧
        (¬op ∨ s.mg.staging = true ∨ s.mg.stagedOk = true → same (fw 1))) ∧
      (Ends (exec (.fwActivate o) s) (fw 2) ∧
        (op → s.mg.stagedOk = true → s.adm.active = none →
          (∃ ok : Bool, (fw 2).mg.active = if ok ∧ s.mg.floor ≤ s.fwSvn s.otherSlot then s.otherSlot else s.mg.active) ∧
          (fw 2).mg.stagedOk = false ∧ (fw 2).mg.keys = s.mg.keys ∧ (fw 2).mg.sessions = s.mg.sessions ∧ shows 0 (fw 2)) ∧
        (¬op ∨ s.mg.stagedOk = false ∨ s.adm.active.isSome = true → same (fw 2))) ∧
      (Ends (exec (.fwDiscard o) s) (fw 3) ∧
        (op → s.mg.stagedOk = true → (fw 3).mg = { s.mg with stagedOk := false } ∧ shows 0 (fw 3)) ∧
        (¬op ∨ s.mg.stagedOk = false → same (fw 3))) ∧
      (Ends (exec (.hostQuote o) s) (ask 1) ∧ Ends (exec (.hostCert o) s) (ask 2) ∧ Ends (exec (.hostMeasLog o) s) (ask 3) ∧
        (∀ n ∈ ([1, 2, 3] : List Nat),
          (anyButDebug (roleOf o) = true →
            (ask (BitVec.ofNat 32 n)).mg = { s.mg with quotes := s.mg.quotes ++ [q n] } ∧ kept (ask (BitVec.ofNat 32 n))) ∧
          (anyButDebug (roleOf o) = false → same (ask (BitVec.ofNat 32 n))))) ∧
      (∀ v : Word,
        let u := s.order o mgmtPage 0x16C v
        let win := (List.range 8).foldl (fun acc k => acc ++ natLe 4 (s.rdN mgmtPage (0x1A0 + 4 * k))) []
        Ends (exec (.keyWinCommit o v) s) u ∧
        (roleOf o = .host → s.mg.keys = [] → v = 0x100 → kept u ∧ u.flag mgmtPage offEvt 7 = true ∧
          u.mg = { s.mg with keys := [(0, { key := win, roles := 7 })] }) ∧
        (roleOf o ≠ .host ∨ s.mg.keys ≠ [] ∨ v ≠ 0x100 → same u)) ∧
      (let u := s.order o mgmtPage offControl (s.withBit mgmtPage offControl 0 true)
       Ends (exec (.closeAll o) s) u ∧
       (custodianOnly (roleOf o) = true → u.mg = { s.mg with sessions := [] } ∧ kept u) ∧
       (custodianOnly (roleOf o) = false → same u))) ∧
  (∀ s : State, s.Serves →
      (s.mg.staging = false → ∀ ok, Ends (exec (.fwVerifyDone ok) s) s) ∧
      (∀ ok, s.mg.staging = true →
        let good := ok && s.slotOk s.otherSlot && decide (s.mg.log.length + 1 + (s.fwComps s.otherSlot).length ≤ 256)
        let t := s.modMg fun g => { g with staging := false, stagedOk := good }
        Ends (exec (.fwVerifyDone ok) s) (if good then ((t.fwState 2).raise mgmtPage 3).holdRequest 6 else t.fwState 3)) ∧
      (s.mg.quotes = [] → Ends (exec .quoteDone s) s) ∧
      (∀ q rest, s.mg.quotes = q :: rest →
        let t := s.modMg fun g => { g with quotes := rest }
        let d := if q.kind = 1 then s.quoteOf q.nonce else if q.kind = 2 then Config.certificate else s.logBytes
        Ends (exec .quoteDone s) ((if s.inHost q.dst d.length then t.modWrite q.dst (sound d) else t).raise mgmtPage 8)))

/-! ## Rules of the spec -/

/-- MIN and MAX of the vector unit: each lane of vd is the canonical NaN if either operand is NaN, and otherwise the smaller or
the larger operand, with −0 ordered below +0. -/
def Obligations.MinAndMaxFollowTheirRule : Prop :=
  ∀ (s : State) (t : Nat) (w : BitVec 128),
    let nan (a : Word) : Prop := 0x7F800000 < (a &&& 0x7FFFFFFF).toNat
    let order (a : Word) : Int := if a.msb then -((a &&& 0x7FFFFFFF).toNat : Int) - 1 else ((a &&& 0x7FFFFFFF).toNat : Int)
    let lanes (pick : Word → Word → Word → Prop) (u : State) : Prop :=
      ∀ (l : Nat) (a b : Word), ((s.tile t).vreg (vaOf w))[l]? = some a → ((s.tile t).vreg (vbOf w))[l]? = some b →
        ((s.tile t).vreg (vcOf w))[l]?.isSome = true → ∃ r, ((u.tile t).vreg (vdOf w))[l]? = some r ∧
          (nan a ∨ nan b → r = 0x7FC00000) ∧ (¬ nan a → ¬ nan b → pick a b r)
    (isSub w 0x20 0x03 = true → s.CanIssue t w { eng := engVector, form := vopLegal w 0x03 } →
      Gives (exec (.vopMin t w) s) (lanes fun a b r => (order a ≤ order b → r = a) ∧ (order b ≤ order a → r = b))) ∧
    (isSub w 0x20 0x04 = true → s.CanIssue t w { eng := engVector, form := vopLegal w 0x04 } →
      Gives (exec (.vopMax t w) s) (lanes fun a b r => (order a ≤ order b → r = b) ∧ (order b ≤ order a → r = a)))

/-- Formats of matrix operands: MMA and MMAZ whose fields are otherwise sound run when FMT_A and FMT_B are both F16W, or each
is F8F or F8B; with every other pair they raise ILLEGAL_INSTR and leave every accumulator as it is. -/
def Obligations.MatrixFormatsFollowTheirRule : Prop :=
  ∀ (s : State) (t : Nat) (w : BitVec 128),
    let fa := fld w 119 116
    let fb := fld w 115 112
    let pair := (fa = 1 ∧ fb = 1) ∨ ((fa = 2 ∨ fa = 3) ∧ (fb = 2 ∨ fb = 3))
    let align := if fa = 1 then 2048 else 1024
    let rest := commonOk { a := true, b := true, acc := true, matrix := true } w = true ∧
      fld w 63 50 * 64 % align = 0 ∧ fld w 49 36 * 64 % align = 0 ∧ (fa = 1 → fld w 35 21 = 0 ∧ fld w 20 6 = 0) ∧
      (heritageOf w && rescaleOf w) = false
    let i := accOf w
    let runs (c : Instr) (entry : Acc) : Prop := Gives (exec c s) fun u =>
      (u.tile t).accAt i = matRun (s.tile t) w entry ∧ u.flag t offEvt 7 = s.flag t offEvt 7
    let stops (c : Instr) : Prop := ∃ v : State, Performs (exec c s) t v ∧ v.flag t offEvt 7 = true ∧
      v.tiles = s.tiles ∧ v.mem = s.mem
    (isOp w 0x10 = true →
      (pair → rest → s.CanIssue t w { s.matrixIssue t w false with form := true } → runs (.mma t w) ((s.tile t).accAt i)) ∧
      (¬ pair → s.CanIssue t w { eng := engMatrix, form := true } → stops (.mma t w))) ∧
    (isOp w 0x11 = true →
      (pair → rest → s.CanIssue t w { s.matrixIssue t w true with form := true } → runs (.mmaz t w) Acc.zero) ∧
      (¬ pair → s.CanIssue t w { eng := engMatrix, form := true } → stops (.mmaz t w)))

/-- The placement of stack memory: the stack and the pseudo-channel of a granule are as the formula says, every place is
that of exactly one granule of the 1 TiB, and the 64 granules of an aligned 4 KiB lie in all eight stacks and in 64 different
pseudo-channels of them. -/
def Obligations.StackPlacementIsABijection : Prop :=
  (∀ g, (granPlace g).stack = (g % 8 ^^^ g / 2 ^ 11 % 8 ^^^ g / 2 ^ 22 % 8) ∧
    (granPlace g).pc = (g / 2 ^ 3 % 64 ^^^ g / 2 ^ 15 % 64) ∧ (granPlace g).loc = g / 2 ^ 9 % 2 ^ 25) ∧
  (∀ k p l, k < 8 → p < 64 → l < 2 ^ 25 →
    ∃ g, g < 2 ^ 34 ∧ granPlace g = { stack := k, pc := p, loc := l } ∧
      ∀ h, h < 2 ^ 34 → granPlace h = granPlace g → h = g) ∧
  (∀ n, n < 2 ^ 28 → (∀ k, k < 8 → ∃ i, i < 64 ∧ (granPlace (64 * n + i)).stack = k) ∧
    ∀ i j, i < 64 → j < 64 → (granPlace (64 * n + i)).stack = (granPlace (64 * n + j)).stack →
      (granPlace (64 * n + i)).pc = (granPlace (64 * n + j)).pc → i = j)

/-- What the sentence beside that formula says of consecutive granules. The formula itself makes it fail where a carry
flips bits [13:11] as it flips bits [2:0]: granules 0x1FFF and 0x2000 both lie in stack 4 (NOTES.md). -/
def Obligations.ConsecutiveGranulesLieInDifferentStacks : Prop :=
  ∀ g, g + 1 < 2 ^ 34 → stackOf g ≠ stackOf (g + 1)

/-- Every step keeps memory in its canonical form: addresses rise strictly, and no byte is listed that an unlisted address
reads as. -/
def Obligations.StepsKeepMemoryForm : Prop :=
  ∀ s t : State, s.memOk → step s = .next t → t.memOk

/-- The fused floor: no command but SVN_COMMIT of an authentic custodian session changes it, and that one raises it to the SVN
of the running bundle and no further. A bundle below the floor is not accepted for booting, a slot that comes into force holds
one at or above it, and a module that power-on brings up runs an accepted one. -/
def Obligations.FusedFloorRisesOnlyByCommit : Prop :=
  ∀ (s t : State) (c : Instr), s.settled → exec c s = .next t →
    (t.mg.floor = s.mg.floor ∨ ∃ sid ctr tag x, c = .svnCommit sid ctr tag ∧ s.Authentic sid ctr 9 [] tag x ∧ x.role = 1 ∧
      t.mg.floor = max s.mg.floor (min 64 (s.fwSvn s.mg.active))) ∧
    (∀ slot, s.fwSvn slot < s.mg.floor → s.slotOk slot = false) ∧
    (t.mg.active ≠ s.mg.active → t.mg.floor ≤ t.fwSvn t.mg.active) ∧
    (∀ e, c = .powerOn e → s.pow.off = true → t.pow.off = false → s.mg.restarted = false → t.slotOk t.mg.active = true)
end

