-- ==== Sys2Proof/Laws/Sparse.lean ====
section
/-!
SUPPORT. Laws of sparse tables: read after write, and the canonical form.
-/
namespace Sys2Proof.Machine

/-- Keys rise strictly. -/
def Rising {α : Type} (m : Sparse α) : Prop := m.Pairwise fun a b => a.1 < b.1

theorem Rising.tail {α : Type} {e : Nat × α} {m : Sparse α} (h : Rising (e :: m)) : Rising m := by
  have := List.pairwise_cons.1 h
  exact this.2

@[simp] theorem sfind_sput_same {α : Type} (m : Sparse α) (q : Nat) (x : α) : sfind (sput m q x) q = some x := by
  induction m with
  | nil => simp [sput, sfind]
  | cons e m ih =>
    obtain ⟨k, v⟩ := e
    simp only [sput]
    split
    · simp [sfind]
    · split
      · simp [sfind]
      · rename_i h1 h2
        simp only [sfind, h2]
        simp [ih]

theorem sfind_sput_other {α : Type} (m : Sparse α) {q r : Nat} (x : α) (h : q ≠ r) :
    sfind (sput m q x) r = sfind m r := by
  induction m with
  | nil => simp only [sput, sfind]; have : (q == r) = false := by simpa using h
           simp [this]
  | cons e m ih =>
    obtain ⟨k, v⟩ := e
    simp only [sput]
    split
    · rename_i h1
      have hq : (q == r) = false := by simpa using h
      simp [sfind, hq]
    · split
      · rename_i h1 h2
        have hk : k = q := by simpa using h2
        subst hk
        have hq : (k == r) = false := by simpa using h
        simp [sfind, hq]
      · simp only [sfind, ih]

@[simp] theorem sget_sput_same {α : Type} (d : α) (m : Sparse α) (q : Nat) (x : α) : sget d (sput m q x) q = x := by
  simp [sget, sfind_sput_same]

theorem sget_sput_other {α : Type} (d : α) (m : Sparse α) {q r : Nat} (x : α) (h : q ≠ r) :
    sget d (sput m q x) r = sget d m r := by simp [sget, sfind_sput_other m x h]

theorem sput_rising {α : Type} (m : Sparse α) (q : Nat) (x : α) (h : Rising m) : Rising (sput m q x) ∧
    ∀ e ∈ sput m q x, e.1 = q ∨ e ∈ m := by
  induction m with
  | nil => simp [sput, Rising]
  | cons e m ih =>
    obtain ⟨k, v⟩ := e
    have hc := List.pairwise_cons.1 h
    simp only [sput]
    split
    · rename_i h1
      refine ⟨List.pairwise_cons.2 ⟨?_, h⟩, ?_⟩
      · intro e he
        rcases List.mem_cons.1 he with rfl | he
        · exact h1
        · have := hc.1 e he; simp at this; show q < e.1; omega
      · intro e he; rcases List.mem_cons.1 he with rfl | he
        · left; rfl
        · right; exact he
    · split
      · rename_i h1 h2
        have hk : k = q := by simpa using h2
        subst hk
        refine ⟨List.pairwise_cons.2 ⟨fun e he => hc.1 e he, hc.2⟩, ?_⟩
        intro e he; rcases List.mem_cons.1 he with rfl | he
        · left; rfl
        · right; exact List.mem_cons_of_mem _ he
      · rename_i h1 h2
        have hk : k ≠ q := by simpa using h2
        obtain ⟨i1, i2⟩ := ih hc.2
        refine ⟨List.pairwise_cons.2 ⟨?_, i1⟩, ?_⟩
        · intro e he
          rcases i2 e he with h | h
          · show k < e.1; omega
          · exact hc.1 e h
        · intro e he; rcases List.mem_cons.1 he with rfl | he
          · right; simp
          · rcases i2 e he with h | h
            · left; exact h
            · right; exact List.mem_cons_of_mem _ h

theorem sdel_sub {α : Type} (m : Sparse α) (q : Nat) : (sdel m q).Sublist m := List.filter_sublist

theorem sfind_sdel_same {α : Type} (m : Sparse α) (q : Nat) : sfind (sdel m q) q = none := by
  induction m with
  | nil => rfl
  | cons e m ih =>
    obtain ⟨k, v⟩ := e
    by_cases hk : k = q
    · simpa [sdel, hk] using ih
    · simpa [sdel, sfind, hk] using ih

theorem sfind_sdel_other {α : Type} (m : Sparse α) {q r : Nat} (hn : q ≠ r) : sfind (sdel m q) r = sfind m r := by
  induction m with
  | nil => rfl
  | cons e m ih =>
    obtain ⟨k, v⟩ := e
    by_cases hk : k = q
    · subst hk; simpa [sdel, sfind, hn] using ih
    · by_cases hr : k = r
      · subst hr; simp [sdel, sfind, hk]
      · simpa [sdel, sfind, hk, hr] using ih

/-- The canonical form, without the recursion that checks it. -/
theorem swfAbove_iff {α : Type} [DecidableEq α] (d : Nat → α) (lo : Nat) (m : Sparse α) :
    swfAbove d lo m = true ↔ (∀ e ∈ m, lo < e.1) ∧ Rising m ∧ ∀ e ∈ m, e.2 ≠ d e.1 := by
  induction m generalizing lo with
  | nil => simp [swfAbove, Rising]
  | cons e m ih =>
    obtain ⟨k, v⟩ := e
    simp only [swfAbove, Bool.and_eq_true, decide_eq_true_eq, Bool.not_eq_true', decide_eq_false_iff_not, ih]
    constructor
    · rintro ⟨⟨h1, h2⟩, h3, h4, h5⟩
      refine ⟨?_, List.pairwise_cons.2 ⟨h3, h4⟩, ?_⟩
      · intro e he; rcases List.mem_cons.1 he with rfl | he
        · exact h1
        · have := h3 e he; omega
      · intro e he; rcases List.mem_cons.1 he with rfl | he
        · exact h2
        · exact h5 e he
    · rintro ⟨h1, h2, h3⟩
      have hc := List.pairwise_cons.1 h2
      exact ⟨⟨h1 (k, v) (by simp), h3 (k, v) (by simp)⟩, fun e he => hc.1 e he, hc.2,
        fun e he => h3 e (List.mem_cons_of_mem _ he)⟩

theorem swf_iff {α : Type} [DecidableEq α] (d : Nat → α) (m : Sparse α) :
    swf d m = true ↔ Rising m ∧ ∀ e ∈ m, e.2 ≠ d e.1 := by
  cases m with
  | nil => simp [swf, Rising]
  | cons e m =>
    obtain ⟨k, v⟩ := e
    simp only [swf, Bool.and_eq_true, Bool.not_eq_true', decide_eq_false_iff_not, swfAbove_iff]
    constructor
    · rintro ⟨h1, h2, h3, h4⟩
      refine ⟨List.pairwise_cons.2 ⟨h2, h3⟩, ?_⟩
      intro e he; rcases List.mem_cons.1 he with rfl | he
      · exact h1
      · exact h4 e he
    · rintro ⟨h1, h2⟩
      have hc := List.pairwise_cons.1 h1
      exact ⟨h2 (k, v) (by simp), fun e he => hc.1 e he, hc.2, fun e he => h2 e (List.mem_cons_of_mem _ he)⟩

/-- `sset` keeps the canonical form of a table whose default is the same at every key. -/
theorem sset_wf {α : Type} [DecidableEq α] (d : α) (m : Sparse α) (q : Nat) (x : α)
    (h : swf (fun _ => d) m = true) : swf (fun _ => d) (sset d m q x) = true := by
  rw [swf_iff] at h ⊢
  unfold sset
  split
  · exact ⟨h.1.sublist (sdel_sub m q), fun e he => h.2 e ((sdel_sub m q).subset he)⟩
  · rename_i hx
    obtain ⟨r1, r2⟩ := sput_rising m q x h.1
    refine ⟨r1, fun e he => ?_⟩
    rcases r2 e he with hq | hm
    · have h1 : sfind (sput m q x) e.1 = some x := by rw [hq]; exact sfind_sput_same m q x
      have h2 : sfind (sput m q x) e.1 = some e.2 := by
        clear h1 r2 hq
        revert r1 he
        generalize sput m q x = l
        intro r1 he
        induction l with
        | nil => simp at he
        | cons y l ih =>
          obtain ⟨k, v⟩ := y
          have hc := List.pairwise_cons.1 r1
          rcases List.mem_cons.1 he with rfl | he'
          · simp [sfind]
          · have hlt := hc.1 e he'
            simp at hlt
            have hk : (k == e.1) = false := by simp; omega
            simp only [sfind, hk, Bool.false_eq_true, if_false]
            exact ih hc.2 he'
      rw [h1] at h2
      simp only [Option.some.injEq] at h2
      rw [← h2]; exact hx
    · exact h.2 e hm

@[simp] theorem sget_sset_same {α : Type} [DecidableEq α] (d : α) (m : Sparse α) (q : Nat) (x : α) :
    sget d (sset d m q x) q = x := by
  unfold sset sget
  split
  · rename_i hx; simp [sfind_sdel_same m q, hx]
  · simp [sfind_sput_same]

theorem sget_sset_other {α : Type} [DecidableEq α] (d d' : α) (m : Sparse α) {q r : Nat} (x : α)
    (hn : q ≠ r) : sget d (sset d' m q x) r = sget d m r := by
  unfold sset sget
  split
  · rw [sfind_sdel_other m hn]
  · rw [sfind_sput_other m x hn]

end Sys2Proof.Machine
end

