-- ==== Sys2Proof/Laws/State.lean ====
section
/-!
SUPPORT. What each update of one field of the state leaves alone: one lemma per field per update, true by definition.
-/
namespace Sys2Proof.Machine

@[simp] theorem State.wr_mem (s : State) (p o : Nat) (v : Word) : (s.wr p o v).mem = s.mem := rfl
@[simp] theorem State.wr_ecc (s : State) (p o : Nat) (v : Word) : (s.wr p o v).ecc = s.ecc := rfl
@[simp] theorem State.wr_tiles (s : State) (p o : Nat) (v : Word) : (s.wr p o v).tiles = s.tiles := rfl
@[simp] theorem State.wr_slices (s : State) (p o : Nat) (v : Word) : (s.wr p o v).slices = s.slices := rfl
@[simp] theorem State.wr_dirs (s : State) (p o : Nat) (v : Word) : (s.wr p o v).dirs = s.dirs := rfl
@[simp] theorem State.wr_dies (s : State) (p o : Nat) (v : Word) : (s.wr p o v).dies = s.dies := rfl
@[simp] theorem State.wr_hbm (s : State) (p o : Nat) (v : Word) : (s.wr p o v).hbm = s.hbm := rfl
@[simp] theorem State.wr_res (s : State) (p o : Nat) (v : Word) : (s.wr p o v).res = s.res := rfl
@[simp] theorem State.wr_moves (s : State) (p o : Nat) (v : Word) : (s.wr p o v).moves = s.moves := rfl
@[simp] theorem State.wr_slow (s : State) (p o : Nat) (v : Word) : (s.wr p o v).slow = s.slow := rfl
@[simp] theorem State.wr_xfers (s : State) (p o : Nat) (v : Word) : (s.wr p o v).xfers = s.xfers := rfl
@[simp] theorem State.wr_glints (s : State) (p o : Nat) (v : Word) : (s.wr p o v).glints = s.glints := rfl
@[simp] theorem State.wr_failing (s : State) (p o : Nat) (v : Word) : (s.wr p o v).failing = s.failing := rfl
@[simp] theorem State.wr_retries (s : State) (p o : Nat) (v : Word) : (s.wr p o v).retries = s.retries := rfl
@[simp] theorem State.wr_held (s : State) (p o : Nat) (v : Word) : (s.wr p o v).held = s.held := rfl
@[simp] theorem State.wr_map (s : State) (p o : Nat) (v : Word) : (s.wr p o v).map = s.map := rfl
@[simp] theorem State.wr_gn (s : State) (p o : Nat) (v : Word) : (s.wr p o v).gn = s.gn := rfl
@[simp] theorem State.wr_fr (s : State) (p o : Nat) (v : Word) : (s.wr p o v).fr = s.fr := rfl
@[simp] theorem State.wr_adm (s : State) (p o : Nat) (v : Word) : (s.wr p o v).adm = s.adm := rfl
@[simp] theorem State.wr_steps (s : State) (p o : Nat) (v : Word) : (s.wr p o v).steps = s.steps := rfl
@[simp] theorem State.wr_ray (s : State) (p o : Nat) (v : Word) : (s.wr p o v).ray = s.ray := rfl
@[simp] theorem State.wr_host (s : State) (p o : Nat) (v : Word) : (s.wr p o v).host = s.host := rfl
@[simp] theorem State.wr_mg (s : State) (p o : Nat) (v : Word) : (s.wr p o v).mg = s.mg := rfl
@[simp] theorem State.wr_pow (s : State) (p o : Nat) (v : Word) : (s.wr p o v).pow = s.pow := rfl
@[simp] theorem State.wr_therm (s : State) (p o : Nat) (v : Word) : (s.wr p o v).therm = s.therm := rfl
@[simp] theorem State.wr_pen (s : State) (p o : Nat) (v : Word) : (s.wr p o v).pen = s.pen := rfl
@[simp] theorem State.wr_spare (s : State) (p o : Nat) (v : Word) : (s.wr p o v).spare = s.spare := rfl
@[simp] theorem State.wr_dusk (s : State) (p o : Nat) (v : Word) : (s.wr p o v).dusk = s.dusk := rfl
@[simp] theorem State.wr_ag (s : State) (p o : Nat) (v : Word) : (s.wr p o v).ag = s.ag := rfl
@[simp] theorem State.wr_evtHold (s : State) (p o : Nat) (v : Word) : (s.wr p o v).evtHold = s.evtHold := rfl
@[simp] theorem State.wr_evtAgain (s : State) (p o : Nat) (v : Word) : (s.wr p o v).evtAgain = s.evtAgain := rfl
@[simp] theorem State.wr_latches (s : State) (p o : Nat) (v : Word) : (s.wr p o v).latches = s.latches := rfl
@[simp] theorem State.wr_out (s : State) (p o : Nat) (v : Word) : (s.wr p o v).out = s.out := rfl
@[simp] theorem State.wr_events (s : State) (p o : Nat) (v : Word) : (s.wr p o v).events = s.events := rfl
@[simp] theorem State.wr_nextId (s : State) (p o : Nat) (v : Word) : (s.wr p o v).nextId = s.nextId := rfl
@[simp] theorem State.wr_freeCount (s : State) (p o : Nat) (v : Word) : (s.wr p o v).freeCount = s.freeCount := rfl
@[simp] theorem State.wr_now (s : State) (p o : Nat) (v : Word) : (s.wr p o v).now = s.now := rfl
@[simp] theorem State.wr_pending (s : State) (p o : Nat) (v : Word) : (s.wr p o v).pending = s.pending := rfl

@[simp] theorem State.setTile_regs (s : State) (k : Nat) (x : Tile) : (s.setTile k x).regs = s.regs := rfl
@[simp] theorem State.setTile_mem (s : State) (k : Nat) (x : Tile) : (s.setTile k x).mem = s.mem := rfl
@[simp] theorem State.setTile_ecc (s : State) (k : Nat) (x : Tile) : (s.setTile k x).ecc = s.ecc := rfl
@[simp] theorem State.setTile_slices (s : State) (k : Nat) (x : Tile) : (s.setTile k x).slices = s.slices := rfl
@[simp] theorem State.setTile_dirs (s : State) (k : Nat) (x : Tile) : (s.setTile k x).dirs = s.dirs := rfl
@[simp] theorem State.setTile_dies (s : State) (k : Nat) (x : Tile) : (s.setTile k x).dies = s.dies := rfl
@[simp] theorem State.setTile_hbm (s : State) (k : Nat) (x : Tile) : (s.setTile k x).hbm = s.hbm := rfl
@[simp] theorem State.setTile_res (s : State) (k : Nat) (x : Tile) : (s.setTile k x).res = s.res := rfl
@[simp] theorem State.setTile_moves (s : State) (k : Nat) (x : Tile) : (s.setTile k x).moves = s.moves := rfl
@[simp] theorem State.setTile_slow (s : State) (k : Nat) (x : Tile) : (s.setTile k x).slow = s.slow := rfl
@[simp] theorem State.setTile_xfers (s : State) (k : Nat) (x : Tile) : (s.setTile k x).xfers = s.xfers := rfl
@[simp] theorem State.setTile_glints (s : State) (k : Nat) (x : Tile) : (s.setTile k x).glints = s.glints := rfl
@[simp] theorem State.setTile_failing (s : State) (k : Nat) (x : Tile) : (s.setTile k x).failing = s.failing := rfl
@[simp] theorem State.setTile_retries (s : State) (k : Nat) (x : Tile) : (s.setTile k x).retries = s.retries := rfl
@[simp] theorem State.setTile_held (s : State) (k : Nat) (x : Tile) : (s.setTile k x).held = s.held := rfl
@[simp] theorem State.setTile_map (s : State) (k : Nat) (x : Tile) : (s.setTile k x).map = s.map := rfl
@[simp] theorem State.setTile_gn (s : State) (k : Nat) (x : Tile) : (s.setTile k x).gn = s.gn := rfl
@[simp] theorem State.setTile_fr (s : State) (k : Nat) (x : Tile) : (s.setTile k x).fr = s.fr := rfl
@[simp] theorem State.setTile_adm (s : State) (k : Nat) (x : Tile) : (s.setTile k x).adm = s.adm := rfl
@[simp] theorem State.setTile_steps (s : State) (k : Nat) (x : Tile) : (s.setTile k x).steps = s.steps := rfl
@[simp] theorem State.setTile_ray (s : State) (k : Nat) (x : Tile) : (s.setTile k x).ray = s.ray := rfl
@[simp] theorem State.setTile_host (s : State) (k : Nat) (x : Tile) : (s.setTile k x).host = s.host := rfl
@[simp] theorem State.setTile_mg (s : State) (k : Nat) (x : Tile) : (s.setTile k x).mg = s.mg := rfl
@[simp] theorem State.setTile_pow (s : State) (k : Nat) (x : Tile) : (s.setTile k x).pow = s.pow := rfl
@[simp] theorem State.setTile_therm (s : State) (k : Nat) (x : Tile) : (s.setTile k x).therm = s.therm := rfl
@[simp] theorem State.setTile_pen (s : State) (k : Nat) (x : Tile) : (s.setTile k x).pen = s.pen := rfl
@[simp] theorem State.setTile_spare (s : State) (k : Nat) (x : Tile) : (s.setTile k x).spare = s.spare := rfl
@[simp] theorem State.setTile_dusk (s : State) (k : Nat) (x : Tile) : (s.setTile k x).dusk = s.dusk := rfl
@[simp] theorem State.setTile_ag (s : State) (k : Nat) (x : Tile) : (s.setTile k x).ag = s.ag := rfl
@[simp] theorem State.setTile_evtHold (s : State) (k : Nat) (x : Tile) : (s.setTile k x).evtHold = s.evtHold := rfl
@[simp] theorem State.setTile_evtAgain (s : State) (k : Nat) (x : Tile) : (s.setTile k x).evtAgain = s.evtAgain := rfl
@[simp] theorem State.setTile_latches (s : State) (k : Nat) (x : Tile) : (s.setTile k x).latches = s.latches := rfl
@[simp] theorem State.setTile_out (s : State) (k : Nat) (x : Tile) : (s.setTile k x).out = s.out := rfl
@[simp] theorem State.setTile_events (s : State) (k : Nat) (x : Tile) : (s.setTile k x).events = s.events := rfl
@[simp] theorem State.setTile_nextId (s : State) (k : Nat) (x : Tile) : (s.setTile k x).nextId = s.nextId := rfl
@[simp] theorem State.setTile_freeCount (s : State) (k : Nat) (x : Tile) : (s.setTile k x).freeCount = s.freeCount := rfl
@[simp] theorem State.setTile_now (s : State) (k : Nat) (x : Tile) : (s.setTile k x).now = s.now := rfl
@[simp] theorem State.setTile_pending (s : State) (k : Nat) (x : Tile) : (s.setTile k x).pending = s.pending := rfl

@[simp] theorem State.setSlice_regs (s : State) (k : Nat) (x : Slice) : (s.setSlice k x).regs = s.regs := rfl
@[simp] theorem State.setSlice_mem (s : State) (k : Nat) (x : Slice) : (s.setSlice k x).mem = s.mem := rfl
@[simp] theorem State.setSlice_ecc (s : State) (k : Nat) (x : Slice) : (s.setSlice k x).ecc = s.ecc := rfl
@[simp] theorem State.setSlice_tiles (s : State) (k : Nat) (x : Slice) : (s.setSlice k x).tiles = s.tiles := rfl
@[simp] theorem State.setSlice_dirs (s : State) (k : Nat) (x : Slice) : (s.setSlice k x).dirs = s.dirs := rfl
@[simp] theorem State.setSlice_dies (s : State) (k : Nat) (x : Slice) : (s.setSlice k x).dies = s.dies := rfl
@[simp] theorem State.setSlice_hbm (s : State) (k : Nat) (x : Slice) : (s.setSlice k x).hbm = s.hbm := rfl
@[simp] theorem State.setSlice_res (s : State) (k : Nat) (x : Slice) : (s.setSlice k x).res = s.res := rfl
@[simp] theorem State.setSlice_moves (s : State) (k : Nat) (x : Slice) : (s.setSlice k x).moves = s.moves := rfl
@[simp] theorem State.setSlice_slow (s : State) (k : Nat) (x : Slice) : (s.setSlice k x).slow = s.slow := rfl
@[simp] theorem State.setSlice_xfers (s : State) (k : Nat) (x : Slice) : (s.setSlice k x).xfers = s.xfers := rfl
@[simp] theorem State.setSlice_glints (s : State) (k : Nat) (x : Slice) : (s.setSlice k x).glints = s.glints := rfl
@[simp] theorem State.setSlice_failing (s : State) (k : Nat) (x : Slice) : (s.setSlice k x).failing = s.failing := rfl
@[simp] theorem State.setSlice_retries (s : State) (k : Nat) (x : Slice) : (s.setSlice k x).retries = s.retries := rfl
@[simp] theorem State.setSlice_held (s : State) (k : Nat) (x : Slice) : (s.setSlice k x).held = s.held := rfl
@[simp] theorem State.setSlice_map (s : State) (k : Nat) (x : Slice) : (s.setSlice k x).map = s.map := rfl
@[simp] theorem State.setSlice_gn (s : State) (k : Nat) (x : Slice) : (s.setSlice k x).gn = s.gn := rfl
@[simp] theorem State.setSlice_fr (s : State) (k : Nat) (x : Slice) : (s.setSlice k x).fr = s.fr := rfl
@[simp] theorem State.setSlice_adm (s : State) (k : Nat) (x : Slice) : (s.setSlice k x).adm = s.adm := rfl
@[simp] theorem State.setSlice_steps (s : State) (k : Nat) (x : Slice) : (s.setSlice k x).steps = s.steps := rfl
@[simp] theorem State.setSlice_ray (s : State) (k : Nat) (x : Slice) : (s.setSlice k x).ray = s.ray := rfl
@[simp] theorem State.setSlice_host (s : State) (k : Nat) (x : Slice) : (s.setSlice k x).host = s.host := rfl
@[simp] theorem State.setSlice_mg (s : State) (k : Nat) (x : Slice) : (s.setSlice k x).mg = s.mg := rfl
@[simp] theorem State.setSlice_pow (s : State) (k : Nat) (x : Slice) : (s.setSlice k x).pow = s.pow := rfl
@[simp] theorem State.setSlice_therm (s : State) (k : Nat) (x : Slice) : (s.setSlice k x).therm = s.therm := rfl
@[simp] theorem State.setSlice_pen (s : State) (k : Nat) (x : Slice) : (s.setSlice k x).pen = s.pen := rfl
@[simp] theorem State.setSlice_spare (s : State) (k : Nat) (x : Slice) : (s.setSlice k x).spare = s.spare := rfl
@[simp] theorem State.setSlice_dusk (s : State) (k : Nat) (x : Slice) : (s.setSlice k x).dusk = s.dusk := rfl
@[simp] theorem State.setSlice_ag (s : State) (k : Nat) (x : Slice) : (s.setSlice k x).ag = s.ag := rfl
@[simp] theorem State.setSlice_evtHold (s : State) (k : Nat) (x : Slice) : (s.setSlice k x).evtHold = s.evtHold := rfl
@[simp] theorem State.setSlice_evtAgain (s : State) (k : Nat) (x : Slice) : (s.setSlice k x).evtAgain = s.evtAgain := rfl
@[simp] theorem State.setSlice_latches (s : State) (k : Nat) (x : Slice) : (s.setSlice k x).latches = s.latches := rfl
@[simp] theorem State.setSlice_out (s : State) (k : Nat) (x : Slice) : (s.setSlice k x).out = s.out := rfl
@[simp] theorem State.setSlice_events (s : State) (k : Nat) (x : Slice) : (s.setSlice k x).events = s.events := rfl
@[simp] theorem State.setSlice_nextId (s : State) (k : Nat) (x : Slice) : (s.setSlice k x).nextId = s.nextId := rfl
@[simp] theorem State.setSlice_freeCount (s : State) (k : Nat) (x : Slice) : (s.setSlice k x).freeCount = s.freeCount := rfl
@[simp] theorem State.setSlice_now (s : State) (k : Nat) (x : Slice) : (s.setSlice k x).now = s.now := rfl
@[simp] theorem State.setSlice_pending (s : State) (k : Nat) (x : Slice) : (s.setSlice k x).pending = s.pending := rfl

@[simp] theorem State.setBank_regs (s : State) (k : Nat) (x : DirBank) : (s.setBank k x).regs = s.regs := rfl
@[simp] theorem State.setBank_mem (s : State) (k : Nat) (x : DirBank) : (s.setBank k x).mem = s.mem := rfl
@[simp] theorem State.setBank_ecc (s : State) (k : Nat) (x : DirBank) : (s.setBank k x).ecc = s.ecc := rfl
@[simp] theorem State.setBank_tiles (s : State) (k : Nat) (x : DirBank) : (s.setBank k x).tiles = s.tiles := rfl
@[simp] theorem State.setBank_slices (s : State) (k : Nat) (x : DirBank) : (s.setBank k x).slices = s.slices := rfl
@[simp] theorem State.setBank_dies (s : State) (k : Nat) (x : DirBank) : (s.setBank k x).dies = s.dies := rfl
@[simp] theorem State.setBank_hbm (s : State) (k : Nat) (x : DirBank) : (s.setBank k x).hbm = s.hbm := rfl
@[simp] theorem State.setBank_res (s : State) (k : Nat) (x : DirBank) : (s.setBank k x).res = s.res := rfl
@[simp] theorem State.setBank_moves (s : State) (k : Nat) (x : DirBank) : (s.setBank k x).moves = s.moves := rfl
@[simp] theorem State.setBank_slow (s : State) (k : Nat) (x : DirBank) : (s.setBank k x).slow = s.slow := rfl
@[simp] theorem State.setBank_xfers (s : State) (k : Nat) (x : DirBank) : (s.setBank k x).xfers = s.xfers := rfl
@[simp] theorem State.setBank_glints (s : State) (k : Nat) (x : DirBank) : (s.setBank k x).glints = s.glints := rfl
@[simp] theorem State.setBank_failing (s : State) (k : Nat) (x : DirBank) : (s.setBank k x).failing = s.failing := rfl
@[simp] theorem State.setBank_retries (s : State) (k : Nat) (x : DirBank) : (s.setBank k x).retries = s.retries := rfl
@[simp] theorem State.setBank_held (s : State) (k : Nat) (x : DirBank) : (s.setBank k x).held = s.held := rfl
@[simp] theorem State.setBank_map (s : State) (k : Nat) (x : DirBank) : (s.setBank k x).map = s.map := rfl
@[simp] theorem State.setBank_gn (s : State) (k : Nat) (x : DirBank) : (s.setBank k x).gn = s.gn := rfl
@[simp] theorem State.setBank_fr (s : State) (k : Nat) (x : DirBank) : (s.setBank k x).fr = s.fr := rfl
@[simp] theorem State.setBank_adm (s : State) (k : Nat) (x : DirBank) : (s.setBank k x).adm = s.adm := rfl
@[simp] theorem State.setBank_steps (s : State) (k : Nat) (x : DirBank) : (s.setBank k x).steps = s.steps := rfl
@[simp] theorem State.setBank_ray (s : State) (k : Nat) (x : DirBank) : (s.setBank k x).ray = s.ray := rfl
@[simp] theorem State.setBank_host (s : State) (k : Nat) (x : DirBank) : (s.setBank k x).host = s.host := rfl
@[simp] theorem State.setBank_mg (s : State) (k : Nat) (x : DirBank) : (s.setBank k x).mg = s.mg := rfl
@[simp] theorem State.setBank_pow (s : State) (k : Nat) (x : DirBank) : (s.setBank k x).pow = s.pow := rfl
@[simp] theorem State.setBank_therm (s : State) (k : Nat) (x : DirBank) : (s.setBank k x).therm = s.therm := rfl
@[simp] theorem State.setBank_pen (s : State) (k : Nat) (x : DirBank) : (s.setBank k x).pen = s.pen := rfl
@[simp] theorem State.setBank_spare (s : State) (k : Nat) (x : DirBank) : (s.setBank k x).spare = s.spare := rfl
@[simp] theorem State.setBank_dusk (s : State) (k : Nat) (x : DirBank) : (s.setBank k x).dusk = s.dusk := rfl
@[simp] theorem State.setBank_ag (s : State) (k : Nat) (x : DirBank) : (s.setBank k x).ag = s.ag := rfl
@[simp] theorem State.setBank_evtHold (s : State) (k : Nat) (x : DirBank) : (s.setBank k x).evtHold = s.evtHold := rfl
@[simp] theorem State.setBank_evtAgain (s : State) (k : Nat) (x : DirBank) : (s.setBank k x).evtAgain = s.evtAgain := rfl
@[simp] theorem State.setBank_latches (s : State) (k : Nat) (x : DirBank) : (s.setBank k x).latches = s.latches := rfl
@[simp] theorem State.setBank_out (s : State) (k : Nat) (x : DirBank) : (s.setBank k x).out = s.out := rfl
@[simp] theorem State.setBank_events (s : State) (k : Nat) (x : DirBank) : (s.setBank k x).events = s.events := rfl
@[simp] theorem State.setBank_nextId (s : State) (k : Nat) (x : DirBank) : (s.setBank k x).nextId = s.nextId := rfl
@[simp] theorem State.setBank_freeCount (s : State) (k : Nat) (x : DirBank) : (s.setBank k x).freeCount = s.freeCount := rfl
@[simp] theorem State.setBank_now (s : State) (k : Nat) (x : DirBank) : (s.setBank k x).now = s.now := rfl
@[simp] theorem State.setBank_pending (s : State) (k : Nat) (x : DirBank) : (s.setBank k x).pending = s.pending := rfl

@[simp] theorem State.setDie_regs (s : State) (k : Nat) (x : Die) : (s.setDie k x).regs = s.regs := rfl
@[simp] theorem State.setDie_mem (s : State) (k : Nat) (x : Die) : (s.setDie k x).mem = s.mem := rfl
@[simp] theorem State.setDie_ecc (s : State) (k : Nat) (x : Die) : (s.setDie k x).ecc = s.ecc := rfl
@[simp] theorem State.setDie_tiles (s : State) (k : Nat) (x : Die) : (s.setDie k x).tiles = s.tiles := rfl
@[simp] theorem State.setDie_slices (s : State) (k : Nat) (x : Die) : (s.setDie k x).slices = s.slices := rfl
@[simp] theorem State.setDie_dirs (s : State) (k : Nat) (x : Die) : (s.setDie k x).dirs = s.dirs := rfl
@[simp] theorem State.setDie_hbm (s : State) (k : Nat) (x : Die) : (s.setDie k x).hbm = s.hbm := rfl
@[simp] theorem State.setDie_res (s : State) (k : Nat) (x : Die) : (s.setDie k x).res = s.res := rfl
@[simp] theorem State.setDie_moves (s : State) (k : Nat) (x : Die) : (s.setDie k x).moves = s.moves := rfl
@[simp] theorem State.setDie_slow (s : State) (k : Nat) (x : Die) : (s.setDie k x).slow = s.slow := rfl
@[simp] theorem State.setDie_xfers (s : State) (k : Nat) (x : Die) : (s.setDie k x).xfers = s.xfers := rfl
@[simp] theorem State.setDie_glints (s : State) (k : Nat) (x : Die) : (s.setDie k x).glints = s.glints := rfl
@[simp] theorem State.setDie_failing (s : State) (k : Nat) (x : Die) : (s.setDie k x).failing = s.failing := rfl
@[simp] theorem State.setDie_retries (s : State) (k : Nat) (x : Die) : (s.setDie k x).retries = s.retries := rfl
@[simp] theorem State.setDie_held (s : State) (k : Nat) (x : Die) : (s.setDie k x).held = s.held := rfl
@[simp] theorem State.setDie_map (s : State) (k : Nat) (x : Die) : (s.setDie k x).map = s.map := rfl
@[simp] theorem State.setDie_gn (s : State) (k : Nat) (x : Die) : (s.setDie k x).gn = s.gn := rfl
@[simp] theorem State.setDie_fr (s : State) (k : Nat) (x : Die) : (s.setDie k x).fr = s.fr := rfl
@[simp] theorem State.setDie_adm (s : State) (k : Nat) (x : Die) : (s.setDie k x).adm = s.adm := rfl
@[simp] theorem State.setDie_steps (s : State) (k : Nat) (x : Die) : (s.setDie k x).steps = s.steps := rfl
@[simp] theorem State.setDie_ray (s : State) (k : Nat) (x : Die) : (s.setDie k x).ray = s.ray := rfl
@[simp] theorem State.setDie_host (s : State) (k : Nat) (x : Die) : (s.setDie k x).host = s.host := rfl
@[simp] theorem State.setDie_mg (s : State) (k : Nat) (x : Die) : (s.setDie k x).mg = s.mg := rfl
@[simp] theorem State.setDie_pow (s : State) (k : Nat) (x : Die) : (s.setDie k x).pow = s.pow := rfl
@[simp] theorem State.setDie_therm (s : State) (k : Nat) (x : Die) : (s.setDie k x).therm = s.therm := rfl
@[simp] theorem State.setDie_pen (s : State) (k : Nat) (x : Die) : (s.setDie k x).pen = s.pen := rfl
@[simp] theorem State.setDie_spare (s : State) (k : Nat) (x : Die) : (s.setDie k x).spare = s.spare := rfl
@[simp] theorem State.setDie_dusk (s : State) (k : Nat) (x : Die) : (s.setDie k x).dusk = s.dusk := rfl
@[simp] theorem State.setDie_ag (s : State) (k : Nat) (x : Die) : (s.setDie k x).ag = s.ag := rfl
@[simp] theorem State.setDie_evtHold (s : State) (k : Nat) (x : Die) : (s.setDie k x).evtHold = s.evtHold := rfl
@[simp] theorem State.setDie_evtAgain (s : State) (k : Nat) (x : Die) : (s.setDie k x).evtAgain = s.evtAgain := rfl
@[simp] theorem State.setDie_latches (s : State) (k : Nat) (x : Die) : (s.setDie k x).latches = s.latches := rfl
@[simp] theorem State.setDie_out (s : State) (k : Nat) (x : Die) : (s.setDie k x).out = s.out := rfl
@[simp] theorem State.setDie_events (s : State) (k : Nat) (x : Die) : (s.setDie k x).events = s.events := rfl
@[simp] theorem State.setDie_nextId (s : State) (k : Nat) (x : Die) : (s.setDie k x).nextId = s.nextId := rfl
@[simp] theorem State.setDie_freeCount (s : State) (k : Nat) (x : Die) : (s.setDie k x).freeCount = s.freeCount := rfl
@[simp] theorem State.setDie_now (s : State) (k : Nat) (x : Die) : (s.setDie k x).now = s.now := rfl
@[simp] theorem State.setDie_pending (s : State) (k : Nat) (x : Die) : (s.setDie k x).pending = s.pending := rfl

@[simp] theorem State.setStack_regs (s : State) (k : Nat) (x : Stack) : (s.setStack k x).regs = s.regs := rfl
@[simp] theorem State.setStack_mem (s : State) (k : Nat) (x : Stack) : (s.setStack k x).mem = s.mem := rfl
@[simp] theorem State.setStack_ecc (s : State) (k : Nat) (x : Stack) : (s.setStack k x).ecc = s.ecc := rfl
@[simp] theorem State.setStack_tiles (s : State) (k : Nat) (x : Stack) : (s.setStack k x).tiles = s.tiles := rfl
@[simp] theorem State.setStack_slices (s : State) (k : Nat) (x : Stack) : (s.setStack k x).slices = s.slices := rfl
@[simp] theorem State.setStack_dirs (s : State) (k : Nat) (x : Stack) : (s.setStack k x).dirs = s.dirs := rfl
@[simp] theorem State.setStack_dies (s : State) (k : Nat) (x : Stack) : (s.setStack k x).dies = s.dies := rfl
@[simp] theorem State.setStack_res (s : State) (k : Nat) (x : Stack) : (s.setStack k x).res = s.res := rfl
@[simp] theorem State.setStack_moves (s : State) (k : Nat) (x : Stack) : (s.setStack k x).moves = s.moves := rfl
@[simp] theorem State.setStack_slow (s : State) (k : Nat) (x : Stack) : (s.setStack k x).slow = s.slow := rfl
@[simp] theorem State.setStack_xfers (s : State) (k : Nat) (x : Stack) : (s.setStack k x).xfers = s.xfers := rfl
@[simp] theorem State.setStack_glints (s : State) (k : Nat) (x : Stack) : (s.setStack k x).glints = s.glints := rfl
@[simp] theorem State.setStack_failing (s : State) (k : Nat) (x : Stack) : (s.setStack k x).failing = s.failing := rfl
@[simp] theorem State.setStack_retries (s : State) (k : Nat) (x : Stack) : (s.setStack k x).retries = s.retries := rfl
@[simp] theorem State.setStack_held (s : State) (k : Nat) (x : Stack) : (s.setStack k x).held = s.held := rfl
@[simp] theorem State.setStack_map (s : State) (k : Nat) (x : Stack) : (s.setStack k x).map = s.map := rfl
@[simp] theorem State.setStack_gn (s : State) (k : Nat) (x : Stack) : (s.setStack k x).gn = s.gn := rfl
@[simp] theorem State.setStack_fr (s : State) (k : Nat) (x : Stack) : (s.setStack k x).fr = s.fr := rfl
@[simp] theorem State.setStack_adm (s : State) (k : Nat) (x : Stack) : (s.setStack k x).adm = s.adm := rfl
@[simp] theorem State.setStack_steps (s : State) (k : Nat) (x : Stack) : (s.setStack k x).steps = s.steps := rfl
@[simp] theorem State.setStack_ray (s : State) (k : Nat) (x : Stack) : (s.setStack k x).ray = s.ray := rfl
@[simp] theorem State.setStack_host (s : State) (k : Nat) (x : Stack) : (s.setStack k x).host = s.host := rfl
@[simp] theorem State.setStack_mg (s : State) (k : Nat) (x : Stack) : (s.setStack k x).mg = s.mg := rfl
@[simp] theorem State.setStack_pow (s : State) (k : Nat) (x : Stack) : (s.setStack k x).pow = s.pow := rfl
@[simp] theorem State.setStack_therm (s : State) (k : Nat) (x : Stack) : (s.setStack k x).therm = s.therm := rfl
@[simp] theorem State.setStack_pen (s : State) (k : Nat) (x : Stack) : (s.setStack k x).pen = s.pen := rfl
@[simp] theorem State.setStack_spare (s : State) (k : Nat) (x : Stack) : (s.setStack k x).spare = s.spare := rfl
@[simp] theorem State.setStack_dusk (s : State) (k : Nat) (x : Stack) : (s.setStack k x).dusk = s.dusk := rfl
@[simp] theorem State.setStack_ag (s : State) (k : Nat) (x : Stack) : (s.setStack k x).ag = s.ag := rfl
@[simp] theorem State.setStack_evtHold (s : State) (k : Nat) (x : Stack) : (s.setStack k x).evtHold = s.evtHold := rfl
@[simp] theorem State.setStack_evtAgain (s : State) (k : Nat) (x : Stack) : (s.setStack k x).evtAgain = s.evtAgain := rfl
@[simp] theorem State.setStack_latches (s : State) (k : Nat) (x : Stack) : (s.setStack k x).latches = s.latches := rfl
@[simp] theorem State.setStack_out (s : State) (k : Nat) (x : Stack) : (s.setStack k x).out = s.out := rfl
@[simp] theorem State.setStack_events (s : State) (k : Nat) (x : Stack) : (s.setStack k x).events = s.events := rfl
@[simp] theorem State.setStack_nextId (s : State) (k : Nat) (x : Stack) : (s.setStack k x).nextId = s.nextId := rfl
@[simp] theorem State.setStack_freeCount (s : State) (k : Nat) (x : Stack) : (s.setStack k x).freeCount = s.freeCount := rfl
@[simp] theorem State.setStack_now (s : State) (k : Nat) (x : Stack) : (s.setStack k x).now = s.now := rfl
@[simp] theorem State.setStack_pending (s : State) (k : Nat) (x : Stack) : (s.setStack k x).pending = s.pending := rfl

@[simp] theorem State.setByte_regs (s : State) (a : Nat) (b : Byte) : (s.setByte a b).regs = s.regs := rfl
@[simp] theorem State.setByte_ecc (s : State) (a : Nat) (b : Byte) : (s.setByte a b).ecc = s.ecc := rfl
@[simp] theorem State.setByte_tiles (s : State) (a : Nat) (b : Byte) : (s.setByte a b).tiles = s.tiles := rfl
@[simp] theorem State.setByte_slices (s : State) (a : Nat) (b : Byte) : (s.setByte a b).slices = s.slices := rfl
@[simp] theorem State.setByte_dirs (s : State) (a : Nat) (b : Byte) : (s.setByte a b).dirs = s.dirs := rfl
@[simp] theorem State.setByte_dies (s : State) (a : Nat) (b : Byte) : (s.setByte a b).dies = s.dies := rfl
@[simp] theorem State.setByte_hbm (s : State) (a : Nat) (b : Byte) : (s.setByte a b).hbm = s.hbm := rfl
@[simp] theorem State.setByte_res (s : State) (a : Nat) (b : Byte) : (s.setByte a b).res = s.res := rfl
@[simp] theorem State.setByte_moves (s : State) (a : Nat) (b : Byte) : (s.setByte a b).moves = s.moves := rfl
@[simp] theorem State.setByte_slow (s : State) (a : Nat) (b : Byte) : (s.setByte a b).slow = s.slow := rfl
@[simp] theorem State.setByte_xfers (s : State) (a : Nat) (b : Byte) : (s.setByte a b).xfers = s.xfers := rfl
@[simp] theorem State.setByte_glints (s : State) (a : Nat) (b : Byte) : (s.setByte a b).glints = s.glints := rfl
@[simp] theorem State.setByte_failing (s : State) (a : Nat) (b : Byte) : (s.setByte a b).failing = s.failing := rfl
@[simp] theorem State.setByte_retries (s : State) (a : Nat) (b : Byte) : (s.setByte a b).retries = s.retries := rfl
@[simp] theorem State.setByte_held (s : State) (a : Nat) (b : Byte) : (s.setByte a b).held = s.held := rfl
@[simp] theorem State.setByte_map (s : State) (a : Nat) (b : Byte) : (s.setByte a b).map = s.map := rfl
@[simp] theorem State.setByte_gn (s : State) (a : Nat) (b : Byte) : (s.setByte a b).gn = s.gn := rfl
@[simp] theorem State.setByte_fr (s : State) (a : Nat) (b : Byte) : (s.setByte a b).fr = s.fr := rfl
@[simp] theorem State.setByte_adm (s : State) (a : Nat) (b : Byte) : (s.setByte a b).adm = s.adm := rfl
@[simp] theorem State.setByte_steps (s : State) (a : Nat) (b : Byte) : (s.setByte a b).steps = s.steps := rfl
@[simp] theorem State.setByte_ray (s : State) (a : Nat) (b : Byte) : (s.setByte a b).ray = s.ray := rfl
@[simp] theorem State.setByte_host (s : State) (a : Nat) (b : Byte) : (s.setByte a b).host = s.host := rfl
@[simp] theorem State.setByte_mg (s : State) (a : Nat) (b : Byte) : (s.setByte a b).mg = s.mg := rfl
@[simp] theorem State.setByte_pow (s : State) (a : Nat) (b : Byte) : (s.setByte a b).pow = s.pow := rfl
@[simp] theorem State.setByte_therm (s : State) (a : Nat) (b : Byte) : (s.setByte a b).therm = s.therm := rfl
@[simp] theorem State.setByte_pen (s : State) (a : Nat) (b : Byte) : (s.setByte a b).pen = s.pen := rfl
@[simp] theorem State.setByte_spare (s : State) (a : Nat) (b : Byte) : (s.setByte a b).spare = s.spare := rfl
@[simp] theorem State.setByte_dusk (s : State) (a : Nat) (b : Byte) : (s.setByte a b).dusk = s.dusk := rfl
@[simp] theorem State.setByte_ag (s : State) (a : Nat) (b : Byte) : (s.setByte a b).ag = s.ag := rfl
@[simp] theorem State.setByte_evtHold (s : State) (a : Nat) (b : Byte) : (s.setByte a b).evtHold = s.evtHold := rfl
@[simp] theorem State.setByte_evtAgain (s : State) (a : Nat) (b : Byte) : (s.setByte a b).evtAgain = s.evtAgain := rfl
@[simp] theorem State.setByte_latches (s : State) (a : Nat) (b : Byte) : (s.setByte a b).latches = s.latches := rfl
@[simp] theorem State.setByte_out (s : State) (a : Nat) (b : Byte) : (s.setByte a b).out = s.out := rfl
@[simp] theorem State.setByte_events (s : State) (a : Nat) (b : Byte) : (s.setByte a b).events = s.events := rfl
@[simp] theorem State.setByte_nextId (s : State) (a : Nat) (b : Byte) : (s.setByte a b).nextId = s.nextId := rfl
@[simp] theorem State.setByte_freeCount (s : State) (a : Nat) (b : Byte) : (s.setByte a b).freeCount = s.freeCount := rfl
@[simp] theorem State.setByte_now (s : State) (a : Nat) (b : Byte) : (s.setByte a b).now = s.now := rfl
@[simp] theorem State.setByte_pending (s : State) (a : Nat) (b : Byte) : (s.setByte a b).pending = s.pending := rfl

@[simp] theorem State.setEcc_regs (s : State) (g : Nat) (d : DWord) : (s.setEcc g d).regs = s.regs := rfl
@[simp] theorem State.setEcc_mem (s : State) (g : Nat) (d : DWord) : (s.setEcc g d).mem = s.mem := rfl
@[simp] theorem State.setEcc_tiles (s : State) (g : Nat) (d : DWord) : (s.setEcc g d).tiles = s.tiles := rfl
@[simp] theorem State.setEcc_slices (s : State) (g : Nat) (d : DWord) : (s.setEcc g d).slices = s.slices := rfl
@[simp] theorem State.setEcc_dirs (s : State) (g : Nat) (d : DWord) : (s.setEcc g d).dirs = s.dirs := rfl
@[simp] theorem State.setEcc_dies (s : State) (g : Nat) (d : DWord) : (s.setEcc g d).dies = s.dies := rfl
@[simp] theorem State.setEcc_hbm (s : State) (g : Nat) (d : DWord) : (s.setEcc g d).hbm = s.hbm := rfl
@[simp] theorem State.setEcc_res (s : State) (g : Nat) (d : DWord) : (s.setEcc g d).res = s.res := rfl
@[simp] theorem State.setEcc_moves (s : State) (g : Nat) (d : DWord) : (s.setEcc g d).moves = s.moves := rfl
@[simp] theorem State.setEcc_slow (s : State) (g : Nat) (d : DWord) : (s.setEcc g d).slow = s.slow := rfl
@[simp] theorem State.setEcc_xfers (s : State) (g : Nat) (d : DWord) : (s.setEcc g d).xfers = s.xfers := rfl
@[simp] theorem State.setEcc_glints (s : State) (g : Nat) (d : DWord) : (s.setEcc g d).glints = s.glints := rfl
@[simp] theorem State.setEcc_failing (s : State) (g : Nat) (d : DWord) : (s.setEcc g d).failing = s.failing := rfl
@[simp] theorem State.setEcc_retries (s : State) (g : Nat) (d : DWord) : (s.setEcc g d).retries = s.retries := rfl
@[simp] theorem State.setEcc_held (s : State) (g : Nat) (d : DWord) : (s.setEcc g d).held = s.held := rfl
@[simp] theorem State.setEcc_map (s : State) (g : Nat) (d : DWord) : (s.setEcc g d).map = s.map := rfl
@[simp] theorem State.setEcc_gn (s : State) (g : Nat) (d : DWord) : (s.setEcc g d).gn = s.gn := rfl
@[simp] theorem State.setEcc_fr (s : State) (g : Nat) (d : DWord) : (s.setEcc g d).fr = s.fr := rfl
@[simp] theorem State.setEcc_adm (s : State) (g : Nat) (d : DWord) : (s.setEcc g d).adm = s.adm := rfl
@[simp] theorem State.setEcc_steps (s : State) (g : Nat) (d : DWord) : (s.setEcc g d).steps = s.steps := rfl
@[simp] theorem State.setEcc_ray (s : State) (g : Nat) (d : DWord) : (s.setEcc g d).ray = s.ray := rfl
@[simp] theorem State.setEcc_host (s : State) (g : Nat) (d : DWord) : (s.setEcc g d).host = s.host := rfl
@[simp] theorem State.setEcc_mg (s : State) (g : Nat) (d : DWord) : (s.setEcc g d).mg = s.mg := rfl
@[simp] theorem State.setEcc_pow (s : State) (g : Nat) (d : DWord) : (s.setEcc g d).pow = s.pow := rfl
@[simp] theorem State.setEcc_therm (s : State) (g : Nat) (d : DWord) : (s.setEcc g d).therm = s.therm := rfl
@[simp] theorem State.setEcc_pen (s : State) (g : Nat) (d : DWord) : (s.setEcc g d).pen = s.pen := rfl
@[simp] theorem State.setEcc_spare (s : State) (g : Nat) (d : DWord) : (s.setEcc g d).spare = s.spare := rfl
@[simp] theorem State.setEcc_dusk (s : State) (g : Nat) (d : DWord) : (s.setEcc g d).dusk = s.dusk := rfl
@[simp] theorem State.setEcc_ag (s : State) (g : Nat) (d : DWord) : (s.setEcc g d).ag = s.ag := rfl
@[simp] theorem State.setEcc_evtHold (s : State) (g : Nat) (d : DWord) : (s.setEcc g d).evtHold = s.evtHold := rfl
@[simp] theorem State.setEcc_evtAgain (s : State) (g : Nat) (d : DWord) : (s.setEcc g d).evtAgain = s.evtAgain := rfl
@[simp] theorem State.setEcc_latches (s : State) (g : Nat) (d : DWord) : (s.setEcc g d).latches = s.latches := rfl
@[simp] theorem State.setEcc_out (s : State) (g : Nat) (d : DWord) : (s.setEcc g d).out = s.out := rfl
@[simp] theorem State.setEcc_events (s : State) (g : Nat) (d : DWord) : (s.setEcc g d).events = s.events := rfl
@[simp] theorem State.setEcc_nextId (s : State) (g : Nat) (d : DWord) : (s.setEcc g d).nextId = s.nextId := rfl
@[simp] theorem State.setEcc_freeCount (s : State) (g : Nat) (d : DWord) : (s.setEcc g d).freeCount = s.freeCount := rfl
@[simp] theorem State.setEcc_now (s : State) (g : Nat) (d : DWord) : (s.setEcc g d).now = s.now := rfl
@[simp] theorem State.setEcc_pending (s : State) (g : Nat) (d : DWord) : (s.setEcc g d).pending = s.pending := rfl

@[simp] theorem State.setRes_regs (s : State) (n : Nat) (e : ResEnt) : (s.setRes n e).regs = s.regs := rfl
@[simp] theorem State.setRes_mem (s : State) (n : Nat) (e : ResEnt) : (s.setRes n e).mem = s.mem := rfl
@[simp] theorem State.setRes_ecc (s : State) (n : Nat) (e : ResEnt) : (s.setRes n e).ecc = s.ecc := rfl
@[simp] theorem State.setRes_tiles (s : State) (n : Nat) (e : ResEnt) : (s.setRes n e).tiles = s.tiles := rfl
@[simp] theorem State.setRes_slices (s : State) (n : Nat) (e : ResEnt) : (s.setRes n e).slices = s.slices := rfl
@[simp] theorem State.setRes_dirs (s : State) (n : Nat) (e : ResEnt) : (s.setRes n e).dirs = s.dirs := rfl
@[simp] theorem State.setRes_dies (s : State) (n : Nat) (e : ResEnt) : (s.setRes n e).dies = s.dies := rfl
@[simp] theorem State.setRes_hbm (s : State) (n : Nat) (e : ResEnt) : (s.setRes n e).hbm = s.hbm := rfl
@[simp] theorem State.setRes_moves (s : State) (n : Nat) (e : ResEnt) : (s.setRes n e).moves = s.moves := rfl
@[simp] theorem State.setRes_slow (s : State) (n : Nat) (e : ResEnt) : (s.setRes n e).slow = s.slow := rfl
@[simp] theorem State.setRes_xfers (s : State) (n : Nat) (e : ResEnt) : (s.setRes n e).xfers = s.xfers := rfl
@[simp] theorem State.setRes_glints (s : State) (n : Nat) (e : ResEnt) : (s.setRes n e).glints = s.glints := rfl
@[simp] theorem State.setRes_failing (s : State) (n : Nat) (e : ResEnt) : (s.setRes n e).failing = s.failing := rfl
@[simp] theorem State.setRes_retries (s : State) (n : Nat) (e : ResEnt) : (s.setRes n e).retries = s.retries := rfl
@[simp] theorem State.setRes_held (s : State) (n : Nat) (e : ResEnt) : (s.setRes n e).held = s.held := rfl
@[simp] theorem State.setRes_map (s : State) (n : Nat) (e : ResEnt) : (s.setRes n e).map = s.map := rfl
@[simp] theorem State.setRes_gn (s : State) (n : Nat) (e : ResEnt) : (s.setRes n e).gn = s.gn := rfl
@[simp] theorem State.setRes_fr (s : State) (n : Nat) (e : ResEnt) : (s.setRes n e).fr = s.fr := rfl
@[simp] theorem State.setRes_adm (s : State) (n : Nat) (e : ResEnt) : (s.setRes n e).adm = s.adm := rfl
@[simp] theorem State.setRes_steps (s : State) (n : Nat) (e : ResEnt) : (s.setRes n e).steps = s.steps := rfl
@[simp] theorem State.setRes_ray (s : State) (n : Nat) (e : ResEnt) : (s.setRes n e).ray = s.ray := rfl
@[simp] theorem State.setRes_host (s : State) (n : Nat) (e : ResEnt) : (s.setRes n e).host = s.host := rfl
@[simp] theorem State.setRes_mg (s : State) (n : Nat) (e : ResEnt) : (s.setRes n e).mg = s.mg := rfl
@[simp] theorem State.setRes_pow (s : State) (n : Nat) (e : ResEnt) : (s.setRes n e).pow = s.pow := rfl
@[simp] theorem State.setRes_therm (s : State) (n : Nat) (e : ResEnt) : (s.setRes n e).therm = s.therm := rfl
@[simp] theorem State.setRes_pen (s : State) (n : Nat) (e : ResEnt) : (s.setRes n e).pen = s.pen := rfl
@[simp] theorem State.setRes_spare (s : State) (n : Nat) (e : ResEnt) : (s.setRes n e).spare = s.spare := rfl
@[simp] theorem State.setRes_dusk (s : State) (n : Nat) (e : ResEnt) : (s.setRes n e).dusk = s.dusk := rfl
@[simp] theorem State.setRes_ag (s : State) (n : Nat) (e : ResEnt) : (s.setRes n e).ag = s.ag := rfl
@[simp] theorem State.setRes_evtHold (s : State) (n : Nat) (e : ResEnt) : (s.setRes n e).evtHold = s.evtHold := rfl
@[simp] theorem State.setRes_evtAgain (s : State) (n : Nat) (e : ResEnt) : (s.setRes n e).evtAgain = s.evtAgain := rfl
@[simp] theorem State.setRes_latches (s : State) (n : Nat) (e : ResEnt) : (s.setRes n e).latches = s.latches := rfl
@[simp] theorem State.setRes_out (s : State) (n : Nat) (e : ResEnt) : (s.setRes n e).out = s.out := rfl
@[simp] theorem State.setRes_events (s : State) (n : Nat) (e : ResEnt) : (s.setRes n e).events = s.events := rfl
@[simp] theorem State.setRes_nextId (s : State) (n : Nat) (e : ResEnt) : (s.setRes n e).nextId = s.nextId := rfl
@[simp] theorem State.setRes_freeCount (s : State) (n : Nat) (e : ResEnt) : (s.setRes n e).freeCount = s.freeCount := rfl
@[simp] theorem State.setRes_now (s : State) (n : Nat) (e : ResEnt) : (s.setRes n e).now = s.now := rfl
@[simp] theorem State.setRes_pending (s : State) (n : Nat) (e : ResEnt) : (s.setRes n e).pending = s.pending := rfl

@[simp] theorem State.setPort_regs (s : State) (p : Nat) (x : Port) : (s.setPort p x).regs = s.regs := rfl
@[simp] theorem State.setPort_mem (s : State) (p : Nat) (x : Port) : (s.setPort p x).mem = s.mem := rfl
@[simp] theorem State.setPort_ecc (s : State) (p : Nat) (x : Port) : (s.setPort p x).ecc = s.ecc := rfl
@[simp] theorem State.setPort_tiles (s : State) (p : Nat) (x : Port) : (s.setPort p x).tiles = s.tiles := rfl
@[simp] theorem State.setPort_slices (s : State) (p : Nat) (x : Port) : (s.setPort p x).slices = s.slices := rfl
@[simp] theorem State.setPort_dirs (s : State) (p : Nat) (x : Port) : (s.setPort p x).dirs = s.dirs := rfl
@[simp] theorem State.setPort_dies (s : State) (p : Nat) (x : Port) : (s.setPort p x).dies = s.dies := rfl
@[simp] theorem State.setPort_hbm (s : State) (p : Nat) (x : Port) : (s.setPort p x).hbm = s.hbm := rfl
@[simp] theorem State.setPort_res (s : State) (p : Nat) (x : Port) : (s.setPort p x).res = s.res := rfl
@[simp] theorem State.setPort_moves (s : State) (p : Nat) (x : Port) : (s.setPort p x).moves = s.moves := rfl
@[simp] theorem State.setPort_slow (s : State) (p : Nat) (x : Port) : (s.setPort p x).slow = s.slow := rfl
@[simp] theorem State.setPort_xfers (s : State) (p : Nat) (x : Port) : (s.setPort p x).xfers = s.xfers := rfl
@[simp] theorem State.setPort_glints (s : State) (p : Nat) (x : Port) : (s.setPort p x).glints = s.glints := rfl
@[simp] theorem State.setPort_failing (s : State) (p : Nat) (x : Port) : (s.setPort p x).failing = s.failing := rfl
@[simp] theorem State.setPort_retries (s : State) (p : Nat) (x : Port) : (s.setPort p x).retries = s.retries := rfl
@[simp] theorem State.setPort_held (s : State) (p : Nat) (x : Port) : (s.setPort p x).held = s.held := rfl
@[simp] theorem State.setPort_map (s : State) (p : Nat) (x : Port) : (s.setPort p x).map = s.map := rfl
@[simp] theorem State.setPort_gn (s : State) (p : Nat) (x : Port) : (s.setPort p x).gn = s.gn := rfl
@[simp] theorem State.setPort_fr (s : State) (p : Nat) (x : Port) : (s.setPort p x).fr = s.fr := rfl
@[simp] theorem State.setPort_adm (s : State) (p : Nat) (x : Port) : (s.setPort p x).adm = s.adm := rfl
@[simp] theorem State.setPort_steps (s : State) (p : Nat) (x : Port) : (s.setPort p x).steps = s.steps := rfl
@[simp] theorem State.setPort_host (s : State) (p : Nat) (x : Port) : (s.setPort p x).host = s.host := rfl
@[simp] theorem State.setPort_mg (s : State) (p : Nat) (x : Port) : (s.setPort p x).mg = s.mg := rfl
@[simp] theorem State.setPort_pow (s : State) (p : Nat) (x : Port) : (s.setPort p x).pow = s.pow := rfl
@[simp] theorem State.setPort_therm (s : State) (p : Nat) (x : Port) : (s.setPort p x).therm = s.therm := rfl
@[simp] theorem State.setPort_pen (s : State) (p : Nat) (x : Port) : (s.setPort p x).pen = s.pen := rfl
@[simp] theorem State.setPort_spare (s : State) (p : Nat) (x : Port) : (s.setPort p x).spare = s.spare := rfl
@[simp] theorem State.setPort_dusk (s : State) (p : Nat) (x : Port) : (s.setPort p x).dusk = s.dusk := rfl
@[simp] theorem State.setPort_ag (s : State) (p : Nat) (x : Port) : (s.setPort p x).ag = s.ag := rfl
@[simp] theorem State.setPort_evtHold (s : State) (p : Nat) (x : Port) : (s.setPort p x).evtHold = s.evtHold := rfl
@[simp] theorem State.setPort_evtAgain (s : State) (p : Nat) (x : Port) : (s.setPort p x).evtAgain = s.evtAgain := rfl
@[simp] theorem State.setPort_latches (s : State) (p : Nat) (x : Port) : (s.setPort p x).latches = s.latches := rfl
@[simp] theorem State.setPort_out (s : State) (p : Nat) (x : Port) : (s.setPort p x).out = s.out := rfl
@[simp] theorem State.setPort_events (s : State) (p : Nat) (x : Port) : (s.setPort p x).events = s.events := rfl
@[simp] theorem State.setPort_nextId (s : State) (p : Nat) (x : Port) : (s.setPort p x).nextId = s.nextId := rfl
@[simp] theorem State.setPort_freeCount (s : State) (p : Nat) (x : Port) : (s.setPort p x).freeCount = s.freeCount := rfl
@[simp] theorem State.setPort_now (s : State) (p : Nat) (x : Port) : (s.setPort p x).now = s.now := rfl
@[simp] theorem State.setPort_pending (s : State) (p : Nat) (x : Port) : (s.setPort p x).pending = s.pending := rfl

@[simp] theorem State.say_regs (s : State) (m : Out) : (s.say m).regs = s.regs := rfl
@[simp] theorem State.say_mem (s : State) (m : Out) : (s.say m).mem = s.mem := rfl
@[simp] theorem State.say_ecc (s : State) (m : Out) : (s.say m).ecc = s.ecc := rfl
@[simp] theorem State.say_tiles (s : State) (m : Out) : (s.say m).tiles = s.tiles := rfl
@[simp] theorem State.say_slices (s : State) (m : Out) : (s.say m).slices = s.slices := rfl
@[simp] theorem State.say_dirs (s : State) (m : Out) : (s.say m).dirs = s.dirs := rfl
@[simp] theorem State.say_dies (s : State) (m : Out) : (s.say m).dies = s.dies := rfl
@[simp] theorem State.say_hbm (s : State) (m : Out) : (s.say m).hbm = s.hbm := rfl
@[simp] theorem State.say_res (s : State) (m : Out) : (s.say m).res = s.res := rfl
@[simp] theorem State.say_moves (s : State) (m : Out) : (s.say m).moves = s.moves := rfl
@[simp] theorem State.say_slow (s : State) (m : Out) : (s.say m).slow = s.slow := rfl
@[simp] theorem State.say_xfers (s : State) (m : Out) : (s.say m).xfers = s.xfers := rfl
@[simp] theorem State.say_glints (s : State) (m : Out) : (s.say m).glints = s.glints := rfl
@[simp] theorem State.say_failing (s : State) (m : Out) : (s.say m).failing = s.failing := rfl
@[simp] theorem State.say_retries (s : State) (m : Out) : (s.say m).retries = s.retries := rfl
@[simp] theorem State.say_held (s : State) (m : Out) : (s.say m).held = s.held := rfl
@[simp] theorem State.say_map (s : State) (m : Out) : (s.say m).map = s.map := rfl
@[simp] theorem State.say_gn (s : State) (m : Out) : (s.say m).gn = s.gn := rfl
@[simp] theorem State.say_fr (s : State) (m : Out) : (s.say m).fr = s.fr := rfl
@[simp] theorem State.say_adm (s : State) (m : Out) : (s.say m).adm = s.adm := rfl
@[simp] theorem State.say_steps (s : State) (m : Out) : (s.say m).steps = s.steps := rfl
@[simp] theorem State.say_ray (s : State) (m : Out) : (s.say m).ray = s.ray := rfl
@[simp] theorem State.say_host (s : State) (m : Out) : (s.say m).host = s.host := rfl
@[simp] theorem State.say_mg (s : State) (m : Out) : (s.say m).mg = s.mg := rfl
@[simp] theorem State.say_pow (s : State) (m : Out) : (s.say m).pow = s.pow := rfl
@[simp] theorem State.say_therm (s : State) (m : Out) : (s.say m).therm = s.therm := rfl
@[simp] theorem State.say_pen (s : State) (m : Out) : (s.say m).pen = s.pen := rfl
@[simp] theorem State.say_spare (s : State) (m : Out) : (s.say m).spare = s.spare := rfl
@[simp] theorem State.say_dusk (s : State) (m : Out) : (s.say m).dusk = s.dusk := rfl
@[simp] theorem State.say_ag (s : State) (m : Out) : (s.say m).ag = s.ag := rfl
@[simp] theorem State.say_evtHold (s : State) (m : Out) : (s.say m).evtHold = s.evtHold := rfl
@[simp] theorem State.say_evtAgain (s : State) (m : Out) : (s.say m).evtAgain = s.evtAgain := rfl
@[simp] theorem State.say_latches (s : State) (m : Out) : (s.say m).latches = s.latches := rfl
@[simp] theorem State.say_events (s : State) (m : Out) : (s.say m).events = s.events := rfl
@[simp] theorem State.say_nextId (s : State) (m : Out) : (s.say m).nextId = s.nextId := rfl
@[simp] theorem State.say_freeCount (s : State) (m : Out) : (s.say m).freeCount = s.freeCount := rfl
@[simp] theorem State.say_now (s : State) (m : Out) : (s.say m).now = s.now := rfl
@[simp] theorem State.say_pending (s : State) (m : Out) : (s.say m).pending = s.pending := rfl

@[simp] theorem State.modHost_regs (s : State) (f : HostSt → HostSt) : (s.modHost f).regs = s.regs := rfl
@[simp] theorem State.modHost_mem (s : State) (f : HostSt → HostSt) : (s.modHost f).mem = s.mem := rfl
@[simp] theorem State.modHost_ecc (s : State) (f : HostSt → HostSt) : (s.modHost f).ecc = s.ecc := rfl
@[simp] theorem State.modHost_tiles (s : State) (f : HostSt → HostSt) : (s.modHost f).tiles = s.tiles := rfl
@[simp] theorem State.modHost_slices (s : State) (f : HostSt → HostSt) : (s.modHost f).slices = s.slices := rfl
@[simp] theorem State.modHost_dirs (s : State) (f : HostSt → HostSt) : (s.modHost f).dirs = s.dirs := rfl
@[simp] theorem State.modHost_dies (s : State) (f : HostSt → HostSt) : (s.modHost f).dies = s.dies := rfl
@[simp] theorem State.modHost_hbm (s : State) (f : HostSt → HostSt) : (s.modHost f).hbm = s.hbm := rfl
@[simp] theorem State.modHost_res (s : State) (f : HostSt → HostSt) : (s.modHost f).res = s.res := rfl
@[simp] theorem State.modHost_moves (s : State) (f : HostSt → HostSt) : (s.modHost f).moves = s.moves := rfl
@[simp] theorem State.modHost_slow (s : State) (f : HostSt → HostSt) : (s.modHost f).slow = s.slow := rfl
@[simp] theorem State.modHost_xfers (s : State) (f : HostSt → HostSt) : (s.modHost f).xfers = s.xfers := rfl
@[simp] theorem State.modHost_glints (s : State) (f : HostSt → HostSt) : (s.modHost f).glints = s.glints := rfl
@[simp] theorem State.modHost_failing (s : State) (f : HostSt → HostSt) : (s.modHost f).failing = s.failing := rfl
@[simp] theorem State.modHost_retries (s : State) (f : HostSt → HostSt) : (s.modHost f).retries = s.retries := rfl
@[simp] theorem State.modHost_held (s : State) (f : HostSt → HostSt) : (s.modHost f).held = s.held := rfl
@[simp] theorem State.modHost_map (s : State) (f : HostSt → HostSt) : (s.modHost f).map = s.map := rfl
@[simp] theorem State.modHost_gn (s : State) (f : HostSt → HostSt) : (s.modHost f).gn = s.gn := rfl
@[simp] theorem State.modHost_fr (s : State) (f : HostSt → HostSt) : (s.modHost f).fr = s.fr := rfl
@[simp] theorem State.modHost_adm (s : State) (f : HostSt → HostSt) : (s.modHost f).adm = s.adm := rfl
@[simp] theorem State.modHost_steps (s : State) (f : HostSt → HostSt) : (s.modHost f).steps = s.steps := rfl
@[simp] theorem State.modHost_ray (s : State) (f : HostSt → HostSt) : (s.modHost f).ray = s.ray := rfl
@[simp] theorem State.modHost_mg (s : State) (f : HostSt → HostSt) : (s.modHost f).mg = s.mg := rfl
@[simp] theorem State.modHost_pow (s : State) (f : HostSt → HostSt) : (s.modHost f).pow = s.pow := rfl
@[simp] theorem State.modHost_therm (s : State) (f : HostSt → HostSt) : (s.modHost f).therm = s.therm := rfl
@[simp] theorem State.modHost_pen (s : State) (f : HostSt → HostSt) : (s.modHost f).pen = s.pen := rfl
@[simp] theorem State.modHost_spare (s : State) (f : HostSt → HostSt) : (s.modHost f).spare = s.spare := rfl
@[simp] theorem State.modHost_dusk (s : State) (f : HostSt → HostSt) : (s.modHost f).dusk = s.dusk := rfl
@[simp] theorem State.modHost_ag (s : State) (f : HostSt → HostSt) : (s.modHost f).ag = s.ag := rfl
@[simp] theorem State.modHost_evtHold (s : State) (f : HostSt → HostSt) : (s.modHost f).evtHold = s.evtHold := rfl
@[simp] theorem State.modHost_evtAgain (s : State) (f : HostSt → HostSt) : (s.modHost f).evtAgain = s.evtAgain := rfl
@[simp] theorem State.modHost_latches (s : State) (f : HostSt → HostSt) : (s.modHost f).latches = s.latches := rfl
@[simp] theorem State.modHost_out (s : State) (f : HostSt → HostSt) : (s.modHost f).out = s.out := rfl
@[simp] theorem State.modHost_events (s : State) (f : HostSt → HostSt) : (s.modHost f).events = s.events := rfl
@[simp] theorem State.modHost_nextId (s : State) (f : HostSt → HostSt) : (s.modHost f).nextId = s.nextId := rfl
@[simp] theorem State.modHost_freeCount (s : State) (f : HostSt → HostSt) : (s.modHost f).freeCount = s.freeCount := rfl
@[simp] theorem State.modHost_now (s : State) (f : HostSt → HostSt) : (s.modHost f).now = s.now := rfl
@[simp] theorem State.modHost_pending (s : State) (f : HostSt → HostSt) : (s.modHost f).pending = s.pending := rfl

@[simp] theorem State.modAdm_regs (s : State) (f : Adm → Adm) : (s.modAdm f).regs = s.regs := rfl
@[simp] theorem State.modAdm_mem (s : State) (f : Adm → Adm) : (s.modAdm f).mem = s.mem := rfl
@[simp] theorem State.modAdm_ecc (s : State) (f : Adm → Adm) : (s.modAdm f).ecc = s.ecc := rfl
@[simp] theorem State.modAdm_tiles (s : State) (f : Adm → Adm) : (s.modAdm f).tiles = s.tiles := rfl
@[simp] theorem State.modAdm_slices (s : State) (f : Adm → Adm) : (s.modAdm f).slices = s.slices := rfl
@[simp] theorem State.modAdm_dirs (s : State) (f : Adm → Adm) : (s.modAdm f).dirs = s.dirs := rfl
@[simp] theorem State.modAdm_dies (s : State) (f : Adm → Adm) : (s.modAdm f).dies = s.dies := rfl
@[simp] theorem State.modAdm_hbm (s : State) (f : Adm → Adm) : (s.modAdm f).hbm = s.hbm := rfl
@[simp] theorem State.modAdm_res (s : State) (f : Adm → Adm) : (s.modAdm f).res = s.res := rfl
@[simp] theorem State.modAdm_moves (s : State) (f : Adm → Adm) : (s.modAdm f).moves = s.moves := rfl
@[simp] theorem State.modAdm_slow (s : State) (f : Adm → Adm) : (s.modAdm f).slow = s.slow := rfl
@[simp] theorem State.modAdm_xfers (s : State) (f : Adm → Adm) : (s.modAdm f).xfers = s.xfers := rfl
@[simp] theorem State.modAdm_glints (s : State) (f : Adm → Adm) : (s.modAdm f).glints = s.glints := rfl
@[simp] theorem State.modAdm_failing (s : State) (f : Adm → Adm) : (s.modAdm f).failing = s.failing := rfl
@[simp] theorem State.modAdm_retries (s : State) (f : Adm → Adm) : (s.modAdm f).retries = s.retries := rfl
@[simp] theorem State.modAdm_held (s : State) (f : Adm → Adm) : (s.modAdm f).held = s.held := rfl
@[simp] theorem State.modAdm_map (s : State) (f : Adm → Adm) : (s.modAdm f).map = s.map := rfl
@[simp] theorem State.modAdm_gn (s : State) (f : Adm → Adm) : (s.modAdm f).gn = s.gn := rfl
@[simp] theorem State.modAdm_fr (s : State) (f : Adm → Adm) : (s.modAdm f).fr = s.fr := rfl
@[simp] theorem State.modAdm_steps (s : State) (f : Adm → Adm) : (s.modAdm f).steps = s.steps := rfl
@[simp] theorem State.modAdm_ray (s : State) (f : Adm → Adm) : (s.modAdm f).ray = s.ray := rfl
@[simp] theorem State.modAdm_host (s : State) (f : Adm → Adm) : (s.modAdm f).host = s.host := rfl
@[simp] theorem State.modAdm_mg (s : State) (f : Adm → Adm) : (s.modAdm f).mg = s.mg := rfl
@[simp] theorem State.modAdm_pow (s : State) (f : Adm → Adm) : (s.modAdm f).pow = s.pow := rfl
@[simp] theorem State.modAdm_therm (s : State) (f : Adm → Adm) : (s.modAdm f).therm = s.therm := rfl
@[simp] theorem State.modAdm_pen (s : State) (f : Adm → Adm) : (s.modAdm f).pen = s.pen := rfl
@[simp] theorem State.modAdm_spare (s : State) (f : Adm → Adm) : (s.modAdm f).spare = s.spare := rfl
@[simp] theorem State.modAdm_dusk (s : State) (f : Adm → Adm) : (s.modAdm f).dusk = s.dusk := rfl
@[simp] theorem State.modAdm_ag (s : State) (f : Adm → Adm) : (s.modAdm f).ag = s.ag := rfl
@[simp] theorem State.modAdm_evtHold (s : State) (f : Adm → Adm) : (s.modAdm f).evtHold = s.evtHold := rfl
@[simp] theorem State.modAdm_evtAgain (s : State) (f : Adm → Adm) : (s.modAdm f).evtAgain = s.evtAgain := rfl
@[simp] theorem State.modAdm_latches (s : State) (f : Adm → Adm) : (s.modAdm f).latches = s.latches := rfl
@[simp] theorem State.modAdm_out (s : State) (f : Adm → Adm) : (s.modAdm f).out = s.out := rfl
@[simp] theorem State.modAdm_events (s : State) (f : Adm → Adm) : (s.modAdm f).events = s.events := rfl
@[simp] theorem State.modAdm_nextId (s : State) (f : Adm → Adm) : (s.modAdm f).nextId = s.nextId := rfl
@[simp] theorem State.modAdm_freeCount (s : State) (f : Adm → Adm) : (s.modAdm f).freeCount = s.freeCount := rfl
@[simp] theorem State.modAdm_now (s : State) (f : Adm → Adm) : (s.modAdm f).now = s.now := rfl
@[simp] theorem State.modAdm_pending (s : State) (f : Adm → Adm) : (s.modAdm f).pending = s.pending := rfl

@[simp] theorem State.modGn_regs (s : State) (f : Gnomon → Gnomon) : (s.modGn f).regs = s.regs := rfl
@[simp] theorem State.modGn_mem (s : State) (f : Gnomon → Gnomon) : (s.modGn f).mem = s.mem := rfl
@[simp] theorem State.modGn_ecc (s : State) (f : Gnomon → Gnomon) : (s.modGn f).ecc = s.ecc := rfl
@[simp] theorem State.modGn_tiles (s : State) (f : Gnomon → Gnomon) : (s.modGn f).tiles = s.tiles := rfl
@[simp] theorem State.modGn_slices (s : State) (f : Gnomon → Gnomon) : (s.modGn f).slices = s.slices := rfl
@[simp] theorem State.modGn_dirs (s : State) (f : Gnomon → Gnomon) : (s.modGn f).dirs = s.dirs := rfl
@[simp] theorem State.modGn_dies (s : State) (f : Gnomon → Gnomon) : (s.modGn f).dies = s.dies := rfl
@[simp] theorem State.modGn_hbm (s : State) (f : Gnomon → Gnomon) : (s.modGn f).hbm = s.hbm := rfl
@[simp] theorem State.modGn_res (s : State) (f : Gnomon → Gnomon) : (s.modGn f).res = s.res := rfl
@[simp] theorem State.modGn_moves (s : State) (f : Gnomon → Gnomon) : (s.modGn f).moves = s.moves := rfl
@[simp] theorem State.modGn_slow (s : State) (f : Gnomon → Gnomon) : (s.modGn f).slow = s.slow := rfl
@[simp] theorem State.modGn_xfers (s : State) (f : Gnomon → Gnomon) : (s.modGn f).xfers = s.xfers := rfl
@[simp] theorem State.modGn_glints (s : State) (f : Gnomon → Gnomon) : (s.modGn f).glints = s.glints := rfl
@[simp] theorem State.modGn_failing (s : State) (f : Gnomon → Gnomon) : (s.modGn f).failing = s.failing := rfl
@[simp] theorem State.modGn_retries (s : State) (f : Gnomon → Gnomon) : (s.modGn f).retries = s.retries := rfl
@[simp] theorem State.modGn_held (s : State) (f : Gnomon → Gnomon) : (s.modGn f).held = s.held := rfl
@[simp] theorem State.modGn_map (s : State) (f : Gnomon → Gnomon) : (s.modGn f).map = s.map := rfl
@[simp] theorem State.modGn_fr (s : State) (f : Gnomon → Gnomon) : (s.modGn f).fr = s.fr := rfl
@[simp] theorem State.modGn_adm (s : State) (f : Gnomon → Gnomon) : (s.modGn f).adm = s.adm := rfl
@[simp] theorem State.modGn_steps (s : State) (f : Gnomon → Gnomon) : (s.modGn f).steps = s.steps := rfl
@[simp] theorem State.modGn_ray (s : State) (f : Gnomon → Gnomon) : (s.modGn f).ray = s.ray := rfl
@[simp] theorem State.modGn_host (s : State) (f : Gnomon → Gnomon) : (s.modGn f).host = s.host := rfl
@[simp] theorem State.modGn_mg (s : State) (f : Gnomon → Gnomon) : (s.modGn f).mg = s.mg := rfl
@[simp] theorem State.modGn_pow (s : State) (f : Gnomon → Gnomon) : (s.modGn f).pow = s.pow := rfl
@[simp] theorem State.modGn_therm (s : State) (f : Gnomon → Gnomon) : (s.modGn f).therm = s.therm := rfl
@[simp] theorem State.modGn_pen (s : State) (f : Gnomon → Gnomon) : (s.modGn f).pen = s.pen := rfl
@[simp] theorem State.modGn_spare (s : State) (f : Gnomon → Gnomon) : (s.modGn f).spare = s.spare := rfl
@[simp] theorem State.modGn_dusk (s : State) (f : Gnomon → Gnomon) : (s.modGn f).dusk = s.dusk := rfl
@[simp] theorem State.modGn_ag (s : State) (f : Gnomon → Gnomon) : (s.modGn f).ag = s.ag := rfl
@[simp] theorem State.modGn_evtHold (s : State) (f : Gnomon → Gnomon) : (s.modGn f).evtHold = s.evtHold := rfl
@[simp] theorem State.modGn_evtAgain (s : State) (f : Gnomon → Gnomon) : (s.modGn f).evtAgain = s.evtAgain := rfl
@[simp] theorem State.modGn_latches (s : State) (f : Gnomon → Gnomon) : (s.modGn f).latches = s.latches := rfl
@[simp] theorem State.modGn_out (s : State) (f : Gnomon → Gnomon) : (s.modGn f).out = s.out := rfl
@[simp] theorem State.modGn_events (s : State) (f : Gnomon → Gnomon) : (s.modGn f).events = s.events := rfl
@[simp] theorem State.modGn_nextId (s : State) (f : Gnomon → Gnomon) : (s.modGn f).nextId = s.nextId := rfl
@[simp] theorem State.modGn_freeCount (s : State) (f : Gnomon → Gnomon) : (s.modGn f).freeCount = s.freeCount := rfl
@[simp] theorem State.modGn_now (s : State) (f : Gnomon → Gnomon) : (s.modGn f).now = s.now := rfl
@[simp] theorem State.modGn_pending (s : State) (f : Gnomon → Gnomon) : (s.modGn f).pending = s.pending := rfl

@[simp] theorem State.modFr_regs (s : State) (f : Frames → Frames) : (s.modFr f).regs = s.regs := rfl
@[simp] theorem State.modFr_mem (s : State) (f : Frames → Frames) : (s.modFr f).mem = s.mem := rfl
@[simp] theorem State.modFr_ecc (s : State) (f : Frames → Frames) : (s.modFr f).ecc = s.ecc := rfl
@[simp] theorem State.modFr_tiles (s : State) (f : Frames → Frames) : (s.modFr f).tiles = s.tiles := rfl
@[simp] theorem State.modFr_slices (s : State) (f : Frames → Frames) : (s.modFr f).slices = s.slices := rfl
@[simp] theorem State.modFr_dirs (s : State) (f : Frames → Frames) : (s.modFr f).dirs = s.dirs := rfl
@[simp] theorem State.modFr_dies (s : State) (f : Frames → Frames) : (s.modFr f).dies = s.dies := rfl
@[simp] theorem State.modFr_hbm (s : State) (f : Frames → Frames) : (s.modFr f).hbm = s.hbm := rfl
@[simp] theorem State.modFr_res (s : State) (f : Frames → Frames) : (s.modFr f).res = s.res := rfl
@[simp] theorem State.modFr_moves (s : State) (f : Frames → Frames) : (s.modFr f).moves = s.moves := rfl
@[simp] theorem State.modFr_slow (s : State) (f : Frames → Frames) : (s.modFr f).slow = s.slow := rfl
@[simp] theorem State.modFr_xfers (s : State) (f : Frames → Frames) : (s.modFr f).xfers = s.xfers := rfl
@[simp] theorem State.modFr_glints (s : State) (f : Frames → Frames) : (s.modFr f).glints = s.glints := rfl
@[simp] theorem State.modFr_failing (s : State) (f : Frames → Frames) : (s.modFr f).failing = s.failing := rfl
@[simp] theorem State.modFr_retries (s : State) (f : Frames → Frames) : (s.modFr f).retries = s.retries := rfl
@[simp] theorem State.modFr_held (s : State) (f : Frames → Frames) : (s.modFr f).held = s.held := rfl
@[simp] theorem State.modFr_map (s : State) (f : Frames → Frames) : (s.modFr f).map = s.map := rfl
@[simp] theorem State.modFr_gn (s : State) (f : Frames → Frames) : (s.modFr f).gn = s.gn := rfl
@[simp] theorem State.modFr_adm (s : State) (f : Frames → Frames) : (s.modFr f).adm = s.adm := rfl
@[simp] theorem State.modFr_steps (s : State) (f : Frames → Frames) : (s.modFr f).steps = s.steps := rfl
@[simp] theorem State.modFr_ray (s : State) (f : Frames → Frames) : (s.modFr f).ray = s.ray := rfl
@[simp] theorem State.modFr_host (s : State) (f : Frames → Frames) : (s.modFr f).host = s.host := rfl
@[simp] theorem State.modFr_mg (s : State) (f : Frames → Frames) : (s.modFr f).mg = s.mg := rfl
@[simp] theorem State.modFr_pow (s : State) (f : Frames → Frames) : (s.modFr f).pow = s.pow := rfl
@[simp] theorem State.modFr_therm (s : State) (f : Frames → Frames) : (s.modFr f).therm = s.therm := rfl
@[simp] theorem State.modFr_pen (s : State) (f : Frames → Frames) : (s.modFr f).pen = s.pen := rfl
@[simp] theorem State.modFr_spare (s : State) (f : Frames → Frames) : (s.modFr f).spare = s.spare := rfl
@[simp] theorem State.modFr_dusk (s : State) (f : Frames → Frames) : (s.modFr f).dusk = s.dusk := rfl
@[simp] theorem State.modFr_ag (s : State) (f : Frames → Frames) : (s.modFr f).ag = s.ag := rfl
@[simp] theorem State.modFr_evtHold (s : State) (f : Frames → Frames) : (s.modFr f).evtHold = s.evtHold := rfl
@[simp] theorem State.modFr_evtAgain (s : State) (f : Frames → Frames) : (s.modFr f).evtAgain = s.evtAgain := rfl
@[simp] theorem State.modFr_latches (s : State) (f : Frames → Frames) : (s.modFr f).latches = s.latches := rfl
@[simp] theorem State.modFr_out (s : State) (f : Frames → Frames) : (s.modFr f).out = s.out := rfl
@[simp] theorem State.modFr_events (s : State) (f : Frames → Frames) : (s.modFr f).events = s.events := rfl
@[simp] theorem State.modFr_nextId (s : State) (f : Frames → Frames) : (s.modFr f).nextId = s.nextId := rfl
@[simp] theorem State.modFr_freeCount (s : State) (f : Frames → Frames) : (s.modFr f).freeCount = s.freeCount := rfl
@[simp] theorem State.modFr_now (s : State) (f : Frames → Frames) : (s.modFr f).now = s.now := rfl
@[simp] theorem State.modFr_pending (s : State) (f : Frames → Frames) : (s.modFr f).pending = s.pending := rfl

@[simp] theorem State.modSteps_regs (s : State) (f : Steps → Steps) : (s.modSteps f).regs = s.regs := rfl
@[simp] theorem State.modSteps_mem (s : State) (f : Steps → Steps) : (s.modSteps f).mem = s.mem := rfl
@[simp] theorem State.modSteps_ecc (s : State) (f : Steps → Steps) : (s.modSteps f).ecc = s.ecc := rfl
@[simp] theorem State.modSteps_tiles (s : State) (f : Steps → Steps) : (s.modSteps f).tiles = s.tiles := rfl
@[simp] theorem State.modSteps_slices (s : State) (f : Steps → Steps) : (s.modSteps f).slices = s.slices := rfl
@[simp] theorem State.modSteps_dirs (s : State) (f : Steps → Steps) : (s.modSteps f).dirs = s.dirs := rfl
@[simp] theorem State.modSteps_dies (s : State) (f : Steps → Steps) : (s.modSteps f).dies = s.dies := rfl
@[simp] theorem State.modSteps_hbm (s : State) (f : Steps → Steps) : (s.modSteps f).hbm = s.hbm := rfl
@[simp] theorem State.modSteps_res (s : State) (f : Steps → Steps) : (s.modSteps f).res = s.res := rfl
@[simp] theorem State.modSteps_moves (s : State) (f : Steps → Steps) : (s.modSteps f).moves = s.moves := rfl
@[simp] theorem State.modSteps_slow (s : State) (f : Steps → Steps) : (s.modSteps f).slow = s.slow := rfl
@[simp] theorem State.modSteps_xfers (s : State) (f : Steps → Steps) : (s.modSteps f).xfers = s.xfers := rfl
@[simp] theorem State.modSteps_glints (s : State) (f : Steps → Steps) : (s.modSteps f).glints = s.glints := rfl
@[simp] theorem State.modSteps_failing (s : State) (f : Steps → Steps) : (s.modSteps f).failing = s.failing := rfl
@[simp] theorem State.modSteps_retries (s : State) (f : Steps → Steps) : (s.modSteps f).retries = s.retries := rfl
@[simp] theorem State.modSteps_held (s : State) (f : Steps → Steps) : (s.modSteps f).held = s.held := rfl
@[simp] theorem State.modSteps_map (s : State) (f : Steps → Steps) : (s.modSteps f).map = s.map := rfl
@[simp] theorem State.modSteps_gn (s : State) (f : Steps → Steps) : (s.modSteps f).gn = s.gn := rfl
@[simp] theorem State.modSteps_fr (s : State) (f : Steps → Steps) : (s.modSteps f).fr = s.fr := rfl
@[simp] theorem State.modSteps_adm (s : State) (f : Steps → Steps) : (s.modSteps f).adm = s.adm := rfl
@[simp] theorem State.modSteps_ray (s : State) (f : Steps → Steps) : (s.modSteps f).ray = s.ray := rfl
@[simp] theorem State.modSteps_host (s : State) (f : Steps → Steps) : (s.modSteps f).host = s.host := rfl
@[simp] theorem State.modSteps_mg (s : State) (f : Steps → Steps) : (s.modSteps f).mg = s.mg := rfl
@[simp] theorem State.modSteps_pow (s : State) (f : Steps → Steps) : (s.modSteps f).pow = s.pow := rfl
@[simp] theorem State.modSteps_therm (s : State) (f : Steps → Steps) : (s.modSteps f).therm = s.therm := rfl
@[simp] theorem State.modSteps_pen (s : State) (f : Steps → Steps) : (s.modSteps f).pen = s.pen := rfl
@[simp] theorem State.modSteps_spare (s : State) (f : Steps → Steps) : (s.modSteps f).spare = s.spare := rfl
@[simp] theorem State.modSteps_dusk (s : State) (f : Steps → Steps) : (s.modSteps f).dusk = s.dusk := rfl
@[simp] theorem State.modSteps_ag (s : State) (f : Steps → Steps) : (s.modSteps f).ag = s.ag := rfl
@[simp] theorem State.modSteps_evtHold (s : State) (f : Steps → Steps) : (s.modSteps f).evtHold = s.evtHold := rfl
@[simp] theorem State.modSteps_evtAgain (s : State) (f : Steps → Steps) : (s.modSteps f).evtAgain = s.evtAgain := rfl
@[simp] theorem State.modSteps_latches (s : State) (f : Steps → Steps) : (s.modSteps f).latches = s.latches := rfl
@[simp] theorem State.modSteps_out (s : State) (f : Steps → Steps) : (s.modSteps f).out = s.out := rfl
@[simp] theorem State.modSteps_events (s : State) (f : Steps → Steps) : (s.modSteps f).events = s.events := rfl
@[simp] theorem State.modSteps_nextId (s : State) (f : Steps → Steps) : (s.modSteps f).nextId = s.nextId := rfl
@[simp] theorem State.modSteps_freeCount (s : State) (f : Steps → Steps) : (s.modSteps f).freeCount = s.freeCount := rfl
@[simp] theorem State.modSteps_now (s : State) (f : Steps → Steps) : (s.modSteps f).now = s.now := rfl
@[simp] theorem State.modSteps_pending (s : State) (f : Steps → Steps) : (s.modSteps f).pending = s.pending := rfl

@[simp] theorem State.modPen_regs (s : State) (f : Pen → Pen) : (s.modPen f).regs = s.regs := rfl
@[simp] theorem State.modPen_mem (s : State) (f : Pen → Pen) : (s.modPen f).mem = s.mem := rfl
@[simp] theorem State.modPen_ecc (s : State) (f : Pen → Pen) : (s.modPen f).ecc = s.ecc := rfl
@[simp] theorem State.modPen_tiles (s : State) (f : Pen → Pen) : (s.modPen f).tiles = s.tiles := rfl
@[simp] theorem State.modPen_slices (s : State) (f : Pen → Pen) : (s.modPen f).slices = s.slices := rfl
@[simp] theorem State.modPen_dirs (s : State) (f : Pen → Pen) : (s.modPen f).dirs = s.dirs := rfl
@[simp] theorem State.modPen_dies (s : State) (f : Pen → Pen) : (s.modPen f).dies = s.dies := rfl
@[simp] theorem State.modPen_hbm (s : State) (f : Pen → Pen) : (s.modPen f).hbm = s.hbm := rfl
@[simp] theorem State.modPen_res (s : State) (f : Pen → Pen) : (s.modPen f).res = s.res := rfl
@[simp] theorem State.modPen_moves (s : State) (f : Pen → Pen) : (s.modPen f).moves = s.moves := rfl
@[simp] theorem State.modPen_slow (s : State) (f : Pen → Pen) : (s.modPen f).slow = s.slow := rfl
@[simp] theorem State.modPen_xfers (s : State) (f : Pen → Pen) : (s.modPen f).xfers = s.xfers := rfl
@[simp] theorem State.modPen_glints (s : State) (f : Pen → Pen) : (s.modPen f).glints = s.glints := rfl
@[simp] theorem State.modPen_failing (s : State) (f : Pen → Pen) : (s.modPen f).failing = s.failing := rfl
@[simp] theorem State.modPen_retries (s : State) (f : Pen → Pen) : (s.modPen f).retries = s.retries := rfl
@[simp] theorem State.modPen_held (s : State) (f : Pen → Pen) : (s.modPen f).held = s.held := rfl
@[simp] theorem State.modPen_map (s : State) (f : Pen → Pen) : (s.modPen f).map = s.map := rfl
@[simp] theorem State.modPen_gn (s : State) (f : Pen → Pen) : (s.modPen f).gn = s.gn := rfl
@[simp] theorem State.modPen_fr (s : State) (f : Pen → Pen) : (s.modPen f).fr = s.fr := rfl
@[simp] theorem State.modPen_adm (s : State) (f : Pen → Pen) : (s.modPen f).adm = s.adm := rfl
@[simp] theorem State.modPen_steps (s : State) (f : Pen → Pen) : (s.modPen f).steps = s.steps := rfl
@[simp] theorem State.modPen_ray (s : State) (f : Pen → Pen) : (s.modPen f).ray = s.ray := rfl
@[simp] theorem State.modPen_host (s : State) (f : Pen → Pen) : (s.modPen f).host = s.host := rfl
@[simp] theorem State.modPen_mg (s : State) (f : Pen → Pen) : (s.modPen f).mg = s.mg := rfl
@[simp] theorem State.modPen_pow (s : State) (f : Pen → Pen) : (s.modPen f).pow = s.pow := rfl
@[simp] theorem State.modPen_therm (s : State) (f : Pen → Pen) : (s.modPen f).therm = s.therm := rfl
@[simp] theorem State.modPen_spare (s : State) (f : Pen → Pen) : (s.modPen f).spare = s.spare := rfl
@[simp] theorem State.modPen_dusk (s : State) (f : Pen → Pen) : (s.modPen f).dusk = s.dusk := rfl
@[simp] theorem State.modPen_ag (s : State) (f : Pen → Pen) : (s.modPen f).ag = s.ag := rfl
@[simp] theorem State.modPen_evtHold (s : State) (f : Pen → Pen) : (s.modPen f).evtHold = s.evtHold := rfl
@[simp] theorem State.modPen_evtAgain (s : State) (f : Pen → Pen) : (s.modPen f).evtAgain = s.evtAgain := rfl
@[simp] theorem State.modPen_latches (s : State) (f : Pen → Pen) : (s.modPen f).latches = s.latches := rfl
@[simp] theorem State.modPen_out (s : State) (f : Pen → Pen) : (s.modPen f).out = s.out := rfl
@[simp] theorem State.modPen_events (s : State) (f : Pen → Pen) : (s.modPen f).events = s.events := rfl
@[simp] theorem State.modPen_nextId (s : State) (f : Pen → Pen) : (s.modPen f).nextId = s.nextId := rfl
@[simp] theorem State.modPen_freeCount (s : State) (f : Pen → Pen) : (s.modPen f).freeCount = s.freeCount := rfl
@[simp] theorem State.modPen_now (s : State) (f : Pen → Pen) : (s.modPen f).now = s.now := rfl
@[simp] theorem State.modPen_pending (s : State) (f : Pen → Pen) : (s.modPen f).pending = s.pending := rfl

@[simp] theorem State.modPow_regs (s : State) (f : Power → Power) : (s.modPow f).regs = s.regs := rfl
@[simp] theorem State.modPow_mem (s : State) (f : Power → Power) : (s.modPow f).mem = s.mem := rfl
@[simp] theorem State.modPow_ecc (s : State) (f : Power → Power) : (s.modPow f).ecc = s.ecc := rfl
@[simp] theorem State.modPow_tiles (s : State) (f : Power → Power) : (s.modPow f).tiles = s.tiles := rfl
@[simp] theorem State.modPow_slices (s : State) (f : Power → Power) : (s.modPow f).slices = s.slices := rfl
@[simp] theorem State.modPow_dirs (s : State) (f : Power → Power) : (s.modPow f).dirs = s.dirs := rfl
@[simp] theorem State.modPow_dies (s : State) (f : Power → Power) : (s.modPow f).dies = s.dies := rfl
@[simp] theorem State.modPow_hbm (s : State) (f : Power → Power) : (s.modPow f).hbm = s.hbm := rfl
@[simp] theorem State.modPow_res (s : State) (f : Power → Power) : (s.modPow f).res = s.res := rfl
@[simp] theorem State.modPow_moves (s : State) (f : Power → Power) : (s.modPow f).moves = s.moves := rfl
@[simp] theorem State.modPow_slow (s : State) (f : Power → Power) : (s.modPow f).slow = s.slow := rfl
@[simp] theorem State.modPow_xfers (s : State) (f : Power → Power) : (s.modPow f).xfers = s.xfers := rfl
@[simp] theorem State.modPow_glints (s : State) (f : Power → Power) : (s.modPow f).glints = s.glints := rfl
@[simp] theorem State.modPow_failing (s : State) (f : Power → Power) : (s.modPow f).failing = s.failing := rfl
@[simp] theorem State.modPow_retries (s : State) (f : Power → Power) : (s.modPow f).retries = s.retries := rfl
@[simp] theorem State.modPow_held (s : State) (f : Power → Power) : (s.modPow f).held = s.held := rfl
@[simp] theorem State.modPow_map (s : State) (f : Power → Power) : (s.modPow f).map = s.map := rfl
@[simp] theorem State.modPow_gn (s : State) (f : Power → Power) : (s.modPow f).gn = s.gn := rfl
@[simp] theorem State.modPow_fr (s : State) (f : Power → Power) : (s.modPow f).fr = s.fr := rfl
@[simp] theorem State.modPow_adm (s : State) (f : Power → Power) : (s.modPow f).adm = s.adm := rfl
@[simp] theorem State.modPow_steps (s : State) (f : Power → Power) : (s.modPow f).steps = s.steps := rfl
@[simp] theorem State.modPow_ray (s : State) (f : Power → Power) : (s.modPow f).ray = s.ray := rfl
@[simp] theorem State.modPow_host (s : State) (f : Power → Power) : (s.modPow f).host = s.host := rfl
@[simp] theorem State.modPow_mg (s : State) (f : Power → Power) : (s.modPow f).mg = s.mg := rfl
@[simp] theorem State.modPow_therm (s : State) (f : Power → Power) : (s.modPow f).therm = s.therm := rfl
@[simp] theorem State.modPow_pen (s : State) (f : Power → Power) : (s.modPow f).pen = s.pen := rfl
@[simp] theorem State.modPow_spare (s : State) (f : Power → Power) : (s.modPow f).spare = s.spare := rfl
@[simp] theorem State.modPow_dusk (s : State) (f : Power → Power) : (s.modPow f).dusk = s.dusk := rfl
@[simp] theorem State.modPow_ag (s : State) (f : Power → Power) : (s.modPow f).ag = s.ag := rfl
@[simp] theorem State.modPow_evtHold (s : State) (f : Power → Power) : (s.modPow f).evtHold = s.evtHold := rfl
@[simp] theorem State.modPow_evtAgain (s : State) (f : Power → Power) : (s.modPow f).evtAgain = s.evtAgain := rfl
@[simp] theorem State.modPow_latches (s : State) (f : Power → Power) : (s.modPow f).latches = s.latches := rfl
@[simp] theorem State.modPow_out (s : State) (f : Power → Power) : (s.modPow f).out = s.out := rfl
@[simp] theorem State.modPow_events (s : State) (f : Power → Power) : (s.modPow f).events = s.events := rfl
@[simp] theorem State.modPow_nextId (s : State) (f : Power → Power) : (s.modPow f).nextId = s.nextId := rfl
@[simp] theorem State.modPow_freeCount (s : State) (f : Power → Power) : (s.modPow f).freeCount = s.freeCount := rfl
@[simp] theorem State.modPow_now (s : State) (f : Power → Power) : (s.modPow f).now = s.now := rfl
@[simp] theorem State.modPow_pending (s : State) (f : Power → Power) : (s.modPow f).pending = s.pending := rfl

@[simp] theorem State.modSpare_regs (s : State) (f : Sparing → Sparing) : (s.modSpare f).regs = s.regs := rfl
@[simp] theorem State.modSpare_mem (s : State) (f : Sparing → Sparing) : (s.modSpare f).mem = s.mem := rfl
@[simp] theorem State.modSpare_ecc (s : State) (f : Sparing → Sparing) : (s.modSpare f).ecc = s.ecc := rfl
@[simp] theorem State.modSpare_tiles (s : State) (f : Sparing → Sparing) : (s.modSpare f).tiles = s.tiles := rfl
@[simp] theorem State.modSpare_slices (s : State) (f : Sparing → Sparing) : (s.modSpare f).slices = s.slices := rfl
@[simp] theorem State.modSpare_dirs (s : State) (f : Sparing → Sparing) : (s.modSpare f).dirs = s.dirs := rfl
@[simp] theorem State.modSpare_dies (s : State) (f : Sparing → Sparing) : (s.modSpare f).dies = s.dies := rfl
@[simp] theorem State.modSpare_hbm (s : State) (f : Sparing → Sparing) : (s.modSpare f).hbm = s.hbm := rfl
@[simp] theorem State.modSpare_res (s : State) (f : Sparing → Sparing) : (s.modSpare f).res = s.res := rfl
@[simp] theorem State.modSpare_moves (s : State) (f : Sparing → Sparing) : (s.modSpare f).moves = s.moves := rfl
@[simp] theorem State.modSpare_slow (s : State) (f : Sparing → Sparing) : (s.modSpare f).slow = s.slow := rfl
@[simp] theorem State.modSpare_xfers (s : State) (f : Sparing → Sparing) : (s.modSpare f).xfers = s.xfers := rfl
@[simp] theorem State.modSpare_glints (s : State) (f : Sparing → Sparing) : (s.modSpare f).glints = s.glints := rfl
@[simp] theorem State.modSpare_failing (s : State) (f : Sparing → Sparing) : (s.modSpare f).failing = s.failing := rfl
@[simp] theorem State.modSpare_retries (s : State) (f : Sparing → Sparing) : (s.modSpare f).retries = s.retries := rfl
@[simp] theorem State.modSpare_held (s : State) (f : Sparing → Sparing) : (s.modSpare f).held = s.held := rfl
@[simp] theorem State.modSpare_map (s : State) (f : Sparing → Sparing) : (s.modSpare f).map = s.map := rfl
@[simp] theorem State.modSpare_gn (s : State) (f : Sparing → Sparing) : (s.modSpare f).gn = s.gn := rfl
@[simp] theorem State.modSpare_fr (s : State) (f : Sparing → Sparing) : (s.modSpare f).fr = s.fr := rfl
@[simp] theorem State.modSpare_adm (s : State) (f : Sparing → Sparing) : (s.modSpare f).adm = s.adm := rfl
@[simp] theorem State.modSpare_steps (s : State) (f : Sparing → Sparing) : (s.modSpare f).steps = s.steps := rfl
@[simp] theorem State.modSpare_ray (s : State) (f : Sparing → Sparing) : (s.modSpare f).ray = s.ray := rfl
@[simp] theorem State.modSpare_host (s : State) (f : Sparing → Sparing) : (s.modSpare f).host = s.host := rfl
@[simp] theorem State.modSpare_mg (s : State) (f : Sparing → Sparing) : (s.modSpare f).mg = s.mg := rfl
@[simp] theorem State.modSpare_pow (s : State) (f : Sparing → Sparing) : (s.modSpare f).pow = s.pow := rfl
@[simp] theorem State.modSpare_therm (s : State) (f : Sparing → Sparing) : (s.modSpare f).therm = s.therm := rfl
@[simp] theorem State.modSpare_pen (s : State) (f : Sparing → Sparing) : (s.modSpare f).pen = s.pen := rfl
@[simp] theorem State.modSpare_dusk (s : State) (f : Sparing → Sparing) : (s.modSpare f).dusk = s.dusk := rfl
@[simp] theorem State.modSpare_ag (s : State) (f : Sparing → Sparing) : (s.modSpare f).ag = s.ag := rfl
@[simp] theorem State.modSpare_evtHold (s : State) (f : Sparing → Sparing) : (s.modSpare f).evtHold = s.evtHold := rfl
@[simp] theorem State.modSpare_evtAgain (s : State) (f : Sparing → Sparing) : (s.modSpare f).evtAgain = s.evtAgain := rfl
@[simp] theorem State.modSpare_latches (s : State) (f : Sparing → Sparing) : (s.modSpare f).latches = s.latches := rfl
@[simp] theorem State.modSpare_out (s : State) (f : Sparing → Sparing) : (s.modSpare f).out = s.out := rfl
@[simp] theorem State.modSpare_events (s : State) (f : Sparing → Sparing) : (s.modSpare f).events = s.events := rfl
@[simp] theorem State.modSpare_nextId (s : State) (f : Sparing → Sparing) : (s.modSpare f).nextId = s.nextId := rfl
@[simp] theorem State.modSpare_freeCount (s : State) (f : Sparing → Sparing) : (s.modSpare f).freeCount = s.freeCount := rfl
@[simp] theorem State.modSpare_now (s : State) (f : Sparing → Sparing) : (s.modSpare f).now = s.now := rfl
@[simp] theorem State.modSpare_pending (s : State) (f : Sparing → Sparing) : (s.modSpare f).pending = s.pending := rfl

@[simp] theorem State.modTherm_regs (s : State) (f : Therm → Therm) : (s.modTherm f).regs = s.regs := rfl
@[simp] theorem State.modTherm_mem (s : State) (f : Therm → Therm) : (s.modTherm f).mem = s.mem := rfl
@[simp] theorem State.modTherm_ecc (s : State) (f : Therm → Therm) : (s.modTherm f).ecc = s.ecc := rfl
@[simp] theorem State.modTherm_tiles (s : State) (f : Therm → Therm) : (s.modTherm f).tiles = s.tiles := rfl
@[simp] theorem State.modTherm_slices (s : State) (f : Therm → Therm) : (s.modTherm f).slices = s.slices := rfl
@[simp] theorem State.modTherm_dirs (s : State) (f : Therm → Therm) : (s.modTherm f).dirs = s.dirs := rfl
@[simp] theorem State.modTherm_dies (s : State) (f : Therm → Therm) : (s.modTherm f).dies = s.dies := rfl
@[simp] theorem State.modTherm_hbm (s : State) (f : Therm → Therm) : (s.modTherm f).hbm = s.hbm := rfl
@[simp] theorem State.modTherm_res (s : State) (f : Therm → Therm) : (s.modTherm f).res = s.res := rfl
@[simp] theorem State.modTherm_moves (s : State) (f : Therm → Therm) : (s.modTherm f).moves = s.moves := rfl
@[simp] theorem State.modTherm_slow (s : State) (f : Therm → Therm) : (s.modTherm f).slow = s.slow := rfl
@[simp] theorem State.modTherm_xfers (s : State) (f : Therm → Therm) : (s.modTherm f).xfers = s.xfers := rfl
@[simp] theorem State.modTherm_glints (s : State) (f : Therm → Therm) : (s.modTherm f).glints = s.glints := rfl
@[simp] theorem State.modTherm_failing (s : State) (f : Therm → Therm) : (s.modTherm f).failing = s.failing := rfl
@[simp] theorem State.modTherm_retries (s : State) (f : Therm → Therm) : (s.modTherm f).retries = s.retries := rfl
@[simp] theorem State.modTherm_held (s : State) (f : Therm → Therm) : (s.modTherm f).held = s.held := rfl
@[simp] theorem State.modTherm_map (s : State) (f : Therm → Therm) : (s.modTherm f).map = s.map := rfl
@[simp] theorem State.modTherm_gn (s : State) (f : Therm → Therm) : (s.modTherm f).gn = s.gn := rfl
@[simp] theorem State.modTherm_fr (s : State) (f : Therm → Therm) : (s.modTherm f).fr = s.fr := rfl
@[simp] theorem State.modTherm_adm (s : State) (f : Therm → Therm) : (s.modTherm f).adm = s.adm := rfl
@[simp] theorem State.modTherm_steps (s : State) (f : Therm → Therm) : (s.modTherm f).steps = s.steps := rfl
@[simp] theorem State.modTherm_ray (s : State) (f : Therm → Therm) : (s.modTherm f).ray = s.ray := rfl
@[simp] theorem State.modTherm_host (s : State) (f : Therm → Therm) : (s.modTherm f).host = s.host := rfl
@[simp] theorem State.modTherm_mg (s : State) (f : Therm → Therm) : (s.modTherm f).mg = s.mg := rfl
@[simp] theorem State.modTherm_pow (s : State) (f : Therm → Therm) : (s.modTherm f).pow = s.pow := rfl
@[simp] theorem State.modTherm_pen (s : State) (f : Therm → Therm) : (s.modTherm f).pen = s.pen := rfl
@[simp] theorem State.modTherm_spare (s : State) (f : Therm → Therm) : (s.modTherm f).spare = s.spare := rfl
@[simp] theorem State.modTherm_dusk (s : State) (f : Therm → Therm) : (s.modTherm f).dusk = s.dusk := rfl
@[simp] theorem State.modTherm_ag (s : State) (f : Therm → Therm) : (s.modTherm f).ag = s.ag := rfl
@[simp] theorem State.modTherm_evtHold (s : State) (f : Therm → Therm) : (s.modTherm f).evtHold = s.evtHold := rfl
@[simp] theorem State.modTherm_evtAgain (s : State) (f : Therm → Therm) : (s.modTherm f).evtAgain = s.evtAgain := rfl
@[simp] theorem State.modTherm_latches (s : State) (f : Therm → Therm) : (s.modTherm f).latches = s.latches := rfl
@[simp] theorem State.modTherm_out (s : State) (f : Therm → Therm) : (s.modTherm f).out = s.out := rfl
@[simp] theorem State.modTherm_events (s : State) (f : Therm → Therm) : (s.modTherm f).events = s.events := rfl
@[simp] theorem State.modTherm_nextId (s : State) (f : Therm → Therm) : (s.modTherm f).nextId = s.nextId := rfl
@[simp] theorem State.modTherm_freeCount (s : State) (f : Therm → Therm) : (s.modTherm f).freeCount = s.freeCount := rfl
@[simp] theorem State.modTherm_now (s : State) (f : Therm → Therm) : (s.modTherm f).now = s.now := rfl
@[simp] theorem State.modTherm_pending (s : State) (f : Therm → Therm) : (s.modTherm f).pending = s.pending := rfl

@[simp] theorem State.modMg_regs (s : State) (f : Mgmt → Mgmt) : (s.modMg f).regs = s.regs := rfl
@[simp] theorem State.modMg_mem (s : State) (f : Mgmt → Mgmt) : (s.modMg f).mem = s.mem := rfl
@[simp] theorem State.modMg_ecc (s : State) (f : Mgmt → Mgmt) : (s.modMg f).ecc = s.ecc := rfl
@[simp] theorem State.modMg_tiles (s : State) (f : Mgmt → Mgmt) : (s.modMg f).tiles = s.tiles := rfl
@[simp] theorem State.modMg_slices (s : State) (f : Mgmt → Mgmt) : (s.modMg f).slices = s.slices := rfl
@[simp] theorem State.modMg_dirs (s : State) (f : Mgmt → Mgmt) : (s.modMg f).dirs = s.dirs := rfl
@[simp] theorem State.modMg_dies (s : State) (f : Mgmt → Mgmt) : (s.modMg f).dies = s.dies := rfl
@[simp] theorem State.modMg_hbm (s : State) (f : Mgmt → Mgmt) : (s.modMg f).hbm = s.hbm := rfl
@[simp] theorem State.modMg_res (s : State) (f : Mgmt → Mgmt) : (s.modMg f).res = s.res := rfl
@[simp] theorem State.modMg_moves (s : State) (f : Mgmt → Mgmt) : (s.modMg f).moves = s.moves := rfl
@[simp] theorem State.modMg_slow (s : State) (f : Mgmt → Mgmt) : (s.modMg f).slow = s.slow := rfl
@[simp] theorem State.modMg_xfers (s : State) (f : Mgmt → Mgmt) : (s.modMg f).xfers = s.xfers := rfl
@[simp] theorem State.modMg_glints (s : State) (f : Mgmt → Mgmt) : (s.modMg f).glints = s.glints := rfl
@[simp] theorem State.modMg_failing (s : State) (f : Mgmt → Mgmt) : (s.modMg f).failing = s.failing := rfl
@[simp] theorem State.modMg_retries (s : State) (f : Mgmt → Mgmt) : (s.modMg f).retries = s.retries := rfl
@[simp] theorem State.modMg_held (s : State) (f : Mgmt → Mgmt) : (s.modMg f).held = s.held := rfl
@[simp] theorem State.modMg_map (s : State) (f : Mgmt → Mgmt) : (s.modMg f).map = s.map := rfl
@[simp] theorem State.modMg_gn (s : State) (f : Mgmt → Mgmt) : (s.modMg f).gn = s.gn := rfl
@[simp] theorem State.modMg_fr (s : State) (f : Mgmt → Mgmt) : (s.modMg f).fr = s.fr := rfl
@[simp] theorem State.modMg_adm (s : State) (f : Mgmt → Mgmt) : (s.modMg f).adm = s.adm := rfl
@[simp] theorem State.modMg_steps (s : State) (f : Mgmt → Mgmt) : (s.modMg f).steps = s.steps := rfl
@[simp] theorem State.modMg_ray (s : State) (f : Mgmt → Mgmt) : (s.modMg f).ray = s.ray := rfl
@[simp] theorem State.modMg_host (s : State) (f : Mgmt → Mgmt) : (s.modMg f).host = s.host := rfl
@[simp] theorem State.modMg_pow (s : State) (f : Mgmt → Mgmt) : (s.modMg f).pow = s.pow := rfl
@[simp] theorem State.modMg_therm (s : State) (f : Mgmt → Mgmt) : (s.modMg f).therm = s.therm := rfl
@[simp] theorem State.modMg_pen (s : State) (f : Mgmt → Mgmt) : (s.modMg f).pen = s.pen := rfl
@[simp] theorem State.modMg_spare (s : State) (f : Mgmt → Mgmt) : (s.modMg f).spare = s.spare := rfl
@[simp] theorem State.modMg_dusk (s : State) (f : Mgmt → Mgmt) : (s.modMg f).dusk = s.dusk := rfl
@[simp] theorem State.modMg_ag (s : State) (f : Mgmt → Mgmt) : (s.modMg f).ag = s.ag := rfl
@[simp] theorem State.modMg_evtHold (s : State) (f : Mgmt → Mgmt) : (s.modMg f).evtHold = s.evtHold := rfl
@[simp] theorem State.modMg_evtAgain (s : State) (f : Mgmt → Mgmt) : (s.modMg f).evtAgain = s.evtAgain := rfl
@[simp] theorem State.modMg_latches (s : State) (f : Mgmt → Mgmt) : (s.modMg f).latches = s.latches := rfl
@[simp] theorem State.modMg_out (s : State) (f : Mgmt → Mgmt) : (s.modMg f).out = s.out := rfl
@[simp] theorem State.modMg_events (s : State) (f : Mgmt → Mgmt) : (s.modMg f).events = s.events := rfl
@[simp] theorem State.modMg_nextId (s : State) (f : Mgmt → Mgmt) : (s.modMg f).nextId = s.nextId := rfl
@[simp] theorem State.modMg_freeCount (s : State) (f : Mgmt → Mgmt) : (s.modMg f).freeCount = s.freeCount := rfl
@[simp] theorem State.modMg_now (s : State) (f : Mgmt → Mgmt) : (s.modMg f).now = s.now := rfl
@[simp] theorem State.modMg_pending (s : State) (f : Mgmt → Mgmt) : (s.modMg f).pending = s.pending := rfl

@[simp] theorem State.modAg_regs (s : State) (f : Ag → Ag) : (s.modAg f).regs = s.regs := rfl
@[simp] theorem State.modAg_mem (s : State) (f : Ag → Ag) : (s.modAg f).mem = s.mem := rfl
@[simp] theorem State.modAg_ecc (s : State) (f : Ag → Ag) : (s.modAg f).ecc = s.ecc := rfl
@[simp] theorem State.modAg_tiles (s : State) (f : Ag → Ag) : (s.modAg f).tiles = s.tiles := rfl
@[simp] theorem State.modAg_slices (s : State) (f : Ag → Ag) : (s.modAg f).slices = s.slices := rfl
@[simp] theorem State.modAg_dirs (s : State) (f : Ag → Ag) : (s.modAg f).dirs = s.dirs := rfl
@[simp] theorem State.modAg_dies (s : State) (f : Ag → Ag) : (s.modAg f).dies = s.dies := rfl
@[simp] theorem State.modAg_hbm (s : State) (f : Ag → Ag) : (s.modAg f).hbm = s.hbm := rfl
@[simp] theorem State.modAg_res (s : State) (f : Ag → Ag) : (s.modAg f).res = s.res := rfl
@[simp] theorem State.modAg_moves (s : State) (f : Ag → Ag) : (s.modAg f).moves = s.moves := rfl
@[simp] theorem State.modAg_slow (s : State) (f : Ag → Ag) : (s.modAg f).slow = s.slow := rfl
@[simp] theorem State.modAg_xfers (s : State) (f : Ag → Ag) : (s.modAg f).xfers = s.xfers := rfl
@[simp] theorem State.modAg_glints (s : State) (f : Ag → Ag) : (s.modAg f).glints = s.glints := rfl
@[simp] theorem State.modAg_failing (s : State) (f : Ag → Ag) : (s.modAg f).failing = s.failing := rfl
@[simp] theorem State.modAg_retries (s : State) (f : Ag → Ag) : (s.modAg f).retries = s.retries := rfl
@[simp] theorem State.modAg_held (s : State) (f : Ag → Ag) : (s.modAg f).held = s.held := rfl
@[simp] theorem State.modAg_map (s : State) (f : Ag → Ag) : (s.modAg f).map = s.map := rfl
@[simp] theorem State.modAg_gn (s : State) (f : Ag → Ag) : (s.modAg f).gn = s.gn := rfl
@[simp] theorem State.modAg_fr (s : State) (f : Ag → Ag) : (s.modAg f).fr = s.fr := rfl
@[simp] theorem State.modAg_adm (s : State) (f : Ag → Ag) : (s.modAg f).adm = s.adm := rfl
@[simp] theorem State.modAg_steps (s : State) (f : Ag → Ag) : (s.modAg f).steps = s.steps := rfl
@[simp] theorem State.modAg_ray (s : State) (f : Ag → Ag) : (s.modAg f).ray = s.ray := rfl
@[simp] theorem State.modAg_host (s : State) (f : Ag → Ag) : (s.modAg f).host = s.host := rfl
@[simp] theorem State.modAg_mg (s : State) (f : Ag → Ag) : (s.modAg f).mg = s.mg := rfl
@[simp] theorem State.modAg_pow (s : State) (f : Ag → Ag) : (s.modAg f).pow = s.pow := rfl
@[simp] theorem State.modAg_therm (s : State) (f : Ag → Ag) : (s.modAg f).therm = s.therm := rfl
@[simp] theorem State.modAg_pen (s : State) (f : Ag → Ag) : (s.modAg f).pen = s.pen := rfl
@[simp] theorem State.modAg_spare (s : State) (f : Ag → Ag) : (s.modAg f).spare = s.spare := rfl
@[simp] theorem State.modAg_dusk (s : State) (f : Ag → Ag) : (s.modAg f).dusk = s.dusk := rfl
@[simp] theorem State.modAg_evtHold (s : State) (f : Ag → Ag) : (s.modAg f).evtHold = s.evtHold := rfl
@[simp] theorem State.modAg_evtAgain (s : State) (f : Ag → Ag) : (s.modAg f).evtAgain = s.evtAgain := rfl
@[simp] theorem State.modAg_latches (s : State) (f : Ag → Ag) : (s.modAg f).latches = s.latches := rfl
@[simp] theorem State.modAg_out (s : State) (f : Ag → Ag) : (s.modAg f).out = s.out := rfl
@[simp] theorem State.modAg_events (s : State) (f : Ag → Ag) : (s.modAg f).events = s.events := rfl
@[simp] theorem State.modAg_nextId (s : State) (f : Ag → Ag) : (s.modAg f).nextId = s.nextId := rfl
@[simp] theorem State.modAg_freeCount (s : State) (f : Ag → Ag) : (s.modAg f).freeCount = s.freeCount := rfl
@[simp] theorem State.modAg_now (s : State) (f : Ag → Ag) : (s.modAg f).now = s.now := rfl
@[simp] theorem State.modAg_pending (s : State) (f : Ag → Ag) : (s.modAg f).pending = s.pending := rfl

end Sys2Proof.Machine
end

