-- ==== Sys2Proof/Laws/Regs.lean ====
section
/-!
SUPPORT. Laws of the register store: read after write, fields and flags, and the stored key of a register.
-/
namespace Sys2Proof.Machine


theorem regKey_inj {p q o r : Nat} (ho : regOff o) (hr : regOff r) (h : regKey p o = regKey q r) : p = q ∧ o = r := by
  unfold regKey at h; obtain ⟨h1, h2⟩ := ho; obtain ⟨h3, h4⟩ := hr
  omega

@[simp] theorem State.rd_wr_same (s : State) (p o : Nat) (v : Word) : (s.wr p o v).rd p o = v := by
  simp [State.rd, State.wr]

theorem State.rd_wr_key (s : State) {p q o r : Nat} (v : Word) (h : regKey p o ≠ regKey q r) :
    (s.wr p o v).rd q r = s.rd q r := by
  simp only [State.rd, State.wr]; exact sget_sset_other _ _ _ _ h

theorem State.rd_wr_other (s : State) {p q o r : Nat} (v : Word) (ho : regOff o) (hr : regOff r) (h : ¬(p = q ∧ o = r)) :
    (s.wr p o v).rd q r = s.rd q r :=
  s.rd_wr_key v fun e => h (regKey_inj ho hr e)

/-- A state with the same register store reads the same. -/
theorem State.rd_congr {s t : State} (h : s.regs = t.regs) (p o : Nat) : s.rd p o = t.rd p o := by
  simp [State.rd, h]

/-! ## Bit fields -/

theorem bits_lt (x hi lo : Nat) : bits x hi lo < 2 ^ (hi + 1 - lo) := Nat.mod_lt _ (by positivity)

/-- `setBits` replaces exactly the bits of its field. -/
theorem testBit_setBits (x hi lo v i : Nat) (h : lo ≤ hi) :
    (setBits x hi lo v).testBit i = if lo ≤ i ∧ i ≤ hi then v.testBit (i - lo) else x.testBit i := by
  have e : setBits x hi lo v = x % 2 ^ lo + 2 ^ lo * (v % 2 ^ (hi + 1 - lo) + 2 ^ (hi + 1 - lo) * (x / 2 ^ (hi + 1))) := by
    have h1 : x = x % 2 ^ lo + 2 ^ lo * (x / 2 ^ lo) := (Nat.mod_add_div x _).symm
    have h2 : x / 2 ^ lo = x / 2 ^ lo % 2 ^ (hi + 1 - lo) + 2 ^ (hi + 1 - lo) * (x / 2 ^ (hi + 1)) := by
      have : x / 2 ^ (hi + 1) = x / 2 ^ lo / 2 ^ (hi + 1 - lo) := by
        rw [Nat.div_div_eq_div_mul, ← pow_add]; congr 2; omega
      rw [this]; exact (Nat.mod_add_div _ _).symm
    unfold setBits bits
    set a := x % 2 ^ lo
    set b := x / 2 ^ lo % 2 ^ (hi + 1 - lo)
    set c := x / 2 ^ (hi + 1)
    have h3 : x = a + 2 ^ lo * (b + 2 ^ (hi + 1 - lo) * c) := by rw [← h2]; exact h1
    have h4 : x - b * 2 ^ lo = a + 2 ^ lo * (2 ^ (hi + 1 - lo) * c) := by
      conv_lhs => rw [h3]
      rw [Nat.mul_add, Nat.mul_comm b]; omega
    rw [h4]; ring
  rw [e, Nat.add_comm (x % 2 ^ lo), Nat.testBit_two_pow_mul_add _ (Nat.mod_lt _ (by positivity))]
  by_cases h1 : i < lo
  · have : ¬ (lo ≤ i ∧ i ≤ hi) := by omega
    simp [h1, this, Nat.testBit_mod_two_pow]
  · simp only [h1, if_false]
    rw [Nat.add_comm (v % _), Nat.testBit_two_pow_mul_add _ (Nat.mod_lt _ (by positivity))]
    by_cases h2 : i ≤ hi
    · have h3 : i - lo < hi + 1 - lo := by omega
      have h4 : lo ≤ i ∧ i ≤ hi := by omega
      simp [h3, h4, Nat.testBit_mod_two_pow]
    · have h3 : ¬ i - lo < hi + 1 - lo := by omega
      have h4 : ¬ (lo ≤ i ∧ i ≤ hi) := by omega
      simp only [h3, h4, if_false, Nat.testBit_div_two_pow]
      congr 1; omega

theorem testBit_bits (x hi lo i : Nat) : (bits x hi lo).testBit i = (decide (i < hi + 1 - lo) && x.testBit (lo + i)) := by
  simp [bits, Nat.testBit_mod_two_pow, Nat.testBit_div_two_pow, Nat.add_comm]

theorem bits_setBits_same (x hi lo v : Nat) (h : lo ≤ hi) : bits (setBits x hi lo v) hi lo = v % 2 ^ (hi + 1 - lo) := by
  apply Nat.eq_of_testBit_eq; intro i
  rw [testBit_bits, testBit_setBits _ _ _ _ _ h, Nat.testBit_mod_two_pow]
  by_cases hi' : i < hi + 1 - lo
  · have : lo ≤ lo + i ∧ lo + i ≤ hi := by omega
    simp [hi', this]
  · simp [hi']

theorem setBits_lt (x hi lo v : Nat) (h : lo ≤ hi) (hh : hi < 32) (hx : x < 2 ^ 32) : setBits x hi lo v < 2 ^ 32 := by
  apply Nat.lt_pow_two_of_testBit; intro i hi'
  rw [testBit_setBits _ _ _ _ _ h]
  have : ¬ (lo ≤ i ∧ i ≤ hi) := by omega
  simp only [this, if_false]
  exact Nat.testBit_lt_two_pow (lt_of_lt_of_le hx (Nat.pow_le_pow_right (by norm_num) hi'))

@[simp] theorem State.rdN_wrN_same (s : State) (p o v : Nat) : (s.wrN p o v).rdN p o = v % 2 ^ 32 := by
  simp [State.rdN, State.wrN]

theorem State.rdN_lt (s : State) (p o : Nat) : s.rdN p o < 2 ^ 32 := (s.rd p o).isLt

theorem State.rdN_setField (s : State) (p o hi lo v : Nat) (h : lo ≤ hi) (hh : hi < 32) :
    (s.setField p o hi lo v).rdN p o = setBits (s.rdN p o) hi lo v := by
  simp only [State.setField, State.rdN_wrN_same]
  exact Nat.mod_eq_of_lt (setBits_lt _ _ _ _ h hh (s.rdN_lt p o))

theorem State.field_setField_same (s : State) (p o hi lo v : Nat) (h : lo ≤ hi) (hh : hi < 32) :
    (s.setField p o hi lo v).field p o hi lo = v % 2 ^ (hi + 1 - lo) := by
  simp only [State.field, s.rdN_setField p o hi lo v h hh, bits_setBits_same _ _ _ _ h]

theorem State.flag_setFlag_same (s : State) (p o i : Nat) (b : Bool) (h : i < 32) : (s.setFlag p o i b).flag p o i = b := by
  simp only [State.setFlag, State.flag, bit, s.rdN_setField p o i i _ (le_refl i) h, testBit_setBits _ _ _ _ _ (le_refl i)]
  cases b <;> simp [b2n]

theorem State.flag_setFlag_bit (s : State) (p o i j : Nat) (b : Bool) (h : i < 32) (hj : i ≠ j) :
    (s.setFlag p o i b).flag p o j = s.flag p o j := by
  simp only [State.setFlag, State.flag, bit, s.rdN_setField p o i i _ (le_refl i) h, testBit_setBits _ _ _ _ _ (le_refl i)]
  have : ¬ (i ≤ j ∧ j ≤ i) := by omega
  simp [this]

/-! ## What an event leaves -/

theorem State.rd_raise_key (s : State) {p i q r : Nat} (h : regKey p offEvt ≠ regKey q r) : (s.raise p i).rd q r = s.rd q r :=
  s.rd_wr_key _ h

theorem State.flag_raise_same (s : State) (p i : Nat) (h : i < 32) : (s.raise p i).flag p offEvt i = true :=
  s.flag_setFlag_same p offEvt i true h

/-- A counter of 32 bits counts up where it does not pass its largest value. -/
theorem State.rdN_bump (s : State) (p o n : Nat) (h : s.rdN p o + n < 2 ^ 32) : (s.bump p o n).rdN p o = s.rdN p o + n := by
  simp only [State.bump, h, if_true, State.rdN_wrN_same]
  exact Nat.mod_eq_of_lt h

theorem State.rd_bump_key (s : State) {p o n q r : Nat} (h : regKey p o ≠ regKey q r) : (s.bump p o n).rd q r = s.rd q r := by
  simp only [State.bump]; split
  · exact s.rd_wr_key _ h
  · rw [State.rd_wr_key _ _ h]; rfl

end Sys2Proof.Machine
end

