-- ==== Sys2Proof/Laws/Finish.lean ====
section
/-!
SUPPORT. What the end of a command does, said once: `finish` changes nothing outside `Tail` where every failing site finds a
spare, stops the module where one does not, and leaves the state settled. Proofs about a command cite `runOn_ends`,
`runPart_ends` and `tileRun_ends`, and unfold none of these.
-/
namespace Sys2Proof.Machine

theorem Tail.refl (s : State) : Tail s s := ⟨rfl, fun _ _ _ _ => rfl, [], by simp, by simp⟩

theorem Tail.trans {s t u : State} (h : Tail s t) (k : Tail t u) : Tail s u where
  body := k.body.trans h.body
  reg p o h1 h2 := (k.reg p o h1 h2).trans (h.reg p o h1 h2)
  out := by
    obtain ⟨l, hl, hm⟩ := h.out
    obtain ⟨l', hl', hm'⟩ := k.out
    refine ⟨l ++ l', by rw [hl', hl, List.append_assoc], fun m hm2 => ?_⟩
    rcases List.mem_append.1 hm2 with h3 | h3
    · exact hm m h3
    · exact hm' m h3

/-- An update of parts that the end of a command may change, which sends nothing. -/
theorem Tail.of {s t : State} (hb : t.body = s.body) (hr : t.regs = s.regs) (ho : t.out = s.out) : Tail s t :=
  ⟨hb, fun p o _ _ => State.rd_congr hr p o, [], by simp [ho], by simp⟩

/-- A register that the end of a command may write. -/
theorem Tail.wr (s : State) {p o : Nat} (v : Word) (h : (p, o) ∈ tailRegs) : Tail s (s.wr p o v) where
  body := rfl
  reg q r hr hn := by
    have ho : regOff o := by
      simp only [tailRegs, List.mem_cons, Prod.mk.injEq, List.not_mem_nil, or_false] at h
      rcases h with ⟨-, rfl⟩ | ⟨-, rfl⟩ | ⟨-, rfl⟩ | ⟨-, rfl⟩ | ⟨-, rfl⟩ | ⟨-, rfl⟩ <;> decide
    refine s.rd_wr_other v ho hr ?_
    rintro ⟨rfl, rfl⟩; exact hn h
  out := ⟨[], by simp, by simp⟩

theorem Tail.setFlag (s : State) {p o : Nat} (i : Nat) (b : Bool) (h : (p, o) ∈ tailRegs) : Tail s (s.setFlag p o i b) :=
  Tail.wr s _ h

theorem Tail.raise (s : State) {p : Nat} (i : Nat) (h : (p, offEvt) ∈ tailRegs) : Tail s (s.raise p i) :=
  (Tail.setFlag s i true h).trans (Tail.of rfl rfl rfl)

theorem Tail.bump (s : State) {p o : Nat} (n : Nat) (h : (p, o) ∈ tailRegs) : Tail s (s.bump p o n) := by
  simp only [State.bump]; split
  · exact Tail.wr s _ h
  · exact Tail.trans (t := s.free.2) (Tail.of rfl rfl rfl) (Tail.wr _ _ h)

/-- A fold keeps what each of its steps keeps. -/
theorem foldl_tail {α : Type} (f : State → α → State) (hf : ∀ s x, Tail s (f s x)) (l : List α) (s : State) :
    Tail s (l.foldl f s) := by
  induction l generalizing s with
  | nil => exact Tail.refl s
  | cons x l ih => exact (hf s x).trans (ih (f s x))

theorem stage_tail (s : State) (m : Sparse SiteEnt) : Tail s (s.stage m) := by
  simp only [State.stage]
  refine Tail.trans (t := { s with spare := { s.spare with staged := some m } }) (Tail.of rfl rfl rfl) ?_
  refine (Tail.setFlag _ (p := sparePage) (o := offStatus) 0 true (by simp [tailRegs])).trans ?_
  exact (Tail.raise _ (p := sparePage) 1 (by simp [tailRegs])).trans (Tail.of rfl rfl rfl)

/-! ## Failing sites -/

/-- One failing site is replaced, or exhausts the spares. -/
def spareOne (s : State) (t : Nat) : State :=
  if (mapEnt s.mapBase t).st != 0 then { s with failing := s.failing.filter (· != t) }
  else match s.replaceSites [t] 2 with
    | some s => { s with failing := s.failing.filter (· != t) }
    | none => s.spend

theorem spareFailing_eq (s : State) : s.spareFailing = s.failing.foldl spareOne s := rfl

/-- What a replacement does: it stages a map. -/
theorem replaceSites_stage {s t : State} {l : List Nat} {st : Nat} (h : s.replaceSites l st = some t) : ∃ m, t = s.stage m := by
  unfold State.replaceSites at h
  split at h
  · cases h
  · cases hm : moveTiles st l l s.mapBase with
    | none => rw [hm] at h; cases h
    | some m => rw [hm] at h; cases h; exact ⟨m, rfl⟩

/-- A failing site leaves the list of failing sites without it, and everything outside `Tail`; or no spare is left. -/
theorem spareOne_cases (s : State) (t : Nat) :
    (Tail s (spareOne s t) ∧ (spareOne s t).failing = s.failing.filter (· != t) ∧ (spareOne s t).spare.spent = s.spare.spent) ∨
      spareOne s t = s.spend := by
  unfold spareOne
  split
  · exact .inl ⟨Tail.of rfl rfl rfl, rfl, rfl⟩
  · split
    · rename_i x hx
      obtain ⟨m, rfl⟩ := replaceSites_stage hx
      exact .inl ⟨(stage_tail s m).trans (Tail.of rfl rfl rfl), rfl, rfl⟩
    · exact .inr rfl

theorem spareOne_spent {s : State} (h : s.spare.spent = true) (t : Nat) : (spareOne s t).spare.spent = true := by
  rcases spareOne_cases s t with ⟨-, -, h3⟩ | h3
  · exact h3.trans h
  · rw [h3]; rfl

theorem spareAll_spent {s : State} (h : s.spare.spent = true) (l : List Nat) : (l.foldl spareOne s).spare.spent = true := by
  induction l generalizing s with
  | nil => exact h
  | cons x l ih => exact ih (spareOne_spent h x)

theorem spareAll {s : State} {l : List Nat} (h : (l.foldl spareOne s).spare.spent = false) :
    Tail s (l.foldl spareOne s) ∧ ∀ x ∈ (l.foldl spareOne s).failing, x ∈ s.failing ∧ x ∉ l := by
  induction l generalizing s with
  | nil => exact ⟨Tail.refl s, fun x hx => ⟨hx, by simp⟩⟩
  | cons t l ih =>
    rw [List.foldl_cons] at h ⊢
    obtain ⟨h1, h2⟩ := ih h
    rcases spareOne_cases s t with ⟨k1, k2, -⟩ | k
    · refine ⟨k1.trans h1, fun x hx => ?_⟩
      obtain ⟨a, b⟩ := h2 x hx
      rw [k2, List.mem_filter] at a
      simp only [bne_iff_ne, ne_eq] at a
      exact ⟨a.1, by simp [b, a.2]⟩
    · have := spareAll_spent (s := spareOne s t) (by rw [k]; rfl) l
      rw [h] at this; cases this

/-- Where every failing site finds a spare, none is left. -/
theorem spareFailing_tail {s : State} (h : s.Spared) : Tail s s.spareFailing ∧ s.spareFailing.failing = [] := by
  rw [State.Spared, spareFailing_eq] at h
  rw [spareFailing_eq]
  obtain ⟨h1, h2⟩ := spareAll h
  refine ⟨h1, List.eq_nil_iff_forall_not_mem.2 fun x hx => ?_⟩
  obtain ⟨a, b⟩ := h2 x hx
  exact b a

/-- A state without failing units has spares enough. -/
theorem State.spared_of {s : State} (h1 : s.failing = []) (h2 : s.spare.spent = false) : s.Spared := by
  simp [State.Spared, State.spareFailing, h1, h2]

theorem State.settled.spared {s : State} (h : s.settled) : s.Spared := State.spared_of h.2.1 h.2.2

/-! ## Counts, triggers and messages -/

theorem penCount_tail (s : State) (i n : Nat) : Tail s (s.penCount i n) := Tail.of rfl rfl rfl

theorem queueCap_tail (s : State) (n : Nat) (w : Word) : Tail s (s.queueCap n w).1 := by
  simp only [State.queueCap]; split
  · exact Tail.bump s 1 (by simp [tailRegs])
  · split
    · refine Tail.trans (t := { s with ag := { s.ag with lost := true } }) (Tail.of rfl rfl rfl) ?_
      · exact (Tail.bump _ 1 (by simp [tailRegs])).trans (Tail.wr _ _ (by simp [tailRegs]))
    · exact Tail.of rfl rfl rfl

theorem foldl_fst_tail {α β : Type} (f : State × β → α → State × β) (hf : ∀ s x, Tail s.1 (f s x).1) (l : List α)
    (s : State × β) : Tail s.1 (l.foldl f s).1 := by
  induction l generalizing s with
  | nil => exact Tail.refl s.1
  | cons x l ih => exact (hf s x).trans (ih (f s x))

theorem fireEvent_tail (s : State) (page i : Nat) : Tail s (s.fireEvent page i) := by
  have h : Tail s ((s.trigsFor page i).foldl (fun (s, d) (n, w) =>
      let (s, x) := s.queueCap n w
      (s, d || x)) (s, false)).1 :=
    foldl_fst_tail (β := Bool) _ (fun s x => by obtain ⟨n, w⟩ := x; exact queueCap_tail s.1 n w) _ (s, false)
  simp only [State.fireEvent]
  split
  · refine h.trans (foldl_tail _ (fun s x => ?_) _ _)
    obtain ⟨n, w⟩ := x
    exact queueCap_tail s n w
  · exact h

theorem sendMsi_tail (s : State) (kind : Nat) : Tail s (s.sendMsi kind) := by
  simp only [State.sendMsi]
  refine (Tail.wr s (BitVec.ofNat 32 (s.rdN hostPage 0x190 + 1)) (p := hostPage) (o := 0x190) (by simp [tailRegs])).trans ?_
  exact ⟨rfl, fun _ _ _ _ => rfl, [_], rfl, by simp⟩

theorem beganKind_tail (s : State) (kind : Nat) : Tail s (s.beganKind kind) := by
  unfold State.beganKind; split
  · exact Tail.refl s
  · split
    · exact Tail.of rfl rfl rfl
    · exact sendMsi_tail s kind

theorem countEvents_tail (l : List (Nat × Nat)) (s : State) :
    Tail s (l.foldl (fun t (p, i) => match t.penInput p i with
      | some n => t.penCount n
      | none => t) s) := by
  refine foldl_tail _ (fun s y => ?_) l s
  dsimp only; split
  · exact penCount_tail s _ 1
  · exact Tail.refl s

theorem fireEvents_tail (l : List (Nat × Nat)) (s : State) :
    Tail s (l.foldl (fun t (p, i) => t.fireEvent p i) s) := by
  refine foldl_tail _ (fun s y => ?_) l s
  obtain ⟨p, i⟩ := y
  exact fireEvent_tail s p i

/-- Counts, triggers and messages leave everything outside `Tail`. -/
def finishEvents (s t : State) : State :=
  let t := t.events.foldl (fun t (p, i) => match t.penInput p i with
    | some n => t.penCount n
    | none => t) t
  let t := t.events.foldl (fun t (p, i) => t.fireEvent p i) t
  (newKinds s t).foldl State.beganKind t

theorem finishEvents_tail (s t : State) : Tail t (finishEvents s t) :=
  (countEvents_tail _ _).trans ((fireEvents_tail _ _).trans (foldl_tail _ beganKind_tail _ _))

/-- They touch neither the list of failing sites nor the exhausted budget. -/
theorem finish_eq (s t : State) : finish s t =
    let u := finishEvents s t.spareFailing
    { (if u.spare.spent then u.stop else u) with events := [], pending := s.pending } := rfl

theorem Tail.spent {t u : State} (h : Tail t u) : u.spare.spent = t.spare.spent :=
  (congrArg (fun s : State => s.spare.spent) h.body :)

/-- The steps of the end of a command keep the list of failing sites. -/
theorem finishEvents_failing (s t : State) : (finishEvents s t).failing = t.failing := by
  have hb : ∀ (s : State) p o n, (s.bump p o n).failing = s.failing := by
    intro s p o n; simp only [State.bump]; split <;> rfl
  have hq : ∀ (s : State) n w, (s.queueCap n w).1.failing = s.failing := by
    intro s n w; simp only [State.queueCap]; split
    · exact hb _ _ _ _
    · split
      · exact hb _ _ _ _
      · rfl
  have hf : ∀ {α : Type} (f : State → α → State), (∀ s x, (f s x).failing = s.failing) → ∀ (l : List α) (s : State),
      (l.foldl f s).failing = s.failing := by
    intro α f h l
    induction l with
    | nil => intro s; rfl
    | cons x l ih => intro s; rw [List.foldl_cons, ih, h]
  have hg : ∀ (l : List (Nat × Word)) (x : State × Bool), (l.foldl (fun (s, d) (n, w) =>
      let (s, x) := s.queueCap n w
      (s, d || x)) x).1.failing = x.1.failing := by
    intro l
    induction l with
    | nil => intro x; rfl
    | cons y l ih => intro x; rw [List.foldl_cons, ih]; exact hq _ _ _
  simp only [finishEvents]
  rw [hf State.beganKind]
  · rw [hf]
    · rw [hf]
      intro s x; split <;> rfl
    · intro s x
      obtain ⟨p, i⟩ := x
      simp only [State.fireEvent]
      split
      · rw [hf]
        · exact hg _ _
        · intro s y; exact hq _ _ _
      · exact hg _ _
  · intro s k
    unfold State.beganKind
    split
    · rfl
    · split <;> rfl

/-- The end of a command, where every failing site finds a spare. -/
theorem finish_tail (s : State) {t : State} (h : t.Spared) : Tail t (finish s t) := by
  have hs : (finishEvents s t.spareFailing).spare.spent = false := by
    rw [(finishEvents_tail s t.spareFailing).spent]; exact h
  rw [finish_eq]
  simp only [hs, Bool.false_eq_true, if_false]
  exact (spareFailing_tail h).1.trans ((finishEvents_tail s _).trans (Tail.of rfl rfl rfl))

/-- The end of a command, where one does not: the module stops. -/
theorem finish_stops (s : State) {t : State} (h : ¬t.Spared) : (finish s t).pow.off = true := by
  have hs : (finishEvents s t.spareFailing).spare.spent = true := by
    rw [(finishEvents_tail s t.spareFailing).spent]; simpa [State.Spared] using h
  rw [finish_eq]
  simp only [hs, if_true]
  rfl

@[simp] theorem finish_events (s t : State) : (finish s t).events = [] := rfl
@[simp] theorem finish_pending (s t : State) : (finish s t).pending = s.pending := rfl

/-- The end of a command settles the state. -/
theorem finish_settled (s t : State) : (finish s t).settled := by
  by_cases h : t.Spared
  · have hs : (finishEvents s t.spareFailing).spare.spent = false := by
      rw [(finishEvents_tail s t.spareFailing).spent]; exact h
    refine ⟨rfl, ?_, ?_⟩
    · rw [finish_eq]
      simp only [hs, Bool.false_eq_true, if_false]
      rw [finishEvents_failing]; exact (spareFailing_tail h).2
    · rw [(finish_tail s h).spent]
      by_contra hn
      have : t.spare.spent = true := by simpa using hn
      have := spareAll_spent this t.failing
      rw [State.Spared, spareFailing_eq, this] at h; cases h
  · have hs : (finishEvents s t.spareFailing).spare.spent = true := by
      rw [(finishEvents_tail s t.spareFailing).spent]; simpa [State.Spared] using h
    rw [finish_eq]
    simp only [hs, if_true]
    exact ⟨rfl, rfl, rfl⟩

/-! ## Commands -/

theorem finish_ends (s t : State) : Ends (.next (finish s t)) t := ⟨_, rfl, finish_tail s, finish_stops s⟩

theorem runOn_on {s : State} (h : s.pow.off = false) (f : State → State) : runOn s f = .next (finish s (f s)) := by
  simp [runOn, h]

theorem runOn_off {s : State} (h : s.pow.off = true) (f : State → State) : runOn s f = .next s := by simp [runOn, h]

theorem runOn_ends {s : State} (h : s.pow.off = false) (f : State → State) : Ends (runOn s f) (f s) := by
  rw [runOn_on h]; exact finish_ends s (f s)

theorem runPart_ends {s : State} {ok : Bool} (hk : ok = true) (h : s.pow.off = false) (f : State → State) :
    Ends (runPart ok s f) (f s) := by
  simpa [runPart, hk] using runOn_ends h f

@[simp] theorem State.awake_light {s : State} (h : s.dusk = false) (f : State → State) : s.awake f = f s := by
  simp [State.awake, h]

theorem tileRun_ends {s : State} {t : Nat} (ht : t < 1152) (h : s.Awake) (f : State → State) : Ends (tileRun t s f) (f s) := by
  have := runPart_ends (decide_eq_true ht) h.on (·.awake f)
  simpa [tileRun, h.light] using this

/-- What a command's answer gives where spares suffice. -/
theorem Ends.gives {o : Host.Outcome State Fault Refusal} {t : State} {P : State → Prop} (h : Ends o t) (hs : t.Spared)
    (k : ∀ u, Tail t u → P u) : Gives o P := by
  obtain ⟨u, hu, h1, -⟩ := h
  exact ⟨u, hu, k u (h1 hs)⟩

end Sys2Proof.Machine
end

