-- ==== Sys2Proof/Laws/Memory.lean ====
section
/-!
SUPPORT. What an access to device memory can do, said once for each operation of the memory path: it changes nothing
outside `MemOnly`, and memory keeps its canonical form.
-/
namespace Sys2Proof.Machine

theorem MemOnly.refl (s : State) : MemOnly s s := ⟨id, fun _ => rfl, rfl⟩

theorem MemOnly.trans {s t u : State} (h : MemOnly s t) (k : MemOnly t u) : MemOnly s u :=
  ⟨k.memOk ∘ h.memOk, fun i => (k.tiles i).trans (h.tiles i), k.rest.trans h.rest⟩

/-- An update of parts that an access may change, which leaves memory and tiles. -/
theorem MemOnly.of {s t : State} (hm : t.mem = s.mem) (ht : t.tiles = s.tiles) (hr : t.offMem = s.offMem) : MemOnly s t :=
  ⟨fun h => by unfold State.memOk at *; rwa [hm], fun i => by simp only [State.tile, ht], hr⟩

/-! ## Single updates -/

@[simp] theorem State.tile_setTile_same (s : State) (t : Nat) (x : Tile) : (s.setTile t x).tile t = x := by
  simp [State.tile, State.setTile]

theorem State.tile_setTile_other (s : State) {t i : Nat} (x : Tile) (h : t ≠ i) : (s.setTile t x).tile i = s.tile i := by
  simp only [State.tile, State.setTile]; exact sget_sput_other _ _ _ h

@[simp] theorem State.tile_modTile_same (s : State) (t : Nat) (f : Tile → Tile) : (s.modTile t f).tile t = f (s.tile t) := by
  simp [State.modTile]

theorem State.tile_modTile_other (s : State) {t i : Nat} (f : Tile → Tile) (h : t ≠ i) : (s.modTile t f).tile i = s.tile i :=
  s.tile_setTile_other _ h

theorem wr_memOnly (s : State) (p o : Nat) (v : Word) : MemOnly s (s.wr p o v) := .of rfl rfl rfl

theorem setField_memOnly (s : State) (p o hi lo v : Nat) : MemOnly s (s.setField p o hi lo v) := wr_memOnly s _ _ _
theorem setFlag_memOnly (s : State) (p o i : Nat) (b : Bool) : MemOnly s (s.setFlag p o i b) := wr_memOnly s _ _ _

theorem raise_memOnly (s : State) (p i : Nat) : MemOnly s (s.raise p i) :=
  (setFlag_memOnly s p offEvt i true).trans (.of rfl rfl rfl)

theorem bump_memOnly (s : State) (p o n : Nat) : MemOnly s (s.bump p o n) := by
  simp only [State.bump]; split
  · exact wr_memOnly s _ _ _
  · exact MemOnly.trans (t := s.free.2) (.of rfl rfl rfl) (wr_memOnly _ _ _ _)

theorem bumpSat_memOnly (s : State) (p o n : Nat) : MemOnly s (s.bumpSat p o n) := wr_memOnly s _ _ _

theorem wr64_memOnly (s : State) (p o v : Nat) : MemOnly s (s.wr64 p o v) := (wr_memOnly s _ _ _).trans (wr_memOnly _ _ _ _)

theorem bump64_memOnly (s : State) (p o n : Nat) : MemOnly s (s.bump64 p o n) := wr64_memOnly s _ _ _

theorem logAddr_memOnly (s : State) (p a : Nat) : MemOnly s (s.logAddr p a) := (wr_memOnly s _ _ _).trans (wr_memOnly _ _ _ _)

theorem logErr_memOnly (s : State) (p a : Nat) : MemOnly s (s.logErr p a) := (bumpSat_memOnly s _ _ _).trans (logAddr_memOnly _ _ _)

theorem addrFault_memOnly (s : State) (ag : Agent) (a : Nat) : MemOnly s (s.addrFault ag a) := by
  have h : ∀ s : State, ∀ p, MemOnly s (if (pageKind p == kTile || pageKind p == kPcie) = true then s.logErr p a else s.logAddr p a) := by
    intro s p; split
    · exact logErr_memOnly s p a
    · exact logAddr_memOnly s p a
  simp only [State.addrFault]
  split
  · exact (h s _).trans (raise_memOnly _ _ _)
  · exact h s _

theorem setByte_memOnly (s : State) (a : Nat) (b : Byte) : MemOnly s (s.setByte a b) :=
  ⟨fun h => sset_wf 0 s.mem a b h, fun _ => rfl, rfl⟩

theorem setBytes_memOnly (s : State) (a : Nat) (l : List Byte) : MemOnly s (s.setBytes a l) := by
  induction l generalizing s a with
  | nil => exact MemOnly.refl s
  | cons b bs ih => exact (setByte_memOnly s a b).trans (ih _ _)

theorem setEcc_memOnly (s : State) (g : Nat) (d : DWord) : MemOnly s (s.setEcc g d) := .of rfl rfl rfl

theorem setStack_memOnly (s : State) (k : Nat) (x : Stack) : MemOnly s (s.setStack k x) := .of rfl rfl rfl

theorem setSlice_memOnly (s : State) (k : Nat) (x : Slice) : MemOnly s (s.setSlice k x) := .of rfl rfl rfl

theorem modSlice_memOnly (s : State) (k : Nat) (f : Slice → Slice) : MemOnly s (s.modSlice k f) := setSlice_memOnly s _ _

theorem setBank_memOnly (s : State) (k : Nat) (x : DirBank) : MemOnly s (s.setBank k x) := .of rfl rfl rfl

theorem holdRequest_memOnly (s : State) (c : Nat) : MemOnly s (s.holdRequest c) := .of rfl rfl rfl

theorem spend_memOnly (s : State) : MemOnly s s.spend := .of rfl rfl rfl

theorem cause_memOnly (s : State) (tag i : Nat) : MemOnly s (s.cause tag i) := by
  unfold State.cause; split
  · exact .of rfl rfl rfl
  · exact .of rfl rfl rfl

/-- A change of a tile's read cache. -/
theorem modTile_memOnly (s : State) (t : Nat) (f : Tile → Tile) (h : ∀ x, (f x).uncached = x.uncached) :
    MemOnly s (s.modTile t f) := by
  refine ⟨id, fun i => ?_, rfl⟩
  by_cases hi : t = i
  · subst hi; simp [h]
  · rw [s.tile_modTile_other f hi]

theorem foldl_memOnly {α : Type} (f : State → α → State) (hf : ∀ s x, MemOnly s (f s x)) (l : List α) (s : State) :
    MemOnly s (l.foldl f s) := by
  induction l generalizing s with
  | nil => exact MemOnly.refl s
  | cons x l ih => exact (hf s x).trans (ih (f s x))

/-- A fold over an accumulator that holds the state. -/
theorem foldl_proj_memOnly {α β : Type} (π : β → State) (f : β → α → β) (hf : ∀ b x, MemOnly (π b) (π (f b x)))
    (l : List α) (b : β) : MemOnly (π b) (π (l.foldl f b)) := by
  induction l generalizing b with
  | nil => exact MemOnly.refl _
  | cons x l ih => exact (hf b x).trans (ih (f b x))

theorem memOnly_ite {s a b : State} {c : Prop} [Decidable c] (h : MemOnly s a) (k : MemOnly s b) :
    MemOnly s (if c then a else b) := by split <;> assumption

theorem memOnly_ite₂ {α : Type} {s : State} {a b : α × State} {c : Prop} [Decidable c] (h : MemOnly s a.2) (k : MemOnly s b.2) :
    MemOnly s (if c then a else b).2 := by split <;> assumption

/-! ## Stack controllers -/

theorem putGranule_memOnly (s : State) (g : Nat) (d : List Byte) : MemOnly s (s.putGranule g d) :=
  (setBytes_memOnly s _ _).trans (setEcc_memOnly _ _ _)

theorem putPoison_memOnly (s : State) (g : Nat) : MemOnly s (s.putPoison g) :=
  (setBytes_memOnly s _ _).trans (setEcc_memOnly _ _ _)

theorem askRow_memOnly (s : State) (k row : Nat) : MemOnly s (s.askRow k row) := by
  simp only [State.askRow]; split
  · exact MemOnly.refl s
  · split
    · exact setStack_memOnly s _ _
    · exact (setStack_memOnly s _ _).trans (setFlag_memOnly _ _ _ _ _)

theorem stackCe_memOnly (s : State) (g : Nat) : MemOnly s (s.stackCe g) := by
  simp only [State.stackCe]
  have h := (logErr_memOnly s (stackPage (granPlace g).stack) (64 * g)).trans
    (raise_memOnly _ (stackPage (granPlace g).stack) 0)
  split
  · exact h
  · split
    · exact h.trans ((setStack_memOnly _ _ _).trans (askRow_memOnly _ _ _))
    · exact h.trans (setStack_memOnly _ _ _)

theorem stackUe_memOnly (s : State) (g : Nat) : MemOnly s (s.stackUe g) :=
  (((logErr_memOnly s _ _).trans (bump_memOnly _ _ _ _)).trans (raise_memOnly _ _ _)).trans (askRow_memOnly _ _ _)

theorem decodeGranule_memOnly (s : State) (g : Nat) : MemOnly s (s.decodeGranule g).2.2 := by
  simp only [State.decodeGranule]; split
  · exact MemOnly.refl s
  · exact raise_memOnly s _ _
  · exact stackCe_memOnly s g
  · exact stackUe_memOnly s g

theorem readGranule_memOnly (s : State) (g : Nat) (a : Agent) : MemOnly s (s.readGranule g a).2 := by
  simp only [State.readGranule]
  have h1 := bump64_memOnly s (stackPage (stackOf g)) 0x40 1
  split
  · exact (h1.trans (bump64_memOnly _ _ _ _)).trans (decodeGranule_memOnly _ g)
  · exact h1.trans (decodeGranule_memOnly _ g)

theorem writeGranule_memOnly (s : State) (g o : Nat) (d : List PByte) (a : Agent) : MemOnly s (s.writeGranule g o d a) := by
  simp only [State.writeGranule]
  have h1 := bump64_memOnly s (stackPage (stackOf g)) 0x48 1
  have h2 : MemOnly s (if isHost a = true then (s.bump64 (stackPage (stackOf g)) 0x48).bump64 (stackPage (stackOf g)) 0x58
      else s.bump64 (stackPage (stackOf g)) 0x48) := by
    split
    · exact h1.trans (bump64_memOnly _ _ _ _)
    · exact h1
  have h3 := fun x => h2.trans (setStack_memOnly _ (stackOf g) x)
  split
  · exact (h3 _).trans (putPoison_memOnly _ g)
  · split
    · exact (h3 _).trans (putGranule_memOnly _ g _)
    · split
      · exact (h3 _).trans (raise_memOnly _ _ _)
      · exact (h3 _).trans (((stackUe_memOnly _ g).trans (putPoison_memOnly _ g)).trans (raise_memOnly _ _ _))
      · exact (h3 _).trans (putGranule_memOnly _ g _)
      · exact (h3 _).trans ((stackCe_memOnly _ g).trans (putGranule_memOnly _ g _))

theorem readStack_memOnly (s : State) (a n : Nat) (ag : Agent) : MemOnly s (s.readStack a n ag).2 :=
  foldl_proj_memOnly (β := List PByte × State) (·.2)
    (fun (b : List PByte × State) i => (b.1 ++ (b.2.readGranule (a / 64 + i) ag).1, (b.2.readGranule (a / 64 + i) ag).2))
    (fun b i => readGranule_memOnly b.2 (a / 64 + i) ag) _ ([], s)

theorem writeStack_memOnly (s : State) (a : Nat) (d : List PByte) (ag : Agent) : MemOnly s (s.writeStack a d ag) :=
  foldl_memOnly _ (fun s _ => writeGranule_memOnly s _ _ _ ag) _ s

/-! ## Slices -/

theorem askShadeRow_memOnly (s : State) (k row : Nat) : MemOnly s (s.askShadeRow k row) := by
  simp only [State.askShadeRow]; split
  · exact MemOnly.refl s
  · split
    · exact (setSlice_memOnly s _ _).trans (raise_memOnly _ _ _)
    · exact ((setSlice_memOnly s _ _).trans (raise_memOnly _ _ _)).trans (spend_memOnly _)

theorem shadeCe_memOnly (s : State) (k : Nat) (l : Line) (w : Nat) : MemOnly s (s.shadeCe k l w) := by
  simp only [State.shadeCe]
  have h := (logErr_memOnly s (slicePage k) (l.line * 256 + 8 * w)).trans (raise_memOnly _ (slicePage k) 0)
  split
  · exact h
  · split
    · exact h.trans ((setSlice_memOnly _ _ _).trans (askShadeRow_memOnly _ _ _))
    · exact h.trans (setSlice_memOnly _ _ _)

theorem shadeUe_memOnly (s : State) (k : Nat) (l : Line) (w ev : Nat) : MemOnly s (s.shadeUe k l w ev) :=
  (((logErr_memOnly s _ _).trans (bump_memOnly _ _ _ _)).trans (raise_memOnly _ _ _)).trans (askShadeRow_memOnly _ _ _)

theorem fillData_memOnly (s : State) (l : Line) (a : Agent) : MemOnly s (s.fillData l a).2 := readStack_memOnly s _ _ a

theorem checkWord_memOnly (s : State) (k : Nat) (l : Line) (w : Nat) (a : Agent) : MemOnly s (s.checkWord k l w a).2.2.2 := by
  simp only [State.checkWord]; split
  · exact MemOnly.refl s
  · split
    · exact MemOnly.refl s
    · exact shadeCe_memOnly s k l w
    · split
      · have h := (shadeUe_memOnly s k l w 1).trans (fillData_memOnly _ l a)
        split <;> exact h
      · exact shadeUe_memOnly s k l w 2

theorem flushMerge_memOnly (s : State) (k line : Nat) : MemOnly s (s.flushMerge k line) := by
  simp only [State.flushMerge]; split
  · exact MemOnly.refl s
  · split <;> exact setSlice_memOnly s _ _

theorem readWords_memOnly (s : State) (k : Nat) (l : Line) (w n : Nat) (a : Agent) : MemOnly s (s.readWords k l w n a).2.2 :=
  foldl_proj_memOnly (β := List PByte × Line × State) (·.2.2) _
    (fun y i => checkWord_memOnly y.2.2 k y.2.1 (w + i) a) _ ([], l, s)

theorem poisonLine_memOnly (s : State) (line : Nat) : MemOnly s (s.poisonLine line) :=
  foldl_memOnly _ (fun s i => putPoison_memOnly s (line * 4 + i)) _ s

theorem evictData_memOnly (s : State) (k : Nat) (l : Line) : MemOnly s (s.evictData k l) := by
  have h := readWords_memOnly s k l 0 32 .module
  simp only [State.evictData]
  generalize s.readWords k l 0 32 .module = r at h
  split
  · exact MemOnly.refl s
  · split
    · exact h.trans (writeStack_memOnly _ _ _ _)
    · exact poisonLine_memOnly s _
    · exact MemOnly.refl s

theorem evictLine_memOnly (s : State) (k : Nat) (l : Line) : MemOnly s (s.evictLine k l) := by
  simp only [State.evictLine]
  exact ((flushMerge_memOnly s k l.line).trans (evictData_memOnly _ k _)).trans (modSlice_memOnly _ k _)

theorem makeWay_memOnly {s : State} {k set : Nat} {r : Nat × State} (h : s.makeWay k set = some r) : MemOnly s r.2 := by
  simp only [State.makeWay] at h
  split at h
  · cases h; exact evictLine_memOnly s k _
  · split at h
    · cases h; exact MemOnly.refl s
    · obtain ⟨v, -, rfl⟩ := Option.map_eq_some_iff.1 h
      exact evictLine_memOnly s k _

theorem countHit_memOnly (s : State) (k cls : Nat) (hit : Bool) (line : Nat) : MemOnly s (s.countHit k cls hit line) := by
  simp only [State.countHit]
  generalize (0x40 + 16 * cls + if hit = true then 0 else 8) = o
  have h := bump64_memOnly s (slicePage k) o 1
  split
  · exact h.trans (setField_memOnly _ _ _ _ _ _)
  · exact h

theorem lineRead_memOnly (s : State) (k : Nat) (l : Line) (off n : Nat) (a : Agent) : MemOnly s (s.lineRead k l off n a).2.2 := by
  simp only [State.lineRead]; split
  · exact raise_memOnly s _ _
  · refine foldl_proj_memOnly (β := List PByte × Line × State) (·.2.2) _ (fun b i => ?_) _ ([], l, s)
    have h := checkWord_memOnly b.2.2 k b.2.1 (off / 8 + i) a
    dsimp only
    split
    · exact h.trans (raise_memOnly _ _ _)
    · exact h

theorem narrowWord_memOnly (s : State) (k : Nat) (l : Line) (w o : Nat) (d : List PByte) (a : Agent) :
    MemOnly s (s.narrowWord k l w o d a).2 := by
  have h := readWords_memOnly s k l (8 * (w / 8)) 8 a
  simp only [State.narrowWord]
  generalize s.readWords k l (8 * (w / 8)) 8 a = r at h
  split
  · exact MemOnly.refl s
  · split
    · dsimp only; exact modSlice_memOnly s k _
    · split
      · exact MemOnly.refl s
      · split
        · dsimp only; exact modSlice_memOnly s k _
        · split
          · exact h
          · dsimp only
            refine h.trans (MemOnly.trans ?_ (modSlice_memOnly _ k _))
            split
            · split
              · exact setSlice_memOnly _ k _
              · exact (setSlice_memOnly _ k _).trans (modSlice_memOnly _ k _)
            · exact setSlice_memOnly _ k _

theorem writeWord_memOnly (s : State) (k : Nat) (l : Line) (off : Nat) (d : List PByte) (a : Agent) (w : Nat) :
    MemOnly s (s.writeWord k l off d a w).2 := by
  simp only [State.writeWord]
  split
  · split
    · dsimp only; exact modSlice_memOnly s k _
    · dsimp only; exact modSlice_memOnly s k _
  · exact narrowWord_memOnly _ _ _ _ _ _ _

theorem lineWrite_memOnly (s : State) (k : Nat) (l : Line) (off : Nat) (d : List PByte) (a : Agent) :
    MemOnly s (s.lineWrite k l off d a).2 := by
  simp only [State.lineWrite]
  exact foldl_proj_memOnly (β := Line × State) (·.2) _ (fun b w => writeWord_memOnly b.2 k b.1 off d a w) _ (_, s)

theorem lineAdd_memOnly (s : State) (k : Nat) (l : Line) (off : Nat) (vals : List Word) (a : Agent) :
    MemOnly s (s.lineAdd k l off vals a).2.2.2 := by
  simp only [State.lineAdd]; split
  · exact raise_memOnly s _ _
  · refine foldl_proj_memOnly (β := List (Nat × Bool) × Line × State) (·.2.2) _ (fun b i => ?_) _ ([], l, s)
    have h := checkWord_memOnly b.2.2 k b.2.1 (off / 8 + i) a
    dsimp only
    split
    · exact h.trans (raise_memOnly _ _ _)
    · exact h

theorem dropLine_memOnly (s : State) (line : Nat) : MemOnly s (s.dropLine line) := by
  unfold State.dropLine; split
  · exact MemOnly.refl s
  · exact modSlice_memOnly s _ _

theorem rcDrop_uncached (line : Nat) (x : Tile) : (x.rcDrop line).uncached = x.uncached := rfl

theorem invalidateAt_memOnly (s : State) (line : Nat) (l : List Nat) : MemOnly s (s.invalidateAt line l) := by
  refine foldl_memOnly _ (fun s t => ?_) l s
  split
  · exact modTile_memOnly s t _ (rcDrop_uncached line)
  · exact MemOnly.refl s

theorem dirEnsure_memOnly (s : State) (line : Nat) : MemOnly s (s.dirEnsure line).2 := by
  simp only [State.dirEnsure]; split
  · exact MemOnly.refl s
  · split
    · exact setBank_memOnly s _ _
    · refine MemOnly.trans ?_ (setBank_memOnly _ _ _)
      refine MemOnly.trans ?_ (raise_memOnly _ _ _)
      refine MemOnly.trans ?_ (bump_memOnly _ _ _ _)
      generalize (s.bank (s.bankOf line)).victim line = v
      have h := invalidateAt_memOnly s v.line v.sharers.targets
      split
      · exact h.trans (dropLine_memOnly _ _)
      · exact h

theorem dirWrite_memOnly (s : State) (line : Nat) (own : Option Nat) : MemOnly s (s.dirWrite line own) := by
  simp only [State.dirWrite]; split
  · exact MemOnly.refl s
  · exact (invalidateAt_memOnly s _ _).trans (setBank_memOnly _ _ _)

theorem beforeLine_memOnly (s : State) (k : Nat) (q : SReq) : MemOnly s (s.beforeLine k q) := by
  have hf : ∀ c : Bool, MemOnly s (if c = true then s else s.flushMerge k q.line) := by
    intro c; split
    · exact MemOnly.refl s
    · exact flushMerge_memOnly s _ _
  simp only [State.beforeLine]
  split
  · exact (hf _).trans (dirWrite_memOnly _ _ _)
  · exact hf _

theorem headerAdd_memOnly (s : State) (step n m : Nat) : MemOnly s (s.headerAdd step n m) := by
  simp only [State.headerAdd]; split
  · exact MemOnly.refl s
  · exact .of rfl rfl rfl

theorem onLine_memOnly (s : State) (k : Nat) (q : SReq) : MemOnly s (s.onLine k q).2 := by
  simp only [State.onLine]
  refine (beforeLine_memOnly s k q).trans ?_
  generalize s.beforeLine k q = s
  split
  · exact MemOnly.refl _
  · rename_i l _
    split
    · rename_i r _
      have h := lineRead_memOnly s k l (r.addr % 256) r.len r.agent
      dsimp only [SReq.req]
      split
      · exact (h.trans (setSlice_memOnly _ _ _)).trans (dirEnsure_memOnly _ _)
      · exact h.trans (setSlice_memOnly _ _ _)
    · rename_i r _
      exact (lineRead_memOnly s k l (r.addr % 256) r.len r.agent).trans (setSlice_memOnly _ _ _)
    · rename_i r d _
      have h := lineWrite_memOnly s k l (r.addr % 256) d r.agent
      refine memOnly_ite₂ ?_ ?_
      · dsimp only
        exact (((h.trans (writeStack_memOnly _ _ _ _)).trans (setSlice_memOnly _ _ _)).trans (flushMerge_memOnly _ _ _)).trans
          (modSlice_memOnly _ _ _)
      · exact h.trans (setSlice_memOnly _ _ _)
    · rename_i r vals step _
      have h := lineAdd_memOnly s k l (r.addr % 256) vals r.agent
      dsimp only [SReq.req]
      exact memOnly_ite
        ((((memOnly_ite ((((h.trans (setSlice_memOnly _ _ _)).trans (writeStack_memOnly _ _ _ _)).trans (modSlice_memOnly _ _ _)))
          (h.trans (setSlice_memOnly _ _ _))).trans (raise_memOnly _ _ _)).trans (cause_memOnly _ _ _)).trans
          (headerAdd_memOnly _ _ _ _))
        (memOnly_ite ((((h.trans (setSlice_memOnly _ _ _)).trans (writeStack_memOnly _ _ _ _)).trans (modSlice_memOnly _ _ _)))
          (h.trans (setSlice_memOnly _ _ _)))
    · rename_i r tag a b c _
      dsimp only [SReq.req]
      exact ((readWords_memOnly s k l _ 4 r.agent).trans (lineWrite_memOnly _ k _ _ _ _)).trans (setSlice_memOnly _ _ _)

theorem markHost_memOnly (s : State) (line : Nat) : MemOnly s (s.markHost line) := by
  simp only [State.markHost]; split
  · exact (dirEnsure_memOnly s line).trans (setBank_memOnly _ _ _)
  · exact MemOnly.refl s

theorem fillLine_memOnly (s : State) (k line : Nat) : MemOnly s (s.fillLine k line) := by
  simp only [State.fillLine]; split
  · exact MemOnly.refl s
  · split
    · exact setSlice_memOnly s _ _
    · exact ((fillData_memOnly s _ _).trans (setSlice_memOnly _ _ _)).trans (markHost_memOnly _ _)

theorem allocate_memOnly {s t : State} {k line : Nat} {st : LineState} (h : s.allocate k line st = some t) : MemOnly s t := by
  simp only [State.allocate] at h
  split at h
  · cases h; exact modSlice_memOnly _ _ _
  · obtain ⟨r, hr, rfl⟩ := Option.map_eq_some_iff.1 h
    exact (makeWay_memOnly hr).trans (modSlice_memOnly _ _ _)

theorem storeAround_memOnly (s : State) (line a : Nat) (d : List PByte) (ag : Agent) : MemOnly s (s.storeAround line a d ag) :=
  (dirWrite_memOnly s _ _).trans (writeStack_memOnly _ _ _ _)

/-! ## Requests that a slice turns away -/

theorem say_memOnly (s : State) (m : Out) : MemOnly s (s.say m) := .of rfl rfl rfl

theorem perform_memOnly (s : State) (k : Nat) (q : SReq) : MemOnly s (s.perform k q) :=
  (onLine_memOnly s k q).trans (say_memOnly _ _)

theorem retry_memOnly (s : State) (k : Nat) (q : SReq) : MemOnly s (s.retry k q) :=
  MemOnly.trans (t := s.fresh.2.bump (slicePage k) 0x13C)
    (MemOnly.trans (t := s.fresh.2) (.of rfl rfl rfl) (bump_memOnly _ _ _ _)) (.of rfl rfl rfl)

theorem retryOpen_memOnly (s : State) (die : Nat) : MemOnly s (s.retryOpen die) := by
  simp only [State.retryOpen]
  have h : ∀ (l : List Nat) (s : State), MemOnly s (l.foldl (fun s k =>
      let x := s.slice k
      let open_ := (x.lines.filter (·.st == .fill)).foldl (fun acc l => acc ++ l.joined) [] ++ x.waiting
      let keep (l : Line) : Option Line := if l.st == .fill then l.dropped else some l
      let s := s.setSlice k { x with lines := x.lines.filterMap keep, waiting := [] }
      open_.foldl (fun s q => s.retry k q) s) s) := fun l s =>
    foldl_memOnly _ (fun s k => (setSlice_memOnly s _ _).trans (foldl_memOnly _ (fun s q => retry_memOnly s k q) _ _)) l s
  have h' := h (s.liveSlices die) s
  dsimp only at h'
  generalize List.foldl _ s (s.liveSlices die) = x at h' ⊢
  exact (h'.trans (t := x) (MemOnly.trans (t := { x with held := x.held.filter fun h => !(x.homeOf h.line).die == die })
    (.of rfl rfl rfl) (foldl_memOnly _ (fun s h => retry_memOnly s _ _) _ _)))

theorem dieReset_memOnly (s : State) (die : Nat) : MemOnly s (s.dieReset die) := by
  simp only [State.dieReset]; split
  · exact MemOnly.refl s
  · refine MemOnly.trans (t := s.setDie die { s.die die with resetting := true }) (.of rfl rfl rfl) ?_
    exact (foldl_memOnly _ (fun s k => foldl_memOnly _ (fun s l => flushMerge_memOnly s k l) _ s) _ _).trans
      (retryOpen_memOnly _ _)

theorem beginRecode_memOnly (s : State) (k : Nat) (b : Bool) : MemOnly s (s.beginRecode k b) := by
  simp only [State.beginRecode]; split
  · exact MemOnly.refl s
  · exact (foldl_memOnly _ (fun s l => flushMerge_memOnly s k l) _ s).trans (modSlice_memOnly _ _ _)

theorem mergeFault_memOnly (s : State) (k : Nat) : MemOnly s (s.mergeFault k) := by
  simp only [State.mergeFault]
  exact (((modSlice_memOnly s k _).trans (raise_memOnly _ _ _)).trans (holdRequest_memOnly _ _)).trans (beginRecode_memOnly _ k true)

theorem arrive_memOnly (s : State) (k line : Nat) : MemOnly s (s.arrive k line) := by
  unfold State.arrive; split
  · exact dieReset_memOnly s _
  · split
    · exact mergeFault_memOnly s k
    · exact MemOnly.refl s

theorem defer_memOnly (s : State) (k : Nat) (q : SReq) : MemOnly s (s.defer k q) := by
  unfold State.defer; split
  · exact retry_memOnly s k q
  · split
    · exact .of rfl rfl rfl
    · exact modSlice_memOnly s k _

theorem fillAnswer_memOnly (s : State) (k line : Nat) : MemOnly s (s.fillAnswer k line) := by
  unfold State.fillAnswer; split
  · exact MemOnly.refl s
  · exact (fillLine_memOnly s k line).trans (foldl_memOnly _ (fun s q => perform_memOnly s k q) _ _)

theorem sliceTake_memOnly {s : State} {k : Nat} {q : SReq} {x : SAns × State} (h : s.sliceTake k q = some x) : MemOnly s x.2 := by
  simp only [State.sliceTake] at h
  split at h
  · cases h
    refine MemOnly.trans ?_ (onLine_memOnly _ _ _)
    split
    · exact (countHit_memOnly s _ _ _ _).trans (fillAnswer_memOnly _ _ _)
    · exact countHit_memOnly s _ _ _ _
  · split at h
    · cases h; exact (countHit_memOnly s _ _ _ _).trans (storeAround_memOnly _ _ _ _ _)
    · split at h
      · obtain ⟨r, hr, rfl⟩ := Option.map_eq_some_iff.1 h
        exact ((countHit_memOnly s _ _ _ _).trans (allocate_memOnly hr)).trans (onLine_memOnly _ _ _)
      · obtain ⟨r, hr, rfl⟩ := Option.map_eq_some_iff.1 h
        exact (((countHit_memOnly s _ _ _ _).trans (allocate_memOnly hr)).trans (fillLine_memOnly _ _ _)).trans
          (onLine_memOnly _ _ _)

theorem sliceNow_memOnly {s : State} {k : Nat} {q : SReq} {x : SAns × State} (h : s.sliceNow k q = some x) : MemOnly s x.2 := by
  unfold State.sliceNow at h
  split at h
  · cases h
  · exact sliceTake_memOnly h

/-! ## Device addresses -/

theorem slowRead_memOnly (s : State) (a n : Nat) : MemOnly s (s.slowRead a n).2 := by
  simp only [State.slowRead]; split
  · exact ((bump64_memOnly s _ _ _).trans (raise_memOnly _ _ _)).trans (bump_memOnly _ _ _ _)
  · exact bump64_memOnly s _ _ _

theorem slowGran_memOnly (s : State) (a : Nat) (d : List PByte) : MemOnly s (s.slowGran a d) := by
  unfold State.slowGran; split
  · exact putPoison_memOnly s _
  · split
    · exact putGranule_memOnly s _ _
    · split
      · exact MemOnly.refl s
      · exact setBytes_memOnly s _ _

theorem slowWrite_memOnly (s : State) (a : Nat) (d : List PByte) : MemOnly s (s.slowWrite a d) := by
  simp only [State.slowWrite]
  exact (foldl_memOnly _ (fun s _ => slowGran_memOnly s _ _) _ s).trans (bump64_memOnly _ _ _ _)

theorem readLine1_memOnly (s : State) (q : ShadeReq) (dead : Bool) : MemOnly s (s.readLine1 q dead).2 := by
  simp only [State.readLine1]; split
  · exact addrFault_memOnly s _ _
  · split
    · exact slowRead_memOnly s _ _
    · split
      · exact addrFault_memOnly s _ _
      · split
        · exact ((addrFault_memOnly s _ _).trans (logAddr_memOnly _ _ _)).trans (raise_memOnly _ _ _)
        · rename_i k _ _
          refine (arrive_memOnly s k (q.addr / 256)).trans ?_
          split
          · rename_i x h
            cases hn : (s.arrive k (q.addr / 256)).sliceNow k (if dead = true then SReq.readDead q else SReq.read q) with
            | some y => rw [hn] at h; cases h; exact sliceNow_memOnly hn
            | none => rw [hn] at h; exact sliceTake_memOnly h
          · exact MemOnly.refl _

theorem devRead_memOnly (s : State) (a n cls : Nat) (ag : Agent) (dead stamp : Bool) :
    MemOnly s (s.devRead a n cls ag dead stamp).2.2 :=
  foldl_proj_memOnly (β := List PByte × List (Nat × Nat) × State) (·.2.2) _
    (fun b _ => readLine1_memOnly b.2.2 _ dead) _ ([], [], s)

theorem rcUpdate_uncached (a : Nat) (d : List PByte) (x : Tile) : (x.rcUpdate a d).uncached = x.uncached := by
  simp only [Tile.rcUpdate, Tile.uncached]

/-- A tile's own write of its copy. -/
theorem ownCopy_memOnly (s : State) (a : Nat) (d : List PByte) (ag : Agent) : MemOnly s (match ag with
    | .tile t => s.modTile t (·.rcUpdate a d)
    | _ => s) := by
  split
  · exact modTile_memOnly s _ _ (rcUpdate_uncached a d)
  · exact MemOnly.refl s

theorem sliceOr_memOnly (s : State) (k : Nat) (q : SReq) : MemOnly s (match s.sliceNow k q with
    | some (_, s) => s
    | none => s.defer k q) := by
  split
  · rename_i h; exact sliceNow_memOnly h
  · exact defer_memOnly _ _ _

theorem writeLine1_memOnly (s : State) (a : Nat) (d : List PByte) (cls : Nat) (ag : Agent) : MemOnly s (s.writeLine1 a d cls ag) := by
  unfold State.writeLine1; split
  · exact addrFault_memOnly s _ _
  · split
    · exact slowWrite_memOnly s _ _
    · split
      · exact addrFault_memOnly s _ _
      · split
        · exact ((addrFault_memOnly s _ _).trans (logAddr_memOnly _ _ _)).trans (raise_memOnly _ _ _)
        · exact (ownCopy_memOnly s a d ag).trans ((arrive_memOnly _ _ _).trans (sliceOr_memOnly _ _ _))

theorem devWrite_memOnly (s : State) (a : Nat) (d : List PByte) (cls : Nat) (ag : Agent) : MemOnly s (s.devWrite a d cls ag) :=
  foldl_memOnly _ (fun s _ => writeLine1_memOnly s _ _ cls ag) _ s

theorem devAdd_memOnly (s : State) (a : Nat) (vals : List Word) (cls step : Nat) (ag : Agent) :
    MemOnly s (s.devAdd a vals cls step ag).2 := by
  refine foldl_proj_memOnly (β := Bool × State) (·.2) _ (fun b l => ?_) _ (false, s)
  dsimp only
  split
  · exact addrFault_memOnly _ _ _
  · split
    · exact addrFault_memOnly _ _ _
    · split
      · exact ((addrFault_memOnly _ _ _).trans (logAddr_memOnly _ _ _)).trans (raise_memOnly _ _ _)
      · split
        · rename_i h; exact (arrive_memOnly _ _ _).trans (sliceNow_memOnly h)
        · exact (arrive_memOnly _ _ _).trans (defer_memOnly _ _ _)

theorem mergeAt_memOnly {s t : State} {at_ step a b c : Nat} {ag : Agent} (h : s.mergeAt at_ step a b c ag = some t) :
    MemOnly s t := by
  simp only [State.mergeAt] at h
  split at h
  · cases h
  · obtain ⟨r, hr, rfl⟩ := Option.map_eq_some_iff.1 h
    exact (arrive_memOnly _ _ _).trans (sliceNow_memOnly hr)

theorem hdrFlush_memOnly (s : State) : MemOnly s s.hdrFlush := by
  refine foldl_memOnly _ (fun s e => ?_) _ s
  dsimp only
  split
  · exact .of rfl rfl rfl
  · cases hm : s.mergeAt (s.specTable.1 + 0x20 + 32 * (e.1 % 4)) e.1 e.2.1 e.2.2 0 .module with
    | none => exact MemOnly.refl s
    | some u => exact (mergeAt_memOnly hm).trans (.of rfl rfl rfl)

theorem specFlush_memOnly {s t : State} {step : Nat} {e : SpecEntry} {ag : Agent} (h : s.specFlush step e ag = some t) :
    MemOnly s t := by
  simp only [State.specFlush] at h
  split at h
  · cases h; exact MemOnly.refl s
  · split at h
    · cases h; exact headerAdd_memOnly s _ _ _
    · exact mergeAt_memOnly h

end Sys2Proof.Machine
end

