-- ==== Sys2Proof/Laws/Exec.lean ====
section
/-!
SUPPORT. The one form that every command's meaning has, so that a rule over all commands is one case split made here; and
what a Gnomon tick changes.
-/
namespace Sys2Proof.Machine

/-- Every command but POWER_ON and RECOVERY_BUNDLE runs an effect under `runPart`: gated on the module being in service, and
ended by `finish`. -/
theorem exec_form (c : Instr) (s : State) (h1 : ∀ e, c ≠ .powerOn e) (h2 : ∀ b, c ≠ .recoveryBundle b) :
    ∃ ok f, exec c s = runPart ok s f := by
  cases c
  case powerOn e => exact absurd rfl (h1 e)
  case recoveryBundle b => exact absurd rfl (h2 b)
  all_goals first
    | exact ⟨_, _, rfl⟩
    | exact ⟨true, _, rfl⟩

/-- What a command that answers has done: nothing, an effect ended by `finish`, or (a bundle that recovery refuses) a write
to flash. -/
theorem exec_next {c : Instr} {s t : State} (h : exec c s = .next t) :
    t = s ∨ (∃ x, t = finish s x) ∨ ∃ b, t = s.putSlot 0 0 b := by
  by_cases h1 : ∃ e, c = .powerOn e
  · obtain ⟨e, rfl⟩ := h1
    simp only [exec, execPowerOn, Host.Outcome.next.injEq] at h
    split at h
    · exact .inr (.inl ⟨_, h.symm⟩)
    · exact .inl h.symm
  · by_cases h2 : ∃ b, c = .recoveryBundle b
    · obtain ⟨b, rfl⟩ := h2
      simp only [exec, execRecoveryBundle, Host.Outcome.next.injEq] at h
      split at h
      · exact .inl h.symm
      · split at h
        · exact .inr (.inr ⟨b, h.symm⟩)
        · exact .inr (.inl ⟨_, h.symm⟩)
    · obtain ⟨ok, f, hf⟩ := exec_form c s (by simpa using h1) (by simpa using h2)
      rw [hf] at h
      simp only [runPart, runOn] at h
      split at h
      · simp only [Host.Outcome.next.injEq] at h
        split at h
        · exact .inl h.symm
        · exact .inr (.inl ⟨_, h.symm⟩)
      · cases h

/-! ## Ticks -/

/-- `t` is `s` with other registers, and perhaps a free value drawn. -/
def RegsOnly (s t : State) : Prop := t = { s with regs := t.regs, freeCount := t.freeCount }

theorem RegsOnly.refl (s : State) : RegsOnly s s := rfl

theorem RegsOnly.trans {s t u : State} (h : RegsOnly s t) (k : RegsOnly t u) : RegsOnly s u := by
  unfold RegsOnly at *; rw [h] at k; rw [k]

theorem bump_regsOnly (s : State) (p o n : Nat) : RegsOnly s (s.bump p o n) := by
  simp only [State.bump]; split <;> rfl

theorem slotEnd_regsOnly (s : State) : RegsOnly s s.slotEnd := by
  unfold State.slotEnd
  generalize List.range 16 = l
  induction l generalizing s with
  | nil => exact RegsOnly.refl s
  | cons p l ih =>
    rw [List.foldl_cons]
    refine RegsOnly.trans ?_ (ih _)
    split
    · split
      · exact bump_regsOnly s _ _ _
      · exact RegsOnly.refl s
    · exact RegsOnly.refl s

/-- A tick changes time and registers alone. -/
theorem tick_regsOnly (s : State) (h : s.pow.off = false) : RegsOnly
    { s with now := s.now + 1, gn := { s.gn with count := (s.gn.count + 1) % 2 ^ 64 } } s.tick := by
  simp only [State.tick, h, Bool.false_eq_true, if_false]
  split
  · exact RegsOnly.refl _
  · have k := slotEnd_regsOnly s
    unfold RegsOnly at *
    rw [k]

end Sys2Proof.Machine
end

