-- ==== Sys2Proof/Laws/Issue.lean ====
section
/-!
SUPPORT. What the issue of a tile instruction does, said once: `issue_runs` for an instruction that nothing holds, and
`advance_stream` for the progress of its stream.
-/
namespace Sys2Proof.Machine

/-! ## Scratch bytes -/

theorem Tile.byte_setByte_same (x : Tile) {o : Nat} (b : Byte) (h : o < scratchSize) : (x.setByte o b).byte o = b := by
  simp [Tile.byte, Tile.setByte, h]

theorem Tile.byte_setByte_other (x : Tile) {o p : Nat} (b : Byte) (h : o ≠ p) : (x.setByte o b).byte p = x.byte p := by
  unfold Tile.setByte
  split
  · simp only [Tile.byte]; rw [sget_sset_other _ _ _ _ h]
  · rfl

theorem Tile.byte_setBytes_out (x : Tile) (o p : Nat) (l : List Byte) (h : p < o ∨ o + l.length ≤ p) :
    (x.setBytes o l).byte p = x.byte p := by
  induction l generalizing x o with
  | nil => rfl
  | cons b l ih =>
    simp only [Tile.setBytes, List.length_cons] at *
    rw [ih _ _ (by omega), Tile.byte_setByte_other _ _ (by omega)]

theorem Tile.byte_setBytes_in (x : Tile) (o i : Nat) (l : List Byte) (h : i < l.length) (hs : o + i < scratchSize) :
    (x.setBytes o l).byte (o + i) = l[i] := by
  induction l generalizing x o i with
  | nil => simp at h
  | cons b l ih =>
    simp only [Tile.setBytes]
    cases i with
    | zero => rw [Tile.byte_setBytes_out _ _ _ _ (by omega)]; exact Tile.byte_setByte_same _ _ hs
    | succ i =>
      have : o + (i + 1) = o + 1 + i := by omega
      rw [this]
      simpa using ih (x.setByte o b) (o + 1) i (by simpa using h) (by omega)

/-- One byte of scratch after a run of bytes is written. -/
theorem Tile.byte_setBytes (x : Tile) (o p : Nat) (l : List Byte) : (x.setBytes o l).byte p =
    if o ≤ p ∧ p < o + l.length ∧ p < scratchSize then l.getD (p - o) 0 else x.byte p := by
  split
  · rename_i h
    obtain ⟨i, rfl⟩ := Nat.exists_eq_add_of_le h.1
    have hi : i < l.length := by omega
    rw [Tile.byte_setBytes_in x o i l hi h.2.2]
    simp [hi]
  · rename_i h
    by_cases hs : p < scratchSize
    · exact Tile.byte_setBytes_out _ _ _ _ (by omega)
    · simp [Tile.byte, hs]

theorem Tile.datapath_setByte (x : Tile) (o : Nat) (b : Byte) : (x.setByte o b).datapath = x.datapath := by
  unfold Tile.setByte; split <;> rfl

theorem Tile.datapath_setBytes (x : Tile) (o : Nat) (l : List Byte) : (x.setBytes o l).datapath = x.datapath := by
  induction l generalizing x o with
  | nil => rfl
  | cons b l ih => rw [Tile.setBytes, ih, Tile.datapath_setByte]

theorem Tile.icount_setBytes (x : Tile) (o : Nat) (l : List Byte) : (x.setBytes o l).icount = x.icount := by
  induction l generalizing x o with
  | nil => rfl
  | cons b l ih => rw [Tile.setBytes, ih]; unfold Tile.setByte; split <;> rfl

/-! ## Progress of a stream -/

/-- `t` is `s` but for the place of site `n`'s tile in its stream and its Spectrum buffer. -/
structure Quiet (n : Nat) (s t : State) : Prop where
  data : (t.tile n).datapath = (s.tile n).datapath
  byte : ∀ o, (t.tile n).byte o = (s.tile n).byte o
  other : ∀ i, i ≠ n → t.tile i = s.tile i
  rest : { t with tiles := [] } = { s with tiles := [] }

theorem Quiet.refl (n : Nat) (s : State) : Quiet n s s := ⟨rfl, fun _ => rfl, fun _ _ => rfl, rfl⟩

theorem Quiet.trans {n : Nat} {s t u : State} (h : Quiet n s t) (k : Quiet n t u) : Quiet n s u :=
  ⟨k.data.trans h.data, fun o => (k.byte o).trans (h.byte o), fun i hi => (k.other i hi).trans (h.other i hi), k.rest.trans h.rest⟩

theorem modTile_quiet (s : State) (n : Nat) (f : Tile → Tile) (h : (f (s.tile n)).datapath = (s.tile n).datapath)
    (hb : (f (s.tile n)).scratch = (s.tile n).scratch) : Quiet n s (s.modTile n f) where
  data := by rw [State.tile_modTile_same]; exact h
  byte o := by rw [State.tile_modTile_same]; simp only [Tile.byte, hb]
  other i hi := s.tile_modTile_other f (Ne.symm hi)
  rest := rfl

theorem setTile_quiet (s : State) (n : Nat) (x : Tile) (h : x.datapath = (s.tile n).datapath)
    (hb : x.scratch = (s.tile n).scratch) : Quiet n s (s.setTile n x) := modTile_quiet s n (fun _ => x) h hb

theorem flushEntry_quiet (s : State) (n : Nat) (e : SpecEntry) : Quiet n s (s.flushEntry n e) := by
  refine modTile_quiet s n _ ?_ ?_ <;> (dsimp only; split <;> rfl)

theorem flushSpec_quiet (s : State) (n : Nat) : Quiet n s (s.flushSpec n) := by
  simp only [State.flushSpec]
  refine Quiet.trans ?_ (modTile_quiet _ n _ rfl rfl)
  generalize (s.tile n).spectrum = es
  induction es generalizing s with
  | nil => exact Quiet.refl n s
  | cons e es ih => exact (flushEntry_quiet s n e).trans (ih _)

theorem closeTile_quiet (s : State) (n tag : Nat) (again atEnd : Bool) : Quiet n s (s.closeTile n tag again atEnd) := by
  simp only [State.closeTile]
  have h : Quiet n s (if ((s.tile n).specStep == tag) = true then s.flushSpec n else s) := by
    split
    · exact flushSpec_quiet s n
    · exact Quiet.refl n s
  split
  · exact h
  · exact h.trans (modTile_quiet _ n _ rfl rfl)

theorem reachNext_quiet (s : State) (n : Nat) : Quiet n s (s.reachNext n) := by
  simp only [State.reachNext]
  split
  · split
    · refine modTile_quiet s n _ ?_ ?_ <;> (unfold Tile.reach; split <;> rfl)
    · exact Quiet.refl n s
  · exact Quiet.refl n s

theorem addrFault_tiles (s : State) (ag : Agent) (a : Nat) : (s.addrFault ag a).tiles = s.tiles := by
  simp only [State.addrFault]
  have h : ∀ p, (if (pageKind p == kTile || pageKind p == kPcie) = true then s.logErr p a else s.logAddr p a).tiles = s.tiles := by
    intro p; split <;> rfl
  split
  · exact h _
  · exact h _

theorem tile_of_tiles {s t : State} (h : s.tiles = t.tiles) (i : Nat) : s.tile i = t.tile i := by simp only [State.tile, h]

theorem putScratch_tile (s : State) (n o : Nat) (d : List Byte) : (s.putScratch n o d).tile n = (s.tile n).setBytes o d := by
  simp only [State.putScratch]; split
  · rw [tile_of_tiles (addrFault_tiles _ _ _)]; simp
  · simp

theorem natLe_length (n x : Nat) : (natLe n x).length = n := by
  induction n generalizing x with
  | zero => rfl
  | succ n ih => simp [natLe, ih]

theorem scalarBytes_length (s : State) : s.scalarBytes.length = 64 := by
  simp [State.scalarBytes, natLe_length]

/-! ## What the records of an image depend on -/

/-- The parts of the state that a coherent reader looks at. -/
structure SameImage (s t : State) : Prop where
  adm : t.adm = s.adm
  gn : t.gn = s.gn
  map : t.map = s.map
  mem : t.mem = s.mem
  slices : t.slices = s.slices
  spare : t.spare = s.spare

theorem SameImage.peek {s t : State} (h : SameImage s t) (a n : Nat) : t.peek a n = s.peek a n := by
  have h1 : t.placesNow = s.placesNow := by simp only [State.placesNow, h.adm]
  have h2 : ∀ l, t.homeOf l = s.homeOf l := fun l => by simp only [State.homeOf, h1]
  have h3 : ∀ n, t.siteOf n = s.siteOf n := fun n => by simp only [State.siteOf, h.map]
  have h4 : ∀ d, t.spareSlices d = s.spareSlices d := fun d => by
    simp only [State.spareSlices, State.carrying, State.siteEnt, h.map, h.spare]
  have h5 : ∀ d p, t.sliceAt d p = s.sliceAt d p := fun d p => by simp only [State.sliceAt, h3, h4]
  have h6 : ∀ l, t.homeSlice l = s.homeSlice l := fun l => by simp only [State.homeSlice, h2, h5]
  have h7 : ∀ a n, t.bytes a n = s.bytes a n := fun a n => by simp only [State.bytes, State.byte, h.mem]
  have h8 : ∀ l, t.peekLine l = s.peekLine l := fun l => by
    simp only [State.peekLine, State.slice, h6, h7, h.slices]
  simp only [State.peek, h8, State.bytes, State.byte, h.mem, h.slices]

theorem SameImage.peekN {s t : State} (h : SameImage s t) (a n : Nat) : t.peekN a n = s.peekN a n := by
  simp only [State.peekN, h.peek]

theorem SameImage.tileOf {s t : State} (h : SameImage s t) (n : Nat) : t.tileOf n = s.tileOf n := by
  simp only [State.tileOf, State.siteEnt, h.map]

theorem SameImage.scalarsAt {s t : State} (h : SameImage s t) (n : Nat) : t.scalarsAt n = s.scalarsAt n := by
  simp only [State.scalarsAt, State.stepTile, h.adm, h.tileOf, h.peekN]

theorem SameImage.streamOf {s t : State} (h : SameImage s t) (n : Nat) : t.streamOf n = s.streamOf n := by
  have h1 : ∀ i k z m, t.tileRec i k z m = s.tileRec i k z m := fun i k z m => by simp only [State.tileRec, h.peekN]
  have h2 : ∀ i m, t.streamRec i m = s.streamRec i m := fun i m => by simp only [State.streamRec, h1, h.peekN]
  simp only [State.streamOf, State.carrying, State.siteEnt, h2, h.adm, h.gn, h.map, h.tileOf]
  rfl

theorem setTile_image (s : State) (n : Nat) (x : Tile) : SameImage s (s.setTile n x) := ⟨rfl, rfl, rfl, rfl, rfl, rfl⟩

/-- Nothing else of the state enters them. -/
theorem Quiet.image {n : Nat} {s t : State} (h : Quiet n s t) : SameImage s t :=
  have e := h.rest
  ⟨(congrArg State.adm e :), (congrArg State.gn e :), (congrArg State.map e :), (congrArg State.mem e :),
    (congrArg State.slices e :), (congrArg State.spare e :)⟩

theorem StreamOnly.image {n : Nat} {s t : State} (h : StreamOnly n s t) : SameImage s t :=
  have e := h.rest
  ⟨(congrArg State.adm e :), (congrArg State.gn e :), (congrArg State.map e :), (congrArg State.mem e :),
    (congrArg State.slices e :), (congrArg State.spare e :)⟩

theorem StreamOnly.refl (n : Nat) (s : State) : StreamOnly n s s :=
  ⟨rfl, fun _ _ => rfl, fun _ _ => rfl, fun _ => ⟨rfl, rfl⟩, rfl⟩

theorem StreamOnly.trans {n : Nat} {s t u : State} (h : StreamOnly n s t) (k : StreamOnly n t u) : StreamOnly n s u where
  data := k.data.trans h.data
  scratch o ho := by rw [k.scratch o (by rw [h.image.scalarsAt]; exact ho), h.scratch o ho]
  other i hi := (k.other i hi).trans (h.other i hi)
  reg hb := by
    obtain ⟨a, b⟩ := h.reg hb
    obtain ⟨c, d⟩ := k.reg (by rw [h.image.scalarsAt]; exact hb)
    exact ⟨c.trans a, d.trans b⟩
  rest := k.rest.trans h.rest

theorem Quiet.stream {n : Nat} {s t : State} (h : Quiet n s t) : StreamOnly n s t where
  data := h.data
  scratch o _ := h.byte o
  other := h.other
  reg _ := ⟨(congrArg State.regs h.rest :), (congrArg State.events h.rest :)⟩
  rest := (congrArg (fun x : State => { x with regs := [], events := [] }) h.rest :)

/-- What an address fault leaves. -/
theorem addrFault_rest (s : State) (ag : Agent) (a : Nat) :
    { s.addrFault ag a with regs := [], events := [] } = { s with regs := [], events := [] } := by
  simp only [State.addrFault]
  have h : ∀ p, { (if (pageKind p == kTile || pageKind p == kPcie) = true then s.logErr p a else s.logAddr p a) with
      regs := [], events := [] } = { s with regs := [], events := [] } := by intro p; split <;> rfl
  split
  · exact h _
  · exact h _

theorem putScratch_other (s : State) (n o : Nat) (d : List Byte) {j : Nat} (hj : j ≠ n) : (s.putScratch n o d).tile j = s.tile j := by
  simp only [State.putScratch]
  split
  · rw [tile_of_tiles (addrFault_tiles _ _ _)]; exact State.tile_modTile_other _ _ (Ne.symm hj)
  · exact State.tile_modTile_other _ _ (Ne.symm hj)

theorem putScratch_rest (s : State) (n o : Nat) (d : List Byte) :
    { s.putScratch n o d with tiles := [], regs := [], events := [] } = { s with tiles := [], regs := [], events := [] } := by
  simp only [State.putScratch]
  generalize hx : s.modTile n (·.setBytes o d) = x
  have h : { x with tiles := [], regs := [], events := [] } = { s with tiles := [], regs := [], events := [] } := by rw [← hx]; rfl
  split
  · have h2 := addrFault_rest x (.tile n) (max o scratchSize)
    exact (congrArg (fun x : State => { x with tiles := [] }) h2 :).trans h
  · exact h

/-- Inside scratch, a write of it changes nothing but its tile. -/
theorem putScratch_in (s : State) (n o : Nat) (d : List Byte) (h : o + d.length ≤ scratchSize) :
    s.putScratch n o d = s.modTile n (·.setBytes o d) := by
  simp only [State.putScratch]
  rw [if_neg (by simp; omega)]

theorem writeScalars_stream (s : State) (n : Nat) : StreamOnly n s (s.writeScalars n) := by
  simp only [State.writeScalars]
  cases ha : s.adm.active with
  | none => exact StreamOnly.refl n s
  | some i =>
    have hk : s.scalarsAt n = some (s.stepTile i (s.tileOf n)).scalars := by simp only [State.scalarsAt, ha]
    dsimp only
    generalize (s.stepTile i (s.tileOf n)).scalars = o at hk ⊢
    refine ⟨?_, fun p hp => ?_, fun j hj => putScratch_other s n o _ hj, fun hb => ?_, putScratch_rest s n o _⟩
    · rw [putScratch_tile, Tile.datapath_setBytes]
    · rw [putScratch_tile]
      exact Tile.byte_setBytes_out _ _ _ _ (by rw [scalarBytes_length]; exact hp o hk)
    · rw [putScratch_in s n o _ (by rw [scalarBytes_length]; exact hb o hk)]
      exact ⟨rfl, rfl⟩

/-! ## Advance -/

theorem Tile.replayEnd_keeps (x : Tile) : x.replayEnd.icount = x.icount ∧ x.replayEnd.scratch = x.scratch ∧
    x.replayEnd.datapath = x.datapath := by
  simp only [Tile.replayEnd]; split <;> exact ⟨rfl, rfl, rfl⟩

theorem Tile.counted_keeps (x : Tile) : x.counted.icount = x.icount + 1 ∧ x.counted.scratch = x.scratch ∧
    x.counted.datapath = x.datapath := Tile.replayEnd_keeps { x with icount := x.icount + 1 }

theorem Tile.moved_keeps (x : Tile) (r : StreamRec) (st : StepTile) (p : Nat) : (x.moved r st p).icount = x.icount ∧
    (x.moved r st p).scratch = x.scratch ∧ (x.moved r st p).datapath = x.datapath := by
  simp only [Tile.moved]; split
  · exact ⟨rfl, rfl, rfl⟩
  · split
    · split <;> exact ⟨rfl, rfl, rfl⟩
    · exact ⟨rfl, rfl, rfl⟩

/-- A quiet change that also keeps the count of instructions. -/
theorem closeTile_icount (s : State) (n tag : Nat) (again atEnd : Bool) :
    ((s.closeTile n tag again atEnd).tile n).icount = (s.tile n).icount := by
  have he : ∀ (s : State) e, ((s.flushEntry n e).tile n).icount = (s.tile n).icount := by
    intro s e; simp only [State.flushEntry, State.tile_modTile_same]; split <;> rfl
  have hf : ∀ (es : List SpecEntry) (s : State), ((es.foldl (fun s e => s.flushEntry n e) s).tile n).icount = (s.tile n).icount := by
    intro es
    induction es with
    | nil => intro s; rfl
    | cons e es ih => intro s; rw [List.foldl_cons, ih, he]
  have hs : ((s.flushSpec n).tile n).icount = (s.tile n).icount := by
    simp only [State.flushSpec, State.tile_modTile_same]; exact hf _ _
  simp only [State.closeTile]
  split <;> split <;> simp [hs]

theorem reachNext_icount (s : State) (n : Nat) : ((s.reachNext n).tile n).icount = (s.tile n).icount := by
  simp only [State.reachNext]
  split
  · split
    · rw [State.tile_modTile_same]; unfold Tile.reach; split <;> rfl
    · rfl
  · rfl

theorem writeScalars_icount (s : State) (n : Nat) : ((s.writeScalars n).tile n).icount = (s.tile n).icount := by
  simp only [State.writeScalars]
  split
  · rw [putScratch_tile, Tile.icount_setBytes]
  · rfl

/-- A stream's progress counts its instruction, and leaves all but what `StreamOnly` names. -/
theorem advance_stream (s : State) (n : Nat) : StreamOnly n s (s.advance n) ∧
    ((s.streamOf n).isSome → ((s.advance n).tile n).icount = (s.tile n).icount + 1) := by
  unfold State.advance
  cases hs : s.streamOf n with
  | none => exact ⟨StreamOnly.refl n s, by simp⟩
  | some ir =>
    obtain ⟨i, r⟩ := ir
    dsimp only
    generalize s.stepTile i (s.tileOf n) = st
    generalize (s.rbaseRec i (s.tileOf n)).2.1 = p
    obtain ⟨c1, c2, c3⟩ := Tile.counted_keeps (s.tile n)
    obtain ⟨m1, m2, m3⟩ := Tile.moved_keeps (s.tile n).counted r st p
    generalize (s.tile n).counted.moved r st p = y at *
    have h1 := (setTile_quiet s n y (m3.trans c3) (m2.trans c2)).stream
    have i1 : ((s.setTile n y).tile n).icount = (s.tile n).icount + 1 := by rw [State.tile_setTile_same, m1, c1]
    have h2 : ∀ c : Bool, StreamOnly n s (if c = true then (s.setTile n y).writeScalars n else s.setTile n y) ∧
        ((if c = true then (s.setTile n y).writeScalars n else s.setTile n y).tile n).icount = (s.tile n).icount + 1 := by
      intro c
      split
      · exact ⟨h1.trans (writeScalars_stream _ n), by rw [writeScalars_icount, i1]⟩
      · exact ⟨h1, i1⟩
    have h2 := h2 (y.reentry.isNone && y.pos == r.proLen && !y.waitVerdict)
    generalize (if (y.reentry.isNone && y.pos == r.proLen && !y.waitVerdict) = true then
      (s.setTile n y).writeScalars n else s.setTile n y) = u at *
    obtain ⟨k1, k2⟩ := h2
    refine ⟨StreamOnly.trans ?_ (reachNext_quiet _ n).stream, fun _ => ?_⟩
    · split
      · exact k1.trans (closeTile_quiet _ n _ _ _).stream
      · exact k1
    · rw [reachNext_icount]
      split
      · rw [closeTile_icount, k2]
      · exact k2

/-- Nothing holds the instruction, so its tile runs a stream. -/
theorem holds_stream {s : State} {t : Nat} {w : BitVec 128} {rs ws : List (Nat × Nat)} (h : s.holds t w rs ws = none) :
    (s.streamOf t).isSome := by
  simp only [State.holds] at h
  split at h
  · cases h
  · rename_i hr
    simp only [Bool.or_eq_true, not_or] at hr
    have h1 := hr.1.1.1.1
    simp only [State.running] at h1
    cases hs : (s.streamOf t).isSome <;> simp_all

/-- An instruction that can issue performs its effect, and its stream moves on. -/
theorem issue_runs {s : State} {t : Nat} {w : BitVec 128} {q : Issue} (h : s.CanIssue t w q) (f : State → State) :
    s.issue t w q f = (f (s.ready t q.reads q.writes)).advance t := by
  simp [State.issue, h.form, h.free, h.content, h.also, h.head, h.sound, h.acc]

theorem Tile.retirePf_nil (x : Tile) : x.retirePf [] = x := by
  have : (x.pf.filter fun e => !overlaps [(e.2.dst, e.2.len)] []) = x.pf := by
    rw [List.filter_eq_self]; intro e _; simp [overlaps]
  simp only [Tile.retirePf, this]

/-- Reads of scratch leave everything but registers and events. -/
theorem faultReads_rest (s : State) (t : Nat) (rs : List (Nat × Nat)) :
    { s.faultReads t rs with regs := [], events := [] } = { s with regs := [], events := [] } := by
  unfold State.faultReads
  induction rs generalizing s with
  | nil => rfl
  | cons r rs ih =>
    obtain ⟨o, n⟩ := r
    rw [List.foldl_cons]
    refine (ih _).trans ?_
    dsimp only; split
    · exact addrFault_rest s _ _
    · rfl

theorem faultReads_in (s : State) (t : Nat) (rs : List (Nat × Nat)) (h : inScratch rs) : s.faultReads t rs = s := by
  unfold State.faultReads
  induction rs with
  | nil => rfl
  | cons r rs ih =>
    obtain ⟨o, n⟩ := r
    have h1 := h (o, n) (by simp)
    rw [List.foldl_cons]
    have : ¬ (scratchSize < o + n) := by simpa using h1
    simp only [gt_iff_lt, this, decide_false, Bool.and_false, Bool.false_eq_true, if_false]
    exact ih fun r hr => h r (by simp [hr])

/-- The state in which an instruction performs its effect: other tiles, and its own but for retired prefetch entries. -/
theorem ready_tiles (s : State) (t : Nat) (rs ws : List (Nat × Nat)) :
    (∀ i, i ≠ t → (s.ready t rs ws).tile i = s.tile i) ∧ (s.ready t rs ws).tile t = (s.tile t).retirePf ws := by
  have h : ∀ i, (s.faultReads t rs).tile i = s.tile i := fun i => tile_of_tiles (congrArg State.tiles (faultReads_rest s t rs) :) i
  refine ⟨fun i hi => ?_, ?_⟩
  · rw [State.ready, State.tile_modTile_other _ _ (Ne.symm hi), h]
  · rw [State.ready, State.tile_modTile_same, h]

theorem ready_rest (s : State) (t : Nat) (rs ws : List (Nat × Nat)) :
    { s.ready t rs ws with tiles := [], regs := [], events := [] } = { s with tiles := [], regs := [], events := [] } :=
  (congrArg (fun x : State => { x with tiles := [] }) (faultReads_rest s t rs) :)

theorem ready_regs (s : State) (t : Nat) (rs ws : List (Nat × Nat)) (h : inScratch rs) : (s.ready t rs ws).regs = s.regs := by
  unfold State.ready
  rw [faultReads_in s t rs h]; rfl

theorem ready_image (s : State) (t : Nat) (rs ws : List (Nat × Nat)) : SameImage s (s.ready t rs ws) :=
  have e := ready_rest s t rs ws
  ⟨(congrArg State.adm e :), (congrArg State.gn e :), (congrArg State.map e :), (congrArg State.mem e :),
    (congrArg State.slices e :), (congrArg State.spare e :)⟩

/-! ## Completion -/

/-- An instruction that can issue answers with its effect, its stream's progress, and the end of the command. -/
theorem issue_performs {s : State} {t : Nat} {w : BitVec 128} {q : Issue} (hc : s.CanIssue t w q) {fits : Bool}
    (hw : fits = true) (f : State → State) :
    Performs (instrRun fits t s fun s => s.issue t w q f) t (f (s.ready t q.reads q.writes)) := by
  have h := tileRun_ends hc.site hc.awake (fun s => if fits then s.issue t w q f else s)
  simp only [hw, if_true, issue_runs hc] at h
  simpa [Performs, instrRun, hw] using h

/-- An effect on the tile alone that leaves its place and its scratch, and no failing unit: the end of such an instruction. -/
theorem tile_effect {s : State} {t : Nat} {w : BitVec 128} {q : Issue} (hc : s.CanIssue t w q) (hq : q.writes = []) {fits : Bool}
    (hw : fits = true) (g : Tile → Tile)
    (h1 : ∀ x, (g x).icount = x.icount) (h2 : ∀ x, (g x).scratch = x.scratch) :
    TileIssues (instrRun fits t s fun s => s.issue t w q (·.modTile t g)) s t q.reads g := by
  have hp := issue_performs hc hw (·.modTile t g)
  rw [hq] at hp
  obtain ⟨r1, r2⟩ := ready_tiles s t q.reads []
  rw [Tile.retirePf_nil] at r2
  have hr := ready_rest s t q.reads []
  obtain ⟨a1, a2⟩ := advance_stream ((s.ready t q.reads []).modTile t g) t
  have hI : SameImage s ((s.ready t q.reads []).modTile t g) :=
    have e := ready_image s t q.reads []
    ⟨e.adm, e.gn, e.map, e.mem, e.slices, e.spare⟩
  have hs : { ((s.ready t q.reads []).modTile t g).advance t with tiles := [], regs := [], events := [] } =
      { s with tiles := [], regs := [], events := [] } := a1.rest.trans hr
  have hfail : (((s.ready t q.reads []).modTile t g).advance t).failing = [] :=
    (congrArg State.failing hs :).trans hc.awake.settled.2.1
  have hsp : (((s.ready t q.reads []).modTile t g).advance t).spare.spent = false := by
    have : (((s.ready t q.reads []).modTile t g).advance t).spare = s.spare := (congrArg State.spare hs :)
    rw [this]; exact hc.awake.settled.2.2
  refine hp.gives (State.spared_of hfail hsp) fun u k => ?_
  have hk : ∀ i, u.tile i = (((s.ready t q.reads []).modTile t g).advance t).tile i := fun i =>
    tile_of_tiles (congrArg State.tiles k.body :) i
  have hx : (((s.ready t q.reads []).modTile t g).tile t) = g (s.tile t) := by rw [State.tile_modTile_same, r2]
  refine ⟨?_, ?_, fun o ho => ?_, fun i hi => ?_, fun hb hin page off ho hn => ?_, ?_⟩
  · rw [hk, a2 (by rw [hI.streamOf]; exact holds_stream hc.free), hx, h1]
  · rw [hk, a1.data, hx]
  · rw [hk, a1.scratch o (by rw [hI.scalarsAt]; exact ho), hx]
    simp only [Tile.byte, h2]
  · rw [hk, a1.other i hi, State.tile_modTile_other _ _ (Ne.symm hi), r1 i hi]
  · rw [k.reg page off ho hn]
    apply State.rd_congr
    rw [(a1.reg (by rw [hI.scalarsAt]; exact hb)).1]
    exact ready_regs s t q.reads [] hin
  · have := congrArg State.body hs
    exact (congrArg (fun x : State => { x with tiles := [] }) k.body :).trans this

end Sys2Proof.Machine
end

