-- ==== Sys2Proof/Laws/Tile.lean ====
section
/-!
SUPPORT. What the shared operations of tile instructions leave alone: Spectrum counting (`Quiet`), conversion flags and
rounding-base entries.
-/
namespace Sys2Proof.Machine

theorem specOut_quiet (s : State) (n : Nat) (e : SpecEntry) : Quiet n s (s.specOut n e) :=
  (flushEntry_quiet s n e).trans (modTile_quiet _ n _ rfl rfl)

theorem specBegin_quiet (s : State) (n tag : Nat) : Quiet n s (s.specBegin n tag) := by
  unfold State.specBegin
  refine Quiet.trans ?_ (modTile_quiet _ n _ rfl rfl)
  split
  · exact flushSpec_quiet s n
  · exact Quiet.refl n s

theorem specRoom_quiet (s : State) (n tensor z sa nf : Nat) : Quiet n s (s.specRoom n tensor z sa nf) := by
  unfold State.specRoom; split
  · split
    · exact specOut_quiet s n _
    · exact Quiet.refl n s
  · exact Quiet.refl n s

theorem specEvict_quiet (s : State) (n : Nat) : Quiet n s (s.specEvict n) := by
  unfold State.specEvict; split
  · split
    · exact specOut_quiet s n _
    · exact Quiet.refl n s
  · exact Quiet.refl n s

theorem specEnter_quiet (s : State) (n tensor z sa nf : Nat) : Quiet n s (s.specEnter n tensor z sa nf) := by
  simp only [State.specEnter]; split
  · exact modTile_quiet s n _ rfl rfl
  · exact (specEvict_quiet s n).trans (modTile_quiet _ n _ rfl rfl)

/-- Counting events changes the Spectrum buffer of its tile and nothing else. -/
theorem countSpec_quiet (s : State) (n tensor tag z sa nf : Nat) : Quiet n s (s.countSpec n tensor tag z sa nf) := by
  unfold State.countSpec; split
  · exact Quiet.refl n s
  · exact ((specBegin_quiet s n tag).trans (specRoom_quiet _ n _ _ _ _)).trans (specEnter_quiet _ n _ _ _ _)

/-- Conversion flags change step causes alone. -/
theorem convFlags_rest (s : State) (tag traffic nf sats : Nat) :
    { s.convFlags tag traffic nf sats with steps := {} } = { s with steps := {} } := by
  have hc : ∀ (s : State) i, { s.cause tag i with steps := {} } = { s with steps := {} } := by
    intro s i; unfold State.cause; split <;> rfl
  have h : ∀ s : State, { (if nf > 0 then s.cause tag cNonfinite else s) with steps := {} } = { s with steps := {} } := by
    intro s; split
    · exact hc s _
    · rfl
  simp only [State.convFlags]; split
  · exact (hc _ _).trans (h s)
  · exact h s

/-- Without a non-finite or saturated result there is nothing to flag. -/
theorem convFlags_none (s : State) (tag traffic : Nat) : s.convFlags tag traffic 0 0 = s := by simp [State.convFlags]

/-- A rounding-base entry is read through the Shade, and the stream stands one entry further. -/
theorem rbaseTake_tile (s : State) (n : Nat) : ((s.rbaseTake n).2.2.tile n).datapath.uncached = (s.tile n).datapath.uncached := by
  simp only [State.rbaseTake]; split
  · rfl
  · rename_i a _
    dsimp only
    rw [State.tile_modTile_same]
    have h := (devRead_memOnly s a 8 5 (.tile n) false false).tiles n
    exact (congrArg Tile.datapath h :)

end Sys2Proof.Machine
end

