-- ==== Sys2Proof/Tests/Slice0.lean ====
section
/-!
SUPPORT. Tests of the model: commands that the hardware cannot receive, the worked examples of the manual, one step of a few
commands, and for each statement with hypotheses one theorem that shows states and operands that meet them, clause by clause.
-/
-- one theorem at a time: each takes a thread of its own otherwise
set_option Elab.async false
set_option maxRecDepth 100000

open Sys2Proof Sys2Proof.Machine
namespace Sys2Proof.Tests

/-- A module in service that has run nothing. -/
def svc : State := { State.reset with pow := { off := false } }

/-- An image with one stream: tile 0, no prologue, a body of 10 words, LAST_NS 5. -/
def img : Image :=
  { base := 0, len := 0, id := 1, numerics := 0, seed := 0, heritage := false, continues := false, slack := 0, modules := 1,
    placement := [], proFrames := 0, bodyFrames := 4, sects := [(1, { count := 1, off := 0x100, len := 32, index := 0 })] }

/-- A module that runs `img`. -/
def run : State :=
  { svc with gn := { running := true }, adm := { active := some img }, mem := [(0xC, 5), (0x114, 10)] }

/-- A word: opcode, bits 119 to 96, NB, bits 63 to 0. -/
def wd (op mid nb lo : Nat) : BitVec 128 := BitVec.ofNat 128 (op * 2 ^ 120 + mid * 2 ^ 96 + nb * 2 ^ 64 + lo)

/-- `run` with site 0's tile changed. -/
def run0 (f : Tile → Tile) : State := run.modTile 0 f

/-- `x` with an n-byte number at a scratch offset. -/
def put (x : Tile) (o n v : Nat) : Tile := x.setBytes o (natLe n v)

/-- `s` with some ports UP. -/
def withUp (s : State) (l : List Nat) : State := l.foldl (fun s p => s.setPortSt p 3) s

/-- A command of ring 3: opcode, LEN, flags, arguments and payload (Table 11.4). -/
def ringCmd (op len flags a0 a1 a2 : Nat) (pay : List Byte) : Cmd :=
  { seq := 7, ring := 3, idx := 0
    bytes := natLe 1 op ++ natLe 1 flags ++ natLe 1 len ++ natLe 5 0 ++ natLe 8 a0 ++ natLe 8 a1 ++ natLe 8 a2 ++
      List.replicate 32 0 ++ pay }

/-- `s` with one command waiting. -/
def withCmd (s : State) (c : Cmd) : State := { s with host := { s.host with cmds := [c], nextSeq := 8 } }

/-- The home slice of a line while nothing runs. -/
def homeK (n : Nat) : Nat := (run.homeSlice n).getD 0

/-- `run` whose home slice of line `n` is `x`. -/
def withSlice (n : Nat) (x : Slice) : State := { run with slices := [(homeK n, x)] }

/-- A CLEAN line with its home set. -/
def cleanLine (n : Nat) : Line := { line := n, set := (run.homeOf n).set, st := .clean, data := List.replicate 256 9 }

/-- `s` as module 0 of a 2 × 2 × 1 fabric. -/
def formed22 (s : State) : State := s.wr rayComPage 0x104 (2 + 2 * 32 + 2048)

/-- `run` in that fabric, port 0 UP and port 1 in the given state, port 0 holding `x`. -/
def fabric (x : Port) : State :=
  { withUp (formed22 run) [0] with ray := { map := some [0, 1, 2, 3], ports := [(0, x)] } }

/-- A snapshot header with an empty body: step 9, numerics and seed 0 (Table 13.9). -/
def snapHead : List Byte := natLe 8 0 ++ natLe 8 9 ++ List.replicate 80 0 ++ sha256 [] ++ List.replicate 128 0

/-- `run` whose tile 0 has a parity error that it can recover from, with its recovery record at 0x9000. -/
def recd : State :=
  (run0 fun x => { x with perr := some { off := 64, offs := [64, 65], acc := false, icount := 7 },
                          rpoint := some { addr := 0x9000, pos := 2, pass := 0, reentry := none, rbase := 1 },
                          icount := 7, pos := 6 }).setBytes 0x9000
    (natLe 8 0x1000 ++ natLe 8 (2 ^ 62 + 0x400) ++ natLe 4 0x100 ++ natLe 4 0 ++ natLe 8 0xFFFFFFFF)


/-- The state that an outcome answers. -/
def nextOf : Host.Outcome State Fault Refusal → State
  | .next t => t
  | _ => State.reset

def isNext : Host.Outcome State Fault Refusal → Bool
  | .next _ => true
  | _ => false

theorem isNext_spec {o : Host.Outcome State Fault Refusal} (h : isNext o = true) : o = .next (nextOf o) := by
  cases o <;> simp_all [isNext, nextOf]

/-- A property of an `Option`'s value, by looking at it. -/
theorem ofSome {α : Type} {o : Option α} {P : α → Prop} [DecidablePred P] (h : o.all (fun x => decide (P x)) = true) :
    ∀ x, o = some x → P x := by
  rintro x rfl
  simpa using h

def benign : BootEnv :=
  { alertClear := true, siteMapOk := true, softFusesOk := true, slotsOk := true, trainedFe := [(0, 2)], swept := [],
    rom := [1, 2], fuses := [3] }

theorem bootRest_on (s : State) (e : BootEnv) (ms late : Nat) (h : e.softFusesOk = true) (k : e.siteMapOk = true) :
    (s.bootRest e ms late).pow.off = false := by
  simp [State.bootRest, h, k]

/-- A module as shipped comes into service. -/
theorem reset_powerOn_on : (State.reset.powerOn benign).pow.off = false := by
  have h : (State.reset.cold.boot1.bootStep 0 1 10 0).1.selectSlot = some (State.reset.cold.boot1.bootStep 0 1 10 0).1 := by
    unfold State.selectSlot
    rw [if_pos (by decide +kernel)]
  unfold State.powerOn
  rw [if_neg (by decide +kernel)]
  simp only []
  rw [if_neg (by decide +kernel), h]
  exact bootRest_on _ _ _ _ rfl rfl

/-- `t` has the failing units of `s`, and is as far from lacking a spare. -/
def SameFailing (s t : State) : Prop := t.failing = s.failing ∧ t.spare.spent = s.spare.spent

theorem SameFailing.trans {s t u : State} (h : SameFailing s t) (k : SameFailing t u) : SameFailing s u :=
  ⟨k.1.trans h.1, k.2.trans h.2⟩

theorem SameFailing.foldl {β : Type} (f : State → β → State) (h : ∀ s x, SameFailing s (f s x)) (l : List β)
    (s : State) :
    SameFailing s (l.foldl f s) := by
  induction l generalizing s with
  | nil => exact ⟨rfl, rfl⟩
  | cons x l ih => exact (h s x).trans (ih _)

theorem SameFailing.bootStep (s : State) (a b c d : Nat) : SameFailing s (s.bootStep a b c d).1 := by
  unfold State.bootStep State.agRecord; exact ⟨rfl, rfl⟩

theorem SameFailing.measure (s : State) (k a v w : Nat) (h : List Byte) : SameFailing s (s.measure k a v w h) := by
  unfold State.measure; dsimp only; split <;> exact ⟨rfl, rfl⟩

theorem SameFailing.measureSlot (s : State) (n : Nat) : SameFailing s (s.measureSlot n) :=
  (SameFailing.measure _ _ _ _ _ _).trans (SameFailing.foldl _ (fun _ _ => SameFailing.measure _ _ _ _ _ _) _ _)

theorem SameFailing.boot2 (s : State) (e : BootEnv) : SameFailing s (s.boot2 e) := by
  unfold State.boot2
  dsimp only
  refine SameFailing.trans ?_ (SameFailing.trans (SameFailing.measureSlot _ _) ⟨rfl, rfl⟩)
  exact SameFailing.trans (t := s.modMg fun g => { g with log := [], digest := List.replicate 32 0 }) ⟨rfl, rfl⟩
    ((SameFailing.measure _ _ _ _ _ _).trans (SameFailing.measure _ _ _ _ _ _))

theorem SameFailing.agRecord (s : State) (n : Nat) (p : List Nat) : SameFailing s (s.agRecord n p) := by
  unfold State.agRecord; exact ⟨rfl, rfl⟩

theorem SameFailing.boot3 (s : State) : SameFailing s (s.boot3 benign) := by
  unfold State.boot3 State.tuneLanes
  dsimp only
  refine SameFailing.trans ?_ (SameFailing.foldl _ (fun s e => ?_) _ _)
  · exact ⟨rfl, rfl⟩
  · split
    · exact ⟨rfl, rfl⟩
    · exact SameFailing.agRecord _ _ _

theorem SameFailing.setFlag (s : State) (p o i : Nat) (b : Bool) : SameFailing s (s.setFlag p o i b) := ⟨rfl, rfl⟩

theorem SameFailing.modMg (s : State) (f : Mgmt → Mgmt) : SameFailing s (s.modMg f) := ⟨rfl, rfl⟩

theorem SameFailing.raise (s : State) (p i : Nat) : SameFailing s (s.raise p i) := by
  unfold State.raise; exact ⟨rfl, rfl⟩

theorem SameFailing.boot4 (s : State) : SameFailing s s.boot4 := by
  unfold State.boot4
  dsimp only
  refine SameFailing.trans ?_ (((SameFailing.modMg _ _).trans (SameFailing.setFlag _ _ _ _ _)).trans (SameFailing.agRecord _ _ _))
  split
  · exact ⟨rfl, rfl⟩
  · refine SameFailing.trans (SameFailing.foldl _ (fun s x => ?_) _ _) (SameFailing.measure _ _ _ _ _ _)
    split <;> exact ⟨rfl, rfl⟩

theorem SameFailing.setRowMv (s : State) (r : Nat) : SameFailing s (s.setRowMv r) := by
  unfold State.setRowMv
  exact SameFailing.foldl _ (fun s t => (⟨rfl, rfl⟩ : SameFailing s (s.wrN t 0x114 _))) _ _

theorem SameFailing.boot6 (s : State) : SameFailing s s.boot6 := by
  unfold State.boot6
  dsimp only
  refine SameFailing.trans ?_ (SameFailing.foldl _ (fun s r => SameFailing.setRowMv s r) _ _)
  exact ⟨rfl, rfl⟩

theorem SameFailing.boot7 (s : State) : SameFailing s (s.boot7 benign) := by
  unfold State.boot7
  dsimp only
  refine SameFailing.trans ?_ (SameFailing.modMg _ _)
  refine SameFailing.trans (SameFailing.foldl _ (fun s p => ?_) _ _) (SameFailing.foldl _ (fun s x => ?_) _ _)
  · exact ⟨rfl, rfl⟩
  · split
    · exact SameFailing.trans (t := s.setField (fePage x.1) offStatus 2 0 (1 + 2 * (x.2 % 4))) ⟨rfl, rfl⟩
        (SameFailing.raise _ _ _)
    · exact ⟨rfl, rfl⟩

theorem SameFailing.pow (s : State) (x : Power) : SameFailing s { s with pow := x } := ⟨rfl, rfl⟩

theorem SameFailing.bootRest (s : State) (ms : Nat) : SameFailing s (s.bootRest benign ms 0) := by
  have h1 : benign.softFusesOk = true := rfl
  have h2 : benign.siteMapOk = true := rfl
  have h3 : benign.alertClear = true := rfl
  unfold State.bootRest
  simp only [h1, h2, h3, Bool.not_true, Bool.false_eq_true, if_false, if_true]
  refine SameFailing.trans ?_ (SameFailing.pow _ _)
  refine SameFailing.trans ?_ (SameFailing.bootStep _ _ _ _ _)
  refine SameFailing.trans ?_ (SameFailing.boot7 _)
  refine SameFailing.trans ?_ (SameFailing.bootStep _ _ _ _ _)
  refine SameFailing.trans ?_ (SameFailing.boot6 _)
  refine SameFailing.trans ?_ (SameFailing.bootStep _ _ _ _ _)
  refine SameFailing.trans ?_ (SameFailing.setFlag _ _ _ _ _)
  refine SameFailing.trans ?_ (SameFailing.bootStep _ _ _ _ _)
  refine SameFailing.trans ?_ (SameFailing.boot4 _)
  refine SameFailing.trans ?_ (SameFailing.bootStep _ _ _ _ _)
  refine SameFailing.trans ?_ (SameFailing.boot3 _)
  refine SameFailing.trans ?_ (SameFailing.bootStep _ _ _ _ _)
  exact SameFailing.boot2 _ _

theorem reset_powerOn_spared : (State.reset.powerOn benign).Spared := by
  have h : (State.reset.cold.boot1.bootStep 0 1 10 0).1.selectSlot = some (State.reset.cold.boot1.bootStep 0 1 10 0).1 := by
    unfold State.selectSlot
    rw [if_pos (by decide +kernel)]
  unfold State.powerOn
  rw [if_neg (by decide +kernel)]
  simp only []
  rw [if_neg (by decide +kernel), h]
  obtain ⟨f, n⟩ := SameFailing.bootRest (State.reset.cold.boot1.bootStep 0 1 10 0).1
    (State.reset.cold.boot1.bootStep 0 1 10 0).2
  exact State.spared_of (f.trans (by decide +kernel)) (n.trans (by decide +kernel))

theorem nextOf_powerOn_on : (nextOf (exec (.powerOn benign) State.reset)).pow.off = false := by
  have h := congrArg (fun s => s.pow.off) (finish_tail State.reset reset_powerOn_spared).body
  exact h.trans reset_powerOn_on

theorem serves {s : State} (h : s.pow.off = false ∧ s.events = [] ∧ s.failing = [] ∧ s.spare.spent = false) : s.Serves :=
  ⟨h.1, h.2⟩

theorem awake {s : State}
    (h : s.dusk = false ∧ s.pow.off = false ∧ s.events = [] ∧ s.failing = [] ∧ s.spare.spent = false) : s.Awake := ⟨serves h.2, h.1⟩

theorem canIssue {s : State} {t : Nat} {w : BitVec 128} {q : Issue}
    (h : (t < 1152 ∧ s.holds t w q.reads q.writes = none ∧ q.form = true ∧ q.content = true ∧ q.also = none ∧
      (s.tile t).parity q.head = none ∧ (s.tile t).parity q.reads = none ∧ q.accBad = none) ∧
      s.dusk = false ∧ s.pow.off = false ∧ s.events = [] ∧ s.failing = [] ∧ s.spare.spent = false) : s.CanIssue t w q :=
  ⟨h.1.1, awake h.2, h.1.2.1, h.1.2.2.1, h.1.2.2.2.1, h.1.2.2.2.2.1, h.1.2.2.2.2.2.1, h.1.2.2.2.2.2.2.1, h.1.2.2.2.2.2.2.2⟩

theorem starts {s : State} {seq op : Nat} {c : Cmd}
    (h : (s.cmd seq = some c ∧ c.opcode = op ∧ c.started = false ∧ c.done = none ∧ s.mayStart c = true) ∧
      s.pow.off = false ∧ s.events = [] ∧ s.failing = [] ∧ s.spare.spent = false) : s.Starts seq op c :=
  ⟨serves h.2, h.1.1, h.1.2.1, h.1.2.2.1, h.1.2.2.2.1, h.1.2.2.2.2⟩

theorem reaches {s : State} {a k : Nat}
    (h : (isStack a = true ∨ isWindow a = true) ∧ s.reservedFor a = false ∧
      (isWindowLine (a / 256) = true → s.windowDeclared (a / 256) = true) ∧ s.homeSlice (a / 256) = some k) : s.Reaches a k :=
  ⟨h.1, h.2.1, h.2.2.1, h.2.2.2⟩

theorem hits {s : State} {k n : Nat} {l : Line}
    (h : (s.slice k).find n = some l ∧ (l.st = .clean ∨ l.st = .dirty) ∧ (l.poison = 0 ∧ l.chk = [] ∧ l.data.length = 256) ∧
      ∀ e ∈ (s.slice k).merge, e.seg / 4 ≠ n) : s.Hits k n l :=
  ⟨h.1, h.2.1, h.2.2.1, h.2.2.2⟩

theorem mayTake {s : State} {p : Nat} {f : RayFrame}
    (h : (p < 16 ∧ f.detour = false ∧ f.stream = 0xFFF ∧ f.dstPhys = s.phys ∧
      (f.xseq < 65536 ∧ f.xseq = sget 0 s.ray.xRx (s.rxKey p f)) ∧
      (f.spec = false ∨ s.stepOfTag f.stepTag < s.steps.step + 2)) ∧
      s.dusk = false ∧ s.pow.off = false ∧ s.events = [] ∧ s.failing = [] ∧ s.spare.spent = false) : s.MayTake p f :=
  ⟨h.1.1, awake h.2, h.1.2.1, .inl ⟨h.1.2.2.1, h.1.2.2.2.1⟩, h.1.2.2.2.2.1, h.1.2.2.2.2.2⟩

theorem takesFrame {s : State} {p : Nat} {f : RayFrame} (h : s.MayTake p f)
    (k : s.portOpen p = true ∧ f.seq = ((s.port p).rxSeq + 1) % 4096 ∧ f.nak = false ∧
      ∀ q ∈ portsOf (dirOf p), (s.port q).early = []) : s.TakesFrame p f :=
  ⟨h, k.1, k.2.1, k.2.2.1, k.2.2.2⟩

theorem authentic {s : State} {sid ctr code : Nat} {fs : List (List Byte)} {x : Sess}
    (h : (s.mg.sessions.find? (·.sid == sid) = some x ∧ ∀ c ∈ x.ctr, c < ctr) ∧
      s.pow.off = false ∧ s.events = [] ∧ s.failing = [] ∧ s.spare.spent = false) :
    s.Authentic sid ctr code fs (tagOfMsg x.key sid ctr (Config.message (256 + code) fs)) x :=
  ⟨serves h.2, h.1.1, rfl, h.1.2⟩

theorem noneOf {α : Type} {l : List α} {P : α → Prop} (h : l = []) : ∀ x ∈ l, P x := by
  subst h; nofun

theorem noSome {α : Type} {o : Option α} {x : α} (h : o = none) (k : o = some x) : False := by
  rw [h] at k; nomatch k


def emptyPacket : RocePkt :=
  { port := 0, qpn := 0, psn := 0, icrcOk := true, ecnCe := false, addr := 0, key := 0, len := 0, last := true, data := [] }

def emptySample : ThermalSample :=
  { lumen := List.replicate 64 0, shadeL := List.replicate 64 0, shadeU := List.replicate 64 0, powerW := List.replicate 64 0
    coolIn := 0, coolOut := 0, flow := 0 }

/-! ## Commands that the hardware cannot receive: one ill-formed term for each check -/

theorem test_wf_refuses : ([
    .nop 1152 0,                                                      -- siteOk
    .mma 0 (wd 0x11 0 0 0),                                           -- opIs
    .vopAdd 0 (wd 0x20 0 0 0),                                        -- vopIs
    .giveTile 0 (wd 0x04 0 0 (2 * 2 ^ 62)),                           -- giveIs
    .mark 0 (wd 0xF0 0 0 (2 ^ 56)),                                   -- dbgIs
    .check (.ring 1024), .check (.hart 32), .check (.operator 16), .check (.relayed 4),                 -- originOk
    .compoundRead .boot 0 4096, .compoundRead .boot 0 2,              -- offsetOk
    .registerWrite { origin := .boot, page := 2 ^ 20, off := 0, value := 0 } [] 0,                      -- orderOk
    .shadeRead { addr := 255, len := 2, cls := 0, agent := .tile 0, stamp := false },                   -- requestOk
    .dmaCopy 0 8, .gnomonWordSend 16 ] : List Instr).all (fun c => !c.wf) = true := by decide +kernel

theorem test_wf_refuses_messages :
    frameOk { emptyFrame with seq := 4096 } = false ∧
    messageOk { op := 1, tag := 0, role := 4, arg := 0, src := 0, body := [] } = false ∧
    packetOk { emptyPacket with qpn := 2 ^ 24 } = false ∧
    sampleOk { emptySample with lumen := [0] } = false := by decide +kernel

theorem test_wf_accepts : ([
    .nop 1151 (wd 0 0 0xFFFFFFFF 0), .mma 0 (wd 0x10 0 0xFFFFFFFF 0), .check (.ring 1023), .compoundRead .boot 4095 4092,
    .shadeRead { addr := 255, len := 1, cls := 5, agent := .tile 0, stamp := false }] : List Instr).all Instr.wf = true := by
  decide +kernel

/-! ## The worked examples of the manual -/

/-- Example 3.1. -/
theorem test_decoded_encodings :
    decodeF f8f 0x5C = .fin false 12 1 ∧ decodeF f8f 0x7E = .fin false 14 5 ∧ decodeF f8f 0x01 = .fin false 1 (-9) ∧
    decodeF f8f 0xFF = .nan ∧ decodeF f8b 0x5C = .fin false 4 6 ∧ decodeF f8b 0x7B = .fin false 7 13 ∧
    decodeF f8b 0xFD = .nan ∧ decodeF f16w 0x3FC0 = .fin false 192 (-7) := by decide +kernel

/-- Example 3.2. -/
theorem test_accout_row :
    convBlock f8f [(decode32 0x447A0000, .rne), (decode32 0xC0580000, .rne), (decode32 0x3A800000, .rne)] =
      (0x81, [(0x78, .none), (0xB6, .none), (0x00, .zero)]) := by decide +kernel

/-- Example 3.3. -/
theorem test_stochastic_rounding :
    (convElem f8f (.srnd 0x7A31) (decode32 0x41380000)).1 = 0x54 ∧ (convElem f8f (.srnd 0x9C02) (decode32 0x41380000)).1 = 0x53 := by
  decide +kernel

/-- The block of Examples 3.4 and 4.3. -/
def exBlock : List (FVal × FVal) :=
  let f := decodeF f8f
  [(f 0x7E, f 0x7E), (f 0xFE, f 0x7E), (f 0x44, f 0x39), (f 0x08, f 0x08)] ++ List.replicate 28 (f 0, f 0)

/-- Example 3.4. -/
theorem test_a20_block : (a20Block exBlock 0).1 = decodeF a20 0x40580 ∧
    (promote 0x3F800000 (a20Block exBlock 0).1).1 = 0x408C0000 := by decide +kernel

/-- Example 4.3. -/
theorem test_heritage_block : heritageBlock exBlock 0 0x3F800000 = 0x408C0200 := by decide +kernel

/-- Example 5.1: four MMA of depth 32 among 120 instructions. -/
theorem test_fixed_cost :
    fixedCost (List.replicate 4 (wd 0x10 0x220000 0xFFFFFFFF 31) ++ List.replicate 116 (wd 0 0 0xFFFFFFFF 0)) = 4105 := by
  decide +kernel

/-- Example 9.1. -/
theorem test_stack_placement :
    (granPlace (0x12345680 / 64)).stack = 1 ∧ (granPlace (0x12345680 / 64)).pc = 58 ∧ (granPlace (0x12345680 / 64)).loc = 9320 := by
  decide +kernel

/-- Example 10.1: the module at (5, 17, 33) of a 16 × 32 × 40 torus, and its +z and −z neighbours. -/
theorem test_neighbours :
    let s := (svc.wr rayComPage 0x104 (16 + 32 * 32 + 40 * 2048)).wr rayComPage 0x100 (5 + 17 * 256 + 33 * 65536)
    s.phys = 17173 ∧ s.neighbour 4 = 17685 ∧ s.neighbour 5 = 16661 := by decide +kernel

/-- The case under R8: bit 3 is set by hardware in the cycle of its clear, and reads 1. -/
theorem test_set_beats_clear :
    let s := run.wr 5 offEvt 8
    (nextOf (exec (.registerWrite { origin := .hart 0, page := 5, off := offEvt, value := 8 } [] 8) s)).flag 5 offEvt 3 = true ∧
    (nextOf (exec (.registerWrite { origin := .hart 0, page := 5, off := offEvt, value := 8 } [] 0) s)).flag 5 offEvt 3 = false := by
  decide +kernel

/-! ## One step of a few commands -/

/-- VOP ADD: 1.0 + 2.0 in every lane (R61). -/
theorem test_vector_add :
    let s := run0 fun x => (x.setVreg 1 (List.replicate 64 0x3F800000)).setVreg 2 (List.replicate 64 0x40000000)
    let t := nextOf (exec (.vopAdd 0 (wd 0x20 0 0xFFFFFFFF (2 ^ 56 + 3 * 2 ^ 51 + 2 ^ 46 + 2 * 2 ^ 41))) s)
    (t.tile 0).vreg 3 = List.replicate 64 0x40400000 := by decide +kernel

/-- A reserved opcode raises ILLEGAL_INSTR (R38). -/
theorem test_reserved_opcode :
    (nextOf (exec (.illegalInstr 0 (wd 0xFF 0 0xFFFFFFFF 0)) run)).flag 0 offEvt 7 = true := by decide +kernel

/-- From reset nothing but power-on acts (R441). -/
theorem test_reset_is_off : isNext (exec (.brownOut) State.reset) = true ∧ nextOf (exec (.brownOut) State.reset) = State.reset := by
  decide +kernel

/-- An idle step lets one Gnomon tick pass; the counter wraps after 2^64 (R6). -/
theorem test_idle_tick :
    (nextOf (step { run with gn := { running := true, count := 2 ^ 64 - 1 } })).gn.count = 0 := by decide +kernel

/-- The site of row 5, column 17 is 197 (Example 0.1), and rows hold 36 sites. -/
theorem test_site_of_row : (rowSites 5).getD 17 0 = 197 := by decide +kernel

/-- No word of the table spells a command. -/
theorem test_no_words : decodeTableWord 128 0 = none ∧ State.reset.withFetchWord 128 0 = State.reset := by decide +kernel


/-! ## States that several witnesses share -/

def st1 : State :=
  (
    run0 fun x => (
      (x.setVreg 1 (List.replicate 64 0x3F800000)).setVreg 2 (List.replicate 64 0x40000000)
    ).setVreg 3 ((List.range 64).map fun n => BitVec.ofNat 32 (0x3F800000 + n * 77777)))

def st2 : State :=
  (
    { (run0 fun x => { x with spectrum := [{ tensor := 7, zeros := 1 }] }) with
      adm := { active := some { img with specBase := 0x10000, specN := 4096 } } })

def st3 : State :=
  (
    run0 fun x => (
      (
        (x.setBytes 0 (List.replicate 1024 0x38)).setBytes 0x1000 (List.replicate 1024 0x30)
      ).setBytes 0x2000 (List.replicate 64 127)).setAcc 3 { vals := List.replicate 1024 0x3F800000 })

def st4 : State :=
  run0 fun x => { x with
    dmaq := [
      (
        3,
        [
          {
            src := .device 0x1000, dst := .tile 5 0x400, len := 256, op := 0, sclass := 0, dead := false,
            stamp := false, nb := 0, kc := some 2, ccDst := some 1, ccSrc := some 3, sstride := 0, dstride := 256,
            rows := 1, unit := 0, slot := 0 }])],
    kc := [(2, { base := 2 })] }

def st5 : State :=
  { run with
    xfers := [
      {
        id := 4, site := 0, dst := .scratch 5 5,
        rows := [{ off := 786428, len := 4, data := [⟨1,false⟩,⟨2,true⟩,⟨3,false⟩,⟨4,false⟩] }], add := false }] }

def st6 : State :=
  { run with
    xfers := [
      {
        id := 4, site := 0, dst := .scratch 5 5,
        rows := [{ off := 786428, len := 4, data := [⟨0,false⟩,⟨0,false⟩,⟨128,false⟩,⟨63,false⟩] }], add := true }] }

def st7 : State :=
  run0 fun x => { x with
    skip := { gsend := 1, grecv := 1 }, kc := [(31, { base := 1 })], taken := [List.replicate 256 3] }

def st8 : State :=
  run0 fun x => { put (put x 0 8 0x1000) 8 8 0x1008 with
    rcache := [(3, { line := 0x10, data := (List.range 256).map fun i => ⟨BitVec.ofNat 8 i, i == 8⟩ })] }

def st9 : State :=
  ({ run with gn := { master := true, setPend := true } }.wr gnPage offControl 2).wr gnPage 0x148 99

def st10 : State :=
  { run with
    gn := {
      running := true, master := true, frame := 3, start := 1000, count := 3048,
      dec := some ⟨2, false, false, 1000⟩ },
    fr := { lateSeen := true, run := 4 } }

def st11 : State :=
  (
    (
      (
        { run with
          adm := { state := 3, img := some { img with continues := true }, active := some img, fa := 0 },
          gn := { running := true, frame := 4 } } : State).wr admPage 0x114 8))

def st12 : State :=
  { svc with
    adm := { state := 4, img := some img, go := some 0, g0 := 900 }, gn := { count := 900 },
    ray := { map := some [svc.phys] } }

def st13 : State :=
  { run with adm := { active := some { img with units := [{ unit := 7, members := [(0, 1), (0, 2)] }] } } }

def st14 : State :=
  { (run0 fun x => { x with cc := [(2, { base := 1, spec := 2, borrow := 1 })] }) with
    steps := { step := 4, phase := .reported, ls := 0, causeNext := 4 },
    gn := { running := true, upstream := some 3, subs := [(5, {})] } }

def st15 : State :=
  { run with steps := { step := 4, phase := .drained }, gn := { running := true, upstream := some 3 } }

def st16 : State :=
  { run with
    mem := [(0xC,5),(0x28,1),(0x2C,1),(0x2D,8),(0x114,10)],
    adm := { active := some { img with units := [{ unit := 0x801, members := [(2, 0), (2, 1)] }] } },
    ray := { map := some [svc.phys, 9] }, steps := { step := 4 } }

def st17 : State :=
  { run with ray := { reqs := [{ tag := 1, dst := 9, want := .restore 64, left := 9 }] } }

def st18 : State :=
  ({ run with host := { inReset := true } } : State).wr hostPage offStatus 2

def st19 : State :=
  { run with
    host := {
      rings := [
        (
          1023,
          {
            rcb := {
              sqBase := 0xF000000000, logSq := 4, cqBase := 0xF000010000, logCq := 4, msiAddr := 0, msiData := 0 },
            tail := 1 })] } }

def st20 : State :=
  (
    ((((((run : State).wr hostPage offStatus 1))).wr hostPage 0x100 0xFFF00000).wr hostPage 0x104 0xFF).setBytes (0xFFFFF00000 + 64*1023) (
      natLe 8 (
        0xF000000000 + 4*2^48) ++ natLe 8 (0xF000010000 + 4*2^48) ++ natLe 8 0 ++ natLe 8 0 ++ List.replicate 32 0))

def st21 : State :=
  withCmd (
    { run with host := { qps := [(2047, { state := 4  })], mrs := [(4095, { gen := 2^20-1 })] } }
  ) (ringCmd 0x10 0 0 2047 0 0 (List.replicate 64 3))

def st22 : State :=
  withCmd (
    { run with host := { qps := [(2047, { state := 2  })], mrs := [(4095, { gen := 2^20-1 })] } }
  ) (ringCmd 0x10 0 0 2047 0 0 (List.replicate 64 3))

def st23 : State :=
  withCmd (
    { run with
      host := {
        qps := [
          (
            2047,
            {
              state := 3,
              ops := [{ id := 1, write := true, local_ := 0, len := 64, remote := 0, key := 0, psn := 0 }] })],
        mrs := [(4095, { gen := 2^20-1 })] } }) (ringCmd 0x12 0 0 2047 0 0 ([]))

def st24 : State :=
  withCmd (
    { run with
      host := {
        intake := {
          on := true,
          reads := [
            {
              id := 1, step := 3, range := 0, qpn := 5, remote := 0, key := 0, dest := 0x100000, len := 64,
              issued := true }] } } }) (ringCmd 0x1a 0 0 0 0 0 ([]))

def st25 : State :=
  { run with
    host := {
      qps := [
        (
          5,
          {
            state := 3,
            ops := [
              {
                id := 1, write := false, local_ := 0x100000, len := 64, remote := 0, key := 0, psn := 5, got := 64,
                intake := true }] })],
      intake := {
        plan := some {
          recBytes := 64, extRecs := 1, nExt := 1, extents := 0xF000000000, nrec := 4, curBase := 0xF000100000,
          stepBase := 0xF000200000, ranges := [{ first := 0, count := 4, dest := 0x100000 }] },
        on := true, started := [3],
        reads := [
          {
            id := 1, step := 3, range := 0, qpn := 5, remote := 0, key := 0, dest := 0x100000, len := 64,
            issued := true }] } } }

def st26 : State :=
  { (run0 fun x => { x with rcache := [(3, { line := 0x10, data := (List.range 256).map fun i => ⟨BitVec.ofNat 8 i, i == 8⟩ }), (9, { ({ line := 0x10, data := (List.range 256).map fun i => ⟨BitVec.ofNat 8 i, i == 8⟩ } : RcLine) with line := 0x11 })] }) with
    held := [{ line := 0x10, sites := [0, 5], req := .read ⟨0,0,0,.tile 0,false⟩ }] }

def st27 : State :=
  { run with
    host := {
      qps := [(2047, { state := 2, attrs := [1], expPsn := 5 })],
      mrs := [(4095, { gen := 0, valid := true, start := 0x1000, len := 64, write := true, read := true })] } }

def st28 : State :=
  { run with
    host := {
      qps := [
        (
          2047,
          {
            state := 3, attrs := [1],
            ops := [{ id := 9, write := false, local_ := 0x1000, len := 64, remote := 0, key := 0, psn := 5 }],
            tries := 1 })],
      mrs := [(4095, { gen := 0, valid := true, start := 0x1000, len := 64, write := true, read := true })] } }

def st29 : State :=
  { run with
    held := [
      {
        line := 0x1000000000, sites := [],
        req := .write {
          addr := 0x100000000000, len := 256, cls := 0, agent := .tile 3, stamp := false } (List.replicate 256 ⟨5, false⟩) }
    ] }

def st30 : State :=
  { run with slices := [(homeK (windowBase / 256), { lines := [cleanLine (windowBase / 256)] })] }

def st31 : State :=
  { run with hbm := [(stackOf 64, { pendRow := some (rowId (granPlace 64)) })] }

def st32 : State :=
  { run with
    res := [(5, { tier := 2, slowHome := true, moving := true })],
    moves := [{ block := 5, target := 1, requested := true, running := true }] }

def st33 : State :=
  { run with
    slow := [{ id := 5, port := 1, addr := 0x0C0000000000, len := 4, data := none, xfers := [(9, 0)] }],
    xfers := [
      { id := 9, site := 0, dst := .scratch 5 5, rows := [{ off := 0, len := 4, src := some 0x0C0000000000 }] }] }

def st34 : State :=
  { run with res := [(5, { tier := 2, slowHome := true, visited := false })] }

def st35 : State :=
  (fabric { rxAlloc := [(3, 7)], occ := [(3, 2)] }).setPortSt 0 5

def st36 : State :=
  (fabric { gotGrant := true, granted := true, again := true }).setPortSt 0 5

def st37 : State :=
  (
    ({ run with ag := { trigs := [(5, 0x1000000 + 3*2^14 + 1151)] } } : State).wr agPage offControl 1).wr 1151 offEvt 6

def st38 : State :=
  run0 fun x => { x with
    rcache := [(3, { line := 0x10, data := (List.range 256).map fun i => ⟨BitVec.ofNat 8 i, i == 8⟩ })] }

def st39 : State :=
  { (run0 fun x => { x with halting := true }) with
    mg := { sessions := [{ sid := 0, slot := 1, role := 2, key := [] }] } }

def st40 : State :=
  (
    (
      (
        (run.setBytes 0x1000 [1,2,3,4]).wr (stackPage (stackOf 64)) offControl 2).wr (stackPage (stackOf 64)) 0x200 0x1000
    ).wr (stackPage (stackOf 64)) 0x240 77)

def st41 : State :=
  (
    (
      { withUp (run) [3] with gn := { running := true, frame := 16 }, pow := { off := false  } } : State
    ).wr powPage offControl 1)

def st42 : State :=
  (
    (
      { withUp (run) [3] with
        gn := { running := true, frame := 17 },
        pow := {
          off := false, demandAt := some 1,
          demands := [
            (
              3,
              {
                unsettled := false, period := 7, gseq := 4, tokens := 100, count := 1, demand := 9, need := 5,
                sumH := 0, sumBase := 0 })] } } : State).wr powPage offControl 1).wr powPage 0x104 700

def st43 : State :=
  { run with gn := { running := true, master := true, frame := 5 } }

def st44 : State :=
  { (run0 fun x => { x with cc := [(1, { base := 1 })] }) with steps := { rollTo := true } }

def st45 : State :=
  ({ run with gn := { running := true, upstream := some 3 } } : State).setHold 3

def st46 : State :=
  ({ run with map := [(1023, { tile := 0, st := 3 })] } : State).wr sparePage 0x100 1023

def st47 : State :=
  { run with
    mg := {
      sessions := [{ sid := 9, slot := 15, role := 0, key := [1,2,3], ctr := some 4 }],
      keys := [(3, { key := List.replicate 32 7, roles := 7 })] } }

def st48 : State :=
  { run with
    mg := {
      sessions := [{ sid := 9, slot := 15, role := 1, key := [1,2,3], ctr := some 4 }],
      keys := [(3, { key := List.replicate 32 7, roles := 7 })] } }

def st49 : State :=
  (
    run0 fun x => (
      (
        x.setVreg 1 (List.replicate 32 0x7F800001 ++ List.replicate 32 0x80000000)
      ).setVreg 2 ((List.range 64).map fun n => BitVec.ofNat 32 (n % 2 * 2^31))).setVreg 3 (List.replicate 64 0))

/-! ## States and operands that meet the hypotheses of each statement, clause by clause -/

theorem witness_StepRunsFrontCommand : ∃ (s : State) (c : Instr) (rest : List Instr),
    s.pending = c :: rest :=
  ⟨{ svc with pending := [.brownOut, .holdEnd] }, .brownOut, [.holdEnd], by decide +kernel⟩

theorem witness_IdleStepTicks :
    (∃ (s : State),
      s.pending = [] ∧ s.pow.off = true) ∧
    (∃ (s : State),
      s.pending = [] ∧ s.pow.off = false) :=
  ⟨⟨State.reset, by decide +kernel⟩,
    ⟨{ run with now := 7 }, by decide +kernel⟩⟩

theorem witness_StepsStaySettled : ∃ (s : State) (t : State),
    s.settled ∧ step s = .next t :=
  ⟨{ (run) with pending := [.brownOut] }, nextOf (step { (run) with pending := [.brownOut] }), ⟨rfl, rfl, rfl⟩,
   isNext_spec (by decide +kernel)⟩

theorem witness_CommandsAnswerAndKeepTheQueue : ∃ (s : State) (t : State) (c : Instr) (rest : List Instr),
    step s = .next t ∧ s.pending = c :: rest :=
  ⟨{ (run) with pending := [.brownOut, .holdEnd] }, nextOf (step { (run) with pending := [.brownOut, .holdEnd] }),
   .brownOut, [.holdEnd], isNext_spec (by decide +kernel), by decide +kernel⟩

theorem witness_OnlyPowerOnLeavesOff : ∃ (s : State) (t : State) (c : Instr),
    (∀ e, c ≠ .powerOn e) ∧ (∀ b, c ≠ .recoveryBundle b) ∧ exec c s = .next t ∧ s.pow.off = true :=
  ⟨State.reset, nextOf (exec .brownOut State.reset), .brownOut, nofun, nofun, isNext_spec (by decide +kernel),
   by decide +kernel⟩

theorem witness_VectorLanesComplete :
    (∃ (s : State) (t : Nat) (w : BitVec 128) (sub : Nat),
      s.CanIssue t w { eng := engVector, form := vopLegal w sub } ∧ isSub w 0x20 sub = true ∧ sub = 0x00) ∧
    (∃ (s : State) (t : Nat) (w : BitVec 128) (sub : Nat),
      s.CanIssue t w { eng := engVector, form := vopLegal w sub } ∧ isSub w 0x20 sub = true ∧ sub = 0x01) ∧
    (∃ (s : State) (t : Nat) (w : BitVec 128) (sub : Nat),
      s.CanIssue t w { eng := engVector, form := vopLegal w sub } ∧ isSub w 0x20 sub = true ∧ sub = 0x02) ∧
    (∃ (s : State) (t : Nat) (w : BitVec 128) (sub : Nat),
      s.CanIssue t w { eng := engVector, form := vopLegal w sub } ∧ isSub w 0x20 sub = true ∧ sub = 0x03) ∧
    (∃ (s : State) (t : Nat) (w : BitVec 128) (sub : Nat),
      s.CanIssue t w { eng := engVector, form := vopLegal w sub } ∧ isSub w 0x20 sub = true ∧ sub = 0x04) ∧
    (∃ (s : State) (t : Nat) (w : BitVec 128) (sub : Nat),
      s.CanIssue t w { eng := engVector, form := vopLegal w sub } ∧ isSub w 0x20 sub = true ∧ sub = 0x05) ∧
    (∃ (s : State) (t : Nat) (w : BitVec 128) (sub : Nat),
      s.CanIssue t w { eng := engVector, form := vopLegal w sub } ∧ isSub w 0x20 sub = true ∧ sub = 0x06) ∧
    (∃ (s : State) (t : Nat) (w : BitVec 128) (sub : Nat),
      s.CanIssue t w { eng := engVector, form := vopLegal w sub } ∧ isSub w 0x20 sub = true ∧ sub = 0x08) :=
  ⟨⟨st1, 0, wd 0x20 0 0xFFFFFFFF (0x0 * 2^56 + (1 * 2^51 + 2*2^46+3*2^41+4*2^36)), 0, canIssue (by decide +kernel),
     by decide +kernel⟩,
    ⟨st1, 0, wd 0x20 0 0xFFFFFFFF (0x1 * 2^56 + (1 * 2^51 + 2*2^46+3*2^41+4*2^36)), 1, canIssue (by decide +kernel),
     by decide +kernel⟩,
    ⟨st1, 0, wd 0x20 0 0xFFFFFFFF (0x2 * 2^56 + (1 * 2^51 + 2*2^46+3*2^41+4*2^36)), 2, canIssue (by decide +kernel),
     by decide +kernel⟩,
    ⟨st1, 0, wd 0x20 0 0xFFFFFFFF (0x3 * 2^56 + (1 * 2^51 + 2*2^46+3*2^41+4*2^36)), 3, canIssue (by decide +kernel),
     by decide +kernel⟩,
    ⟨st1, 0, wd 0x20 0 0xFFFFFFFF (0x4 * 2^56 + (1 * 2^51 + 2*2^46+3*2^41+4*2^36)), 4, canIssue (by decide +kernel),
     by decide +kernel⟩,
    ⟨st1, 0, wd 0x20 0 0xFFFFFFFF (0x5 * 2^56 + (1 * 2^51 + 2*2^46+3*2^41+4*2^36)), 5, canIssue (by decide +kernel),
     by decide +kernel⟩,
    ⟨st1, 0, wd 0x20 0 0xFFFFFFFF (0x6 * 2^56 + (1 * 2^51 + 2*2^46+3*2^41+4*2^36)), 6, canIssue (by decide +kernel),
     by decide +kernel⟩,
    ⟨st1, 0, wd 0x20 0 0xFFFFFFFF (0x8 * 2^56 + (1 * 2^51 + 2*2^46+3*2^41+4*2^36)), 8, canIssue (by decide +kernel),
     by decide +kernel⟩⟩

theorem witness_VectorRegistersAreWrittenAndStored :
    (∃ (s : State) (t : Nat) (w : BitVec 128),
      s.CanIssue t w { eng := engVector, form := vopLegal w 0x07 } ∧ isSub w 0x20 0x07 = true) ∧
    (∃ (s : State) (t : Nat) (w : BitVec 128),
      s.CanIssue t w { eng := engVector, form := vopLegal w 0x10 } ∧ isSub w 0x20 0x10 = true) ∧
    (∃ (s : State) (t : Nat) (w : BitVec 128),
      s.CanIssue t w { eng := engVector, form := vopLegal w 0x11 } ∧ isSub w 0x20 0x11 = true) ∧
    (∃ (s : State) (t : Nat) (w : BitVec 128),
      s.CanIssue t w { eng := engVector, form := vmemLegal w, reads := [(fld w 63 52 * 256, 256)] } ∧ isOp w 0x21 = true) ∧
    (∃ (s : State) (t : Nat) (w : BitVec 128),
      s.CanIssue t w { eng := engVector, form := widenLegal w } ∧ isSub w 0x20 0x23 = true) ∧
    (∃ (s : State) (t : Nat) (w : BitVec 128),
      let a := fld w 63 52 * 256
      s.CanIssue t w { eng := engVector, form := vmemLegal w, writes := [(a, 256)] } ∧ isOp w 0x22 = true) :=
  ⟨⟨{ run with now := 7 }, 0, wd 0x20 0 0xFFFFFFFF (0x7 * 2^56 + (1 * 2^51 + 2*2^46+3*2^41+4*2^36)),
     canIssue (by decide +kernel), by decide +kernel⟩,
    ⟨{ run with now := 7 }, 0, wd 0x20 0 0xFFFFFFFF (0x10 * 2^56 + (1 * 2^51 + 2*2^46+3*2^41+4*2^36)),
     canIssue (by decide +kernel), by decide +kernel⟩,
    ⟨{ run with now := 7 }, 0, wd 0x20 0 0xFFFFFFFF (0x11 * 2^56 + (1 * 2^51 + 2*2^46+3*2^41+4*2^36)),
     canIssue (by decide +kernel), by decide +kernel⟩,
    ⟨{ run with now := 7 }, 0, wd 0x21 0 0xFFFFFFFF (3071*2^52+31*2^47), canIssue (by decide +kernel),
     by decide +kernel⟩,
    ⟨(run0 fun x => x.setVreg 0 (List.replicate 64 0x7F800001)), 0,
     wd 0x20 (1*2^20) 0xFFFFFFFF (0x23*2^56 + 2^51 + 4*2^36), canIssue (by decide +kernel), by decide +kernel⟩,
    ⟨{ run with now := 7 }, 0, wd 0x22 0 0xFFFFFFFF (4*2^52+3*2^47), canIssue (by decide +kernel), by decide +kernel⟩⟩

theorem witness_NarrowingConversionsComplete :
    (∃ (s : State) (t : Nat) (w : BitVec 128),
      s.CanIssue t w (s.cvtIssue t w) ∧ isSub w 0x20 0x20 = true) ∧
    (∃ (s : State) (t : Nat) (w : BitVec 128),
      s.CanIssue t w (s.cvtIssue t w) ∧ isSub w 0x20 0x21 = true) ∧
    (∃ (s : State) (t : Nat) (w : BitVec 128),
      s.CanIssue t w (s.cvtIssue t w) ∧ isSub w 0x20 0x22 = true) ∧
    (∃ (t : Nat) (i : _),
      i ≠ t) ∧
    (∃ (s : State) (t : Nat) (tensor : Nat) (tag : Nat) (z : Nat) (sa : Nat) (nf : Nat) (e : _),
      s.specTable.2 ≠ 0 ∧ 0 < z + sa + nf ∧ (s.tile t).specStep = tag ∧
      (s.tile t).spectrum.find? (·.tensor == tensor) = some e ∧ e.zeros + z < 2 ^ 32 ∧ e.sats + sa < 2 ^ 32 ∧
      e.nonfin + nf < 2 ^ 32) ∧
    (∃ (s : State) (t : Nat) (tensor : Nat) (tag : Nat) (z : Nat) (sa : Nat) (nf : Nat),
      s.specTable.2 ≠ 0 ∧ 0 < z + sa + nf ∧ (s.tile t).specStep = tag ∧
      (s.tile t).spectrum.any (·.tensor == tensor) = false ∧ (s.tile t).spectrum.length < 16) :=
  ⟨⟨st1, 0, wd 0x20 (3*2^3) 0xFFFFFFFF (32*2^56 + 3*2^51 + 4*2^41+5*2^36), canIssue (by decide +kernel),
     by decide +kernel⟩,
    ⟨st1, 0, wd 0x20 (3*2^3) 0xFFFFFFFF (33*2^56 + 3*2^51 + 4*2^41+5*2^36), canIssue (by decide +kernel),
     by decide +kernel⟩,
    ⟨st1, 0, wd 0x20 (3*2^3) 0xFFFFFFFF (34*2^56 + 3*2^51 + 4*2^41+5*2^36), canIssue (by decide +kernel),
     by decide +kernel⟩,
    ⟨0, 1, by decide +kernel⟩,
    ⟨st2, 0, 7, 0, 1, 2, 3, { tensor := 7, zeros := 1, sats := 0, nonfin := 0 }, by decide +kernel⟩,
    ⟨st2, 0, 8, 0, 1, 0, 3, by decide +kernel⟩⟩

theorem witness_MatrixCompletes :
    (∃ (s : State) (t : Nat) (w : BitVec 128),
      s.CanIssue t w (s.matrixIssue t w false) ∧ isOp w 0x10 = true) ∧
    (∃ (s : State) (t : Nat) (w : BitVec 128),
      s.CanIssue t w (s.matrixIssue t w true) ∧ isOp w 0x11 = true) ∧
    (∃ (s : State) (t : Nat) (w : BitVec 128),
      s.CanIssue t w { plainIssue w [(15, 0)] (busyHold ((clrSel w).any (s.tile t).accBusy)) with eng := engMatrix } ∧
      isOp w 0x13 = true) :=
  ⟨⟨st3, 0,
     wd 0x10 (2*2^20+2*2^16+3*2^12+1*2^8) 0xFFFFFFFF (0x40*2^36+0x100*2^21+0x101*2^6),
     canIssue (by decide +kernel), by decide +kernel⟩,
    ⟨st3, 0,
     wd 0x11 (2*2^20+2*2^16+3*2^12+1*2^8) 0xFFFFFFFF (0x40*2^36+0x100*2^21+0x101*2^6),
     canIssue (by decide +kernel), by decide +kernel⟩,
    ⟨st3, 0, wd 0x13 (0) 0xFFFFFFFF (32777), canIssue (by decide +kernel), by decide +kernel⟩⟩

theorem witness_AccumulatorsAreReadOutAndRescaled :
    (∃ (s : State) (t : Nat) (w : BitVec 128),
      s.CanIssue t w (s.accoutIssue t w) ∧ isOp w 0x12 = true) ∧
    (∃ (s : State) (t : Nat) (n : Nat) (r : Rescale),
      s.Awake ∧ t < 1152 ∧ (s.tile t).rescale.find? (·.acc == n) = some r ∧ r.retry = false) ∧
    (∃ (s : State) (t : Nat) (n : Nat) (r : Rescale),
      s.Awake ∧ t < 1152 ∧ (s.tile t).rescale.find? (·.acc == n) = some r ∧ r.retry = true ∧ (s.tile t).perr = none ∧
      (s.tile t).parity r.reads = none) ∧
    (∃ (s : State) (t : Nat) (n : Nat) (r : Rescale) (e : _),
      s.Awake ∧ t < 1152 ∧ (s.tile t).rescale.find? (·.acc == n) = some r ∧ r.retry = true ∧ (s.tile t).perr = none ∧
      (s.tile t).parity r.reads = some e) :=
  ⟨⟨st3, 0, wd 0x12 (3*2^12+2^3) 0xFFFFFFFF (0x100*2^50+0x100*2^35+2*2^31+2^10), canIssue (by decide +kernel),
     by decide +kernel⟩,
    ⟨(
       (
         run0 fun x => (
           (
             (x.setBytes 0 (List.replicate 1024 0x38)).setBytes 0x1000 (List.replicate 1024 0x30)
           ).setBytes 0x2000 (List.replicate 64 127)).setAcc 3 { vals := List.replicate 1024 0x3F800000 })
     ).modTile 0 fun x => { x with rescale := [{ acc := 3, word := wd 0x10 (2*2^20+2*2^16+3*2^12+1*2^8) 0xFFFFFFFF (0x40*2^36+0x100*2^21+0x101*2^6), entry := .zero, retry := false, reads := [(0, 64)] }] },
     0, 3,
     {
       acc := 3, word := wd 0x10 (2*2^20+2*2^16+3*2^12+1*2^8) 0xFFFFFFFF (0x40*2^36+0x100*2^21+0x101*2^6),
       entry := .zero, retry := false, reads := [(0, 64)] },
     awake (by decide +kernel), by decide +kernel⟩,
    ⟨(
       (
         run0 fun x => (
           (
             (x.setBytes 0 (List.replicate 1024 0x38)).setBytes 0x1000 (List.replicate 1024 0x30)
           ).setBytes 0x2000 (List.replicate 64 127)).setAcc 3 { vals := List.replicate 1024 0x3F800000 })
     ).modTile 0 fun x => { x with rescale := [{ acc := 3, word := wd 0x10 (2*2^20+2*2^16+3*2^12+1*2^8) 0xFFFFFFFF (0x40*2^36+0x100*2^21+0x101*2^6), entry := .zero, retry := true, reads := [(0, 64)] }] },
     0, 3,
     {
       acc := 3, word := wd 0x10 (2*2^20+2*2^16+3*2^12+1*2^8) 0xFFFFFFFF (0x40*2^36+0x100*2^21+0x101*2^6),
       entry := .zero, retry := true, reads := [(0, 64)] },
     awake (by decide +kernel), by decide +kernel⟩,
    ⟨(
       (
         (
           run0 fun x => (
             (
               (x.setBytes 0 (List.replicate 1024 0x38)).setBytes 0x1000 (List.replicate 1024 0x30)
             ).setBytes 0x2000 (List.replicate 64 127)).setAcc 3 { vals := List.replicate 1024 0x3F800000 })
       ).modTile 0 fun x => { x with rescale := [{ acc := 3, word := wd 0x10 (2*2^20+2*2^16+3*2^12+1*2^8) 0xFFFFFFFF (0x40*2^36+0x100*2^21+0x101*2^6), entry := .zero, retry := true, reads := [(0, 64)] }] }
     ).modTile 0 fun x => { x with badScr := [5] },
     0, 3,
     {
       acc := 3, word := wd 0x10 (2*2^20+2*2^16+3*2^12+1*2^8) 0xFFFFFFFF (0x40*2^36+0x100*2^21+0x101*2^6),
       entry := .zero, retry := true, reads := [(0, 64)] },
     { off := 5, offs := [5], acc := false, icount := 0, dma := none }, awake (by decide +kernel),
     by decide +kernel⟩⟩

theorem witness_ControlFamilyCompletes :
    (∃ (s : State) (t : Nat) (w : BitVec 128),
      s.CanIssue t w (plainIssue w []) ∧ isOp w 0x00 = true) ∧
    (∃ (s : State) (t : Nat) (w : BitVec 128),
      s.CanIssue t w (s.specIssue t w) ∧ isOp w 0x60 = true) ∧
    (∃ (s : State) (t : Nat) (w : BitVec 128),
      s.CanIssue t w (plainIssue w [(15, 0)]) ∧ isOp w 0x61 = true) ∧
    (∃ (s : State) (t : Nat) (w : BitVec 128),
      s.CanIssue t w (s.waitcIssue t w) ∧ isOp w 0x03 = true ∧ (s.tile t).skip.waitc = 0) ∧
    (∃ (s : State) (t : Nat) (w : BitVec 128),
      s.CanIssue t w (s.waitcIssue t w) ∧ isOp w 0x03 = true ∧ 0 < (s.tile t).skip.waitc) ∧
    (∃ (s : State) (t : Nat) (w : BitVec 128),
      s.CanIssue t w { form := dbgLegal w } ∧ isSub w 0xF0 1 = true) ∧
    (∃ (s : State) (t : Nat) (w : BitVec 128),
      s.CanIssue t w { form := dbgLegal w } ∧ isSub w 0xF0 2 = true) ∧
    (∃ (s : State) (t : Nat) (w : BitVec 128),
      s.CanIssue t w (s.frameIssue t w) ∧ isOp w 0x01 = true) ∧
    (∃ (s : State) (t : Nat) (w : BitVec 128),
      s.CanIssue t w (plainIssue w [(47, 0)]) ∧ isOp w 0x02 = true ∧
      (s.tile t).replayTo.isSome = true ∧ (s.tile t).icount = 0) ∧
    (∃ (s : State) (t : Nat) (w : BitVec 128),
      s.CanIssue t w (plainIssue w [(47, 0)]) ∧ isOp w 0x02 = true ∧
      ¬((s.tile t).replayTo.isSome = true ∧ (s.tile t).icount = 0)) :=
  ⟨⟨{ run with now := 7 }, 0, wd 0x0 (0) 0xFFFFFFFF (0), canIssue (by decide +kernel), by decide +kernel⟩,
    ⟨{ run with now := 7 }, 0, wd 0x60 (0) 0xFFFFFFFF (65535), canIssue (by decide +kernel), by decide +kernel⟩,
    ⟨{ run with now := 7 }, 0, wd 0x61 (0) 0xFFFFFFFF (65535), canIssue (by decide +kernel), by decide +kernel⟩,
    ⟨{ run with now := 7 }, 0, wd 0x3 (0) 0xFFFFFFFF (0*2^32+31), canIssue (by decide +kernel), by decide +kernel⟩,
    ⟨run0 fun x => { x with skip := { waitc := 2 } }, 0, wd 0x3 (0) 0xFFFFFFFF (5*2^32+31),
     canIssue (by decide +kernel), by decide +kernel⟩,
    ⟨{ run with now := 7 }, 0, wd 0xf0 (0) 0xFFFFFFFF (2^56+9), canIssue (by decide +kernel), by decide +kernel⟩,
    ⟨{ run with now := 7 }, 0, wd 0xf0 (0) 0xFFFFFFFF (2*2^56+9), canIssue (by decide +kernel), by decide +kernel⟩,
    ⟨{ run with now := 7 }, 0, wd 0x1 (0) 0xFFFFFFFF (0), canIssue (by decide +kernel), by decide +kernel⟩,
    ⟨run0 fun x => { x with replayTo := some 3, icount := 0 }, 0, wd 0x2 (0) 0xFFFFFFFF (4096),
     canIssue (by decide +kernel), by decide +kernel⟩,
    ⟨{ run with now := 7 }, 0, wd 0x2 (0) 0xFFFFFFFF (4096), canIssue (by decide +kernel), by decide +kernel⟩⟩

theorem witness_StreamProgressKeeps : ∃ (s : State) (t : Nat),
    (s.streamOf t).isSome = true :=
  ⟨{ run with now := 7 }, 0, by decide +kernel⟩

theorem witness_ReservedWordRaisesIllegal :
    (∃ (s : State) (t : Nat) (w : BitVec 128),
      let q := s.illegalIssue t w
      s.Awake ∧ t < 1152 ∧ q.form = false ∧ s.holds t w [] [] = none) ∧
    (∃ (s : State) (t : Nat) (w : BitVec 128),
      let q := s.illegalIssue t w
      s.Awake ∧ t < 1152 ∧ q.form = true ∧ q.content = false ∧ s.holds t w q.reads q.writes = none ∧
      (s.tile t).parity q.head = none) ∧
    (∃ (s : State) (t : Nat) (w : BitVec 128),
      let q := s.illegalIssue t w
      s.Awake ∧ t < 1152 ∧ q.form = true ∧ q.content = true) :=
  ⟨⟨{ run with now := 7 }, 0, wd 0xff (0) 0xFFFFFFFF (0), awake (by decide +kernel), by decide +kernel⟩,
    ⟨{ run with now := 7 }, 0, wd 0x30 (0) 0xFFFFFFFF (0), awake (by decide +kernel), by decide +kernel⟩,
    ⟨{ svc with pending := [.brownOut, .holdEnd] }, 0, wd 0x20 0 0xFFFFFFFF (32*2^56), awake (by decide +kernel),
     by decide +kernel⟩⟩

theorem witness_GiveCompletes :
    (∃ (s : State) (t : Nat) (w : BitVec 128) (d : _),
      s.CanIssue t w (plainIssue w [(63, 62), (41, 32), (28, 24), (15, 0)]) ∧ isGive w 1 = true ∧
      (s.tile t).skip.give = 0 ∧ s.siteOf (fld w 41 32) = some d) ∧
    (∃ (s : State) (t : Nat) (w : BitVec 128),
      s.CanIssue t w (plainIssue w [(63, 62), (41, 32), (28, 24), (15, 0)]) ∧ isGive w 1 = true ∧
      (s.tile t).skip.give = 0 ∧ s.siteOf (fld w 41 32) = none) ∧
    (∃ (s : State) (t : Nat) (w : BitVec 128),
      s.CanIssue t w (plainIssue w [(63, 62), (41, 32), (28, 24), (15, 0)]) ∧ isGive w 1 = true ∧ 0 < (s.tile t).skip.give) ∧
    (∃ (s : State) (t : Nat) (w : BitVec 128) (m : _),
      s.CanIssue t w (plainIssue w [(63, 47), (41, 32), (28, 24), (15, 0)]) ∧ isGive w 2 = true ∧
      (s.tile t).skip.give = 0 ∧ s.physOfLogical (fld w 61 47) = some m) ∧
    (∃ (s : State) (t : Nat) (w : BitVec 128),
      s.CanIssue t w (plainIssue w [(63, 47), (41, 32), (28, 24), (15, 0)]) ∧ isGive w 2 = true ∧ 0 < (s.tile t).skip.give) ∧
    (∃ (s : State) (t : Nat) (w : BitVec 128),
      s.CanIssue t w (plainIssue w [(63, 62), (39, 32), (15, 0)]) ∧ isGive w 3 = true ∧ (s.tile t).skip.give = 0) ∧
    (∃ (s : State) (t : Nat) (w : BitVec 128),
      s.CanIssue t w (plainIssue w [(63, 62), (39, 32), (15, 0)]) ∧ isGive w 3 = true ∧ 0 < (s.tile t).skip.give) :=
  ⟨⟨{ run with now := 7 }, 0, wd 0x4 (0) 0xFFFFFFFF (2^62+1023*2^32+31*2^24+0xFFFF), 1023,
     canIssue (by decide +kernel), by decide +kernel⟩,
    ⟨(
       ({ run with map := (rowSites 28).map fun t => (t, { tile := 0, st := 3 }) } : State).wr sparePage 0x100 1023),
     0, wd 0x4 (0) 0xFFFFFFFF (2^62+1023*2^32+31*2^24+0xFFFF), canIssue (by decide +kernel), by decide +kernel⟩,
    ⟨run0 fun x => { x with skip := { give := 1 } }, 0, wd 0x4 (0) 0xFFFFFFFF (2^62+1023*2^32+31*2^24+0xFFFF),
     canIssue (by decide +kernel), by decide +kernel⟩,
    ⟨({ run with ray := { map := some [0x5, 0x6], ports := [(0, { })] } }), 0,
     wd 0x4 (0) 0xFFFFFFFF (2*2^62+1*2^47+1023*2^32+31*2^24+0xFFFF), 6, canIssue (by decide +kernel),
     by decide +kernel⟩,
    ⟨run0 fun x => { x with skip := { give := 1 } }, 0,
     wd 0x4 (0) 0xFFFFFFFF (2*2^62+1*2^47+1023*2^32+31*2^24+0xFFFF), canIssue (by decide +kernel),
     by decide +kernel⟩,
    ⟨{ run with now := 7 }, 0, wd 0x4 (0) 0xFFFFFFFF (3*2^62+255*2^32+0xFFFF), canIssue (by decide +kernel),
     by decide +kernel⟩,
    ⟨run0 fun x => { x with skip := { give := 1 } }, 0, wd 0x4 (0) 0xFFFFFFFF (3*2^62+255*2^32+0xFFFF),
     canIssue (by decide +kernel), by decide +kernel⟩⟩

theorem witness_DescriptorsArePlacedAndStart :
    (∃ (s : State) (t : Nat) (w : BitVec 128) (d : Desc),
      let a := 64 * fld w 60 47
      let again : Bool := (s.tile t).replayTo.isSome && (s.tile t).started.contains (s.tile t).icount
      s.CanIssue t w (s.dmaIssue t w) ∧ isOp w 0x30 = true ∧ parseDesc ((s.tile t).bytes a 64) = some d ∧ again = false) ∧
    (∃ (s : State) (t : Nat) (w : BitVec 128) (d : Desc),
      let a := 64 * fld w 60 47
      let r := s.ready t [(a, 64)] []
      let own : Bool := match d.dst with
        | .tile lt _ => if d.op == 2 then (r.prismSites d).contains t else r.siteOf lt == some t
        | _ => false
      let again : Bool := (s.tile t).replayTo.isSome && (s.tile t).started.contains (s.tile t).icount
      s.CanIssue t w (s.dmaIssue t w) ∧ isOp w 0x30 = true ∧ parseDesc ((s.tile t).bytes a 64) = some d ∧ again = true ∧
      own = true) ∧
    (∃ (s : State) (t : Nat) (w : BitVec 128) (d : Desc),
      let a := 64 * fld w 60 47
      let r := s.ready t [(a, 64)] []
      let own : Bool := match d.dst with
        | .tile lt _ => if d.op == 2 then (r.prismSites d).contains t else r.siteOf lt == some t
        | _ => false
      let again : Bool := (s.tile t).replayTo.isSome && (s.tile t).started.contains (s.tile t).icount
      s.CanIssue t w (s.dmaIssue t w) ∧ isOp w 0x30 = true ∧ parseDesc ((s.tile t).bytes a 64) = some d ∧ again = true ∧
      own = false) ∧
    (∃ (s : State) (t : Nat) (q : Nat) (d : Desc) (c : _),
      s.Awake ∧ t < 1152 ∧ q < 8 ∧ s.carrying t = true ∧ s.dmaHead t q = some d ∧ s.dmaWait t q d = some c ∧
      s.dmaResCheck d = .ok) ∧
    (∃ (s : State) (t : Nat) (q : Nat) (d : Desc) (off : _),
      s.Awake ∧ t < 1152 ∧ q < 8 ∧ s.carrying t = true ∧ s.dmaHead t q = some d ∧ s.dmaWait t q d = none ∧
      d.ownBad s t = some off) ∧
    (∃ (s : State) (t : Nat) (q : Nat) (d : Desc) (dst : _) (c : _),
      s.Awake ∧ t < 1152 ∧ q < 8 ∧ s.carrying t = true ∧ s.dmaHead t q = some d ∧ s.dmaWait t q d = none ∧
      d.ownBad s t = none ∧ s.dmaDst t q d = some dst ∧ d.kc = some c ∧ 0 < s.dmaCredits d) ∧
    (∃ (s : State) (t : Nat) (q : Nat) (d : Desc) (dst : _) (i : _),
      s.Awake ∧ t < 1152 ∧ q < 8 ∧ s.carrying t = true ∧ s.dmaHead t q = some d ∧ s.dmaWait t q d = none ∧
      d.ownBad s t = none ∧ s.dmaDst t q d = some dst ∧ i ≠ t) ∧
    (∃ (s : State) (t : Nat) (q : Nat) (d : Desc) (dst : _) (l : _) (o : _),
      s.Awake ∧ t < 1152 ∧ q < 8 ∧ s.carrying t = true ∧ s.dmaHead t q = some d ∧ s.dmaWait t q d = none ∧
      d.ownBad s t = none ∧ s.dmaDst t q d = some dst ∧ dst = .sites l ∧ o ∈ l) ∧
    (∃ (s : State) (t : Nat) (q : Nat) (d : Desc) (dst : _),
      s.Awake ∧ t < 1152 ∧ q < 8 ∧ s.carrying t = true ∧ s.dmaHead t q = some d ∧ s.dmaWait t q d = none ∧
      d.ownBad s t = none ∧ s.dmaDst t q d = some dst ∧ dst = .device) :=
  ⟨⟨run0 fun x => put (
       put (put (put (put x 0 8 0x1000) 8 8 (2^62+5*2^32+0x400)) 16 4 0x100) 0x14 4 0) 0x18 8 0xFFFFFFFF,
     0, wd 0x30 (0) 0xFFFFFFFF (7*2^61),
     {
       src := .device 4096, dst := .tile 5 1024, len := 256, op := 0, sclass := 0, dead := false, stamp := false,
       nb := 4294967295, kc := none, ccDst := none, ccSrc := none, sstride := 0, dstride := 0, rows := 0, unit := 0,
       slot := 0, tag := 0, start := 0, icount := 0, rp := 0, again := false, poison := false },
     canIssue (by decide +kernel), by decide +kernel⟩,
    ⟨(
       run0 fun x => put (
         put (put (put (put x 0 8 0x1000) 8 8 (2^62+0*2^32+0x400)) 16 4 0x100) 0x14 4 0) 0x18 8 0xFFFFFFFF
     ).modTile 0 fun x => { x with replayTo := some 9, started := [0] },
     0, wd 0x30 (0) 0xFFFFFFFF (7*2^61),
     {
       src := .device 4096, dst := .tile 0 1024, len := 256, op := 0, sclass := 0, dead := false, stamp := false,
       nb := 4294967295, kc := none, ccDst := none, ccSrc := none, sstride := 0, dstride := 0, rows := 0, unit := 0,
       slot := 0, tag := 0, start := 0, icount := 0, rp := 0, again := false, poison := false },
     canIssue (by decide +kernel), by decide +kernel⟩,
    ⟨(
       run0 fun x => put (
         put (put (put (put x 0 8 0x1000) 8 8 (2^62+5*2^32+0x400)) 16 4 0x100) 0x14 4 0) 0x18 8 0xFFFFFFFF
     ).modTile 0 fun x => { x with replayTo := some 9, started := [0] },
     0, wd 0x30 (0) 0xFFFFFFFF (7*2^61),
     {
       src := .device 4096, dst := .tile 5 1024, len := 256, op := 0, sclass := 0, dead := false, stamp := false,
       nb := 4294967295, kc := none, ccDst := none, ccSrc := none, sstride := 0, dstride := 0, rows := 0, unit := 0,
       slot := 0, tag := 0, start := 0, icount := 0, rp := 0, again := false, poison := false },
     canIssue (by decide +kernel), by decide +kernel⟩,
    ⟨run0 fun x => { x with
       dmaq := [
         (
           3,
           [
             {
               src := .device 0x1000, dst := .tile 5 0x400, len := 256, op := 0, sclass := 0, dead := false,
               stamp := false, nb := 0, kc := some 2, ccDst := some 1, ccSrc := some 3, sstride := 0,
               dstride := 256, rows := 1, unit := 0, slot := 0 }])],
       kc := [(2, { base := 0 })] },
     0, 3,
     {
       src := .device 4096, dst := .tile 5 1024, len := 256, op := 0, sclass := 0, dead := false, stamp := false,
       nb := 0, kc := some 2, ccDst := some 1, ccSrc := some 3, sstride := 0, dstride := 256, rows := 1, unit := 0,
       slot := 0, tag := 0, start := 0, icount := 0, rp := 0, again := false, poison := false },
     4, awake (by decide +kernel), by decide +kernel⟩,
    ⟨run0 fun x => { x with
       dmaq := [
         (
           3,
           [
             {
               src := .tile 0 0x500, dst := .tile 5 0x400, len := 256, op := 0, sclass := 0, dead := false,
               stamp := false, nb := 0, kc := some 2, ccDst := some 1, ccSrc := some 3, sstride := 0,
               dstride := 256, rows := 1, unit := 0, slot := 0 }])],
       kc := [(2, { base := 3 })], badScr := [0x500] },
     0, 3,
     {
       src := .tile 0 1280, dst := .tile 5 1024, len := 256, op := 0, sclass := 0, dead := false, stamp := false,
       nb := 0, kc := some 2, ccDst := some 1, ccSrc := some 3, sstride := 0, dstride := 256, rows := 1, unit := 0,
       slot := 0, tag := 0, start := 0, icount := 0, rp := 0, again := false, poison := false },
     1280, awake (by decide +kernel), by decide +kernel⟩,
    ⟨st4, 0, 3,
     {
       src := .device 4096, dst := .tile 5 1024, len := 256, op := 0, sclass := 0, dead := false, stamp := false,
       nb := 0, kc := some 2, ccDst := some 1, ccSrc := some 3, sstride := 0, dstride := 256, rows := 1, unit := 0,
       slot := 0, tag := 0, start := 0, icount := 0, rp := 0, again := false, poison := false },
     .sites [5], 2, awake (by decide +kernel), by decide +kernel⟩,
    ⟨st4, 0, 3,
     {
       src := .device 4096, dst := .tile 5 1024, len := 256, op := 0, sclass := 0, dead := false, stamp := false,
       nb := 0, kc := some 2, ccDst := some 1, ccSrc := some 3, sstride := 0, dstride := 256, rows := 1, unit := 0,
       slot := 0, tag := 0, start := 0, icount := 0, rp := 0, again := false, poison := false },
     .sites [5], 1, awake (by decide +kernel), by decide +kernel⟩,
    ⟨st4, 0, 3,
     {
       src := .device 4096, dst := .tile 5 1024, len := 256, op := 0, sclass := 0, dead := false, stamp := false,
       nb := 0, kc := some 2, ccDst := some 1, ccSrc := some 3, sstride := 0, dstride := 256, rows := 1, unit := 0,
       slot := 0, tag := 0, start := 0, icount := 0, rp := 0, again := false, poison := false },
     .sites [5], [5], 5, awake (by decide +kernel), by decide +kernel⟩,
    ⟨run0 fun x => { x with
       dmaq := [
         (
           3,
           [
             {
               src := .device 0x1000, dst := .device 0x8000, len := 256, op := 1, sclass := 0, dead := false,
               stamp := false, nb := 0, kc := some 2, ccDst := some 1, ccSrc := some 3, sstride := 0,
               dstride := 256, rows := 1, unit := 0, slot := 0 }])],
       kc := [(2, { base := 2 })] },
     0, 3,
     {
       src := .device 4096, dst := .device 32768, len := 256, op := 1, sclass := 0, dead := false, stamp := false,
       nb := 0, kc := some 2, ccDst := some 1, ccSrc := some 3, sstride := 0, dstride := 256, rows := 1, unit := 0,
       slot := 0, tag := 0, start := 0, icount := 0, rp := 0, again := false, poison := false },
     .device, awake (by decide +kernel), by decide +kernel⟩⟩

theorem witness_InboundTransfersLandAndCount :
    (∃ (s : State) (id : Nat) (site : Nat) (lt : Nat) (x : Xfer),
      s.Serves ∧ s.xfers.find? (·.id == id) = some x ∧ x.dst = .scratch site lt ∧ x.add = false ∧ s.inOrder x site = true) ∧
    (∃ (s : State) (id : Nat) (site : Nat) (lt : Nat) (x : Xfer),
      s.Serves ∧ s.xfers.find? (·.id == id) = some x ∧ x.dst = .scratch site lt ∧ x.add = true ∧ s.inOrder x site = true) ∧
    (∃ (s : State) (id : Nat) (site : Nat) (lt : Nat) (x : Xfer),
      s.Serves ∧ s.xfers.find? (·.id == id) = some x ∧ x.dst = .scratch site lt ∧
      (x.add = true ∨ s.inOrder x site = false)) ∧
    (∃ (s : State) (id : Nat) (site : Nat) (lt : Nat) (x : Xfer),
      s.Serves ∧ s.xfers.find? (·.id == id) = some x ∧ x.dst = .scratch site lt ∧
      (x.add = false ∨ s.inOrder x site = false)) ∧
    (∃ (site : Nat) (i : _),
      i ≠ site) ∧
    (∃ (s : State) (site : Nat) (o : Nat) (d : List PByte) (k : _),
      d.length = 4 ∧ d.any (·.poison) = false ∧ o + 4 ≤ scratchSize ∧ (s.tile site).firstBad [(o, 4)] = none ∧
      (k < o ∨ o + 4 ≤ k)) ∧
    (∃ (s : State) (site : Nat) (o : Nat) (d : List PByte) (i : _),
      d.length = 4 ∧ d.any (·.poison) = false ∧ o + 4 ≤ scratchSize ∧ (s.tile site).firstBad [(o, 4)] = none ∧ i ≠ site) ∧
    (∃ (s : State) (site : Nat) (o : Nat) (d : List PByte),
      let a := satAdd32 (BitVec.ofNat 32 ((s.tile site).num o 4)) (BitVec.ofNat 32 (leNat (d.map (·.val))))
      d.length = 4 ∧ d.any (·.poison) = false ∧ o + 4 ≤ scratchSize ∧ (s.tile site).firstBad [(o, 4)] = none ∧ a.2 = false) ∧
    (∃ (s : State) (id : Nat) (x : Xfer),
      s.Serves ∧ s.xfers.find? (·.id == id) = some x ∧ x.dst ≠ .device ∧ x.rows.all (·.done) = true) ∧
    (∃ (s : State) (id : Nat) (x : Xfer),
      s.Serves ∧ s.xfers.find? (·.id == id) = some x ∧ x.dst ≠ .device ∧ x.rows.all (·.done) = false) ∧
    (∃ (s : State) (id : Nat) (x : Xfer),
      s.Serves ∧ s.xfers.find? (·.id == id) = some x ∧ x.dst = .device) ∧
    (∃ (x : Xfer) (site : _) (lt : _) (k : _) (p : _),
      x.dst = .scratch site lt ∧ x.pf = some (k, p)) :=
  ⟨⟨st5, 4, 5, 5,
     {
       id := 4, site := 0, dst := .scratch 5 5,
       rows := [
         {
           off := 786428, len := 4,
           data := [
             { val := 0x01#8, poison := false }, { val := 0x02#8, poison := true },
             { val := 0x03#8, poison := false }, { val := 0x04#8, poison := false }],
           src := none, done := false }],
       add := false, cls := 0, cc := none, ccSrc := none, tag := 0, again := false, pf := none },
     serves (by decide +kernel), by decide +kernel⟩,
    ⟨st6, 4, 5, 5,
     {
       id := 4, site := 0, dst := .scratch 5 5,
       rows := [
         {
           off := 786428, len := 4,
           data := [
             { val := 0x00#8, poison := false }, { val := 0x00#8, poison := false },
             { val := 0x80#8, poison := false }, { val := 0x3f#8, poison := false }],
           src := none, done := false }],
       add := true, cls := 0, cc := none, ccSrc := none, tag := 0, again := false, pf := none },
     serves (by decide +kernel), by decide +kernel⟩,
    ⟨st6, 4, 5, 5,
     {
       id := 4, site := 0, dst := .scratch 5 5,
       rows := [
         {
           off := 786428, len := 4,
           data := [
             { val := 0x00#8, poison := false }, { val := 0x00#8, poison := false },
             { val := 0x80#8, poison := false }, { val := 0x3f#8, poison := false }],
           src := none, done := false }],
       add := true, cls := 0, cc := none, ccSrc := none, tag := 0, again := false, pf := none },
     serves (by decide +kernel), by decide +kernel⟩,
    ⟨st5, 4, 5, 5,
     {
       id := 4, site := 0, dst := .scratch 5 5,
       rows := [
         {
           off := 786428, len := 4,
           data := [
             { val := 0x01#8, poison := false }, { val := 0x02#8, poison := true },
             { val := 0x03#8, poison := false }, { val := 0x04#8, poison := false }],
           src := none, done := false }],
       add := false, cls := 0, cc := none, ccSrc := none, tag := 0, again := false, pf := none },
     serves (by decide +kernel), by decide +kernel⟩,
    ⟨5, 0, by decide +kernel⟩,
    ⟨{ svc with pending := [.brownOut, .holdEnd] }, 5, 0,
     [
       { val := 0x00#8, poison := false }, { val := 0x00#8, poison := false }, { val := 0x80#8, poison := false },
       { val := 0x3f#8, poison := false }],
     4, by decide +kernel⟩,
    ⟨{ svc with pending := [.brownOut, .holdEnd] }, 5, 0,
     [
       { val := 0x00#8, poison := false }, { val := 0x00#8, poison := false }, { val := 0x80#8, poison := false },
       { val := 0x3f#8, poison := false }],
     0, by decide +kernel⟩,
    ⟨{ svc with pending := [.brownOut, .holdEnd] }, 5, 0,
     [
       { val := 0x00#8, poison := false }, { val := 0x00#8, poison := false }, { val := 0x80#8, poison := false },
       { val := 0x3f#8, poison := false }],
     by decide +kernel⟩,
    ⟨{ run with
       xfers := [
         {
           id := 4, site := 0, dst := .scratch 5 5, rows := [{ off := 0, len := 4, done := true }],
           cc := some (5, 31) }] },
     4,
     {
       id := 4, site := 0, dst := .scratch 5 5,
       rows := [{ off := 0, len := 4, data := [], src := none, done := true }], add := false, cls := 0,
       cc := some (5, 31), ccSrc := none, tag := 0, again := false, pf := none },
     serves (by decide +kernel), by decide +kernel⟩,
    ⟨st5, 4,
     {
       id := 4, site := 0, dst := .scratch 5 5,
       rows := [
         {
           off := 786428, len := 4,
           data := [
             { val := 0x01#8, poison := false }, { val := 0x02#8, poison := true },
             { val := 0x03#8, poison := false }, { val := 0x04#8, poison := false }],
           src := none, done := false }],
       add := false, cls := 0, cc := none, ccSrc := none, tag := 0, again := false, pf := none },
     serves (by decide +kernel), by decide +kernel⟩,
    ⟨{ run with
       xfers := [
         {
           id := 4, site := 0, dst := .device,
           rows := [{ off := 0x1000, len := 4, data := List.replicate 4 ⟨9,false⟩ }], cc := some (5, 3) }] },
     4,
     {
       id := 4, site := 0, dst := .device,
       rows := [
         {
           off := 4096, len := 4,
           data := [
             { val := 0x09#8, poison := false }, { val := 0x09#8, poison := false },
             { val := 0x09#8, poison := false }, { val := 0x09#8, poison := false }],
           src := none, done := false }],
       add := false, cls := 0, cc := some (5, 3), ccSrc := none, tag := 0, again := false, pf := none },
     serves (by decide +kernel), by decide +kernel⟩,
    ⟨{
       id := 4, site := 0, dst := .scratch 5 5, rows := [], cc := some (5, 31),
       pf := some (3, { chunks := [1], dst := 0, len := 4, cls := 0, stamps := [], stale := [] }) },
     5, 5, 3,
     { chunks := [1], dst := 0, len := 4, cls := 0, stamps := [], stale := [] },
     by decide +kernel⟩⟩

theorem witness_GlintMessagesComplete :
    (∃ (s : State) (t : Nat) (w : BitVec 128),
      let x := s.tile t
      s.CanIssue t w (s.gsendIssue t w) ∧ isOp w 0x38 = true ∧ 0 < x.skip.gsend) ∧
    (∃ (s : State) (t : Nat) (w : BitVec 128) (h : _),
      let a := 64 * fld w 63 50
      let x := s.tile t
      s.CanIssue t w (s.gsendIssue t w) ∧ isOp w 0x38 = true ∧ x.skip.gsend = 0 ∧ parseHead (x.bytes a 16) = some h ∧
      h.remote = none ∧ s.siteOf h.tile = none) ∧
    (∃ (s : State) (t : Nat) (w : BitVec 128) (h : _) (d : _),
      let a := 64 * fld w 63 50
      let x := s.tile t
      s.CanIssue t w (s.gsendIssue t w) ∧ isOp w 0x38 = true ∧ x.skip.gsend = 0 ∧ parseHead (x.bytes a 16) = some h ∧
      h.remote = none ∧ s.siteOf h.tile = some d) ∧
    (∃ (s : State) (t : Nat) (w : BitVec 128) (h : _) (m : _) (n : _),
      let a := 64 * fld w 63 50
      let x := s.tile t
      s.CanIssue t w (s.gsendIssue t w) ∧ isOp w 0x38 = true ∧ x.skip.gsend = 0 ∧ parseHead (x.bytes a 16) = some h ∧
      h.remote = some m ∧ s.physOfLogical m = some n) ∧
    (∃ (s : State) (t : Nat) (w : BitVec 128),
      s.CanIssue t w (s.grecvIssue t w) ∧ isOp w 0x39 = true ∧ 0 < (s.tile t).skip.grecv) ∧
    (∃ (s : State) (t : Nat) (w : BitVec 128) (g : _) (rest : _) (d : _),
      let m := fld w 1 0
      s.CanIssue t w (s.grecvIssue t w) ∧ isOp w 0x39 = true ∧ (s.tile t).skip.grecv = 0 ∧
      s.nextMsg t m = some (g, rest) ∧ g.srcMod = s.logical.getD 0 ∧ s.siteOf g.srcTile = some d) ∧
    (∃ (s : State) (t : Nat) (w : BitVec 128) (g : _) (rest : _),
      let m := fld w 1 0
      s.CanIssue t w (s.grecvIssue t w) ∧ isOp w 0x39 = true ∧ (s.tile t).skip.grecv = 0 ∧
      s.nextMsg t m = some (g, rest) ∧ g.srcMod = s.logical.getD 0 ∧ s.siteOf g.srcTile = none) ∧
    (∃ (s : State) (t : Nat) (w : BitVec 128) (g : _) (rest : _),
      let m := fld w 1 0
      s.CanIssue t w (s.grecvIssue t w) ∧ isOp w 0x39 = true ∧ (s.tile t).skip.grecv = 0 ∧
      s.nextMsg t m = some (g, rest) ∧ g.srcMod ≠ s.logical.getD 0) ∧
    (∃ (s : State) (id : Nat) (g : GFlight),
      s.Serves ∧ s.glints.find? (·.id == id) = some g ∧ (sget [] (s.tile g.site).mbox g.mbox).length < 4 ∧
      s.glints.any (·.before g) = false) ∧
    (∃ (s : State) (id : Nat) (g : GFlight),
      s.Serves ∧ s.glints.find? (·.id == id) = some g ∧
      (4 ≤ (sget [] (s.tile g.site).mbox g.mbox).length ∨ s.glints.any (·.before g) = true)) :=
  ⟨⟨st7, 0, wd 0x38 (0) 0xFFFFFFFF (0), canIssue (by decide +kernel), by decide +kernel⟩,
    ⟨{ (run0 fun x => { put (put x 0 8 (2^62 + 7*2^32 + 3)) 8 8 (31*2^8+239) with kc := [(31, { base := 1 })] }) with
       map := [(7, { tile := 0, st := 3 })] },
     0, wd 0x38 (0) 0xFFFFFFFF (0),
     { remote := none, tile := 7, mbox := 3, len := 240, kc := 31, low := 8175 },
     canIssue (by decide +kernel), by decide +kernel⟩,
    ⟨run0 fun x => { put (put x 0 8 (2^62 + 1023*2^32 + 3)) 8 8 (31*2^8+239) with kc := [(31, { base := 1 })] },
     0, wd 0x38 (0) 0xFFFFFFFF (0),
     { remote := none, tile := 1023, mbox := 3, len := 240, kc := 31, low := 8175 },
     1023, canIssue (by decide +kernel), by decide +kernel⟩,
    ⟨{ (run0 fun x => { put (put x 0 8 (2*2^62 + 1*2^47 + 1023*2^32 + 3)) 8 8 (31*2^8+239) with kc := [(31, { base := 1 })] }) with
       ray := { map := some [5, 6] } },
     0, wd 0x38 (0) 0xFFFFFFFF (0),
     { remote := some 1, tile := 1023, mbox := 3, len := 240, kc := 31, low := 8175 },
     1, 6, canIssue (by decide +kernel), by decide +kernel⟩,
    ⟨st7, 0, wd 0x39 (0) 0xFFFFFFFF (100*2^50+3), canIssue (by decide +kernel), by decide +kernel⟩,
    ⟨run0 fun x => { x with
       mbox := [(3, [{ srcMod := 0, srcTile := 5, kc := 31, slot := List.replicate 256 7, tag := 0 }])] },
     0, wd 0x39 (0) 0xFFFFFFFF (100*2^50+3),
     { srcMod := 0, srcTile := 5, kc := 31, slot := (List.replicate 256 0x07#8), tag := 0 },
     [], 5, canIssue (by decide +kernel), by decide +kernel⟩,
    ⟨{ run0 fun x => { x with mbox := [(3, [{ srcMod := 0, srcTile := 7, kc := 31, slot := List.replicate 256 7, tag := 0 }])] } with
       map := [(7, { tile := 0, st := 3 })] },
     0, wd 0x39 (0) 0xFFFFFFFF (100*2^50+3),
     { srcMod := 0, srcTile := 7, kc := 31, slot := (List.replicate 256 0x07#8), tag := 0 },
     [], canIssue (by decide +kernel), by decide +kernel⟩,
    ⟨{ run0 fun x => { x with mbox := [(3, [{ srcMod := 1, srcTile := 5, kc := 31, slot := List.replicate 256 7, tag := 0 }])] } with
       ray := { map := some [0,5] } },
     0, wd 0x39 (0) 0xFFFFFFFF (100*2^50+3),
     { srcMod := 1, srcTile := 5, kc := 31, slot := (List.replicate 256 0x07#8), tag := 0 },
     [], canIssue (by decide +kernel), by decide +kernel⟩,
    ⟨{ run with
       glints := [
         { id := 9, site := 2, mbox := 3, msg := { srcMod := 0, srcTile := 5, kc := 31, slot := [], tag := 0 } }],
       tiles := [
         (
           2,
           {
             mbox := [
               (
                 3,
                 [
                   { srcMod := 0, srcTile := 5, kc := 31, slot := [], tag := 0 },
                   { srcMod := 0, srcTile := 5, kc := 31, slot := [], tag := 0 },
                   { srcMod := 0, srcTile := 5, kc := 31, slot := [], tag := 0 }])] })] },
     9,
     { id := 9, site := 2, mbox := 3, msg := { srcMod := 0, srcTile := 5, kc := 31, slot := [], tag := 0 } },
     serves (by decide +kernel), by decide +kernel⟩,
    ⟨{ run with
       glints := [
         { id := 9, site := 2, mbox := 3, msg := { srcMod := 0, srcTile := 5, kc := 31, slot := [], tag := 0 } }],
       tiles := [
         (
           2,
           {
             mbox := [
               (
                 3,
                 [
                   { srcMod := 0, srcTile := 5, kc := 31, slot := [], tag := 0 },
                   { srcMod := 0, srcTile := 5, kc := 31, slot := [], tag := 0 },
                   { srcMod := 0, srcTile := 5, kc := 31, slot := [], tag := 0 },
                   { srcMod := 0, srcTile := 5, kc := 31, slot := [], tag := 0 }])] })] },
     9,
     { id := 9, site := 2, mbox := 3, msg := { srcMod := 0, srcTile := 5, kc := 31, slot := [], tag := 0 } },
     serves (by decide +kernel), by decide +kernel⟩⟩

theorem witness_ReadCacheFamilyCompletes :
    (∃ (s : State) (t : Nat) (w : BitVec 128),
      let u := s.ldcTry t w
      u.CanIssue t w (u.ldcIssue t w) ∧ isOp w 0x40 = true) ∧
    (∃ (s : State) (t : Nat) (w : BitVec 128),
      let n := ldcSize w
      let r := (s.tile t).ldcRun w
      let as := (s.ldcAddrs t w).drop r.next
      let line (a : Nat) : RcLine := (((s.tile t).rcache.find? (·.2.line == a / 256)).map (·.2)).getD { line := 0, data := [] }
      s.CanIssue t w { s.ldcIssue t w with also := none } ∧ isOp w 0x40 = true ∧ sclassOf w ≠ 3 ∧
      ((∀ a ∈ as, s.ldcBad a n = false ∧ s.ldcDirect a = false ∧ (s.tile t).rcHas (a / 256) = true ∧ ∀ b ∈ (line a).bad, ¬(a % 256 ≤ b ∧ b < a % 256 + n)))) ∧
    (∃ (s : State) (n : Nat) (a : Nat),
      s.ldcBad a n = true) ∧
    (∃ (s : State) (n : Nat) (a : Nat),
      s.ldcBad a n = false ∧ s.ldcDirect a = true) ∧
    (∃ (s : State) (t : Nat) (w : BitVec 128) (a : Nat) (as : List Nat),
      let r := (s.tile t).ldcRun w
      s.CanIssue t w { s.ldcIssue t w with also := none } ∧ isOp w 0x40 = true ∧ sclassOf w ≠ 3 ∧
      (s.ldcAddrs t w).drop r.next = a :: as ∧ s.ldcBad a (ldcSize w) = false ∧ s.ldcDirect a = false ∧
      (s.tile t).rcHas (a / 256) = false) ∧
    (∃ (s : State) (t : Nat) (line : Nat) (cls : _),
      let gone := s.modTile t fun x => { x with rcWant := x.rcWant.filter (·.1 != line) }
      s.Serves ∧ t < 1152 ∧ (s.tile t).rcWant.find? (·.1 == line) = some (line, cls) ∧
      s.rangeReady (line * 256) 256 = true ∧ gone.reservedFor (line * 256) = false ∧ gone.ldcDirect (line * 256) = false) ∧
    (∃ (s : State) (t : Nat) (line : Nat) (cls : _),
      let gone := s.modTile t fun x => { x with rcWant := x.rcWant.filter (·.1 != line) }
      s.Serves ∧ t < 1152 ∧ (s.tile t).rcWant.find? (·.1 == line) = some (line, cls) ∧
      s.rangeReady (line * 256) 256 = true ∧ (gone.reservedFor (line * 256) = true ∨ gone.ldcDirect (line * 256) = true)) ∧
    (∃ (s : State) (t : Nat) (line : Nat) (cls : _),
      s.Serves ∧ t < 1152 ∧ (s.tile t).rcWant.find? (·.1 == line) = some (line, cls) ∧
      s.rangeReady (line * 256) 256 = false) ∧
    (∃ (s : State) (t : Nat) (line : Nat),
      s.Serves ∧ t < 1152 ∧ (s.tile t).rcWant.any (·.1 == line) = false) :=
  ⟨⟨st8, 0, wd 0x40 (0) 0xFFFFFFFF (0x40*2^36+1*2^30+1*2^27), canIssue (by decide +kernel), by decide +kernel⟩,
    ⟨st8, 0, wd 0x40 (0) 0xFFFFFFFF (0x40*2^36+1*2^30+1*2^27), canIssue (by decide +kernel), by decide +kernel⟩,
    ⟨{ svc with pending := [.brownOut, .holdEnd] }, 8, 0x0F0000000000, by decide +kernel⟩,
    ⟨run.wr (pciePage 0) 0x100 0x1000 |>.wr (pciePage 0) offStatus 19, 8, 0x080000000000, by decide +kernel⟩,
    ⟨{ run with now := 7 }, 0, wd 0x40 (0) 0xFFFFFFFF (0x40*2^36+1*2^30+1*2^27), 0, [0],
     canIssue (by decide +kernel), by decide +kernel⟩,
    ⟨run0 fun x => { x with rcWant := [(0x10, 0)] }, 0, 0x10, 0, serves (by decide +kernel), by decide +kernel⟩,
    ⟨run0 fun x => { x with rcWant := [(0xF00000000, 0), (0xFFFFFFFFFF, 0)] },
     0, 0xF00000000, 0, serves (by decide +kernel), by decide +kernel⟩,
    ⟨{ (run0 fun x => { x with rcWant := [(0x10, 0)] }) with
       dies := [(0, { resetting := true }), (1, { resetting := true })] },
     0, 0x10, 0, serves (by decide +kernel), by decide +kernel⟩,
    ⟨{ svc with pending := [.brownOut, .holdEnd] }, 0, 0x10, serves (by decide +kernel), by decide +kernel⟩⟩

theorem witness_TileEventsComplete :
    (∃ (s : State) (t : Nat) (slot : Nat) (p : Prefetch),
      s.Awake ∧ t < 1152 ∧ slot < 16 ∧ sfind (s.tile t).pf slot = some p ∧
      (p.chunks.all fun a => s.rangeReady a 4096) = true ∧
      ((∀ k < p.chunks.length, p.stale.contains k = false ∧ s.chunkNow (p.chunks.getD k 0) = p.stamps.getD k 0))) ∧
    (∃ (s : State) (t : Nat) (slot : Nat) (p : Prefetch),
      s.Awake ∧ t < 1152 ∧ slot < 16 ∧ sfind (s.tile t).pf slot = some p ∧
      (p.chunks.all fun a => s.rangeReady a 4096) = false) ∧
    (∃ (s : State) (t : Nat) (e : ParityErr),
      s.Awake ∧ t < 1152 ∧ (s.tile t).perr = some e ∧ s.quiet t = false) ∧
    (∃ (s : State) (t : Nat) (e : ParityErr),
      s.Awake ∧ t < 1152 ∧ (s.tile t).perr = some e ∧ s.quiet t = true ∧ (s.tile t).usable e = none) ∧
    (∃ (s : State) (t : Nat) (e : ParityErr) (r : _),
      let ds := s.recordDescs r.addr 1024
      let ok := ds.all fun d => (s.dmaRanges d).all fun p => s.rangeReady p.1 p.2
      s.Awake ∧ t < 1152 ∧ (s.tile t).perr = some e ∧ s.quiet t = true ∧ (s.tile t).usable e = some r ∧ ok = false) ∧
    (∃ (s : State) (t : Nat) (e : ParityErr) (r : _),
      let ds := s.recordDescs r.addr 1024
      let ok := ds.all fun d => (s.dmaRanges d).all fun p => s.rangeReady p.1 p.2
      s.Awake ∧ t < 1152 ∧ (s.tile t).perr = some e ∧ s.quiet t = true ∧ (s.tile t).usable e = some r ∧ ok = true) ∧
    (∃ (t : Nat) (e : ParityErr),
      t < 1152 ∧ e.acc = false) ∧
    (∃ (t : Nat) (e : ParityErr),
      t < 1152 ∧ e.acc = true) ∧
    (∃ (t : Nat) (i : _),
      t < 1152 ∧ i ≠ t) ∧
    (∃ (s : State) (t : Nat),
      t < 1152 ∧ (s.tile t).rpFails.any (s.gn.frame < · + 1024) = true) ∧
    (∃ (s : State) (t : Nat) (l : List Nat),
      s.Awake ∧ t < 1152 ∧ (s.flag t offControl 0 = false ∨ l = [] ∨ (s.siteEnt t).st = 3)) ∧
    (∃ (s : State) (t : Nat) (l : List Nat),
      let m := l.foldl min 255
      s.Awake ∧ t < 1152 ∧ s.flag t offControl 0 = true ∧ l ≠ [] ∧ (s.siteEnt t).st ≠ 3 ∧ Config.hardThreshold ≤ m) ∧
    (∃ (s : State) (t : Nat) (l : List Nat),
      let m := l.foldl min 255
      s.Awake ∧ t < 1152 ∧ s.flag t offControl 0 = true ∧ l ≠ [] ∧ (s.siteEnt t).st ≠ 3 ∧ m < Config.hardThreshold) ∧
    (∃ (s : State) (t : Nat),
      t < 1152 ∧ s.freqOp t ≤ 400) ∧
    (∃ (s : State) (t : Nat) (tensor : Nat) (step : Nat) (e : SpecEntry) (rest : List (Nat × SpecEntry)),
      s.Awake ∧ t < 1152 ∧ takeFirst (fun d => d.2.tensor == tensor) (s.tile t).specDue = some ((step, e), rest) ∧
      s.specFlush step e (.tile t) = none) ∧
    (∃ (s : State) (t : Nat) (tensor : Nat) (step : Nat) (e : SpecEntry) (rest : List (Nat × SpecEntry)) (u : _),
      s.Awake ∧ s.specFlush step e (.tile t) = some u ∧ t < 1152 ∧
      takeFirst (fun d => d.2.tensor == tensor) (s.tile t).specDue = some ((step, e), rest)) ∧
    (∃ (s : State),
      let h := s.hdrFlush
      s.Serves ∧ h.steps.doneSteps = []) ∧
    (∃ (s : State) (step : _) (base : _) (n : _) (rest : _),
      let h := s.hdrFlush
      s.Serves ∧ h.steps.doneSteps = (step, base, n) :: rest ∧ (h.flushed step = false ∨ h.doneReady step base n = false)) ∧
    (∃ (s : State) (step : _) (base : _) (n : _) (rest : _),
      let h := s.hdrFlush
      s.Serves ∧ h.steps.doneSteps = (step, base, n) :: rest ∧ h.flushed step = true ∧ n = 0) ∧
    (∃ (s : State) (step : _) (base : _) (n : _) (rest : _),
      let h := s.hdrFlush
      s.Serves ∧ h.steps.doneSteps = (step, base, n) :: rest ∧ h.flushed step = true ∧ h.doneReady step base n = true ∧
      n ≠ 0) :=
  ⟨⟨run0 fun x => { x with
       pf := [
         (2, { chunks := [0x1000], dst := 0x2000, len := 4096, cls := 0, stamps := [0], stale := [] }),
         (15, { chunks := [0x1000], dst := 0x2000, len := 4096, cls := 0, stamps := [0], stale := [0] })] },
     0, 2,
     { chunks := [4096], dst := 8192, len := 4096, cls := 0, stamps := [0], stale := [] },
     awake (by decide +kernel), by decide +kernel⟩,
    ⟨{ (run0 fun x => { x with pf := [(2, { chunks := [0x1000], dst := 0x2000, len := 4096, cls := 0, stamps := [0], stale := [] }), (15, { chunks := [0x1000], dst := 0x2000, len := 4096, cls := 0, stamps := [0], stale := [0] })] }) with
       dies := [(0, { resetting := true }), (1, { resetting := true })] },
     0, 2,
     { chunks := [4096], dst := 8192, len := 4096, cls := 0, stamps := [0], stale := [] },
     awake (by decide +kernel), by decide +kernel⟩,
    ⟨run0 fun x => { x with
       perr := some { off := 64, offs := [64, 65], acc := false, icount := 7 }, icount := 7, rcWant := [(3,0)] },
     0,
     { off := 64, offs := [64, 65], acc := false, icount := 7, dma := none },
     awake (by decide +kernel), by decide +kernel⟩,
    ⟨run0 fun x => { x with
       perr := some { off := 64, offs := [64, 65], acc := false, icount := 7 }, icount := 7, pos := 6 },
     0,
     { off := 64, offs := [64, 65], acc := false, icount := 7, dma := none },
     awake (by decide +kernel), by decide +kernel⟩,
    ⟨{ recd with dies := [(0, { resetting := true }), (1, { resetting := true })] },
     0,
     { off := 64, offs := [64, 65], acc := false, icount := 7, dma := none },
     { addr := 36864, pos := 2, pass := 0, reentry := none, rbase := 1 }, awake (by decide +kernel),
     by decide +kernel⟩,
    ⟨run0 fun x => { x with
       perr := some { off := 64, offs := [64, 65], acc := false, icount := 7 },
       rpoint := some { addr := 0x9000, pos := 2, pass := 0, reentry := none, rbase := 1 }, done := { waitc := 2 },
       icount := 7, pos := 6 },
     0,
     { off := 64, offs := [64, 65], acc := false, icount := 7, dma := none },
     { addr := 36864, pos := 2, pass := 0, reentry := none, rbase := 1 }, awake (by decide +kernel),
     by decide +kernel⟩,
    ⟨0, { off := 64, offs := [64, 65], acc := false, icount := 7 }, by decide +kernel⟩,
    ⟨0, { off := 64, offs := [64, 65], acc := true, icount := 7 }, by decide +kernel⟩,
    ⟨0, 1, by decide +kernel⟩,
    ⟨run0 fun x => { x with
       perr := some { off := 64, offs := [64, 65], acc := true, icount := 7 }, icount := 7, pos := 6,
       rpFails := [0, 3] },
     0, by decide +kernel⟩,
    ⟨{ svc with pending := [.brownOut, .holdEnd] }, 0, [], awake (by decide +kernel), by decide +kernel⟩,
    ⟨{ svc with pending := [.brownOut, .holdEnd] }, 0, [100, 100], awake (by decide +kernel), by decide +kernel⟩,
    ⟨{ svc with pending := [.brownOut, .holdEnd] }, 0, [9, 3, 255, 0, 1, 1, 1, 1], awake (by decide +kernel),
     by decide +kernel⟩,
    ⟨run.wr 0 0x110 400, 0, by decide +kernel⟩,
    ⟨{ (run0 fun x => { x with specDue := [(0, { tensor := 9, zeros := 3, sats := 1 })] }) with
       adm := { active := some { img with specBase := 0x10000, specN := 4096 } },
       dies := [(0, { resetting := true }), (1, { resetting := true })] },
     0, 9, 0, { tensor := 9, zeros := 3, sats := 1, nonfin := 0 }, [], awake (by decide +kernel),
     by decide +kernel⟩,
    ⟨run0 fun x => { x with specDue := [(0, { tensor := 9, zeros := 3, sats := 1 })] },
     0, 9, 0, { tensor := 9, zeros := 3, sats := 1, nonfin := 0 }, [], _, awake (by decide +kernel),
     (Option.some_get (by decide +kernel)).symm, by decide +kernel⟩,
    ⟨{ svc with pending := [.brownOut, .holdEnd] }, serves (by decide +kernel), by decide +kernel⟩,
    ⟨{ run with
       steps := { step := 5, doneSteps := [(3, 0x10000, 4)] },
       adm := { active := some { img with specBase := 0x10000, specN := 4096 } },
       dies := [(0, { resetting := true }), (1, { resetting := true })] },
     3, 65536, 4, [], serves (by decide +kernel), by decide +kernel⟩,
    ⟨{ run with steps := { step := 5, doneSteps := [(3, 0x10000, 0)] } }, 3, 65536, 0, [],
     serves (by decide +kernel), by decide +kernel⟩,
    ⟨{ run with steps := { step := 5, doneSteps := [3,4] } }, 3, 3, 3, [(4, 4, 4)], serves (by decide +kernel),
     by decide +kernel⟩⟩

theorem witness_MirrorTasksRunAndEnd :
    (∃ (s : State) (t : Nat) (w : BitVec 128) (k : MTask),
      let q := s.mirrorIssue t w
      s.CanIssue t w q ∧ isOp w 0x50 = true ∧ s.mirrorTask t w = some k) ∧
    (∃ (s : State) (t : Nat) (m : MirrorTask),
      s.Awake ∧ t < 1152 ∧ (s.tile t).mirror = some m ∧ s.adm.active = none) ∧
    (∃ (s : State) (t : Nat) (m : MirrorTask) (i : _),
      s.Awake ∧ t < 1152 ∧ (s.tile t).mirror = some m ∧ s.adm.active = some i) ∧
    (∃ (s : State) (t : Nat),
      s.Awake ∧ t < 1152 ∧ (s.tile t).mirror = none) :=
  ⟨⟨{ (run0 (fun x : Tile => put (put (put x 0x1000 8 2) 0x1010 8 (0x4000 + 2^30)) 0x4000 8 0x4000000040400000)) with
       adm := { active := some { img with store := [0x04000000, 0x08000000, 0xFC000000], progs := [(0, 2)] } } },
     0, wd 0x50 (0) 0xFFFFFFFF (0x40*2^50),
     {
       e := 2, scalars := 0, base := 0,
       streams := [
         {
           off := 16384, fmt := 0, sr := false, traffic := 0, specEn := false, fpEn := false, used := true,
           tensor := 0, soff := 0 },
         {
           off := 0, fmt := 0, sr := false, traffic := 0, specEn := false, fpEn := false, used := false,
           tensor := 0, soff := 0 },
         {
           off := 0, fmt := 0, sr := false, traffic := 0, specEn := false, fpEn := false, used := false,
           tensor := 0, soff := 0 },
         {
           off := 0, fmt := 0, sr := false, traffic := 0, specEn := false, fpEn := false, used := false,
           tensor := 0, soff := 0 },
         {
           off := 0, fmt := 0, sr := false, traffic := 0, specEn := false, fpEn := false, used := false,
           tensor := 0, soff := 0 },
         {
           off := 0, fmt := 0, sr := false, traffic := 0, specEn := false, fpEn := false, used := false,
           tensor := 0, soff := 0 },
         {
           off := 0, fmt := 0, sr := false, traffic := 0, specEn := false, fpEn := false, used := false,
           tensor := 0, soff := 0 },
         {
           off := 0, fmt := 0, sr := false, traffic := 0, specEn := false, fpEn := false, used := false,
           tensor := 0, soff := 0 }],
       normOut := 0, log2g := 0, fpFirst := 0, fpOn := false },
     canIssue (by decide +kernel), by decide +kernel⟩,
    ⟨{ run with adm := {} }.modTile 0 fun x => { x with
       mirror := some {
         prog := 0, norms := [], normOut := 0x2000, fprints := [], tag := 0, reads := [], writes := [] } },
     0,
     { prog := 0, norms := [], normOut := 8192, fprints := [], tag := 0, reads := [], writes := [] },
     awake (by decide +kernel), by decide +kernel⟩,
    ⟨{ (run0 fun x => { x with mirror := some { prog := 0, norms := [0x3F800000, 7], normOut := 0x2000, fprints := [(5, 0x1234)], tag := 0, reads := [], writes := [] } }) with
       adm := { active := some img } },
     0,
     {
       prog := 0, norms := [0x3f800000#32, 0x00000007#32], normOut := 8192, fprints := [(5, 0x0000000000001234#64)],
       tag := 0, reads := [], writes := [] },
     img, awake (by decide +kernel), by decide +kernel⟩,
    ⟨{ svc with pending := [.brownOut, .holdEnd] }, 0, awake (by decide +kernel), by decide +kernel⟩⟩

theorem witness_GnomonFamilyCompletes :
    (∃ (s : State) (p : Nat),
      s.Serves ∧ p < 16 ∧ s.portUp p = false) ∧
    (∃ (s : State) (p : Nat) (w : GnomonWord),
      s.Serves ∧ p < 16 ∧ s.portUp p = true ∧ w.seq = 0) ∧
    (∃ (s : State) (p : Nat) (w : GnomonWord) (arrival : Nat) (replayed : Bool),
      let took := if w.seq = 0 then (s.ctrlIn p).hearReport p w else (s.ctrlIn p).hearMaster p w
      let m := if replayed then took.elect else took.elect.measureWord p w arrival
      s.Serves ∧ p < 16 ∧ s.portUp p = true ∧ (m.gn.upstream ≠ some p ∨ w.seq = 0)) ∧
    (∃ (s : State) (p : Nat) (w : GnomonWord) (arrival : Nat) (replayed : Bool),
      let took := if w.seq = 0 then (s.ctrlIn p).hearReport p w else (s.ctrlIn p).hearMaster p w
      let m := if replayed then took.elect else took.elect.measureWord p w arrival
      s.Serves ∧ p < 16 ∧ s.portUp p = true ∧ m.gn.upstream = some p ∧ w.seq ≠ 0) ∧
    (∃ (s : State),
      s.Serves ∧ (s.gn.master = true ∨ s.gn.upstream = none ∨ s.gn.holdover = true)) ∧
    (∃ (s : State),
      s.Serves ∧ s.gn.master = false ∧ s.gn.upstream.isSome = true ∧ s.gn.holdover = false) ∧
    (∃ (s : State),
      s.Serves ∧ s.gn.upstream = none) ∧
    (∃ (s : State),
      s.Serves ∧ s.gn.master = true ∧ s.gn.setPend = true ∧ s.gn.running = false) ∧
    (∃ (s : State),
      s.Serves ∧ s.gn.master = true ∧ (s.gn.setPend = false ∨ s.gn.running = true)) ∧
    (∃ (s : State),
      s.Serves ∧ s.flag gnPage offControl 1 = true) ∧
    (∃ (s : State),
      s.Serves ∧ s.flag gnPage offControl 1 = false) ∧
    (∃ (s : State) (o : Origin),
      s.Serves ∧ operatorOnly (roleOf o) = true ∧ s.gn.master = true ∧ s.adm.active = none ∧ s.gn.ppsUsed = false) ∧
    (∃ (s : State) (o : Origin),
      s.Serves ∧ operatorOnly (roleOf o) = true ∧ s.gn.master = true ∧ s.adm.active = none ∧ s.gn.ppsUsed = true) :=
  ⟨⟨{ svc with pending := [.brownOut, .holdEnd] }, 3, serves (by decide +kernel), by decide +kernel⟩,
    ⟨withUp run [2,3], 3,
     {
       txCount := 5, txFrac := 0, masterPrio := 3, masterId := 77, epoch := 1, seq := 0, hops := 2, echoRx := 0,
       echoTurn := 0, frame := 0, flag := true, switchGo := false, switchAbort := false, hold := false, start := 0,
       switchFrame := 0, readyCount := 4 },
     serves (by decide +kernel), by decide +kernel⟩,
    ⟨withUp run [2,3], 3,
     {
       txCount := 5, txFrac := 0, masterPrio := 3, masterId := 77, epoch := 1, seq := 0, hops := 2, echoRx := 0,
       echoTurn := 0, frame := 0, flag := true, switchGo := false, switchAbort := false, hold := false, start := 0,
       switchFrame := 0, readyCount := 4 },
     0x1234, false, serves (by decide +kernel), by decide +kernel⟩,
    ⟨withUp run [2,3], 3,
     {
       txCount := 5, txFrac := 0, masterPrio := 3, masterId := 77, epoch := 1, seq := 9, hops := 2, echoRx := 0,
       echoTurn := 0, frame := 0, flag := true, switchGo := false, switchAbort := false, hold := false, start := 0,
       switchFrame := 0, readyCount := 4 },
     0x1234, false, serves (by decide +kernel), by decide +kernel⟩,
    ⟨{ svc with pending := [.brownOut, .holdEnd] }, serves (by decide +kernel), by decide +kernel⟩,
    ⟨{ withUp run [3] with gn := { running := true, heard := [(3, ⟨1,77,0,1,0,0⟩)], upstream := some 3 } },
     serves (by decide +kernel), by decide +kernel⟩,
    ⟨{ svc with pending := [.brownOut, .holdEnd] }, serves (by decide +kernel), by decide +kernel⟩,
    ⟨st9, serves (by decide +kernel), by decide +kernel⟩,
    ⟨st10, serves (by decide +kernel), by decide +kernel⟩,
    ⟨st9, serves (by decide +kernel), by decide +kernel⟩,
    ⟨{ svc with pending := [.brownOut, .holdEnd] }, serves (by decide +kernel), by decide +kernel⟩,
    ⟨({ svc with gn := { master := true } } : State).wr gnPage 0x148 7, .boot, serves (by decide +kernel),
     by decide +kernel⟩,
    ⟨({ svc with gn := { master := true, ppsUsed := true } } : State), .boot, serves (by decide +kernel),
     by decide +kernel⟩⟩

theorem witness_FramesBeginAndDecide :
    (∃ (s : State),
      s.Serves ∧ s.nextStart = none) ∧
    (∃ (s : State) (n : _),
      s.Serves ∧ s.nextStart = some n ∧ s.gn.count < n) ∧
    (∃ (s : State) (n : _),
      s.Serves ∧ s.nextStart = some n ∧ n ≤ s.gn.count) ∧
    (∃ (s : State),
      s.Serves ∧
      (s.gn.master = false ∨ (s.gn.running = true ∧ (s.gn.count < s.gn.start + 2048 ∨ s.gn.dec.any (·.frame == s.gn.frame) = true)))) ∧
    (∃ (s : State),
      s.Serves ∧ s.gn.master = true ∧ s.gn.running = true ∧ s.gn.start + 2048 ≤ s.gn.count ∧
      s.gn.dec.any (·.frame == s.gn.frame) = false) ∧
    (∃ (s : State),
      let due : Bool := s.adm.state == 4 && s.adm.go.isNone && s.adm.g0 + 2048 ≤ s.gn.count + 8192
      s.Serves ∧ s.gn.master = true ∧ s.gn.running = false ∧ due = false) ∧
    (∃ (s : State),
      let due : Bool := s.adm.state == 4 && s.adm.go.isNone && s.adm.g0 + 2048 ≤ s.gn.count + 8192
      s.Serves ∧ s.gn.master = true ∧ s.gn.running = false ∧ due = true) :=
  ⟨⟨{ svc with pending := [.brownOut, .holdEnd] }, serves (by decide +kernel), by decide +kernel⟩,
    ⟨{ run0 (fun x => { x with vregs := [(1, [5])] }) with
       gn := { running := true, frame := 3, start := 1000, count := 5095, dec := some ⟨3, false, false, 5096⟩ } },
     5096, serves (by decide +kernel), by decide +kernel⟩,
    ⟨{ run0 (fun x => { x with vregs := [(1, [5])] }) with
       gn := { running := true, frame := 3, start := 1000, count := 5096, dec := some ⟨3, false, false, 5096⟩ } },
     5096, serves (by decide +kernel), by decide +kernel⟩,
    ⟨{ svc with pending := [.brownOut, .holdEnd] }, serves (by decide +kernel), by decide +kernel⟩,
    ⟨st10, serves (by decide +kernel), by decide +kernel⟩,
    ⟨st9, serves (by decide +kernel), by decide +kernel⟩,
    ⟨{ run with gn := { master := true, count := 4096 }, adm := { state := 4, img := some img } },
     serves (by decide +kernel), by decide +kernel⟩⟩

theorem witness_AdmissionFamilyCompletes :
    (∃ (s : State),
      s.Serves ∧ s.adm.state ≠ 1) ∧
    (∃ (s : State) (f : Option (Nat × Nat × Nat)) (x : _),
      let mine := s.checkImage s.adm.base
      let flow := f.filter fun x => flowReasons.contains x.1
      s.Serves ∧ s.adm.state = 1 ∧ mine = some x ∧ flow = none) ∧
    (∃ (s : State) (f : Option (Nat × Nat × Nat)) (x : _) (y : _),
      let mine := s.checkImage s.adm.base
      let flow := f.filter fun x => flowReasons.contains x.1
      s.Serves ∧ s.adm.state = 1 ∧ mine = some x ∧ flow = some y) ∧
    (∃ (s : State) (o : Origin),
      s.Serves ∧ anyButDebug (roleOf o) = false) ∧
    (∃ (s : State) (o : Origin),
      s.Serves ∧ anyButDebug (roleOf o) = true ∧ (s.adm.state = 1 ∨ s.adm.state = 4)) ∧
    (∃ (s : State) (o : Origin) (i : _),
      let g0 := s.rd64 admPage 0x11C
      let first : Prop := i.continues = false ∧ s.gn.count + 6 * 4096 ≤ g0 ∧ ∃ l, s.mapComing = some l ∧ l.length = i.modules
      s.Serves ∧ anyButDebug (roleOf o) = true ∧ s.adm.state = 3 ∧ s.adm.img = some i ∧ s.adm.active = none ∧
      (s.holdState = 3 ∨ first)) ∧
    (∃ (s : State) (o : Origin) (i : _),
      let g0 := s.rd64 admPage 0x11C
      let first : Prop := i.continues = false ∧ s.gn.count + 6 * 4096 ≤ g0 ∧ ∃ l, s.mapComing = some l ∧ l.length = i.modules
      s.Serves ∧ anyButDebug (roleOf o) = true ∧ s.adm.state = 3 ∧ s.adm.img = some i ∧ s.adm.active = none ∧
      s.holdState ≠ 3 ∧ ¬first) ∧
    (∃ (s : State) (o : Origin) (i : _) (a : _),
      let f := s.swFrame
      let next (a : Image) : Prop := i.continues = true ∧ s.passStart a f = true ∧ s.gn.frame + 4 ≤ f
      s.Serves ∧ anyButDebug (roleOf o) = true ∧ s.adm.state = 3 ∧ s.adm.img = some i ∧ s.adm.active = some a ∧
      (s.holdState = 3 ∨ next a)) ∧
    (∃ (s : State) (o : Origin) (i : _) (a : _),
      let f := s.swFrame
      let next (a : Image) : Prop := i.continues = true ∧ s.passStart a f = true ∧ s.gn.frame + 4 ≤ f
      s.Serves ∧ anyButDebug (roleOf o) = true ∧ s.adm.state = 3 ∧ s.adm.img = some i ∧ s.adm.active = some a ∧
      s.holdState ≠ 3 ∧ ¬next a) ∧
    (∃ (s : State) (o : Origin),
      s.Serves ∧ anyButDebug (roleOf o) = true ∧ (s.adm.state ≠ 3 ∨ s.adm.img = none)) ∧
    (∃ (s : State) (o : Origin),
      s.Serves ∧ anyButDebug (roleOf o) = true ∧ s.adm.state = 1) ∧
    (∃ (s : State) (o : Origin),
      let g0 := s.rd64 admPage 0x11C
      let before : Prop := if s.gn.running then s.gn.frame + 2 < s.adm.swFrame ∨
          (s.gn.frame + 2 = s.adm.swFrame ∧ s.gn.count < s.gn.start + 2048) else s.gn.count + 8192 < s.adm.g0 + 2048
      s.Serves ∧ anyButDebug (roleOf o) = true ∧ s.adm.state = 4 ∧ before ∧ s.adm.go = none) ∧
    (∃ (s : State) (o : Origin),
      let g0 := s.rd64 admPage 0x11C
      let before : Prop := if s.gn.running then s.gn.frame + 2 < s.adm.swFrame ∨
          (s.gn.frame + 2 = s.adm.swFrame ∧ s.gn.count < s.gn.start + 2048) else s.gn.count + 8192 < s.adm.g0 + 2048
      s.Serves ∧ anyButDebug (roleOf o) = true ∧ s.adm.state = 4 ∧ (¬before ∨ s.adm.go.isSome = true)) ∧
    (∃ (s : State) (o : Origin),
      s.Serves ∧ anyButDebug (roleOf o) = true ∧ s.adm.state ≠ 1 ∧ s.adm.state ≠ 3 ∧ s.adm.state ≠ 4) ∧
    (∃ (s : State) (o : Origin) (i : _),
      let f := s.swFrame
      let may : Prop := (s.adm.state = 0 ∨ s.adm.state = 2 ∨ s.adm.state = 3) ∧ s.passStart i f = true ∧ s.gn.frame + 4 ≤ f
      s.Serves ∧ anyButDebug (roleOf o) = true ∧ s.adm.active = some i ∧ may) ∧
    (∃ (s : State) (o : Origin) (i : _),
      let f := s.swFrame
      let may : Prop := (s.adm.state = 0 ∨ s.adm.state = 2 ∨ s.adm.state = 3) ∧ s.passStart i f = true ∧ s.gn.frame + 4 ≤ f
      s.Serves ∧ anyButDebug (roleOf o) = true ∧ s.adm.active = some i ∧ ¬may) ∧
    (∃ (s : State),
      let at_ : Bool := s.gn.running && s.gn.frame == s.adm.swFrame && s.allAtEnd && s.outgoingDone
      let go : Prop := s.adm.go = some s.adm.swFrame
      let due : Prop := s.adm.state = 4 ∧ go ∧ (if s.gn.running then at_ = true else s.adm.g0 ≤ s.gn.count)
      s.Serves ∧ (s.adm.img = none ∨ ¬due)) ∧
    (∃ (s : State) (i : _),
      let at_ : Bool := s.gn.running && s.gn.frame == s.adm.swFrame && s.allAtEnd && s.outgoingDone
      let go : Prop := s.adm.go = some s.adm.swFrame
      let due : Prop := s.adm.state = 4 ∧ go ∧ (if s.gn.running then at_ = true else s.adm.g0 ≤ s.gn.count)
      let first := s.adm.active.isNone
      s.Serves ∧ s.adm.img = some i ∧ due ∧ first = true) ∧
    (∃ (s : State),
      let at_ : Bool := s.gn.running && s.gn.frame == s.adm.swFrame && s.allAtEnd && s.outgoingDone
      let go : Prop := s.adm.go = some s.adm.swFrame
      s.Serves ∧ (s.adm.armedEnd = false ∨ ¬go ∨ at_ = false)) ∧
    (∃ (s : State),
      let at_ : Bool := s.gn.running && s.gn.frame == s.adm.swFrame && s.allAtEnd && s.outgoingDone
      let go : Prop := s.adm.go = some s.adm.swFrame
      s.Serves ∧ s.adm.armedEnd = true ∧ go ∧ at_ = true) :=
  ⟨⟨{ svc with pending := [.brownOut, .holdEnd] }, serves (by decide +kernel), by decide +kernel⟩,
    ⟨{ svc with adm := { state := 1 } }, none, (1, 0, 0), serves (by decide +kernel), by decide +kernel⟩,
    ⟨{ svc with adm := { state := 1 } }, some (16, 5, 7), (1, 0, 0), (16, 5, 7), serves (by decide +kernel),
     by decide +kernel⟩,
    ⟨{ svc with pending := [.brownOut, .holdEnd] }, .debug 3, serves (by decide +kernel), by decide +kernel⟩,
    ⟨{ svc with adm := { state := 1 } }, .boot, serves (by decide +kernel), by decide +kernel⟩,
    ⟨(
       (
         (
           { svc with adm := { state := 3, img := some img }, ray := { map := some [svc.phys] } } : State
         ).wr admPage 0x11C 24576)),
     .boot, img, serves (by decide +kernel), by decide +kernel⟩,
    ⟨{ svc with adm := { state := 3, img := some img } }, .boot, img, serves (by decide +kernel), by decide +kernel⟩,
    ⟨st11, .boot,
     {
       base := 0, len := 0, id := 1, numerics := 0, seed := 0, heritage := false, continues := true, slack := 0,
       modules := 1, placement := [], proFrames := 0, bodyFrames := 4,
       sects := [(1, { count := 1, off := 256, len := 32, index := 0 })], pairs := [], pins := [], places := [],
       units := [], store := [], progs := [], specBase := 0, specN := 0 },
     img, serves (by decide +kernel), by decide +kernel⟩,
    ⟨{ run with adm := { state := 3, img := some img, active := some img } },
     .boot, img, img, serves (by decide +kernel), by decide +kernel⟩,
    ⟨{ svc with pending := [.brownOut, .holdEnd] }, .boot, serves (by decide +kernel), by decide +kernel⟩,
    ⟨{ svc with adm := { state := 1 } }, .boot, serves (by decide +kernel), by decide +kernel⟩,
    ⟨{ run with
       adm := { state := 4, img := some img, active := some img, swFrame := 8 },
       gn := { running := true, frame := 5 } },
     .boot, serves (by decide +kernel), by decide +kernel⟩,
    ⟨st12, .boot, serves (by decide +kernel), by decide +kernel⟩,
    ⟨{ svc with pending := [.brownOut, .holdEnd] }, .boot, serves (by decide +kernel), by decide +kernel⟩,
    ⟨st11, .boot, img, serves (by decide +kernel), by decide +kernel⟩,
    ⟨{ run with now := 7 }, .boot, img, serves (by decide +kernel), by decide +kernel⟩,
    ⟨{ svc with pending := [.brownOut, .holdEnd] }, serves (by decide +kernel), by decide +kernel⟩,
    ⟨st12, img, serves (by decide +kernel), by decide +kernel⟩,
    ⟨{ svc with pending := [.brownOut, .holdEnd] }, serves (by decide +kernel), by decide +kernel⟩,
    ⟨{ run with
       adm := { active := some img, armedEnd := true, go := some 8, swFrame := 8 },
       gn := { running := true, frame := 8 } },
     serves (by decide +kernel), by decide +kernel⟩⟩

theorem witness_CompoundAccessesComplete :
    (∃ (s : State) (o : Origin) (unit : Nat) (off : Nat) (t : _),
      s.Serves ∧ unit < 0x800 ∧ anyButDebug (roleOf o) = true ∧ off = offEvtEn ∧ t ∈ s.leafSites unit ∧ t < 1152 ∧
      s.spare.opened.contains (t / 36) = false) ∧
    (∃ (s : State) (unit : Nat),
      s.Serves ∧ 0x800 ≤ unit ∧ unit < 0x1000) ∧
    (∃ (s : State) (tag : Nat),
      s.Serves ∧ s.ray.reqs.find? (·.tag == tag) = none) ∧
    (∃ (s : State) (tag : Nat) (q : _) (id : _) (m : _) (c : _),
      s.Serves ∧ s.ray.reqs.find? (·.tag == tag) = some q ∧ q.want = .unit id m ∧ s.host.comps.find? (·.id == id) = some c) ∧
    (∃ (s : State) (tag : Nat) (q : _) (id : _) (m : _),
      s.Serves ∧ s.ray.reqs.find? (·.tag == tag) = some q ∧ q.want = .unit id m ∧ s.host.comps.find? (·.id == id) = none) ∧
    (∃ (s : State) (tag : Nat) (q : _) (r : _),
      s.Serves ∧ s.ray.reqs.find? (·.tag == tag) = some q ∧ q.want = .partner r) ∧
    (∃ (s : State) (tag : Nat) (q : _) (n : _),
      s.Serves ∧ s.ray.reqs.find? (·.tag == tag) = some q ∧ q.want = .head n) ∧
    (∃ (s : State) (tag : Nat) (q : _) (e : _) (n : _),
      s.Serves ∧ s.ray.reqs.find? (·.tag == tag) = some q ∧ q.want = .repair e n) ∧
    (∃ (s : State) (tag : Nat) (q : _) (n : _),
      s.Serves ∧ s.ray.reqs.find? (·.tag == tag) = some q ∧ q.want = .restore n) :=
  ⟨⟨st13, .operator 2, 7, offEvtEn, 1, serves (by decide +kernel), by decide +kernel⟩,
    ⟨st13, 0x801, serves (by decide +kernel), by decide +kernel⟩,
    ⟨st13, 5, serves (by decide +kernel), by decide +kernel⟩,
    ⟨{ ({ run with adm := { active := some { img with units := [{ unit := 0x801, members := [(2, 1), (2, 0)] }] } }, ray := { map := some [svc.phys, 9] } } : State) with
       host := {
         comps := [
           {
             id := 3, off := 0x104, value := none, by_ := .order (.operator 2), entry := none, parts := [(0, 3)],
             wait := [1] }] },
       ray := { reqs := [{ tag := 5, dst := 9, want := .unit 3 1 }] } },
     5, { tag := 5, dst := 9, want := .unit 3 1, at_ := 0, left := 0 }, 3, 1,
     {
       id := 3, off := 260, value := none, by_ := .order (.operator 2), entry := none,
       parts := [(0, 0x00000003#32)], wait := [1] },
     serves (by decide +kernel), by decide +kernel⟩,
    ⟨{ run with ray := { reqs := [{ tag := 5, dst := 9, want := .unit 3 1, left := 9 }] }  },
     5, { tag := 5, dst := 9, want := .unit 3 1, at_ := 0, left := 9 }, 3, 1, serves (by decide +kernel),
     by decide +kernel⟩,
    ⟨{ run with ray := { reqs := [{ tag := 5, dst := 9, want := .partner 1, left := 9 }] }  },
     5, { tag := 5, dst := 9, want := .partner 1, at_ := 0, left := 9 }, 1, serves (by decide +kernel),
     by decide +kernel⟩,
    ⟨{ run with ray := { reqs := [{ tag := 5, dst := 9, want := .head 2, left := 9 }] }  },
     5, { tag := 5, dst := 9, want := .head 2, at_ := 0, left := 9 }, 2, serves (by decide +kernel),
     by decide +kernel⟩,
    ⟨{ run with ray := { reqs := [{ tag := 5, dst := 9, want := .repair 3 5, left := 9 }] }  },
     5, { tag := 5, dst := 9, want := .repair 3 5, at_ := 0, left := 9 }, 3, 5, serves (by decide +kernel),
     by decide +kernel⟩,
    ⟨{ run with ray := { reqs := [{ tag := 5, dst := 9, want := .restore 64, left := 9 }] }  },
     5, { tag := 5, dst := 9, want := .restore 64, at_ := 0, left := 9 }, 64, serves (by decide +kernel),
     by decide +kernel⟩⟩

theorem witness_LossScaleStaysInRange :
    (∃ (verdict : Nat) (cause : Nat) (lo : Int) (hi : Int) (ls : Int),
      lo ≤ ls ∧ ls ≤ hi ∧ verdict = 3 ∧ (bit cause cNonfinite || bit cause cOverflow) = true ∧ lo < ls) ∧
    (∃ (verdict : Nat) (cause : Nat) (lo : Int) (hi : Int) (ls : Int),
      lo ≤ ls ∧ ls ≤ hi ∧ verdict = 3 ∧ (bit cause cNonfinite || bit cause cOverflow) = true ∧ ls = lo) ∧
    (∃ (growth : Nat) (verdict : Nat) (run : Nat) (lo : Int) (hi : Int) (ls : Int),
      lo ≤ ls ∧ ls ≤ hi ∧ (verdict = 1 ∨ verdict = 2) ∧ run + 1 = growth) ∧
    (∃ (growth : Nat) (verdict : Nat) (run : Nat) (lo : Int) (hi : Int) (ls : Int),
      lo ≤ ls ∧ ls ≤ hi ∧ (verdict = 1 ∨ verdict = 2) ∧ run + 1 ≠ growth) ∧
    (∃ (verdict : Nat) (lo : Int) (hi : Int) (ls : Int),
      lo ≤ ls ∧ ls ≤ hi ∧ verdict = 4) :=
  ⟨⟨3, 1, -10, 10, -9, by decide +kernel⟩,
    ⟨3, 1, -10, 10, -10, by decide +kernel⟩,
    ⟨5, 1, 4, -10, 10, -10, by decide +kernel⟩,
    ⟨5, 1, 0, -10, 10, -10, by decide +kernel⟩,
    ⟨4, -10, 10, -10, by decide +kernel⟩⟩

theorem witness_VerdictsAndStepsComplete :
    (∃ (s : State) (m : StepMsg),
      (s.steps.phase ≠ .reported ∨ m.step ≠ s.steps.step)) ∧
    (∃ (s : State) (m : StepMsg) (p : _),
      s.steps.phase = .reported ∧ m.step = s.steps.step ∧ s.gn.master = false ∧ s.gn.upstream = some p) ∧
    (∃ (s : State) (m : StepMsg) (v : Nat) (d : _),
      s.steps.phase = .reported ∧ m.step = s.steps.step ∧ s.gn.master = true ∧ s.steps.decided = some (v, d) ∧
      d.step = m.step) ∧
    (∃ (s : State) (m : StepMsg),
      s.Serves ∧ s.takeVerdict 1 m = none) ∧
    (∃ (s : State) (m : StepMsg),
      s.Serves ∧ s.takeVerdict 2 m = none) ∧
    (∃ (s : State) (m : StepMsg),
      s.Serves ∧ s.takeVerdict 3 m = none) ∧
    (∃ (s : State) (m : StepMsg) (t : _),
      s.Serves ∧ s.takeVerdict 1 m = some t) ∧
    (∃ (s : State) (m : StepMsg) (t : _),
      s.Serves ∧ s.takeVerdict 2 m = some t) ∧
    (∃ (s : State) (m : StepMsg) (t : _),
      s.Serves ∧ s.takeVerdict 3 m = some t) ∧
    (∃ (s : State) (m : StepMsg),
      let late : Bool := s.steps.phase == .drained && m.step + 1 == s.steps.step
      s.Serves ∧ late = false ∧ s.takeVerdict 4 m = none) ∧
    (∃ (s : State) (m : StepMsg) (t : _),
      let late : Bool := s.steps.phase == .drained && m.step + 1 == s.steps.step
      s.Serves ∧ s.takeVerdict 4 m = some t ∧ late = false) ∧
    (∃ (s : State) (m : StepMsg) (p : _),
      let late : Bool := s.steps.phase == .drained && m.step + 1 == s.steps.step
      s.Serves ∧ late = true ∧ s.gn.master = false ∧ s.gn.upstream = some p) ∧
    (∃ (s : State) (m : StepMsg) (d : _),
      let late : Bool := s.steps.phase == .drained && m.step + 1 == s.steps.step
      s.Serves ∧ late = true ∧ s.gn.master = true ∧ s.steps.decided = some (4, d)) ∧
    (∃ (s : State) (m : StepMsg),
      let late : Bool := s.steps.phase == .drained && m.step + 1 == s.steps.step
      s.Serves ∧ late = true ∧ s.gn.master = false ∧ s.gn.upstream = none) ∧
    (∃ (s : State) (m : StepMsg),
      let late : Bool := s.steps.phase == .drained && m.step + 1 == s.steps.step
      s.Serves ∧ late = true ∧ s.gn.master = true ∧ s.steps.decided.any (·.1 == 4) = false) ∧
    (∃ (t : State) (i : Image),
      t.adm.active = some i) :=
  ⟨⟨{ svc with pending := [.brownOut, .holdEnd] },
     { step := 4, cause := 1, count := 1, verdict := 0, ls := 3, run := 2 }, by decide +kernel⟩,
    ⟨st14, { step := 4, cause := 1, count := 1, verdict := 0, ls := 3, run := 2 }, 3, by decide +kernel⟩,
    ⟨{ run with
       steps := {
         step := 4, phase := .reported,
         decided := some (1, { step := 4, cause := 1, count := 1, verdict := 1, ls := 0, run := 0 }) },
       gn := { running := true, master := true } },
     { step := 4, cause := 1, count := 1, verdict := 0, ls := 3, run := 2 }, 1,
     { step := 4, cause := 1, count := 1, verdict := 1, ls := 0, run := 0 }, by decide +kernel⟩,
    ⟨{ svc with pending := [.brownOut, .holdEnd] },
     { step := 4, cause := 1, count := 1, verdict := 0, ls := 3, run := 2 }, serves (by decide +kernel),
     by decide +kernel⟩,
    ⟨{ svc with pending := [.brownOut, .holdEnd] },
     { step := 4, cause := 1, count := 1, verdict := 0, ls := 3, run := 2 }, serves (by decide +kernel),
     by decide +kernel⟩,
    ⟨{ svc with pending := [.brownOut, .holdEnd] },
     { step := 4, cause := 1, count := 1, verdict := 0, ls := 3, run := 2 }, serves (by decide +kernel),
     by decide +kernel⟩,
    ⟨st14, { step := 4, cause := 1, count := 1, verdict := 0, ls := 3, run := 2 }, _, serves (by decide +kernel),
     (Option.some_get (by decide +kernel)).symm⟩,
    ⟨st14, { step := 4, cause := 1, count := 1, verdict := 0, ls := 3, run := 2 }, _, serves (by decide +kernel),
     (Option.some_get (by decide +kernel)).symm⟩,
    ⟨st14, { step := 4, cause := 1, count := 1, verdict := 0, ls := 3, run := 2 }, _, serves (by decide +kernel),
     (Option.some_get (by decide +kernel)).symm⟩,
    ⟨{ svc with pending := [.brownOut, .holdEnd] },
     { step := 4, cause := 1, count := 1, verdict := 0, ls := 3, run := 2 }, serves (by decide +kernel),
     by decide +kernel⟩,
    ⟨st14, { step := 4, cause := 1, count := 1, verdict := 0, ls := 3, run := 2 }, _, serves (by decide +kernel),
     (Option.some_get (by decide +kernel)).symm, by decide +kernel⟩,
    ⟨st15, { step := 3, cause := 0, count := 1, verdict := 3, ls := 3, run := 2 }, 3, serves (by decide +kernel),
     by decide +kernel⟩,
    ⟨{ run with
       steps := {
         step := 4, phase := .drained,
         decided := some (4, { step := 4, cause := 1, count := 1, verdict := 4, ls := 0, run := 0 }) },
       gn := { running := true, master := true } },
     { step := 3, cause := 0, count := 1, verdict := 3, ls := 3, run := 2 },
     { step := 4, cause := 1, count := 1, verdict := 4, ls := 0, run := 0 }, serves (by decide +kernel),
     by decide +kernel⟩,
    ⟨{ run with steps := { step := 4, phase := .drained }  },
     { step := 3, cause := 0, count := 1, verdict := 3, ls := 3, run := 2 }, serves (by decide +kernel),
     by decide +kernel⟩,
    ⟨{ run with steps := { step := 4, phase := .drained } , gn := { running := true, master := true } },
     { step := 3, cause := 0, count := 1, verdict := 3, ls := 3, run := 2 }, serves (by decide +kernel),
     by decide +kernel⟩,
    ⟨{ run with now := 7 }, img, by decide +kernel⟩⟩

theorem witness_StepsCloseDrainAndResume :
    (∃ (s : State) (p : Nat),
      s.Serves ∧ p < 16 ∧ s.portUp p = false) ∧
    (∃ (s : State) (p : Nat),
      s.Serves ∧ p < 16 ∧ s.portUp p = true) ∧
    (∃ (s : State),
      let open_ : Prop := s.steps.phase ≠ .exec ∨ s.gn.running = false ∨ s.stepQuiet = false ∨ s.collDone = false
      s.Serves ∧ (s.adm.active = none ∨ open_)) ∧
    (∃ (s : State) (i : _),
      let open_ : Prop := s.steps.phase ≠ .exec ∨ s.gn.running = false ∨ s.stepQuiet = false ∨ s.collDone = false
      let compared : State := if s.fpGroupNo = 0 then { s with steps := { s.steps with fpDone := true } }
        else if s.steps.fpSent then s.fpTry else (s.fpSend i).fpTry
      s.Serves ∧ s.adm.active = some i ∧ ¬open_ ∧ compared.steps.fpDone = false) ∧
    (∃ (s : State) (i : _),
      let open_ : Prop := s.steps.phase ≠ .exec ∨ s.gn.running = false ∨ s.stepQuiet = false ∨ s.collDone = false
      let compared : State := if s.fpGroupNo = 0 then { s with steps := { s.steps with fpDone := true } }
        else if s.steps.fpSent then s.fpTry else (s.fpSend i).fpTry
      s.Serves ∧ s.adm.active = some i ∧ ¬open_ ∧ compared.steps.fpDone = true) ∧
    (∃ (s : State),
      s.Serves ∧ s.steps.undoTag = none) ∧
    (∃ (s : State) (tag : _),
      s.Serves ∧ s.steps.undoTag = some tag ∧
      (s.dusk = true ∨ s.steps.phase ≠ .undoing ∨ s.xfers.any (·.tag == tag) = true)) ∧
    (∃ (s : State) (tag : _),
      let d := s.dropSpec tag
      s.Serves ∧ s.steps.undoTag = some tag ∧ s.dusk = false ∧ s.steps.phase = .undoing ∧
      s.xfers.any (·.tag == tag) = false ∧ (d.steps.verdict ≠ 2 ∨ d.steps.repairs = [])) ∧
    (∃ (s : State) (tag : _),
      let d := s.dropSpec tag
      s.Serves ∧ s.steps.undoTag = some tag ∧ s.dusk = false ∧ s.steps.phase = .undoing ∧
      s.xfers.any (·.tag == tag) = false ∧ d.steps.verdict = 2 ∧ d.steps.repairs ≠ []) ∧
    (∃ (s : State) (n : Nat),
      let may : Prop := s.steps.phase = .drained ∧ n = s.steps.step ∧ s.steps.rollTo = false
      s.Serves ∧ ¬may) ∧
    (∃ (s : State) (n : Nat) (p : _),
      let may : Prop := s.steps.phase = .drained ∧ n = s.steps.step ∧ s.steps.rollTo = false
      s.Serves ∧ may ∧ s.gn.master = false ∧ s.gn.upstream = some p) ∧
    (∃ (s : State) (n : Nat),
      let may : Prop := s.steps.phase = .drained ∧ n = s.steps.step ∧ s.steps.rollTo = false
      s.Serves ∧ may ∧ s.gn.master = true ∧ s.steps.resumed = some n) ∧
    (∃ (s : State) (n : Nat),
      let may : Prop := s.steps.phase = .drained ∧ n = s.steps.step ∧ s.steps.rollTo = false
      s.Serves ∧ may ∧ s.gn.master = true ∧ s.steps.resumed ≠ some n) ∧
    (∃ (s : State) (n : Nat),
      let may : Prop := s.steps.phase = .drained ∧ n = s.steps.step ∧ s.steps.rollTo = false
      s.Serves ∧ may ∧ s.gn.master = false ∧ s.gn.upstream = none) :=
  ⟨⟨{ svc with pending := [.brownOut, .holdEnd] }, 3, serves (by decide +kernel), by decide +kernel⟩,
    ⟨withUp run [2,3], 3, serves (by decide +kernel), by decide +kernel⟩,
    ⟨{ svc with pending := [.brownOut, .holdEnd] }, serves (by decide +kernel), by decide +kernel⟩,
    ⟨{ (run0 fun x => { x with closed := true }) with
       steps := { step := 4, fpSent := true }, mem := [(0xC,5),(0x28,1),(0x2C,1),(0x2D,8),(0x114,10),(0x800,4)],
       adm := {
         active := some { img with
           sects := img.sects ++ [(8, { count := 1, off := 0x800, len := 0x100, index := 0 })],
           units := [{ unit := 0x801, members := [(2, 0), (2, 1)] }] } } },
     {
       base := 0, len := 0, id := 1, numerics := 0, seed := 0, heritage := false, continues := false, slack := 0,
       modules := 1, placement := [], proFrames := 0, bodyFrames := 4,
       sects := [
         (1, { count := 1, off := 256, len := 32, index := 0 }),
         (8, { count := 1, off := 2048, len := 256, index := 0 })],
       pairs := [], pins := [], places := [], units := [{ unit := 2049, members := [(2, 0), (2, 1)] }], store := [],
       progs := [], specBase := 0, specN := 0 },
     serves (by decide +kernel), by decide +kernel⟩,
    ⟨{ (run0 fun x => { x with closed := true }) with steps := { step := 4, cause := 2 } },
     img, serves (by decide +kernel), by decide +kernel⟩,
    ⟨{ svc with pending := [.brownOut, .holdEnd] }, serves (by decide +kernel), by decide +kernel⟩,
    ⟨{ run with steps := { step := 4, phase := .exec, undoTag := some 5 }  },
     5, serves (by decide +kernel), by decide +kernel⟩,
    ⟨{ run with
       steps := { step := 4, phase := .undoing, undoTag := some 5, verdict := 3 },
       glints := [
         { id := 9, site := 2, mbox := 3, msg := { srcMod := 0, srcTile := 5, kc := 31, slot := [], tag := 0 } },
         { id := 9, site := 2, mbox := 3, msg := { srcMod := 0, srcTile := 5, kc := 31, slot := [], tag := 5 } }],
       gn := { running := true, upstream := some 3 } },
     5, serves (by decide +kernel), by decide +kernel⟩,
    ⟨{ run with steps := { step := 4, phase := .undoing, undoTag := some 5, verdict := 2, repairs := [(3, 9)] }  },
     5, serves (by decide +kernel), by decide +kernel⟩,
    ⟨{ svc with pending := [.brownOut, .holdEnd] }, 0, serves (by decide +kernel), by decide +kernel⟩,
    ⟨st15, 4, 3, serves (by decide +kernel), by decide +kernel⟩,
    ⟨{ run with
       steps := { step := 4, phase := .drained, resumed := some 4, undoTag := some 5 },
       gn := { running := true, master := true } },
     4, serves (by decide +kernel), by decide +kernel⟩,
    ⟨{ run with
       steps := { step := 4, phase := .drained, resumed := some 3 }, gn := { running := true, master := true } },
     4, serves (by decide +kernel), by decide +kernel⟩,
    ⟨{ run with steps := { step := 4, phase := .drained }  }, 4, serves (by decide +kernel), by decide +kernel⟩⟩

theorem witness_ManagementPathCompletes :
    (∃ (s : State) (m : MgmtMsg) (i : _) (l : _) (lm : _),
      s.Serves ∧ s.adm.active = some i ∧ s.ray.map = some l ∧ l.findIdx? (· == m.src) = some lm ∧
      s.fpMembers.contains lm = true) ∧
    (∃ (s : State) (m : MgmtMsg),
      s.Serves ∧
      (s.adm.active = none ∨ s.ray.map = none ∨ (∀ l, s.ray.map = some l → l.findIdx? (· == m.src) = none ∨ ∃ lm, l.findIdx? (· == m.src) = some lm ∧ s.fpMembers.contains lm = false))) ∧
    (∃ (s : State) (m : MgmtMsg),
      let n := 64 * fieldAt m.body 0 2
      let a := m.arg % 2 ^ 48
      let good : Prop := a % 64 = 0 ∧ 0 < n ∧ n ≤ 65536
      s.Serves ∧ (s.dusk = true ∨ ¬good)) ∧
    (∃ (s : State) (m : MgmtMsg),
      let n := 64 * fieldAt m.body 0 2
      let a := m.arg % 2 ^ 48
      let good : Prop := a % 64 = 0 ∧ 0 < n ∧ n ≤ 65536
      s.Serves ∧ s.dusk = false ∧ good) ∧
    (∃ (s : State) (m : MgmtMsg),
      s.Serves ∧ s.reqOf m = none) ∧
    (∃ (s : State) (m : MgmtMsg) (q : _) (e : _) (g : _),
      s.Serves ∧ s.reqOf m = some q ∧ q.want = .repair e g) ∧
    (∃ (s : State) (m : MgmtMsg) (q : _) (k : _),
      s.Serves ∧ s.reqOf m = some q ∧ q.want = .head k) ∧
    (∃ (s : State) (m : MgmtMsg) (q : _) (off : _),
      s.Serves ∧ s.reqOf m = some q ∧ q.want = .restore off) ∧
    (∃ (s : State) (m : MgmtMsg) (q : _) (id : _) (k : _),
      s.Serves ∧ s.reqOf m = some q ∧ q.want = .unit id k) ∧
    (∃ (s : State) (m : MgmtMsg) (q : _) (r : _),
      s.Serves ∧ s.reqOf m = some q ∧ q.want = .partner r) ∧
    (∃ (s : State) (m : MgmtMsg) (q : _),
      s.Serves ∧ s.reqOf m = some q ∧ m.body.length < q.left) ∧
    (∃ (s : State) (m : MgmtMsg) (q : _),
      s.Serves ∧ s.reqOf m = some q ∧ q.left ≤ m.body.length) ∧
    (∃ (s : State) (m : MgmtMsg),
      let page := relayPage m
      let off := relayOff m
      s.Serves ∧ s.flag mgmtPage 0x10C 17 = true ∧ page < 0x480 ∧ wideOf page off = none) ∧
    (∃ (s : State),
      s.Serves ∧ s.flag mgmtPage 0x10C 17 = false) :=
  ⟨⟨st16,
     { op := 6, tag := 1, role := 0, arg := (4*2^32), src := 9, body := List.replicate 16 7 },
     {
       base := 0, len := 0, id := 1, numerics := 0, seed := 0, heritage := false, continues := false, slack := 0,
       modules := 1, placement := [], proFrames := 0, bodyFrames := 4,
       sects := [(1, { count := 1, off := 256, len := 32, index := 0 })], pairs := [], pins := [], places := [],
       units := [{ unit := 2049, members := [(2, 0), (2, 1)] }], store := [], progs := [], specBase := 0,
       specN := 0 },
     [0, 9], 1, serves (by decide +kernel), by decide +kernel⟩,
    ⟨run,
     { op := 6, tag := 1, role := 0, arg := (4*2^32), src := 9, body := List.replicate 16 7 },
     serves (by decide +kernel), by decide +kernel⟩,
    ⟨st16,
     { op := 6, tag := 1, role := 0, arg := (4*2^32), src := 9, body := List.replicate 16 7 },
     serves (by decide +kernel), by decide +kernel⟩,
    ⟨st16, { op := 4, tag := 1, role := 0, arg := 64, src := 9, body := [0,4] }, serves (by decide +kernel),
     by decide +kernel⟩,
    ⟨st16,
     { op := 6, tag := 1, role := 0, arg := (4*2^32), src := 9, body := List.replicate 16 7 },
     serves (by decide +kernel), by decide +kernel⟩,
    ⟨{ run with ray := { reqs := [{ tag := 1, dst := 9, want := .repair 3 5, left := 9 }] }  },
     { op := 6, tag := 1, role := 0, arg := (4*2^32), src := 9, body := List.replicate 16 7 },
     { tag := 1, dst := 9, want := .repair 3 5, at_ := 0, left := 9 }, 3, 5, serves (by decide +kernel),
     by decide +kernel⟩,
    ⟨{ run with ray := { reqs := [{ tag := 1, dst := 9, want := .head 2, left := 9 }] }  },
     { op := 6, tag := 1, role := 0, arg := (4*2^32), src := 9, body := List.replicate 16 7 },
     { tag := 1, dst := 9, want := .head 2, at_ := 0, left := 9 }, 2, serves (by decide +kernel),
     by decide +kernel⟩,
    ⟨st17,
     { op := 6, tag := 1, role := 0, arg := (4*2^32), src := 9, body := List.replicate 16 7 },
     { tag := 1, dst := 9, want := .restore 64, at_ := 0, left := 9 }, 64, serves (by decide +kernel),
     by decide +kernel⟩,
    ⟨{ run with
       ray := { reqs := [{ tag := 1, dst := 9, want := .unit 3 1 }] },
       host := {
         comps := [
           {
             id := 3, off := 0x104, value := none, by_ := .order (.operator 2), entry := none, parts := [],
             wait := [1, 2] }] } },
     { op := 6, tag := 1, role := 0, arg := (4*2^32), src := 9, body := List.replicate 16 7 },
     { tag := 1, dst := 9, want := .unit 3 1, at_ := 0, left := 0 }, 3, 1, serves (by decide +kernel),
     by decide +kernel⟩,
    ⟨{ run with ray := { reqs := [{ tag := 1, dst := 9, want := .partner 1, left := 9 }] }  },
     { op := 6, tag := 1, role := 0, arg := (4*2^32), src := 9, body := List.replicate 16 7 },
     { tag := 1, dst := 9, want := .partner 1, at_ := 0, left := 9 }, 1, serves (by decide +kernel),
     by decide +kernel⟩,
    ⟨st17, { op := 4, tag := 1, role := 0, arg := 64, src := 9, body := [0,4] },
     { tag := 1, dst := 9, want := .restore 64, at_ := 0, left := 9 }, serves (by decide +kernel),
     by decide +kernel⟩,
    ⟨st17,
     { op := 6, tag := 1, role := 0, arg := (4*2^32), src := 9, body := List.replicate 16 7 },
     { tag := 1, dst := 9, want := .restore 64, at_ := 0, left := 9 }, serves (by decide +kernel),
     by decide +kernel⟩,
    ⟨st16,
     { op := 6, tag := 1, role := 0, arg := (4*2^32), src := 9, body := List.replicate 16 7 },
     serves (by decide +kernel), by decide +kernel⟩,
    ⟨run.wr mgmtPage 0x10C 0, serves (by decide +kernel), by decide +kernel⟩⟩

theorem witness_HostAccessesComplete :
    (∃ (s : State) (h : Nat),
      s.Serves ∧ h < 32 ∧ (s.host.inReset = true ∨ s.dusk = true)) ∧
    (∃ (s : State) (h : Nat) (addr : Nat) (len : _),
      s.Serves ∧ h < 32 ∧ s.host.inReset = false ∧ s.dusk = false ∧ isRegSpace addr = true ∧ (len ≠ 4 ∨ addr % 4 ≠ 0)) ∧
    (∃ (s : State) (h : Nat) (addr : Nat) (d : List Byte),
      s.Serves ∧ h < 32 ∧ s.host.inReset = false ∧ s.dusk = false ∧ isRegSpace addr = true ∧ (d.length ≠ 4 ∨ addr % 4 ≠ 0)) ∧
    (∃ (s : State) (h : Nat) (addr : Nat),
      let page := regPageOf addr
      s.Serves ∧ h < 32 ∧ s.host.inReset = false ∧ s.dusk = false ∧ isRegSpace addr = true ∧ addr % 4 = 0 ∧
      pageAssigned page = false) ∧
    (∃ (s : State) (h : Nat) (addr : Nat),
      let page := regPageOf addr
      let off := regOffOf addr
      s.Serves ∧ h < 32 ∧ s.host.inReset = false ∧ s.dusk = false ∧ isRegSpace addr = true ∧ addr % 4 = 0 ∧
      pageAssigned page = true ∧ page < 0x480 ∧ wideOf page off = none) ∧
    (∃ (s : State) (h : Nat) (addr : Nat) (d : List Byte),
      let page := regPageOf addr
      let off := regOffOf addr
      s.Serves ∧ h < 32 ∧ s.host.inReset = false ∧ s.dusk = false ∧ isRegSpace addr = true ∧ d.length = 4 ∧ addr % 4 = 0 ∧
      page < 0x480 ∧ off = offEvtEn ∧ s.spare.opened.contains (page / 36) = false) ∧
    (∃ (s : State) (h : Nat) (addr : Nat) (len : _),
      s.Serves ∧ h < 32 ∧ s.host.inReset = false ∧ s.dusk = false ∧ isRegSpace addr = false ∧ s.hostMem addr len = true) ∧
    (∃ (s : State) (h : Nat) (addr : Nat) (d : List Byte),
      s.Serves ∧ h < 32 ∧ s.host.inReset = false ∧ s.dusk = false ∧ isRegSpace addr = false ∧
      s.hostMem addr d.length = true) ∧
    (∃ (s : State) (h : Nat) (addr : Nat) (len : _) (d : List Byte) (p : _),
      s.Serves ∧ h < 32 ∧ s.host.inReset = false ∧ s.dusk = false ∧ isRegSpace addr = false ∧ s.hostMem addr len = false ∧
      s.hostMem addr d.length = false ∧ endpointPort addr = some p) ∧
    (∃ (s : State) (h : Nat) (addr : Nat) (len : _) (d : List Byte),
      s.Serves ∧ h < 32 ∧ s.host.inReset = false ∧ s.dusk = false ∧ isRegSpace addr = false ∧ s.hostMem addr len = false ∧
      s.hostMem addr d.length = false ∧ endpointPort addr = none) :=
  ⟨⟨st18, 0, serves (by decide +kernel), by decide +kernel⟩,
    ⟨run, 31, (regBase + 0x500*4096), 8, serves (by decide +kernel), by decide +kernel⟩,
    ⟨run, 31, (regBase + 0x500*4096), [0x01#8, 0x02#8, 0x03#8, 0x04#8, 0x05#8, 0x06#8, 0x07#8, 0x08#8],
     serves (by decide +kernel), by decide +kernel⟩,
    ⟨run, 31, (regBase + 0x500*4096), serves (by decide +kernel), by decide +kernel⟩,
    ⟨{ svc with pending := [.brownOut, .holdEnd] }, 0, (regBase + 1151*4096 + 0x108), serves (by decide +kernel),
     by decide +kernel⟩,
    ⟨{ svc with pending := [.brownOut, .holdEnd] }, 0, (regBase + 1151*4096 + offEvtEn),
     [0x01#8, 0x02#8, 0x03#8, 0x04#8], serves (by decide +kernel), by decide +kernel⟩,
    ⟨{ svc with pending := [.brownOut, .holdEnd] }, 0, (0x10000000000 - 8), 4, serves (by decide +kernel),
     by decide +kernel⟩,
    ⟨{ svc with pending := [.brownOut, .holdEnd] }, 0, (0x10000000000 - 8), [0x01#8, 0x02#8, 0x03#8, 0x04#8],
     serves (by decide +kernel), by decide +kernel⟩,
    ⟨{ svc with pending := [.brownOut, .holdEnd] }, 0, 0x104000000000, 4, [0x01#8, 0x02#8, 0x03#8, 0x04#8], 1,
     serves (by decide +kernel), by decide +kernel⟩,
    ⟨{ svc with pending := [.brownOut, .holdEnd] }, 0, (regBase + 0x4FFF*4096), 4, [0x01#8, 0x02#8, 0x03#8, 0x04#8],
     serves (by decide +kernel), by decide +kernel⟩⟩

theorem witness_RingFamilyCompletes :
    (∃ (s : State),
      s.Serves ∧ (s.dusk = true ∨ s.nextRing = none)) ∧
    (∃ (s : State) (n : _) (r : _),
      s.Serves ∧ s.dusk = false ∧ s.nextRing = some n ∧ s.ring n = some r) ∧
    (∃ (s : State) (seq : Nat) (c : Cmd),
      s.Starts seq 0x00 c) ∧
    (∃ (s : State) (seq : Nat) (c : Cmd),
      s.Starts seq 0x06 c) ∧
    (∃ (s : State) (seq : Nat) (c : Cmd),
      s.Starts seq 0x02 c ∧ c.regPage < 0x480 ∧ wideOf c.regPage c.regOff = none) ∧
    (∃ (s : State) (seq : Nat) (c : Cmd),
      s.Starts seq 0x01 c ∧ c.regPage < 0x480 ∧ c.regOff = offEvtEn ∧ s.spare.opened.contains (c.regPage / 36) = false) ∧
    (∃ (s : State) (seq : Nat) (c : Cmd),
      s.Starts seq 0x03 c ∧ inStacks (c.arg 0) c.len = true ∧ s.rangeReady (c.arg 0) c.len = true) ∧
    (∃ (s : State) (seq : Nat) (c : Cmd),
      s.Starts seq 0x03 c ∧ inStacks (c.arg 0) c.len = true ∧ s.rangeReady (c.arg 0) c.len = false) ∧
    (∃ (s : State) (seq : Nat) (c : Cmd),
      s.Starts seq 0x03 c ∧ inStacks (c.arg 0) c.len = false) ∧
    (∃ (s : State) (seq : Nat) (c : Cmd),
      let n := c.arg 2
      let ok : Prop := inStacks (c.arg 0) n = true ∧ inStacks (c.arg 1) n = true
      let ready : Prop := s.rangeReady (c.arg 0) n = true ∧ s.rangeReady (c.arg 1) n = true
      s.Starts seq 0x04 c ∧ ok ∧ ready) ∧
    (∃ (s : State) (seq : Nat) (c : Cmd),
      let n := c.arg 2
      let ok : Prop := inStacks (c.arg 0) n = true ∧ inStacks (c.arg 1) n = true
      let ready : Prop := s.rangeReady (c.arg 0) n = true ∧ s.rangeReady (c.arg 1) n = true
      s.Starts seq 0x04 c ∧ ok ∧ ¬ready) ∧
    (∃ (s : State) (seq : Nat) (c : Cmd),
      let n := c.arg 2
      let ok : Prop := inStacks (c.arg 0) n = true ∧ inStacks (c.arg 1) n = true
      s.Starts seq 0x04 c ∧ ¬ok) ∧
    (∃ (s : State) (seq : Nat) (c : Cmd),
      s.Starts seq 0x05 c ∧ s.dusk = true) ∧
    (∃ (s : State) (seq : Nat) (c : Cmd),
      s.Starts seq 0x05 c ∧ s.dusk = false ∧ s.inDevMem (c.arg 0) (c.arg 1) = true) ∧
    (∃ (s : State) (seq : Nat) (c : Cmd),
      s.Starts seq 0x05 c ∧ s.dusk = false ∧ s.inDevMem (c.arg 0) (c.arg 1) = false) ∧
    (∃ (s : State) (seq : Nat) (c : Cmd),
      s.Starts seq 0x09 c ∧ s.dusk = true) ∧
    (∃ (s : State) (seq : Nat) (c : Cmd),
      let n := c.arg 1
      s.Starts seq 0x09 c ∧ s.dusk = false ∧ s.inHost (c.arg 2) (64 * n) = true) ∧
    (∃ (s : State) (seq : Nat) (c : Cmd),
      let n := c.arg 1
      s.Starts seq 0x09 c ∧ s.dusk = false ∧ s.inHost (c.arg 2) (64 * n) = false) ∧
    (∃ (s : State) (seq : Nat),
      let not_ (op : Nat) : Prop := ∀ c, s.cmd seq = some c → c.opcode ≠ op ∨ c.started = true ∨ s.mayStart c = false
      s.Serves ∧ not_ 0x00) ∧
    (∃ (s : State) (seq : Nat),
      let not_ (op : Nat) : Prop := ∀ c, s.cmd seq = some c → c.opcode ≠ op ∨ c.started = true ∨ s.mayStart c = false
      s.Serves ∧ not_ 0x06) ∧
    (∃ (s : State) (seq : Nat),
      let not_ (op : Nat) : Prop := ∀ c, s.cmd seq = some c → c.opcode ≠ op ∨ c.started = true ∨ s.mayStart c = false
      s.Serves ∧ not_ 0x02) ∧
    (∃ (s : State) (seq : Nat),
      let not_ (op : Nat) : Prop := ∀ c, s.cmd seq = some c → c.opcode ≠ op ∨ c.started = true ∨ s.mayStart c = false
      s.Serves ∧ not_ 0x01) ∧
    (∃ (s : State) (seq : Nat),
      let not_ (op : Nat) : Prop := ∀ c, s.cmd seq = some c → c.opcode ≠ op ∨ c.started = true ∨ s.mayStart c = false
      s.Serves ∧ not_ 0x03) ∧
    (∃ (s : State) (seq : Nat),
      let not_ (op : Nat) : Prop := ∀ c, s.cmd seq = some c → c.opcode ≠ op ∨ c.started = true ∨ s.mayStart c = false
      s.Serves ∧ not_ 0x04) ∧
    (∃ (s : State) (seq : Nat),
      let not_ (op : Nat) : Prop := ∀ c, s.cmd seq = some c → c.opcode ≠ op ∨ c.started = true ∨ s.mayStart c = false
      s.Serves ∧ not_ 0x05) ∧
    (∃ (s : State) (seq : Nat),
      let not_ (op : Nat) : Prop := ∀ c, s.cmd seq = some c → c.opcode ≠ op ∨ c.started = true ∨ s.mayStart c = false
      s.Serves ∧ not_ 0x09) ∧
    (∃ (s : State) (o : Origin) (v : Word) (r : _),
      let n := bits v.toNat 9 0
      s.Serves ∧ anyButDebug (roleOf o) = true ∧ s.ring n = some r ∧ r.stopping = false ∧
      (∀ c ∈ s.cmdsOf n, c.noted = false)) ∧
    (∃ (s : State) (o : Origin) (v : Word),
      let n := bits v.toNat 9 0
      s.Serves ∧ anyButDebug (roleOf o) = true ∧ s.ring n = none ∧ s.hostAttached = true ∧
      s.inHost (s.rcbTable + 64 * n) 64 = false) ∧
    (∃ (s : State) (o : Origin) (v : Word) (rcb : _),
      let n := bits v.toNat 9 0
      let value (hi lo x : Nat) : Word := BitVec.ofNat 32 (setBits v.toNat hi lo x)
      let got := (s.accept o hostPage 0x108 (value 17 16 1)).2.2.modRead (s.rcbTable + 64 * n) 64
      s.Serves ∧ anyButDebug (roleOf o) = true ∧ s.ring n = none ∧ s.hostAttached = true ∧
      s.inHost (s.rcbTable + 64 * n) 64 = true ∧ got.2.parseRcb (got.1.map (·.val)) = some rcb) ∧
    (∃ (s : State) (o : Origin) (v : Word),
      let n := bits v.toNat 9 0
      let value (hi lo x : Nat) : Word := BitVec.ofNat 32 (setBits v.toNat hi lo x)
      let got := (s.accept o hostPage 0x108 (value 17 16 1)).2.2.modRead (s.rcbTable + 64 * n) 64
      s.Serves ∧ anyButDebug (roleOf o) = true ∧ s.ring n = none ∧ s.hostAttached = true ∧
      s.inHost (s.rcbTable + 64 * n) 64 = true ∧ got.2.parseRcb (got.1.map (·.val)) = none) ∧
    (∃ (s : State) (o : Origin) (v : Word),
      let n := bits v.toNat 9 0
      s.Serves ∧ anyButDebug (roleOf o) = true ∧ s.ring n = none ∧ s.hostAttached = false) ∧
    (∃ (s : State) (o : Origin) (v : Word) (r : _),
      let n := bits v.toNat 9 0
      s.Serves ∧ anyButDebug (roleOf o) = true ∧ s.ring n = some r ∧ r.stopping = true) ∧
    (∃ (s : State) (o : Origin) (v : Word) (r : _),
      let n := bits v.toNat 9 0
      s.Serves ∧ anyButDebug (roleOf o) = true ∧ s.ring n = some r ∧ s.cmdsOf n = []) :=
  ⟨⟨withCmd (run) (ringCmd 0x0 0 0 0 0 0 ([])), serves (by decide +kernel), by decide +kernel⟩,
    ⟨{ run with
       host := {
         rings := [
           (
             3,
             {
               rcb := {
                 sqBase := 0xF000000000, logSq := 4, cqBase := 0xF000010000, logCq := 4, msiAddr := 0, msiData := 0 },
               tail := 1 })] } },
     3,
     {
       rcb := {
         sqBase := 1030792151040, logSq := 4, cqBase := 1030792216576, logCq := 4, msiAddr := 0, msiData := 0 },
       enabled := true, stopping := false, again := false, fetch := 0, tail := 1, head := 0, cq := 0 },
     serves (by decide +kernel), by decide +kernel⟩,
    ⟨withCmd (run) (ringCmd 0x0 0 0 0 0 0 ([])), 7,
     {
       seq := 7, ring := 3, idx := 0, bytes := (List.replicate 64 0x00#8), started := false, silent := false,
       noted := false, done := none },
     starts (by decide +kernel)⟩,
    ⟨withCmd (run) (ringCmd 0x6 0 0 0 0 0 ([])), 7,
     {
       seq := 7, ring := 3, idx := 0, bytes := ([0x06#8] ++ List.replicate 63 0x00#8), started := false,
       silent := false, noted := false, done := none },
     starts (by decide +kernel)⟩,
    ⟨withCmd (run) (ringCmd 0x2 0 0 (1151 + 0x108/4*2^20) 0 0 ([])), 7,
     {
       seq := 7, ring := 3, idx := 0,
       bytes := (
         [0x02#8] ++ List.replicate 7 0x00#8 ++ [0x7f#8, 0x04#8, 0x20#8, 0x04#8] ++ List.replicate 52 0x00#8),
       started := false, silent := false, noted := false, done := none },
     starts (by decide +kernel), by decide +kernel⟩,
    ⟨withCmd (run) (ringCmd 0x1 0 0 (1151 + offEvtEn/4*2^20) 0xFFFFFFFF 0 ([])),
     7,
     {
       seq := 7, ring := 3, idx := 0,
       bytes := (
         [0x01#8] ++ List.replicate 7 0x00#8 ++ [
           0x7f#8, 0x04#8, 0x50#8] ++ List.replicate 5 0x00#8 ++ List.replicate 4 0xff#8 ++ List.replicate 44 0x00#8),
       started := false, silent := false, noted := false, done := none },
     starts (by decide +kernel), by decide +kernel⟩,
    ⟨withCmd (run) (ringCmd 0x3 8 0 (0x10000000000-8) 0 0 ([1,2,3,4,5,6,7,8])),
     7,
     {
       seq := 7, ring := 3, idx := 0,
       bytes := (
         [0x03#8, 0x00#8, 0x08#8] ++ List.replicate 5 0x00#8 ++ [0xf8#8] ++ List.replicate 4 0xff#8 ++ List.replicate 51 0x00#8 ++ [
           0x01#8, 0x02#8, 0x03#8, 0x04#8, 0x05#8, 0x06#8, 0x07#8, 0x08#8]),
       started := false, silent := false, noted := false, done := none },
     starts (by decide +kernel), by decide +kernel⟩,
    ⟨{ (withCmd (run) (ringCmd 0x3 8 0 (0x10000000000-8) 0 0 ([1,2,3,4,5,6,7,8]))) with
       dies := [(0, { resetting := true }), (1, { resetting := true })] },
     7,
     {
       seq := 7, ring := 3, idx := 0,
       bytes := (
         [0x03#8, 0x00#8, 0x08#8] ++ List.replicate 5 0x00#8 ++ [0xf8#8] ++ List.replicate 4 0xff#8 ++ List.replicate 51 0x00#8 ++ [
           0x01#8, 0x02#8, 0x03#8, 0x04#8, 0x05#8, 0x06#8, 0x07#8, 0x08#8]),
       started := false, silent := false, noted := false, done := none },
     starts (by decide +kernel), by decide +kernel⟩,
    ⟨withCmd (run) (ringCmd 0x3 8 0 (0x10000000000-7) 0 0 ([1,2,3,4,5,6,7,8])),
     7,
     {
       seq := 7, ring := 3, idx := 0,
       bytes := (
         [0x03#8, 0x00#8, 0x08#8] ++ List.replicate 5 0x00#8 ++ [0xf9#8] ++ List.replicate 4 0xff#8 ++ List.replicate 51 0x00#8 ++ [
           0x01#8, 0x02#8, 0x03#8, 0x04#8, 0x05#8, 0x06#8, 0x07#8, 0x08#8]),
       started := false, silent := false, noted := false, done := none },
     starts (by decide +kernel), by decide +kernel⟩,
    ⟨withCmd (run) (ringCmd 0x4 0 0 4096 272 16 ([])), 7,
     {
       seq := 7, ring := 3, idx := 0,
       bytes := (
         [0x04#8] ++ List.replicate 8 0x00#8 ++ [0x10#8] ++ List.replicate 6 0x00#8 ++ [0x10#8, 0x01#8] ++
           List.replicate 6 0x00#8 ++ [0x10#8] ++ List.replicate 39 0x00#8),
       started := false, silent := false, noted := false, done := none },
     starts (by decide +kernel), by decide +kernel⟩,
    ⟨{ (withCmd (run) (ringCmd 0x4 0 0 4096 272 16 ([]))) with
       dies := [(0, { resetting := true }), (1, { resetting := true })] },
     7,
     {
       seq := 7, ring := 3, idx := 0,
       bytes := (
         [0x04#8] ++ List.replicate 8 0x00#8 ++ [0x10#8] ++ List.replicate 6 0x00#8 ++ [0x10#8, 0x01#8] ++
           List.replicate 6 0x00#8 ++ [0x10#8] ++ List.replicate 39 0x00#8),
       started := false, silent := false, noted := false, done := none },
     starts (by decide +kernel), by decide +kernel⟩,
    ⟨withCmd (run) (ringCmd 0x4 0 0 (0x10000000000-15) 272 16 ([])), 7,
     {
       seq := 7, ring := 3, idx := 0,
       bytes := (
         [0x04#8] ++ List.replicate 7 0x00#8 ++ [0xf1#8] ++ List.replicate 4 0xff#8 ++ [
           0x00#8, 0x00#8, 0x00#8, 0x10#8, 0x01#8] ++ List.replicate 6 0x00#8 ++ [0x10#8] ++ List.replicate 39 0x00#8),
       started := false, silent := false, noted := false, done := none },
     starts (by decide +kernel), by decide +kernel⟩,
    ⟨{ (withCmd (run) (ringCmd 0x5 0 0 256 300 0 ([]))) with dusk := true }, 7,
     {
       seq := 7, ring := 3, idx := 0,
       bytes := (
         [0x05#8] ++ List.replicate 8 0x00#8 ++ [0x01#8] ++ List.replicate 6 0x00#8 ++ [0x2c#8, 0x01#8] ++
           List.replicate 46 0x00#8),
       started := false, silent := false, noted := false, done := none },
     starts (by decide +kernel), by decide +kernel⟩,
    ⟨withCmd (run) (ringCmd 0x5 0 0 256 300 0 ([])), 7,
     {
       seq := 7, ring := 3, idx := 0,
       bytes := (
         [0x05#8] ++ List.replicate 8 0x00#8 ++ [0x01#8] ++ List.replicate 6 0x00#8 ++ [0x2c#8, 0x01#8] ++
           List.replicate 46 0x00#8),
       started := false, silent := false, noted := false, done := none },
     starts (by decide +kernel), by decide +kernel⟩,
    ⟨withCmd (run) (ringCmd 0x5 0 0 0xF000000000 1 0 ([])), 7,
     {
       seq := 7, ring := 3, idx := 0,
       bytes := (
         [0x05#8] ++ List.replicate 11 0x00#8 ++ [
           0xf0#8, 0x00#8, 0x00#8, 0x00#8, 0x01#8] ++ List.replicate 47 0x00#8),
       started := false, silent := false, noted := false, done := none },
     starts (by decide +kernel), by decide +kernel⟩,
    ⟨{ (withCmd (run) (ringCmd 0x9 0 0 0 2 (0x10000000000-128) ([]))) with dusk := true },
     7,
     {
       seq := 7, ring := 3, idx := 0,
       bytes := (
         [0x09#8] ++ List.replicate 15 0x00#8 ++ [0x02#8] ++ List.replicate 7 0x00#8 ++ [0x80#8] ++ List.replicate
           4 0xff#8 ++ List.replicate 35 0x00#8),
       started := false, silent := false, noted := false, done := none },
     starts (by decide +kernel), by decide +kernel⟩,
    ⟨withCmd (run) (ringCmd 0x9 0 0 0 2 (0x10000000000-128) ([])), 7,
     {
       seq := 7, ring := 3, idx := 0,
       bytes := (
         [0x09#8] ++ List.replicate 15 0x00#8 ++ [0x02#8] ++ List.replicate 7 0x00#8 ++ [0x80#8] ++ List.replicate
           4 0xff#8 ++ List.replicate 35 0x00#8),
       started := false, silent := false, noted := false, done := none },
     starts (by decide +kernel), by decide +kernel⟩,
    ⟨withCmd (run) (ringCmd 0x9 0 0 0 2 (0x10000000000-127) ([])), 7,
     {
       seq := 7, ring := 3, idx := 0,
       bytes := (
         [0x09#8] ++ List.replicate 15 0x00#8 ++ [0x02#8] ++ List.replicate 7 0x00#8 ++ [0x81#8] ++ List.replicate
           4 0xff#8 ++ List.replicate 35 0x00#8),
       started := false, silent := false, noted := false, done := none },
     starts (by decide +kernel), by decide +kernel⟩,
    ⟨withCmd (run) (ringCmd 0x6 0 0 0 0 0 ([])), 7, serves (by decide +kernel), by decide +kernel⟩,
    ⟨withCmd (run) (ringCmd 0x0 0 0 0 0 0 ([])), 7, serves (by decide +kernel), by decide +kernel⟩,
    ⟨withCmd (run) (ringCmd 0x0 0 0 0 0 0 ([])), 7, serves (by decide +kernel), by decide +kernel⟩,
    ⟨withCmd (run) (ringCmd 0x0 0 0 0 0 0 ([])), 7, serves (by decide +kernel), by decide +kernel⟩,
    ⟨withCmd (run) (ringCmd 0x0 0 0 0 0 0 ([])), 7, serves (by decide +kernel), by decide +kernel⟩,
    ⟨withCmd (run) (ringCmd 0x0 0 0 0 0 0 ([])), 7, serves (by decide +kernel), by decide +kernel⟩,
    ⟨withCmd (run) (ringCmd 0x0 0 0 0 0 0 ([])), 7, serves (by decide +kernel), by decide +kernel⟩,
    ⟨withCmd (run) (ringCmd 0x0 0 0 0 0 0 ([])), 7, serves (by decide +kernel), by decide +kernel⟩,
    ⟨st19, .ring 0, 0x000203FF,
     {
       rcb := {
         sqBase := 1030792151040, logSq := 4, cqBase := 1030792216576, logCq := 4, msiAddr := 0, msiData := 0 },
       enabled := true, stopping := false, again := false, fetch := 0, tail := 1, head := 0, cq := 0 },
     serves (by decide +kernel), by decide +kernel⟩,
    ⟨((run : State).wr hostPage offStatus 1), .ring 0, 0x000203FF, serves (by decide +kernel), by decide +kernel⟩,
    ⟨st20, .ring 0, 0x000203FF,
     { sqBase := 1030792151040, logSq := 4, cqBase := 1030792216576, logCq := 4, msiAddr := 0, msiData := 0 },
     serves (by decide +kernel), by decide +kernel⟩,
    ⟨st20, .ring 0, 0x103, serves (by decide +kernel), by decide +kernel⟩,
    ⟨withCmd (run) (ringCmd 0x0 0 0 0 0 0 ([])), .ring 0, 0x000203FF, serves (by decide +kernel), by decide +kernel⟩,
    ⟨{ run with
       host := {
         rings := [
           (
             1023,
             {
               rcb := {
                 sqBase := 0xF000000000, logSq := 4, cqBase := 0xF000010000, logCq := 4, msiAddr := 0, msiData := 0 },
               tail := 1, stopping := true })] } },
     .ring 0, 0x000203FF,
     {
       rcb := {
         sqBase := 1030792151040, logSq := 4, cqBase := 1030792216576, logCq := 4, msiAddr := 0, msiData := 0 },
       enabled := true, stopping := true, again := false, fetch := 0, tail := 1, head := 0, cq := 0 },
     serves (by decide +kernel), by decide +kernel⟩,
    ⟨st19, .ring 0, 0x000203FF,
     {
       rcb := {
         sqBase := 1030792151040, logSq := 4, cqBase := 1030792216576, logCq := 4, msiAddr := 0, msiData := 0 },
       enabled := true, stopping := false, again := false, fetch := 0, tail := 1, head := 0, cq := 0 },
     serves (by decide +kernel), by decide +kernel⟩⟩

theorem witness_ResidencyAndCompletionComplete :
    (∃ (s : State) (seq : Nat) (c : Cmd),
      let b := bits (c.arg 0) 17 0
      let tier := bits (c.arg 0) 19 18
      let e := s.resEnt b
      let may : Prop := (tier = 1 ∨ (tier = 2 ∧ e.slowHome = true)) ∧ e.tier ≠ 0 ∧ e.tier ≠ 3 ∧ e.visited = false
      s.Starts seq 0x08 c ∧ ¬may) ∧
    (∃ (s : State) (seq : Nat) (c : Cmd),
      let b := bits (c.arg 0) 17 0
      let tier := bits (c.arg 0) 19 18
      let e := s.resEnt b
      let may : Prop := (tier = 1 ∨ (tier = 2 ∧ e.slowHome = true)) ∧ e.tier ≠ 0 ∧ e.tier ≠ 3 ∧ e.visited = false
      s.Starts seq 0x08 c ∧ may ∧ e.tier = tier ∧ e.moving = false) ∧
    (∃ (s : State) (seq : Nat) (c : Cmd),
      let b := bits (c.arg 0) 17 0
      let tier := bits (c.arg 0) 19 18
      let e := s.resEnt b
      let may : Prop := (tier = 1 ∨ (tier = 2 ∧ e.slowHome = true)) ∧ e.tier ≠ 0 ∧ e.tier ≠ 3 ∧ e.visited = false
      s.Starts seq 0x08 c ∧ may ∧ (e.tier ≠ tier ∨ e.moving = true)) ∧
    (∃ (s : State) (seq : Nat) (c : _),
      s.Serves ∧ s.cmd seq = some c ∧ (c.opcode ≠ 0x08 ∨ c.started = true ∨ s.mayStart c = false)) ∧
    (∃ (s : State) (seq : Nat),
      s.Serves ∧ (s.dusk = true ∨ s.cmd seq = none ∨ (∃ c, s.cmd seq = some c ∧ c.done = none))) ∧
    (∃ (s : State) (seq : Nat) (st : Nat) (result : Nat) (c : Cmd),
      let silent : Prop := s.ring c.ring = none ∨ c.silent = true ∨ bit (fieldAt c.bytes 0 4) 10 = true
      s.Serves ∧ s.dusk = false ∧ s.cmd seq = some c ∧ c.done = some (st, result) ∧ silent) ∧
    (∃ (s : State) (seq : Nat) (st : Nat) (result : Nat) (c : Cmd) (r : _),
      let silent : Prop := s.ring c.ring = none ∨ c.silent = true ∨ bit (fieldAt c.bytes 0 4) 10 = true
      let size := 2 ^ r.rcb.logCq
      let used := (r.cq + 2 ^ 17 - r.head) % 2 ^ 17
      s.Serves ∧ s.dusk = false ∧ s.cmd seq = some c ∧ c.done = some (st, result) ∧ s.ring c.ring = some r ∧ ¬silent ∧
      size ≤ used) ∧
    (∃ (s : State) (seq : Nat) (st : Nat) (result : Nat) (c : Cmd) (r : _),
      let silent : Prop := s.ring c.ring = none ∨ c.silent = true ∨ bit (fieldAt c.bytes 0 4) 10 = true
      let size := 2 ^ r.rcb.logCq
      let used := (r.cq + 2 ^ 17 - r.head) % 2 ^ 17
      s.Serves ∧ s.dusk = false ∧ s.cmd seq = some c ∧ c.done = some (st, result) ∧ s.ring c.ring = some r ∧ ¬silent ∧
      used < size) :=
  ⟨⟨withCmd (
       { run with res := [(5, { tier := 1, slowHome := true, visited := true })] }) (ringCmd 0x8 0 0 (5+2^18) 0 0 ([])),
     7,
     {
       seq := 7, ring := 3, idx := 0,
       bytes := ([0x08#8] ++ List.replicate 7 0x00#8 ++ [0x05#8, 0x00#8, 0x04#8] ++ List.replicate 53 0x00#8),
       started := false, silent := false, noted := false, done := none },
     starts (by decide +kernel), by decide +kernel⟩,
    ⟨withCmd (
       { run with res := [(5, { tier := 2, slowHome := true, visited := false })] }) (ringCmd 0x8 0 0 (5+2*2^18) 0 0 ([])),
     7,
     {
       seq := 7, ring := 3, idx := 0,
       bytes := ([0x08#8] ++ List.replicate 7 0x00#8 ++ [0x05#8, 0x00#8, 0x08#8] ++ List.replicate 53 0x00#8),
       started := false, silent := false, noted := false, done := none },
     starts (by decide +kernel), by decide +kernel⟩,
    ⟨withCmd (
       { run with res := [(5, { tier := 2, slowHome := true, visited := false })] }) (ringCmd 0x8 0 0 (5+2^18) 0 0 ([])),
     7,
     {
       seq := 7, ring := 3, idx := 0,
       bytes := ([0x08#8] ++ List.replicate 7 0x00#8 ++ [0x05#8, 0x00#8, 0x04#8] ++ List.replicate 53 0x00#8),
       started := false, silent := false, noted := false, done := none },
     starts (by decide +kernel), by decide +kernel⟩,
    ⟨withCmd (run) (ringCmd 0x0 0 0 0 0 0 ([])), 7,
     {
       seq := 7, ring := 3, idx := 0, bytes := (List.replicate 64 0x00#8), started := false, silent := false,
       noted := false, done := none },
     serves (by decide +kernel), by decide +kernel⟩,
    ⟨{ svc with pending := [.brownOut, .holdEnd] }, 7, serves (by decide +kernel), by decide +kernel⟩,
    ⟨{ run with
       host := {
         cmds := [{ (ringCmd 0 0 4 0 0 0 []) with started := true, done := some (0, 9), noted := false }],
         nextSeq := 8,
         journal := [
           (
             7,
             {
               seq := 7, accept := 0, cls := 4, source := 3, opcode := 0, status := 0, cmdId := 0, digest := [],
               arg := 0 })] } },
     7, 0, 9,
     {
       seq := 7, ring := 3, idx := 0, bytes := ([0x00#8, 0x04#8] ++ List.replicate 62 0x00#8), started := true,
       silent := false, noted := false, done := some (0, 9) },
     serves (by decide +kernel), by decide +kernel⟩,
    ⟨{ run with
       host := {
         rings := [
           (
             3,
             {
               rcb := {
                 sqBase := 0xF000000000, logSq := 4, cqBase := 0xF000010000, logCq := 4, msiAddr := 0, msiData := 0 },
               cq := 16 })],
         cmds := [{ (ringCmd 0 0 0 0 0 0 []) with started := true, done := some (0, 9), noted := true }],
         nextSeq := 8 } },
     7, 0, 9,
     {
       seq := 7, ring := 3, idx := 0, bytes := (List.replicate 64 0x00#8), started := true, silent := false,
       noted := true, done := some (0, 9) },
     {
       rcb := {
         sqBase := 1030792151040, logSq := 4, cqBase := 1030792216576, logCq := 4, msiAddr := 0, msiData := 0 },
       enabled := true, stopping := false, again := false, fetch := 0, tail := 0, head := 0, cq := 16 },
     serves (by decide +kernel), by decide +kernel⟩,
    ⟨{ run with
       host := {
         cmds := [{ (ringCmd 0 0 0 0 0 0 []) with started := true, done := some (0, 9), noted := true }],
         nextSeq := 8,
         journal := [
           (
             7,
             {
               seq := 7, accept := 0, cls := 4, source := 3, opcode := 0, status := 0, cmdId := 0, digest := [],
               arg := 0 })],
         rings := [
           (
             3,
             {
               rcb := {
                 sqBase := 0xF000000000, logSq := 4, cqBase := 0xF000010000, logCq := 4, msiAddr := 0, msiData := 0 },
               tail := 1 })] } },
     7, 0, 9,
     {
       seq := 7, ring := 3, idx := 0, bytes := (List.replicate 64 0x00#8), started := true, silent := false,
       noted := true, done := some (0, 9) },
     {
       rcb := {
         sqBase := 1030792151040, logSq := 4, cqBase := 1030792216576, logCq := 4, msiAddr := 0, msiData := 0 },
       enabled := true, stopping := false, again := false, fetch := 0, tail := 1, head := 0, cq := 0 },
     serves (by decide +kernel), by decide +kernel⟩⟩

theorem witness_QueuePairCommandsComplete :
    (∃ (s : State) (seq : Nat) (c : Cmd),
      let n := c.arg 0 % 2048
      let q := s.qp n
      s.Starts seq 0x10 c ∧ (q.state = 0 ∨ q.state = 4)) ∧
    (∃ (s : State) (seq : Nat) (c : Cmd),
      let n := c.arg 0 % 2048
      let q := s.qp n
      s.Starts seq 0x10 c ∧ q.state ≠ 0 ∧ q.state ≠ 4) ∧
    (∃ (s : State) (seq : Nat) (c : Cmd),
      let n := c.arg 0 % 2048
      let q := s.qp n
      let goal := bits (c.arg 0) 18 16
      s.Starts seq 0x11 c ∧ goal = 2 ∧ (q.state = 1 ∨ q.state = 4)) ∧
    (∃ (s : State) (seq : Nat) (c : Cmd),
      let n := c.arg 0 % 2048
      let q := s.qp n
      let goal := bits (c.arg 0) 18 16
      s.Starts seq 0x11 c ∧ goal = 3 ∧ q.state = 2) ∧
    (∃ (s : State) (seq : Nat) (c : Cmd),
      let n := c.arg 0 % 2048
      let q := s.qp n
      let goal := bits (c.arg 0) 18 16
      s.Starts seq 0x11 c ∧ goal = 4 ∧ q.state ≠ 0) ∧
    (∃ (s : State) (seq : Nat) (c : Cmd),
      let n := c.arg 0 % 2048
      let q := s.qp n
      let goal := bits (c.arg 0) 18 16
      s.Starts seq 0x11 c ∧ (¬(goal = 2 ∧ (q.state = 1 ∨ q.state = 4))) ∧ ¬(goal = 3 ∧ q.state = 2) ∧
      ¬(goal = 4 ∧ q.state ≠ 0)) ∧
    (∃ (s : State) (seq : Nat) (c : Cmd),
      let n := c.arg 0 % 2048
      let q := s.qp n
      s.Starts seq 0x12 c ∧ q.state = 0) ∧
    (∃ (s : State) (seq : Nat) (c : Cmd),
      let n := c.arg 0 % 2048
      let q := s.qp n
      s.Starts seq 0x12 c ∧ q.state ≠ 0 ∧ q.ops = []) ∧
    (∃ (s : State) (seq : Nat) (c : Cmd),
      let n := c.arg 0 % 2048
      let q := s.qp n
      s.Starts seq 0x12 c ∧ q.state ≠ 0 ∧ q.ops ≠ []) ∧
    (∃ (s : State) (seq : Nat) (c : Cmd),
      s.Starts seq 0x13 c ∧ inStacks (c.arg 0) (c.arg 1) = true) ∧
    (∃ (s : State) (seq : Nat) (c : Cmd),
      s.Starts seq 0x13 c ∧ inStacks (c.arg 0) (c.arg 1) = false) ∧
    (∃ (s : State) (seq : Nat) (c : Cmd),
      s.Starts seq 0x14 c) ∧
    (∃ (s : State) (seq : Nat) (c : Cmd),
      let n := c.arg 0 % 2048
      let q := s.qp n
      let write := bit (c.arg 0) 16
      let full : Prop := write = false ∧ 16 ≤ (q.ops.filter fun o => !o.write).length
      s.Starts seq 0x15 c ∧ full) ∧
    (∃ (s : State) (seq : Nat) (c : Cmd),
      let n := c.arg 0 % 2048
      let q := s.qp n
      let write := bit (c.arg 0) 16
      let full : Prop := write = false ∧ 16 ≤ (q.ops.filter fun o => !o.write).length
      s.Starts seq 0x15 c ∧ ¬full ∧ q.state ≠ 3) ∧
    (∃ (s : State) (seq : Nat) (c : Cmd),
      let n := c.arg 0 % 2048
      let q := s.qp n
      let write := bit (c.arg 0) 16
      let full : Prop := write = false ∧ 16 ≤ (q.ops.filter fun o => !o.write).length
      let good : Prop := inStacks (c.arg 1) (c.arg 2) = true ∧ 0 < c.arg 2 ∧ c.arg 2 ≤ 2 ^ 31
      s.Starts seq 0x15 c ∧ ¬full ∧ q.state = 3 ∧ ¬good) ∧
    (∃ (s : State) (seq : Nat) (c : Cmd),
      let n := c.arg 0 % 2048
      let q := s.qp n
      let write := bit (c.arg 0) 16
      let full : Prop := write = false ∧ 16 ≤ (q.ops.filter fun o => !o.write).length
      let good : Prop := inStacks (c.arg 1) (c.arg 2) = true ∧ 0 < c.arg 2 ∧ c.arg 2 ≤ 2 ^ 31
      s.Starts seq 0x15 c ∧ ¬full ∧ q.state = 3 ∧ good) ∧
    (∃ (n : Nat) (k : _),
      k ≠ n) ∧
    (∃ (s : State) (n : Nat) (k : _),
      (s.qp n).state ≠ 4 ∧ (s.qp n).leaving = none ∧ (s.qp n).ops = [] ∧ k ≠ n) ∧
    (∃ (s : State) (seq : Nat),
      let not_ (op : Nat) : Prop := ∀ c, s.cmd seq = some c → c.opcode ≠ op ∨ c.started = true ∨ s.mayStart c = false
      s.Serves ∧ not_ 0x10) ∧
    (∃ (s : State) (seq : Nat),
      let not_ (op : Nat) : Prop := ∀ c, s.cmd seq = some c → c.opcode ≠ op ∨ c.started = true ∨ s.mayStart c = false
      s.Serves ∧ not_ 0x11) ∧
    (∃ (s : State) (seq : Nat),
      let not_ (op : Nat) : Prop := ∀ c, s.cmd seq = some c → c.opcode ≠ op ∨ c.started = true ∨ s.mayStart c = false
      s.Serves ∧ not_ 0x12) ∧
    (∃ (s : State) (seq : Nat),
      let not_ (op : Nat) : Prop := ∀ c, s.cmd seq = some c → c.opcode ≠ op ∨ c.started = true ∨ s.mayStart c = false
      s.Serves ∧ not_ 0x13) ∧
    (∃ (s : State) (seq : Nat),
      let not_ (op : Nat) : Prop := ∀ c, s.cmd seq = some c → c.opcode ≠ op ∨ c.started = true ∨ s.mayStart c = false
      s.Serves ∧ not_ 0x14) ∧
    (∃ (s : State) (seq : Nat),
      let not_ (op : Nat) : Prop := ∀ c, s.cmd seq = some c → c.opcode ≠ op ∨ c.started = true ∨ s.mayStart c = false
      s.Serves ∧ not_ 0x15) :=
  ⟨⟨st21, 7,
     {
       seq := 7, ring := 3, idx := 0,
       bytes := (
         [0x10#8] ++ List.replicate 7 0x00#8 ++ [0xff#8, 0x07#8] ++ List.replicate 54 0x00#8 ++ List.replicate 64
           0x03#8),
       started := false, silent := false, noted := false, done := none },
     starts (by decide +kernel), by decide +kernel⟩,
    ⟨st22, 7,
     {
       seq := 7, ring := 3, idx := 0,
       bytes := (
         [0x10#8] ++ List.replicate 7 0x00#8 ++ [0xff#8, 0x07#8] ++ List.replicate 54 0x00#8 ++ List.replicate 64
           0x03#8),
       started := false, silent := false, noted := false, done := none },
     starts (by decide +kernel), by decide +kernel⟩,
    ⟨withCmd (
       { run with host := { qps := [(2047, { state := 1  })], mrs := [(4095, { gen := 2^20-1 })] } }
     ) (ringCmd 0x11 0 0 (2047+2*2^16) 0 0 (List.replicate 64 3)),
     7,
     {
       seq := 7, ring := 3, idx := 0,
       bytes := (
         [0x11#8] ++ List.replicate 7 0x00#8 ++ [
           0xff#8, 0x07#8, 0x02#8] ++ List.replicate 53 0x00#8 ++ List.replicate 64 0x03#8),
       started := false, silent := false, noted := false, done := none },
     starts (by decide +kernel), by decide +kernel⟩,
    ⟨withCmd (
       { run with host := { qps := [(2047, { state := 2  })], mrs := [(4095, { gen := 2^20-1 })] } }
     ) (ringCmd 0x11 0 0 (2047+3*2^16) 0 0 (List.replicate 64 3)),
     7,
     {
       seq := 7, ring := 3, idx := 0,
       bytes := (
         [0x11#8] ++ List.replicate 7 0x00#8 ++ [
           0xff#8, 0x07#8, 0x03#8] ++ List.replicate 53 0x00#8 ++ List.replicate 64 0x03#8),
       started := false, silent := false, noted := false, done := none },
     starts (by decide +kernel), by decide +kernel⟩,
    ⟨withCmd (
       { run with host := { qps := [(2047, { state := 3  })], mrs := [(4095, { gen := 2^20-1 })] } }
     ) (ringCmd 0x11 0 0 (2047+4*2^16) 0 0 (List.replicate 64 3)),
     7,
     {
       seq := 7, ring := 3, idx := 0,
       bytes := (
         [0x11#8] ++ List.replicate 7 0x00#8 ++ [
           0xff#8, 0x07#8, 0x04#8] ++ List.replicate 53 0x00#8 ++ List.replicate 64 0x03#8),
       started := false, silent := false, noted := false, done := none },
     starts (by decide +kernel), by decide +kernel⟩,
    ⟨withCmd (
       { run with host := { qps := [(2047, { state := 1  })], mrs := [(4095, { gen := 2^20-1 })] } }
     ) (ringCmd 0x11 0 0 (2047+3*2^16) 0 0 (List.replicate 64 3)),
     7,
     {
       seq := 7, ring := 3, idx := 0,
       bytes := (
         [0x11#8] ++ List.replicate 7 0x00#8 ++ [
           0xff#8, 0x07#8, 0x03#8] ++ List.replicate 53 0x00#8 ++ List.replicate 64 0x03#8),
       started := false, silent := false, noted := false, done := none },
     starts (by decide +kernel), by decide +kernel⟩,
    ⟨withCmd (run) (ringCmd 0x12 0 0 2047 0 0 []), 7,
     {
       seq := 7, ring := 3, idx := 0,
       bytes := ([0x12#8] ++ List.replicate 7 0x00#8 ++ [0xff#8, 0x07#8] ++ List.replicate 54 0x00#8),
       started := false, silent := false, noted := false, done := none },
     starts (by decide +kernel), by decide +kernel⟩,
    ⟨withCmd (
       { run with host := { qps := [(2047, { state := 1  })], mrs := [(4095, { gen := 2^20-1 })] } }
     ) (ringCmd 0x12 0 0 2047 0 0 ([])),
     7,
     {
       seq := 7, ring := 3, idx := 0,
       bytes := ([0x12#8] ++ List.replicate 7 0x00#8 ++ [0xff#8, 0x07#8] ++ List.replicate 54 0x00#8),
       started := false, silent := false, noted := false, done := none },
     starts (by decide +kernel), by decide +kernel⟩,
    ⟨st23, 7,
     {
       seq := 7, ring := 3, idx := 0,
       bytes := ([0x12#8] ++ List.replicate 7 0x00#8 ++ [0xff#8, 0x07#8] ++ List.replicate 54 0x00#8),
       started := false, silent := false, noted := false, done := none },
     starts (by decide +kernel), by decide +kernel⟩,
    ⟨withCmd (
       { run with host := { qps := [(2047, { state := 0  })], mrs := [(4095, { gen := 2^20-1 })] } }
     ) (ringCmd 0x13 0 0 (0x10000000000-64) 64 (4095+2^12) ([])),
     7,
     {
       seq := 7, ring := 3, idx := 0,
       bytes := (
         [0x13#8] ++ List.replicate 7 0x00#8 ++ [0xc0#8] ++ List.replicate 4 0xff#8 ++ [
           0x00#8, 0x00#8, 0x00#8, 0x40#8] ++ List.replicate 7 0x00#8 ++ [0xff#8, 0x1f#8] ++ List.replicate 38 0x00#8),
       started := false, silent := false, noted := false, done := none },
     starts (by decide +kernel), by decide +kernel⟩,
    ⟨withCmd (run) (ringCmd 0x13 0 0 (0x10000000000-63) 64 (4095+2^12) []), 7,
     {
       seq := 7, ring := 3, idx := 0,
       bytes := (
         [0x13#8] ++ List.replicate 7 0x00#8 ++ [0xc1#8] ++ List.replicate 4 0xff#8 ++ [
           0x00#8, 0x00#8, 0x00#8, 0x40#8] ++ List.replicate 7 0x00#8 ++ [0xff#8, 0x1f#8] ++ List.replicate 38 0x00#8),
       started := false, silent := false, noted := false, done := none },
     starts (by decide +kernel), by decide +kernel⟩,
    ⟨withCmd (
       { run with host := { qps := [(2047, { state := 0  })], mrs := [(4095, { gen := 2^20-1 })] } }
     ) (ringCmd 0x14 0 0 0 0 4095 ([])),
     7,
     {
       seq := 7, ring := 3, idx := 0,
       bytes := ([0x14#8] ++ List.replicate 23 0x00#8 ++ [0xff#8, 0x0f#8] ++ List.replicate 38 0x00#8),
       started := false, silent := false, noted := false, done := none },
     starts (by decide +kernel)⟩,
    ⟨withCmd (
       { run with
         host := {
           qps := [
             (
               2047,
               {
                 state := 3,
                 ops := List.replicate 16 {
                   id := 1, write := false, local_ := 0, len := 64, remote := 0, key := 0, psn := 0 } })],
           mrs := [(4095, { gen := 2^20-1 })] } }) (ringCmd 0x15 0 0 (2047) 4096 64 (List.replicate 64 3)),
     7,
     {
       seq := 7, ring := 3, idx := 0,
       bytes := (
         [0x15#8] ++ List.replicate 7 0x00#8 ++ [0xff#8, 0x07#8] ++ List.replicate 7 0x00#8 ++ [0x10#8] ++
           List.replicate 6 0x00#8 ++ [0x40#8] ++ List.replicate 39 0x00#8 ++ List.replicate 64 0x03#8),
       started := false, silent := false, noted := false, done := none },
     starts (by decide +kernel), by decide +kernel⟩,
    ⟨withCmd (
       { run with host := { qps := [(2047, { state := 1  })], mrs := [(4095, { gen := 2^20-1 })] } }
     ) (ringCmd 0x15 0 0 2047 4096 64 (List.replicate 64 3)),
     7,
     {
       seq := 7, ring := 3, idx := 0,
       bytes := (
         [0x15#8] ++ List.replicate 7 0x00#8 ++ [0xff#8, 0x07#8] ++ List.replicate 7 0x00#8 ++ [0x10#8] ++
           List.replicate 6 0x00#8 ++ [0x40#8] ++ List.replicate 39 0x00#8 ++ List.replicate 64 0x03#8),
       started := false, silent := false, noted := false, done := none },
     starts (by decide +kernel), by decide +kernel⟩,
    ⟨withCmd (
       { run with host := { qps := [(2047, { state := 3 })], mrs := [(4095, { gen := 2^20-1 })] } }
     ) (ringCmd 0x15 0 0 (2047) (0x10000000000-63) 64 (List.replicate 64 3)),
     7,
     {
       seq := 7, ring := 3, idx := 0,
       bytes := (
         [0x15#8] ++ List.replicate 7 0x00#8 ++ [0xff#8, 0x07#8] ++ List.replicate 6 0x00#8 ++ [0xc1#8] ++ List.replicate 4 0xff#8 ++ [
           0x00#8, 0x00#8, 0x00#8, 0x40#8] ++ List.replicate 39 0x00#8 ++ List.replicate 64 0x03#8),
       started := false, silent := false, noted := false, done := none },
     starts (by decide +kernel), by decide +kernel⟩,
    ⟨withCmd (
       { run with host := { qps := [(2047, { state := 3  })], mrs := [(4095, { gen := 2^20-1 })] } }
     ) (ringCmd 0x15 0 0 (2047) 4096 64 (List.replicate 64 3)),
     7,
     {
       seq := 7, ring := 3, idx := 0,
       bytes := (
         [0x15#8] ++ List.replicate 7 0x00#8 ++ [0xff#8, 0x07#8] ++ List.replicate 7 0x00#8 ++ [0x10#8] ++
           List.replicate 6 0x00#8 ++ [0x40#8] ++ List.replicate 39 0x00#8 ++ List.replicate 64 0x03#8),
       started := false, silent := false, noted := false, done := none },
     starts (by decide +kernel), by decide +kernel⟩,
    ⟨5, 0, by decide +kernel⟩,
    ⟨{ svc with pending := [.brownOut, .holdEnd] }, 5, 0, by decide +kernel⟩,
    ⟨{ svc with pending := [.brownOut, .holdEnd] }, 7, serves (by decide +kernel), by decide +kernel⟩,
    ⟨{ svc with pending := [.brownOut, .holdEnd] }, 7, serves (by decide +kernel), by decide +kernel⟩,
    ⟨{ svc with pending := [.brownOut, .holdEnd] }, 7, serves (by decide +kernel), by decide +kernel⟩,
    ⟨{ svc with pending := [.brownOut, .holdEnd] }, 7, serves (by decide +kernel), by decide +kernel⟩,
    ⟨{ svc with pending := [.brownOut, .holdEnd] }, 7, serves (by decide +kernel), by decide +kernel⟩,
    ⟨{ svc with pending := [.brownOut, .holdEnd] }, 7, serves (by decide +kernel), by decide +kernel⟩⟩

theorem witness_IntakeFamilyCompletes :
    (∃ (s : State) (seq : Nat) (c : Cmd),
      s.Starts seq 0x18 c ∧ s.dusk = true) ∧
    (∃ (s : State) (seq : Nat) (c : Cmd),
      s.Starts seq 0x18 c ∧ s.dusk = false ∧ s.inHost (c.arg 0) 320 = false) ∧
    (∃ (s : State) (seq : Nat) (c : Cmd),
      let g := s.setCmd { c with started := true }
      let r := g.modRead (c.arg 0) 320
      s.Starts seq 0x18 c ∧ s.dusk = false ∧ s.inHost (c.arg 0) 320 = true ∧ r.2.parsePlan (r.1.map (·.val)) = none) ∧
    (∃ (s : State) (seq : Nat) (c : Cmd) (p : _),
      let g := s.setCmd { c with started := true }
      let r := g.modRead (c.arg 0) 320
      s.Starts seq 0x18 c ∧ s.dusk = false ∧ s.inHost (c.arg 0) 320 = true ∧ r.2.parsePlan (r.1.map (·.val)) = some p) ∧
    (∃ (s : State) (seq : Nat) (c : Cmd),
      let k := s.host.intake
      s.Starts seq 0x19 c ∧ k.stalled = false) ∧
    (∃ (s : State) (seq : Nat) (c : Cmd),
      let k := s.host.intake
      s.Starts seq 0x19 c ∧ k.stalled = true) ∧
    (∃ (s : State) (seq : Nat) (c : Cmd),
      let k := s.host.intake
      s.Starts seq 0x1A c ∧ k.reads.any (·.issued) = false) ∧
    (∃ (s : State) (seq : Nat) (c : Cmd),
      let k := s.host.intake
      s.Starts seq 0x1A c ∧ k.reads.any (·.issued) = true) ∧
    (∃ (s : State) (seq : Nat),
      let not_ (op : Nat) : Prop := ∀ c, s.cmd seq = some c → c.opcode ≠ op ∨ c.started = true ∨ s.mayStart c = false
      s.Serves ∧ not_ 0x18) ∧
    (∃ (s : State) (seq : Nat),
      let not_ (op : Nat) : Prop := ∀ c, s.cmd seq = some c → c.opcode ≠ op ∨ c.started = true ∨ s.mayStart c = false
      s.Serves ∧ not_ 0x19) ∧
    (∃ (s : State) (seq : Nat),
      let not_ (op : Nat) : Prop := ∀ c, s.cmd seq = some c → c.opcode ≠ op ∨ c.started = true ∨ s.mayStart c = false
      s.Serves ∧ not_ 0x1A) ∧
    (∃ (s : State),
      let k := s.host.intake
      s.Serves ∧ (k.plan = none ∨ k.on = false ∨ k.stalled = true)) ∧
    (∃ (s : State) (p : _),
      let k := s.host.intake
      let next := [s.steps.step, s.steps.step + 1].find? fun t => !k.started.contains t && !k.complete.contains t
      s.Serves ∧ k.plan = some p ∧ k.on = true ∧ k.stalled = false ∧ next = none) ∧
    (∃ (s : State) (p : _) (t : _),
      let k := s.host.intake
      let next := [s.steps.step, s.steps.step + 1].find? fun t => !k.started.contains t && !k.complete.contains t
      s.Serves ∧ k.plan = some p ∧ k.on = true ∧ k.stalled = false ∧ next = some t) ∧
    (∃ (s : State) (id : Nat),
      s.Serves ∧ s.host.intake.reads.find? (fun r => r.id == id && r.issued) = none) ∧
    (∃ (s : State) (id : Nat) (r : _),
      let q := s.qp r.qpn
      s.Serves ∧ s.host.intake.reads.find? (fun r => r.id == id && r.issued) = some r ∧ (q.state = 4 ∨ q.state = 0)) ∧
    (∃ (s : State) (id : Nat) (r : _),
      let q := s.qp r.qpn
      s.Serves ∧ s.host.intake.reads.find? (fun r => r.id == id && r.issued) = some r ∧ q.state ≠ 4 ∧ q.state ≠ 0) ∧
    (∃ (s : State) (id : Nat) (r : _),
      let q := s.qp r.qpn
      s.Serves ∧ s.host.intake.reads.find? (fun r => r.id == id && r.issued) = some r ∧
      q.ops.any (fun o => o.id == id && o.got ≥ o.len) = false) ∧
    (∃ (s : State) (id : Nat) (r : _),
      let q := s.qp r.qpn
      let out := (s.setQp r.qpn { q with ops := q.ops.filter (·.id != id) }).qpSettle r.qpn
      let settled := ({ out with host := { out.host with intake := { out.host.intake with
        reads := out.host.intake.reads.filter (·.id != id) } } } : State).intakeSettle r.step
      let h := settled.host.intake
      s.Serves ∧ s.host.intake.reads.find? (fun r => r.id == id && r.issued) = some r ∧
      q.ops.any (fun o => o.id == id && o.got ≥ o.len) = true ∧ (h.offSeq = none ∨ h.reads.any (·.issued) = true)) ∧
    (∃ (s : State) (id : Nat) (r : _) (seq : _),
      let q := s.qp r.qpn
      let out := (s.setQp r.qpn { q with ops := q.ops.filter (·.id != id) }).qpSettle r.qpn
      let settled := ({ out with host := { out.host with intake := { out.host.intake with
        reads := out.host.intake.reads.filter (·.id != id) } } } : State).intakeSettle r.step
      let h := settled.host.intake
      s.Serves ∧ s.host.intake.reads.find? (fun r => r.id == id && r.issued) = some r ∧
      q.ops.any (fun o => o.id == id && o.got ≥ o.len) = true ∧ h.offSeq = some seq ∧ h.reads.any (·.issued) = false) ∧
    (∃ (s : State) (t : Nat),
      let k := s.host.intake
      k.started.contains t = true ∧ k.reads.any (·.step == t) = false) ∧
    (∃ (s : State) (t : Nat),
      let k := s.host.intake
      (k.started.contains t = false ∨ k.reads.any (·.step == t) = true)) :=
  ⟨⟨{ withCmd (run) (ringCmd 0x18 0 0 0xF000000000 0 0 []) with dusk := true },
     7,
     {
       seq := 7, ring := 3, idx := 0,
       bytes := ([0x18#8] ++ List.replicate 11 0x00#8 ++ [0xf0#8] ++ List.replicate 51 0x00#8), started := false,
       silent := false, noted := false, done := none },
     starts (by decide +kernel), by decide +kernel⟩,
    ⟨withCmd (run) (ringCmd 0x18 0 0 (0x10000000000-319) 0 0 ([])), 7,
     {
       seq := 7, ring := 3, idx := 0,
       bytes := (
         [0x18#8] ++ List.replicate 7 0x00#8 ++ [
           0xc1#8, 0xfe#8, 0xff#8, 0xff#8, 0xff#8] ++ List.replicate 51 0x00#8),
       started := false, silent := false, noted := false, done := none },
     starts (by decide +kernel), by decide +kernel⟩,
    ⟨withCmd (run) (ringCmd 0x18 0 0 0xF000000000 0 0 []), 7,
     {
       seq := 7, ring := 3, idx := 0,
       bytes := ([0x18#8] ++ List.replicate 11 0x00#8 ++ [0xf0#8] ++ List.replicate 51 0x00#8), started := false,
       silent := false, noted := false, done := none },
     starts (by decide +kernel), by decide +kernel⟩,
    ⟨withCmd (
       (
         ({ run with adm := { active := some { img with pairs := [{ base0 := 0x100000, base1 := 0x200000, len := 0x1000 }] } } }).setBytes 0xF000000000 (
           natLe 4 64 ++ natLe 4 1 ++ natLe 4 1 ++ natLe 4 0 ++ natLe 8 0xF000000000 ++ natLe 8 4 ++ natLe 8
             0xF000100000 ++ natLe 8 0xF000200000 ++ natLe 8 1 ++ natLe 8 0 ++ natLe 8 (4*2^32) ++ natLe 8 0x100000))
     ) (ringCmd 0x18 0 0 0xF000000000 0 0 ([])),
     7,
     {
       seq := 7, ring := 3, idx := 0,
       bytes := ([0x18#8] ++ List.replicate 11 0x00#8 ++ [0xf0#8] ++ List.replicate 51 0x00#8), started := false,
       silent := false, noted := false, done := none },
     {
       recBytes := 64, extRecs := 1, nExt := 1, extents := 1030792151040, nrec := 4, curBase := 1030793199616,
       stepBase := 1030794248192, ranges := [{ first := 0, count := 4, dest := 1048576 }] },
     starts (by decide +kernel), by decide +kernel⟩,
    ⟨withCmd (run) (ringCmd 0x19 0 0 0 0 0 ([])), 7,
     {
       seq := 7, ring := 3, idx := 0, bytes := ([0x19#8] ++ List.replicate 63 0x00#8), started := false,
       silent := false, noted := false, done := none },
     starts (by decide +kernel), by decide +kernel⟩,
    ⟨withCmd ({ run with host := { intake := { stalled := true, on := true } } }) (ringCmd 0x19 0 0 0 0 0 ([])),
     7,
     {
       seq := 7, ring := 3, idx := 0, bytes := ([0x19#8] ++ List.replicate 63 0x00#8), started := false,
       silent := false, noted := false, done := none },
     starts (by decide +kernel), by decide +kernel⟩,
    ⟨withCmd (
       { run with
         host := {
           intake := {
             on := true,
             reads := [
               {
                 id := 1, step := 3, range := 0, qpn := 5, remote := 0, key := 0, dest := 0x100000, len := 64,
                 issued := false }] } } }) (ringCmd 0x1a 0 0 0 0 0 ([])),
     7,
     {
       seq := 7, ring := 3, idx := 0, bytes := ([0x1a#8] ++ List.replicate 63 0x00#8), started := false,
       silent := false, noted := false, done := none },
     starts (by decide +kernel), by decide +kernel⟩,
    ⟨st24, 7,
     {
       seq := 7, ring := 3, idx := 0, bytes := ([0x1a#8] ++ List.replicate 63 0x00#8), started := false,
       silent := false, noted := false, done := none },
     starts (by decide +kernel), by decide +kernel⟩,
    ⟨{ svc with pending := [.brownOut, .holdEnd] }, 7, serves (by decide +kernel), by decide +kernel⟩,
    ⟨{ svc with pending := [.brownOut, .holdEnd] }, 7, serves (by decide +kernel), by decide +kernel⟩,
    ⟨{ svc with pending := [.brownOut, .holdEnd] }, 7, serves (by decide +kernel), by decide +kernel⟩,
    ⟨{ svc with pending := [.brownOut, .holdEnd] }, serves (by decide +kernel), by decide +kernel⟩,
    ⟨{ run with
       steps := { step := 4 },
       host := {
         intake := {
           plan := some {
             recBytes := 64, extRecs := 1, nExt := 1, extents := 0xF000000000, nrec := 4, curBase := 0xF000100000,
             stepBase := 0xF000200000, ranges := [{ first := 0, count := 4, dest := 0x100000 }] },
           on := true, started := [4], complete := [5] } } },
     {
       recBytes := 64, extRecs := 1, nExt := 1, extents := 1030792151040, nrec := 4, curBase := 1030793199616,
       stepBase := 1030794248192, ranges := [{ first := 0, count := 4, dest := 1048576 }] },
     serves (by decide +kernel), by decide +kernel⟩,
    ⟨{ run with
       adm := { active := some { img with pairs := [{ base0 := 0x100000, base1 := 0x200000, len := 0x1000 }] } },
       host := {
         intake := {
           plan := some {
             recBytes := 64, extRecs := 1, nExt := 1, extents := 0xF000000000, nrec := 4, curBase := 0xF000100000,
             stepBase := 0xF000200000, ranges := [{ first := 0, count := 4, dest := 0x100000 }] },
           on := true } } },
     {
       recBytes := 64, extRecs := 1, nExt := 1, extents := 1030792151040, nrec := 4, curBase := 1030793199616,
       stepBase := 1030794248192, ranges := [{ first := 0, count := 4, dest := 1048576 }] },
     0, serves (by decide +kernel), by decide +kernel⟩,
    ⟨{ svc with pending := [.brownOut, .holdEnd] }, 1, serves (by decide +kernel), by decide +kernel⟩,
    ⟨st24, 1,
     {
       id := 1, step := 3, range := 0, qpn := 5, remote := 0, key := 0, dest := 1048576, len := 64, issued := true },
     serves (by decide +kernel), by decide +kernel⟩,
    ⟨st25, 1,
     {
       id := 1, step := 3, range := 0, qpn := 5, remote := 0, key := 0, dest := 1048576, len := 64, issued := true },
     serves (by decide +kernel), by decide +kernel⟩,
    ⟨st24, 1,
     {
       id := 1, step := 3, range := 0, qpn := 5, remote := 0, key := 0, dest := 1048576, len := 64, issued := true },
     serves (by decide +kernel), by decide +kernel⟩,
    ⟨st25, 1,
     {
       id := 1, step := 3, range := 0, qpn := 5, remote := 0, key := 0, dest := 1048576, len := 64, issued := true },
     serves (by decide +kernel), by decide +kernel⟩,
    ⟨{ run with
       host := {
         qps := [
           (
             5,
             {
               state := 3,
               ops := [
                 {
                   id := 1, write := false, local_ := 0x100000, len := 64, remote := 0, key := 0, psn := 5,
                   got := 64, intake := true }] })],
         intake := {
           plan := some {
             recBytes := 64, extRecs := 1, nExt := 1, extents := 0xF000000000, nrec := 4, curBase := 0xF000100000,
             stepBase := 0xF000200000, ranges := [{ first := 0, count := 4, dest := 0x100000 }] },
           on := true, started := [3],
           reads := [
             {
               id := 1, step := 3, range := 0, qpn := 5, remote := 0, key := 0, dest := 0x100000, len := 64,
               issued := true }],
           offSeq := some 7 } } },
     1,
     {
       id := 1, step := 3, range := 0, qpn := 5, remote := 0, key := 0, dest := 1048576, len := 64, issued := true },
     7, serves (by decide +kernel), by decide +kernel⟩,
    ⟨{ run with host := { intake := { on := true, started := [3] } } }, 3, by decide +kernel⟩,
    ⟨{ svc with pending := [.brownOut, .holdEnd] }, 1, by decide +kernel⟩⟩

theorem witness_RdmaFamilyCompletes :
    (∃ (s : State) (k : RocePkt),
      s.Serves ∧ k.port < 2 ∧ s.dusk = false ∧ s.rangeReady k.addr k.data.length = false) ∧
    (∃ (s : State) (k : RocePkt),
      s.Serves ∧ k.port < 2 ∧ s.dusk = false ∧ s.rangeReady k.addr k.data.length = true ∧ k.icrcOk = false) ∧
    (∃ (s : State) (k : RocePkt),
      let q := s.qp k.qpn
      let takes : Prop := k.icrcOk = true ∧ (q.state = 2 ∨ q.state = 3) ∧ q.port = k.port
      s.Serves ∧ k.port < 2 ∧ s.dusk = false ∧ s.rangeReady k.addr k.data.length = true ∧ k.icrcOk = true ∧ ¬takes) ∧
    (∃ (s : State) (k : RocePkt),
      let q := s.qp k.qpn
      let page := fePage k.port
      let rx := s.bump64 page 0x48 k.data.length
      let x := rx.ecn k
      let takes : Prop := k.icrcOk = true ∧ (q.state = 2 ∨ q.state = 3) ∧ q.port = k.port
      let ahead := (k.psn + 2 ^ 24 - q.expPsn) % 2 ^ 24
      s.Serves ∧ k.port < 2 ∧ s.dusk = false ∧ s.rangeReady k.addr k.data.length = true ∧ takes ∧ ahead = 0 ∧
      x.mrOk k.key k.addr k.len true = true) ∧
    (∃ (s : State) (k : RocePkt),
      let q := s.qp k.qpn
      let page := fePage k.port
      let rx := s.bump64 page 0x48 k.data.length
      let x := rx.ecn k
      let takes : Prop := k.icrcOk = true ∧ (q.state = 2 ∨ q.state = 3) ∧ q.port = k.port
      let ahead := (k.psn + 2 ^ 24 - q.expPsn) % 2 ^ 24
      s.Serves ∧ k.port < 2 ∧ s.dusk = false ∧ s.rangeReady k.addr k.data.length = true ∧ takes ∧ ahead = 0 ∧
      x.mrOk k.key k.addr k.len true = false) ∧
    (∃ (s : State) (k : RocePkt),
      let q := s.qp k.qpn
      let takes : Prop := k.icrcOk = true ∧ (q.state = 2 ∨ q.state = 3) ∧ q.port = k.port
      let ahead := (k.psn + 2 ^ 24 - q.expPsn) % 2 ^ 24
      s.Serves ∧ k.port < 2 ∧ s.dusk = false ∧ s.rangeReady k.addr k.data.length = true ∧ takes ∧ ahead ≠ 0 ∧
      ahead < 2 ^ 23) ∧
    (∃ (s : State) (k : RocePkt),
      let q := s.qp k.qpn
      let takes : Prop := k.icrcOk = true ∧ (q.state = 2 ∨ q.state = 3) ∧ q.port = k.port
      let ahead := (k.psn + 2 ^ 24 - q.expPsn) % 2 ^ 24
      s.Serves ∧ k.port < 2 ∧ s.dusk = false ∧ s.rangeReady k.addr k.data.length = true ∧ takes ∧ 2 ^ 23 ≤ ahead) ∧
    (∃ (s : State) (k : RocePkt),
      s.Serves ∧ k.port < 2 ∧ s.dusk = false ∧ s.rangeReady k.addr k.len = false) ∧
    (∃ (s : State) (k : RocePkt),
      s.Serves ∧ k.port < 2 ∧ s.dusk = false ∧ s.rangeReady k.addr k.len = true ∧ k.icrcOk = false) ∧
    (∃ (s : State) (k : RocePkt),
      let q := s.qp k.qpn
      let takes : Prop := k.icrcOk = true ∧ (q.state = 2 ∨ q.state = 3) ∧ q.port = k.port
      s.Serves ∧ k.port < 2 ∧ s.dusk = false ∧ s.rangeReady k.addr k.len = true ∧ k.icrcOk = true ∧ ¬takes) ∧
    (∃ (s : State) (k : RocePkt),
      let q := s.qp k.qpn
      let page := fePage k.port
      let rx := s.bump64 page 0x48 k.data.length
      let x := rx.ecn k
      let takes : Prop := k.icrcOk = true ∧ (q.state = 2 ∨ q.state = 3) ∧ q.port = k.port
      let ahead := (k.psn + 2 ^ 24 - q.expPsn) % 2 ^ 24
      s.Serves ∧ k.port < 2 ∧ s.dusk = false ∧ s.rangeReady k.addr k.len = true ∧ takes ∧ ahead = 0 ∧
      x.mrOk k.key k.addr k.len false = true) ∧
    (∃ (s : State) (k : RocePkt),
      let q := s.qp k.qpn
      let page := fePage k.port
      let rx := s.bump64 page 0x48 k.data.length
      let x := rx.ecn k
      let takes : Prop := k.icrcOk = true ∧ (q.state = 2 ∨ q.state = 3) ∧ q.port = k.port
      let ahead := (k.psn + 2 ^ 24 - q.expPsn) % 2 ^ 24
      s.Serves ∧ k.port < 2 ∧ s.dusk = false ∧ s.rangeReady k.addr k.len = true ∧ takes ∧ ahead = 0 ∧
      x.mrOk k.key k.addr k.len false = false) ∧
    (∃ (s : State) (k : RocePkt),
      let q := s.qp k.qpn
      let takes : Prop := k.icrcOk = true ∧ (q.state = 2 ∨ q.state = 3) ∧ q.port = k.port
      let ahead := (k.psn + 2 ^ 24 - q.expPsn) % 2 ^ 24
      s.Serves ∧ k.port < 2 ∧ s.dusk = false ∧ s.rangeReady k.addr k.len = true ∧ takes ∧ ahead ≠ 0 ∧ ahead < 2 ^ 23) ∧
    (∃ (s : State) (k : RocePkt),
      let q := s.qp k.qpn
      let page := fePage k.port
      let rx := s.bump64 page 0x48 k.data.length
      let x := rx.ecn k
      let takes : Prop := k.icrcOk = true ∧ (q.state = 2 ∨ q.state = 3) ∧ q.port = k.port
      let ahead := (k.psn + 2 ^ 24 - q.expPsn) % 2 ^ 24
      s.Serves ∧ k.port < 2 ∧ s.dusk = false ∧ s.rangeReady k.addr k.len = true ∧ takes ∧ 2 ^ 23 ≤ ahead ∧
      x.mrOk k.key k.addr k.len false = true) ∧
    (∃ (s : State) (k : RocePkt),
      let q := s.qp k.qpn
      let page := fePage k.port
      let rx := s.bump64 page 0x48 k.data.length
      let x := rx.ecn k
      let takes : Prop := k.icrcOk = true ∧ (q.state = 2 ∨ q.state = 3) ∧ q.port = k.port
      let ahead := (k.psn + 2 ^ 24 - q.expPsn) % 2 ^ 24
      s.Serves ∧ k.port < 2 ∧ s.dusk = false ∧ s.rangeReady k.addr k.len = true ∧ takes ∧ 2 ^ 23 ≤ ahead ∧
      x.mrOk k.key k.addr k.len false = false) ∧
    (∃ (s : State) (k : RocePkt) (o : RdmaOp),
      let q := s.qp k.qpn
      s.Serves ∧ k.port < 2 ∧ s.dusk = false ∧ k.icrcOk = true ∧ q.state = 3 ∧ q.port = k.port ∧
      (q.ops.find? fun o => !o.write && o.got < o.len) = some o ∧ o.hold = none ∧
      s.rangeReady (o.local_ + o.got) k.data.length = false) ∧
    (∃ (s : State) (k : RocePkt) (o : RdmaOp),
      let q := s.qp k.qpn
      s.Serves ∧ k.port < 2 ∧ s.dusk = false ∧ k.icrcOk = true ∧ q.state = 3 ∧ q.port = k.port ∧
      (q.ops.find? fun o => !o.write && o.got < o.len) = some o ∧
      (o.hold.isSome = true ∨ s.rangeReady (o.local_ + o.got) k.data.length = true) ∧
      (o.psn + o.got / q.mtu) % 2 ^ 24 ≠ k.psn) ∧
    (∃ (s : State) (k : RocePkt) (o : RdmaOp),
      let q := s.qp k.qpn
      let d := k.data.take (o.len - o.got)
      let o' := { o with got := o.got + d.length, data := if o.hold.isSome then o.data ++ sound d else o.data }
      s.Serves ∧ k.port < 2 ∧ s.dusk = false ∧ k.icrcOk = true ∧ q.state = 3 ∧ q.port = k.port ∧
      (q.ops.find? fun o => !o.write && o.got < o.len) = some o ∧
      (o.hold.isSome = true ∨ s.rangeReady (o.local_ + o.got) k.data.length = true) ∧
      (o.psn + o.got / q.mtu) % 2 ^ 24 = k.psn ∧ o.len ≤ o'.got ∧ o.intake = false) ∧
    (∃ (s : State) (k : RocePkt) (o : RdmaOp),
      let q := s.qp k.qpn
      let d := k.data.take (o.len - o.got)
      let o' := { o with got := o.got + d.length, data := if o.hold.isSome then o.data ++ sound d else o.data }
      s.Serves ∧ k.port < 2 ∧ s.dusk = false ∧ k.icrcOk = true ∧ q.state = 3 ∧ q.port = k.port ∧
      (q.ops.find? fun o => !o.write && o.got < o.len) = some o ∧
      (o.hold.isSome = true ∨ s.rangeReady (o.local_ + o.got) k.data.length = true) ∧
      (o.psn + o.got / q.mtu) % 2 ^ 24 = k.psn ∧ (o'.got < o.len ∨ o.intake = true)) ∧
    (∃ (s : State) (k : RocePkt),
      s.Serves ∧ k.port < 2 ∧ s.dusk = true) ∧
    (∃ (s : State) (k : RocePkt),
      s.Serves ∧ k.port < 2 ∧ s.dusk = false ∧ k.icrcOk = false) ∧
    (∃ (s : State) (k : RocePkt),
      let q := s.qp k.qpn
      s.Serves ∧ k.port < 2 ∧ s.dusk = false ∧ k.icrcOk = true ∧ q.port ≠ k.port) ∧
    (∃ (s : State) (k : RocePkt),
      let q := s.qp k.qpn
      s.Serves ∧ k.port < 2 ∧ s.dusk = false ∧ k.icrcOk = true ∧ q.port = k.port) ∧
    (∃ (s : State) (n : Nat),
      let q := s.qp n
      s.Serves ∧ n < 2048 ∧ q.ops = []) ∧
    (∃ (s : State) (n : Nat) (o : _) (rest : _),
      let q := s.qp n
      s.Serves ∧ n < 2048 ∧ q.ops = o :: rest ∧ q.tries < q.retry) ∧
    (∃ (s : State) (n : Nat) (o : _) (rest : _),
      let q := s.qp n
      s.Serves ∧ n < 2048 ∧ q.ops = o :: rest ∧ q.retry ≤ q.tries) ∧
    (∃ (s : State) (n : Nat),
      let q := s.qp n
      s.Serves ∧ n < 2048 ∧ q.state = 0) ∧
    (∃ (s : State) (n : Nat),
      let q := s.qp n
      s.Serves ∧ n < 2048 ∧ q.state ≠ 0) ∧
    (∃ (n : Nat) (k : _),
      k ≠ n) ∧
    (∃ (s : State) (p : Nat) (prio : Nat),
      s.Serves ∧ p < 2 ∧ prio < 8) :=
  ⟨⟨st26,
     {
       port := 1, qpn := 2047, psn := 5, icrcOk := true, ecnCe := false, addr := 0x1000, key := 4095, len := 64,
       last := true, data := List.replicate 64 3 },
     serves (by decide +kernel), by decide +kernel⟩,
    ⟨{ svc with pending := [.brownOut, .holdEnd] },
     {
       port := 1, qpn := 2047, psn := 5, icrcOk := false, ecnCe := false, addr := 0x1000, key := 4095, len := 64,
       last := true, data := List.replicate 64 3 },
     serves (by decide +kernel), by decide +kernel⟩,
    ⟨{ svc with pending := [.brownOut, .holdEnd] },
     {
       port := 1, qpn := 2047, psn := 5, icrcOk := true, ecnCe := false, addr := 0x1000, key := 4095, len := 64,
       last := true, data := List.replicate 64 3 },
     serves (by decide +kernel), by decide +kernel⟩,
    ⟨st27,
     {
       port := 1, qpn := 2047, psn := 5, icrcOk := true, ecnCe := false, addr := 0x1000, key := 4095, len := 64,
       last := true, data := List.replicate 64 3 },
     serves (by decide +kernel), by decide +kernel⟩,
    ⟨st27,
     {
       port := 1, qpn := 2047, psn := 5, icrcOk := true, ecnCe := false, addr := 0x1000, key := 4094, len := 64,
       last := true, data := List.replicate 64 3 },
     serves (by decide +kernel), by decide +kernel⟩,
    ⟨st22,
     {
       port := 0, qpn := 2047, psn := 5, icrcOk := true, ecnCe := false, addr := 0x1000, key := 4095, len := 64,
       last := true, data := List.replicate 64 3 },
     serves (by decide +kernel), by decide +kernel⟩,
    ⟨st27,
     {
       port := 1, qpn := 2047, psn := 4, icrcOk := true, ecnCe := false, addr := 0x1000, key := 4095, len := 64,
       last := true, data := List.replicate 64 3 },
     serves (by decide +kernel), by decide +kernel⟩,
    ⟨st26,
     {
       port := 1, qpn := 2047, psn := 5, icrcOk := true, ecnCe := false, addr := 0x1000, key := 4095, len := 64,
       last := true, data := List.replicate 64 3 },
     serves (by decide +kernel), by decide +kernel⟩,
    ⟨{ svc with pending := [.brownOut, .holdEnd] },
     {
       port := 1, qpn := 2047, psn := 5, icrcOk := false, ecnCe := false, addr := 0x1000, key := 4095, len := 64,
       last := true, data := List.replicate 64 3 },
     serves (by decide +kernel), by decide +kernel⟩,
    ⟨{ svc with pending := [.brownOut, .holdEnd] },
     {
       port := 1, qpn := 2047, psn := 5, icrcOk := true, ecnCe := false, addr := 0x1000, key := 4095, len := 64,
       last := true, data := List.replicate 64 3 },
     serves (by decide +kernel), by decide +kernel⟩,
    ⟨st27,
     {
       port := 1, qpn := 2047, psn := 5, icrcOk := true, ecnCe := false, addr := 0x1000, key := 4095, len := 64,
       last := true, data := List.replicate 64 3 },
     serves (by decide +kernel), by decide +kernel⟩,
    ⟨st27,
     {
       port := 1, qpn := 2047, psn := 5, icrcOk := true, ecnCe := false, addr := 0x1000, key := 4094, len := 64,
       last := true, data := List.replicate 64 3 },
     serves (by decide +kernel), by decide +kernel⟩,
    ⟨st22,
     {
       port := 0, qpn := 2047, psn := 5, icrcOk := true, ecnCe := false, addr := 0x1000, key := 4095, len := 64,
       last := true, data := List.replicate 64 3 },
     serves (by decide +kernel), by decide +kernel⟩,
    ⟨st27,
     {
       port := 1, qpn := 2047, psn := 4, icrcOk := true, ecnCe := false, addr := 0x1000, key := 4095, len := 64,
       last := true, data := List.replicate 64 3 },
     serves (by decide +kernel), by decide +kernel⟩,
    ⟨st27,
     {
       port := 1, qpn := 2047, psn := 4, icrcOk := true, ecnCe := false, addr := 0x1000, key := 4094, len := 64,
       last := true, data := List.replicate 64 3 },
     serves (by decide +kernel), by decide +kernel⟩,
    ⟨{ { run with host := { qps := [(2047, { state := 3, attrs := [1], expPsn := 5, ops := [{ id := 9, write := false, local_ := 0x1000, len := 64, remote := 0, key := 0, psn := 5 }], tries := 2 })], mrs := [(4095, { gen := 0, valid := true, start := 0x1000, len := 64, write := true, read := true })] } } with
       dies := [(0, { resetting := true }), (1, { resetting := true })] },
     {
       port := 1, qpn := 2047, psn := 5, icrcOk := true, ecnCe := false, addr := 0x1000, key := 4095, len := 64,
       last := true, data := List.replicate 64 3 },
     { id := 9, write := false, local_ := 0x1000, len := 64, remote := 0, key := 0, psn := 5 },
     serves (by decide +kernel), by decide +kernel⟩,
    ⟨st28,
     {
       port := 1, qpn := 2047, psn := 6, icrcOk := true, ecnCe := false, addr := 0x1000, key := 4095, len := 64,
       last := true, data := List.replicate 64 3 },
     { id := 9, write := false, local_ := 0x1000, len := 64, remote := 0, key := 0, psn := 5 },
     serves (by decide +kernel), by decide +kernel⟩,
    ⟨st28,
     {
       port := 1, qpn := 2047, psn := 5, icrcOk := true, ecnCe := false, addr := 0x1000, key := 4095, len := 64,
       last := true, data := List.replicate 64 3 },
     { id := 9, write := false, local_ := 0x1000, len := 64, remote := 0, key := 0, psn := 5 },
     serves (by decide +kernel), by decide +kernel⟩,
    ⟨st28,
     {
       port := 1, qpn := 2047, psn := 5, icrcOk := true, ecnCe := false, addr := 0x1000, key := 4095, len := 64,
       last := true, data := [] },
     { id := 9, write := false, local_ := 0x1000, len := 64, remote := 0, key := 0, psn := 5 },
     serves (by decide +kernel), by decide +kernel⟩,
    ⟨{ run with dusk := true },
     {
       port := 1, qpn := 2047, psn := 5, icrcOk := true, ecnCe := false, addr := 0x1000, key := 4095, len := 64,
       last := true, data := List.replicate 64 3 },
     serves (by decide +kernel), by decide +kernel⟩,
    ⟨{ svc with pending := [.brownOut, .holdEnd] },
     {
       port := 1, qpn := 2047, psn := 5, icrcOk := false, ecnCe := false, addr := 0x1000, key := 4095, len := 64,
       last := true, data := List.replicate 64 3 },
     serves (by decide +kernel), by decide +kernel⟩,
    ⟨{ svc with pending := [.brownOut, .holdEnd] },
     {
       port := 1, qpn := 2047, psn := 5, icrcOk := true, ecnCe := false, addr := 0x1000, key := 4095, len := 64,
       last := true, data := List.replicate 64 3 },
     serves (by decide +kernel), by decide +kernel⟩,
    ⟨{ svc with pending := [.brownOut, .holdEnd] },
     {
       port := 0, qpn := 2047, psn := 5, icrcOk := true, ecnCe := false, addr := 0x1000, key := 4095, len := 64,
       last := true, data := List.replicate 64 3 },
     serves (by decide +kernel), by decide +kernel⟩,
    ⟨{ svc with pending := [.brownOut, .holdEnd] }, 2047, serves (by decide +kernel), by decide +kernel⟩,
    ⟨{ run with
       host := {
         qps := [
           (
             2047,
             {
               state := 3, attrs := 1 :: List.replicate 63 7,
               ops := [{ id := 9, write := false, local_ := 0x1000, len := 64, remote := 0, key := 0, psn := 5 }] })],
         mrs := [(4095, { gen := 0, valid := true, start := 0x1000, len := 64, write := true, read := true })] } },
     2047,
     {
       id := 9, write := false, local_ := 4096, len := 64, remote := 0, key := 0, psn := 5, data := [], got := 0,
       sent := false, seq := none, intake := false, hold := none },
     [], serves (by decide +kernel), by decide +kernel⟩,
    ⟨st23, 2047,
     {
       id := 1, write := true, local_ := 0, len := 64, remote := 0, key := 0, psn := 0, data := [], got := 0,
       sent := false, seq := none, intake := false, hold := none },
     [], serves (by decide +kernel), by decide +kernel⟩,
    ⟨{ svc with pending := [.brownOut, .holdEnd] }, 2047, serves (by decide +kernel), by decide +kernel⟩,
    ⟨st21, 2047, serves (by decide +kernel), by decide +kernel⟩,
    ⟨2047, 0, by decide +kernel⟩,
    ⟨{ svc with pending := [.brownOut, .holdEnd] }, 0, 0, serves (by decide +kernel), by decide +kernel⟩⟩

theorem witness_FrontEndFamilyCompletes :
    (∃ (s : State) (p : Nat),
      let page := fePage p
      s.Serves ∧ p < 2 ∧ s.flag page offControl 0 = false) ∧
    (∃ (s : State) (p : Nat),
      let page := fePage p
      s.Serves ∧ p < 2 ∧ s.flag page offStatus 0 = true) ∧
    (∃ (s : State) (p : Nat),
      let page := fePage p
      s.Serves ∧ p < 2 ∧ s.flag page offStatus 0 = false) ∧
    (∃ (s : State) (p : Nat) (o : _) (v : _),
      let page := fePage p
      s.Serves ∧ p < 2 ∧ anyButDebug (roleOf o) = true ∧ v = false ∧ s.flag page offControl 0 = true) ∧
    (∃ (s : State) (p : Nat),
      let up : Prop := s.dusk = false ∧ s.flag (pciePage p) offStatus 0 = true ∧ s.flag (pciePage p) offStatus 1 = false
      s.Serves ∧ p < 2 ∧ ¬up) ∧
    (∃ (s : State) (p : Nat) (addr : Nat) (len : Nat),
      let up : Prop := s.dusk = false ∧ s.flag (pciePage p) offStatus 0 = true ∧ s.flag (pciePage p) offStatus 1 = false
      s.Serves ∧ p < 2 ∧ up ∧ s.inHost addr len = false) ∧
    (∃ (s : State) (p : Nat) (addr : Nat) (len : Nat),
      let up : Prop := s.dusk = false ∧ s.flag (pciePage p) offStatus 0 = true ∧ s.flag (pciePage p) offStatus 1 = false
      s.Serves ∧ p < 2 ∧ up ∧ s.inHost addr len = true) ∧
    (∃ (s : State) (p : Nat) (addr : Nat) (d : List Byte),
      let up : Prop := s.dusk = false ∧ s.flag (pciePage p) offStatus 0 = true ∧ s.flag (pciePage p) offStatus 1 = false
      s.Serves ∧ p < 2 ∧ up ∧ s.inHost addr d.length = false) ∧
    (∃ (s : State) (p : Nat) (addr : Nat) (d : List Byte),
      let up : Prop := s.dusk = false ∧ s.flag (pciePage p) offStatus 0 = true ∧ s.flag (pciePage p) offStatus 1 = false
      s.Serves ∧ p < 2 ∧ up ∧ s.inHost addr d.length = true) ∧
    (∃ (s : State),
      let lost : Prop := s.hostAttached = true ∧ s.wdogOver = true ∧ s.dusk = false
      s.Serves ∧ lost) ∧
    (∃ (s : State),
      let lost : Prop := s.hostAttached = true ∧ s.wdogOver = true ∧ s.dusk = false
      s.Serves ∧ ¬lost) ∧
    (∃ (s : State),
      s.Serves ∧ s.host.inReset = true) ∧
    (∃ (s : State),
      s.Serves ∧ s.host.inReset = false) ∧
    (∃ (s : State),
      s.hostAttached = false) ∧
    (∃ (s : State),
      s.hostAttached = true) ∧
    (∃ (s : State) (o : Origin),
      s.Serves ∧ anyButDebug (roleOf o) = true ∧ s.hostAttached = false ∧ s.host.inReset = false) ∧
    (∃ (s : State) (o : Origin),
      s.Serves ∧ anyButDebug (roleOf o) = true ∧ (s.hostAttached = true ∨ s.host.inReset = true)) :=
  ⟨⟨run.wr (fePage 1) offControl 0, 1, serves (by decide +kernel), by decide +kernel⟩,
    ⟨run.wr (fePage 1) offStatus 5, 1, serves (by decide +kernel), by decide +kernel⟩,
    ⟨{ svc with pending := [.brownOut, .holdEnd] }, 0, serves (by decide +kernel), by decide +kernel⟩,
    ⟨{ svc with pending := [.brownOut, .holdEnd] }, 0, .boot, false, serves (by decide +kernel), by decide +kernel⟩,
    ⟨{ svc with pending := [.brownOut, .holdEnd] }, 0, serves (by decide +kernel), by decide +kernel⟩,
    ⟨run.wr (pciePage 1) offStatus 1, 1, 0xEFFFFFFFFF, 2, serves (by decide +kernel), by decide +kernel⟩,
    ⟨run.wr (pciePage 1) offStatus 1, 1, 0xF000000000, 2, serves (by decide +kernel), by decide +kernel⟩,
    ⟨run.wr (pciePage 1) offStatus 1, 1, 0xEFFFFFFFFF, [1,2], serves (by decide +kernel), by decide +kernel⟩,
    ⟨run.wr (pciePage 1) offStatus 1, 1, 0xF000000000, [1,2], serves (by decide +kernel), by decide +kernel⟩,
    ⟨{ ((run.wr hostPage offStatus 1).wr hostPage 0x118 1) with now := 2^40 },
     serves (by decide +kernel), by decide +kernel⟩,
    ⟨{ svc with pending := [.brownOut, .holdEnd] }, serves (by decide +kernel), by decide +kernel⟩,
    ⟨st18, serves (by decide +kernel), by decide +kernel⟩,
    ⟨{ svc with pending := [.brownOut, .holdEnd] }, serves (by decide +kernel), by decide +kernel⟩,
    ⟨{ svc with pending := [.brownOut, .holdEnd] }, by decide +kernel⟩,
    ⟨((run : State).wr hostPage offStatus 1), by decide +kernel⟩,
    ⟨{ svc with pending := [.brownOut, .holdEnd] }, .boot, serves (by decide +kernel), by decide +kernel⟩,
    ⟨((run : State).wr hostPage offStatus 1), .boot, serves (by decide +kernel), by decide +kernel⟩⟩

theorem witness_SliceRequestsComplete :
    (∃ (s : State) (r : ShadeReq),
      let n := r.addr / 256
      let fits (n : Nat) : Prop := 0 < n ∧ r.addr % 256 + n ≤ 256
      s.Awake ∧ fits r.len) ∧
    (∃ (s : State) (r : ShadeReq),
      let n := r.addr / 256
      let fits (n : Nat) : Prop := 0 < n ∧ r.addr % 256 + n ≤ 256
      s.Awake ∧ ¬fits r.len) ∧
    (∃ (s : State) (r : ShadeReq) (d : List PByte),
      s.Awake ∧ r.addr % 256 = 0 ∧ d.length = 256) ∧
    (∃ (s : State) (r : ShadeReq) (d : List PByte),
      s.Awake ∧ ¬(r.addr % 256 = 0 ∧ d.length = 256)) ∧
    (∃ (s : State) (r : ShadeReq) (d : List PByte),
      let n := r.addr / 256
      let fits (n : Nat) : Prop := 0 < n ∧ r.addr % 256 + n ≤ 256
      s.Awake ∧ fits d.length ∧ d.length < 256) ∧
    (∃ (s : State) (r : ShadeReq) (d : List PByte),
      let n := r.addr / 256
      let fits (n : Nat) : Prop := 0 < n ∧ r.addr % 256 + n ≤ 256
      s.Awake ∧ ¬(fits d.length ∧ d.length < 256)) ∧
    (∃ (s : State) (r : ShadeReq) (vals : List Word),
      let n := r.addr / 256
      let fits (n : Nat) : Prop := 0 < n ∧ r.addr % 256 + n ≤ 256
      s.Awake ∧ fits (4 * vals.length) ∧ r.addr % 4 = 0) ∧
    (∃ (s : State) (r : ShadeReq) (vals : List Word),
      let n := r.addr / 256
      let fits (n : Nat) : Prop := 0 < n ∧ r.addr % 256 + n ≤ 256
      s.Awake ∧ ¬(fits (4 * vals.length) ∧ r.addr % 4 = 0)) ∧
    (∃ (s : State) (k : Nat) (n : Nat),
      let wrong : Prop := (s.bank (s.bankOf n)).bad = true ∨ (s.die (k / 1152)).netBad = true
      wrong) ∧
    (∃ (s : State) (k : Nat) (n : Nat),
      let wrong : Prop := (s.bank (s.bankOf n)).bad = true ∨ (s.die (k / 1152)).netBad = true
      ¬wrong ∧ ((∀ e ∈ (s.slice k).merge, e.bad = false))) ∧
    (∃ (s : State) (k : Nat),
      s.dieShut k = true) ∧
    (∃ (s : State) (q : SReq) (k : Nat),
      s.dieShut k = false ∧ (∃ h ∈ s.held, h.line = q.line)) ∧
    (∃ (s : State) (q : SReq) (k : Nat),
      s.dieShut k = false ∧ (∀ h ∈ s.held, h.line ≠ q.line)) ∧
    (∃ (s : State) (r : ShadeReq) (k : Nat) (l : _),
      let n := r.addr / 256
      let off := r.addr % 256
      s.Hits k n l ∧ 0 < r.len ∧ off + r.len ≤ 256 ∧ r.stamp = false) ∧
    (∃ (s : State) (r : ShadeReq) (k : Nat) (l : _),
      let n := r.addr / 256
      (s.slice k).find n = some l ∧ l.st = .dead ∧ ((∀ e ∈ (s.slice k).merge, e.seg / 4 ≠ n)) ∧ r.stamp = false) ∧
    (∃ (s : State) (r : ShadeReq) (k : Nat) (l : _),
      let n := r.addr / 256
      let off := r.addr % 256
      s.Hits k n l ∧ r.len = 256 ∧ off = 0) ∧
    (∃ (s : State) (r : ShadeReq) (k : Nat) (d : List PByte) (l : _),
      let n := r.addr / 256
      let off := r.addr % 256
      s.Hits k n l ∧ off % 8 = 0 ∧ d.length % 8 = 0 ∧ 0 < d.length ∧ off + d.length ≤ 256 ∧ d.any (·.poison) = false ∧
      s.inHostRegion r.addr = false) ∧
    (∃ (s : State) (r : ShadeReq) (k : Nat) (d : List PByte) (l : _),
      let n := r.addr / 256
      let off := r.addr % 256
      s.Hits k n l ∧ 0 < d.length ∧ d.length < 8 ∧ off % 8 + d.length ≤ 8 ∧ d.any (·.poison) = false ∧
      s.inHostRegion r.addr = false ∧ (s.slice k).parity = false ∧ (s.slice k).merge.length < 8) ∧
    (∃ (s : State) (r : ShadeReq) (k : Nat) (l : _),
      let n := r.addr / 256
      let off := r.addr % 256
      s.Hits k n l ∧ off % 4 = 0 ∧ s.inHostRegion r.addr = false) ∧
    (∃ (s : State) (r : ShadeReq) (k : Nat) (l : _) (v : _),
      let n := r.addr / 256
      let off := r.addr % 256
      let x := satAdd32 (BitVec.ofNat 32 (fieldAt l.data off 4)) v
      s.Hits k n l ∧ off % 4 = 0 ∧ x.2 = true) ∧
    (∃ (s : State) (r : ShadeReq) (k : Nat),
      let n := r.addr / 256
      (s.slice k).find n = none ∧ hostLike r.agent = true ∧ isWindowLine n = false) ∧
    (∃ (s : State) (r : ShadeReq) (k : Nat),
      let n := r.addr / 256
      (s.slice k).find n = none ∧ ((s.slice k).lines.filter (·.set == (s.homeOf n).set)).length < 16 ∧
      ((∀ l ∈ (s.slice k).lines, l.st ≠ .dead)) ∧ ((s.slice k).lines.filter (·.st == .fill)).length < 64) :=
  ⟨⟨withSlice 16 { lines := [cleanLine 16] },
     { addr := 0x10FF, len := 1, cls := 0, agent := .tile 3, stamp := false },
     awake (by decide +kernel), by decide +kernel⟩,
    ⟨withSlice 16 { lines := [cleanLine 16] },
     { addr := 0x1008, len := 0, cls := 0, agent := .tile 3, stamp := false },
     awake (by decide +kernel), by decide +kernel⟩,
    ⟨withSlice 16 { lines := [cleanLine 16] },
     { addr := 0x1000, len := 256, cls := 0, agent := .tile 3, stamp := false },
     List.replicate 256 ⟨5, false⟩, awake (by decide +kernel), by decide +kernel⟩,
    ⟨withSlice 16 { lines := [cleanLine 16] },
     { addr := 0x10FF, len := 1, cls := 0, agent := .tile 3, stamp := false },
     List.replicate 256 ⟨5, false⟩, awake (by decide +kernel), by decide +kernel⟩,
    ⟨withSlice 16 { lines := [cleanLine 16] },
     { addr := 0x1000, len := 256, cls := 0, agent := .tile 3, stamp := false },
     List.replicate 8 ⟨5, false⟩, awake (by decide +kernel), by decide +kernel⟩,
    ⟨withSlice 16 { lines := [cleanLine 16] },
     { addr := 0x10FF, len := 1, cls := 0, agent := .tile 3, stamp := false },
     List.replicate 256 ⟨5, false⟩, awake (by decide +kernel), by decide +kernel⟩,
    ⟨withSlice 16 { lines := [cleanLine 16] },
     { addr := 0x1000, len := 256, cls := 0, agent := .tile 3, stamp := false },
     [0x3F800000], awake (by decide +kernel), by decide +kernel⟩,
    ⟨withSlice 16 { lines := [cleanLine 16] },
     { addr := 0x10FF, len := 1, cls := 0, agent := .tile 3, stamp := false },
     [0x3F800000], awake (by decide +kernel), by decide +kernel⟩,
    ⟨{ (withSlice 16 { lines := [cleanLine 16] }) with dies := [(0, { netBad := true }),(1,{netBad := true})] },
     homeK 16, 16, by decide +kernel⟩,
    ⟨withSlice 16 { lines := [cleanLine 16] }, homeK 16, 16, by decide +kernel⟩,
    ⟨{ (withSlice 16 { lines := [cleanLine 16] }) with
       dies := [(0, { resetting := true }), (1, { resetting := true })] },
     homeK 16, by decide +kernel⟩,
    ⟨{ (withSlice 16 { lines := [cleanLine 16] }) with
       held := [
         {
           line := 16, sites := [7],
           req := .write {
             addr := 0x1000, len := 256, cls := 0, agent := .tile 3, stamp := false } (List.replicate 256 ⟨5, false⟩) }] },
     .read { addr := 0x10FF, len := 1, cls := 0, agent := .tile 3, stamp := false },
     homeK 16, by decide +kernel⟩,
    ⟨withSlice 16 { lines := [cleanLine 16] },
     .read { addr := 0x10FF, len := 1, cls := 0, agent := .tile 3, stamp := false },
     homeK 16, by decide +kernel⟩,
    ⟨withSlice 16 { lines := [cleanLine 16] },
     { addr := 0x10FF, len := 1, cls := 0, agent := .tile 3, stamp := false },
     homeK 16,
     {
       line := 16, set := 81, way := 0, st := .clean, pin := false, poison := 0,
       data := (List.replicate 256 0x09#8), chk := [], joined := [] },
     hits (by decide +kernel), by decide +kernel⟩,
    ⟨{ withSlice 16 { lines := [{ cleanLine 16 with st := .dead }] } with now := 5 },
     { addr := 0x10FF, len := 1, cls := 0, agent := .tile 3, stamp := false },
     homeK 16,
     {
       line := 16, set := 81, way := 0, st := .dead, pin := false, poison := 0, data := (List.replicate 256 0x09#8),
       chk := [], joined := [] },
     by decide +kernel⟩,
    ⟨withSlice 16 { lines := [cleanLine 16] },
     { addr := 0x1000, len := 256, cls := 0, agent := .tile 3, stamp := false },
     homeK 16,
     {
       line := 16, set := 81, way := 0, st := .clean, pin := false, poison := 0,
       data := (List.replicate 256 0x09#8), chk := [], joined := [] },
     hits (by decide +kernel), by decide +kernel⟩,
    ⟨withSlice 16 { lines := [cleanLine 16] },
     { addr := 0x1000, len := 256, cls := 0, agent := .tile 3, stamp := false },
     homeK 16, (List.replicate 256 ({ val := 0x05#8, poison := false })),
     {
       line := 16, set := 81, way := 0, st := .clean, pin := false, poison := 0,
       data := (List.replicate 256 0x09#8), chk := [], joined := [] },
     hits (by decide +kernel), by decide +kernel⟩,
    ⟨withSlice 16 { lines := [cleanLine 16] },
     { addr := 0x1000, len := 256, cls := 0, agent := .tile 3, stamp := false },
     homeK 16,
     [{ val := 0x05#8, poison := false }, { val := 0x05#8, poison := false }, { val := 0x05#8, poison := false }],
     {
       line := 16, set := 81, way := 0, st := .clean, pin := false, poison := 0,
       data := (List.replicate 256 0x09#8), chk := [], joined := [] },
     hits (by decide +kernel), by decide +kernel⟩,
    ⟨withSlice 16 { lines := [cleanLine 16] },
     { addr := 0x1000, len := 256, cls := 0, agent := .tile 3, stamp := false },
     homeK 16,
     {
       line := 16, set := 81, way := 0, st := .clean, pin := false, poison := 0,
       data := (List.replicate 256 0x09#8), chk := [], joined := [] },
     hits (by decide +kernel), by decide +kernel⟩,
    ⟨withSlice 16 { lines := [{ cleanLine 16 with data := List.replicate 252 9 ++ [0xFF,0xFF,0x7F,0x7F] }] },
     { addr := 0x10FC, len := 4, cls := 0, agent := .tile 3, stamp := false },
     homeK 16,
     {
       line := 16, set := 81, way := 0, st := .clean, pin := false, poison := 0,
       data := (List.replicate 252 0x09#8 ++ [0xff#8, 0xff#8, 0x7f#8, 0x7f#8]), chk := [], joined := [] },
     0x7f7fffff#32, hits (by decide +kernel), by decide +kernel⟩,
    ⟨withSlice 16 { lines := [cleanLine 16] },
     { addr := 0x1008, len := 4, cls := 0, agent := .host 3, stamp := false },
     5, by decide +kernel⟩,
    ⟨withSlice 16 { lines := [cleanLine 16] },
     { addr := 0x10FF, len := 1, cls := 0, agent := .tile 3, stamp := false },
     5, by decide +kernel⟩⟩

theorem witness_SliceEventsComplete :
    (∃ (s : State) (k : Nat) (n : Nat) (l : _),
      let x := s.slice k
      s.Serves ∧ k < 2304 ∧ s.homeSlice n = some k ∧ x.find n = some l ∧ l.st = .fill ∧ s.throughOpen k = true) ∧
    (∃ (s : State) (k : Nat) (n : Nat),
      let x := s.slice k
      s.Serves ∧ k < 2304 ∧ s.homeSlice n = some k ∧ ((∀ l, x.find n = some l → l.st ≠ .fill) ∨ s.throughOpen k = false)) ∧
    (∃ (s : State) (k : Nat) (n : Nat) (h : _) (rest : _),
      let x := s.slice k
      s.Serves ∧ k < 2304 ∧ s.homeSlice n = some k ∧ s.held.filter (·.line == n) = h :: rest ∧ h.sites = [] ∧
      x.recoding = none) ∧
    (∃ (s : State) (k : Nat) (n : Nat) (h : _) (rest : _),
      let x := s.slice k
      s.Serves ∧ k < 2304 ∧ s.homeSlice n = some k ∧ s.held.filter (·.line == n) = h :: rest ∧ h.sites = [] ∧
      x.recoding.isSome = true) ∧
    (∃ (s : State) (k : Nat) (n : Nat) (h : _) (rest : _),
      s.Serves ∧ k < 2304 ∧ s.homeSlice n = none ∧ s.held.filter (·.line == n) = h :: rest ∧ h.sites = []) ∧
    (∃ (s : State) (k : Nat) (n : Nat),
      s.Serves ∧ k < 2304 ∧ ((∀ h ∈ (s.held.filter (·.line == n)).head?, h.sites ≠ []))) ∧
    (∃ (s : State) (k : Nat) (n : Nat) (q : _),
      s.Serves ∧ k < 2304 ∧ s.retries.find? (·.1 == n) = some (n, q)) ∧
    (∃ (s : State) (k : Nat) (n : Nat),
      s.Serves ∧ k < 2304 ∧ (∀ e ∈ s.retries, e.1 ≠ n)) ∧
    (∃ (s : State) (k : Nat) (n : Nat),
      let x := s.slice k
      let may : Prop := s.dusk = false ∧ x.sparing.contains n = true ∧ x.spared.length < 24 ∧ s.fuseOk 1 = true
      s.Serves ∧ k < 2304 ∧ may) ∧
    (∃ (s : State) (k : Nat) (n : Nat),
      let x := s.slice k
      let may : Prop := s.dusk = false ∧ x.sparing.contains n = true ∧ x.spared.length < 24 ∧ s.fuseOk 1 = true
      s.Serves ∧ k < 2304 ∧ ¬may) ∧
    (∃ (s : State) (k : Nat) (g : LaneGroup),
      let x := s.slice k
      s.Serves ∧ k < 2304 ∧ x.groupOk g.up g.lanes = true) ∧
    (∃ (s : State) (k : Nat) (g : LaneGroup),
      let x := s.slice k
      s.Serves ∧ k < 2304 ∧ x.groupOk g.up g.lanes = false) ∧
    (∃ (s : State) (k : Nat) (n : Nat),
      s.Serves ∧ k < 2304 ∧ n < 302) ∧
    (∃ (s : State) (k : Nat) (seg : Nat) (e : _),
      s.Awake ∧ k < 2304 ∧ (s.slice k).merge.find? (·.seg == seg) = some e ∧ e.bad = true) ∧
    (∃ (s : State) (k : Nat) (seg : Nat) (e : _),
      s.Awake ∧ k < 2304 ∧ (s.slice k).merge.find? (·.seg == seg) = some e ∧ e.bad = false) ∧
    (∃ (s : State) (k : Nat) (seg : Nat),
      s.Awake ∧ k < 2304 ∧ (s.slice k).merge.find? (·.seg == seg) = none) ∧
    (∃ (s : State) (k : Nat) (p : _),
      s.Awake ∧ k < 2304 ∧ (s.slice k).recoding = some p) ∧
    (∃ (s : State) (k : Nat),
      s.Awake ∧ k < 2304 ∧ (s.slice k).recoding = none) ∧
    (∃ (s : State) (d : Nat),
      s.Serves ∧ d < 2 ∧ (s.die d).resetting = true ∧ s.dusk = false) ∧
    (∃ (s : State) (d : Nat),
      s.Serves ∧ d < 2 ∧ ((s.die d).resetting = false ∨ s.dusk = true)) ∧
    (∃ (s : State) (d : Nat) (j : _),
      s.Serves ∧ d < 2 ∧ j / 1152 = d) ∧
    (∃ (s : State) (d : Nat),
      let lost := s.loseArray d
      s.Serves ∧ d < 2 ∧ (s.die d).lost = true) ∧
    (∃ (s : State) (d : Nat),
      let lost := s.loseArray d
      s.Serves ∧ d < 2 ∧ (s.die d).lost = false) ∧
    (∃ (s : State) (k : Nat) (n : Nat) (l : Line),
      (s.slice k).find n = some l ∧ isWindowLine n = true) ∧
    (∃ (s : State) (k : Nat) (n : Nat) (l : Line),
      (s.slice k).find n = some l ∧ isWindowLine n = false) ∧
    (∃ (s : State) (d : Nat) (j : _) (l : _),
      let u := s.dieReset d
      (s.die d).resetting = false ∧ j / 1152 = d ∧ l ∈ (u.slice j).lines) ∧
    (∃ (s : State) (k : Nat) (lane : Nat),
      lane < 302 ∧ (s.slice k).lanesBad.contains lane = false) ∧
    (∃ (s : State) (o : Origin) (k : Nat) (d : Nat),
      let op : Prop := operatorOnly (roleOf o) = true
      s.Serves ∧ k < 2304 ∧ d < 2 ∧ ¬op) ∧
    (∃ (s : State) (o : Origin) (k : Nat) (d : Nat),
      let op : Prop := operatorOnly (roleOf o) = true
      s.Serves ∧ k < 2304 ∧ d < 2 ∧ op ∧ (s.slice k).recoding = none ∧ (s.slice k).merge = [] ∧ (s.slice k).parity = false) ∧
    (∃ (s : State) (o : Origin) (k : Nat) (d : Nat),
      let op : Prop := operatorOnly (roleOf o) = true
      s.Serves ∧ k < 2304 ∧ d < 2 ∧ op ∧ (s.slice k).recoding = none ∧ (s.slice k).merge = [] ∧ s.holdState = 2 ∧
      (s.slice k).parity = true) ∧
    (∃ (s : State) (o : Origin) (k : Nat) (d : Nat) (v : Word),
      let op : Prop := operatorOnly (roleOf o) = true
      s.Serves ∧ k < 2304 ∧ d < 2 ∧ (¬op ∨ bit v.toNat 0 = false)) ∧
    (∃ (s : State) (o : Origin) (k : Nat) (d : Nat) (v : Word),
      let op : Prop := operatorOnly (roleOf o) = true
      s.Serves ∧ k < 2304 ∧ d < 2 ∧ op ∧ bit v.toNat 0 = true ∧ (s.die d).resetting = false) :=
  ⟨⟨withSlice 16 { lines := [{ cleanLine 16 with st := .fill, joined := [] }] },
     homeK 16, 16,
     {
       line := 16, set := 81, way := 0, st := .fill, pin := false, poison := 0, data := (List.replicate 256 0x09#8),
       chk := [], joined := [] },
     serves (by decide +kernel), by decide +kernel⟩,
    ⟨{ svc with pending := [.brownOut, .holdEnd] }, homeK 16, 16, serves (by decide +kernel), by decide +kernel⟩,
    ⟨{ (withSlice 16 { lines := [cleanLine 16] }) with
       held := [
         {
           line := 16, sites := [],
           req := .write {
             addr := 0x1000, len := 256, cls := 0, agent := .tile 3, stamp := false } (List.replicate 256 ⟨5, false⟩) }] },
     homeK 16, 16,
     {
       line := 16, sites := [],
       req := .write {
         addr := 4096, len := 256, cls := 0, agent := .tile 3, stamp := false
       } (List.replicate 256 ({ val := 0x05#8, poison := false })) },
     [], serves (by decide +kernel), by decide +kernel⟩,
    ⟨{ (withSlice 16 { lines := [cleanLine 16], recoding := some true }) with
       held := [
         {
           line := 16, sites := [],
           req := .write {
             addr := 0x1000, len := 256, cls := 0, agent := .tile 3, stamp := false } (List.replicate 256 ⟨5, false⟩) }] },
     homeK 16, 16,
     {
       line := 16, sites := [],
       req := .write {
         addr := 4096, len := 256, cls := 0, agent := .tile 3, stamp := false
       } (List.replicate 256 ({ val := 0x05#8, poison := false })) },
     [], serves (by decide +kernel), by decide +kernel⟩,
    ⟨{ run with
       spare := { mapDown := [1030] },
       held := [
         {
           line := ((windowBase + 1151 * 0x180000) / 256), sites := [],
           req := .write {
             addr := windowBase + 1151 * 0x180000, len := 256, cls := 0, agent := .tile 3, stamp := false
           } (List.replicate 256 ⟨5, false⟩) }] },
     0, ((windowBase + 1151 * 0x180000) / 256),
     {
       line := 4302039040, sites := [],
       req := .write {
         addr := 1101321994240, len := 256, cls := 0, agent := .tile 3, stamp := false
       } (List.replicate 256 ({ val := 0x05#8, poison := false })) },
     [], serves (by decide +kernel), by decide +kernel⟩,
    ⟨{ svc with pending := [.brownOut, .holdEnd] }, homeK 16, 16, serves (by decide +kernel), by decide +kernel⟩,
    ⟨{ (withSlice 16 { lines := [cleanLine 16] }) with
       retries := [(4, .read { addr := 0x1000, len := 64, cls := 0, agent := .tile 3, stamp := false })] },
     homeK 16, 4,
     .read { addr := 4096, len := 64, cls := 0, agent := .tile 3, stamp := false },
     serves (by decide +kernel), by decide +kernel⟩,
    ⟨st29, 0, 0x1000000000, serves (by decide +kernel), by decide +kernel⟩,
    ⟨withSlice 16 { lines := [cleanLine 16], sparing := [5, 6] }, homeK 16, 5, serves (by decide +kernel),
     by decide +kernel⟩,
    ⟨st29, 0, 0x1000000000, serves (by decide +kernel), by decide +kernel⟩,
    ⟨st29, 0, { up := true, lanes := (List.replicate 144 0 ++ [14, 14, 9, 10]) }, serves (by decide +kernel),
     by decide +kernel⟩,
    ⟨st29, 0, { up := false, lanes := [] }, serves (by decide +kernel), by decide +kernel⟩,
    ⟨{ svc with pending := [.brownOut, .holdEnd] }, homeK 16, 16, serves (by decide +kernel), by decide +kernel⟩,
    ⟨withSlice 16 {
       lines := [cleanLine 16], merge := [{ seg := 65, data := List.replicate 64 6, words := 0x81, bad := true }] },
     homeK 16, 65,
     { seg := 65, data := (List.replicate 64 0x06#8), words := 129, bad := true },
     awake (by decide +kernel), by decide +kernel⟩,
    ⟨withSlice 16 {
       lines := [cleanLine 16], merge := [{ seg := 65, data := List.replicate 64 6, words := 0x81 }] },
     homeK 16, 65,
     { seg := 65, data := (List.replicate 64 0x06#8), words := 129, bad := false },
     awake (by decide +kernel), by decide +kernel⟩,
    ⟨{ svc with pending := [.brownOut, .holdEnd] }, homeK 16, 65, awake (by decide +kernel), by decide +kernel⟩,
    ⟨withSlice 16 { lines := [cleanLine 16], recoding := some true }, homeK 16, true, awake (by decide +kernel),
     by decide +kernel⟩,
    ⟨{ svc with pending := [.brownOut, .holdEnd] }, homeK 16, awake (by decide +kernel), by decide +kernel⟩,
    ⟨{ run with dies := [(1, { resetting := true, epoch := 65535 })], dirs := [(40, { floor := 7 })] },
     1, serves (by decide +kernel), by decide +kernel⟩,
    ⟨{ svc with pending := [.brownOut, .holdEnd] }, 0, serves (by decide +kernel), by decide +kernel⟩,
    ⟨{ svc with pending := [.brownOut, .holdEnd] }, 0, 0, serves (by decide +kernel), by decide +kernel⟩,
    ⟨{ run with dies := [(1, { lost := true })] }, 1, serves (by decide +kernel), by decide +kernel⟩,
    ⟨{ svc with pending := [.brownOut, .holdEnd] }, 0, serves (by decide +kernel), by decide +kernel⟩,
    ⟨st30, homeK (windowBase / 256), (windowBase / 256),
     {
       line := 4294967296, set := 0, way := 0, st := .clean, pin := false, poison := 0,
       data := (List.replicate 256 0x09#8), chk := [], joined := [] },
     by decide +kernel⟩,
    ⟨withSlice 16 { lines := [cleanLine 16] }, homeK 16, 16,
     {
       line := 16, set := 81, way := 0, st := .clean, pin := false, poison := 0,
       data := (List.replicate 256 0x09#8), chk := [], joined := [] },
     by decide +kernel⟩,
    ⟨st30, 0, 0,
     {
       line := 4294967296, set := 0, way := 0, st := .clean, pin := false, poison := 0,
       data := (List.replicate 256 0x09#8), chk := [], joined := [] },
     by decide +kernel⟩,
    ⟨{ svc with pending := [.brownOut, .holdEnd] }, homeK 16, 0, by decide +kernel⟩,
    ⟨{ svc with pending := [.brownOut, .holdEnd] }, .ring 2, homeK 16, 0, serves (by decide +kernel),
     by decide +kernel⟩,
    ⟨{ svc with pending := [.brownOut, .holdEnd] }, .boot, homeK 16, 0, serves (by decide +kernel),
     by decide +kernel⟩,
    ⟨(withSlice 16 { lines := [cleanLine 16], parity := true }).setHold 2, .boot, homeK 16, 0,
     serves (by decide +kernel), by decide +kernel⟩,
    ⟨{ svc with pending := [.brownOut, .holdEnd] }, .boot, homeK 16, 0, 0, serves (by decide +kernel),
     by decide +kernel⟩,
    ⟨{ svc with pending := [.brownOut, .holdEnd] }, .boot, homeK 16, 0, 1, serves (by decide +kernel),
     by decide +kernel⟩⟩

theorem witness_StackAndSlowTierComplete :
    (∃ (s : State) (a : Nat) (d : List PByte),
      s.Awake ∧ a % 64 = 0 ∧ d.length = 64) ∧
    (∃ (s : State) (a : Nat) (d : List PByte),
      s.Awake ∧ (a % 64 ≠ 0 ∨ d.length ≠ 64)) ∧
    (∃ (s : State) (a : Nat) (d : List PByte),
      s.Awake ∧ d ≠ [] ∧ d.length < 64 ∧ a % 64 + d.length ≤ 64) ∧
    (∃ (s : State) (a : Nat) (d : List PByte),
      s.Awake ∧ (d = [] ∨ 64 ≤ d.length ∨ 64 < a % 64 + d.length)) ∧
    (∃ (a : Nat),
      isStack a = false) ∧
    (∃ (s : State) (a : Nat),
      let g := a / 64
      let k := stackOf g
      let repair : Prop := ∃ x ∈ (s.stack k).pendRow, bankOfRow x = bankOfRow (rowId (granPlace g))
      isStack a = true ∧ repair) ∧
    (∃ (s : State) (a : Nat),
      let g := a / 64
      let k := stackOf g
      let repair : Prop := ∃ x ∈ (s.stack k).pendRow, bankOfRow x = bankOfRow (rowId (granPlace g))
      isStack a = true ∧ ¬repair ∧ s.ecc64 g = poisonDelta ∧ s.granule g = allOnes 64) ∧
    (∃ (s : State) (a : Nat) (d : List PByte),
      let g := a / 64
      let k := stackOf g
      let repair : Prop := ∃ x ∈ (s.stack k).pendRow, bankOfRow x = bankOfRow (rowId (granPlace g))
      isStack a = true ∧ ¬repair ∧ a % 64 = 0 ∧ d.length = 64 ∧ d.any (·.poison) = false) ∧
    (∃ (s : State) (a : Nat) (d : List PByte),
      let g := a / 64
      let k := stackOf g
      let repair : Prop := ∃ x ∈ (s.stack k).pendRow, bankOfRow x = bankOfRow (rowId (granPlace g))
      isStack a = true ∧ ¬repair ∧ d.any (·.poison) = true) ∧
    (∃ (s : State) (a : Nat) (d : List PByte),
      let g := a / 64
      let k := stackOf g
      let repair : Prop := ∃ x ∈ (s.stack k).pendRow, bankOfRow x = bankOfRow (rowId (granPlace g))
      isStack a = true ∧ ¬repair ∧ s.ecc64 g = 0 ∧ a % 64 + d.length ≤ 64 ∧ d.any (·.poison) = false) ∧
    (∃ (s : State) (k : Nat),
      s.Awake ∧ k < 8 ∧ (s.stack k).pendRow = none) ∧
    (∃ (s : State) (k : Nat) (row : _),
      s.Awake ∧ k < 8 ∧ (s.stack k).pendRow = some row) ∧
    (∃ (s : State) (k : Nat) (row : Nat),
      (s.stack k).pendRow = some row) ∧
    (∃ (s : State) (k : Nat),
      let may : Prop := s.flag (stackPage k) offControl 0 = true ∧ s.chkOn (stackPage k) = false ∧ s.dusk = false
      s.Serves ∧ k < 8 ∧ may) ∧
    (∃ (s : State) (k : Nat),
      let may : Prop := s.flag (stackPage k) offControl 0 = true ∧ s.chkOn (stackPage k) = false ∧ s.dusk = false
      s.Serves ∧ k < 8 ∧ ¬may) ∧
    (∃ (s : State),
      s.memOk) ∧
    (∃ (s : State) (k : Nat),
      let n := (s.stack k).scrubPos + 1
      n < 2 ^ 31) ∧
    (∃ (s : State) (k : Nat),
      let n := (s.stack k).scrubPos + 1
      2 ^ 31 ≤ n) ∧
    (∃ (s : State) (b : Nat),
      let on : Prop := ∃ m ∈ s.moves, m.block = b ∧ m.running = true
      s.Awake ∧ on ∧ s.moveReady b = true) ∧
    (∃ (s : State) (b : Nat),
      let on : Prop := ∃ m ∈ s.moves, m.block = b ∧ m.running = true
      s.Awake ∧ (¬on ∨ s.moveReady b = false)) ∧
    (∃ (s : State) (m : Move),
      s.memOk ∧ s.moves = [m] ∧ m.running = true) ∧
    (∃ (s : State) (m : Move),
      s.moves = [m] ∧ m.running = true ∧ m.seq = none) ∧
    (∃ (s : State) (m : Move) (q : _),
      s.moves = [m] ∧ m.running = true ∧ m.seq = some q) ∧
    (∃ (s : State) (m : Move),
      s.moves = [m] ∧ m.running = true ∧ m.requested = true) ∧
    (∃ (s : State) (p : Nat),
      let page := pciePage p
      s.Serves ∧ p < 2 ∧ s.flag page offControl 0 = false) ∧
    (∃ (s : State) (p : Nat) (i : LinkTraining),
      let page := pciePage p
      let mode := s.field page 0x140 1 0
      let cxlRate (i : LinkTraining) : Prop := i.rate = 5 ∨ i.rate = 6
      let cxl (i : LinkTraining) : Prop := mode ≠ 2 ∧ i.cxl = true ∧ cxlRate i
      s.Serves ∧ p < 2 ∧ s.flag page offControl 0 = true ∧ cxl i) ∧
    (∃ (s : State) (p : Nat) (i : LinkTraining),
      let page := pciePage p
      let mode := s.field page 0x140 1 0
      let cxlRate (i : LinkTraining) : Prop := i.rate = 5 ∨ i.rate = 6
      let cxl (i : LinkTraining) : Prop := mode ≠ 2 ∧ i.cxl = true ∧ cxlRate i
      s.Serves ∧ p < 2 ∧ s.flag page offControl 0 = true ∧ ¬cxl i ∧ ((mode = 1 ∨ (mode ≠ 2 ∧ i.cxl = true)))) ∧
    (∃ (s : State) (p : Nat) (i : LinkTraining),
      let page := pciePage p
      let mode := s.field page 0x140 1 0
      let cxlRate (i : LinkTraining) : Prop := i.rate = 5 ∨ i.rate = 6
      let cxl (i : LinkTraining) : Prop := mode ≠ 2 ∧ i.cxl = true ∧ cxlRate i
      s.Serves ∧ p < 2 ∧ s.flag page offControl 0 = true ∧ ¬cxl i ∧ mode ≠ 1 ∧ (mode = 2 ∨ i.cxl = false)) ∧
    (∃ (s : State) (p : Nat),
      let page := pciePage p
      s.Serves ∧ p < 2 ∧ s.flag page offStatus 4 = true) ∧
    (∃ (s : State) (p : Nat),
      let page := pciePage p
      s.Serves ∧ p < 2 ∧ s.flag page offStatus 4 = false) ∧
    (∃ (s : State) (p : Nat) (o : _) (on : _),
      s.Serves ∧ p < 2 ∧ operatorOnly (roleOf o) = true ∧ on = false) ∧
    (∃ (s : State) (p : Nat) (o : _) (on : _),
      s.Serves ∧ p < 2 ∧ operatorOnly (roleOf o) = true ∧ on = true) ∧
    (∃ (s : State) (p : Nat),
      p < 2 ∧ s.flag (pciePage p) offStatus 4 = true) ∧
    (∃ (s : State) (id : Nat) (q : _) (bad : _),
      let gone : State := { s with slow := s.slow.filter (·.id != id) }
      let r := gone.slowRead q.addr q.len
      let fine := r.1.all fun b => !b.poison
      s.Serves ∧ s.slow.find? (fun q => q.id == id && q.data.isNone && s.slowFirst q) = some q ∧
      (bad = false ∨ fine = false)) ∧
    (∃ (s : State) (id : Nat) (q : _) (bad : _),
      let gone : State := { s with slow := s.slow.filter (·.id != id) }
      let r := gone.slowRead q.addr q.len
      let fine := r.1.all fun b => !b.poison
      s.Serves ∧ s.slow.find? (fun q => q.id == id && q.data.isNone && s.slowFirst q) = some q ∧ bad = true ∧ fine = true) ∧
    (∃ (s : State) (id : Nat),
      s.Serves ∧ s.slow.find? (fun q => q.id == id && q.data.isNone && s.slowFirst q) = none) ∧
    (∃ (s : State) (id : Nat) (q : _) (d : _),
      s.Serves ∧ s.slow.find? (fun q => q.id == id && q.data.isSome && s.slowFirst q) = some q ∧ q.data = some d) ∧
    (∃ (s : State) (id : Nat),
      s.Serves ∧ s.slow.find? (fun q => q.id == id && q.data.isSome && s.slowFirst q) = none) ∧
    (∃ (s : State) (a : Nat) (d : List PByte),
      (∀ g, a / 64 ≤ g → g * 64 < a + d.length → s.ecc64 g = 0) ∧ d.any (·.poison) = false) ∧
    (∃ (s : State) (x : Xfer) (site : Nat) (lt : Nat),
      s.xfers.find? (·.id == x.id) = some x ∧ x.dst = .scratch site lt ∧ x.ccSrc = none) ∧
    (∃ (s : State) (o : Origin) (v : Word),
      let b := bits v.toNat 17 0
      let tier := bits v.toNat 19 18
      let e := s.resEnt b
      let may : Prop := (tier = 1 ∨ (tier = 2 ∧ e.slowHome = true)) ∧ e.tier ≠ 0 ∧ e.tier ≠ 3 ∧ e.visited = false
      s.Serves ∧ anyButDebug (roleOf o) = true ∧ ¬may) ∧
    (∃ (s : State) (o : Origin) (v : Word),
      let b := bits v.toNat 17 0
      let tier := bits v.toNat 19 18
      let e := s.resEnt b
      let may : Prop := (tier = 1 ∨ (tier = 2 ∧ e.slowHome = true)) ∧ e.tier ≠ 0 ∧ e.tier ≠ 3 ∧ e.visited = false
      s.Serves ∧ anyButDebug (roleOf o) = true ∧ may ∧ e.tier = tier ∧ e.moving = false) ∧
    (∃ (s : State) (o : Origin) (v : Word),
      let b := bits v.toNat 17 0
      let tier := bits v.toNat 19 18
      let e := s.resEnt b
      let may : Prop := (tier = 1 ∨ (tier = 2 ∧ e.slowHome = true)) ∧ e.tier ≠ 0 ∧ e.tier ≠ 3 ∧ e.visited = false
      s.Serves ∧ anyButDebug (roleOf o) = true ∧ may ∧ (e.tier ≠ tier ∨ e.moving = true)) :=
  ⟨⟨(run.setBytes 0x1000 [1,2,3,4]), 0x1000, List.replicate 64 ⟨5,false⟩, awake (by decide +kernel),
     by decide +kernel⟩,
    ⟨(run.setBytes 0x1000 [1,2,3,4]), 0x1000, List.replicate 3 ⟨5,false⟩, awake (by decide +kernel),
     by decide +kernel⟩,
    ⟨(run.setBytes 0x1000 [1,2,3,4]), 0x1000, List.replicate 3 ⟨5,false⟩, awake (by decide +kernel),
     by decide +kernel⟩,
    ⟨(run.setBytes 0x1000 [1,2,3,4]), 0x1000, List.replicate 64 ⟨5,false⟩, awake (by decide +kernel),
     by decide +kernel⟩,
    ⟨0x080000000000, by decide +kernel⟩,
    ⟨st31, 0x1000, by decide +kernel⟩,
    ⟨((run.setBytes 0x1000 (List.replicate 64 0xFF)).setEcc 64 poisonDelta), 0x1000, by decide +kernel⟩,
    ⟨(run.setBytes 0x1000 [1,2,3,4]), 0x1000, List.replicate 64 ⟨5,false⟩, by decide +kernel⟩,
    ⟨(run.setBytes 0x1000 [1,2,3,4]), 0x1000, ⟨5,true⟩ :: List.replicate 63 ⟨5,false⟩, by decide +kernel⟩,
    ⟨(run.setBytes 0x1000 [1,2,3,4]), 0x1000, List.replicate 64 ⟨5,false⟩, by decide +kernel⟩,
    ⟨(run.setBytes 0x1000 [1,2,3,4]), 7, awake (by decide +kernel), by decide +kernel⟩,
    ⟨st31, stackOf 64, 16777216, awake (by decide +kernel), by decide +kernel⟩,
    ⟨st31, stackOf 64, rowId (granPlace 64), by decide +kernel⟩,
    ⟨(run.setBytes 0x1000 [1,2,3,4]), 7, serves (by decide +kernel), by decide +kernel⟩,
    ⟨{ run with dusk := true }, 7, serves (by decide +kernel), by decide +kernel⟩,
    ⟨(run.setBytes 0x1000 [1,2,3,4]), (show memWf _ = true from by decide +kernel)⟩,
    ⟨(run.setBytes 0x1000 [1,2,3,4]), 7, by decide +kernel⟩,
    ⟨{ run with hbm := [(7, { scrubPos := 2^31 - 1, pendRow := some 5, pendNext := [6] })] },
     7, by decide +kernel⟩,
    ⟨st32, 5, awake (by decide +kernel), by decide +kernel⟩,
    ⟨(run.setBytes 0x1000 [1,2,3,4]), 5, awake (by decide +kernel), by decide +kernel⟩,
    ⟨st32, { block := 5, target := 1, requested := true, running := true },
     (show memWf _ = true from by decide +kernel), by decide +kernel⟩,
    ⟨st32, { block := 5, target := 1, requested := true, running := true }, by decide +kernel⟩,
    ⟨{ run with
       moves := [{ ({ block := 5, target := 1, requested := true, running := true } : Move) with seq := some 7 }],
       res := [(5, { tier := 2, slowHome := true, moving := true })] },
     { (({ block := 5, target := 1, requested := true, running := true }) : Move) with seq := some 7 },
     7, by decide +kernel⟩,
    ⟨st32, { block := 5, target := 1, requested := true, running := true }, by decide +kernel⟩,
    ⟨run.wr (pciePage 1) offControl 0, 1, serves (by decide +kernel), by decide +kernel⟩,
    ⟨(run.setBytes 0x1000 [1,2,3,4]), 0,
     {
       cxl := true, x8 := true, rate := 6, capacity := 4398046511104, latNs := 500, devId := 1, serial := 7,
       buses := 0 },
     serves (by decide +kernel), by decide +kernel⟩,
    ⟨(run.setBytes 0x1000 [1,2,3,4]), 0,
     {
       cxl := true, x8 := true, rate := 4, capacity := 4398046511104, latNs := 500, devId := 1, serial := 7,
       buses := 0 },
     serves (by decide +kernel), by decide +kernel⟩,
    ⟨(run.setBytes 0x1000 [1,2,3,4]), 0,
     {
       cxl := false, x8 := true, rate := 6, capacity := 4398046511104, latNs := 500, devId := 1, serial := 7,
       buses := 0 },
     serves (by decide +kernel), by decide +kernel⟩,
    ⟨run.wr (pciePage 1) offStatus 19, 1, serves (by decide +kernel), by decide +kernel⟩,
    ⟨(run.setBytes 0x1000 [1,2,3,4]), 0, serves (by decide +kernel), by decide +kernel⟩,
    ⟨(run.setBytes 0x1000 [1,2,3,4]), 0, .boot, false, serves (by decide +kernel), by decide +kernel⟩,
    ⟨(run.setBytes 0x1000 [1,2,3,4]), 0, .boot, true, serves (by decide +kernel), by decide +kernel⟩,
    ⟨run.wr (pciePage 1) offStatus 19, 1, by decide +kernel⟩,
    ⟨st33, 5,
     { id := 5, port := 1, addr := 13194139533312, len := 4, data := none, xfers := [(9, 0)] },
     false, serves (by decide +kernel), by decide +kernel⟩,
    ⟨st33, 5,
     { id := 5, port := 1, addr := 13194139533312, len := 4, data := none, xfers := [(9, 0)] },
     true, serves (by decide +kernel), by decide +kernel⟩,
    ⟨(run.setBytes 0x1000 [1,2,3,4]), 5, serves (by decide +kernel), by decide +kernel⟩,
    ⟨{ run with
       slow := [
         {
           id := 5, port := 1, addr := 0x0C0000000000, len := 4, data := some (List.replicate 4 ⟨5,false⟩),
           xfers := [(9, 0)] }] },
     5,
     {
       id := 5, port := 1, addr := 13194139533312, len := 4,
       data := some [
         { val := 0x05#8, poison := false }, { val := 0x05#8, poison := false }, { val := 0x05#8, poison := false },
         { val := 0x05#8, poison := false }],
       xfers := [(9, 0)] },
     [
       { val := 0x05#8, poison := false }, { val := 0x05#8, poison := false }, { val := 0x05#8, poison := false },
       { val := 0x05#8, poison := false }],
     serves (by decide +kernel), by decide +kernel⟩,
    ⟨(run.setBytes 0x1000 [1,2,3,4]), 5, serves (by decide +kernel), by decide +kernel⟩,
    ⟨(run.setBytes 0x1000 [1,2,3,4]), 0x080000000000, List.replicate 64 ⟨5,false⟩, by intro g _ _; rfl,
     by decide +kernel⟩,
    ⟨st33,
     { id := 9, site := 0, dst := .scratch 5 5, rows := [{ off := 0, len := 4, src := some 0x0C0000000000 }] },
     5, 5, by decide +kernel⟩,
    ⟨(run.setBytes 0x1000 [1,2,3,4]), .operator 1, 5+2^18, serves (by decide +kernel), by decide +kernel⟩,
    ⟨st34, .operator 1, 5+2*2^18, serves (by decide +kernel), by decide +kernel⟩,
    ⟨st34, .operator 1, 5+2^18, serves (by decide +kernel), by decide +kernel⟩⟩

theorem witness_FramesComplete :
    (∃ (s : State) (p : Nat),
      s.Serves ∧ p < 16 ∧ s.portOpen p = false) ∧
    (∃ (s : State) (p : Nat) (f : RayFrame) (again : _),
      let heard := (s.acceptSeq p f).2
      let x := heard.port p
      let sum : Int := ((fieldAt f.payload 0 4 + sumOf x.occ + sumOf x.freed + x.rSent : Nat) : Int) - (fieldAt f.payload 4 4 : Int) -
        (sumOf x.rxAlloc : Int)
      let next : Prop := f.seq = ((s.port p).rxSeq + 1) % 4096
      s.Serves ∧ p < 16 ∧ s.portOpen p = true ∧ (¬next ∨ again = true ∨ x.needSync = true ∨ sum % 2 ^ 32 = 0)) ∧
    (∃ (s : State) (p : Nat) (f : RayFrame),
      let heard := (s.acceptSeq p f).2
      let x := heard.port p
      let sum : Int := ((fieldAt f.payload 0 4 + sumOf x.occ + sumOf x.freed + x.rSent : Nat) : Int) - (fieldAt f.payload 4 4 : Int) -
        (sumOf x.rxAlloc : Int)
      let next : Prop := f.seq = ((s.port p).rxSeq + 1) % 4096
      s.Serves ∧ p < 16 ∧ s.portOpen p = true ∧ next ∧ x.needSync = false ∧ sum % 2 ^ 32 ≠ 0) ∧
    (∃ (s : State) (p : Nat) (f : RayFrame),
      let x := s.port p
      f.nak = false ∧ f.seq = (x.rxSeq + 1) % 4096 ∧ f.crPool < 70 ∧ 0 < f.crUnits) ∧
    (∃ (s : State) (p : Nat) (f : RayFrame),
      let x := s.port p
      f.nak = true ∧ (x.acked f.ack).unacked ≠ []) ∧
    (∃ (s : State) (p : Nat),
      s.portOpen p = false) ∧
    (∃ (s : State) (p : Nat) (f : RayFrame),
      let x := s.port p
      s.portOpen p = true ∧ f.seq ≠ (x.rxSeq + 1) % 4096) ∧
    (∃ (s : State) (p : Nat) (f : RayFrame) (st : Stream),
      f.stream ≠ 0xFFF ∧ s.inStream (inDirOf p f s.phys) f = some st ∧ st.deliver = false) ∧
    (∃ (s : State) (p : Nat) (f : RayFrame) (t : _) (k : _),
      let o := f.addr % 2 ^ 20
      s.TakesFrame p f ∧ f.type = 1 ∧ f.akind = false ∧ s.siteOf f.dstTile = some t ∧ k < f.payload.length ∧
      o + k < scratchSize) ∧
    (∃ (s : State) (p : Nat) (f : RayFrame) (t : _) (i : _),
      s.TakesFrame p f ∧ f.type = 1 ∧ f.akind = false ∧ s.siteOf f.dstTile = some t ∧ i ≠ t) ∧
    (∃ (s : State) (p : Nat) (f : RayFrame) (t : _),
      s.TakesFrame p f ∧ f.type = 1 ∧ f.akind = false ∧ s.siteOf f.dstTile = some t ∧ f.last = true ∧ f.ccEn = true) ∧
    (∃ (s : State) (p : Nat) (f : RayFrame),
      s.TakesFrame p f ∧ f.type = 1 ∧ f.akind = false ∧ s.siteOf f.dstTile = none) ∧
    (∃ (s : State) (p : Nat) (f : RayFrame),
      s.TakesFrame p f ∧ (f.type = 1 ∨ f.type = 2) ∧ f.last = true ∧ f.ckEn = true) ∧
    (∃ (s : State) (p : Nat) (f : RayFrame),
      s.TakesFrame p f ∧ s.memOk ∧ (f.type = 1 ∨ f.type = 2 ∨ f.type = 8)) ∧
    (∃ (s : State) (p : Nat) (f : RayFrame) (t : _),
      let o := f.addr % 2 ^ 20
      s.TakesFrame p f ∧ f.type = 2 ∧ f.akind = false ∧ s.siteOf f.dstTile = some t ∧ f.payload.length = 4 ∧
      f.poison = 0 ∧ o + 4 ≤ scratchSize ∧ (s.tile t).firstBad [(o, 4)] = none) ∧
    (∃ (s : State) (p : Nat) (f : RayFrame) (t : _),
      s.TakesFrame p f ∧ f.type = 3 ∧ s.siteOf (bits (fieldAt f.payload 0 8) 41 32) = some t) ∧
    (∃ (s : State) (p : Nat) (f : RayFrame) (t : _),
      s.TakesFrame p f ∧ f.type = 4 ∧ s.siteOf f.dstTile = some t) ∧
    (∃ (s : State) (p : Nat) (f : RayFrame),
      s.MayTake p f ∧ (s.port p).early = [f] ∧ ((∀ q ∈ portsOf (dirOf p), q ≠ p → (s.port q).early = []))) :=
  ⟨⟨(fabric {}), 1, serves (by decide +kernel), by decide +kernel⟩,
    ⟨(fabric {}), 0,
     { emptyFrame with
       type := 1, dstTile := 5, addr := 786400, payload := List.replicate 80 5, poison := 2, last := true,
       ccEn := true, cc := 31, ckEn := true, ck := 255 },
     true, serves (by decide +kernel), by decide +kernel⟩,
    ⟨(fabric {}), 0,
     { emptyFrame with type := 2, dstTile := 5, addr := 786428, payload := [0,0,128,63] },
     serves (by decide +kernel), by decide +kernel⟩,
    ⟨(fabric {}), 0, { emptyFrame with type := 0, crPool := 69, crUnits := 3 }, by decide +kernel⟩,
    ⟨(fabric { unacked := [{ emptyFrame with type := 4, seq := 9 }, { emptyFrame with type := 4, seq := 10 }] }),
     0,
     { { emptyFrame with type := 1, dstTile := 5, addr := 786400, payload := List.replicate 80 5, poison := 2, last := true, ccEn := true, cc := 31, ckEn := true, ck := 255 } with
       seq := 4095, ack := 9, nak := true },
     by decide +kernel⟩,
    ⟨(fabric {}), 1, by decide +kernel⟩,
    ⟨(fabric {}), 0, { emptyFrame with type := 4, seq := 9 }, by decide +kernel⟩,
    ⟨{ (fabric {}) with
       ray := { (fabric {}).ray with
         halves := [
           (
             0,
             {
               streams := [
                 {
                   from_ := 1,
                   inDir := inDirOf 0 { emptyFrame with
                     type := 1, dstTile := 5, addr := 786400, payload := List.replicate 80 5, stream := 7 } (fabric {}).phys,
                   inStream := 7, srcTile := 0, dmaQ := 0, dstMod := 1, dstTile := 0, coll := 0, deliver := false,
                   outPort := 1, outQueue := 3, outStream := 7, bytes := 64 }] })] } },
     0,
     { emptyFrame with type := 1, dstTile := 5, addr := 786400, payload := List.replicate 80 5, stream := 7 },
     {
       from_ := 1,
       inDir := inDirOf 0 { emptyFrame with
         type := 1, dstTile := 5, addr := 786400, payload := List.replicate 80 5, stream := 7 } (fabric {}).phys,
       inStream := 7, srcTile := 0, dmaQ := 0, dstMod := 1, dstTile := 0, coll := 0, deliver := false, outPort := 1,
       outQueue := 3, outStream := 7, bytes := 64 },
     by decide +kernel⟩,
    ⟨(fabric {}), 0,
     { emptyFrame with
       type := 1, dstTile := 5, addr := 786400, payload := List.replicate 80 5, poison := 2, last := true,
       ccEn := true, cc := 31, ckEn := true, ck := 255 },
     5, 0, takesFrame (mayTake (by decide +kernel)) (by decide +kernel), by decide +kernel⟩,
    ⟨(fabric {}), 0,
     { emptyFrame with
       type := 1, dstTile := 5, addr := 786400, payload := List.replicate 80 5, poison := 2, last := true,
       ccEn := true, cc := 31, ckEn := true, ck := 255 },
     5, 0, takesFrame (mayTake (by decide +kernel)) (by decide +kernel), by decide +kernel⟩,
    ⟨(fabric {}), 0,
     { emptyFrame with
       type := 1, dstTile := 5, addr := 786400, payload := List.replicate 80 5, poison := 2, last := true,
       ccEn := true, cc := 31, ckEn := true, ck := 255 },
     5, takesFrame (mayTake (by decide +kernel)) (by decide +kernel), by decide +kernel⟩,
    ⟨{ (fabric {}) with map := [(7, { tile := 0, st := 3 })] }, 0,
     { emptyFrame with type := 1, dstTile := 7, payload := List.replicate 80 5 },
     takesFrame (mayTake (by decide +kernel)) (by decide +kernel), by decide +kernel⟩,
    ⟨(fabric {}), 0,
     { emptyFrame with
       type := 1, dstTile := 5, addr := 786400, payload := List.replicate 80 5, poison := 2, last := true,
       ccEn := true, cc := 31, ckEn := true, ck := 255 },
     takesFrame (mayTake (by decide +kernel)) (by decide +kernel), by decide +kernel⟩,
    ⟨{ (fabric {}) with map := [(7, { tile := 0, st := 3 })] }, 0,
     { emptyFrame with type := 1, dstTile := 7, payload := List.replicate 80 5 },
     takesFrame (mayTake (by decide +kernel)) (by decide +kernel), (show memWf _ = true from by decide +kernel),
     by decide +kernel⟩,
    ⟨(fabric {}), 0,
     { emptyFrame with type := 2, dstTile := 5, addr := 786428, payload := [0,0,128,63] },
     5, takesFrame (mayTake (by decide +kernel)) (by decide +kernel), by decide +kernel⟩,
    ⟨(fabric {}), 0,
     { emptyFrame with
       type := 3, srcPhys := 2, srcTile := 9,
       payload := natLe 8 (2^63 + 5*2^32 + 3) ++ natLe 8 (31*2^8+3) ++ [1,2,3,4] },
     5, takesFrame (mayTake (by decide +kernel)) (by decide +kernel), by decide +kernel⟩,
    ⟨(fabric {}), 0, { emptyFrame with type := 4, dstTile := 5, cc := 31, giveN := 65535 }, 5,
     takesFrame (mayTake (by decide +kernel)) (by decide +kernel), by decide +kernel⟩,
    ⟨(fabric { early := [{ emptyFrame with type := 1, dstTile := 5, payload := List.replicate 80 5 }] }),
     0,
     { emptyFrame with type := 1, dstTile := 5, payload := List.replicate 80 5 },
     mayTake (by decide +kernel), by decide +kernel⟩⟩

theorem witness_PortFamilyCompletes :
    (∃ (s : State) (p : Nat),
      s.Serves ∧ p < 16 ∧ s.portOpen p = false) ∧
    (∃ (s : State) (p : Nat) (f : _) (rest : _),
      let v := s.modPort p fun x =>
        if x.slotAt == s.slotId then x else { x with slotAt := s.slotId, slotUsed := 0, twinUsed := 0, glintUsed := 0 }
      let x := v.port p
      s.Serves ∧ p < 16 ∧ s.portOpen p = true ∧ x.resend = f :: rest) ∧
    (∃ (s : State) (p : Nat),
      let v := s.modPort p fun x =>
        if x.slotAt == s.slotId then x else { x with slotAt := s.slotId, slotUsed := 0, twinUsed := 0, glintUsed := 0 }
      let x := v.port p
      let owes : Prop := x.ackDue = true ∨ x.nakDue = true ∨ x.freed.any (·.2 > 0) = true
      s.Serves ∧ p < 16 ∧ s.portOpen p = true ∧ x.resend = [] ∧ v.nextItem p = none ∧ owes) ∧
    (∃ (s : State) (p : Nat),
      let v := s.modPort p fun x =>
        if x.slotAt == s.slotId then x else { x with slotAt := s.slotId, slotUsed := 0, twinUsed := 0, glintUsed := 0 }
      let x := v.port p
      let owes : Prop := x.ackDue = true ∨ x.nakDue = true ∨ x.freed.any (·.2 > 0) = true
      s.Serves ∧ p < 16 ∧ s.portOpen p = true ∧ x.resend = [] ∧ v.nextItem p = none ∧ ¬owes) ∧
    (∃ (s : State) (p : Nat) (i : _) (kind : _),
      let v := s.modPort p fun x =>
        if x.slotAt == s.slotId then x else { x with slotAt := s.slotId, slotUsed := 0, twinUsed := 0, glintUsed := 0 }
      let x := v.port p
      s.Serves ∧ p < 16 ∧ s.portOpen p = true ∧ x.resend = [] ∧ v.nextItem p = some (i, kind) ∧ x.roomFor i.frame = false) ∧
    (∃ (s : State) (p : Nat) (i : _) (kind : _),
      let v := s.modPort p fun x =>
        if x.slotAt == s.slotId then x else { x with slotAt := s.slotId, slotUsed := 0, twinUsed := 0, glintUsed := 0 }
      let x := v.port p
      s.Serves ∧ p < 16 ∧ s.portOpen p = true ∧ x.resend = [] ∧ v.nextItem p = some (i, kind) ∧ x.roomFor i.frame = true) ∧
    (∃ (s : State) (p : Nat) (i : _) (n : _) (c : _) (st : _),
      let mine := s.slotHalf.queueColls p
      let pos := sget 0 s.ray.collPos p
      let pass := pos / max mine.length 1
      let may (i : Image) (n : Nat) (c : Coll) (st : Stream) : Prop :=
        s.adm.active = some i ∧ mine[pos % max mine.length 1]? = some (n, c) ∧
        s.slotHalf.streams.find? (fun x => x.from_ == 2 && x.coll == n) = some st ∧ pass < s.ray.collPass ∧
        s.collTime i pass c = true ∧ s.collReady c = true ∧ s.parked = false ∧ s.steps.phase = .exec ∧
        s.rangeReady (s.translate s.steps.step c.src) c.len = true
      s.Serves ∧ may i n c st ∧ s.memOk ∧ p < 16) ∧
    (∃ (s : State) (p : Nat) (i : _) (n : _) (c : _) (st : _) (k : _) (m : _),
      let mine := s.slotHalf.queueColls p
      let pos := sget 0 s.ray.collPos p
      let pass := pos / max mine.length 1
      let may (i : Image) (n : Nat) (c : Coll) (st : Stream) : Prop :=
        s.adm.active = some i ∧ mine[pos % max mine.length 1]? = some (n, c) ∧
        s.slotHalf.streams.find? (fun x => x.from_ == 2 && x.coll == n) = some st ∧ pass < s.ray.collPass ∧
        s.collTime i pass c = true ∧ s.collReady c = true ∧ s.parked = false ∧ s.steps.phase = .exec ∧
        s.rangeReady (s.translate s.steps.step c.src) c.len = true
      s.Serves ∧ may i n c st ∧ p < 16 ∧ c.waitCk = some (k, m)) ∧
    (∃ (s : State) (p : Nat),
      let mine := s.slotHalf.queueColls p
      let pos := sget 0 s.ray.collPos p
      let pass := pos / max mine.length 1
      let may (i : Image) (n : Nat) (c : Coll) (st : Stream) : Prop :=
        s.adm.active = some i ∧ mine[pos % max mine.length 1]? = some (n, c) ∧
        s.slotHalf.streams.find? (fun x => x.from_ == 2 && x.coll == n) = some st ∧ pass < s.ray.collPass ∧
        s.collTime i pass c = true ∧ s.collReady c = true ∧ s.parked = false ∧ s.steps.phase = .exec ∧
        s.rangeReady (s.translate s.steps.step c.src) c.len = true
      s.Serves ∧ (¬∃ i n c st, may i n c st) ∧ p < 16) ∧
    (∃ (s : State) (p : Nat),
      let st := s.portSt p
      s.Serves ∧ p < 16 ∧ (st = 1 ∨ st = 4)) ∧
    (∃ (s : State) (p : Nat),
      let st := s.portSt p
      s.Serves ∧ p < 16 ∧ st ≠ 1 ∧ st ≠ 4) ∧
    (∃ (s : State) (p : Nat),
      let st := s.portSt p
      s.Serves ∧ p < 16 ∧ st = 2) ∧
    (∃ (s : State) (p : Nat),
      let st := s.portSt p
      s.Serves ∧ p < 16 ∧ st ≠ 2) ∧
    (∃ (s : State) (p : Nat) (g : List Nat),
      let st := s.portSt p
      let x := s.port p
      let syncing : Prop := st = 5 ∨ (st = 3 ∧ x.needSync = true)
      s.Serves ∧ p < 16 ∧ g ≠ [] ∧ syncing) ∧
    (∃ (s : State) (p : Nat) (g : List Nat),
      let st := s.portSt p
      let x := s.port p
      let syncing : Prop := st = 5 ∨ (st = 3 ∧ x.needSync = true)
      s.Serves ∧ p < 16 ∧ g ≠ [] ∧ ¬syncing) ∧
    (∃ (s : State) (p : Nat),
      let st := s.portSt p
      let x := s.port p
      let syncing : Prop := st = 5 ∨ (st = 3 ∧ x.needSync = true)
      let ready : Prop := syncing ∧ x.granted = false ∧ x.resend = [] ∧ ∀ f ∈ x.unacked, 70 ≤ f.pool
      s.Serves ∧ p < 16 ∧ ready) ∧
    (∃ (s : State) (p : Nat),
      let st := s.portSt p
      let x := s.port p
      let syncing : Prop := st = 5 ∨ (st = 3 ∧ x.needSync = true)
      let ready : Prop := syncing ∧ x.granted = false ∧ x.resend = [] ∧ ∀ f ∈ x.unacked, 70 ≤ f.pool
      s.Serves ∧ p < 16 ∧ ¬ready) ∧
    (∃ (s : State) (p : Nat),
      let st := s.portSt p
      let x := s.port p
      let down : Prop := x.again = true ∧ st ≠ 0 ∧ st ≠ 3 ∧ st ≠ 6
      s.Serves ∧ p < 16 ∧ down) ∧
    (∃ (s : State) (p : Nat),
      let st := s.portSt p
      let x := s.port p
      let down : Prop := x.again = true ∧ st ≠ 0 ∧ st ≠ 3 ∧ st ≠ 6
      s.Serves ∧ p < 16 ∧ ¬down) ∧
    (∃ (s : State) (p : Nat),
      let same (q : Nat) : Prop := q < 16 ∧ s.portUnused q = false ∧ s.neighbour (dirOf q) = s.neighbour (dirOf p)
      let gone : Prop := s.portUnused p = false ∧ ∀ q, same q → s.portUp q = false
      s.Serves ∧ gone ∧ p < 16) ∧
    (∃ (s : State) (p : Nat),
      let same (q : Nat) : Prop := q < 16 ∧ s.portUnused q = false ∧ s.neighbour (dirOf q) = s.neighbour (dirOf p)
      let gone : Prop := s.portUnused p = false ∧ ∀ q, same q → s.portUp q = false
      s.Serves ∧ ¬gone ∧ p < 16) ∧
    (∃ (s : State) (p : Nat) (m : LinkMsg),
      let good : Prop := s.formed = true ∧ m.phys = s.neighbour (dirOf p) ∧ m.port = peerPort p
      p < 16 ∧ good) ∧
    (∃ (s : State) (p : Nat) (m : LinkMsg),
      let good : Prop := s.formed = true ∧ m.phys = s.neighbour (dirOf p) ∧ m.port = peerPort p
      p < 16 ∧ ¬good) ∧
    (∃ (s : State) (p : Nat),
      let x := s.port p
      p < 16 ∧ x.gotGrant = false) ∧
    (∃ (s : State) (p : Nat),
      let x := s.port p
      p < 16 ∧ s.portSt p = 5 ∧ x.granted = true ∧ x.gotGrant = true ∧ x.again = true) ∧
    (∃ (s : State) (p : Nat),
      let x := s.port p
      p < 16 ∧ (x.granted = false ∨ x.gotGrant = false)) ∧
    (∃ (s : State) (p : Nat),
      p < 16 ∧ s.portUp p = true) ∧
    (∃ (s : State) (p : Nat),
      p < 16 ∧ s.portUp p = false) ∧
    (∃ (s : State) (p : Nat) (o : Origin),
      let page := rayPage p
      s.Serves ∧ p < 16 ∧ operatorOnly (roleOf o) = true ∧ s.portUp p = true ∧ s.flag page offControl 0 = true) ∧
    (∃ (s : State) (p : Nat) (o : Origin),
      s.Serves ∧ p < 16 ∧ operatorOnly (roleOf o) = true ∧ s.portUnused p = false ∧ s.portSt p = 0) ∧
    (∃ (s : State) (p : Nat) (o : Origin),
      let page := rayPage p
      s.Serves ∧ p < 16 ∧ operatorOnly (roleOf o) = true ∧ s.portUnused p = false ∧ s.flag page offControl 0 = true) :=
  ⟨⟨(fabric {}), 1, serves (by decide +kernel), by decide +kernel⟩,
    ⟨(fabric { resend := [{ emptyFrame with type := 4, seq := 9 }] }), 0,
     {
       type := 4, seq := 9, ack := 0, nak := false, spec := false, stepTag := 0, crPool := 127, crUnits := 0,
       stream := 4095, xseq := 0, last := false, akind := false, dstTile := 0, dstPhys := 0, detour := false,
       pool := 127, addr := 0, srcPhys := 0, cc := 0, ccEn := false, ck := 0, ckEn := false, giveN := 0,
       srcTile := 0, dirIn := 0, poison := 0, payload := [] },
     [], serves (by decide +kernel), by decide +kernel⟩,
    ⟨(fabric { ackDue := true }), 0, serves (by decide +kernel), by decide +kernel⟩,
    ⟨(fabric {}), 0, serves (by decide +kernel), by decide +kernel⟩,
    ⟨(
       fabric {
         txq := [{ frame := { emptyFrame with type := 4, dstTile := 5, pool := 64 }, pool := 64 }],
         credits := [(64, 5)], slotAt := run.slotId, unacked := List.replicate 2048 emptyFrame }),
     0,
     {
       frame := {
         type := 4, seq := 0, ack := 0, nak := false, spec := false, stepTag := 0, crPool := 127, crUnits := 0,
         stream := 4095, xseq := 0, last := false, akind := false, dstTile := 5, dstPhys := 0, detour := false,
         pool := 64, addr := 0, srcPhys := 0, cc := 0, ccEn := false, ck := 0, ckEn := false, giveN := 0,
         srcTile := 0, dirIn := 0, poison := 0, payload := [] },
       pool := 64, hold := none, coll := false },
     3, serves (by decide +kernel), by decide +kernel⟩,
    ⟨(
       fabric {
         txq := [{ frame := { emptyFrame with type := 4, dstTile := 5, pool := 64 }, pool := 64 }],
         credits := [(64, 5)], slotAt := run.slotId, nakDue := true }),
     0,
     {
       frame := {
         type := 4, seq := 0, ack := 0, nak := false, spec := false, stepTag := 0, crPool := 127, crUnits := 0,
         stream := 4095, xseq := 0, last := false, akind := false, dstTile := 5, dstPhys := 0, detour := false,
         pool := 64, addr := 0, srcPhys := 0, cc := 0, ccEn := false, ck := 0, ckEn := false, giveN := 0,
         srcTile := 0, dirIn := 0, poison := 0, payload := [] },
       pool := 64, hold := none, coll := false },
     3, serves (by decide +kernel), by decide +kernel⟩,
    ⟨{ (fabric {}) with
       gn := { running := true, frame := 1, count := 8192 },
       ray := {
         map := some [0,1,2,3], ck := [], collPass := 1, collAt := [(0, 0)],
         halves := [
           (
             0,
             {
               colls := [
                 {
                   nb := 0, frame := 0, queue := 0, waitCk := none, add := false, dead := false, src := 0x1000,
                   dst := 0x2000, len := 64, dstMod := 1, dstCk := none, dstCc := none }],
               streams := [
                 {
                   from_ := 2, inDir := 0, inStream := 0, srcTile := 0, dmaQ := 0, dstMod := 1, dstTile := 0,
                   coll := 0, deliver := false, outPort := 0, outQueue := 3, outStream := 7, bytes := 64 }] })] } },
     0, img, 0,
     {
       nb := 0, frame := 0, queue := 0, waitCk := none, add := false, dead := false, src := 4096, dst := 8192,
       len := 64, dstMod := 1, dstCk := none, dstCc := none },
     {
       from_ := 2, inDir := 0, inStream := 0, srcTile := 0, dmaQ := 0, dstMod := 1, dstTile := 0, coll := 0,
       deliver := false, outPort := 0, outQueue := 3, outStream := 7, bytes := 64 },
     serves (by decide +kernel), by beta_reduce; decide +kernel, (show memWf _ = true from by decide +kernel),
     by decide +kernel⟩,
    ⟨{ (fabric {}) with
       gn := { running := true, frame := 1, count := 8192 },
       ray := {
         map := some [0,1,2,3], ck := [(3, 9)], collPass := 1, collAt := [(0, 0)],
         halves := [
           (
             0,
             {
               colls := [
                 {
                   nb := 0, frame := 0, queue := 0, waitCk := some (3, 9), add := false, dead := false,
                   src := 0x1000, dst := 0x2000, len := 64, dstMod := 1, dstCk := none, dstCc := none }],
               streams := [
                 {
                   from_ := 2, inDir := 0, inStream := 0, srcTile := 0, dmaQ := 0, dstMod := 1, dstTile := 0,
                   coll := 0, deliver := false, outPort := 0, outQueue := 3, outStream := 7, bytes := 64 }] })] } },
     0, img, 0,
     {
       nb := 0, frame := 0, queue := 0, waitCk := some (3, 9), add := false, dead := false, src := 4096,
       dst := 8192, len := 64, dstMod := 1, dstCk := none, dstCc := none },
     {
       from_ := 2, inDir := 0, inStream := 0, srcTile := 0, dmaQ := 0, dstMod := 1, dstTile := 0, coll := 0,
       deliver := false, outPort := 0, outQueue := 3, outStream := 7, bytes := 64 },
     3, 9, serves (by decide +kernel), by beta_reduce; decide +kernel, by decide +kernel⟩,
    ⟨(fabric {}), 0, serves (by decide +kernel), by rintro ⟨_, _, _, _, h⟩; exact noSome (by decide +kernel) h.2.1,
     by decide +kernel⟩,
    ⟨(formed22 run).setPortSt 0 4, 0, serves (by decide +kernel), by decide +kernel⟩,
    ⟨(fabric {}), 0, serves (by decide +kernel), by decide +kernel⟩,
    ⟨(formed22 run).setPortSt 0 2, 0, serves (by decide +kernel), by decide +kernel⟩,
    ⟨(fabric {}), 0, serves (by decide +kernel), by decide +kernel⟩,
    ⟨st35, 0, List.replicate 70 3, serves (by decide +kernel), by decide +kernel⟩,
    ⟨(fabric {}), 0, List.replicate 70 3, serves (by decide +kernel), by decide +kernel⟩,
    ⟨st35, 0, serves (by decide +kernel), by decide +kernel⟩,
    ⟨(fabric {}), 0, serves (by decide +kernel), by decide +kernel⟩,
    ⟨st36, 0, serves (by decide +kernel), by decide +kernel⟩,
    ⟨(fabric {}), 0, serves (by decide +kernel), by decide +kernel⟩,
    ⟨(formed22 run).setPortSt 0 4, 0, serves (by decide +kernel),
     ⟨by decide +kernel, fun q h => by have := h.1; interval_cases q <;> decide +kernel⟩,
     by decide +kernel⟩,
    ⟨(fabric {}), 0, serves (by decide +kernel),
     fun h => absurd (h.2 0 ⟨by decide, by decide +kernel, rfl⟩) (by decide +kernel),
     by decide +kernel⟩,
    ⟨(fabric {}), 0,
     {
       phys := 1, port := 2, dims := 2 + 2 * 32 + 2048, skip := (formed22 run).rdN rayComPage 0x108, version := 1,
       lastSeq := 4095 },
     by decide +kernel⟩,
    ⟨(fabric {}), 0,
     { phys := 2, port := 2, dims := 2 + 2 * 32 + 2048, skip := 0, version := 1, lastSeq := 4095 },
     by decide +kernel⟩,
    ⟨(fabric {}), 0, by decide +kernel⟩,
    ⟨st36, 0, by decide +kernel⟩,
    ⟨(fabric {}), 0, by decide +kernel⟩,
    ⟨(fabric {}), 0, by decide +kernel⟩,
    ⟨(fabric {}), 1, by decide +kernel⟩,
    ⟨(fabric {}), 0, .operator 1, serves (by decide +kernel), by decide +kernel⟩,
    ⟨(fabric {}), 1, .operator 1, serves (by decide +kernel), by decide +kernel⟩,
    ⟨(fabric {}), 0, .operator 1, serves (by decide +kernel), by decide +kernel⟩⟩

theorem witness_ModuleMapCommandsComplete :
    (∃ (s : State) (o : Origin),
      let a := s.field rayComPage 0x130 31 4 * 16 + s.field rayComPage 0x134 15 0 * 2 ^ 32
      let l := (List.range (s.peekN (a + 4) 2 % 2 ^ 15)).map fun n => s.peekN (a + 16 + 2 * n) 2 % 2 ^ 15
      s.Serves ∧ anyButDebug (roleOf o) = true ∧ s.modmapFree = true ∧ (s.holdState ≠ 3 ∨ s.gn.master = false) ∧ l ≠ [] ∧
      l.length ≤ 20480 ∧ (∀ m ∈ l, m < s.dims.1 * s.dims.2.1 * s.dims.2.2) ∧ l.Nodup) ∧
    (∃ (s : State) (o : Origin),
      let a := s.field rayComPage 0x130 31 4 * 16 + s.field rayComPage 0x134 15 0 * 2 ^ 32
      let l := (List.range (s.peekN (a + 4) 2 % 2 ^ 15)).map fun n => s.peekN (a + 16 + 2 * n) 2 % 2 ^ 15
      s.Serves ∧ anyButDebug (roleOf o) = true ∧ s.modmapFree = true ∧ (s.holdState ≠ 3 ∨ s.gn.master = false) ∧ l = []) :=
  ⟨⟨((formed22 svc).wr rayComPage 0x130 0x1000).setBytes 0x1000 (
       natLe 4 0x504D335A ++ natLe 4 2 ++ natLe 8 0 ++ natLe 2 1 ++ natLe 2 3),
     .operator 1, serves (by decide +kernel), by decide +kernel⟩,
    ⟨formed22 svc, .operator 1, serves (by decide +kernel), by decide +kernel⟩⟩

theorem witness_EventBitsFollowTheirRules :
    (∃ (i : _) (j : _),
      i < 32 ∧ j < 32 ∧ j ≠ i) ∧
    (∃ (s : State) (page : Nat) (o : Origin),
      s.Serves ∧ pageKind page ≠ 0 ∧ (page = agPage → s.ag.caps = [] ∧ s.ag.trigs.length ≤ 16) ∧
      ((pageKind page = kTile → s.spare.opened.contains (page / 36) = false)) ∧ debugOnly (roleOf o) = true) ∧
    (∃ (s : State) (page : Nat) (o : Origin),
      s.Serves ∧ pageKind page ≠ 0 ∧ (page = agPage → s.ag.caps = [] ∧ s.ag.trigs.length ≤ 16) ∧
      ((pageKind page = kTile → s.spare.opened.contains (page / 36) = false)) ∧ debugOnly (roleOf o) = false) ∧
    (∃ (s : State) (page : Nat) (o : Origin),
      s.Serves ∧ pageKind page ≠ 0 ∧ (page = agPage → s.ag.caps = [] ∧ s.ag.trigs.length ≤ 16) ∧
      ((pageKind page = kTile → s.spare.opened.contains (page / 36) = false)) ∧ anyButDebug (roleOf o) = true) :=
  ⟨⟨0, 1, by decide +kernel⟩,
    ⟨st37, 1151, .debug 4, serves (by decide +kernel), by decide +kernel⟩,
    ⟨st37, 1151, .hart 0, serves (by decide +kernel), by decide +kernel⟩,
    ⟨st37, 1151, .hart 0, serves (by decide +kernel), by decide +kernel⟩⟩

theorem witness_RegisterOrdersComplete :
    (∃ (s : State) (w : RegOrder),
      s.Serves ∧ w.off ≠ offEvt) ∧
    (∃ (s : State) (w : RegOrder),
      s.Serves ∧ w.off = offEvt) ∧
    (∃ (s : State) (o : Origin) (page : Nat) (off : Nat) (v : Word),
      let a := s.accept o page off v
      let t := a.2.2
      let f := t.fields (roleOf o) page off v.toNat
      let open_ : Prop := pageKind page = kTile ∧ t.spare.opened.contains (page / 36) = true
      pageAssigned page = true ∧ isCompound page = false ∧ (f.1 = 0 ∨ open_)) ∧
    (∃ (s : State) (o : Origin) (page : Nat) (off : Nat) (v : Word),
      let a := s.accept o page off v
      let t := a.2.2
      let f := t.fields (roleOf o) page off v.toNat
      let open_ : Prop := pageKind page = kTile ∧ t.spare.opened.contains (page / 36) = true
      let may : Prop := t.mayWrite (roleOf o) page off v.toNat = true
      pageAssigned page = true ∧ isCompound page = false ∧ f.1 ≠ 0 ∧ ¬open_ ∧ ¬may) ∧
    (∃ (s : State) (o : Origin) (page : Nat) (off : Nat) (v : Word),
      let a := s.accept o page off v
      let t := a.2.2
      let f := t.fields (roleOf o) page off v.toNat
      let open_ : Prop := pageKind page = kTile ∧ t.spare.opened.contains (page / 36) = true
      let may : Prop := t.mayWrite (roleOf o) page off v.toNat = true
      pageAssigned page = true ∧ isCompound page = false ∧ f.1 ≠ 0 ∧ ¬open_ ∧ may) ∧
    (∃ (s : State) (page : Nat) (o : _),
      s.Serves ∧ page < 0x480 ∧ s.spare.opened.contains (page / 36) = false ∧ anyButDebug (roleOf o) = true) ∧
    (∃ (s : State) (page : Nat) (v : Word),
      s.Serves ∧ page < 0x480 ∧ s.spare.opened.contains (page / 36) = false ∧
      v.toNat &&& 0x3FFFF ≠ s.rdN page offEvtEn &&& 0x3FFFF) ∧
    (∃ (s : State) (page : Nat) (v : Word) (w : Word),
      s.Serves ∧ page < 0x480 ∧ s.spare.opened.contains (page / 36) = false ∧ (v ^^^ w).toNat &&& 0x3FFFF ≠ 0) :=
  ⟨⟨run, { origin := .operator 1, page := 5, off := offEvtEn, value := 7 }, serves (by decide +kernel),
     by decide +kernel⟩,
    ⟨run,
     { origin := .debug 1, page := 1151, off := offEvt, value := 0xFFFFFFFF },
     serves (by decide +kernel), by decide +kernel⟩,
    ⟨run, .operator 1, 5, 0x104, 1, by decide +kernel⟩,
    ⟨run, .operator 1, 5, offControl, 0, by decide +kernel⟩,
    ⟨run, .operator 1, 5, offEvtEn, 1, by decide +kernel⟩,
    ⟨run, 5, .boot, serves (by decide +kernel), by decide +kernel⟩,
    ⟨run, 5, 0x2FFFF, serves (by decide +kernel), by decide +kernel⟩,
    ⟨run, 5, 0x2FFFF, 0x3FFFF, serves (by decide +kernel), by decide +kernel⟩⟩

theorem witness_LatchesAndRecordsComplete :
    (∃ (s : State) (page : _) (off : _),
      s.Serves ∧ pageKind page ≠ 0 ∧ wideOf page off = some (off, 2) ∧ page ≠ agPage ∧ page ≠ jrnlPage ∧
      s.shown page off = false) ∧
    (∃ (s : State) (kind : _),
      s.Serves ∧ s.evtHold.contains kind = false) ∧
    (∃ (s : State) (kind : _),
      let again : Prop := s.evtAgain.contains kind = true ∧ s.hostAttached = true ∧ s.msiAddr ≠ 0
      s.Serves ∧ s.evtHold.contains kind = true ∧ again) ∧
    (∃ (s : State) (kind : _),
      let again : Prop := s.evtAgain.contains kind = true ∧ s.hostAttached = true ∧ s.msiAddr ≠ 0
      s.Serves ∧ s.evtHold.contains kind = true ∧ ¬again) ∧
    (∃ (s : State),
      let ag (a : Ag) : State := { s with ag := a }
      s.Serves ∧ s.ag.caps = []) ∧
    (∃ (s : State) (c : _) (rest : _),
      let ag (a : Ag) : State := { s with ag := a }
      s.Serves ∧ s.ag.caps = c :: rest) ∧
    (∃ (s : State),
      let ag (a : Ag) : State := { s with ag := a }
      s.Serves ∧ (s.ag.keptPend = [] ∨ s.ag.clearing = true)) ∧
    (∃ (s : State) (n : _) (rest : _),
      let ag (a : Ag) : State := { s with ag := a }
      s.Serves ∧ s.ag.keptPend = n :: rest ∧ s.ag.clearing = false ∧ sfind s.ag.circ (n % 16384) = none) ∧
    (∃ (s : State) (n : _) (rest : _) (r : _),
      let ag (a : Ag) : State := { s with ag := a }
      s.Serves ∧ s.ag.keptPend = n :: rest ∧ s.ag.clearing = false ∧ sfind s.ag.circ (n % 16384) = some r ∧ n ≠ 4095) ∧
    (∃ (s : State) (n : _) (rest : _) (r : _),
      let ag (a : Ag) : State := { s with ag := a }
      s.Serves ∧ s.ag.keptPend = n :: rest ∧ s.ag.clearing = false ∧ sfind s.ag.circ (n % 16384) = some r ∧ n = 4095) ∧
    (∃ (s : State),
      let ag (a : Ag) : State := { s with ag := a }
      s.Serves ∧ s.ag.clearing = true ∧ s.ag.clearReq = []) ∧
    (∃ (s : State) (n : _) (rest : _),
      let ag (a : Ag) : State := { s with ag := a }
      s.Serves ∧ s.ag.clearing = true ∧ s.ag.clearReq = n :: rest) :=
  ⟨⟨run, 1151, 640, serves (by decide +kernel), by decide +kernel⟩,
    ⟨run, 0, serves (by decide +kernel), by decide +kernel⟩,
    ⟨((({ run with evtHold := [3], evtAgain := [3] } : State).wr hostPage offStatus 1).wr hostPage 0x184 0x40),
     3, serves (by decide +kernel), by decide +kernel⟩,
    ⟨{ run with evtHold := [3, 4] }, 3, serves (by decide +kernel), by decide +kernel⟩,
    ⟨run, serves (by decide +kernel), by decide +kernel⟩,
    ⟨{ run with ag := { caps := [{ trig := 31, page := 1151, bit := 3, set := 31, gt := 77 }], next := 16384 } },
     { trig := 31, page := 1151, bit := 3, set := 31, gt := 77, unlocked := false },
     [], serves (by decide +kernel), by decide +kernel⟩,
    ⟨run, serves (by decide +kernel), by decide +kernel⟩,
    ⟨{ run with ag := { keptPend := [5] } }, 5, [], serves (by decide +kernel), by decide +kernel⟩,
    ⟨{ run with ag := { keptPend := [5], circ := [(5, { code := 0x1000 })] } },
     5, [],
     { code := 4096, lost := false, unlocked := false, gt := 0, p := [], payload := [] },
     serves (by decide +kernel), by decide +kernel⟩,
    ⟨{ run with ag := { keptPend := [4095, 4], circ := [(4095, { code := 0x1000 })], circN := [(4095, 4095)] } },
     4095, [4],
     { code := 4096, lost := false, unlocked := false, gt := 0, p := [], payload := [] },
     serves (by decide +kernel), by decide +kernel⟩,
    ⟨{ run with ag := { clearing := true, kept := [(3, { code := 0x1000 })] } },
     serves (by decide +kernel), by decide +kernel⟩,
    ⟨{ run with ag := { clearing := true, clearReq := [3, 4], next := 99 } },
     3, [4], serves (by decide +kernel), by decide +kernel⟩⟩

theorem witness_DebugAccessCompletes :
    (∃ (s : State) (o : Origin) (t : Nat) (k : Nat) (j : Nat) (i : _),
      let closed : Prop := s.spare.opened.contains (t / 36) = false
      s.Serves ∧ t < 1152 ∧ k < 2304 ∧ j < 8 ∧ closed ∧ anyButDebug (roleOf o) = true ∧ i < 48) ∧
    (∃ (s : State) (o : Origin) (t : Nat) (k : Nat) (j : Nat),
      let closed : Prop := s.spare.opened.contains (t / 36) = false
      s.Serves ∧ t < 1152 ∧ k < 2304 ∧ j < 8 ∧ closed ∧ debugOnly (roleOf o) = true) ∧
    (∃ (s : State) (t : Nat) (k : Nat) (j : Nat),
      let closed : Prop := s.spare.opened.contains (t / 36) = false
      s.Serves ∧ t < 1152 ∧ k < 2304 ∧ j < 8 ∧ closed ∧ s.debugMode t = true) ∧
    (∃ (s : State) (t : Nat) (k : Nat) (j : Nat),
      let acc := s.field t 0x300 3 0
      let open_ : Prop := s.debugMode t = true ∧ (s.tile t).dbgRow = none ∧ ∀ r ∈ (s.tile t).rescale, r.acc ≠ acc
      s.Serves ∧ t < 1152 ∧ k < 2304 ∧ j < 8 ∧ open_) ∧
    (∃ (s : State) (t : Nat) (k : Nat) (j : Nat),
      let acc := s.field t 0x300 3 0
      let open_ : Prop := s.debugMode t = true ∧ (s.tile t).dbgRow = none ∧ ∀ r ∈ (s.tile t).rescale, r.acc ≠ acc
      s.Serves ∧ t < 1152 ∧ k < 2304 ∧ j < 8 ∧ ¬open_) ∧
    (∃ (s : State) (o : Origin) (t : Nat) (k : Nat) (j : Nat),
      s.Serves ∧ t < 1152 ∧ k < 2304 ∧ j < 8 ∧ debugOnly (roleOf o) = true ∧ s.flag mgmtPage 0x108 2 = true ∧
      s.adm.active = none) ∧
    (∃ (s : State) (o : Origin) (t : Nat) (k : Nat) (j : Nat) (l : _) (w : _),
      let page := slicePage k
      let may := debugOnly (roleOf o) = true ∨ operatorOnly (roleOf o) = true
      s.Serves ∧ t < 1152 ∧ k < 2304 ∧ j < 8 ∧ may ∧ s.flag page offControl 3 = true ∧ s.chkWord k = some (l, w) ∧
      ((∀ e ∈ (s.slice k).merge, e.seg / 4 ≠ l.line))) ∧
    (∃ (s : State) (o : Origin) (t : Nat) (k : Nat) (j : Nat) (n : _),
      let page := slicePage k
      let may := debugOnly (roleOf o) = true ∨ operatorOnly (roleOf o) = true
      s.Serves ∧ t < 1152 ∧ k < 2304 ∧ j < 8 ∧ may ∧ s.flag page offControl 3 = true ∧ s.chkWord k = none ∧
      n ∈ ([1, 2] : List Word)) ∧
    (∃ (s : State) (o : Origin) (t : Nat) (k : Nat) (j : Nat) (g : _) (i : _),
      let sp := stackPage j
      let may := debugOnly (roleOf o) = true ∨ operatorOnly (roleOf o) = true
      s.Serves ∧ t < 1152 ∧ k < 2304 ∧ j < 8 ∧ may ∧ s.flag sp offControl 1 = true ∧ s.chkGranule j = some g ∧ i < 16) ∧
    (∃ (s : State) (o : Origin) (t : Nat) (k : Nat) (j : Nat) (g : _) (h : _),
      let sp := stackPage j
      let may := debugOnly (roleOf o) = true ∨ operatorOnly (roleOf o) = true
      s.Serves ∧ t < 1152 ∧ k < 2304 ∧ j < 8 ∧ may ∧ s.flag sp offControl 1 = true ∧ s.chkGranule j = some g ∧ h ≠ g) :=
  ⟨⟨st38, .hart 1, 0, homeK 16, stackOf 64, 0, serves (by decide +kernel), by decide +kernel⟩,
    ⟨st38, .debug 1, 0, homeK 16, stackOf 64, serves (by decide +kernel), by decide +kernel⟩,
    ⟨st39, 0, homeK 16, stackOf 64, serves (by decide +kernel), by decide +kernel⟩,
    ⟨st39, 0, homeK 16, stackOf 64, serves (by decide +kernel), by decide +kernel⟩,
    ⟨st38, 0, homeK 16, stackOf 64, serves (by decide +kernel), by decide +kernel⟩,
    ⟨((svc.wr mgmtPage 0x108 4)), .debug 1, 0, homeK 16, stackOf 64, serves (by decide +kernel), by decide +kernel⟩,
    ⟨(
       (
         (withSlice 16 { lines := [cleanLine 16] }).wr (slicePage (homeK 16)) offControl 8
       ).wr (slicePage (homeK 16)) 0x200 0x10F8),
     .debug 1, 0, homeK 16, stackOf 64,
     {
       line := 16, set := 81, way := 0, st := .clean, pin := false, poison := 0,
       data := (List.replicate 256 0x09#8), chk := [], joined := [] },
     31, serves (by decide +kernel), by decide +kernel⟩,
    ⟨(
       (
         (withSlice 16 { lines := [cleanLine 16] }).wr (slicePage (homeK 16)) offControl 8
       ).wr (slicePage (homeK 16)) 0x200 0x20F8),
     .debug 1, 0, homeK 16, stackOf 64, 0x00000001#32, serves (by decide +kernel), by decide +kernel⟩,
    ⟨st40, .debug 1, 0, homeK 16, stackOf 64, 64, 0, serves (by decide +kernel), by decide +kernel⟩,
    ⟨st40, .debug 1, 0, homeK 16, stackOf 64, 64, 0, serves (by decide +kernel), by decide +kernel⟩⟩

theorem witness_PowerEventsComplete :
    (∃ (s : State),
      let page := powPage
      let v := if s.flag inPage offStatus 2 then s else s.setFlag page offStatus duskAlert false
      let stays : Prop := s.dusk = false ∨ v.duskCauses ≠ 0
      s.Serves ∧ stays) ∧
    (∃ (s : State),
      let page := powPage
      let v := if s.flag inPage offStatus 2 then s else s.setFlag page offStatus duskAlert false
      let stays : Prop := s.dusk = false ∨ v.duskCauses ≠ 0
      s.Serves ∧ ¬stays) ∧
    (∃ (s : State),
      let hot := avgAbove s.pow.powers 10000 s.budgetW || avgAbove s.pow.powers 100 1380
      s.Serves ∧ hot = true ∧ s.throttle = 0) ∧
    (∃ (s : State),
      let hot := avgAbove s.pow.powers 10000 s.budgetW || avgAbove s.pow.powers 100 1380
      s.Serves ∧ hot = true ∧ s.throttle ≠ 0) ∧
    (∃ (s : State),
      let hot := avgAbove s.pow.powers 10000 s.budgetW || avgAbove s.pow.powers 100 1380
      s.Serves ∧ hot = false) ∧
    (∃ (s : State) (d : _),
      s.Serves ∧ d < 48 ∧ (d = 0 ∨ (37 ≤ d ∧ d ≠ 46))) ∧
    (∃ (s : State) (d : _),
      s.Serves ∧ d < 48 ∧ (d = 33 ∨ d = 35)) ∧
    (∃ (s : State) (d : _),
      s.Serves ∧ d < 48 ∧ (d = 34 ∨ d = 36)) ∧
    (∃ (s : State) (d : _),
      s.Serves ∧ d < 48 ∧ d = 46) ∧
    (∃ (s : State) (d : _) (u : _),
      let page := powPage
      let t := ((s.raise page 5).agRecord 0x200D [d]).setPg d false
      let out := t.tileSwitch (d - 1) false
      s.Serves ∧ out.replaceRowSites (d - 1) 3 = some u ∧ d < 48 ∧ 1 ≤ d ∧ d ≤ 32) ∧
    (∃ (s : State) (d : _),
      let page := powPage
      let t := ((s.raise page 5).agRecord 0x200D [d]).setPg d false
      let out := t.tileSwitch (d - 1) false
      s.Serves ∧ d < 48 ∧ 1 ≤ d ∧ d ≤ 32 ∧ out.replaceRowSites (d - 1) 3 = none) ∧
    (∃ (s : State) (c : Nat),
      (c = duskSupply ∨ c = duskAlert ∨ c = duskThermal) ∧ s.dusk = true) ∧
    (∃ (s : State) (c : Nat),
      (c = duskSupply ∨ c = duskAlert ∨ c = duskThermal) ∧ s.dusk = false ∧ s.adm.active.isSome = true) :=
  ⟨⟨run, serves (by decide +kernel), by decide +kernel⟩,
    ⟨{ run with dusk := true }, serves (by decide +kernel), by decide +kernel⟩,
    ⟨{ run with pow := { off := false, powers := List.replicate 10000 (3600*900000) } },
     serves (by decide +kernel), by decide +kernel⟩,
    ⟨(
       (
         { run with pow := { off := false, powers := List.replicate 10000 (3600*900000) } }).wr powPage offStatus 0x10),
     serves (by decide +kernel), by decide +kernel⟩,
    ⟨run, serves (by decide +kernel), by decide +kernel⟩,
    ⟨run, 0, serves (by decide +kernel), by decide +kernel⟩,
    ⟨run, 33, serves (by decide +kernel), by decide +kernel⟩,
    ⟨run, 34, serves (by decide +kernel), by decide +kernel⟩,
    ⟨run, 46, serves (by decide +kernel), by decide +kernel⟩,
    ⟨{ run with map := (rowSites 0).map fun t => (t, { tile := 0, st := 3 }) },
     1, _, serves (by decide +kernel), (Option.some_get (by decide +kernel)).symm, by decide +kernel⟩,
    ⟨{ run with map := (List.range 128).map fun i => (1024 + i, { tile := 0, st := 3 }) },
     1, serves (by decide +kernel), by decide +kernel⟩,
    ⟨{ run with dusk := true }, 2, by decide +kernel⟩,
    ⟨run, 2, by decide +kernel⟩⟩

theorem witness_SpotlightAndHeatComplete :
    (∃ (s : State) (p : Nat),
      let pow (x : Power) : State := { s with pow := x }
      let frame := s.gn.frame
      let now : Prop := s.gn.running = true ∧ frame % 16 = 0 ∧ s.pow.demandAt ≠ some (frame / 16) ∧ s.spotOn = true
      s.Serves ∧ p < 16 ∧ now) ∧
    (∃ (s : State) (p : Nat),
      let pow (x : Power) : State := { s with pow := x }
      let frame := s.gn.frame
      let now : Prop := s.gn.running = true ∧ frame % 16 = 0 ∧ s.pow.demandAt ≠ some (frame / 16) ∧ s.spotOn = true
      s.Serves ∧ p < 16 ∧ ¬now) ∧
    (∃ (s : State) (p : Nat),
      let pow (x : Power) : State := { s with pow := x }
      let frame := s.gn.frame
      let floor := s.field powPage 0x110 10 0
      let may : Prop := s.gn.running = true ∧ frame % 16 = 1 ∧ s.pow.demandAt = some (frame / 16) ∧ s.pow.granted = false ∧
        s.spotOn = true ∧ s.pow.need < s.tokens ∧ floor < s.tokens
      let asks (x : Nat × SpotMsg) : Prop := x ∈ s.pow.demands ∧ s.pow.lowLast < x.2.demand ∧ s.portUp x.1 = true
      s.Serves ∧ p < 16 ∧ may ∧ (∃ x, asks x)) ∧
    (∃ (s : State) (p : Nat),
      let pow (x : Power) : State := { s with pow := x }
      let frame := s.gn.frame
      let floor := s.field powPage 0x110 10 0
      let may : Prop := s.gn.running = true ∧ frame % 16 = 1 ∧ s.pow.demandAt = some (frame / 16) ∧ s.pow.granted = false ∧
        s.spotOn = true ∧ s.pow.need < s.tokens ∧ floor < s.tokens
      let asks (x : Nat × SpotMsg) : Prop := x ∈ s.pow.demands ∧ s.pow.lowLast < x.2.demand ∧ s.portUp x.1 = true
      s.Serves ∧ p < 16 ∧ (¬may ∨ (¬∃ x, asks x))) ∧
    (∃ (s : State) (p : Nat) (m : SpotMsg) (c : _),
      s.Serves ∧ p < 16 ∧ s.portUp p = false ∧ c ∈ [Instr.demand p m, .grant p m, .spotlightAck p m, .tokenReport p m]) ∧
    (∃ (s : State) (p : Nat) (m : SpotMsg) (g : _) (rest : _),
      let pow (x : Power) : State := { s with pow := x }
      s.Serves ∧ p < 16 ∧ s.portUp p = true ∧
      takeFirst (fun (g : Grant) => g.gseq == m.gseq) s.pow.grants = some (g, rest)) ∧
    (∃ (s : State) (p : Nat) (m : SpotMsg),
      let pow (x : Power) : State := { s with pow := x }
      s.Serves ∧ p < 16 ∧ s.portUp p = true ∧ (∀ g ∈ s.pow.grants, g.gseq ≠ m.gseq)) ∧
    (∃ (s : State) (p : Nat),
      let pow (x : Power) : State := { s with pow := x }
      s.Serves ∧ p < 16 ∧ s.pow.own = none) ∧
    (∃ (s : State) (p : Nat) (o : _),
      let pow (x : Power) : State := { s with pow := x }
      s.Serves ∧ p < 16 ∧ s.pow.own = some o ∧ (∃ q ∈ s.kidPorts, ∀ e ∈ s.pow.kids, e.1 = q → e.2.period ≠ o.period)) ∧
    (∃ (s : State) (p : Nat) (o : _),
      let pow (x : Power) : State := { s with pow := x }
      s.Serves ∧ ((∀ q ∈ s.kidPorts, ∃ e, s.pow.kids.find? (fun e => e.1 == q && e.2.period == o.period) = some e)) ∧
      p < 16 ∧ s.pow.own = some o ∧ s.gn.master = true ∧ s.kidPorts = [] ∧ s.modules = o.count ∧ o.unsettled = false ∧
      o.sumH ≠ o.sumBase) ∧
    (∃ (s : State) (p : Nat) (o : _),
      s.Serves ∧ p < 16 ∧ (operatorOnly (roleOf o) = true ∨ roleOf o = .host)) :=
  ⟨⟨st41, 3, serves (by decide +kernel), by decide +kernel⟩,
    ⟨st42, 3, serves (by decide +kernel), by decide +kernel⟩,
    ⟨st42, 3, serves (by decide +kernel), by decide +kernel⟩,
    ⟨st41, 3, serves (by decide +kernel), by decide +kernel⟩,
    ⟨st41, 5,
     {
       unsettled := false, period := 7, gseq := 4, tokens := 100, count := 1, demand := 9, need := 5, sumH := 0,
       sumBase := 0 },
     Sys2Proof.Instr.demand 5 {
       unsettled := false, period := 7, gseq := 4, tokens := 100, count := 1, demand := 9, need := 5, sumH := 0,
       sumBase := 0 },
     serves (by decide +kernel), by decide +kernel⟩,
    ⟨(
       (
         { withUp (run) [3] with
           gn := { running := true, frame := 16 },
           pow := { off := false , grants := [{ port := 3, gseq := 4, tokens := 100 }] } } : State).wr powPage offControl 1),
     3,
     {
       unsettled := false, period := 7, gseq := 4, tokens := 100, count := 1, demand := 9, need := 5, sumH := 0,
       sumBase := 0 },
     { port := 3, gseq := 4, tokens := 100 }, [], serves (by decide +kernel), by decide +kernel⟩,
    ⟨st41, 3,
     {
       unsettled := false, period := 7, gseq := 4, tokens := 100, count := 1, demand := 9, need := 5, sumH := 0,
       sumBase := 0 },
     serves (by decide +kernel), by decide +kernel⟩,
    ⟨st41, 3, serves (by decide +kernel), by decide +kernel⟩,
    ⟨(
       (
         { withUp (run) [3] with
           gn := { running := true, subs := [(3, {})] },
           pow := {
             off := false,
             own := some {
               unsettled := false, period := 7, gseq := 4, tokens := 100, count := 1, demand := 9, need := 5,
               sumH := 0, sumBase := 0 } } } : State).wr powPage offControl 1),
     3,
     {
       unsettled := false, period := 7, gseq := 4, tokens := 100, count := 1, demand := 9, need := 5, sumH := 0,
       sumBase := 0 },
     serves (by decide +kernel), by decide +kernel⟩,
    ⟨(
       (
         { run with
           gn := { running := true, master := true },
           pow := {
             off := false,
             own := some {
               unsettled := false, period := 7, gseq := 4, tokens := 100, count := run.modules, demand := 9,
               need := 5, sumH := 0, sumBase := 3 } } } : State).wr powPage offControl 1),
     3,
     {
       unsettled := false, period := 7, gseq := 4, tokens := 100, count := 1, demand := 9, need := 5, sumH := 0,
       sumBase := 3 },
     serves (by decide +kernel), noneOf (by decide +kernel), by decide +kernel⟩,
    ⟨st41, 3, .boot, serves (by decide +kernel), by decide +kernel⟩⟩

theorem witness_HoldsComplete :
    (∃ (s : State) (p : Nat),
      let pen (u : State) (x : Pen) : State := { u with pen := x }
      let due : Prop := s.gn.running = true ∧ s.gn.frame % 64 = 0 ∧ s.pen.sampleAt ≠ some s.gn.frame
      s.Serves ∧ p < 16 ∧ due) ∧
    (∃ (s : State) (p : Nat),
      let pen (u : State) (x : Pen) : State := { u with pen := x }
      let due : Prop := s.gn.running = true ∧ s.gn.frame % 64 = 0 ∧ s.pen.sampleAt ≠ some s.gn.frame
      s.Serves ∧ p < 16 ∧ ¬due) ∧
    (∃ (s : State) (p : Nat),
      s.Serves ∧ p < 16 ∧ s.portUp p = false) ∧
    (∃ (s : State) (p : Nat),
      s.Serves ∧ p < 16 ∧ s.portUp p = true) ∧
    (∃ (s : State) (p : Nat),
      s.Serves ∧ p < 16 ∧ s.gn.upstream = none) ∧
    (∃ (s : State) (p : Nat) (m : PenumbraMsg) (q : _),
      let down := (s.ctrlIn q).penDown 0 m
      s.Serves ∧ p < 16 ∧ s.gn.upstream = some q ∧ (down.holdState ≠ 0 ∨ down.adm.active = none)) ∧
    (∃ (s : State) (p : Nat) (m : PenumbraMsg) (q : _),
      let down := (s.ctrlIn q).penDown 0 m
      s.Serves ∧ p < 16 ∧ s.gn.upstream = some q ∧ down.holdState = 0 ∧ down.adm.active.isSome = true) ∧
    (∃ (s : State) (o : Origin) (i : _),
      s.Serves ∧ operatorOnly (roleOf o) = true ∧ s.flag penPage offControl 1 = false ∧ s.adm.active = some i ∧
      s.gn.master = true ∧ s.gn.running = true ∧ s.holdState = 0 ∧ s.pen.kids = [] ∧ s.deadPorts = [] ∧
      s.pen.failed = false ∧ bit s.pen.cause 7 = false) ∧
    (∃ (i : Nat) (answered : Bool),
      i < 11 ∧ answered = false) ∧
    (∃ (i : Nat) (answered : Bool),
      i < 11 ∧ answered = true ∧ windowed i = true) ∧
    (∃ (i : Nat) (answered : Bool),
      i < 11 ∧ answered = true ∧ windowed i = false) ∧
    (∃ (s : State),
      s.Serves ∧ s.holdDue = false) ∧
    (∃ (s : State),
      s.Serves ∧ s.holdDue = true ∧ s.pen.restore = false) ∧
    (∃ (s : State),
      s.Serves ∧ s.holdDue = true ∧ s.pen.restore = true) ∧
    (∃ (s : State),
      let pen (u : State) (x : Pen) : State := { u with pen := x }
      let due : Prop := s.holdState = 2 ∧ ∃ f, s.pen.fh = some f ∧ f ≤ s.gn.frame
      s.Serves ∧ ¬due) ∧
    (∃ (s : State),
      let pen (u : State) (x : Pen) : State := { u with pen := x }
      let due : Prop := s.holdState = 2 ∧ ∃ f, s.pen.fh = some f ∧ f ≤ s.gn.frame
      s.Serves ∧ due) ∧
    (∃ (s : State),
      let pen (u : State) (x : Pen) : State := { u with pen := x }
      let due (j : SnapJob) : Prop := s.pen.snap = some j ∧ s.adm.active.isSome = true ∧ (j.later = [] ∨ s.holdState = 0)
      s.Serves ∧ (¬∃ j, due j)) ∧
    (∃ (s : State) (j : _),
      let pen (u : State) (x : Pen) : State := { u with pen := x }
      let due (j : SnapJob) : Prop := s.pen.snap = some j ∧ s.adm.active.isSome = true ∧ (j.later = [] ∨ s.holdState = 0)
      s.Serves ∧ due j) ∧
    (∃ (s : State),
      let pen (u : State) (x : Pen) : State := { u with pen := x }
      s.Serves ∧ s.pen.draining = none) ∧
    (∃ (s : State) (n : _),
      let pen (u : State) (x : Pen) : State := { u with pen := x }
      s.Serves ∧ s.pen.draining = some n ∧ s.drainOpen = true) ∧
    (∃ (s : State) (n : _),
      let pen (u : State) (x : Pen) : State := { u with pen := x }
      s.Serves ∧ s.pen.draining = some n ∧ s.drainOpen = false) :=
  ⟨⟨withUp run [3], 3, serves (by decide +kernel), by decide +kernel⟩,
    ⟨st43, 3, serves (by decide +kernel), by decide +kernel⟩,
    ⟨withUp run [3], 5, serves (by decide +kernel), by decide +kernel⟩,
    ⟨withUp run [3], 3, serves (by decide +kernel), by decide +kernel⟩,
    ⟨withUp run [3], 3, serves (by decide +kernel), by decide +kernel⟩,
    ⟨{ withUp run [3] with gn := { running := true, upstream := some 3 }, adm := {} },
     3,
     {
       cause := 0, count := 0, score := 70000, deadSeen := false, fail := false, step := 3, frame := 8, tUs := 0,
       holdNo := 2 },
     3, serves (by decide +kernel), by decide +kernel⟩,
    ⟨{ run with gn := { running := true, upstream := some 3 } }, 3,
     {
       cause := 0, count := 0, score := 70000, deadSeen := false, fail := false, step := 3, frame := 8, tUs := 0,
       holdNo := 2 },
     3, serves (by decide +kernel), by decide +kernel⟩,
    ⟨st43, .boot, img, serves (by decide +kernel), by decide +kernel⟩,
    ⟨0, false, by decide +kernel⟩,
    ⟨0, true, by decide +kernel⟩,
    ⟨4, true, by decide +kernel⟩,
    ⟨withUp run [3], serves (by decide +kernel), by decide +kernel⟩,
    ⟨(
       { run with pen := { fh := some 3, ordNo := 6 }, gn := { running := true, frame := 3 }, adm := {} } : State).setHold 1,
     serves (by decide +kernel), by decide +kernel⟩,
    ⟨(
       { run with pen := { fh := some 3, restore := true }, gn := { running := true, frame := 3 } } : State).setHold 3,
     serves (by decide +kernel), by decide +kernel⟩,
    ⟨withUp run [3], serves (by decide +kernel), by decide +kernel⟩,
    ⟨({ run with pen := { fh := some 3 }, gn := { running := true, frame := 3 } } : State).setHold 2,
     serves (by decide +kernel), by decide +kernel⟩,
    ⟨withUp run [3], serves (by decide +kernel), by decide +kernel⟩,
    ⟨{ run with pen := { snap := some { slot := 1, no := 3, step := 4, later := [], bytes := 0 } } },
     { slot := 1, no := 3, step := 4, later := [], bytes := 0 }, serves (by decide +kernel), by decide +kernel⟩,
    ⟨withUp run [3], serves (by decide +kernel), by decide +kernel⟩,
    ⟨{ run with pen := { draining := some 1 }, ray := { reqs := [{ tag := 1, dst := 9, want := .partner 0 }] } },
     1, serves (by decide +kernel), by decide +kernel⟩,
    ⟨{ run with pen := { draining := some 1 } }, 1, serves (by decide +kernel), by decide +kernel⟩⟩

theorem witness_RestoresComplete :
    (∃ (s : State) (p : Nat),
      s.Serves ∧ p < 16 ∧ (3 ≤ s.holdState ∨ (s.steps.rollTo = false ∧ s.gn.upstream = none))) ∧
    (∃ (s : State) (p : Nat),
      s.Serves ∧ p < 16 ∧ s.holdState < 3 ∧ s.steps.rollTo = true) ∧
    (∃ (s : State) (p : Nat) (q : _),
      s.Serves ∧ p < 16 ∧ s.holdState < 3 ∧ s.steps.rollTo = false ∧ s.gn.upstream = some q) ∧
    (∃ (s : State) (p : Nat),
      let pen (u : State) (x : Pen) : State := { u with pen := x }
      let late : Prop := s.gn.master = true ∧ s.holdState = 1 ∧ ∃ f, s.pen.fh = some f ∧ f + 8192 ≤ s.gn.frame
      s.Serves ∧ p < 16 ∧ late) ∧
    (∃ (s : State) (p : Nat),
      let pen (u : State) (x : Pen) : State := { u with pen := x }
      let late : Prop := s.gn.master = true ∧ s.holdState = 1 ∧ ∃ f, s.pen.fh = some f ∧ f + 8192 ≤ s.gn.frame
      s.Serves ∧ p < 16 ∧ ¬late) ∧
    (∃ (s : State) (p : Nat),
      s.Serves ∧ p < 16 ∧ s.portUp p = false) ∧
    (∃ (s : State) (p : Nat),
      s.Serves ∧ p < 16 ∧ s.portUp p = true) ∧
    (∃ (s : State) (p : Nat),
      s.Serves ∧ p < 16 ∧ s.gn.upstream = none) ∧
    (∃ (s : State) (p : Nat) (q : _),
      s.Serves ∧ p < 16 ∧ s.gn.upstream = some q ∧ s.holdState ≠ 3) ∧
    (∃ (s : State) (p : Nat) (q : _),
      s.Serves ∧ p < 16 ∧ s.gn.upstream = some q ∧ s.holdState = 3) ∧
    (∃ (s : State) (o : Origin),
      s.Serves ∧ operatorOnly (roleOf o) = true ∧ s.flag penPage offControl 0 = false ∧ s.gn.master = false ∧
      s.holdState < 3) ∧
    (∃ (s : State),
      3 ≤ s.holdState) ∧
    (∃ (s : State),
      s.holdState < 3 ∧ s.gn.master = false) ∧
    (∃ (s : State),
      let start (f : Nat) : Option Nat := match s.gn.dec with
        | some x => if x.frame + 1 = f then some x.next else none
        | none => none
      let due (f : Nat) : Prop := if s.gn.running then f ≤ s.gn.frame else ∃ x, start f = some x ∧ x ≤ s.gn.count
      let ready (c : Cand) (i : Image) : Prop := s.pen.pick = some c ∧ s.restoreImage = some i ∧
        (∃ f, s.pen.fh = some f ∧ due f) ∧ s.holdState = 4 ∧ s.restoreIn = true
      s.Serves ∧ (¬∃ c i, ready c i)) ∧
    (∃ (s : State) (c : _) (i : _),
      let start (f : Nat) : Option Nat := match s.gn.dec with
        | some x => if x.frame + 1 = f then some x.next else none
        | none => none
      let due (f : Nat) : Prop := if s.gn.running then f ≤ s.gn.frame else ∃ x, start f = some x ∧ x ≤ s.gn.count
      let ready (c : Cand) (i : Image) : Prop := s.pen.pick = some c ∧ s.restoreImage = some i ∧
        (∃ f, s.pen.fh = some f ∧ due f) ∧ s.holdState = 4 ∧ s.restoreIn = true
      let r := s.restoreData c
      s.Serves ∧ ready c i ∧ snapFits i r.1 = false ∧ s.gn.master = false) ∧
    (∃ (s : State) (c : _) (i : _),
      let start (f : Nat) : Option Nat := match s.gn.dec with
        | some x => if x.frame + 1 = f then some x.next else none
        | none => none
      let due (f : Nat) : Prop := if s.gn.running then f ≤ s.gn.frame else ∃ x, start f = some x ∧ x ≤ s.gn.count
      let ready (c : Cand) (i : Image) : Prop := s.pen.pick = some c ∧ s.restoreImage = some i ∧
        (∃ f, s.pen.fh = some f ∧ due f) ∧ s.holdState = 4 ∧ s.restoreIn = true
      let r := s.restoreData c
      s.Serves ∧ ready c i ∧ snapFits i r.1 = true) :=
  ⟨⟨(run0 fun x => { x with cc := [(1, { base := 1 })] }), 3, serves (by decide +kernel), by decide +kernel⟩,
    ⟨st44, 3, serves (by decide +kernel), by decide +kernel⟩,
    ⟨{ run with gn := { running := true, upstream := some 3 } }, 3, 3, serves (by decide +kernel), by decide +kernel⟩,
    ⟨(
       (
         (
           { run with
             pen := { fh := some 3 }, ray := { map := some [svc.phys] },
             gn := { running := true, master := true, frame := 8195 } } : State).setHold 1
       ).setBytes 0 [0x5A,0x53,0x4E,0x50,1,0]).setBytes 0xA0 [1],
     3, serves (by decide +kernel), by decide +kernel⟩,
    ⟨st44, 3, serves (by decide +kernel), by decide +kernel⟩,
    ⟨st44, 3, serves (by decide +kernel), by decide +kernel⟩,
    ⟨withUp run [3], 3, serves (by decide +kernel), by decide +kernel⟩,
    ⟨st44, 3, serves (by decide +kernel), by decide +kernel⟩,
    ⟨{ run with gn := { running := true, upstream := some 3 } }, 3, 3, serves (by decide +kernel), by decide +kernel⟩,
    ⟨st45, 3, 3, serves (by decide +kernel), by decide +kernel⟩,
    ⟨st44, .boot, serves (by decide +kernel), by decide +kernel⟩,
    ⟨st45, by decide +kernel⟩,
    ⟨st44, by decide +kernel⟩,
    ⟨st44, serves (by decide +kernel), by rintro ⟨_, _, h, _⟩; exact noSome (by decide +kernel) h⟩,
    ⟨(
       (
         { run with
           pen := {
             fh := some 3, pick := some { step := 9, bytes := 0, place := 2 },
             buf := [(0, sound (snapHead.map (· + 1)))], restore := true },
           gn := { running := true, frame := 3 } } : State).setHold 4),
     { step := 9, bytes := 0, place := 2 }, img, serves (by decide +kernel), by decide +kernel⟩,
    ⟨(
       (
         { run with
           pen := {
             fh := some 3, pick := some { step := 9, bytes := 0, place := 2 }, buf := [(0, sound (snapHead))],
             restore := true },
           gn := { running := true, frame := 3 } } : State).setHold 4),
     { step := 9, bytes := 0, place := 2 }, img, serves (by decide +kernel), by decide +kernel⟩⟩

theorem witness_SparingCompletes :
    (∃ (s : State) (o : Origin) (n : _),
      s.Serves ∧ n ∈ ([1, 2, 3, 4, 5, 6] : List Word) ∧ (anyButDebug (roleOf o) = false ∨ s.stageCmd n.toNat = none)) ∧
    (∃ (s : State) (o : Origin) (m : _),
      let t := s.field sparePage 0x100 10 0
      let st := (s.siteEnt t).st
      let may : Prop := anyButDebug (roleOf o) = true ∧ t < 1152
      s.Serves ∧ moveTiles 2 [t] [t] s.mapBase = some m ∧ may ∧ (mapEnt s.mapBase t).st = 0 ∧ s.fuseOk 0 = true) ∧
    (∃ (s : State) (o : Origin) (m : _),
      let t := s.field sparePage 0x100 10 0
      let r := t / 36
      let may : Prop := anyButDebug (roleOf o) = true ∧ t < 1152
      s.Serves ∧ moveTiles 2 (rowSites r) (rowSites r) s.mapBase = some m ∧ may ∧ s.spare.opened.contains r = false ∧
      s.spare.toOpen.contains r = false ∧ s.fuseOk 0 = true) ∧
    (∃ (s : State) (o : Origin),
      let t := s.field sparePage 0x100 10 0
      let r := t / 36
      let st := (s.siteEnt t).st
      let may : Prop := anyButDebug (roleOf o) = true ∧ t < 1152
      s.Serves ∧ may ∧ 2 ≤ st ∧ s.spare.opened.contains r = false ∧ s.spare.test = none) ∧
    (∃ (s : State) (o : Origin),
      let t := s.field sparePage 0x100 10 0
      let r := t / 36
      let may : Prop := anyButDebug (roleOf o) = true ∧ t < 1152
      s.Serves ∧ may ∧ s.outSites r ≠ [] ∧ s.spare.test = none) ∧
    (∃ (s : State) (o : Origin),
      let t := s.field sparePage 0x100 10 0
      let r := t / 36
      let st := (s.siteEnt t).st
      let may : Prop := anyButDebug (roleOf o) = true ∧ t < 1152
      s.Serves ∧ may ∧ st ≠ 3 ∧ (st ≠ 0 ∨ s.adm.active = none) ∧ s.spare.opened.contains r = false ∧ s.spare.test = none) ∧
    (∃ (s : State) (o : Origin),
      let t := s.field sparePage 0x100 10 0
      let may : Prop := anyButDebug (roleOf o) = true ∧ t < 1152
      s.Serves ∧ may ∧ s.spare.staged.isSome = true) ∧
    (∃ (s : State),
      s.Serves ∧ s.spare.test = none) ∧
    (∃ (s : State) (x : _),
      s.Serves ∧ s.spare.test = some x ∧ x.readmit = true) ∧
    (∃ (s : State) (x : _),
      s.Serves ∧ s.spare.test = some x ∧ x.readmit = false) ∧
    (∃ (s : State),
      s.gn.running = true) ∧
    (∃ (s : State) (t : Nat),
      s.gn.running = false ∧ t < 1152 ∧ s.spare.staged = none) :=
  ⟨⟨run.wr sparePage 0x100 1023, .ring 2, 0x00000003#32, serves (by decide +kernel), by decide +kernel⟩,
    ⟨run.wr sparePage 0x100 1023, .ring 2, _, serves (by decide +kernel), (Option.some_get (by decide +kernel)).symm,
     by decide +kernel⟩,
    ⟨{ run.wr sparePage 0x100 1023 with map := (rowSites 28).map fun t => (t, { tile := 0, st := 3 }) },
     .ring 2, _, serves (by decide +kernel), (Option.some_get (by decide +kernel)).symm, by decide +kernel⟩,
    ⟨st46, .ring 2, serves (by decide +kernel), by decide +kernel⟩,
    ⟨st46, .ring 2, serves (by decide +kernel), by decide +kernel⟩,
    ⟨svc.wr sparePage 0x100 1023, .ring 2, serves (by decide +kernel), by decide +kernel⟩,
    ⟨{ run with spare := { staged := some [], toOpen := [3] } }, .ring 2, serves (by decide +kernel),
     by decide +kernel⟩,
    ⟨run.wr sparePage 0x100 1023, serves (by decide +kernel), by decide +kernel⟩,
    ⟨{ run with spare := { test := some { sites := [1100], readmit := true, row := false } } },
     { sites := [1100], readmit := true, row := false, back := [] }, serves (by decide +kernel),
     by decide +kernel⟩,
    ⟨{ run with spare := { test := some { sites := [1100], readmit := false, row := false } } },
     { sites := [1100], readmit := false, row := false, back := [] }, serves (by decide +kernel),
     by decide +kernel⟩,
    ⟨run.wr sparePage 0x100 1023, by decide +kernel⟩,
    ⟨svc.wr sparePage 0x100 1023, 0, by decide +kernel⟩⟩

theorem witness_PowerOnCompletes :
    (∃ (s : State),
      s.pow.off = false) ∧
    (∃ (s : State) (e : BootEnv),
      let cold : Prop := s.mg.restarted = false
      s.pow.off = true ∧ cold ∧ e.slotsOk = false) ∧
    (∃ (s : State) (e : BootEnv),
      let cold : Prop := s.mg.restarted = false
      let sound : Prop := s.slotOk s.mg.active = true ∨ s.slotOk s.otherSlot = true
      s.pow.off = true ∧ cold ∧ e.slotsOk = true ∧ ¬sound) ∧
    (∃ (s : State) (e : BootEnv),
      let sound : Prop := s.slotOk s.mg.active = true ∨ s.slotOk s.otherSlot = true
      let goes : Prop := s.mg.restarted = true ∨ (e.slotsOk = true ∧ sound)
      s.pow.off = true ∧ goes ∧ (e.softFusesOk && e.siteMapOk) = false) ∧
    (∃ (s : State) (e : BootEnv) (p : _),
      let sound : Prop := s.slotOk s.mg.active = true ∨ s.slotOk s.otherSlot = true
      let goes : Prop := s.mg.restarted = true ∨ (e.slotsOk = true ∧ sound)
      s.pow.off = true ∧ goes ∧ e.softFusesOk = true ∧ e.siteMapOk = true ∧ p < 16) ∧
    (∃ (s : State) (e : BootEnv),
      let cold : Prop := s.mg.restarted = false
      s.pow.off = true ∧ cold ∧ e.slotsOk = true ∧ s.slotOk s.mg.active = true) ∧
    (∃ (s : State) (e : BootEnv),
      let cold : Prop := s.mg.restarted = false
      s.pow.off = true ∧ cold ∧ e.slotsOk = true ∧ s.slotOk s.mg.active = false ∧ s.slotOk s.otherSlot = true) ∧
    (∃ (s : State) (b : List Byte),
      (s.mg.recovery = false ∨ 2 ^ 25 < b.length)) ∧
    (∃ (s : State) (b : List Byte),
      let t := s.putSlot 0 0 b
      s.mg.recovery = true ∧ b.length ≤ 2 ^ 25 ∧ t.slotOk 0 = false) ∧
    (∃ (s : State) (b : List Byte),
      let t := s.putSlot 0 0 b
      s.mg.recovery = true ∧ b.length ≤ 2 ^ 25 ∧ t.slotOk 0 = true) :=
  ⟨⟨run, by decide +kernel⟩,
    ⟨State.reset,
     {
       alertClear := true, siteMapOk := true, softFusesOk := true, slotsOk := false, trainedFe := [(0, 2)],
       swept := [], rom := [1,2], fuses := [3] },
     by decide +kernel⟩,
    ⟨{ State.reset with mg := { active := 1, slotA := [(0, 1), (1, 0), (2, 0), (3, 0)] } },
     {
       alertClear := true, siteMapOk := true, softFusesOk := true, slotsOk := true, trainedFe := [(0, 2)],
       swept := [], rom := [1,2], fuses := [3] },
     by decide +kernel⟩,
    ⟨State.reset,
     {
       alertClear := true, siteMapOk := false, softFusesOk := true, slotsOk := true, trainedFe := [(0, 2)],
       swept := [], rom := [1,2], fuses := [3] },
     by decide +kernel⟩,
    ⟨State.reset,
     {
       alertClear := true, siteMapOk := true, softFusesOk := true, slotsOk := true, trainedFe := [(0, 2)],
       swept := [], rom := [1,2], fuses := [3] },
     0, by decide +kernel⟩,
    ⟨State.reset,
     {
       alertClear := true, siteMapOk := true, softFusesOk := true, slotsOk := true, trainedFe := [(0, 2)],
       swept := [], rom := [1,2], fuses := [3] },
     by decide +kernel⟩,
    ⟨{ State.reset with mg := { active := 1 } },
     {
       alertClear := true, siteMapOk := true, softFusesOk := true, slotsOk := true, trainedFe := [(0, 2)],
       swept := [], rom := [1,2], fuses := [3] },
     by decide +kernel⟩,
    ⟨State.reset, [1,2,3], by decide +kernel⟩,
    ⟨{ State.reset with mg := { recovery := true } }, [1, 2, 3, 4], by decide +kernel⟩,
    ⟨{ State.reset with mg := { recovery := true } }, [], by decide +kernel⟩⟩

theorem witness_SessionFamilyCompletes :
    (∃ (s : State) (hs : _),
      s.Serves ∧ takeFirst (fun (x : Shake) => x.id == hs) s.mg.shakes = none) ∧
    (∃ (s : State) (hs : _) (x : _) (rest : _) (ct : _) (sig : _),
      let hash := sha256 (x.script ++ Config.message 2 [ct])
      let good := s.mayOpen x && Config.sigVerify (((sfind s.mg.keys x.slot).map (·.key)).getD []) hash sig
      s.Serves ∧ takeFirst (fun (x : Shake) => x.id == hs) s.mg.shakes = some (x, rest) ∧ good = false) ∧
    (∃ (s : State) (sid : Nat) (ctr : Nat) (page : Nat) (off : Nat) (tag : List Byte) (x : Sess),
      let taken := s.modMg fun g => { g with sessions := g.sessions.map fun y =>
        if y.sid == sid then { y with ctr := some ctr, heard := s.now } else y }
      let entry (code : Nat) (fields : List (List Byte)) := taken.sessEntry (some x) code stPending
        (natLe 4 sid ++ natLe 8 ctr ++ Config.message (256 + code) fields) (some (regAddr page off))
      let rd := entry 1 [natLe 4 page, natLe 4 off]
      let at_ (e : JEnt × State) := e.2.append e.1
      let r := (at_ rd).2.readNow x.origin page off
      s.Authentic sid ctr 1 [natLe 4 page, natLe 4 off] tag x ∧ isSystemUnit page = false ∧ r.1 ≠ stPending) ∧
    (∃ (s : State) (sid : Nat) (ctr : Nat) (page : Nat) (off : Nat) (tag : List Byte) (x : Sess),
      s.Authentic sid ctr 1 [natLe 4 page, natLe 4 off] tag x ∧ isSystemUnit page = true) ∧
    (∃ (s : State) (sid : Nat) (ctr : Nat) (page : Nat) (off : Nat) (tag : List Byte) (x : Sess),
      s.Authentic sid ctr 1 [natLe 4 page, natLe 4 off] tag x ∧ page < 0x480 ∧ wideOf page off = none ∧
      isDelay page off = false) ∧
    (∃ (s : State) (sid : Nat) (ctr : Nat) (page : Nat) (off : Nat) (v : Word) (tag : List Byte) (x : Sess),
      let taken := s.modMg fun g => { g with sessions := g.sessions.map fun y =>
        if y.sid == sid then { y with ctr := some ctr, heard := s.now } else y }
      let entry (code : Nat) (fields : List (List Byte)) := taken.sessEntry (some x) code stPending
        (natLe 4 sid ++ natLe 8 ctr ++ Config.message (256 + code) fields) (some (regAddr page off))
      let wr := entry 2 [natLe 4 page, natLe 4 off, natLe 4 v.toNat]
      let at_ (e : JEnt × State) := e.2.append e.1
      let r := (at_ wr).2.writeNow x.origin page off v
      s.Authentic sid ctr 2 [natLe 4 page, natLe 4 off, natLe 4 v.toNat] tag x ∧ isSystemUnit page = false ∧
      r.1 ≠ stPending) ∧
    (∃ (s : State) (sid : Nat) (ctr : Nat) (page : Nat) (off : Nat) (v : Word) (tag : List Byte) (x : Sess),
      s.Authentic sid ctr 2 [natLe 4 page, natLe 4 off, natLe 4 v.toNat] tag x ∧ isSystemUnit page = true) ∧
    (∃ (s : State) (sid : Nat) (ctr : Nat) (page : Nat) (off : Nat) (v : Word) (tag : List Byte) (x : Sess),
      s.Authentic sid ctr 2 [natLe 4 page, natLe 4 off, natLe 4 v.toNat] tag x ∧ page < 0x480 ∧ off = offEvtEn ∧
      x.role < 2 ∧ s.spare.opened.contains (page / 36) = false) ∧
    (∃ (s : State) (sid : Nat) (ctr : Nat) (tag : List Byte) (x : Sess) (off : _) (d : _),
      s.Authentic sid ctr 3 [natLe 4 off, d] tag x ∧ 2 ≤ x.role) ∧
    (∃ (s : State) (sid : Nat) (ctr : Nat) (tag : List Byte) (x : Sess) (off : _) (d : _),
      let fits : Prop := d.length ≤ 61440 ∧ off + d.length ≤ 2 ^ 25
      s.Authentic sid ctr 3 [natLe 4 off, d] tag x ∧ x.role < 2 ∧ ¬fits) ∧
    (∃ (s : State) (sid : Nat) (ctr : Nat) (tag : List Byte) (x : Sess) (off : _) (d : _),
      let fits : Prop := d.length ≤ 61440 ∧ off + d.length ≤ 2 ^ 25
      s.Authentic sid ctr 3 [natLe 4 off, d] tag x ∧ x.role < 2 ∧ fits) ∧
    (∃ (s : State) (sid : Nat) (ctr : Nat) (tag : List Byte) (x : Sess) (nonce : _),
      s.Authentic sid ctr 4 [nonce] tag x) ∧
    (∃ (s : State) (sid : Nat) (ctr : Nat) (tag : List Byte) (x : Sess),
      s.Authentic sid ctr 5 [] tag x) ∧
    (∃ (s : State) (sid : Nat) (ctr : Nat) (tag : List Byte) (x : Sess) (n : _) (key : _) (roles : _),
      s.Authentic sid ctr 6 [natLe 1 n, key, natLe 1 roles] tag x ∧ x.role ≠ 1) ∧
    (∃ (s : State) (sid : Nat) (ctr : Nat) (tag : List Byte) (x : Sess) (n : _) (key : _) (roles : _),
      let fits : Prop := n < 16 ∧ key.length = 32 ∧ roles < 8
      s.Authentic sid ctr 6 [natLe 1 n, key, natLe 1 roles] tag x ∧ x.role = 1 ∧ ¬fits) ∧
    (∃ (s : State) (sid : Nat) (ctr : Nat) (tag : List Byte) (x : Sess) (n : _) (key : _) (roles : _),
      let fits : Prop := n < 16 ∧ key.length = 32 ∧ roles < 8
      s.Authentic sid ctr 6 [natLe 1 n, key, natLe 1 roles] tag x ∧ x.role = 1 ∧ fits) ∧
    (∃ (s : State) (sid : Nat) (ctr : Nat) (tag : List Byte) (x : Sess) (n : _),
      s.Authentic sid ctr 7 [natLe 1 n] tag x ∧ x.role ≠ 1) ∧
    (∃ (s : State) (sid : Nat) (ctr : Nat) (tag : List Byte) (x : Sess) (n : _),
      s.Authentic sid ctr 7 [natLe 1 n] tag x ∧ x.role = 1 ∧ 16 ≤ n) ∧
    (∃ (s : State) (sid : Nat) (ctr : Nat) (tag : List Byte) (x : Sess) (n : _),
      s.Authentic sid ctr 7 [natLe 1 n] tag x ∧ x.role = 1 ∧ n < 16) ∧
    (∃ (s : State) (sid : Nat) (ctr : Nat) (tag : List Byte) (x : Sess) (rec : List Word),
      s.Authentic sid ctr 8 (rec.map fun w => natLe 4 w.toNat) tag x ∧ x.role ≠ 1) ∧
    (∃ (s : State) (sid : Nat) (ctr : Nat) (tag : List Byte) (x : Sess) (rec : List Word),
      s.Authentic sid ctr 8 (rec.map fun w => natLe 4 w.toNat) tag x ∧ x.role = 1 ∧ rec.length ≠ 7) ∧
    (∃ (s : State) (sid : Nat) (ctr : Nat) (tag : List Byte) (x : Sess) (rec : List Word),
      s.Authentic sid ctr 8 (rec.map fun w => natLe 4 w.toNat) tag x ∧ x.role = 1 ∧ rec.length = 7) ∧
    (∃ (s : State) (sid : Nat) (ctr : Nat) (tag : List Byte) (x : Sess),
      s.Authentic sid ctr 9 [] tag x ∧ x.role ≠ 1) ∧
    (∃ (s : State) (sid : Nat) (ctr : Nat) (tag : List Byte) (x : Sess),
      s.Authentic sid ctr 9 [] tag x ∧ x.role = 1) ∧
    (∃ (s : State) (sid : Nat) (ctr : Nat) (tag : List Byte) (x : Sess),
      s.Authentic sid ctr 10 [] tag x ∧ x.role ≠ 1) ∧
    (∃ (s : State) (sid : Nat) (ctr : Nat) (tag : List Byte) (x : Sess),
      s.Authentic sid ctr 10 [] tag x ∧ x.role = 1 ∧ s.ag.clearing = true) ∧
    (∃ (s : State) (sid : Nat) (ctr : Nat) (tag : List Byte) (x : Sess),
      s.Authentic sid ctr 10 [] tag x ∧ x.role = 1 ∧ s.ag.clearing = false) ∧
    (∃ (s : State) (sid : Nat) (ctr : Nat) (tag : List Byte) (x : Sess),
      s.Authentic sid ctr 11 [] tag x) ∧
    (∃ (s : State),
      s.Serves ∧ s.rdN mgmtPage 0x13C + 1 < 2 ^ 32) :=
  ⟨⟨st47, 4, serves (by decide +kernel), by decide +kernel⟩,
    ⟨{ run with mg := { shakes := [{ id := 4, slot := 15, role := 1, script := [1], rand := 5 }] } },
     4,
     { id := 4, slot := 15, role := 1, script := [0x01#8], rand := 0x0000000000000005#64 },
     [], [0x02#8], [0x03#8], serves (by decide +kernel), by decide +kernel⟩,
    ⟨st47, 9, 5, 1151, 0x108, _, { sid := 9, slot := 15, role := 0, key := [1,2,3], ctr := some 4 },
     authentic (by decide +kernel), by decide +kernel⟩,
    ⟨st47, 9, 5, 0x3800, 0x108, _, { sid := 9, slot := 15, role := 0, key := [1,2,3], ctr := some 4 },
     authentic (by decide +kernel), by decide +kernel⟩,
    ⟨st47, 9, 5, 1151, 0x108, _, { sid := 9, slot := 15, role := 0, key := [1,2,3], ctr := some 4 },
     authentic (by decide +kernel), by decide +kernel⟩,
    ⟨st47, 9, 5, 1151, 0x108, 0xFFFFFFFF, _, { sid := 9, slot := 15, role := 0, key := [1,2,3], ctr := some 4 },
     authentic (by decide +kernel), by decide +kernel⟩,
    ⟨st47, 9, 5, 0x3800, 0x108, 0xFFFFFFFF, _, { sid := 9, slot := 15, role := 0, key := [1,2,3], ctr := some 4 },
     authentic (by decide +kernel), by decide +kernel⟩,
    ⟨st47, 9, 5, 1151, offEvtEn, 0xFFFFFFFF, _, { sid := 9, slot := 15, role := 0, key := [1,2,3], ctr := some 4 },
     authentic (by decide +kernel), by decide +kernel⟩,
    ⟨{ run with
       mg := {
         sessions := [{ sid := 9, slot := 15, role := 2, key := [1,2,3], ctr := some 4 }],
         keys := [(3, { key := List.replicate 32 7, roles := 7 })] } },
     9, 5, _, { sid := 9, slot := 15, role := 2, key := [1,2,3], ctr := some 4 }, 0, [0x01#8, 0x02#8],
     authentic (by decide +kernel), by decide +kernel⟩,
    ⟨st47, 9, 5, _, { sid := 9, slot := 15, role := 0, key := [1,2,3], ctr := some 4 }, 33554431, [0x01#8, 0x02#8],
     authentic (by decide +kernel), by decide +kernel⟩,
    ⟨st47, 9, 5, _, { sid := 9, slot := 15, role := 0, key := [1,2,3], ctr := some 4 }, 0, [0x01#8, 0x02#8],
     authentic (by decide +kernel), by decide +kernel⟩,
    ⟨st47, 9, 5, _, { sid := 9, slot := 15, role := 0, key := [1,2,3], ctr := some 4 }, (List.replicate 32 0x04#8),
     authentic (by decide +kernel)⟩,
    ⟨st47, 9, 5, _, { sid := 9, slot := 15, role := 0, key := [1,2,3], ctr := some 4 },
     authentic (by decide +kernel)⟩,
    ⟨st47, 9, 5, _, { sid := 9, slot := 15, role := 0, key := [1,2,3], ctr := some 4 }, 15,
     (List.replicate 32 0x06#8), 7, authentic (by decide +kernel), by decide +kernel⟩,
    ⟨st48, 9, 5, _, { sid := 9, slot := 15, role := 1, key := [1,2,3], ctr := some 4 }, 15,
     (List.replicate 32 0x06#8), 8, authentic (by decide +kernel), by decide +kernel⟩,
    ⟨st48, 9, 5, _, { sid := 9, slot := 15, role := 1, key := [1,2,3], ctr := some 4 }, 15,
     (List.replicate 32 0x06#8), 7, authentic (by decide +kernel), by decide +kernel⟩,
    ⟨st47, 9, 5, _, { sid := 9, slot := 15, role := 0, key := [1,2,3], ctr := some 4 }, 15,
     authentic (by decide +kernel), by decide +kernel⟩,
    ⟨st48, 9, 5, _, { sid := 9, slot := 15, role := 1, key := [1,2,3], ctr := some 4 }, 16,
     authentic (by decide +kernel), by decide +kernel⟩,
    ⟨st48, 9, 5, _, { sid := 9, slot := 15, role := 1, key := [1,2,3], ctr := some 4 }, 15,
     authentic (by decide +kernel), by decide +kernel⟩,
    ⟨st47, 9, 5, _, { sid := 9, slot := 15, role := 0, key := [1,2,3], ctr := some 4 },
     [0x00000001#32, 0x00000002#32, 0x00000003#32, 0x00000004#32, 0x00000005#32, 0x00000006#32, 0x00000007#32],
     authentic (by decide +kernel), by decide +kernel⟩,
    ⟨st48, 9, 5, _, { sid := 9, slot := 15, role := 1, key := [1,2,3], ctr := some 4 }, [0x00000001#32],
     authentic (by decide +kernel), by decide +kernel⟩,
    ⟨st48, 9, 5, _, { sid := 9, slot := 15, role := 1, key := [1,2,3], ctr := some 4 },
     [0x00000001#32, 0x00000002#32, 0x00000003#32, 0x00000004#32, 0x00000005#32, 0x00000006#32, 0x00000007#32],
     authentic (by decide +kernel), by decide +kernel⟩,
    ⟨st47, 9, 5, _, { sid := 9, slot := 15, role := 0, key := [1,2,3], ctr := some 4 },
     authentic (by decide +kernel), by decide +kernel⟩,
    ⟨st48, 9, 5, _, { sid := 9, slot := 15, role := 1, key := [1,2,3], ctr := some 4 },
     authentic (by decide +kernel), by decide +kernel⟩,
    ⟨st47, 9, 5, _, { sid := 9, slot := 15, role := 0, key := [1,2,3], ctr := some 4 },
     authentic (by decide +kernel), by decide +kernel⟩,
    ⟨{ { run with mg := { sessions := [{ sid := 9, slot := 15, role := 1, key := [1,2,3], ctr := some 4 }], keys := [(3, { key := List.replicate 32 7, roles := 7 })] } } with
       ag := { clearing := true } },
     9, 5, _, { sid := 9, slot := 15, role := 1, key := [1,2,3], ctr := some 4 }, authentic (by decide +kernel),
     by decide +kernel⟩,
    ⟨st48, 9, 5, _, { sid := 9, slot := 15, role := 1, key := [1,2,3], ctr := some 4 },
     authentic (by decide +kernel), by decide +kernel⟩,
    ⟨st47, 9, 5, _, { sid := 9, slot := 15, role := 0, key := [1,2,3], ctr := some 4 },
     authentic (by decide +kernel)⟩,
    ⟨st47, serves (by decide +kernel), by decide +kernel⟩⟩

theorem witness_FirmwareAndQuotesComplete :
    (∃ (s : State) (o : Origin),
      let op : Prop := operatorOnly (roleOf o) = true
      s.Serves ∧ op ∧ s.mg.staging = false ∧ s.mg.stagedOk = false) ∧
    (∃ (s : State) (o : Origin),
      let op : Prop := operatorOnly (roleOf o) = true
      s.Serves ∧ (¬op ∨ s.mg.staging = true ∨ s.mg.stagedOk = true)) ∧
    (∃ (s : State) (o : Origin),
      let op : Prop := operatorOnly (roleOf o) = true
      s.Serves ∧ op ∧ s.mg.stagedOk = true ∧ s.adm.active = none) ∧
    (∃ (s : State) (o : Origin),
      let op : Prop := operatorOnly (roleOf o) = true
      s.Serves ∧ (¬op ∨ s.mg.stagedOk = false ∨ s.adm.active.isSome = true)) ∧
    (∃ (s : State) (o : Origin),
      let op : Prop := operatorOnly (roleOf o) = true
      s.Serves ∧ (¬op ∨ s.mg.stagedOk = false)) ∧
    (∃ (s : State) (o : Origin) (n : _),
      s.Serves ∧ n ∈ ([1, 2, 3] : List Nat) ∧ anyButDebug (roleOf o) = true) ∧
    (∃ (s : State) (o : Origin) (n : _),
      s.Serves ∧ n ∈ ([1, 2, 3] : List Nat) ∧ anyButDebug (roleOf o) = false) ∧
    (∃ (s : State) (o : Origin) (v : Word),
      s.Serves ∧ roleOf o = .host ∧ s.mg.keys = [] ∧ v = 0x100) ∧
    (∃ (s : State) (o : Origin) (v : Word),
      s.Serves ∧ (roleOf o ≠ .host ∨ s.mg.keys ≠ [] ∨ v ≠ 0x100)) ∧
    (∃ (s : State) (o : Origin),
      s.Serves ∧ custodianOnly (roleOf o) = true) ∧
    (∃ (s : State) (o : Origin),
      s.Serves ∧ custodianOnly (roleOf o) = false) ∧
    (∃ (s : State),
      s.Serves ∧ s.mg.staging = false) ∧
    (∃ (s : State),
      s.Serves ∧ s.mg.staging = true) ∧
    (∃ (s : State),
      s.Serves ∧ s.mg.quotes = []) ∧
    (∃ (s : State) (q : _) (rest : _),
      s.Serves ∧ s.mg.quotes = q :: rest) :=
  ⟨⟨run, .boot, serves (by decide +kernel), by decide +kernel⟩,
    ⟨run, .ring 2, serves (by decide +kernel), by decide +kernel⟩,
    ⟨{ svc with mg := { stagedOk := true } }, .boot, serves (by decide +kernel), by decide +kernel⟩,
    ⟨run, .boot, serves (by decide +kernel), by decide +kernel⟩,
    ⟨run, .boot, serves (by decide +kernel), by decide +kernel⟩,
    ⟨run, .boot, 1, serves (by decide +kernel), by decide +kernel⟩,
    ⟨run, .debug 3, 1, serves (by decide +kernel), by decide +kernel⟩,
    ⟨run, .ring 2, 0x00000100#32, serves (by decide +kernel), by decide +kernel⟩,
    ⟨run, .boot, 0x00000100#32, serves (by decide +kernel), by decide +kernel⟩,
    ⟨run, .boot, serves (by decide +kernel), by decide +kernel⟩,
    ⟨run, .ring 2, serves (by decide +kernel), by decide +kernel⟩,
    ⟨run, serves (by decide +kernel), by decide +kernel⟩,
    ⟨{ run with mg := { staging := true } }, serves (by decide +kernel), by decide +kernel⟩,
    ⟨run, serves (by decide +kernel), by decide +kernel⟩,
    ⟨{ run with mg := { quotes := [{ kind := 2, dst := 0xF000000000, nonce := [] }] } },
     { kind := 2, dst := 1030792151040, nonce := [] }, [], serves (by decide +kernel), by decide +kernel⟩⟩

theorem witness_MinAndMaxFollowTheirRule :
    (∃ (s : State) (t : Nat) (w : BitVec 128),
      s.CanIssue t w { eng := engVector, form := vopLegal w 0x03 } ∧ isSub w 0x20 0x03 = true) ∧
    (∃ (s : State) (t : Nat) (w : BitVec 128),
      s.CanIssue t w { eng := engVector, form := vopLegal w 0x04 } ∧ isSub w 0x20 0x04 = true) :=
  ⟨⟨st49, 0, wd 0x20 0 0xFFFFFFFF (0x3 * 2^56 + (1 * 2^51 + 2*2^46+3*2^41+4*2^36)), canIssue (by decide +kernel),
     by decide +kernel⟩,
    ⟨st49, 0, wd 0x20 0 0xFFFFFFFF (0x4 * 2^56 + (1 * 2^51 + 2*2^46+3*2^41+4*2^36)), canIssue (by decide +kernel),
     by decide +kernel⟩⟩

theorem witness_MatrixFormatsFollowTheirRule :
    (∃ (s : State) (t : Nat) (w : BitVec 128),
      let fa := fld w 119 116
      let fb := fld w 115 112
      let pair := (fa = 1 ∧ fb = 1) ∨ ((fa = 2 ∨ fa = 3) ∧ (fb = 2 ∨ fb = 3))
      let align := if fa = 1 then 2048 else 1024
      let rest := commonOk { a := true, b := true, acc := true, matrix := true } w = true ∧
        fld w 63 50 * 64 % align = 0 ∧ fld w 49 36 * 64 % align = 0 ∧ (fa = 1 → fld w 35 21 = 0 ∧ fld w 20 6 = 0) ∧
        (heritageOf w && rescaleOf w) = false
      s.CanIssue t w { s.matrixIssue t w false with form := true } ∧ isOp w 0x10 = true ∧ pair ∧ rest) ∧
    (∃ (s : State) (t : Nat) (w : BitVec 128),
      let fa := fld w 119 116
      let fb := fld w 115 112
      let pair := (fa = 1 ∧ fb = 1) ∨ ((fa = 2 ∨ fa = 3) ∧ (fb = 2 ∨ fb = 3))
      s.CanIssue t w { eng := engMatrix, form := true } ∧ isOp w 0x10 = true ∧ ¬ pair) ∧
    (∃ (s : State) (t : Nat) (w : BitVec 128),
      let fa := fld w 119 116
      let fb := fld w 115 112
      let pair := (fa = 1 ∧ fb = 1) ∨ ((fa = 2 ∨ fa = 3) ∧ (fb = 2 ∨ fb = 3))
      let align := if fa = 1 then 2048 else 1024
      let rest := commonOk { a := true, b := true, acc := true, matrix := true } w = true ∧
        fld w 63 50 * 64 % align = 0 ∧ fld w 49 36 * 64 % align = 0 ∧ (fa = 1 → fld w 35 21 = 0 ∧ fld w 20 6 = 0) ∧
        (heritageOf w && rescaleOf w) = false
      s.CanIssue t w { s.matrixIssue t w true with form := true } ∧ isOp w 0x11 = true ∧ pair ∧ rest) ∧
    (∃ (s : State) (t : Nat) (w : BitVec 128),
      let fa := fld w 119 116
      let fb := fld w 115 112
      let pair := (fa = 1 ∧ fb = 1) ∨ ((fa = 2 ∨ fa = 3) ∧ (fb = 2 ∨ fb = 3))
      s.CanIssue t w { eng := engMatrix, form := true } ∧ isOp w 0x11 = true ∧ ¬ pair) :=
  ⟨⟨st3, 0,
     wd 0x10 (2*2^20+2*2^16+3*2^12+1*2^8) 0xFFFFFFFF (0x40*2^36+0x100*2^21+0x101*2^6),
     canIssue (by decide +kernel), by decide +kernel⟩,
    ⟨st3, 0, wd 0x10 (1*2^20+2*2^16) 0xFFFFFFFF (0), canIssue (by decide +kernel), by decide +kernel⟩,
    ⟨st3, 0,
     wd 0x11 (2*2^20+2*2^16+3*2^12+1*2^8) 0xFFFFFFFF (0x40*2^36+0x100*2^21+0x101*2^6),
     canIssue (by decide +kernel), by decide +kernel⟩,
    ⟨st3, 0, wd 0x11 (1*2^20+2*2^16) 0xFFFFFFFF (0), canIssue (by decide +kernel), by decide +kernel⟩⟩

theorem witness_StackPlacementIsABijection :
    (∃ (k : _) (p : _) (l : _),
      k < 8 ∧ p < 64 ∧ l < 2 ^ 25) ∧
    (∃ (n : _) (k : _),
      n < 2 ^ 28 ∧ k < 8) ∧
    (∃ (n : _) (i : _) (j : _),
      n < 2 ^ 28 ∧ i < 64 ∧ j < 64 ∧ (granPlace (64 * n + i)).stack = (granPlace (64 * n + j)).stack ∧
      (granPlace (64 * n + i)).pc = (granPlace (64 * n + j)).pc) :=
  ⟨⟨0, 0, 0, by decide +kernel⟩,
    ⟨0, 0, by decide +kernel⟩,
    ⟨0, 0, 0, by decide +kernel⟩⟩

theorem witness_ConsecutiveGranulesLieInDifferentStacks : ∃ (g : _),
    g + 1 < 2 ^ 34 :=
  ⟨0, by decide +kernel⟩

theorem witness_StepsKeepMemoryForm : ∃ (s : State) (t : State),
    s.memOk ∧ step s = .next t :=
  ⟨{ (run) with pending := [.brownOut] }, nextOf (step { (run) with pending := [.brownOut] }),
   (show memWf _ = true from by decide +kernel), isNext_spec (by decide +kernel)⟩

theorem witness_FusedFloorRisesOnlyByCommit :
    (∃ (s : State) (t : State) (c : Instr) (slot : _),
      s.settled ∧ exec c s = .next t ∧ s.fwSvn slot < s.mg.floor) ∧
    (∃ (s : State) (t : State) (c : Instr),
      s.settled ∧ exec c s = .next t ∧ t.mg.active ≠ s.mg.active) ∧
    (∃ (s : State) (t : State) (c : Instr) (e : _),
      s.settled ∧ exec c s = .next t ∧ c = .powerOn e ∧ t.pow.off = false ∧ s.pow.off = true ∧ s.mg.restarted = false) :=
  ⟨⟨{ run with mg := { floor := 5 } }, nextOf (exec (.brownOut) ({ run with mg := { floor := 5 } })), .brownOut, 1,
     ⟨rfl, rfl, rfl⟩, isNext_spec (by decide +kernel), by decide +kernel⟩,
    ⟨{ ({ run with pen := { fh := some 3, ordNo := 6 }, gn := { running := true, frame := 3 }, adm := {} } : State).setHold 1 with
       mg := { stagedOk := true } },
     nextOf (
       exec (.holdBegin ({ remeasured := [], requalSens := [], requalLane := [], mergeOk := [], fwOk := true, retune := none })) (
         { ({ run with pen := { fh := some 3, ordNo := 6 }, gn := { running := true, frame := 3 }, adm := {} } : State).setHold 1 with
           mg := { stagedOk := true } })),
     .holdBegin (
       { remeasured := [], requalSens := [], requalLane := [], mergeOk := [], fwOk := true, retune := none }),
     ⟨rfl, rfl, rfl⟩, isNext_spec (by decide +kernel), by decide +kernel⟩,
    ⟨State.reset, nextOf (exec (.powerOn benign) State.reset), .powerOn benign, benign, ⟨rfl, rfl, rfl⟩,
     isNext_spec (by decide +kernel), rfl, nextOf_powerOn_on, by decide +kernel⟩⟩

/-! ## Two clauses whose hypothesis the kernel cannot evaluate -/

def soundCells : List Host.Cell :=
  [(0x100000, 84), (0x100001, 51), (0x100002, 83), (0x100003, 87), (0x100004, 3), (0x100007, 1), (0x100009, 144),
   (0x100010, 7), (0x10002C, 64), (0x100030, 1), (0x100034, 6), (0x100039, 1), (0x100040, 130), (0x100041, 8),
   (0x100042, 49), (0x100043, 66), (0x100044, 175), (0x100045, 161), (0x100046, 245), (0x100047, 136),
   (0x100048, 60), (0x10004A, 239), (0x10004B, 104), (0x10004C, 183), (0x10004D, 54), (0x10004E, 89),
   (0x10004F, 153), (0x100050, 44), (0x100051, 218), (0x100052, 124), (0x100053, 1), (0x100054, 214),
   (0x100055, 131), (0x100056, 219), (0x100057, 140), (0x100058, 177), (0x100059, 222), (0x10005A, 185),
   (0x10005B, 79), (0x10005C, 15), (0x10005D, 206), (0x10005E, 179), (0x10005F, 115), (0x100060, 53),
   (0x100061, 119), (0x100062, 9), (0x100063, 143), (0x100064, 108), (0x100065, 239), (0x100066, 88), (0x100067, 76),
   (0x100068, 110), (0x100069, 31), (0x10006A, 1), (0x10006B, 35), (0x10006C, 208), (0x10006D, 226), (0x10006E, 13),
   (0x10006F, 58), (0x100070, 254), (0x100071, 104), (0x100072, 75), (0x100073, 77), (0x100074, 30), (0x100075, 221),
   (0x100076, 255), (0x100077, 82), (0x100078, 136), (0x100079, 133), (0x10007A, 115), (0x10007B, 222),
   (0x10007C, 78), (0x10007D, 144), (0x10007E, 37), (0x10007F, 221), (0x100082, 4), (0x100100, 1), (0x100102, 1),
   (0x100104, 1), (0x100109, 2), (0x100111, 1), (0x100118, 32), (0x100120, 2), (0x100122, 1), (0x100129, 3),
   (0x100138, 16), (0x100140, 5), (0x100142, 1), (0x100149, 3), (0x100158, 32), (0x100160, 9), (0x100162, 1),
   (0x100169, 3), (0x100178, 32), (0x100180, 13), (0x100182, 1), (0x100184, 1), (0x100189, 4), (0x100191, 129),
   (0x1001A0, 14), (0x1001A2, 1), (0x1001A4, 1), (0x1001A9, 133), (0x1001B1, 1), (0x100208, 32), (0x100209, 2),
   (0x100214, 1), (0x100228, 255), (0x100229, 255), (0x10022A, 255), (0x10022B, 255), (0x10040C, 1), (0x100419, 4),
   (0x100422, 32), (0x100431, 5), (0x100439, 133), (0x108500, 1), (0x108524, 64), (0x108525, 6), (0x108528, 64),
   (0x108529, 6), (0x10852C, 64), (0x10852D, 6)]

/-- A 36 KiB image at 0x100000 with one stream of one NOP, whose check finds nothing: evaluating that takes the SHA-256 of the whole
image, too long for the kernel, so it is a hypothesis below. -/
def soundImage : State :=
  { svc with adm := { state := 1, base := 0x100000 }, mem := soundCells }

theorem witness_AdmissionFamilyCompletes_sound (h : soundImage.checkImage 0x100000 = none) :
    (∃ (s : State) (f : Option (Nat × Nat × Nat)), let mine := s.checkImage s.adm.base
      let flow := f.filter fun x => flowReasons.contains x.1
      s.Serves ∧ s.adm.state = 1 ∧ mine = none ∧ flow = none) ∧
    (∃ (s : State) (f : Option (Nat × Nat × Nat)) (y : Nat × Nat × Nat), let mine := s.checkImage s.adm.base
      let flow := f.filter fun x => flowReasons.contains x.1
      s.Serves ∧ s.adm.state = 1 ∧ mine = none ∧ flow = some y) :=
  ⟨⟨soundImage, none, serves (by decide +kernel), by decide +kernel, h, rfl⟩,
    ⟨soundImage, some (0x10, 5, 7), (0x10, 5, 7), serves (by decide +kernel), by decide +kernel, h, by decide +kernel⟩⟩

/-- A module with a handshake of key slot 15. -/
def shaken : State :=
  { run with mg := { shakes := [{ id := 4, slot := 15, role := 1, script := [1], rand := 5 }],
                     keys := [(15, { key := List.replicate 32 7, roles := 7 })] } }.wr mgmtPage 0x10C 0x8000

/-- Whether a signature is good is a constant of the configuration that nothing can evaluate. -/
theorem witness_SessionFamilyCompletes_signed
    (h : Config.sigVerify (List.replicate 32 7) (sha256 ([1] ++ Config.message 2 [[2]])) [3] = true) :
    ∃ (s : State) (hs : Nat) (x : Shake) (rest : List Shake) (ct sig : List Byte),
      let hash := sha256 (x.script ++ Config.message 2 [ct])
      let good := s.mayOpen x && Config.sigVerify (((sfind s.mg.keys x.slot).map (·.key)).getD []) hash sig
      s.Serves ∧ takeFirst (fun (x : Shake) => x.id == hs) s.mg.shakes = some (x, rest) ∧ good = true := by
  refine ⟨shaken, 4, { id := 4, slot := 15, role := 1, script := [1], rand := 5 }, [], [2], [3], serves (by decide +kernel),
    by decide +kernel, Bool.and_eq_true_iff.2 ⟨by decide +kernel, ?_⟩⟩
  rw [show ((sfind shaken.mg.keys 15).map (·.key)).getD [] = List.replicate 32 7 by decide +kernel]
  exact h

end Sys2Proof.Tests
end

section
/-!
PROOF. Event bits (R8, R492): what a set event bit, a fired trigger, the end of a command and an order to EVT_STATUS or
EVT_FORCE leave of the event registers, and `Obligations.EventBitsFollowTheirRules` from these.
-/
namespace Sys2Proof.Machine

/-! ## Event registers -/

/-- A fold keeps what each of its steps keeps. -/
theorem foldl_keeps {σ α β : Type} (g : σ → β) (f : σ → α → σ) (hf : ∀ s x, g (f s x) = g s) (l : List α) (s : σ) :
    g (l.foldl f s) = g s := by
  induction l generalizing s with
  | nil => rfl
  | cons x l ih => rw [List.foldl_cons, ih, hf]

theorem State.flag_congr {s t : State} {p o : Nat} (h : t.rd p o = s.rd p o) (i : Nat) : t.flag p o i = s.flag p o i := by
  simp [State.flag, State.rdN, h]

theorem State.flag_eq_getLsbD (s : State) (p o i : Nat) : s.flag p o i = (s.rd p o).getLsbD i := rfl

theorem State.flag_setFlag (s : State) (p o j : Nat) {i : Nat} (h : i < 32) :
    (s.setFlag p o i true).flag p o j = (s.flag p o j || i == j) := by
  by_cases hj : i = j
  · subst hj; simp [s.flag_setFlag_same p o i true h]
  · simp [s.flag_setFlag_bit p o i j true h hj, hj]

/-- A page signals while an event bit and its enable are both set. -/
theorem State.signals_iff (s : State) (page : Nat) :
    s.signals page = true ↔ ∃ i, i < 32 ∧ s.flag page offEvt i = true ∧ s.flag page offEvtEn i = true := by
  simp only [State.signals, bne_iff_ne, ne_eq, State.flag_eq_getLsbD]
  constructor
  · intro h
    by_contra hn
    push Not at hn
    refine h (BitVec.eq_of_getLsbD_eq fun i hi => ?_)
    have := hn i hi
    simpa using this
  · rintro ⟨i, -, h1, h2⟩ h
    simpa [h1, h2] using congrArg (·.getLsbD i) h

/-! ## Firing triggers -/

/-- `t` is `s` after triggers have fired of which none was dropped (R472): at most `k` captures more are pending. -/
structure Queued (k : Nat) (s t : State) : Prop where
  trigs : t.ag.trigs = s.ag.trigs
  caps : s.ag.caps ⊆ t.ag.caps
  room : t.ag.caps.length ≤ s.ag.caps.length + k
  control : t.rd agPage offControl = s.rd agPage offControl
  evt : ∀ p, t.rd p offEvt = s.rd p offEvt

/-- A capture of trigger `n` is pending. -/
def State.Captures (s : State) (n : Nat) : Prop := ∃ c ∈ s.ag.caps, c.trig = n

theorem Queued.refl (s : State) : Queued 0 s s := ⟨rfl, fun _ h => h, by omega, rfl, fun _ => rfl⟩

theorem Queued.trans {k j : Nat} {s t u : State} (h : Queued k s t) (h' : Queued j t u) : Queued (k + j) s u where
  trigs := h'.trigs.trans h.trigs
  caps := List.Subset.trans h.caps h'.caps
  room := by have := h.room; have := h'.room; omega
  control := h'.control.trans h.control
  evt p := (h'.evt p).trans (h.evt p)

theorem Queued.captures {k n : Nat} {s t : State} (h : Queued k s t) (hn : s.Captures n) : t.Captures n := by
  obtain ⟨c, hc, e⟩ := hn
  exact ⟨c, h.caps hc, e⟩

theorem bump_ag (s : State) (p o n : Nat) : (s.bump p o n).ag = s.ag := by
  simp only [State.bump]; split <;> rfl

/-- A trigger that fires while fewer than 16 captures are pending is not dropped. -/
theorem queueCap_queued {s : State} (n : Nat) (w : Word) (h : s.ag.caps.length < 16) :
    (s.queueCap n w).2 = false ∧ Queued 1 s (s.queueCap n w).1 ∧ (s.queueCap n w).1.Captures n := by
  have hlt : ¬ s.ag.caps.length ≥ 16 := by omega
  by_cases hc : s.ag.caps.any (·.trig == n) = true
  · have hq : s.queueCap n w = (s.bump agPage 0x118, false) := by simp [State.queueCap, hc]
    have hk : ∀ q r, regKey agPage 0x118 ≠ regKey q r → (s.bump agPage 0x118).rd q r = s.rd q r :=
      fun q r h => s.rd_bump_key h
    rw [hq]
    refine ⟨rfl, ⟨?_, ?_, ?_, hk _ _ (by decide), fun p => hk _ _ ?_⟩, ?_⟩
    · rw [bump_ag]
    · rw [bump_ag]; exact fun _ h => h
    · rw [bump_ag]; omega
    · simp only [regKey, offEvt]; omega
    · simpa [State.Captures, bump_ag] using hc
  · simp only [State.queueCap, hc, hlt, if_false]
    exact ⟨rfl, ⟨rfl, fun c h => List.mem_append_left _ h, by simp, rfl, fun _ => rfl⟩, _,
      List.mem_append_right _ (List.mem_singleton.2 rfl), rfl⟩

/-- Queues a list of fired triggers; the Bool says that one was dropped. -/
def queueAll (l : List (Nat × Word)) (x : State × Bool) : State × Bool :=
  l.foldl (fun (s, d) (n, w) =>
    let (s, x) := s.queueCap n w
    (s, d || x)) x

theorem fireEvent_eq (s : State) (page i : Nat) : s.fireEvent page i =
    let r := queueAll (s.trigsFor page i) (s, false)
    if r.2 && !(page == agPage && i == 1) then
      (r.1.trigsFor agPage 1).foldl (fun s (n, w) => (s.queueCap n w).1) r.1
    else r.1 := rfl

theorem queueAll_queued (l : List (Nat × Word)) {s : State} (d : Bool) (h : s.ag.caps.length + l.length ≤ 16) :
    (queueAll l (s, d)).2 = d ∧ Queued l.length s (queueAll l (s, d)).1 ∧
      ∀ e ∈ l, (queueAll l (s, d)).1.Captures e.1 := by
  induction l generalizing s d with
  | nil => exact ⟨rfl, Queued.refl s, by simp⟩
  | cons e l ih =>
    obtain ⟨n, w⟩ := e
    rw [List.length_cons] at h
    obtain ⟨hd, hq, hn⟩ := queueCap_queued (s := s) n w (by omega)
    obtain ⟨id, iq, ie⟩ := ih (s := (s.queueCap n w).1) (d || (s.queueCap n w).2) (by have := hq.room; omega)
    have hstep : queueAll ((n, w) :: l) (s, d) = queueAll l ((s.queueCap n w).1, d || (s.queueCap n w).2) := rfl
    rw [hstep]
    refine ⟨by rw [id, hd, Bool.or_false], ?_, ?_⟩
    · rw [List.length_cons, Nat.add_comm]; exact hq.trans iq
    · rintro e he
      rcases List.mem_cons.1 he with rfl | he
      · exact iq.captures hn
      · exact ie e he

/-- Where the captures that an event fires find room, each of them is pending and nothing is dropped. -/
theorem fireEvent_queued {s : State} {page i : Nat} (h : s.ag.caps.length + (s.trigsFor page i).length ≤ 16) :
    Queued (s.trigsFor page i).length s (s.fireEvent page i) ∧
      ∀ e ∈ s.trigsFor page i, (s.fireEvent page i).Captures e.1 := by
  obtain ⟨hd, hq, he⟩ := queueAll_queued (s.trigsFor page i) false h
  rw [fireEvent_eq]
  simpa only [hd, Bool.false_and, Bool.false_eq_true, if_false] using And.intro hq he

/-- An event keeps what each trigger that fires keeps. -/
theorem fireEvent_keeps {β : Type} (g : State → β) (hg : ∀ s n w, g (State.queueCap s n w).1 = g s) (s : State)
    (page i : Nat) : g (s.fireEvent page i) = g s := by
  have h : g (queueAll (s.trigsFor page i) (s, false)).1 = g s :=
    foldl_keeps (fun x : State × Bool => g x.1) _ (fun x (n, w) => hg x.1 n w) _ (s, false)
  rw [fireEvent_eq]
  dsimp only
  split
  · refine (foldl_keeps g _ ?_ _ _).trans h
    rintro t ⟨n, w⟩; exact hg t n w
  · exact h

/-- A trigger that fires changes EVT_STATUS of no page but Afterglow's. -/
theorem rd_queueCap_evt {p : Nat} (h : p ≠ agPage) (s : State) (n : Nat) (w : Word) :
    (s.queueCap n w).1.rd p offEvt = s.rd p offEvt := by
  have hk : ∀ o, o < 4096 → regKey agPage o ≠ regKey p offEvt := fun o ho => by
    simp only [regKey, offEvt]; omega
  simp only [State.queueCap]
  split
  · exact s.rd_bump_key (hk _ (by decide))
  · split
    · refine (State.rd_wr_key _ _ (hk _ (by decide))).trans ?_
      exact State.rd_bump_key _ (hk _ (by decide))
    · rfl

/-- An event sets no event bit but DROPPED on Afterglow's page, and that only where a capture finds no room (R472). -/
theorem rd_fireEvent_evt {s : State} {page i p : Nat}
    (h : p = agPage → s.ag.caps.length + (s.trigsFor page i).length ≤ 16) :
    (s.fireEvent page i).rd p offEvt = s.rd p offEvt := by
  by_cases hp : p = agPage
  · exact (fireEvent_queued (h hp)).1.evt p
  · exact fireEvent_keeps (·.rd p offEvt) (rd_queueCap_evt hp) s page i

/-! ## Room for captures -/

/-- The pending captures and those that the events `is` of a page can add are at most 16. -/
def State.Room (s : State) (page : Nat) (is : List Nat) : Prop :=
  s.ag.caps.length + s.ag.trigs.countP (fun e => trigPage e.2 == page && is.contains (trigBit e.2)) ≤ 16

theorem State.room_of {s : State} (hc : s.ag.caps = []) (ht : s.ag.trigs.length ≤ 16) (page : Nat) (is : List Nat) :
    s.Room page is := by
  have := List.countP_le_length (l := s.ag.trigs) (p := fun e => trigPage e.2 == page && is.contains (trigBit e.2))
  simp only [State.Room, hc, List.length_nil]; omega

theorem trigsFor_length_le (s : State) (page i : Nat) :
    (s.trigsFor page i).length ≤ s.ag.trigs.countP (fun e => trigPage e.2 == page && trigBit e.2 == i) := by
  unfold State.trigsFor
  split
  · rw [← List.countP_eq_length_filter]
    exact List.countP_mono_left fun e _ => by simp only [Bool.and_eq_true]; tauto
  · simp

/-- The triggers of distinct events are distinct. -/
theorem countP_trigs_cons (l : Sparse Word) (page i : Nat) {is : List Nat} (hi : i ∉ is) :
    l.countP (fun e => trigPage e.2 == page && (i :: is).contains (trigBit e.2)) =
      l.countP (fun e => trigPage e.2 == page && trigBit e.2 == i) +
        l.countP (fun e => trigPage e.2 == page && is.contains (trigBit e.2)) := by
  induction l with
  | nil => rfl
  | cons e l ih =>
    simp only [List.countP_cons, ih]
    by_cases hp : trigPage e.2 = page
    · by_cases hb : trigBit e.2 = i
      · simp [hp, hb, hi]; omega
      · simp [hp, hb]; omega
    · simp [hp]

/-- Room for several events is room for the first. -/
theorem State.Room.head {s : State} {page i : Nat} {is : List Nat} (h : s.Room page (i :: is)) (hi : i ∉ is) :
    s.ag.caps.length + (s.trigsFor page i).length ≤ 16 := by
  have := trigsFor_length_le s page i
  rw [State.Room, countP_trigs_cons _ _ _ hi] at h
  omega

/-- Where the first of several events has fired, room is left for the others. -/
theorem State.Room.tail {s t : State} {page i : Nat} {is : List Nat} (h : s.Room page (i :: is)) (hi : i ∉ is)
    (ht : Queued (s.trigsFor page i).length s t) : t.Room page is := by
  have := trigsFor_length_le s page i
  have := ht.room
  rw [State.Room, countP_trigs_cons _ _ _ hi] at h
  rw [State.Room, ht.trigs]
  omega

theorem rd_fireEvents_evt {page p : Nat} {is : List Nat} (hd : is.Nodup) {s : State} (h : p = agPage → s.Room page is) :
    ((is.map (page, ·)).foldl (fun t (p, i) => t.fireEvent p i) s).rd p offEvt = s.rd p offEvt := by
  induction is generalizing s with
  | nil => rfl
  | cons i is ih =>
    obtain ⟨hi, hd⟩ := List.nodup_cons.1 hd
    have hroom : p = agPage → (s.fireEvent page i).Room page is := fun hp => by
      obtain ⟨hq, -⟩ := fireEvent_queued ((h hp).head hi)
      exact (h hp).tail hi hq
    rw [List.map_cons, List.foldl_cons, ih hd hroom]
    exact rd_fireEvent_evt fun hp => (h hp).head hi

/-! ## The end of a command -/

/-- `t` is `s` but for what event messages change: no event register, no capture and no Penumbra count. -/
structure MessagesOnly (s t : State) : Prop where
  ag : t.ag = s.ag
  pen : t.pen = s.pen
  evt : ∀ p, t.rd p offEvt = s.rd p offEvt

theorem beganKind_messagesOnly (s : State) (kind : Nat) : MessagesOnly s (s.beganKind kind) := by
  unfold State.beganKind
  split
  · exact ⟨rfl, rfl, fun _ => rfl⟩
  · split
    · exact ⟨rfl, rfl, fun _ => rfl⟩
    · refine ⟨rfl, rfl, fun p => s.rd_wr_key _ ?_⟩
      simp only [regKey, offEvt, hostPage]; omega

theorem beganKinds_messagesOnly (l : List Nat) (s : State) : MessagesOnly s (l.foldl State.beganKind s) where
  ag := foldl_keeps (·.ag) _ (fun s k => (beganKind_messagesOnly s k).ag) l s
  pen := foldl_keeps (·.pen) _ (fun s k => (beganKind_messagesOnly s k).pen) l s
  evt p := foldl_keeps (·.rd p offEvt) _ (fun s k => (beganKind_messagesOnly s k).evt p) l s

theorem spareFailing_none {s : State} (h : s.failing = []) : s.spareFailing = s := by simp [State.spareFailing, h]

/-- The end of a command without failing sites: counts, triggers and messages alone. -/
theorem finish_sound (s : State) {t : State} (hf : t.failing = []) (hs : t.spare.spent = false) :
    finish s t = { finishEvents s t with events := [], pending := s.pending } := by
  have : (finishEvents s t).spare.spent = false := by rw [(finishEvents_tail s t).spent, hs]
  rw [finish_eq, spareFailing_none hf]
  simp [this]

/-- The end of a command without events: messages alone. -/
theorem finish_messagesOnly (s : State) {t : State} (h : t.settled) : MessagesOnly t (finish s t) := by
  obtain ⟨he, hf, hs⟩ := h
  have hk : finishEvents s t = (newKinds s t).foldl State.beganKind t := by simp [finishEvents, he]
  obtain ⟨hag, hpen, hevt⟩ := beganKinds_messagesOnly (newKinds s t) t
  rw [finish_sound s hf hs, hk]
  exact ⟨hag, hpen, hevt⟩

/-- `t` lists the events `is` of a page beyond those of `s`, with the same Afterglow, failing sites and spares. -/
structure Raised (page : Nat) (is : List Nat) (s t : State) : Prop where
  events : t.events = s.events ++ is.map (page, ·)
  ag : t.ag = s.ag
  failing : t.failing = s.failing
  spare : t.spare = s.spare

/-- The end of a command with events of one page sets no further event bit: DROPPED stays as it is where
every capture finds room. -/
theorem rd_finish_evt {s t : State} {p page : Nat} {is : List Nat} (ht : Raised page is s t) (hset : s.settled)
    (hd : is.Nodup) (hr : p = agPage → s.ag.caps = [] ∧ s.ag.trigs.length ≤ 16) :
    (finish s t).rd p offEvt = t.rd p offEvt := by
  obtain ⟨he, hf, hs⟩ := hset
  rw [finish_sound s (ht.failing.trans hf) (by rw [ht.spare, hs])]
  refine ((beganKinds_messagesOnly _ _).evt p).trans ?_
  generalize hu : t.events.foldl _ t = u
  obtain ⟨hreg, hag, hev⟩ : u.regs = t.regs ∧ u.ag = t.ag ∧ u.events = t.events := by
    have : (u.regs, u.ag, u.events) = (t.regs, t.ag, t.events) := by
      rw [← hu]
      refine foldl_keeps (fun s : State => (s.regs, s.ag, s.events)) _ (fun s e => ?_) _ _
      dsimp only; split <;> rfl
    simpa using this
  rw [ht.ag] at hag
  rw [hev, ht.events, he, List.nil_append, rd_fireEvents_evt hd fun hp =>
    State.room_of (by rw [hag]; exact (hr hp).1) (by rw [hag]; exact (hr hp).2) _ _]
  exact State.rd_congr hreg p offEvt

/-! ## Hardware's event bits -/

/-- Hardware sets an event bit, and no other bit of the register (R492). -/
theorem State.flag_raise (s : State) (page j : Nat) {i : Nat} (h : i < 32) :
    (s.raise page i).flag page offEvt j = (s.flag page offEvt j || i == j) :=
  s.flag_setFlag page offEvt j h

/-- Events of one page raised one after the other. -/
def State.raiseAll (s : State) (page : Nat) (is : List Nat) : State := is.foldl (·.raise page ·) s

theorem raiseAll_raised {page : Nat} {s t : State} (is : List Nat) {l : List Nat} (h : Raised page l s t) :
    Raised page (l ++ is) s (t.raiseAll page is) := by
  induction is generalizing t l with
  | nil => rwa [List.append_nil]
  | cons i is ih =>
    rw [List.append_cons]
    exact ih ⟨by simp [State.raise, h.events], h.ag, h.failing, h.spare⟩

theorem rd_raiseAll_other (s : State) {page p : Nat} (is : List Nat) (h : p ≠ page) :
    (s.raiseAll page is).rd p offEvt = s.rd p offEvt :=
  foldl_keeps (fun t : State => t.rd p offEvt) (·.raise page ·)
    (fun t _ => t.rd_raise_key (by simp only [regKey, offEvt]; omega)) is s

theorem flag_raiseAll (s : State) (page j : Nat) {is : List Nat} (h : ∀ i ∈ is, i < 32) :
    (s.raiseAll page is).flag page offEvt j = (s.flag page offEvt j || is.contains j) := by
  induction is generalizing s with
  | nil => simp [State.raiseAll]
  | cons i is ih =>
    obtain ⟨hi, his⟩ := List.forall_mem_cons.1 h
    refine (ih (s.raise page i) his).trans ?_
    rw [s.flag_raise page j hi, List.contains_cons, Bool.or_assoc, Bool.beq_comm]

/-! ## Forced event bits -/

/-- A 1 of EVT_FORCE: the bit is set and its triggers fire, and no event is listed (R492). -/
def State.force (s : State) (page i : Nat) : State := (s.setFlag page offEvt i true).fireEvent page i

/-- The bits of a 32-bit value, in ascending order. -/
def onesOf (v : Nat) : List Nat := (List.range 32).filter (bit v)

theorem onesOf_lt {v i : Nat} (h : i ∈ onesOf v) : i < 32 := List.mem_range.1 (List.mem_filter.1 h).1

theorem onesOf_nodup (v : Nat) : (onesOf v).Nodup := List.nodup_range.filter _

theorem contains_onesOf (v m : Nat) {i : Nat} (h : i < 32) : (onesOf (v &&& m)).contains i = (bit v i && bit m i) := by
  rw [Bool.eq_iff_iff]; simp [onesOf, bit, h]

/-- Bits of one page forced one after the other. -/
def State.forceAll (s : State) (page : Nat) (is : List Nat) : State := is.foldl (·.force page ·) s

/-- The state without what firing triggers, setting event bits and journalling may change. -/
def State.offAg (s : State) : State := { s with regs := [], ag := {}, host := {}, freeCount := 0 }

theorem queueCap_offAg (s : State) (n : Nat) (w : Word) : (s.queueCap n w).1.offAg = s.offAg := by
  have hb : ∀ (s : State) o, (s.bump agPage o).offAg = s.offAg := by
    intro s o; simp only [State.bump]; split <;> rfl
  simp only [State.queueCap]
  split
  · exact hb s _
  · split
    · exact hb { s with ag := { s.ag with lost := true } } _
    · rfl

theorem forceAll_offAg (s : State) (page : Nat) (is : List Nat) : (s.forceAll page is).offAg = s.offAg :=
  foldl_keeps State.offAg (·.force page ·)
    (fun s i => fireEvent_keeps State.offAg queueCap_offAg (s.setFlag page offEvt i true) page i) is s

/-- Of the registers that the end of a command does not write, forced bits change the page's EVT_STATUS alone. -/
theorem rd_forceAll (s : State) (page : Nat) (is : List Nat) {p o : Nat} (ho : regOff o) (ht : (p, o) ∉ tailRegs)
    (hn : (p, o) ≠ (page, offEvt)) : (s.forceAll page is).rd p o = s.rd p o := by
  refine foldl_keeps (fun t : State => t.rd p o) (·.force page ·) (fun s i => ?_) is s
  refine ((fireEvent_tail _ page i).reg p o ho ht).trans (s.rd_wr_other _ (by decide) ho ?_)
  rintro ⟨rfl, rfl⟩; exact hn rfl

theorem Queued.trigsFor {k : Nat} {s t : State} (h : Queued k s t) (page i : Nat) :
    t.trigsFor page i = s.trigsFor page i := by
  simp only [State.trigsFor, h.trigs, State.flag_congr h.control]

/-- A set event bit changes neither Afterglow's triggers nor their switch. -/
theorem trigsFor_setFlag (s : State) (page i p j : Nat) :
    (s.setFlag page offEvt i true).trigsFor p j = s.trigsFor p j := by
  have hk : (s.setFlag page offEvt i true).rd agPage offControl = s.rd agPage offControl :=
    s.rd_wr_key _ (by simp only [regKey, offEvt, offControl]; omega)
  simp only [State.trigsFor, State.flag_congr hk]
  rfl

/-- A forced bit that finds room: its captures are pending, nothing is dropped, and room is left for the bits after it. -/
theorem force_queued {s : State} {page i : Nat} {is : List Nat} (h : s.Room page (i :: is)) (hi : i ∉ is) :
    (∃ k, Queued k (s.setFlag page offEvt i true) (s.force page i)) ∧ (s.force page i).Room page is ∧
      ∀ e ∈ s.trigsFor page i, (s.force page i).Captures e.1 := by
  have hset : (s.setFlag page offEvt i true).Room page (i :: is) := h
  obtain ⟨hq, hc⟩ := fireEvent_queued (hset.head hi)
  exact ⟨⟨_, hq⟩, hset.tail hi hq, fun e he => hc e (by rwa [trigsFor_setFlag])⟩

theorem flag_forceAll {page : Nat} {is : List Nat} (hd : is.Nodup) (hl : ∀ i ∈ is, i < 32) (j : Nat) {s : State}
    (h : page = agPage → s.Room page is) :
    (s.forceAll page is).flag page offEvt j = (s.flag page offEvt j || is.contains j) := by
  induction is generalizing s with
  | nil => simp [State.forceAll]
  | cons i is ih =>
    obtain ⟨hi, hd⟩ := List.nodup_cons.1 hd
    obtain ⟨hi32, hl⟩ := List.forall_mem_cons.1 hl
    have hset : (s.force page i).rd page offEvt = (s.setFlag page offEvt i true).rd page offEvt :=
      rd_fireEvent_evt fun hp => State.Room.head (s := s.setFlag page offEvt i true) (h hp) hi
    have hroom : page = agPage → (s.force page i).Room page is := fun hp => by
      obtain ⟨-, hroom, -⟩ := force_queued (h hp) hi
      exact hroom
    refine (ih hd hl hroom).trans ?_
    rw [State.flag_congr hset, s.flag_setFlag page offEvt j hi32, List.contains_cons, Bool.or_assoc, Bool.beq_comm]

/-- Forced bits that find room queue a capture for each of their triggers. -/
theorem forceAll_captures {page : Nat} {is : List Nat} (hd : is.Nodup) {s : State} (h : s.Room page is) :
    (∀ n, s.Captures n → (s.forceAll page is).Captures n) ∧
      ∀ i ∈ is, ∀ e ∈ s.trigsFor page i, (s.forceAll page is).Captures e.1 := by
  induction is generalizing s with
  | nil => exact ⟨fun _ h => h, by simp⟩
  | cons i is ih =>
    obtain ⟨hi, hd⟩ := List.nodup_cons.1 hd
    obtain ⟨⟨k, hq⟩, hroom, hc⟩ := force_queued h hi
    obtain ⟨hkeep, hrest⟩ := ih hd hroom
    refine ⟨fun n hn => hkeep n (hq.captures hn), fun j hj e he => ?_⟩
    rcases List.mem_cons.1 hj with rfl | hj
    · exact hkeep _ (hc e he)
    · exact hrest j hj e (by rwa [hq.trigsFor, trigsFor_setFlag])

/-! ## Orders to the event registers -/

/-- A page of one unit is no compound page. -/
theorem isCompound_of_pageKind {page : Nat} (h : pageKind page ≠ 0) : isCompound page = false ∧ isSystemUnit page = false := by
  have hlt : page < 0x3000 := by
    by_contra hn
    have hlt : ∀ n, n ≤ 0x3000 → ¬page < n := by omega
    have hne : ∀ n, n < 0x3000 → page ≠ n := by omega
    exact h (by simp [pageKind, hlt, hne])
  simp only [isCompound, isSystemUnit, Bool.and_eq_false_iff, decide_eq_false_iff_not]
  omega

/-- To whom an order answers: its originator, or the ring whose command it is. -/
def Asker.ofOrder (a : Asker) (o : Origin) : Prop := a = .order o ∨ ∃ n seq, o = .ring n ∧ a = .cmd seq

/-- Accepting an order changes the host coupling's journal alone (R361). -/
theorem accept_host (s : State) (o : Origin) (page off : Nat) (v : Word) :
    (s.accept o page off v).1.ofOrder o ∧ ∃ h, (s.accept o page off v).2.2 = { s with host := h } := by
  cases o with
  | boot => exact ⟨.inl rfl, s.host, rfl⟩
  | ring n =>
    simp only [State.accept]
    split
    · exact ⟨.inr ⟨n, _, rfl, rfl⟩, s.host, rfl⟩
    · exact ⟨.inl rfl, s.host, rfl⟩
  | hart n =>
    simp only [State.accept]
    split
    · exact ⟨.inl rfl, s.host, rfl⟩
    · exact ⟨.inl rfl, _, rfl⟩
  | operator k | custodian k | debug k | relayed r => exact ⟨.inl rfl, _, rfl⟩

theorem jFinish_host (s : State) (seq st result : Nat) (e : JEnt) : ∃ h, s.jFinish seq st result e = { s with host := h } := by
  unfold State.jFinish
  split
  · dsimp only
    split <;> exact ⟨_, rfl⟩
  · exact ⟨s.host, rfl⟩

/-- The journal entry of an order closes with its status (R362). -/
def State.closeEntry (s : State) (e : Option (Nat × JEnt)) (st : Nat) : State := match e with
  | some (n, e) => s.jFinish n st 0 e
  | none => s

theorem closeEntry_host (s : State) (e : Option (Nat × JEnt)) (st : Nat) : ∃ h, s.closeEntry e st = { s with host := h } := by
  cases e with
  | none => exact ⟨s.host, rfl⟩
  | some x => exact jFinish_host s x.1 st 0 x.2

theorem cmdDone_host (s : State) (seq st result : Nat) : ∃ h, s.cmdDone seq st result = { s with host := h } := by
  unfold State.cmdDone
  split
  · split
    · exact ⟨_, rfl⟩
    · exact ⟨s.host, rfl⟩
  · exact ⟨s.host, rfl⟩

/-- The answer to an order that acted. -/
theorem accessEnd_ok {a : Asker} {o : Origin} (ha : a.ofOrder o) (s : State) (e : Option (Nat × JEnt)) :
    ∃ h, s.accessEnd a e stOk none = { s with host := h } := by
  rcases ha with rfl | ⟨n, seq, rfl, rfl⟩
  · obtain ⟨h, hh⟩ := closeEntry_host s e stOk
    exact ⟨h, by rw [← hh]; cases o <;> rfl⟩
  · exact cmdDone_host s seq stOk 0

/-- The answer to an order that its role may not give: HOST_DENIED is raised at most (R351, R489). -/
theorem accessEnd_access {a : Asker} {o : Origin} (ha : a.ofOrder o) (s : State) (e : Option (Nat × JEnt)) :
    ∃ is h l, is.Nodup ∧ (∀ i ∈ is, i = 5) ∧
      s.accessEnd a e stAccess none = { s.raiseAll hostPage is with host := h, out := l } := by
  rcases ha with rfl | ⟨n, seq, rfl, rfl⟩
  · obtain ⟨h, hh⟩ := closeEntry_host s e stAccess
    cases o with
    | hart k | ring k => exact ⟨[5], h, _, by simp, by simp, congrArg (fun t : State => t.denied.say _) hh⟩
    | _ => exact ⟨[], h, _, by simp, by simp, congrArg (fun t : State => t.say _) hh⟩
  · obtain ⟨h, hh⟩ := cmdDone_host s.denied seq stAccess 0
    exact ⟨[5], h, s.out, by simp, by simp, hh⟩

/-- An order to a register of one unit: accepted, applied, and answered. -/
theorem order_eq (s : State) (o : Origin) {page : Nat} (off : Nat) (v : Word) (hk : pageKind page ≠ 0) :
    ∃ a e h, a.ofOrder o ∧ s.order o page off v =
      let r := ({ s with host := h } : State).applyWrite o page off v
      r.2.accessEnd a e r.1 none := by
  obtain ⟨hc, hs⟩ := isCompound_of_pageKind hk
  obtain ⟨ha, h, hh⟩ := accept_host s o page off v
  refine ⟨_, (s.accept o page off v).2.1, h, ha, ?_⟩
  simp [State.order, State.writeAny, hs, State.writeNow, pageAssigned, hk, hc, hh]

/-- A write acts where its role may change every field of the register and the page's switch is closed (R489, R496). -/
theorem applyWrite_acts {s : State} {o : Origin} {page off m : Nat} {v : Word}
    (hf : s.fields (roleOf o) page off v.toNat = (m, m)) (hm : m ≠ 0)
    (ho : pageKind page = kTile → s.spare.opened.contains (page / 36) = false) :
    s.applyWrite o page off v = s.act o page off m (v.toNat &&& m) := by
  have hmay : s.mayWrite (roleOf o) page off v.toNat = true := by simp [State.mayWrite, hf, hm]
  have hopen : (pageKind page == kTile && s.spare.opened.contains (page / 36)) = false := by
    simpa only [Bool.and_eq_false_imp, beq_iff_eq] using ho
  simp only [State.applyWrite, hf, beq_eq_false_iff_ne.2 hm, hopen, hmay, Bool.false_eq_true, Bool.not_true, if_false]

/-- A debug session's write of EVT_FORCE forces the bits that the page has (R492). -/
theorem applyWrite_force {s : State} {o : Origin} {page : Nat} (v : Word) (hd : debugOnly (roleOf o) = true)
    (ho : pageKind page = kTile → s.spare.opened.contains (page / 36) = false) :
    s.applyWrite o page offForce v = (stOk, s.forceAll page (onesOf (v.toNat &&& evtMask (pageKind page)))) := by
  have hf : s.fields (roleOf o) page offForce v.toNat = (evtMask (pageKind page), evtMask (pageKind page)) := by
    simp [State.fields, allOf, offForce, offEvt, offEvtEn, hd]
  by_cases hm : evtMask (pageKind page) = 0
  · have hnone : onesOf 0 = [] := by decide
    simp [State.applyWrite, hf, hm, hnone, State.forceAll]
  · rw [applyWrite_acts hf hm ho]
    simp only [State.forceAll, onesOf, List.foldl_filter]
    rfl

/-- A write of EVT_FORCE by another role acts nowhere. -/
theorem applyWrite_force_denied (s : State) {o : Origin} (page : Nat) (v : Word) (hd : debugOnly (roleOf o) = false) :
    ∃ st, (st = stOk ∨ st = stAccess) ∧ s.applyWrite o page offForce v = (st, s) := by
  have hf : s.fields (roleOf o) page offForce v.toNat = (evtMask (pageKind page), 0) := by
    simp [State.fields, allOf, offForce, offEvt, offEvtEn, hd]
  by_cases hm : evtMask (pageKind page) = 0
  · exact ⟨stOk, .inl rfl, by simp [State.applyWrite, hf, hm]⟩
  · have hmay : s.mayWrite (roleOf o) page offForce v.toNat = false := by simp [State.mayWrite, hf, hm]
    simp only [State.applyWrite, hf, hmay]
    split
    · exact ⟨stOk, .inl rfl, rfl⟩
    · split
      · exact ⟨stOk, .inl rfl, rfl⟩
      · exact ⟨stAccess, .inr rfl, rfl⟩

/-- The value of EVT_STATUS after a write: a 1 clears its bit where the page has one (R7). -/
def State.cleared (s : State) (page : Nat) (v : Word) : Nat :=
  s.rdN page offEvt ^^^ (s.rdN page offEvt &&& (v.toNat &&& evtMask (pageKind page)))

/-- A write of EVT_STATUS by any role but debug clears the bits that it names. -/
theorem applyWrite_evt {s : State} {o : Origin} {page : Nat} (v : Word) (hd : anyButDebug (roleOf o) = true)
    (ho : pageKind page = kTile → s.spare.opened.contains (page / 36) = false) (hm : evtMask (pageKind page) ≠ 0) :
    s.applyWrite o page offEvt v = (stOk, s.wrN page offEvt (s.cleared page v)) := by
  have hf : s.fields (roleOf o) page offEvt v.toNat = (evtMask (pageKind page), evtMask (pageKind page)) := by
    simp [State.fields, allOf, hd]
  rw [applyWrite_acts hf hm ho]
  rfl

theorem flag_cleared (s : State) (page : Nat) (v : Word) {i : Nat} (hi : i < 32) (hm : bit (evtMask (pageKind page)) i = true) :
    (s.wrN page offEvt (s.cleared page v)).flag page offEvt i = (s.flag page offEvt i && !bit v.toNat i) := by
  simp only [bit] at hm
  simp only [State.flag, bit, State.rdN_wrN_same, State.cleared, Nat.testBit_mod_two_pow, Nat.testBit_xor, Nat.testBit_and,
    hi, hm, decide_true, Bool.true_and, Bool.and_true]
  cases (s.rdN page offEvt).testBit i <;> simp

theorem order_force {s : State} {o : Origin} {page : Nat} (v : Word) (hk : pageKind page ≠ 0)
    (hd : debugOnly (roleOf o) = true) (ho : pageKind page = kTile → s.spare.opened.contains (page / 36) = false) :
    ∃ h h', s.order o page offForce v =
      { ({ s with host := h } : State).forceAll page (onesOf (v.toNat &&& evtMask (pageKind page))) with host := h' } := by
  obtain ⟨a, e, h, ha, hs⟩ := order_eq s o offForce v hk
  rw [applyWrite_force (s := { s with host := h }) v hd ho] at hs
  obtain ⟨h', hh⟩ := accessEnd_ok ha _ e
  exact ⟨h, h', hs.trans hh⟩

/-- EVT_FORCE of another role raises at most HOST_DENIED, bit 5 of the host page (R351). -/
theorem order_force_denied (s : State) {o : Origin} {page : Nat} (v : Word) (hk : pageKind page ≠ 0)
    (hd : debugOnly (roleOf o) = false) :
    ∃ is, is.Nodup ∧ Raised hostPage is s (s.order o page offForce v) ∧
      ∀ p i, (p = hostPage → i ≠ 5) → (s.order o page offForce v).flag p offEvt i = s.flag p offEvt i := by
  obtain ⟨a, e, h, ha, hs⟩ := order_eq s o offForce v hk
  obtain ⟨st, rfl | rfl, hw⟩ := applyWrite_force_denied { s with host := h } page v hd <;> rw [hw] at hs
  · obtain ⟨h', hh⟩ := accessEnd_ok ha { s with host := h } e
    rw [hs, hh]
    exact ⟨[], List.nodup_nil, ⟨(List.append_nil _).symm, rfl, rfl, rfl⟩, fun _ _ _ => rfl⟩
  · obtain ⟨is, h', l, hn, h5, hh⟩ := accessEnd_access ha { s with host := h } e
    obtain ⟨hev, hag, hf, hsp⟩ := raiseAll_raised (page := hostPage) (s := s) (t := { s with host := h }) (l := []) is
      ⟨(List.append_nil _).symm, rfl, rfl, rfl⟩
    rw [hs, hh]
    refine ⟨is, hn, ⟨hev, hag, hf, hsp⟩, fun p i hne => ?_⟩
    refine Eq.trans (b := (({ s with host := h } : State).raiseAll hostPage is).flag p offEvt i) rfl ?_
    by_cases hp : p = hostPage
    · subst hp
      have hi : is.contains i = false := by
        simpa using fun hm => hne rfl (h5 i hm)
      rw [flag_raiseAll _ hostPage i fun j hj => by simp [h5 j hj], hi, Bool.or_false]
      rfl
    · exact State.flag_congr (rd_raiseAll_other _ is hp) i

theorem order_evt {s : State} {o : Origin} {page : Nat} (v : Word) (hk : pageKind page ≠ 0)
    (hd : anyButDebug (roleOf o) = true) (ho : pageKind page = kTile → s.spare.opened.contains (page / 36) = false)
    (hm : evtMask (pageKind page) ≠ 0) :
    Raised page [] s (s.order o page offEvt v) ∧ ∀ {i}, i < 32 → bit (evtMask (pageKind page)) i = true →
      (s.order o page offEvt v).flag page offEvt i = (s.flag page offEvt i && !bit v.toNat i) := by
  obtain ⟨a, e, h, ha, hs⟩ := order_eq s o offEvt v hk
  rw [applyWrite_evt (s := { s with host := h }) v hd ho hm] at hs
  obtain ⟨h', hh⟩ := accessEnd_ok ha _ e
  rw [hs.trans hh]
  exact ⟨⟨(List.append_nil _).symm, rfl, rfl, rfl⟩, fun hi hm => flag_cleared { s with host := h } page v hi hm⟩

/-! ## The commands -/

/-- A page whose event registers an order reaches: one of a unit, and of a tile only while its switch is closed; and
Afterglow's only while every capture finds room, since a dropped one sets a bit of that page (R472). -/
structure State.EvtPage (s : State) (page : Nat) : Prop where
  unit : pageKind page ≠ 0
  room : page = agPage → s.ag.caps = [] ∧ s.ag.trigs.length ≤ 16
  closed : pageKind page = kTile → s.spare.opened.contains (page / 36) = false

theorem evtForce_eq {s : State} (hs : s.Serves) (o : Origin) (page : Nat) (v : Word) :
    exec (.evtForce o page v) s = .next (finish s (s.order o page offForce v)) := by
  have h : exec (.evtForce o page v) s = runOn s fun s => s.order o page offForce v := rfl
  rw [h, runOn_on hs.on]

section
variable {s : State} {o : Origin} {page : Nat} (v : Word) (hp : s.EvtPage page) (hd : debugOnly (roleOf o) = true)
include hp hd

theorem order_force_offAg : (s.order o page offForce v).offAg = s.offAg := by
  obtain ⟨h, h', ht⟩ := order_force v hp.unit hd hp.closed
  rw [ht]
  exact forceAll_offAg { s with host := h } page _

theorem order_force_flag {i : Nat} (hi : i < 32) : (s.order o page offForce v).flag page offEvt i =
    (s.flag page offEvt i || (bit v.toNat i && bit (evtMask (pageKind page)) i)) := by
  obtain ⟨h, h', ht⟩ := order_force v hp.unit hd hp.closed
  rw [ht, ← contains_onesOf _ _ hi]
  exact flag_forceAll (s := { s with host := h }) (onesOf_nodup _) (fun _ => onesOf_lt) i fun hag =>
    State.room_of (hp.room hag).1 (hp.room hag).2 _ _

theorem order_force_rd {p off : Nat} (hr : regOff off) (hn : (p, off) ∉ tailRegs) (hne : (p, off) ≠ (page, offEvt)) :
    (s.order o page offForce v).rd p off = s.rd p off := by
  obtain ⟨h, h', ht⟩ := order_force v hp.unit hd hp.closed
  rw [ht]
  exact rd_forceAll { s with host := h } page _ hr hn hne

theorem order_force_captures {i : Nat} (hi : i < 32) (hv : bit v.toNat i = true)
    (hm : bit (evtMask (pageKind page)) i = true) (hroom : s.Room page (onesOf (v.toNat &&& evtMask (pageKind page)))) :
    ∀ e ∈ s.trigsFor page i, (s.order o page offForce v).Captures e.1 := by
  obtain ⟨h, h', ht⟩ := order_force v hp.unit hd hp.closed
  have hmem : i ∈ onesOf (v.toNat &&& evtMask (pageKind page)) := by
    rw [← List.contains_iff_mem, contains_onesOf _ _ hi, hv, hm]; rfl
  rw [ht]
  exact (forceAll_captures (s := { s with host := h }) (onesOf_nodup _) hroom).2 i hmem

theorem order_force_settled (hs : s.settled) : (s.order o page offForce v).settled := by
  have h := order_force_offAg v hp hd
  obtain ⟨he, hf, hsp⟩ := hs
  exact ⟨((congrArg State.events h :)).trans he, ((congrArg State.failing h :)).trans hf,
    ((congrArg (fun s : State => s.spare.spent) h :)).trans hsp⟩

/-- EVT_FORCE of a debug session: what it sets, what it captures, and all that it leaves (R492). -/
theorem evtForce_debug (hs : s.Serves) :
    Gives (exec (.evtForce o page v) s) fun u =>
      (∀ i, i < 32 → u.flag page offEvt i =
        (s.flag page offEvt i || (bit v.toNat i && bit (evtMask (pageKind page)) i))) ∧
      (∀ i n w, i < 32 → bit v.toNat i = true → bit (evtMask (pageKind page)) i = true →
        s.flag agPage offControl 0 = true → (n, w) ∈ s.ag.trigs → trigOn w = true → trigPage w = page → trigBit w = i →
        s.ag.caps = [] → s.ag.trigs.length ≤ 16 → ∃ c ∈ u.ag.caps, c.trig = n) ∧
      (∀ p off, regOff off → (p, off) ∉ tailRegs → (p, off) ≠ (page, offEvt) → u.rd p off = s.rd p off) ∧
      u.steps = s.steps ∧ u.tiles = s.tiles ∧ u.mem = s.mem ∧ u.slices = s.slices ∧ u.hbm = s.hbm ∧ u.pen = s.pen := by
  have hset := order_force_settled v hp hd hs.settled
  have hoff := order_force_offAg v hp hd
  obtain ⟨hag, hpen, hevt⟩ := finish_messagesOnly s hset
  have htail := finish_tail s hset.spared
  refine ⟨_, evtForce_eq hs o page v, fun i hi => ?_, ?_, fun p off hr hn hne => ?_, ?_⟩
  · rw [State.flag_congr (hevt page), order_force_flag v hp hd hi]
  · intro i n w hi hv hm hon hmem hw hpg hb hc hl
    rw [hag]
    refine order_force_captures v hp hd hi hv hm (State.room_of hc hl _ _) (n, w) ?_
    have hk : (pageKind page != 0) = true := by simpa using hp.unit
    simp [State.trigsFor, hon, hmem, hw, hpg, hb, hk]
  · rw [htail.reg p off hr hn, order_force_rd v hp hd hr hn hne]
  · have hbody {α : Type} (g : State → α) (h1 : ∀ t : State, g t.body = g t) (h2 : ∀ t : State, g t.offAg = g t) :
        g (finish s (s.order o page offForce v)) = g s := by
      rw [← h1, htail.body, h1, ← h2, hoff, h2]
    exact ⟨hbody (·.steps) (fun _ => rfl) fun _ => rfl, hbody (·.tiles) (fun _ => rfl) fun _ => rfl,
      hbody (·.mem) (fun _ => rfl) fun _ => rfl, hbody (·.slices) (fun _ => rfl) fun _ => rfl,
      hbody (·.hbm) (fun _ => rfl) fun _ => rfl, hpen.trans (congrArg State.pen hoff :)⟩

end

/-- EVT_FORCE of another role sets no event bit; a host's raises HOST_DENIED, bit 5 of the host page (R351). -/
theorem evtForce_denied {s : State} {o : Origin} {page : Nat} (v : Word) (hs : s.Serves) (hp : s.EvtPage page)
    (hd : debugOnly (roleOf o) = false) :
    Gives (exec (.evtForce o page v) s) fun u =>
      ∀ i, i < 32 → (page = hostPage → i ≠ 5) → u.flag page offEvt i = s.flag page offEvt i := by
  refine ⟨_, evtForce_eq hs o page v, fun i hi hne => ?_⟩
  obtain ⟨is, hnd, ht, hflag⟩ := order_force_denied s v hp.unit hd
  rw [State.flag_congr (rd_finish_evt ht hs.settled hnd hp.room), hflag page i hne]

/-- A write of EVT_STATUS alone in its cycle: the order, then the bits that hardware sets (R8). -/
theorem registerWrite_evt_eq {s : State} (hs : s.Serves) (o : Origin) (page : Nat) (v hw : Word) :
    exec (.registerWrite { origin := o, page := page, off := offEvt, value := v } [] hw) s = .next (finish s
      ((s.order o page offEvt v).raiseAll page (onesOf (hw.toNat &&& evtMask (pageKind page))))) := by
  have h : exec (.registerWrite { origin := o, page := page, off := offEvt, value := v } [] hw) s =
      runOn s fun s => (List.range 32).foldl (fun s i =>
        if bit hw.toNat i && bit (evtMask (pageKind page)) i then s.raise page i else s) (s.order o page offEvt v) := rfl
  rw [h, runOn_on hs.on]
  simp [State.raiseAll, onesOf, List.foldl_filter, bit]

/-- A write of EVT_STATUS clears the bits that it names; one that hardware sets in the same cycle reads 1 (R8). -/
theorem registerWrite_evt {s : State} {o : Origin} {page : Nat} (v hw : Word) (hs : s.Serves) (hp : s.EvtPage page)
    (hd : anyButDebug (roleOf o) = true) :
    Gives (exec (.registerWrite { origin := o, page := page, off := offEvt, value := v } [] hw) s) fun u =>
      ∀ i, i < 32 → bit (evtMask (pageKind page)) i = true → u.flag page offEvt i =
        (bit hw.toNat i || (s.flag page offEvt i && !bit v.toNat i)) := by
  refine ⟨_, registerWrite_evt_eq hs o page v hw, fun i hi hm => ?_⟩
  have hmask : evtMask (pageKind page) ≠ 0 := by rintro h0; simp [h0, bit] at hm
  obtain ⟨ht, hflag⟩ := order_evt v hp.unit hd hp.closed hmask
  have hr := raiseAll_raised (onesOf (hw.toNat &&& evtMask (pageKind page))) ht
  rw [List.nil_append] at hr
  rw [State.flag_congr (rd_finish_evt hr hs.settled (onesOf_nodup _) hp.room), flag_raiseAll _ page i fun _ => onesOf_lt,
    contains_onesOf _ _ hi, hm, Bool.and_true, hflag hi hm, Bool.or_comm]

/-- Settles O43: one lemma per kind of order to an event register. -/
theorem eventBitsFollowTheirRules : Obligations.EventBitsFollowTheirRules := by
  unfold Obligations.EventBitsFollowTheirRules
  intro s page o v
  refine ⟨fun i hi => ⟨s.flag_raise_same page i hi, s.rd_raise_key ?_, fun j _ hj => ?_⟩, s.signals_iff page,
    fun hs => ⟨_, evtForce_eq hs o page v, finish_tail s, finish_stops s⟩, fun hs hk hag hopen => ?_⟩
  · simp only [regKey, offEvt, offEvtEn]; omega
  · exact s.flag_setFlag_bit page offEvt i j true hi hj.symm
  · have hp : s.EvtPage page := ⟨hk, hag, hopen⟩
    exact ⟨fun hd => evtForce_debug v hp hd hs, fun hd => evtForce_denied v hs hp hd,
      fun hw hd => registerWrite_evt v hw hs hp hd⟩

end Sys2Proof.Machine
end

section
/-!
PROOF. Formats of matrix operands (R46, R47): which words of MMA and MMAZ are legal, what an instruction leaves of the event
bits of its tile, and `Obligations.MatrixFormatsFollowTheirRule` from these.
-/
namespace Sys2Proof.Machine

/-! ## Legal matrix words -/

/-- The pairs of format codes that R47 allows: both F16W, or each F8F or F8B. -/
def MatPair (fa fb : Nat) : Prop := (fa = 1 ∧ fb = 1) ∨ ((fa = 2 ∨ fa = 3) ∧ (fb = 2 ∨ fb = 3))

/-- The alignment of operand blocks, by the format of A (R46). -/
def matAlign (fa : Nat) : Nat := if fa = 1 then 2048 else 1024

/-- The fields of a matrix word beside its formats are sound (R38, R46; assumption 75). -/
def MatFields (w : BitVec 128) : Prop :=
  commonOk { a := true, b := true, acc := true, matrix := true } w = true ∧
    fld w 63 50 * 64 % matAlign (fmtA w) = 0 ∧ fld w 49 36 * 64 % matAlign (fmtA w) = 0 ∧
    (fmtA w = 1 → fld w 35 21 = 0 ∧ fld w 20 6 = 0) ∧ (heritageOf w && rescaleOf w) = false

/-- F8F and F8B are the 8-bit formats, F16W the 16-bit one. -/
theorem fmtOfCode_bits {c : Nat} {f : FFmt} (h : fmtOfCode c = some f) :
    (f.bits = 8 ↔ c = 2 ∨ c = 3) ∧ (f.bits = 16 ↔ c = 1) := by
  match c, h with
  | 0, rfl => decide
  | 1, rfl => decide
  | 2, rfl => decide
  | 3, rfl => decide

/-- Both codes of an allowed pair name a format. -/
theorem MatPair.formats {a b : Nat} (h : MatPair a b) : ∃ fa fb, fmtOfCode a = some fa ∧ fmtOfCode b = some fb := by
  rcases h with ⟨rfl, rfl⟩ | ⟨rfl | rfl, rfl | rfl⟩ <;> exact ⟨_, _, rfl, rfl⟩

/-- A matrix word is legal exactly where its formats are a pair of R47 and its other fields are sound. -/
theorem matLegal_iff (w : BitVec 128) : matLegal w = true ↔ MatPair (fmtA w) (fmtB w) ∧ MatFields w := by
  by_cases h : ∃ fa fb, fmtOfCode (fmtA w) = some fa ∧ fmtOfCode (fmtB w) = some fb
  · obtain ⟨fa, fb, ha, hb⟩ := h
    obtain ⟨ha8, ha16⟩ := fmtOfCode_bits ha
    obtain ⟨hb8, hb16⟩ := fmtOfCode_bits hb
    have hpair : MatPair (fmtA w) (fmtB w) ↔ (fa.bits = 8 ∨ fa.bits = 16) ∧ fa.bits = fb.bits := by
      rw [MatPair, ← ha16, ← hb16, ← ha8, ← hb8]; omega
    simp only [matLegal, matOps, ha, hb, hpair, MatFields, matAlign, MatOps.size, ← ha16]
    by_cases hsize : fa.bits = fb.bits
    · by_cases h8 : fb.bits = 8
      · simp [hsize, h8, imp_iff_not_or, and_assoc]
      · by_cases h16 : fb.bits = 16
        · simp [hsize, h16, imp_iff_not_or, and_assoc]
        · simp [hsize, h8, h16]
    · simp [hsize]
  · have hpair : ¬ MatPair (fmtA w) (fmtB w) := fun hp => h hp.formats
    have hops : matOps w = none := by
      simp only [matOps]; split
      · exact absurd ⟨_, _, ‹_›, ‹_›⟩ h
      · rfl
    simp [matLegal, hops, hpair]

/-! ## Event bits of the tile -/

/-- A logged address changes no event register. -/
theorem rd_logAddr_evt (s : State) (p a q : Nat) : (s.logAddr p a).rd q offEvt = s.rd q offEvt := by
  have hlo : regKey p offErrLo ≠ regKey q offEvt := by simp only [regKey, offErrLo, offEvt]; omega
  have hhi : regKey p offErrHi ≠ regKey q offEvt := by simp only [regKey, offErrHi, offEvt]; omega
  simp only [State.logAddr, State.wrN]
  rw [State.rd_wr_key _ _ hhi, State.rd_wr_key _ _ hlo]

theorem rd_logErr_evt (s : State) (p a q : Nat) : (s.logErr p a).rd q offEvt = s.rd q offEvt := by
  have hcount : regKey p offErrCount ≠ regKey q offEvt := by simp only [regKey, offErrCount, offEvt]; omega
  simp only [State.logErr, State.bumpSat, State.wrN]
  rw [rd_logAddr_evt, State.rd_wr_key _ _ hcount]

/-- An address fault of a tile is logged on its page and raised as bit 3. -/
theorem addrFault_tile (s : State) (t a : Nat) : s.addrFault (.tile t) a =
    (if pageKind t == kTile || pageKind t == kPcie then s.logErr t a else s.logAddr t a).raise t 3 := rfl

/-- It sets no other event bit (R21). -/
theorem addrFault_flag (s : State) (t a : Nat) {i : Nat} (hi : i ≠ 3) :
    (s.addrFault (.tile t) a).flag t offEvt i = s.flag t offEvt i := by
  rw [addrFault_tile, State.flag_raise _ _ _ (by decide), beq_eq_false_iff_ne.2 hi.symm, Bool.or_false]
  refine State.flag_congr ?_ i
  split
  · exact rd_logErr_evt s t a t
  · exact rd_logAddr_evt s t a t

/-- Reads past the end of scratch are address faults (R40). -/
theorem faultReads_flag (s : State) (t : Nat) (rs : List (Nat × Nat)) {i : Nat} (hi : i ≠ 3) :
    (s.faultReads t rs).flag t offEvt i = s.flag t offEvt i :=
  foldl_keeps (·.flag t offEvt i) _ (fun s r => by
    dsimp only; split
    · exact addrFault_flag s t _ hi
    · rfl) rs s

theorem ready_flag (s : State) (t : Nat) (rs ws : List (Nat × Nat)) {i : Nat} (hi : i ≠ 3) :
    (s.ready t rs ws).flag t offEvt i = s.flag t offEvt i := faultReads_flag s t rs hi

theorem writeScalars_flag (s : State) (t : Nat) {i : Nat} (hi : i ≠ 3) :
    (s.writeScalars t).flag t offEvt i = s.flag t offEvt i := by
  unfold State.writeScalars State.putScratch
  split
  · dsimp only; split
    · exact addrFault_flag _ t _ hi
    · rfl
  · rfl

theorem Quiet.flag {n : Nat} {s t : State} (h : Quiet n s t) (p o i : Nat) : t.flag p o i = s.flag p o i :=
  State.flag_congr (State.rd_congr (congrArg State.regs h.rest :) p o) i

/-- The progress of a stream sets no event bit but that of an address fault. -/
theorem advance_flag (s : State) (t : Nat) {i : Nat} (hi : i ≠ 3) :
    (s.advance t).flag t offEvt i = s.flag t offEvt i := by
  unfold State.advance
  split
  · rfl
  · dsimp only
    rw [(reachNext_quiet _ t).flag]
    split
    · rw [(closeTile_quiet _ t _ _ _).flag]
      split
      · exact writeScalars_flag _ t hi
      · rfl
    · split
      · exact writeScalars_flag _ t hi
      · rfl

/-! ## Instructions at a site -/

/-- The end of a command keeps the event bits of a tile. -/
theorem Tail.tile_flag {t u : State} (h : Tail t u) {n : Nat} (hn : n < 1152) (i : Nat) :
    u.flag n offEvt i = t.flag n offEvt i := by
  refine State.flag_congr (h.reg n offEvt (by decide) ?_) i
  simp [tailRegs, offEvt, sparePage, agPage, hostPage, offStatus]; omega

/-- An effect on the tile alone leaves no unit without a spare. -/
theorem ready_advance_spared {s : State} (hs : s.settled) (t : Nat) (rs ws : List (Nat × Nat)) (g : Tile → Tile) :
    (((s.ready t rs ws).modTile t g).advance t).Spared := by
  obtain ⟨-, hfail, hspent⟩ := hs
  obtain ⟨ha, -⟩ := advance_stream ((s.ready t rs ws).modTile t g) t
  have hrest := ha.rest.trans (ready_rest s t rs ws)
  refine State.spared_of ((congrArg State.failing hrest :).trans hfail) ?_
  exact (congrArg (·.spare.spent) hrest :).trans hspent

/-- The outcome of an instruction depends on what its effect makes of the state that it meets. -/
theorem instrRun_congr {f g : State → State} {s : State} (h : f s = g s) (fits : Bool) (t : Nat) :
    instrRun fits t s f = instrRun fits t s g := by
  simp only [instrRun, tileRun, runPart, runOn, State.awake, h]

/-- An instruction with an effect on its tile alone that writes no scratch: what its tile holds, and that it sets no event
bit but that of an address fault. -/
theorem issue_gives {s : State} {t : Nat} {w : BitVec 128} {q : State → Issue} (hc : s.CanIssue t w (q s))
    (hq : (q s).writes = []) {fits : Bool} (hw : fits = true) (g : Tile → Tile) :
    Gives (instrRun fits t s fun s => s.issue t w (q s) (·.modTile t g)) fun u =>
      (u.tile t).datapath = (g (s.tile t)).datapath ∧ ∀ i, i ≠ 3 → u.flag t offEvt i = s.flag t offEvt i := by
  rw [instrRun_congr (g := fun s' => s'.issue t w (q s) (·.modTile t g)) rfl]
  generalize q s = q at hc hq
  refine (issue_performs hc hw (·.modTile t g)).gives (ready_advance_spared hc.awake.settled t _ _ g) fun u hu => ?_
  obtain ⟨ha, -⟩ := advance_stream ((s.ready t q.reads q.writes).modTile t g) t
  obtain ⟨-, hready⟩ := ready_tiles s t q.reads q.writes
  refine ⟨?_, fun i hi => ?_⟩
  · have hu' : u.tile t = (((s.ready t q.reads q.writes).modTile t g).advance t).tile t :=
      tile_of_tiles (congrArg State.tiles hu.body :) t
    rw [hu', ha.data, State.tile_modTile_same, hready, hq, Tile.retirePf_nil]
  · rw [hu.tile_flag hc.site, advance_flag _ t hi]
    exact ready_flag s t q.reads q.writes hi

theorem cause_keeps (s : State) (tag i : Nat) :
    (s.cause tag i).regs = s.regs ∧ (s.cause tag i).tiles = s.tiles ∧ (s.cause tag i).mem = s.mem := by
  unfold State.cause; split <;> exact ⟨rfl, rfl, rfl⟩

/-- An instruction with a reserved value raises ILLEGAL_INSTR, bit 7 of its tile's events, and has no effect (R38). -/
theorem issue_illegal {s : State} {t : Nat} {w : BitVec 128} {e : Nat} (hc : s.CanIssue t w { eng := e, form := true })
    {q : State → Issue} (hq : (q s).form = false) {fits : Bool} (hw : fits = true) (f : State → State) :
    ∃ v, Performs (instrRun fits t s fun s => s.issue t w (q s) f) t v ∧ v.flag t offEvt 7 = true ∧
      v.tiles = s.tiles ∧ v.mem = s.mem := by
  have hissue : s.issue t w (q s) f = s.illegal t := by
    have hfree : s.holds t w [] [] = none := hc.free
    simp [State.issue, hq, hfree]
  obtain ⟨hregs, htiles, hmem⟩ := cause_keeps (s.raise t 7) (s.tagOf t) cHardware
  refine ⟨(s.raise t 7).cause (s.tagOf t) cHardware, ?_, ?_, htiles, hmem⟩
  · subst hw
    have hrun := tileRun_ends hc.site hc.awake fun s => s.issue t w (q s) f
    rw [hissue] at hrun
    exact hrun
  · rw [State.flag_congr (State.rd_congr hregs t offEvt)]
    exact s.flag_raise_same t 7 (by decide)

/-! ## MMA and MMAZ -/

/-- The contents that an index has when a matrix instruction starts: MMAZ (`z`) takes +0.0 (R49, R94). -/
def Tile.matEntry (x : Tile) (w : BitVec 128) (z : Bool) : Acc := if z then Acc.zero else x.accAt (accOf w)

/-- The outcome of MMA (`z` false) and MMAZ at a site. -/
def matExec (op t : Nat) (w : BitVec 128) (z : Bool) (s : State) : Host.Outcome State Fault Refusal :=
  instrRun (isOp w op) t s fun s => s.issue t w (s.matrixIssue t w z) (·.modTile t (·.matrix w z))

theorem exec_mma (t : Nat) (w : BitVec 128) (s : State) : exec (.mma t w) s = matExec 0x10 t w false s := rfl

theorem exec_mmaz (t : Nat) (w : BitVec 128) (s : State) : exec (.mmaz t w) s = matExec 0x11 t w true s := rfl

/-- A matrix instruction leaves in its index what its blocks make of the contents at entry. -/
theorem Tile.accAt_matrix (x : Tile) (w : BitVec 128) (z : Bool) :
    (x.matrix w z).accAt (accOf w) = matRun x w (x.matEntry w z) := by
  unfold Tile.matrix Tile.matEntry
  dsimp only
  split <;> exact sget_sput_same _ _ _ _

theorem accAt_congr {x y : Tile} (h : x.datapath = y.datapath) (i : Nat) : x.accAt i = y.accAt i :=
  (congrArg (Tile.accAt · i) h :)

section

variable {s : State} {op t : Nat} {w : BitVec 128} {z : Bool}

/-- With an allowed pair and sound fields the instruction runs: it does not raise ILLEGAL_INSTR. -/
theorem matExec_runs (hop : isOp w op = true) (hpair : MatPair (fmtA w) (fmtB w)) (hrest : MatFields w)
    (hc : s.CanIssue t w { s.matrixIssue t w z with form := true }) : Gives (matExec op t w z s) fun u =>
      (u.tile t).accAt (accOf w) = matRun (s.tile t) w ((s.tile t).matEntry w z) ∧
        u.flag t offEvt 7 = s.flag t offEvt 7 := by
  have hlegal : { s.matrixIssue t w z with form := true } = s.matrixIssue t w z := by
    simp [State.matrixIssue, (matLegal_iff w).2 ⟨hpair, hrest⟩]
  rw [hlegal] at hc
  obtain ⟨u, hu, hdata, hflag⟩ := issue_gives (q := (·.matrixIssue t w z)) hc rfl hop (·.matrix w z)
  exact ⟨u, hu, (accAt_congr hdata _).trans (Tile.accAt_matrix _ _ _), hflag 7 (by decide)⟩

/-- With any other pair it is illegal. -/
theorem matExec_stops (hop : isOp w op = true) (hpair : ¬ MatPair (fmtA w) (fmtB w))
    (hc : s.CanIssue t w { eng := engMatrix, form := true }) : ∃ v, Performs (matExec op t w z s) t v ∧
      v.flag t offEvt 7 = true ∧ v.tiles = s.tiles ∧ v.mem = s.mem :=
  issue_illegal hc (q := (·.matrixIssue t w z))
    (Bool.eq_false_iff.2 fun h => hpair ((matLegal_iff w).1 h).1) hop _

end

/-- Settles O56: `matLegal_iff` says which words are legal, and a legal word runs where another stops. -/
theorem matrixFormatsFollowTheirRule : Obligations.MatrixFormatsFollowTheirRule := by
  unfold Obligations.MatrixFormatsFollowTheirRule
  intro s t w
  dsimp only
  rw [exec_mma, exec_mmaz]
  exact ⟨fun hop => ⟨matExec_runs hop, matExec_stops hop⟩, fun hop => ⟨matExec_runs hop, matExec_stops hop⟩⟩

end Sys2Proof.Machine
end

section
/-!
PROOF. MIN and MAX (R82): the order of FP32 values as the order of their codes, what MIN and MAX make of a lane, and
`Obligations.MinAndMaxFollowTheirRule` from these.
-/
namespace Sys2Proof.Machine

/-! ## Magnitude codes -/

/-- The exponent and fraction fields of an FP32 encoding, without its sign. -/
def magCode (a : Word) : Nat := (a &&& 0x7FFFFFFF).toNat

/-- The code of +infinity: that of a NaN is larger (R77). -/
def infMag : Nat := 0x7F800000

/-- An FP32 encoding is its sign bit above its magnitude code. -/
theorem toNat_eq_magCode (a : Word) : magCode a < 2 ^ 31 ∧ a.toNat = magCode a + if a.msb then 2 ^ 31 else 0 := by
  have hmag : magCode a = a.toNat % 2 ^ 31 := by
    rw [magCode, BitVec.toNat_and]; exact Nat.and_two_pow_sub_one_eq_mod _ 31
  have hmsb := a.msb_eq_decide
  have hlt := a.isLt
  by_cases h : 2 ^ 31 ≤ a.toNat
  · simp only [hmsb, h, decide_true, if_true]; omega
  · simp only [hmsb, h, decide_false, Bool.false_eq_true, if_false]; omega

/-- The exponent of the grid of a code above that of the smallest grid, 2^-149: subnormal values share the grid of the
smallest normal ones (R76). -/
def gridOf (c : Nat) : Nat := c / 2 ^ 23 - 1

/-- The significand of a code: the fraction, below its hidden bit where the value is normal. -/
def significand (c : Nat) : Nat := c - 2 ^ 23 * gridOf c

/-- A code's magnitude as a multiple of 2^-149. -/
def codeUnits (c : Nat) : Nat := significand c * 2 ^ gridOf c

theorem significand_lt (c : Nat) : significand c < 2 ^ 24 := by
  simp only [significand, gridOf]; omega

/-- Larger codes have larger magnitudes. -/
theorem codeUnits_strictMono : StrictMono codeUnits := by
  intro c d hcd
  have hgrid : gridOf c ≤ gridOf d := by simp only [gridOf]; omega
  rcases hgrid.eq_or_lt with heq | hlt
  · have hsig : significand c < significand d := by simp only [significand, gridOf] at heq ⊢; omega
    simpa only [codeUnits, heq] using Nat.mul_lt_mul_of_pos_right hsig (Nat.two_pow_pos _)
  · have hsig : 2 ^ 23 ≤ significand d := by simp only [significand, gridOf] at hlt ⊢; omega
    calc codeUnits c < 2 ^ 24 * 2 ^ gridOf c := Nat.mul_lt_mul_of_pos_right (significand_lt c) (Nat.two_pow_pos _)
      _ = 2 ^ 23 * 2 ^ (gridOf c + 1) := by rw [Nat.pow_succ]; omega
      _ ≤ 2 ^ 23 * 2 ^ gridOf d := Nat.mul_le_mul_left _ (Nat.pow_le_pow_right (by decide) hlt)
      _ ≤ codeUnits d := Nat.mul_le_mul_right _ hsig

/-! ## Signed codes -/

/-- The magnitude code under the sign, in which both zeros are 0. -/
def signedCode (a : Word) : Int := if a.msb then -(magCode a : Int) else magCode a

/-- The value of a signed code as a multiple of 2^-149. -/
def signedUnits (z : Int) : Int := z.sign * codeUnits z.natAbs

theorem signedUnits_strictMono : StrictMono signedUnits := by
  refine strictMono_of_odd_strictMonoOn_nonneg (fun z => by simp [signedUnits]) fun y hy z _ hyz => ?_
  obtain ⟨c, rfl⟩ := Int.eq_ofNat_of_zero_le hy
  obtain ⟨d, rfl⟩ := Int.eq_ofNat_of_zero_le (le_trans hy hyz.le)
  have h0 : codeUnits 0 = 0 := rfl
  have hnat : ∀ n : Nat, signedUnits n = codeUnits n := fun n => by
    rcases n.eq_zero_or_pos with rfl | hn
    · rfl
    · simp [signedUnits, Int.sign_eq_one_of_pos (Int.natCast_pos.2 hn)]
  rw [hnat, hnat]
  exact_mod_cast codeUnits_strictMono (Int.ofNat_lt.1 hyz)

/-! ## Comparison of exact values -/

/-- A value on a finer grid. -/
theorem onGrid_finer (n : Bool) (m : Nat) {e g h : Int} (hg : g ≤ e) (hh : h ≤ g) :
    onGrid n m e h = onGrid n m e g * 2 ^ (g - h).toNat := by
  have : (e - h).toNat = (e - g).toNat + (g - h).toNat := by omega
  simp only [onGrid, this, pow_add]
  split <;> ring

/-- Two finite values compare as they do on any grid that holds both. -/
theorem FVal.compare_fin {n₁ n₂ : Bool} {m₁ m₂ : Nat} {e₁ e₂ h : Int} (h₁ : h ≤ e₁) (h₂ : h ≤ e₂) :
    ((FVal.fin n₁ m₁ e₁).lt (.fin n₂ m₂ e₂) = true ↔ onGrid n₁ m₁ e₁ h < onGrid n₂ m₂ e₂ h) ∧
      ((FVal.fin n₁ m₁ e₁).eq (.fin n₂ m₂ e₂) = true ↔ onGrid n₁ m₁ e₁ h = onGrid n₂ m₂ e₂ h) := by
  have hpos : (0 : Int) < 2 ^ (min e₁ e₂ - h).toNat := by positivity
  rw [onGrid_finer n₁ m₁ (min_le_left e₁ e₂) (le_min h₁ h₂), onGrid_finer n₂ m₂ (min_le_right e₁ e₂) (le_min h₁ h₂),
    mul_lt_mul_iff_left₀ hpos, mul_left_inj' hpos.ne']
  simp [FVal.lt, FVal.eq]

/-! ## Decoded words -/

/-- The value of an FP32 encoding (R76, R77). -/
theorem decode32_eq (a : Word) : decode32 a =
    if magCode a < infMag then .fin a.msb (significand (magCode a)) (gridOf (magCode a) - 149)
    else if magCode a = infMag then .inf a.msb else .nan := by
  obtain ⟨hlt, ha⟩ := toNat_eq_magCode a
  have hmag : a.toNat % 2 ^ 31 = magCode a := by rw [ha]; split <;> omega
  have hsign : a.toNat.testBit 31 = a.msb := a.msb_eq_getLsbD_last.symm
  simp only [decode32, decodeF, fp32, hmag, hsign, Nat.add_one_sub_one]
  generalize magCode a = c
  by_cases hfin : c < infMag
  · have hmax : ¬c > 0x7F7FFFFF := by simp only [infMag] at hfin; omega
    rw [if_neg hmax, if_pos hfin]
    by_cases hsub : c / 2 ^ 23 = 0
    · simp only [hsub, beq_self_eq_true, if_true, significand, gridOf]
      exact congrArg₂ (FVal.fin _) (by omega) rfl
    · simp only [beq_eq_false_iff_ne.2 hsub, Bool.false_eq_true, if_false, significand, gridOf]
      exact congrArg₂ (FVal.fin _) (by omega) (by omega)
  · have hmax : c > 0x7F7FFFFF := by simp only [infMag] at hfin; omega
    rw [if_pos hmax, if_neg hfin]
    simp only [Option.some_beq_some, beq_iff_eq, eq_comm (b := c)]; rfl

theorem decode32_fin {a : Word} (h : magCode a < infMag) :
    decode32 a = .fin a.msb (significand (magCode a)) (gridOf (magCode a) - 149) := by rw [decode32_eq, if_pos h]

theorem decode32_inf {a : Word} (h : magCode a = infMag) : decode32 a = .inf a.msb := by
  rw [decode32_eq, if_neg h.not_lt, if_pos h]

/-- A code beyond that of infinity is a NaN (R77). -/
theorem isNaN_decode32 (a : Word) : (decode32 a).isNaN = true ↔ infMag < magCode a := by
  rcases lt_trichotomy (magCode a) infMag with h | h | h
  · simp [decode32_fin h, FVal.isNaN, h.le]
  · simp [decode32_inf h, FVal.isNaN, h]
  · simp [decode32_eq, FVal.isNaN, h, h.not_gt, h.ne']

theorem sign_decode32 {a : Word} (h : magCode a ≤ infMag) : (decode32 a).sign = a.msb := by
  rcases h.lt_or_eq with h | h
  · rw [decode32_fin h]; rfl
  · rw [decode32_inf h]; rfl

/-- On the smallest grid, a finite word is its signed code's value. -/
theorem onGrid_significand (a : Word) :
    onGrid a.msb (significand (magCode a)) (gridOf (magCode a) - 149) (-149) = signedUnits (signedCode a) := by
  have h0 : codeUnits 0 = 0 := rfl
  have hgrid : ((gridOf (magCode a) : Int) - 149 - -149).toNat = gridOf (magCode a) := by omega
  simp only [onGrid, hgrid, signedUnits, signedCode]
  generalize magCode a = c
  rcases c.eq_zero_or_pos with rfl | hc
  · simp [significand]
  · have := Int.sign_eq_one_of_pos (Int.natCast_pos.2 hc)
    cases a.msb <;> simp [codeUnits, this]

/-- Values other than NaN compare as their signed codes do: a format's codes ascend with its values, up to infinity. -/
theorem decode32_compare {a b : Word} (ha : magCode a ≤ infMag) (hb : magCode b ≤ infMag) :
    ((decode32 a).lt (decode32 b) = true ↔ signedCode a < signedCode b) ∧
      ((decode32 a).eq (decode32 b) = true ↔ signedCode a = signedCode b) := by
  rcases ha.lt_or_eq with ha | ha
  · rcases hb.lt_or_eq with hb | hb
    · rw [decode32_fin ha, decode32_fin hb, ← signedUnits_strictMono.lt_iff_lt, ← signedUnits_strictMono.injective.eq_iff,
        ← onGrid_significand, ← onGrid_significand]
      exact FVal.compare_fin (by omega) (by omega)
    · rw [decode32_fin ha, decode32_inf hb]
      simp only [FVal.lt, FVal.eq, signedCode]
      cases a.msb <;> cases b.msb <;> simp <;> omega
  · rcases hb.lt_or_eq with hb | hb
    · rw [decode32_inf ha, decode32_fin hb]
      simp only [FVal.lt, FVal.eq, signedCode]
      cases a.msb <;> cases b.msb <;> simp <;> omega
    · rw [decode32_inf ha, decode32_inf hb]
      simp only [FVal.lt, FVal.eq, signedCode, ha, hb]
      cases a.msb <;> cases b.msb <;> decide

/-! ## The order of MIN and MAX -/

/-- The place of a word in the order of MIN and MAX, where −0 is just below +0 (R82). -/
def orderCode (a : Word) : Int := if a.msb then -(magCode a : Int) - 1 else magCode a

/-- No two words share a place in the order. -/
theorem orderCode_injective : Function.Injective orderCode := by
  intro a b h
  obtain ⟨-, ha⟩ := toNat_eq_magCode a
  obtain ⟨-, hb⟩ := toNat_eq_magCode b
  apply BitVec.eq_of_toNat_eq
  rw [ha, hb]
  simp only [orderCode] at h
  split_ifs at h ⊢ <;> omega

/-- The order of MIN and MAX is that of the codes. -/
theorem leSigned_iff {a b : Word} (ha : magCode a ≤ infMag) (hb : magCode b ≤ infMag) :
    leSigned a b = true ↔ orderCode a ≤ orderCode b := by
  obtain ⟨hlt, heq⟩ := decode32_compare ha hb
  simp only [leSigned, Bool.or_eq_true, Bool.and_eq_true, hlt, heq, sign_decode32 ha, sign_decode32 hb, signedCode, orderCode]
  cases a.msb <;> cases b.msb <;> simp <;> omega

/-- What MIN and MAX share: the canonical NaN, or a choice between `x` and `y` by the order of `a` and `b` (R82). -/
def pickByOrder (a b x y : Word) : Word :=
  if (decode32 a).isNaN || (decode32 b).isNaN then 0x7FC00000 else if leSigned a b then x else y

theorem fpMin_eq_pickByOrder (a b : Word) : fpMin a b = pickByOrder a b a b := rfl

theorem fpMax_eq_pickByOrder (a b : Word) : fpMax a b = pickByOrder a b b a := rfl

theorem pickByOrder_nan {a b : Word} (h : infMag < magCode a ∨ infMag < magCode b) (x y : Word) :
    pickByOrder a b x y = 0x7FC00000 := by
  rw [← isNaN_decode32, ← isNaN_decode32] at h
  simp [pickByOrder, h]

theorem pickByOrder_eq {a b : Word} (ha : ¬infMag < magCode a) (hb : ¬infMag < magCode b) (x y : Word) :
    pickByOrder a b x y = if orderCode a ≤ orderCode b then x else y := by
  have hna := (isNaN_decode32 a).not.2 ha
  have hnb := (isNaN_decode32 b).not.2 hb
  simp [pickByOrder, hna, hnb, leSigned_iff (not_lt.1 ha) (not_lt.1 hb)]

/-- The choice is `x` where `a` comes first and `y` where `b` does: words that tie are the same word. -/
theorem pickByOrder_rule {a b x y : Word} (hxy : a = b → x = y) :
    (infMag < magCode a ∨ infMag < magCode b → pickByOrder a b x y = 0x7FC00000) ∧
      (¬infMag < magCode a → ¬infMag < magCode b →
        (orderCode a ≤ orderCode b → pickByOrder a b x y = x) ∧ (orderCode b ≤ orderCode a → pickByOrder a b x y = y)) := by
  refine ⟨fun h => pickByOrder_nan h x y, fun ha hb => ?_⟩
  rw [pickByOrder_eq ha hb]
  refine ⟨fun h => if_pos h, fun h => ?_⟩
  split
  · exact hxy (orderCode_injective (le_antisymm ‹_› h))
  · rfl

/-! ## Lanes of a VOP -/

@[simp] theorem Tile.vreg_setVreg_same (x : Tile) (r : Nat) (v : List Word) : (x.setVreg r v).vreg r = v :=
  sget_sput_same _ _ _ _

theorem vreg_congr {x y : Tile} (h : x.datapath = y.datapath) (r : Nat) : x.vreg r = y.vreg r :=
  (congrArg (Tile.vreg · r) h :)

/-- A lane that all three operands have is computed from its own values. -/
theorem lanes3_getElem? {va vb vc : List Word} {l : Nat} {a b c : Word} (ha : va[l]? = some a) (hb : vb[l]? = some b)
    (hc : vc[l]? = some c) (f : Word → Word → Word → Word) : (lanes3 f va vb vc)[l]? = some (f a b c) := by
  have hzip : (va.zip (vb.zip vc))[l]? = some (a, b, c) :=
    List.getElem?_zip_eq_some.2 ⟨ha, List.getElem?_zip_eq_some.2 ⟨hb, hc⟩⟩
  simp [lanes3, hzip]

/-- A VOP of two operands leaves in each lane of vd what its function makes of their lanes (Table 2.8). -/
theorem vopLanes_gives {s : State} {t sub : Nat} {w : BitVec 128} {f : Word → Word → Word} {P : Word → Word → Word → Prop}
    (hop : isSub w 0x20 sub = true) (hc : s.CanIssue t w { eng := engVector, form := vopLegal w sub })
    (hP : ∀ a b, P a b (f a b)) :
    Gives (vopRun t w sub s (·.vopLanes w fun a b _ => f a b)) fun u => ∀ (l : Nat) (a b : Word),
      ((s.tile t).vreg (vaOf w))[l]? = some a → ((s.tile t).vreg (vbOf w))[l]? = some b →
        ((s.tile t).vreg (vcOf w))[l]?.isSome = true → ∃ r, ((u.tile t).vreg (vdOf w))[l]? = some r ∧ P a b r := by
  obtain ⟨u, hu, hdata, -⟩ := issue_gives (q := fun _ => { eng := engVector, form := vopLegal w sub }) hc rfl hop
    (·.vopLanes w fun a b _ => f a b)
  refine ⟨u, hu, fun l a b ha hb hsome => ⟨f a b, ?_, hP a b⟩⟩
  obtain ⟨c, hc⟩ := Option.isSome_iff_exists.1 hsome
  rw [vreg_congr hdata, Tile.vopLanes, Tile.vreg_setVreg_same]
  exact lanes3_getElem? ha hb hc _

/-! ## MIN and MAX -/

theorem exec_vopMin (t : Nat) (w : BitVec 128) (s : State) :
    exec (.vopMin t w) s = vopRun t w 0x03 s (·.vopLanes w fun a b _ => fpMin a b) := rfl

theorem exec_vopMax (t : Nat) (w : BitVec 128) (s : State) :
    exec (.vopMax t w) s = vopRun t w 0x04 s (·.vopLanes w fun a b _ => fpMax a b) := rfl

/-- Settles O55: each lane of vd is MIN or MAX of its operands' lanes, which `pickByOrder_rule` decides. -/
theorem minAndMaxFollowTheirRule : Obligations.MinAndMaxFollowTheirRule := by
  unfold Obligations.MinAndMaxFollowTheirRule
  intro s t w
  dsimp only
  rw [exec_vopMin, exec_vopMax]
  refine ⟨fun hop hc => vopLanes_gives hop hc fun a b => ?_, fun hop hc => vopLanes_gives hop hc fun a b => ?_⟩
  · rw [fpMin_eq_pickByOrder]; exact pickByOrder_rule id
  · rw [fpMax_eq_pickByOrder]; exact pickByOrder_rule Eq.symm

end Sys2Proof.Machine
end

section
/-!
SUPPORT. The firmware of a module: the fused floor, the boot record and the two slots; and the operations that leave it,
in the order of the model's files.
-/
namespace Sys2Proof.Machine

/-! ## The part of the state that says which firmware runs -/

/-- What says which firmware a module boots: the blown fuses, the boot record and the two slots. -/
structure Firmware where
  floor : Nat
  active : Nat
  slotA : Sparse Byte
  slotB : Sparse Byte

def Mgmt.firmware (g : Mgmt) : Firmware := { floor := g.floor, active := g.active, slotA := g.slotA, slotB := g.slotB }

def State.firmware (s : State) : Firmware := s.mg.firmware

theorem firmware_of_mg {s t : State} (h : t.mg = s.mg) : t.firmware = s.firmware := congrArg Mgmt.firmware h

/-! What the model's frame laws say of it. -/

theorem MemOnly.firmware {s t : State} (h : MemOnly s t) : t.firmware = s.firmware :=
  firmware_of_mg (congrArg State.mg h.rest :)

theorem Quiet.firmware {n : Nat} {s t : State} (h : Quiet n s t) : t.firmware = s.firmware :=
  firmware_of_mg (congrArg State.mg h.rest :)

theorem Tail.firmware {s t : State} (h : Tail s t) : t.firmware = s.firmware :=
  firmware_of_mg (congrArg State.mg h.body :)

/-! Reading it off an update. -/

@[simp] theorem State.modMg_firmware (s : State) (f : Mgmt → Mgmt) : (s.modMg f).firmware = (f s.mg).firmware :=
  rfl

@[simp] theorem State.firmware_mk (regs mem ecc tiles slices dirs dies hbm res moves slow xfers glints failing
    retries held map gn fr adm steps ray host mg pow
    therm pen spare dusk ag evtHold evtAgain latches out events nextId freeCount now pending) :
    (State.mk regs mem ecc tiles slices dirs dies hbm res moves slow xfers glints failing retries held map gn fr adm steps ray
      host mg pow
      therm pen spare dusk ag evtHold evtAgain latches out events nextId freeCount now pending).firmware = mg.firmware := rfl

@[simp] theorem Mgmt.firmware_mk (sealed : Bool) (keys : Sparse KeySlot) (shakes : List Shake) (sessions : List Sess)
    (slotA slotB : Sparse Byte) (active floor : Nat) (config : Option (List Word)) (log : List (List Byte))
    (digest : List Byte) (stagedOk staging recovery restarted health : Bool) (quotes : List QuoteReq) :
    (Mgmt.mk sealed keys shakes sessions slotA slotB active floor config log digest stagedOk staging recovery restarted
      health quotes).firmware = { floor := floor, active := active, slotA := slotA, slotB := slotB } := rfl

@[simp] theorem firmware_eta (s : State) :
    ({ floor := s.mg.floor, active := s.mg.active, slotA := s.mg.slotA, slotB := s.mg.slotB } : Firmware) =
      s.firmware := rfl

@[simp] theorem mg_firmware (s : State) : s.mg.firmware = s.firmware := rfl

@[simp] theorem firmware_ite (c : Prop) [Decidable c] (s t : State) :
    (if c then s else t).firmware = if c then s.firmware else t.firmware := apply_ite _ _ _ _

@[simp] theorem snd_ite {α β : Type} (c : Prop) [Decidable c] (x y : α × β) :
    (if c then x else y).2 = if c then x.2 else y.2 := apply_ite _ _ _ _

@[simp] theorem fst_ite {α β : Type} (c : Prop) [Decidable c] (x y : α × β) :
    (if c then x else y).1 = if c then x.1 else y.1 := apply_ite _ _ _ _

/-! Folds over an operation that leaves it. -/

@[simp] theorem foldl_firmware {α : Type} (f : State → α → State) (hf : ∀ s x, (f s x).firmware = s.firmware)
    (l : List α) (s : State) : (l.foldl f s).firmware = s.firmware := foldl_keeps _ f hf l s

@[simp] theorem foldl_snd_firmware {α β : Type} (f : β × State → α → β × State)
    (hf : ∀ s x, (f s x).2.firmware = s.2.firmware) (l : List α) (s : β × State) :
    (l.foldl f s).2.firmware = s.2.firmware := foldl_keeps (·.2.firmware) f hf l s

@[simp] theorem foldl_fst_firmware {α β : Type} (f : State × β → α → State × β)
    (hf : ∀ s x, (f s x).1.firmware = s.1.firmware) (l : List α) (s : State × β) :
    (l.foldl f s).1.firmware = s.1.firmware := foldl_keeps (·.1.firmware) f hf l s

@[simp] theorem foldl_snd_snd_firmware {α β γ : Type} (f : β × γ × State → α → β × γ × State)
    (hf : ∀ s x, (f s x).2.2.firmware = s.2.2.firmware) (l : List α) (s : β × γ × State) :
    (l.foldl f s).2.2.firmware = s.2.2.firmware := foldl_keeps (·.2.2.firmware) f hf l s

/-! ## Operations that leave it -/

/-! ### Machine/Ops -/

@[simp] theorem State.wr_firmware (s : State) (page off : Nat) (v : Word) :
    (s.wr page off v).firmware = s.firmware := (wr_memOnly ..).firmware

@[simp] theorem State.wrN_firmware (s : State) (page off v : Nat) :
    (s.wrN page off v).firmware = s.firmware := firmware_of_mg rfl

@[simp] theorem State.setField_firmware (s : State) (page off hi lo v : Nat) :
    (s.setField page off hi lo v).firmware = s.firmware := (setField_memOnly ..).firmware

@[simp] theorem State.setFlag_firmware (s : State) (page off i : Nat) (b : Bool) :
    (s.setFlag page off i b).firmware = s.firmware := (setFlag_memOnly ..).firmware

@[simp] theorem State.wr64_firmware (s : State) (page off v : Nat) :
    (s.wr64 page off v).firmware = s.firmware := (wr64_memOnly ..).firmware

@[simp] theorem State.free_firmware (s : State) : s.free.2.firmware = s.firmware := firmware_of_mg rfl

@[simp] theorem State.bump_firmware (s : State) (page off n : Nat) :
    (s.bump page off n).firmware = s.firmware := (bump_memOnly ..).firmware

@[simp] theorem State.bumpSat_firmware (s : State) (page off n : Nat) :
    (s.bumpSat page off n).firmware = s.firmware := (bumpSat_memOnly ..).firmware

@[simp] theorem State.bump64_firmware (s : State) (page off n : Nat) :
    (s.bump64 page off n).firmware = s.firmware := (bump64_memOnly ..).firmware

@[simp] theorem State.raise_firmware (s : State) (page i : Nat) :
    (s.raise page i).firmware = s.firmware := (raise_memOnly ..).firmware

@[simp] theorem State.raiseIf_firmware (s : State) (b : Bool) (page i : Nat) :
    (s.raiseIf b page i).firmware = s.firmware := by simp [State.raiseIf]

@[simp] theorem State.logAddr_firmware (s : State) (page addr : Nat) :
    (s.logAddr page addr).firmware = s.firmware := (logAddr_memOnly ..).firmware

@[simp] theorem State.logErr_firmware (s : State) (page addr : Nat) :
    (s.logErr page addr).firmware = s.firmware := (logErr_memOnly ..).firmware

@[simp] theorem State.setTile_firmware (s : State) (t : Nat) (x : Tile) :
    (s.setTile t x).firmware = s.firmware := firmware_of_mg rfl

@[simp] theorem State.modTile_firmware (s : State) (t : Nat) (f : Tile → Tile) :
    (s.modTile t f).firmware = s.firmware := firmware_of_mg rfl

@[simp] theorem State.setSlice_firmware (s : State) (k : Nat) (x : Slice) :
    (s.setSlice k x).firmware = s.firmware := (setSlice_memOnly ..).firmware

@[simp] theorem State.modSlice_firmware (s : State) (k : Nat) (f : Slice → Slice) :
    (s.modSlice k f).firmware = s.firmware := (modSlice_memOnly ..).firmware

@[simp] theorem State.setBank_firmware (s : State) (b : Nat) (x : DirBank) :
    (s.setBank b x).firmware = s.firmware := (setBank_memOnly ..).firmware

@[simp] theorem State.setDie_firmware (s : State) (d : Nat) (x : Die) :
    (s.setDie d x).firmware = s.firmware := firmware_of_mg rfl

@[simp] theorem State.setStack_firmware (s : State) (k : Nat) (x : Stack) :
    (s.setStack k x).firmware = s.firmware := (setStack_memOnly ..).firmware

@[simp] theorem State.failSite_firmware (s : State) (site : Nat) :
    (s.failSite site).firmware = s.firmware := firmware_of_mg rfl

@[simp] theorem State.forSites_firmware (s : State) (f : State → Nat → State)
    (hf : ∀ u t, (f u t).firmware = u.firmware) : (s.forSites f).firmware = s.firmware := by
  simp [State.forSites, hf]

@[simp] theorem State.say_firmware (s : State) (m : Out) : (s.say m).firmware = s.firmware := (say_memOnly ..).firmware

@[simp] theorem State.fresh_firmware (s : State) : s.fresh.2.firmware = s.firmware := firmware_of_mg rfl

@[simp] theorem State.setPg_firmware (s : State) (d : Nat) (v : Bool) :
    (s.setPg d v).firmware = s.firmware := by simp [State.setPg]

@[simp] theorem State.cause_firmware (s : State) (tag i : Nat) :
    (s.cause tag i).firmware = s.firmware := (cause_memOnly ..).firmware

@[simp] theorem State.addCC_firmware (s : State) (site c n tag : Nat) :
    (s.addCC site c n tag).firmware = s.firmware := firmware_of_mg rfl

@[simp] theorem State.addKC_firmware (s : State) (site c n tag : Nat) :
    (s.addKC site c n tag).firmware = s.firmware := firmware_of_mg rfl

@[simp] theorem State.stall_firmware (s : State) (t eng c : Nat) :
    (s.stall t eng c).firmware = s.firmware := by simp [State.stall]

@[simp] theorem State.addrFault_firmware (s : State) (a : Agent) (addr : Nat) :
    (s.addrFault a addr).firmware = s.firmware := (addrFault_memOnly ..).firmware

@[simp] theorem State.cold_firmware (s : State) : s.cold.firmware = s.firmware := by simp [State.cold]

@[simp] theorem State.stop_firmware (s : State) : s.stop.firmware = s.firmware := by simp [State.stop]

@[simp] theorem State.spend_firmware (s : State) : s.spend.firmware = s.firmware := (spend_memOnly ..).firmware

@[simp] theorem State.penCount_firmware (s : State) (i n : Nat) :
    (s.penCount i n).firmware = s.firmware := (penCount_tail ..).firmware

@[simp] theorem State.holdRequest_firmware (s : State) (cause : Nat) :
    (s.holdRequest cause).firmware = s.firmware := (holdRequest_memOnly ..).firmware

/-! ### Machine/Stacks -/

@[simp] theorem State.setBytes_firmware (s : State) (a : Nat) (a' : List Byte) :
    (s.setBytes a a').firmware = s.firmware := (setBytes_memOnly ..).firmware

@[simp] theorem State.setEcc_firmware (s : State) (g : Nat) (d : DWord) :
    (s.setEcc g d).firmware = s.firmware := (setEcc_memOnly ..).firmware

@[simp] theorem State.putGranule_firmware (s : State) (g : Nat) (d : List Byte) :
    (s.putGranule g d).firmware = s.firmware := (putGranule_memOnly ..).firmware

@[simp] theorem State.putPoison_firmware (s : State) (g : Nat) :
    (s.putPoison g).firmware = s.firmware := (putPoison_memOnly ..).firmware

@[simp] theorem State.stackCe_firmware (s : State) (g : Nat) :
    (s.stackCe g).firmware = s.firmware := (stackCe_memOnly ..).firmware

@[simp] theorem State.stackUe_firmware (s : State) (g : Nat) :
    (s.stackUe g).firmware = s.firmware := (stackUe_memOnly ..).firmware

@[simp] theorem State.readGranule_firmware (s : State) (g : Nat) (a : Agent) :
    (s.readGranule g a).2.firmware = s.firmware := (readGranule_memOnly ..).firmware

@[simp] theorem State.writeGranule_firmware (s : State) (g o : Nat) (data : List PByte) (a : Agent) :
    (s.writeGranule g o data a).firmware = s.firmware := (writeGranule_memOnly ..).firmware

@[simp] theorem State.readStack_firmware (s : State) (a n : Nat) (ag : Agent) :
    (s.readStack a n ag).2.firmware = s.firmware := (readStack_memOnly ..).firmware

@[simp] theorem State.writeStack_firmware (s : State) (a : Nat) (data : List PByte) (ag : Agent) :
    (s.writeStack a data ag).firmware = s.firmware := (writeStack_memOnly ..).firmware

@[simp] theorem State.replaceRow_firmware (s : State) (k row : Nat) : (s.replaceRow k row).firmware = s.firmware := by
  simp only [State.replaceRow]
  split
  · simp
  · simp only [State.raise_firmware, State.wrN_firmware, State.setStack_firmware]
    refine (foldl_firmware _ (fun u g => ?_) _ _).trans (by simp)
    split <;> simp

@[simp] theorem State.scrubOne_firmware (s : State) (k : Nat) : (s.scrubOne k).firmware = s.firmware := by
  simp only [State.scrubOne]
  repeat' split
  all_goals simp

/-! ### Machine/Shade -/

@[simp] theorem State.invalidateAt_firmware (s : State) (line : Nat) (sites : List Nat) :
    (s.invalidateAt line sites).firmware = s.firmware := (invalidateAt_memOnly ..).firmware

@[simp] theorem State.dropLine_firmware (s : State) (line : Nat) :
    (s.dropLine line).firmware = s.firmware := (dropLine_memOnly ..).firmware

@[simp] theorem State.dirEnsure_firmware (s : State) (line : Nat) :
    (s.dirEnsure line).2.firmware = s.firmware := (dirEnsure_memOnly ..).firmware

@[simp] theorem State.dirClear_firmware (s : State) (line : Nat) :
    (s.dirClear line).firmware = s.firmware := by simp only [State.dirClear]; split <;> simp

@[simp] theorem State.checkWord_firmware (s : State) (k : Nat) (l : Line) (w : Nat) (a : Agent) :
    (s.checkWord k l w a).2.2.2.firmware = s.firmware := (checkWord_memOnly ..).firmware

@[simp] theorem State.flushSegment_firmware (s : State) (k seg : Nat) :
    (s.flushSegment k seg).firmware = s.firmware := firmware_of_mg rfl

@[simp] theorem State.flushMerge_firmware (s : State) (k line : Nat) :
    (s.flushMerge k line).firmware = s.firmware := (flushMerge_memOnly ..).firmware

@[simp] theorem State.evictLine_firmware (s : State) (k : Nat) (l : Line) :
    (s.evictLine k l).firmware = s.firmware := (evictLine_memOnly ..).firmware

@[simp] theorem State.countHit_firmware (s : State) (k cls : Nat) (hit : Bool) (line : Nat) :
    (s.countHit k cls hit line).firmware = s.firmware := (countHit_memOnly ..).firmware

@[simp] theorem State.headerAdd_firmware (s : State) (step sats stray : Nat) :
    (s.headerAdd step sats stray).firmware = s.firmware := (headerAdd_memOnly ..).firmware

theorem State.allocate_firmware {s t : State} {k line : Nat} {st : LineState} (h : s.allocate k line st = some t) :
    t.firmware = s.firmware := (allocate_memOnly h).firmware

@[simp] theorem State.storeAround_firmware (s : State) (line addr : Nat) (d : List PByte) (ag : Agent) :
    (s.storeAround line addr d ag).firmware = s.firmware := (storeAround_memOnly ..).firmware

@[simp] theorem State.answer_firmware (s : State) (q : SReq) (x : SAns) :
    (s.answer q x).firmware = s.firmware := firmware_of_mg rfl

@[simp] theorem State.perform_firmware (s : State) (k : Nat) (q : SReq) :
    (s.perform k q).firmware = s.firmware := (perform_memOnly ..).firmware

@[simp] theorem State.retryOpen_firmware (s : State) (die : Nat) :
    (s.retryOpen die).firmware = s.firmware := (retryOpen_memOnly ..).firmware

@[simp] theorem State.dieReset_firmware (s : State) (die : Nat) :
    (s.dieReset die).firmware = s.firmware := (dieReset_memOnly ..).firmware

@[simp] theorem State.beginRecode_firmware (s : State) (k : Nat) (toParity : Bool) :
    (s.beginRecode k toParity).firmware = s.firmware := (beginRecode_memOnly ..).firmware

@[simp] theorem State.mergeFault_firmware (s : State) (k : Nat) :
    (s.mergeFault k).firmware = s.firmware := (mergeFault_memOnly ..).firmware

@[simp] theorem State.arrive_firmware (s : State) (k line : Nat) :
    (s.arrive k line).firmware = s.firmware := (arrive_memOnly ..).firmware

@[simp] theorem State.defer_firmware (s : State) (k : Nat) (q : SReq) :
    (s.defer k q).firmware = s.firmware := (defer_memOnly ..).firmware

@[simp] theorem State.fillAnswer_firmware (s : State) (k line : Nat) :
    (s.fillAnswer k line).firmware = s.firmware := (fillAnswer_memOnly ..).firmware

@[simp] theorem State.slowRead_firmware (s : State) (a n : Nat) :
    (s.slowRead a n).2.firmware = s.firmware := (slowRead_memOnly ..).firmware

@[simp] theorem State.slowWrite_firmware (s : State) (a : Nat) (d : List PByte) :
    (s.slowWrite a d).firmware = s.firmware := (slowWrite_memOnly ..).firmware

@[simp] theorem State.devRead_firmware (s : State) (a n cls : Nat) (ag : Agent) (dead stamp : Bool) :
    (s.devRead a n cls ag dead stamp).2.2.firmware = s.firmware := (devRead_memOnly ..).firmware

@[simp] theorem State.devWrite_firmware (s : State) (a : Nat) (d : List PByte) (cls : Nat) (ag : Agent) :
    (s.devWrite a d cls ag).firmware = s.firmware := (devWrite_memOnly ..).firmware

@[simp] theorem State.devAdd_firmware (s : State) (a : Nat) (vals : List Word) (cls step : Nat) (ag : Agent) :
    (s.devAdd a vals cls step ag).2.firmware = s.firmware := (devAdd_memOnly ..).firmware

@[simp] theorem State.hdrFlush_firmware (s : State) : s.hdrFlush.firmware = s.firmware := (hdrFlush_memOnly ..).firmware

theorem State.specFlush_firmware {s t : State} {step : Nat} {e : SpecEntry} {ag : Agent}
    (h : s.specFlush step e ag = some t) : t.firmware = s.firmware := (specFlush_memOnly h).firmware

/-! ### Machine/Staging -/

@[simp] theorem State.modSpare_firmware (s : State) (f : Sparing → Sparing) :
    (s.modSpare f).firmware = s.firmware := firmware_of_mg rfl

@[simp] theorem State.unstage_firmware (s : State) : s.unstage.firmware = s.firmware := firmware_of_mg rfl

@[simp] theorem State.tileSwitch_firmware (s : State) (r : Nat) (on : Bool) :
    (s.tileSwitch r on).firmware = s.firmware := by simp [State.tileSwitch]

@[simp] theorem State.stage_firmware (s : State) (m : Sparse SiteEnt) :
    (s.stage m).firmware = s.firmware := (stage_tail ..).firmware

theorem State.replaceSites_firmware {s t : State} {sites : List Nat} {st : Nat} (h : s.replaceSites sites st = some t) :
    t.firmware = s.firmware := by
  obtain ⟨m, rfl⟩ := replaceSites_stage h
  exact s.stage_firmware m

theorem State.replaceRowSites_firmware {s t : State} {r st : Nat} (h : s.replaceRowSites r st = some t) :
    t.firmware = s.firmware := by
  obtain ⟨u, hu, rfl⟩ := Option.map_eq_some_iff.1 h
  simpa using State.replaceSites_firmware hu

@[simp] theorem State.rowOut_firmware (s : State) (r : Nat) : (s.rowOut r).firmware = s.firmware := by
  simp only [State.rowOut]
  split
  · rfl
  · cases h : s.replaceRowSites r 2 with
    | none => simp
    | some t => simpa using State.replaceRowSites_firmware h

@[simp] theorem State.spareFailing_firmware (s : State) : s.spareFailing.firmware = s.firmware := by
  rw [spareFailing_eq]
  refine foldl_firmware _ (fun s t => ?_) _ _
  rcases spareOne_cases s t with ⟨h, -, -⟩ | h
  · exact h.firmware
  · rw [h]; exact s.spend_firmware

/-! ### Machine/Finish -/

@[simp] theorem State.agWrite_firmware (s : State) (r : AgRec) :
    (s.agWrite r).firmware = s.firmware := firmware_of_mg rfl

@[simp] theorem State.agRecord_firmware (s : State) (code : Nat) (p : List Nat) :
    (s.agRecord code p).firmware = s.firmware := firmware_of_mg rfl

@[simp] theorem State.consFault_firmware (s : State) (kind : Nat) (diff : Int) :
    (s.consFault kind diff).firmware = s.firmware := by simp [State.consFault]

@[simp] theorem State.fireEvent_firmware (s : State) (page i : Nat) :
    (s.fireEvent page i).firmware = s.firmware := (fireEvent_tail ..).firmware

@[simp] theorem State.sendMsi_firmware (s : State) (kind : Nat) :
    (s.sendMsi kind).firmware = s.firmware := (sendMsi_tail ..).firmware

@[simp] theorem finish_firmware (s t : State) : (finish s t).firmware = t.firmware := by
  have h : (finishEvents s t.spareFailing).firmware = t.firmware :=
    (finishEvents_tail s t.spareFailing).firmware.trans t.spareFailing_firmware
  rw [finish_eq]
  dsimp only
  split <;> simp [h]

@[simp] theorem State.awake_firmware (s : State) (f : State → State) (hf : ∀ u, (f u).firmware = u.firmware) :
    (s.awake f).firmware = s.firmware := by simp [State.awake, *]

/-! ### Machine/Operands -/

@[simp] theorem State.putScratch_firmware (s : State) (t o : Nat) (d : List Byte) :
    (s.putScratch t o d).firmware = s.firmware := by simp [State.putScratch]

@[simp] theorem State.faultReads_firmware (s : State) (t : Nat) (rs : List (Nat × Nat)) :
    (s.faultReads t rs).firmware = s.firmware := by simp [State.faultReads]

/-! ### Machine/Flags -/

@[simp] theorem State.convFlags_firmware (s : State) (tag traffic nonfin sats : Nat) :
    (s.convFlags tag traffic nonfin sats).firmware = s.firmware := by simp [State.convFlags]

@[simp] theorem State.tilePoison_firmware (s : State) (t tag : Nat) :
    (s.tilePoison t tag).firmware = s.firmware := by simp [State.tilePoison]

@[simp] theorem State.normSats_firmware (s : State) (t tag n : Nat) :
    (s.normSats t tag n).firmware = s.firmware := by simp [State.normSats]

@[simp] theorem State.flushSpec_firmware (s : State) (t : Nat) :
    (s.flushSpec t).firmware = s.firmware := (flushSpec_quiet ..).firmware

@[simp] theorem State.countSpec_firmware (s : State) (t tensor tag z sa nf : Nat) :
    (s.countSpec t tensor tag z sa nf).firmware = s.firmware := (countSpec_quiet ..).firmware

/-! ### Machine/Issue -/

@[simp] theorem State.writeScalars_firmware (s : State) (t : Nat) :
    (s.writeScalars t).firmware = s.firmware := by unfold State.writeScalars; split <;> simp

@[simp] theorem State.closeTile_firmware (s : State) (t tag : Nat) (again atEnd : Bool) :
    (s.closeTile t tag again atEnd).firmware = s.firmware := (closeTile_quiet ..).firmware

@[simp] theorem State.reachNext_firmware (s : State) (t : Nat) :
    (s.reachNext t).firmware = s.firmware := (reachNext_quiet ..).firmware

@[simp] theorem State.advance_firmware (s : State) (t : Nat) :
    (s.advance t).firmware = s.firmware := by unfold State.advance; split <;> simp

@[simp] theorem State.illegal_firmware (s : State) (t : Nat) :
    (s.illegal t).firmware = s.firmware := by simp [State.illegal]

@[simp] theorem State.parityError_firmware (s : State) (t : Nat) (e : ParityErr) :
    (s.parityError t e).firmware = s.firmware := firmware_of_mg rfl

@[simp] theorem State.ready_firmware (s : State) (t : Nat) (rs ws : List (Nat × Nat)) :
    (s.ready t rs ws).firmware = s.firmware := by simp [State.ready]

@[simp] theorem State.issue_firmware (s : State) (t : Nat) (w : BitVec 128) (q : Issue) (f : State → State)
    (hf : ∀ u, (f u).firmware = u.firmware) :
    (s.issue t w q f).firmware = s.firmware := by
  simp only [State.issue]
  repeat' split
  all_goals simp [*]

/-! ### Machine/RayOps -/

@[simp] theorem State.setPort_firmware (s : State) (p : Nat) (x : Port) :
    (s.setPort p x).firmware = s.firmware := firmware_of_mg rfl

@[simp] theorem State.modPort_firmware (s : State) (p : Nat) (f : Port → Port) :
    (s.modPort p f).firmware = s.firmware := firmware_of_mg rfl

@[simp] theorem State.setPortSt_firmware (s : State) (p v : Nat) :
    (s.setPortSt p v).firmware = s.firmware := firmware_of_mg rfl

@[simp] theorem State.setPortFlag_firmware (s : State) (p i : Nat) (b : Bool) :
    (s.setPortFlag p i b).firmware = s.firmware := firmware_of_mg rfl

@[simp] theorem State.pushTx_firmware (s : State) (p : Nat) (x : TxItem) :
    (s.pushTx p x).firmware = s.firmware := firmware_of_mg rfl

@[simp] theorem State.sendDetour_firmware (s : State) (d : Nat) (x : TxItem) :
    (s.sendDetour d x).firmware = s.firmware := by simp only [State.sendDetour]; split <;> simp

@[simp] theorem State.route_firmware (s : State) (p : Nat) (x : TxItem) : (s.route p x).firmware = s.firmware := by
  simp only [State.route]
  repeat' split
  all_goals simp

@[simp] theorem State.enqueue_firmware (s : State) (p : Nat) (f : RayFrame) (hold : Option (Nat × Nat × Nat))
    (coll : Bool) :
    (s.enqueue p f hold coll).firmware = s.firmware := by simp [State.enqueue]

@[simp] theorem State.freeUnits_firmware (s : State) (h : Nat × Nat × Nat) :
    (s.freeUnits h).firmware = s.firmware := by simp [State.freeUnits]

@[simp] theorem State.sendUnscheduled_firmware (s : State) (f : RayFrame) (from_ : Option (Nat × Nat × Nat)) :
    (s.sendUnscheduled f from_).firmware = s.firmware := by
  simp only [State.sendUnscheduled]
  repeat' split
  all_goals simp

@[simp] theorem State.rerouteWaiting_firmware (s : State) :
    s.rerouteWaiting.firmware = s.firmware := by simp [State.rerouteWaiting]

@[simp] theorem State.loadRoutes_firmware (s : State) : s.loadRoutes.firmware = s.firmware := by simp [State.loadRoutes]

/-! ### Machine/Residency -/

@[simp] theorem State.setRes_firmware (s : State) (n : Nat) (e : ResEnt) :
    (s.setRes n e).firmware = s.firmware := firmware_of_mg rfl

@[simp] theorem State.takeWsets_firmware (s : State) (l : List (Nat × Nat)) :
    (s.takeWsets l).firmware = s.firmware := by simp [State.takeWsets]

@[simp] theorem State.startMoves_firmware (s : State) : s.startMoves.firmware = s.firmware := by simp [State.startMoves]

@[simp] theorem State.askMove_firmware (s : State) (m : Move) :
    (s.askMove m).firmware = s.firmware := by simp [State.askMove]

@[simp] theorem State.resFault_firmware (s : State) (t eng n target : Nat) :
    (s.resFault t eng n target).firmware = s.firmware := by simp [State.resFault]

@[simp] theorem State.copyRange_firmware (s : State) (src dst n cls : Nat) :
    (s.copyRange src dst n cls).firmware = s.firmware := by simp [State.copyRange]

@[simp] theorem State.endMove_firmware (s : State) (n : Nat) : (s.endMove n).firmware = s.firmware := by
  simp only [State.endMove]
  repeat' split
  all_goals simp

@[simp] theorem State.resRequest_firmware (s : State) (block target : Nat) (seq : Option Nat) :
    (s.resRequest block target seq).2.firmware = s.firmware := by simp [State.resRequest]

@[simp] theorem State.resActivate_firmware (s : State) (i : Image) :
    (s.resActivate i).firmware = s.firmware := by simp [State.resActivate]

/-! ### Machine/Dma -/

@[simp] theorem State.readT_firmware (s : State) (tag a n cls : Nat) (ag : Agent) (dead stamp : Bool) :
    (s.readT tag a n cls ag dead stamp).2.2.firmware = s.firmware := by simp [State.readT]

@[simp] theorem State.writeT_firmware (s : State) (tag a : Nat) (d : List PByte) (cls : Nat) (ag : Agent) :
    (s.writeT tag a d cls ag).firmware = s.firmware := by simp [State.writeT]

@[simp] theorem State.addT_firmware (s : State) (tag a : Nat) (d : List PByte) (cls : Nat) (ag : Agent) :
    (s.addT tag a d cls ag).2.firmware = s.firmware := by simp [State.addT]

@[simp] theorem State.askSlowWrite_firmware (s : State) (x : Xfer) (r : Nat) (row : XRow) :
    (s.askSlowWrite x r row).firmware = s.firmware := firmware_of_mg rfl

@[simp] theorem State.rowToDevice_firmware (s : State) (x : Xfer) (r : Nat) (row : XRow) :
    (s.rowToDevice x r row).2.firmware = s.firmware := by simp [State.rowToDevice]

@[simp] theorem State.countSrc_firmware (s : State) (x : Xfer) :
    (s.countSrc x).2.firmware = s.firmware := by unfold State.countSrc; split <;> simp

@[simp] theorem State.settle_firmware (s : State) (x : Xfer) :
    (s.settle x).firmware = s.firmware := by simp only [State.settle]; split <;> simp

@[simp] theorem State.readPoison_firmware (s : State) (t tag : Nat) (own : Bool) (d : List PByte) :
    (s.readPoison t tag own d).firmware = s.firmware := by simp [State.readPoison]

@[simp] theorem State.rowArrives_firmware (s : State) (xid r : Nat) (d : List PByte) :
    (s.rowArrives xid r d).firmware = s.firmware := by unfold State.rowArrives; split <;> simp

@[simp] theorem State.rowWritten_firmware (s : State) (xid r : Nat) :
    (s.rowWritten xid r).firmware = s.firmware := firmware_of_mg rfl

@[simp] theorem State.dmaRead_firmware (s : State) (t : Nat) (d : Desc) : (s.dmaRead t d).2.firmware = s.firmware := by
  refine foldl_snd_firmware _ (fun x r => ?_) _ _
  dsimp only
  split
  · split <;> simp
  · split
    · rfl
    · simp only [State.faultReads_firmware]
      split <;> simp
  · rfl

@[simp] theorem State.dmaStart_firmware (s : State) (t : Nat) (d : Desc) (dst : DmaDst) :
    (s.dmaStart t d dst).firmware = s.firmware := by
  simp only [State.dmaStart]
  refine (foldl_firmware _ (fun u x => ?_) _ _).trans ?_
  · split <;> simp
  · cases d.kc <;> cases d.ccSrc <;> cases dst <;> simp

@[simp] theorem State.dmaTry_firmware (s : State) (t q op : Nat) : (s.dmaTry t q op).firmware = s.firmware := by
  simp only [State.dmaTry]
  repeat' split
  all_goals simp

@[simp] theorem State.landScratch_firmware (s : State) (ag : Agent) (site tag o : Nat) (d : List PByte) :
    (s.landScratch ag site tag o d).firmware = s.firmware := by simp [State.landScratch]

@[simp] theorem State.markInbound_firmware (s : State) (from_ site o n : Nat) :
    (s.markInbound from_ site o n).firmware = s.firmware := by simp [State.markInbound]

@[simp] theorem State.addScratch_firmware (s : State) (ag : Agent) (again : Bool) (site tag o : Nat) (d : List PByte) :
    (s.addScratch ag again site tag o d).firmware = s.firmware := by
  simp only [State.addScratch]
  rw [firmware_ite, State.addrFault_firmware, ite_self]
  refine foldl_firmware _ (fun u i => ?_) _ _
  split <;> simp

@[simp] theorem State.landRows_firmware (s : State) (id : Nat) (add : Bool) :
    (s.landRows id add).firmware = s.firmware := by
  simp only [State.landRows]
  repeat' split
  all_goals simp

@[simp] theorem State.landed_firmware (s : State) (x : Xfer) : (s.landed x).firmware = s.firmware := by
  simp only [State.landed]
  repeat' split
  all_goals simp

/-! ### Machine/Recover -/

@[simp] theorem State.reloadRows_firmware (s : State) (t : Nat) (d : Desc) :
    (s.reloadRows t d).2.firmware = s.firmware := by
  simp only [State.reloadRows]
  repeat' split
  all_goals simp

@[simp] theorem State.reload_firmware (s : State) (t : Nat) (d : Desc) :
    (s.reload t d).firmware = s.firmware := by simp [State.reload]

@[simp] theorem State.replayFail_firmware (s : State) (t : Nat) (e : ParityErr) :
    (s.replayFail t e).firmware = s.firmware := by simp [State.replayFail]

@[simp] theorem State.replayStart_firmware (s : State) (t : Nat) : (s.replayStart t).firmware = s.firmware := by
  simp only [State.replayStart]
  repeat' split
  all_goals simp

@[simp] theorem State.freqDrop_firmware (s : State) (t n : Nat) :
    (s.freqDrop t n).firmware = s.firmware := by simp [State.freqDrop]

@[simp] theorem State.hardLoss_firmware (s : State) (t : Nat) :
    (s.hardLoss t).firmware = s.firmware := by simp [State.hardLoss]

/-! ### Machine/Dimmer -/

@[simp] theorem State.setRowMv_firmware (s : State) (row : Nat) :
    (s.setRowMv row).firmware = s.firmware := by simp [State.setRowMv]

@[simp] theorem State.dimEnt_firmware (s : State) (i : Image) (ph : Nat) :
    (s.dimEnt i ph).2.firmware = s.firmware := firmware_of_mg rfl

@[simp] theorem State.putDim_firmware (s : State) (e : DimEnt) :
    (s.putDim e).firmware = s.firmware := firmware_of_mg rfl

@[simp] theorem State.margin_firmware (s : State) (t : Nat) (m : Int) :
    (s.margin t m).firmware = s.firmware := by simp only [State.margin]; split <;> simp

@[simp] theorem State.dimLearn_firmware (s : State) (i : Image) (ph : Nat) :
    (s.dimLearn i ph).firmware = s.firmware := by simp [State.dimLearn]

@[simp] theorem State.takeBudget_firmware (s : State) : s.takeBudget.firmware = s.firmware := firmware_of_mg rfl

@[simp] theorem State.resetTokens_firmware (s : State) : s.resetTokens.firmware = s.firmware := firmware_of_mg rfl

@[simp] theorem State.dimPredict_firmware (s : State) (i : Image) (ph : Nat) :
    (s.dimPredict i ph).firmware = s.firmware := by simp [State.dimPredict]

@[simp] theorem State.dimApply_firmware (s : State) (i : Image) (ph : Nat) :
    (s.dimApply i ph).firmware = s.firmware := by simp [State.dimApply]

@[simp] theorem State.dimEnd_firmware (s : State) :
    s.dimEnd.firmware = s.firmware := by unfold State.dimEnd; split <;> simp

@[simp] theorem State.dimStart_firmware (s : State) :
    s.dimStart.firmware = s.firmware := by simp only [State.dimStart]; split <;> simp

@[simp] theorem State.dimFrame_firmware (s : State) (j : Nat) : (s.dimFrame j).firmware = s.firmware := by
  simp only [State.dimFrame]
  repeat' split
  all_goals simp

/-! ### Machine/Control -/

@[simp] theorem State.lateMargin_firmware (s : State) (t j : Nat) :
    (s.lateMargin t j).firmware = s.firmware := by unfold State.lateMargin; split <;> simp

@[simp] theorem State.giveOnce_firmware (s : State) (t : Nat) (f : State → State)
    (hf : ∀ u, (f u).firmware = u.firmware) :
    (s.giveOnce t f).firmware = s.firmware := by simp [State.giveOnce, *]

/-! ### Machine/Matrix -/

@[simp] theorem State.retryStall_firmware (s : State) (t n : Nat) :
    (s.retryStall t n).firmware = s.firmware := by simp [State.retryStall]

@[simp] theorem State.rbaseTake_firmware (s : State) (t : Nat) :
    (s.rbaseTake t).2.2.firmware = s.firmware := by unfold State.rbaseTake; split <;> simp

@[simp] theorem State.accout_firmware (s : State) (t : Nat) (w : BitVec 128) :
    (s.accout t w).firmware = s.firmware := by simp [State.accout]

/-! ### Machine/Vector -/

@[simp] theorem State.cvtNarrow_firmware (s : State) (t : Nat) (w : BitVec 128) (fmt : Nat) :
    (s.cvtNarrow t w fmt).firmware = s.firmware := by simp [State.cvtNarrow]

/-! ### Machine/Mirror -/

@[simp] theorem State.mirrorCounts_firmware (s : State) (t tag : Nat) (k : MTask) (r : MRun) :
    (s.mirrorCounts t tag k r).firmware = s.firmware := by
  simp only [State.mirrorCounts]
  refine (foldl_firmware _ (fun s x => ?_) _ _).trans ?_
  all_goals repeat' split
  all_goals simp

@[simp] theorem State.mirror_firmware (s : State) (t : Nat) (w : BitVec 128) (q : Issue) :
    (s.mirror t w q).firmware = s.firmware := by unfold State.mirror; split <;> simp

/-! ### Machine/Glint -/

@[simp] theorem State.gsend_firmware (s : State) (t : Nat) (h : GHead) (payload : List Byte) :
    (s.gsend t h payload).firmware = s.firmware := by
  simp only [State.gsend]
  repeat' split
  all_goals simp

@[simp] theorem State.giveBack_firmware (s : State) (m : GMsg) : (s.giveBack m).firmware = s.firmware := by
  simp only [State.giveBack]
  repeat' split
  all_goals simp

/-! ### Machine/Ctrl -/

@[simp] theorem State.sendCtrl_firmware (s : State) (p sub : Nat) (body : List Byte) :
    (s.sendCtrl p sub body).firmware = s.firmware := firmware_of_mg rfl

@[simp] theorem State.ctrlIn_firmware (s : State) (p : Nat) : (s.ctrlIn p).firmware = s.firmware := firmware_of_mg rfl

@[simp] theorem State.stepUp_firmware (s : State) (kind : Nat) (m : StepMsg) :
    (s.stepUp kind m).firmware = s.firmware := by simp only [State.stepUp]; split <;> simp

@[simp] theorem State.stepDown_firmware (s : State) (kind : Nat) (m : StepMsg) :
    (s.stepDown kind m).firmware = s.firmware := by simp [State.stepDown]

@[simp] theorem State.penUp_firmware (s : State) (kind : Nat) (m : PenumbraMsg) :
    (s.penUp kind m).firmware = s.firmware := by unfold State.penUp; split <;> simp

@[simp] theorem State.penDown_firmware (s : State) (mode : Nat) (m : PenumbraMsg) :
    (s.penDown mode m).firmware = s.firmware := by simp [State.penDown]

/-! ### Machine/Gnomon -/

@[simp] theorem State.modGn_firmware (s : State) (f : Gnomon → Gnomon) :
    (s.modGn f).firmware = s.firmware := firmware_of_mg rfl

@[simp] theorem State.modFr_firmware (s : State) (f : Frames → Frames) :
    (s.modFr f).firmware = s.firmware := firmware_of_mg rfl

@[simp] theorem State.follow_firmware (s : State) (prio id epoch : Nat) :
    (s.follow prio id epoch).firmware = s.firmware := by simp [State.follow]

@[simp] theorem State.lead_firmware (s : State) (me : Nat × Nat) :
    (s.lead me).firmware = s.firmware := by simp [State.lead]

@[simp] theorem State.followBest_firmware (s : State) (b : Nat × Nat) :
    (s.followBest b).firmware = s.firmware := by simp only [State.followBest]; split <;> simp

@[simp] theorem State.elect_firmware (s : State) :
    s.elect.firmware = s.firmware := by unfold State.elect; split <;> simp

@[simp] theorem State.switchSeen_firmware (s : State) (d : Option (Bool × Nat)) (key : Nat) :
    (s.switchSeen d key).firmware = s.firmware := by
  simp only [State.switchSeen]
  repeat' split
  all_goals simp

@[simp] theorem State.takeDecision_firmware (s : State) (d : Dec) :
    (s.takeDecision d).firmware = s.firmware := by simp [State.takeDecision]

@[simp] theorem State.lateReport_firmware (s : State) (j : Nat) :
    (s.lateReport j).firmware = s.firmware := firmware_of_mg rfl

@[simp] theorem State.ownLate_firmware (s : State) (j : Nat) :
    (s.ownLate j).firmware = s.firmware := by simp [State.ownLate]

@[simp] theorem State.phaseErr_firmware (s : State) (e : Int) :
    (s.phaseErr e).firmware = s.firmware := by simp [State.phaseErr]

@[simp] theorem State.pathGt_firmware (s : State) (d : Nat) : (s.pathGt d).2.firmware = s.firmware := by
  simp only [State.pathGt]
  repeat' split
  all_goals simp

@[simp] theorem State.measureWord_firmware (s : State) (p : Nat) (w : GnomonWord) (arrival : Nat) :
    (s.measureWord p w arrival).firmware = s.firmware := by simp only [State.measureWord]; split <;> simp

@[simp] theorem State.hearMaster_firmware (s : State) (p : Nat) (w : GnomonWord) :
    (s.hearMaster p w).firmware = s.firmware := firmware_of_mg rfl

@[simp] theorem State.hearReport_firmware (s : State) (p : Nat) (w : GnomonWord) :
    (s.hearReport p w).firmware = s.firmware := by simp [State.hearReport]

@[simp] theorem State.setHi_firmware (s : State) (v : Word) : (s.setHi v).firmware = s.firmware := by
  simp only [State.setHi]
  repeat' split
  all_goals simp

/-! ### Machine/Journal -/

@[simp] theorem State.append_firmware (s : State) (e : JEnt) :
    (s.append e).2.firmware = s.firmware := firmware_of_mg rfl

@[simp] theorem State.jOrder_firmware (s : State) (o : Origin) (opcode status : Nat) (digestOf : List Byte)
    (arg : Nat) :
    (s.jOrder o opcode status digestOf arg).firmware = s.firmware := firmware_of_mg rfl

@[simp] theorem State.jDecision_firmware (s : State) (cls src opcode arg : Nat) :
    (s.jDecision cls src opcode arg).firmware = s.firmware := firmware_of_mg rfl

@[simp] theorem State.jFinish_firmware (s : State) (seq status result : Nat) (orig : JEnt) :
    (s.jFinish seq status result orig).firmware = s.firmware := by simp only [State.jFinish]; split <;> simp

@[simp] theorem State.jLink_firmware (s : State) (a b : Nat) : (s.jLink a b).firmware = s.firmware := by
  simp only [State.jLink]
  repeat' split
  all_goals simp

@[simp] theorem State.setCmd_firmware (s : State) (c : Cmd) : (s.setCmd c).firmware = s.firmware := firmware_of_mg rfl

@[simp] theorem State.cmdDone_firmware (s : State) (seq status result : Nat) :
    (s.cmdDone seq status result).firmware = s.firmware := by unfold State.cmdDone; split <;> simp

@[simp] theorem State.denied_firmware (s : State) : s.denied.firmware = s.firmware := firmware_of_mg rfl

/-! ### Machine/ReadCache -/

@[simp] theorem State.ldcParity_firmware (s : State) (t a n : Nat) : (s.ldcParity t a n).firmware = s.firmware := by
  simp only [State.ldcParity]
  repeat' split
  all_goals simp

@[simp] theorem State.ldcElem_firmware (s : State) (t n cls a : Nat) :
    (s.ldcElem t n cls a).2.firmware = s.firmware := by
  simp only [State.ldcElem]
  repeat' split
  all_goals simp

@[simp] theorem State.ldcWant_firmware (s : State) (t cls a : Nat) :
    (s.ldcWant t cls a).firmware = s.firmware := firmware_of_mg rfl

@[simp] theorem State.ldcGather_firmware (s : State) (t n cls : Nat) (as : List Nat) (r : LdcRun) :
    (s.ldcGather t n cls as r).firmware = s.firmware := by
  induction as generalizing s r with
  | nil => simp [State.ldcGather]
  | cons a as ih =>
    have h := s.ldcElem_firmware t n cls a
    unfold State.ldcGather
    split <;> simp_all

@[simp] theorem State.ldcTry_firmware (s : State) (t : Nat) (w : BitVec 128) :
    (s.ldcTry t w).firmware = s.firmware := by
  simp only [State.ldcTry]
  repeat' split
  all_goals simp

@[simp] theorem State.refetch_firmware (s : State) (t slot k : Nat) (p : Prefetch) :
    (s.refetch t slot k p).2.firmware = s.firmware := by simp [State.refetch]

/-! ### Machine/Slices -/

@[simp] theorem State.takeRequest_firmware (s : State) (k : Nat) (q : SReq) : (s.takeRequest k q).firmware = s.firmware := by
  simp only [State.takeRequest]
  split
  · simp
  · split
    · simp
    · split
      · split
        · rename_i h; simpa using State.allocate_firmware h
        · simp
      · split
        · simp
        · split
          · rename_i h; simpa using State.allocate_firmware h
          · simp

@[simp] theorem State.reject_firmware (s : State) (q : SReq) (slice : Option Nat) :
    (s.reject q slice).firmware = s.firmware := by simp only [State.reject]; split <;> simp

@[simp] theorem State.request_firmware (s : State) (q : SReq) : (s.request q).firmware = s.firmware := by
  simp only [State.request]
  repeat' split
  all_goals simp

@[simp] theorem State.release_firmware (s : State) (k : Nat) :
    (s.release k).firmware = s.firmware := by simp [State.release]

@[simp] theorem State.recodeLine_firmware (s : State) (k : Nat) (l : Line) :
    (s.recodeLine k l).firmware = s.firmware := by simp [State.recodeLine]

@[simp] theorem State.laneFail_firmware (s : State) (k lane : Nat) (swap : Bool) :
    (s.laneFail k lane swap).firmware = s.firmware := by simp [State.laneFail]

@[simp] theorem State.tuneLanes_firmware (s : State) (swept : List (Nat × Nat × Nat × Nat)) :
    (s.tuneLanes swept).firmware = s.firmware := by simp [State.tuneLanes]

@[simp] theorem State.delayCode_firmware (s : State) (k lane : Nat) :
    (s.delayCode k lane).2.firmware = s.firmware := by simp [State.delayCode]

@[simp] theorem State.markStale_firmware (s : State) : s.markStale.firmware = s.firmware := by simp [State.markStale]

@[simp] theorem State.clearCaches_firmware (s : State) :
    s.clearCaches.firmware = s.firmware := by simp [State.clearCaches]

@[simp] theorem State.loseArray_firmware (s : State) (die : Nat) :
    (s.loseArray die).firmware = s.firmware := by simp [State.loseArray]

/-! ### Machine/Memory -/

@[simp] theorem State.hostWriteBack_firmware (s : State) (line : Nat) (a : Agent) :
    (s.hostWriteBack line a).firmware = s.firmware := by simp [State.hostWriteBack]

@[simp] theorem State.stackReq_firmware (s : State) (addr : Nat) (data : Option (List PByte)) (a : Agent) :
    (s.stackReq addr data a).firmware = s.firmware := by
  simp only [State.stackReq]
  repeat' split
  all_goals simp

@[simp] theorem State.untrained_firmware (s : State) (p : Nat) :
    (s.untrained p).firmware = s.firmware := firmware_of_mg rfl

@[simp] theorem State.linkLost_firmware (s : State) (p : Nat) : (s.linkLost p).firmware = s.firmware := by
  simp only [State.linkLost]
  split
  · simp
  · rw [firmware_ite, State.cause_firmware, ite_self]
    refine (foldl_firmware _ (fun u q => foldl_firmware _ (fun u x => ?_) _ _) _ _).trans (by simp)
    cases q.data <;> simp

@[simp] theorem State.finishMove_firmware (s : State) (block : Nat) : (s.finishMove block).firmware = s.firmware := by
  simp only [State.finishMove]
  repeat' split
  all_goals simp

@[simp] theorem State.settleMoves_firmware (s : State) : s.settleMoves.firmware = s.firmware := by
  simp only [State.settleMoves]
  refine foldl_firmware _ (fun s x => ?_) _ _
  repeat' split
  all_goals simp

/-! ### Machine/Rings -/

@[simp] theorem State.modHost_firmware (s : State) (f : HostSt → HostSt) :
    (s.modHost f).firmware = s.firmware := firmware_of_mg rfl

@[simp] theorem State.modRead_firmware (s : State) (a n : Nat) :
    (s.modRead a n).2.firmware = s.firmware := by simp [State.modRead]

@[simp] theorem State.modWrite_firmware (s : State) (a : Nat) (d : List PByte) :
    (s.modWrite a d).firmware = s.firmware := by simp [State.modWrite]

@[simp] theorem State.setRing_firmware (s : State) (n : Nat) (r : Ring) :
    (s.setRing n r).firmware = s.firmware := firmware_of_mg rfl

@[simp] theorem State.ringEnable_firmware (s : State) (n : Nat) : (s.ringEnable n).firmware = s.firmware := by
  delta State.ringEnable
  split
  · split <;> simp
  · split
    · rfl
    · extract_lets a
      split
      · simp
      · split
        rename_i d u h
        have hu : u.firmware = s.firmware := by rw [← s.modRead_firmware a 64, h]
        split <;> simp [hu]

@[simp] theorem State.ringSettle_firmware (s : State) (n : Nat) :
    (s.ringSettle n).firmware = s.firmware := by simp only [State.ringSettle]; split <;> simp

@[simp] theorem State.ringDisable_firmware (s : State) (n : Nat) :
    (s.ringDisable n).firmware = s.firmware := by simp only [State.ringDisable]; split <;> simp

@[simp] theorem State.ringCtl_firmware (s : State) (v : Word) :
    (s.ringCtl v).firmware = s.firmware := by simp [State.ringCtl]

@[simp] theorem State.post_firmware (s : State) (c : Cmd) (st result : Nat) :
    (s.post c st result).firmware = s.firmware := by simp only [State.post]; split <;> simp

@[simp] theorem State.complete_firmware (s : State) (seq : Nat) : (s.complete seq).firmware = s.firmware := by
  simp only [State.complete]
  repeat' split
  all_goals simp

@[simp] theorem State.ringDb_firmware (s : State) (v : Word) :
    (s.ringDb v).firmware = s.firmware := by simp only [State.ringDb]; split <;> simp

@[simp] theorem State.runCmd_firmware (s : State) (seq op : Nat) (f : Cmd → State → State)
    (hf : ∀ x u, (f x u).firmware = u.firmware) :
    (s.runCmd seq op f).firmware = s.firmware := by simp only [State.runCmd]; split <;> simp [*]

@[simp] theorem State.ringStore_firmware (s : State) (ring a : Nat) (d : List Byte) :
    (s.ringStore ring a d).firmware = s.firmware := by simp [State.ringStore]

@[simp] theorem State.cleanLine_firmware (s : State) (line : Nat) : (s.cleanLine line).firmware = s.firmware := by
  simp only [State.cleanLine]
  split
  · rfl
  · split
    · simp
    · split
      · simp
      · simp only [State.modSlice_firmware, State.writeStack_firmware, forN]
        rw [foldl_snd_snd_firmware _ fun x w => by simp]
        exact State.flushMerge_firmware ..

@[simp] theorem State.detach_firmware (s : State) (why : Nat) :
    (s.detach why).firmware = s.firmware := by simp [State.detach]

@[simp] theorem State.resetHost_firmware (s : State) : s.resetHost.firmware = s.firmware := by simp [State.resetHost]

@[simp] theorem State.attach_firmware (s : State) : s.attach.firmware = s.firmware := by simp [State.attach]

@[simp] theorem State.kick_firmware (s : State) : s.kick.firmware = s.firmware := firmware_of_mg rfl

/-! ### Machine/Steps -/

@[simp] theorem State.modSteps_firmware (s : State) (f : Steps → Steps) :
    (s.modSteps f).firmware = s.firmware := firmware_of_mg rfl

@[simp] theorem State.sendMgmt_firmware (s : State) (dst : Nat) (m : MgmtMsg) :
    (s.sendMgmt dst m).firmware = s.firmware := firmware_of_mg rfl

@[simp] theorem State.fpSend_firmware (s : State) (i : Image) :
    (s.fpSend i).firmware = s.firmware := by simp [State.fpSend]

@[simp] theorem State.fpCompare_firmware (s : State) (i : Image) : (s.fpCompare i).firmware = s.firmware := by
  simp only [State.fpCompare]
  refine foldl_firmware _ (fun s x => ?_) _ _
  repeat' split
  all_goals simp

@[simp] theorem State.fpTry_firmware (s : State) :
    s.fpTry.firmware = s.firmware := by simp only [State.fpTry]; split <;> simp

@[simp] theorem State.raiseTiles_firmware (s : State) (b : Nat) :
    (s.raiseTiles b).firmware = s.firmware := by simp [State.raiseTiles]

@[simp] theorem State.scaleBy_firmware (s : State) (verdict cause : Nat) :
    (s.scaleBy verdict cause).firmware = s.firmware := by simp only [State.scaleBy]; split <;> simp

@[simp] theorem State.tryReport_firmware (s : State) : s.tryReport.firmware = s.firmware := by
  simp only [State.tryReport]
  repeat' split
  all_goals simp

@[simp] theorem State.nextPass_firmware (s : State) :
    s.nextPass.firmware = s.firmware := by simp only [State.nextPass]; split <;> simp

theorem State.takeVerdict_firmware {s t : State} {v : Nat} {m : StepMsg} (h : s.takeVerdict v m = some t) :
    t.firmware = s.firmware := by
  unfold State.takeVerdict at h
  split at h
  · cases h
  · split at h
    · split at h
      · split at h <;> cases h
        rfl
      · cases h
    · split at h
      · cases h; simp
      · cases h

@[simp] theorem State.commitStep_firmware (s : State) (v cause : Nat) :
    (s.commitStep v cause).firmware = s.firmware := by simp [State.commitStep]

@[simp] theorem State.beginUndo_firmware (s : State) (tag : Nat) : (s.beginUndo tag).firmware = s.firmware := by
  simp only [State.beginUndo]
  refine (foldl_firmware _ (fun s x => ?_) _ _).trans ?_
  all_goals repeat' split
  all_goals simp

@[simp] theorem State.dropSpec_firmware (s : State) (tag : Nat) :
    (s.dropSpec tag).firmware = s.firmware := by simp [State.dropSpec]

@[simp] theorem State.fetchEntry_firmware (s : State) (n src : Nat) :
    (s.fetchEntry n src).firmware = s.firmware := by simp only [State.fetchEntry]; split <;> simp

@[simp] theorem State.tryDrained_firmware (s : State) :
    s.tryDrained.firmware = s.firmware := by simp only [State.tryDrained]; split <;> simp

@[simp] theorem State.drained_firmware (s : State) : s.drained.firmware = s.firmware := by simp [State.drained]

@[simp] theorem State.repairCheck_firmware (s : State) (n src : Nat) :
    (s.repairCheck n src).firmware = s.firmware := by simp only [State.repairCheck]; split <;> simp

/-! ### Machine/Eclipse -/

@[simp] theorem State.modPen_firmware (s : State) (f : Pen → Pen) :
    (s.modPen f).firmware = s.firmware := firmware_of_mg rfl

@[simp] theorem State.setHold_firmware (s : State) (v : Nat) : (s.setHold v).firmware = s.firmware := firmware_of_mg rfl

@[simp] theorem State.snapCheck_firmware (s : State) (i : Image) :
    (s.snapCheck i).firmware = s.firmware := by simp [State.snapCheck]

@[simp] theorem State.zeroCounters_firmware (s : State) :
    s.zeroCounters.firmware = s.firmware := by simp [State.zeroCounters]

@[simp] theorem State.zeroCounts_firmware (s : State) : s.zeroCounts.firmware = s.firmware := by simp [State.zeroCounts]

@[simp] theorem State.dropRegions_firmware (s : State) :
    s.dropRegions.firmware = s.firmware := by simp [State.dropRegions]

@[simp] theorem State.endJob_firmware (s : State) : s.endJob.firmware = s.firmware := by simp [State.endJob]

@[simp] theorem State.restoreFail_firmware (s : State) :
    s.restoreFail.firmware = s.firmware := by simp only [State.restoreFail]; split <;> simp

@[simp] theorem State.takeHold_firmware (s : State) (fh no cause : Nat) :
    (s.takeHold fh no cause).firmware = s.firmware := firmware_of_mg rfl

@[simp] theorem State.orderHold_firmware (s : State) (cause tUs : Nat) :
    (s.orderHold cause tUs).firmware = s.firmware := by unfold State.orderHold; split <;> simp

@[simp] theorem State.tryReady_firmware (s : State) : s.tryReady.firmware = s.firmware := by
  simp only [State.tryReady]
  repeat' split
  all_goals simp

@[simp] theorem State.holdData_firmware (s : State) (key : Nat) (d : List PByte) :
    (s.holdData key d).firmware = s.firmware := by
  simp only [State.holdData]
  repeat' split
  all_goals simp

@[simp] theorem State.park_firmware (s : State) : s.park.firmware = s.firmware := by simp [State.park]

@[simp] theorem State.orderPark_firmware (s : State) : s.orderPark.firmware = s.firmware := by simp [State.orderPark]

@[simp] theorem State.masterAct_firmware (s : State) : s.masterAct.firmware = s.firmware := by simp [State.masterAct]

/-! ### Machine/RayPort -/

@[simp] theorem State.leaveUp_firmware (s : State) (p : Nat) :
    (s.leaveUp p).firmware = s.firmware := by unfold State.leaveUp; split <;> simp

@[simp] theorem State.tryUp_firmware (s : State) (p : Nat) : (s.tryUp p).firmware = s.firmware := by
  simp only [State.tryUp]
  repeat' split
  all_goals simp

@[simp] theorem State.sendGrants_firmware (s : State) (p : Nat) :
    (s.sendGrants p).firmware = s.firmware := by simp [State.sendGrants]

@[simp] theorem State.beginSync_firmware (s : State) (p : Nat) (alloc : Sparse Nat) :
    (s.beginSync p alloc).firmware = s.firmware := by simp [State.beginSync]

@[simp] theorem State.beginDetour_firmware (s : State) (p : Nat) :
    (s.beginDetour p).firmware = s.firmware := by simp [State.beginDetour]

@[simp] theorem State.retrainPort_firmware (s : State) (p : Nat) :
    (s.retrainPort p).firmware = s.firmware := by simp [State.retrainPort]

@[simp] theorem State.portDown_firmware (s : State) (p : Nat) :
    (s.portDown p).firmware = s.firmware := by simp [State.portDown]

@[simp] theorem State.portEnable_firmware (s : State) (p : Nat) (v : Bool) :
    (s.portEnable p v).firmware = s.firmware := by simp [State.portEnable]

@[simp] theorem State.handshake_firmware (s : State) (p : Nat) (m : LinkMsg) :
    (s.handshake p m).firmware = s.firmware := by simp [State.handshake]

@[simp] theorem State.nakIn_firmware (s : State) (p : Nat) : (s.nakIn p).firmware = s.firmware := by simp [State.nakIn]

@[simp] theorem State.replayOut_firmware (s : State) (p : Nat) (f : RayFrame) :
    (s.replayOut p f).firmware = s.firmware := by simp [State.replayOut]

@[simp] theorem State.acceptSeq_firmware (s : State) (p : Nat) (f : RayFrame) :
    (s.acceptSeq p f).2.firmware = s.firmware := by simp [State.acceptSeq]

@[simp] theorem State.countLast_firmware (s : State) (f : RayFrame) (tag : Nat) :
    (s.countLast f tag).firmware = s.firmware := by
  simp only [State.countLast]
  repeat' split
  all_goals simp

@[simp] theorem State.frameEffect_firmware (s : State) (p : Nat) (f : RayFrame) :
    (s.frameEffect p f).firmware = s.firmware := by
  simp only [State.frameEffect]
  repeat' split
  all_goals simp

@[simp] theorem State.passDetour_firmware (s : State) (p : Nat) (f : RayFrame) (h : Nat × Nat × Nat) :
    (s.passDetour p f h).firmware = s.firmware := firmware_of_mg rfl

@[simp] theorem State.deliver_firmware (s : State) (p : Nat) (f : RayFrame) :
    (s.deliver p f).firmware = s.firmware := by
  simp only [State.deliver]
  repeat' split
  all_goals simp

@[simp] theorem State.tryTake_firmware (s : State) (p : Nat) (f : RayFrame) :
    (s.tryTake p f).2.firmware = s.firmware := by simp [State.tryTake]

@[simp] theorem State.takeEarly_firmware (s : State) (p : Nat) (before l : List RayFrame) :
    (s.takeEarly p before l).2.firmware = s.firmware := by
  induction l generalizing before with
  | nil => simp [State.takeEarly]
  | cons f l ih =>
    have h := s.tryTake_firmware p f
    unfold State.takeEarly
    split <;> simp_all

@[simp] theorem State.drainEarly_firmware (fuel : Nat) (s : State) (p : Nat) :
    (State.drainEarly fuel s p).firmware = s.firmware := by
  induction fuel generalizing s with
  | zero => rfl
  | succ fuel ih =>
    unfold State.drainEarly
    split
    · rename_i t h
      obtain ⟨q, -, hq⟩ := List.exists_of_findSome?_eq_some h
      rw [ih, ← s.takeEarly_firmware q [] (s.port q).early]
      split at hq <;> simp_all
    · rfl

theorem State.acceptSeq_fst (s : State) (p : Nat) (f : RayFrame) :
    (s.acceptSeq p f).1 = none ∨ (s.acceptSeq p f).1 = some (s.acceptSeq p f).2 := by
  simp only [State.acceptSeq]
  split_ifs <;> simp

@[simp] theorem State.frameIn_firmware (s : State) (p : Nat) (f : RayFrame) : (s.frameIn p f).firmware = s.firmware := by
  simp only [State.frameIn]
  split
  · rfl
  · split
    · rename_i h; rw [← s.acceptSeq_firmware p f, h]
    · rename_i t u h
      have hs := s.acceptSeq_fst p f
      have hu := s.acceptSeq_firmware p f
      simp only [h, Option.some.injEq, reduceCtorEq, false_or] at hs hu
      simp [hs, hu]

@[simp] theorem State.stampFrame_firmware (s : State) (p : Nat) (f : RayFrame) :
    (s.stampFrame p f).2.firmware = s.firmware := by simp [State.stampFrame]

@[simp] theorem State.launch_firmware (s : State) (p : Nat) (f : RayFrame) :
    (s.launch p f).firmware = s.firmware := by simp [State.launch]

@[simp] theorem State.noteFrame_firmware (s : State) :
    s.noteFrame.firmware = s.firmware := by simp only [State.noteFrame]; split <;> simp

@[simp] theorem State.collStart_firmware (s : State) (q : Nat) (c : Coll) (st : Stream) :
    (s.collStart q c st).firmware = s.firmware := by simp only [State.collStart]; split <;> simp

/-! ### Machine/Admission -/

@[simp] theorem State.modAdm_firmware (s : State) (f : Adm → Adm) :
    (s.modAdm f).firmware = s.firmware := firmware_of_mg rfl

@[simp] theorem State.cmdReject_firmware (s : State) : s.cmdReject.2.firmware = s.firmware := firmware_of_mg rfl

@[simp] theorem State.admCheck_firmware (s : State) (o : Origin) :
    (s.admCheck o).2.firmware = s.firmware := by simp [State.admCheck]

@[simp] theorem State.admArm_firmware (s : State) :
    s.admArm.2.firmware = s.firmware := by unfold State.admArm; split <;> simp

@[simp] theorem State.admWithdraw_firmware (s : State) :
    s.admWithdraw.2.firmware = s.firmware := by simp only [State.admWithdraw]; split <;> simp

@[simp] theorem State.admEnd_firmware (s : State) :
    s.admEnd.2.firmware = s.firmware := by unfold State.admEnd; split <;> simp

@[simp] theorem State.admCmd_firmware (s : State) (o : Origin) (v : Nat) :
    (s.admCmd o v).2.firmware = s.firmware := by unfold State.admCmd; split <;> simp

@[simp] theorem State.modmapStage_firmware (s : State) :
    s.modmapStage.firmware = s.firmware := by simp [State.modmapStage]

@[simp] theorem State.modmapWithdraw_firmware (s : State) :
    s.modmapWithdraw.firmware = s.firmware := by simp [State.modmapWithdraw]

@[simp] theorem State.mapSwitch_firmware (s : State) :
    s.mapSwitch.firmware = s.firmware := by simp only [State.mapSwitch]; split <;> simp

@[simp] theorem State.movePositions_firmware (s old : State) : (s.movePositions old).firmware = s.firmware := by
  simp only [State.movePositions]
  refine (foldl_firmware _ (fun u l => ?_) _ _).trans (foldl_firmware _ (fun u l => ?_) _ _)
  · split <;> simp
  · split <;> simp

@[simp] theorem State.resetMoved_firmware (s old : State) :
    (s.resetMoved old).firmware = s.firmware := by simp [State.resetMoved]

@[simp] theorem State.siteMapSwitch_firmware (s : State) (m : Sparse SiteEnt) :
    (s.siteMapSwitch m).firmware = s.firmware := by simp [State.siteMapSwitch]

@[simp] theorem State.homeChange_firmware (s : State) (places : List Place) :
    (s.homeChange places).2.firmware = s.firmware := by simp [State.homeChange]

@[simp] theorem State.freeSet_firmware (s : State) (k set : Nat) :
    (s.freeSet k set).firmware = s.firmware := by simp [State.freeSet]

@[simp] theorem State.takeWay_firmware (s : State) (k line : Nat) (window : Bool) :
    (s.takeWay k line window).firmware = s.firmware := by
  simp only [State.takeWay]
  split
  · rename_i h
    simpa using State.allocate_firmware h
  · simp

@[simp] theorem State.applyPins_firmware (s : State) (i : Image) : (s.applyPins i).firmware = s.firmware := by
  simp only [State.applyPins]
  refine (foldl_firmware _ (fun u p => foldl_firmware _ (fun u l => ?_) _ _) _ _).trans (by simp)
  split
  · rfl
  · split <;> simp

@[simp] theorem State.payloadCopy_firmware (s : State) (i : Image) :
    (s.payloadCopy i).firmware = s.firmware := by simp [State.payloadCopy]

@[simp] theorem State.spectrumReset_firmware (s : State) (i : Image) :
    (s.spectrumReset i).firmware = s.firmware := by simp [State.spectrumReset]

@[simp] theorem State.portsAnew_firmware (s : State) : s.portsAnew.firmware = s.firmware := by simp [State.portsAnew]

@[simp] theorem State.bringUp_firmware (s : State) (i : Image) (fa : Nat) (swap wait keep : Bool) :
    (s.bringUp i fa swap wait keep).firmware = s.firmware := by
  simp only [State.bringUp, State.dimStart_firmware, State.noteFrame_firmware, State.raise_firmware]
  rw [foldl_firmware _ (fun u q => State.request_firmware ..), foldl_firmware _ (fun u k => State.release_firmware ..)]
  refine (State.forSites_firmware _ _ fun u t => ?_).trans (by simp)
  split
  · simp
  · split <;> simp

@[simp] theorem State.decideSwitch_firmware (s : State) (f key : Nat) :
    (s.decideSwitch f key).firmware = s.firmware := by simp [State.decideSwitch]

/-! ### Machine/Power -/

@[simp] theorem State.modPow_firmware (s : State) (f : Power → Power) :
    (s.modPow f).firmware = s.firmware := firmware_of_mg rfl

@[simp] theorem State.duskPfc_firmware (s : State) (pause : Bool) :
    (s.duskPfc pause).firmware = s.firmware := by simp [State.duskPfc]

@[simp] theorem State.duskEnter_firmware (s : State) (c : Nat) :
    (s.duskEnter c).firmware = s.firmware := by simp [State.duskEnter]

@[simp] theorem State.tryAudit_firmware (s : State) : s.tryAudit.firmware = s.firmware := by
  simp only [State.tryAudit]
  repeat' split
  all_goals simp

/-! ### Machine/Sparing -/

@[simp] theorem State.siteState_firmware (s : State) (t st : Nat) : (s.siteState t st).firmware = s.firmware := by
  simp only [State.siteState]
  repeat' split
  all_goals simp

@[simp] theorem State.siteLater_firmware (s : State) (t st : Nat) (done : Bool) :
    (s.siteLater t st done).firmware = s.firmware := by simp [State.siteLater]

@[simp] theorem State.siteClean_firmware (s : State) (t : Nat) :
    (s.siteClean t).firmware = s.firmware := firmware_of_mg rfl

theorem State.retireSite_firmware {s t : State} {site : Nat} (h : s.retireSite site = some t) : t.firmware = s.firmware := by
  unfold State.retireSite at h
  split at h
  · cases h
  · exact State.replaceSites_firmware h

theorem State.beginTest_firmware {s t : State} {x : SelfTest} (h : s.beginTest x = some t) : t.firmware = s.firmware := by
  simp only [State.beginTest] at h
  split at h
  · cases h
  · cases h; simp

theorem State.stageCmd_firmware {s t : State} {v : Nat} (h : s.stageCmd v = some t) : t.firmware = s.firmware := by
  simp only [State.stageCmd] at h
  split at h
  · cases h
  · split at h
    · exact State.retireSite_firmware h
    · split at h
      · cases h
      · exact State.replaceRowSites_firmware h
    · split at h
      · exact State.beginTest_firmware h
      · cases h
    · split at h
      · cases h
      · obtain ⟨u, hu, rfl⟩ := Option.map_eq_some_iff.1 h
        simpa using State.beginTest_firmware hu
    · split at h
      · cases h
      · exact State.beginTest_firmware h
    · split at h
      · cases h
      · cases h; simp
    · cases h

/-! ### Machine/Firmware -/

@[simp] theorem State.measure_firmware (s : State) (kind agent svn ver : Nat) (hash : List Byte) :
    (s.measure kind agent svn ver hash).firmware = s.firmware := by simp [State.measure]

@[simp] theorem State.measureSlot_firmware (s : State) (slot : Nat) :
    (s.measureSlot slot).firmware = s.firmware := by simp [State.measureSlot]

@[simp] theorem State.fwState_firmware (s : State) (v : Nat) : (s.fwState v).firmware = s.firmware := firmware_of_mg rfl

@[simp] theorem State.unstageFw_firmware (s : State) : s.unstageFw.firmware = s.firmware := by simp [State.unstageFw]

@[simp] theorem State.fwBegin_firmware (s : State) : s.fwBegin.2.firmware = s.firmware := by simp [State.fwBegin]

@[simp] theorem State.fwDrop_firmware (s : State) : s.fwDrop.2.firmware = s.firmware := by simp [State.fwDrop]

/-! ### Machine/Roce -/

@[simp] theorem State.setQp_firmware (s : State) (n : Nat) (q : Qp) :
    (s.setQp n q).firmware = s.firmware := firmware_of_mg rfl

@[simp] theorem State.sendOp_firmware (s : State) (n : Nat) (o : RdmaOp) :
    (s.sendOp n o).firmware = s.firmware := by simp [State.sendOp]

@[simp] theorem State.postOp_firmware (s : State) (n : Nat) (o : RdmaOp) :
    (s.postOp n o).firmware = s.firmware := by simp [State.postOp]

@[simp] theorem State.modIntake_firmware (s : State) (f : Intake → Intake) :
    (s.modIntake f).firmware = s.firmware := firmware_of_mg rfl

@[simp] theorem State.dropIntake_firmware (s : State) :
    s.dropIntake.firmware = s.firmware := by simp only [State.dropIntake]; split <;> simp

@[simp] theorem State.intakeStall_firmware (s : State) (qpn range : Nat) :
    (s.intakeStall qpn range).firmware = s.firmware := by simp [State.intakeStall]

@[simp] theorem State.qpSettle_firmware (s : State) (n : Nat) :
    (s.qpSettle n).firmware = s.firmware := by simp only [State.qpSettle]; split <;> simp

@[simp] theorem State.qpError_firmware (s : State) (n : Nat) : (s.qpError n).firmware = s.firmware := by
  simp only [State.qpError]
  split
  · rfl
  · rw [firmware_ite, State.tryReady_firmware, ite_self, State.qpSettle_firmware, State.setQp_firmware]
    refine (foldl_firmware _ (fun u o => ?_) _ _).trans (by simp)
    cases o.seq <;> simp

@[simp] theorem State.rxOk_firmware (s : State) (k : RocePkt) :
    (s.rxOk k).2.firmware = s.firmware := by simp [State.rxOk]

@[simp] theorem State.ecn_firmware (s : State) (k : RocePkt) : (s.ecn k).firmware = s.firmware := by simp [State.ecn]

@[simp] theorem State.inOrder_request_firmware (s : State) (k : RocePkt) (n : Nat) (write : Bool) (f : State → State)
    (hf : ∀ u, (f u).firmware = u.firmware) :
    (s.request_ k n write f).firmware = s.firmware := by
  simp only [State.request_]
  repeat' split
  all_goals simp [*]

@[simp] theorem State.goBack_firmware (s : State) (n psn : Nat) :
    (s.goBack n psn).firmware = s.firmware := by simp [State.goBack]

@[simp] theorem State.sendWaiting_firmware (s : State) (p : Nat) :
    (s.sendWaiting p).firmware = s.firmware := by simp [State.sendWaiting]

@[simp] theorem State.portQps_firmware (s : State) (p : Nat) :
    (s.portQps p).firmware = s.firmware := by simp [State.portQps]

@[simp] theorem State.feDown_firmware (s : State) (p : Nat) :
    (s.feDown p).firmware = s.firmware := by simp [State.feDown]

@[simp] theorem State.feEnable_firmware (s : State) (p : Nat) (v : Bool) :
    (s.feEnable p v).firmware = s.firmware := by simp [State.feEnable]

@[simp] theorem State.issueReads_firmware (s : State) : s.issueReads.firmware = s.firmware := by simp [State.issueReads]

@[simp] theorem State.intakeSettle_firmware (s : State) (t : Nat) :
    (s.intakeSettle t).firmware = s.firmware := by simp [State.intakeSettle]

/-! ### Machine/Penumbra -/

@[simp] theorem State.budgetCheck_firmware (s : State) :
    s.budgetCheck.firmware = s.firmware := by simp [State.budgetCheck]

@[simp] theorem State.penInputSample_firmware (s : State) (i : Nat) (answered : Bool) :
    (s.penInputSample i answered).firmware = s.firmware := by
  simp only [State.penInputSample]
  repeat' split
  all_goals simp

@[simp] theorem State.penScore_firmware (s : State) : s.penScore.firmware = s.firmware := firmware_of_mg rfl

@[simp] theorem State.ask_firmware (s : State) (dst op arg : Nat) (body : List Byte) (want : MgmtWant)
    (at_ left : Nat) :
    (s.ask dst op arg body want at_ left).firmware = s.firmware := firmware_of_mg rfl

@[simp] theorem State.askPartner_firmware (s : State) (phys : Nat) (restore : Bool) :
    (s.askPartner phys restore).firmware = s.firmware := by simp [State.askPartner]

@[simp] theorem State.storeRead_firmware (s : State) (remote len key : Nat) :
    (s.storeRead remote len key).firmware = s.firmware := by simp [State.storeRead]

@[simp] theorem State.seekStorage_firmware (s : State) :
    s.seekStorage.firmware = s.firmware := by unfold State.seekStorage; split <;> simp

@[simp] theorem State.seek_firmware (s : State) : s.seek.firmware = s.firmware := by
  simp only [State.seek]
  repeat' split
  all_goals simp

@[simp] theorem State.holdReq_firmware (s : State) : s.holdReq.firmware = s.firmware := by simp [State.holdReq]

@[simp] theorem State.restoreReq_firmware (s : State) : s.restoreReq.firmware = s.firmware := by simp [State.restoreReq]

/-! ### Machine/Holds -/

@[simp] theorem State.slotData_firmware (s : State) (n : Nat) :
    (s.slotData n).2.firmware = s.firmware := by simp [State.slotData]

@[simp] theorem State.drainStore_firmware (s : State) (n no : Nat) :
    (s.drainStore n no).firmware = s.firmware := by simp [State.drainStore]

@[simp] theorem State.drainFrames_firmware (s : State) (phys addr n : Nat) :
    (s.drainFrames phys addr n).firmware = s.firmware := by simp [State.drainFrames]

@[simp] theorem State.drainPartner_firmware (s : State) : s.drainPartner.firmware = s.firmware := by
  simp only [State.drainPartner]
  repeat' split
  all_goals simp

@[simp] theorem State.drainBegin_firmware (s : State) (n no : Nat) :
    (s.drainBegin n no).firmware = s.firmware := by simp [State.drainBegin]

@[simp] theorem State.partnerLost_firmware (s : State) : s.partnerLost.firmware = s.firmware := by
  simp only [State.partnerLost]
  repeat' split
  all_goals simp

@[simp] theorem State.partnerReply_firmware (s : State) (reg : Nat) (v : Word) :
    (s.partnerReply reg v).firmware = s.firmware := by
  simp only [State.partnerReply]
  repeat' split
  all_goals simp

@[simp] theorem State.snapBegin_firmware (s : State) (i : Image) :
    (s.snapBegin i).firmware = s.firmware := by simp [State.snapBegin]

@[simp] theorem State.restoreRefuse_firmware (s : State) (event : Bool) :
    (s.restoreRefuse event).firmware = s.firmware := by simp [State.restoreRefuse]

@[simp] theorem State.restoreBegin_firmware (s : State) : s.restoreBegin.firmware = s.firmware := by
  simp only [State.restoreBegin]
  repeat' split
  all_goals simp

@[simp] theorem State.restoreData_firmware (s : State) (c : Cand) :
    (s.restoreData c).2.firmware = s.firmware := by simp [State.restoreData]

@[simp] theorem State.restoreFrom_firmware (s : State) (i : Image) (d : List PByte) (fa : Nat) :
    (s.restoreFrom i d fa).firmware = s.firmware := by
  simp only [State.restoreFrom]
  repeat' split
  all_goals simp

@[simp] theorem State.remeasure_firmware (s : State) (t f : Nat) :
    (s.remeasure t f).firmware = s.firmware := by simp [State.remeasure]

@[simp] theorem State.requalSensor_firmware (s : State) (n : Nat) :
    (s.requalSensor n).firmware = s.firmware := by simp [State.requalSensor]

@[simp] theorem State.requalLane_firmware (s : State) (k lane : Nat) :
    (s.requalLane k lane).firmware = s.firmware := by simp [State.requalLane]

@[simp] theorem State.lateTile_firmware (s : State) (t : Nat) :
    (s.lateTile t).firmware = s.firmware := by simp [State.lateTile]

/-! ### Machine/Boundary -/

@[simp] theorem State.boundaryTiles_firmware (s : State) (j : Nat) : (s.boundaryTiles j).firmware = s.firmware := by
  simp only [State.boundaryTiles]
  refine (foldl_firmware _ (fun s x => ?_) _ _).trans ?_
  all_goals repeat' split
  all_goals simp

@[simp] theorem State.thrashCheck_firmware (s : State) :
    s.thrashCheck.firmware = s.firmware := by simp [State.thrashCheck]

@[simp] theorem State.dropEntries_firmware (s : State) (k : Nat) :
    (s.dropEntries k).firmware = s.firmware := firmware_of_mg rfl

@[simp] theorem State.admitUnits_firmware (s : State) : s.admitUnits.firmware = s.firmware := by simp [State.admitUnits]

@[simp] theorem State.boundaryPorts_firmware (s : State) :
    s.boundaryPorts.firmware = s.firmware := by simp [State.boundaryPorts]

@[simp] theorem State.boundarySpot_firmware (s : State) (j : Nat) :
    (s.boundarySpot j).firmware = s.firmware := firmware_of_mg rfl

@[simp] theorem State.softDrops_firmware (s : State) : s.softDrops.firmware = s.firmware := by simp [State.softDrops]

@[simp] theorem State.writeDone_firmware (s : State) (step base n : Nat) :
    (s.writeDone step base n).firmware = s.firmware := by simp [State.writeDone]

/-! ### Machine/Thermal -/

@[simp] theorem State.modTherm_firmware (s : State) (f : Therm → Therm) :
    (s.modTherm f).firmware = s.firmware := firmware_of_mg rfl

@[simp] theorem State.controlTemp_firmware (s : State) (t : Nat → Int) (n : Nat) (halo : Option Int) :
    (s.controlTemp t n halo).2.firmware = s.firmware := by
  simp only [State.controlTemp]
  repeat' split
  all_goals simp

@[simp] theorem State.senseAll_firmware (s : State) (x : ThermalSample) :
    (s.senseAll x).firmware = s.firmware := by simp [State.senseAll]

@[simp] theorem State.suspectSensor_firmware (s : State) (n : Nat) :
    (s.suspectSensor n).firmware = s.firmware := firmware_of_mg rfl

@[simp] theorem State.suspectCheck_firmware (s : State) : s.suspectCheck.firmware = s.firmware := by
  simp only [State.suspectCheck]
  refine foldl_firmware _ (fun s x => ?_) _ _
  repeat' split
  all_goals simp

@[simp] theorem State.lostCheck_firmware (s : State) : s.lostCheck.firmware = s.firmware := by simp [State.lostCheck]

@[simp] theorem State.capStep_firmware (s : State) : s.capStep.firmware = s.firmware := by simp [State.capStep]

@[simp] theorem State.heatDusk_firmware (s : State) : s.heatDusk.firmware = s.firmware := by simp [State.heatDusk]

@[simp] theorem State.coolant_firmware (s : State) (x : ThermalSample) :
    (s.coolant x).firmware = s.firmware := by simp [State.coolant]

@[simp] theorem State.thermRegs_firmware (s : State) : s.thermRegs.firmware = s.firmware := firmware_of_mg rfl

/-! ### Machine/Boot -/

@[simp] theorem State.bootStep_firmware (s : State) (ms n bound extra : Nat) :
    (s.bootStep ms n bound extra).1.firmware = s.firmware := firmware_of_mg rfl

@[simp] theorem State.bootHalt_firmware (s : State) (step : Nat) :
    (s.bootHalt step).firmware = s.firmware := by simp [State.bootHalt]

@[simp] theorem State.enterRecovery_firmware (s : State) :
    s.enterRecovery.firmware = s.firmware := by simp [State.enterRecovery]

@[simp] theorem State.boot1_firmware (s : State) : s.boot1.firmware = s.firmware := firmware_of_mg rfl

@[simp] theorem State.boot2_firmware (s : State) (e : BootEnv) :
    (s.boot2 e).firmware = s.firmware := by simp [State.boot2]

@[simp] theorem State.boot3_firmware (s : State) (e : BootEnv) :
    (s.boot3 e).firmware = s.firmware := by simp [State.boot3]

@[simp] theorem State.boot4_firmware (s : State) :
    s.boot4.firmware = s.firmware := by simp only [State.boot4]; split <;> simp

@[simp] theorem State.boot6_firmware (s : State) : s.boot6.firmware = s.firmware := by simp [State.boot6]

@[simp] theorem State.portModes_firmware (s : State) : s.portModes.firmware = s.firmware := by simp [State.portModes]

@[simp] theorem State.boot7_firmware (s : State) (e : BootEnv) :
    (s.boot7 e).firmware = s.firmware := by simp [State.boot7]

@[simp] theorem State.bootRest_firmware (s : State) (e : BootEnv) (ms late : Nat) :
    (s.bootRest e ms late).firmware = s.firmware := by simp [State.bootRest]

/-! ### Machine/Recorder -/

@[simp] theorem State.modAg_firmware (s : State) (f : Ag → Ag) : (s.modAg f).firmware = s.firmware := firmware_of_mg rfl

@[simp] theorem State.agClear_firmware (s : State) (slot : Nat) :
    (s.agClear slot).firmware = s.firmware := by simp [State.agClear]

/-! ### Machine/Sessions -/

@[simp] theorem State.quoteReq_firmware (s : State) (kind : Nat) :
    (s.quoteReq kind).firmware = s.firmware := by simp [State.quoteReq]

@[simp] theorem State.closeWhere_firmware (s : State) (p : Sess → Bool) :
    (s.closeWhere p).firmware = s.firmware := by simp [State.closeWhere]

@[simp] theorem State.enroll_firmware (s : State) (slot : Nat) (key : List Byte) (roles : Nat) :
    (s.enroll slot key roles).firmware = s.firmware := by simp [State.enroll]

@[simp] theorem State.revoke_firmware (s : State) (slot : Nat) :
    (s.revoke slot).firmware = s.firmware := by simp [State.revoke]

@[simp] theorem State.keyWin_firmware (s : State) (v : Nat) :
    (s.keyWin v).2.firmware = s.firmware := by simp [State.keyWin]

@[simp] theorem State.freshSid_firmware (s : State) : s.freshSid.2.firmware = s.firmware := firmware_of_mg rfl

@[simp] theorem State.replySess_firmware (s : State) (x : Sess) (ctr status : Nat) (value : List Byte) :
    (s.replySess x ctr status value).firmware = s.firmware := firmware_of_mg rfl

@[simp] theorem State.sessEntry_firmware (s : State) (x : Option Sess) (code status : Nat) (msg : List Byte)
    (arg : Option Nat) :
    (s.sessEntry x code status msg arg).2.firmware = s.firmware := firmware_of_mg rfl

@[simp] theorem State.discardCmd_firmware (s : State) (sid ctr code : Nat) (x : Option Sess) (msg : List Byte) :
    (s.discardCmd sid ctr code x msg).firmware = s.firmware := by simp [State.discardCmd]

/-- A COMMAND leaves it, or it is authentic and new for an open session whose role may send it, and its own act decides. -/
theorem State.sessCmd_cases (s : State) (sid ctr code : Nat) (fields : List (List Byte)) (tag : List Byte) (arg : Option Nat)
    (mayRun : Role → Bool) (act : Sess → Nat → State → Nat × List Byte × State) :
    (s.sessCmd sid ctr code fields tag arg mayRun act).firmware = s.firmware ∨
    ∃ x n u, s.mg.sessions.find? (·.sid == sid) = some x ∧
      tag = tagOfMsg x.key sid ctr (Config.message (256 + code) fields) ∧ (∀ c ∈ x.ctr, c < ctr) ∧
      mayRun (roleOf x.origin) = true ∧ u.firmware = s.firmware ∧
      (s.sessCmd sid ctr code fields tag arg mayRun act).firmware = (act x n u).2.2.firmware := by
  simp only [State.sessCmd]
  split
  · exact .inl (by simp)
  · rename_i x hx
    split
    · exact .inl (by simp)
    · rename_i hnew
      simp only [Bool.or_eq_true, bne_iff_ne, ne_eq, Bool.not_eq_true', not_or, not_not, Bool.not_eq_false,
        Option.all_eq_true, decide_eq_true_eq] at hnew
      obtain ⟨htag, hctr⟩ := hnew
      split
      · rename_i hrun
        refine .inr ⟨x, ?n, ?u, hx, htag, hctr, hrun, ?hu, ?hact⟩
        case hact => split <;> [rfl; simp]
        case hu => simp
      · exact .inl (by simp)

@[simp] theorem State.sessCmd_firmware (s : State) (sid ctr code : Nat) (fields : List (List Byte)) (tag : List Byte)
    (arg : Option Nat) (mayRun : Role → Bool) (act : Sess → Nat → State → Nat × List Byte × State)
    (hact : ∀ x y u, (act x y u).2.2.firmware = u.firmware) :
    (s.sessCmd sid ctr code fields tag arg mayRun act).firmware = s.firmware := by
  obtain h | ⟨x, n, u, -, -, -, -, hu, h⟩ := s.sessCmd_cases sid ctr code fields tag arg mayRun act
  · exact h
  · rw [h, hact, hu]

/-! ### Machine/RegRead -/

@[simp] theorem State.delayWord_firmware (s : State) (k off : Nat) : (s.delayWord k off).2.firmware = s.firmware := by
  refine foldl_snd_firmware _ (fun x i => ?_) _ _
  dsimp only
  split <;> simp

@[simp] theorem State.regLook_firmware (s : State) (page off : Nat) :
    (s.regLook page off).2.firmware = s.firmware := by simp [State.regLook]

@[simp] theorem State.readReg_firmware (s : State) (src page off : Nat) :
    (s.readReg src page off).2.firmware = s.firmware := by
  simp only [State.readReg]
  repeat' split
  all_goals simp

/-! ### Machine/Checker -/

@[simp] theorem State.chkMissed_firmware (s : State) (page : Nat) (b : Bool) :
    (s.chkMissed page b).firmware = s.firmware := firmware_of_mg rfl

/-- As `State.rawStack_firmware`. -/
@[simp] theorem State.rawSlice_firmware (s : State) (k : Nat) (write : Bool) :
    (s.rawSlice k write).firmware = s.firmware := by
  suffices h : ∀ f, f = State.rawSlice → (f s k write).firmware = s.firmware from h _ rfl
  delta State.rawSlice
  generalize State.chkWord = found
  generalize Slice.find = find
  rintro _ rfl
  beta_reduce
  generalize found s k = o
  have h := s.chkMissed_firmware (slicePage k) false
  cases o with
  | none => exact State.chkMissed_firmware ..
  | some e =>
    cases write with
    | false => exact (State.wrN_firmware ..).trans ((State.wr64_firmware ..).trans h)
    | true =>
      generalize hl : find (((s.chkMissed (slicePage k) false).flushSegment k (e.1.line * 4 + e.2 / 8)).slice k) e.1.line = l
      cases l <;> simp [hl]

/-- The function is replaced by its body and the check of a granule by a variable before the cases are taken: the kernel
would evaluate both to compare the branches. -/
@[simp] theorem State.rawStack_firmware (s : State) (k : Nat) (write : Bool) :
    (s.rawStack k write).firmware = s.firmware := by
  suffices h : ∀ f, f = State.rawStack → (f s k write).firmware = s.firmware from h _ rfl
  delta State.rawStack
  generalize State.chkGranule = found
  rintro _ rfl
  beta_reduce
  generalize found s k = o
  have h := s.chkMissed_firmware (stackPage k) false
  cases o with
  | none => exact State.chkMissed_firmware ..
  | some g =>
    cases write with
    | false =>
      exact (State.wr64_firmware ..).trans ((foldl_firmware _ (fun _ _ => State.wrN_firmware ..) _ _).trans h)
    | true => exact (State.setEcc_firmware ..).trans ((State.setBytes_firmware ..).trans h)

@[simp] theorem State.rawCmd_firmware (s : State) (page v : Nat) :
    (s.rawCmd page v).firmware = s.firmware := by simp [State.rawCmd]

@[simp] theorem State.setChecker_firmware (s : State) (page : Nat) (v : Bool) :
    (s.setChecker page v).firmware = s.firmware := by simp [State.setChecker]

@[simp] theorem State.setHalt_firmware (s : State) (t : Nat) (v : Bool) :
    (s.setHalt t v).firmware = s.firmware := firmware_of_mg rfl

/-! ### Machine/RegWrite -/

@[simp] theorem State.keep_firmware (s : State) (page off mask v : Nat) :
    (s.keep page off mask v).firmware = s.firmware := firmware_of_mg rfl

@[simp] theorem State.stallClear_firmware (s : State) (t : Nat) : (s.stallClear t).firmware = s.firmware := by
  simp only [State.stallClear]
  refine foldl_firmware _ (fun s x => ?_) _ _
  simp

@[simp] theorem State.linkEnable_firmware (s : State) (p : Nat) (on : Bool) :
    (s.linkEnable p on).firmware = s.firmware := by simp [State.linkEnable]

@[simp] theorem State.actTile_firmware (s : State) (t off v : Nat) :
    (s.actTile t off v).firmware = s.firmware := by simp [State.actTile]

@[simp] theorem State.actSlice_firmware (s : State) (k off mask v : Nat) :
    (s.actSlice k off mask v).firmware = s.firmware := by simp [State.actSlice]

@[simp] theorem State.actStack_firmware (s : State) (k off mask v : Nat) :
    (s.actStack k off mask v).2.firmware = s.firmware := by simp [State.actStack]

@[simp] theorem State.actRay_firmware (s : State) (p off mask v : Nat) :
    (s.actRay p off mask v).firmware = s.firmware := by simp [State.actRay]

@[simp] theorem State.actRayCom_firmware (s : State) (off mask v : Nat) :
    (s.actRayCom off mask v).firmware = s.firmware := by simp [State.actRayCom]

@[simp] theorem State.actFe_firmware (s : State) (p off mask v : Nat) :
    (s.actFe p off mask v).firmware = s.firmware := by simp [State.actFe]

@[simp] theorem State.actPen_firmware (s : State) (off mask v : Nat) :
    (s.actPen off mask v).firmware = s.firmware := by simp [State.actPen]

@[simp] theorem State.actHost_firmware (s : State) (off mask v : Nat) :
    (s.actHost off mask v).firmware = s.firmware := by simp [State.actHost]

/-! ### Machine/Orders -/

@[simp] theorem State.accessEnd_firmware (s : State) (a : Asker) (e : Option (Nat × JEnt)) (st : Nat)
    (value : Option Word) :
    (s.accessEnd a e st value).firmware = s.firmware := by
  simp only [State.accessEnd]
  repeat' split
  all_goals simp

@[simp] theorem State.modComps_firmware (s : State) (f : List Compound → List Compound) :
    (s.modComps f).firmware = s.firmware := firmware_of_mg rfl

@[simp] theorem State.compEnd_firmware (s : State) (c : Compound) :
    (s.compEnd c).firmware = s.firmware := by simp only [State.compEnd]; split <;> simp

@[simp] theorem State.compPart_firmware (s : State) (id m : Nat) (v : Word) :
    (s.compPart id m v).firmware = s.firmware := by simp only [State.compPart]; split <;> simp

@[simp] theorem State.pageFault_firmware (s : State) (o : Origin) (page off : Nat) :
    (s.pageFault o page off).firmware = s.firmware := firmware_of_mg rfl

@[simp] theorem State.readNow_firmware (s : State) (o : Origin) (page off : Nat) :
    (s.readNow o page off).2.2.firmware = s.firmware := by simp [State.readNow]

@[simp] theorem State.accept_firmware (s : State) (o : Origin) (page off : Nat) (v : Word) :
    (s.accept o page off v).2.2.firmware = s.firmware := by
  simp only [State.accept]
  repeat' split
  all_goals simp

@[simp] theorem State.dropReq_firmware (s : State) (tag : Nat) :
    (s.dropReq tag).firmware = s.firmware := firmware_of_mg rfl

@[simp] theorem State.fetched_firmware (s : State) (q : MgmtReq) (n : Nat) :
    (s.fetched q n).2.firmware = s.firmware := by simp [State.fetched]

@[simp] theorem State.headsIn_firmware (s : State) : s.headsIn.firmware = s.firmware := by simp [State.headsIn]

/-! ### Machine/Access -/

@[simp] theorem State.captured_firmware (s : State) (w : Word) :
    (s.captured w).2.firmware = s.firmware := by simp [State.captured]

end Sys2Proof.Machine
end

section
/-!
SUPPORT. Adoption: a bundle comes into force only at or above the floor. The operations that can reach FW_CMD adopt (R458,
R459), and so do the commands that end in one of them.
-/
namespace Sys2Proof.Machine

/-! ## Changing the bundle that runs -/

/-- The SVN of the bundle in a slot. -/
def Firmware.svn (f : Firmware) (slot : Nat) : Nat :=
  ({ mg := { slotA := f.slotA, slotB := f.slotB } } : State).fwSvn slot

theorem State.slotBytes_congr {s t : State} (hA : t.mg.slotA = s.mg.slotA) (hB : t.mg.slotB = s.mg.slotB) :
    t.slotBytes = s.slotBytes := by
  funext slot off n
  simp only [State.slotBytes, hA, hB]

/-- What the ROM accepts depends on the floor and the slots alone. -/
theorem State.slotOk_congr {s t : State} (hfloor : t.mg.floor = s.mg.floor) (hA : t.mg.slotA = s.mg.slotA)
    (hB : t.mg.slotB = s.mg.slotB) : t.slotOk = s.slotOk := by
  funext slot
  have hbytes := State.slotBytes_congr hA hB
  have hN : t.slotN = s.slotN := by funext slot off n; simp only [State.slotN, hbytes]
  have hfactory : t.factory slot = s.factory slot := by simp only [State.factory, hA]
  have hsvn : t.fwSvn slot = s.fwSvn slot := by simp only [State.fwSvn, hN]
  have hcomps : t.fwComps slot = s.fwComps slot := by simp only [State.fwComps, hN, hbytes]
  simp only [State.slotOk, hfactory, hsvn, hcomps, hN, hbytes, hfloor]

/-- A bundle below the floor is not accepted (R445). -/
theorem State.slotOk_of_svn_lt_floor {s : State} {slot : Nat} (h : s.fwSvn slot < s.mg.floor) : s.slotOk slot = false := by
  have hf : (s.mg.floor == 0 || decide (s.mg.floor ≤ s.fwSvn slot)) = false := by
    simp only [Bool.or_eq_false_iff, beq_eq_false_iff_ne, decide_eq_false_iff_not]
    omega
  simp only [State.slotOk, hf, Bool.and_false, Bool.false_and, ite_self]

theorem State.floor_le_of_slotOk {s : State} {slot : Nat} (h : s.slotOk slot = true) : s.mg.floor ≤ s.fwSvn slot := by
  by_contra hn
  rw [State.slotOk_of_svn_lt_floor (by omega)] at h
  cases h

/-- `g` is `f`, or `f` with a bundle in force that is not below the floor. -/
structure Firmware.Adopts (f g : Firmware) : Prop where
  floor : g.floor = f.floor
  slotA : g.slotA = f.slotA
  slotB : g.slotB = f.slotB
  active : g.active = f.active ∨ f.floor ≤ f.svn g.active

@[simp] theorem Firmware.Adopts.refl (f : Firmware) : f.Adopts f := ⟨rfl, rfl, rfl, .inl rfl⟩

theorem Firmware.Adopts.of_eq {f g : Firmware} (h : g = f) : f.Adopts g := h ▸ .refl f

theorem Firmware.Adopts.trans {f g k : Firmware} (h : f.Adopts g) (h' : g.Adopts k) : f.Adopts k where
  floor := h'.floor.trans h.floor
  slotA := h'.slotA.trans h.slotA
  slotB := h'.slotB.trans h.slotB
  active := by
    rcases h'.active with ha | ha
    · rw [ha]; exact h.active
    · rw [h.floor] at ha
      simp only [Firmware.svn, h.slotA, h.slotB] at ha
      exact .inr ha

theorem Firmware.Adopts.floor_le_svn {f g : Firmware} (h : f.Adopts g) (hne : g.active ≠ f.active) :
    g.floor ≤ g.svn g.active := by
  rcases h.active with ha | ha
  · exact absurd ha hne
  · rw [h.floor]
    simpa only [Firmware.svn, h.slotA, h.slotB] using ha

@[simp] theorem Firmware.adopts_ite (f : Firmware) (c : Prop) [Decidable c] (g k : Firmware) :
    f.Adopts (if c then g else k) = if c then f.Adopts g else f.Adopts k := apply_ite _ _ _ _

theorem foldl_adopts {σ α : Type} {f : Firmware} (p : σ → State) {step : σ → α → σ}
    (hf : ∀ x a, f.Adopts (p x).firmware → f.Adopts (p (step x a)).firmware) (l : List α) {x : σ}
    (h : f.Adopts (p x).firmware) : f.Adopts (p (l.foldl step x)).firmware := by
  induction l generalizing x with
  | nil => exact h
  | cons a l ih => exact ih (hf x a h)

/-! Each operation that can reach FW_CMD adopts. -/

section
variable {f : Firmware} {s : State}

/-- FW_CMD = 2 and the work of a hold (R458, R459) take a bundle at or above the floor, or leave the boot record. -/
theorem State.fwAdopt_adopts (ok : Bool) (h : f.Adopts s.firmware) : f.Adopts (s.fwAdopt ok).firmware := by
  refine h.trans ?_
  simp only [State.fwAdopt]
  split
  · exact .refl _
  · split
    · rename_i hok
      simp only [Bool.and_eq_true, decide_eq_true_eq] at hok
      simp only [State.agRecord_firmware, State.raise_firmware, State.setFlag_firmware, State.measureSlot_firmware,
        State.modMg_firmware]
      exact ⟨rfl, rfl, rfl, .inr hok.2⟩
    · exact .of_eq (by simp)

theorem State.fwActivateNow_adopts (h : f.Adopts s.firmware) : f.Adopts s.fwActivateNow.2.firmware := by
  simp only [State.fwActivateNow]
  split
  · exact h
  · exact fwAdopt_adopts _ (by simpa using h)

theorem State.actMgmt_adopts (off mask v : Nat) (h : f.Adopts s.firmware) : f.Adopts (s.actMgmt off mask v).2.firmware := by
  simp [State.actMgmt, h, fwActivateNow_adopts h]

theorem State.act_adopts (o : Origin) (page off mask v : Nat) (h : f.Adopts s.firmware) :
    f.Adopts (s.act o page off mask v).2.firmware := by
  have hc : ∀ t, s.stageCmd v = some t → t.firmware = s.firmware := fun t => State.stageCmd_firmware
  cases hs : s.stageCmd v with
  | none => simp [State.act, hs, h, actMgmt_adopts]
  | some t => simp [State.act, hs, hc t hs, h, actMgmt_adopts]

theorem State.applyWrite_adopts (o : Origin) (page off : Nat) (v : Word) (h : f.Adopts s.firmware) :
    f.Adopts (s.applyWrite o page off v).2.firmware := by
  simp only [State.applyWrite]
  split_ifs
  case neg => exact act_adopts o page off _ _ h
  all_goals exact h

theorem State.unitWrite_adopts (o : Origin) (u off : Nat) (v : Word) (lost : List Nat) (h : f.Adopts s.firmware) :
    f.Adopts (s.unitWrite o u off v lost).2.firmware := by
  refine foldl_adopts (fun x : Nat × State => x.2) (fun x t hx => ?_) _ h
  dsimp only
  rw [State.jOrder_firmware]
  split
  · exact hx
  · exact applyWrite_adopts o t off v hx

@[simp] theorem State.compBegin_adopts (o : Origin) (by_ : Asker) (entry : Option (Nat × JEnt)) (u off : Nat)
    (v : Option Word) (lost : List Nat) (h : f.Adopts s.firmware) :
    f.Adopts (s.compBegin o by_ entry u off v lost).firmware := by
  have hs : f.Adopts s.fresh.2.firmware := by simpa using h
  simp only [State.compBegin]
  split
  all_goals
    rw [firmware_ite, State.compEnd_firmware, foldl_firmware _ (fun u m => by split <;> simp), State.modComps_firmware,
      ite_self]
  · exact hs
  · cases v with
    | none => exact hs
    | some v =>
      have hw := unitWrite_adopts o 0 off v lost hs
      dsimp only
      exact hw

@[simp] theorem State.writeNow_adopts (o : Origin) (page off : Nat) (v : Word) (lost : List Nat) (h : f.Adopts s.firmware) :
    f.Adopts (s.writeNow o page off v lost).2.firmware := by
  simp only [State.writeNow]
  split_ifs
  · simpa using h
  · exact unitWrite_adopts o _ off v lost h
  · exact h
  · exact applyWrite_adopts o page off v h

@[simp] theorem State.writeAny_adopts (o : Origin) (by_ : Asker) (e : Option (Nat × JEnt)) (page off : Nat) (v : Word)
    (lost : List Nat) (h : f.Adopts s.firmware) : f.Adopts (s.writeAny o by_ e page off v lost).firmware := by
  simp only [State.writeAny]
  split
  · exact compBegin_adopts o by_ e _ off _ lost h
  · simpa using writeNow_adopts o page off v lost h

@[simp] theorem State.order_adopts (o : Origin) (page off : Nat) (v : Word) (h : f.Adopts s.firmware) :
    f.Adopts (s.order o page off v).firmware :=
  writeAny_adopts _ _ _ _ _ _ _ (by simpa using h)

@[simp] theorem State.control_adopts (o : Origin) (page i : Nat) (v : Bool) (h : f.Adopts s.firmware) :
    f.Adopts (s.control o page i v).firmware := order_adopts o page offControl _ h

@[simp] theorem State.readAny_adopts (o : Origin) (by_ : Asker) (e : Option (Nat × JEnt)) (page off : Nat)
    (h : f.Adopts s.firmware) : f.Adopts (s.readAny o by_ e page off).firmware := by
  simp only [State.readAny]
  split
  · exact compBegin_adopts o by_ e _ off none [] h
  · simpa using h

@[simp] theorem State.sameCycle_adopts (ws : List RegOrder) (h : f.Adopts s.firmware) :
    f.Adopts (s.sameCycle ws).firmware := by
  simp only [State.sameCycle]
  refine foldl_adopts id (fun t x ht => ?_) _ ?_
  · dsimp only [id] at ht ⊢
    split
    · rw [State.jLink_firmware]
      exact writeAny_adopts _ _ _ _ _ _ _ (by simpa using ht)
    · exact writeAny_adopts _ _ _ _ _ _ _ (by simpa using ht)
  · simpa using h

@[simp] theorem State.holdWork_adopts (w : HoldWork) (h : f.Adopts s.firmware) : f.Adopts (s.holdWork w).firmware := by
  have ha := fwAdopt_adopts w.fwOk h
  simp only [State.holdWork]
  cases w.retune <;> simpa using ha

end

/-! ## What a command leaves -/

/-- The firmware of a state that `o` leaves is one that `s` can adopt. -/
def Adopting (s : State) (o : Host.Outcome State Fault Refusal) : Prop := ∀ t, o = .next t → s.firmware.Adopts t.firmware

section
variable {s : State} {g : State → State}

theorem runOn_adopting (h : s.firmware.Adopts (g s).firmware) : Adopting s (runOn s g) := by
  rintro t ⟨⟩
  split
  · exact .refl _
  · rwa [finish_firmware]

theorem runPart_adopting {ok : Bool} (h : s.firmware.Adopts (g s).firmware) : Adopting s (runPart ok s g) := by
  cases ok
  · rintro t ⟨⟩
  · exact runOn_adopting h

theorem runOn_keeping (h : (g s).firmware = s.firmware) : Adopting s (runOn s g) := runOn_adopting (.of_eq h)

theorem runPart_keeping {ok : Bool} (h : (g s).firmware = s.firmware) : Adopting s (runPart ok s g) :=
  runPart_adopting (.of_eq h)

theorem tileRun_keeping {t : Nat} (h : (g s).firmware = s.firmware) : Adopting s (tileRun t s g) :=
  runPart_keeping (by simp only [State.awake]; split <;> simp [h])

theorem instrRun_keeping {fits : Bool} {t : Nat} (h : (g s).firmware = s.firmware) : Adopting s (instrRun fits t s g) :=
  tileRun_keeping (by simp [h])

end

theorem State.relayed_adopts {f : Firmware} {s : State} (m : MgmtMsg) (op : Nat) (d : List Byte)
    (act : Option (Nat × JEnt) → State → State) (h : f.Adopts s.firmware)
    (hact : ∀ e u, f.Adopts u.firmware → f.Adopts (act e u).firmware) : f.Adopts (s.relayed m op d act).firmware := by
  simp only [State.relayed]
  split
  · exact hact _ _ (by simpa using h)
  · simpa using h

theorem State.runCmd_adopts {f : Firmware} {s : State} (seq op : Nat) (act : Cmd → State → State)
    (h : f.Adopts s.firmware) (hact : ∀ c u, f.Adopts u.firmware → f.Adopts (act c u).firmware) :
    f.Adopts (s.runCmd seq op act).firmware := by
  simp only [State.runCmd]
  split
  · exact h
  · split
    · exact h
    · exact hact _ _ (by simpa using h)

theorem State.sessCmd_adopts {f : Firmware} {s : State} (sid ctr code : Nat) (fields : List (List Byte)) (tag : List Byte)
    (arg : Option Nat) (mayRun : Role → Bool) (act : Sess → Nat → State → Nat × List Byte × State)
    (h : f.Adopts s.firmware) (hact : ∀ x n u, f.Adopts u.firmware → f.Adopts (act x n u).2.2.firmware) :
    f.Adopts (s.sessCmd sid ctr code fields tag arg mayRun act).firmware := by
  obtain hs | ⟨x, n, u, -, -, -, -, hu, hs⟩ := s.sessCmd_cases sid ctr code fields tag arg mayRun act
  · rwa [hs]
  · rw [hs]
    exact hact x n u (by rwa [hu])

theorem getD_firmware {o : Option State} {s u : State} (ho : ∀ t, o = some t → t.firmware = s.firmware)
    (hu : u.firmware = s.firmware) : (o.getD u).firmware = s.firmware := by
  cases o with
  | none => exact hu
  | some t => exact ho t rfl

end Sys2Proof.Machine
end

section
/-!
SUPPORT. Every command adopts, except those that write fuses and slots. A lemma for each command whose effect takes cases;
the others follow from the operations that they call.
-/
namespace Sys2Proof.Machine

/-! ## Commands whose effect takes cases -/

theorem execGiveTile_adopting (t : Nat) (w : BitVec 128) (s : State) : Adopting s (execGiveTile t w s) :=
  instrRun_keeping (State.issue_firmware _ _ _ _ _ fun u => u.giveOnce_firmware _ _ fun _ => by split <;> simp)

theorem execGiveRemoteTile_adopting (t : Nat) (w : BitVec 128) (s : State) : Adopting s (execGiveRemoteTile t w s) := by
  unfold execGiveRemoteTile
  exact instrRun_keeping (State.issue_firmware _ _ _ _ _ fun u => u.giveOnce_firmware _ _ fun x =>
    x.sendUnscheduled_firmware _ _)

theorem execGiveCollective_adopting (t : Nat) (w : BitVec 128) (s : State) : Adopting s (execGiveCollective t w s) :=
  instrRun_keeping (State.issue_firmware _ _ _ _ _ fun u => u.giveOnce_firmware _ _ fun _ => firmware_of_mg rfl)

theorem execDma_adopting (t : Nat) (w : BitVec 128) (s : State) : Adopting s (execDma t w s) := by
  unfold execDma
  refine instrRun_keeping (State.issue_firmware _ _ _ _ _ fun u => ?_)
  dsimp only
  split
  · rfl
  · split <;> simp

theorem execGsend_adopting (t : Nat) (w : BitVec 128) (s : State) : Adopting s (execGsend t w s) := by
  unfold execGsend
  refine instrRun_keeping (State.issue_firmware _ _ _ _ _ fun u => ?_)
  dsimp only
  split
  · simp
  · split <;> simp

theorem execGrecv_adopting (t : Nat) (w : BitVec 128) (s : State) : Adopting s (execGrecv t w s) := by
  unfold execGrecv
  refine instrRun_keeping (State.issue_firmware _ _ _ _ _ fun u => ?_)
  dsimp only
  split
  · simp
  · split <;> simp

theorem execLdc_adopting (t : Nat) (w : BitVec 128) (s : State) : Adopting s (execLdc t w s) := by
  unfold execLdc
  refine instrRun_keeping ?_
  simp

theorem execMirrorTaskComplete_adopting (t : Nat) (s : State) : Adopting s (execMirrorTaskComplete t s) := by
  unfold execMirrorTaskComplete
  refine tileRun_keeping ?_
  dsimp only
  split
  · rfl
  · split
    · simp
    · rw [foldl_firmware]
      · simp
      · intro u x
        simp

theorem execRescaleDecision_adopting (t acc : Nat) (s : State) : Adopting s (execRescaleDecision t acc s) := by
  unfold execRescaleDecision
  refine tileRun_keeping ?_
  dsimp only
  split <;> simp

theorem execRescaleRetry_adopting (t acc : Nat) (s : State) : Adopting s (execRescaleRetry t acc s) := by
  unfold execRescaleRetry
  refine tileRun_keeping ?_
  dsimp only
  split
  · rfl
  · split
    · rfl
    · split <;> simp

theorem execTransferLanded_adopting (id : Nat) (s : State) : Adopting s (execTransferLanded id s) := by
  unfold execTransferLanded
  refine runOn_keeping ?_
  dsimp only
  repeat' split
  all_goals simp

theorem execMailboxArrival_adopting (id : Nat) (s : State) : Adopting s (execMailboxArrival id s) := by
  unfold execMailboxArrival
  refine runOn_keeping ?_
  dsimp only
  split <;> simp

theorem execReadCacheFill_adopting (t line : Nat) (s : State) : Adopting s (execReadCacheFill t line s) := by
  unfold execReadCacheFill
  refine runPart_keeping ?_
  dsimp only
  split <;> simp

theorem execPrefetchCheck_adopting (t slot : Nat) (s : State) : Adopting s (execPrefetchCheck t slot s) := by
  unfold execPrefetchCheck
  refine runPart_keeping ?_
  refine State.awake_firmware _ _ fun u => ?_
  split <;> simp

theorem execSpectrumFlush_adopting (t tensor : Nat) (s : State) : Adopting s (execSpectrumFlush t tensor s) := by
  unfold execSpectrumFlush
  refine tileRun_keeping ?_
  split
  · rfl
  · split
    · simp
    · rename_i h
      simpa using State.specFlush_firmware h

theorem execDoneStepWrite_adopting (s : State) : Adopting s (execDoneStepWrite s) := by
  unfold execDoneStepWrite
  refine runOn_keeping ?_
  dsimp only
  split <;> simp

theorem execMasterLost_adopting (s : State) : Adopting s (execMasterLost s) := by
  unfold execMasterLost
  refine runOn_keeping ?_
  dsimp only
  split <;> simp

theorem execFrameBoundary_adopting (s : State) : Adopting s (execFrameBoundary s) := by
  unfold execFrameBoundary
  refine runOn_keeping ?_
  dsimp only
  split <;> simp

/-- The check of the image is made a variable first: the kernel would evaluate it to compare the cases. -/
theorem execCheckDone_adopting (found : Option (Nat × Nat × Nat)) (s : State) : Adopting s (execCheckDone found s) := by
  unfold execCheckDone
  obtain ⟨check, hcheck⟩ : ∃ check, check = State.checkImage := ⟨_, rfl⟩
  rw [← hcheck]
  clear hcheck
  refine runOn_keeping ?_
  dsimp only
  split
  · rfl
  · split <;> simp

theorem execImageActivation_adopting (s : State) : Adopting s (execImageActivation s) := by
  unfold execImageActivation
  refine runOn_keeping ?_
  dsimp only
  repeat' split
  all_goals simp

theorem execMgmtReplyTimeout_adopting (tag : Nat) (s : State) : Adopting s (execMgmtReplyTimeout tag s) := by
  unfold execMgmtReplyTimeout
  refine runOn_keeping ?_
  split
  · rfl
  · split
    · split <;> simp
    all_goals simp

theorem execStepClose_adopting (s : State) : Adopting s (execStepClose s) := by
  unfold execStepClose
  refine runOn_keeping ?_
  dsimp only
  split <;> simp

theorem execCommit_adopting (m : StepMsg) (s : State) : Adopting s (execCommit m s) := by
  unfold execCommit
  refine runOn_keeping ?_
  dsimp only
  split
  · rfl
  · rename_i h
    simpa using State.takeVerdict_firmware h

theorem execDiscard_adopting (m : StepMsg) (s : State) : Adopting s (execDiscard m s) := by
  unfold execDiscard
  refine runOn_keeping ?_
  dsimp only
  split
  · rfl
  · rename_i h
    simpa using State.takeVerdict_firmware h

theorem execRollback_adopting (m : StepMsg) (s : State) : Adopting s (execRollback m s) := by
  unfold execRollback
  refine runOn_keeping ?_
  dsimp only
  split
  · rfl
  · rename_i u ho
    have hu : u.firmware = s.firmware := by
      split at ho
      · split at ho
        · split at ho
          · cases ho; rfl
          · cases ho
        · obtain ⟨p, -, rfl⟩ := Option.map_eq_some_iff.1 ho
          simp
      · exact State.takeVerdict_firmware ho
    simp [hu]

theorem execCommitRepair_adopting (m : StepMsg) (s : State) : Adopting s (execCommitRepair m s) := by
  unfold execCommitRepair
  refine runOn_keeping ?_
  dsimp only
  split
  · rfl
  · rename_i h
    simpa using State.takeVerdict_firmware h

theorem execUndoDone_adopting (s : State) : Adopting s (execUndoDone s) := by
  unfold execUndoDone
  refine runOn_keeping ?_
  dsimp only
  split <;> simp

theorem execResume_adopting (step : Nat) (s : State) : Adopting s (execResume step s) := by
  unfold execResume
  refine runOn_keeping ?_
  dsimp only
  split
  · rfl
  · split
    · rfl
    · rename_i u ho
      have hu : u.firmware = s.firmware := by
        split at ho
        · split at ho
          · cases ho; rfl
          · cases ho
        · obtain ⟨p, -, rfl⟩ := Option.map_eq_some_iff.1 ho
          simp
      refine (State.forSites_firmware _ _ fun x t => ?_).trans ?_
      · split <;> simp
      · split <;> simp [hu]

theorem execLineFill_adopting (line : Nat) (s : State) : Adopting s (execLineFill line s) := by
  unfold execLineFill
  refine runOn_keeping ?_
  split
  · rfl
  · split
    · rfl
    · simp

theorem execInvalidationAck_adopting (line : Nat) (s : State) : Adopting s (execInvalidationAck line s) := by
  unfold execInvalidationAck
  refine runOn_keeping ?_
  dsimp only
  repeat' split
  all_goals simp

theorem execMergeWriteback_adopting (k seg : Nat) (s : State) : Adopting s (execMergeWriteback k seg s) := by
  unfold execMergeWriteback
  refine runPart_keeping ?_
  refine State.awake_firmware _ _ fun u => ?_
  split <;> simp

theorem execRecodeDone_adopting (k : Nat) (s : State) : Adopting s (execRecodeDone k s) := by
  unfold execRecodeDone
  refine runPart_keeping ?_
  refine State.awake_firmware _ _ fun u => ?_
  split <;> simp

theorem execRetryResend_adopting (id : Nat) (s : State) : Adopting s (execRetryResend id s) := by
  unfold execRetryResend
  refine runOn_keeping ?_
  split
  · rfl
  · rw [State.request_firmware, State.firmware_mk, mg_firmware]

theorem execRowSpared_adopting (stack : Nat) (s : State) : Adopting s (execRowSpared stack s) := by
  unfold execRowSpared
  refine runPart_keeping ?_
  refine State.awake_firmware _ _ fun u => ?_
  split <;> simp

theorem execSlowTierRead_adopting (id : Nat) (poisoned : Bool) (s : State) :
    Adopting s (execSlowTierRead id poisoned s) := by
  unfold execSlowTierRead
  refine runOn_keeping ?_
  dsimp only
  split <;> simp

theorem execSlowTierWrite_adopting (id : Nat) (s : State) : Adopting s (execSlowTierWrite id s) := by
  unfold execSlowTierWrite
  refine runOn_keeping ?_
  dsimp only
  split <;> simp

theorem execMoveDone_adopting (block : Nat) (s : State) : Adopting s (execMoveDone block s) := by
  unfold execMoveDone
  refine runOn_keeping ?_
  refine State.awake_firmware _ _ fun u => ?_
  split <;> simp

theorem execFrameTransmit_adopting (p : Nat) (s : State) : Adopting s (execFrameTransmit p s) := by
  unfold execFrameTransmit
  refine runPart_keeping ?_
  split
  · rfl
  · extract_lets u x
    have hu : u.firmware = s.firmware := by simp [u]
    split
    · simp [hu]
    · split
      · split
        · exact hu
        · rename_i i kind _ _
          have hf : (u.stampFrame p i.frame).2.firmware = s.firmware := by simp [hu]
          generalize u.stampFrame p i.frame = y at hf ⊢
          obtain ⟨f, v⟩ := y
          dsimp only
          split <;> simp [hf]
      · simp [hu]

theorem execIdle_adopting (p : Nat) (f : RayFrame) (s : State) : Adopting s (execIdle p f s) := by
  unfold execIdle
  refine runPart_keeping ?_
  split
  · refine getD_firmware (fun t ht => ?_) (by simp)
    rcases s.acceptSeq_fst p f with h | h <;> rw [h] at ht <;> cases ht
    simp
  · rfl

theorem execAudit_adopting (p : Nat) (f : RayFrame) (replayed : Bool) (s : State) :
    Adopting s (execAudit p f replayed s) := by
  unfold execAudit
  refine runPart_keeping ?_
  have hk := s.acceptSeq_firmware p f
  have hf := s.acceptSeq_fst p f
  dsimp only
  split
  · rfl
  · split
    · rename_i h
      rw [h] at hk
      exact hk
    · rename_i h
      simp only [h, Option.some.injEq, reduceCtorEq, false_or] at hk hf
      simp [hf, hk]

theorem execCollRecordStart_adopting (q : Nat) (s : State) : Adopting s (execCollRecordStart q s) := by
  unfold execCollRecordStart
  refine runPart_keeping ?_
  dsimp only
  split
  · split <;> simp
  · simp

theorem execFpPiece_adopting (m : MgmtMsg) (s : State) : Adopting s (execFpPiece m s) := by
  unfold execFpPiece
  refine runOn_keeping ?_
  dsimp only
  split
  · split <;> simp
  · simp

theorem execMgmtRegRead_adopting (m : MgmtMsg) (s : State) : Adopting s (execMgmtRegRead m s) := by
  unfold execMgmtRegRead
  exact runOn_adopting (State.relayed_adopts _ _ _ _ (.refl _) fun e u h => State.readAny_adopts _ _ _ _ _ h)

theorem execMgmtRegWrite_adopting (m : MgmtMsg) (s : State) : Adopting s (execMgmtRegWrite m s) := by
  unfold execMgmtRegWrite
  exact runOn_adopting (State.relayed_adopts _ _ _ _ (.refl _) fun e u h => State.writeAny_adopts _ _ _ _ _ _ _ h)

theorem execRegReply_adopting (m : MgmtMsg) (s : State) : Adopting s (execRegReply m s) := by
  unfold execRegReply
  refine runOn_keeping ?_
  dsimp only
  split
  · simp
  · split <;> simp

theorem execMemData_adopting (m : MgmtMsg) (s : State) : Adopting s (execMemData m s) := by
  unfold execMemData
  refine runOn_keeping ?_
  dsimp only
  repeat' split
  all_goals simp

theorem execHostLoad_adopting (h addr len : Nat) (s : State) : Adopting s (execHostLoad h addr len s) := by
  unfold execHostLoad
  refine runPart_adopting ?_
  dsimp only
  repeat' split
  all_goals simp

theorem execHostStore_adopting (h addr : Nat) (data : List Byte) (s : State) : Adopting s (execHostStore h addr data s) := by
  unfold execHostStore
  refine runPart_adopting ?_
  split
  · exact .refl _
  · split
    · simp
    · split
      · simp
      · split <;> simp

theorem execRegisterWrite_adopting (w : RegOrder) (rivals : List RegOrder) (hwSet : Word) (s : State) :
    Adopting s (execRegisterWrite w rivals hwSet s) := by
  unfold execRegisterWrite
  refine runOn_adopting ?_
  dsimp only
  rw [firmware_ite, foldl_firmware _ (fun u i => by simp), ite_self, firmware_ite, Firmware.adopts_ite]
  split
  · exact foldl_adopts id (fun u x hu => State.order_adopts _ _ _ _ hu) _ (.refl _)
  · simp

theorem execCommandFetch_adopting (s : State) : Adopting s (execCommandFetch s) := by
  unfold execCommandFetch
  refine runOn_keeping ?_
  refine State.awake_firmware _ _ fun u => ?_
  repeat' split
  all_goals simp

theorem execCmdRegWrite_adopting (seq : Nat) (s : State) : Adopting s (execCmdRegWrite seq s) := by
  unfold execCmdRegWrite
  exact runOn_adopting (State.runCmd_adopts _ _ _ (.refl _) fun c u h => State.writeAny_adopts _ _ _ _ _ _ _ h)

theorem execCmdRegRead_adopting (seq : Nat) (s : State) : Adopting s (execCmdRegRead seq s) := by
  unfold execCmdRegRead
  exact runOn_adopting (State.runCmd_adopts _ _ _ (.refl _) fun c u h => State.readAny_adopts _ _ _ _ _ h)

theorem execWriteInline_adopting (seq : Nat) (s : State) : Adopting s (execWriteInline seq s) := by
  unfold execWriteInline
  refine runOn_keeping ?_
  split <;> simp

theorem execCopy_adopting (seq : Nat) (s : State) : Adopting s (execCopy seq s) := by
  unfold execCopy
  refine runOn_keeping ?_
  dsimp only
  split <;> simp

theorem execFlush_adopting (seq : Nat) (s : State) : Adopting s (execFlush seq s) := by
  unfold execFlush
  exact runOn_keeping (State.awake_firmware _ _ fun u => by simp)

theorem execJournalCopy_adopting (seq : Nat) (s : State) : Adopting s (execJournalCopy seq s) := by
  unfold execJournalCopy
  exact runOn_keeping (State.awake_firmware _ _ fun u => by simp)

theorem execRdmaPost_adopting (seq : Nat) (s : State) : Adopting s (execRdmaPost seq s) := by
  unfold execRdmaPost
  refine runOn_keeping ?_
  dsimp only
  split <;> simp

theorem execIntakeSet_adopting (seq : Nat) (s : State) : Adopting s (execIntakeSet seq s) := by
  unfold execIntakeSet
  refine runOn_keeping (State.awake_firmware _ _ fun u => u.runCmd_firmware _ _ _ fun c x => ?_)
  generalize hr : x.modRead (c.arg 0) 320 = r
  have hx : r.2.firmware = x.firmware := by rw [← hr, State.modRead_firmware]
  dsimp only
  split
  · simp
  · split <;> simp [hx]

theorem execRdmaReadResponse_adopting (k : RocePkt) (s : State) : Adopting s (execRdmaReadResponse k s) := by
  unfold execRdmaReadResponse
  refine runPart_keeping ?_
  dsimp only
  repeat' split
  all_goals simp

theorem execRoceAck_adopting (k : RocePkt) (s : State) : Adopting s (execRoceAck k s) := by
  unfold execRoceAck
  refine runPart_keeping ?_
  dsimp only
  split
  · simp
  · rw [State.qpSettle_firmware, State.setQp_firmware, foldl_firmware]
    · simp
    · intro u o
      split <;> simp

theorem execRetransmitTimeout_adopting (qpn : Nat) (s : State) : Adopting s (execRetransmitTimeout qpn s) := by
  unfold execRetransmitTimeout
  refine runPart_keeping ?_
  dsimp only
  split <;> simp

theorem execIntakeStart_adopting (s : State) : Adopting s (execIntakeStart s) := by
  unfold execIntakeStart
  refine runOn_keeping ?_
  dsimp only
  repeat' split
  all_goals simp

theorem execIntakeReadDone_adopting (id : Nat) (ok : Bool) (s : State) : Adopting s (execIntakeReadDone id ok s) := by
  unfold execIntakeReadDone
  refine runOn_keeping ?_
  dsimp only
  repeat' split
  all_goals simp

theorem execEndpointDma_adopting (p addr len : Nat) (write : Option (List Byte)) (s : State) :
    Adopting s (execEndpointDma p addr len write s) := by
  unfold execEndpointDma
  refine runPart_keeping ?_
  dsimp only
  split
  · simp
  · split <;> simp

theorem execDomainFault_adopting (d : Nat) (s : State) : Adopting s (execDomainFault d s) := by
  unfold execDomainFault
  refine runPart_keeping ?_
  dsimp only
  have hrow : ∀ u : State, ((u.replaceRowSites (d - 1) 3).getD u.spend).firmware = u.firmware := fun u =>
    getD_firmware (fun t => State.replaceRowSites_firmware) (by simp)
  simp [hrow]

theorem execGrantSend_adopting (s : State) : Adopting s (execGrantSend s) := by
  unfold execGrantSend
  refine runOn_keeping ?_
  dsimp only
  split
  · simp
  · split <;> simp

theorem execSpotlightAck_adopting (p : Nat) (m : SpotMsg) (s : State) : Adopting s (execSpotlightAck p m s) := by
  unfold execSpotlightAck
  refine runPart_keeping ?_
  dsimp only
  split
  · simp
  · split <;> simp

theorem execBoundaryHoldOrder_adopting (m : PenumbraMsg) (s : State) : Adopting s (execBoundaryHoldOrder m s) := by
  unfold execBoundaryHoldOrder
  refine runOn_keeping ?_
  dsimp only
  split <;> simp

theorem execHoldBegin_adopting (w : HoldWork) (s : State) : Adopting s (execHoldBegin w s) := by
  unfold execHoldBegin
  refine runOn_adopting ?_
  rw [firmware_ite, Firmware.adopts_ite]
  split
  · exact .refl _
  · extract_lets restore raised cleared asked left told numbered snapped worked routed
    have hsnapped : snapped.firmware = s.firmware := by
      simp only [snapped]
      split <;> simp [numbered, told, asked, cleared, raised]
    have hworked : s.firmware.Adopts worked.firmware := State.holdWork_adopts w (.of_eq hsnapped)
    simpa [routed] using hworked

theorem execHoldEnd_adopting (s : State) : Adopting s (execHoldEnd s) := by
  unfold execHoldEnd
  refine runOn_keeping ?_
  dsimp only
  split <;> simp

theorem execSnapDone_adopting (s : State) : Adopting s (execSnapDone s) := by
  unfold execSnapDone
  refine runOn_keeping ?_
  dsimp only
  split <;> simp

theorem execDrainDone_adopting (ok : Bool) (s : State) : Adopting s (execDrainDone ok s) := by
  unfold execDrainDone
  refine runOn_keeping ?_
  dsimp only
  split <;> simp

theorem execPark_adopting (s : State) : Adopting s (execPark s) := by
  unfold execPark
  refine runOn_keeping ?_
  dsimp only
  repeat' split
  all_goals simp

theorem execHoldTimeout_adopting (s : State) : Adopting s (execHoldTimeout s) := by
  unfold execHoldTimeout
  refine runOn_keeping ?_
  split <;> simp

theorem execRestoreHold_adopting (m : PenumbraMsg) (s : State) : Adopting s (execRestoreHold m s) := by
  unfold execRestoreHold
  refine runOn_keeping ?_
  dsimp only
  split <;> simp

theorem execRestoreDone_adopting (s : State) : Adopting s (execRestoreDone s) := by
  unfold execRestoreDone
  refine runOn_keeping ?_
  dsimp only
  split <;> simp

theorem execSelftestDone_adopting (pass : Bool) (s : State) : Adopting s (execSelftestDone pass s) := by
  unfold execSelftestDone
  refine runOn_keeping ?_
  have hrep : ∀ (u : State) (t : Nat), ((u.replaceSites [t] 3).getD u.spend).firmware = u.firmware := fun u t =>
    getD_firmware (fun _ => State.replaceSites_firmware) (by simp)
  split
  · rfl
  · simp [hrep]

theorem execResponse_adopting (hs : Nat) (ct sig : List Byte) (s : State) : Adopting s (execResponse hs ct sig s) := by
  unfold execResponse
  refine runOn_keeping ?_
  dsimp only
  split <;> simp

theorem execSessionRegRead_adopting (sid ctr page off : Nat) (tag : List Byte) (s : State) :
    Adopting s (execSessionRegRead sid ctr page off tag s) := by
  unfold execSessionRegRead
  refine runOn_adopting (State.sessCmd_adopts _ _ _ _ _ _ _ _ (.refl _) fun x n u h => ?_)
  simp [h]

theorem execSessionRegWrite_adopting (sid ctr page off : Nat) (v : Word) (tag : List Byte) (s : State) :
    Adopting s (execSessionRegWrite sid ctr page off v tag s) := by
  unfold execSessionRegWrite
  refine runOn_adopting (State.sessCmd_adopts _ _ _ _ _ _ _ _ (.refl _) fun x n u h => ?_)
  simp [h]

theorem execQuote_adopting (sid ctr : Nat) (nonce tag : List Byte) (s : State) :
    Adopting s (execQuote sid ctr nonce tag s) := by
  unfold execQuote
  exact runOn_keeping (State.sessCmd_firmware _ _ _ _ _ _ _ _ _ fun x n u => rfl)

theorem execCertReadAndLogRead_adopting (sid ctr : Nat) (tag : List Byte) (s : State) :
    Adopting s (execCertReadAndLogRead sid ctr tag s) := by
  unfold execCertReadAndLogRead
  exact runOn_keeping (State.sessCmd_firmware _ _ _ _ _ _ _ _ _ fun x n u => rfl)

theorem execKeyEnroll_adopting (sid ctr slot : Nat) (key : List Byte) (roles : Nat) (tag : List Byte) (s : State) :
    Adopting s (execKeyEnroll sid ctr slot key roles tag s) := by
  unfold execKeyEnroll
  exact runOn_keeping (State.sessCmd_firmware _ _ _ _ _ _ _ _ _ fun x n u => by simp [doneSess])

theorem execKeyRevoke_adopting (sid ctr slot : Nat) (tag : List Byte) (s : State) :
    Adopting s (execKeyRevoke sid ctr slot tag s) := by
  unfold execKeyRevoke
  exact runOn_keeping (State.sessCmd_firmware _ _ _ _ _ _ _ _ _ fun x n u => by simp [doneSess])

theorem execConfigWrite_adopting (sid ctr : Nat) (record : List Word) (tag : List Byte) (s : State) :
    Adopting s (execConfigWrite sid ctr record tag s) := by
  unfold execConfigWrite
  exact runOn_keeping (State.sessCmd_firmware _ _ _ _ _ _ _ _ _ fun x n u => by simp [doneSess])

theorem execAfterglowClear_adopting (sid ctr : Nat) (tag : List Byte) (s : State) :
    Adopting s (execAfterglowClear sid ctr tag s) := by
  unfold execAfterglowClear
  exact runOn_keeping (State.sessCmd_firmware _ _ _ _ _ _ _ _ _ fun x n u => by simp [doneSess])

theorem execClose_adopting (sid ctr : Nat) (tag : List Byte) (s : State) :
    Adopting s (execClose sid ctr tag s) := by
  unfold execClose
  exact runOn_keeping (State.sessCmd_firmware _ _ _ _ _ _ _ _ _ fun x n u => by simp [doneSess])

theorem execQuoteDone_adopting (s : State) : Adopting s (execQuoteDone s) := by
  unfold execQuoteDone
  refine runOn_keeping ?_
  dsimp only
  split <;> simp

theorem execKeptRecordWrite_adopting (ok : Bool) (s : State) : Adopting s (execKeptRecordWrite ok s) := by
  unfold execKeptRecordWrite
  refine runOn_keeping ?_
  dsimp only
  repeat' split
  all_goals simp

theorem execCapture_adopting (s : State) : Adopting s (execCapture s) := by
  unfold execCapture
  refine runOn_keeping ?_
  dsimp only
  split <;> simp

theorem execClearEraseDone_adopting (s : State) : Adopting s (execClearEraseDone s) := by
  unfold execClearEraseDone
  refine runOn_keeping ?_
  dsimp only
  split
  · simp
  · split <;> simp

/-! ## Power-on -/

theorem State.slotOk_of_firmware {s t : State} (h : t.firmware = s.firmware) :
    t.slotOk t.mg.active = s.slotOk s.mg.active := by
  have hactive : t.mg.active = s.mg.active := congrArg Firmware.active h
  rw [State.slotOk_congr (congrArg Firmware.floor h) (congrArg Firmware.slotA h) (congrArg Firmware.slotB h), hactive]

/-- The slot that the ROM selects holds an accepted bundle. -/
theorem State.selectSlot_slotOk {s t : State} (h : s.selectSlot = some t) : t.slotOk t.mg.active = true := by
  simp only [State.selectSlot] at h
  split at h
  · cases h
    assumption
  · split at h
    · rename_i hok
      cases h
      rw [State.slotOk_of_firmware (State.agRecord_firmware ..), State.slotOk_of_firmware (State.raise_firmware ..)]
      exact hok
    · cases h

theorem State.selectSlot_adopts {s t : State} (h : s.selectSlot = some t) : s.firmware.Adopts t.firmware := by
  simp only [State.selectSlot] at h
  split at h
  · cases h
    exact .refl _
  · split at h
    · rename_i hok
      cases h
      rw [State.agRecord_firmware, State.raise_firmware, State.modMg_firmware]
      exact ⟨rfl, rfl, rfl, .inr (State.floor_le_of_slotOk hok)⟩
    · cases h

theorem State.powerOn_adopts (s : State) (e : BootEnv) : s.firmware.Adopts (s.powerOn e).firmware := by
  simp only [State.powerOn]
  split
  · exact .of_eq (by simp)
  · split
    · exact .of_eq (by simp)
    · split
      · rename_i h
        simpa using State.selectSlot_adopts h
      · exact .of_eq (by simp)

theorem finish_pow (s : State) {t : State} (h : (finish s t).pow.off = false) : (finish s t).pow = t.pow := by
  by_cases hs : t.Spared
  · exact (congrArg State.pow (finish_tail s hs).body :)
  · rw [finish_stops s hs] at h
    cases h

theorem State.agRecord_pow (s : State) (code : Nat) (p : List Nat) : (s.agRecord code p).pow = s.pow := rfl

theorem State.raise_pow (s : State) (page i : Nat) : (s.raise page i).pow = s.pow := rfl

theorem State.setFlag_pow (s : State) (page off i : Nat) (v : Bool) : (s.setFlag page off i v).pow = s.pow := rfl

theorem State.bootHalt_pow (s : State) (step : Nat) : (s.bootHalt step).pow = s.pow := by
  simp only [State.bootHalt, State.agRecord_pow, State.raise_pow, State.modMg_pow]

theorem State.enterRecovery_pow (s : State) : s.enterRecovery.pow = s.pow := by
  simp only [State.enterRecovery, State.setFlag_pow, State.modMg_pow]

/-- A module that the power-on sequence brings up runs a bundle that the ROM has accepted. -/
theorem State.powerOn_slotOk {s : State} {e : BootEnv} (hr : s.mg.restarted = false) (hoff : (s.powerOn e).pow.off = false) :
    (s.powerOn e).slotOk (s.powerOn e).mg.active = true := by
  have hpow : (s.cold.boot1.bootStep 0 1 10 0).1.pow.off = true := rfl
  simp only [State.powerOn, hr, Bool.false_eq_true, if_false] at hoff ⊢
  generalize s.cold.boot1.bootStep 0 1 10 0 = x at hpow hoff ⊢
  split at hoff
  · rw [State.bootHalt_pow, hpow] at hoff
    cases hoff
  · rename_i hslots
    rw [if_neg hslots]
    cases ht : x.1.selectSlot with
    | none =>
      simp only [ht, State.enterRecovery_pow, hpow, reduceCtorEq] at hoff
    | some t =>
      dsimp only
      rw [State.slotOk_of_firmware (t.bootRest_firmware ..)]
      exact State.selectSlot_slotOk ht

theorem execPowerOn_slotOk {e : BootEnv} {s t : State} (h : execPowerOn e s = .next t) (hoff : s.pow.off = true)
    (hon : t.pow.off = false) (hr : s.mg.restarted = false) : t.slotOk t.mg.active = true := by
  simp only [execPowerOn, hoff, if_true, Host.Outcome.next.injEq] at h
  subst h
  rw [finish_pow s hon] at hon
  rw [State.slotOk_of_firmware (finish_firmware ..)]
  exact State.powerOn_slotOk hr hon

theorem execPowerOn_adopting (e : BootEnv) (s : State) : Adopting s (execPowerOn e s) := by
  rintro t ⟨⟩
  split
  · rw [finish_firmware]
    exact s.powerOn_adopts e
  · exact .refl _

/-! ## Every command -/

theorem exec_adopting (c : Instr) (s : State) (hr : ∀ b, c ≠ .recoveryBundle b)
    (hw : ∀ sid ctr off data tag, c ≠ .fwWrite sid ctr off data tag)
    (hc : ∀ sid ctr tag, c ≠ .svnCommit sid ctr tag) :
    Adopting s (exec c s) := by
  cases c
  case powerOn => exact execPowerOn_adopting _ _
  case recoveryBundle => exact absurd rfl (hr _)
  case fwWrite => exact absurd rfl (hw _ _ _ _ _)
  case svnCommit => exact absurd rfl (hc _ _ _)
  case
    inboundWrite | inboundReduceAdd | holdover | ppsEdge | ppsMissing | setHi | decisionPoint | check | arm | withdraw |
        end_ | jobEnd | shadeRead | shadeReadDead | shadeWriteLine | shadeWritePart | shadeAdd | stackRead |
        stackWrite | stackPartialWrite | resCmd | modmapStage | modmapWithdraw | memRead | evtMsiHoldoff | evtForce |
        lowWordRead | sqDoorbell | cqDoorbell | ringEnable | ringDisable | cmdNop | fenceAll | residency | qpCreate |
        qpModify | qpDestroy | mrReg | mrDereg | intakeResume | intakeOff | commandComplete | hostLost | wdogKick |
        hostAttach | hostDetach | hostReset | jrnlData0Read | inputSample | brownOut | hsLimit | alertDark | duskExit |
        thermalSample | throttleStep | learnClear | demandSend | tokenReportSend | penumbraSample | holdReq |
        restoreReq | retireSite | retireRow | readmitSite | readmitRow | selfTest | withdrawStagedMap | hello |
        sessionIdleTimeout | fwVerify | fwActivate | fwDiscard | hostQuote | hostCert | hostMeasLog | keyWinCommit |
        closeAll | agDataRead | alertDarkNDeasserted | hartsReleased | fwVerifyDone =>
    rw [exec]
    exact runOn_adopting (by simp)
  case
    nop | frame | rpoint | waitc | illegalInstr | mma | mmaz | accout | accclr | vopFma | vopAdd | vopMul | vopMin |
        vopMax | vopCmplt | vopSel | expsplit | ldexp | rsum | rmax | cvtF8f | cvtF8b | cvtF16w | cvtWiden | vld | vst |
        dmaCopy | dmaReduceAdd | prism | mirror | spec | specend | dbgHaltAction | mark | replayStart |
        readCacheInvalidate | rcFlush | pathMonitorMeasure | accRowLatch | gnomonWord | gnomonWordSend | compoundRead |
        compoundWrite | stepReport | drained | specFrameRelease | mergeOff | shadeRowSpare | laneCrc | laneSwap |
        dieCmd | progressTimeout | dieResetDone | arrayLost | arrayFillDone | patrolScrub | linkTrained | expanderLost |
        devEvent | linkEn | data | add | glint | giveFrame | bulk | frameFailedCrc | link | partnerBad | retrain |
        retrainReq | linkDown | sync | peerDead | portEn | rdmaWriteRequest | rdmaReadRequest | roceNak | cnp |
        rateIncrease | fePortEn | feLinkDown | demand | grant | tokenReport | penumbraReport | ready | stallClear |
        dbgAccSel | dbgHalt | dbgResume | checker | rawRead | rawWrite | pcsLock | feLinkUp | priorityFlowControl =>
    rw [exec]
    exact runPart_adopting (by simp)
  case giveTile => exact execGiveTile_adopting _ _ _
  case giveRemoteTile => exact execGiveRemoteTile_adopting _ _ _
  case giveCollective => exact execGiveCollective_adopting _ _ _
  case dma => exact execDma_adopting _ _ _
  case gsend => exact execGsend_adopting _ _ _
  case grecv => exact execGrecv_adopting _ _ _
  case ldc => exact execLdc_adopting _ _ _
  case mirrorTaskComplete => exact execMirrorTaskComplete_adopting _ _
  case rescaleDecision => exact execRescaleDecision_adopting _ _ _
  case rescaleRetry => exact execRescaleRetry_adopting _ _ _
  case transferLanded => exact execTransferLanded_adopting _ _
  case mailboxArrival => exact execMailboxArrival_adopting _ _
  case readCacheFill => exact execReadCacheFill_adopting _ _ _
  case prefetchCheck => exact execPrefetchCheck_adopting _ _ _
  case spectrumFlush => exact execSpectrumFlush_adopting _ _ _
  case doneStepWrite => exact execDoneStepWrite_adopting _
  case masterLost => exact execMasterLost_adopting _
  case frameBoundary => exact execFrameBoundary_adopting _
  case checkDone => exact execCheckDone_adopting _ _
  case imageActivation => exact execImageActivation_adopting _
  case mgmtReplyTimeout => exact execMgmtReplyTimeout_adopting _ _
  case stepClose => exact execStepClose_adopting _
  case commit => exact execCommit_adopting _ _
  case discard => exact execDiscard_adopting _ _
  case rollback => exact execRollback_adopting _ _
  case commitRepair => exact execCommitRepair_adopting _ _
  case undoDone => exact execUndoDone_adopting _
  case resume => exact execResume_adopting _ _
  case lineFill => exact execLineFill_adopting _ _
  case invalidationAck => exact execInvalidationAck_adopting _ _
  case mergeWriteback => exact execMergeWriteback_adopting _ _ _
  case recodeDone => exact execRecodeDone_adopting _ _
  case retryResend => exact execRetryResend_adopting _ _
  case rowSpared => exact execRowSpared_adopting _ _
  case slowTierRead => exact execSlowTierRead_adopting _ _ _
  case slowTierWrite => exact execSlowTierWrite_adopting _ _
  case moveDone => exact execMoveDone_adopting _ _
  case frameTransmit => exact execFrameTransmit_adopting _ _
  case idle => exact execIdle_adopting _ _ _
  case audit => exact execAudit_adopting _ _ _ _
  case collRecordStart => exact execCollRecordStart_adopting _ _
  case fpPiece => exact execFpPiece_adopting _ _
  case mgmtRegRead => exact execMgmtRegRead_adopting _ _
  case mgmtRegWrite => exact execMgmtRegWrite_adopting _ _
  case regReply => exact execRegReply_adopting _ _
  case memData => exact execMemData_adopting _ _
  case hostLoad => exact execHostLoad_adopting _ _ _ _
  case hostStore => exact execHostStore_adopting _ _ _ _
  case registerWrite => exact execRegisterWrite_adopting _ _ _ _
  case commandFetch => exact execCommandFetch_adopting _
  case cmdRegWrite => exact execCmdRegWrite_adopting _ _
  case cmdRegRead => exact execCmdRegRead_adopting _ _
  case writeInline => exact execWriteInline_adopting _ _
  case copy => exact execCopy_adopting _ _
  case flush => exact execFlush_adopting _ _
  case journalCopy => exact execJournalCopy_adopting _ _
  case rdmaPost => exact execRdmaPost_adopting _ _
  case intakeSet => exact execIntakeSet_adopting _ _
  case rdmaReadResponse => exact execRdmaReadResponse_adopting _ _
  case roceAck => exact execRoceAck_adopting _ _
  case retransmitTimeout => exact execRetransmitTimeout_adopting _ _
  case intakeStart => exact execIntakeStart_adopting _
  case intakeReadDone => exact execIntakeReadDone_adopting _ _ _
  case endpointDma => exact execEndpointDma_adopting _ _ _ _ _
  case domainFault => exact execDomainFault_adopting _ _
  case grantSend => exact execGrantSend_adopting _
  case spotlightAck => exact execSpotlightAck_adopting _ _ _
  case boundaryHoldOrder => exact execBoundaryHoldOrder_adopting _ _
  case holdBegin => exact execHoldBegin_adopting _ _
  case holdEnd => exact execHoldEnd_adopting _
  case snapDone => exact execSnapDone_adopting _
  case drainDone => exact execDrainDone_adopting _ _
  case park => exact execPark_adopting _
  case holdTimeout => exact execHoldTimeout_adopting _
  case restoreHold => exact execRestoreHold_adopting _ _
  case restoreDone => exact execRestoreDone_adopting _
  case selftestDone => exact execSelftestDone_adopting _ _
  case response => exact execResponse_adopting _ _ _ _
  case sessionRegRead => exact execSessionRegRead_adopting _ _ _ _ _ _
  case sessionRegWrite => exact execSessionRegWrite_adopting _ _ _ _ _ _ _
  case quote => exact execQuote_adopting _ _ _ _ _
  case certReadAndLogRead => exact execCertReadAndLogRead_adopting _ _ _ _
  case keyEnroll => exact execKeyEnroll_adopting _ _ _ _ _ _ _
  case keyRevoke => exact execKeyRevoke_adopting _ _ _ _ _
  case configWrite => exact execConfigWrite_adopting _ _ _ _ _
  case afterglowClear => exact execAfterglowClear_adopting _ _ _ _
  case close => exact execClose_adopting _ _ _ _
  case quoteDone => exact execQuoteDone_adopting _
  case keptRecordWrite => exact execKeptRecordWrite_adopting _ _
  case capture => exact execCapture_adopting _
  case clearEraseDone => exact execClearEraseDone_adopting _

end Sys2Proof.Machine
end

section
/-!
PROOF. The fused floor (R447): what FW_WRITE, a recovery bundle and SVN_COMMIT do to it, and every other command by adoption.
-/
namespace Sys2Proof.Machine

/-- The floor stays, and a bundle that comes into force is not below it. -/
structure Firmware.FloorKept (f g : Firmware) : Prop where
  floor : g.floor = f.floor
  active : g.active ≠ f.active → g.floor ≤ g.svn g.active

theorem Firmware.Adopts.floorKept {f g k : Firmware} (h : g.Adopts k) (hfloor : g.floor = f.floor)
    (hactive : g.active = f.active) : f.FloorKept k :=
  ⟨h.floor.trans hfloor, fun hne => h.floor_le_svn (hactive ▸ hne)⟩

theorem Firmware.FloorKept.of_eq {f g : Firmware} (h : g = f) : f.FloorKept g := (Firmware.Adopts.of_eq h).floorKept rfl rfl

theorem State.putSlot_floor (s : State) (slot off : Nat) (bs : List Byte) :
    (s.putSlot slot off bs).mg.floor = s.mg.floor := by
  simp only [State.putSlot, State.modMg]
  split <;> rfl

theorem State.putSlot_active (s : State) (slot off : Nat) (bs : List Byte) :
    (s.putSlot slot off bs).mg.active = s.mg.active := by
  simp only [State.putSlot, State.modMg]
  split <;> rfl

theorem State.putSlot_floorKept {s u : State} (h : u.firmware = s.firmware) (slot off : Nat) (bs : List Byte) :
    s.firmware.FloorKept (u.putSlot slot off bs).firmware := by
  refine (Firmware.Adopts.refl _).floorKept ?_ ?_
  · exact (u.putSlot_floor slot off bs).trans (congrArg Firmware.floor h)
  · exact (u.putSlot_active slot off bs).trans (congrArg Firmware.active h)

/-- A command on a module in service leaves the firmware of its effect. -/
theorem runOn_firmware {s t : State} {g : State → State} (h : runOn s g = .next t) :
    t.firmware = s.firmware ∨ s.pow.off = false ∧ t.firmware = (g s).firmware := by
  cases h
  split
  · exact .inl rfl
  · rename_i hoff
    exact .inr ⟨by simpa using hoff, finish_firmware ..⟩

theorem execFwWrite_floorKept {sid ctr off : Nat} {data tag : List Byte} {s t : State}
    (h : execFwWrite sid ctr off data tag s = .next t) : s.firmware.FloorKept t.firmware := by
  unfold execFwWrite at h
  obtain ht | ⟨-, ht⟩ := runOn_firmware h
  · exact .of_eq ht
  · rw [ht]
    obtain hs | ⟨x, n, u, -, -, -, -, hu, hs⟩ := s.sessCmd_cases sid ctr 3 [natLe 4 off, data] tag none operatorOnly _
    · exact .of_eq hs
    · rw [hs]
      split
      · exact State.putSlot_floorKept (u.unstageFw_firmware.trans hu) ..
      · exact .of_eq hu

theorem State.selectSlot_getD_adopts (s : State) : s.firmware.Adopts (s.selectSlot.getD s).firmware := by
  cases h : s.selectSlot with
  | none => exact .refl _
  | some t => exact State.selectSlot_adopts h

theorem execRecoveryBundle_floorKept {b : List Byte} {s t : State} (h : execRecoveryBundle b s = .next t) :
    s.firmware.FloorKept t.firmware := by
  cases h
  split
  · exact .of_eq rfl
  · dsimp only
    split
    · exact State.putSlot_floorKept rfl ..
    · rw [finish_firmware]
      refine (State.selectSlot_getD_adopts _).floorKept ?_ ?_
      · rw [State.setFlag_firmware]
        exact s.putSlot_floor 0 0 b
      · rw [State.setFlag_firmware]
        exact s.putSlot_active 0 0 b

theorem role_of_custodianOnly {x : Sess} (h : custodianOnly (roleOf x.origin) = true) : x.role = 1 := by
  by_contra h1
  simp only [Sess.origin, beq_eq_false_iff_ne.2 h1] at h
  split at h <;> cases h

/-- SVN_COMMIT raises the floor of an authentic custodian session's module to the SVN of the running bundle (R447). -/
theorem execSvnCommit_floor {sid ctr : Nat} {tag : List Byte} {s t : State} (hs : s.settled)
    (h : execSvnCommit sid ctr tag s = .next t) :
    t.firmware = s.firmware ∨ ∃ x, s.Authentic sid ctr 9 [] tag x ∧ x.role = 1 ∧
      t.firmware = { s.firmware with floor := max s.mg.floor (min 64 (s.fwSvn s.mg.active)) } := by
  unfold execSvnCommit at h
  obtain ht | ⟨hon, ht⟩ := runOn_firmware h
  · exact .inl ht
  · rw [ht]
    obtain hk | ⟨x, n, u, hx, htag, hctr, hrole, hu, hk⟩ := s.sessCmd_cases sid ctr 9 [] tag none custodianOnly _
    · exact .inl hk
    · refine .inr ⟨x, ⟨⟨hon, hs⟩, hx, htag, hctr⟩, role_of_custodianOnly hrole, ?_⟩
      rw [hk]
      change { u.firmware with floor := max u.firmware.floor (min 64 (u.firmware.svn u.firmware.active)) } = _
      rw [hu]
      rfl

/-- Every command but SVN_COMMIT keeps the floor. -/
theorem exec_floorKept {c : Instr} {s t : State} (hc : ∀ sid ctr tag, c ≠ .svnCommit sid ctr tag)
    (h : exec c s = .next t) : s.firmware.FloorKept t.firmware := by
  by_cases hw : ∃ sid ctr off data tag, c = .fwWrite sid ctr off data tag
  · obtain ⟨sid, ctr, off, data, tag, rfl⟩ := hw
    exact execFwWrite_floorKept h
  · by_cases hr : ∃ b, c = .recoveryBundle b
    · obtain ⟨b, rfl⟩ := hr
      exact execRecoveryBundle_floorKept h
    · have ha : s.firmware.Adopts t.firmware :=
        exec_adopting c s (by simpa using hr) (by simpa using hw) hc t h
      exact ha.floorKept rfl rfl

/-- Settles O60: every command but SVN_COMMIT keeps the floor, and puts in force only what `Firmware.Adopts` allows. -/
theorem fusedFloorRisesOnlyByCommit : Obligations.FusedFloorRisesOnlyByCommit := by
  unfold Obligations.FusedFloorRisesOnlyByCommit
  intro s t c hs h
  have hbelow : ∀ slot, s.fwSvn slot < s.mg.floor → s.slotOk slot = false := fun _ => State.slotOk_of_svn_lt_floor
  have hpower : ∀ e, c = .powerOn e → s.pow.off = true → t.pow.off = false → s.mg.restarted = false →
      t.slotOk t.mg.active = true := by
    rintro e rfl hoff hon hr
    exact execPowerOn_slotOk h hoff hon hr
  by_cases hc : ∃ sid ctr tag, c = .svnCommit sid ctr tag
  · obtain ⟨sid, ctr, tag, rfl⟩ := hc
    obtain ht | ⟨x, hx, hrole, ht⟩ := execSvnCommit_floor hs h
    · have hk := Firmware.FloorKept.of_eq ht
      exact ⟨.inl hk.floor, hbelow, hk.active, hpower⟩
    · refine ⟨.inr ⟨sid, ctr, tag, x, rfl, hx, hrole, ?_⟩, hbelow, fun hne => absurd ?_ hne, hpower⟩
      · exact congrArg Firmware.floor ht
      · exact congrArg Firmware.active ht
  · have hk := exec_floorKept (by simpa using hc) h
    exact ⟨.inl hk.floor, hbelow, hk.active, hpower⟩

end Sys2Proof.Machine
end

section
/-!
PROOF. Steps: what a step runs, what an idle step changes, what every step leaves settled, and what a module that is off does.
-/
namespace Sys2Proof.Machine

theorem step_cons {s : State} {c : Instr} {rest : List Instr} (h : s.pending = c :: rest) :
    step s = exec c { s with pending := rest } := by
  simp only [step, h]

theorem step_nil {s : State} (h : s.pending = []) : step s = .next s.tick := by
  simp only [step, h]

/-- Settles O1: `step` by its definition on a queue with a front. -/
theorem stepRunsFrontCommand : Obligations.StepRunsFrontCommand := by
  unfold Obligations.StepRunsFrontCommand
  intro s c rest h
  exact step_cons h

theorem tick_off {s : State} (h : s.pow.off = true) : s.tick = s := by
  simp only [State.tick, h, if_true]

/-- Settles O2: a tick changes time and registers alone (`tick_regsOnly`). -/
theorem idleStepTicks : Obligations.IdleStepTicks := by
  unfold Obligations.IdleStepTicks
  intro s hp
  refine ⟨fun hoff => ?_, fun hon => ⟨s.tick, step_nil hp, ?_⟩⟩
  · rw [step_nil hp, tick_off hoff]
  · exact tick_regsOnly s hon

/-! ## Settled steps -/

theorem putSlot_settled {s : State} (h : s.settled) (slot off : Nat) (b : List Byte) : (s.putSlot slot off b).settled := by
  simp only [State.putSlot]
  split <;> exact h

theorem tick_settled {s : State} (h : s.settled) : s.tick.settled := by
  cases hoff : s.pow.off with
  | true => rwa [tick_off hoff]
  | false =>
    have ht := tick_regsOnly s hoff
    rw [RegsOnly] at ht
    rw [ht]
    exact h

/-- A command that answers leaves the state settled: its end settles it, or it changes no event, failing site or spare. -/
theorem exec_settled {c : Instr} {s t : State} (hs : s.settled) (h : exec c s = .next t) : t.settled := by
  obtain rfl | ⟨x, rfl⟩ | ⟨b, rfl⟩ := exec_next h
  · exact hs
  · exact finish_settled s x
  · exact putSlot_settled hs 0 0 b

/-- Settles O3: a step is a tick or a command, and each leaves the state settled. -/
theorem stepsStaySettled : Obligations.StepsStaySettled := by
  unfold Obligations.StepsStaySettled
  intro s t hs h
  cases hp : s.pending with
  | nil =>
    rw [step_nil hp] at h
    cases h
    exact tick_settled hs
  | cons c rest =>
    rw [step_cons hp] at h
    have hrest : ({ s with pending := rest } : State).settled := hs
    exact exec_settled hrest h

/-- Settles O4: at reset the lists are empty, and memory lists no byte. -/
theorem resetHolds : Obligations.ResetHolds := by
  unfold Obligations.ResetHolds
  exact ⟨⟨rfl, rfl, rfl⟩, rfl, rfl⟩

/-! ## A module that is off -/

theorem runPart_off {s t : State} {ok : Bool} {f : State → State} (hoff : s.pow.off = true)
    (h : runPart ok s f = .next t) : t = s := by
  cases ok with
  | false => cases h
  | true =>
    rw [runPart, if_pos rfl, runOn_off hoff] at h
    exact (Host.Outcome.next.inj h).symm

/-- Settles O6: every other command has the form `runPart`, which does nothing on a module that is off. -/
theorem onlyPowerOnLeavesOff : Obligations.OnlyPowerOnLeavesOff := by
  unfold Obligations.OnlyPowerOnLeavesOff
  intro s t c hoff hpower hbundle h
  obtain ⟨ok, f, hf⟩ := exec_form c s hpower hbundle
  rw [hf] at h
  exact runPart_off hoff h

/-! ## Progress of a stream -/

/-- Settles O13, by `advance_stream`. -/
theorem streamProgressKeeps : Obligations.StreamProgressKeeps := by
  unfold Obligations.StreamProgressKeeps
  exact advance_stream

end Sys2Proof.Machine
end

section
/-!
PROOF. Placement of stack memory (R270): the stack and pseudo-channel of a granule are its low bits under two masks that
depend on the local index alone.
-/
namespace Sys2Proof.Machine

/-- The masks that R270 puts on the stack and the pseudo-channel of local index `l`. -/
def stackMask (l : Nat) : Nat := l / 4 % 8 ^^^ l / 2 ^ 13 % 8

def pcMask (l : Nat) : Nat := l / 2 ^ 6 % 64

theorem stackMask_lt (l : Nat) : stackMask l < 2 ^ 3 :=
  Nat.xor_lt_two_pow (Nat.mod_lt _ (by decide)) (Nat.mod_lt _ (by decide))

theorem pcMask_lt (l : Nat) : pcMask l < 2 ^ 6 := Nat.mod_lt _ (by decide)

/-- Number `k` of the eight granules in group `p` of the 64 groups with local index `l`. -/
def granAt (l p k : Nat) : Nat := 512 * l + 8 * p + k

theorem eq_granAt (g : Nat) : g = granAt (g / 512) (g / 8 % 64) (g % 8) := by
  simp only [granAt]; omega

theorem granPlace_granAt (l : Nat) {p k : Nat} (hp : p < 64) (hk : k < 8) :
    granPlace (granAt l p k) = { stack := k ^^^ stackMask l, pc := p ^^^ pcMask l, loc := l % 2 ^ 25 } := by
  have hstack : granAt l p k % 8 = k := by simp only [granAt]; omega
  have hpc : granAt l p k / 2 ^ 3 % 64 = p := by simp only [granAt]; omega
  have hl : granAt l p k / 2 ^ 9 = l := by simp only [granAt]; omega
  have h11 : granAt l p k / 2 ^ 11 % 8 = l / 4 % 8 := by simp only [granAt]; omega
  have h15 : granAt l p k / 2 ^ 15 % 64 = l / 2 ^ 6 % 64 := by simp only [granAt]; omega
  have h22 : granAt l p k / 2 ^ 22 % 8 = l / 2 ^ 13 % 8 := by simp only [granAt]; omega
  simp only [granPlace, bits, Nat.reduceAdd, Nat.reduceSub, Nat.reducePow, Nat.div_one] at *
  rw [hstack, hpc, hl, h11, h15, h22]
  simp only [stackMask, pcMask, Nat.reducePow, Nat.xor_assoc]

theorem granPlace_formula (g : Nat) :
    (granPlace g).stack = (g % 8 ^^^ g / 2 ^ 11 % 8 ^^^ g / 2 ^ 22 % 8) ∧
      (granPlace g).pc = (g / 2 ^ 3 % 64 ^^^ g / 2 ^ 15 % 64) ∧ (granPlace g).loc = g / 2 ^ 9 % 2 ^ 25 := by
  simp [granPlace, bits]

/-- Two granules of the 1 TiB in one place are one granule: its local index fixes the masks, which cancel. -/
theorem granPlace_inj {g h : Nat} (hg : g < 2 ^ 34) (hh : h < 2 ^ 34) (e : granPlace g = granPlace h) : g = h := by
  rw [eq_granAt g, eq_granAt h] at e ⊢
  rw [granPlace_granAt _ (Nat.mod_lt _ (by decide)) (Nat.mod_lt _ (by decide)),
    granPlace_granAt _ (Nat.mod_lt _ (by decide)) (Nat.mod_lt _ (by decide)), Place3D.mk.injEq] at e
  obtain ⟨hstack, hpc, hloc⟩ := e
  have hl : g / 512 = h / 512 := by omega
  rw [hl] at hstack hpc ⊢
  rw [Nat.xor_left_injective hstack, Nat.xor_left_injective hpc]

/-- Every place has a granule: the low bits are the stack and the pseudo-channel under the masks again. -/
theorem exists_granPlace {k p l : Nat} (hk : k < 8) (hp : p < 64) (hl : l < 2 ^ 25) :
    ∃ g, g < 2 ^ 34 ∧ granPlace g = { stack := k, pc := p, loc := l } := by
  have hk' : k ^^^ stackMask l < 2 ^ 3 := Nat.xor_lt_two_pow hk (stackMask_lt l)
  have hp' : p ^^^ pcMask l < 2 ^ 6 := Nat.xor_lt_two_pow hp (pcMask_lt l)
  refine ⟨granAt l (p ^^^ pcMask l) (k ^^^ stackMask l), ?_, ?_⟩
  · simp only [granAt]; omega
  · rw [granPlace_granAt l hp' hk', Nat.xor_xor_cancel_right, Nat.xor_xor_cancel_right, Nat.mod_eq_of_lt hl]

/-- A granule of an aligned 4 KiB: number `i` of the 64 of block `n`. -/
theorem page_granule (n i : Nat) : 64 * n + i = granAt (n / 8) (8 * (n % 8) + i / 8) (i % 8) := by
  simp only [granAt]; omega

theorem granPlace_page (n i : Nat) (hi : i < 64) : granPlace (64 * n + i) =
    { stack := i % 8 ^^^ stackMask (n / 8), pc := (8 * (n % 8) + i / 8) ^^^ pcMask (n / 8), loc := n / 8 % 2 ^ 25 } := by
  rw [page_granule n i, granPlace_granAt _ (by omega) (by omega)]

theorem page_covers_stacks (n : Nat) {k : Nat} (hk : k < 8) : ∃ i, i < 64 ∧ (granPlace (64 * n + i)).stack = k := by
  have h : k ^^^ stackMask (n / 8) < 8 := Nat.xor_lt_two_pow (n := 3) hk (stackMask_lt _)
  refine ⟨k ^^^ stackMask (n / 8), by omega, ?_⟩
  rw [granPlace_page n _ (by omega), Nat.mod_eq_of_lt h]
  exact Nat.xor_xor_cancel_right _ _

theorem page_places_differ (n : Nat) {i j : Nat} (hi : i < 64) (hj : j < 64)
    (hstack : (granPlace (64 * n + i)).stack = (granPlace (64 * n + j)).stack)
    (hpc : (granPlace (64 * n + i)).pc = (granPlace (64 * n + j)).pc) : i = j := by
  rw [granPlace_page n i hi, granPlace_page n j hj] at hstack hpc
  have h1 := Nat.xor_left_injective hstack
  have h2 := Nat.xor_left_injective hpc
  omega

/-- Settles O57: a place fixes the local index, which fixes the masks. -/
theorem stackPlacementIsABijection : Obligations.StackPlacementIsABijection := by
  unfold Obligations.StackPlacementIsABijection
  refine ⟨granPlace_formula, fun k p l hk hp hl => ?_, fun n _ => ⟨fun k hk => page_covers_stacks n hk, ?_⟩⟩
  · obtain ⟨g, hg, he⟩ := exists_granPlace hk hp hl
    exact ⟨g, hg, he, fun h hh e => granPlace_inj hh hg e⟩
  · exact fun i j hi hj => page_places_differ n hi hj

/-- Refutes O58: granules 0x1FFF and 0x2000 both lie in stack 4, for the carry flips bits [13:11] as it flips bits [2:0]. -/
theorem not_consecutiveGranulesLieInDifferentStacks : ¬ Obligations.ConsecutiveGranulesLieInDifferentStacks := by
  unfold Obligations.ConsecutiveGranulesLieInDifferentStacks
  intro h
  exact h 0x1FFF (by decide) (by decide)

end Sys2Proof.Machine
end

section
/-!
PROOF. Loss scaling (R204).
-/
namespace Sys2Proof.Machine

theorem scaleAfter_discard {cause : Nat} (h : (bit cause cNonfinite || bit cause cOverflow) = true) (growth : Nat)
    (lo hi ls : Int) (run : Nat) :
    scaleAfter growth lo hi 3 cause ls run = if ls > lo then (ls - 1, 0, false) else (ls, 0, true) := by
  simp [scaleAfter, h]

theorem scaleAfter_commit {verdict : Nat} (h : verdict = 1 ∨ verdict = 2) (growth : Nat) (lo hi : Int) (cause : Nat)
    (ls : Int) (run : Nat) : scaleAfter growth lo hi verdict cause ls run =
      if run + 1 = growth then (if ls < hi then ls + 1 else ls, 0, false) else (ls, run + 1, false) := by
  rcases h with rfl | rfl <;> simp [scaleAfter]

/-- A scale in its range stays there. -/
theorem scaleAfter_range (growth verdict cause run : Nat) {lo hi ls : Int} (hlo : lo ≤ ls) (hhi : ls ≤ hi) :
    lo ≤ (scaleAfter growth lo hi verdict cause ls run).1 ∧ (scaleAfter growth lo hi verdict cause ls run).1 ≤ hi := by
  unfold scaleAfter
  split_ifs <;> dsimp only <;> omega

/-- Settles O26: one equation of `scaleAfter` for each kind of verdict. -/
theorem lossScaleStaysInRange : Obligations.LossScaleStaysInRange := by
  unfold Obligations.LossScaleStaysInRange
  intro growth verdict cause run lo hi ls hlo hhi
  obtain ⟨hmin, hmax⟩ := scaleAfter_range growth verdict cause run hlo hhi
  refine ⟨hmin, hmax, ?_, fun hv hrun => ?_, fun hv hrun => ?_, ?_⟩
  · rintro rfl hc
    rw [scaleAfter_discard hc]
    by_cases h : ls > lo
    · rw [if_pos h]; refine ⟨?_, fun _ => ⟨rfl, rfl⟩, fun _ => ?_⟩ <;> dsimp only <;> omega
    · rw [if_neg h]; refine ⟨?_, fun _ => ?_, fun _ => ⟨rfl, rfl⟩⟩ <;> dsimp only <;> omega
  · rw [scaleAfter_commit hv, if_pos hrun]
    refine ⟨?_, rfl⟩
    dsimp only
    split_ifs <;> omega
  · rw [scaleAfter_commit hv, if_neg hrun]
    exact ⟨rfl, rfl⟩
  · rintro rfl
    exact ⟨rfl, rfl⟩

end Sys2Proof.Machine
end

section
/-!
PROOF. What every operation does to memory: it leaves it (`…_mem`), or keeps its canonical form (`…_memOk`).
-/
namespace Sys2Proof.Machine
theorem memOk_ite {c : Prop} [Decidable c] {s t : State} (hs : c → memWf s.mem) (ht : ¬c → memWf t.mem) :
    memWf (if c then s else t).mem := by
  split
  · exact hs ‹_›
  · exact ht ‹_›

theorem mem_of_eq {s t : State} (h : t.mem = s.mem) : t.mem = s.mem := h

@[simp] theorem mem_ite (c : Prop) [Decidable c] (s t : State) :
    (if c then s else t).mem = if c then s.mem else t.mem := apply_ite _ _ _ _

@[simp] theorem memWf_ite (c : Prop) [Decidable c] (m n : List Host.Cell) :
    memWf (if c then m else n) = if c then memWf m else memWf n := apply_ite _ _ _ _

@[simp] theorem foldl_mem {α : Type} (f : State → α → State) (hf : ∀ s x, (f s x).mem = s.mem)
    (l : List α) (s : State) : (l.foldl f s).mem = s.mem := foldl_keeps _ f hf l s

@[simp] theorem foldl_snd_mem {α β : Type} (f : β × State → α → β × State)
    (hf : ∀ s x, (f s x).2.mem = s.2.mem) (l : List α) (s : β × State) :
    (l.foldl f s).2.mem = s.2.mem := foldl_keeps (·.2.mem) f hf l s

@[simp] theorem foldl_fst_mem {α β : Type} (f : State × β → α → State × β)
    (hf : ∀ s x, (f s x).1.mem = s.1.mem) (l : List α) (s : State × β) :
    (l.foldl f s).1.mem = s.1.mem := foldl_keeps (·.1.mem) f hf l s

@[simp] theorem foldl_snd_snd_mem {α β γ : Type} (f : β × γ × State → α → β × γ × State)
    (hf : ∀ s x, (f s x).2.2.mem = s.2.2.mem) (l : List α) (s : β × γ × State) :
    (l.foldl f s).2.2.mem = s.2.2.mem := foldl_keeps (·.2.2.mem) f hf l s

theorem foldl_invariant {σ α : Type} (P : σ → Prop) (f : σ → α → σ) (hf : ∀ s x, P s → P (f s x)) (l : List α) {s : σ}
    (h : P s) : P (l.foldl f s) := by
  induction l generalizing s with
  | nil => exact h
  | cons x l ih => exact ih (hf s x h)

@[simp] theorem foldl_memOk {α : Type} (f : State → α → State) (hf : ∀ s x, memWf s.mem → memWf (f s x).mem)
    (l : List α) (s : State) (h : memWf s.mem) : memWf (l.foldl f s).mem :=
  foldl_invariant (memWf ·.mem = true) f hf l h

@[simp] theorem foldl_snd_memOk {α β : Type} (f : β × State → α → β × State)
    (hf : ∀ s x, memWf s.2.mem → memWf (f s x).2.mem) (l : List α) (s : β × State) (h : memWf s.2.mem) :
    memWf (l.foldl f s).2.mem := foldl_invariant (memWf ·.2.mem = true) f hf l h

@[simp] theorem foldl_fst_memOk {α β : Type} (f : State × β → α → State × β)
    (hf : ∀ s x, memWf s.1.mem → memWf (f s x).1.mem) (l : List α) (s : State × β) (h : memWf s.1.mem) :
    memWf (l.foldl f s).1.mem := foldl_invariant (memWf ·.1.mem = true) f hf l h

@[simp] theorem foldl_snd_snd_memOk {α β γ : Type} (f : β × γ × State → α → β × γ × State)
    (hf : ∀ s x, memWf s.2.2.mem → memWf (f s x).2.2.mem) (l : List α) (s : β × γ × State) (h : memWf s.2.2.mem) :
    memWf (l.foldl f s).2.2.mem := foldl_invariant (memWf ·.2.2.mem = true) f hf l h

@[simp] theorem State.wrN_mem (s : State) (page off v : Nat) : (s.wrN page off v).mem = s.mem := mem_of_eq rfl

@[simp] theorem State.setField_mem (s : State) (page off hi lo v : Nat) :
    (s.setField page off hi lo v).mem = s.mem := mem_of_eq rfl

@[simp] theorem State.setFlag_mem (s : State) (page off i : Nat) (b : Bool) :
    (s.setFlag page off i b).mem = s.mem := mem_of_eq rfl

@[simp] theorem State.wr64_mem (s : State) (page off v : Nat) : (s.wr64 page off v).mem = s.mem := mem_of_eq rfl

@[simp] theorem State.free_mem (s : State) : s.free.2.mem = s.mem := mem_of_eq rfl

@[simp] theorem State.bump_mem (s : State) (page off n : Nat) :
    (s.bump page off n).mem = s.mem := by simp [State.bump]

@[simp] theorem State.bumpSat_mem (s : State) (page off n : Nat) : (s.bumpSat page off n).mem = s.mem := mem_of_eq rfl

@[simp] theorem State.bump64_mem (s : State) (page off n : Nat) : (s.bump64 page off n).mem = s.mem := mem_of_eq rfl

@[simp] theorem State.raise_mem (s : State) (page i : Nat) : (s.raise page i).mem = s.mem := mem_of_eq rfl

@[simp] theorem State.raiseIf_mem (s : State) (b : Bool) (page i : Nat) :
    (s.raiseIf b page i).mem = s.mem := by simp [State.raiseIf]

@[simp] theorem State.logAddr_mem (s : State) (page addr : Nat) : (s.logAddr page addr).mem = s.mem := mem_of_eq rfl

@[simp] theorem State.logErr_mem (s : State) (page addr : Nat) : (s.logErr page addr).mem = s.mem := mem_of_eq rfl

@[simp] theorem State.modTile_mem (s : State) (t : Nat) (f : Tile → Tile) :
    (s.modTile t f).mem = s.mem := mem_of_eq rfl

@[simp] theorem State.modSlice_mem (s : State) (k : Nat) (f : Slice → Slice) :
    (s.modSlice k f).mem = s.mem := mem_of_eq rfl

@[simp] theorem State.failSite_mem (s : State) (site : Nat) : (s.failSite site).mem = s.mem := mem_of_eq rfl

@[simp] theorem State.forSites_mem (s : State) (f : State → Nat → State) (hf : ∀ u t, (f u t).mem = u.mem) :
    (s.forSites f).mem = s.mem := by simp [State.forSites, hf]

@[simp] theorem State.forSites_memOk (s : State) (f : State → Nat → State) (h : memWf s.mem)
    (hf : ∀ u t, memWf u.mem → memWf (f u t).mem) : memWf (s.forSites f).mem := foldl_memOk f hf _ s h

@[simp] theorem State.fresh_mem (s : State) : s.fresh.2.mem = s.mem := mem_of_eq rfl

@[simp] theorem State.setPg_mem (s : State) (d : Nat) (v : Bool) : (s.setPg d v).mem = s.mem := by simp [State.setPg]

@[simp] theorem State.cause_mem (s : State) (tag i : Nat) : (s.cause tag i).mem = s.mem := by simp [State.cause]

@[simp] theorem State.addCC_mem (s : State) (site c n tag : Nat) : (s.addCC site c n tag).mem = s.mem := mem_of_eq rfl

@[simp] theorem State.addKC_mem (s : State) (site c n tag : Nat) : (s.addKC site c n tag).mem = s.mem := mem_of_eq rfl

@[simp] theorem State.stall_mem (s : State) (t eng c : Nat) : (s.stall t eng c).mem = s.mem := by simp [State.stall]

@[simp] theorem State.addrFault_mem (s : State) (a : Agent) (addr : Nat) : (s.addrFault a addr).mem = s.mem := by
  simp only [State.addrFault]
  split <;> simp

@[simp] theorem State.cold_memOk (s : State) (h : memWf s.mem) : memWf s.cold.mem := by
  have hf : memWf (s.mem.filter fun c => slowBase ≤ c.1) := by
    rw [memWf, swf_iff] at h ⊢
    obtain ⟨hr, hd⟩ := h
    exact ⟨hr.sublist List.filter_sublist, fun e he => hd e (List.mem_of_mem_filter he)⟩
  exact hf

@[simp] theorem State.stop_memOk (s : State) (h : memWf s.mem) : memWf s.stop.mem := s.cold_memOk h

@[simp] theorem State.spend_mem (s : State) : s.spend.mem = s.mem := mem_of_eq rfl

@[simp] theorem State.penCount_mem (s : State) (i n : Nat) : (s.penCount i n).mem = s.mem := mem_of_eq rfl

@[simp] theorem State.holdRequest_mem (s : State) (cause : Nat) : (s.holdRequest cause).mem = s.mem := mem_of_eq rfl

@[simp] theorem State.setByte_memOk (s : State) (a : Nat) (b : Byte) (h : memWf s.mem) :
    memWf (s.setByte a b).mem := (setByte_memOnly ..).memOk h

@[simp] theorem State.setBytes_memOk (s : State) (x1 : Nat) (x2 : List Byte) (h : memWf s.mem) :
    memWf (s.setBytes x1 x2).mem := (setBytes_memOnly ..).memOk h

@[simp] theorem State.putGranule_memOk (s : State) (g : Nat) (d : List Byte) (h : memWf s.mem) :
    memWf (s.putGranule g d).mem := (putGranule_memOnly ..).memOk h

@[simp] theorem State.putPoison_memOk (s : State) (g : Nat) (h : memWf s.mem) :
    memWf (s.putPoison g).mem := (putPoison_memOnly ..).memOk h

@[simp] theorem State.askRow_mem (s : State) (k row : Nat) : (s.askRow k row).mem = s.mem := by simp [State.askRow]

@[simp] theorem State.stackCe_mem (s : State) (g : Nat) : (s.stackCe g).mem = s.mem := by simp [State.stackCe]

@[simp] theorem State.stackUe_mem (s : State) (g : Nat) : (s.stackUe g).mem = s.mem := by simp [State.stackUe]

@[simp] theorem State.decodeGranule_mem (s : State) (g : Nat) : (s.decodeGranule g).2.2.mem = s.mem := by
  simp only [State.decodeGranule]
  split <;> simp

@[simp] theorem State.readGranule_mem (s : State) (g : Nat) (a : Agent) :
    (s.readGranule g a).2.mem = s.mem := by simp [State.readGranule]

@[simp] theorem State.writeGranule_memOk (s : State) (g o : Nat) (data : List PByte) (a : Agent) (h : memWf s.mem) :
    memWf (s.writeGranule g o data a).mem := (writeGranule_memOnly ..).memOk h

@[simp] theorem State.readStack_mem (s : State) (a n : Nat) (ag : Agent) :
    (s.readStack a n ag).2.mem = s.mem := by simp [State.readStack, forN]

@[simp] theorem State.writeStack_memOk (s : State) (a : Nat) (data : List PByte) (ag : Agent) (h : memWf s.mem) :
    memWf (s.writeStack a data ag).mem := (writeStack_memOnly ..).memOk h

@[simp] theorem State.replaceRow_memOk (s : State) (k row : Nat) (h : memWf s.mem) :
    memWf (s.replaceRow k row).mem := by
  simp only [State.replaceRow]
  split
  · simpa using h
  · simp only [State.raise_mem, State.wrN_mem, State.setStack_mem]
    refine foldl_memOk _ (fun u g hu => ?_) _ _ (by simpa using h)
    split
    · exact State.putGranule_memOk _ _ _ hu
    · exact State.putPoison_memOk _ _ hu
    · exact hu

@[simp] theorem State.scrubOne_memOk (s : State) (k : Nat) (h : memWf s.mem) : memWf (s.scrubOne k).mem := by
  simp only [State.scrubOne]
  repeat' split
  all_goals simp [h]

@[simp] theorem State.invalidateAt_mem (s : State) (line : Nat) (sites : List Nat) :
    (s.invalidateAt line sites).mem = s.mem := by simp [State.invalidateAt]

@[simp] theorem State.dropLine_mem (s : State) (line : Nat) : (s.dropLine line).mem = s.mem := by
  simp only [State.dropLine]
  split <;> simp

@[simp] theorem State.dirEnsure_mem (s : State) (line : Nat) : (s.dirEnsure line).2.mem = s.mem := by
  simp only [State.dirEnsure]
  split <;> simp

@[simp] theorem State.dirWrite_mem (s : State) (line : Nat) (own : Option Nat) :
    (s.dirWrite line own).mem = s.mem := by
  simp only [State.dirWrite]
  split <;> simp

@[simp] theorem State.dirClear_mem (s : State) (line : Nat) : (s.dirClear line).mem = s.mem := by
  simp only [State.dirClear]
  split <;> simp

@[simp] theorem State.askShadeRow_mem (s : State) (k row : Nat) :
    (s.askShadeRow k row).mem = s.mem := by simp [State.askShadeRow]

@[simp] theorem State.shadeCe_mem (s : State) (k : Nat) (l : Line) (w : Nat) :
    (s.shadeCe k l w).mem = s.mem := by simp [State.shadeCe]

@[simp] theorem State.shadeUe_mem (s : State) (k : Nat) (l : Line) (w ev : Nat) :
    (s.shadeUe k l w ev).mem = s.mem := by simp [State.shadeUe]

@[simp] theorem State.fillData_mem (s : State) (l : Line) (a : Agent) :
    (s.fillData l a).2.mem = s.mem := by simp [State.fillData, forN]

@[simp] theorem State.checkWord_mem (s : State) (k : Nat) (l : Line) (w : Nat) (a : Agent) :
    (s.checkWord k l w a).2.2.2.mem = s.mem := by
  simp only [State.checkWord]
  repeat' split
  all_goals simp

@[simp] theorem State.flushSegment_mem (s : State) (k seg : Nat) : (s.flushSegment k seg).mem = s.mem := mem_of_eq rfl

@[simp] theorem State.flushMerge_mem (s : State) (k line : Nat) : (s.flushMerge k line).mem = s.mem := by
  simp only [State.flushMerge]
  repeat' split
  all_goals simp

@[simp] theorem State.readWords_mem (s : State) (k : Nat) (l : Line) (w n : Nat) (a : Agent) :
    (s.readWords k l w n a).2.2.mem = s.mem := by simp [State.readWords, forN]

@[simp] theorem State.poisonLine_memOk (s : State) (line : Nat) (h : memWf s.mem) :
    memWf (s.poisonLine line).mem := (poisonLine_memOnly ..).memOk h

@[simp] theorem State.evictData_memOk (s : State) (k : Nat) (l : Line) (h : memWf s.mem) :
    memWf (s.evictData k l).mem := (evictData_memOnly ..).memOk h

@[simp] theorem State.evictLine_memOk (s : State) (k : Nat) (l : Line) (h : memWf s.mem) :
    memWf (s.evictLine k l).mem := (evictLine_memOnly ..).memOk h

@[simp] theorem State.countHit_mem (s : State) (k cls : Nat) (hit : Bool) (line : Nat) :
    (s.countHit k cls hit line).mem = s.mem := by simp [State.countHit]

@[simp] theorem State.lineRead_mem (s : State) (k : Nat) (l : Line) (off n : Nat) (a : Agent) :
    (s.lineRead k l off n a).2.2.mem = s.mem := by simp [State.lineRead, forN]

@[simp] theorem State.narrowWord_mem (s : State) (k : Nat) (l : Line) (w o : Nat) (data : List PByte) (a : Agent) :
    (s.narrowWord k l w o data a).2.mem = s.mem := by
  simp only [State.narrowWord, forN]
  repeat' split
  all_goals simp

@[simp] theorem State.entryWord_mem (s : State) (k line w : Nat) (d : List Byte) :
    (s.entryWord k line w d).mem = s.mem := mem_of_eq rfl

@[simp] theorem State.writeWord_mem (s : State) (k : Nat) (l : Line) (off : Nat) (data : List PByte) (a : Agent) (w : Nat) :
    (s.writeWord k l off data a w).2.mem = s.mem := by simp [State.writeWord]

@[simp] theorem State.lineWrite_mem (s : State) (k : Nat) (l : Line) (off : Nat) (data : List PByte) (a : Agent) :
    (s.lineWrite k l off data a).2.mem = s.mem := by simp [State.lineWrite]

@[simp] theorem State.lineAdd_mem (s : State) (k : Nat) (l : Line) (off : Nat) (vals : List Word) (a : Agent) :
    (s.lineAdd k l off vals a).2.2.2.mem = s.mem := by simp [State.lineAdd, forN]

@[simp] theorem State.headerAdd_mem (s : State) (step sats stray : Nat) :
    (s.headerAdd step sats stray).mem = s.mem := by simp [State.headerAdd]

@[simp] theorem State.beforeLine_mem (s : State) (k : Nat) (q : SReq) :
    (s.beforeLine k q).mem = s.mem := by simp [State.beforeLine]

@[simp] theorem State.onLine_memOk (s : State) (k : Nat) (q : SReq) (h : memWf s.mem) :
    memWf (s.onLine k q).2.mem := (onLine_memOnly ..).memOk h

@[simp] theorem State.markHost_mem (s : State) (line : Nat) :
    (s.markHost line).mem = s.mem := by simp [State.markHost]

@[simp] theorem State.fillLine_mem (s : State) (k line : Nat) : (s.fillLine k line).mem = s.mem := by
  unfold State.fillLine
  split
  · rfl
  next l _ =>
    split
    · exact State.setSlice_mem ..
    · refine (State.markHost_mem ..).trans ((State.setSlice_mem ..).trans ?_)
      exact State.fillData_mem ..

theorem State.allocate_memOk {s t : State} {k line : Nat} {st : LineState} (h : s.allocate k line st = some t)
    (hs : memWf s.mem) : memWf t.mem := (allocate_memOnly h).memOk hs

@[simp] theorem State.storeAround_memOk (s : State) (line addr : Nat) (d : List PByte) (ag : Agent) (h : memWf s.mem) :
    memWf (s.storeAround line addr d ag).mem := (storeAround_memOnly ..).memOk h

@[simp] theorem State.answer_mem (s : State) (q : SReq) (x : SAns) : (s.answer q x).mem = s.mem := mem_of_eq rfl

@[simp] theorem State.perform_memOk (s : State) (k : Nat) (q : SReq) (h : memWf s.mem) :
    memWf (s.perform k q).mem := (perform_memOnly ..).memOk h

@[simp] theorem State.retry_mem (s : State) (k : Nat) (q : SReq) : (s.retry k q).mem = s.mem := by simp [State.retry]

@[simp] theorem State.retryOpen_mem (s : State) (die : Nat) :
    (s.retryOpen die).mem = s.mem := by simp [State.retryOpen]

@[simp] theorem State.dieReset_mem (s : State) (die : Nat) : (s.dieReset die).mem = s.mem := by simp [State.dieReset]

@[simp] theorem State.beginRecode_mem (s : State) (k : Nat) (toParity : Bool) :
    (s.beginRecode k toParity).mem = s.mem := by simp [State.beginRecode]

@[simp] theorem State.mergeFault_mem (s : State) (k : Nat) :
    (s.mergeFault k).mem = s.mem := by simp [State.mergeFault]

@[simp] theorem State.arrive_mem (s : State) (k line : Nat) : (s.arrive k line).mem = s.mem := by simp [State.arrive]

@[simp] theorem State.defer_mem (s : State) (k : Nat) (q : SReq) : (s.defer k q).mem = s.mem := by simp [State.defer]

@[simp] theorem State.fillAnswer_memOk (s : State) (k line : Nat) (h : memWf s.mem) :
    memWf (s.fillAnswer k line).mem := (fillAnswer_memOnly ..).memOk h

@[simp] theorem State.slowRead_mem (s : State) (a n : Nat) :
    (s.slowRead a n).2.mem = s.mem := by simp [State.slowRead]

@[simp] theorem State.slowGran_memOk (s : State) (a : Nat) (d : List PByte) (h : memWf s.mem) :
    memWf (s.slowGran a d).mem := (slowGran_memOnly ..).memOk h

@[simp] theorem State.slowWrite_memOk (s : State) (a : Nat) (d : List PByte) (h : memWf s.mem) :
    memWf (s.slowWrite a d).mem := (slowWrite_memOnly ..).memOk h

@[simp] theorem State.readLine1_memOk (s : State) (q : ShadeReq) (dead : Bool) (h : memWf s.mem) :
    memWf (s.readLine1 q dead).2.mem := (readLine1_memOnly ..).memOk h

@[simp] theorem State.devRead_memOk (s : State) (a n cls : Nat) (ag : Agent) (dead stamp : Bool) (h : memWf s.mem) :
    memWf (s.devRead a n cls ag dead stamp).2.2.mem := (devRead_memOnly ..).memOk h

@[simp] theorem State.writeLine1_memOk (s : State) (addr : Nat) (d : List PByte) (cls : Nat) (ag : Agent) (h : memWf s.mem) :
    memWf (s.writeLine1 addr d cls ag).mem := (writeLine1_memOnly ..).memOk h

@[simp] theorem State.devWrite_memOk (s : State) (a : Nat) (d : List PByte) (cls : Nat) (ag : Agent) (h : memWf s.mem) :
    memWf (s.devWrite a d cls ag).mem := (devWrite_memOnly ..).memOk h

@[simp] theorem State.devAdd_memOk (s : State) (a : Nat) (vals : List Word) (cls step : Nat) (ag : Agent) (h : memWf s.mem) :
    memWf (s.devAdd a vals cls step ag).2.mem := (devAdd_memOnly ..).memOk h

@[simp] theorem State.hdrFlush_memOk (s : State) (h : memWf s.mem) :
    memWf s.hdrFlush.mem := (hdrFlush_memOnly ..).memOk h

theorem State.specFlush_memOk {s t : State} {step : Nat} {e : SpecEntry} {ag : Agent} (h : s.specFlush step e ag = some t)
    (hs : memWf s.mem) : memWf t.mem := (specFlush_memOnly h).memOk hs

@[simp] theorem State.unstage_mem (s : State) : s.unstage.mem = s.mem := mem_of_eq rfl

@[simp] theorem State.tileSwitch_mem (s : State) (r : Nat) (on : Bool) :
    (s.tileSwitch r on).mem = s.mem := by simp [State.tileSwitch]

@[simp] theorem State.stage_mem (s : State) (m : Sparse SiteEnt) : (s.stage m).mem = s.mem := mem_of_eq rfl

theorem State.replaceSites_mem {s t : State} {sites : List Nat} {st : Nat} (h : s.replaceSites sites st = some t) :
    t.mem = s.mem := by
  obtain ⟨m, rfl⟩ := replaceSites_stage h
  exact s.stage_mem m

theorem State.replaceRowSites_mem {s t : State} {r st : Nat} (h : s.replaceRowSites r st = some t) : t.mem = s.mem := by
  obtain ⟨u, hu, rfl⟩ := Option.map_eq_some_iff.1 h
  simpa using State.replaceSites_mem hu

@[simp] theorem State.rowOut_mem (s : State) (r : Nat) : (s.rowOut r).mem = s.mem := by
  simp only [State.rowOut]
  split
  · rfl
  · cases h : s.replaceRowSites r 2 with
    | none => simp
    | some t => simpa using State.replaceRowSites_mem h

@[simp] theorem State.spareFailing_mem (s : State) : s.spareFailing.mem = s.mem := by
  rw [spareFailing_eq]
  refine foldl_mem _ (fun s t => ?_) _ _
  rcases spareOne_cases s t with ⟨h, -, -⟩ | h
  · exact (congrArg State.mem h.body :)
  · rw [h]; rfl

@[simp] theorem State.agWrite_mem (s : State) (r : AgRec) : (s.agWrite r).mem = s.mem := mem_of_eq rfl

@[simp] theorem State.agRecord_mem (s : State) (code : Nat) (p : List Nat) :
    (s.agRecord code p).mem = s.mem := mem_of_eq rfl

@[simp] theorem State.consFault_mem (s : State) (kind : Nat) (diff : ℤ) :
    (s.consFault kind diff).mem = s.mem := by simp [State.consFault]

@[simp] theorem State.queueCap_mem (s : State) (n : Nat) (w : Word) :
    (s.queueCap n w).1.mem = s.mem := by simp [State.queueCap]

@[simp] theorem State.fireEvent_mem (s : State) (page i : Nat) : (s.fireEvent page i).mem = s.mem :=
  (congrArg State.mem (fireEvent_tail ..).body :)

@[simp] theorem State.sendMsi_mem (s : State) (kind : Nat) : (s.sendMsi kind).mem = s.mem := mem_of_eq rfl

@[simp] theorem State.beganKind_mem (s : State) (kind : Nat) :
    (s.beganKind kind).mem = s.mem := by simp [State.beganKind]

theorem finish_memOk (s t : State) (h : memWf t.mem) : memWf (finish s t).mem := by
  have hu : (finishEvents s t.spareFailing).mem = t.mem :=
    (congrArg State.mem (finishEvents_tail s t.spareFailing).body :).trans t.spareFailing_mem
  rw [finish_eq]
  dsimp only
  split
  · exact State.stop_memOk _ (by rwa [hu])
  · rwa [hu]

@[simp] theorem State.awake_mem (s : State) (f : State → State) (hf : ∀ u, (f u).mem = u.mem) :
    (s.awake f).mem = s.mem := by simp [State.awake, hf]

@[simp] theorem State.awake_memOk (s : State) (f : State → State) (h : memWf s.mem) (hf : memWf (f s).mem) :
    memWf (s.awake f).mem := by simp [State.awake, *]

@[simp] theorem State.putScratch_mem (s : State) (t o : Nat) (d : List Byte) :
    (s.putScratch t o d).mem = s.mem := by simp [State.putScratch]

@[simp] theorem State.faultReads_mem (s : State) (t : Nat) (rs : List (Nat × Nat)) :
    (s.faultReads t rs).mem = s.mem := by simp [State.faultReads]

@[simp] theorem State.convFlags_mem (s : State) (tag traffic nonfin sats : Nat) :
    (s.convFlags tag traffic nonfin sats).mem = s.mem := by simp [State.convFlags]

@[simp] theorem State.tilePoison_mem (s : State) (t tag : Nat) :
    (s.tilePoison t tag).mem = s.mem := by simp [State.tilePoison]

@[simp] theorem State.flushEntry_mem (s : State) (t : Nat) (e : SpecEntry) :
    (s.flushEntry t e).mem = s.mem := mem_of_eq rfl

@[simp] theorem State.normSats_mem (s : State) (t tag n : Nat) :
    (s.normSats t tag n).mem = s.mem := by simp [State.normSats]

@[simp] theorem State.flushSpec_mem (s : State) (t : Nat) : (s.flushSpec t).mem = s.mem := by simp [State.flushSpec]

@[simp] theorem State.specBegin_mem (s : State) (t tag : Nat) :
    (s.specBegin t tag).mem = s.mem := by simp [State.specBegin]

@[simp] theorem State.specOut_mem (s : State) (t : Nat) (e : SpecEntry) : (s.specOut t e).mem = s.mem := mem_of_eq rfl

@[simp] theorem State.specRoom_mem (s : State) (t tensor z sa nf : Nat) :
    (s.specRoom t tensor z sa nf).mem = s.mem := by
  simp only [State.specRoom]
  split <;> simp

@[simp] theorem State.specEvict_mem (s : State) (t : Nat) : (s.specEvict t).mem = s.mem := by
  simp only [State.specEvict]
  split <;> simp

@[simp] theorem State.specEnter_mem (s : State) (t tensor z sa nf : Nat) :
    (s.specEnter t tensor z sa nf).mem = s.mem := by simp [State.specEnter]

@[simp] theorem State.countSpec_mem (s : State) (t tensor tag z sa nf : Nat) :
    (s.countSpec t tensor tag z sa nf).mem = s.mem := by simp [State.countSpec]

@[simp] theorem State.writeScalars_mem (s : State) (t : Nat) : (s.writeScalars t).mem = s.mem := by
  simp only [State.writeScalars]
  split <;> simp

@[simp] theorem State.closeTile_mem (s : State) (t tag : Nat) (again atEnd : Bool) :
    (s.closeTile t tag again atEnd).mem = s.mem := by simp [State.closeTile]

@[simp] theorem State.reachNext_mem (s : State) (t : Nat) : (s.reachNext t).mem = s.mem := by
  simp only [State.reachNext]
  split <;> simp

@[simp] theorem State.advance_mem (s : State) (t : Nat) : (s.advance t).mem = s.mem := by
  simp only [State.advance]
  split <;> simp

@[simp] theorem State.illegal_mem (s : State) (t : Nat) : (s.illegal t).mem = s.mem := by simp [State.illegal]

@[simp] theorem State.parityError_mem (s : State) (t : Nat) (e : ParityErr) :
    (s.parityError t e).mem = s.mem := mem_of_eq rfl

@[simp] theorem State.ready_mem (s : State) (t : Nat) (rs ws : List (Nat × Nat)) :
    (s.ready t rs ws).mem = s.mem := by simp [State.ready]

@[simp] theorem State.issue_memOk (s : State) (t : Nat) (w : BitVec 128) (q : Issue) (f : State → State) (h : memWf s.mem)
    (hf : ∀ u, memWf u.mem → memWf (f u).mem) : memWf (s.issue t w q f).mem := by
  simp only [State.issue]
  repeat' split
  all_goals simp [*]

@[simp] theorem State.modPort_mem (s : State) (p : Nat) (f : Port → Port) :
    (s.modPort p f).mem = s.mem := mem_of_eq rfl

@[simp] theorem State.setPortSt_mem (s : State) (p v : Nat) : (s.setPortSt p v).mem = s.mem := mem_of_eq rfl

@[simp] theorem State.setPortFlag_mem (s : State) (p i : Nat) (b : Bool) :
    (s.setPortFlag p i b).mem = s.mem := mem_of_eq rfl

@[simp] theorem State.pushTx_mem (s : State) (p : Nat) (x : TxItem) : (s.pushTx p x).mem = s.mem := mem_of_eq rfl

@[simp] theorem State.sendDetour_mem (s : State) (d : Nat) (x : TxItem) : (s.sendDetour d x).mem = s.mem := by
  simp only [State.sendDetour]
  split <;> simp

@[simp] theorem State.route_mem (s : State) (p : Nat) (x : TxItem) : (s.route p x).mem = s.mem := by
  simp only [State.route]
  repeat' split
  all_goals simp

@[simp] theorem State.enqueue_mem (s : State) (p : Nat) (f : RayFrame) (hold : Option (Nat × Nat × Nat)) (coll : Bool) :
    (s.enqueue p f hold coll).mem = s.mem := by simp [State.enqueue]

@[simp] theorem State.freeUnits_mem (s : State) (h : Nat × Nat × Nat) :
    (s.freeUnits h).mem = s.mem := by simp [State.freeUnits]

@[simp] theorem State.sendUnscheduled_mem (s : State) (f : RayFrame) (from_ : Option (Nat × Nat × Nat)) :
    (s.sendUnscheduled f from_).mem = s.mem := by
  simp only [State.sendUnscheduled]
  repeat' split
  all_goals simp

@[simp] theorem State.rerouteWaiting_mem (s : State) : s.rerouteWaiting.mem = s.mem := by simp [State.rerouteWaiting]

@[simp] theorem State.loadRoutes_mem (s : State) : s.loadRoutes.mem = s.mem := by simp [State.loadRoutes]

@[simp] theorem State.takeWsets_mem (s : State) (l : List (Nat × Nat)) :
    (s.takeWsets l).mem = s.mem := by simp [State.takeWsets]

@[simp] theorem State.startMoves_mem (s : State) : s.startMoves.mem = s.mem := by simp [State.startMoves]

@[simp] theorem State.askMove_mem (s : State) (m : Move) : (s.askMove m).mem = s.mem := by simp [State.askMove]

@[simp] theorem State.resFault_mem (s : State) (t eng n target : Nat) :
    (s.resFault t eng n target).mem = s.mem := by simp [State.resFault]

@[simp] theorem State.copyRange_memOk (s : State) (src dst n cls : Nat) (h : memWf s.mem) :
    memWf (s.copyRange src dst n cls).mem := by simp [State.copyRange, h]

@[simp] theorem State.endMove_memOk (s : State) (n : Nat) (h : memWf s.mem) : memWf (s.endMove n).mem := by
  unfold State.endMove
  split
  · exact h
  next m _ =>
    extract_lets e u v w x y
    have hu : memWf u.mem := by
      simp only [u]
      repeat' split
      · exact h
      · exact h
      · exact foldl_memOk _ (fun v x hv => State.copyRange_memOk _ _ _ _ _ hv) _ _ h
    have hy : y.mem = x.mem := by simp only [y]; split <;> simp
    simpa [hy, x, w, v] using hu

@[simp] theorem State.resRequest_mem (s : State) (block target : Nat) (seq : Option Nat) :
    (s.resRequest block target seq).2.mem = s.mem := by simp [State.resRequest]

@[simp] theorem State.resActivate_memOk (s : State) (i : Image) (h : memWf s.mem) :
    memWf (s.resActivate i).mem := by simp +contextual [State.resActivate, h]

@[simp] theorem State.readT_memOk (s : State) (tag a n cls : Nat) (ag : Agent) (dead stamp : Bool) (h : memWf s.mem) :
    memWf (s.readT tag a n cls ag dead stamp).2.2.mem := by simp +contextual [State.readT, h]

@[simp] theorem State.writeT_memOk (s : State) (tag a : Nat) (d : List PByte) (cls : Nat) (ag : Agent) (h : memWf s.mem) :
    memWf (s.writeT tag a d cls ag).mem := by simp +contextual [State.writeT, h]

@[simp] theorem State.addT_memOk (s : State) (tag a : Nat) (d : List PByte) (cls : Nat) (ag : Agent) (h : memWf s.mem) :
    memWf (s.addT tag a d cls ag).2.mem := by
  unfold State.addT
  refine foldl_snd_memOk _ (fun u x hu => ?_) _ _ h
  dsimp only
  split
  · refine foldl_snd_memOk _ (fun v i hv => ?_) _ _ hu
    split
    · exact State.devWrite_memOk _ _ _ _ _ hv
    · exact State.devAdd_memOk _ _ _ _ _ _ hv
  · exact State.devAdd_memOk _ _ _ _ _ _ hu

@[simp] theorem State.askSlowWrite_mem (s : State) (x : Xfer) (r : Nat) (row : XRow) :
    (s.askSlowWrite x r row).mem = s.mem := mem_of_eq rfl

@[simp] theorem State.rowToDevice_memOk (s : State) (x : Xfer) (r : Nat) (row : XRow) (h : memWf s.mem) :
    memWf (s.rowToDevice x r row).2.mem := by simp [State.rowToDevice, h]

@[simp] theorem State.countSrc_mem (s : State) (x : Xfer) : (s.countSrc x).2.mem = s.mem := by
  simp only [State.countSrc]
  split <;> simp

@[simp] theorem State.settle_memOk (s : State) (x : Xfer) (h : memWf s.mem) : memWf (s.settle x).mem := by
  simp only [State.settle]
  split
  · simpa using h
  · exact foldl_snd_memOk _ (fun u y hu => by exact State.rowToDevice_memOk _ _ _ _ hu) _ ([], (s.countSrc x).2)
      (by simpa using h)
  · split <;> simp [h]

@[simp] theorem State.readPoison_mem (s : State) (t tag : Nat) (own : Bool) (d : List PByte) :
    (s.readPoison t tag own d).mem = s.mem := by simp [State.readPoison]

@[simp] theorem State.rowArrives_memOk (s : State) (xid r : Nat) (d : List PByte) (h : memWf s.mem) :
    memWf (s.rowArrives xid r d).mem := by
  simp only [State.rowArrives]
  repeat' split
  all_goals simp [h]

@[simp] theorem State.rowWritten_mem (s : State) (xid r : Nat) : (s.rowWritten xid r).mem = s.mem := mem_of_eq rfl

@[simp] theorem State.dmaRead_memOk (s : State) (t : Nat) (d : Desc) (h : memWf s.mem) :
    memWf (s.dmaRead t d).2.mem := by
  unfold State.dmaRead
  refine foldl_snd_memOk _ (fun u x hu => ?_) _ _ h
  dsimp only
  split
  · split
    · exact hu
    · exact State.readT_memOk _ _ _ _ _ _ _ _ hu
  · split
    · exact hu
    · rw [State.faultReads_mem]
      repeat' split
      all_goals simpa using hu
  · exact hu

@[simp] theorem State.dmaStart_memOk (s : State) (t : Nat) (d : Desc) (dst : DmaDst) (h : memWf s.mem) :
    memWf (s.dmaStart t d dst).mem := by
  unfold State.dmaStart
  extract_lets n spec u1 note u2 own cc
  have h2 : memWf u2.mem := by
    simp only [u2, u1, State.modTile_mem]
    repeat' split
    all_goals simp [h]
  have h3 := State.dmaRead_memOk u2 t d h2
  generalize u2.dmaRead t d = r at h3 ⊢
  obtain ⟨rows, u3⟩ := r
  dsimp -zeta only
  extract_lets u4 pf u5 late base
  have h5 : memWf u5.mem := by
    simp only [u5]
    repeat' split
    all_goals simpa [u4] using h3
  clear_value u5 base
  have hs : memWf (match dst with
      | .device => ([(u5.fresh).1], (u5.fresh).2.settle { base (u5.fresh).1 .device with cc := cc t })
      | .sites l => l.foldl (fun (ids, s) o =>
          (ids ++ [(s.fresh).1], (s.fresh).2.settle { base (s.fresh).1 (.scratch o (s.tileOf o)) with
            cc := cc o, pf := pf, ccSrc := if ids.isEmpty then (base (s.fresh).1 (.scratch o (s.tileOf o))).ccSrc else none }))
          ([], u5)
      | .ray sr f => ([(u5.fresh).1], (u5.fresh).2.settle (base (u5.fresh).1 (.ray sr.outPort f)))).2.mem := by
    cases dst with
    | device => exact State.settle_memOk _ _ h5
    | sites l => exact foldl_snd_memOk _ (fun u o hu => by exact State.settle_memOk _ _ hu) _ ([], u5) h5
    | ray sr f => exact State.settle_memOk _ _ h5
  refine foldl_memOk _ (fun u x hu => ?_) _ _ hs
  split
  · exact hu
  · simpa using hu

@[simp] theorem State.dmaTry_memOk (s : State) (t q op : Nat) (h : memWf s.mem) : memWf (s.dmaTry t q op).mem := by
  simp only [State.dmaTry]
  repeat' split
  all_goals simp [h]

@[simp] theorem State.landScratch_mem (s : State) (ag : Agent) (site tag o : Nat) (d : List PByte) :
    (s.landScratch ag site tag o d).mem = s.mem := by simp [State.landScratch]

@[simp] theorem State.markInbound_mem (s : State) (from_ site o n : Nat) :
    (s.markInbound from_ site o n).mem = s.mem := by simp [State.markInbound]

@[simp] theorem State.addScratch_mem (s : State) (ag : Agent) (again : Bool) (site tag o : Nat) (d : List PByte) :
    (s.addScratch ag again site tag o d).mem = s.mem := by
  unfold State.addScratch
  extract_lets u
  have hu : u.mem = s.mem := by
    refine foldl_mem _ (fun u x => ?_) _ _
    dsimp only
    repeat' split
    all_goals simp
  split <;> simp [hu]

@[simp] theorem State.landRows_mem (s : State) (id : Nat) (add : Bool) : (s.landRows id add).mem = s.mem := by
  simp only [State.landRows]
  repeat' split
  all_goals simp

@[simp] theorem State.landed_mem (s : State) (x : Xfer) : (s.landed x).mem = s.mem := by
  simp only [State.landed]
  repeat' split
  all_goals simp

@[simp] theorem State.reloadRows_memOk (s : State) (t : Nat) (d : Desc) (h : memWf s.mem) :
    memWf (s.reloadRows t d).2.mem := by
  simp only [State.reloadRows]
  repeat' split
  all_goals simp +contextual [h]

@[simp] theorem State.reload_memOk (s : State) (t : Nat) (d : Desc) (h : memWf s.mem) :
    memWf (s.reload t d).mem := by simp [State.reload, h]

@[simp] theorem State.replayFail_mem (s : State) (t : Nat) (e : ParityErr) :
    (s.replayFail t e).mem = s.mem := by simp [State.replayFail]

@[simp] theorem State.replayStart_memOk (s : State) (t : Nat) (h : memWf s.mem) : memWf (s.replayStart t).mem := by
  simp only [State.replayStart]
  repeat' split
  all_goals simp +contextual [h]

@[simp] theorem State.freqDrop_mem (s : State) (t n : Nat) : (s.freqDrop t n).mem = s.mem := by simp [State.freqDrop]

@[simp] theorem State.hardLoss_mem (s : State) (t : Nat) : (s.hardLoss t).mem = s.mem := by simp [State.hardLoss]

@[simp] theorem State.setRowMv_mem (s : State) (row : Nat) : (s.setRowMv row).mem = s.mem := mem_of_eq rfl

@[simp] theorem State.dimEnt_mem (s : State) (i : Image) (ph : Nat) : (s.dimEnt i ph).2.mem = s.mem := mem_of_eq rfl

@[simp] theorem State.putDim_mem (s : State) (e : DimEnt) : (s.putDim e).mem = s.mem := mem_of_eq rfl

@[simp] theorem State.margin_mem (s : State) (t : Nat) (m : ℤ) : (s.margin t m).mem = s.mem := by
  simp only [State.margin]
  split <;> simp

@[simp] theorem State.dimLearn_mem (s : State) (i : Image) (ph : Nat) :
    (s.dimLearn i ph).mem = s.mem := by simp [State.dimLearn]

@[simp] theorem State.takeBudget_mem (s : State) : s.takeBudget.mem = s.mem := mem_of_eq rfl

@[simp] theorem State.resetTokens_mem (s : State) : s.resetTokens.mem = s.mem := mem_of_eq rfl

@[simp] theorem State.dimPredict_mem (s : State) (i : Image) (ph : Nat) :
    (s.dimPredict i ph).mem = s.mem := by simp [State.dimPredict]

@[simp] theorem State.dimApply_mem (s : State) (i : Image) (ph : Nat) :
    (s.dimApply i ph).mem = s.mem := by simp [State.dimApply]

@[simp] theorem State.dimEnd_mem (s : State) : s.dimEnd.mem = s.mem := by
  simp only [State.dimEnd]
  split <;> simp

@[simp] theorem State.dimStart_mem (s : State) : s.dimStart.mem = s.mem := by
  simp only [State.dimStart]
  split <;> simp

@[simp] theorem State.dimFrame_mem (s : State) (j : Nat) : (s.dimFrame j).mem = s.mem := by
  simp only [State.dimFrame]
  repeat' split
  all_goals simp

@[simp] theorem State.lateMargin_mem (s : State) (t j : Nat) : (s.lateMargin t j).mem = s.mem := by
  simp only [State.lateMargin]
  split <;> simp

@[simp] theorem State.giveOnce_memOk (s : State) (t : Nat) (f : State → State) (h : memWf s.mem)
    (hf : ∀ u, memWf u.mem → memWf (f u).mem) : memWf (s.giveOnce t f).mem := by
  simp only [State.giveOnce]
  split <;> simp [*]

@[simp] theorem State.retryStall_mem (s : State) (t n : Nat) :
    (s.retryStall t n).mem = s.mem := by simp [State.retryStall]

@[simp] theorem State.rbaseTake_memOk (s : State) (t : Nat) (h : memWf s.mem) : memWf (s.rbaseTake t).2.2.mem := by
  simp only [State.rbaseTake]
  repeat' split
  all_goals simp [h]

@[simp] theorem State.accout_memOk (s : State) (t : Nat) (w : BitVec 128) (h : memWf s.mem) :
    memWf (s.accout t w).mem := by simp [State.accout, h]

@[simp] theorem State.cvtNarrow_memOk (s : State) (t : Nat) (w : BitVec 128) (fmt : Nat) (h : memWf s.mem) :
    memWf (s.cvtNarrow t w fmt).mem := by simp [State.cvtNarrow, h]

@[simp] theorem State.mirrorCounts_mem (s : State) (t tag : Nat) (k : MTask) (r : MRun) :
    (s.mirrorCounts t tag k r).mem = s.mem := by
  unfold State.mirrorCounts
  refine (foldl_mem _ (fun u n => ?_) _ _).trans (by simp)
  dsimp only
  repeat' split
  all_goals simp

@[simp] theorem State.mirror_mem (s : State) (t : Nat) (w : BitVec 128) (q : Issue) :
    (s.mirror t w q).mem = s.mem := by
  simp only [State.mirror]
  split <;> simp

@[simp] theorem State.gsend_mem (s : State) (t : Nat) (h : GHead) (payload : List Byte) :
    (s.gsend t h payload).mem = s.mem := by
  simp only [State.gsend]
  repeat' split
  all_goals simp

@[simp] theorem State.giveBack_mem (s : State) (m : GMsg) : (s.giveBack m).mem = s.mem := by
  simp only [State.giveBack]
  repeat' split
  all_goals simp

@[simp] theorem State.sendCtrl_mem (s : State) (p sub : Nat) (body : List Byte) :
    (s.sendCtrl p sub body).mem = s.mem := mem_of_eq rfl

@[simp] theorem State.ctrlIn_mem (s : State) (p : Nat) : (s.ctrlIn p).mem = s.mem := mem_of_eq rfl

@[simp] theorem State.stepUp_mem (s : State) (kind : Nat) (m : StepMsg) : (s.stepUp kind m).mem = s.mem := by
  simp only [State.stepUp]
  split <;> simp

@[simp] theorem State.stepDown_mem (s : State) (kind : Nat) (m : StepMsg) :
    (s.stepDown kind m).mem = s.mem := by simp [State.stepDown]

@[simp] theorem State.penUp_mem (s : State) (kind : Nat) (m : PenumbraMsg) : (s.penUp kind m).mem = s.mem := by
  simp only [State.penUp]
  split <;> simp

@[simp] theorem State.penDown_mem (s : State) (mode : Nat) (m : PenumbraMsg) :
    (s.penDown mode m).mem = s.mem := by simp [State.penDown]

@[simp] theorem State.follow_mem (s : State) (prio id epoch : Nat) :
    (s.follow prio id epoch).mem = s.mem := by simp [State.follow]

@[simp] theorem State.lead_mem (s : State) (me : Nat × Nat) : (s.lead me).mem = s.mem := by simp [State.lead]

@[simp] theorem State.followBest_mem (s : State) (b : Nat × Nat) : (s.followBest b).mem = s.mem := by
  simp only [State.followBest]
  split <;> simp

@[simp] theorem State.elect_mem (s : State) : s.elect.mem = s.mem := by
  simp only [State.elect]
  split <;> simp

@[simp] theorem State.switchSeen_mem (s : State) (d : Option (Bool × Nat)) (key : Nat) :
    (s.switchSeen d key).mem = s.mem := by
  simp only [State.switchSeen]
  repeat' split
  all_goals simp

@[simp] theorem State.takeDecision_mem (s : State) (d : Dec) :
    (s.takeDecision d).mem = s.mem := by simp [State.takeDecision]

@[simp] theorem State.lateReport_mem (s : State) (j : Nat) : (s.lateReport j).mem = s.mem := mem_of_eq rfl

@[simp] theorem State.ownLate_mem (s : State) (j : Nat) : (s.ownLate j).mem = s.mem := by simp [State.ownLate]

@[simp] theorem State.phaseErr_mem (s : State) (e : ℤ) : (s.phaseErr e).mem = s.mem := by simp [State.phaseErr]

@[simp] theorem State.pathGt_mem (s : State) (d : Nat) : (s.pathGt d).2.mem = s.mem := by
  simp only [State.pathGt]
  repeat' split
  all_goals simp

@[simp] theorem State.measureWord_mem (s : State) (p : Nat) (w : GnomonWord) (arrival : Nat) :
    (s.measureWord p w arrival).mem = s.mem := by
  simp only [State.measureWord]
  split <;> simp

@[simp] theorem State.hearMaster_mem (s : State) (p : Nat) (w : GnomonWord) :
    (s.hearMaster p w).mem = s.mem := mem_of_eq rfl

@[simp] theorem State.hearReport_mem (s : State) (p : Nat) (w : GnomonWord) :
    (s.hearReport p w).mem = s.mem := by simp [State.hearReport]

@[simp] theorem State.setHi_mem (s : State) (v : Word) : (s.setHi v).mem = s.mem := by
  simp only [State.setHi]
  repeat' split
  all_goals simp

@[simp] theorem State.append_mem (s : State) (e : JEnt) : (s.append e).2.mem = s.mem := mem_of_eq rfl

@[simp] theorem State.jOrder_mem (s : State) (o : Origin) (opcode status : Nat) (digestOf : List Byte) (arg : Nat) :
    (s.jOrder o opcode status digestOf arg).mem = s.mem := mem_of_eq rfl

@[simp] theorem State.jDecision_mem (s : State) (cls src opcode arg : Nat) :
    (s.jDecision cls src opcode arg).mem = s.mem := mem_of_eq rfl

@[simp] theorem State.jFinish_mem (s : State) (seq status result : Nat) (orig : JEnt) :
    (s.jFinish seq status result orig).mem = s.mem := by
  simp only [State.jFinish]
  split <;> simp

@[simp] theorem State.jLink_mem (s : State) (a b : Nat) : (s.jLink a b).mem = s.mem := by
  simp only [State.jLink]
  repeat' split
  all_goals simp

@[simp] theorem State.setCmd_mem (s : State) (c : Cmd) : (s.setCmd c).mem = s.mem := mem_of_eq rfl

@[simp] theorem State.cmdDone_mem (s : State) (seq status result : Nat) :
    (s.cmdDone seq status result).mem = s.mem := by
  simp only [State.cmdDone]
  split <;> simp

@[simp] theorem State.denied_mem (s : State) : s.denied.mem = s.mem := mem_of_eq rfl

@[simp] theorem State.ldcParity_mem (s : State) (t a n : Nat) : (s.ldcParity t a n).mem = s.mem := by
  simp only [State.ldcParity]
  repeat' split
  all_goals simp

@[simp] theorem State.ldcElem_memOk (s : State) (t n cls a : Nat) (h : memWf s.mem) :
    memWf (s.ldcElem t n cls a).2.mem := by
  simp only [State.ldcElem]
  repeat' split
  all_goals simp [h]

@[simp] theorem State.ldcWant_mem (s : State) (t cls a : Nat) : (s.ldcWant t cls a).mem = s.mem := mem_of_eq rfl

@[simp] theorem State.ldcGather_memOk (s : State) (t n cls : Nat) (l : List Nat) (r : LdcRun) (h : memWf s.mem) :
    memWf (s.ldcGather t n cls l r).mem := by
  induction l generalizing s r with
  | nil => simpa [State.ldcGather] using h
  | cons a as ih =>
    have he : memWf (s.ldcElem t n cls a).2.mem := State.ldcElem_memOk _ _ _ _ _ h
    rw [State.ldcGather]
    split
    next d u hd => exact ih u _ (by rwa [hd] at he)
    next u hd =>
      rw [hd] at he
      simpa using he

@[simp] theorem State.ldcTry_memOk (s : State) (t : Nat) (w : BitVec 128) (h : memWf s.mem) :
    memWf (s.ldcTry t w).mem := by
  simp only [State.ldcTry]
  repeat' split
  all_goals simp [h]

@[simp] theorem State.refetch_memOk (s : State) (t slot k : Nat) (p : Prefetch) (h : memWf s.mem) :
    memWf (s.refetch t slot k p).2.mem := by simp [State.refetch, h]

@[simp] theorem State.takeRequest_memOk (s : State) (k : Nat) (q : SReq) (h : memWf s.mem) :
    memWf (s.takeRequest k q).mem := by
  unfold State.takeRequest
  dsimp only
  split
  · split <;> simp [h]
  · split
    · simp [h]
    · split
      · split
        next u hu => exact State.perform_memOk _ _ _ (by simpa using State.allocate_memOk hu h)
        · simpa using h
      · split
        · simpa using h
        · split
          next u hu => simpa using State.allocate_memOk hu h
          · simpa using h

@[simp] theorem State.reject_mem (s : State) (q : SReq) (slice : Option Nat) : (s.reject q slice).mem = s.mem := by
  simp only [State.reject]
  split <;> simp

theorem State.requestAt_memOk (s : State) (k : Nat) (q : SReq) (sites : List Nat) (h : memWf s.mem) :
    memWf (if s.dieShut k || s.held.any (·.line == q.line) || s.mustQueue k q then s.defer k q
      else if sites.isEmpty then s.takeRequest k q
      else
        let u := sites.foldl (fun u t => u.say (.invalidate t q.line)) s
        { u with held := u.held ++ [{ line := q.line, sites := sites, req := q }] }).mem := by
  split
  · simp [h]
  · split
    · simp [h]
    · exact foldl_memOk _ (fun u t hu => by simpa using hu) _ _ h

@[simp] theorem State.request_memOk (s : State) (q : SReq) (h : memWf s.mem) : memWf (s.request q).mem := by
  unfold State.request
  extract_lets r line
  split
  · simp [h]
  · split
    · simp [h]
    next k _ =>
      split
      · simp [h]
      · exact State.requestAt_memOk _ k q _ (by simp [h])

@[simp] theorem State.release_memOk (s : State) (k : Nat) (h : memWf s.mem) :
    memWf (s.release k).mem := by simp +contextual [State.release, h]

@[simp] theorem State.recodeLine_mem (s : State) (k : Nat) (l : Line) :
    (s.recodeLine k l).mem = s.mem := by simp [State.recodeLine]

@[simp] theorem State.laneFail_mem (s : State) (k lane : Nat) (swap : Bool) :
    (s.laneFail k lane swap).mem = s.mem := by simp [State.laneFail]

@[simp] theorem State.tuneLanes_mem (s : State) (swept : List (Nat × Nat × Nat × Nat)) :
    (s.tuneLanes swept).mem = s.mem := by simp [State.tuneLanes]

@[simp] theorem State.delayCode_mem (s : State) (k lane : Nat) :
    (s.delayCode k lane).2.mem = s.mem := by simp [State.delayCode]

@[simp] theorem State.markStale_mem (s : State) : s.markStale.mem = s.mem := by simp [State.markStale]

@[simp] theorem State.clearCaches_mem (s : State) : s.clearCaches.mem = s.mem := by simp [State.clearCaches]

@[simp] theorem State.loseArray_mem (s : State) (die : Nat) :
    (s.loseArray die).mem = s.mem := by simp [State.loseArray]

@[simp] theorem State.hostWriteBack_mem (s : State) (line : Nat) (a : Agent) :
    (s.hostWriteBack line a).mem = s.mem := by simp [State.hostWriteBack]

@[simp] theorem State.stackReq_memOk (s : State) (addr : Nat) (data : Option (List PByte)) (a : Agent) (h : memWf s.mem) :
    memWf (s.stackReq addr data a).mem := by
  simp only [State.stackReq]
  repeat' split
  all_goals simp [h]

@[simp] theorem State.untrained_mem (s : State) (p : Nat) : (s.untrained p).mem = s.mem := mem_of_eq rfl

@[simp] theorem State.linkLost_memOk (s : State) (p : Nat) (h : memWf s.mem) : memWf (s.linkLost p).mem := by
  simp only [State.linkLost]
  split
  · simpa using h
  · rw [mem_ite, State.cause_mem, ite_self]
    refine foldl_memOk _ (fun u q hu => foldl_memOk _ (fun v x hv => ?_) _ _ hu) _ _ (by simpa using h)
    split
    · exact State.rowArrives_memOk _ _ _ _ hv
    · exact by simpa using hv

@[simp] theorem State.finishMove_memOk (s : State) (block : Nat) (h : memWf s.mem) :
    memWf (s.finishMove block).mem := by
  simp only [State.finishMove]
  repeat' split
  all_goals simp [h]

@[simp] theorem State.settleMoves_memOk (s : State) (h : memWf s.mem) : memWf s.settleMoves.mem := by
  unfold State.settleMoves forN
  refine foldl_memOk _ (fun u n hu => ?_) _ _ h
  split
  · exact State.finishMove_memOk _ _ hu
  · exact hu

@[simp] theorem State.modRead_memOk (s : State) (a n : Nat) (h : memWf s.mem) :
    memWf (s.modRead a n).2.mem := by simp [State.modRead, h]

@[simp] theorem State.modWrite_memOk (s : State) (a : Nat) (d : List PByte) (h : memWf s.mem) :
    memWf (s.modWrite a d).mem := by simp [State.modWrite, h]

@[simp] theorem State.setRing_mem (s : State) (n : Nat) (r : Ring) : (s.setRing n r).mem = s.mem := mem_of_eq rfl

@[simp] theorem State.ringEnable_memOk (s : State) (n : Nat) (h : memWf s.mem) : memWf (s.ringEnable n).mem := by
  have hr : (s.ringEnable n).memOk := by
    unfold State.ringEnable
    split
    · split <;> exact h
    · split
      · exact h
      · extract_lets a
        split
        · exact h
        · have hm := State.modRead_memOk s a 64 h
          split
          rename_i d u hd
          rw [hd] at hm
          have hu : u.memOk := hm
          split <;> exact hu
  exact hr

@[simp] theorem State.ringSettle_memOk (s : State) (n : Nat) (h : memWf s.mem) : memWf (s.ringSettle n).mem := by
  simp only [State.ringSettle]
  repeat' split
  all_goals simp [h]

@[simp] theorem State.ringDisable_memOk (s : State) (n : Nat) (h : memWf s.mem) : memWf (s.ringDisable n).mem := by
  simp only [State.ringDisable]
  repeat' split
  all_goals simp [h]

@[simp] theorem State.ringCtl_memOk (s : State) (v : Word) (h : memWf s.mem) :
    memWf (s.ringCtl v).mem := by simp [State.ringCtl, h]

@[simp] theorem State.post_memOk (s : State) (c : Cmd) (st result : Nat) (h : memWf s.mem) :
    memWf (s.post c st result).mem := by
  simp only [State.post]
  repeat' split
  all_goals simp [h]

@[simp] theorem State.complete_memOk (s : State) (seq : Nat) (h : memWf s.mem) : memWf (s.complete seq).mem := by
  simp only [State.complete]
  repeat' split
  all_goals simp [h]

@[simp] theorem State.ringDb_memOk (s : State) (v : Word) (h : memWf s.mem) : memWf (s.ringDb v).mem := by
  unfold State.ringDb
  extract_lets n i
  split
  · exact h
  · split
    · exact h
    · split
      · exact foldl_memOk _ (fun u c hu => State.complete_memOk _ _ hu) _ _ h
      · exact h

@[simp] theorem State.runCmd_memOk (s : State) (seq op : Nat) (f : Cmd → State → State) (h : memWf s.mem)
    (hf : ∀ c u, memWf u.mem → memWf (f c u).mem) : memWf (s.runCmd seq op f).mem := by
  simp only [State.runCmd]
  repeat' split
  all_goals simp [*]

@[simp] theorem State.ringStore_memOk (s : State) (ring a : Nat) (d : List Byte) (h : memWf s.mem) :
    memWf (s.ringStore ring a d).mem := by simp [State.ringStore, h]

@[simp] theorem State.cleanLine_memOk (s : State) (line : Nat) (h : memWf s.mem) : memWf (s.cleanLine line).mem := by
  simp only [State.cleanLine, forN]
  repeat' split
  all_goals simp [h]

@[simp] theorem State.detach_memOk (s : State) (why : Nat) (h : memWf s.mem) :
    memWf (s.detach why).mem := by simp +contextual [State.detach, h]

@[simp] theorem State.resetHost_memOk (s : State) (h : memWf s.mem) :
    memWf s.resetHost.mem := by simp [State.resetHost, h]

@[simp] theorem State.attach_mem (s : State) : s.attach.mem = s.mem := by simp [State.attach]

@[simp] theorem State.kick_mem (s : State) : s.kick.mem = s.mem := mem_of_eq rfl

@[simp] theorem State.sendMgmt_mem (s : State) (dst : Nat) (m : MgmtMsg) :
    (s.sendMgmt dst m).mem = s.mem := mem_of_eq rfl

@[simp] theorem State.fpSend_memOk (s : State) (i : Image) (h : memWf s.mem) :
    memWf (s.fpSend i).mem := by simp [State.fpSend, h]

@[simp] theorem State.fpCompare_mem (s : State) (i : Image) : (s.fpCompare i).mem = s.mem := by
  unfold State.fpCompare
  extract_lets me all u
  have hu : u.mem = s.mem := by
    refine (foldl_mem _ (fun v n => ?_) _ _).trans (by simp)
    dsimp only
    repeat' split
    all_goals simp
  simp [hu]

@[simp] theorem State.fpTry_mem (s : State) : s.fpTry.mem = s.mem := by
  simp only [State.fpTry]
  split <;> simp

@[simp] theorem State.raiseTiles_mem (s : State) (b : Nat) :
    (s.raiseTiles b).mem = s.mem := by simp [State.raiseTiles]

@[simp] theorem State.scaleBy_mem (s : State) (verdict cause : Nat) : (s.scaleBy verdict cause).mem = s.mem := by
  simp only [State.scaleBy]
  split <;> simp

@[simp] theorem State.tryReport_mem (s : State) : s.tryReport.mem = s.mem := by
  simp only [State.tryReport]
  repeat' split
  all_goals simp

@[simp] theorem State.nextPass_mem (s : State) : s.nextPass.mem = s.mem := by
  simp only [State.nextPass]
  split <;> simp

theorem State.takeVerdict_mem {s t : State} {v : Nat} {m : StepMsg} (h : s.takeVerdict v m = some t) : t.mem = s.mem := by
  unfold State.takeVerdict at h
  split at h
  · cases h
  · split at h
    · split at h
      · split at h <;> cases h
        rfl
      · cases h
    · split at h
      · cases h; simp
      · cases h

@[simp] theorem State.commitStep_mem (s : State) (v cause : Nat) :
    (s.commitStep v cause).mem = s.mem := by simp [State.commitStep]

@[simp] theorem State.beginUndo_mem (s : State) (tag : Nat) : (s.beginUndo tag).mem = s.mem := by
  unfold State.beginUndo
  refine (State.forSites_mem _ _ fun u t => ?_).trans (by simp)
  dsimp only
  split <;> simp

@[simp] theorem State.dropSpec_mem (s : State) (tag : Nat) : (s.dropSpec tag).mem = s.mem := by simp [State.dropSpec]

@[simp] theorem State.fetchEntry_mem (s : State) (n src : Nat) : (s.fetchEntry n src).mem = s.mem := by
  simp only [State.fetchEntry]
  split <;> simp

@[simp] theorem State.tryDrained_mem (s : State) : s.tryDrained.mem = s.mem := by
  simp only [State.tryDrained]
  split <;> simp

@[simp] theorem State.drained_mem (s : State) : s.drained.mem = s.mem := by simp [State.drained]

@[simp] theorem State.repairCheck_memOk (s : State) (n src : Nat) (h : memWf s.mem) :
    memWf (s.repairCheck n src).mem := by
  unfold State.repairCheck
  split
  · exact h
  next i _ =>
    extract_lets step rs
    generalize hp : List.foldl _ _ rs = p
    have hm : memWf p.2.mem := by
      rw [← hp]
      exact foldl_snd_memOk _ (fun u r hu => by exact State.modRead_memOk _ _ _ hu) _ ([], s) h
    clear_value rs
    dsimp only
    repeat' split
    all_goals simpa using hm

@[simp] theorem State.setHold_mem (s : State) (v : Nat) : (s.setHold v).mem = s.mem := mem_of_eq rfl

@[simp] theorem State.snapCheck_mem (s : State) (i : Image) : (s.snapCheck i).mem = s.mem := by simp [State.snapCheck]

@[simp] theorem State.zeroCounters_mem (s : State) : s.zeroCounters.mem = s.mem := by simp [State.zeroCounters]

@[simp] theorem State.zeroCounts_mem (s : State) : s.zeroCounts.mem = s.mem := by simp [State.zeroCounts]

@[simp] theorem State.dropRegions_mem (s : State) : s.dropRegions.mem = s.mem := by simp [State.dropRegions]

@[simp] theorem State.endJob_memOk (s : State) (h : memWf s.mem) : memWf s.endJob.mem := by simp [State.endJob, h]

@[simp] theorem State.restoreFail_memOk (s : State) (h : memWf s.mem) : memWf s.restoreFail.mem := by
  simp only [State.restoreFail]
  repeat' split
  all_goals simp [h]

@[simp] theorem State.takeHold_mem (s : State) (fh no cause : Nat) :
    (s.takeHold fh no cause).mem = s.mem := mem_of_eq rfl

@[simp] theorem State.orderHold_mem (s : State) (cause tUs : Nat) : (s.orderHold cause tUs).mem = s.mem := by
  simp only [State.orderHold]
  split <;> simp

@[simp] theorem State.tryReady_memOk (s : State) (h : memWf s.mem) : memWf s.tryReady.mem := by
  simp only [State.tryReady]
  repeat' split
  all_goals simp [h]

@[simp] theorem State.holdData_memOk (s : State) (key : Nat) (d : List PByte) (h : memWf s.mem) :
    memWf (s.holdData key d).mem := by
  simp only [State.holdData]
  repeat' split
  all_goals simp [h]

@[simp] theorem State.park_memOk (s : State) (h : memWf s.mem) : memWf s.park.mem := by simp [State.park, h]

@[simp] theorem State.orderPark_memOk (s : State) (h : memWf s.mem) :
    memWf s.orderPark.mem := by simp [State.orderPark, h]

@[simp] theorem State.masterAct_memOk (s : State) (h : memWf s.mem) :
    memWf s.masterAct.mem := by simp [State.masterAct, h]

@[simp] theorem State.leaveUp_mem (s : State) (p : Nat) : (s.leaveUp p).mem = s.mem := by
  simp only [State.leaveUp]
  split <;> simp

@[simp] theorem State.tryUp_mem (s : State) (p : Nat) : (s.tryUp p).mem = s.mem := by
  simp only [State.tryUp]
  repeat' split
  all_goals simp

@[simp] theorem State.sendGrants_mem (s : State) (p : Nat) :
    (s.sendGrants p).mem = s.mem := by simp [State.sendGrants]

@[simp] theorem State.beginSync_mem (s : State) (p : Nat) (alloc : Sparse Nat) :
    (s.beginSync p alloc).mem = s.mem := by simp [State.beginSync]

@[simp] theorem State.beginDetour_mem (s : State) (p : Nat) :
    (s.beginDetour p).mem = s.mem := by simp [State.beginDetour]

@[simp] theorem State.retrainPort_mem (s : State) (p : Nat) :
    (s.retrainPort p).mem = s.mem := by simp [State.retrainPort]

@[simp] theorem State.portDown_mem (s : State) (p : Nat) : (s.portDown p).mem = s.mem := by simp [State.portDown]

@[simp] theorem State.portEnable_mem (s : State) (p : Nat) (v : Bool) :
    (s.portEnable p v).mem = s.mem := by simp [State.portEnable]

@[simp] theorem State.handshake_mem (s : State) (p : Nat) (m : LinkMsg) :
    (s.handshake p m).mem = s.mem := by simp [State.handshake]

@[simp] theorem State.nakIn_mem (s : State) (p : Nat) : (s.nakIn p).mem = s.mem := by simp [State.nakIn]

@[simp] theorem State.replayOut_mem (s : State) (p : Nat) (f : RayFrame) :
    (s.replayOut p f).mem = s.mem := by simp [State.replayOut]

@[simp] theorem State.acceptSeq_mem (s : State) (p : Nat) (f : RayFrame) :
    (s.acceptSeq p f).2.mem = s.mem := by simp [State.acceptSeq]

@[simp] theorem State.countLast_mem (s : State) (f : RayFrame) (tag : Nat) : (s.countLast f tag).mem = s.mem := by
  simp only [State.countLast]
  repeat' split
  all_goals simp

@[simp] theorem State.frameEffect_memOk (s : State) (p : Nat) (f : RayFrame) (h : memWf s.mem) :
    memWf (s.frameEffect p f).mem := by
  simp only [State.frameEffect]
  repeat' split
  all_goals simp [h]

@[simp] theorem State.passDetour_mem (s : State) (p : Nat) (f : RayFrame) (h : Nat × Nat × Nat) :
    (s.passDetour p f h).mem = s.mem := mem_of_eq rfl

@[simp] theorem State.deliver_memOk (s : State) (p : Nat) (f : RayFrame) (h : memWf s.mem) :
    memWf (s.deliver p f).mem := by
  simp only [State.deliver]
  repeat' split
  all_goals simp [h]

@[simp] theorem State.tryTake_memOk (s : State) (p : Nat) (f : RayFrame) (h : memWf s.mem) :
    memWf (s.tryTake p f).2.mem := by simp [State.tryTake, h]

@[simp] theorem State.takeEarly_memOk (s : State) (p : Nat) (b l : List RayFrame) (h : memWf s.mem) :
    memWf (s.takeEarly p b l).2.mem := by
  induction l generalizing b with
  | nil => simpa [State.takeEarly] using h
  | cons f rest ih =>
    have he : memWf (s.tryTake p f).2.mem := State.tryTake_memOk _ _ _ h
    rw [State.takeEarly]
    split
    next t ht =>
      rw [ht] at he
      simpa using he
    · exact ih _

@[simp] theorem State.drainEarly_memOk (fuel : Nat) (s : State) (p : Nat) (h : memWf s.mem) :
    memWf (s.drainEarly fuel p).mem := by
  induction fuel generalizing s with
  | zero => exact h
  | succ fuel ih =>
    rw [State.drainEarly]
    split
    next t ht =>
      obtain ⟨q, -, hq⟩ := List.exists_of_findSome?_eq_some ht
      refine ih t ?_
      have he := State.takeEarly_memOk s q [] (s.port q).early h
      split at hq
      next u hu => cases hq; rwa [hu] at he
      · cases hq
    · exact h

theorem State.acceptSeq_fst_mem {s t : State} {p : Nat} {f : RayFrame} (h : (s.acceptSeq p f).1 = some t) :
    t.mem = s.mem := by
  simp only [State.acceptSeq, apply_ite Prod.fst, Option.ite_none_left_eq_some, Option.some.injEq] at h
  obtain ⟨-, rfl⟩ := h
  split <;> simp

@[simp] theorem State.frameIn_memOk (s : State) (p : Nat) (f : RayFrame) (h : memWf s.mem) :
    memWf (s.frameIn p f).mem := by
  unfold State.frameIn
  split
  · exact h
  · split
    next u hu =>
      have := State.acceptSeq_mem s p f
      rw [hu] at this
      rwa [this]
    next u v hu =>
      have := State.acceptSeq_fst_mem (congrArg Prod.fst hu)
      exact State.drainEarly_memOk _ _ _ (by simpa [this] using h)

@[simp] theorem State.stampFrame_mem (s : State) (p : Nat) (f : RayFrame) :
    (s.stampFrame p f).2.mem = s.mem := by simp [State.stampFrame]

@[simp] theorem State.launch_mem (s : State) (p : Nat) (f : RayFrame) : (s.launch p f).mem = s.mem := mem_of_eq rfl

@[simp] theorem State.slotEnd_mem (s : State) : s.slotEnd.mem = s.mem := by
  unfold State.slotEnd
  refine foldl_mem _ (fun u n => ?_) _ _
  repeat' split
  all_goals simp

@[simp] theorem State.noteFrame_mem (s : State) : s.noteFrame.mem = s.mem := by
  simp only [State.noteFrame]
  split <;> simp

@[simp] theorem State.collStart_memOk (s : State) (q : Nat) (c : Coll) (st : Stream) (h : memWf s.mem) :
    memWf (s.collStart q c st).mem := by
  simp only [State.collStart]
  repeat' split
  all_goals simp [h]

@[simp] theorem State.cmdReject_mem (s : State) : s.cmdReject.2.mem = s.mem := mem_of_eq rfl

@[simp] theorem State.admCheck_mem (s : State) (o : Origin) : (s.admCheck o).2.mem = s.mem := by simp [State.admCheck]

@[simp] theorem State.admArm_mem (s : State) : s.admArm.2.mem = s.mem := by
  simp only [State.admArm]
  split <;> simp

@[simp] theorem State.admWithdraw_mem (s : State) : s.admWithdraw.2.mem = s.mem := by
  simp only [State.admWithdraw]
  split <;> simp

theorem State.cmdReject_or_mem (s : State) (c : Prop) [Decidable c] (f : Adm → Adm) :
    (if c then s.cmdReject else (false, (s.modAdm f).raise admPage 2)).2.mem = s.mem := by
  split
  · exact s.cmdReject_mem
  · exact State.raise_mem ..

@[simp] theorem State.admEnd_mem (s : State) : s.admEnd.2.mem = s.mem := by
  unfold State.admEnd
  cases s.adm.active with
  | none => exact s.cmdReject_mem
  | some i => exact State.cmdReject_or_mem s _ _

@[simp] theorem State.admCmd_mem (s : State) (o : Origin) (v : Nat) : (s.admCmd o v).2.mem = s.mem := by
  simp only [State.admCmd]
  split <;> simp

@[simp] theorem State.modmapStage_mem (s : State) : s.modmapStage.mem = s.mem := by simp [State.modmapStage]

@[simp] theorem State.modmapWithdraw_mem (s : State) : s.modmapWithdraw.mem = s.mem := by simp [State.modmapWithdraw]

@[simp] theorem State.mapSwitch_mem (s : State) : s.mapSwitch.mem = s.mem := by
  simp only [State.mapSwitch]
  split <;> simp

@[simp] theorem State.movePositions_mem (s old : State) : (s.movePositions old).mem = s.mem := by
  unfold State.movePositions
  refine (foldl_mem _ (fun u l => ?_) _ _).trans (foldl_mem _ (fun u l => ?_) _ _)
  all_goals split <;> simp

@[simp] theorem State.resetMoved_mem (s old : State) : (s.resetMoved old).mem = s.mem := by simp [State.resetMoved]

@[simp] theorem State.siteMapSwitch_mem (s : State) (m : Sparse SiteEnt) :
    (s.siteMapSwitch m).mem = s.mem := by simp [State.siteMapSwitch]

@[simp] theorem State.homeChange_memOk (s : State) (places : List Place) (h : memWf s.mem) :
    memWf (s.homeChange places).2.mem := by simp +contextual [State.homeChange, h]

@[simp] theorem State.freeSet_mem (s : State) (k set : Nat) : (s.freeSet k set).mem = s.mem := by simp [State.freeSet]

@[simp] theorem State.takeWay_memOk (s : State) (k line : Nat) (window : Bool) (h : memWf s.mem) :
    memWf (s.takeWay k line window).mem := by
  unfold State.takeWay
  extract_lets st u
  have hu : memWf u.mem := by simp only [u]; split <;> simp [h]
  split
  next v hv => simpa using State.allocate_memOk hv hu
  · exact hu

@[simp] theorem State.applyPins_memOk (s : State) (i : Image) (h : memWf s.mem) : memWf (s.applyPins i).mem := by
  unfold State.applyPins
  refine foldl_memOk _ (fun u p hu => foldl_memOk _ (fun v l hv => ?_) _ _ hu) _ _ (by simp [h])
  repeat' split
  all_goals simp [hv]

@[simp] theorem State.payloadCopy_memOk (s : State) (i : Image) (h : memWf s.mem) : memWf (s.payloadCopy i).mem := by
  unfold State.payloadCopy
  exact foldl_memOk _ (fun u p hu => State.modWrite_memOk _ _ _ (State.modRead_memOk _ _ _ hu)) _ _ h

@[simp] theorem State.spectrumReset_memOk (s : State) (i : Image) (h : memWf s.mem) :
    memWf (s.spectrumReset i).mem := by simp [State.spectrumReset, h]

@[simp] theorem State.portsAnew_mem (s : State) : s.portsAnew.mem = s.mem := by simp [State.portsAnew]

@[simp] theorem State.bringUp_memOk (s : State) (i : Image) (fa : Nat) (swap wait keep : Bool) (h : memWf s.mem) :
    memWf (s.bringUp i fa swap wait keep).mem := by
  have hs : memWf s.dimEnd.settleMoves.mem := State.settleMoves_memOk _ (by simpa using h)
  simp only [State.bringUp, State.dimStart_mem, State.noteFrame_mem, State.raise_mem]
  refine foldl_memOk _ (fun u q hu => State.request_memOk _ _ hu) _ _ ?_
  refine foldl_memOk _ (fun u k hu => State.release_memOk _ _ hu) _ _ ?_
  refine State.forSites_memOk _ _ ?_ fun u t hu => ?_
  · rw [foldl_mem _ fun u e => State.modTile_mem .., State.snapCheck_mem]
    simp only [State.wrN_mem, State.loadRoutes_mem, State.portsAnew_mem]
    refine State.resActivate_memOk _ _ ?_
    rw [State.takeWsets_mem]
    refine State.applyPins_memOk _ _ ?_
    cases swap <;> simp [hs]
  · split
    · simp only [State.reachNext_mem]
      repeat' split
      all_goals simp [hu]
    · split <;> simp [hu]

@[simp] theorem State.decideSwitch_mem (s : State) (f key : Nat) :
    (s.decideSwitch f key).mem = s.mem := by simp [State.decideSwitch]

@[simp] theorem State.duskPfc_mem (s : State) (pause : Bool) :
    (s.duskPfc pause).mem = s.mem := by simp [State.duskPfc]

@[simp] theorem State.duskEnter_mem (s : State) (c : Nat) : (s.duskEnter c).mem = s.mem := by simp [State.duskEnter]

@[simp] theorem State.tryAudit_mem (s : State) : s.tryAudit.mem = s.mem := by
  simp only [State.tryAudit]
  repeat' split
  all_goals simp

@[simp] theorem State.siteState_mem (s : State) (t st : Nat) : (s.siteState t st).mem = s.mem := by
  simp only [State.siteState]
  repeat' split
  all_goals simp

@[simp] theorem State.siteLater_mem (s : State) (t st : Nat) (done : Bool) :
    (s.siteLater t st done).mem = s.mem := by simp [State.siteLater]

@[simp] theorem State.siteClean_mem (s : State) (t : Nat) : (s.siteClean t).mem = s.mem := mem_of_eq rfl

theorem State.retireSite_mem {s t : State} {site : Nat} (h : s.retireSite site = some t) : t.mem = s.mem := by
  unfold State.retireSite at h
  split at h
  · cases h
  · exact State.replaceSites_mem h

theorem State.beginTest_mem {s t : State} {x : SelfTest} (h : s.beginTest x = some t) : t.mem = s.mem := by
  simp only [State.beginTest] at h
  split at h
  · cases h
  · cases h; simp

theorem State.stageCmd_mem {s t : State} {v : Nat} (h : s.stageCmd v = some t) : t.mem = s.mem := by
  simp only [State.stageCmd] at h
  split at h
  · cases h
  · split at h
    · exact State.retireSite_mem h
    · split at h
      · cases h
      · exact State.replaceRowSites_mem h
    · split at h
      · exact State.beginTest_mem h
      · cases h
    · split at h
      · cases h
      · obtain ⟨u, hu, rfl⟩ := Option.map_eq_some_iff.1 h
        simpa using State.beginTest_mem hu
    · split at h
      · cases h
      · exact State.beginTest_mem h
    · split at h <;> cases h
      exact mem_of_eq rfl
    · cases h

@[simp] theorem State.putSlot_mem (s : State) (slot off : Nat) (bs : List Byte) :
    (s.putSlot slot off bs).mem = s.mem := mem_of_eq rfl

@[simp] theorem State.measure_mem (s : State) (kind agent svn ver : Nat) (hash : List Byte) :
    (s.measure kind agent svn ver hash).mem = s.mem := by simp [State.measure]

@[simp] theorem State.measureSlot_mem (s : State) (slot : Nat) :
    (s.measureSlot slot).mem = s.mem := by simp [State.measureSlot]

@[simp] theorem State.fwState_mem (s : State) (v : Nat) : (s.fwState v).mem = s.mem := mem_of_eq rfl

@[simp] theorem State.unstageFw_mem (s : State) : s.unstageFw.mem = s.mem := by simp [State.unstageFw]

@[simp] theorem State.fwBegin_mem (s : State) : s.fwBegin.2.mem = s.mem := by simp [State.fwBegin]

@[simp] theorem State.fwAdopt_mem (s : State) (ok : Bool) : (s.fwAdopt ok).mem = s.mem := by simp [State.fwAdopt]

@[simp] theorem State.fwActivateNow_mem (s : State) : s.fwActivateNow.2.mem = s.mem := by simp [State.fwActivateNow]

@[simp] theorem State.fwDrop_mem (s : State) : s.fwDrop.2.mem = s.mem := by simp [State.fwDrop]

@[simp] theorem State.setQp_mem (s : State) (n : Nat) (q : Qp) : (s.setQp n q).mem = s.mem := mem_of_eq rfl

@[simp] theorem State.sendOp_mem (s : State) (n : Nat) (o : RdmaOp) :
    (s.sendOp n o).mem = s.mem := by simp [State.sendOp]

@[simp] theorem State.postOp_mem (s : State) (n : Nat) (o : RdmaOp) :
    (s.postOp n o).mem = s.mem := by simp [State.postOp]

@[simp] theorem State.modIntake_mem (s : State) (f : Intake → Intake) : (s.modIntake f).mem = s.mem := mem_of_eq rfl

@[simp] theorem State.dropIntake_mem (s : State) : s.dropIntake.mem = s.mem := by
  simp only [State.dropIntake]
  split <;> simp

@[simp] theorem State.intakeStall_mem (s : State) (qpn range : Nat) :
    (s.intakeStall qpn range).mem = s.mem := mem_of_eq rfl

@[simp] theorem State.qpSettle_mem (s : State) (n : Nat) : (s.qpSettle n).mem = s.mem := by
  simp only [State.qpSettle]
  split <;> simp

@[simp] theorem State.qpError_memOk (s : State) (n : Nat) (h : memWf s.mem) : memWf (s.qpError n).mem := by
  unfold State.qpError
  extract_lets q
  split
  · exact h
  · rename_i page u v w x _
    have hv : memWf v.mem := by simp only [v, u]; split <;> simpa using h
    have hx : memWf x.mem := by
      simp only [x, State.qpSettle_mem, State.setQp_mem]
      refine foldl_memOk _ (fun y o hy => ?_) _ _ hv
      dsimp only
      repeat' split
      all_goals simp [hy]
    split
    · exact State.tryReady_memOk _ hx
    · exact hx

@[simp] theorem State.rxOk_mem (s : State) (k : RocePkt) : (s.rxOk k).2.mem = s.mem := by simp [State.rxOk]

@[simp] theorem State.ecn_mem (s : State) (k : RocePkt) : (s.ecn k).mem = s.mem := by simp [State.ecn]

@[simp] theorem State.request_pkt_memOk (s : State) (k : RocePkt) (n : Nat) (write : Bool) (f : State → State) (h : memWf s.mem)
    (hf : ∀ u, memWf u.mem → memWf (f u).mem) : memWf (s.request_ k n write f).mem := by
  simp only [State.request_]
  repeat' split
  all_goals simp [*]

@[simp] theorem State.goBack_mem (s : State) (n psn : Nat) : (s.goBack n psn).mem = s.mem := by simp [State.goBack]

@[simp] theorem State.sendWaiting_mem (s : State) (p : Nat) :
    (s.sendWaiting p).mem = s.mem := by simp [State.sendWaiting]

@[simp] theorem State.portQps_memOk (s : State) (p : Nat) (h : memWf s.mem) :
    memWf (s.portQps p).mem := by simp +contextual [State.portQps, h]

@[simp] theorem State.feDown_mem (s : State) (p : Nat) : (s.feDown p).mem = s.mem := by simp [State.feDown]

@[simp] theorem State.feEnable_memOk (s : State) (p : Nat) (v : Bool) (h : memWf s.mem) :
    memWf (s.feEnable p v).mem := by simp [State.feEnable, h]

@[simp] theorem State.issueReads_mem (s : State) : s.issueReads.mem = s.mem := by simp [State.issueReads]

@[simp] theorem State.intakeSettle_mem (s : State) (t : Nat) :
    (s.intakeSettle t).mem = s.mem := by simp [State.intakeSettle]

@[simp] theorem State.budgetCheck_mem (s : State) : s.budgetCheck.mem = s.mem := by simp [State.budgetCheck]

@[simp] theorem State.penInputSample_mem (s : State) (i : Nat) (answered : Bool) :
    (s.penInputSample i answered).mem = s.mem := by
  simp only [State.penInputSample]
  repeat' split
  all_goals simp

@[simp] theorem State.penScore_mem (s : State) : s.penScore.mem = s.mem := mem_of_eq rfl

@[simp] theorem State.ask_mem (s : State) (dst op arg : Nat) (body : List Byte) (want : MgmtWant) (at_ left : Nat) :
    (s.ask dst op arg body want at_ left).mem = s.mem := mem_of_eq rfl

@[simp] theorem State.askPartner_mem (s : State) (phys : Nat) (restore : Bool) :
    (s.askPartner phys restore).mem = s.mem := by
  unfold State.askPartner
  exact foldl_mem _ (fun u x => State.ask_mem ..) _ _

@[simp] theorem State.storeRead_mem (s : State) (remote len key : Nat) :
    (s.storeRead remote len key).mem = s.mem := by simp [State.storeRead]

@[simp] theorem State.seekStorage_memOk (s : State) (h : memWf s.mem) : memWf s.seekStorage.mem := by
  simp only [State.seekStorage]
  repeat' split
  all_goals simp [h]

@[simp] theorem State.seek_memOk (s : State) (h : memWf s.mem) : memWf s.seek.mem := by
  simp only [State.seek]
  repeat' split
  all_goals simp [h]

@[simp] theorem State.holdReq_memOk (s : State) (h : memWf s.mem) : memWf s.holdReq.mem := by simp [State.holdReq, h]

@[simp] theorem State.restoreReq_memOk (s : State) (h : memWf s.mem) :
    memWf s.restoreReq.mem := by simp [State.restoreReq, h]

@[simp] theorem State.slotData_memOk (s : State) (n : Nat) (h : memWf s.mem) :
    memWf (s.slotData n).2.mem := by simp [State.slotData, h]

@[simp] theorem State.drainStore_memOk (s : State) (n no : Nat) (h : memWf s.mem) :
    memWf (s.drainStore n no).mem := by simp [State.drainStore, h]

@[simp] theorem State.drainFrames_memOk (s : State) (phys addr n : Nat) (h : memWf s.mem) :
    memWf (s.drainFrames phys addr n).mem := by simp [State.drainFrames, h]

@[simp] theorem State.drainPartner_mem (s : State) : s.drainPartner.mem = s.mem := by
  simp only [State.drainPartner]
  repeat' split
  all_goals simp

@[simp] theorem State.drainBegin_memOk (s : State) (n no : Nat) (h : memWf s.mem) :
    memWf (s.drainBegin n no).mem := by simp [State.drainBegin, h]

@[simp] theorem State.partnerLost_memOk (s : State) (h : memWf s.mem) : memWf s.partnerLost.mem := by
  simp only [State.partnerLost]
  repeat' split
  all_goals simp [h]

@[simp] theorem State.partnerReply_memOk (s : State) (reg : Nat) (v : Word) (h : memWf s.mem) :
    memWf (s.partnerReply reg v).mem := by
  simp only [State.partnerReply]
  repeat' split
  all_goals simp [h]

@[simp] theorem State.snapBegin_memOk (s : State) (i : Image) (h : memWf s.mem) : memWf (s.snapBegin i).mem := by
  unfold State.snapBegin
  extract_lets n u body v r
  have hu : memWf u.mem := by simp only [u]; split <;> simp [h]
  have hr : memWf r.1.mem := by
    refine foldl_fst_memOk _ (fun w x hw => ?_) _ _ (State.modWrite_memOk _ _ _ hu)
    dsimp only
    split
    · exact hw
    · simp [hw]
  simpa using hr

@[simp] theorem State.restoreRefuse_memOk (s : State) (event : Bool) (h : memWf s.mem) :
    memWf (s.restoreRefuse event).mem := by simp [State.restoreRefuse, h]

@[simp] theorem State.restoreBegin_memOk (s : State) (h : memWf s.mem) : memWf s.restoreBegin.mem := by
  simp only [State.restoreBegin]
  repeat' split
  all_goals simp [h]

@[simp] theorem State.restoreData_memOk (s : State) (c : Cand) (h : memWf s.mem) :
    memWf (s.restoreData c).2.mem := by simp [State.restoreData, h]

@[simp] theorem State.restoreFrom_memOk (s : State) (i : Image) (d : List PByte) (fa : Nat) (h : memWf s.mem) :
    memWf (s.restoreFrom i d fa).mem := by
  have hp : memWf (s.payloadCopy i).mem := State.payloadCopy_memOk _ _ h
  unfold State.restoreFrom
  extract_lets hd step armed u v w x y z a b c e
  have hu : memWf u.mem := by simp only [u]; split <;> simp [h, hp]
  have hv : memWf v.mem := by simp only [v]; split <;> simp [hu]
  have hw : memWf w.mem := by simpa [w] using hv
  have hy : memWf y.mem := foldl_fst_memOk _ (fun a b ha => State.modWrite_memOk _ _ _ ha) _ _ hw
  have ha : memWf a.mem := by simpa [a, z] using hy
  have hb : memWf b.mem := by simp only [b]; split <;> simp [ha]
  have hc : memWf c.mem := (congrArg memWf (foldl_mem _ (fun _ _ => State.modTile_mem ..) _ _)).trans hb
  exact State.bringUp_memOk _ _ _ _ _ _ hc

@[simp] theorem State.remeasure_mem (s : State) (t f : Nat) :
    (s.remeasure t f).mem = s.mem := by simp [State.remeasure]

@[simp] theorem State.requalSensor_mem (s : State) (n : Nat) :
    (s.requalSensor n).mem = s.mem := by simp [State.requalSensor]

@[simp] theorem State.requalLane_mem (s : State) (k lane : Nat) :
    (s.requalLane k lane).mem = s.mem := by simp [State.requalLane]

@[simp] theorem State.holdWork_mem (s : State) (w : HoldWork) : (s.holdWork w).mem = s.mem := by
  simp only [State.holdWork]
  split <;> simp

@[simp] theorem State.lateTile_mem (s : State) (t : Nat) : (s.lateTile t).mem = s.mem := by simp [State.lateTile]

@[simp] theorem State.boundaryTiles_mem (s : State) (j : Nat) : (s.boundaryTiles j).mem = s.mem := by
  unfold State.boundaryTiles
  extract_lets late u v
  have hv : v.mem = s.mem := by simp only [v, u]; split <;> simp
  refine (foldl_mem _ (fun x t => ?_) _ _).trans hv
  repeat' split
  all_goals simp

@[simp] theorem State.thrashCheck_mem (s : State) : s.thrashCheck.mem = s.mem := by simp [State.thrashCheck]

@[simp] theorem State.dropEntries_mem (s : State) (k : Nat) : (s.dropEntries k).mem = s.mem := mem_of_eq rfl

@[simp] theorem State.admitUnits_mem (s : State) : s.admitUnits.mem = s.mem := by simp [State.admitUnits]

@[simp] theorem State.boundaryPorts_mem (s : State) : s.boundaryPorts.mem = s.mem := by simp [State.boundaryPorts]

@[simp] theorem State.boundarySpot_mem (s : State) (j : Nat) : (s.boundarySpot j).mem = s.mem := mem_of_eq rfl

@[simp] theorem State.softDrops_mem (s : State) : s.softDrops.mem = s.mem := by simp [State.softDrops]

@[simp] theorem State.writeDone_memOk (s : State) (step base n : Nat) (h : memWf s.mem) :
    memWf (s.writeDone step base n).mem := by
  unfold State.writeDone
  split
  · exact h
  · refine State.modWrite_memOk _ _ _ (State.modWrite_memOk _ _ _ ?_)
    exact foldl_memOk _ (fun u l hu => State.cleanLine_memOk u l hu) _ _ h

@[simp] theorem State.controlTemp_mem (s : State) (t : Nat → ℤ) (n : Nat) (halo : Option ℤ) :
    (s.controlTemp t n halo).2.mem = s.mem := by
  simp only [State.controlTemp]
  repeat' split
  all_goals simp

@[simp] theorem State.senseAll_mem (s : State) (x : ThermalSample) :
    (s.senseAll x).mem = s.mem := by simp [State.senseAll]

@[simp] theorem State.suspectSensor_mem (s : State) (n : Nat) : (s.suspectSensor n).mem = s.mem := mem_of_eq rfl

@[simp] theorem State.suspectCheck_mem (s : State) : s.suspectCheck.mem = s.mem := by
  unfold State.suspectCheck
  refine foldl_mem _ (fun u n => ?_) _ _
  repeat' split
  all_goals simp

@[simp] theorem State.lostCheck_mem (s : State) : s.lostCheck.mem = s.mem := by simp [State.lostCheck]

@[simp] theorem State.capStep_mem (s : State) : s.capStep.mem = s.mem := by simp [State.capStep]

@[simp] theorem State.heatDusk_mem (s : State) : s.heatDusk.mem = s.mem := by simp [State.heatDusk]

@[simp] theorem State.coolant_mem (s : State) (x : ThermalSample) :
    (s.coolant x).mem = s.mem := by simp [State.coolant]

@[simp] theorem State.thermRegs_mem (s : State) : s.thermRegs.mem = s.mem := mem_of_eq rfl

@[simp] theorem State.bootStep_mem (s : State) (ms n bound extra : Nat) :
    (s.bootStep ms n bound extra).1.mem = s.mem := mem_of_eq rfl

@[simp] theorem State.bootHalt_mem (s : State) (step : Nat) :
    (s.bootHalt step).mem = s.mem := by simp [State.bootHalt]

theorem State.selectSlot_mem {s t : State} (h : s.selectSlot = some t) : t.mem = s.mem := by
  simp only [State.selectSlot] at h
  split at h
  · cases h; rfl
  · split at h
    · cases h; simp
    · cases h

@[simp] theorem State.enterRecovery_mem (s : State) : s.enterRecovery.mem = s.mem := mem_of_eq rfl

@[simp] theorem State.boot1_mem (s : State) : s.boot1.mem = s.mem := mem_of_eq rfl

@[simp] theorem State.boot2_mem (s : State) (e : BootEnv) : (s.boot2 e).mem = s.mem := by simp [State.boot2]

@[simp] theorem State.boot3_mem (s : State) (e : BootEnv) : (s.boot3 e).mem = s.mem := by simp [State.boot3]

@[simp] theorem State.boot4_mem (s : State) : s.boot4.mem = s.mem := by
  simp only [State.boot4]
  split <;> simp

@[simp] theorem State.boot6_mem (s : State) : s.boot6.mem = s.mem := by simp [State.boot6]

@[simp] theorem State.portModes_mem (s : State) : s.portModes.mem = s.mem := by simp [State.portModes]

@[simp] theorem State.boot7_mem (s : State) (e : BootEnv) : (s.boot7 e).mem = s.mem := by simp [State.boot7]

@[simp] theorem State.bootRest_mem (s : State) (e : BootEnv) (ms late : Nat) :
    (s.bootRest e ms late).mem = s.mem := by simp [State.bootRest]

@[simp] theorem State.powerOn_memOk (s : State) (e : BootEnv) (h : memWf s.mem) : memWf (s.powerOn e).mem := by
  have hc : memWf (s.cold.boot1.bootStep 0 1 10 0).1.mem := by simpa using s.cold_memOk h
  simp only [State.powerOn]
  split
  · simpa using h
  · split
    · simpa using hc
    · split
      next u hu => simpa [State.selectSlot_mem hu] using hc
      · simpa using hc

@[simp] theorem State.agClear_mem (s : State) (slot : Nat) : (s.agClear slot).mem = s.mem := by simp [State.agClear]

@[simp] theorem State.quoteReq_mem (s : State) (kind : Nat) : (s.quoteReq kind).mem = s.mem := mem_of_eq rfl

@[simp] theorem State.closeWhere_mem (s : State) (p : Sess → Bool) : (s.closeWhere p).mem = s.mem := mem_of_eq rfl

@[simp] theorem State.enroll_mem (s : State) (slot : Nat) (key : List Byte) (roles : Nat) :
    (s.enroll slot key roles).mem = s.mem := mem_of_eq rfl

@[simp] theorem State.revoke_mem (s : State) (slot : Nat) : (s.revoke slot).mem = s.mem := mem_of_eq rfl

@[simp] theorem State.keyWin_mem (s : State) (v : Nat) : (s.keyWin v).2.mem = s.mem := by simp [State.keyWin]

@[simp] theorem State.freshSid_mem (s : State) : s.freshSid.2.mem = s.mem := mem_of_eq rfl

@[simp] theorem State.replySess_mem (s : State) (x : Sess) (ctr status : Nat) (value : List Byte) :
    (s.replySess x ctr status value).mem = s.mem := mem_of_eq rfl

@[simp] theorem State.sessEntry_mem (s : State) (x : Option Sess) (code status : Nat) (msg : List Byte) (arg : Option Nat) :
    (s.sessEntry x code status msg arg).2.mem = s.mem := mem_of_eq rfl

@[simp] theorem State.discardCmd_mem (s : State) (sid ctr code : Nat) (x : Option Sess) (msg : List Byte) :
    (s.discardCmd sid ctr code x msg).mem = s.mem := by simp [State.discardCmd]

theorem State.sessCmd_memOk (s : State) (sid ctr code : Nat) (fields : List (List Byte)) (tag : List Byte)
    (arg : Option Nat) (mayRun : Role → Bool) (act : Sess → Nat → State → Nat × List Byte × State) (h : memWf s.mem)
    (hact : ∀ x n u, memWf u.mem → memWf (act x n u).2.2.mem) :
    memWf (s.sessCmd sid ctr code fields tag arg mayRun act).mem := by
  simp only [State.sessCmd]
  repeat' split
  all_goals simp [*]

@[simp] theorem State.delayWord_mem (s : State) (k off : Nat) :
    (s.delayWord k off).2.mem = s.mem := by simp [State.delayWord, forN]

@[simp] theorem State.regLook_mem (s : State) (page off : Nat) :
    (s.regLook page off).2.mem = s.mem := by simp [State.regLook]

@[simp] theorem State.readReg_mem (s : State) (src page off : Nat) : (s.readReg src page off).2.mem = s.mem := by
  simp only [State.readReg]
  repeat' split
  all_goals simp

@[simp] theorem State.chkMissed_mem (s : State) (page : Nat) (b : Bool) :
    (s.chkMissed page b).mem = s.mem := mem_of_eq rfl

/-- As in the layer of the firmware, the lookups stand as variables, which the kernel does not evaluate. -/

@[simp] theorem State.rawSlice_mem (s : State) (k : Nat) (write : Bool) : (s.rawSlice k write).mem = s.mem := by
  suffices h : ∀ f, f = State.rawSlice → (f s k write).mem = s.mem from h _ rfl
  delta State.rawSlice
  generalize State.chkWord = found
  generalize Slice.find = find
  rintro _ rfl
  beta_reduce
  generalize found s k = o
  have h := s.chkMissed_mem (slicePage k) false
  cases o with
  | none => exact State.chkMissed_mem ..
  | some e =>
    cases write with
    | false => exact (State.wrN_mem ..).trans ((State.wr64_mem ..).trans h)
    | true =>
      generalize hl : find (((s.chkMissed (slicePage k) false).flushSegment k (e.1.line * 4 + e.2 / 8)).slice k) e.1.line = l
      cases l <;> simp [hl]

/-- The lookup stands as a variable, which the kernel does not evaluate. -/

@[simp] theorem State.rawStack_memOk (s : State) (k : Nat) (write : Bool) (h : memWf s.mem) :
    memWf (s.rawStack k write).mem := by
  suffices h : ∀ f, f = State.rawStack → memWf (f s k write).mem from h _ rfl
  delta State.rawStack
  generalize State.chkGranule = found
  rintro _ rfl
  beta_reduce
  generalize found s k = o
  have hm (b : Bool) : memWf (s.chkMissed (stackPage k) b).mem := by simpa using h
  cases o with
  | none => exact hm true
  | some g =>
    cases write with
    | false =>
      have he : (forN 16 (s.chkMissed (stackPage k) false) fun u i =>
          u.wrN (stackPage k) (0x240 + 4 * i) (fieldAt ((s.chkMissed (stackPage k) false).granule g) (4 * i) 4)).mem =
            (s.chkMissed (stackPage k) false).mem := foldl_mem _ (fun _ _ => State.wrN_mem ..) _ _
      exact (congrArg memWf ((State.wr64_mem ..).trans he)).trans (hm false)
    | true => exact (congrArg memWf (State.setEcc_mem ..)).trans (State.setBytes_memOk _ _ _ (hm false))

@[simp] theorem State.rawCmd_memOk (s : State) (page v : Nat) (h : memWf s.mem) :
    memWf (s.rawCmd page v).mem := by simp [State.rawCmd, h]

@[simp] theorem State.setChecker_mem (s : State) (page : Nat) (v : Bool) :
    (s.setChecker page v).mem = s.mem := by simp [State.setChecker]

@[simp] theorem State.setHalt_mem (s : State) (t : Nat) (v : Bool) : (s.setHalt t v).mem = s.mem := mem_of_eq rfl

@[simp] theorem State.keep_mem (s : State) (page off mask v : Nat) :
    (s.keep page off mask v).mem = s.mem := mem_of_eq rfl

@[simp] theorem State.stallClear_mem (s : State) (t : Nat) : (s.stallClear t).mem = s.mem := mem_of_eq rfl

@[simp] theorem State.linkEnable_memOk (s : State) (p : Nat) (on : Bool) (h : memWf s.mem) :
    memWf (s.linkEnable p on).mem := by simp [State.linkEnable, h]

@[simp] theorem State.actTile_mem (s : State) (t off v : Nat) :
    (s.actTile t off v).mem = s.mem := by simp [State.actTile]

@[simp] theorem State.actSlice_memOk (s : State) (k off mask v : Nat) (h : memWf s.mem) :
    memWf (s.actSlice k off mask v).mem := by simp [State.actSlice, h]

@[simp] theorem State.actStack_memOk (s : State) (k off mask v : Nat) (h : memWf s.mem) :
    memWf (s.actStack k off mask v).2.mem := by simp [State.actStack, h]

@[simp] theorem State.actRay_mem (s : State) (p off mask v : Nat) :
    (s.actRay p off mask v).mem = s.mem := by simp [State.actRay]

@[simp] theorem State.actRayCom_memOk (s : State) (off mask v : Nat) (h : memWf s.mem) :
    memWf (s.actRayCom off mask v).mem := by simp [State.actRayCom, h]

@[simp] theorem State.actFe_memOk (s : State) (p off mask v : Nat) (h : memWf s.mem) :
    memWf (s.actFe p off mask v).mem := by simp [State.actFe, h]

@[simp] theorem State.actPen_memOk (s : State) (off mask v : Nat) (h : memWf s.mem) :
    memWf (s.actPen off mask v).mem := by simp [State.actPen, h]

@[simp] theorem State.actMgmt_mem (s : State) (off mask v : Nat) :
    (s.actMgmt off mask v).2.mem = s.mem := by simp [State.actMgmt]

@[simp] theorem State.actHost_memOk (s : State) (off mask v : Nat) (h : memWf s.mem) :
    memWf (s.actHost off mask v).mem := by simp [State.actHost, h]

theorem State.act_stage_memOk (s : State) (v : Nat) (h : memWf s.mem) :
    memWf (match s.stageCmd v with
      | some s => (stOk, s)
      | none => (stAccess, s)).2.mem := by
  split
  next t ht => simpa [State.stageCmd_mem ht] using h
  · exact h

theorem memOk_snd_ite {α : Type} {c : Prop} [Decidable c] {a b : α × State} (ha : c → memWf a.2.mem)
    (hb : ¬c → memWf b.2.mem) : memWf (if c then a else b).2.mem := by
  split
  · exact ha ‹_›
  · exact hb ‹_›

@[simp] theorem State.act_memOk (s : State) (o : Origin) (page off mask v : Nat) (h : memWf s.mem) :
    memWf (s.act o page off mask v).2.mem := by
  unfold State.act
  extract_lets k done
  have hd {u : State} (hu : memWf u.mem) : memWf (done u).2.mem := hu
  have hk : memWf (s.keep page off mask v).mem := by simpa using h
  have hk1 : memWf (s.keep page off 1 v).mem := by simpa using h
  have hc : memWf (s.admCmd o v).2.mem := by simpa using h
  refine memOk_snd_ite (fun _ => hd (by simpa using h)) fun _ => ?_
  refine memOk_snd_ite (fun _ => hd hk) fun _ => ?_
  refine memOk_snd_ite (fun _ => hd ?_) fun _ => ?_
  · refine foldl_memOk _ (fun u i hu => ?_) _ _ h
    split <;> simpa using hu
  refine memOk_snd_ite (fun _ => hd (by simpa using h)) fun _ => ?_
  refine memOk_snd_ite (fun _ => hd (State.actSlice_memOk _ _ _ _ _ h)) fun _ => ?_
  refine memOk_snd_ite (fun _ => State.actStack_memOk _ _ _ _ _ h) fun _ => ?_
  refine memOk_snd_ite (fun _ => hd (by simpa using h)) fun _ => ?_
  refine memOk_snd_ite (fun _ => hd (State.actRayCom_memOk _ _ _ _ h)) fun _ => ?_
  refine memOk_snd_ite (fun _ => hd (State.actFe_memOk _ _ _ _ _ h)) fun _ => ?_
  refine memOk_snd_ite (fun _ => hd (State.linkEnable_memOk _ _ _ h)) fun _ => ?_
  refine memOk_snd_ite (fun _ => memOk_snd_ite (fun _ => hd (by simpa using h)) fun _ => hd ?_) fun _ => ?_
  · split
    · simp only [State.elect_mem]
      split <;> exact hk
    · exact hk
  refine memOk_snd_ite (fun _ => hc) fun _ => ?_
  refine memOk_snd_ite (fun _ => hd ?_) fun _ => ?_
  · split <;> exact hk1
  refine memOk_snd_ite (fun _ => hd (State.actPen_memOk _ _ _ _ h)) fun _ => ?_
  refine memOk_snd_ite (fun _ => State.act_stage_memOk s v h) fun _ => ?_
  refine memOk_snd_ite (fun _ => hd (by simpa using h)) fun _ => ?_
  refine memOk_snd_ite (fun _ => hd (by simpa using h)) fun _ => ?_
  refine memOk_snd_ite (fun _ => by simpa using h) fun _ => ?_
  exact memOk_snd_ite (fun _ => hd (State.actHost_memOk _ _ _ _ h)) fun _ => hd (by simpa using h)

@[simp] theorem State.applyWrite_memOk (s : State) (o : Origin) (page off : Nat) (v : Word) (h : memWf s.mem) :
    memWf (s.applyWrite o page off v).2.mem := by simp [State.applyWrite, h]

@[simp] theorem State.accessEnd_mem (s : State) (a : Asker) (e : Option (Nat × JEnt)) (st : Nat) (value : Option Word) :
    (s.accessEnd a e st value).mem = s.mem := by
  simp only [State.accessEnd]
  repeat' split
  all_goals simp

@[simp] theorem State.unitWrite_memOk (s : State) (o : Origin) (u off : Nat) (v : Word) (lost : List Nat) (h : memWf s.mem) :
    memWf (s.unitWrite o u off v lost).2.mem := by simp +contextual [State.unitWrite, h]

@[simp] theorem State.modComps_mem (s : State) (f : List Compound → List Compound) :
    (s.modComps f).mem = s.mem := mem_of_eq rfl

@[simp] theorem State.compEnd_mem (s : State) (c : Compound) : (s.compEnd c).mem = s.mem := by
  simp only [State.compEnd]
  split <;> simp

theorem State.compAsk_memOk {s : State} (c : Compound) (l : List Nat) (f : State → Nat → State)
    (hf : ∀ u m, (f u m).mem = u.mem) (h : memWf s.mem) :
    memWf (if l.isEmpty then (s.modComps (· ++ [c])).compEnd c else l.foldl f (s.modComps (· ++ [c]))).mem := by
  split
  · simpa using h
  · rwa [foldl_mem f hf]

@[simp] theorem State.compBegin_memOk (s : State) (o : Origin) (by_ : Asker) (entry : Option (Nat × JEnt)) (u off : Nat)
    (v : Option Word) (lost : List Nat) (h : memWf s.mem) : memWf (s.compBegin o by_ entry u off v lost).mem := by
  unfold State.compBegin
  extract_lets mods counts
  have h1 : memWf s.fresh.2.mem := h
  generalize s.fresh = fr at h1 ⊢
  obtain ⟨id, s1⟩ := fr
  cases v with
  | none =>
    dsimp only
    split
    · exact State.compAsk_memOk _ _ _ (fun w m => by split <;> simp) h1
    · exact State.compAsk_memOk _ _ _ (fun w m => by split <;> simp) h1
  | some v =>
    have hw := State.unitWrite_memOk s1 o 0 off v lost h1
    dsimp only at hw ⊢
    generalize s1.unitWrite o 0 off v lost = r at hw ⊢
    split
    · exact State.compAsk_memOk _ _ _ (fun w m => by split <;> simp) h1
    · exact State.compAsk_memOk _ _ _ (fun w m => by split <;> simp) hw

@[simp] theorem State.compPart_mem (s : State) (id m : Nat) (v : Word) : (s.compPart id m v).mem = s.mem := by
  simp only [State.compPart]
  split <;> simp

@[simp] theorem State.pageFault_mem (s : State) (o : Origin) (page off : Nat) :
    (s.pageFault o page off).mem = s.mem := mem_of_eq rfl

@[simp] theorem State.writeNow_memOk (s : State) (o : Origin) (page off : Nat) (v : Word) (lost : List Nat) (h : memWf s.mem) :
    memWf (s.writeNow o page off v lost).2.mem := by simp [State.writeNow, h]

@[simp] theorem State.readNow_mem (s : State) (o : Origin) (page off : Nat) :
    (s.readNow o page off).2.2.mem = s.mem := by simp [State.readNow]

@[simp] theorem State.writeAny_memOk (s : State) (o : Origin) (by_ : Asker) (e : Option (Nat × JEnt)) (page off : Nat) (v : Word) (lost : List Nat) (h : memWf s.mem) :
    memWf (s.writeAny o by_ e page off v lost).mem := by simp [State.writeAny, h]

@[simp] theorem State.readAny_memOk (s : State) (o : Origin) (by_ : Asker) (e : Option (Nat × JEnt)) (page off : Nat) (h : memWf s.mem) :
    memWf (s.readAny o by_ e page off).mem := by simp [State.readAny, h]

@[simp] theorem State.accept_mem (s : State) (o : Origin) (page off : Nat) (v : Word) :
    (s.accept o page off v).2.2.mem = s.mem := by
  simp only [State.accept]
  repeat' split
  all_goals simp

@[simp] theorem State.order_memOk (s : State) (o : Origin) (page off : Nat) (v : Word) (h : memWf s.mem) :
    memWf (s.order o page off v).mem := by simp [State.order, h]

@[simp] theorem State.sameCycle_memOk (s : State) (ws : List RegOrder) (h : memWf s.mem) :
    memWf (s.sameCycle ws).mem := by
  unfold State.sameCycle
  extract_lets acc
  have hm : memWf (ws.foldl acc ([], s)).2.mem :=
    foldl_snd_memOk acc (fun x w hx => (congrArg memWf (State.accept_mem ..)).trans hx) ws ([], s) h
  generalize ws.foldl acc ([], s) = p at hm ⊢
  obtain ⟨l, u⟩ := p
  refine foldl_memOk _ (fun v x hv => ?_) _ _ hm
  dsimp only
  have hw : memWf ((v.raiseIf (!(u.lostAt ws x.1).isEmpty && classOfOrigin x.1.origin == 4) hostPage 4).writeAny x.1.origin
      x.2.1 x.2.2 x.1.page x.1.off x.1.value (u.lostAt ws x.1)).mem := State.writeAny_memOk _ _ _ _ _ _ _ _ (by simpa using hv)
  split
  · rwa [State.jLink_mem]
  · exact hw

@[simp] theorem State.relayed_memOk (s : State) (m : MgmtMsg) (op : Nat) (d : List Byte) (f : Option (Nat × JEnt) → State → State)
    (h : memWf s.mem) (hf : ∀ e u, memWf u.mem → memWf (f e u).mem) : memWf (s.relayed m op d f).mem := by
  simp only [State.relayed]
  split <;> simp [*]

@[simp] theorem State.dropReq_mem (s : State) (tag : Nat) : (s.dropReq tag).mem = s.mem := mem_of_eq rfl

@[simp] theorem State.fetched_mem (s : State) (q : MgmtReq) (n : Nat) :
    (s.fetched q n).2.mem = s.mem := by simp [State.fetched]

@[simp] theorem State.headsIn_memOk (s : State) (h : memWf s.mem) : memWf s.headsIn.mem := by simp [State.headsIn, h]

@[simp] theorem State.control_memOk (s : State) (o : Origin) (page i : Nat) (v : Bool) (h : memWf s.mem) :
    memWf (s.control o page i v).mem := by simp [State.control, h]

@[simp] theorem State.captured_mem (s : State) (w : Word) : (s.captured w).2.mem = s.mem := by simp [State.captured]

@[simp] theorem State.tick_mem (s : State) : s.tick.mem = s.mem := by simp [State.tick]

@[simp] theorem State.withFetchWord_mem (s : State) (nbits w : Nat) :
    (s.withFetchWord nbits w).mem = s.mem := mem_of_eq rfl

end Sys2Proof.Machine
end

section
/-!
PROOF. Every step keeps memory in its canonical form. A lemma for each command whose effect takes cases; the
others follow from the layer of the operations.
-/
namespace Sys2Proof.Machine

/-- A command whose next state keeps memory in its canonical form. -/
def KeepsForm (o : Host.Outcome State Fault Refusal) : Prop := ∀ t, o = .next t → memWf t.mem = true

section
variable {s : State} {f : State → State}

theorem runOn_keepsForm (h : memWf s.mem) (hf : memWf (f s).mem) : KeepsForm (runOn s f) := by
  rintro t ⟨⟩
  split
  · exact h
  · exact finish_memOk _ _ hf

theorem runPart_keepsForm {ok : Bool} (h : memWf s.mem) (hf : memWf (f s).mem) : KeepsForm (runPart ok s f) := by
  cases ok
  · rintro t ⟨⟩
  · exact runOn_keepsForm h hf

theorem tileRun_keepsForm {t : Nat} (h : memWf s.mem) (hf : memWf (f s).mem) : KeepsForm (tileRun t s f) :=
  runPart_keepsForm h (State.awake_memOk _ _ h hf)

theorem instrRun_keepsForm {fits : Bool} {t : Nat} (h : memWf s.mem) (hf : memWf (f s).mem) :
    KeepsForm (instrRun fits t s f) := by
  refine tileRun_keepsForm h ?_
  split
  · exact hf
  · exact h

end

theorem vopRun_keepsForm (t : Nat) (w : BitVec 128) (sub : Nat) (s : State) (f : Tile → Tile) (h : memWf s.mem) :
    KeepsForm (vopRun t w sub s f) :=
  instrRun_keepsForm h (State.issue_memOk _ _ _ _ _ h fun u hu => (congrArg memWf (State.modTile_mem ..)).trans hu)

theorem execGiveTile_keepsForm (t : Nat) (w : BitVec 128) (s : State) (h : memWf s.mem) : KeepsForm (execGiveTile t w s) :=
  instrRun_keepsForm h (State.issue_memOk _ _ _ _ _ h fun u hu => State.giveOnce_memOk _ _ _ hu fun x hx => by
    split <;> simpa using hx)

theorem execDma_keepsForm (t : Nat) (w : BitVec 128) (s : State) (h : memWf s.mem) : KeepsForm (execDma t w s) := by
  unfold execDma
  refine instrRun_keepsForm h (State.issue_memOk _ _ _ _ _ h fun u hu => ?_)
  dsimp only
  split
  · exact hu
  · split <;> simpa using hu

theorem execGsend_keepsForm (t : Nat) (w : BitVec 128) (s : State) (h : memWf s.mem) : KeepsForm (execGsend t w s) := by
  unfold execGsend
  refine instrRun_keepsForm h (State.issue_memOk _ _ _ _ _ h fun u hu => ?_)
  dsimp only
  split
  · simpa using hu
  · split <;> simpa using hu

theorem execGrecv_keepsForm (t : Nat) (w : BitVec 128) (s : State) (h : memWf s.mem) : KeepsForm (execGrecv t w s) := by
  unfold execGrecv
  refine instrRun_keepsForm h (State.issue_memOk _ _ _ _ _ h fun u hu => ?_)
  dsimp only
  split
  · simpa using hu
  · split <;> simpa using hu

theorem execMirrorTaskComplete_keepsForm (t : Nat) (s : State) (h : memWf s.mem) :
    KeepsForm (execMirrorTaskComplete t s) := by
  unfold execMirrorTaskComplete
  refine tileRun_keepsForm h ?_
  dsimp only
  split
  · exact h
  · split
    · split <;> simpa using h
    · refine foldl_memOk _ (fun u x hu => ?_) _ _ (by split <;> simpa using h)
      split
      · simpa using hu
      · rw [State.modTile_mem]
        exact State.devWrite_memOk _ _ _ _ _ hu

theorem execRescaleDecision_keepsForm (t acc : Nat) (s : State) (h : memWf s.mem) :
    KeepsForm (execRescaleDecision t acc s) := by
  unfold execRescaleDecision
  refine tileRun_keepsForm h ?_
  dsimp only
  split <;> simp [h]

theorem execRescaleRetry_keepsForm (t acc : Nat) (s : State) (h : memWf s.mem) :
    KeepsForm (execRescaleRetry t acc s) := by
  unfold execRescaleRetry
  refine tileRun_keepsForm h ?_
  dsimp only
  repeat' split
  all_goals simp [h]

theorem execTransferLanded_keepsForm (id : Nat) (s : State) (h : memWf s.mem) :
    KeepsForm (execTransferLanded id s) := by
  unfold execTransferLanded
  refine runOn_keepsForm h ?_
  dsimp only
  repeat' split
  all_goals simp [h]

theorem execMailboxArrival_keepsForm (id : Nat) (s : State) (h : memWf s.mem) :
    KeepsForm (execMailboxArrival id s) := by
  unfold execMailboxArrival
  refine runOn_keepsForm h ?_
  dsimp only
  split <;> simp [h]

theorem execReadCacheFill_keepsForm (t line : Nat) (s : State) (h : memWf s.mem) :
    KeepsForm (execReadCacheFill t line s) := by
  unfold execReadCacheFill
  refine runPart_keepsForm h ?_
  dsimp only
  split <;> simp [h]

theorem execPrefetchCheck_keepsForm (t slot : Nat) (s : State) (h : memWf s.mem) :
    KeepsForm (execPrefetchCheck t slot s) := by
  unfold execPrefetchCheck
  refine runPart_keepsForm h (State.awake_memOk _ _ h ?_)
  split
  · exact h
  · split
    · simpa using h
    · rw [State.modTile_mem]
      refine foldl_snd_memOk _ (fun u k hu => ?_) _ _ h
      dsimp only
      split
      · exact State.refetch_memOk _ _ _ _ _ hu
      · exact hu

theorem execSpectrumFlush_keepsForm (t tensor : Nat) (s : State) (h : memWf s.mem) :
    KeepsForm (execSpectrumFlush t tensor s) := by
  unfold execSpectrumFlush
  refine tileRun_keepsForm h ?_
  split
  · exact h
  · split
    · simpa using h
    next u hu => exact State.hdrFlush_memOk _ (by simpa using State.specFlush_memOk hu h)

theorem execDoneStepWrite_keepsForm (s : State) (h : memWf s.mem) : KeepsForm (execDoneStepWrite s) := by
  unfold execDoneStepWrite
  refine runOn_keepsForm h ?_
  dsimp only
  split <;> simp [h]

theorem execMasterLost_keepsForm (s : State) (h : memWf s.mem) : KeepsForm (execMasterLost s) := by
  unfold execMasterLost
  refine runOn_keepsForm h ?_
  dsimp only
  split <;> simp [h]

theorem execFrameBoundary_keepsForm (s : State) (h : memWf s.mem) : KeepsForm (execFrameBoundary s) := by
  unfold execFrameBoundary
  refine runOn_keepsForm h ?_
  dsimp only
  split <;> simp [h]

/-- The check of the image is made a variable first: the kernel would evaluate it to compare the cases. -/
theorem execCheckDone_keepsForm (found : Option (Nat × Nat × Nat)) (s : State) (h : memWf s.mem) :
    KeepsForm (execCheckDone found s) := by
  unfold execCheckDone
  obtain ⟨check, hcheck⟩ : ∃ check, check = State.checkImage := ⟨_, rfl⟩
  rw [← hcheck]
  clear hcheck
  refine runOn_keepsForm h ?_
  dsimp only
  split
  · exact h
  · split <;> simpa using h

theorem execImageActivation_keepsForm (s : State) (h : memWf s.mem) : KeepsForm (execImageActivation s) := by
  unfold execImageActivation
  refine runOn_keepsForm h ?_
  dsimp only
  cases s.adm.img with
  | none => exact h
  | some i =>
    have hs : memWf ((s.payloadCopy i).spectrumReset i).mem := by simp [h]
    dsimp only
    refine memOk_ite (fun _ => h) fun _ => ?_
    rw [mem_ite, State.noteFrame_mem, State.resetTokens_mem, State.wrN_mem, State.wrN_mem, State.modFr_mem, State.modGn_mem,
      ite_self]
    refine State.bringUp_memOk _ _ _ _ _ _ ?_
    generalize (s.payloadCopy i).spectrumReset i = u at hs ⊢
    repeat' split
    all_goals simpa using hs

theorem execMgmtReplyTimeout_keepsForm (tag : Nat) (s : State) (h : memWf s.mem) :
    KeepsForm (execMgmtReplyTimeout tag s) := by
  unfold execMgmtReplyTimeout
  refine runOn_keepsForm h ?_
  split
  · exact h
  · split
    · split <;> simp [h]
    all_goals simp [h]

theorem execStepClose_keepsForm (s : State) (h : memWf s.mem) : KeepsForm (execStepClose s) := by
  unfold execStepClose
  refine runOn_keepsForm h ?_
  dsimp only
  split <;> simp [h]

theorem execCommit_keepsForm (m : StepMsg) (s : State) (h : memWf s.mem) : KeepsForm (execCommit m s) := by
  unfold execCommit
  refine runOn_keepsForm h ?_
  dsimp only
  split
  · exact h
  next u hu => simpa [State.takeVerdict_mem hu] using h

theorem execDiscard_keepsForm (m : StepMsg) (s : State) (h : memWf s.mem) : KeepsForm (execDiscard m s) := by
  unfold execDiscard
  refine runOn_keepsForm h ?_
  dsimp only
  split
  · exact h
  next u hu => simpa [State.takeVerdict_mem hu] using h

theorem execRollback_keepsForm (m : StepMsg) (s : State) (h : memWf s.mem) : KeepsForm (execRollback m s) := by
  unfold execRollback
  refine runOn_keepsForm h ?_
  dsimp only
  split
  · exact h
  next u ho =>
    have hu : u.mem = s.mem := by
      split at ho
      · split at ho
        · split at ho
          · cases ho; rfl
          · cases ho
        · obtain ⟨p, -, rfl⟩ := Option.map_eq_some_iff.1 ho
          simp
      · exact State.takeVerdict_mem ho
    simp [hu, h]

theorem execCommitRepair_keepsForm (m : StepMsg) (s : State) (h : memWf s.mem) : KeepsForm (execCommitRepair m s) := by
  unfold execCommitRepair
  refine runOn_keepsForm h ?_
  dsimp only
  split
  · exact h
  next u hu => simpa [State.takeVerdict_mem hu] using h

theorem execUndoDone_keepsForm (s : State) (h : memWf s.mem) : KeepsForm (execUndoDone s) := by
  unfold execUndoDone
  refine runOn_keepsForm h ?_
  dsimp only
  split <;> simp [h]

theorem execResume_keepsForm (step : Nat) (s : State) (h : memWf s.mem) : KeepsForm (execResume step s) := by
  unfold execResume
  refine runOn_keepsForm h ?_
  dsimp only
  split
  · exact h
  · split
    · exact h
    next u ho =>
      have hu : u.mem = s.mem := by
        split at ho
        · split at ho
          · cases ho; rfl
          · cases ho
        · obtain ⟨p, -, rfl⟩ := Option.map_eq_some_iff.1 ho
          simp
      refine State.forSites_memOk _ _ ?_ fun x t hx => ?_
      · split <;> simp [hu, h]
      · split <;> simp [hx]

theorem execLineFill_keepsForm (line : Nat) (s : State) (h : memWf s.mem) : KeepsForm (execLineFill line s) := by
  unfold execLineFill
  refine runOn_keepsForm h ?_
  split
  · exact h
  · split
    · exact h
    · split
      · exact h
      · exact State.release_memOk _ _ (State.fillAnswer_memOk _ _ _ h)

theorem execInvalidationAck_keepsForm (line : Nat) (s : State) (h : memWf s.mem) :
    KeepsForm (execInvalidationAck line s) := by
  unfold execInvalidationAck
  refine runOn_keepsForm h ?_
  dsimp only
  split
  · exact h
  · split
    · exact h
    · refine foldl_memOk _ (fun u x hu => State.request_memOk _ _ hu) _ _ ?_
      repeat' split
      all_goals simp [h]

theorem execMergeWriteback_keepsForm (k seg : Nat) (s : State) (h : memWf s.mem) :
    KeepsForm (execMergeWriteback k seg s) := by
  unfold execMergeWriteback
  refine runPart_keepsForm h (State.awake_memOk _ _ h ?_)
  repeat' split
  all_goals simp [h]

theorem execRecodeDone_keepsForm (k : Nat) (s : State) (h : memWf s.mem) : KeepsForm (execRecodeDone k s) := by
  unfold execRecodeDone
  refine runPart_keepsForm h (State.awake_memOk _ _ h ?_)
  repeat' split
  all_goals simp [h]

theorem execRetryResend_keepsForm (id : Nat) (s : State) (h : memWf s.mem) : KeepsForm (execRetryResend id s) := by
  unfold execRetryResend
  refine runOn_keepsForm h ?_
  split
  · exact h
  · exact State.request_memOk _ _ h

theorem execRowSpared_keepsForm (stack : Nat) (s : State) (h : memWf s.mem) : KeepsForm (execRowSpared stack s) := by
  unfold execRowSpared
  refine runPart_keepsForm h (State.awake_memOk _ _ h ?_)
  split
  · exact h
  · refine foldl_memOk _ (fun u x hu => State.stackReq_memOk _ _ _ _ hu) _ _ ?_
    rw [State.setStack_mem]
    split <;> simp [h]

theorem execSlowTierRead_keepsForm (id : Nat) (poisoned : Bool) (s : State) (h : memWf s.mem) :
    KeepsForm (execSlowTierRead id poisoned s) := by
  unfold execSlowTierRead
  refine runOn_keepsForm h ?_
  dsimp only
  split
  · exact h
  · refine foldl_memOk _ (fun u x hu => State.rowArrives_memOk _ _ _ _ hu) _ _ ?_
    split <;> simpa using h

theorem execSlowTierWrite_keepsForm (id : Nat) (s : State) (h : memWf s.mem) :
    KeepsForm (execSlowTierWrite id s) := by
  unfold execSlowTierWrite
  refine runOn_keepsForm h ?_
  dsimp only
  split <;> simp [h]

theorem execMoveDone_keepsForm (block : Nat) (s : State) (h : memWf s.mem) : KeepsForm (execMoveDone block s) := by
  unfold execMoveDone
  refine runOn_keepsForm h (State.awake_memOk _ _ h ?_)
  repeat' split
  all_goals simp [h]

theorem execFrameTransmit_keepsForm (p : Nat) (s : State) (h : memWf s.mem) : KeepsForm (execFrameTransmit p s) := by
  unfold execFrameTransmit
  refine runPart_keepsForm h ?_
  split
  · exact h
  · extract_lets u x
    have hu : memWf u.mem := by simpa [u] using h
    split
    · simpa using hu
    · split
      · split
        · exact hu
        next i kind _ _ =>
          have hf : memWf (u.stampFrame p i.frame).2.mem := by simpa using hu
          generalize u.stampFrame p i.frame = y at hf ⊢
          obtain ⟨f, v⟩ := y
          dsimp only
          repeat' split
          all_goals simpa using hf
      · split <;> simpa using hu

theorem execIdle_keepsForm (p : Nat) (f : RayFrame) (s : State) (h : memWf s.mem) : KeepsForm (execIdle p f s) := by
  unfold execIdle
  refine runPart_keepsForm h ?_
  split
  · cases hf : (s.acceptSeq p f).1 with
    | none => simpa using h
    | some u => simpa [State.acceptSeq_fst_mem hf] using h
  · exact h

theorem execAudit_keepsForm (p : Nat) (f : RayFrame) (replayed : Bool) (s : State) (h : memWf s.mem) :
    KeepsForm (execAudit p f replayed s) := by
  unfold execAudit
  refine runPart_keepsForm h ?_
  have hk := s.acceptSeq_mem p f
  dsimp only
  split
  · exact h
  · split
    next u hu =>
      rw [hu] at hk
      exact (congrArg memWf hk).trans h
    next u v hu =>
      have hm : memWf u.mem := by simpa [State.acceptSeq_fst_mem (congrArg Prod.fst hu)] using h
      split <;> simpa using hm

theorem execCollRecordStart_keepsForm (q : Nat) (s : State) (h : memWf s.mem) :
    KeepsForm (execCollRecordStart q s) := by
  unfold execCollRecordStart
  refine runPart_keepsForm h ?_
  dsimp only
  repeat' split
  all_goals simp [h]

theorem execFpPiece_keepsForm (m : MgmtMsg) (s : State) (h : memWf s.mem) : KeepsForm (execFpPiece m s) := by
  unfold execFpPiece
  refine runOn_keepsForm h ?_
  dsimp only
  repeat' split
  all_goals simp [h]

theorem execRegReply_keepsForm (m : MgmtMsg) (s : State) (h : memWf s.mem) : KeepsForm (execRegReply m s) := by
  unfold execRegReply
  refine runOn_keepsForm h ?_
  dsimp only
  repeat' split
  all_goals simp [h]

theorem execMemData_keepsForm (m : MgmtMsg) (s : State) (h : memWf s.mem) : KeepsForm (execMemData m s) := by
  unfold execMemData
  refine runOn_keepsForm h ?_
  dsimp only
  repeat' split
  all_goals simp [h]

theorem execHostLoad_keepsForm (hart addr len : Nat) (s : State) (h : memWf s.mem) :
    KeepsForm (execHostLoad hart addr len s) := by
  unfold execHostLoad
  refine runPart_keepsForm h ?_
  dsimp only
  repeat' split
  all_goals simp [h]

theorem execHostStore_keepsForm (hart addr : Nat) (data : List Byte) (s : State) (h : memWf s.mem) :
    KeepsForm (execHostStore hart addr data s) := by
  unfold execHostStore
  refine runPart_keepsForm h ?_
  repeat' split
  all_goals simp [h]

theorem execCommandFetch_keepsForm (s : State) (h : memWf s.mem) : KeepsForm (execCommandFetch s) := by
  unfold execCommandFetch
  refine runOn_keepsForm h (State.awake_memOk _ _ h ?_)
  repeat' split
  all_goals simp [h]

theorem execWriteInline_keepsForm (seq : Nat) (s : State) (h : memWf s.mem) : KeepsForm (execWriteInline seq s) := by
  unfold execWriteInline
  refine runOn_keepsForm h ?_
  split
  · exact h
  · split
    · exact h
    · refine State.runCmd_memOk _ _ _ _ h fun c u hu => ?_
      split <;> simp [hu]

theorem execCopy_keepsForm (seq : Nat) (s : State) (h : memWf s.mem) : KeepsForm (execCopy seq s) := by
  unfold execCopy
  refine runOn_keepsForm h ?_
  dsimp only
  split
  · exact h
  · split
    · exact h
    · refine State.runCmd_memOk _ _ _ _ h fun c u hu => ?_
      split <;> simp [hu]

theorem execFlush_keepsForm (seq : Nat) (s : State) (h : memWf s.mem) : KeepsForm (execFlush seq s) := by
  unfold execFlush
  refine runOn_keepsForm h (State.awake_memOk _ _ h (State.runCmd_memOk _ _ _ _ h fun c u hu => ?_))
  split
  · rw [State.cmdDone_mem]
    exact foldl_memOk _ (fun v l hv => State.cleanLine_memOk _ _ hv) _ _ hu
  · simpa using hu

/-- The bounds of host memory stand as a variable, which the kernel does not evaluate. -/
theorem execJournalCopy_keepsForm (seq : Nat) (s : State) (h : memWf s.mem) : KeepsForm (execJournalCopy seq s) := by
  unfold execJournalCopy
  obtain ⟨inHost, hin⟩ : ∃ f, f = State.inHost := ⟨_, rfl⟩
  rw [← hin]
  clear hin
  refine runOn_keepsForm h (State.awake_memOk _ _ h (State.runCmd_memOk _ _ _ _ h fun c u hu => ?_))
  change State.memOk _
  extract_lets n
  split
  · refine (congrArg memWf (State.cmdDone_mem ..)).trans ?_
    exact foldl_memOk _ (fun v l hv => State.modWrite_memOk _ _ _ hv) _ _ hu
  · exact (congrArg memWf (State.cmdDone_mem ..)).trans hu

theorem execRdmaPost_keepsForm (seq : Nat) (s : State) (h : memWf s.mem) : KeepsForm (execRdmaPost seq s) := by
  unfold execRdmaPost
  refine runOn_keepsForm h ?_
  dsimp only
  split
  · exact h
  · split
    · exact h
    · refine State.runCmd_memOk _ _ _ _ h fun c u hu => ?_
      repeat' split
      all_goals simp [hu]

/-- The bounds of host memory stand as a variable, which the kernel does not evaluate. -/
theorem execIntakeSet_keepsForm (seq : Nat) (s : State) (h : memWf s.mem) : KeepsForm (execIntakeSet seq s) := by
  unfold execIntakeSet
  obtain ⟨inHost, hin⟩ : ∃ f, f = State.inHost := ⟨_, rfl⟩
  rw [← hin]
  clear hin
  refine runOn_keepsForm h (State.awake_memOk _ _ h (State.runCmd_memOk _ _ _ _ h fun c u hu => ?_))
  change State.memOk _
  split
  · exact (congrArg memWf (State.cmdDone_mem ..)).trans hu
  · have hr := State.modRead_memOk u (c.arg 0) 320 hu
    generalize u.modRead (c.arg 0) 320 = r at hr ⊢
    obtain ⟨d, v⟩ := r
    dsimp only
    cases v.parsePlan (d.map (·.val)) with
    | none => exact (congrArg memWf (State.cmdDone_mem ..)).trans hr
    | some p =>
      refine (congrArg memWf ((State.cmdDone_mem ..).trans ((State.setFlag_mem ..).trans (State.setFlag_mem ..)))).trans ?_
      exact (congrArg memWf ((State.modIntake_mem ..).trans (State.dropIntake_mem _))).trans hr

theorem execRdmaReadResponse_keepsForm (k : RocePkt) (s : State) (h : memWf s.mem) :
    KeepsForm (execRdmaReadResponse k s) := by
  unfold execRdmaReadResponse
  refine runPart_keepsForm h ?_
  dsimp only
  repeat' split
  all_goals simp [h]

theorem execRoceAck_keepsForm (k : RocePkt) (s : State) (h : memWf s.mem) : KeepsForm (execRoceAck k s) := by
  unfold execRoceAck
  refine runPart_keepsForm h ?_
  dsimp only
  split
  · simpa using h
  · rw [State.qpSettle_mem, State.setQp_mem]
    refine foldl_memOk _ (fun u o hu => ?_) _ _ (by simpa using h)
    split <;> simpa using hu

theorem execRetransmitTimeout_keepsForm (qpn : Nat) (s : State) (h : memWf s.mem) :
    KeepsForm (execRetransmitTimeout qpn s) := by
  unfold execRetransmitTimeout
  refine runPart_keepsForm h ?_
  dsimp only
  split <;> simp [h]

theorem execIntakeStart_keepsForm (s : State) (h : memWf s.mem) : KeepsForm (execIntakeStart s) := by
  unfold execIntakeStart
  refine runOn_keepsForm h ?_
  dsimp only
  repeat' split
  all_goals simp [h]

theorem execIntakeReadDone_keepsForm (id : Nat) (ok : Bool) (s : State) (h : memWf s.mem) :
    KeepsForm (execIntakeReadDone id ok s) := by
  unfold execIntakeReadDone
  refine runOn_keepsForm h ?_
  dsimp only
  repeat' split
  all_goals simp [h]

theorem execEndpointDma_keepsForm (p addr len : Nat) (write : Option (List Byte)) (s : State) (h : memWf s.mem) :
    KeepsForm (execEndpointDma p addr len write s) := by
  unfold execEndpointDma
  refine runPart_keepsForm h ?_
  dsimp only
  repeat' split
  all_goals simp [h]

theorem execHsLimit_keepsForm (s : State) (h : memWf s.mem) : KeepsForm (execHsLimit s) := by
  unfold execHsLimit
  exact runOn_keepsForm h (State.stop_memOk _ (finish_memOk _ _ (by simpa using h)))

theorem execDomainFault_keepsForm (d : Nat) (s : State) (h : memWf s.mem) : KeepsForm (execDomainFault d s) := by
  unfold execDomainFault
  refine runPart_keepsForm h ?_
  have hrow (u : State) : ((u.replaceRowSites (d - 1) 3).getD u.spend).mem = u.mem := by
    cases hu : u.replaceRowSites (d - 1) 3 with
    | none => exact u.spend_mem
    | some v => exact State.replaceRowSites_mem hu
  dsimp only
  repeat' split
  all_goals simp [hrow, h]

theorem execThermalSample_keepsForm (x : ThermalSample) (s : State) (h : memWf s.mem) :
    KeepsForm (execThermalSample x s) := by
  unfold execThermalSample
  refine runOn_keepsForm h ?_
  extract_lets was sensed warned hot set_ capped
  have hsensed : memWf sensed.mem := by simpa [sensed] using h
  have hwarned : memWf warned.mem := memOk_ite (fun _ => by simpa using hsensed) fun _ => hsensed
  have hhot : memWf hot.mem := memOk_ite (fun _ => by simpa using hwarned) fun _ => hwarned
  have hset : memWf set_.mem := by simpa [set_] using hhot
  have hcapped : memWf capped.mem := memOk_ite (fun _ => (congrArg memWf (State.modTherm_mem ..)).trans hset)
    fun _ => (congrArg memWf ((State.capStep_mem _).trans (State.modTherm_mem ..))).trans hset
  exact memOk_ite (fun _ => State.stop_memOk _ hcapped) fun _ => hcapped

theorem execGrantSend_keepsForm (s : State) (h : memWf s.mem) : KeepsForm (execGrantSend s) := by
  unfold execGrantSend
  refine runOn_keepsForm h ?_
  dsimp only
  repeat' split
  all_goals simp [h]

theorem execSpotlightAck_keepsForm (p : Nat) (m : SpotMsg) (s : State) (h : memWf s.mem) :
    KeepsForm (execSpotlightAck p m s) := by
  unfold execSpotlightAck
  refine runPart_keepsForm h ?_
  dsimp only
  repeat' split
  all_goals simp [h]

theorem execPenumbraSample_keepsForm (answered : List Bool) (s : State) (h : memWf s.mem) :
    KeepsForm (execPenumbraSample answered s) := by
  unfold execPenumbraSample
  refine runOn_keepsForm h (memOk_ite (fun _ => h) fun _ => ?_)
  extract_lets checked sampled noted sought
  have hc : sampled.mem = checked.mem := foldl_mem _ (fun u i => State.penInputSample_mem ..) _ _
  have hn : memWf noted.mem := (congrArg memWf (hc.trans s.budgetCheck_mem)).trans h
  have hs : memWf sought.mem := State.seek_memOk _ ((congrArg memWf (State.penScore_mem _)).trans hn)
  exact memOk_ite (fun _ => State.masterAct_memOk _ hs) fun _ => (congrArg memWf (State.penUp_mem ..)).trans hs

theorem execBoundaryHoldOrder_keepsForm (m : PenumbraMsg) (s : State) (h : memWf s.mem) :
    KeepsForm (execBoundaryHoldOrder m s) := by
  unfold execBoundaryHoldOrder
  refine runOn_keepsForm h ?_
  dsimp only
  split <;> simp [h]

theorem execHoldBegin_keepsForm (w : HoldWork) (s : State) (h : memWf s.mem) : KeepsForm (execHoldBegin w s) := by
  unfold execHoldBegin
  refine runOn_keepsForm h ?_
  split
  · exact h
  · extract_lets restore raised cleared asked left told numbered snapped worked routed
    have hnumbered : memWf numbered.mem := by
      simp only [numbered, told, asked, cleared, raised]
      repeat' split
      all_goals simpa using h
    have hsnapped : memWf snapped.mem := by
      simp only [snapped]
      repeat' split
      all_goals simp [hnumbered]
    have hworked : memWf worked.mem := (congrArg memWf (State.holdWork_mem ..)).trans hsnapped
    simp only [routed]
    repeat' split
    all_goals simp [hworked]

theorem execHoldEnd_keepsForm (s : State) (h : memWf s.mem) : KeepsForm (execHoldEnd s) := by
  unfold execHoldEnd
  refine runOn_keepsForm h ?_
  dsimp only
  split <;> simp [h]

theorem execSnapDone_keepsForm (s : State) (h : memWf s.mem) : KeepsForm (execSnapDone s) := by
  unfold execSnapDone
  refine runOn_keepsForm h ?_
  split
  next j i _ _ =>
    split
    · exact h
    · have hl : memWf (j.later.foldl (fun s x => (s.modRead x.1 x.2.2).2.modWrite x.2.1 (s.modRead x.1 x.2.2).1) s).mem :=
        foldl_memOk _ (fun u x hu => State.modWrite_memOk _ _ _ (State.modRead_memOk _ _ _ hu)) _ _ h
      extract_lets u a
      have hr := State.modRead_memOk u (a + 256) j.bytes hl
      generalize u.modRead (a + 256) j.bytes = r at hr ⊢
      obtain ⟨d, v⟩ := r
      refine State.drainBegin_memOk _ _ _ ?_
      refine (congrArg memWf ((State.raise_mem ..).trans ((State.wrN_mem ..).trans
        ((State.wrN_mem ..).trans ((State.setFlag_mem ..).trans (State.modPen_mem ..)))))).trans ?_
      exact State.modWrite_memOk _ _ _ (State.modWrite_memOk _ _ _ hr)
  · exact h

theorem execDrainDone_keepsForm (ok : Bool) (s : State) (h : memWf s.mem) : KeepsForm (execDrainDone ok s) := by
  unfold execDrainDone
  refine runOn_keepsForm h ?_
  dsimp only
  split <;> simp [h]

theorem execPark_keepsForm (s : State) (h : memWf s.mem) : KeepsForm (execPark s) := by
  unfold execPark
  refine runOn_keepsForm h ?_
  dsimp only
  repeat' split
  all_goals simp [h]

theorem execHoldTimeout_keepsForm (s : State) (h : memWf s.mem) : KeepsForm (execHoldTimeout s) := by
  unfold execHoldTimeout
  refine runOn_keepsForm h ?_
  repeat' split
  all_goals simp [h]

theorem execRestoreHold_keepsForm (m : PenumbraMsg) (s : State) (h : memWf s.mem) :
    KeepsForm (execRestoreHold m s) := by
  unfold execRestoreHold
  refine runOn_keepsForm h ?_
  dsimp only
  split <;> simp [h]

theorem execRestoreDone_keepsForm (s : State) (h : memWf s.mem) : KeepsForm (execRestoreDone s) := by
  unfold execRestoreDone
  refine runOn_keepsForm h ?_
  dsimp only
  split <;> simp [h]

theorem execSelftestDone_keepsForm (pass : Bool) (s : State) (h : memWf s.mem) : KeepsForm (execSelftestDone pass s) := by
  unfold execSelftestDone
  refine runOn_keepsForm h ?_
  have hrep (u : State) (t : Nat) : ((u.replaceSites [t] 3).getD u.spend).mem = u.mem := by
    cases hu : u.replaceSites [t] 3 with
    | none => exact u.spend_mem
    | some v => exact State.replaceSites_mem hu
  split
  · exact h
  · simp [hrep, h]

theorem execPowerOn_keepsForm (e : BootEnv) (s : State) (h : memWf s.mem) : KeepsForm (execPowerOn e s) := by
  rintro t ⟨⟩
  split
  · exact finish_memOk _ _ (State.powerOn_memOk _ _ h)
  · exact h

theorem execRecoveryBundle_keepsForm (b : List Byte) (s : State) (h : memWf s.mem) :
    KeepsForm (execRecoveryBundle b s) := by
  rintro t ⟨⟩
  have hp : memWf (s.putSlot 0 0 b).mem := by simpa using h
  split
  · exact h
  · dsimp only
    split
    · exact hp
    · refine finish_memOk _ _ ?_
      cases hv : State.selectSlot _ with
      | none => simpa using hp
      | some v => simpa [State.selectSlot_mem hv] using hp

theorem execResponse_keepsForm (hs : Nat) (ct sig : List Byte) (s : State) (h : memWf s.mem) :
    KeepsForm (execResponse hs ct sig s) := by
  unfold execResponse
  refine runOn_keepsForm h ?_
  dsimp only
  split <;> simp [h]

theorem execSessionRegRead_keepsForm (sid ctr page off : Nat) (tag : List Byte) (s : State) (h : memWf s.mem) :
    KeepsForm (execSessionRegRead sid ctr page off tag s) := by
  unfold execSessionRegRead
  refine runOn_keepsForm h (State.sessCmd_memOk _ _ _ _ _ _ _ _ _ h fun x n u hu => ?_)
  split <;> simp [hu]

theorem execSessionRegWrite_keepsForm (sid ctr page off : Nat) (v : Word) (tag : List Byte) (s : State)
    (h : memWf s.mem) : KeepsForm (execSessionRegWrite sid ctr page off v tag s) := by
  unfold execSessionRegWrite
  refine runOn_keepsForm h (State.sessCmd_memOk _ _ _ _ _ _ _ _ _ h fun x n u hu => ?_)
  split <;> simp [hu]

theorem execFwWrite_keepsForm (sid ctr off : Nat) (data tag : List Byte) (s : State) (h : memWf s.mem) :
    KeepsForm (execFwWrite sid ctr off data tag s) := by
  unfold execFwWrite
  refine runOn_keepsForm h (State.sessCmd_memOk _ _ _ _ _ _ _ _ _ h fun x n u hu => ?_)
  split <;> simpa [doneSess] using hu

theorem execQuote_keepsForm (sid ctr : Nat) (nonce tag : List Byte) (s : State) (h : memWf s.mem) :
    KeepsForm (execQuote sid ctr nonce tag s) := by
  unfold execQuote
  exact runOn_keepsForm h (State.sessCmd_memOk _ _ _ _ _ _ _ _ _ h fun x n u hu => by simpa [doneSess] using hu)

theorem execCertReadAndLogRead_keepsForm (sid ctr : Nat) (tag : List Byte) (s : State) (h : memWf s.mem) :
    KeepsForm (execCertReadAndLogRead sid ctr tag s) := by
  unfold execCertReadAndLogRead
  exact runOn_keepsForm h (State.sessCmd_memOk _ _ _ _ _ _ _ _ _ h fun x n u hu => by simpa [doneSess] using hu)

theorem execKeyEnroll_keepsForm (sid ctr slot : Nat) (key : List Byte) (roles : Nat) (tag : List Byte) (s : State) (h : memWf s.mem) :
    KeepsForm (execKeyEnroll sid ctr slot key roles tag s) := by
  unfold execKeyEnroll
  exact runOn_keepsForm h (State.sessCmd_memOk _ _ _ _ _ _ _ _ _ h fun x n u hu => by simpa [doneSess] using hu)

theorem execKeyRevoke_keepsForm (sid ctr slot : Nat) (tag : List Byte) (s : State) (h : memWf s.mem) :
    KeepsForm (execKeyRevoke sid ctr slot tag s) := by
  unfold execKeyRevoke
  exact runOn_keepsForm h (State.sessCmd_memOk _ _ _ _ _ _ _ _ _ h fun x n u hu => by simpa [doneSess] using hu)

theorem execConfigWrite_keepsForm (sid ctr : Nat) (record : List Word) (tag : List Byte) (s : State) (h : memWf s.mem) :
    KeepsForm (execConfigWrite sid ctr record tag s) := by
  unfold execConfigWrite
  exact runOn_keepsForm h (State.sessCmd_memOk _ _ _ _ _ _ _ _ _ h fun x n u hu => by simpa [doneSess] using hu)

theorem execSvnCommit_keepsForm (sid ctr : Nat) (tag : List Byte) (s : State) (h : memWf s.mem) :
    KeepsForm (execSvnCommit sid ctr tag s) := by
  unfold execSvnCommit
  exact runOn_keepsForm h (State.sessCmd_memOk _ _ _ _ _ _ _ _ _ h fun x n u hu => by simpa [doneSess] using hu)

theorem execAfterglowClear_keepsForm (sid ctr : Nat) (tag : List Byte) (s : State) (h : memWf s.mem) :
    KeepsForm (execAfterglowClear sid ctr tag s) := by
  unfold execAfterglowClear
  exact runOn_keepsForm h (State.sessCmd_memOk _ _ _ _ _ _ _ _ _ h fun x n u hu => by simpa [doneSess] using hu)

theorem execClose_keepsForm (sid ctr : Nat) (tag : List Byte) (s : State) (h : memWf s.mem) :
    KeepsForm (execClose sid ctr tag s) := by
  unfold execClose
  exact runOn_keepsForm h (State.sessCmd_memOk _ _ _ _ _ _ _ _ _ h fun x n u hu => by simpa [doneSess] using hu)

theorem execQuoteDone_keepsForm (s : State) (h : memWf s.mem) : KeepsForm (execQuoteDone s) := by
  unfold execQuoteDone
  refine runOn_keepsForm h ?_
  dsimp only
  split <;> simp [h]

theorem execKeptRecordWrite_keepsForm (ok : Bool) (s : State) (h : memWf s.mem) :
    KeepsForm (execKeptRecordWrite ok s) := by
  unfold execKeptRecordWrite
  refine runOn_keepsForm h ?_
  dsimp only
  repeat' split
  all_goals simp [h]

theorem execCapture_keepsForm (s : State) (h : memWf s.mem) : KeepsForm (execCapture s) := by
  unfold execCapture
  refine runOn_keepsForm h ?_
  dsimp only
  split <;> simp [h]

theorem execClearEraseDone_keepsForm (s : State) (h : memWf s.mem) : KeepsForm (execClearEraseDone s) := by
  unfold execClearEraseDone
  refine runOn_keepsForm h ?_
  dsimp only
  repeat' split
  all_goals simp [h]

theorem exec_keepsForm (c : Instr) {s : State} (h : memWf s.mem) : KeepsForm (exec c s) := by
  cases c
  case
    nop | frame | rpoint | waitc | mma | mmaz | accclr | cvtWiden | vld | vst | ldc | mirror | spec | specend |
        dbgHaltAction | mark =>
    rw [exec]
    exact instrRun_keepsForm h (by simp [h])
  case
    giveRemoteTile | giveCollective | accout | cvtF8f | cvtF8b | cvtF16w =>
    rw [exec]
    exact instrRun_keepsForm h (by simp +contextual [h])
  case
    illegalInstr | replayStart | pathMonitorMeasure =>
    rw [exec]
    exact tileRun_keepsForm h (by simp [h])
  case
    vopFma | vopAdd | vopMul | vopMin | vopMax | vopCmplt | vopSel | expsplit | ldexp | rsum | rmax =>
    rw [exec]
    exact vopRun_keepsForm _ _ _ _ _ h
  case
    dmaCopy | dmaReduceAdd | prism | readCacheInvalidate | rcFlush | accRowLatch | gnomonWord | gnomonWordSend |
        compoundRead | compoundWrite | stepReport | drained | specFrameRelease | mergeOff | shadeRowSpare |
        laneCrc | laneSwap | dieCmd | progressTimeout | arrayLost | arrayFillDone | patrolScrub | linkTrained |
        expanderLost | devEvent | linkEn | data | add | glint | giveFrame | bulk | frameFailedCrc | link |
        partnerBad | retrain | retrainReq | linkDown | sync | peerDead | portEn | roceNak | cnp | rateIncrease |
        fePortEn | feLinkDown | demand | grant | tokenReport | penumbraReport | ready | stallClear | dbgAccSel |
        dbgHalt | dbgResume | checker | rawRead | rawWrite | pcsLock | feLinkUp | priorityFlowControl =>
    rw [exec]
    exact runPart_keepsForm h (by simp [h])
  case
    inboundWrite | inboundReduceAdd | holdover | ppsEdge | ppsMissing | setHi | decisionPoint | check | arm |
        withdraw | end_ | jobEnd | shadeRead | shadeReadDead | shadeWriteLine | shadeWritePart | shadeAdd |
        stackRead | stackWrite | stackPartialWrite | resCmd | modmapStage | modmapWithdraw | memRead |
        evtMsiHoldoff | evtForce | lowWordRead | sqDoorbell | cqDoorbell | ringEnable | ringDisable | cmdNop |
        fenceAll | residency | qpCreate | qpDestroy | mrReg | mrDereg | intakeResume | intakeOff |
        commandComplete | hostLost | wdogKick | hostAttach | hostDetach | hostReset | jrnlData0Read |
        inputSample | brownOut | alertDark | throttleStep | learnClear | demandSend | tokenReportSend | holdReq |
        restoreReq | retireSite | retireRow | readmitSite | readmitRow | selfTest | withdrawStagedMap | hello |
        sessionIdleTimeout | fwVerify | fwActivate | fwDiscard | hostQuote | hostCert | hostMeasLog |
        keyWinCommit | closeAll | agDataRead | alertDarkNDeasserted | hartsReleased | fwVerifyDone =>
    rw [exec]
    exact runOn_keepsForm h (by simp [h])
  case
    dieResetDone | rdmaWriteRequest | rdmaReadRequest =>
    rw [exec]
    exact runPart_keepsForm h (by simp +contextual [h])
  case
    mgmtRegRead | mgmtRegWrite | registerWrite | cmdRegWrite | cmdRegRead | qpModify | duskExit =>
    rw [exec]
    exact runOn_keepsForm h (by simp +contextual [h])
  case giveTile => exact execGiveTile_keepsForm _ _ _ h
  case dma => exact execDma_keepsForm _ _ _ h
  case gsend => exact execGsend_keepsForm _ _ _ h
  case grecv => exact execGrecv_keepsForm _ _ _ h
  case mirrorTaskComplete => exact execMirrorTaskComplete_keepsForm _ _ h
  case rescaleDecision => exact execRescaleDecision_keepsForm _ _ _ h
  case rescaleRetry => exact execRescaleRetry_keepsForm _ _ _ h
  case transferLanded => exact execTransferLanded_keepsForm _ _ h
  case mailboxArrival => exact execMailboxArrival_keepsForm _ _ h
  case readCacheFill => exact execReadCacheFill_keepsForm _ _ _ h
  case prefetchCheck => exact execPrefetchCheck_keepsForm _ _ _ h
  case spectrumFlush => exact execSpectrumFlush_keepsForm _ _ _ h
  case doneStepWrite => exact execDoneStepWrite_keepsForm _ h
  case masterLost => exact execMasterLost_keepsForm _ h
  case frameBoundary => exact execFrameBoundary_keepsForm _ h
  case checkDone => exact execCheckDone_keepsForm _ _ h
  case imageActivation => exact execImageActivation_keepsForm _ h
  case mgmtReplyTimeout => exact execMgmtReplyTimeout_keepsForm _ _ h
  case stepClose => exact execStepClose_keepsForm _ h
  case commit => exact execCommit_keepsForm _ _ h
  case discard => exact execDiscard_keepsForm _ _ h
  case rollback => exact execRollback_keepsForm _ _ h
  case commitRepair => exact execCommitRepair_keepsForm _ _ h
  case undoDone => exact execUndoDone_keepsForm _ h
  case resume => exact execResume_keepsForm _ _ h
  case lineFill => exact execLineFill_keepsForm _ _ h
  case invalidationAck => exact execInvalidationAck_keepsForm _ _ h
  case mergeWriteback => exact execMergeWriteback_keepsForm _ _ _ h
  case recodeDone => exact execRecodeDone_keepsForm _ _ h
  case retryResend => exact execRetryResend_keepsForm _ _ h
  case rowSpared => exact execRowSpared_keepsForm _ _ h
  case slowTierRead => exact execSlowTierRead_keepsForm _ _ _ h
  case slowTierWrite => exact execSlowTierWrite_keepsForm _ _ h
  case moveDone => exact execMoveDone_keepsForm _ _ h
  case frameTransmit => exact execFrameTransmit_keepsForm _ _ h
  case idle => exact execIdle_keepsForm _ _ _ h
  case audit => exact execAudit_keepsForm _ _ _ _ h
  case collRecordStart => exact execCollRecordStart_keepsForm _ _ h
  case fpPiece => exact execFpPiece_keepsForm _ _ h
  case regReply => exact execRegReply_keepsForm _ _ h
  case memData => exact execMemData_keepsForm _ _ h
  case hostLoad => exact execHostLoad_keepsForm _ _ _ _ h
  case hostStore => exact execHostStore_keepsForm _ _ _ _ h
  case commandFetch => exact execCommandFetch_keepsForm _ h
  case writeInline => exact execWriteInline_keepsForm _ _ h
  case copy => exact execCopy_keepsForm _ _ h
  case flush => exact execFlush_keepsForm _ _ h
  case journalCopy => exact execJournalCopy_keepsForm _ _ h
  case rdmaPost => exact execRdmaPost_keepsForm _ _ h
  case intakeSet => exact execIntakeSet_keepsForm _ _ h
  case rdmaReadResponse => exact execRdmaReadResponse_keepsForm _ _ h
  case roceAck => exact execRoceAck_keepsForm _ _ h
  case retransmitTimeout => exact execRetransmitTimeout_keepsForm _ _ h
  case intakeStart => exact execIntakeStart_keepsForm _ h
  case intakeReadDone => exact execIntakeReadDone_keepsForm _ _ _ h
  case endpointDma => exact execEndpointDma_keepsForm _ _ _ _ _ h
  case hsLimit => exact execHsLimit_keepsForm _ h
  case domainFault => exact execDomainFault_keepsForm _ _ h
  case thermalSample => exact execThermalSample_keepsForm _ _ h
  case grantSend => exact execGrantSend_keepsForm _ h
  case spotlightAck => exact execSpotlightAck_keepsForm _ _ _ h
  case penumbraSample => exact execPenumbraSample_keepsForm _ _ h
  case boundaryHoldOrder => exact execBoundaryHoldOrder_keepsForm _ _ h
  case holdBegin => exact execHoldBegin_keepsForm _ _ h
  case holdEnd => exact execHoldEnd_keepsForm _ h
  case snapDone => exact execSnapDone_keepsForm _ h
  case drainDone => exact execDrainDone_keepsForm _ _ h
  case park => exact execPark_keepsForm _ h
  case holdTimeout => exact execHoldTimeout_keepsForm _ h
  case restoreHold => exact execRestoreHold_keepsForm _ _ h
  case restoreDone => exact execRestoreDone_keepsForm _ h
  case selftestDone => exact execSelftestDone_keepsForm _ _ h
  case powerOn => exact execPowerOn_keepsForm _ _ h
  case recoveryBundle => exact execRecoveryBundle_keepsForm _ _ h
  case response => exact execResponse_keepsForm _ _ _ _ h
  case sessionRegRead => exact execSessionRegRead_keepsForm _ _ _ _ _ _ h
  case sessionRegWrite => exact execSessionRegWrite_keepsForm _ _ _ _ _ _ _ h
  case fwWrite => exact execFwWrite_keepsForm _ _ _ _ _ _ h
  case quote => exact execQuote_keepsForm _ _ _ _ _ h
  case certReadAndLogRead => exact execCertReadAndLogRead_keepsForm _ _ _ _ h
  case keyEnroll => exact execKeyEnroll_keepsForm _ _ _ _ _ _ _ h
  case keyRevoke => exact execKeyRevoke_keepsForm _ _ _ _ _ h
  case configWrite => exact execConfigWrite_keepsForm _ _ _ _ _ h
  case svnCommit => exact execSvnCommit_keepsForm _ _ _ _ h
  case afterglowClear => exact execAfterglowClear_keepsForm _ _ _ _ h
  case close => exact execClose_keepsForm _ _ _ _ h
  case quoteDone => exact execQuoteDone_keepsForm _ h
  case keptRecordWrite => exact execKeptRecordWrite_keepsForm _ _ h
  case capture => exact execCapture_keepsForm _ h
  case clearEraseDone => exact execClearEraseDone_keepsForm _ h

theorem State.tick_memOk (s : State) (h : memWf s.mem) : memWf s.tick.mem := by
  cases ho : s.pow.off with
  | true => rwa [tick_off ho]
  | false => rw [tick_regsOnly s ho]; exact h

/-- Settles O59. A step runs a command, each of which keeps memory in its form, or lets a tick pass, which leaves memory. -/
theorem stepsKeepMemoryForm : Obligations.StepsKeepMemoryForm := by
  unfold Obligations.StepsKeepMemoryForm
  intro s t hs h
  cases hp : s.pending with
  | nil =>
    rw [step_nil hp] at h
    cases h
    exact s.tick_memOk hs
  | cons c rest =>
    rw [step_cons hp] at h
    have hrest : memWf ({ s with pending := rest } : State).mem := hs
    exact exec_keepsForm c hrest t h

end Sys2Proof.Machine
end

section
/-!
PROOF. Vector and matrix instructions: an instruction whose effect is on its tile alone (`issue_becomes`), and what each of them makes
of the tile.
-/
namespace Sys2Proof.Machine

/-! ## Instructions with an effect on the tile alone -/

/-- `issue_performs` and `tile_effect`, with the issue as the machine computes it: from the state that the instruction meets. -/
theorem issue_performs_at {s : State} {t : Nat} {w : BitVec 128} {q : State → Issue} (hc : s.CanIssue t w (q s)) {fits : Bool}
    (hw : fits = true) (f : State → State) :
    Performs (instrRun fits t s fun s => s.issue t w (q s) f) t (f (s.ready t (q s).reads (q s).writes)) := by
  rw [instrRun_congr (g := fun u => u.issue t w (q s) f) rfl]
  exact issue_performs hc hw f

theorem issue_becomes {s : State} {t : Nat} {w : BitVec 128} {q : State → Issue} (hc : s.CanIssue t w (q s))
    (hq : (q s).writes = []) {fits : Bool} (hw : fits = true) {g : Tile → Tile} (hcount : ∀ x, (g x).icount = x.icount)
    (hscratch : ∀ x, (g x).scratch = x.scratch) :
    TileIssues (instrRun fits t s fun s => s.issue t w (q s) (·.modTile t g)) s t (q s).reads g := by
  rw [instrRun_congr (g := fun u => u.issue t w (q s) (·.modTile t g)) rfl]
  exact tile_effect hc hq hw g hcount hscratch

section
variable {s : State} {t sub : Nat} {w : BitVec 128}

theorem vopRun_becomes (hw : isSub w 0x20 sub = true) (hc : s.CanIssue t w { eng := engVector, form := vopLegal w sub })
    {g : Tile → Tile} (hcount : ∀ x, (g x).icount = x.icount) (hscratch : ∀ x, (g x).scratch = x.scratch) :
    TileIssues (vopRun t w sub s g) s t [] g := tile_effect hc rfl hw g hcount hscratch

theorem vopLanes_becomes (hw : isSub w 0x20 sub = true) (hc : s.CanIssue t w { eng := engVector, form := vopLegal w sub })
    (f : Word → Word → Word → Word) : TileIssues (vopRun t w sub s (·.vopLanes w f)) s t [] (·.vopLanes w f) :=
  vopRun_becomes hw hc (fun _ => rfl) fun _ => rfl

end

/-- Settles O7: each of them is a VOP by lanes. -/
theorem vectorLanesComplete : Obligations.VectorLanesComplete := by
  unfold Obligations.VectorLanesComplete
  intro s t w sub hw hc
  refine ⟨?_, ?_, ?_, ?_, ?_, ?_, ?_, ?_⟩ <;> (rintro rfl; exact vopLanes_becomes hw hc _)

/-! ## Matrix instructions -/

theorem Tile.matrix_icount (x : Tile) (w : BitVec 128) (z : Bool) : (x.matrix w z).icount = x.icount := by
  unfold Tile.matrix
  dsimp only
  split <;> rfl

theorem Tile.matrix_scratch (x : Tile) (w : BitVec 128) (z : Bool) : (x.matrix w z).scratch = x.scratch := by
  unfold Tile.matrix
  dsimp only
  split <;> rfl

theorem matExec_becomes {s : State} {op t : Nat} {w : BitVec 128} {z : Bool} (hop : isOp w op = true)
    (hc : s.CanIssue t w (s.matrixIssue t w z)) : TileIssues (matExec op t w z s) s t (matReads w) (·.matrix w z) :=
  issue_becomes (q := fun s => s.matrixIssue t w z) hc rfl hop (Tile.matrix_icount · w z) (Tile.matrix_scratch · w z)

theorem clear_icount (l : List Nat) (x : Tile) : (l.foldl (fun x n => x.setAcc n Acc.zero) x).icount = x.icount :=
  foldl_keeps Tile.icount _ (fun _ _ => by rfl) l x

theorem clear_scratch (l : List Nat) (x : Tile) : (l.foldl (fun x n => x.setAcc n Acc.zero) x).scratch = x.scratch :=
  foldl_keeps Tile.scratch _ (fun _ _ => by rfl) l x

/-- Settles O10, by `matExec_becomes` for MMA and MMAZ. -/
theorem matrixCompletes : Obligations.MatrixCompletes := by
  unfold Obligations.MatrixCompletes
  intro s t w
  refine ⟨fun hop hc => matExec_becomes hop hc, fun hop hc => matExec_becomes hop hc, fun hop hc => ?_⟩
  exact issue_becomes
    (q := fun s => { plainIssue w [(15, 0)] (busyHold ((clrSel w).any (s.tile t).accBusy)) with eng := engMatrix }) hc rfl hop
    (clear_icount _) (clear_scratch _)

/-! ## Stores to scratch -/

theorem putScratch_image (s : State) (n o : Nat) (d : List Byte) : SameImage s (s.putScratch n o d) :=
  have e := putScratch_rest s n o d
  ⟨(congrArg State.adm e :), (congrArg State.gn e :), (congrArg State.map e :), (congrArg State.mem e :),
    (congrArg State.slices e :), (congrArg State.spare e :)⟩

theorem SameImage.trans {s t u : State} (h : SameImage s t) (k : SameImage t u) : SameImage s u :=
  ⟨k.adm.trans h.adm, k.gn.trans h.gn, k.map.trans h.map, k.mem.trans h.mem, k.slices.trans h.slices, k.spare.trans h.spare⟩

/-- What remains of the state besides its tiles, registers and events decides whether spares suffice. -/
theorem State.spared_of_rest {s t : State} (hs : s.settled)
    (h : { t with tiles := [], regs := [], events := [] } = { s with tiles := [], regs := [], events := [] }) : t.Spared := by
  obtain ⟨-, hfail, hspent⟩ := hs
  exact State.spared_of ((congrArg State.failing h :).trans hfail) ((congrArg (·.spare.spent) h :).trans hspent)

@[simp] theorem ready_tile_same (s : State) (t : Nat) (rs ws : List (Nat × Nat)) :
    (s.ready t rs ws).tile t = (s.tile t).retirePf ws := (ready_tiles s t rs ws).2

theorem ready_tagOf (s : State) (t : Nat) (rs ws : List (Nat × Nat)) : (s.ready t rs ws).tagOf t = s.tagOf t := by
  have hsteps : (s.ready t rs ws).steps = s.steps := (congrArg State.steps (ready_rest s t rs ws) :)
  rw [State.tagOf, ready_tile_same, hsteps]
  rfl

/-- An instruction that stores `d` at `a` of its tile's scratch. -/
theorem issue_stores {s : State} {t a : Nat} {w : BitVec 128} {q : State → Issue} {d : State → List Byte}
    (hc : s.CanIssue t w (q s)) (hreads : (q s).reads = []) {fits : Bool} (hw : fits = true) {l : List Byte}
    (hl : d (s.ready t [] (q s).writes) = l) :
    Gives (instrRun fits t s fun s => s.issue t w (q s) fun s => s.putScratch t a (d s)) fun u =>
      (∀ o, (∀ b ∈ s.scalarsAt t, o < b ∨ b + 64 ≤ o) →
        (u.tile t).byte o = if a ≤ o ∧ o < a + l.length ∧ o < scratchSize then l.getD (o - a) 0 else (s.tile t).byte o) ∧
      (u.tile t).datapath = ((s.tile t).retirePf (q s).writes).datapath ∧ (u.tile t).icount = (s.tile t).icount + 1 ∧
      (∀ i, i ≠ t → u.tile i = s.tile i) ∧
      ((∀ b ∈ s.scalarsAt t, b + 64 ≤ scratchSize) → a + l.length ≤ scratchSize →
        ∀ page off, regOff off → (page, off) ∉ tailRegs → u.rd page off = s.rd page off) ∧
      { u.body with tiles := [] } = { s.body with tiles := [] } := by
  have hp := issue_performs_at hc hw fun s => s.putScratch t a (d s)
  rw [hreads, hl] at hp
  generalize (q s).writes = ws at hp
  obtain ⟨hadv, hcount⟩ := advance_stream ((s.ready t [] ws).putScratch t a l) t
  have himage : SameImage s ((s.ready t [] ws).putScratch t a l) := (ready_image s t [] ws).trans (putScratch_image ..)
  have htile : ((s.ready t [] ws).putScratch t a l).tile t = ((s.tile t).retirePf ws).setBytes a l := by
    rw [putScratch_tile, ready_tile_same]
  have hrest := hadv.rest.trans ((putScratch_rest ..).trans (ready_rest s t [] ws))
  refine hp.gives (State.spared_of_rest hc.awake.settled hrest) fun u hu => ?_
  have hut (i : Nat) : u.tile i = (((s.ready t [] ws).putScratch t a l).advance t).tile i :=
    tile_of_tiles (congrArg State.tiles hu.body :) i
  refine ⟨fun o ho => ?_, ?_, ?_, fun i hi => ?_, fun hb hin page off ho hn => ?_, ?_⟩
  · rw [hut, hadv.scratch o (by rwa [himage.scalarsAt]), htile, Tile.byte_setBytes]
    rfl
  · rw [hut, hadv.data, htile, Tile.datapath_setBytes]
  · rw [hut, hcount (by rw [himage.streamOf]; exact holds_stream hc.free), htile, Tile.icount_setBytes]
    rfl
  · rw [hut, hadv.other i hi, putScratch_other _ _ _ _ hi, (ready_tiles s t [] ws).1 i hi]
  · rw [hu.reg page off ho hn]
    apply State.rd_congr
    rw [(hadv.reg (by rwa [himage.scalarsAt])).1, putScratch_in _ _ _ _ hin]
    exact ready_regs s t [] ws fun r hr => nomatch hr
  · have hbody := congrArg (fun x : State => { x.body with tiles := [] }) hrest
    exact (congrArg (fun x : State => { x with tiles := [] }) hu.body :).trans hbody

/-- A widening conversion flags non-finite results alone. -/
theorem convFlags_nonfinite (s : State) (tag n : Nat) : s.convFlags tag 0 n 0 = if n = 0 then s else s.cause tag cNonfinite := by
  cases n <;> rfl

/-- Settles O8: the VOPs and VLD become a tile (`issue_becomes`), the conversion performs its effect, and VST stores
(`issue_stores`). -/
theorem vectorRegistersAreWrittenAndStored : Obligations.VectorRegistersAreWrittenAndStored := by
  unfold Obligations.VectorRegistersAreWrittenAndStored
  refine ⟨fun s t w => ⟨fun hw hc => ?_, fun hw hc => ?_, fun hw hc => ?_, fun hw hc => ?_⟩, fun s t w hw hc => ?_, ?_⟩
  · have h := vopRun_becomes hw hc (g := fun x => (x.setVreg (vdOf w) ((x.vreg (vaOf w)).map fun v => (fpExpsplit v).1)).setVreg
      (vcOf w) ((x.vreg (vaOf w)).map fun v => (fpExpsplit v).2)) (fun _ => rfl) fun _ => rfl
    simpa [exec, execExpsplit, Function.comp_def] using h
  · exact vopRun_becomes hw hc (fun _ => rfl) fun _ => rfl
  · exact vopRun_becomes hw hc (fun _ => rfl) fun _ => rfl
  · exact tile_effect hc rfl hw _ (fun _ => rfl) fun _ => rfl
  · have h := issue_performs hc hw fun s =>
      (s.modTile t (·.setVreg (vdOf w) (cvtUnpack (fmtA w) ((s.tile t).vreg (vaOf w))))).convFlags (s.tagOf t) 0
        (nonfinites (cvtUnpack (fmtA w) ((s.tile t).vreg (vaOf w)))) 0
    dsimp only at h
    rw [convFlags_nonfinite, ready_tagOf, ready_tile_same] at h
    exact h
  · intro s t w a d hw hc
    exact issue_stores hc rfl hw (by rw [ready_tile_same]; rfl)

end Sys2Proof.Machine
end

section
/-!
PROOF. Illegal words and GIVE.
-/
namespace Sys2Proof.Machine

/-! ## Illegal words -/

section
variable {s : State} {t : Nat} {w : BitVec 128} {q : Issue} {f : State → State}

theorem issue_illForm (hform : q.form = false) (hfree : s.holds t w [] [] = none) : s.issue t w q f = s.illegal t := by
  simp [State.issue, hform, hfree]

theorem issue_illContent (hform : q.form = true) (hcontent : q.content = false)
    (hfree : s.holds t w q.reads q.writes = none) (hhead : (s.tile t).parity q.head = none) :
    s.issue t w q f = (s.faultReads t q.head).illegal t := by
  simp [State.issue, hform, hcontent, hfree, hhead]

end

/-- Settles O14: `issue_illForm` and `issue_illContent`; a sound word is none of the command's. -/
theorem reservedWordRaisesIllegal : Obligations.ReservedWordRaisesIllegal := by
  unfold Obligations.ReservedWordRaisesIllegal
  intro s t w ht haw q stop
  have hrun := tileRun_ends ht haw fun s =>
    if (s.illegalIssue t w).form && (s.illegalIssue t w).content then s else s.issue t w (s.illegalIssue t w) id
  refine ⟨fun hform hfree => ?_, fun hform hcontent hfree hhead => ?_, fun hform hcontent => ?_⟩
  · rwa [if_neg (by simp [show (s.illegalIssue t w).form = false from hform]), issue_illForm hform hfree] at hrun
  · rwa [if_neg (by simp [show (s.illegalIssue t w).content = false from hcontent]),
      issue_illContent hform hcontent hfree hhead] at hrun
  · rwa [if_pos (by simp [show (s.illegalIssue t w).form = true from hform,
      show (s.illegalIssue t w).content = true from hcontent])] at hrun

/-! ## GIVE -/

section
variable {s : State} {t : Nat} (f : State → State)

theorem giveOnce_skips (h : 0 < (s.tile t).skip.give) : s.giveOnce t f =
    s.modTile t fun x => { x with skip := { x.skip with give := x.skip.give - 1 } } := if_pos h

theorem giveOnce_gives (h : (s.tile t).skip.give = 0) : s.giveOnce t f =
    f (s.modTile t fun x => { x with done := { x.done with give := x.done.give + 1 } }) := if_neg (by simp [h])

end

/-- What a GIVE to be skipped, or to be performed, makes of the state that its issue has made ready. -/
theorem issue_gives_once {s : State} {t : Nat} {w : BitVec 128} {q : State → Issue} (hc : s.CanIssue t w (q s))
    (hreads : (q s).reads = []) (hwrites : (q s).writes = []) {fits : Bool} (hw : fits = true) (f : State → State → State) :
    let r := s.ready t [] []
    ((s.tile t).skip.give = 0 → Performs (instrRun fits t s fun s => s.issue t w (q s) fun u => u.giveOnce t (f u)) t
      (f r (r.modTile t fun x => { x with done := { x.done with give := x.done.give + 1 } }))) ∧
    (0 < (s.tile t).skip.give → Performs (instrRun fits t s fun s => s.issue t w (q s) fun u => u.giveOnce t (f u)) t
      (r.modTile t fun x => { x with skip := { x.skip with give := x.skip.give - 1 } })) := by
  intro r
  have hrun := issue_performs_at hc hw fun u => u.giveOnce t (f u)
  rw [hreads, hwrites] at hrun
  have hskip : (r.tile t).skip = (s.tile t).skip := by rw [ready_tile_same]; rfl
  refine ⟨fun h => ?_, fun h => ?_⟩
  · rwa [giveOnce_gives _ (by rw [hskip]; exact h)] at hrun
  · rwa [giveOnce_skips _ (by rw [hskip]; exact h)] at hrun

/-- The step whose instruction a GIVE is does not depend on its counts. -/
theorem once_tagOf (s : State) (t : Nat) (f : Tile → Tile) (hspec : ∀ x, (f x).inSpec = x.inSpec)
    (hlag : ∀ x, (f x).lag = x.lag) : (s.modTile t f).tagOf t = s.tagOf t := by
  have hstep : (s.modTile t f).steps = s.steps := rfl
  simp only [State.tagOf, State.tile_modTile_same, hspec, hlag, hstep]

/-- Settles O15, by `issue_gives_once`. -/
theorem giveCompletes : Obligations.GiveCompletes := by
  unfold Obligations.GiveCompletes
  intro s t w tag r once skipped
  have htag : once.tagOf t = tag := (once_tagOf r t (fun x => { x with done := { x.done with give := x.done.give + 1 } })
    (fun _ => rfl) fun _ => rfl).trans (ready_tagOf s t [] [])
  refine ⟨fun hw hc => ?_, fun hw hc => ?_, fun hw hc => ?_⟩
  · obtain ⟨hgives, hskips⟩ := issue_gives_once (q := fun _ => plainIssue w giveTileFields) hc rfl rfl hw fun _ u =>
      match u.siteOf (fld w 41 32) with
      | some d => u.addKC d (fld w 28 24) (fld w 15 0) (u.tagOf t)
      | none => u
    refine ⟨fun h d hd => ?_, fun h hd => ?_, hskips⟩
    · have hrun := hgives h
      rw [show once.siteOf (fld w 41 32) = some d from hd, htag] at hrun
      exact hrun
    · have hrun := hgives h
      rwa [show once.siteOf (fld w 41 32) = none from hd] at hrun
  · have hrun (ha : (if (s.tile t).skip.give == 0 && (s.physOfLogical (fld w 61 47)).isNone then some (Hold.wait stRay)
        else none) = none) := issue_gives_once (fits := isGive w 2)
      (q := fun s => plainIssue w giveRemoteFields
        (if (s.tile t).skip.give == 0 && (s.physOfLogical (fld w 61 47)).isNone then some (.wait stRay) else none))
      (by rw [ha]; exact hc) rfl rfl hw fun v u => u.sendUnscheduled { emptyFrame with
        type := 4, spec := u.speculative (v.tagOf t), stepTag := v.tagOf t % 256, dstTile := fld w 41 32
        dstPhys := (u.physOfLogical (fld w 61 47)).getD 0, srcPhys := u.phys, srcTile := u.tileOf t
        cc := fld w 28 24, giveN := fld w 15 0 }
    refine ⟨fun m h hm => ?_, fun h => (hrun (by simp [h.ne'])).2 h⟩
    have hgives := (hrun (by simp [hm])).1 h
    rw [ready_tagOf, show once.physOfLogical (fld w 61 47) = some m from hm] at hgives
    exact hgives
  · exact issue_gives_once (q := fun _ => plainIssue w giveCollFields) hc rfl rfl hw fun _ u =>
      { u with ray := { u.ray with ck := sset 0 u.ray.ck (fld w 39 32) ((sget 0 u.ray.ck (fld w 39 32) + fld w 15 0) % 2 ^ 32) } }

end Sys2Proof.Machine
end

section
/-!
PROOF. Control words.
-/
namespace Sys2Proof.Machine

theorem modTile_congr {s : State} {t : Nat} {f g : Tile → Tile} (h : f (s.tile t) = g (s.tile t)) : s.modTile t f = s.modTile t g :=
  congrArg (s.setTile t) h

theorem ready_frameOpened (s : State) (t : Nat) (ws : List (Nat × Nat)) (w : BitVec 128) :
    (s.ready t [] ws).frameOpened t w = s.frameOpened t w := by
  have himage := (ready_image s t [] ws).streamOf t
  simp only [State.frameOpened, himage, ready_tile_same]
  rfl

theorem atReplayPoint_iff (x : Tile) : x.atReplayPoint = true ↔ x.replayTo.isSome = true ∧ x.icount = 0 := by
  simp [Tile.atReplayPoint]

/-- What a WAITC that still has to be skipped makes of its tile, and what one makes that has not. -/
theorem execWaitc_performs {s : State} {t : Nat} {w : BitVec 128} (hw : isOp w 0x03 = true)
    (hc : s.CanIssue t w (s.waitcIssue t w)) {g : Tile → Tile}
    (hg : ∀ x : Tile, x.skip = (s.tile t).skip → (if x.skip.waitc > 0 then { x with skip := { x.skip with waitc := x.skip.waitc - 1 } }
        else { x with cc := sput x.cc (fld w 4 0) ((sget {} x.cc (fld w 4 0)).take (fld w 63 32) x.inSpec)
                      done := { x.done with waitc := x.done.waitc + 1 } }) = g x) :
    Performs (exec (.waitc t w) s) t ((s.ready t [] []).modTile t g) := by
  have hrun : Performs (exec (.waitc t w) s) t _ := issue_performs_at (q := fun s => s.waitcIssue t w) hc hw _
  rwa [modTile_congr (hg _ (by rw [ready_tile_same]; rfl))] at hrun

theorem sput_sput {α : Type} (m : Sparse α) (q : Nat) (x y : α) : sput (sput m q x) q y = sput m q y := by
  induction m with
  | nil => simp [sput]
  | cons e m ih =>
    obtain ⟨k, v⟩ := e
    by_cases hlt : q < k
    · simp [sput, hlt]
    · by_cases heq : k = q
      · simp [sput, heq]
      · simp [sput, hlt, heq, ih]

theorem modTile_modTile (s : State) (t : Nat) (f g : Tile → Tile) : (s.modTile t f).modTile t g = s.modTile t fun x => g (f x) := by
  have hsame := State.tile_modTile_same s t f
  rw [State.modTile, hsame]
  exact congrArg (fun l => { s with tiles := l }) (sput_sput s.tiles t _ _)

/-- Settles O12, by `issue_becomes` and `issue_performs` for each of the words. -/
theorem controlFamilyCompletes : Obligations.ControlFamilyCompletes := by
  unfold Obligations.ControlFamilyCompletes
  refine ⟨fun s t w => ⟨fun hw hc => ?_, fun hw hc => ?_, fun hw hc => ?_, fun hw hc => ⟨fun h => ?_, fun h => ?_⟩⟩,
    fun s t w hc => ⟨fun hw => ?_, fun hw => ?_⟩, fun s t w => ⟨fun hw hc => ?_, fun hw hc => ⟨fun h => ?_, fun h => ?_⟩⟩⟩
  · have hnop := tile_effect hc rfl hw id (fun _ => rfl) fun _ => rfl
    have hready : (s.ready t [] []).modTile t id = s.ready t [] [] := modTile_modTile (s.faultReads t []) t _ id
    rw [instrRun_congr (g := fun s => s.issue t w (plainIssue w []) id)
      (by rw [issue_runs hc, issue_runs hc]; exact congrArg (·.advance t) hready)] at hnop
    exact hnop
  · exact issue_becomes (q := fun s => s.specIssue t w) hc rfl hw (fun _ => rfl) fun _ => rfl
  · exact tile_effect hc rfl hw _ (fun _ => rfl) fun _ => rfl
  · exact execWaitc_performs hw hc fun x hx => if_neg (by rw [hx]; omega)
  · exact execWaitc_performs hw hc fun x hx => if_pos (by rw [hx]; exact h)
  · exact issue_performs hc hw _
  · exact issue_performs hc hw _
  · have hrun : Performs (exec (.frame t w) s) t _ := issue_performs_at (q := fun s => s.frameIssue t w) hc hw _
    dsimp only at hrun
    rw [show (s.frameIssue t w).reads = [] from rfl, show (s.frameIssue t w).writes = [] from rfl, ready_frameOpened] at hrun
    exact hrun
  · have hrun : Performs (exec (.rpoint t w) s) t _ := issue_performs hc hw _
    rw [if_pos ((atReplayPoint_iff _).2 (by rw [ready_tile_same]; exact h))] at hrun
    exact hrun
  · have hrun : Performs (exec (.rpoint t w) s) t _ := issue_performs hc hw _
    rw [if_neg (mt (atReplayPoint_iff _).1 (by rw [ready_tile_same]; exact h))] at hrun
    exact hrun

end Sys2Proof.Machine
end

section
/-!
PROOF. Narrowing conversions: the entry of the rounding-base stream that one takes, the events that it counts and flags.
-/
namespace Sys2Proof.Machine

/-- The rounding base of a conversion: the next entry with stochastic rounding, and none without. -/
def State.rbaseFor (s : State) (t : Nat) (w : BitVec 128) : Nat × Nat × State :=
  if srOf w then s.rbaseTake t else (0, 0, s)

theorem rbaseFor_vreg (s : State) (t : Nat) (w : BitVec 128) (v : Nat) :
    ((s.rbaseFor t w).2.2.tile t).vreg v = (s.tile t).vreg v := by
  unfold State.rbaseFor
  split
  · have h := rbaseTake_tile s t
    exact (congrArg (·.vreg v) h :)
  · rfl

theorem rbaseFor_seedNow (s : State) (t : Nat) (w : BitVec 128) : (s.rbaseFor t w).2.2.seedNow = s.seedNow := by
  unfold State.rbaseFor
  split
  · unfold State.rbaseTake
    split
    · rfl
    · rename_i a _
      have h := (devRead_memOnly s a 8 5 (.tile t) false false).rest
      exact (congrArg (fun x : State => x.seedNow) h :)
  · rfl

theorem convFlags_eq (s : State) (tag traffic nf sa : Nat) : s.convFlags tag traffic nf sa =
    let c := if 0 < nf then s.cause tag cNonfinite else s
    if 0 < sa ∧ 2 ≤ traffic ∧ traffic ≤ 5 then c.cause tag cOverflow else c := by
  simp [State.convFlags, and_assoc]

/-! ## Counting events -/

theorem countSpec_counts (s : State) (t : Nat) {tensor tag : Nat} (z sa nf : Nat) (htable : s.specTable.2 ≠ 0)
    (hsome : 0 < z + sa + nf) : s.countSpec t tensor tag z sa nf =
      ((s.specBegin t tag).specRoom t tensor z sa nf).specEnter t tensor z sa nf := by
  refine if_neg ?_
  simp only [Bool.or_eq_true, Bool.and_eq_true, beq_iff_eq]
  omega

section
variable {s : State} {t tensor tag z sa nf : Nat}

/-- The buffer that counts for the step already keeps its entries. -/
theorem specBegin_spectrum (hstep : (s.tile t).specStep = tag) :
    ((s.specBegin t tag).tile t).spectrum = (s.tile t).spectrum := by
  simp [State.specBegin, hstep]

theorem specRoom_fits {e : SpecEntry} (he : (s.tile t).spectrum.find? (·.tensor == tensor) = some e) (hz : e.zeros + z < 2 ^ 32)
    (hsa : e.sats + sa < 2 ^ 32) (hnf : e.nonfin + nf < 2 ^ 32) : s.specRoom t tensor z sa nf = s := by
  simp only [State.specRoom, he]
  exact if_neg (by simp; omega)

theorem specRoom_absent (hnone : (s.tile t).spectrum.any (·.tensor == tensor) = false) : s.specRoom t tensor z sa nf = s := by
  have hfind : (s.tile t).spectrum.find? (·.tensor == tensor) = none := by simpa using hnone
  simp only [State.specRoom, hfind]

theorem specEvict_room (hroom : (s.tile t).spectrum.length < 16) : s.specEvict t = s := by
  unfold State.specEvict
  split
  · rename_i e rest he
    exact if_neg (by rw [he, List.length_cons] at hroom; omega)
  · rfl

theorem specEnter_spectrum (hany : (s.tile t).spectrum.any (·.tensor == tensor) = true) :
    ((s.specEnter t tensor z sa nf).tile t).spectrum = (s.tile t).spectrum.map fun e => if e.tensor == tensor then
      { e with zeros := e.zeros + z, sats := e.sats + sa, nonfin := e.nonfin + nf } else e := by
  simp only [State.specEnter, hany, if_true, State.tile_modTile_same]

theorem specEnter_spectrum_new (hnone : (s.tile t).spectrum.any (·.tensor == tensor) = false)
    (hroom : (s.tile t).spectrum.length < 16) : ((s.specEnter t tensor z sa nf).tile t).spectrum =
      (s.tile t).spectrum ++ [{ tensor := tensor, zeros := z, sats := sa, nonfin := nf }] := by
  simp only [State.specEnter, hnone, Bool.false_eq_true, if_false, specEvict_room hroom, State.tile_modTile_same]

end

/-- Settles O9. -/
theorem narrowingConversionsComplete : Obligations.NarrowingConversionsComplete := by
  unfold Obligations.NarrowingConversionsComplete
  refine ⟨fun s t w hc => ?_, fun s t tensor tag z sa nf => ?_⟩
  · extract_lets tensor r e v half kinds done
    have hrun {op fmt : Nat} (hw : isSub w 0x20 op = true) :
        Performs (instrRun (isSub w 0x20 op) t s fun s => s.issue t w (s.cvtIssue t w) (·.cvtNarrow t w fmt)) t (done fmt) := by
      have h := issue_performs_at (q := fun s => s.cvtIssue t w) hc hw (·.cvtNarrow t w fmt)
      suffices hdone : r.cvtNarrow t w fmt = done fmt by rwa [← hdone]
      have htile : r.tile t = s.tile t := (ready_tile_same s t [] []).trans (Tile.retirePf_nil _)
      have htag : r.tagOf t = s.tagOf t := ready_tagOf s t [] []
      have hvreg : (e.2.2.tile t).vreg (vaOf w) = v :=
        (rbaseFor_vreg r t w _).trans (by rw [htile])
      have hseed : e.2.2.seedNow = s.seedNow := rbaseFor_seedNow r t w
      have he : r.rbaseFor t w = e := rfl
      clear_value e
      obtain ⟨base, stride, u⟩ := e
      unfold State.cvtNarrow
      rw [htile, htag, show (if srOf w then r.rbaseTake t else (0, 0, r)) = (base, stride, u) from he]
      dsimp only
      rw [show (u.tile t).vreg (vaOf w) = v from hvreg, show u.seedNow = s.seedNow from hseed]
      exact convFlags_eq ..
    exact ⟨hrun, hrun, hrun⟩
  · intro u
    have hq := countSpec_quiet s t tensor tag z sa nf
    refine ⟨hq.data, hq.byte, hq.other, hq.rest, fun htable hsome hstep => ?_⟩
    have hspec := specBegin_spectrum hstep
    refine ⟨fun e he hz hsa hnf => ?_, fun hnone hroom => ?_⟩
    · have hany : (s.tile t).spectrum.any (·.tensor == tensor) = true := by
        rw [List.any_eq_true]
        exact ⟨e, List.mem_of_find?_eq_some he, by simpa using List.find?_some (p := fun e : SpecEntry => e.tensor == tensor) he⟩
      rw [← hspec] at he hany
      rw [show u = _ from countSpec_counts s t z sa nf htable hsome, specRoom_fits he hz hsa hnf, specEnter_spectrum hany, hspec]
    · rw [← hspec] at hnone hroom
      rw [show u = _ from countSpec_counts s t z sa nf htable hsome, specRoom_absent hnone, specEnter_spectrum_new hnone hroom, hspec]

end Sys2Proof.Machine
end

section
/-!
PROOF. Accumulators: reading one out, and the decision and retry of RESCALE.
-/
namespace Sys2Proof.Machine

theorem accout_becomes {s : State} {t : Nat} {w : BitVec 128} (hop : isOp w 0x12 = true)
    (hc : s.CanIssue t w (s.accoutIssue t w)) :
    Performs (exec (.accout t w) s) t ((s.ready t [] (accoutWrites w)).accout t w) :=
  issue_performs_at (q := fun s => s.accoutIssue t w) hc hop (·.accout t w)

/-- The record that a retry decides or runs is the one of its accumulator. -/
theorem rescale_acc {x : Tile} {n : Nat} {r : Rescale} (hr : x.rescale.find? (·.acc == n) = some r) : r.acc = n := by
  simpa using List.find?_some (p := fun r : Rescale => r.acc == n) hr

/-- Settles O11: the conversion with the rounding base that it takes (`State.rbaseFor`), and the record of its accumulator. -/
theorem accumulatorsAreReadOutAndRescaled : Obligations.AccumulatorsAreReadOutAndRescaled := by
  unfold Obligations.AccumulatorsAreReadOutAndRescaled
  refine ⟨fun s t w hop hc => ?_, fun s t n r ht haw hr => ⟨fun hretry => ?_, fun hretry herr hsound => ?_, fun e hretry herr hbad => ?_⟩⟩
  · have h := accout_becomes hop hc
    generalize hready : s.ready t [] (accoutWrites w) = r at h ⊢
    have htile : (r.tile t).accAt (accOf w) = (s.tile t).accAt (accOf w) := by rw [← hready, ready_tile_same]; rfl
    have htag : r.tagOf t = s.tagOf t := hready ▸ ready_tagOf s t [] _
    have hseed : (r.rbaseFor t w).2.2.seedNow = s.seedNow := by rw [rbaseFor_seedNow, ← hready]; rfl
    rw [← htag, ← hseed]
    intro i a fmt q e
    have ha : a = (r.tile t).accAt i := htile.symm
    have he : r.rbaseFor t w = e := rfl
    rw [he]
    clear_value a e
    subst ha
    obtain ⟨base, stride, u⟩ := e
    unfold State.accout at h
    rw [show (if srOf w then r.rbaseTake t else (0, 0, r)) = (base, stride, u) from he] at h
    simp only [List.isEmpty_iff] at h
    exact h
  · have h : Ends (exec (.rescaleDecision t n) s) _ := tileRun_ends ht haw _
    simp only [hr, hretry, Bool.false_eq_true, if_false] at h
    split at h <;> rename_i hdue
    · rw [if_pos hdue]
      exact h
    · rw [if_neg hdue]
      exact h
  · have h : Ends (exec (.rescaleRetry t n) s) _ := tileRun_ends ht haw _
    simp only [hr, hretry, herr, hsound] at h
    have hacc := rescale_acc hr
    subst hacc
    exact h
  · have h : Ends (exec (.rescaleRetry t n) s) _ := tileRun_ends ht haw _
    simp only [hr, hretry, herr, hbad] at h
    exact h

end Sys2Proof.Machine
end

section
/-!
PROOF. Descriptors: where DMA places one, and what its start reads, keeps and leaves.
-/
namespace Sys2Proof.Machine

/-! ## Accesses on behalf of a step -/

theorem readT_memOnly (s : State) (tag a n cls : Nat) (ag : Agent) (dead stamp : Bool) :
    MemOnly s (s.readT tag a n cls ag dead stamp).2.2 := by
  refine foldl_proj_memOnly (β := List PByte × List (Nat × Nat) × State) (·.2.2) _ (fun b x => ?_) _ ([], [], s)
  exact devRead_memOnly ..

theorem writeT_memOnly (s : State) (tag a : Nat) (d : List PByte) (cls : Nat) (ag : Agent) :
    MemOnly s (s.writeT tag a d cls ag) :=
  foldl_memOnly _ (fun s _ => devWrite_memOnly s _ _ cls ag) _ s

theorem addT_memOnly (s : State) (tag a : Nat) (d : List PByte) (cls : Nat) (ag : Agent) :
    MemOnly s (s.addT tag a d cls ag).2 := by
  refine foldl_proj_memOnly (β := Bool × State) (·.2) _ (fun b x => ?_) _ (false, s)
  obtain ⟨p, u⟩ := b
  dsimp only
  split
  · refine foldl_proj_memOnly (β := Bool × State) (·.2) _ (fun b i => ?_) _ (p, u)
    split
    · exact devWrite_memOnly ..
    · exact devAdd_memOnly ..
  · exact devAdd_memOnly ..

theorem faultReads_memOnly (s : State) (t : Nat) (rs : List (Nat × Nat)) : MemOnly s (s.faultReads t rs) := by
  refine foldl_memOnly _ (fun s r => ?_) rs s
  dsimp only
  split
  · exact addrFault_memOnly ..
  · exact MemOnly.refl s

theorem tilePoison_memOnly (s : State) (t tag : Nat) : MemOnly s (s.tilePoison t tag) :=
  (raise_memOnly ..).trans (cause_memOnly ..)

theorem readPoison_memOnly (s : State) (t tag : Nat) (own : Bool) (d : List PByte) :
    MemOnly s (s.readPoison t tag own d) := by
  unfold State.readPoison
  split
  · exact MemOnly.refl s
  · exact tilePoison_memOnly ..

/-! ## What a descriptor reads -/

/-- One source row of a descriptor: its row of the transfer, as `State.dmaRead` appends it. -/
def State.dmaReadRow (t : Nat) (d : Desc) (rs : List XRow × State) (p : (Nat × Nat) × (Nat × Nat)) : List XRow × State :=
  match rs, p with
  | (rows, s), (src, dst) =>
    let row : XRow := { off := dst.1, len := d.len }
    match d.src with
    | .device _ =>
      let a := s.translate d.tag src.1
      if s.slowPopulated a && s.slowPopulated (a + d.len - 1) then (rows ++ [{ row with src := some a }], s)
      else
        let (bs, _, s) := s.readT d.tag src.1 d.len d.sclass (.tile t) d.dead d.stamp
        (rows ++ [{ row with data := bs }], s)
    | .tile lt _ =>
      match s.siteOf lt with
      | none => (rows ++ [{ row with data := List.replicate d.len ⟨0xFF, true⟩ }], s)
      | some o =>
        let s := match (if o == t then none else (s.tile o).firstBad [src]) with
          | some b => ((s.logErr o b).raise o 1).cause d.tag cHardware
          | none => s
        let s := s.faultReads t [src]
        let bs : List PByte := (List.range d.len).map fun i =>
          if d.poison || (s.tile o).badScr.contains (src.1 + i) then ⟨0xFF, true⟩ else ⟨(s.tile o).byte (src.1 + i), false⟩
        (rows ++ [{ row with data := bs }], s)
    | .remote _ _ _ => (rows, s)

theorem dmaRead_eq (s : State) (t : Nat) (d : Desc) :
    s.dmaRead t d = (d.srcRows.zip d.dstRows).foldl (State.dmaReadRow t d) ([], s) := rfl

theorem dmaReadRow_memOnly (t : Nat) (d : Desc) (rs : List XRow × State) (p : (Nat × Nat) × (Nat × Nat)) :
    MemOnly rs.2 (State.dmaReadRow t d rs p).2 := by
  obtain ⟨rows, s⟩ := rs
  obtain ⟨src, dst⟩ := p
  unfold State.dmaReadRow
  dsimp only
  split
  · split
    · exact MemOnly.refl s
    · exact readT_memOnly ..
  · split
    · exact MemOnly.refl s
    · refine MemOnly.trans ?_ (faultReads_memOnly ..)
      split
      · exact ((logErr_memOnly ..).trans (raise_memOnly ..)).trans (cause_memOnly ..)
      · exact MemOnly.refl s
  · exact MemOnly.refl s

/-- Each row has the offset of its destination and the length of the descriptor. -/
theorem dmaReadRow_rows (t : Nat) {d : Desc} (hsrc : d.src.isRemote = false) (rs : List XRow × State)
    (p : (Nat × Nat) × (Nat × Nat)) : (State.dmaReadRow t d rs p).1.map (fun r => (r.off, r.len)) =
      rs.1.map (fun r => (r.off, r.len)) ++ [(p.2.1, d.len)] := by
  obtain ⟨rows, s⟩ := rs
  obtain ⟨src, dst⟩ := p
  unfold State.dmaReadRow
  dsimp only
  split
  · split
    · simp
    · simp
  · split
    · simp
    · simp
  · rename_i hremote
    rw [hremote] at hsrc
    cases hsrc

theorem dmaRead_memOnly (s : State) (t : Nat) (d : Desc) : MemOnly s (s.dmaRead t d).2 :=
  foldl_proj_memOnly (β := List XRow × State) (·.2) _ (dmaReadRow_memOnly t d) _ ([], s)

theorem dmaReadRows_rows (t : Nat) {d : Desc} (hsrc : d.src.isRemote = false) (l : List ((Nat × Nat) × (Nat × Nat)))
    (rs : List XRow × State) : (l.foldl (State.dmaReadRow t d) rs).1.map (fun r => (r.off, r.len)) =
      rs.1.map (fun r => (r.off, r.len)) ++ l.map fun p => (p.2.1, d.len) := by
  induction l generalizing rs with
  | nil => simp
  | cons p l ih => simp [ih, dmaReadRow_rows t hsrc]

theorem dmaRead_rows (s : State) (t : Nat) {d : Desc} (hsrc : d.src.isRemote = false) :
    (s.dmaRead t d).1.map (fun r => (r.off, r.len)) = d.dstRows := by
  rw [dmaRead_eq, dmaReadRows_rows t hsrc, List.map_nil, List.nil_append]
  have hsnd : (d.srcRows.zip d.dstRows).map Prod.snd = d.dstRows :=
    List.map_snd_zip (by simp [Desc.srcRows, Desc.dstRows, Desc.rowOffs])
  calc (d.srcRows.zip d.dstRows).map (fun p => (p.2.1, d.len))
      = ((d.srcRows.zip d.dstRows).map Prod.snd).map fun r => (r.1, d.len) := by rw [List.map_map]; rfl
    _ = d.dstRows := by rw [hsnd]; simp [Desc.dstRows]

/-! ## What a start keeps -/

/-- Scratch, credit counters and queues of every tile, and the site map, are as they were. -/
structure QueuesKeep (s u : State) : Prop where
  scratch : ∀ i, (u.tile i).scratch = (s.tile i).scratch
  kc : ∀ i, (u.tile i).kc = (s.tile i).kc
  dmaq : ∀ i, (u.tile i).dmaq = (s.tile i).dmaq
  map : u.map = s.map

theorem QueuesKeep.refl (s : State) : QueuesKeep s s := ⟨fun _ => rfl, fun _ => rfl, fun _ => rfl, rfl⟩

theorem QueuesKeep.trans {s t u : State} (h : QueuesKeep s t) (k : QueuesKeep t u) : QueuesKeep s u :=
  ⟨fun i => (k.scratch i).trans (h.scratch i), fun i => (k.kc i).trans (h.kc i), fun i => (k.dmaq i).trans (h.dmaq i),
    k.map.trans h.map⟩

theorem QueuesKeep.of {s u : State} (ht : u.tiles = s.tiles) (hm : u.map = s.map) : QueuesKeep s u :=
  have htile (i : Nat) : u.tile i = s.tile i := tile_of_tiles ht i
  ⟨fun i => by rw [htile], fun i => by rw [htile], fun i => by rw [htile], hm⟩

theorem MemOnly.queuesKeep {s u : State} (h : MemOnly s u) : QueuesKeep s u :=
  ⟨fun i => (congrArg Tile.scratch (h.tiles i) :), fun i => (congrArg Tile.kc (h.tiles i) :),
    fun i => (congrArg Tile.dmaq (h.tiles i) :), (congrArg State.map h.rest :)⟩

/-- What a change of a tile keeps of that tile, it keeps of every tile. -/
theorem modTile_keeps {α : Type} (g : Tile → α) (s : State) (t : Nat) {f : Tile → Tile} (hg : ∀ x, g (f x) = g x) (i : Nat) :
    g ((s.modTile t f).tile i) = g (s.tile i) := by
  by_cases hi : t = i
  · rw [← hi, State.tile_modTile_same, hg]
  · rw [State.tile_modTile_other s f hi]

theorem modTile_queuesKeep (s : State) (t : Nat) (f : Tile → Tile) (hscratch : ∀ x, (f x).scratch = x.scratch)
    (hkc : ∀ x, (f x).kc = x.kc) (hdmaq : ∀ x, (f x).dmaq = x.dmaq) : QueuesKeep s (s.modTile t f) :=
  ⟨modTile_keeps Tile.scratch s t hscratch, modTile_keeps Tile.kc s t hkc, modTile_keeps Tile.dmaq s t hdmaq, rfl⟩

theorem addCC_queuesKeep (s : State) (site c n tag : Nat) : QueuesKeep s (s.addCC site c n tag) :=
  modTile_queuesKeep s site _ (fun _ => rfl) (fun _ => rfl) fun _ => rfl

theorem countSrc_queuesKeep (s : State) (x : Xfer) : QueuesKeep s (s.countSrc x).2 := by
  unfold State.countSrc
  split
  · split
    · exact addCC_queuesKeep ..
    · exact QueuesKeep.refl s
  · exact QueuesKeep.refl s

theorem countSrc_rest (s : State) (x : Xfer) : { (s.countSrc x).2 with tiles := [] } = { s with tiles := [] } := by
  unfold State.countSrc
  split
  · split <;> rfl
  · rfl

theorem countSrc_fst (s : State) (x : Xfer) : (s.countSrc x).1 = { x with ccSrc := (s.countSrc x).1.ccSrc } := by
  unfold State.countSrc
  split
  · split <;> rfl
  · rfl

/-! ## Frames that a queue takes -/

/-- The state up to its ray fabric. -/
def RayOnly (s u : State) : Prop := u = { s with ray := u.ray }

theorem RayOnly.refl (s : State) : RayOnly s s := rfl

theorem RayOnly.trans {s t u : State} (h : RayOnly s t) (k : RayOnly t u) : RayOnly s u := by
  have heq : { t with ray := u.ray } = { s with ray := u.ray } := (congrArg (fun x : State => { x with ray := u.ray }) h :)
  exact Eq.trans k heq

theorem pushTx_rayOnly (s : State) (p : Nat) (x : TxItem) : RayOnly s (s.pushTx p x) := rfl

theorem sendDetour_rayOnly (s : State) (d : Nat) (x : TxItem) : RayOnly s (s.sendDetour d x) := by
  simp only [State.sendDetour]
  split <;> exact pushTx_rayOnly ..

theorem route_rayOnly (s : State) (p : Nat) (x : TxItem) : RayOnly s (s.route p x) := by
  unfold State.route
  split
  · exact sendDetour_rayOnly ..
  · split <;> exact pushTx_rayOnly ..

theorem enqueue_rayOnly (s : State) (p : Nat) (f : RayFrame) (hold : Option (Nat × Nat × Nat)) (coll : Bool) :
    RayOnly s (s.enqueue p f hold coll) :=
  RayOnly.trans (t := { s with ray := _ }) rfl (route_rayOnly ..)

theorem foldl_rayOnly {α : Type} (f : State → α → State) (hf : ∀ s x, RayOnly s (f s x)) (l : List α) (s : State) :
    RayOnly s (l.foldl f s) := by
  induction l generalizing s with
  | nil => exact RayOnly.refl s
  | cons x l ih => exact (hf s x).trans (ih (f s x))

theorem RayOnly.queuesKeep {s u : State} (h : RayOnly s u) : QueuesKeep s u :=
  .of (congrArg State.tiles h :) (congrArg State.map h :)

/-! ## Transfers that a start leaves -/

/-- What a transfer of a descriptor is, wherever it goes. -/
def Desc.Sends (d : Desc) (t : Nat) (dst : XDst) (x : Xfer) : Prop :=
  x.dst = dst ∧ x.site = t ∧ x.add = (d.op == 1) ∧ x.tag = d.tag ∧ x.cls = d.sclass ∧
    x.rows.map (fun r => (r.off, r.len)) = d.dstRows

/-- A row that is performed keeps its offset and length. -/
theorem rowToDevice_row (s : State) (x : Xfer) (r : Nat) (row : XRow) :
    ((s.rowToDevice x r row).1.off, (s.rowToDevice x r row).1.len) = (row.off, row.len) := by
  unfold State.rowToDevice
  split
  · rfl
  · split
    · split <;> rfl
    · split <;> rfl

theorem rowToDevice_queuesKeep (s : State) (x : Xfer) (r : Nat) (row : XRow) :
    QueuesKeep s (s.rowToDevice x r row).2 := by
  unfold State.rowToDevice
  split
  · exact QueuesKeep.refl s
  · split
    · split
      · exact QueuesKeep.refl s
      · exact .of rfl rfl
    · split
      · refine (addT_memOnly s x.tag row.off row.data x.cls x.agent).queuesKeep.trans ?_
        dsimp only
        split
        · exact (tilePoison_memOnly ..).queuesKeep
        · exact QueuesKeep.refl _
      · exact (writeT_memOnly ..).queuesKeep

/-- One row of a transfer to device memory, as `State.settle` performs it. -/
def State.settleRow (x : Xfer) (rs : List XRow × State) (p : XRow × Nat) : List XRow × State :=
  (rs.1 ++ [(rs.2.rowToDevice x p.2 p.1).1], (rs.2.rowToDevice x p.2 p.1).2)

theorem settleRows_rows (x : Xfer) (l : List (XRow × Nat)) (rs : List XRow × State) :
    (l.foldl (State.settleRow x) rs).1.map (fun r => (r.off, r.len)) =
      rs.1.map (fun r => (r.off, r.len)) ++ l.map fun p => (p.1.off, p.1.len) := by
  induction l generalizing rs with
  | nil => simp
  | cons p l ih => simp [ih, State.settleRow, rowToDevice_row]

theorem settleRows_queuesKeep (x : Xfer) (l : List (XRow × Nat)) (rs : List XRow × State) :
    QueuesKeep rs.2 (l.foldl (State.settleRow x) rs).2 := by
  induction l generalizing rs with
  | nil => exact QueuesKeep.refl _
  | cons p l ih => exact QueuesKeep.trans (rowToDevice_queuesKeep rs.2 x p.2 p.1) (ih (State.settleRow x rs p))

section
variable {s : State} {x : Xfer}

/-- A transfer to scratch is kept as it is but for its source completion, and nothing else changes but that counter. -/
theorem settle_scratch {o lt : Nat} (hdst : x.dst = .scratch o lt) : s.settle x =
    { (s.countSrc x).2 with xfers := s.xfers.filter (·.id != x.id) ++ [{ x with ccSrc := (s.countSrc x).1.ccSrc }] } := by
  have hx := countSrc_fst s x
  have hxfers : (s.countSrc x).2.xfers = s.xfers := (congrArg State.xfers (countSrc_rest s x) :)
  unfold State.settle
  generalize s.countSrc x = r at hx hxfers ⊢
  obtain ⟨y, u⟩ := r
  dsimp only at hx hxfers ⊢
  rw [hx, ← hxfers]
  simp only [hdst]

theorem settle_device (hdst : x.dst = .device) : s.settle x =
    let y := (s.countSrc x).1
    let r := (y.rows.zip (List.range y.rows.length)).foldl (State.settleRow y) ([], (s.countSrc x).2)
    { r.2 with xfers := r.2.xfers.filter (·.id != y.id) ++ [{ y with rows := r.1 }] } := by
  have hx := countSrc_fst s x
  unfold State.settle
  generalize s.countSrc x = r at hx ⊢
  obtain ⟨y, u⟩ := r
  have hdev : y.dst = .device := (congrArg Xfer.dst hx :).trans hdst
  dsimp only
  simp only [hdev]
  rfl

theorem settle_queuesKeep (s : State) (x : Xfer) : QueuesKeep s (s.settle x) := by
  have hcount := countSrc_queuesKeep s x
  cases hdst : x.dst with
  | scratch o lt =>
    rw [settle_scratch hdst]
    exact hcount.trans (.of rfl rfl)
  | device =>
    rw [settle_device hdst]
    exact hcount.trans ((settleRows_queuesKeep (s.countSrc x).1 _ ([], (s.countSrc x).2)).trans (.of rfl rfl))
  | ray p f =>
    have hx := countSrc_fst s x
    unfold State.settle
    generalize s.countSrc x = r at hx hcount ⊢
    obtain ⟨y, u⟩ := r
    have hray : y.dst = .ray p f := (congrArg Xfer.dst hx :).trans hdst
    dsimp only at hcount ⊢
    simp only [hray]
    refine hcount.trans ?_
    split
    · exact QueuesKeep.trans (t := { u with xfers := u.xfers.filter (·.id != y.id) }) (.of rfl rfl)
        (foldl_rayOnly _ (fun _ _ => enqueue_rayOnly ..) _ _).queuesKeep
    · exact .of rfl rfl

end

end Sys2Proof.Machine
end

section
/-!
PROOF. The start of a descriptor, in its stages, and what the commands of descriptors do.
-/
namespace Sys2Proof.Machine

/-! ## The stages of a start -/

/-- The credits of a descriptor are taken. -/
def State.dmaPay (s : State) (t : Nat) (d : Desc) : State := match d.kc with
  | some c => if s.dmaCredits d > 0 then s.modTile t fun x =>
      { x with kc := sput x.kc c ((sget ({} : Counter) x.kc c).take (s.dmaCredits d) (s.speculative d.tag))
               done := { x.done with credit := x.done.credit + s.dmaCredits d } } else s
  | none => s

/-- A descriptor of the recovery point in force has started. -/
def State.dmaNote (s : State) (t : Nat) (d : Desc) : State := s.modTile t fun x =>
  if d.rp == x.rpNo && !x.started.contains d.icount then { x with started := x.started ++ [d.icount] } else x

def DmaDst.includes (dst : DmaDst) (t : Nat) : Bool := match dst with
  | .sites l => l.contains t
  | _ => false

/-- The source completion counter counts at once where every byte has been read. -/
def State.dmaCountSrc (s : State) (t : Nat) (d : Desc) (rows : List XRow) : State := if d.again then s else match d.ccSrc with
  | some c => if rows.all (·.src.isNone) then s.addCC t c 1 d.tag else s
  | none => s

/-- The transfer with the number `id` of a descriptor that has read `rows`. -/
def Desc.xfer (d : Desc) (t : Nat) (rows : List XRow) (id : Nat) (dest : XDst) : Xfer :=
  { id := id, site := t, dst := dest, rows := rows, add := d.op == 1, cls := d.sclass, tag := d.tag,
    ccSrc := if d.again || rows.all (·.src.isNone) then none else d.ccSrc, again := d.again }

def Desc.counter (d : Desc) (site : Nat) : Option (Nat × Nat) := if d.again then none else d.ccDst.map (site, ·)

/-- One destination site of a descriptor. -/
def State.dmaSite (t : Nat) (d : Desc) (rows : List XRow) (pf : Option (Nat × Prefetch)) (r : List Nat × State) (o : Nat) :
    List Nat × State :=
  let id := r.2.nextId
  let s := { r.2 with nextId := r.2.nextId + 1 }
  let b := d.xfer t rows id (.scratch o (s.tileOf o))
  (r.1 ++ [id], s.settle { b with cc := d.counter o, pf := pf, ccSrc := if r.1.isEmpty then b.ccSrc else none })

/-- The transfers of a descriptor, one for each destination. -/
def State.dmaPlace (s : State) (t : Nat) (d : Desc) (dst : DmaDst) (rows : List XRow) (pf : Option (Nat × Prefetch)) :
    List Nat × State := match dst with
  | .device => ([s.nextId],
      { s with nextId := s.nextId + 1 }.settle { d.xfer t rows s.nextId .device with cc := d.counter t })
  | .sites l => l.foldl (State.dmaSite t d rows pf) ([], s)
  | .ray sr f => ([s.nextId], { s with nextId := s.nextId + 1 }.settle (d.xfer t rows s.nextId (.ray sr.outPort f)))

/-- The requests for source rows in the slow tier. -/
def State.dmaAsk (s : State) (rows : List XRow) (ids : List Nat) : State :=
  (rows.zip (List.range rows.length)).foldl (fun s (row, r) =>
    match row.src with
    | none => s
    | some a => { s with nextId := s.nextId + 1, slow := s.slow ++
        [{ id := s.nextId, port := slowPort a, addr := a, len := row.len, xfers := ids.map fun x => (x, r) }] }) s

theorem dmaStart_eq (s : State) (t : Nat) (d : Desc) (dst : DmaDst) : s.dmaStart t d dst =
    let (rows, u) := ((s.dmaPay t d).dmaNote t d).dmaRead t d
    let u := u.readPoison t d.tag (dst.includes t) (rows.foldl (fun acc r => acc ++ r.data) [])
    let p := (u.dmaCountSrc t d rows).dmaPlace t d dst rows (u.pfEntry d)
    p.2.dmaAsk rows p.1 := by
  suffices h : ∀ v, v = (s.dmaPay t d).dmaNote t d → s.dmaStart t d dst =
      let (rows, u) := v.dmaRead t d
      let u := u.readPoison t d.tag (dst.includes t) (rows.foldl (fun acc r => acc ++ r.data) [])
      let p := (u.dmaCountSrc t d rows).dmaPlace t d dst rows (u.pfEntry d)
      p.2.dmaAsk rows p.1 from h _ rfl
  intro v hv
  unfold State.dmaStart
  extract_lets n spec paid note noted own cc
  have hnoted : noted = v := hv.symm
  rw [hnoted]
  generalize v.dmaRead t d = r
  obtain ⟨rows, w⟩ := r
  cases dst <;> rfl

/-! ## What each stage keeps -/

theorem dmaPay_scratch (s : State) (t : Nat) (d : Desc) (i : Nat) : ((s.dmaPay t d).tile i).scratch = (s.tile i).scratch := by
  unfold State.dmaPay
  split
  · split
    · exact modTile_keeps Tile.scratch s t (fun _ => by rfl) i
    · rfl
  · rfl

theorem dmaPay_dmaq (s : State) (t : Nat) (d : Desc) (i : Nat) : ((s.dmaPay t d).tile i).dmaq = (s.tile i).dmaq := by
  unfold State.dmaPay
  split
  · split
    · exact modTile_keeps Tile.dmaq s t (fun _ => by rfl) i
    · rfl
  · rfl

theorem dmaPay_map (s : State) (t : Nat) (d : Desc) : (s.dmaPay t d).map = s.map := by
  unfold State.dmaPay
  split
  · split <;> rfl
  · rfl

theorem dmaPay_kc {s : State} {t : Nat} {d : Desc} {c : Nat} (hkc : d.kc = some c) (hcredits : 0 < s.dmaCredits d) :
    ((s.dmaPay t d).tile t).kc =
      sput (s.tile t).kc c ((sget {} (s.tile t).kc c).take (s.dmaCredits d) (s.speculative d.tag)) := by
  simp only [State.dmaPay, hkc, gt_iff_lt, hcredits, if_true, State.tile_modTile_same]

theorem dmaNote_queuesKeep (s : State) (t : Nat) (d : Desc) : QueuesKeep s (s.dmaNote t d) := by
  refine modTile_queuesKeep s t _ (fun x => ?_) (fun x => ?_) fun x => ?_ <;> split <;> rfl

theorem dmaCountSrc_queuesKeep (s : State) (t : Nat) (d : Desc) (rows : List XRow) :
    QueuesKeep s (s.dmaCountSrc t d rows) := by
  unfold State.dmaCountSrc
  split
  · exact QueuesKeep.refl s
  · split
    · split
      · exact addCC_queuesKeep ..
      · exact QueuesKeep.refl s
    · exact QueuesKeep.refl s

theorem dmaSite_queuesKeep (t : Nat) (d : Desc) (rows : List XRow) (pf : Option (Nat × Prefetch)) (r : List Nat × State)
    (o : Nat) : QueuesKeep r.2 (State.dmaSite t d rows pf r o).2 :=
  QueuesKeep.trans (t := { r.2 with nextId := r.2.nextId + 1 }) (.of rfl rfl) (settle_queuesKeep ..)

theorem dmaSites_queuesKeep (t : Nat) (d : Desc) (rows : List XRow) (pf : Option (Nat × Prefetch)) (l : List Nat)
    (r : List Nat × State) : QueuesKeep r.2 (l.foldl (State.dmaSite t d rows pf) r).2 := by
  induction l generalizing r with
  | nil => exact QueuesKeep.refl _
  | cons o l ih => exact (dmaSite_queuesKeep t d rows pf r o).trans (ih _)

theorem dmaPlace_queuesKeep (s : State) (t : Nat) (d : Desc) (dst : DmaDst) (rows : List XRow)
    (pf : Option (Nat × Prefetch)) : QueuesKeep s (s.dmaPlace t d dst rows pf).2 := by
  have hfresh (x : Xfer) : QueuesKeep s ({ s with nextId := s.nextId + 1 }.settle x) :=
    QueuesKeep.trans (t := { s with nextId := s.nextId + 1 }) (.of rfl rfl) (settle_queuesKeep ..)
  cases dst with
  | device => exact hfresh _
  | sites l => exact dmaSites_queuesKeep t d rows pf l ([], s)
  | ray sr f => exact hfresh _

theorem dmaAsk_keeps {α : Type} (g : State → α) (hg : ∀ (s : State) n l, g { s with nextId := n, slow := l } = g s) (s : State)
    (rows : List XRow) (ids : List Nat) : g (s.dmaAsk rows ids) = g s := by
  refine foldl_keeps g _ (fun s p => ?_) _ s
  obtain ⟨row, r⟩ := p
  dsimp only
  split
  · rfl
  · exact hg ..

theorem dmaAsk_queuesKeep (s : State) (rows : List XRow) (ids : List Nat) : QueuesKeep s (s.dmaAsk rows ids) :=
  .of (dmaAsk_keeps State.tiles (fun _ _ _ => rfl) ..) (dmaAsk_keeps State.map (fun _ _ _ => rfl) ..)

/-! ## The transfers of a start -/

theorem QueuesKeep.tileOf {s u : State} (h : QueuesKeep s u) (o : Nat) : u.tileOf o = s.tileOf o := by
  simp only [State.tileOf, State.siteEnt, h.map]

section
variable {t : Nat} {d : Desc} {rows : List XRow} {pf : Option (Nat × Prefetch)}

theorem dmaSite_nextId (r : List Nat × State) (o : Nat) : (State.dmaSite t d rows pf r o).2.nextId = r.2.nextId + 1 := by
  unfold State.dmaSite
  dsimp only
  rw [settle_scratch (o := o) (lt := { r.2 with nextId := r.2.nextId + 1 }.tileOf o) rfl]
  exact (congrArg State.nextId (countSrc_rest ..) :)

/-- A transfer with an earlier number stays. -/
theorem dmaSite_stays {r : List Nat × State} {x : Xfer} (hx : x ∈ r.2.xfers) (hid : x.id < r.2.nextId) (o : Nat) :
    x ∈ (State.dmaSite t d rows pf r o).2.xfers := by
  unfold State.dmaSite
  dsimp only
  rw [settle_scratch (o := o) (lt := { r.2 with nextId := r.2.nextId + 1 }.tileOf o) rfl]
  refine List.mem_append_left _ (List.mem_filter.2 ⟨hx, ?_⟩)
  simpa [Desc.xfer] using hid.ne

theorem dmaSite_sends (hrows : rows.map (fun r => (r.off, r.len)) = d.dstRows) (r : List Nat × State) (o : Nat) :
    ∃ x ∈ (State.dmaSite t d rows pf r o).2.xfers, d.Sends t (.scratch o (r.2.tileOf o)) x ∧ x.id = r.2.nextId := by
  unfold State.dmaSite
  dsimp only
  rw [settle_scratch (o := o) (lt := { r.2 with nextId := r.2.nextId + 1 }.tileOf o) rfl]
  exact ⟨_, List.mem_append_right _ (List.mem_singleton_self _), ⟨rfl, rfl, rfl, rfl, rfl, hrows⟩, rfl⟩

theorem dmaSites_stays {x : Xfer} (l : List Nat) {r : List Nat × State} (hx : x ∈ r.2.xfers) (hid : x.id < r.2.nextId) :
    x ∈ (l.foldl (State.dmaSite t d rows pf) r).2.xfers := by
  induction l generalizing r with
  | nil => exact hx
  | cons o l ih => exact ih (dmaSite_stays hx hid o) (by rw [dmaSite_nextId]; omega)

theorem dmaSites_sends (hrows : rows.map (fun r => (r.off, r.len)) = d.dstRows) (l : List Nat) (r : List Nat × State) :
    ∀ o ∈ l, ∃ x ∈ (l.foldl (State.dmaSite t d rows pf) r).2.xfers, d.Sends t (.scratch o (r.2.tileOf o)) x := by
  induction l generalizing r with
  | nil => exact fun o ho => nomatch ho
  | cons p l ih =>
    intro o ho
    obtain rfl | hl := List.mem_cons.1 ho
    · obtain ⟨x, hx, hsends, hid⟩ := dmaSite_sends (t := t) (pf := pf) hrows r o
      exact ⟨x, dmaSites_stays l hx (by rw [dmaSite_nextId]; omega), hsends⟩
    · have h := ih (State.dmaSite t d rows pf r p) o hl
      rwa [(dmaSite_queuesKeep t d rows pf r p).tileOf] at h

end

theorem settleRows_zip (x : Xfer) (u : State) : ((x.rows.zip (List.range x.rows.length)).foldl (State.settleRow x) ([], u)).1.map
    (fun r => (r.off, r.len)) = x.rows.map fun r => (r.off, r.len) := by
  have hfst : (x.rows.zip (List.range x.rows.length)).map Prod.fst = x.rows := List.map_fst_zip (by simp)
  calc _ = (x.rows.zip (List.range x.rows.length)).map fun p => (p.1.off, p.1.len) := by
        rw [settleRows_rows, List.map_nil, List.nil_append]
    _ = ((x.rows.zip (List.range x.rows.length)).map Prod.fst).map fun r => (r.off, r.len) := by rw [List.map_map]; rfl
    _ = x.rows.map fun r => (r.off, r.len) := by rw [hfst]

theorem settle_device_sends {s : State} {t : Nat} {d : Desc} {x : Xfer} (h : d.Sends t .device x) :
    ∃ y ∈ (s.settle x).xfers, d.Sends t .device y := by
  obtain ⟨hdst, hsite, hadd, htag, hcls, hrows⟩ := h
  rw [settle_device hdst, countSrc_fst]
  exact ⟨_, List.mem_append_right _ (List.mem_singleton_self _), hdst, hsite, hadd, htag, hcls,
    (settleRows_zip { x with ccSrc := (s.countSrc x).1.ccSrc } _).trans hrows⟩

theorem dmaStart_queuesKeep (s : State) (t : Nat) (d : Desc) (dst : DmaDst) :
    QueuesKeep (s.dmaPay t d) (s.dmaStart t d dst) := by
  rw [dmaStart_eq]
  have hread := (dmaRead_memOnly ((s.dmaPay t d).dmaNote t d) t d).queuesKeep
  generalize ((s.dmaPay t d).dmaNote t d).dmaRead t d = r at hread ⊢
  obtain ⟨rows, u⟩ := r
  exact (dmaNote_queuesKeep _ t d).trans (hread.trans ((readPoison_memOnly ..).queuesKeep.trans
    ((dmaCountSrc_queuesKeep ..).trans ((dmaPlace_queuesKeep ..).trans (dmaAsk_queuesKeep ..)))))

section
variable {s : State} {t : Nat} {d : Desc}

theorem dmaStart_sends_sites (hsrc : d.src.isRemote = false) (l : List Nat) :
    ∀ o ∈ l, ∃ x ∈ (s.dmaStart t d (.sites l)).xfers, d.Sends t (.scratch o (s.tileOf o)) x := by
  rw [dmaStart_eq]
  have hmap : (s.dmaPay t d).map = s.map := dmaPay_map s t d
  have hread := (dmaNote_queuesKeep (s.dmaPay t d) t d).trans
    (dmaRead_memOnly ((s.dmaPay t d).dmaNote t d) t d).queuesKeep
  have hrows := dmaRead_rows ((s.dmaPay t d).dmaNote t d) t hsrc
  generalize ((s.dmaPay t d).dmaNote t d).dmaRead t d = r at hread hrows ⊢
  obtain ⟨rows, u⟩ := r
  intro o ho
  dsimp only at hread hrows ⊢
  generalize u.readPoison t d.tag ((DmaDst.sites l).includes t) (rows.foldl (fun acc r => acc ++ r.data) []) = v,
    readPoison_memOnly u t d.tag ((DmaDst.sites l).includes t) (rows.foldl (fun acc r => acc ++ r.data) []) = hv
  have hkeep := hread.trans (hv.queuesKeep.trans (dmaCountSrc_queuesKeep v t d rows))
  obtain ⟨x, hx, hsends⟩ := dmaSites_sends (t := t) (pf := v.pfEntry d) hrows l ([], v.dmaCountSrc t d rows) o ho
  rw [dmaAsk_keeps State.xfers (fun _ _ _ => rfl)]
  refine ⟨x, hx, ?_⟩
  rwa [hkeep.tileOf, State.tileOf, State.siteEnt, hmap] at hsends

theorem dmaStart_sends_device (hsrc : d.src.isRemote = false) :
    ∃ x ∈ (s.dmaStart t d .device).xfers, d.Sends t .device x := by
  rw [dmaStart_eq]
  have hrows := dmaRead_rows ((s.dmaPay t d).dmaNote t d) t hsrc
  generalize ((s.dmaPay t d).dmaNote t d).dmaRead t d = r at hrows ⊢
  obtain ⟨rows, u⟩ := r
  dsimp only at hrows ⊢
  rw [dmaAsk_keeps State.xfers (fun _ _ _ => rfl)]
  exact settle_device_sends ⟨rfl, rfl, rfl, rfl, rfl, hrows⟩

end

/-! ## The commands of descriptors -/

theorem replayEnd_keeps {α : Type} (g : Tile → α) (hg : ∀ (x : Tile), g { x with replayTo := none, replayed := [], redo := none } = g x)
    (x : Tile) : g x.replayEnd = g x := by
  unfold Tile.replayEnd
  dsimp only
  split
  · exact hg x
  · rfl

theorem popDesc_queues (x : Tile) (q : Nat) : (x.popDesc q).scratch = x.scratch ∧ (x.popDesc q).kc = x.kc :=
  ⟨replayEnd_keeps Tile.scratch (fun _ => rfl) _, replayEnd_keeps Tile.kc (fun _ => rfl) _⟩

/-- A descriptor that starts has a source that this module can read. -/
theorem dmaWait_src {s : State} {t q : Nat} {d : Desc} (h : s.dmaWait t q d = none) : d.src.isRemote = false := by
  by_contra hsrc
  have hremote : d.src.isRemote = true := by simpa using hsrc
  simp only [State.dmaWait, hremote, Bool.true_or, if_true] at h
  split at h <;> try split at h <;> try split at h
  all_goals cases h

section
variable {s : State} {t q : Nat} {d : Desc}

theorem raise_eq (s : State) (page i : Nat) : ∃ rs es, s.raise page i = { s with regs := rs, events := es } := ⟨_, _, rfl⟩

/-- A wait that counts leaves everything but registers and events. -/
theorem stall_eq (s : State) (t eng c : Nat) : ∃ rs es, s.stall t eng c = { s with regs := rs, events := es } := by
  unfold State.stall
  dsimp only
  split
  · exact ⟨s.regs, s.events, rfl⟩
  · split
    · exact raise_eq ..
    · exact ⟨_, s.events, rfl⟩

theorem stall_dmaResCheck (s : State) (t eng c : Nat) (d : Desc) : (s.stall t eng c).dmaResCheck d = s.dmaResCheck d := by
  obtain ⟨rs, es, hstall⟩ := stall_eq s t eng c
  rw [hstall]
  rfl

theorem dmaTry_waits {c : Nat} (hhead : s.dmaHead t q = some d) (hcarry : s.carrying t = true)
    (hwait : s.dmaWait t q d = some c) (hok : s.dmaResCheck d = .ok) : s.dmaTry t q d.op = s.stall t engDma c := by
  simp [State.dmaTry, hhead, hcarry, hwait, stall_dmaResCheck, hok]

theorem dmaTry_parity {off : Nat} (hhead : s.dmaHead t q = some d) (hcarry : s.carrying t = true)
    (hwait : s.dmaWait t q d = none) (hbad : d.ownBad s t = some off) : s.dmaTry t q d.op = s.parityError t
      { off := off, offs := (s.tile t).allBad d.srcRows, acc := false, icount := d.icount, dma := some (d.rp, d.icount) } := by
  simp [State.dmaTry, hhead, hcarry, hwait, hbad]

theorem dmaTry_starts {dst : DmaDst} (hhead : s.dmaHead t q = some d) (hcarry : s.carrying t = true)
    (hwait : s.dmaWait t q d = none) (hsound : d.ownBad s t = none) (hdst : s.dmaDst t q d = some dst) :
    s.dmaTry t q d.op = (s.modTile t (·.popDesc q)).dmaStart t d dst := by
  simp [State.dmaTry, hhead, hcarry, hwait, hsound, hdst]

/-- The command of its operation does with the head of a queue what `State.dmaTry` does. -/
theorem dma_ends (ht : t < 1152) (hq : q < 8) (haw : s.Awake) :
    (d.op = 0 → Ends (exec (.dmaCopy t q) s) (s.dmaTry t q d.op)) ∧ (d.op = 1 → Ends (exec (.dmaReduceAdd t q) s) (s.dmaTry t q d.op)) ∧
    (d.op = 2 → Ends (exec (.prism t q) s) (s.dmaTry t q d.op)) := by
  have hends (op : Nat) : Ends (runPart (t < 1152 && q < 8) s (·.awake (·.dmaTry t q op))) (s.dmaTry t q op) := by
    rw [show s.dmaTry t q op = s.awake (·.dmaTry t q op) by simp [State.awake, haw.light]]
    exact runPart_ends (by simp [ht, hq]) haw.on _
  exact ⟨fun h => h ▸ hends 0, fun h => h ▸ hends 1, fun h => h ▸ hends 2⟩

end

/-! ## Placing a descriptor -/

/-- Whether a descriptor that had started has a part to the own scratch of its tile. -/
def State.dmaOwn (s : State) (t : Nat) (d : Desc) : Bool := match d.dst with
  | .tile lt _ => if d.op == 2 then (s.prismSites d).contains t else s.siteOf lt == some t
  | _ => false

section
variable {s : State} {t : Nat} {d : Desc}

theorem placed_first (h : ((s.tile t).replayTo.isSome && (s.tile t).started.contains d.icount) = false) :
    s.placed t d = some d := by
  simp only [State.placed, h, Bool.false_eq_true, if_false]

theorem placed_again (h : ((s.tile t).replayTo.isSome && (s.tile t).started.contains d.icount) = true) :
    s.placed t d = if s.dmaOwn t d then some { d with again := true } else none := by
  refine (if_pos h).trans ?_
  unfold State.dmaOwn
  clear h
  rcases d with ⟨src, dst⟩
  cases dst <;> rfl

end

/-- What DMA makes of the queue that its word names: the descriptor that `State.placed` gives, where it gives one. -/
theorem dma_places {s : State} {t : Nat} {w : BitVec 128} {d : Desc} (hop : isOp w 0x30 = true)
    (hc : s.CanIssue t w (s.dmaIssue t w)) (hd : parseDesc ((s.tile t).bytes (64 * fld w 60 47) 64) = some d) :
    let r := s.ready t [(64 * fld w 60 47, 64)] []
    Performs (exec (.dma t w) s) t
      (match r.placed t { d with tag := s.tagOf t, start := s.frameStart t, icount := (s.tile t).icount, rp := (s.tile t).rpNo } with
      | none => r
      | some d => r.modTile t fun x =>
          { x with dmaq := sset [] x.dmaq (fld w 63 61) (sget [] x.dmaq (fld w 63 61) ++ [d]) }) := by
  have hrun := issue_performs_at (q := fun s => s.dmaIssue t w) hc hop fun s =>
      match parseDesc ((s.tile t).bytes (64 * fld w 60 47) 64) with
      | none => s
      | some d =>
        match s.placed t { d with tag := s.tagOf t, start := s.frameStart t, icount := (s.tile t).icount, rp := (s.tile t).rpNo } with
        | none => s
        | some d => s.modTile t fun x => { x with dmaq := sset [] x.dmaq (fld w 63 61) (sget [] x.dmaq (fld w 63 61) ++ [d]) }
  have htile : (s.ready t [(64 * fld w 60 47, 64)] []).tile t = s.tile t := (ready_tile_same ..).trans (Tile.retirePf_nil _)
  have hstart : (s.ready t [(64 * fld w 60 47, 64)] []).frameStart t = s.frameStart t := by
    simp only [State.frameStart, htile, (ready_image s t _ []).gn]
  rw [show (s.dmaIssue t w).reads = [(64 * fld w 60 47, 64)] from rfl, show (s.dmaIssue t w).writes = [] from rfl] at hrun
  simp only [htile, hd, ready_tagOf, hstart] at hrun
  exact hrun

/-- Settles O16: `dma_places`, `dma_ends` with what `State.dmaTry` does, and what a start keeps and leaves. -/
theorem descriptorsArePlacedAndStart : Obligations.DescriptorsArePlacedAndStart := by
  unfold Obligations.DescriptorsArePlacedAndStart
  refine ⟨fun s t w d => ?_, fun s t q d ht hq haw hcarry hhead => ?_⟩
  · intro a q r hop hc hdesc e own again place
    have hplace : Performs (exec (.dma t w) s) t (match r.placed t e with
      | none => r
      | some d => place d) := dma_places hop hc hdesc
    have htile : r.tile t = s.tile t := (ready_tile_same ..).trans (Tile.retirePf_nil _)
    refine ⟨fun hagain => ?_, fun hagain hown => ?_, fun hagain hown => ?_⟩
    · rwa [placed_first (by rwa [htile])] at hplace
    · rwa [placed_again (by rwa [htile]), if_pos (show r.dmaOwn t e = true from hown)] at hplace
    · rwa [placed_again (by rwa [htile]), if_neg (by simp [show r.dmaOwn t e = false from hown])] at hplace
  · intro all
    have hends {u : State} (hu : s.dmaTry t q d.op = u) : all u := hu ▸ dma_ends ht hq haw
    refine ⟨fun c hwait hok => hends (dmaTry_waits hhead hcarry hwait hok),
      fun off hwait hbad => hends (dmaTry_parity hhead hcarry hwait hbad), fun dst hwait hsound hdst => ?_⟩
    have hsrc := dmaWait_src hwait
    intro u
    have hkeep : QueuesKeep _ u := dmaStart_queuesKeep (s.modTile t (·.popDesc q)) t d dst
    obtain ⟨-, hkc⟩ := popDesc_queues (s.tile t) q
    refine ⟨hends (dmaTry_starts hhead hcarry hwait hsound hdst), fun c hc hcredits => ?_, ?_, fun i => ⟨?_, fun hi => ?_⟩,
      fun l hl => ?_, fun hdev => ?_⟩
    · rw [hkeep.kc, dmaPay_kc (s := s.modTile t (·.popDesc q)) hc hcredits, State.tile_modTile_same, hkc]
      rfl
    · rw [hkeep.dmaq, dmaPay_dmaq, State.tile_modTile_same]
    · rw [hkeep.scratch, dmaPay_scratch]
      exact modTile_keeps Tile.scratch s t (fun x => (popDesc_queues x q).1) i
    · rw [hkeep.dmaq, dmaPay_dmaq, State.tile_modTile_other s _ hi.symm]
    · subst hl
      exact dmaStart_sends_sites hsrc l
    · subst hdev
      exact dmaStart_sends_device hsrc

end Sys2Proof.Machine
end

section
/-!
PROOF. Transfers that come in: the rows that land, the bytes that landing and adding write, and the count of a transfer that has landed.
-/
namespace Sys2Proof.Machine

/-! ## The rows of a transfer -/

/-- A row whose bytes have come, or one that is done or waits for its source. -/
def XRow.landedRow (r : XRow) : XRow := if r.done || r.src.isSome then r else { r with done := true }

/-- One row of a transfer to a site: `f` puts its bytes there. -/
def Xfer.landRow (x : Xfer) (site : Nat) (f : State → XRow → State) (u : State) (r : XRow) : State :=
  if r.done || r.src.isSome then u else (f u r).markInbound x.site site r.off r.len

/-- How a transfer puts the bytes of a row into the scratch of a site. -/
def Xfer.putRow (x : Xfer) (site : Nat) (add : Bool) (u : State) (r : XRow) : State :=
  if add then u.addScratch x.agent x.again site x.tag r.off r.data else u.landScratch x.agent site x.tag r.off r.data

/-- One row, with the rows before it, as `State.landRows` takes it. -/
def Xfer.takeRow (x : Xfer) (site : Nat) (add : Bool) (rs : List XRow × State) (r : XRow) : List XRow × State :=
  if r.done || r.src.isSome then (rs.1 ++ [r], rs.2)
  else (rs.1 ++ [{ r with done := true }], (x.putRow site add rs.2 r).markInbound x.site site r.off r.len)

theorem takeRow_eq (x : Xfer) (site : Nat) (add : Bool) (rs : List XRow × State) (r : XRow) :
    x.takeRow site add rs r = (rs.1 ++ [r.landedRow], x.landRow site (x.putRow site add) rs.2 r) := by
  unfold Xfer.takeRow XRow.landedRow Xfer.landRow
  split <;> rfl

theorem takeRows_eq (x : Xfer) (site : Nat) (add : Bool) (l : List XRow) (rs : List XRow × State) :
    l.foldl (x.takeRow site add) rs = (rs.1 ++ l.map XRow.landedRow, l.foldl (x.landRow site (x.putRow site add)) rs.2) := by
  induction l generalizing rs with
  | nil => simp
  | cons r l ih => simp [ih, takeRow_eq]

section
variable {s : State} {id site lt : Nat} {x : Xfer} {add : Bool}

theorem landRows_lands (hx : s.xfers.find? (·.id == id) = some x) (hdst : x.dst = .scratch site lt) (hadd : x.add = add)
    (horder : s.inOrder x site = true) : s.landRows id add =
      let u := x.rows.foldl (x.landRow site (x.putRow site add)) s
      { u with xfers := u.xfers.map fun y => if y.id == id then { x with rows := x.rows.map XRow.landedRow } else y } := by
  have hrun : s.landRows id add =
      let r := x.rows.foldl (x.takeRow site add) ([], s)
      { r.2 with xfers := r.2.xfers.map fun y => if y.id == id then { x with rows := r.1 } else y } := by
    simp only [State.landRows, hx, hdst, hadd, horder, bne_self_eq_false, Bool.not_true, Bool.or_self, Bool.false_eq_true, if_false]
    rfl
  rw [hrun, takeRows_eq]
  rfl

theorem landRows_waits (hx : s.xfers.find? (·.id == id) = some x) (hdst : x.dst = .scratch site lt)
    (h : x.add ≠ add ∨ s.inOrder x site = false) : s.landRows id add = s := by
  simp only [State.landRows, hx, hdst]
  refine if_pos ?_
  simpa using h

end

/-! ## The bytes that land -/

theorem leNat_natLe (n x : Nat) : leNat (natLe n x) = x % 256 ^ n := by
  induction n generalizing x with
  | zero => simp [natLe, leNat, Nat.mod_one]
  | succ n ih =>
    rw [natLe, leNat, ih, pow_succ', Nat.mod_mul, BitVec.toNat_ofNat]

theorem bytes_setBytes (x : Tile) {o : Nat} {l : List Byte} (h : o + l.length ≤ scratchSize) :
    (x.setBytes o l).bytes o l.length = l := by
  apply List.ext_getElem
  · simp [Tile.bytes]
  · intro i hi hl
    simp only [Tile.bytes, List.getElem_map, List.getElem_range]
    rw [Tile.byte_setBytes_in x o i l hl (by omega)]

/-- The state up to registers, events, and the step's causes and counts. -/
def State.stored (s : State) : State :=
  { s with regs := [], events := [], steps := { s.steps with cause := 0, causeNext := 0, hdrDue := [] } }

theorem addrFault_stored (s : State) (ag : Agent) (a : Nat) : (s.addrFault ag a).stored = s.stored :=
  (congrArg State.stored (addrFault_rest s ag a) :)

theorem cause_stored (s : State) (tag i : Nat) : (s.cause tag i).stored = s.stored := by
  unfold State.cause
  split <;> rfl

theorem raise_stored (s : State) (page i : Nat) : (s.raise page i).stored = s.stored := rfl

theorem tilePoison_stored (s : State) (t tag : Nat) : (s.tilePoison t tag).stored = s.stored :=
  (cause_stored ..).trans (raise_stored s t 9)

theorem headerAdd_stored (s : State) (step sats stray : Nat) : (s.headerAdd step sats stray).stored = s.stored := by
  unfold State.headerAdd
  split <;> rfl

theorem landScratch_stored (s : State) (ag : Agent) (site tag o : Nat) (d : List PByte) :
    (s.landScratch ag site tag o d).stored =
      (s.modTile site (·.setBytes o (d.map fun b => if b.poison then 0xFF else b.val))).stored := by
  unfold State.landScratch
  dsimp only
  split
  · rw [tilePoison_stored]
    split
    · exact addrFault_stored ..
    · rfl
  · split
    · exact addrFault_stored ..
    · rfl

/-- One sound element that is added. -/
theorem addScratch_one {s : State} {ag : Agent} {again : Bool} {site tag o : Nat} {d : List PByte} (hlen : d.length = 4)
    (hpoison : d.any (·.poison) = false) (hin : o + 4 ≤ scratchSize) (hsound : (s.tile site).firstBad [(o, 4)] = none)
    {a : Word × Bool} (ha : satAdd32 (BitVec.ofNat 32 ((s.tile site).num o 4)) (BitVec.ofNat 32 (leNat (d.map (·.val)))) = a) :
    s.addScratch ag again site tag o d =
      let u := s.modTile site (·.setBytes o (natLe 4 a.1.toNat))
      if a.2 then (if again then u.cause tag cOverflow else (u.cause tag cOverflow).headerAdd tag 1 0) else u := by
  unfold State.addScratch
  have hout : ¬(o + d.length > scratchSize && !d.isEmpty) = true := by simp; omega
  have hsound' : ((s.tile site).firstBad [(o + 4 * 0, 4)]) = none := hsound
  dsimp only
  rw [if_neg hout, hlen, show List.range (4 / 4) = [0] from rfl, List.foldl_cons, List.foldl_nil, hsound']
  have htake : (d.drop (4 * 0)).take 4 = d := by simp [← hlen]
  rw [htake]
  have ha' : satAdd32 (BitVec.ofNat 32 ((s.tile site).num (o + 4 * 0) 4)) (BitVec.ofNat 32 (leNat (d.map (·.val)))) = a := ha
  simp only [hpoison, Bool.false_eq_true, if_false, ha']
  obtain ⟨y, sat⟩ := a
  rfl

theorem addScratch_adds {s : State} {ag : Agent} {again : Bool} {site tag o : Nat} {d : List PByte} (hlen : d.length = 4)
    (hpoison : d.any (·.poison) = false) (hin : o + 4 ≤ scratchSize) (hsound : (s.tile site).firstBad [(o, 4)] = none)
    {a : Word × Bool} (ha : satAdd32 (BitVec.ofNat 32 ((s.tile site).num o 4)) (BitVec.ofNat 32 (leNat (d.map (·.val)))) = a) :
    let u := s.addScratch ag again site tag o d
    (u.tile site).num o 4 = a.1.toNat ∧ (∀ k, k < o ∨ o + 4 ≤ k → (u.tile site).byte k = (s.tile site).byte k) ∧
      (∀ i, i ≠ site → (u.tile i).scratch = (s.tile i).scratch) ∧ (a.2 = false → u.mem = s.mem ∧ u.regs = s.regs) := by
  intro u
  have hu : u = _ := addScratch_one hlen hpoison hin hsound ha
  clear_value u
  have hstored : u.stored = (s.modTile site (·.setBytes o (natLe 4 a.1.toNat))).stored := by
    rw [hu]
    dsimp only
    split
    · split
      · exact cause_stored ..
      · exact (headerAdd_stored ..).trans (cause_stored ..)
    · rfl
  have htile (i : Nat) : u.tile i = (s.modTile site (·.setBytes o (natLe 4 a.1.toNat))).tile i :=
    tile_of_tiles (congrArg State.tiles hstored :) i
  have hwidth : (natLe 4 a.1.toNat).length = 4 := natLe_length ..
  refine ⟨?_, fun k hk => ?_, fun i hi => ?_, fun hsat => ?_⟩
  · have hbytes := bytes_setBytes (s.tile site) (o := o) (l := natLe 4 a.1.toNat) (by omega)
    rw [hwidth] at hbytes
    rw [htile, State.tile_modTile_same, Tile.num, hbytes, leNat_natLe]
    exact Nat.mod_eq_of_lt a.1.isLt
  · rw [htile, State.tile_modTile_same, Tile.byte_setBytes_out _ _ _ _ (by omega)]
  · rw [htile, State.tile_modTile_other s _ (Ne.symm hi)]
  · rw [hu, hsat]
    exact ⟨rfl, rfl⟩

/-! ## The count of a transfer that has landed -/

/-- What TRANSFER_LANDED does: the rows that can be performed at a device destination, and the count. -/
def State.countLanded (s : State) (id : Nat) : State := match s.xfers.find? (·.id == id) with
  | none => s
  | some x =>
    let s := match x.dst with
      | .device => s.settle x
      | _ => s
    match s.xfers.find? (·.id == id) with
    | none => s
    | some x => if x.rows.all (·.done) then s.landed x else s

theorem transferLanded_ends {s : State} (hs : s.Serves) (id : Nat) :
    Ends (exec (.transferLanded id) s) (s.countLanded id) := runOn_ends hs.on (·.countLanded id)

section
variable {s : State} {id : Nat} {x : Xfer}

theorem countLanded_scratch (hx : s.xfers.find? (·.id == id) = some x) (hdst : x.dst ≠ .device) :
    s.countLanded id = if x.rows.all (·.done) then s.landed x else s := by
  simp only [State.countLanded, hx]

theorem countLanded_device (hx : s.xfers.find? (·.id == id) = some x) (hdst : x.dst = .device) {y : Xfer}
    (hy : (s.settle x).xfers.find? (·.id == id) = some y) :
    s.countLanded id = if y.rows.all (·.done) then (s.settle x).landed y else s.settle x := by
  simp only [State.countLanded, hx, hdst, hy]

theorem settle_device_find (hx : s.xfers.find? (·.id == id) = some x) (hdst : x.dst = .device) :
    ∃ y, (s.settle x).xfers.find? (·.id == id) = some y ∧ y.cc = x.cc ∧ y.tag = x.tag ∧
      y.rows.map (fun r => (r.off, r.len)) = x.rows.map (fun r => (r.off, r.len)) := by
  have hid : x.id = id := by simpa using List.find?_some (p := fun x : Xfer => x.id == id) hx
  rw [settle_device hdst, countSrc_fst]
  generalize (s.countSrc x).1.ccSrc = c
  have hrows := settleRows_zip { x with ccSrc := c } (s.countSrc x).2
  dsimp only at hrows ⊢
  generalize (x.rows.zip (List.range x.rows.length)).foldl (State.settleRow { x with ccSrc := c }) ([], (s.countSrc x).2) = r
    at hrows ⊢
  refine ⟨{ x with ccSrc := c, rows := r.1 }, ?_, rfl, rfl, hrows⟩
  rw [List.find?_append, List.find?_eq_none.2 (by simp [hid])]
  simp [hid]

end

/-- The completion counter of a transfer counts. -/
def State.landedCount (s : State) (x : Xfer) : State := match x.cc with
  | some (site, c) => s.addCC site c 1 x.tag
  | none => s

/-- The prefetch entry of a transfer stands. -/
def State.landedPf (s : State) (x : Xfer) : State := match x.dst, x.pf with
  | .scratch site _, some (k, p) => s.modTile site fun y => { y with pf := sput y.pf k p }
  | _, _ => s

theorem landed_eq (s : State) (x : Xfer) :
    s.landed x = ({ s with xfers := s.xfers.filter (·.id != x.id) }.landedCount x).landedPf x := rfl

theorem landedPf_keeps {α : Type} (g : Tile → α) (hg : ∀ x l, g { x with pf := l } = g x) (s : State) (x : Xfer) (i : Nat) :
    g ((s.landedPf x).tile i) = g (s.tile i) := by
  unfold State.landedPf
  split
  · exact modTile_keeps g s _ (fun y => hg y _) i
  · rfl

theorem landedPf_rest (s : State) (x : Xfer) : { s.landedPf x with tiles := [] } = { s with tiles := [] } := by
  unfold State.landedPf
  split <;> rfl

theorem landedCount_keeps {α : Type} (g : Tile → α) (hg : ∀ x l, g { x with cc := l } = g x) (s : State) (x : Xfer) (i : Nat) :
    g ((s.landedCount x).tile i) = g (s.tile i) := by
  unfold State.landedCount
  split
  · exact modTile_keeps g s _ (fun y => hg y _) i
  · rfl

theorem landedCount_rest (s : State) (x : Xfer) : { s.landedCount x with tiles := [] } = { s with tiles := [] } := by
  unfold State.landedCount
  split <;> rfl

theorem landedCount_cc (s : State) (x : Xfer) (i : Nat) : ((s.landedCount x).tile i).cc = match x.cc with
    | some (site, c) => if i = site then
        sput (s.tile i).cc c ((sget {} (s.tile i).cc c).add 1 (s.speculative x.tag)) else (s.tile i).cc
    | none => (s.tile i).cc := by
  unfold State.landedCount
  cases x.cc with
  | none => rfl
  | some p =>
    dsimp only [State.addCC]
    split
    · rename_i hi
      rw [hi, State.tile_modTile_same]
    · rename_i hi
      rw [s.tile_modTile_other _ (Ne.symm hi)]

theorem landedPf_stands {s : State} {x : Xfer} {site lt k : Nat} {p : Prefetch} (hdst : x.dst = .scratch site lt)
    (hpf : x.pf = some (k, p)) : sfind ((s.landedPf x).tile site).pf k = some p := by
  simp [State.landedPf, hdst, hpf]

/-- Settles O17: the rows of a transfer (`landRows_lands`), the bytes that they write, and the stages of `State.landed`. -/
theorem inboundTransfersLandAndCount : Obligations.InboundTransfersLandAndCount := by
  unfold Obligations.InboundTransfersLandAndCount
  refine ⟨fun s id site lt x hs hx hdst => ?_, fun s ag site tag o d => ?_, fun s ag again site tag o d => ?_,
    fun s id x hs hx => ⟨fun hdst hall => ?_, fun hdst hall => ?_, fun hdst => ?_⟩, fun s x => ?_⟩
  · intro step done
    have hends (add : Bool) : Ends (runOn s (·.landRows id add)) (s.landRows id add) := runOn_ends hs.on _
    refine ⟨fun hadd horder => ?_, fun hadd horder => ?_, fun h => ?_, fun h => ?_⟩
    · have h := hends false
      rwa [landRows_lands hx hdst hadd horder] at h
    · have h := hends true
      rwa [landRows_lands hx hdst hadd horder] at h
    · have hrun := hends false
      rwa [landRows_waits hx hdst (by simpa using h)] at hrun
    · have hrun := hends true
      rwa [landRows_waits hx hdst (by simpa using h)] at hrun
  · intro u
    have hu := landScratch_stored s ag site tag o d
    have htile (i : Nat) : u.tile i = (s.modTile site (·.setBytes o (d.map fun b => if b.poison then 0xFF else b.val))).tile i :=
      tile_of_tiles (congrArg State.tiles hu :) i
    refine ⟨fun k => ?_, fun i hi => ?_, (congrArg State.mem hu :), (congrArg State.xfers hu :)⟩
    · rw [htile, State.tile_modTile_same, Tile.byte_setBytes, List.length_map]
      have hget : (d.map fun b => if b.poison then (0xFF : Byte) else b.val).getD (k - o) 0 =
        if (d.getD (k - o) ⟨0, false⟩).poison then 0xFF else (d.getD (k - o) ⟨0, false⟩).val :=
          List.getD_map (f := fun b : PByte => if b.poison then (0xFF : Byte) else b.val) (d := ⟨0, false⟩) ..
      rw [hget]
    · rw [htile, State.tile_modTile_other s _ (Ne.symm hi)]
  · intro u a hlen hpoison hin hsound
    exact addScratch_adds hlen hpoison hin hsound rfl
  · have hrun := transferLanded_ends hs id
    rwa [countLanded_scratch hx hdst, if_pos hall] at hrun
  · have hrun := transferLanded_ends hs id
    rwa [countLanded_scratch hx hdst, if_neg (by simp [hall])] at hrun
  · obtain ⟨y, hfind, hcc, htag, hrows⟩ := settle_device_find hx hdst
    refine ⟨y, hfind, hcc, htag, hrows, ?_⟩
    have hrun := transferLanded_ends hs id
    rwa [countLanded_device hx hdst hfind] at hrun
  · intro u
    have hu : u = _ := landed_eq s x
    generalize hv : ({ s with xfers := s.xfers.filter (·.id != x.id) } : State) = v at hu
    have hrest := (landedPf_rest (v.landedCount x) x).trans (landedCount_rest v x)
    refine ⟨?_, fun i => ?_, fun site lt k p hdst hpf => ?_, fun i => ⟨?_, ?_⟩, ?_, ?_⟩
    · rw [hu, (congrArg State.xfers hrest :), ← hv]
    · rw [hu, landedPf_keeps Tile.cc (fun _ _ => rfl), landedCount_cc, ← hv]
      rfl
    · rw [hu, landedPf_stands hdst hpf]
    · rw [hu, landedPf_keeps Tile.scratch (fun _ _ => rfl), landedCount_keeps Tile.scratch (fun _ _ => rfl), ← hv]
      rfl
    · rw [hu, landedPf_keeps Tile.kc (fun _ _ => rfl), landedCount_keeps Tile.kc (fun _ _ => rfl), ← hv]
      rfl
    · rw [hu, (congrArg State.mem hrest :), ← hv]
    · rw [hu, (congrArg State.regs hrest :), ← hv]

end Sys2Proof.Machine
end

section
/-!
PROOF. Glint messages: what sending and receiving one keep of the module around the tile, and the three commands.
-/
namespace Sys2Proof.Machine

/-! ## What the part of one tile leaves of the module around it -/

/-- Only tiles, events, free values and registers other than those of the module's place in the fabric changed. -/
structure TilePart (s u : State) : Prop where
  rest : { u with tiles := [], regs := [], events := [], freeCount := 0 } =
    { s with tiles := [], regs := [], events := [], freeCount := 0 }
  place : ∀ off, regOff off → u.rd rayComPage off = s.rd rayComPage off

theorem TilePart.trans {s t u : State} (h : TilePart s t) (k : TilePart t u) : TilePart s u :=
  ⟨k.rest.trans h.rest, fun off ho => (k.place off ho).trans (h.place off ho)⟩

theorem TilePart.modTile (s : State) (t : Nat) (f : Tile → Tile) : TilePart s (s.modTile t f) := ⟨rfl, fun _ _ => rfl⟩

section
variable {s : State} {t : Nat} (ht : t < 1152)
include ht

theorem regKey_tile_ne {off o : Nat} (hoff : regOff off) (ho : regOff o) : regKey t o ≠ regKey rayComPage off := by
  intro h
  have hpage := (regKey_inj ho hoff h).1
  simp only [rayComPage] at hpage
  omega

theorem TilePart.wr (o : Nat) (v : Word) (ho : regOff o) : TilePart s (s.wr t o v) :=
  ⟨rfl, fun _ hoff => State.rd_wr_key s v (regKey_tile_ne ht hoff ho)⟩

theorem TilePart.bump (o n : Nat) (ho : regOff o) : TilePart s (s.bump t o n) := by
  refine ⟨?_, fun off hoff => State.rd_bump_key s (regKey_tile_ne ht hoff ho)⟩
  have h := bump_regsOnly s t o n
  exact (congrArg (fun x : State => { x with regs := [], events := [], tiles := [], freeCount := 0 }) h :)

theorem TilePart.raise (i : Nat) : TilePart s (s.raise t i) :=
  ⟨rfl, fun off hoff => State.rd_raise_key s (regKey_tile_ne ht hoff (by decide))⟩

theorem TilePart.addrFault (a : Nat) : TilePart s (s.addrFault (.tile t) a) := by
  rw [addrFault_tile]
  refine TilePart.trans ?_ (.raise ht 3)
  have hlog (s : State) : TilePart s (s.logAddr t a) := (TilePart.wr ht _ _ (by decide)).trans (.wr ht _ _ (by decide))
  split
  · exact (TilePart.wr ht _ _ (by decide)).trans (hlog _)
  · exact hlog s

theorem TilePart.faultReads (rs : List (Nat × Nat)) : TilePart s (s.faultReads t rs) := by
  induction rs generalizing s with
  | nil => exact ⟨rfl, fun _ _ => rfl⟩
  | cons r rs ih =>
    refine TilePart.trans ?_ ih
    dsimp only
    split
    · exact .addrFault ht _
    · exact ⟨rfl, fun _ _ => rfl⟩

theorem TilePart.ready (rs ws : List (Nat × Nat)) : TilePart s (s.ready t rs ws) :=
  (TilePart.faultReads ht rs).trans (.modTile ..)

theorem TilePart.putScratch (o : Nat) (d : List Byte) : TilePart s (s.putScratch t o d) := by
  have hset : TilePart s (s.modTile t (·.setBytes o d)) := .modTile ..
  unfold State.putScratch
  dsimp only
  split
  · exact hset.trans (.addrFault ht _)
  · exact hset

end

namespace TilePart
variable {s u : State} (h : TilePart s u)
include h

theorem siteOf (n : Nat) : u.siteOf n = s.siteOf n := (congrArg (fun x : State => x.siteOf n) h.rest :)
theorem tileOf (n : Nat) : u.tileOf n = s.tileOf n := (congrArg (fun x : State => x.tileOf n) h.rest :)
theorem speculative (n : Nat) : u.speculative n = s.speculative n := (congrArg (fun x : State => x.speculative n) h.rest :)
theorem physOfLogical (n : Nat) : u.physOfLogical n = s.physOfLogical n :=
  (congrArg (fun x : State => x.physOfLogical n) h.rest :)

theorem phys : u.phys = s.phys := by
  simp only [State.phys, State.dims, State.coord, State.field, State.rdN, h.place 0x100 (by decide), h.place 0x104 (by decide)]

theorem logical : u.logical = s.logical := by
  have hray : u.ray = s.ray := (congrArg State.ray h.rest :)
  simp only [State.logical, hray, h.phys]

end TilePart

/-! ## The commands -/

/-- The state in which a message of a tile is paid for. -/
def State.gsendPaid (s : State) (t : Nat) (h : GHead) : State := (s.modTile t fun x =>
  { x with kc := sput x.kc h.kc ((sget {} x.kc h.kc).take 1 x.inSpec),
           done := { x.done with gsend := x.done.gsend + 1 } }).bump t 0x2CC

theorem gsend_eq (s : State) (t : Nat) (h : GHead) (payload : List Byte) : s.gsend t h payload =
    let tag := s.tagOf t
    let me := s.tileOf t
    let u := s.gsendPaid t h
    match h.remote with
    | none =>
      match u.siteOf h.tile with
      | none => u
      | some d =>
        { u with
          nextId := u.nextId + 1
          glints := u.glints ++ [{ id := u.nextId, site := d, mbox := h.mbox,
                                   msg := { srcMod := u.logical.getD 0, srcTile := me, kc := h.kc,
                                            slot := glintSlot false 0 me h.low payload, tag := tag } }] }
    | some m => u.sendUnscheduled { emptyFrame with
        type := 3, spec := u.speculative tag, stepTag := tag % 256, dstTile := h.tile
        dstPhys := (u.physOfLogical m).getD 0, srcPhys := u.phys, srcTile := me
        payload := pad16 (natLe 8 (2 ^ 63 + m * 2 ^ 47 + h.tile * 2 ^ 32 + h.mbox) ++ natLe 8 h.low ++ payload) } := rfl

theorem TilePart.gsendPaid {s : State} {t : Nat} (ht : t < 1152) (h : GHead) : TilePart s (s.gsendPaid t h) :=
  (TilePart.modTile s t fun x => { x with
    kc := sput x.kc h.kc ((sget {} x.kc h.kc).take 1 x.inSpec), done := { x.done with gsend := x.done.gsend + 1 } }).trans
    (.bump ht 0x2CC 1 (by decide))

theorem gsend_performs {s : State} {t : Nat} {w : BitVec 128} (hop : isOp w 0x38 = true) (hc : s.CanIssue t w (s.gsendIssue t w))
    {h : GHead} (hskip : (s.tile t).skip.gsend = 0) (hhead : parseHead ((s.tile t).bytes (64 * fld w 63 50) 16) = some h) :
    Performs (exec (.gsend t w) s) t
      ((s.ready t [(64 * fld w 63 50, 16 + h.len)] []).gsend t h ((s.tile t).gsendPayload (64 * fld w 63 50) h.len)) := by
  have hrun := issue_performs_at (q := fun s => s.gsendIssue t w) hc hop fun s =>
      if (s.tile t).skip.gsend > 0 then s.modTile t fun x => { x with skip := { x.skip with gsend := x.skip.gsend - 1 } }
      else match parseHead ((s.tile t).bytes (glintAt w) 16) with
        | none => s
        | some h => s.gsend t h ((s.tile t).gsendPayload (glintAt w) h.len)
  have hissue : (s.gsendIssue t w).reads = [(64 * fld w 63 50, 16 + h.len)] ∧ (s.gsendIssue t w).writes = [] := by
    simp only [State.gsendIssue, hskip, gt_iff_lt, Nat.lt_irrefl, if_false, glintAt, hhead, and_self]
  rw [hissue.1, hissue.2] at hrun
  have htile : (s.ready t [(64 * fld w 63 50, 16 + h.len)] []).tile t = s.tile t :=
    (ready_tile_same ..).trans (Tile.retirePf_nil _)
  simp only [htile, hskip, gt_iff_lt, Nat.lt_irrefl, if_false, glintAt, hhead] at hrun
  exact hrun

theorem gsend_skips {s : State} {t : Nat} {w : BitVec 128} (hop : isOp w 0x38 = true) (hc : s.CanIssue t w (s.gsendIssue t w))
    (hskip : 0 < (s.tile t).skip.gsend) : Performs (exec (.gsend t w) s) t
      ((s.ready t [] []).modTile t fun x => { x with skip := { x.skip with gsend := x.skip.gsend - 1 } }) := by
  have hrun := issue_performs_at (q := fun s => s.gsendIssue t w) hc hop fun s =>
      if (s.tile t).skip.gsend > 0 then s.modTile t fun x => { x with skip := { x.skip with gsend := x.skip.gsend - 1 } }
      else match parseHead ((s.tile t).bytes (glintAt w) 16) with
        | none => s
        | some h => s.gsend t h ((s.tile t).gsendPayload (glintAt w) h.len)
  have hissue : (s.gsendIssue t w).reads = [] ∧ (s.gsendIssue t w).writes = [] := by
    simp only [State.gsendIssue, gt_iff_lt, hskip, if_true, and_self]
  rw [hissue.1, hissue.2] at hrun
  have htile : (s.ready t [] []).tile t = s.tile t := (ready_tile_same ..).trans (Tile.retirePf_nil _)
  rw [htile, if_pos hskip] at hrun
  exact hrun

/-- The state in which a message has left its mailbox into scratch. -/
def State.grecvTook (s : State) (t m a : Nat) (g : GMsg) (rest : List GMsg) : State := ((s.putScratch t a g.slot).modTile t fun x =>
  { x with mbox := sset [] x.mbox m rest, taken := x.taken ++ [g.slot],
           done := { x.done with grecv := x.done.grecv + 1 } }).bump t 0x2D0

theorem TilePart.grecvTook {s : State} {t : Nat} (ht : t < 1152) (m a : Nat) (g : GMsg) (rest : List GMsg) :
    TilePart s (s.grecvTook t m a g rest) :=
  (TilePart.putScratch ht a g.slot).trans ((TilePart.modTile _ t fun x => { x with
    mbox := sset [] x.mbox m rest, taken := x.taken ++ [g.slot], done := { x.done with grecv := x.done.grecv + 1 } }).trans
    (.bump ht 0x2D0 1 (by decide)))

section
variable {s : State} {t : Nat} {w : BitVec 128} (hop : isOp w 0x39 = true) (hc : s.CanIssue t w (s.grecvIssue t w))
include hop hc

/-- What GRECV does once its slot is ready to be written. -/
theorem grecv_runs : Performs (exec (.grecv t w) s) t (
    let r := s.ready t [] [(64 * fld w 63 50, 256)]
    if (r.tile t).skip.grecv > 0 then
      (r.putScratch t (64 * fld w 63 50) (r.tile t).takenSlot).modTile t fun x =>
        { x with skip := { x.skip with grecv := x.skip.grecv - 1 } }
    else match r.nextMsg t (fld w 1 0) with
      | none => r
      | some (g, rest) => (r.grecvTook t (fld w 1 0) (64 * fld w 63 50) g rest).giveBack { g with tag := r.tagOf t }) :=
  issue_performs_at (q := fun s => s.grecvIssue t w) hc hop _

theorem grecv_skips (hskip : 0 < (s.tile t).skip.grecv) : Performs (exec (.grecv t w) s) t
    (((s.ready t [] [(64 * fld w 63 50, 256)]).putScratch t (64 * fld w 63 50) (s.tile t).takenSlot).modTile t
      fun x => { x with skip := { x.skip with grecv := x.skip.grecv - 1 } }) := by
  have hrun := grecv_runs hop hc
  dsimp only at hrun
  rw [ready_tile_same] at hrun
  rwa [if_pos (show ((s.tile t).retirePf [(64 * fld w 63 50, 256)]).skip.grecv > 0 from hskip)] at hrun

theorem grecv_performs {g : GMsg} {rest : List GMsg} (hskip : (s.tile t).skip.grecv = 0)
    (hnext : s.nextMsg t (fld w 1 0) = some (g, rest)) : Performs (exec (.grecv t w) s) t
      (((s.ready t [] [(64 * fld w 63 50, 256)]).grecvTook t (fld w 1 0) (64 * fld w 63 50) g rest).giveBack
        { g with tag := (s.ready t [] [(64 * fld w 63 50, 256)]).tagOf t }) := by
  have hrun := grecv_runs hop hc
  have hmsg : (s.ready t [] [(64 * fld w 63 50, 256)]).nextMsg t (fld w 1 0) = some (g, rest) := by
    rw [← hnext, State.nextMsg, State.nextMsg, ready_tile_same]
    rfl
  have hzero : ¬((s.ready t [] [(64 * fld w 63 50, 256)]).tile t).skip.grecv > 0 := by
    rw [ready_tile_same]
    exact (show ¬(s.tile t).skip.grecv > 0 by omega)
  dsimp only at hrun
  rw [if_neg hzero, hmsg] at hrun
  exact hrun

end

/-- What MAILBOX_ARRIVAL does with the message `id`. -/
def State.mailboxTake (s : State) (id : Nat) : State := match s.glints.find? (·.id == id) with
  | none => s
  | some g =>
    if (sget [] (s.tile g.site).mbox g.mbox).length ≥ 4 || s.glints.any (·.before g) then s
    else { s with glints := s.glints.filter (·.id != id) }.modTile g.site fun x =>
      { x with mbox := sset [] x.mbox g.mbox (sget [] x.mbox g.mbox ++ [g.msg]) }

theorem mailboxArrival_ends {s : State} (hs : s.Serves) (id : Nat) :
    Ends (exec (.mailboxArrival id) s) (s.mailboxTake id) := runOn_ends hs.on (·.mailboxTake id)

theorem mailboxTake_takes {s : State} {id : Nat} {g : GFlight} (hg : s.glints.find? (·.id == id) = some g)
    (hroom : (sget [] (s.tile g.site).mbox g.mbox).length < 4) (hfirst : s.glints.any (·.before g) = false) :
    s.mailboxTake id = { s with glints := s.glints.filter (·.id != id) }.modTile g.site fun x =>
      { x with mbox := sset [] x.mbox g.mbox (sget [] x.mbox g.mbox ++ [g.msg]) } := by
  simp only [State.mailboxTake, hg, hfirst, Bool.or_false, ge_iff_le, decide_eq_true_eq, Nat.not_le.2 hroom, if_false]

theorem mailboxTake_waits {s : State} {id : Nat} {g : GFlight} (hg : s.glints.find? (·.id == id) = some g)
    (h : 4 ≤ (sget [] (s.tile g.site).mbox g.mbox).length ∨ s.glints.any (·.before g) = true) : s.mailboxTake id = s := by
  simp only [State.mailboxTake, hg]
  exact if_pos (by simpa using h)

/-- Settles O18: the state in which a message is paid for, or has left its mailbox, keeps the module around its tile (`TilePart`). -/
theorem glintMessagesComplete : Obligations.GlintMessagesComplete := by
  unfold Obligations.GlintMessagesComplete
  refine ⟨fun s t w hop hc => ⟨fun hskip => ?_, fun h hskip hhead => ?_⟩,
    fun s t w hop hc => ⟨fun hskip => ?_, fun g rest hskip hnext => ?_⟩, fun s id g hs hg => ⟨fun hroom hfirst => ?_, fun hwait => ?_⟩⟩
  · exact gsend_skips hop hc hskip
  · have hrun := gsend_performs hop hc hskip hhead
    have hready : TilePart s (s.ready t [(64 * fld w 63 50, 16 + h.len)] []) := .ready hc.site ..
    have hpart := hready.trans (.gsendPaid hc.site h)
    have hnext := (congrArg State.nextId hpart.rest :)
    have hglints := (congrArg State.glints hpart.rest :)
    rw [gsend_eq] at hrun
    dsimp only at hrun
    rw [ready_tagOf, hready.tileOf, hpart.siteOf, hpart.logical, hpart.phys, hpart.speculative, hnext, hglints] at hrun
    refine ⟨fun hremote hnone => ?_, fun d hremote hsite => ?_, fun m n hremote hphys => ?_⟩
    · simp only [hremote, hnone] at hrun
      exact hrun
    · simp only [hremote, hsite] at hrun
      exact hrun
    · simp only [hremote, hpart.physOfLogical, hphys] at hrun
      exact hrun
  · exact grecv_skips hop hc hskip
  · have hrun := grecv_performs hop hc hskip hnext
    have hready : TilePart s (s.ready t [] [(64 * fld w 63 50, 256)]) := .ready hc.site ..
    have hpart := hready.trans (.grecvTook hc.site (fld w 1 0) (64 * fld w 63 50) g rest)
    rw [State.giveBack, ready_tagOf] at hrun
    dsimp only at hrun
    rw [hpart.siteOf, hpart.logical, hpart.phys, hpart.speculative, hpart.physOfLogical] at hrun
    refine ⟨fun d hmod hsite => ?_, fun hmod hsite => ?_, fun hmod => ?_⟩
    · simp only [hmod, hsite, beq_self_eq_true, if_true, State.addKC, hpart.speculative] at hrun
      exact hrun
    · simp only [hmod, hsite, beq_self_eq_true, if_true] at hrun
      exact hrun
    · simp only [beq_eq_false_iff_ne.2 hmod, Bool.false_eq_true, if_false] at hrun
      exact hrun
  · have hrun := mailboxArrival_ends hs id
    rwa [mailboxTake_takes hg hroom hfirst] at hrun
  · have hrun := mailboxArrival_ends hs id
    rwa [mailboxTake_waits hg hwait] at hrun

end Sys2Proof.Machine
end

section
/-!
PROOF. The read cache: what the lookups of an LDC do, what it stores, and the fills and invalidations of lines.
-/
namespace Sys2Proof.Machine

/-! ## Lookups keep the module in service -/

/-- What stops every tile: the power state and Dusk. -/
def State.power (s : State) : Power × Bool := (s.pow, s.dusk)

theorem MemOnly.power {s u : State} (h : MemOnly s u) : u.power = s.power := (congrArg State.power h.rest :)

theorem RegsOnly.power {s u : State} (h : RegsOnly s u) : u.power = s.power := (congrArg State.power h :)

theorem startMoves_keeps {α : Type} (g : State → α) (hg : ∀ (s : State) m r, g { s with moves := m, res := r } = g s)
    (s : State) : g s.startMoves = g s := by
  refine foldl_keeps g _ (fun u m => ?_) s.moves s
  dsimp only
  split
  · rfl
  · exact hg u _ _

theorem raise_power (s : State) (page i : Nat) : (s.raise page i).power = s.power := (raise_memOnly ..).power

theorem bump_power (s : State) (page off n : Nat) : (s.bump page off n).power = s.power := (bump_regsOnly ..).power

theorem askMove_power (s : State) (m : Move) : (s.askMove m).power = s.power :=
  (startMoves_keeps State.power (fun _ _ _ => rfl) _ : { s with moves := s.moves ++ [m] }.startMoves.power = _)

theorem resFault_power (s : State) (t eng n target : Nat) : (s.resFault t eng n target).power = s.power := by
  have hcount : ((((s.raise t 11).bump t 0x2A0).raise (stackPage 0) 8).bump (stackPage 0) 0x190).power = s.power := by
    rw [bump_power, raise_power, bump_power, raise_power]
  unfold State.resFault
  dsimp only
  generalize (((s.raise t 11).bump t 0x2A0).raise (stackPage 0) 8).bump (stackPage 0) 0x190 = u at hcount ⊢
  split
  · rfl
  · split
    · exact hcount
    · exact (askMove_power ..).trans hcount

theorem ldcParity_power (s : State) (t a n : Nat) : (s.ldcParity t a n).power = s.power := by
  unfold State.ldcParity
  repeat' split
  all_goals rfl

theorem ldcElem_power (s : State) (t n cls a : Nat) : (s.ldcElem t n cls a).2.power = s.power := by
  unfold State.ldcElem
  split
  · exact (addrFault_memOnly ..).power
  · split
    · exact (devRead_memOnly ..).power
    · dsimp only
      split
      · exact ldcParity_power ..
      · exact ldcParity_power ..

theorem ldcGather_power (t n cls : Nat) (as : List Nat) (s : State) (r : LdcRun) :
    (s.ldcGather t n cls as r).power = s.power := by
  induction as generalizing s r with
  | nil => rfl
  | cons a as ih =>
    have helem := ldcElem_power s t n cls a
    unfold State.ldcGather
    generalize s.ldcElem t n cls a = p at helem
    obtain ⟨d, u⟩ := p
    cases d with
    | none => exact helem
    | some d => exact (ih u _).trans helem

theorem ldcTry_power (s : State) (t : Nat) (w : BitVec 128) : (s.ldcTry t w).power = s.power := by
  unfold State.ldcTry
  split
  · rfl
  · split
    · exact resFault_power ..
    · rfl
    · exact ldcGather_power ..

/-! ## What an LDC stores -/

theorem setBytes_keeps {α : Type} (g : Tile → α) (hg : ∀ x sc bs, g { x with scratch := sc, badScr := bs } = g x) (x : Tile)
    (o : Nat) (l : List Byte) : g (x.setBytes o l) = g x := by
  induction l generalizing x o with
  | nil => rfl
  | cons b l ih =>
    rw [Tile.setBytes, ih]
    unfold Tile.setByte
    split
    · exact hg ..
    · rfl

theorem landScratch_tagOf (s : State) (ag : Agent) (site tag o : Nat) (d : List PByte) (t : Nat) :
    (s.landScratch ag site tag o d).tagOf t = s.tagOf t := by
  have hland := landScratch_stored s ag site tag o d
  have htile : (s.landScratch ag site tag o d).tile t =
      (s.modTile site (·.setBytes o (d.map fun b => if b.poison then 0xFF else b.val))).tile t :=
    tile_of_tiles (congrArg State.tiles hland :) t
  have hstep : (s.landScratch ag site tag o d).steps.step = s.steps.step := (congrArg (fun x : State => x.steps.step) hland :)
  rw [State.tagOf, htile, hstep, modTile_keeps Tile.inSpec s site (fun x => setBytes_keeps Tile.inSpec (fun _ _ _ => rfl) x o _),
    modTile_keeps Tile.lag s site (fun x => setBytes_keeps Tile.lag (fun _ _ _ => rfl) x o _)]
  rfl

/-- Elements with their numbers, counted as they are taken or listed beforehand. -/
theorem foldl_count {α σ : Type} (f : σ → α → Nat → σ) (l : List α) (k : Nat) (s : σ) :
    (l.foldl (fun (r : Nat × σ) d => (r.1 + 1, f r.2 d r.1)) (k, s)).2 =
      (l.zip (List.range' k l.length)).foldl (fun s p => f s p.1 p.2) s := by
  induction l generalizing k s with
  | nil => rfl
  | cons d l ih => simpa [List.range'_succ] using ih (k + 1) (f s d k)

/-- The elements `got`, of `n` bytes each, land one after the other. -/
def State.ldcStore (s : State) (t : Nat) (w : BitVec 128) (got : List (List PByte)) : State :=
  (got.zip (List.range got.length)).foldl (fun s p =>
    s.landScratch (.tile t) t (s.tagOf t) (ldcDst w + ldcSize w * p.2) p.1) s

theorem ldcStore_eq (s : State) (t : Nat) (w : BitVec 128) (got : List (List PByte)) : s.ldcStore t w got =
    (got.foldl (fun (r : Nat × State) d =>
      (r.1 + 1, r.2.landScratch (.tile t) t (s.tagOf t) (ldcDst w + ldcSize w * r.1) d)) (0, s)).2 := by
  refine Eq.trans ?_
    (foldl_count (fun u d e => u.landScratch (.tile t) t (s.tagOf t) (ldcDst w + ldcSize w * e) d) got 0 s).symm
  rw [← List.range_eq_range']
  have hstore (l : List (List PByte × Nat)) (u : State) (hu : u.tagOf t = s.tagOf t) :
      l.foldl (fun u p => u.landScratch (.tile t) t (u.tagOf t) (ldcDst w + ldcSize w * p.2) p.1) u =
        l.foldl (fun u p => u.landScratch (.tile t) t (s.tagOf t) (ldcDst w + ldcSize w * p.2) p.1) u := by
    induction l generalizing u with
    | nil => rfl
    | cons p l ih => rw [List.foldl_cons, List.foldl_cons, hu, ih _ ((landScratch_tagOf ..).trans hu)]
  exact hstore _ s rfl

theorem tileRun_ends_on {s : State} {t : Nat} (ht : t < 1152) (hon : s.pow.off = false) (hlight : s.dusk = false)
    (f : State → State) : Ends (tileRun t s f) (f s) := by
  have h := runPart_ends (decide_eq_true ht) hon (·.awake f)
  rwa [State.awake, if_neg (by simp [hlight])] at h

/-- What a tile makes of the state that an LDC meets, and of what its word asks for. -/
theorem ldc_runs {s : State} {t : Nat} {w : BitVec 128} (ht : t < 1152) (hon : s.pow.off = false) (hlight : s.dusk = false)
    (hop : isOp w 0x40 = true) : Ends (exec (.ldc t w) s) ((s.ldcTry t w).issue t w ((s.ldcTry t w).ldcIssue t w) fun s =>
      (s.ldcStore t w ((s.tile t).ldcRun w).got).modTile t fun x => { x with ldc := none }) := by
  have h := tileRun_ends_on ht hon hlight fun s => if isOp w 0x40 then
    (s.ldcTry t w).issue t w ((s.ldcTry t w).ldcIssue t w) fun s =>
      (((s.tile t).ldcRun w).got.foldl (fun (r : Nat × State) d =>
        (r.1 + 1, r.2.landScratch (.tile t) t (s.tagOf t) (ldcDst w + ldcSize w * r.1) d)) (0, s)).2.modTile t
        fun x => { x with ldc := none }
    else s
  rw [if_pos hop] at h
  simp only [ldcStore_eq]
  exact h

/-- Once nothing of it waits, an LDC stores what it has gathered. -/
theorem ldc_performs {s : State} {t : Nat} {w : BitVec 128} (hop : isOp w 0x40 = true)
    (hc : (s.ldcTry t w).CanIssue t w ((s.ldcTry t w).ldcIssue t w)) : Performs (exec (.ldc t w) s) t
      (((((s.ldcTry t w).ready t [(ldcList w, 8 * ldcCount w)] [(ldcDst w, ldcSize w * ldcCount w)]).ldcStore t w
        (((s.ldcTry t w).tile t).ldcRun w).got)).modTile t fun x => { x with ldc := none }) := by
  have hpower := ldcTry_power s t w
  have h := ldc_runs (s := s) hc.site ((congrArg (·.1.off) hpower :).symm.trans hc.awake.on)
    ((congrArg Prod.snd hpower :).symm.trans hc.awake.light) hop
  rw [issue_runs hc] at h
  have hrun : (((s.ldcTry t w).ready t [(ldcList w, 8 * ldcCount w)] [(ldcDst w, ldcSize w * ldcCount w)]).tile t).ldcRun w =
      ((s.ldcTry t w).tile t).ldcRun w := by
    rw [ready_tile_same]
    rfl
  rw [show ((s.ldcTry t w).ldcIssue t w).reads = [(ldcList w, 8 * ldcCount w)] from rfl,
    show ((s.ldcTry t w).ldcIssue t w).writes = [(ldcDst w, ldcSize w * ldcCount w)] from rfl, hrun] at h
  exact h

/-! ## Lookups -/

/-- An instruction that only its own wait holds counts that wait under its engine. -/
theorem issue_waits {s : State} {t c : Nat} {w : BitVec 128} {q : Issue} (hform : q.form = true)
    (hfree : s.holds t w q.reads q.writes = none) (hhead : (s.tile t).parity q.head = none) (hcontent : q.content = true)
    (halso : q.also = some (.wait c)) (f : State → State) : s.issue t w q f = s.stall t q.eng c := by
  simp [State.issue, hform, hfree, hhead, hcontent, halso]

/-- What lookups leave of a tile: everything but the run of its LDC, the lines that it asks for, and the order of its ways. -/
def Tile.LookedUp (x y : Tile) : Prop := ∃ l wn tr, y = { x with ldc := l, rcWant := wn, rctree := tr }

section
variable {s : State} {t : Nat} {f : Tile → Tile} (hf : (s.tile t).LookedUp (f (s.tile t)))
include hf

theorem looked_holds (w : BitVec 128) (rs ws : List (Nat × Nat)) : (s.modTile t f).holds t w rs ws = s.holds t w rs ws := by
  obtain ⟨l, wn, tr, hx⟩ := hf
  simp only [State.holds, State.atHold, State.atPassStart, State.frameStart, State.replayWait, State.tile_modTile_same, hx]
  rfl

/-- An LDC whose elements have all been found is held by nothing. -/
theorem looked_canIssue {w : BitVec 128} (hclass : sclassOf w ≠ 3) (hc : s.CanIssue t w { s.ldcIssue t w with also := none })
    (hdone : ldcCount w ≤ ((f (s.tile t)).ldcRun w).next) : (s.modTile t f).CanIssue t w ((s.modTile t f).ldcIssue t w) := by
  have hholds := looked_holds hf w [(ldcList w, 8 * ldcCount w)] [(ldcDst w, ldcSize w * ldcCount w)]
  have hcontent := hc.content
  have hhead := hc.head
  have hsound := hc.sound
  obtain ⟨l, wn, tr, hx⟩ := hf
  have hres : (s.modTile t f).ldcRes t w = .ok := by simp [State.ldcRes, hclass]
  refine ⟨hc.site, ⟨⟨hc.awake.on, hc.awake.settled⟩, hc.awake.light⟩, hholds.trans hc.free, hc.form, ?_, ?_, ?_, ?_, rfl⟩
  · simp only [State.ldcIssue, State.tile_modTile_same, hx]
    exact hcontent
  · simp only [State.ldcIssue, State.tile_modTile_same, hres]
    simp [Nat.not_lt.2 hdone]
  · simp only [State.ldcIssue, State.tile_modTile_same, hx]
    exact hhead
  · simp only [State.ldcIssue, State.tile_modTile_same, hx]
    exact hsound

/-- An LDC one of whose elements waits for its line waits for the Shade. -/
theorem looked_waits {w : BitVec 128} (hclass : sclassOf w ≠ 3) (hc : s.CanIssue t w { s.ldcIssue t w with also := none })
    (hopen : ((f (s.tile t)).ldcRun w).next < ldcCount w) (g : State → State) :
    (s.modTile t f).issue t w ((s.modTile t f).ldcIssue t w) g = (s.modTile t f).stall t engGlint stShade := by
  have hholds := (looked_holds hf w [(ldcList w, 8 * ldcCount w)] [(ldcDst w, ldcSize w * ldcCount w)]).trans hc.free
  have hcontent := hc.content
  have hhead := hc.head
  obtain ⟨l, wn, tr, hx⟩ := hf
  have hres : (s.modTile t f).ldcRes t w = .ok := by simp [State.ldcRes, hclass]
  refine issue_waits (q := (s.modTile t f).ldcIssue t w) hc.form hholds ?_ ?_ ?_ g
  · simp only [State.ldcIssue, State.tile_modTile_same, hx]
    exact hhead
  · simp only [State.ldcIssue, State.tile_modTile_same, hx]
    exact hcontent
  · simp only [State.ldcIssue, State.tile_modTile_same, hres]
    simp [hopen]

end

theorem ldcTry_gathers {s : State} {t : Nat} {w : BitVec 128} (hclass : sclassOf w ≠ 3)
    (hc : s.CanIssue t w { s.ldcIssue t w with also := none }) : s.ldcTry t w =
      s.ldcGather t (ldcSize w) (sclassOf w) ((s.ldcAddrs t w).drop ((s.tile t).ldcRun w).next) ((s.tile t).ldcRun w) := by
  have hmay : s.ldcMay t w = true := by
    have hfree : s.holds t w (s.ldcIssue t w).reads (s.ldcIssue t w).writes = none := hc.free
    have hform : (s.ldcIssue t w).form = true := hc.form
    have hcontent : (s.ldcIssue t w).content = true := hc.content
    have hhead : (s.tile t).parity (s.ldcIssue t w).head = none := hc.head
    simp [State.ldcMay, hfree, hform, hcontent, hhead]
  have hres : s.ldcRes t w = .ok := by simp [State.ldcRes, hclass]
  simp only [State.ldcTry, hmay, Bool.not_true, Bool.false_eq_true, if_false, hres]

/-- A line of the read cache, or an empty one. -/
def Tile.rcLine (x : Tile) (a : Nat) : RcLine :=
  ((x.rcache.find? (·.2.line == a / 256)).map (·.2)).getD { line := 0, data := [] }

/-- An element whose line is in the cache with sound bytes at its place. -/
def State.ldcHit (s : State) (t n a : Nat) : Prop :=
  s.ldcBad a n = false ∧ s.ldcDirect a = false ∧ (s.tile t).rcHas (a / 256) = true ∧
    ∀ b ∈ ((s.tile t).rcLine a).bad, ¬(a % 256 ≤ b ∧ b < a % 256 + n)

theorem ldcElem_hit {s : State} {t n cls a : Nat} (h : s.ldcHit t n a) : ∃ k, s.ldcElem t n cls a =
    (some ((((s.tile t).rcLine a).data.drop (a % 256)).take n), s.modTile t (·.rcTouch k)) := by
  obtain ⟨hbad, hdirect, hhas, hsound⟩ := h
  obtain ⟨e, he⟩ : ∃ e, (s.tile t).rcache.find? (·.2.line == a / 256) = some e := by
    rw [← Option.isSome_iff_exists, List.find?_isSome]
    simpa [Tile.rcHas] using hhas
  obtain ⟨k, l⟩ := e
  have hline : (s.tile t).rcLine a = l := by simp [Tile.rcLine, he]
  rw [hline] at hsound ⊢
  have hfind : (l.bad.find? fun b => a % 256 ≤ b && b < a % 256 + n) = none := by
    simpa using hsound
  have hparity : s.ldcParity t a n = s := by simp only [State.ldcParity, he, hfind]
  refine ⟨k, ?_⟩
  simp only [State.ldcElem, hbad, hdirect, Bool.false_eq_true, if_false, hparity, he]

theorem ldcElem_miss {s : State} {t n cls a : Nat} (hbad : s.ldcBad a n = false) (hdirect : s.ldcDirect a = false)
    (hmiss : (s.tile t).rcHas (a / 256) = false) : s.ldcElem t n cls a = (none, s) := by
  have hnone : (s.tile t).rcache.find? (·.2.line == a / 256) = none := by simpa [Tile.rcHas] using hmiss
  have hparity : s.ldcParity t a n = s := by simp only [State.ldcParity, hnone]
  simp only [State.ldcElem, hbad, hdirect, Bool.false_eq_true, if_false, hparity, hnone]

/-- The bytes of the elements `as`, of `n` bytes each, as the cache of a tile holds them. -/
def Tile.rcBytes (x : Tile) (n : Nat) (as : List Nat) : List (List PByte) :=
  as.map fun a => ((x.rcLine a).data.drop (a % 256)).take n

theorem ldcGather_hits {t n cls : Nat} {as : List Nat} {s : State} {r : LdcRun} (h : ∀ a ∈ as, s.ldcHit t n a) :
    ∃ tr, s.ldcGather t n cls as r = s.modTile t fun x => { x with
      rctree := tr, ldc := some { r with next := r.next + as.length, got := r.got ++ (s.tile t).rcBytes n as } } := by
  induction as generalizing s r with
  | nil => exact ⟨(s.tile t).rctree, by simp [State.ldcGather, Tile.rcBytes, State.modTile]⟩
  | cons a as ih =>
    obtain ⟨k, hk⟩ := ldcElem_hit (cls := cls) (h a (by simp))
    have hcache : ((s.modTile t (·.rcTouch k)).tile t).rcache = (s.tile t).rcache := by
      rw [State.tile_modTile_same]
      rfl
    have hline (b : Nat) : ((s.modTile t (·.rcTouch k)).tile t).rcLine b = (s.tile t).rcLine b := by
      rw [Tile.rcLine, hcache]
      rfl
    have hhit : ∀ b ∈ as, (s.modTile t (·.rcTouch k)).ldcHit t n b := fun b hb => by
      obtain ⟨hbad, hdirect, hhas, hsound⟩ := h b (by simp [hb])
      exact ⟨hbad, hdirect, by rw [Tile.rcHas, hcache]; exact hhas, by rw [hline]; exact hsound⟩
    obtain ⟨tr, htr⟩ := ih (r := { r with next := r.next + 1, got := r.got ++ [(((s.tile t).rcLine a).data.drop (a % 256)).take n] })
      hhit
    refine ⟨tr, ?_⟩
    unfold State.ldcGather
    rw [hk]
    dsimp only
    have hbytes : ((s.modTile t (·.rcTouch k)).tile t).rcBytes n as = (s.tile t).rcBytes n as := by
      simp only [Tile.rcBytes, hline]
    rw [htr, hbytes, modTile_modTile]
    have hgot : r.got ++ (s.tile t).rcBytes n (a :: as) =
        (r.got ++ [(((s.tile t).rcLine a).data.drop (a % 256)).take n]) ++ (s.tile t).rcBytes n as := by
      simp [Tile.rcBytes]
    rw [hgot, List.length_cons, Nat.add_comm as.length, ← Nat.add_assoc]
    rfl

/-! ## The bytes that the elements leave -/

/-- The pattern for a byte tagged as poison, and any other byte as it is. -/
def landedByte (b : PByte) : Byte := if b.poison then 0xFF else b.val

/-- The elements of `n` bytes that stand from `o` on, one after the other. -/
def Tile.setElems (n o : Nat) : List (List PByte) → Nat → Tile → Tile
  | [], _, x => x
  | d :: got, e, x => setElems n o got (e + 1) (x.setBytes (o + n * e) (d.map landedByte))

theorem setElems_keeps {α : Type} (g : Tile → α) (hg : ∀ x sc bs, g { x with scratch := sc, badScr := bs } = g x) (n o : Nat)
    (got : List (List PByte)) (e : Nat) (x : Tile) : g (x.setElems n o got e) = g x := by
  induction got generalizing e x with
  | nil => rfl
  | cons d got ih => rw [Tile.setElems, ih, setBytes_keeps g hg]

theorem byte_setElems_before {n o : Nat} {got : List (List PByte)} {e p : Nat} (x : Tile) (hp : p < o + n * e) :
    (x.setElems n o got e).byte p = x.byte p := by
  induction got generalizing e x with
  | nil => rfl
  | cons d got ih =>
    rw [Tile.setElems, ih _ (by rw [Nat.mul_add]; omega), Tile.byte_setBytes_out _ _ _ _ (Or.inl hp)]

/-- The byte `k` of the element `i`. -/
theorem byte_setElems {n o : Nat} {got : List (List PByte)} (hgot : ∀ d ∈ got, d.length ≤ n) {e i k : Nat} (x : Tile)
    (hi : i < got.length) (hk : k < got[i].length) (hin : o + n * (e + i) + k < scratchSize) :
    (x.setElems n o got e).byte (o + n * (e + i) + k) = landedByte got[i][k] := by
  induction got generalizing e i x with
  | nil => exact absurd hi (by simp)
  | cons d got ih =>
    rw [Tile.setElems]
    cases i with
    | zero =>
      have hd : d.length ≤ n := hgot d (by simp)
      have hkd : k < d.length := hk
      simp only [Nat.add_zero] at hin ⊢
      have hnext : n * (e + 1) = n * e + n := Nat.mul_succ n e
      rw [byte_setElems_before _ (by omega), Tile.byte_setBytes_in _ _ k (d.map landedByte) (by simpa using hkd) hin,
        List.getElem_map]
      rfl
    | succ i =>
      have hnext : e + (i + 1) = e + 1 + i := by omega
      rw [hnext] at hin ⊢
      exact ih (fun d hd => hgot d (by simp [hd])) _ (by simpa using hi) hk hin

theorem landScratch_modTile (s : State) (ag : Agent) (t tag o : Nat) (d : List PByte) (i : Nat) :
    (s.landScratch ag t tag o d).tile i = (s.modTile t (·.setBytes o (d.map landedByte))).tile i :=
  tile_of_tiles (congrArg State.tiles (landScratch_stored s ag t tag o d) :) i

theorem landScratch_tile (s : State) (ag : Agent) (t tag o : Nat) (d : List PByte) :
    (s.landScratch ag t tag o d).tile t = (s.tile t).setBytes o (d.map landedByte) :=
  (landScratch_modTile ..).trans (State.tile_modTile_same ..)

theorem landScratch_other (s : State) (ag : Agent) {t i : Nat} (tag o : Nat) (d : List PByte) (hi : i ≠ t) :
    (s.landScratch ag t tag o d).tile i = s.tile i :=
  (landScratch_modTile ..).trans (s.tile_modTile_other _ hi.symm)

theorem landScratch_rest (s : State) (ag : Agent) (t tag o : Nat) (d : List PByte) :
    { (s.landScratch ag t tag o d).stored with tiles := [] } = { s.stored with tiles := [] } :=
  (congrArg (fun x : State => { x with tiles := [] }) (landScratch_stored s ag t tag o d) :)

/-- One element after another: what a fold of stores makes of the tile, of the others, and of the rest. -/
theorem ldcStores (t : Nat) (w : BitVec 128) (got : List (List PByte)) (e : Nat) (s : State) :
    let u := (got.zip (List.range' e got.length)).foldl (fun s p =>
      s.landScratch (.tile t) t (s.tagOf t) (ldcDst w + ldcSize w * p.2) p.1) s
    u.tile t = (s.tile t).setElems (ldcSize w) (ldcDst w) got e ∧ (∀ i, i ≠ t → u.tile i = s.tile i) ∧
      { u.stored with tiles := [] } = { s.stored with tiles := [] } := by
  induction got generalizing e s with
  | nil => exact ⟨rfl, fun _ _ => rfl, rfl⟩
  | cons d got ih =>
    obtain ⟨hsame, hother, hrest⟩ := ih (e + 1) (s.landScratch (.tile t) t (s.tagOf t) (ldcDst w + ldcSize w * e) d)
    simp only [List.length_cons, List.range'_succ, List.zip_cons_cons, List.foldl_cons]
    refine ⟨hsame.trans ?_, fun i hi => (hother i hi).trans (landScratch_other _ _ _ _ _ hi), hrest.trans (landScratch_rest ..)⟩
    rw [landScratch_tile]
    rfl

theorem ldcStore_spec (s : State) (t : Nat) (w : BitVec 128) (got : List (List PByte)) :
    (s.ldcStore t w got).tile t = (s.tile t).setElems (ldcSize w) (ldcDst w) got 0 ∧
      (∀ i, i ≠ t → (s.ldcStore t w got).tile i = s.tile i) ∧
      { (s.ldcStore t w got).stored with tiles := [] } = { s.stored with tiles := [] } := by
  rw [State.ldcStore, List.range_eq_range']
  exact ldcStores t w got 0 s

/-! ## An LDC whose lines are all in the cache -/

theorem ldcRun_word (x : Tile) (w : BitVec 128) : (x.ldcRun w).word = w := by
  unfold Tile.ldcRun
  split
  · split
    · assumption
    · rfl
  · rfl

/-- The tile whose LDC has found the elements that were left, as `Tile.rcBytes` gives them. -/
def Tile.ldcFound (x : Tile) (w : BitVec 128) (as : List Nat) (tr : Sparse Nat) (y : Tile) : Tile :=
  { y with
    rctree := tr
    ldc := some { x.ldcRun w with
      next := (x.ldcRun w).next + as.length, got := (x.ldcRun w).got ++ x.rcBytes (ldcSize w) as } }

theorem ldcFound_run (x y : Tile) (w : BitVec 128) (as : List Nat) (tr : Sparse Nat) : (x.ldcFound w as tr y).ldcRun w =
    { x.ldcRun w with
      next := (x.ldcRun w).next + as.length, got := (x.ldcRun w).got ++ x.rcBytes (ldcSize w) as } :=
  if_pos (ldcRun_word x w)

/-- The state that an LDC whose elements are all in the cache leaves: its tile, and what it stores there. -/
structure LdcStored (s : State) (t : Nat) (w : BitVec 128) (got : List (List PByte)) (v : State) : Prop where
  other : ∀ i, i ≠ t → v.tile i = s.tile i
  ldc : (v.tile t).ldc = none
  icount : (v.tile t).icount = (s.tile t).icount
  rcache : (v.tile t).rcache = (s.tile t).rcache
  byte : ∀ o, (v.tile t).byte o = (((s.tile t).setElems (ldcSize w) (ldcDst w) got 0)).byte o
  rest : { v.stored with tiles := [] } = { s.stored with tiles := [] }

theorem setBytes_scratch {x y : Tile} (h : x.scratch = y.scratch) (o : Nat) (l : List Byte) :
    (x.setBytes o l).scratch = (y.setBytes o l).scratch := by
  induction l generalizing x y o with
  | nil => exact h
  | cons b l ih =>
    refine ih ?_ (o + 1)
    unfold Tile.setByte
    split
    · exact congrArg (sset 0 · o b) h
    · exact h

theorem byte_congr {x y : Tile} (h : x.scratch = y.scratch) (o : Nat) : x.byte o = y.byte o := by
  rw [Tile.byte, Tile.byte, h]

theorem setElems_scratch {x y : Tile} (h : x.scratch = y.scratch) (n o : Nat) (got : List (List PByte)) (e : Nat) :
    (x.setElems n o got e).scratch = (y.setElems n o got e).scratch := by
  induction got generalizing x y e with
  | nil => exact h
  | cons d got ih => exact ih (setBytes_scratch h ..) (e + 1)

theorem LdcStored.of_found {s : State} {t : Nat} {w : BitVec 128} (as : List Nat) (tr : Sparse Nat) (got : List (List PByte))
    (rs ws : List (Nat × Nat)) : LdcStored s t w got
      ((((s.modTile t ((s.tile t).ldcFound w as tr)).ready t rs ws).ldcStore t w got).modTile t fun x => { x with ldc := none }) := by
  obtain ⟨hother, hsame⟩ := ready_tiles (s.modTile t ((s.tile t).ldcFound w as tr)) t rs ws
  have hready := ready_rest (s.modTile t ((s.tile t).ldcFound w as tr)) t rs ws
  generalize (s.modTile t ((s.tile t).ldcFound w as tr)).ready t rs ws = v at hother hsame hready
  obtain ⟨hstored, hothers, hrest⟩ := ldcStore_spec v t w got
  rw [hsame, State.tile_modTile_same] at hstored
  refine ⟨fun i hi => ?_, ?_, ?_, ?_, fun o => ?_, ?_⟩
  · rw [State.tile_modTile_other _ _ hi.symm, hothers i hi, hother i hi, State.tile_modTile_other _ _ hi.symm]
  · rw [State.tile_modTile_same]
  · rw [State.tile_modTile_same]
    exact (congrArg Tile.icount hstored).trans (setElems_keeps Tile.icount (fun _ _ _ => rfl) ..)
  · rw [State.tile_modTile_same]
    exact (congrArg Tile.rcache hstored).trans (setElems_keeps Tile.rcache (fun _ _ _ => rfl) ..)
  · rw [State.tile_modTile_same]
    refine (congrArg (fun x : Tile => x.byte o) hstored).trans (byte_congr ?_ o)
    have hkept : (((s.tile t).ldcFound w as tr (s.tile t)).retirePf ws).scratch = (s.tile t).scratch := rfl
    exact setElems_scratch hkept ..
  · exact hrest.trans (congrArg (fun x : State => { x.stored with tiles := [] }) hready :)

theorem LdcStored.sameImage {s v : State} {t : Nat} {w : BitVec 128} {got : List (List PByte)} (h : LdcStored s t w got v) :
    SameImage s v :=
  ⟨(congrArg State.adm h.rest :), (congrArg State.gn h.rest :), (congrArg State.map h.rest :), (congrArg State.mem h.rest :),
    (congrArg State.slices h.rest :), (congrArg State.spare h.rest :)⟩

section
variable {s : State} {t : Nat} {w : BitVec 128} (hop : isOp w 0x40 = true) (hclass : sclassOf w ≠ 3)
  (hc : s.CanIssue t w { s.ldcIssue t w with also := none })
include hop hclass hc

/-- An LDC whose elements that are left are all in the cache stores them, with those found before. -/
theorem ldc_stores {as : List Nat} (has : (s.ldcAddrs t w).drop ((s.tile t).ldcRun w).next = as)
    (hhit : ∀ a ∈ as, s.ldcHit t (ldcSize w) a) :
    ∃ v, Performs (exec (.ldc t w) s) t v ∧
      LdcStored s t w (((s.tile t).ldcRun w).got ++ (s.tile t).rcBytes (ldcSize w) as) v := by
  obtain ⟨tr, htr⟩ := ldcGather_hits (cls := sclassOf w) (r := (s.tile t).ldcRun w) hhit
  have htry : s.ldcTry t w = s.modTile t ((s.tile t).ldcFound w as tr) := by
    rw [ldcTry_gathers hclass hc, has, htr]
    rfl
  have hdone : ldcCount w ≤ (((s.tile t).ldcFound w as tr (s.tile t)).ldcRun w).next := by
    have hlen : as.length = ldcCount w - ((s.tile t).ldcRun w).next := by simp [← has, State.ldcAddrs]
    rw [ldcFound_run]
    dsimp only
    omega
  have hcan := looked_canIssue (f := (s.tile t).ldcFound w as tr) ⟨_, _, _, rfl⟩ hclass hc hdone
  have hrun := ldc_performs hop (htry ▸ hcan)
  rw [htry, State.tile_modTile_same, ldcFound_run] at hrun
  exact ⟨_, hrun, .of_found as tr _ _ _⟩

end

/-- The byte `k` of the element `e` of an LDC whose line has it. -/
theorem byte_ldcFound {x : Tile} {w : BitVec 128} {as : List Nat} {e k : Nat} (he : e < as.length) (hk : k < ldcSize w)
    (hin : ldcDst w + ldcSize w * e + k < scratchSize)
    (hline : as.getD e 0 % 256 + ldcSize w ≤ (x.rcLine (as.getD e 0)).data.length) :
    (x.setElems (ldcSize w) (ldcDst w) (x.rcBytes (ldcSize w) as) 0).byte (ldcDst w + ldcSize w * e + k) =
      landedByte ((x.rcLine (as.getD e 0)).data.getD (as.getD e 0 % 256 + k) ⟨0, false⟩) := by
  have hget : as.getD e 0 = as[e] := List.getD_eq_getElem as 0 he
  rw [hget] at hline ⊢
  have hlen : e < (x.rcBytes (ldcSize w) as).length := by simpa [Tile.rcBytes] using he
  have helem : (x.rcBytes (ldcSize w) as)[e] = ((x.rcLine as[e]).data.drop (as[e] % 256)).take (ldcSize w) := by
    simp [Tile.rcBytes]
  have hk' : k < (x.rcBytes (ldcSize w) as)[e].length := by
    rw [helem, List.length_take, List.length_drop]
    omega
  have hbyte := byte_setElems (o := ldcDst w) (e := 0) (n := ldcSize w) (got := x.rcBytes (ldcSize w) as)
    (by simp [Tile.rcBytes]) x hlen hk' (by rwa [Nat.zero_add])
  rw [Nat.zero_add] at hbyte
  rw [hbyte]
  simp only [helem, List.getElem_take, List.getElem_drop]
  rw [List.getD_eq_getElem _ _ (by omega)]

theorem ldcRun_of {x : Tile} {w : BitVec 128} {r : LdcRun} (hx : x.ldc = some r) (hr : r.word = w) : x.ldcRun w = r := by
  simp [Tile.ldcRun, hx, hr]

/-! ## Fills -/

/-- The line is no more asked for. -/
def State.rcGone (s : State) (t line : Nat) : State := s.modTile t fun x => { x with rcWant := x.rcWant.filter (·.1 != line) }

/-- A line stands in the cache of a tile, and the tile among its sharers. -/
def State.rcArrive (s : State) (t line cls : Nat) : State :=
  let r := s.devRead (line * 256) 256 cls (.tile t) false false
  let u := r.2.2.dirEnsure line
  (u.2.setBank (u.2.bankOf line) ((u.2.bank (u.2.bankOf line)).put { u.1 with sharers := u.1.sharers.add t })).modTile t
    (·.rcFill { line := line, data := r.1 })

/-- What READ_CACHE_FILL does for the line that a tile asked for. -/
def State.rcFillTry (s : State) (t line : Nat) : State := match (s.tile t).rcWant.find? (·.1 == line) with
  | none => s
  | some (_, cls) =>
    if !s.rangeReady (line * 256) 256 then s.stall t engIssue stShade
    else if (s.rcGone t line).reservedFor (line * 256) || (s.rcGone t line).ldcDirect (line * 256) then s.rcGone t line
    else (s.rcGone t line).rcArrive t line cls

theorem readCacheFill_ends {s : State} (hs : s.Serves) {t : Nat} (ht : t < 1152) (line : Nat) :
    Ends (exec (.readCacheFill t line) s) (s.rcFillTry t line) := by
  have h := runPart_ends (decide_eq_true ht) hs.on (·.rcFillTry t line)
  exact h

section
variable {s : State} {t line cls : Nat}

theorem rcFillTry_none (h : (s.tile t).rcWant.any (·.1 == line) = false) : s.rcFillTry t line = s := by
  have hnone : (s.tile t).rcWant.find? (·.1 == line) = none := by simpa using h
  simp only [State.rcFillTry, hnone]

variable (hwant : (s.tile t).rcWant.find? (·.1 == line) = some (line, cls))
include hwant

theorem rcFillTry_waits (h : s.rangeReady (line * 256) 256 = false) : s.rcFillTry t line = s.stall t engIssue stShade := by
  simp [State.rcFillTry, hwant, h]

theorem rcFillTry_gone (hready : s.rangeReady (line * 256) 256 = true) (h : (s.rcGone t line).reservedFor (line * 256) = true ∨
    (s.rcGone t line).ldcDirect (line * 256) = true) : s.rcFillTry t line = s.rcGone t line := by
  simp only [State.rcFillTry, hwant, hready, Bool.not_true, Bool.false_eq_true, if_false]
  exact if_pos (by simpa using h)

theorem rcFillTry_fills (hready : s.rangeReady (line * 256) 256 = true) (hkept : (s.rcGone t line).reservedFor (line * 256) = false)
    (hcached : (s.rcGone t line).ldcDirect (line * 256) = false) :
    s.rcFillTry t line = (s.rcGone t line).rcArrive t line cls := by
  simp only [State.rcFillTry, hwant, hready, hkept, hcached, Bool.not_true, Bool.or_self, Bool.false_eq_true, if_false]

end

/-- Settles O19: what lookups leave (`looked_canIssue`, `ldcGather_hits`), what an LDC stores (`ldc_stores`), and what a fill does
(`State.rcFillTry`). -/
theorem readCacheFamilyCompletes : Obligations.ReadCacheFamilyCompletes := by
  unfold Obligations.ReadCacheFamilyCompletes
  refine ⟨fun s t w hop => ?_, fun s t n cls a => ⟨fun hbad => ?_, fun hbad hdirect => ?_⟩, fun s t w a as => ?_, fun s t line ht hs => ?_⟩
  · refine ⟨fun hc => ldc_performs hop hc, ?_⟩
    intro r as line hc hclass hhit
    obtain ⟨v, hrun, hv⟩ := ldc_stores hop hclass hc (as := as) rfl hhit
    obtain ⟨hadv, hcount⟩ := advance_stream v t
    obtain ⟨-, hfail, hspent⟩ := hc.awake.settled
    have hspared : (v.advance t).Spared := State.spared_of
      ((congrArg State.failing hadv.rest :).trans ((congrArg State.failing hv.rest :).trans hfail))
      ((congrArg (·.spare.spent) hadv.rest :).trans ((congrArg (·.spare.spent) hv.rest :).trans hspent))
    refine hrun.gives hspared fun u hu => ?_
    have hut (i : Nat) : u.tile i = (v.advance t).tile i := tile_of_tiles (congrArg State.tiles hu.body :) i
    have hrcache : (u.tile t).rcache = (s.tile t).rcache := by
      rw [hut]
      exact (congrArg Tile.rcache hadv.data :).trans hv.rcache
    refine ⟨fun i hi => ?_, ?_, ?_, fun l => ?_, ?_, ?_, fun hnext hgot e k he hk hin hscalars => ?_⟩
    · rw [hut, hadv.other i hi, hv.other i hi]
    · rw [hut]
      exact (congrArg Tile.ldc hadv.data :).trans hv.ldc
    · rw [hut, hcount (by rw [hv.sameImage.streamOf]; exact holds_stream hc.free), hv.icount]
    · rw [Tile.rcHas, Tile.rcHas, hrcache]
    · exact (congrArg State.mem hu.body :).trans ((congrArg State.mem hadv.rest :).trans hv.sameImage.mem)
    · exact (congrArg State.slices hu.body :).trans ((congrArg State.slices hadv.rest :).trans hv.sameImage.slices)
    · intro a d hline
      have has : as.length = ldcCount w := by simp [as, hnext, State.ldcAddrs]
      rw [hut, hadv.scratch _ (by rwa [hv.sameImage.scalarsAt]), hv.byte]
      rw [show ((s.tile t).ldcRun w).got = [] from hgot, List.nil_append]
      exact byte_ldcFound (by omega) hk hin hline
  · exact if_pos hbad
  · intro r
    rw [State.ldcElem, if_neg (by simp [hbad]), if_pos hdirect]
  · intro r hop hc hclass has hbad hdirect hmiss
    have hopen : r.next < ldcCount w := by
      by_contra hnot
      rw [List.drop_eq_nil_of_le (by simp [State.ldcAddrs]; omega)] at has
      cases has
    have htry := ldcTry_gathers hclass hc
    rw [has, State.ldcGather, ldcElem_miss hbad hdirect hmiss] at htry
    dsimp only [State.ldcWant] at htry
    rw [modTile_modTile] at htry
    have hrun := ldc_runs (t := t) (s := s) hc.site hc.awake.on hc.awake.light hop
    rw [htry, looked_waits ⟨_, _, _, rfl⟩ hclass hc ?_] at hrun
    · exact hrun
    · rwa [ldcRun_of (r := r) rfl (ldcRun_word ..)]
  · intro gone r
    have hrun := readCacheFill_ends hs ht line
    refine ⟨fun cls hwant hready hkept hcached => ?_, fun cls hwant hready hgone => ?_, fun cls hwant hbusy => ?_, fun hnone => ?_, ?_⟩
    · rwa [rcFillTry_fills hwant hready hkept hcached] at hrun
    · rwa [rcFillTry_gone hwant hready hgone] at hrun
    · rwa [rcFillTry_waits hwant hbusy] at hrun
    · rwa [rcFillTry_none hnone] at hrun
    · exact runPart_ends (decide_eq_true ht) hs.on fun s => { s.modTile t (·.rcDrop line) with
        held := s.held.map fun h => if h.line == line then { h with sites := h.sites.filter (· != t) } else h }

end Sys2Proof.Machine
end

section
/-!
PROOF. What happens to a tile: prefetch checks, replays, margins, and the counts that leave its Spectrum buffer.
-/
namespace Sys2Proof.Machine

/-! ## Prefetch checks -/

/-- The check of one chunk of a prefetch entry. -/
def State.checkChunk (t slot : Nat) (r : Prefetch × State) (k : Nat) : Prefetch × State :=
  if r.1.stale.contains k || r.2.chunkNow (r.1.chunks.getD k 0) != r.1.stamps.getD k 0 then r.2.refetch t slot k r.1 else r

/-- What PREFETCH_CHECK does with the entry in `slot`. -/
def State.checkPrefetch (s : State) (t slot : Nat) : State := match sfind (s.tile t).pf slot with
  | none => s
  | some p =>
    if !(p.chunks.all fun a => s.rangeReady a 4096) then s.stall t engIssue stShade
    else ((List.range p.chunks.length).foldl (State.checkChunk t slot) (p, s)).2.modTile t fun x => { x with pf := sdel x.pf slot }

theorem prefetchCheck_ends {s : State} {t slot : Nat} (ht : t < 1152) (hslot : slot < 16) (haw : s.Awake) :
    Ends (exec (.prefetchCheck t slot) s) (s.checkPrefetch t slot) := by
  have h := runPart_ends (ok := t < 1152 && slot < 16) (by simp [ht, hslot]) haw.on (·.awake (·.checkPrefetch t slot))
  rw [State.awake, if_neg (by simp [haw.light])] at h
  exact h

/-- Chunks that nothing has changed are not fetched. -/
theorem checkChunks_current {t slot : Nat} {p : Prefetch} {s : State} (l : List Nat)
    (h : ∀ k ∈ l, p.stale.contains k = false ∧ s.chunkNow (p.chunks.getD k 0) = p.stamps.getD k 0) :
    l.foldl (State.checkChunk t slot) (p, s) = (p, s) := by
  induction l with
  | nil => rfl
  | cons k l ih =>
    obtain ⟨hstale, hstamp⟩ := h k (by simp)
    have hk : State.checkChunk t slot (p, s) k = (p, s) :=
      if_neg (by simp only [hstale, hstamp, bne_self_eq_false, Bool.or_self, Bool.false_eq_true, not_false_eq_true])
    rw [List.foldl_cons, hk]
    exact ih fun k hk => h k (by simp [hk])

/-! ## Replays -/

theorem mem_insNat (n : Nat) (l : List Nat) : n ∈ insNat n l := by
  induction l with
  | nil => simp [insNat]
  | cons x l ih =>
    unfold insNat
    split
    · simp
    · split
      · rename_i h
        simp [beq_iff_eq.1 h]
      · simp [ih]

theorem failSite_fails (s : State) (t : Nat) : t ∈ (s.failSite t).failing := mem_insNat t s.failing

section
variable {s : State} {t : Nat} (ht : t < 1152)
include ht

theorem rd_failSite_tile {off : Nat} (ho : regOff off) (site : Nat) : (s.failSite site).rd t off = s.rd t off := by
  refine State.rd_raise_key { s with failing := insNat site s.failing } fun h => ?_
  have hpage := (regKey_inj (by decide) ho h).1
  simp only [sparePage] at hpage
  omega

end

/-- The pattern stands in every failed byte of scratch. -/
theorem byte_setPattern (l : List Nat) (x : Tile) (p : Nat) : (l.foldl (fun x o => x.setByte o 0xFF) x).byte p =
    if p ∈ l ∧ p < scratchSize then 0xFF else x.byte p := by
  induction l generalizing x with
  | nil => simp
  | cons o l ih =>
    rw [List.foldl_cons, ih]
    by_cases hl : p ∈ l ∧ p < scratchSize
    · rw [if_pos hl, if_pos ⟨List.mem_cons_of_mem o hl.1, hl.2⟩]
    · rw [if_neg hl]
      by_cases hp : o = p
      · subst hp
        by_cases hin : o < scratchSize
        · rw [Tile.byte_setByte_same x _ hin, if_pos ⟨by simp, hin⟩]
        · simp [Tile.byte, hin]
      · rw [Tile.byte_setByte_other x _ hp, if_neg]
        rintro ⟨hmem, hin⟩
        exact hl ⟨(List.mem_cons.1 hmem).resolve_left (Ne.symm hp), hin⟩

/-- The tile that goes on after a replay that failed. -/
def Tile.goOn (x : Tile) (e : ParityErr) (gsend : Bool) (j : Nat) : Tile :=
  let x := { x.sendPattern e gsend with perr := none, rpFails := (x.rpFails.filter fun f => j < f + 1024) ++ [j] }
  if e.acc then
    let i := e.off / 4096
    let a := x.accAt i
    x.setAcc i { a with vals := e.offs.foldl (fun v n => v.set n 0xFFFFFFFF) a.vals, bad := a.bad.filter (!e.offs.contains ·) }
  else e.offs.foldl (fun x o => x.setByte o 0xFF) x

/-- REPLAY_FAIL is raised, and the step has its cause. -/
def State.replayMark (s : State) (t : Nat) : State := (s.raise t 8).cause (s.tagOf t) cHardware

theorem replayMark_stored (s : State) (t : Nat) : (s.replayMark t).stored = s.stored :=
  (cause_stored ..).trans (raise_stored s t 8)

theorem cause_rd (s : State) (tag i page off : Nat) : (s.cause tag i).rd page off = s.rd page off := by
  unfold State.cause
  split <;> rfl

theorem replayMark_rd (s : State) (t page off : Nat) : (s.replayMark t).rd page off = (s.raise t 8).rd page off := cause_rd ..

theorem replayFail_eq (s : State) (t : Nat) (e : ParityErr) : s.replayFail t e =
    let u := (s.replayMark t).modTile t (·.goOn e ((s.nextWord t).any (isOp · 0x38)) s.gn.frame)
    if (s.tile t).rpFails.any (s.gn.frame < · + 1024) then u.failSite t else u := by
  have hmark := replayMark_stored s t
  have hgn : (s.replayMark t).gn = s.gn := (congrArg State.gn hmark :)
  have htile : (s.replayMark t).tile t = s.tile t := tile_of_tiles (congrArg State.tiles hmark :) t
  dsimp only
  rw [← htile, ← hgn]
  rfl

/-- A tile that goes on, before its failed bytes become the pattern. -/
def Tile.goOnPast (x : Tile) (e : ParityErr) (gsend : Bool) (j : Nat) : Tile :=
  { x.sendPattern e gsend with perr := none, rpFails := (x.rpFails.filter fun f => j < f + 1024) ++ [j] }

section
variable {α : Type} {g : Tile → α} (hg : ∀ (x : Tile) q b sc bs a f, g { x with
  dmaq := q, sendBad := b, scratch := sc, badScr := bs, acc := a, rpFails := f } = g x)
include hg

theorem goOnPast_keeps (x : Tile) (e : ParityErr) (gsend : Bool) (j : Nat) : g (x.goOnPast e gsend j) = g { x with perr := none } := by
  have hsend : ∃ q b, x.sendPattern e gsend = { x with dmaq := q, sendBad := b } := by
    unfold Tile.sendPattern
    split
    · exact ⟨_, x.sendBad, rfl⟩
    · split
      · exact ⟨x.dmaq, _, rfl⟩
      · exact ⟨x.dmaq, x.sendBad, rfl⟩
  obtain ⟨q, b, hx⟩ := hsend
  rw [Tile.goOnPast, hx]
  exact hg { x with perr := none } q b x.scratch x.badScr x.acc _

theorem goOn_keeps (x : Tile) (e : ParityErr) (gsend : Bool) (j : Nat) : g (x.goOn e gsend j) = g { x with perr := none } := by
  refine Eq.trans ?_ (goOnPast_keeps hg x e gsend j)
  change g (if e.acc then _ else e.offs.foldl (fun x o => x.setByte o 0xFF) (x.goOnPast e gsend j)) = _
  split
  · exact hg (x.goOnPast e gsend j) _ _ _ _ _ _
  · refine foldl_keeps g _ (fun y o => ?_) _ _
    unfold Tile.setByte
    split
    · exact hg y y.dmaq y.sendBad _ _ y.acc y.rpFails
    · rfl

end

theorem sendPattern_scratch (x : Tile) (e : ParityErr) (gsend : Bool) : (x.sendPattern e gsend).scratch = x.scratch := by
  unfold Tile.sendPattern
  split
  · rfl
  · split <;> rfl

theorem goOn_scratch_acc (x : Tile) {e : ParityErr} (gsend : Bool) (j : Nat) (h : e.acc = true) :
    (x.goOn e gsend j).scratch = x.scratch :=
  (congrArg Tile.scratch (if_pos h)).trans (sendPattern_scratch x e gsend)

theorem goOn_byte (x : Tile) {e : ParityErr} (gsend : Bool) (j : Nat) (h : e.acc = false) (o : Nat) :
    (x.goOn e gsend j).byte o = if o ∈ e.offs ∧ o < scratchSize then 0xFF else x.byte o := by
  have hfold : x.goOn e gsend j = e.offs.foldl (fun x o => x.setByte o 0xFF) (x.goOnPast e gsend j) := if_neg (by simp [h])
  rw [hfold, byte_setPattern, byte_congr (x := x.goOnPast e gsend j) (y := x) (sendPattern_scratch x e gsend)]

/-! ## Margins -/

theorem wrN_same_rdN (s : State) (page off v : Nat) (h : v < 2 ^ 32) : (s.wrN page off v).rdN page off = v := by
  rw [State.rdN_wrN_same, Nat.mod_eq_of_lt h]

theorem rdN_of_rd {s u : State} {page off : Nat} (h : u.rd page off = s.rd page off) : u.rdN page off = s.rdN page off :=
  congrArg BitVec.toNat h

/-- The drop of FREQ_MEAS, and of an operating frequency above FREQ_MAX. -/
def State.freqSet (s : State) (t n : Nat) : State :=
  let s := s.wrN t 0x108 (max 400 (s.rdN t 0x108 - n))
  if s.rdN t 0x110 > s.freqMax t then s.wrN t 0x110 (s.freqMax t) else s

theorem freqDrop_eq (s : State) (t n : Nat) : s.freqDrop t n =
    (if (s.freqSet t n).freqMax t < 500 then (s.freqSet t n).failSite t else s.freqSet t n).raise t 6 := rfl

section
variable {s : State} {t : Nat}

theorem rdN_wrN_other {off o v : Nat} (hoff : regOff off) (ho : regOff o) (h : o ≠ off) : (s.wrN t o v).rdN t off = s.rdN t off :=
  rdN_of_rd (s.rd_wr_other _ ho hoff fun hsame => h hsame.2)

theorem freqMax_congr {u : State} (hset : u.rdN t 0x104 = s.rdN t 0x104) (hmeas : u.rdN t 0x108 = s.rdN t 0x108) :
    u.freqMax t = s.freqMax t := by
  rw [State.freqMax, hset, hmeas]
  rfl

theorem freqMax_lt (s : State) (t : Nat) : s.freqMax t < 2 ^ 32 := by
  unfold State.freqMax
  omega

theorem freqSet_meas (s : State) (t n : Nat) : (s.freqSet t n).rdN t 0x108 = max 400 (s.rdN t 0x108 - n) := by
  have hmeas : (s.wrN t 0x108 (max 400 (s.rdN t 0x108 - n))).rdN t 0x108 = max 400 (s.rdN t 0x108 - n) :=
    wrN_same_rdN _ _ _ _ (by have := s.rdN_lt t 0x108; omega)
  unfold State.freqSet
  dsimp only
  split
  · rw [rdN_wrN_other (by decide) (by decide) (by decide), hmeas]
  · exact hmeas

theorem freqSet_op (s : State) (t n : Nat) :
    (s.freqSet t n).rdN t 0x110 = min (s.rdN t 0x110) ((s.freqSet t n).freqMax t) := by
  have hop : (s.wrN t 0x108 (max 400 (s.rdN t 0x108 - n))).rdN t 0x110 = s.rdN t 0x110 :=
    rdN_wrN_other (by decide) (by decide) (by decide)
  unfold State.freqSet
  generalize s.wrN t 0x108 (max 400 (s.rdN t 0x108 - n)) = v at hop ⊢
  have hmax : (v.wrN t 0x110 (v.freqMax t)).freqMax t = v.freqMax t :=
    freqMax_congr (rdN_wrN_other (by decide) (by decide) (by decide)) (rdN_wrN_other (by decide) (by decide) (by decide))
  dsimp only
  split
  · rw [wrN_same_rdN _ _ _ _ (freqMax_lt ..), hmax]
    omega
  · omega

variable (ht : t < 1152)
include ht

/-- What follows the drop leaves every register of the tile but its events. -/
theorem freqDrop_rdN {off : Nat} (hoff : regOff off) (h : off ≠ offEvt) (n : Nat) :
    (s.freqDrop t n).rdN t off = (s.freqSet t n).rdN t off := by
  have hraise (u : State) : (u.raise t 6).rdN t off = u.rdN t off :=
    rdN_of_rd (State.rd_raise_key u fun hkey => h (regKey_inj (by decide) hoff hkey).2.symm)
  rw [freqDrop_eq, hraise]
  split
  · exact rdN_of_rd (rd_failSite_tile ht hoff t)
  · rfl

theorem hardLoss_rd {off : Nat} (hoff : regOff off) : (s.hardLoss t).rd t off = (s.freqDrop t 100).rd t off := by
  unfold State.hardLoss
  dsimp only
  split
  · rfl
  · rw [rd_failSite_tile ht hoff]
    split
    · rw [cause_rd]
    · rfl

theorem hardLoss_rdN {off : Nat} (hoff : regOff off) (h : off ≠ offEvt) :
    (s.hardLoss t).rdN t off = (s.freqSet t 100).rdN t off :=
  (rdN_of_rd (hardLoss_rd ht hoff)).trans (freqDrop_rdN ht hoff h 100)

theorem hardLoss_flag : (s.hardLoss t).flag t offEvt 6 = true := by
  rw [State.flag_congr (hardLoss_rd ht (by decide)), freqDrop_eq]
  exact State.flag_raise_same _ t 6 (by decide)

end

theorem hardLoss_fails {s : State} {t : Nat} (h : s.freqOp t ≤ 400) : t ∈ (s.hardLoss t).failing := by
  unfold State.hardLoss
  simp only [h, decide_true, Bool.not_true, Bool.false_eq_true, if_false]
  exact failSite_fails ..

/-- Nothing but registers, events, causes and the sites that fail. -/
def State.unfailed (s : State) : State := { s.stored with failing := [] }

theorem failSite_unfailed (s : State) (t : Nat) : (s.failSite t).unfailed = s.unfailed := rfl

theorem raise_unfailed (s : State) (page i : Nat) : (s.raise page i).unfailed = s.unfailed := rfl

theorem wrN_unfailed (s : State) (page off v : Nat) : (s.wrN page off v).unfailed = s.unfailed := rfl

theorem freqDrop_unfailed (s : State) (t n : Nat) : (s.freqDrop t n).unfailed = s.unfailed := by
  have hset : (s.freqSet t n).unfailed = s.unfailed := by
    unfold State.freqSet
    dsimp only
    split
    · rw [wrN_unfailed, wrN_unfailed]
    · rw [wrN_unfailed]
  rw [freqDrop_eq, raise_unfailed]
  split
  · rw [failSite_unfailed, hset]
  · exact hset

theorem hardLoss_unfailed (s : State) (t : Nat) : (s.hardLoss t).unfailed = s.unfailed := by
  have hdrop := freqDrop_unfailed s t 100
  unfold State.hardLoss
  dsimp only
  split
  · exact hdrop
  · rw [failSite_unfailed]
    split
    · exact (congrArg (fun x : State => { x with failing := [] }) (cause_stored ..) :).trans hdrop
    · exact hdrop

/-- What PATH_MONITOR_MEASURE does with the margins `l`. -/
def State.measureMargins (s : State) (t : Nat) (l : List Nat) : State :=
  if !s.flag t offControl 0 || l.isEmpty || (s.siteEnt t).st == 3 then s
  else
    let m := l.foldl min 255
    let runs := ((s.tile t).softRuns.zip l).map fun (r, g) => if g < Config.softThreshold then r + 1 else 0
    let s := (s.wrN t 0x118 (m + 256 * ((l.findIdx? (· == m)).getD 0 % 8) + 2048 * min (runs.foldl max 0) 31)).modTile t
      fun x => { x with softRuns := runs, softDrop := x.softDrop || runs.any (fun r => r % 4 == 0 && r > 0) }
    if m < Config.hardThreshold then s.hardLoss t else s

/-! ## Counts that leave the tile -/

/-- What SPECTRUM_FLUSH does with the oldest flushed entry of `tensor`. -/
def State.flushTensor (s : State) (t tensor : Nat) : State := match takeFirst (fun d => d.2.tensor == tensor) (s.tile t).specDue with
  | none => s
  | some ((step, e), rest) =>
    match s.specFlush step e (.tile t) with
    | none => s.stall t engIssue stShade
    | some s => (s.modTile t fun x => { x with specDue := rest }).hdrFlush

/-- What DONE_STEP_WRITE does with the oldest finished step, once the counts for the header have gone. -/
def State.endStep (s : State) : State := match s.steps.doneSteps with
  | [] => s
  | (step, base, n) :: rest =>
    if !s.flushed step || !s.doneReady step base n then s
    else (s.modSteps fun x => { x with doneSteps := rest }).writeDone step base n

theorem doneStepWrite_ends {s : State} (hs : s.Serves) : Ends (exec .doneStepWrite s) s.hdrFlush.endStep :=
  runOn_ends hs.on fun s => s.hdrFlush.endStep

theorem cleanLine_memOnly (s : State) (line : Nat) : MemOnly s (s.cleanLine line) := by
  unfold State.cleanLine
  split
  · exact MemOnly.refl s
  · rename_i k _
    have hmerge := flushMerge_memOnly s k line
    dsimp only
    split
    · exact hmerge
    · split
      · exact hmerge
      · rename_i l _ _
        rw [forN]
        generalize List.range 32 = ws
        refine hmerge.trans (MemOnly.trans (foldl_proj_memOnly (β := List PByte × Line × State) (·.2.2) _ (fun b w => ?_) ws
          (([] : List PByte), l, s.flushMerge k line)) ((writeStack_memOnly ..).trans (modSlice_memOnly ..)))
        exact checkWord_memOnly b.2.2 k b.2.1 w .module

theorem cleanLines_gn (l : List Nat) (s : State) : (l.foldl State.cleanLine s).gn = s.gn :=
  (congrArg State.gn (foldl_memOnly State.cleanLine cleanLine_memOnly l s).rest :)

/-- Settles O20: prefetch checks by `checkChunks_current`, replays that fail by `replayFail_eq`, margins by what `State.hardLoss`
leaves, and counts by `State.flushTensor` and `State.endStep`. -/
theorem tileEventsComplete : Obligations.TileEventsComplete := by
  unfold Obligations.TileEventsComplete
  refine ⟨fun s t slot p ht hslot haw hp => ?_, fun s t e ht haw he => ?_, fun s t e ht => ?_, fun s t l ht haw => ?_,
    fun s t ht => ?_, fun s t tensor step e rest ht haw he => ?_, fun s hs => ?_⟩
  · intro retire chunk
    have hrun := prefetchCheck_ends ht hslot haw
    refine ⟨fun hready => ?_, fun hready hcurrent => ?_, fun hbusy => ?_⟩
    · simp only [State.checkPrefetch, hp, hready, Bool.not_true, Bool.false_eq_true, if_false] at hrun
      exact hrun
    · simp only [State.checkPrefetch, hp, hready, Bool.not_true, Bool.false_eq_true, if_false,
        checkChunks_current (s := s) (slot := slot) (t := t) (List.range p.chunks.length) fun k hk => hcurrent k (List.mem_range.1 hk)]
        at hrun
      exact hrun
    · simp only [State.checkPrefetch, hp, hbusy, Bool.not_false, if_true] at hrun
      exact hrun
  · have hrun := tileRun_ends ht haw (·.replayStart t)
    simp only [State.replayStart, he] at hrun
    refine ⟨fun hbusy => ?_, fun hquiet hnone => ?_, fun r hquiet hsome => ⟨fun hready => ?_, fun hready => ?_⟩⟩
    · simp only [hbusy, Bool.not_false, if_true] at hrun
      exact hrun
    · simp only [hquiet, hnone, Bool.not_true, Bool.false_eq_true, if_false] at hrun
      exact hrun
    · simp only [hquiet, hsome, Bool.not_true, Bool.false_eq_true, if_false] at hrun
      rwa [if_pos (by rw [hready]; rfl)] at hrun
    · simp only [hquiet, hsome, Bool.not_true, Bool.false_eq_true, if_false] at hrun
      rwa [if_neg (by rw [hready]; simp)] at hrun
  · intro u
    have hu : u = _ := replayFail_eq s t e
    dsimp only at hu
    generalize (s.nextWord t).any (isOp · 0x38) = gsend at hu
    generalize hv : (s.replayMark t).modTile t (·.goOn e gsend s.gn.frame) = v at hu
    have hmark := replayMark_stored s t
    have hmarked (i : Nat) : (s.replayMark t).tile i = s.tile i := tile_of_tiles (congrArg State.tiles hmark :) i
    have htiles : u.tiles = v.tiles := by rw [hu]; split <;> rfl
    have hsame : u.tile t = (s.tile t).goOn e gsend s.gn.frame := by
      rw [tile_of_tiles htiles, ← hv, State.tile_modTile_same, hmarked]
    refine ⟨?_, ?_, ?_, fun hacc o => ?_, fun hacc => ?_, fun i hi => ?_, ?_, fun htwice => ?_⟩
    · have hrd : u.rd t offEvt = (s.raise t 8).rd t offEvt := by
        rw [← replayMark_rd, show (s.replayMark t).rd t offEvt = v.rd t offEvt from by rw [← hv]; rfl, hu]
        split
        · exact rd_failSite_tile ht (by decide) t
        · rfl
      rw [State.flag_congr hrd]
      exact State.flag_raise_same s t 8 (by decide)
    · rw [hsame, goOn_keeps (g := Tile.perr) fun _ _ _ _ _ _ _ => rfl]
    · rw [hsame, goOn_keeps (g := Tile.pos) fun _ _ _ _ _ _ _ => rfl]
    · rw [hsame, goOn_byte _ _ _ hacc]
    · rw [hsame, goOn_scratch_acc _ _ _ hacc]
    · rw [tile_of_tiles htiles, ← hv, State.tile_modTile_other _ _ hi.symm, hmarked]
    · have hmem : u.mem = v.mem := by rw [hu]; split <;> rfl
      rw [hmem, ← hv]
      exact (congrArg State.mem hmark :)
    · rw [hu, if_pos htwice]
      exact failSite_fails ..
  · intro m runs shown
    have hrun : Ends (exec (.pathMonitorMeasure t l) s) (s.measureMargins t l) := tileRun_ends ht haw (·.measureMargins t l)
    refine ⟨fun hoff => ?_, fun hflag hl hst => ?_⟩
    · rwa [State.measureMargins, if_pos (by simpa [or_assoc] using hoff)] at hrun
    · rw [State.measureMargins, if_neg (by simp [hflag, hl, hst])] at hrun
      refine ⟨fun hm => ?_, fun hm => ?_⟩
      · rwa [if_neg (Nat.not_lt.2 hm)] at hrun
      · rwa [if_pos hm] at hrun
  · have hkeep := hardLoss_unfailed s t
    refine ⟨?_, hardLoss_flag ht, ?_, hardLoss_fails, (congrArg State.tiles hkeep :), (congrArg State.mem hkeep :)⟩
    · rw [hardLoss_rdN ht (by decide) (by decide), freqSet_meas]
    · rw [hardLoss_rdN ht (by decide) (by decide), freqSet_op,
        freqMax_congr (hardLoss_rdN ht (by decide) (by decide)) (hardLoss_rdN ht (by decide) (by decide))]
  · have hrun : Ends (exec (.spectrumFlush t tensor) s) (s.flushTensor t tensor) := tileRun_ends ht haw (·.flushTensor t tensor)
    simp only [State.flushTensor, he] at hrun
    refine ⟨fun hnone => ?_, fun u hu => ?_⟩
    · simpa only [hnone] using hrun
    · simpa only [hu] using hrun
  · intro h
    have hrun := doneStepWrite_ends hs
    refine ⟨fun hnone => ?_, fun step base n rest hsteps => ?_⟩
    · simp only [State.endStep, show s.hdrFlush.steps.doneSteps = [] from hnone] at hrun
      exact hrun
    · simp only [State.endStep, show s.hdrFlush.steps.doneSteps = (step, base, n) :: rest from hsteps] at hrun
      refine ⟨fun hwait => ?_, fun hflushed hn => ?_, fun hflushed hready hn => ?_⟩
      · rwa [if_pos (by simpa using hwait)] at hrun
      · subst hn
        have hready : s.hdrFlush.doneReady step base 0 = true := by simp [State.doneReady]
        rw [show s.hdrFlush.flushed step = true from hflushed, hready] at hrun
        simp only [Bool.not_true, Bool.or_self, Bool.false_eq_true, if_false, State.writeDone, beq_self_eq_true, if_true] at hrun
        exact hrun
      · rw [show s.hdrFlush.flushed step = true from hflushed, show s.hdrFlush.doneReady step base n = true from hready] at hrun
        simp only [Bool.not_true, Bool.or_self, Bool.false_eq_true, if_false, State.writeDone, beq_eq_false_iff_ne.2 hn, cleanLines_gn] at hrun
        exact hrun

end Sys2Proof.Machine
end

section
/-!
PROOF. Mirror tasks: how one begins, and how one ends.
-/
namespace Sys2Proof.Machine

section
variable {s : State} {t : Nat} {w : BitVec 128} {k : MTask}

theorem ready_mirrorImage (s : State) (t : Nat) (rs ws : List (Nat × Nat)) : (s.ready t rs ws).mirrorImage = s.mirrorImage := by
  rw [State.mirrorImage, (ready_image s t rs ws).adm]
  rfl

theorem ready_mirrorTask (s : State) (t : Nat) (rs ws : List (Nat × Nat)) (w : BitVec 128) :
    (s.ready t rs ws).mirrorTask t w = s.mirrorTask t w := by
  rw [State.mirrorTask, ready_mirrorImage, ready_tile_same]
  rfl

/-- A MIRROR that can issue performs its task from the state that its issue has made ready. -/
theorem mirror_performs (hop : isOp w 0x50 = true) (hc : s.CanIssue t w (s.mirrorIssue t w)) :
    Performs (exec (.mirror t w) s) t
      ((s.ready t (s.mirrorIssue t w).reads (s.mirrorIssue t w).writes).mirror t w (s.mirrorIssue t w)) := by
  have hrun := issue_performs hc hop (·.mirror t w (s.mirrorIssue t w))
  rwa [instrRun_congr (g := fun u => u.issue t w (u.mirrorIssue t w) (·.mirror t w (u.mirrorIssue t w))) rfl] at hrun

/-- The elements of a task do not depend on what else its tile holds. -/
theorem mirrorRun_scalars {x y : Tile} (h : x.scratch = y.scratch) (i : Image) (prog : List Word) (k : MTask) (tag : Nat) :
    x.mirrorRun i prog k tag = forN k.e { tile := x : MRun } fun r e =>
      runElem prog ((List.range 16).map fun n => BitVec.ofNat 32 (y.num (k.scalars + 4 * n) 4)) k i.seed tag r e := by
  have hnum (o n : Nat) : x.num o n = y.num o n := by
    simp only [Tile.num, Tile.bytes, byte_congr h]
  simp only [Tile.mirrorRun, hnum]

end

/-! ## The end of a task -/

/-- One fingerprint of a task is written, or skipped in a replay. -/
def State.writePrint (t tag : Nat) (i : Image) (s : State) (p : Nat × DWord) : State :=
  if 0 < (s.tile t).skip.writes then s.modTile t fun x => { x with skip := { x.skip with writes := x.skip.writes - 1 } }
  else (({ s with steps := { s.steps with owners := sput s.steps.owners p.1 t } }.devWrite
      (s.fpTable i + 8 * (tag % 2 * s.fpBlocks i + p.1)) (sound (natLe 8 p.2.toNat)) 5 (.tile t)).modTile t fun x =>
    { x with done := { x.done with writes := x.done.writes + 1 } })

/-- The engine of a tile ends the task `m`: its norm sums are stored. -/
def State.storeNorms (s : State) (t : Nat) (m : MirrorTask) : State :=
  let s := s.modTile t fun x => { x with mirror := none }
  if m.norms.isEmpty then s else s.putScratch t m.normOut (m.norms.foldr (fun v acc => natLe 4 v.toNat ++ acc) [])

/-- What MIRROR_TASK_COMPLETE does with the open task of a tile. -/
def State.endMirror (s : State) (t : Nat) : State := match (s.tile t).mirror with
  | none => s
  | some m => match (s.storeNorms t m).adm.active with
    | none => s.storeNorms t m
    | some i => m.fprints.foldl (State.writePrint t m.tag i) (s.storeNorms t m)

theorem mirrorTaskComplete_ends {s : State} {t : Nat} (ht : t < 1152) (haw : s.Awake) :
    Ends (exec (.mirrorTaskComplete t) s) (s.endMirror t) := tileRun_ends ht haw (·.endMirror t)

theorem storeNorms_adm (s : State) (t : Nat) (m : MirrorTask) : (s.storeNorms t m).adm = s.adm := by
  unfold State.storeNorms
  dsimp only
  split
  · rfl
  · exact (putScratch_image ..).adm

/-- Settles O21: `mirror_performs`, and what MIRROR_TASK_COMPLETE does (`State.endMirror`). -/
theorem mirrorTasksRunAndEnd : Obligations.MirrorTasksRunAndEnd := by
  unfold Obligations.MirrorTasksRunAndEnd
  refine ⟨fun s t w k => ?_, fun s t m ht haw hm => ?_, fun s t ht haw hnone => ?_⟩
  · intro i n prog q tag f scal r prints m open_ hop hc hk
    have hrun := mirror_performs hop hc
    rw [State.mirror, ready_mirrorTask, hk] at hrun
    dsimp only at hrun
    rw [ready_tagOf, ready_mirrorImage] at hrun
    have hf : ((s.ready t (s.mirrorIssue t w).reads (s.mirrorIssue t w).writes).faultReads t
        (taskStores (progOf s.mirrorImage (mirrorProg w)) k)).tile t = (s.tile t).retirePf (s.mirrorIssue t w).writes :=
      (tile_of_tiles (congrArg State.tiles (faultReads_rest ..) :) t).trans (ready_tile_same ..)
    rw [mirrorRun_scalars (congrArg Tile.scratch hf :)] at hrun
    exact hrun
  · intro free normed print
    have hrun := mirrorTaskComplete_ends ht haw
    have hnormed : s.storeNorms t m = normed := by
      unfold State.storeNorms
      simp only [List.isEmpty_iff]
      rfl
    simp only [State.endMirror, hm, storeNorms_adm] at hrun
    rw [hnormed] at hrun
    refine ⟨fun hidle => ?_, fun i hactive => ?_⟩
    · rwa [hidle] at hrun
    · rwa [hactive] at hrun
  · have hrun := mirrorTaskComplete_ends ht haw
    rwa [State.endMirror, hnone] at hrun

end Sys2Proof.Machine
end

section
/-!
PROOF. SET_HI while frames run without an image in force (Section 5.2): the write is accepted and does nothing.
-/
namespace Sys2Proof.Machine

/-- A master whose frames run though no image is in force. -/
def runningMaster : State := { pow := { off := false }, gn := { master := true, running := true } }

theorem runningMaster_serves : runningMaster.Serves := ⟨rfl, rfl, rfl, rfl⟩

theorem setHi_runningMaster : (runningMaster.order (.operator 0) gnPage 0x14C 1).rd gnPage 0x14C = 0 := rfl

/-- Refutes O22: the register of a master whose frames run without an image does not take the value of SET_HI. -/
theorem not_gnomonFamilyCompletes : ¬ Obligations.GnomonFamilyCompletes := by
  unfold Obligations.GnomonFamilyCompletes
  rintro ⟨-, -, hset⟩
  obtain ⟨-, hset⟩ := hset runningMaster (.operator 0) 1 runningMaster_serves
  obtain ⟨hrd, -⟩ := hset rfl rfl rfl
  exact absurd (setHi_runningMaster.symm.trans hrd) (by decide)

end Sys2Proof.Machine
end

section
/-!
PROOF. Verdicts on steps (Section 7.5): who takes one, what each kind of verdict does to the step, and what an undo leaves.
-/
namespace Sys2Proof.Machine

/-- What a command of the module does, from what its effect comes to. -/
theorem runOn_ends_of {s t : State} {f : State → State} (hs : s.pow.off = false) (h : f s = t) : Ends (runOn s f) t :=
  h ▸ runOn_ends hs f

theorem runPart_ends_of {s t : State} {ok : Bool} {f : State → State} (hk : ok = true) (hs : s.pow.off = false)
    (h : f s = t) : Ends (runPart ok s f) t := h ▸ runPart_ends hk hs f

/-! ## Who takes a verdict -/

section
variable {s : State} {m : StepMsg} {v : Nat}

theorem takeVerdict_other (h : s.steps.phase ≠ .reported ∨ m.step ≠ s.steps.step) : s.takeVerdict v m = none := by
  have hc : (s.steps.phase != .reported || m.step != s.steps.step) = true := by simpa using h
  simp only [State.takeVerdict, hc, if_true]

theorem takeVerdict_reported (hp : s.steps.phase = .reported) (hm : m.step = s.steps.step) :
    s.takeVerdict v m = if s.gn.master then
      (match s.steps.decided with
      | some (w, d) => if w == v && d.step == m.step then some s else none
      | none => none)
    else match s.gn.upstream with
      | some p => some ((s.ctrlIn p).stepDown 2 { m with verdict := v })
      | none => none :=
  if_neg (by simp [hp, hm])

theorem takeVerdict_upstream {p : Nat} (hp : s.steps.phase = .reported) (hm : m.step = s.steps.step)
    (hg : s.gn.master = false) (hu : s.gn.upstream = some p) :
    s.takeVerdict v m = some ((s.ctrlIn p).stepDown 2 { m with verdict := v }) := by
  simp [takeVerdict_reported hp hm, hg, hu]

theorem takeVerdict_master {d : StepMsg} (hp : s.steps.phase = .reported) (hm : m.step = s.steps.step)
    (hg : s.gn.master = true) (hd : s.steps.decided = some (v, d)) (hs : d.step = m.step) : s.takeVerdict v m = some s := by
  simp [takeVerdict_reported hp hm, hg, hd, hs]

/-! ## The commands -/

variable (hs : s.Serves)
include hs

theorem commit_none (h : s.takeVerdict 1 m = none) : Ends (exec (.commit m) s) s :=
  show Ends (execCommit m s) s from runOn_ends_of hs.on (by simp only [h])

theorem commitRepair_none (h : s.takeVerdict 2 m = none) : Ends (exec (.commitRepair m) s) s :=
  show Ends (execCommitRepair m s) s from runOn_ends_of hs.on (by simp only [h])

theorem discard_none (h : s.takeVerdict 3 m = none) : Ends (exec (.discard m) s) s :=
  show Ends (execDiscard m s) s from runOn_ends_of hs.on (by simp only [h])

theorem commit_some {t : State} (h : s.takeVerdict 1 m = some t) :
    let c := (t.commitStep 1 m.cause).nextPass
    Ends (exec (.commit m) s) (State.forSites { c with adm := { c.adm with mustWait := false } } fun s n =>
      if (s.tile n).waitVerdict || !s.running n then (s.modTile n (·.merge)).writeScalars n else s.modTile n (·.merge)) :=
  show Ends (execCommit m s) _ from runOn_ends_of hs.on (by simp only [h])

theorem commitRepair_some {t : State} (h : s.takeVerdict 2 m = some t) :
    let c := t.commitStep 2 m.cause
    Ends (exec (.commitRepair m) s) ({ c with steps := { c.steps with cause := 0 } }.beginUndo (t.steps.step + 1)) :=
  show Ends (execCommitRepair m s) _ from runOn_ends_of hs.on (by simp only [h]; rfl)

theorem discard_some {t : State} (h : s.takeVerdict 3 m = some t) :
    let c := t.scaleBy 3 m.cause
    let n := c.steps.inRow + 1
    let again : State := { c with steps := { freshStep c.steps 0 with
      attempt := c.steps.attempt + 1, inRow := n, repairs := [] } }
    Ends (exec (.discard m) s)
      ((if n = 8 then (again.raiseTiles 14).holdRequest 2 else again).beginUndo (c.steps.step + 1)) :=
  show Ends (execDiscard m s) _ from runOn_ends_of hs.on (by simp only [h, beq_iff_eq]; rfl)

/-- The module has taken a ROLLBACK. -/
def State.rollTaken (t : State) (m : StepMsg) : State := { t with steps := { t.steps with
  verdict := 4, vcause := m.cause, rollTo := true, decided := none } }

theorem rollback_none (hl : (s.steps.phase == .drained && m.step + 1 == s.steps.step) = false)
    (h : s.takeVerdict 4 m = none) : Ends (exec (.rollback m) s) s :=
  show Ends (execRollback m s) s from runOn_ends_of hs.on (by simp [hl, h])

theorem rollback_some {t : State} (hl : (s.steps.phase == .drained && m.step + 1 == s.steps.step) = false)
    (h : s.takeVerdict 4 m = some t) : Ends (exec (.rollback m) s)
      ({ t.rollTaken m with steps := freshStep (t.rollTaken m).steps 0 }.beginUndo (t.steps.step + 1)) :=
  show Ends (execRollback m s) _ from runOn_ends_of hs.on (by simp only [hl, Bool.false_eq_true, if_false, h]; rfl)

/-- A ROLLBACK in place of RESUME, where `t` is what taking it leaves. -/
theorem rollback_late {t : State} (hl : (s.steps.phase == .drained && m.step + 1 == s.steps.step) = true)
    (h : (if s.gn.master then (if s.steps.decided.any (·.1 == 4) then some s else none)
      else s.gn.upstream.map fun p => (s.ctrlIn p).stepDown 2 { m with verdict := 4 }) = some t) :
    Ends (exec (.rollback m) s) (t.rollTaken m) :=
  show Ends (execRollback m s) _ from runOn_ends_of hs.on (by simp only [hl, if_true, h]; rfl)

theorem rollback_late_none (hl : (s.steps.phase == .drained && m.step + 1 == s.steps.step) = true)
    (h : (if s.gn.master then (if s.steps.decided.any (·.1 == 4) then some s else none)
      else s.gn.upstream.map fun p => (s.ctrlIn p).stepDown 2 { m with verdict := 4 }) = none) :
    Ends (exec (.rollback m) s) s :=
  show Ends (execRollback m s) _ from runOn_ends_of hs.on (by simp only [hl, if_true, h])

end

/-! ## The step after a verdict -/

theorem raiseTiles_keeps {β : Type} (g : State → β) (hg : ∀ s t b, g (State.raise s t b) = g s) (s : State) (b : Nat) :
    g (s.raiseTiles b) = g s := foldl_keeps g _ (fun s t => hg s t b) _ s

theorem scaleBy_steps {s : State} {i : Image} (h : s.adm.active = some i) (v cause : Nat) :
    let sc := scaleAfter (s.growth i) (s.lsMin i) (s.lsMax i) v cause s.steps.ls s.steps.run
    (s.scaleBy v cause).steps = { s.steps with ls := sc.1, run := sc.2.1, verdict := v, vcause := cause } := by
  simp only [State.scaleBy, h]
  split
  · exact raiseTiles_keeps State.steps (fun _ _ _ => rfl) _ _
  · rfl

theorem commitStep_steps {t : State} {i : Image} (h : t.adm.active = some i) (v cause : Nat) :
    let u := t.commitStep v cause
    let sc := scaleAfter (t.growth i) (t.lsMin i) (t.lsMax i) v cause t.steps.ls t.steps.run
    u.steps.step = t.steps.step + 1 ∧ u.steps.phase = .exec ∧ u.steps.attempt = 0 ∧ u.steps.inRow = 0 ∧
    u.steps.cause = t.steps.causeNext ∧ u.steps.causeNext = 0 ∧
    u.steps.doneSteps = t.steps.doneSteps ++ [(t.steps.step, t.steps.specAt)] ∧
    u.steps.ls = sc.1 ∧ u.steps.run = sc.2.1 ∧ u.steps.verdict = v := by
  simp only [State.commitStep, State.modSteps, freshStep, scaleBy_steps h, and_self]

/-! ## The undo -/

/-- What an undo leaves of a tile: its credit counters, scratch and accumulators. -/
def Tile.lasting (x : Tile) := (x.cc, x.scratch, x.acc)

theorem Tile.lasting_undo (x : Tile) (tag proLen pro : Nat) : (x.undo tag proLen pro).lasting = x.lasting := by
  unfold Tile.undo
  dsimp only
  split
  · rfl
  · split <;> rfl

theorem modTile_tile_keeps {β : Type} (g : Tile → β) (s : State) (t n : Nat) (f : Tile → Tile) (hf : ∀ x, g (f x) = g x) :
    g ((s.modTile t f).tile n) = g (s.tile n) := by
  by_cases h : t = n
  · subst h; rw [State.tile_modTile_same, hf]
  · rw [State.tile_modTile_other s f h]

/-- What a tile's part of an undo keeps of the state. -/
def State.undoKeeps (s : State) := (s.steps, s.gn, s.adm, fun n => (s.tile n).lasting)

theorem undoKeeps_raise (s : State) (t b : Nat) : (s.raise t b).undoKeeps = s.undoKeeps := rfl

theorem undoKeeps_bump (s : State) (p o n : Nat) : (s.bump p o n).undoKeeps = s.undoKeeps := by
  rw [bump_regsOnly s p o n]; rfl

theorem undoKeeps_modTile (s : State) (t : Nat) (f : Tile → Tile) (hf : ∀ x, (f x).lasting = x.lasting) :
    (s.modTile t f).undoKeeps = s.undoKeeps :=
  congrArg (fun l => (s.steps, s.gn, s.adm, l)) (funext fun n => modTile_tile_keeps Tile.lasting s t n f hf)

theorem beginUndo_keeps (t : State) (tag : Nat) : (t.beginUndo tag).undoKeeps =
    State.undoKeeps { t with steps := { t.steps with phase := .undoing, undoTag := some tag } } := by
  refine Eq.trans (foldl_keeps State.undoKeeps _ (fun s n => ?_) _ _) (raiseTiles_keeps _ undoKeeps_raise _ _)
  dsimp only
  split
  · exact undoKeeps_bump ..
  · exact (undoKeeps_modTile _ _ _ fun x => x.lasting_undo ..).trans (undoKeeps_bump ..)

/-- Settles O27: who takes a verdict, what each does, and what it leaves of the step and of an undo. -/
theorem verdictsAndStepsComplete : Obligations.VerdictsAndStepsComplete := by
  unfold Obligations.VerdictsAndStepsComplete
  refine ⟨fun s m v => ⟨takeVerdict_other, fun hp hm => ⟨fun p hg hu => takeVerdict_upstream hp hm hg hu,
      fun d hg hd hst => takeVerdict_master hp hm hg hd hst⟩⟩,
    fun s m hs => ⟨commit_none hs, commitRepair_none hs, discard_none hs, fun t h => commit_some hs h,
      fun t h => commitRepair_some hs h, fun t h => discard_some hs h, rollback_none hs, fun t hl h => rollback_some hs hl h,
      fun p hl hg hu => rollback_late hs hl (by simp [hg, hu]), fun d hl hg hd => rollback_late hs hl (by simp [hg, hd]),
      fun hl hg hu => rollback_late_none hs hl (by simp [hg, hu]),
      fun hl hg hd => rollback_late_none hs hl (by simp [hg, hd])⟩,
    fun t v cause i h => commitStep_steps h v cause, fun t tag => ?_⟩
  obtain ⟨hsteps, hgn, hadm, htile⟩ : _ ∧ _ ∧ _ ∧ _ := by
    simpa only [State.undoKeeps, Prod.mk.injEq] using beginUndo_keeps t tag
  refine ⟨hsteps, hgn, hadm, fun n => ?_⟩
  obtain ⟨hcc, hrest⟩ := Prod.mk.inj (congrFun htile n)
  obtain ⟨hscratch, hacc⟩ := Prod.mk.inj hrest
  exact ⟨hcc, hscratch, hacc⟩

end Sys2Proof.Machine
end

section
/-!
PROOF. The end of a step, the drain after a verdict and RESUME (Sections 7.5, 7.7 and 7.8).
-/
namespace Sys2Proof.Machine

section
variable {s : State} (hs : s.Serves)
include hs

/-! ## Reports of a child -/

theorem stepReport_closed {p : Nat} (hp : p < 16) (m : StepMsg) (h : s.portUp p = false) :
    Ends (exec (.stepReport p m) s) s :=
  show Ends (execStepReport p m s) s from runPart_ends_of (decide_eq_true hp) hs.on (by simp [h])

theorem drained_closed {p : Nat} (hp : p < 16) (m : StepMsg) (h : s.portUp p = false) : Ends (exec (.drained p m) s) s :=
  show Ends (execDrained p m s) s from runPart_ends_of (decide_eq_true hp) hs.on (by simp [h])

theorem stepReport_open {p : Nat} (hp : p < 16) (m : StepMsg) (h : s.portUp p = true) :
    Ends (exec (.stepReport p m) s)
      (State.tryReport { s.ctrlIn p with steps := { s.steps with kids := sput s.steps.kids p m } }) :=
  show Ends (execStepReport p m s) _ from runPart_ends_of (decide_eq_true hp) hs.on (if_neg (by simp [h]))

theorem drained_open {p : Nat} (hp : p < 16) (m : StepMsg) (h : s.portUp p = true) :
    Ends (exec (.drained p m) s)
      (State.tryDrained { s.ctrlIn p with steps := { s.steps with kidsDrain := sput s.steps.kidsDrain p m } }) :=
  show Ends (execDrained p m s) _ from runPart_ends_of (decide_eq_true hp) hs.on (if_neg (by simp [h]))

/-! ## The close of a step -/

/-- An operation of the step is open, or the step does not run. -/
def State.stepOpen (s : State) : Prop :=
  s.steps.phase ≠ .exec ∨ s.gn.running = false ∨ s.stepQuiet = false ∨ s.collDone = false

omit hs in
theorem stepOpen_iff : (s.steps.phase != .exec || !s.gn.running || !s.stepQuiet || !s.collDone) = true ↔ s.stepOpen := by
  simp [State.stepOpen, or_assoc]

/-- The fingerprints of a group are sent and compared; without a group there is nothing to compare. -/
def State.fpCompared (s : State) (i : Image) : State :=
  if s.fpGroupNo = 0 then { s with steps := { s.steps with fpDone := true } }
  else if s.steps.fpSent then s.fpTry else (s.fpSend i).fpTry

/-- The module has reported its causes. -/
def State.stepReported (s : State) (i : Image) : State :=
  State.tryReport { s with steps := { s.steps with
    own := some { step := s.steps.step, cause := s.steps.cause, count := 1, verdict := 0, ls := 0, run := 0 }
    phase := .reported, specAt := (i.specBase, i.specN) } }

theorem stepClose_open (h : s.adm.active = none ∨ s.stepOpen) : Ends (exec .stepClose s) s :=
  show Ends (execStepClose s) s from runOn_ends_of hs.on (by
    cases ha : s.adm.active with
    | none => rfl
    | some i => exact if_pos (stepOpen_iff.2 (h.resolve_left (by simp [ha]))))

omit hs in
theorem fpCompared_eq (i : Image) : (if s.fpGroupNo != 0 && !s.steps.fpSent then (s.fpSend i).fpTry
    else if s.fpGroupNo == 0 then s.modSteps fun x => { x with fpDone := true } else s.fpTry) = s.fpCompared i := by
  unfold State.fpCompared
  by_cases hg : s.fpGroupNo = 0
  · simp [hg, State.modSteps]
  · cases hf : s.steps.fpSent <;> simp [hg]

theorem stepClose_waits {i : Image} (ha : s.adm.active = some i) (h : ¬s.stepOpen) (hf : (s.fpCompared i).steps.fpDone = false) :
    Ends (exec .stepClose s) (s.fpCompared i) :=
  show Ends (execStepClose s) _ from runOn_ends_of hs.on (by
    simp only [ha, mt stepOpen_iff.1 h, fpCompared_eq, hf]; rfl)

theorem stepClose_reports {i : Image} (ha : s.adm.active = some i) (h : ¬s.stepOpen) (hf : (s.fpCompared i).steps.fpDone = true) :
    Ends (exec .stepClose s) ((s.fpCompared i).stepReported i) :=
  show Ends (execStepClose s) _ from runOn_ends_of hs.on (by
    simp only [ha, mt stepOpen_iff.1 h, fpCompared_eq, hf]; rfl)

/-! ## The end of an undo -/

theorem undoDone_none (h : s.steps.undoTag = none) : Ends (exec .undoDone s) s :=
  show Ends (execUndoDone s) s from runOn_ends_of hs.on (by simp only [h])

section
variable {tag : Nat} (htag : s.steps.undoTag = some tag)
include htag

theorem undoDone_open (h : s.dusk = true ∨ s.steps.phase ≠ .undoing ∨ s.xfers.any (·.tag == tag) = true) :
    Ends (exec .undoDone s) s :=
  show Ends (execUndoDone s) s from runOn_ends_of hs.on (by
    have hc : (s.dusk || s.steps.phase != .undoing || s.xfers.any (·.tag == tag)) = true := by
      simpa only [Bool.or_eq_true, bne_iff_ne, or_assoc] using h
    simp only [htag, hc, if_true])

/-- A MEM_READ for a repair waits for its answer. -/
def State.repairing (s : State) : Bool := s.ray.reqs.any fun q => match q.want with
  | .repair _ _ => true
  | _ => false

theorem undoDone_ends (hd : s.dusk = false) (hp : s.steps.phase = .undoing) (hx : s.xfers.any (·.tag == tag) = false) :
    Ends (exec .undoDone s)
      (let d := s.dropSpec tag
       if d.steps.verdict == 2 && !d.steps.repairs.isEmpty then
         if d.repairing then d else d.steps.repairs.foldl (fun s r => s.fetchEntry r.1 r.2) d
       else d.drained) :=
  show Ends (execUndoDone s) _ from runOn_ends_of hs.on (by
    simp only [htag, hd, hp, hx, bne_self_eq_false, Bool.or_self, Bool.false_eq_true, if_false]
    rfl)

end

/-! ## RESUME -/

/-- RESUME may be taken for step `n`. -/
def State.mayResume (s : State) (n : Nat) : Prop := s.steps.phase = .drained ∧ n = s.steps.step ∧ s.steps.rollTo = false

omit hs in
theorem mayResume_iff {n : Nat} :
    (s.steps.phase != .drained || n != s.steps.step || s.steps.rollTo) = false ↔ s.mayResume n := by
  simp [State.mayResume, and_assoc]

/-- The step begins anew: the undone effects go, and every tile with a stream goes to its re-entry block or its pass. -/
def State.resumeStep (f : State) : State :=
  let d := match f.steps.undoTag with
    | some tag => f.dropSpec tag
    | none => f
  let b := ({ d with steps := { freshStep d.steps 0 with
    phase := .exec, undoTag := none, resumed := none, failed := false } } : State).nextPass
  State.forSites { b with adm := { b.adm with mustWait := false } } fun s t => match s.streamOf t with
    | none => s.writeScalars t
    | some (i, r) => ((s.modTile t fun x =>
        { x with waitVerdict := false, decided := false, closed := false
                 reentry := if x.pos == r.proLen && x.pass > 0 && (s.stepTile i (s.tileOf t)).reLen > 0 then some 0
                   else x.reentry }).writeScalars t).reachNext t

theorem resume_not {n : Nat} (h : ¬s.mayResume n) : Ends (exec (.resume n) s) s :=
  show Ends (execResume n s) s from runOn_ends_of hs.on (
    if_pos (eq_true_of_ne_false (mt mayResume_iff.1 h)))

/-- What taking RESUME leaves, where the module takes it. -/
def State.resumeTaken (s : State) (n : Nat) : Option State :=
  if s.gn.master then (if s.steps.resumed == some n then some s else none)
  else s.gn.upstream.map fun p =>
    (s.ctrlIn p).stepDown 3 { step := n, cause := 0, count := 0, verdict := 0, ls := 0, run := 0 }

theorem resume_untaken {n : Nat} (h : s.mayResume n) (hf : s.resumeTaken n = none) : Ends (exec (.resume n) s) s :=
  show Ends (execResume n s) _ from runOn_ends_of hs.on (by
    unfold State.resumeTaken at hf
    refine Eq.trans (if_neg (by simp [mayResume_iff.2 h])) ?_
    simp only [hf])

theorem resume_taken {n : Nat} {f : State} (h : s.mayResume n) (hf : s.resumeTaken n = some f) :
    Ends (exec (.resume n) s) f.resumeStep :=
  show Ends (execResume n s) _ from runOn_ends_of hs.on (by
    unfold State.resumeTaken at hf
    refine Eq.trans (if_neg (by simp [mayResume_iff.2 h])) ?_
    simp only [hf]
    rfl)

end

/-- Settles O28: the reports of children, the close of a step, the end of an undo, and RESUME, each by its cases. -/
theorem stepsCloseDrainAndResume : Obligations.StepsCloseDrainAndResume := by
  unfold Obligations.StepsCloseDrainAndResume
  refine ⟨fun s p m hp hs => ⟨fun h => ⟨stepReport_closed hs hp m h, drained_closed hs hp m h⟩,
      fun h => ⟨stepReport_open hs hp m h, drained_open hs hp m h⟩⟩,
    fun s hs => ⟨stepClose_open hs, fun i ha hc => ⟨fun hf => ?_, fun hf => ?_⟩⟩,
    fun s hs => ⟨undoDone_none hs, fun tag ht => ⟨undoDone_open hs ht, fun hd hp hx => ⟨fun h => ?_, fun hv hr => ?_⟩⟩⟩,
    fun s n hs => ⟨resume_not hs, fun p hm hg hu => ?_, fun hm hg hr => ?_, fun hm hg hr => ?_, fun hm hg hu => ?_⟩⟩
  · exact stepClose_waits hs ha hc hf
  · exact stepClose_reports hs ha hc hf
  · have hc : ((s.dropSpec tag).steps.verdict == 2 && !(s.dropSpec tag).steps.repairs.isEmpty) = false := by
      simpa [imp_iff_not_or] using h
    have hend := undoDone_ends hs ht hd hp hx
    rw [if_neg (by simp [hc])] at hend
    exact hend
  · have hc : ((s.dropSpec tag).steps.verdict == 2 && !(s.dropSpec tag).steps.repairs.isEmpty) = true := by
      simp [hv, hr]
    have hend := undoDone_ends hs ht hd hp hx
    rw [if_pos hc] at hend
    exact hend
  · exact resume_taken hs hm (f := (s.ctrlIn p).stepDown 3 ⟨n, 0, 0, 0, 0, 0⟩) (by simp [State.resumeTaken, hg, hu])
  · exact resume_taken hs hm (f := s) (by simp [State.resumeTaken, hg, hr])
  · exact resume_untaken hs hm (by simp [State.resumeTaken, hg, hr])
  · exact resume_untaken hs hm (by simp [State.resumeTaken, hg, hu])

end Sys2Proof.Machine
end

section
/-!
PROOF. Orders (Sections 14.7, 16.1 and 16.3): an order to a register of one unit, to EVT_ENABLE, and to a unit of this module.
-/
namespace Sys2Proof.Machine

/-! ## An order, accepted and answered -/

/-- The state once an order is in the journal. -/
def State.journaled (s : State) (j : Sparse JEnt) (n : Nat) : State :=
  { s with host := { s.host with journal := j, nextSeq := n } }

/-- The state once an order is answered: the journal, the commands of rings, and the messages sent may differ. -/
def Answered (s u : State) : Prop :=
  ∃ j n c l, u = { s with host := { s.host with journal := j, nextSeq := n, cmds := c }, out := l }

theorem accept_journaled (s : State) (o : Origin) (page off : Nat) (v : Word) :
    (s.accept o page off v).1.ofOrder o ∧ ∃ j n, (s.accept o page off v).2.2 = s.journaled j n := by
  cases o with
  | boot => exact ⟨.inl rfl, s.host.journal, s.host.nextSeq, rfl⟩
  | ring n =>
    simp only [State.accept]
    split
    · exact ⟨.inr ⟨n, _, rfl, rfl⟩, s.host.journal, s.host.nextSeq, rfl⟩
    · exact ⟨.inl rfl, s.host.journal, s.host.nextSeq, rfl⟩
  | hart n =>
    simp only [State.accept]
    split
    · exact ⟨.inl rfl, s.host.journal, s.host.nextSeq, rfl⟩
    · exact ⟨.inl rfl, _, _, rfl⟩
  | operator k | custodian k | debug k | relayed r => exact ⟨.inl rfl, _, _, rfl⟩

theorem jFinish_journaled (s : State) (seq st result : Nat) (e : JEnt) : ∃ j n, s.jFinish seq st result e = s.journaled j n := by
  unfold State.jFinish
  split
  · dsimp only
    split <;> exact ⟨_, _, rfl⟩
  · exact ⟨s.host.journal, s.host.nextSeq, rfl⟩

theorem cmdDone_cmds (s : State) (seq st result : Nat) :
    ∃ c, s.cmdDone seq st result = { s with host := { s.host with cmds := c } } := by
  unfold State.cmdDone
  split
  · split
    · exact ⟨_, rfl⟩
    · exact ⟨s.host.cmds, rfl⟩
  · exact ⟨s.host.cmds, rfl⟩

/-- The answer to an order, with any status but ACCESS. -/
theorem accessEnd_answered {a : Asker} {o : Origin} (ha : a.ofOrder o) (s : State) (e : Option (Nat × JEnt)) {st : Nat}
    (hst : st ≠ stAccess) : Answered s (s.accessEnd a e st none) := by
  have hb : (st == stAccess) = false := beq_eq_false_iff_ne.2 hst
  rcases ha with rfl | ⟨n, seq, rfl, rfl⟩
  · obtain ⟨j, n, hjn⟩ : ∃ j n, s.closeEntry e st = s.journaled j n := by
      cases e with
      | none => exact ⟨s.host.journal, s.host.nextSeq, rfl⟩
      | some x => exact jFinish_journaled ..
    have hend : s.accessEnd (.order o) e st none =
        if st == stOk then s.closeEntry e st else (s.closeEntry e st).say (.status o st) := by
      cases o <;> simp only [State.accessEnd, hb, Bool.false_eq_true, if_false] <;> rfl
    rw [hend, hjn]
    split
    · exact ⟨j, n, s.host.cmds, s.out, rfl⟩
    · exact ⟨j, n, s.host.cmds, _, rfl⟩
  · obtain ⟨c, hc⟩ := cmdDone_cmds s seq st 0
    refine ⟨s.host.journal, s.host.nextSeq, c, s.out, Eq.trans ?_ hc⟩
    simp only [State.accessEnd, hb, Bool.false_eq_true, if_false]
    rfl

/-- An order to a register of one unit that its originator may write: accepted, done, and answered. -/
theorem order_acts {s : State} {o : Origin} {page off : Nat} {v : Word} (hk : pageKind page ≠ 0) {f : Fields}
    (hf : ∀ j n, (s.journaled j n).fields (roleOf o) page off v.toNat = f) (hne : f.1 ≠ 0)
    (hopen : pageKind page = kTile → s.spare.opened.contains (page / 36) = false)
    (hmay : ∀ j n, (s.journaled j n).mayWrite (roleOf o) page off v.toNat = true) {st : Nat} {g : State → State}
    (hact : ∀ j n, (s.journaled j n).act o page off f.2 (v.toNat &&& f.1) = (st, g (s.journaled j n))) (hst : st ≠ stAccess) :
    Answered (g (s.accept o page off v).2.2) (s.order o page off v) := by
  obtain ⟨hc, hs⟩ := isCompound_of_pageKind hk
  obtain ⟨ha, j, n, hh⟩ := accept_journaled s o page off v
  have hop : (pageKind page == kTile && s.spare.opened.contains (page / 36)) = false := by
    simpa only [Bool.and_eq_false_imp, beq_iff_eq] using hopen
  have happ : (s.journaled j n).applyWrite o page off v = (st, g (s.journaled j n)) := by
    simp only [State.applyWrite, hf j n, hmay j n, beq_eq_false_iff_ne.2 hne, Bool.false_eq_true, Bool.not_true, if_false]
    exact (if_neg (ne_true_of_eq_false hop)).trans (hact j n)
  have heq : s.order o page off v = (g (s.journaled j n)).accessEnd (s.accept o page off v).1 (s.accept o page off v).2.1 st none := by
    simp [State.order, State.writeAny, hs, State.writeNow, pageAssigned, hk, hc, hh, happ]
  rw [hh]
  exact heq ▸ accessEnd_answered ha _ _ hst

/-- The state once an order is refused: only registers, the events of the command, the host coupling and the messages sent may
differ. -/
def Refused (s u : State) : Prop := ∃ r e h l, u = { s with regs := r, events := e, host := h, out := l }

/-- An order to a register of one unit whose originator may not write it, or that has no such fields, changes nothing. -/
theorem order_refused {s : State} {o : Origin} {page off : Nat} {v : Word} (hk : pageKind page ≠ 0)
    (h : (∀ j n, ((s.journaled j n).fields (roleOf o) page off v.toNat).1 = 0) ∨
      ∀ j n, (s.journaled j n).mayWrite (roleOf o) page off v.toNat = false) : Refused s (s.order o page off v) := by
  obtain ⟨hc, hs⟩ := isCompound_of_pageKind hk
  obtain ⟨ha, j, n, hh⟩ := accept_journaled s o page off v
  have happ : (s.journaled j n).applyWrite o page off v = (stOk, s.journaled j n) ∨
      (s.journaled j n).applyWrite o page off v = (stAccess, s.journaled j n) := by
    rcases h with h | h
    · exact .inl (by simp only [State.applyWrite, h j n, beq_self_eq_true, if_true])
    · simp only [State.applyWrite, h j n]
      split
      · exact .inl rfl
      · split
        · exact .inl rfl
        · exact .inr rfl
  have heq : ∀ st, (s.journaled j n).applyWrite o page off v = (st, s.journaled j n) → s.order o page off v =
      (s.journaled j n).accessEnd (s.accept o page off v).1 (s.accept o page off v).2.1 st none := fun st hst => by
    simp [State.order, State.writeAny, hs, State.writeNow, pageAssigned, hk, hc, hh, hst]
  rcases happ with happ | happ
  · obtain ⟨h', hh'⟩ := accessEnd_ok ha (s.journaled j n) (s.accept o page off v).2.1
    exact ⟨s.regs, s.events, h', s.out, (heq _ happ).trans hh'⟩
  · obtain ⟨is, h', l, -, -, hh'⟩ := accessEnd_access ha (s.journaled j n) (s.accept o page off v).2.1
    have hraise : ∀ (l : List Nat) (u : State), ∃ r e, u.raiseAll hostPage l = { u with regs := r, events := e } := fun l => by
      induction l with
      | nil => exact fun u => ⟨u.regs, u.events, rfl⟩
      | cons i l ih =>
        intro u
        obtain ⟨r, e, hr⟩ := ih (u.raise hostPage i)
        exact ⟨r, e, hr⟩
    obtain ⟨r, e, hr⟩ := hraise is (s.journaled j n)
    exact ⟨r, e, h', l, (heq _ happ).trans (hh'.trans (by rw [hr]; rfl))⟩

/-- What an order keeps of the rest of the state. -/
def HostOnly (s u : State) : Prop := ∃ h, u = { s with host := h }

/-! ## EVT_ENABLE -/

/-- What a write of EVT_ENABLE leaves. -/
def State.evtEnabled (s : State) (page : Nat) (v : Word) : State :=
  if evtMask (pageKind page) = 0 ∨ (pageKind page = kTile ∧ s.spare.opened.contains (page / 36) = true) then s
  else s.keep page offEvtEn (evtMask (pageKind page)) (v.toNat &&& evtMask (pageKind page))

/-- A write of EVT_ENABLE by any role but debug keeps the bits that the page has. -/
theorem applyWrite_evtEn {s : State} {o : Origin} {page : Nat} (v : Word) (hd : anyButDebug (roleOf o) = true) :
    s.applyWrite o page offEvtEn v = (stOk, s.evtEnabled page v) := by
  have hf : s.fields (roleOf o) page offEvtEn v.toNat = (evtMask (pageKind page), evtMask (pageKind page)) := by
    simp [State.fields, allOf, hd]
  by_cases hm : evtMask (pageKind page) = 0
  · simp [State.applyWrite, hf, hm, State.evtEnabled]
  by_cases ho : pageKind page = kTile ∧ s.spare.opened.contains (page / 36) = true
  · have hc : (pageKind page == kTile && s.spare.opened.contains (page / 36)) = true := by simpa using ho
    rw [State.evtEnabled, if_pos (.inr ho)]
    simp only [State.applyWrite, hf, hc, beq_eq_false_iff_ne.2 hm, Bool.false_eq_true, if_false, if_true]
  · have hc : pageKind page = kTile → s.spare.opened.contains (page / 36) = false := fun hk => by
      simpa [hk] using ho
    rw [applyWrite_acts hf hm hc, State.evtEnabled, if_neg (by simp only [hm, ho, or_self, not_false_eq_true])]
    rfl

theorem evtEnabled_regs (s : State) (page : Nat) (v : Word) :
    s.evtEnabled page v = { s with regs := (s.evtEnabled page v).regs } := by
  unfold State.evtEnabled
  split <;> rfl

theorem evtEnabled_other (s : State) {page p : Nat} (v : Word) (h : page ≠ p) {off : Nat} (ho : regOff off) :
    (s.evtEnabled page v).rd p off = s.rd p off := by
  unfold State.evtEnabled
  split
  · rfl
  · exact s.rd_wr_other _ (by decide) ho fun hsame => h hsame.1

theorem pageKind_tile {t : Nat} (h : t < 0x480) : pageKind t = kTile := by simp [pageKind, h]

theorem mask_keep (x v : Nat) : (((x ^^^ (x &&& 0x3FFFF)) ||| (v &&& 0x3FFFF)) % 2 ^ 32) &&& 0x3FFFF = v &&& 0x3FFFF := by
  apply Nat.eq_of_testBit_eq
  intro i
  have hm : Nat.testBit 0x3FFFF i = decide (i < 18) := Nat.testBit_two_pow_sub_one 18 i
  simp only [Nat.testBit_and, Nat.testBit_mod_two_pow, Nat.testBit_or, Nat.testBit_xor, hm]
  by_cases hi : i < 18
  · have h32 : i < 32 := by omega
    simp [hi, h32]
  · simp [hi]

theorem rdN_evtEnabled {s : State} {t : Nat} (v : Word) (ht : t < 0x480) (ho : s.spare.opened.contains (t / 36) = false) :
    (s.evtEnabled t v).rdN t offEvtEn &&& 0x3FFFF = v.toNat &&& 0x3FFFF := by
  have hm : evtMask kTile = 0x3FFFF := by decide
  rw [State.evtEnabled, pageKind_tile ht, hm, if_neg (by simp only [ho]; decide)]
  refine Eq.trans (congrArg (· &&& 0x3FFFF) (State.rdN_wrN_same ..)) ?_
  rw [Nat.and_assoc, Nat.and_self]
  exact mask_keep _ _

/-! ## A unit of this module -/

/-- A fold reaches what one of its steps establishes and the others keep. -/
theorem foldl_reaches {σ α : Type} (I P : σ → Prop) (f : σ → α → σ) {l : List α} {a : α} (ha : a ∈ l)
    (hI : ∀ x b, I x → I (f x b)) (hkeep : ∀ x b, I x → P x → P (f x b)) (hset : ∀ x, I x → P (f x a)) {x : σ} (hx : I x) :
    P (l.foldl f x) := by
  have hrest : ∀ (l : List α) {x}, I x → P x → P (l.foldl f x) := fun l => by
    induction l with
    | nil => exact fun _ h => h
    | cons b l ih => exact fun hx h => ih (hI _ _ hx) (hkeep _ _ hx h)
  induction l generalizing x with
  | nil => cases ha
  | cons b l ih =>
    rcases List.mem_cons.1 ha with rfl | ha
    · exact hrest l (hI _ _ hx) (hset _ hx)
    · exact ih ha (hI _ _ hx)

/-- A leaf's part in a write of EVT_ENABLE. -/
theorem unitWrite_evtEn {s : State} {o : Origin} (u : Nat) (v : Word) (hd : anyButDebug (roleOf o) = true) :
    s.unitWrite o u offEvtEn v = (s.leafSites u).foldl (fun (x : Nat × State) t =>
      (x.1, (x.2.evtEnabled t v).jOrder o (writeOp o) stOk (writeDigest t offEvtEn v) (regAddr t offEvtEn))) (stOk, s) := by
  have key : ∀ (l : List Nat) (s : State), l.foldl (fun (x : Nat × State) t =>
      let r := if ([] : List Nat).contains t then (stSuperseded, x.2) else x.2.applyWrite o t offEvtEn v
      (if x.1 == stOk then r.1 else x.1, r.2.jOrder o (writeOp o) r.1 (writeDigest t offEvtEn v) (regAddr t offEvtEn))) (stOk, s) =
      l.foldl (fun (x : Nat × State) t =>
      (x.1, (x.2.evtEnabled t v).jOrder o (writeOp o) stOk (writeDigest t offEvtEn v) (regAddr t offEvtEn))) (stOk, s) := by
    intro l
    induction l with
    | nil => exact fun _ => rfl
    | cons t l ih =>
      intro s
      rw [List.foldl_cons, List.foldl_cons]
      refine Eq.trans (congrArg (l.foldl _) ?_) (ih _)
      simp [applyWrite_evtEn v hd]
  exact key _ s

/-- What a leaf's part in a write of EVT_ENABLE keeps: all but the registers and the host coupling. -/
def State.offRegs (s : State) : State := { s with regs := [], host := {} }

theorem offRegs_evtEnabled (s : State) (page : Nat) (v : Word) : (s.evtEnabled page v).offRegs = s.offRegs :=
  (congrArg State.offRegs (evtEnabled_regs s page v) :)

theorem unitWrite_evtEn_keeps {s : State} {o : Origin} (u : Nat) (v : Word) (hd : anyButDebug (roleOf o) = true) :
    (s.unitWrite o u offEvtEn v).1 = stOk ∧ (s.unitWrite o u offEvtEn v).2.offRegs = s.offRegs := by
  rw [unitWrite_evtEn u v hd]
  exact ⟨foldl_keeps Prod.fst _ (by exact fun _ _ => rfl) _ _,
    foldl_keeps (fun x : Nat × State => x.2.offRegs) _ (fun x t => offRegs_evtEnabled x.2 t v) _ _⟩

theorem unitWrite_evtEn_leaf {s : State} {o : Origin} {u t : Nat} (v : Word) (hd : anyButDebug (roleOf o) = true)
    (hl : t ∈ s.leafSites u) (ht : t < 1152) (ho : s.spare.opened.contains (t / 36) = false) :
    (s.unitWrite o u offEvtEn v).2.rdN t offEvtEn &&& 0x3FFFF = v.toNat &&& 0x3FFFF := by
  rw [unitWrite_evtEn u v hd]
  refine foldl_reaches (fun x : Nat × State => x.2.spare.opened = s.spare.opened)
    (fun x : Nat × State => x.2.rdN t offEvtEn &&& 0x3FFFF = v.toNat &&& 0x3FFFF) _ hl ?_ ?_ ?_ rfl
  · exact fun x n hx => (congrArg (fun y : State => y.spare.opened) (evtEnabled_regs x.2 n v) :).trans hx
  · intro x n hx hset
    refine Eq.trans (congrArg (· &&& 0x3FFFF) (?_ : State.rdN _ t offEvtEn = (x.2.evtEnabled n v).rdN t offEvtEn)) ?_
    · rfl
    · by_cases hn : n = t
      · subst hn
        exact rdN_evtEnabled v ht (by rw [hx]; exact ho)
      · have hrd := evtEnabled_other x.2 v hn (off := offEvtEn) (by decide)
        exact (congrArg (fun w : Word => w.toNat &&& 0x3FFFF) hrd).trans hset
  · exact fun x hx => rdN_evtEnabled (s := x.2) v ht (by rw [hx]; exact ho)

/-- An order to a unit of this module: accepted, done at every leaf, and answered. -/
theorem order_unit {s : State} {o : Origin} {unit off : Nat} {v : Word} (hu : unit < 0x800)
    (hok : ∀ h, (State.unitWrite { s with host := h } o unit off v).1 = stOk) :
    ∃ h, HostOnly (State.unitWrite { s with host := h } o unit off v).2 (s.order o (0x3000 + unit) off v) := by
  obtain ⟨ha, h, hh⟩ := accept_host s o (0x3000 + unit) off v
  have hsys : isSystemUnit (0x3000 + unit) = false := by simp [isSystemUnit]; omega
  have hcomp : isCompound (0x3000 + unit) = true := by simp [isCompound]; omega
  have hass : pageAssigned (0x3000 + unit) = true := by simp [pageAssigned, hcomp]
  have hsub : 0x3000 + unit - 0x3000 = unit := by omega
  have hs : s.order o (0x3000 + unit) off v = (State.unitWrite { s with host := h } o unit off v).2.accessEnd
      (s.accept o (0x3000 + unit) off v).1 (s.accept o (0x3000 + unit) off v).2.1 stOk none := by
    simp only [State.order, State.writeAny, hsys, State.writeNow, hass, hcomp, hh, hsub, Bool.not_true, Bool.false_eq_true,
      if_false, if_true, hok h]
  obtain ⟨h', hh'⟩ := accessEnd_ok ha (State.unitWrite { s with host := h } o unit off v).2 (s.accept o (0x3000 + unit) off v).2.1
  exact ⟨h, h', hs.trans hh'⟩

theorem order_unit_evtEn {s : State} {o : Origin} {unit : Nat} (v : Word) (hu : unit < 0x800)
    (hd : anyButDebug (roleOf o) = true) :
    let u := s.order o (0x3000 + unit) offEvtEn v
    (∀ t ∈ s.leafSites unit, t < 1152 → s.spare.opened.contains (t / 36) = false →
      u.rdN t offEvtEn &&& 0x3FFFF = v.toNat &&& 0x3FFFF) ∧ u.tiles = s.tiles ∧ u.mem = s.mem := by
  obtain ⟨h, h', hu⟩ := order_unit (s := s) (v := v) hu fun h => (unitWrite_evtEn_keeps unit v hd).1
  have hkeep := (unitWrite_evtEn_keeps (s := { s with host := h }) unit v hd).2
  rw [hu]
  exact ⟨fun t hl ht ho => unitWrite_evtEn_leaf (s := { s with host := h }) v hd hl ht ho,
    (congrArg State.tiles hkeep :), (congrArg State.mem hkeep :)⟩

end Sys2Proof.Machine
end

section
/-!
PROOF. Accesses to compound units (Section 5.9): of this module, of other modules, and of members that do not answer.
-/
namespace Sys2Proof.Machine

/-! ## An access to a unit of other modules -/

/-- The other members that an access to a unit of other modules waits for, among them those that it asks for a count. -/
def State.compOthers (s : State) (u off : Nat) : List Nat :=
  let others := (s.memberModules u).filter fun m => !(s.logical.any (s.memberModules u).contains && s.logical == some m)
  others ++ (if isErrAddr off then others.map (· + countKey) else [])

/-- This module's part in a read of a unit of other modules. -/
def State.ownParts (s : State) (off : Nat) : Sparse Word :=
  (s.logical.getD 0, s.unitValue 0 off) ::
    (if isErrAddr off then [(s.logical.getD 0 + countKey, s.unitValue 0 offErrCount)] else [])

/-- A request to a member, or to its count. -/
def State.compAsk (s : State) (o : Origin) (id off m : Nat) : State :=
  let tag := s.ray.nextTag
  let d := s.physOfLogical (m % countKey)
  let q : MgmtReq := { tag := tag, dst := d.getD (2 ^ 15), want := .unit id m }
  let s : State := { s with ray := { s.ray with nextTag := (tag + 1) % 2 ^ 24, reqs := s.ray.reqs ++ [q] } }
  match d with
  | none => s
  | some d => s.sendMgmt d { op := 1, tag := tag, role := relayRole o, src := 0, body := []
                             arg := 0x3000 + (if countKey ≤ m then offErrCount else off) / 4 * 2 ^ 20 }

/-- A read of a unit of other modules stands among the accesses, and asks its other members. -/
theorem compBegin_read (s : State) (o : Origin) (a : Asker) (e : Option (Nat × JEnt)) (u off : Nat) :
    ∃ own, s.compBegin o a e u off none =
      let c : Compound := { id := s.nextId, off := off, value := none, by_ := a, entry := e, parts := own, wait := s.compOthers u off }
      let t := ({ s with nextId := s.nextId + 1 } : State).modComps (· ++ [c])
      if (s.compOthers u off).isEmpty then t.compEnd c else (s.compOthers u off).foldl (fun x m => x.compAsk o s.nextId off m) t := by
  cases hb : s.logical.any (s.memberModules u).contains with
  | false =>
    refine ⟨[], ?_⟩
    have hl : (State.logical { s with nextId := s.nextId + 1 }).any (s.memberModules u).contains = false := hb
    simp only [State.compBegin, State.fresh, hl, Bool.not_false, if_true, State.compOthers, hb]
    rfl
  | true =>
    refine ⟨State.ownParts { s with nextId := s.nextId + 1 } off, ?_⟩
    have hl : (State.logical { s with nextId := s.nextId + 1 }).any (s.memberModules u).contains = true := hb
    simp only [State.compBegin, State.fresh, hl, Bool.not_true, Bool.false_eq_true, if_false, State.compOthers, hb, Option.isNone_none, Bool.true_and]
    rfl

theorem compAsk_keeps (s : State) (o : Origin) (id off m : Nat) :
    (s.compAsk o id off m).host = s.host ∧ (s.compAsk o id off m).mem = s.mem := by
  unfold State.compAsk
  dsimp only
  split <;> exact ⟨rfl, rfl⟩

theorem compAsks_host (s : State) (o : Origin) (id off : Nat) (l : List Nat) :
    (l.foldl (fun x m => x.compAsk o id off m) s).host = s.host :=
  foldl_keeps State.host _ (fun x m => (compAsk_keeps x o id off m).1) l s

theorem mem_compOthers {s : State} {u off m : Nat} (hm : m ∈ s.memberModules u) (hl : s.logical ≠ some m) :
    m ∈ s.compOthers u off := by
  refine List.mem_append_left _ (List.mem_filter.2 ⟨hm, ?_⟩)
  simp only [beq_eq_false_iff_ne.2 hl, Bool.and_false, Bool.not_false]

/-- A read of a unit of other modules waits for every member but this module. -/
theorem compBegin_waits {s : State} (o : Origin) {u m : Nat} (off : Nat) (hm : m ∈ s.memberModules u)
    (hl : s.logical ≠ some m) :
    ∃ c ∈ (s.compBegin o (.order o) none u off none).host.comps, c.off = off ∧ m ∈ c.wait := by
  obtain ⟨own, h⟩ := compBegin_read s o (.order o) none u off
  have hin := mem_compOthers (off := off) hm hl
  rw [h, if_neg (by simpa using List.ne_nil_of_mem hin), compAsks_host]
  exact ⟨_, List.mem_append_right _ (List.mem_singleton_self _), rfl, hin⟩

theorem compBegin_read_mem (s : State) (o : Origin) (u off : Nat) :
    (s.compBegin o (.order o) none u off none).mem = s.mem := by
  obtain ⟨own, h⟩ := compBegin_read s o (.order o) none u off
  rw [h]
  dsimp only
  split
  · exact State.compEnd_mem ..
  · exact foldl_keeps State.mem _ (fun x m => (compAsk_keeps x o s.nextId off m).2) _ _

/-! ## The end of an access -/

theorem jFinish_comps (s : State) (seq st result : Nat) (e : JEnt) : (s.jFinish seq st result e).host.comps = s.host.comps := by
  unfold State.jFinish
  split
  · dsimp only
    split <;> rfl
  · rfl

theorem cmdDone_comps (s : State) (seq st result : Nat) : (s.cmdDone seq st result).host.comps = s.host.comps := by
  unfold State.cmdDone
  split
  · split <;> rfl
  · rfl

@[simp] theorem say_host (s : State) (m : Out) : (s.say m).host = s.host := rfl

@[simp] theorem denied_host (s : State) : s.denied.host = s.host := rfl

theorem accessEnd_comps (s : State) (a : Asker) (e : Option (Nat × JEnt)) (st : Nat) (v : Option Word) :
    (s.accessEnd a e st v).host.comps = s.host.comps := by
  unfold State.accessEnd
  repeat' split
  all_goals simp [jFinish_comps, cmdDone_comps, State.replySess, State.sendMgmt]

theorem compEnd_comps (s : State) (c : Compound) : (s.compEnd c).host.comps = s.host.comps.filter (·.id != c.id) := by
  unfold State.compEnd
  dsimp only
  split
  all_goals
    refine (accessEnd_comps ..).trans ?_
    split
    · exact (congrArg (fun u : State => u.host.comps) (bump_regsOnly _ admPage 0x150 1) :)
    · rfl

/-! ## The commands -/

section
variable {s : State} (hs : s.Serves)
include hs

theorem compoundRead_here (o : Origin) {unit : Nat} (off : Nat) (hu : unit < 0x800) :
    Ends (exec (.compoundRead o unit off) s) (s.say (.reg o (s.unitValue unit off))) :=
  show Ends (execCompoundRead o unit off s) _ from runPart_ends_of (decide_eq_true (by omega)) hs.on (by
    have hsys : isSystemUnit (0x3000 + unit) = false := by simp [isSystemUnit]; omega
    have hcomp : isCompound (0x3000 + unit) = true := by simp [isCompound]; omega
    have hass : pageAssigned (0x3000 + unit) = true := by simp [pageAssigned, hcomp]
    have hsub : 0x3000 + unit - 0x3000 = unit := by omega
    simp only [State.readAny, hsys, State.readNow, hass, hcomp, hsub, Bool.not_true, Bool.false_eq_true, if_false, if_true]
    cases o <;> rfl)

theorem compoundWrite_order (o : Origin) {unit : Nat} (off : Nat) (v : Word) (hu : unit < 0x1000) :
    Ends (exec (.compoundWrite o unit off v) s) (s.order o (0x3000 + unit) off v) :=
  show Ends (execCompoundWrite o unit off v s) _ from runPart_ends_of (decide_eq_true hu) hs.on rfl

theorem compoundRead_there (o : Origin) {unit : Nat} (off : Nat) (hl : 0x800 ≤ unit) (hu : unit < 0x1000) :
    Ends (exec (.compoundRead o unit off) s) (s.compBegin o (.order o) none unit off none) :=
  show Ends (execCompoundRead o unit off s) _ from runPart_ends_of (decide_eq_true hu) hs.on (by
    have hsys : isSystemUnit (0x3000 + unit) = true := by simp [isSystemUnit]; omega
    have hsub : 0x3000 + unit - 0x3000 = unit := by omega
    simp only [State.readAny, hsys, hsub, if_true])

omit hs in
theorem order_system (o : Origin) {unit : Nat} (off : Nat) (v : Word) (hl : 0x800 ≤ unit) (hu : unit < 0x1000) :
    s.order o (0x3000 + unit) off v = (s.accept o (0x3000 + unit) off v).2.2.compBegin o
      (s.accept o (0x3000 + unit) off v).1 (s.accept o (0x3000 + unit) off v).2.1 unit off (some v) := by
  have hsys : isSystemUnit (0x3000 + unit) = true := by simp [isSystemUnit]; omega
  have hsub : 0x3000 + unit - 0x3000 = unit := by omega
  simp only [State.order, State.writeAny, hsys, hsub, if_true]

/-- A request whose 1 ms has passed, by what it waited for. -/
theorem mgmtReplyTimeout_none {tag : Nat} (h : s.ray.reqs.find? (·.tag == tag) = none) :
    Ends (exec (.mgmtReplyTimeout tag) s) s :=
  show Ends (execMgmtReplyTimeout tag s) s from runOn_ends_of hs.on (by simp only [h])

/-- What the end of a request's 1 ms does. -/
def State.reqTimeout (s : State) (tag : Nat) : MgmtWant → State
  | .unit id _ => match s.host.comps.find? (·.id == id) with
    | some c => s.compEnd c
    | none => s.dropReq tag
  | .partner _ => s.partnerLost
  | .head _ => (s.dropReq tag).headsIn
  | .repair _ _ => s
  | .restore _ => ({ s with pen := { s.pen with failed := true } }.dropReq tag)

theorem mgmtReplyTimeout_some {tag : Nat} {q : MgmtReq} (h : s.ray.reqs.find? (·.tag == tag) = some q) :
    Ends (exec (.mgmtReplyTimeout tag) s) (s.reqTimeout tag q.want) :=
  show Ends (execMgmtReplyTimeout tag s) _ from runOn_ends_of hs.on (by
    simp only [h]
    cases hw : q.want <;> rfl)

end

/-- Settles O25: accesses to a unit of this module, to one of other modules, and the end of a request's 1 ms. -/
theorem compoundAccessesComplete : Obligations.CompoundAccessesComplete := by
  unfold Obligations.CompoundAccessesComplete
  refine ⟨fun s o unit off v hs => ⟨fun hu => ⟨compoundRead_here hs o off hu, compoundWrite_order hs o off v (by omega),
      fun hd hoff => by subst hoff; exact order_unit_evtEn v hu hd⟩, fun hl hu => ⟨compoundRead_there hs o off hl hu,
      (order_system o off v hl hu) ▸ compoundWrite_order hs o off v hu,
      fun m hm hne => compBegin_waits o off hm hne, compBegin_read_mem s o unit off⟩⟩,
    fun s tag hs => ⟨mgmtReplyTimeout_none hs, fun q hq => ?_⟩⟩
  have hend := mgmtReplyTimeout_some hs hq
  refine ⟨fun id m c hw hc => ⟨?_, compEnd_comps s c⟩, fun id m hw hc => ?_, fun r hw => ?_, fun n hw => ?_, fun e n hw => ?_,
    fun n hw => ?_⟩
  all_goals rw [hw] at hend
  · simpa only [State.reqTimeout, hc] using hend
  · simpa only [State.reqTimeout, hc] using hend
  all_goals exact hend

end Sys2Proof.Machine
end

section
/-!
PROOF. The boundary of a frame and the master's decision (Sections 5.1 and 5.3).
-/
namespace Sys2Proof.Machine

/-! ## What the boundary leaves -/

/-- What the boundary of a frame leaves of a tile: its vector registers and scratch. -/
def Tile.work (x : Tile) := (x.vregs, x.scratch)

/-- What the boundary of a frame leaves of a module, once the frame has begun. -/
def State.frameKeeps (s : State) := (s.gn, s.steps, fun t => (s.tile t).work)

theorem frameKeeps_of {s u : State} (hg : u.gn = s.gn) (hs : u.steps = s.steps) (ht : ∀ t, (u.tile t).work = (s.tile t).work) :
    u.frameKeeps = s.frameKeeps := by
  simp only [State.frameKeeps, hg, hs, funext ht]

section
variable (s : State)

theorem frameKeeps_raise (p i : Nat) : (s.raise p i).frameKeeps = s.frameKeeps := rfl

theorem frameKeeps_raiseIf (b : Bool) (p i : Nat) : (s.raiseIf b p i).frameKeeps = s.frameKeeps := by
  unfold State.raiseIf
  split <;> rfl

theorem frameKeeps_wrN (p o v : Nat) : (s.wrN p o v).frameKeeps = s.frameKeeps := rfl

theorem frameKeeps_bump (p o n : Nat) : (s.bump p o n).frameKeeps = s.frameKeeps :=
  (congrArg State.frameKeeps (bump_regsOnly s p o n) :)

theorem frameKeeps_modTile (t : Nat) (f : Tile → Tile) (hf : ∀ x, (f x).work = x.work) :
    (s.modTile t f).frameKeeps = s.frameKeeps :=
  frameKeeps_of rfl rfl fun n => modTile_tile_keeps Tile.work s t n f hf

theorem frameKeeps_boundarySpot (j : Nat) : (s.boundarySpot j).frameKeeps = s.frameKeeps := rfl

theorem frameKeeps_siteState (t st : Nat) : (s.siteState t st).frameKeeps = s.frameKeeps := by
  unfold State.siteState
  dsimp only
  split
  · rfl
  · split <;> rfl

theorem frameKeeps_admitUnits : s.admitUnits.frameKeeps = s.frameKeeps := by
  unfold State.admitUnits
  dsimp only
  refine (foldl_keeps State.frameKeeps _ (fun s k => ?_) _ _).trans
    ((foldl_keeps State.frameKeeps _ (fun s x => ?_) _ _).trans rfl)
  · split <;> rfl
  · exact (frameKeeps_raiseIf ..).trans (frameKeeps_siteState ..)

theorem frameKeeps_freqDrop (t n : Nat) : (s.freqDrop t n).frameKeeps = s.frameKeeps := by
  unfold State.freqDrop
  dsimp only
  refine (frameKeeps_raise ..).trans ?_
  split <;> split <;> rfl

theorem frameKeeps_softDrops : s.softDrops.frameKeeps = s.frameKeeps := by
  unfold State.softDrops
  refine foldl_keeps State.frameKeeps _ (fun s e => ?_) _ _
  exact (frameKeeps_freqDrop ..).trans (frameKeeps_modTile s e.1 _ fun _ => rfl)

theorem frameKeeps_pow (x : Power) : State.frameKeeps { s with pow := x } = s.frameKeeps := rfl

theorem frameKeeps_dimEnt (i : Image) (ph : Nat) : (s.dimEnt i ph).2.frameKeeps = s.frameKeeps := rfl

theorem frameKeeps_setRowMv (r : Nat) : (s.setRowMv r).frameKeeps = s.frameKeeps := by
  unfold State.setRowMv
  exact foldl_keeps State.frameKeeps _ (fun s t => frameKeeps_wrN s ..) _ _

theorem frameKeeps_dimApply (i : Image) (ph : Nat) : (s.dimApply i ph).frameKeeps = s.frameKeeps := by
  unfold State.dimApply
  dsimp only
  refine (foldl_keeps State.frameKeeps _ frameKeeps_setRowMv _ _).trans ?_
  refine (frameKeeps_pow _ _).trans ((foldl_keeps State.frameKeeps _ (fun s t => ?_) _ _).trans ?_)
  · exact (frameKeeps_wrN ..).trans (frameKeeps_wrN ..)
  · refine (frameKeeps_dimEnt ..).trans ?_
    split <;> rfl

theorem frameKeeps_putDim (e : DimEnt) : (s.putDim e).frameKeeps = s.frameKeeps := rfl

theorem frameKeeps_dimLearn (i : Image) (ph : Nat) : (s.dimLearn i ph).frameKeeps = s.frameKeeps := by
  unfold State.dimLearn
  dsimp only
  refine (frameKeeps_putDim ..).trans
    ((foldl_keeps (fun x : Sparse Nat × State => x.2.frameKeeps) _ (fun x d => ?_) _ _).trans (frameKeeps_dimEnt ..))
  rfl

theorem frameKeeps_dimPredict (i : Image) (ph : Nat) : (s.dimPredict i ph).frameKeeps = s.frameKeeps := by
  unfold State.dimPredict
  dsimp only
  split <;> rfl

theorem frameKeeps_dimFrame (j : Nat) : (s.dimFrame j).frameKeeps = s.frameKeeps := by
  unfold State.dimFrame
  split
  · rfl
  · split
    · rfl
    · dsimp only
      have happly : ∀ (u : State) (i : Image) (ph : Nat), (if u.pow.phase == some ph then u
          else State.dimApply (match u.pow.phase with
            | some p => u.dimLearn i p
            | none => u) i ph).frameKeeps = u.frameKeeps := fun u i ph => by
        split
        · rfl
        · refine (frameKeeps_dimApply ..).trans ?_
          split
          · exact frameKeeps_dimLearn ..
          · rfl
      split
      · exact (frameKeeps_dimPredict ..).trans ((happly ..).trans (frameKeeps_wrN ..))
      · exact (happly ..).trans (frameKeeps_wrN ..)

theorem frameKeeps_margin (t : Nat) (m : Int) : (s.margin t m).frameKeeps = s.frameKeeps := by
  have hlow : ∀ u : State, (if 4 * m < (u.rdN powPage 0x10C : Int) then { u with pow := { u.pow with lowNow := true } } else u).frameKeeps =
      u.frameKeeps := fun u => by split <;> rfl
  unfold State.margin
  dsimp only
  split
  · exact (frameKeeps_putDim ..).trans ((frameKeeps_dimEnt ..).trans ((hlow _).trans (frameKeeps_wrN ..)))
  · exact (hlow _).trans (frameKeeps_wrN ..)

theorem frameKeeps_lateTile (t : Nat) : (s.lateTile t).frameKeeps = s.frameKeeps := by
  unfold State.lateTile
  dsimp only
  refine (frameKeeps_pow _ _).trans ?_
  refine (frameKeeps_modTile _ t (fun x => { x with late := true }) fun _ => rfl).trans ?_
  exact (frameKeeps_bump ..).trans (frameKeeps_raise ..)

theorem frameKeeps_ownLate (j : Nat) : (s.ownLate j).frameKeeps = s.frameKeeps := by
  unfold State.ownLate
  refine Eq.trans (b := State.frameKeeps (if (s.raise gnPage 4).fr.rep == (j, true) then s.raise gnPage 4
    else (s.raise gnPage 4).bump gnPage 0x140)) rfl ?_
  split
  · rfl
  · exact frameKeeps_bump ..

theorem frameKeeps_boundaryTiles (j : Nat) : (s.boundaryTiles j).frameKeeps = s.frameKeeps := by
  unfold State.boundaryTiles
  dsimp only
  refine (foldl_keeps State.frameKeeps _ (fun s t => ?_) _ _).trans ?_
  · split
    · split
      · exact frameKeeps_margin ..
      · rfl
    · rfl
  · split
    · exact foldl_keeps State.frameKeeps _ (fun s t => frameKeeps_lateTile s t) _ _
    · exact (frameKeeps_ownLate ..).trans (foldl_keeps State.frameKeeps _ (fun s t => frameKeeps_lateTile s t) _ _)

theorem frameKeeps_thrashCheck : s.thrashCheck.frameKeeps = s.frameKeeps := by
  unfold State.thrashCheck
  refine foldl_keeps State.frameKeeps _ (fun s e => ?_) _ _
  dsimp only
  refine (frameKeeps_wrN ..).trans ?_
  split
  · exact (frameKeeps_bump ..).trans (frameKeeps_raise ..)
  · rfl

theorem frameKeeps_noteFrame : s.noteFrame.frameKeeps = s.frameKeeps := by
  unfold State.noteFrame
  split
  · dsimp only
    split <;> rfl
  · rfl

theorem frameKeeps_rayOnly {u : State} (h : RayOnly s u) : u.frameKeeps = s.frameKeeps := (congrArg State.frameKeeps h :)

theorem frameKeeps_freeUnits (h : Nat × Nat × Nat) : (s.freeUnits h).frameKeeps = s.frameKeeps := by
  unfold State.freeUnits
  split <;> rfl

theorem frameKeeps_sendUnscheduled (f : RayFrame) (x : Option (Nat × Nat × Nat)) :
    (s.sendUnscheduled f x).frameKeeps = s.frameKeeps := by
  unfold State.sendUnscheduled
  split
  · rfl
  · dsimp only
    split
    · have hbump : ∀ p, ((s.raise (rayPage p) 10).bump (rayPage p) 0x11C).frameKeeps = s.frameKeeps := fun p =>
        (frameKeeps_bump ..).trans (frameKeeps_raise ..)
      split
      · refine (frameKeeps_freeUnits ..).trans (hbump _)
      · exact hbump _
    · split
      · rfl
      · exact frameKeeps_rayOnly s (enqueue_rayOnly ..)

theorem frameKeeps_rerouteWaiting : s.rerouteWaiting.frameKeeps = s.frameKeeps := by
  unfold State.rerouteWaiting
  dsimp only
  refine foldl_keeps State.frameKeeps _ (fun s x => ?_) _ _
  exact frameKeeps_sendUnscheduled s x.1 x.2

theorem frameKeeps_ray (r : Ray) : State.frameKeeps { s with ray := r } = s.frameKeeps := rfl

theorem frameKeeps_modPort (p : Nat) (f : Port → Port) : (s.modPort p f).frameKeeps = s.frameKeeps := rfl

theorem frameKeeps_boundaryPorts : s.boundaryPorts.frameKeeps = s.frameKeeps := by
  unfold State.boundaryPorts
  refine (frameKeeps_rerouteWaiting _).trans ((frameKeeps_ray _ _).trans ?_)
  refine foldl_keeps State.frameKeeps _ (fun s p => ?_) _ _
  exact frameKeeps_modPort s p _

end

/-! ## The boundary of a frame -/

/-- The frame after the one in progress has begun at count `n`. -/
def State.frameBegun (s : State) (n : Nat) : State := { s with
  gn := { s.gn with frame := s.gn.frame + 1, start := n }
  fr := if s.fr.rep.1 = s.gn.frame + 1 then s.fr else { s.fr with rep := (s.gn.frame + 1, false) }
  tiles := s.tiles.map fun e => (e.1, { e.2 with late := false }) }

/-- What follows the begin of frame `j`. -/
def State.boundary (s : State) (j : Nat) : State :=
  ((((((s.boundarySpot j).admitUnits.softDrops).dimFrame j).boundaryTiles j).thrashCheck).noteFrame).boundaryPorts

theorem frameKeeps_boundary (s : State) (j : Nat) : (s.boundary j).frameKeeps = s.frameKeeps := calc
  _ = _ := frameKeeps_boundaryPorts _
  _ = _ := frameKeeps_noteFrame _
  _ = _ := frameKeeps_thrashCheck _
  _ = _ := frameKeeps_boundaryTiles _ j
  _ = _ := frameKeeps_dimFrame _ j
  _ = _ := frameKeeps_softDrops _
  _ = _ := frameKeeps_admitUnits _
  _ = _ := frameKeeps_boundarySpot _ j

theorem sget_map {α : Type} (d : α) (f : α → α) (hd : f d = d) (m : Sparse α) (t : Nat) :
    sget d (m.map fun e => (e.1, f e.2)) t = f (sget d m t) := by
  induction m with
  | nil => exact hd.symm
  | cons e m ih =>
    simp only [sget, sfind, List.map_cons] at ih ⊢
    split
    · rfl
    · exact ih

theorem frameBegun_work (s : State) (n t : Nat) : ((s.frameBegun n).tile t).work = (s.tile t).work := by
  have h : (s.frameBegun n).tile t = { s.tile t with late := false } :=
    sget_map Tile.initial (fun x => { x with late := false }) rfl s.tiles t
  rw [h]
  rfl

section
variable {s : State} (hs : s.Serves)
include hs

theorem frameBoundary_none (h : s.nextStart = none) : Ends (exec .frameBoundary s) s :=
  show Ends (execFrameBoundary s) s from runOn_ends_of hs.on (by simp only [h])

theorem frameBoundary_early {n : Nat} (h : s.nextStart = some n) (hn : s.gn.count < n) : Ends (exec .frameBoundary s) s :=
  show Ends (execFrameBoundary s) s from runOn_ends_of hs.on (by simp only [h, hn, if_true])

theorem frameBoundary_begins {n : Nat} (h : s.nextStart = some n) (hn : n ≤ s.gn.count) :
    Ends (exec .frameBoundary s) ((s.frameBegun n).boundary (s.gn.frame + 1)) :=
  show Ends (execFrameBoundary s) _ from runOn_ends_of hs.on (by
    simp only [h, Nat.not_lt.2 hn, if_false, State.frameBegun, State.modGn, State.modFr, beq_iff_eq]
    rfl)

/-! ## The master's decision -/

theorem decisionPoint_slave (h : s.gn.master = false) : Ends (exec .decisionPoint s) s :=
  show Ends (execDecisionPoint s) s from runOn_ends_of hs.on (if_pos (by simp [h]))

theorem decisionPoint_not (hm : s.gn.master = true) (hr : s.gn.running = true)
    (hc : s.gn.count < s.gn.start + 2048 ∨ s.gn.dec.any (·.frame == s.gn.frame) = true) : Ends (exec .decisionPoint s) s :=
  show Ends (execDecisionPoint s) s from runOn_ends_of hs.on <| by
    refine (if_neg (by simp [hm])).trans ((if_neg (by simp [hr])).trans (if_pos ?_))
    simpa only [Bool.or_eq_true, decide_eq_true_eq] using hc

/-- The master's decision for the frame in progress. -/
def State.decideFrame (s : State) : State :=
  let next := max (s.gn.start + 4096 + (if s.fr.lateSeen then 256 else 0) + s.gapFor s.gn.frame) s.fr.localNext
  let took := { s with fr := { s.fr with lateSeen := false, localNext := 0 } }.takeDecision
    ⟨s.gn.frame, s.fr.lateSeen, s.gapFor s.gn.frame != 0, next⟩
  let noted := if s.fr.lateSeen then took.agRecord 0x2001 [s.gn.frame % 2 ^ 32, s.gn.frame / 2 ^ 32] else took
  let u := if noted.fr.run = 32 then (noted.raise gnPage 7).holdRequest 1 else noted
  (u.decideSwitch (s.gn.frame + 2) next).masterAct

theorem decisionPoint_decides (hm : s.gn.master = true) (hr : s.gn.running = true) (hc : s.gn.start + 2048 ≤ s.gn.count)
    (hd : s.gn.dec.any (·.frame == s.gn.frame) = false) : Ends (exec .decisionPoint s) s.decideFrame :=
  show Ends (execDecisionPoint s) _ from runOn_ends_of hs.on (by
    simp only [hm, hr, hd, Nat.not_lt.2 hc, Bool.not_true, Bool.false_eq_true, if_false, beq_iff_eq]
    rfl)

/-- Before the first frame, the decision on the switch at frame 0 is due. -/
def State.firstDue (s : State) : Bool := s.adm.state == 4 && s.adm.go.isNone && s.adm.g0 + 2048 ≤ s.gn.count + 8192

theorem decisionPoint_undue (hm : s.gn.master = true) (hr : s.gn.running = false) (hd : s.firstDue = false) :
    Ends (exec .decisionPoint s) s :=
  show Ends (execDecisionPoint s) _ from runOn_ends_of hs.on
    ((if_neg (by simp [hm])).trans ((if_pos (by simp [hr])).trans (if_neg (by simpa only [State.firstDue, Bool.not_eq_true] using hd))))

theorem decisionPoint_first (hm : s.gn.master = true) (hr : s.gn.running = false) (hd : s.firstDue = true) :
    Ends (exec .decisionPoint s)
      ((s.takeDecision ⟨2 ^ 40 - 2, false, false, s.adm.g0 - 4096⟩).decideSwitch 0 (s.adm.g0 - 4096)) :=
  show Ends (execDecisionPoint s) _ from runOn_ends_of hs.on
    ((if_neg (by simp [hm])).trans ((if_pos (by simp [hr])).trans (if_pos hd)))

end

/-- Settles O23: the boundary of a frame, with what it leaves, and the master's decision in its three cases. -/
theorem framesBeginAndDecide : Obligations.FramesBeginAndDecide := by
  unfold Obligations.FramesBeginAndDecide
  refine ⟨fun s hs => ⟨frameBoundary_none hs, fun n => frameBoundary_early hs, fun n h hn => ?_⟩,
    fun s hs => ⟨fun h => ?_, decisionPoint_decides hs,
      fun hm hr => ⟨decisionPoint_undue hs hm hr, decisionPoint_first hs hm hr⟩⟩⟩
  · obtain ⟨hgn, hrest⟩ := Prod.mk.inj (frameKeeps_boundary (s.frameBegun n) (s.gn.frame + 1))
    obtain ⟨hsteps, htile⟩ := Prod.mk.inj hrest
    refine ⟨frameBoundary_begins hs h hn, hgn, congrArg Steps.step hsteps, fun t => ?_⟩
    exact Prod.mk.inj ((congrFun htile t).trans (frameBegun_work s n t))
  · cases hm : s.gn.master with
    | false => exact decisionPoint_slave hs hm
    | true =>
      obtain ⟨hr, hc⟩ := h.resolve_left (by simp [hm])
      exact decisionPoint_not hs hm hr hc

end Sys2Proof.Machine
end

section
/-!
PROOF. What comes over the management channel (Sections 7.8 and 10.9): fingerprint pieces, memory, and accesses to registers.
-/
namespace Sys2Proof.Machine

/-! ## A register of one word on a tile page -/

/-- The host coupling has no part in what a tile's register shows. -/
theorem regValue_host (s : State) (h : HostSt) {page : Nat} (hp : page < 0x480) (off : Nat) :
    State.regValue { s with host := h } page off = s.regValue page off := by
  unfold State.regValue
  rw [pageKind_tile hp]
  simp only [show (kTile == 0) = false from rfl, show (kTile == kTile) = true from rfl, if_true, Bool.false_or]
  rfl

theorem readNow_tile (s : State) (o : Origin) {page off : Nat} (hp : page < 0x480) (hw : wideOf page off = none) :
    s.readNow o page off = (stOk, s.regValue page off, s) := by
  have hk := pageKind_tile hp
  have hne : kTile ≠ 0 := by decide
  obtain ⟨hc, -⟩ := isCompound_of_pageKind (page := page) (by rw [hk]; exact hne)
  have hass : pageAssigned page = true := by simp [pageAssigned, hk, hne]
  have hshown : s.shown page off = false := by simp [State.shown, hk, kTile, kAdm, kPen]
  have hfec : isFec page off = false := by simp [isFec, hk, kTile, kRay]
  have hdelay : isDelay page off = false := by simp [isDelay, hk, kTile, kShadeL, kShadeU]
  have hag : (page == agPage) = false := beq_eq_false_iff_ne.2 (by simp only [agPage]; omega)
  have hj : (page == jrnlPage) = false := beq_eq_false_iff_ne.2 (by simp only [jrnlPage]; omega)
  simp only [State.readNow, hass, hc, State.readReg, State.regLook, hshown, hfec, hdelay, hag, hj, hw, Bool.not_true,
    Bool.false_and, Bool.false_eq_true, if_false]

theorem readAny_tile (s : State) (o : Origin) (a : Asker) (e : Option (Nat × JEnt)) {page off : Nat} (hp : page < 0x480)
    (hw : wideOf page off = none) : s.readAny o a e page off = s.accessEnd a e stOk (some (s.regValue page off)) := by
  obtain ⟨-, hsys⟩ := isCompound_of_pageKind (page := page) (by rw [pageKind_tile hp]; decide)
  simp only [State.readAny, hsys, readNow_tile s o hp hw, Bool.false_eq_true, if_false]

section
variable {s : State} (m : MgmtMsg) (hs : s.Serves)
include hs

/-! ## Fingerprint pieces -/

/-- A piece of member `lm` of the step's group is stored in its bank and counted, and the comparison is tried. -/
def State.fpStored (s : State) (i : Image) (lm : Nat) : State :=
  let cnt := min (m.body.length / 8) 62
  let key := fpKey (m.arg / 2 ^ 32) (s.fpIndex lm)
  let w := s.modWrite (s.fpBank i (s.fpIndex lm) + 8 * (m.arg % 2 ^ 32)) (sound (m.body.take (8 * cnt)))
  State.fpTry { w with steps := { w.steps with fpGot := sput w.steps.fpGot key (sget 0 w.steps.fpGot key + cnt) } }

theorem fpPiece_member {i : Image} {l : List Nat} {lm : Nat} (ha : s.adm.active = some i) (hl : s.ray.map = some l)
    (hi : l.findIdx? (· == m.src) = some lm) (hm : s.fpMembers.contains lm = true) :
    Ends (exec (.fpPiece m) s) (s.fpStored m i lm) :=
  show Ends (execFpPiece m s) _ from runOn_ends_of hs.on (by
    simp only [ha, hl, hi, hm, Bool.not_true, Bool.false_eq_true, if_false]
    rfl)

theorem fpPiece_other (h : s.adm.active = none ∨ s.ray.map = none ∨ (∀ l, s.ray.map = some l →
      l.findIdx? (· == m.src) = none ∨ ∃ lm, l.findIdx? (· == m.src) = some lm ∧ s.fpMembers.contains lm = false)) :
    Ends (exec (.fpPiece m) s) s :=
  show Ends (execFpPiece m s) s from runOn_ends_of hs.on (by
    cases ha : s.adm.active with
    | none => rfl
    | some i => cases hl : s.ray.map with
      | none => rfl
      | some l =>
        rcases (h.resolve_left (by simp [ha])).resolve_left (by simp [hl]) l hl with hi | ⟨lm, hi, hm⟩
        · simp only [hi]
        · simp only [hi, hm, Bool.not_false, if_true])

/-! ## MEM_READ -/

/-- A MEM_READ asks for 1 to 1,024 units at an address of whole units. -/
def soundRead (m : MgmtMsg) : Prop :=
  m.arg % 2 ^ 48 % 64 = 0 ∧ 0 < 64 * fieldAt m.body 0 2 ∧ 64 * fieldAt m.body 0 2 ≤ 65536

omit hs in
theorem soundRead_iff : (m.arg % 2 ^ 48 % 64 != 0 || 64 * fieldAt m.body 0 2 == 0 || decide (64 * fieldAt m.body 0 2 > 65536)) = false ↔
    soundRead m := by
  simp only [soundRead, Bool.or_eq_false_iff, bne_eq_false_iff_eq, beq_eq_false_iff_ne, decide_eq_false_iff_not,
    and_assoc, Nat.pos_iff_ne_zero, gt_iff_lt, not_lt]

theorem memRead_not (h : s.dusk = true ∨ ¬soundRead m) : Ends (exec (.memRead m) s) s :=
  show Ends (execMemRead m s) s from runOn_ends_of hs.on (by
    cases hd : s.dusk with
    | true => exact if_pos hd
    | false =>
      refine (State.awake_light hd _).trans (if_pos (eq_true_of_ne_false fun hc => ?_))
      exact h.resolve_left (by simp [hd]) ((soundRead_iff m).1 hc))

theorem memRead_answers (hd : s.dusk = false) (h : soundRead m) :
    let n := 64 * fieldAt m.body 0 2
    let a := m.arg % 2 ^ 48
    let r := s.modRead a n
    Ends (exec (.memRead m) s) ((List.range (ceilDiv n 496)).foldl (fun s k =>
      s.sendMgmt m.src { op := 5, tag := m.tag, role := m.role, arg := a + 496 * k, src := 0
                         body := ((r.1.drop (496 * k)).take 496).map fun b => if b.poison then 0xFF else b.val }) r.2) :=
  show Ends (execMemRead m s) _ from runOn_ends_of hs.on
    ((State.awake_light hd _).trans (if_neg (ne_true_of_eq_false ((soundRead_iff m).2 h))))

/-! ## Answers -/

theorem mem_reg_unasked (h : s.reqOf m = none) : Ends (exec (.memData m) s) s ∧ Ends (exec (.regReply m) s) s :=
  ⟨show Ends (execMemData m s) s from runOn_ends_of hs.on (by simp only [h]),
    show Ends (execRegReply m s) s from runOn_ends_of hs.on (by simp only [h])⟩

/-- A MEM_READ for the repair of entry `e` waits for bytes. -/
def State.repairs (s : State) (e : Nat) : Bool := s.ray.reqs.any fun x => match x.want with
  | .repair k _ => k == e
  | _ => false

/-- What MEM_DATA does for the request that waits for it. -/
def State.dataFor (s : State) (q : MgmtReq) : MgmtWant → State
  | .repair e g =>
    let r := (s.modWrite q.at_ (sound (m.body.take q.left))).fetched q m.body.length
    if r.1 && !r.2.repairs e then r.2.repairCheck e g else r.2
  | .head k =>
    let noted : State := match s.logicalComing.bind fun k => headOf k m.body with
      | some x => (s.fetched q m.body.length).2.modPen fun p =>
        { p with cands := p.cands ++ [{ step := x.1, bytes := x.2, place := k }] }
      | none => (s.fetched q m.body.length).2
    noted.headsIn
  | .restore off => (s.fetched q m.body.length).2.modPen fun p => { p with buf := sput p.buf (off + q.at_) (sound m.body) }
  | .unit _ _ => s
  | .partner _ => s

theorem memData_asked {q : MgmtReq} (h : s.reqOf m = some q) : Ends (exec (.memData m) s) (s.dataFor m q q.want) :=
  show Ends (execMemData m s) _ from runOn_ends_of hs.on (by
    simp only [h]
    cases hw : q.want with
    | head k =>
      cases hx : s.logicalComing.bind fun k => headOf k m.body <;> simp only [State.dataFor, hx]
    | _ => rfl)

/-- What REG_REPLY does for the request that waits for it. -/
def State.replyFor (s : State) (q : MgmtReq) : MgmtWant → State
  | .unit id k => (s.dropReq q.tag).compPart id k (BitVec.ofNat 32 (fieldAt m.body 0 4))
  | .partner r => (s.dropReq q.tag).partnerReply r (BitVec.ofNat 32 (fieldAt m.body 0 4))
  | _ => s

theorem regReply_asked {q : MgmtReq} (h : s.reqOf m = some q) : Ends (exec (.regReply m) s) (s.replyFor m q q.want) :=
  show Ends (execRegReply m s) _ from runOn_ends_of hs.on (by
    simp only [h]
    cases q.want <;> rfl)

end

/-! ## Accesses of another module -/

section
variable (s : State) (m : MgmtMsg)

/-- The journal entry of an access of another module. -/
def State.relayEntry (op : Nat) (d : List Byte) : JEnt :=
  s.entry (classOfOrigin (.relayed m.role)) 4095 op stPending d (regAddr (relayPage m) (relayOff m)) 0

/-- An access that acts: SESSION_POLICY[17] is set once it is in the journal. -/
theorem relayed_acts (op : Nat) (d : List Byte) (f : Option (Nat × JEnt) → State → State) (h : s.flag mgmtPage 0x10C 17 = true) :
    s.relayed m op d f = f (some ((s.append (s.relayEntry m op d)).1, s.relayEntry m op d)) (s.append (s.relayEntry m op d)).2 :=
  if_pos h

theorem relayed_denied (op : Nat) (d : List Byte) (f : Option (Nat × JEnt) → State → State)
    (h : s.flag mgmtPage 0x10C 17 = false) :
    s.relayed m op d f = (s.append (s.relayEntry m op d)).2.accessEnd (.relay m.src m.tag m.role)
      (some ((s.append (s.relayEntry m op d)).1, s.relayEntry m op d)) stAccess none :=
  if_neg (ne_true_of_eq_false h)

/-- The answer to another module's read of a tile's register of one word. -/
theorem readAny_relay_out (n : Nat) (e d : JEnt) {page off : Nat} (hp : page < 0x480) (hw : wideOf page off = none) :
    ((s.append d).2.readAny (.relayed m.role) (.relay m.src m.tag m.role) (some (n, e)) page off).out = s.out ++
      [.mgmt m.src { op := 3, tag := m.tag, role := m.role, arg := 0, src := s.phys,
                     body := natLe 4 (s.regValue page off).toNat }] := by
  rw [readAny_tile _ _ _ _ hp hw]
  have hv : (s.append d).2.regValue page off = s.regValue page off := regValue_host s _ hp off
  rw [hv]
  obtain ⟨h, hh⟩ := jFinish_host (s.append d).2 n stOk (s.regValue page off).toNat e
  exact (congrArg (fun t : State => (t.sendMgmt m.src ⟨3, m.tag, m.role, 0, 0, natLe 4 (s.regValue page off).toNat⟩).out) hh :)

end

/-- Settles O29: fingerprint pieces, MEM_READ, its answers, and the accesses of another module. -/
theorem managementPathCompletes : Obligations.ManagementPathCompletes := by
  unfold Obligations.ManagementPathCompletes
  refine ⟨fun s m hs => ⟨fun i l lm => fpPiece_member m hs, fpPiece_other m hs⟩,
    fun s m hs => ⟨memRead_not m hs, memRead_answers m hs⟩,
    fun s m hs => ⟨mem_reg_unasked m hs, fun q hq => ?_⟩, fun s m hs => ⟨fun h => ⟨?_, ?_, ?_⟩, fun h => ⟨?_, ?_⟩⟩⟩
  · have hd := memData_asked m hs hq
    have hr := regReply_asked m hs hq
    refine ⟨fun e g hw => ?_, fun k hw => ?_, fun off hw => ?_, fun id k hw => ?_, fun r hw => ?_, fun h => ?_, fun h => ?_⟩
    · rw [hw] at hd hr; exact ⟨hd, hr⟩
    · rw [hw] at hd hr; exact ⟨hd, hr⟩
    · rw [hw] at hd hr; exact ⟨hd, hr⟩
    · rw [hw] at hd hr; exact ⟨hr, hd⟩
    · rw [hw] at hd hr; exact ⟨hr, hd⟩
    · exact if_neg (Nat.not_le.2 h)
    · exact if_pos h
  · exact show Ends (execMgmtRegRead m s) _ from runOn_ends_of hs.on (relayed_acts s m _ _ _ h)
  · exact show Ends (execMgmtRegWrite m s) _ from runOn_ends_of hs.on (relayed_acts s m _ _ _ h)
  · exact fun hp hw => readAny_relay_out s m _ _ _ hp hw
  · exact show Ends (execMgmtRegRead m s) _ from runOn_ends_of hs.on (relayed_denied s m _ _ _ h)
  · exact show Ends (execMgmtRegWrite m s) _ from runOn_ends_of hs.on (relayed_denied s m _ _ _ h)

end Sys2Proof.Machine
end

section
/-!
PROOF. Accesses of the host (Sections 11.1, 11.2 and 16.3).
-/
namespace Sys2Proof.Machine

/-! ## A write of EVT_ENABLE on a tile page -/

/-- An order to EVT_ENABLE of a tile by any role but debug: accepted, kept, and answered. -/
theorem order_evtEn (s : State) {o : Origin} {page : Nat} (v : Word) (hp : page < 0x480) (hd : anyButDebug (roleOf o) = true) :
    s.order o page offEvtEn v =
      (State.evtEnabled (s.accept o page offEvtEn v).2.2 page v).accessEnd (s.accept o page offEvtEn v).1
        (s.accept o page offEvtEn v).2.1 stOk none := by
  have hk : pageKind page ≠ 0 := by rw [pageKind_tile hp]; decide
  obtain ⟨hc, hsys⟩ := isCompound_of_pageKind hk
  simp [State.order, State.writeAny, hsys, State.writeNow, pageAssigned, hk, hc, applyWrite_evtEn v hd]

/-- What is left of an order to EVT_ENABLE of a tile whose switch is closed. -/
theorem order_evtEn_keeps (s : State) {o : Origin} {page : Nat} (v : Word) (hp : page < 0x480)
    (hd : anyButDebug (roleOf o) = true) (ho : s.spare.opened.contains (page / 36) = false) :
    (s.order o page offEvtEn v).rdN page offEvtEn &&& 0x3FFFF = v.toNat &&& 0x3FFFF ∧
    (s.order o page offEvtEn v).offRegs = s.offRegs := by
  obtain ⟨ha, h, hh⟩ := accept_host s o page offEvtEn v
  obtain ⟨h', hh'⟩ := accessEnd_ok ha (State.evtEnabled { s with host := h } page v) (s.accept o page offEvtEn v).2.1
  rw [order_evtEn s v hp hd, hh, hh']
  exact ⟨rdN_evtEnabled (s := { s with host := h }) v hp ho, offRegs_evtEnabled { s with host := h } page v⟩

/-- Closing an entry that the journal holds appends none. -/
theorem jFinish_held_nextSeq {u : State} {n : Nat} {x : JEnt} (h : sfind u.host.journal (n % 65536) = some x) (hx : x.seq = n)
    (st r : Nat) (e : JEnt) : (u.jFinish n st r e).host.nextSeq = u.host.nextSeq := by
  simp only [State.jFinish, h, hx, beq_self_eq_true, if_true]

/-- Closing the entry that has just been appended appends none. -/
theorem jFinish_append_nextSeq (s u : State) (e : JEnt) (st r : Nat) (hu : u.host = (s.append e).2.host) :
    (u.jFinish (s.append e).1 st r e).host.nextSeq = s.host.nextSeq + 1 := by
  have hj : sfind u.host.journal ((s.append e).1 % 65536) = some { e with seq := s.host.nextSeq } := by
    rw [hu]; exact sfind_sput_same ..
  rw [jFinish_held_nextSeq hj rfl, hu]
  rfl

theorem evtEnabled_host (s : State) (page : Nat) (v : Word) : (s.evtEnabled page v).host = s.host := by
  rw [evtEnabled_regs]

/-- A host store to EVT_ENABLE of a tile is journalled once. -/
theorem order_evtEn_nextSeq (s : State) (k : Nat) {page : Nat} (v : Word) (hp : page < 0x480) :
    (s.order (.hart k) page offEvtEn v).host.nextSeq = s.host.nextSeq + 1 := by
  have hj : notJournalled page offEvtEn = false := by
    have hne : page ≠ hostPage := by simp only [hostPage]; omega
    have hst : page ≠ stackPage 0 := by simp only [stackPage]; omega
    simp [notJournalled, isSelector, pageKind_tile hp, hne, hst, kTile, kHost, kJrnl, kAg, kRay, kRayCom, kSlots, kTherm, kPen,
      kMgmt, kFe]
  rw [order_evtEn s v hp rfl]
  simp only [State.accept, hj, Bool.false_eq_true, if_false]
  exact jFinish_append_nextSeq s _ _ _ _ (evtEnabled_host ..)

/-! ## The commands -/

section
variable {s : State} (hs : s.Serves) {h addr : Nat} (hh : h < 32)
include hs hh

theorem hostAccess_stands (hr : s.host.inReset = true ∨ s.dusk = true) (len : Nat) (d : List Byte) :
    Ends (exec (.hostLoad h addr len) s) s ∧ Ends (exec (.hostStore h addr d) s) s := by
  have hc : (s.host.inReset || s.dusk) = true := by simpa using hr
  exact ⟨show Ends (execHostLoad h addr len s) s from runPart_ends_of (decide_eq_true hh) hs.on (if_pos hc),
    show Ends (execHostStore h addr d s) s from runPart_ends_of (decide_eq_true hh) hs.on (if_pos hc)⟩

variable (hr : s.host.inReset = false) (hd : s.dusk = false)
include hr hd

/-- What a load that the harts issue does. -/
def State.loadFor (s : State) (h addr len : Nat) : State :=
  if isRegSpace addr then
    if len != 4 || addr % 4 != 0 then s.say (.hartFault h addr)
    else if !pageAssigned (regPageOf addr) then
      (s.addrFault (.host h) addr).say (.hartLoad h (List.replicate 4 ⟨0xFF, true⟩))
    else s.readAny (.hart h) (.load h) none (regPageOf addr) (regOffOf addr)
  else if s.hostMem addr len then (s.readStack addr len (.host h)).2.say (.hartLoad h (s.readStack addr len (.host h)).1)
  else match endpointPort addr with
    | some p => s.say (.endpoint p addr)
    | none => if isHostOwn addr then s else s.say (.hartFault h addr)

/-- What a store that the harts issue does. -/
def State.storeFor (s : State) (h addr : Nat) (d : List Byte) : State :=
  if isRegSpace addr then
    if d.length != 4 || addr % 4 != 0 then s.say (.hartFault h addr)
    else s.order (.hart h) (regPageOf addr) (regOffOf addr) (BitVec.ofNat 32 (leNat d))
  else if s.hostMem addr d.length then s.devWrite addr (sound d) 5 (.host h)
  else match endpointPort addr with
    | some p => s.say (.endpoint p addr)
    | none => if isHostOwn addr then s else s.say (.hartFault h addr)

theorem hostLoad_ends (len : Nat) : Ends (exec (.hostLoad h addr len) s) (s.loadFor h addr len) :=
  show Ends (execHostLoad h addr len s) _ from runPart_ends_of (decide_eq_true hh) hs.on (if_neg (by simp [hr, hd]))

theorem hostStore_ends (d : List Byte) : Ends (exec (.hostStore h addr d) s) (s.storeFor h addr d) :=
  show Ends (execHostStore h addr d s) _ from runPart_ends_of (decide_eq_true hh) hs.on (if_neg (by simp [hr, hd]))

end

theorem readAny_load (s : State) (h : Nat) {page off : Nat} (hp : page < 0x480) (hw : wideOf page off = none) :
    s.readAny (.hart h) (.load h) none page off = s.say (.hartLoad h (sound (natLe 4 (s.regValue page off).toNat))) :=
  readAny_tile s _ _ _ hp hw

theorem and_mask (n : Nat) : n &&& 0x3FFFF = n % 2 ^ 18 := by
  have hmask : (0x3FFFF : Nat) = 2 ^ 18 - 1 := rfl
  exact hmask ▸ Nat.and_two_pow_sub_one_eq_mod n 18

theorem mod_and (n : Nat) : n % 2 ^ 32 &&& 0x3FFFF = n &&& 0x3FFFF := by
  rw [and_mask, and_mask]
  omega

theorem ofNat_and (n : Nat) : (BitVec.ofNat 32 n).toNat &&& 0x3FFFF = n &&& 0x3FFFF :=
  mod_and n

theorem order_hart_evtEn {s : State} (h : Nat) {page off : Nat} (hp : page < 0x480) (hoff : off = offEvtEn)
    (ho : s.spare.opened.contains (page / 36) = false) (d : List Byte) :
    let u := s.order (.hart h) page off (BitVec.ofNat 32 (leNat d))
    u.rdN page offEvtEn &&& 0x3FFFF = leNat d &&& 0x3FFFF ∧ u.host.nextSeq = s.host.nextSeq + 1 ∧
    u.tiles = s.tiles ∧ u.mem = s.mem := by
  subst hoff
  obtain ⟨hrd, hkeep⟩ := order_evtEn_keeps s (o := .hart h) (BitVec.ofNat 32 (leNat d)) hp rfl ho
  exact ⟨hrd.trans (ofNat_and _), order_evtEn_nextSeq s h _ hp, (congrArg State.tiles hkeep :), (congrArg State.mem hkeep :)⟩

/-- Settles O30: an access in reset or in Dusk, to register space, to memory, to an endpoint, and elsewhere. -/
theorem hostAccessesComplete : Obligations.HostAccessesComplete := by
  unfold Obligations.HostAccessesComplete
  refine fun s h addr hh hs => ⟨fun len d hr => hostAccess_stands hs hh hr len d, fun hr hd => ?_⟩
  have hload := hostLoad_ends (addr := addr) hs hh hr hd
  have hstore := hostStore_ends (addr := addr) hs hh hr hd
  unfold State.loadFor at hload
  unfold State.storeFor at hstore
  refine ⟨fun len hreg hbad => ?_, fun d hreg hbad => ?_, fun hreg hal hpage => ?_, fun hreg hal hpage => ⟨?_, ?_⟩,
    fun d hreg hlen hal => ⟨?_, fun hp hoff ho => ?_⟩, fun len hreg hmem => ?_, fun d hreg hmem => ?_,
    fun len d p hreg hl hdl hep => ⟨?_, ?_⟩, fun len d hreg hl hdl hep => ⟨?_, ?_⟩⟩
  · have hb : (len != 4 || addr % 4 != 0) = true := by simpa using hbad
    simpa only [hreg, if_true, hb] using hload len
  · have hb : (d.length != 4 || addr % 4 != 0) = true := by simpa using hbad
    simpa only [hreg, if_true, hb] using hstore d
  · simpa only [hreg, if_true, hal, hpage, bne_self_eq_false, Bool.or_self, Bool.false_eq_true, if_false, Bool.not_false]
      using hload 4
  · simpa only [hreg, if_true, hal, hpage, bne_self_eq_false, Bool.or_self, Bool.false_eq_true, if_false, Bool.not_true]
      using hload 4
  · exact readAny_load s h
  · simpa only [hreg, if_true, hal, hlen, bne_self_eq_false, Bool.or_self, Bool.false_eq_true, if_false] using hstore d
  · exact order_hart_evtEn h hp hoff ho d
  · simpa only [hreg, hmem, Bool.false_eq_true, if_false, if_true] using hload len
  · simpa only [hreg, hmem, Bool.false_eq_true, if_false, if_true] using hstore d
  · simpa only [hreg, hl, hep, Bool.false_eq_true, if_false] using hload len
  · simpa only [hreg, hdl, hep, Bool.false_eq_true, if_false] using hstore d
  · simpa only [hreg, hl, hep, Bool.false_eq_true, if_false] using hload len
  · simpa only [hreg, hdl, hep, Bool.false_eq_true, if_false] using hstore d

end Sys2Proof.Machine
end

section
/-!
PROOF. A front-end port that is disabled while the master is parked (Sections 11.6 and 13.4): its queue pair goes to ERROR with
a read of the restore engine open, so that the restore fails and the job ends, which takes every tile to the start of its pass.
-/
namespace Sys2Proof.Machine

/-- A parked master whose own restore has failed, with a queue pair of front-end port 0 that reads a snapshot. -/
def parkedReader : State := State.setFlag (State.setHold {
  pow := { off := false }
  gn := { master := true }
  adm := { active := some noImage }
  pen := { failed := true }
  tiles := [(0, { pos := 1 })]
  host := { qps := [(0, { state := 3, ops := [⟨0, false, 0, 0, 0, 0, 0, [], 0, false, none, false, some 0⟩] })] } } 3)
    (fePage 0) offControl 0 true

theorem parkedReader_serves : parkedReader.Serves := ⟨rfl, rfl, rfl, rfl⟩

/-- Clearing PORT_EN of that port ends the job: the tile's stream stands at its start. -/
theorem fePortEn_ends_job : ((parkedReader.order (.operator 0) (fePage 0) offControl
    (parkedReader.withBit (fePage 0) offControl 0 false)).tiles.map fun e => e.2.pos) = [0] := by decide +kernel

/-- Refutes O36: PORT_EN = 0 of a front-end port does not leave the tiles as they are. -/
theorem not_frontEndFamilyCompletes : ¬ Obligations.FrontEndFamilyCompletes := by
  unfold Obligations.FrontEndFamilyCompletes
  rintro ⟨hlinks, -⟩
  obtain ⟨-, -, -, -, hen⟩ := hlinks parkedReader 0 (by decide) parkedReader_serves
  obtain ⟨-, hdone⟩ := hen (.operator 0) false
  obtain ⟨-, -, htiles, -⟩ := hdone rfl
  have hpos := congrArg (fun l : Sparse Tile => l.map fun e => e.2.pos) htiles
  exact absurd (fePortEn_ends_job.symm.trans hpos) (by decide)

end Sys2Proof.Machine
end

section
/-!
PROOF. Commands of rings that start (Section 11.3), and their completion.
-/
namespace Sys2Proof.Machine

/-! ## A command that starts, and one that may not -/

/-- A command that its opcode's own event has not to perform: there is none, it is another's, or it may not start. -/
def State.Idle (s : State) (seq op : Nat) : Prop :=
  ∀ c, s.cmd seq = some c → c.opcode ≠ op ∨ c.started = true ∨ s.mayStart c = false

theorem State.Starts.runCmd {s : State} {seq op : Nat} {c : Cmd} (h : s.Starts seq op c) (f : Cmd → State → State) :
    s.runCmd seq op f = f { c with started := true } (s.setCmd { c with started := true }) := by
  simp [State.runCmd, h.cmd, h.code, h.fresh, h.may]

theorem State.Idle.runCmd {s : State} {seq op : Nat} (h : s.Idle seq op) (f : Cmd → State → State) : s.runCmd seq op f = s := by
  unfold State.runCmd
  cases hc : s.cmd seq with
  | none => rfl
  | some c => exact if_pos (by simpa [or_assoc] using h c hc)

/-- A command that its event performs in one go. -/
theorem State.Starts.ends {s t : State} {seq op : Nat} {c : Cmd} (h : s.Starts seq op c) {f : Cmd → State → State}
    (ht : f { c with started := true } (s.setCmd { c with started := true }) = t) :
    Ends (runOn s fun s => s.runCmd seq op f) t := runOn_ends_of h.serves.on ((h.runCmd f).trans ht)

theorem State.Idle.ends {s : State} {seq op : Nat} (h : s.Idle seq op) (hs : s.Serves) (f : Cmd → State → State) :
    Ends (runOn s fun s => s.runCmd seq op f) s := runOn_ends_of hs.on (h.runCmd f)

/-! ## RESIDENCY -/

theorem resRequest_refused {s : State} {b t : Nat} {seq : Option Nat}
    (h : ¬((t = 1 ∨ (t = 2 ∧ (s.resEnt b).slowHome = true)) ∧ (s.resEnt b).tier ≠ 0 ∧ (s.resEnt b).tier ≠ 3 ∧
      (s.resEnt b).visited = false)) :
    s.resRequest b t seq = (1, s.setField (stackPage 0) 0x184 2 1 1) := by
  refine if_pos ?_
  simp only [Bool.or_eq_true, Bool.and_eq_true, beq_iff_eq, decide_eq_true_eq, Bool.not_eq_true']
  cases hv : (s.resEnt b).visited <;> cases hh : (s.resEnt b).slowHome <;> simp [hv, hh] at h ⊢ <;> omega

theorem resRequest_allowed {s : State} {b t : Nat} {seq : Option Nat}
    (h : (t = 1 ∨ (t = 2 ∧ (s.resEnt b).slowHome = true)) ∧ (s.resEnt b).tier ≠ 0 ∧ (s.resEnt b).tier ≠ 3 ∧
      (s.resEnt b).visited = false) :
    s.resRequest b t seq = if (s.resEnt b).tier == t && !(s.resEnt b).moving then (2, s.setField (stackPage 0) 0x184 2 1 2)
      else (0, (s.setFlag (stackPage 0) 0x184 0 true).askMove { block := b, target := t, requested := true, seq := seq }) := by
  refine if_neg ?_
  obtain ⟨ht, h0, h3, hv⟩ := h
  rcases ht with rfl | ⟨rfl, hh⟩
  · simp [h0, h3, hv]
  · simp [h0, h3, hv, hh]

/-! ## COMMAND_COMPLETE -/

/-- The outcome of a command is in the journal. -/
def State.outcomeNoted (s : State) (seq st result : Nat) (c : Cmd) : State :=
  if c.noted then s else (s.jFinish seq st result (s.cmdEntry c)).setCmd { c with noted := true }

theorem complete_noted {s : State} {seq st result : Nat} {c : Cmd} (hc : s.cmd seq = some c) (hd : c.done = some (st, result)) :
    s.complete seq = (s.outcomeNoted seq st result c).post { c with noted := true } st result := by
  unfold State.complete
  rw [hc]
  dsimp only
  split
  · next h => simp [hd] at h
  · next h =>
    cases hd.symm.trans h
    rfl

theorem jFinish_rings (s : State) (seq st result : Nat) (e : JEnt) : (s.jFinish seq st result e).host.rings = s.host.rings := by
  unfold State.jFinish
  split
  · split <;> rfl
  · rfl

theorem outcomeNoted_ring (s : State) (seq st result : Nat) (c : Cmd) (n : Nat) :
    (s.outcomeNoted seq st result c).ring n = s.ring n := by
  unfold State.outcomeNoted
  split
  · rfl
  · exact congrArg (sfind · n) (jFinish_rings s seq st result _)

/-- The command has left its ring. -/
def State.cmdGone (s : State) (c : Cmd) : State :=
  ({ s with host := { s.host with cmds := s.host.cmds.filter (·.seq != c.seq) } } : State).ringSettle c.ring

theorem post_gone {s : State} {c : Cmd} {st result : Nat} (hr : s.ring c.ring = none) : s.post c st result = s.cmdGone c := by
  unfold State.post
  rw [hr]
  rfl

theorem post_silent {s : State} {c : Cmd} {st result : Nat} {r : Ring} (hr : s.ring c.ring = some r)
    (h : c.silent = true ∨ bit (fieldAt c.bytes 0 4) 10 = true) : s.post c st result = s.cmdGone c := by
  unfold State.post
  rw [hr]
  rcases h with h | h
  · exact if_pos h
  · by_cases hs : c.silent = true
    · exact if_pos hs
    · exact (if_neg hs).trans (if_pos h)

/-- The completion entry of a command stands in its ring's queue. -/
def State.cqPosted (s : State) (c : Cmd) (st result : Nat) (r : Ring) : State :=
  let size := 2 ^ r.rcb.logCq
  let entry := natLe 4 (fieldAt c.bytes 4 4) ++ natLe 4 (st + c.idx * 2 ^ 16) ++ natLe 8 c.seq ++ natLe 8 result ++
    natLe 8 (1 - r.cq / size % 2 + c.ring * 2 ^ 16)
  (s.modWrite (r.rcb.cqBase + 32 * (r.cq % size)) (sound entry)).setRing c.ring { r with cq := (r.cq + 1) % 2 ^ 17 }

theorem post_spoken {s : State} {c : Cmd} {st result : Nat} {r : Ring} (hr : s.ring c.ring = some r)
    (h : ¬(c.silent = true ∨ bit (fieldAt c.bytes 0 4) 10 = true)) :
    s.post c st result = if 2 ^ r.rcb.logCq ≤ (r.cq + 2 ^ 17 - r.head) % 2 ^ 17 then s.raise hostPage 7
      else (if bit (fieldAt c.bytes 0 4) 9 then (s.cqPosted c st result r).say (.msi r.rcb.msiAddr r.rcb.msiData)
        else s.cqPosted c st result r).cmdGone c := by
  obtain ⟨hsil, hno⟩ := not_or.1 h
  unfold State.post
  rw [hr]
  dsimp only
  exact (if_neg hsil).trans (if_neg hno)

theorem commandComplete_ends {s t : State} {seq : Nat} (hs : s.Serves) (hd : s.dusk = false) (h : s.complete seq = t) :
    Ends (exec (.commandComplete seq) s) t :=
  show Ends (execCommandComplete seq s) t from runOn_ends_of hs.on ((State.awake_light hd _).trans h)

theorem commandComplete_still {s : State} {seq : Nat} (hs : s.Serves)
    (h : s.dusk = true ∨ s.cmd seq = none ∨ ∃ c, s.cmd seq = some c ∧ c.done = none) :
    Ends (exec (.commandComplete seq) s) s := by
  refine show Ends (execCommandComplete seq s) s from runOn_ends_of hs.on ?_
  rcases h with hd | hc | ⟨c, hc, hd⟩
  · simp [State.awake, hd]
  · simp [State.awake, State.complete, hc]
  · simp [State.awake, State.complete, hc, hd]

/-- Settles O32. -/
theorem residencyAndCompletionComplete : Obligations.ResidencyAndCompletionComplete := by
  refine ⟨fun s seq c h => ⟨fun hm => ?_, fun hm ht hv => ?_, fun hm ht => ?_⟩, fun s seq hs => ⟨fun c hc h => ?_, commandComplete_still hs⟩,
    fun s seq st result c hs hd hc hdone => ⟨fun hsil => ?_, fun r hr hsil => ⟨fun hfull => ?_, fun hroom => ?_⟩⟩⟩
  · exact h.ends (by dsimp only; rw [show State.resRequest _ _ _ _ = _ from resRequest_refused (by exact hm)]; rfl)
  · exact h.ends (by
      dsimp only; rw [show State.resRequest _ _ _ _ = _ from (resRequest_allowed (by exact hm)).trans (if_pos (by
        simp only [Bool.and_eq_true, beq_iff_eq, Bool.not_eq_true']; exact ⟨ht, hv⟩))]; rfl)
  · exact h.ends (by
      dsimp only; rw [show State.resRequest _ _ _ _ = _ from (resRequest_allowed (by exact hm)).trans (if_neg (by
        simp only [Bool.and_eq_true, beq_iff_eq, Bool.not_eq_true', not_and_or, Bool.not_eq_false]; exact ht))]; rfl)
  · exact State.Idle.ends (op := 0x08) (fun d hd => by cases hc.symm.trans hd; exact h) hs _
  · refine commandComplete_ends hs hd ((complete_noted hc hdone).trans ?_)
    rcases Decidable.em (s.ring c.ring = none) with hr | hr
    · exact post_gone ((outcomeNoted_ring ..).trans hr)
    · obtain ⟨r, hr⟩ := Option.ne_none_iff_exists'.1 hr
      exact post_silent ((outcomeNoted_ring ..).trans hr) (hsil.resolve_left (by simp [hr]))
  · exact commandComplete_ends hs hd ((complete_noted hc hdone).trans
      ((post_spoken ((outcomeNoted_ring ..).trans hr) (not_or.1 hsil).2).trans (if_pos hfull)))
  · exact commandComplete_ends hs hd ((complete_noted hc hdone).trans
      ((post_spoken ((outcomeNoted_ring ..).trans hr) (not_or.1 hsil).2).trans (if_neg (Nat.not_le.2 hroom))))

end Sys2Proof.Machine
end

section
/-!
PROOF. Queue pairs and memory regions (Section 11.6).
-/
namespace Sys2Proof.Machine

/-! ## A queue pair after an operation on it -/

@[simp] theorem qp_setQp_same (s : State) (n : Nat) (q : Qp) : (s.setQp n q).qp n = q := sget_sput_same ..

theorem qp_setQp_other (s : State) {n k : Nat} (q : Qp) (h : n ≠ k) : (s.setQp n q).qp k = s.qp k := sget_sput_other _ _ _ h

/-- The packets of an operation have been sent. -/
def State.opSent (s : State) (n : Nat) (o : RdmaOp) : State :=
  ((s.bump64 (fePage (s.qp n).port) 0x40 (if o.write then o.len else 0)).say
    (.rdma n o.write o.remote o.key o.psn o.len o.data)).setQp n
    { s.qp n with ops := (s.qp n).ops.map fun x => if x.id == o.id then { x with sent := true } else x }

theorem sendOp_cases (s : State) (n : Nat) (o : RdmaOp) : s.sendOp n o = s ∨ s.sendOp n o = s.opSent n o :=
  (Decidable.em ((s.pausedPort (s.qp n).port || o.sent) = true)).imp (fun h => if_pos h) fun h => if_neg h

/-- What sending leaves of a queue pair: of its operations it marks one as sent. -/
theorem sendOp_qp_same (s : State) (n : Nat) (o : RdmaOp) :
    ((s.sendOp n o).qp n).ops.map (·.id) = (s.qp n).ops.map (·.id) ∧ ((s.sendOp n o).qp n).sendPsn = (s.qp n).sendPsn := by
  rcases sendOp_cases s n o with h | h
  · simp [h]
  · rw [h, State.opSent, qp_setQp_same]
    refine ⟨?_, rfl⟩
    rw [List.map_map]
    exact List.map_congr_left fun x _ => by simp only [Function.comp]; split <;> rfl

theorem sendOp_qp_other (s : State) {n k : Nat} (o : RdmaOp) (h : n ≠ k) : (s.sendOp n o).qp k = s.qp k := by
  rcases sendOp_cases s n o with hs | hs
  · rw [hs]
  · rw [hs, State.opSent, qp_setQp_other _ _ h]
    rfl

theorem sendOp_mem_tiles (s : State) (n : Nat) (o : RdmaOp) : (s.sendOp n o).mem = s.mem ∧ (s.sendOp n o).tiles = s.tiles := by
  rcases sendOp_cases s n o with h | h <;> rw [h]
  · exact ⟨rfl, rfl⟩
  · exact ⟨rfl, rfl⟩

theorem postOp_keeps (s : State) (n : Nat) (o : RdmaOp) :
    ((s.postOp n o).qp n).ops.map (·.id) = (s.qp n).ops.map (·.id) ++ [o.id] ∧
    ((s.postOp n o).qp n).sendPsn = ((s.qp n).sendPsn + (s.qp n).packets o.len) % 2 ^ 24 ∧
    (∀ k, k ≠ n → (s.postOp n o).qp k = s.qp k) ∧ (s.postOp n o).mem = s.mem ∧ (s.postOp n o).tiles = s.tiles := by
  obtain ⟨hids, hpsn⟩ := sendOp_qp_same
    (s.setQp n { s.qp n with ops := (s.qp n).ops ++ [{ o with psn := (s.qp n).sendPsn }]
                             sendPsn := ((s.qp n).sendPsn + (s.qp n).packets o.len) % 2 ^ 24 }) n
    { o with psn := (s.qp n).sendPsn }
  rw [qp_setQp_same] at hids hpsn
  refine ⟨hids.trans (by simp), hpsn, fun k hk => ?_, sendOp_mem_tiles ..⟩
  exact (sendOp_qp_other _ _ (Ne.symm hk)).trans (qp_setQp_other _ _ (Ne.symm hk))

/-- An event bit stays when another is raised. -/
theorem flag_raise_stays {s : State} {p q i j : Nat} (hi : i < 32) (h : s.flag q offEvt j = true) :
    (s.raise p i).flag q offEvt j = true := by
  rcases Decidable.em (p = q) with rfl | hpq
  · rw [State.flag_raise _ _ _ hi, h, Bool.true_or]
  · rw [State.flag, rdN_of_rd (s.rd_raise_key (by simp only [regKey, offEvt]; omega))]
    exact h

/-- A queue pair without operations that nobody waits for goes to ERROR: only it changes, and its port says so. -/
theorem qpError_empty {s : State} {n : Nat} (h4 : (s.qp n).state ≠ 4) (hl : (s.qp n).leaving = none) (ho : (s.qp n).ops = []) :
    (s.qpError n).qp n = { s.qp n with state := 4 } ∧ (∀ k, k ≠ n → (s.qpError n).qp k = s.qp k) ∧
    (s.qpError n).flag (fePage (s.qp n).port) offEvt 2 = true := by
  have h2 := State.flag_raise_same (s.bumpSat (fePage (s.qp n).port) offErrCount) (fePage (s.qp n).port) 2 (by decide)
  have hset (t : State) (ht : t.host.qps = s.host.qps) (hf : t.flag (fePage (s.qp n).port) offEvt 2 = true) :
      let u := (t.setQp n { s.qp n with state := 4, ops := [] }).qpSettle n
      u.qp n = { s.qp n with state := 4, ops := [] } ∧ (∀ k, k ≠ n → u.qp k = s.qp k) ∧
        u.flag (fePage (s.qp n).port) offEvt 2 = true := by
    have hu : (t.setQp n { s.qp n with state := 4, ops := [] }).qpSettle n
        = t.setQp n { s.qp n with state := 4, ops := [] } := by
      unfold State.qpSettle
      simp [hl]
    intro u
    rw [show u = _ from hu]
    refine ⟨qp_setQp_same .., fun k hk => (qp_setQp_other _ _ (Ne.symm hk)).trans ?_, hf⟩
    exact congrArg (sget {} · k) ht
  unfold State.qpError
  simp only [beq_iff_eq, if_neg h4, ho, List.any_nil, List.foldl_nil, Bool.false_eq_true, if_false]
  split
  · exact hset (((((s.bumpSat (fePage (s.qp n).port) offErrCount).raise (fePage (s.qp n).port) 2).modPen
      fun p => { p with storing := false })).raise penPage 4) rfl (flag_raise_stays (by decide) h2)
  · exact hset ((s.bumpSat (fePage (s.qp n).port) offErrCount).raise (fePage (s.qp n).port) 2) rfl h2

/-! ## The commands -/

@[simp] theorem qp_setCmd (s : State) (c : Cmd) (n : Nat) : (s.setCmd c).qp n = s.qp n := rfl

@[simp] theorem arg_started (c : Cmd) (k : Nat) : Cmd.arg { c with started := true } k = c.arg k := rfl

theorem qpSettle_leaving (s : State) (n seq : Nat) (q : Qp) : (s.setQp n { q with leaving := some seq }).qpSettle n
    = if q.ops.isEmpty then
        ((s.setQp n { q with leaving := some seq }).modHost fun h => { h with qps := sdel h.qps n }).cmdDone seq stOk 0
      else s.setQp n { q with leaving := some seq } := by
  unfold State.qpSettle
  rw [qp_setQp_same]

theorem rdmaPost_idle {s : State} {seq : Nat} (hs : s.Serves) (h : s.Idle seq 0x15) : Ends (exec (.rdmaPost seq) s) s := by
  refine show Ends (execRdmaPost seq s) s from runOn_ends_of hs.on ?_
  split
  · rfl
  · dsimp only
    split
    · rfl
    · exact h.runCmd _

/-- A request queue of 16 READs. -/
def Qp.readsFull (q : Qp) (write : Bool) : Prop := write = false ∧ 16 ≤ (q.ops.filter fun o => !o.write).length

theorem rdmaPost_full {s : State} {seq : Nat} {c : Cmd} (h : s.Starts seq 0x15 c)
    (hf : (s.qp (c.arg 0 % 2048)).readsFull (bit (c.arg 0) 16)) : Ends (exec (.rdmaPost seq) s) s := by
  refine show Ends (execRdmaPost seq s) s from runOn_ends_of h.serves.on ?_
  rw [h.cmd]
  exact if_pos (by simpa using And.intro hf.1 hf.2)

theorem rdmaPost_ends {s t : State} {seq : Nat} {c : Cmd} (h : s.Starts seq 0x15 c)
    (hf : ¬(s.qp (c.arg 0 % 2048)).readsFull (bit (c.arg 0) 16))
    (ht : (let g := s.setCmd { c with started := true }
      if (s.qp (c.arg 0 % 2048)).state != 3 then g.cmdDone c.seq stRefused 0
      else if !inStacks (c.arg 1) (c.arg 2) || c.arg 2 == 0 || c.arg 2 > 2 ^ 31 then g.cmdDone c.seq stAddress 0
      else
        let numbered : State := { g with nextId := s.nextId + 1 }
        let got := if bit (c.arg 0) 16 then numbered.modRead (c.arg 1) (c.arg 2) else ([], numbered)
        got.2.postOp (c.arg 0 % 2048)
          { id := s.nextId, write := bit (c.arg 0) 16, local_ := c.arg 1, len := c.arg 2, remote := fieldAt c.payload 0 8
            key := fieldAt c.payload 8 4, psn := 0, data := got.1, seq := some c.seq }) = t) :
    Ends (exec (.rdmaPost seq) s) t := by
  refine show Ends (execRdmaPost seq s) t from runOn_ends_of h.serves.on ?_
  rw [h.cmd]
  exact (if_neg fun hc => hf (by simpa [Qp.readsFull] using hc)).trans ((h.runCmd _).trans ht)

/-- Settles O33. -/
theorem queuePairCommandsComplete : Obligations.QueuePairCommandsComplete := by
  refine ⟨fun s seq c => ⟨fun h => ⟨fun hq => ?_, fun h0 h4 => ?_⟩,
      fun h => ⟨fun hg hq => ?_, fun hg hq => ?_, fun hg hq => ?_, fun h2 h3 h4 => ?_⟩,
      fun h => ⟨fun h0 => ?_, fun h0 ho => ?_, fun h0 ho => ?_⟩, fun h => ⟨fun hi => ?_, fun hi => ?_⟩, fun h => ?_,
      fun h => ⟨fun hf => ?_, fun hf h3 => ?_, fun hf h3 hg => ?_, fun hf h3 hg => ?_⟩⟩,
    fun s n o => postOp_keeps s n o, fun s n h4 hl ho => qpError_empty h4 hl ho,
    fun s seq hs => ⟨fun h => ?_, fun h => ?_, fun h => ?_, fun h => ?_, fun h => ?_, fun h => ?_⟩⟩
  · exact h.ends (if_neg (by rcases hq with hq | hq <;> simp [hq]))
  · exact h.ends (if_pos (by simpa using And.intro h0 h4))
  · exact h.ends (if_pos (by simpa using And.intro hg hq))
  · exact h.ends ((if_neg (by simp [hg])).trans (if_pos (by simpa using And.intro hg hq)))
  · exact h.ends ((if_neg (by simp [hg])).trans ((if_neg (by simp [hg])).trans (if_pos (by simpa using And.intro hg hq))))
  · exact h.ends ((if_neg (by simpa using h2)).trans ((if_neg (by simpa using h3)).trans (if_neg (by simpa using h4))))
  · exact h.ends (if_pos (by simpa using h0))
  · exact h.ends ((if_neg (by simpa using h0)).trans ((qpSettle_leaving ..).trans (if_pos (by simpa using ho))))
  · exact h.ends ((if_neg (by simpa using h0)).trans ((qpSettle_leaving ..).trans (if_neg (by simpa using ho))))
  · exact h.ends (if_neg (by simpa using hi))
  · exact h.ends (if_pos (by simpa using hi))
  · exact h.ends rfl
  · exact rdmaPost_full h hf
  · exact rdmaPost_ends h hf (if_pos (by simpa using h3))
  · exact rdmaPost_ends h hf ((if_neg (by simpa using h3)).trans (if_pos (by
      cases hi : inStacks (c.arg 1) (c.arg 2) <;> simp [hi] at hg ⊢; omega)))
  · exact rdmaPost_ends h hf ((if_neg (by simpa using h3)).trans (if_neg (by
      cases hi : inStacks (c.arg 1) (c.arg 2) <;> simp [hi] at hg ⊢; omega)))
  · exact State.Idle.ends h hs _
  · exact State.Idle.ends h hs _
  · exact State.Idle.ends h hs _
  · exact State.Idle.ends h hs _
  · exact State.Idle.ends h hs _
  · exact rdmaPost_idle hs h

end Sys2Proof.Machine
end

section
/-!
PROOF. Intake (Section 11.7).
-/
namespace Sys2Proof.Machine

/-! ## The three commands -/

/-- What becomes of an INTAKE_SET whose plan has been read. -/
def State.planTaken (s : State) (c : Cmd) (o : Option Plan) : State := match o with
  | none => s.cmdDone c.seq stFormat 0
  | some p => (((s.dropIntake.modIntake fun _ => { plan := some p, on := true }).setFlag hostPage offStatus 2 true).setFlag
      hostPage offStatus 3 false).cmdDone c.seq stOk 0

theorem intakeSet_ends {s t : State} {seq : Nat} (hs : s.Serves) (hd : s.dusk = false)
    (h : (s.runCmd seq 0x18 fun c s =>
      if !s.inHost (c.arg 0) 320 then s.cmdDone c.seq stAddress 0
      else (s.modRead (c.arg 0) 320).2.planTaken c
        ((s.modRead (c.arg 0) 320).2.parsePlan ((s.modRead (c.arg 0) 320).1.map (·.val)))) = t) :
    Ends (exec (.intakeSet seq) s) t := by
  refine show Ends (execIntakeSet seq s) t from runOn_ends_of hs.on ((State.awake_light hd _).trans (Eq.trans ?_ h))
  rfl

theorem intakeSet_dusk {s : State} (seq : Nat) (hs : s.Serves) (hd : s.dusk = true) : Ends (exec (.intakeSet seq) s) s :=
  show Ends (execIntakeSet seq s) s from runOn_ends_of hs.on (if_pos hd)

theorem intakeSet_idle {s : State} {seq : Nat} (hs : s.Serves) (h : s.Idle seq 0x18) : Ends (exec (.intakeSet seq) s) s := by
  cases hd : s.dusk with
  | true => exact intakeSet_dusk seq hs hd
  | false => exact intakeSet_ends hs hd (h.runCmd _)

@[simp] theorem inHost_setCmd (s : State) (c : Cmd) (a n : Nat) : (s.setCmd c).inHost a n = s.inHost a n := rfl

/-! ## INTAKE_START -/

/-- Reads get the numbers that follow. -/
theorem foldl_fresh (rs : List IRead) (acc : List IRead) (s : State) :
    rs.foldl (fun (x : List IRead × State) r => (x.1 ++ [{ r with id := x.2.fresh.1 }], x.2.fresh.2)) (acc, s)
    = (acc ++ (rs.zip (List.range rs.length)).map fun x => { x.1 with id := s.nextId + x.2 },
       { s with nextId := s.nextId + rs.length }) := by
  induction rs generalizing acc s with
  | nil => simp
  | cons r rs ih =>
    rw [List.foldl_cons, ih, State.fresh, List.length_cons, List.range_succ_eq_map, List.zip_cons_cons, List.map_cons, List.zip_map_right,
      List.map_map]
    simp only [Prod.mk.injEq, List.append_assoc, List.cons_append, List.nil_append]
    refine ⟨?_, by rw [Nat.add_assoc, Nat.add_comm 1]⟩
    simp [Function.comp_def, Nat.add_assoc, Nat.add_comm 1]

/-- The reads of a step, without their numbers. -/
def State.stepReads (s : State) (p : Plan) (t : Nat) : List IRead :=
  (p.ranges.zip (List.range p.ranges.length)).foldl (fun acc x =>
    acc ++ s.rangeReads p t x.2 x.1 (x.1.count * p.recBytes / 64 + 1) 0) []

/-- A step has started with these reads. -/
def State.readsStarted (t : Nat) (x : List IRead × State) : State :=
  x.2.modIntake fun i => { i with reads := i.reads ++ x.1, started := i.started ++ [t] }

theorem intakeStart_next {s : State} {p : Plan} {t : Nat} (hs : s.Serves) (hp : s.host.intake.plan = some p)
    (hon : s.host.intake.on = true) (hst : s.host.intake.stalled = false)
    (ht : ([s.steps.step, s.steps.step + 1].find? fun t =>
      !s.host.intake.started.contains t && !s.host.intake.complete.contains t) = some t) :
    Ends (exec .intakeStart s) (State.issueReads { s with
      nextId := s.nextId + (s.stepReads p t).length
      host := { s.host with intake := { s.host.intake with
        reads := s.host.intake.reads ++ ((s.stepReads p t).zip (List.range (s.stepReads p t).length)).map fun x =>
          { x.1 with id := s.nextId + x.2 }
        started := s.host.intake.started ++ [t] } } }) := by
  refine show Ends (execIntakeStart s) _ from runOn_ends_of hs.on ?_
  dsimp only
  split
  · next h => simp [hp] at h
  · next q h =>
    cases hp.symm.trans h
    rw [if_neg (by simp [hon, hst]), ht]
    change (State.readsStarted t (List.foldl _ ([], s) (s.stepReads p t))).issueReads = _
    rw [foldl_fresh, List.nil_append]
    rfl

theorem intakeStart_none {s : State} {p : Plan} (hs : s.Serves) (hp : s.host.intake.plan = some p)
    (hon : s.host.intake.on = true) (hst : s.host.intake.stalled = false)
    (ht : ([s.steps.step, s.steps.step + 1].find? fun t =>
      !s.host.intake.started.contains t && !s.host.intake.complete.contains t) = none) :
    Ends (exec .intakeStart s) s.issueReads := by
  refine show Ends (execIntakeStart s) _ from runOn_ends_of hs.on ?_
  dsimp only
  rw [hp]
  dsimp only
  rw [if_neg (by simp [hon, hst]), ht]

theorem intakeStart_off {s : State} (hs : s.Serves)
    (h : s.host.intake.plan = none ∨ s.host.intake.on = false ∨ s.host.intake.stalled = true) :
    Ends (exec .intakeStart s) s := by
  refine show Ends (execIntakeStart s) _ from runOn_ends_of hs.on ?_
  dsimp only
  rcases h with h | h | h
  · rw [h]
  · split
    · rfl
    · exact if_pos (by simp [h])
  · split
    · rfl
    · exact if_pos (by simp [h])

/-! ## INTAKE_READ_DONE -/

/-- The read has left with its operation, and its step is settled. -/
def State.readLeft (s : State) (id : Nat) (r : IRead) : State :=
  let out := (s.setQp r.qpn { s.qp r.qpn with ops := (s.qp r.qpn).ops.filter (·.id != id) }).qpSettle r.qpn
  ({ out with host := { out.host with intake := { out.host.intake with
    reads := out.host.intake.reads.filter (·.id != id) } } } : State).intakeSettle r.step

/-- An INTAKE_OFF that waited for the last read completes. -/
def State.offSettle (s : State) : State :=
  match s.host.intake.offSeq with
  | some seq =>
    if s.host.intake.reads.any (·.issued) then s
    else (s.modIntake fun i => { i with offSeq := none, reads := [], started := [] }).cmdDone seq stOk 0
  | none => s

theorem intakeReadDone_ends {s t : State} {id : Nat} {ok : Bool} {r : IRead} (hs : s.Serves)
    (hr : s.host.intake.reads.find? (fun r => r.id == id && r.issued) = some r)
    (ht : (if !ok then (if (s.qp r.qpn).state == 4 || (s.qp r.qpn).state == 0 then s.intakeStall r.qpn r.range else s.qpError r.qpn)
      else if !((s.qp r.qpn).ops.any fun o => o.id == id && o.got ≥ o.len) then s
      else (s.readLeft id r).offSettle.issueReads) = t) : Ends (exec (.intakeReadDone id ok) s) t := by
  refine show Ends (execIntakeReadDone id ok s) _ from runOn_ends_of hs.on ?_
  rw [hr]
  exact ht

theorem intakeReadDone_none {s : State} {id : Nat} (hs : s.Serves)
    (hr : s.host.intake.reads.find? (fun r => r.id == id && r.issued) = none) (ok : Bool) :
    Ends (exec (.intakeReadDone id ok) s) s := by
  refine show Ends (execIntakeReadDone id ok s) _ from runOn_ends_of hs.on ?_
  rw [hr]

theorem offSettle_stays {s : State} (h : s.host.intake.offSeq = none ∨ s.host.intake.reads.any (·.issued) = true) :
    s.offSettle = s := by
  unfold State.offSettle
  split
  · next hq => exact if_pos (h.resolve_left (by simp [hq]))
  · rfl

theorem offSettle_done {s : State} {seq : Nat} (h : s.host.intake.offSeq = some seq)
    (hi : s.host.intake.reads.any (·.issued) = false) :
    s.offSettle = (s.modIntake fun i => { i with offSeq := none, reads := [], started := [] }).cmdDone seq stOk 0 := by
  unfold State.offSettle
  rw [h]
  exact if_neg (by simp [hi])

/-- Settles O34. -/
theorem intakeFamilyCompletes : Obligations.IntakeFamilyCompletes := by
  refine ⟨fun s seq c => ⟨fun h => ⟨fun hd => ?_, fun hd hi => ?_, fun hd hi hp => ?_, fun p hd hi hp => ?_⟩,
      fun h => ⟨fun hk => ?_, fun hk => ?_⟩, fun h => ⟨fun hk => ?_, fun hk => ?_⟩⟩,
    fun s seq hs => ⟨fun h => ?_, fun h => ?_, fun h => ?_⟩,
    fun s hs => ⟨fun h => intakeStart_off hs h, fun p hp hon hst =>
      ⟨fun ht => intakeStart_none hs hp hon hst ht, fun t ht => intakeStart_next hs hp hon hst ht⟩⟩,
    fun s id hs => ⟨fun hr ok => intakeReadDone_none hs hr ok, fun r hr =>
      ⟨fun hq => ?_, fun h4 h0 => ?_, fun ho => ?_, fun ho => ⟨fun hoff => ?_, fun seq hoff hi => ?_⟩⟩⟩,
    fun s t => ⟨fun hc hr => ?_, fun h => ?_⟩⟩
  · exact intakeSet_dusk seq h.serves hd
  · exact intakeSet_ends h.serves hd ((h.runCmd _).trans (if_pos (by simpa using hi)))
  · exact intakeSet_ends h.serves hd ((h.runCmd _).trans ((if_neg (by simpa using hi)).trans
      (congrArg (State.planTaken _ _) hp)))
  · exact intakeSet_ends h.serves hd ((h.runCmd _).trans ((if_neg (by simpa using hi)).trans
      (congrArg (State.planTaken _ _) hp)))
  · exact h.ends (congrArg (State.cmdDone · c.seq stOk 0) (if_neg (ne_true_of_eq_false hk)))
  · exact h.ends (congrArg (State.cmdDone · c.seq stOk 0) (if_pos hk))
  · exact h.ends (if_neg (ne_true_of_eq_false hk))
  · exact h.ends (if_pos hk)
  · exact intakeSet_idle hs h
  · exact State.Idle.ends h hs _
  · exact State.Idle.ends h hs _
  · exact intakeReadDone_ends hs hr ((if_pos rfl).trans (if_pos (by simpa using hq)))
  · exact intakeReadDone_ends hs hr ((if_pos rfl).trans (if_neg (by simpa using And.intro h4 h0)))
  · exact intakeReadDone_ends hs hr ((if_neg (by decide)).trans (if_pos (by simp only [ho]; rfl)))
  · exact intakeReadDone_ends hs hr ((if_neg (by decide)).trans ((if_neg (by simp only [ho]; decide)).trans
      (congrArg State.issueReads (offSettle_stays (s := s.readLeft id r) hoff))))
  · exact intakeReadDone_ends hs hr ((if_neg (by decide)).trans ((if_neg (by simp only [ho]; decide)).trans
      (congrArg State.issueReads (offSettle_done (s := s.readLeft id r) hoff hi))))
  · unfold State.intakeSettle
    rw [if_pos (by simp only [hc, hr]; rfl)]
    rfl
  · refine if_neg ?_
    rcases h with h | h <;> simp only [h] <;> simp

end Sys2Proof.Machine
end

section
/-!
PROOF. Commands of rings (Section 11.3).
-/
namespace Sys2Proof.Machine

/-! ## Fields of a masked value -/

theorem bits_and_of_full {x m hi lo : Nat} (h : bits m hi lo = 2 ^ (hi + 1 - lo) - 1) : bits (x &&& m) hi lo = bits x hi lo := by
  refine Nat.eq_of_testBit_eq fun i => ?_
  have hm := congrArg (Nat.testBit · i) h
  simp only [testBit_bits, Nat.testBit_two_pow_sub_one] at hm
  simp only [testBit_bits, Nat.testBit_and]
  by_cases hi' : i < hi + 1 - lo
  · simp only [hi', decide_true, Bool.true_and] at hm ⊢
    rw [hm, Bool.and_true]
  · simp [hi']

theorem bits_setBits_other (x v : Nat) {hi lo hi' lo' : Nat} (h : lo' ≤ hi') (hd : hi < lo' ∨ hi' < lo) :
    bits (setBits x hi' lo' v) hi lo = bits x hi lo := by
  refine Nat.eq_of_testBit_eq fun i => ?_
  simp only [testBit_bits, testBit_setBits _ _ _ _ _ h]
  by_cases hi : i < hi + 1 - lo
  · rw [if_neg (by omega)]
  · simp [hi]

theorem toNat_setBits (v : Word) (hi lo x : Nat) (h : lo ≤ hi) (hh : hi < 32) :
    (BitVec.ofNat 32 (setBits v.toNat hi lo x)).toNat = setBits v.toNat hi lo x :=
  Nat.mod_eq_of_lt (setBits_lt _ _ _ _ h hh v.isLt)

/-! ## Orders to a register with fields of one role -/

/-- An order to a register all of whose fields the originator may write. -/
theorem order_allOf {s : State} {o : Origin} {page off m : Nat} {v : Word} (hk : pageKind page ≠ 0)
    (hopen : pageKind page = kTile → s.spare.opened.contains (page / 36) = false) (hm : m ≠ 0)
    (hf : ∀ j n, (s.journaled j n).fields (roleOf o) page off v.toNat = (m, m)) {st : Nat} {g : State → State}
    (hact : ∀ j n, (s.journaled j n).act o page off m (v.toNat &&& m) = (st, g (s.journaled j n))) (hst : st ≠ stAccess) :
    Answered (g (s.accept o page off v).2.2) (s.order o page off v) :=
  order_acts hk hf hm hopen (fun j n => by simp [State.mayWrite, hf j n, hm]) hact hst

theorem and_toNat_lt (v : Word) (m : Nat) : v.toNat &&& m < 2 ^ 32 := lt_of_le_of_lt Nat.and_le_left v.isLt

/-- An order to RING_DB. -/
theorem order_ringDb {s : State} {o : Origin} (hd : anyButDebug (roleOf o) = true) (v : Word) :
    Answered ((s.accept o hostPage 0x10C v).2.2.ringDb (BitVec.ofNat 32 (v.toNat &&& 0xFFFF07FF))) (s.order o hostPage 0x10C v) :=
  order_allOf (g := fun s => s.ringDb (BitVec.ofNat 32 (v.toNat &&& 0xFFFF07FF))) (by decide) (fun h => absurd h (by decide))
    (by decide) (fun j n => by
      show allOf 0xFFFF07FF (anyButDebug (roleOf o)) = _
      rw [hd]; rfl) (fun j n => rfl) (by decide)

/-- An order to RING_CTL. -/
theorem order_ringCtl {s : State} {o : Origin} (hd : anyButDebug (roleOf o) = true) (v : Word) :
    Answered ((s.accept o hostPage 0x108 v).2.2.ringCtl (BitVec.ofNat 32 (v.toNat &&& 0x303FF))) (s.order o hostPage 0x108 v) :=
  order_allOf (g := fun s => s.ringCtl (BitVec.ofNat 32 (v.toNat &&& 0x303FF))) (by decide) (fun h => absurd h (by decide))
    (by decide) (fun j n => by
      show allOf 0x303FF (anyButDebug (roleOf o)) = _
      rw [hd]; rfl) (fun j n => rfl) (by decide)

theorem Answered.rings {s u : State} (h : Answered s u) : u.host.rings = s.host.rings := by
  obtain ⟨j, n, c, l, rfl⟩ := h; rfl

theorem Answered.ring {s u : State} (h : Answered s u) (n : Nat) : u.ring n = s.ring n := congrArg (sfind · n) h.rings

theorem Answered.mem {s u : State} (h : Answered s u) : u.mem = s.mem := by
  obtain ⟨j, n, c, l, rfl⟩ := h; rfl

theorem Answered.regs {s u : State} (h : Answered s u) : u.regs = s.regs := by
  obtain ⟨j, n, c, l, rfl⟩ := h; rfl

theorem Answered.flag {s u : State} (h : Answered s u) (page off i : Nat) : u.flag page off i = s.flag page off i := by
  obtain ⟨j, n, c, l, rfl⟩ := h; rfl

/-! ## Doorbells -/

/-- What RING_DB takes of a value: the ring, the side that `x` names, and the index. -/
theorem doorbell_value (v : Word) (x : Nat) :
    let w := (BitVec.ofNat 32 ((BitVec.ofNat 32 (setBits v.toNat 10 10 x)).toNat &&& 0xFFFF07FF)).toNat
    bits w 9 0 = bits v.toNat 9 0 ∧ bits w 31 16 = bits v.toNat 31 16 ∧ bit w 10 = x.testBit 0 := by
  intro w
  have hw : w = setBits v.toNat 10 10 x &&& 0xFFFF07FF := by
    show (BitVec.ofNat 32 _).toNat = _
    rw [BitVec.toNat_ofNat, Nat.mod_eq_of_lt (and_toNat_lt _ _), toNat_setBits _ _ _ _ (by decide) (by decide)]
  rw [hw]
  refine ⟨?_, ?_, ?_⟩
  · rw [bits_and_of_full (by decide), bits_setBits_other _ _ (by decide) (by decide)]
  · rw [bits_and_of_full (by decide), bits_setBits_other _ _ (by decide) (by decide)]
  · simp only [bit, Nat.testBit_and, testBit_setBits _ _ _ _ _ (Nat.le_refl 10)]
    rw [show Nat.testBit 0xFFFF07FF 10 = true by decide]
    simp

/-- What RING_CTL takes of a value. -/
theorem ringCtl_value (v : Word) (x : Nat) :
    let w := (BitVec.ofNat 32 ((BitVec.ofNat 32 (setBits v.toNat 17 16 x)).toNat &&& 0x303FF)).toNat
    bits w 9 0 = bits v.toNat 9 0 ∧ bit w 16 = x.testBit 0 ∧ bit w 17 = x.testBit 1 := by
  intro w
  have hw : w = setBits v.toNat 17 16 x &&& 0x303FF := by
    show (BitVec.ofNat 32 _).toNat = _
    rw [BitVec.toNat_ofNat, Nat.mod_eq_of_lt (and_toNat_lt _ _), toNat_setBits _ _ _ _ (by decide) (by decide)]
  rw [hw]
  refine ⟨?_, ?_, ?_⟩
  · rw [bits_and_of_full (by decide), bits_setBits_other _ _ (by decide) (by decide)]
  · simp only [bit, Nat.testBit_and, testBit_setBits _ _ _ _ _ (show 16 ≤ 17 by decide)]
    rw [show Nat.testBit 0x303FF 16 = true by decide]
    simp
  · simp only [bit, Nat.testBit_and, testBit_setBits _ _ _ _ _ (show 16 ≤ 17 by decide)]
    rw [show Nat.testBit 0x303FF 17 = true by decide]
    simp

theorem ring_setRing_same (s : State) (n : Nat) (r : Ring) : (s.setRing n r).ring n = some r := sfind_sput_same ..

theorem ring_setRing_other (s : State) {n m : Nat} (r : Ring) (h : m ≠ n) : (s.setRing n r).ring m = s.ring m :=
  sfind_sput_other _ _ (Ne.symm h)

theorem ringDb_tail {s : State} {v : Word} {r : Ring} (hr : s.ring (bits v.toNat 9 0) = some r) (hs : r.stopping = false)
    (hb : bit v.toNat 10 = false) : s.ringDb v = s.setRing (bits v.toNat 9 0) { r with tail := bits v.toNat 31 16 } := by
  unfold State.ringDb
  dsimp only
  rw [hr]
  exact (if_neg (ne_true_of_eq_false hs)).trans (if_neg (ne_true_of_eq_false hb))

theorem ringDb_head {s : State} {v : Word} {r : Ring} (hr : s.ring (bits v.toNat 9 0) = some r) (hs : r.stopping = false)
    (hb : bit v.toNat 10 = true) (hn : ∀ c ∈ s.cmdsOf (bits v.toNat 9 0), c.noted = false) :
    s.ringDb v = s.setRing (bits v.toNat 9 0)
      { r with head := (r.head + (bits v.toNat 31 16 + 65536 - r.head % 65536) % 65536) % 2 ^ 17 } := by
  unfold State.ringDb
  dsimp only
  rw [hr]
  refine (if_neg (ne_true_of_eq_false hs)).trans ((if_pos hb).trans ?_)
  have hnone : (s.cmdsOf (bits v.toNat 9 0)).filter (·.noted) = [] :=
    List.filter_eq_nil_iff.2 fun c hc => ne_true_of_eq_false (hn c hc)
  exact congrArg (List.foldl _ _) hnone

/-! ## RING_CTL -/

theorem modRead_host (s : State) (a n : Nat) : (s.modRead a n).2.host = s.host :=
  (congrArg State.host (devRead_memOnly s a n 5 .module false false).rest :)

theorem ringEnable_detached {s : State} {n : Nat} (hr : s.ring n = none) (ha : s.hostAttached = false) : s.ringEnable n = s := by
  unfold State.ringEnable
  rw [hr]
  exact if_pos (by simp [ha])

theorem ringEnable_outside {s : State} {n : Nat} (hr : s.ring n = none) (ha : s.hostAttached = true)
    (hi : s.inHost (s.rcbTable + 64 * n) 64 = false) : s.ringEnable n = s.raise hostPage 3 := by
  unfold State.ringEnable
  rw [hr]
  exact (if_neg (by simp [ha])).trans (if_pos (by simp [hi]))

/-- The ring takes the control block that has been read, where it is sound. -/
def State.rcbTaken (s : State) (n : Nat) : Option Rcb → State
  | some rcb => s.setRing n { rcb := rcb }
  | none => s.raise hostPage 3

theorem ringEnable_read {s : State} {n : Nat} (hr : s.ring n = none) (ha : s.hostAttached = true)
    (hi : s.inHost (s.rcbTable + 64 * n) 64 = true) :
    s.ringEnable n = (s.modRead (s.rcbTable + 64 * n) 64).2.rcbTaken n
      ((s.modRead (s.rcbTable + 64 * n) 64).2.parseRcb ((s.modRead (s.rcbTable + 64 * n) 64).1.map (·.val))) := by
  unfold State.ringEnable
  rw [hr]
  refine (if_neg (by simp [ha])).trans ((if_neg (by simp [hi])).trans ?_)
  generalize s.modRead (s.rcbTable + 64 * n) 64 = x
  obtain ⟨d, u⟩ := x
  cases hp : u.parseRcb (d.map (·.val)) with
  | none => simp only [hp]; rfl
  | some rcb => simp only [hp]; rfl

theorem ringEnable_again {s : State} {n : Nat} {r : Ring} (hr : s.ring n = some r) (hs : r.stopping = true) :
    s.ringEnable n = s.setRing n { r with again := true } := by
  unfold State.ringEnable
  rw [hr]
  exact if_pos hs

theorem ringDisable_empty {s : State} {n : Nat} {r : Ring} (hr : s.ring n = some r) (hc : s.cmdsOf n = []) :
    (s.ringDisable n).ring n = none ∧ ∀ m, m ≠ n → (s.ringDisable n).ring m = s.ring m := by
  have hset : s.ringDisable n = ((s.modHost fun h => { h with
      cmds := (h.cmds.filter fun c => c.ring != n || (c.started && !c.noted)).map fun c =>
        if c.ring == n then { c with silent := true } else c }).setRing n
      { r with enabled := false, stopping := true, again := false }).ringSettle n := by
    unfold State.ringDisable
    rw [hr]
    dsimp only
    rw [hc]
    rfl
  generalize hu : (s.modHost fun h => { h with
      cmds := (h.cmds.filter fun c => c.ring != n || (c.started && !c.noted)).map fun c =>
        if c.ring == n then { c with silent := true } else c }).setRing n
      { r with enabled := false, stopping := true, again := false } = u at hset
  have hur : u.ring n = some { r with enabled := false, stopping := true, again := false } := hu ▸ ring_setRing_same ..
  have huc : u.cmdsOf n = [] := by
    rw [← hu]
    refine List.filter_eq_nil_iff.2 fun c hcm => ?_
    obtain ⟨d, hd, rfl⟩ := List.mem_map.1 hcm
    have hne : ¬(d.ring == n) = true := List.filter_eq_nil_iff.1 hc d (List.mem_filter.1 hd).1
    rwa [if_neg hne]
  have hdel : u.ringSettle n = u.modHost fun h => { h with rings := sdel h.rings n } := by
    unfold State.ringSettle
    rw [hur]
    dsimp only
    rw [huc]
    rfl
  rw [hset, hdel]
  exact ⟨sfind_sdel_same .., fun m hm => (sfind_sdel_other _ (Ne.symm hm)).trans
    (hu ▸ ring_setRing_other _ _ hm)⟩

/-! ## The commands -/

theorem commandFetch_none {s : State} (hs : s.Serves) (h : s.dusk = true ∨ s.nextRing = none) : Ends (exec .commandFetch s) s := by
  refine show Ends (execCommandFetch s) s from runOn_ends_of hs.on ?_
  rcases h with h | h
  · exact if_pos h
  · simp [State.awake, h]

/-- The next command of a ring, with these bytes and this SEQ, is in the journal and waits. -/
def State.fetchedAs (g : State) (bytes : List Byte) (n : Nat) (r : Ring) (seq : Nat) : State :=
  let c : Cmd := { seq := seq, ring := n, idx := r.fetch, bytes := bytes }
  let app := g.append (g.cmdEntry c)
  let moved := app.2.setRing n { r with fetch := (r.fetch + 1) % 65536 }
  let u : State := { moved with host := { moved.host with cmds := moved.host.cmds ++ [c], lastRing := n } }
  if cmdOk c then u else (u.raise hostPage 3).cmdDone seq stFormat 0

theorem commandFetch_next {s : State} {n : Nat} {r : Ring} (hs : s.Serves) (hd : s.dusk = false) (hn : s.nextRing = some n)
    (hr : s.ring n = some r) :
    let got := s.modRead (r.rcb.sqBase + 256 * (r.fetch % 2 ^ r.rcb.logSq)) 256
    let c : Cmd := { seq := s.host.nextSeq, ring := n, idx := r.fetch, bytes := got.1.map (·.val) }
    let app := got.2.append (got.2.cmdEntry c)
    let moved := app.2.setRing n { r with fetch := (r.fetch + 1) % 65536 }
    let u : State := { moved with host := { moved.host with cmds := moved.host.cmds ++ [c], lastRing := n } }
    Ends (exec .commandFetch s) (if cmdOk c then u else (u.raise hostPage 3).cmdDone s.host.nextSeq stFormat 0) := by
  refine show Ends (execCommandFetch s) _ from runOn_ends_of hs.on ((State.awake_light hd _).trans ?_)
  rw [hn]
  dsimp only
  rw [hr]
  dsimp only
  generalize hg : s.modRead (r.rcb.sqBase + 256 * (r.fetch % 2 ^ r.rcb.logSq)) 256 = got
  have hq : got.2.host.nextSeq = s.host.nextSeq := congrArg HostSt.nextSeq (hg ▸ modRead_host ..)
  obtain ⟨d, u⟩ := got
  show _ = u.fetchedAs (d.map (·.val)) n r s.host.nextSeq
  rw [← hq]
  rfl

theorem cmd_setCmd {s : State} {seq : Nat} {c d : Cmd} (hc : s.cmd seq = some c) (hd : d.seq = c.seq) :
    (s.setCmd d).cmd seq = some d := by
  have hseq : c.seq = seq := by simpa using List.find?_some hc
  have hfind : (s.host.cmds.map fun x => if x.seq == d.seq then d else x).find? (·.seq == seq)
      = (s.host.cmds.find? (·.seq == seq)).map fun x => if x.seq == d.seq then d else x := by
    rw [List.find?_map]
    refine congrArg (fun p => (List.find? p s.host.cmds).map fun x => if x.seq == d.seq then d else x) (funext fun x => ?_)
    simp only [Function.comp]
    split
    · next h => rw [hd, hseq] at h; rw [h, hd, hseq, beq_self_eq_true]
    · rfl
  refine hfind.trans ?_
  rw [show s.host.cmds.find? (·.seq == seq) = some c from hc]
  simp [hd]

theorem cmd_seq {s : State} {seq : Nat} {c : Cmd} (hc : s.cmd seq = some c) : c.seq = seq := by
  simpa using List.find?_some hc

/-- A command without an outcome gets one. -/
theorem cmdDone_answers {s : State} {seq : Nat} {c : Cmd} (hc : s.cmd seq = some c) (hd : c.done = none) (st r : Nat) :
    (s.cmdDone seq st r).Answers seq st r := by
  have he : s.cmdDone seq st r = s.setCmd { c with started := true, done := some (st, r) } := by
    unfold State.cmdDone
    rw [hc]
    exact if_pos (by simp [hd])
  rw [he]
  exact (congrArg (Option.map fun c : Cmd => (c.started, c.done))
    (cmd_setCmd (d := { c with started := true, done := some (st, r) }) hc rfl) :)

/-- A write of EVT_ENABLE of a tile by a command of a ring. -/
theorem ringWrite_evtEn {s : State} {seq : Nat} {c : Cmd} (h : s.Starts seq 0x01 c) (hp : c.regPage < 0x480)
    (ho : s.spare.opened.contains (c.regPage / 36) = false) (v : Word) :
    let u := (s.setCmd { c with started := true }).writeAny (.ring c.ring) (.cmd c.seq) none c.regPage offEvtEn v
    u.Answers seq stOk 0 ∧ u.rdN c.regPage offEvtEn &&& 0x3FFFF = v.toNat &&& 0x3FFFF ∧ u.tiles = s.tiles ∧ u.mem = s.mem := by
  obtain rfl : c.seq = seq := cmd_seq h.cmd
  have hk : pageKind c.regPage ≠ 0 := by rw [pageKind_tile hp]; decide
  obtain ⟨hc, hsys⟩ := isCompound_of_pageKind hk
  have heq : (s.setCmd { c with started := true }).writeAny (.ring c.ring) (.cmd c.seq) none c.regPage offEvtEn v
      = ((s.setCmd { c with started := true }).evtEnabled c.regPage v).cmdDone c.seq stOk 0 := by
    simp [State.writeAny, hsys, State.writeNow, pageAssigned, hk, hc,
      applyWrite_evtEn (o := .ring c.ring) v rfl, State.accessEnd, stOk, stAccess]
  intro u
  rw [show u = _ from heq]
  have hcmd : ((s.setCmd { c with started := true }).evtEnabled c.regPage v).cmd c.seq = some { c with started := true } := by
    rw [evtEnabled_regs]
    exact cmd_setCmd h.cmd rfl
  obtain ⟨l, hl⟩ := cmdDone_cmds ((s.setCmd { c with started := true }).evtEnabled c.regPage v) c.seq stOk 0
  refine ⟨cmdDone_answers hcmd h.open_ _ _, ?_, ?_, ?_⟩
  · rw [hl]
    exact rdN_evtEnabled (s := s.setCmd { c with started := true }) v hp ho
  · rw [hl, evtEnabled_regs]
    rfl
  · rw [hl, evtEnabled_regs]
    rfl

theorem writeInline_idle {s : State} {seq : Nat} (hs : s.Serves) (h : s.Idle seq 0x03) : Ends (exec (.writeInline seq) s) s := by
  refine show Ends (execWriteInline seq s) s from runOn_ends_of hs.on ?_
  split
  · rfl
  · split
    · rfl
    · exact h.runCmd _

theorem copy_idle {s : State} {seq : Nat} (hs : s.Serves) (h : s.Idle seq 0x04) : Ends (exec (.copy seq) s) s := by
  refine show Ends (execCopy seq s) s from runOn_ends_of hs.on ?_
  split
  · rfl
  · dsimp only
    split
    · rfl
    · exact h.runCmd _

theorem flush_idle {s : State} {seq : Nat} (hs : s.Serves) (h : s.Idle seq 0x05) : Ends (exec (.flush seq) s) s := by
  refine show Ends (execFlush seq s) s from runOn_ends_of hs.on ?_
  unfold State.awake
  split
  · rfl
  · exact h.runCmd _

theorem journalCopy_idle {s : State} {seq : Nat} (hs : s.Serves) (h : s.Idle seq 0x09) : Ends (exec (.journalCopy seq) s) s := by
  refine show Ends (execJournalCopy seq s) s from runOn_ends_of hs.on ?_
  unfold State.awake
  split
  · rfl
  · exact h.runCmd _

theorem sqDoorbell_tail {s : State} {o : Origin} (hd : anyButDebug (roleOf o) = true) (v : Word) {r : Ring}
    (hr : s.ring (bits v.toNat 9 0) = some r) (hst : r.stopping = false) :
    let u := s.order o hostPage 0x10C (BitVec.ofNat 32 (setBits v.toNat 10 10 0))
    u.ring (bits v.toNat 9 0) = some { r with tail := bits v.toNat 31 16 } ∧
    (∀ m, m ≠ bits v.toNat 9 0 → u.ring m = s.ring m) ∧ u.mem = s.mem := by
  obtain ⟨-, j, k, hh⟩ := accept_journaled s o hostPage 0x10C (BitVec.ofNat 32 (setBits v.toNat 10 10 0))
  have h := order_ringDb (s := s) hd (BitVec.ofNat 32 (setBits v.toNat 10 10 0))
  obtain ⟨hn, hi, hb⟩ := doorbell_value v 0
  rw [hh, ringDb_tail (by rw [hn]; exact hr) hst (by rw [hb]; rfl), hn, hi] at h
  exact ⟨(h.ring _).trans (ring_setRing_same ..), fun m hm => (h.ring m).trans (ring_setRing_other _ _ hm), h.mem⟩

theorem cqDoorbell_head {s : State} {o : Origin} (hd : anyButDebug (roleOf o) = true) (v : Word) {r : Ring}
    (hr : s.ring (bits v.toNat 9 0) = some r) (hst : r.stopping = false)
    (hc : ∀ c ∈ s.cmdsOf (bits v.toNat 9 0), c.noted = false) :
    let u := s.order o hostPage 0x10C (BitVec.ofNat 32 (setBits v.toNat 10 10 1))
    u.ring (bits v.toNat 9 0) =
      some { r with head := (r.head + (bits v.toNat 31 16 + 65536 - r.head % 65536) % 65536) % 2 ^ 17 } ∧
    (∀ m, m ≠ bits v.toNat 9 0 → u.ring m = s.ring m) ∧ u.mem = s.mem := by
  obtain ⟨-, j, k, hh⟩ := accept_journaled s o hostPage 0x10C (BitVec.ofNat 32 (setBits v.toNat 10 10 1))
  have h := order_ringDb (s := s) hd (BitVec.ofNat 32 (setBits v.toNat 10 10 1))
  obtain ⟨hn, hi, hb⟩ := doorbell_value v 1
  rw [hh, ringDb_head (by rw [hn]; exact hr) hst (by rw [hb]; rfl) (by rw [hn]; exact hc), hn, hi] at h
  exact ⟨(h.ring _).trans (ring_setRing_same ..), fun m hm => (h.ring m).trans (ring_setRing_other _ _ hm), h.mem⟩

/-- An order to enable a ring. -/
theorem enable_acts {s : State} {o : Origin} (hd : anyButDebug (roleOf o) = true) (v : Word) :
    Answered ((s.accept o hostPage 0x108 (BitVec.ofNat 32 (setBits v.toNat 17 16 1))).2.2.ringEnable (bits v.toNat 9 0))
      (s.order o hostPage 0x108 (BitVec.ofNat 32 (setBits v.toNat 17 16 1))) := by
  obtain ⟨hn, h16, h17⟩ := ringCtl_value v 1
  have h := order_ringCtl (s := s) hd (BitVec.ofNat 32 (setBits v.toNat 17 16 1))
  rw [State.ringCtl] at h
  rwa [if_neg (by rw [h17]; decide), if_pos (by rw [h16]; decide), hn] at h

/-- An order to disable a ring. -/
theorem disable_acts {s : State} {o : Origin} (hd : anyButDebug (roleOf o) = true) (v : Word) :
    Answered ((s.accept o hostPage 0x108 (BitVec.ofNat 32 (setBits v.toNat 17 16 2))).2.2.ringDisable (bits v.toNat 9 0))
      (s.order o hostPage 0x108 (BitVec.ofNat 32 (setBits v.toNat 17 16 2))) := by
  obtain ⟨hn, -, h17⟩ := ringCtl_value v 2
  have h := order_ringCtl (s := s) hd (BitVec.ofNat 32 (setBits v.toNat 17 16 2))
  rw [State.ringCtl] at h
  rwa [if_pos (by rw [h17]; decide), hn] at h

section
variable {s : State} {o : Origin} (hd : anyButDebug (roleOf o) = true) (v : Word)
include hd

theorem enable_outside (hr : s.ring (bits v.toNat 9 0) = none) (ha : s.hostAttached = true)
    (hi : s.inHost (s.rcbTable + 64 * bits v.toNat 9 0) 64 = false) :
    let u := s.order o hostPage 0x108 (BitVec.ofNat 32 (setBits v.toNat 17 16 1))
    u.ring (bits v.toNat 9 0) = none ∧ u.flag hostPage offEvt 3 = true := by
  obtain ⟨-, j, k, hh⟩ := accept_journaled s o hostPage 0x108 (BitVec.ofNat 32 (setBits v.toNat 17 16 1))
  have h := enable_acts (s := s) hd v
  rw [hh, ringEnable_outside (s := s.journaled j k) hr ha hi] at h
  exact ⟨(h.ring _).trans hr, (h.flag ..).trans (State.flag_raise_same _ _ _ (by decide))⟩

theorem enable_read (hr : s.ring (bits v.toNat 9 0) = none) (ha : s.hostAttached = true)
    (hi : s.inHost (s.rcbTable + 64 * bits v.toNat 9 0) 64 = true) (x : Option Rcb)
    (hp : ((s.accept o hostPage 0x108 (BitVec.ofNat 32 (setBits v.toNat 17 16 1))).2.2.modRead
        (s.rcbTable + 64 * bits v.toNat 9 0) 64).2.parseRcb
      (((s.accept o hostPage 0x108 (BitVec.ofNat 32 (setBits v.toNat 17 16 1))).2.2.modRead
        (s.rcbTable + 64 * bits v.toNat 9 0) 64).1.map (·.val)) = x) :
    ∃ t : State, t.host.rings = s.host.rings ∧ Answered (t.rcbTaken (bits v.toNat 9 0) x)
      (s.order o hostPage 0x108 (BitVec.ofNat 32 (setBits v.toNat 17 16 1))) := by
  obtain ⟨-, j, k, hh⟩ := accept_journaled s o hostPage 0x108 (BitVec.ofNat 32 (setBits v.toNat 17 16 1))
  have h := enable_acts (s := s) hd v
  rw [hh] at hp
  rw [hh, ringEnable_read (s := s.journaled j k) hr ha hi,
    show State.rcbTable (s.journaled j k) = s.rcbTable from rfl, hp] at h
  exact ⟨_, (congrArg HostSt.rings (modRead_host (s.journaled j k) _ 64) :), h⟩

theorem enable_sound (hr : s.ring (bits v.toNat 9 0) = none) (ha : s.hostAttached = true)
    (hi : s.inHost (s.rcbTable + 64 * bits v.toNat 9 0) 64 = true) (rcb : Rcb)
    (hp : ((s.accept o hostPage 0x108 (BitVec.ofNat 32 (setBits v.toNat 17 16 1))).2.2.modRead
        (s.rcbTable + 64 * bits v.toNat 9 0) 64).2.parseRcb
      (((s.accept o hostPage 0x108 (BitVec.ofNat 32 (setBits v.toNat 17 16 1))).2.2.modRead
        (s.rcbTable + 64 * bits v.toNat 9 0) 64).1.map (·.val)) = some rcb) :
    let u := s.order o hostPage 0x108 (BitVec.ofNat 32 (setBits v.toNat 17 16 1))
    u.ring (bits v.toNat 9 0) = some { rcb := rcb } ∧ ∀ m, m ≠ bits v.toNat 9 0 → u.ring m = s.ring m := by
  obtain ⟨t, ht, h⟩ := enable_read hd v hr ha hi _ hp
  exact ⟨(h.ring _).trans (ring_setRing_same ..), fun m hm =>
    (h.ring m).trans ((ring_setRing_other _ _ hm).trans (congrArg (sfind · m) ht))⟩

theorem enable_unsound (hr : s.ring (bits v.toNat 9 0) = none) (ha : s.hostAttached = true)
    (hi : s.inHost (s.rcbTable + 64 * bits v.toNat 9 0) 64 = true)
    (hp : ((s.accept o hostPage 0x108 (BitVec.ofNat 32 (setBits v.toNat 17 16 1))).2.2.modRead
        (s.rcbTable + 64 * bits v.toNat 9 0) 64).2.parseRcb
      (((s.accept o hostPage 0x108 (BitVec.ofNat 32 (setBits v.toNat 17 16 1))).2.2.modRead
        (s.rcbTable + 64 * bits v.toNat 9 0) 64).1.map (·.val)) = none) :
    let u := s.order o hostPage 0x108 (BitVec.ofNat 32 (setBits v.toNat 17 16 1))
    u.ring (bits v.toNat 9 0) = none ∧ u.flag hostPage offEvt 3 = true := by
  obtain ⟨t, ht, h⟩ := enable_read hd v hr ha hi _ hp
  exact ⟨(h.ring _).trans ((congrArg (sfind · _) ht).trans hr), (h.flag ..).trans (State.flag_raise_same _ _ _ (by decide))⟩

theorem enable_detached (hr : s.ring (bits v.toNat 9 0) = none) (ha : s.hostAttached = false) :
    (s.order o hostPage 0x108 (BitVec.ofNat 32 (setBits v.toNat 17 16 1))).ring (bits v.toNat 9 0) = none := by
  obtain ⟨-, j, k, hh⟩ := accept_journaled s o hostPage 0x108 (BitVec.ofNat 32 (setBits v.toNat 17 16 1))
  have h := enable_acts (s := s) hd v
  rw [hh, ringEnable_detached (s := s.journaled j k) hr ha] at h
  exact (h.ring _).trans hr

theorem enable_again {r : Ring} (hr : s.ring (bits v.toNat 9 0) = some r) (hst : r.stopping = true) :
    (s.order o hostPage 0x108 (BitVec.ofNat 32 (setBits v.toNat 17 16 1))).ring (bits v.toNat 9 0) =
      some { r with again := true } := by
  obtain ⟨-, j, k, hh⟩ := accept_journaled s o hostPage 0x108 (BitVec.ofNat 32 (setBits v.toNat 17 16 1))
  have h := enable_acts (s := s) hd v
  rw [hh, ringEnable_again (s := s.journaled j k) hr hst] at h
  exact (h.ring _).trans (ring_setRing_same ..)

theorem disable_empty {r : Ring} (hr : s.ring (bits v.toNat 9 0) = some r) (hc : s.cmdsOf (bits v.toNat 9 0) = []) :
    let u := s.order o hostPage 0x108 (BitVec.ofNat 32 (setBits v.toNat 17 16 2))
    u.ring (bits v.toNat 9 0) = none ∧ ∀ m, m ≠ bits v.toNat 9 0 → u.ring m = s.ring m := by
  obtain ⟨-, j, k, hh⟩ := accept_journaled s o hostPage 0x108 (BitVec.ofNat 32 (setBits v.toNat 17 16 2))
  have h := disable_acts (s := s) hd v
  rw [hh] at h
  obtain ⟨hn, hm⟩ := ringDisable_empty (s := s.journaled j k) hr hc
  exact ⟨(h.ring _).trans hn, fun m hne => (h.ring m).trans (hm m hne)⟩

end

/-- Settles O31. -/
theorem ringFamilyCompletes : Obligations.RingFamilyCompletes := by
  refine ⟨fun s hs => ⟨commandFetch_none hs, fun n r hd hn hr => commandFetch_next hs hd hn hr⟩,
    fun s seq c => ⟨fun h => ?_, fun h => ?_, fun h => ⟨?_, fun hp hw => ?_⟩, fun h => ⟨?_, fun hp hoff ho => ?_⟩,
      fun h => ⟨fun hi hr => ?_, fun hi hr => ?_, fun hi => ?_⟩, fun h => ⟨fun hok hr => ?_, fun hok hr => ?_, fun hok => ?_⟩,
      fun h => ⟨fun hd => ?_, fun hd hi => ?_, fun hd hi => ?_⟩, fun h => ⟨fun hd => ?_, fun hd hi => ?_, fun hd hi => ?_⟩⟩,
    fun s seq hs => ⟨fun h => ?_, fun h => ?_, fun h => ?_, fun h => ?_, fun h => ?_, fun h => ?_, fun h => ?_, fun h => ?_⟩,
    fun s o v hs => ⟨?_, ?_, ?_, ?_, fun hd => ⟨fun r hr hst => ?_, fun r hr hst hn => ?_, fun hr ha hi => ?_,
      fun rcb hr ha hi hp => ?_, fun hr ha hi hp => ?_, fun hr ha => ?_, fun r hr hst => ?_, fun r hr hc => ?_⟩⟩⟩
  · exact h.ends rfl
  · exact h.ends rfl
  · exact h.ends rfl
  · exact (readAny_tile _ _ _ _ hp hw).trans (congrArg (fun v : Word => State.cmdDone (s.setCmd { c with started := true })
      c.seq stOk v.toNat) (regValue_host s _ hp c.regOff))
  · exact h.ends rfl
  · rw [hoff, ← ofNat_and (c.arg 1)]
    exact ringWrite_evtEn h hp ho _
  · refine show Ends (execWriteInline seq s) _ from runOn_ends_of h.serves.on ?_
    rw [h.cmd]
    exact (if_neg (by simp [hr])).trans ((h.runCmd _).trans (if_pos hi))
  · refine show Ends (execWriteInline seq s) _ from runOn_ends_of h.serves.on ?_
    rw [h.cmd]
    exact if_pos (by simp [hi, hr])
  · refine show Ends (execWriteInline seq s) _ from runOn_ends_of h.serves.on ?_
    rw [h.cmd]
    exact (if_neg (by simp [hi])).trans ((h.runCmd _).trans (if_neg (ne_true_of_eq_false hi)))
  · refine show Ends (execCopy seq s) _ from runOn_ends_of h.serves.on ?_
    rw [h.cmd]
    exact (if_neg (by simp [hr.1, hr.2])).trans ((h.runCmd _).trans (if_pos (by simp [hok.1, hok.2])))
  · refine show Ends (execCopy seq s) _ from runOn_ends_of h.serves.on ?_
    rw [h.cmd]
    exact if_pos (by rcases not_and_or.1 hr with h | h <;> simp [hok.1, hok.2, h])
  · refine show Ends (execCopy seq s) _ from runOn_ends_of h.serves.on ?_
    rw [h.cmd]
    have hok' : ¬(inStacks (c.arg 0) (c.arg 2) && inStacks (c.arg 1) (c.arg 2)) = true := by simpa using hok
    exact (if_neg (by simp [hok'])).trans ((h.runCmd _).trans (if_neg hok'))
  · exact show Ends (execFlush seq s) _ from runOn_ends_of h.serves.on (if_pos hd)
  · exact show Ends (execFlush seq s) _ from runOn_ends_of h.serves.on ((State.awake_light hd _).trans ((h.runCmd _).trans
      (if_pos hi)))
  · exact show Ends (execFlush seq s) _ from runOn_ends_of h.serves.on ((State.awake_light hd _).trans ((h.runCmd _).trans
      (if_neg (ne_true_of_eq_false hi))))
  · exact show Ends (execJournalCopy seq s) _ from runOn_ends_of h.serves.on (if_pos hd)
  · exact show Ends (execJournalCopy seq s) _ from runOn_ends_of h.serves.on ((State.awake_light hd _).trans ((h.runCmd _).trans
      (if_pos hi)))
  · exact show Ends (execJournalCopy seq s) _ from runOn_ends_of h.serves.on ((State.awake_light hd _).trans ((h.runCmd _).trans
      (if_neg (ne_true_of_eq_false hi))))
  · exact State.Idle.ends h hs _
  · exact State.Idle.ends h hs _
  · exact State.Idle.ends h hs _
  · exact State.Idle.ends h hs _
  · exact writeInline_idle hs h
  · exact copy_idle hs h
  · exact flush_idle hs h
  · exact journalCopy_idle hs h
  · exact show Ends (execSqDoorbell o v s) _ from runOn_ends hs.on _
  · exact show Ends (execCqDoorbell o v s) _ from runOn_ends hs.on _
  · exact show Ends (execRingEnable o v s) _ from runOn_ends hs.on _
  · exact show Ends (execRingDisable o v s) _ from runOn_ends hs.on _
  · exact sqDoorbell_tail hd v hr hst
  · exact cqDoorbell_head hd v hr hst hn
  · exact enable_outside hd v hr ha hi
  · exact enable_sound hd v hr ha hi rcb hp
  · exact enable_unsound hd v hr ha hi hp
  · exact enable_detached hd v hr ha
  · exact enable_again hd v hr hst
  · exact disable_empty hd v hr hc

end Sys2Proof.Machine
end

section
/-!
PROOF. RDMA packets (Section 11.6).
-/
namespace Sys2Proof.Machine

/-! ## Reception -/

/-- A packet that has been counted at its port. -/
def State.rxCount (s : State) (k : RocePkt) : State := s.bump64 (fePage k.port) 0x48 k.data.length

@[simp] theorem qp_rxCount (s : State) (k : RocePkt) (n : Nat) : (s.rxCount k).qp n = s.qp n := rfl

/-- A packet with a bad check value is counted alone. -/
def State.rxBad (s : State) (k : RocePkt) : State :=
  (((s.rxCount k).bump64 (fePage k.port) 0x68).bumpSat (fePage k.port) offErrCount).raise (fePage k.port) 3

theorem rxOk_sound {s : State} {k : RocePkt} (hd : s.dusk = false) (hk : k.icrcOk = true) : s.rxOk k = (true, s.rxCount k) :=
  (if_neg (ne_true_of_eq_false hd)).trans (if_pos hk)

theorem rxOk_bad {s : State} {k : RocePkt} (hd : s.dusk = false) (hk : k.icrcOk = false) : s.rxOk k = (false, s.rxBad k) :=
  (if_neg (ne_true_of_eq_false hd)).trans (if_neg (ne_true_of_eq_false hk))

theorem rxOk_dusk {s : State} {k : RocePkt} (hd : s.dusk = true) : s.rxOk k = (false, s) := if_pos hd

/-! ## Requests -/

/-- A request whose queue pair takes requests from its port. -/
def State.takes (s : State) (k : RocePkt) : Prop :=
  k.icrcOk = true ∧ ((s.qp k.qpn).state = 2 ∨ (s.qp k.qpn).state = 3) ∧ (s.qp k.qpn).port = k.port

/-- How far a request is ahead of the number expected. -/
def State.aheadOf (s : State) (k : RocePkt) : Nat := (k.psn + 2 ^ 24 - (s.qp k.qpn).expPsn) % 2 ^ 24

section
variable {s : State} {k : RocePkt} (n : Nat) (write : Bool) (f : State → State) (hd : s.dusk = false)
include hd

theorem request_bad (hk : k.icrcOk = false) : s.request_ k n write f = s.rxBad k := by
  unfold State.request_
  rw [rxOk_bad hd hk]
  rfl

theorem request_refused (hk : k.icrcOk = true) (ht : ¬s.takes k) : s.request_ k n write f = s.rxCount k := by
  unfold State.request_
  rw [rxOk_sound hd hk]
  refine if_pos ?_
  have hq : (s.rxCount k).qp k.qpn = s.qp k.qpn := rfl
  rw [hq]
  simp only [State.takes, hk, true_and, not_and_or, not_or] at ht
  simp only [Bool.not_true, Bool.false_or, Bool.or_eq_true, Bool.not_eq_true', Bool.or_eq_false_iff, beq_eq_false_iff_ne, bne_iff_ne]
  exact ht

/-- A request that its queue pair takes. -/
theorem request_taken (ht : s.takes k) : s.request_ k n write f =
    if s.aheadOf k != 0 then
      if s.aheadOf k < 2 ^ 23 then ((s.rxCount k).ecn k).say (.roce k.qpn 1 (s.qp k.qpn).expPsn [])
      else if write then ((s.rxCount k).ecn k).say (.roce k.qpn 0 k.psn [])
      else if ((s.rxCount k).ecn k).mrOk k.key k.addr k.len false then f ((s.rxCount k).ecn k) else (s.rxCount k).ecn k
    else if !((s.rxCount k).ecn k).mrOk k.key k.addr k.len write then
      ((((s.rxCount k).ecn k).say (.roce k.qpn 2 k.psn [])).raise (fePage k.port) 4).qpError k.qpn
    else f (((s.rxCount k).ecn k).setQp k.qpn { s.qp k.qpn with expPsn := ((s.qp k.qpn).expPsn + n) % 2 ^ 24 }) := by
  obtain ⟨hk, hst, hp⟩ := ht
  unfold State.request_
  rw [rxOk_sound hd hk]
  refine if_neg ?_
  have hq : (s.rxCount k).qp k.qpn = s.qp k.qpn := rfl
  rw [hq, hp]
  rcases hst with h | h <;> simp [h]

end

theorem writeRequest_ends {s t : State} {k : RocePkt} (hp : k.port < 2) (hs : s.Serves)
    (hr : s.rangeReady k.addr k.data.length = true)
    (h : (s.request_ k 1 true fun s => (s.devWrite k.addr (sound k.data) 5 (.fe k.port)).say (.roce k.qpn 0 k.psn [])) = t) :
    Ends (exec (.rdmaWriteRequest k) s) t :=
  show Ends (execRdmaWriteRequest k s) t from
    runPart_ends_of (decide_eq_true hp) hs.on ((if_neg (by simp [hr])).trans h)

/-- What a READ request is answered with. -/
def State.served (k : RocePkt) (u : State) : State :=
  ((u.devRead k.addr k.len 5 (.fe k.port) false false).2.2.bump64 (fePage k.port) 0x40 k.len).say
    (.roce k.qpn 3 k.psn (u.devRead k.addr k.len 5 (.fe k.port) false false).1)

theorem readRequest_ends {s t : State} {k : RocePkt} (hp : k.port < 2) (hs : s.Serves)
    (hr : s.rangeReady k.addr k.len = true)
    (h : (s.request_ k ((s.qp k.qpn).packets k.len) false (State.served k)) = t) : Ends (exec (.rdmaReadRequest k) s) t :=
  show Ends (execRdmaReadRequest k s) t from
    runPart_ends_of (decide_eq_true hp) hs.on ((if_neg (by simp [hr])).trans h)

/-! ## The data of a READ -/

theorem ecn_qp (s : State) (k : RocePkt) (n : Nat) : (s.ecn k).qp n = s.qp n := by
  unfold State.ecn
  dsimp only
  split <;> split <;> rfl

theorem devWrite_host (s : State) (a : Nat) (d : List PByte) (cls : Nat) (ag : Agent) : (s.devWrite a d cls ag).host = s.host :=
  (congrArg State.host (devWrite_memOnly s a d cls ag).rest :)

theorem devWrite_qp (s : State) (a : Nat) (d : List PByte) (cls : Nat) (ag : Agent) (n : Nat) :
    (s.devWrite a d cls ag).qp n = s.qp n := by rw [State.qp, State.qp, devWrite_host]

/-- The first READ of a queue pair that has bytes to come. -/
def Qp.openRead (q : Qp) : Option RdmaOp := q.ops.find? fun o => !o.write && o.got < o.len

/-- Data of a READ is placed. -/
def State.readPut (s : State) (k : RocePkt) (o : RdmaOp) : State :=
  if o.hold.isSome then s else s.devWrite (o.local_ + o.got) (sound (k.data.take (o.len - o.got))) 5 (.fe k.port)

theorem readPut_qp (s : State) (k : RocePkt) (o : RdmaOp) (n : Nat) : (s.readPut k o).qp n = s.qp n := by
  unfold State.readPut
  split
  · rfl
  · exact devWrite_qp ..

/-- A READ that has taken the data of a packet. -/
def RdmaOp_taking (o : RdmaOp) (k : RocePkt) : RdmaOp :=
  { o with got := o.got + (k.data.take (o.len - o.got)).length
           data := if o.hold.isSome then o.data ++ sound (k.data.take (o.len - o.got)) else o.data }

/-- The command of an operation is told. -/
def State.opTold (s : State) (o : RdmaOp) : State := match o.seq with
  | some seq => s.cmdDone seq stOk 0
  | none => s

/-- The data of an operation goes to what holds it. -/
def State.opHeld (s : State) (hold : Option Nat) (d : List PByte) : State := match hold with
  | some key => s.holdData key d
  | none => s

/-- What data of a READ does. -/
def State.readGot (x : State) (k : RocePkt) (q : Qp) (o : RdmaOp) : State :=
  let o' := RdmaOp_taking o k
  if (o'.got ≥ o.len) && !o.intake then
    ((((x.readPut k o).setQp k.qpn { q with ops := q.ops.filter (·.id != o.id), tries := 0 }).opTold o).opHeld o.hold
      o'.data).qpSettle k.qpn
  else (x.readPut k o).setQp k.qpn { q with ops := q.ops.map (fun y => if y.id == o.id then o' else y), tries := 0 }

theorem readResponse_ends {s t : State} {k : RocePkt} {o : RdmaOp} (hp : k.port < 2) (hs : s.Serves) (hd : s.dusk = false)
    (hk : k.icrcOk = true) (h3 : (s.qp k.qpn).state = 3) (hq : (s.qp k.qpn).port = k.port)
    (ho : (s.qp k.qpn).openRead = some o) (hr : o.hold.isSome = true ∨ s.rangeReady (o.local_ + o.got) k.data.length = true)
    (ht : (if (o.psn + o.got / (s.qp k.qpn).mtu) % 2 ^ 24 != k.psn then s.rxCount k
      else ((s.rxCount k).ecn k).readGot k (s.qp k.qpn) o) = t) : Ends (exec (.rdmaReadResponse k) s) t := by
  refine show Ends (execRdmaReadResponse k s) t from runPart_ends_of (decide_eq_true hp) hs.on ?_
  have hwait : ¬((s.qp k.qpn).openRead.any fun o => o.hold.isNone && !s.rangeReady (o.local_ + o.got) k.data.length) = true := by
    rw [ho]
    rcases hr with h | h <;> simp [h, Option.isSome_iff_ne_none.1]
  refine (if_neg hwait).trans ?_
  rw [rxOk_sound hd hk]
  have hqp : (s.rxCount k).qp k.qpn = s.qp k.qpn := rfl
  refine (if_neg (by rw [hqp, h3, hq]; simp)).trans ?_
  subst ht
  rw [hqp]
  dsimp only
  rw [show List.find? _ (s.qp k.qpn).ops = some o from ho]
  dsimp only
  have hput : (State.readPut ((s.rxCount k).ecn k) k o).qp k.qpn = s.qp k.qpn := (readPut_qp ..).trans (ecn_qp ..)
  refine ite_congr rfl (fun _ => rfl) fun _ => ?_
  unfold State.readGot
  rw [← hput]
  rfl

/-! ## Answers of a peer -/

/-- An operation that an acknowledgement covers. -/
def Qp.covered (q : Qp) (k : RocePkt) (o : RdmaOp) : Bool :=
  o.write && (k.psn + 2 ^ 24 - (o.psn + q.packets o.len - 1)) % 2 ^ 24 < 2 ^ 23

/-- An acknowledgement ends what it covers. -/
def State.acked (s : State) (k : RocePkt) (q : Qp) : State :=
  ((((q.ops.filter (q.covered k)).foldl State.opTold s).setQp k.qpn
    { q with ops := q.ops.filter (fun o => !q.covered k o), tries := 0 }).qpSettle k.qpn)

/-- A packet of a peer that its queue pair's port takes does `f`. -/
def State.fromPeer (s : State) (k : RocePkt) (f : State → State) : State :=
  let r := s.rxOk k
  if !r.1 || (r.2.qp k.qpn).port != k.port then r.2 else f r.2

section
variable {s : State} {k : RocePkt} (f : State → State)

theorem fromPeer_dusk (hd : s.dusk = true) : s.fromPeer k f = s := by
  unfold State.fromPeer
  rw [rxOk_dusk hd]
  rfl

theorem fromPeer_bad (hd : s.dusk = false) (hk : k.icrcOk = false) : s.fromPeer k f = s.rxBad k := by
  unfold State.fromPeer
  rw [rxOk_bad hd hk]
  rfl

theorem fromPeer_other (hd : s.dusk = false) (hk : k.icrcOk = true) (hq : (s.qp k.qpn).port ≠ k.port) :
    s.fromPeer k f = s.rxCount k := by
  unfold State.fromPeer
  rw [rxOk_sound hd hk]
  exact if_pos (by simpa using hq)

theorem fromPeer_taken (hd : s.dusk = false) (hk : k.icrcOk = true) (hq : (s.qp k.qpn).port = k.port) :
    s.fromPeer k f = f (s.rxCount k) := by
  unfold State.fromPeer
  rw [rxOk_sound hd hk]
  exact if_neg (by simpa using hq)

end

section
variable {s t : State} {k : RocePkt} (hp : k.port < 2) (hs : s.Serves)
include hp hs

theorem roceAck_ends (h : (s.fromPeer k fun u => u.acked k (u.qp k.qpn)) = t) : Ends (exec (.roceAck k) s) t :=
  show Ends (execRoceAck k s) t from runPart_ends_of (decide_eq_true hp) hs.on h

theorem roceNak_ends {e : Bool} (h : (s.fromPeer k fun u =>
    if e then (if (u.qp k.qpn).state == 0 then u else u.qpError k.qpn) else u.goBack k.qpn k.psn) = t) :
    Ends (exec (.roceNak k e) s) t := by
  refine show Ends (execRoceNak k e s) t from runPart_ends_of (decide_eq_true hp) hs.on (Eq.trans ?_ h)
  unfold State.fromPeer
  rfl

theorem cnp_ends (h : (s.fromPeer k fun u =>
    (u.setQp k.qpn { u.qp k.qpn with rate := max 1024 ((u.qp k.qpn).rate / 2) }).bump64 (fePage k.port) 0x60) = t) :
    Ends (exec (.cnp k) s) t :=
  show Ends (execCnp k s) t from runPart_ends_of (decide_eq_true hp) hs.on h

end

/-! ## Sending again -/

/-- What sending again keeps: the operations' identities, the queue pair's state, the others, memory and tiles. -/
def State.qpKeeps (s : State) (n : Nat) : List Nat × Nat × (Nat → Option Qp) × List Host.Cell × Sparse Tile :=
  ((s.qp n).ops.map (·.id), (s.qp n).state, fun k => if k = n then none else some (s.qp k), s.mem, s.tiles)

theorem qpKeeps_setQp (s : State) (n : Nat) (q : Qp) (hi : q.ops.map (·.id) = (s.qp n).ops.map (·.id))
    (hs : q.state = (s.qp n).state) : (s.setQp n q).qpKeeps n = s.qpKeeps n := by
  unfold State.qpKeeps
  rw [qp_setQp_same, hi, hs]
  refine congrArg (fun x => (_, _, x, _)) (funext fun k => ?_)
  split
  · rfl
  · next h => rw [qp_setQp_other _ _ (Ne.symm h)]

theorem qpKeeps_sendOp (s : State) (n : Nat) (o : RdmaOp) : (s.sendOp n o).qpKeeps n = s.qpKeeps n := by
  rcases sendOp_cases s n o with h | h
  · rw [h]
  · rw [h, State.opSent]
    refine (qpKeeps_setQp (State.say (State.bump64 s _ _ _) _) n _ ?_ (by rfl)).trans rfl
    show List.map _ (List.map _ (s.qp n).ops) = _
    rw [List.map_map]
    exact List.map_congr_left fun x _ => by simp only [Function.comp]; split <;> rfl

/-- Sending the late operations of a queue pair again. -/
def State.sendAgain (s : State) (n : Nat) (late : RdmaOp → Bool) : State :=
  let q := s.qp n
  let again := q.ops.filter late
  let t := (s.bump64 (fePage q.port) 0x50 (again.foldl (fun m o => m + q.packets o.len) 0)).setQp n
    { q with ops := q.ops.map fun o => if late o then { o with sent := false } else o }
  again.foldl (fun s o => s.sendOp n { o with sent := false }) t

theorem qpKeeps_sendAgain (s : State) (n : Nat) (late : RdmaOp → Bool) : (s.sendAgain n late).qpKeeps n = s.qpKeeps n := by
  unfold State.sendAgain
  dsimp only
  refine (foldl_keeps (fun u : State => u.qpKeeps n) _ (fun u (o : RdmaOp) => qpKeeps_sendOp u n { o with sent := false })
    _ _).trans ?_
  refine (qpKeeps_setQp (State.bump64 s _ _ _) n _ ?_ (by rfl)).trans rfl
  show List.map _ (List.map _ (s.qp n).ops) = _
  rw [List.map_map]
  exact List.map_congr_left fun x _ => by simp only [Function.comp]; split <;> rfl

theorem qpKeeps_goBack (s : State) (n psn : Nat) : (s.goBack n psn).qpKeeps n = s.qpKeeps n :=
  qpKeeps_sendAgain s n fun o => (o.psn + (s.qp n).packets o.len + 0xFFFFFF - psn) % 0x1000000 < 0x800000

theorem goBack_keeps (s : State) (n psn : Nat) :
    ((s.goBack n psn).qp n).ops.map (·.id) = (s.qp n).ops.map (·.id) ∧ ((s.goBack n psn).qp n).state = (s.qp n).state ∧
    (∀ k, k ≠ n → (s.goBack n psn).qp k = s.qp k) ∧ (s.goBack n psn).mem = s.mem ∧ (s.goBack n psn).tiles = s.tiles := by
  have h := qpKeeps_goBack s n psn
  simp only [State.qpKeeps, Prod.mk.injEq] at h
  obtain ⟨hi, hst, hk, hm, ht⟩ := h
  refine ⟨hi, hst, fun k hne => ?_, hm, ht⟩
  simpa only [if_neg hne, Option.some.injEq] using congrFun hk k

theorem retransmit_ends {s t : State} {n : Nat} (hn : n < 2048) (hs : s.Serves) {o : RdmaOp} {rest : List RdmaOp}
    (ho : (s.qp n).ops = o :: rest) (ht : (if (s.qp n).tries ≥ (s.qp n).retry then s.qpError n
      else (s.setQp n { s.qp n with tries := (s.qp n).tries + 1 }).goBack n o.psn) = t) :
    Ends (exec (.retransmitTimeout n) s) t := by
  refine show Ends (execRetransmitTimeout n s) t from runPart_ends_of (decide_eq_true hn) hs.on ?_
  have hh : (s.qp n).ops.head? = some o := by rw [ho]; rfl
  dsimp only
  rw [hh]
  exact ht

theorem retransmit_none {s : State} {n : Nat} (hn : n < 2048) (hs : s.Serves) (ho : (s.qp n).ops = []) :
    Ends (exec (.retransmitTimeout n) s) s := by
  refine show Ends (execRetransmitTimeout n s) s from runPart_ends_of (decide_eq_true hn) hs.on ?_
  have hh : (s.qp n).ops.head? = none := by rw [ho]; rfl
  dsimp only
  rw [hh]

theorem rateIncrease_ends {s t : State} {n : Nat} (hn : n < 2048) (hs : s.Serves)
    (ht : (if (s.qp n).state == 0 then s else s.setQp n { s.qp n with rate := min 819200 ((s.qp n).rate + 5120) }) = t) :
    Ends (exec (.rateIncrease n) s) t :=
  show Ends (execRateIncrease n s) t from runPart_ends_of (decide_eq_true hn) hs.on ht

theorem not_ahead {n : Nat} (h : n = 0) : ¬(n != 0) = true := by simp [h]

theorem not_bnot {b : Bool} (h : b = true) : ¬(!b) = true := by simp [h]

theorem bnot_of {b : Bool} (h : b = false) : (!b) = true := by simp [h]

theorem ahead_far {n : Nat} (h : 2 ^ 23 ≤ n) : (n != 0) = true := bne_iff_ne.2 fun h0 => absurd (h0 ▸ h) (by decide)

theorem readResponse_waits {s : State} {k : RocePkt} {o : RdmaOp} (hp : k.port < 2) (hs : s.Serves)
    (ho : (s.qp k.qpn).openRead = some o) (hh : o.hold = none)
    (hr : s.rangeReady (o.local_ + o.got) k.data.length = false) : Ends (exec (.rdmaReadResponse k) s) s := by
  refine show Ends (execRdmaReadResponse k s) s from runPart_ends_of (decide_eq_true hp) hs.on (if_pos ?_)
  show ((s.qp k.qpn).openRead.any fun o => o.hold.isNone && !s.rangeReady (o.local_ + o.got) k.data.length) = true
  rw [ho]
  simp [hh, hr]

/-- Settles O35. -/
theorem rdmaFamilyCompletes : Obligations.RdmaFamilyCompletes := by
  refine ⟨fun s k hp hs hd => ⟨fun hr => ?_, fun hr => ⟨fun hk => ?_, fun hk ht => ?_, fun ht ha hm => ?_, fun ht ha hm => ?_,
      fun ht h0 ha => ?_, fun ht ha => ?_⟩, fun hr => ?_, fun hr => ⟨fun hk => ?_, fun hk ht => ?_, fun ht ha hm => ?_,
      fun ht ha hm => ?_, fun ht h0 ha => ?_, fun ht ha hm => ?_, fun ht ha hm => ?_⟩⟩,
    fun s k o hp hs hd hk h3 hq ho => ⟨fun hh hr => ?_, fun hr => ⟨fun hne => ?_, fun heq => ⟨fun hf hi => ?_, fun hf => ?_⟩⟩⟩,
    fun s k hp hs => ⟨fun hd => ?_, fun hd hk => ?_, fun hd hk hq => ?_, fun hd hk hq => ?_⟩,
    fun s n hn hs => ⟨fun ho => retransmit_none hn hs ho, fun o rest ho ht => ?_, fun o rest ho ht => ?_, fun h0 => ?_,
      fun h0 => ?_⟩,
    fun s n psn => goBack_keeps s n psn, fun s p prio hp hprio hs => ⟨?_, ?_⟩⟩
  · exact show Ends (execRdmaWriteRequest k s) s from runPart_ends_of (decide_eq_true hp) hs.on (if_pos (by simp [hr]))
  · exact writeRequest_ends hp hs hr (request_bad _ _ _ hd hk)
  · exact writeRequest_ends hp hs hr (request_refused _ _ _ hd hk ht)
  · exact writeRequest_ends hp hs hr ((request_taken _ _ _ hd ht).trans ((if_neg (not_ahead ha)).trans
      (if_neg (not_bnot hm))))
  · exact writeRequest_ends hp hs hr ((request_taken _ _ _ hd ht).trans ((if_neg (not_ahead ha)).trans
      (if_pos (bnot_of hm))))
  · exact writeRequest_ends hp hs hr ((request_taken _ _ _ hd ht).trans ((if_pos (bne_iff_ne.2 h0)).trans (if_pos ha)))
  · exact writeRequest_ends hp hs hr ((request_taken _ _ _ hd ht).trans ((if_pos (ahead_far ha)).trans
      ((if_neg (Nat.not_lt.2 ha)).trans (if_pos rfl))))
  · exact show Ends (execRdmaReadRequest k s) s from runPart_ends_of (decide_eq_true hp) hs.on (if_pos (by simp [hr]))
  · exact readRequest_ends hp hs hr (request_bad _ _ _ hd hk)
  · exact readRequest_ends hp hs hr (request_refused _ _ _ hd hk ht)
  · exact readRequest_ends hp hs hr ((request_taken _ _ _ hd ht).trans ((if_neg (not_ahead ha)).trans
      (if_neg (not_bnot hm))))
  · exact readRequest_ends hp hs hr ((request_taken _ _ _ hd ht).trans ((if_neg (not_ahead ha)).trans
      (if_pos (bnot_of hm))))
  · exact readRequest_ends hp hs hr ((request_taken _ _ _ hd ht).trans ((if_pos (bne_iff_ne.2 h0)).trans (if_pos ha)))
  · exact readRequest_ends hp hs hr ((request_taken _ _ _ hd ht).trans ((if_pos (ahead_far ha)).trans
      ((if_neg (Nat.not_lt.2 ha)).trans ((if_neg (by decide)).trans (if_pos hm)))))
  · exact readRequest_ends hp hs hr ((request_taken _ _ _ hd ht).trans ((if_pos (ahead_far ha)).trans
      ((if_neg (Nat.not_lt.2 ha)).trans ((if_neg (by decide)).trans (if_neg (ne_true_of_eq_false hm))))))
  · exact readResponse_waits hp hs ho hh hr
  · exact readResponse_ends hp hs hd hk h3 hq ho hr (if_pos (by simpa using hne))
  · exact readResponse_ends hp hs hd hk h3 hq ho hr ((if_neg (by simpa using heq)).trans (if_pos (by
      simp only [hi, Bool.not_false, Bool.and_true, decide_eq_true_eq]; exact hf)))
  · exact readResponse_ends hp hs hd hk h3 hq ho hr ((if_neg (by simpa using heq)).trans (if_neg (by
      simp only [Bool.and_eq_true, decide_eq_true_eq, Bool.not_eq_true', not_and, Bool.not_eq_false]
      exact fun hge => hf.resolve_left (Nat.not_lt.2 hge))))
  · exact ⟨roceAck_ends hp hs (fromPeer_dusk _ hd), roceNak_ends hp hs (fromPeer_dusk _ hd),
      roceNak_ends hp hs (fromPeer_dusk _ hd), cnp_ends hp hs (fromPeer_dusk _ hd)⟩
  · exact ⟨roceAck_ends hp hs (fromPeer_bad _ hd hk), roceNak_ends hp hs (fromPeer_bad _ hd hk),
      roceNak_ends hp hs (fromPeer_bad _ hd hk), cnp_ends hp hs (fromPeer_bad _ hd hk)⟩
  · exact ⟨roceAck_ends hp hs (fromPeer_other _ hd hk hq), roceNak_ends hp hs (fromPeer_other _ hd hk hq),
      roceNak_ends hp hs (fromPeer_other _ hd hk hq), cnp_ends hp hs (fromPeer_other _ hd hk hq)⟩
  · exact ⟨roceAck_ends hp hs (fromPeer_taken _ hd hk hq),
      roceNak_ends hp hs ((fromPeer_taken _ hd hk hq).trans ((if_pos rfl).trans
        (ite_congr (propext beq_iff_eq) (fun _ => rfl) fun _ => rfl))),
      roceNak_ends hp hs (fromPeer_taken _ hd hk hq), cnp_ends hp hs (fromPeer_taken _ hd hk hq)⟩
  · exact retransmit_ends hn hs ho (if_neg (Nat.not_le.2 ht))
  · exact retransmit_ends hn hs ho (if_pos ht)
  · exact rateIncrease_ends hn hs (if_pos (by simpa using h0))
  · exact rateIncrease_ends hn hs (if_neg (by simpa using h0))
  · exact show Ends (execPriorityFlowControl p prio true s) _ from runPart_ends_of (by simp [hp, hprio]) hs.on rfl
  · exact show Ends (execPriorityFlowControl p prio false s) _ from runPart_ends_of (by simp [hp, hprio]) hs.on rfl

end Sys2Proof.Machine
end

section
/-!
PROOF. Module maps (Section 10.2).
-/
namespace Sys2Proof.Machine

/-! ## What a search for a snapshot and READY keep -/

/-- The module maps, memory, the tiles, the Gnomon, and the register that shows the staged map. -/
def State.mapKeeps (s : State) : Option (List Nat) × Option (List Nat) × List Host.Cell × Sparse Tile × Gnomon × Word :=
  (s.ray.staged, s.ray.map, s.mem, s.tiles, s.gn, s.rd rayComPage 0x13C)

theorem mapKeeps_ask (s : State) (dst op arg : Nat) (body : List Byte) (want : MgmtWant) (at_ left : Nat) :
    (s.ask dst op arg body want at_ left).mapKeeps = s.mapKeeps := rfl

theorem mapKeeps_askPartner (s : State) (phys : Nat) (restore : Bool) : (s.askPartner phys restore).mapKeeps = s.mapKeeps := by
  unfold State.askPartner
  exact foldl_keeps State.mapKeeps _ (fun s (r : Nat × Nat) => mapKeeps_ask s phys 1 _ [] (.partner r.1) 0 0) _ _

theorem mapKeeps_wrN (s : State) {page off v : Nat} (h : regKey page off ≠ regKey rayComPage 0x13C) :
    (s.wrN page off v).mapKeeps = s.mapKeeps := by
  simp only [State.mapKeeps, State.wrN]
  rw [State.rd_wr_key _ _ h]
  rfl

theorem mapKeeps_bump64_fe (s : State) (p n : Nat) (hp : p < 2) : (s.bump64 (fePage p) 0x40 n).mapKeeps = s.mapKeeps := by
  unfold State.bump64 State.wr64
  refine (mapKeeps_wrN _ ?_).trans (mapKeeps_wrN s ?_) <;> simp only [regKey, fePage, rayComPage] <;> omega

theorem mapKeeps_sendOp (s : State) (n : Nat) (o : RdmaOp) : (s.sendOp n o).mapKeeps = s.mapKeeps := by
  rcases sendOp_cases s n o with h | h
  · rw [h]
  · rw [h]
    exact mapKeeps_bump64_fe s _ _ (Nat.mod_lt _ (by decide))

theorem mapKeeps_storeRead (s : State) (remote len key : Nat) : (s.storeRead remote len key).mapKeeps = s.mapKeeps :=
  mapKeeps_sendOp _ _ _

/-- A module that is not a parked master: READY does not lead on to a restore. -/
def State.Quiet (s : State) : Prop := s.holdState ≠ 3 ∨ s.gn.master = false

theorem mapKeeps_tryReady {s : State} (h : s.Quiet) : s.tryReady.mapKeeps = s.mapKeeps := by
  unfold State.tryReady
  split
  · rfl
  · next hn =>
    have hm : s.gn.master = false := h.resolve_left fun h3 => hn (by simp [h3])
    dsimp only
    rw [if_pos (by simp [hm])]
    generalize List.foldl _ _ s.pen.ready = m
    split
    · rfl
    · unfold State.penUp
      split <;> rfl

theorem mapKeeps_seek {s : State} (h : s.Quiet) : s.seek.mapKeeps = s.mapKeeps := by
  unfold State.seek
  split
  · split
    · rfl
    · next hn =>
      have hm : s.gn.master = false := h.resolve_left fun h3 => hn (by simp [h3])
      dsimp only
      split
      · exact mapKeeps_askPartner (s.modPen fun p => { p with sought := true }) _ _
      · refine Eq.trans (?_ : _ = (s.modPen fun p => { p with sought := true }).mapKeeps) rfl
        unfold State.seekStorage
        split
        · rfl
        · split
          · exact mapKeeps_tryReady (s := s.modPen fun p => { p with sought := true }) (.inr hm)
          · exact foldl_keeps State.mapKeeps _ (fun u k => mapKeeps_storeRead u _ 256 _) _ _
  · rfl

theorem seek_quiet {s : State} (h : s.Quiet) : s.seek.Quiet := by
  rcases h with h | h
  · have hs : s.seek = s := by
      unfold State.seek
      split
      · exact if_pos (by simp [h])
      · rfl
    rw [hs]
    exact .inl h
  · have hg : s.seek.gn = s.gn := by
      have hk := mapKeeps_seek (s := s) (.inr h)
      simp only [State.mapKeeps, Prod.mk.injEq] at hk
      exact hk.2.2.2.2.1
    exact .inr (hg ▸ h)

/-! ## MODMAP_CMD -/

/-- An order to MODMAP_CMD where module maps are free. -/
theorem order_modmap {s : State} {o : Origin} (hd : anyButDebug (roleOf o) = true) (hf : s.modmapFree = true) {v : Word}
    {g : State → State}
    (hact : ∀ j n, (s.journaled j n).actRayCom 0x138 3 (v.toNat &&& 3) = g (s.journaled j n)) :
    Answered (g (s.accept o rayComPage 0x138 v).2.2) (s.order o rayComPage 0x138 v) :=
  order_allOf (by decide) (fun h => absurd h (by decide)) (m := 3) (by decide) (fun j n => by
    show allOf 3 (anyButDebug (roleOf o) && s.modmapFree) = _
    rw [hd, hf]; rfl) (fun j n => congrArg (Prod.mk stOk) (hact j n)) (by decide)

/-- What the accepted map command leaves of what a module map is. -/
theorem Answered.mapKeeps {s u : State} (h : Answered s u) : u.mapKeeps = s.mapKeeps := by
  obtain ⟨j, n, c, l, rfl⟩ := h; rfl

/-- The module map that the staging area of a module holds. -/
def State.mapRead (s : State) : List Nat :=
  let a := s.field rayComPage 0x130 31 4 * 16 + s.field rayComPage 0x134 15 0 * 2 ^ 32
  (List.range (s.peekN (a + 4) 2 % 2 ^ 15)).map fun n => s.peekN (a + 16 + 2 * n) 2 % 2 ^ 15

/-- No entry of a list without repetition stands in front of itself. -/
theorem indexed_nodup {l : List Nat} (h : l.Nodup) : ((indexed l).any fun x => (l.take x.1).contains x.2) = false := by
  refine List.any_eq_false.2 fun x hx => ?_
  obtain ⟨i, hi, rfl⟩ := List.mem_iff_getElem.1 hx
  have hil : i < l.length := by simpa [indexed] using hi
  simp only [indexed, List.getElem_zip, List.getElem_range, List.contains_iff_mem]
  intro hm
  obtain ⟨j, hj, hje⟩ := List.mem_iff_getElem.1 hm
  rw [List.length_take] at hj
  rw [List.getElem_take, h.getElem_inj_iff] at hje
  omega

/-- Why a module map is refused; 0 where it is not. -/
def mapWhy (top : Nat) (l : List Nat) : Nat :=
  if l.length == 0 || l.length > 20480 then 1
  else if l.any (fun p => p ≥ top) then 2
  else if (indexed l).any (fun x => (l.take x.1).contains x.2) then 3 else 0

theorem modmapStage_eq {s : State} (hf : s.modmapFree = true) : s.modmapStage =
    if mapWhy (s.dims.1 * s.dims.2.1 * s.dims.2.2) s.mapRead != 0 then
      s.setField rayComPage 0x13C 3 1 (1 + 2 * mapWhy (s.dims.1 * s.dims.2.1 * s.dims.2.2) s.mapRead)
    else State.raise { (s.setField rayComPage 0x13C 3 1 0).setFlag rayComPage 0x13C 0 true with
      ray := { s.ray with staged := some s.mapRead } } sparePage 1 := by
  have hm : s.mapRead.length = s.peekN (s.field rayComPage 0x130 31 4 * 16 + s.field rayComPage 0x134 15 0 * 2 ^ 32 + 4) 2
      % 2 ^ 15 := by simp only [State.mapRead, List.length_map, List.length_range]
  unfold mapWhy
  rw [hm]
  exact if_neg (by simp [hf])

theorem mapWhy_sound {top : Nat} {l : List Nat} (hne : l ≠ []) (hlen : l.length ≤ 20480) (hin : ∀ m ∈ l, m < top)
    (hnd : l.Nodup) : mapWhy top l = 0 := by
  have h0 : l.length ≠ 0 := fun h => hne (List.length_eq_zero_iff.1 h)
  have hany : (l.any fun p => decide (p ≥ top)) = false := List.any_eq_false.2 fun p hp => by simpa using hin p hp
  refine (if_neg (by simp only [Bool.or_eq_true, beq_iff_eq, decide_eq_true_eq]; omega)).trans ?_
  exact (if_neg (ne_true_of_eq_false hany)).trans (if_neg (ne_true_of_eq_false (indexed_nodup hnd)))

/-- A staged map is shown with its error field clear. -/
theorem field_staged (x : Nat) : bits (setBits (setBits x 3 1 0) 0 0 1) 3 0 = 1 := by
  refine Nat.eq_of_testBit_eq fun i => ?_
  simp only [testBit_bits, testBit_setBits _ _ _ _ _ (Nat.le_refl 0), testBit_setBits _ _ _ _ _ (show 1 ≤ 3 by decide)]
  rcases i with _ | i
  · rfl
  · rw [Nat.zero_add, if_neg (by omega)]
    by_cases h : i + 1 < 4
    · rw [if_pos (by omega)]
      simp [Nat.testBit_succ]
    · simp [h, Nat.testBit_succ]

section
variable {s : State} {o : Origin} (hd : anyButDebug (roleOf o) = true) (hf : s.modmapFree = true)
include hd hf

/-- What an order that stages a module map leaves of module maps. -/
theorem modmapStage_keeps (hst : ∀ j n, (s.journaled j n).modmapStage.Quiet) :
    ∃ j n, (s.order o rayComPage 0x138 1).mapKeeps = (s.journaled j n).modmapStage.mapKeeps := by
  obtain ⟨-, j, n, hh⟩ := accept_journaled s o rayComPage 0x138 1
  have h := order_modmap hd hf (v := 1) (g := fun u => u.modmapStage.seek.tryReady) fun _ _ => rfl
  rw [hh] at h
  exact ⟨j, n, h.mapKeeps.trans ((mapKeeps_tryReady (seek_quiet (hst j n))).trans (mapKeeps_seek (hst j n)))⟩

theorem modmapWithdraw_keeps (hst : ∀ j n, (s.journaled j n).modmapWithdraw.Quiet) :
    ∃ j n, (s.order o rayComPage 0x138 2).mapKeeps = (s.journaled j n).modmapWithdraw.mapKeeps := by
  obtain ⟨-, j, n, hh⟩ := accept_journaled s o rayComPage 0x138 2
  have h := order_modmap hd hf (v := 2) (g := fun u => u.modmapWithdraw.tryReady) fun _ _ => rfl
  rw [hh] at h
  exact ⟨j, n, h.mapKeeps.trans (mapKeeps_tryReady (hst j n))⟩

end

/-- A module stays quiet while neither the page of Penumbra nor the Gnomon changes. -/
theorem State.Quiet.of {s u : State} (h : s.Quiet) (hr : u.rd penPage offStatus = s.rd penPage offStatus) (hg : u.gn = s.gn) :
    u.Quiet := by
  refine h.imp (fun h3 => ?_) fun hm => hg ▸ hm
  rwa [State.holdState, State.field, rdN_of_rd hr]

/-- The module maps after the order, as the statement reads them. -/
theorem of_mapKeeps {u t : State} (h : u.mapKeeps = t.mapKeeps) : u.ray.staged = t.ray.staged ∧ u.ray.map = t.ray.map ∧
    u.mem = t.mem ∧ u.tiles = t.tiles ∧ u.rdN rayComPage 0x13C = t.rdN rayComPage 0x13C := by
  simp only [State.mapKeeps, Prod.mk.injEq] at h
  obtain ⟨hs, hm, hmem, ht, -, hr⟩ := h
  exact ⟨hs, hm, hmem, ht, rdN_of_rd hr⟩

/-- A write of the register that shows the staged map leaves Penumbra's status. -/
theorem rd_status_setField (s : State) (hi lo v : Nat) :
    (s.setField rayComPage 0x13C hi lo v).rd penPage offStatus = s.rd penPage offStatus := s.rd_wr_key _ (by decide)

/-- Settles O42. -/
theorem moduleMapCommandsComplete : Obligations.ModuleMapCommandsComplete := by
  intro s o hs
  refine ⟨show Ends (execModmapStage o s) _ from runOn_ends hs.on _, show Ends (execModmapWithdraw o s) _ from runOn_ends hs.on _,
    fun hd hf hq => ⟨fun hne hlen hin hnd => ?_, fun hl => ?_, ?_⟩⟩
  · have heq : ∀ j n, (s.journaled j n).modmapStage = State.raise { ((s.journaled j n).setField rayComPage 0x13C 3 1 0).setFlag
        rayComPage 0x13C 0 true with ray := { s.ray with staged := some s.mapRead } } sparePage 1 := fun j n =>
      (modmapStage_eq (s := s.journaled j n) hf).trans (if_neg (not_ahead
        (mapWhy_sound (l := (s.journaled j n).mapRead) hne hlen hin hnd)))
    obtain ⟨j, n, hk⟩ := modmapStage_keeps hd hf fun j n => by
      rw [heq]
      exact State.Quiet.of hq (((State.rd_raise_key _ (by decide)).trans (rd_status_setField _ 0 0 _)).trans
        (rd_status_setField _ 3 1 _)) rfl
    rw [heq] at hk
    obtain ⟨hst, hm, hmem, ht, hr⟩ := of_mapKeeps hk
    refine ⟨hst, ?_, hm, hmem, ht⟩
    have hreg : (State.setFlag ((s.journaled j n).setField rayComPage 0x13C 3 1 0) rayComPage 0x13C 0 true).rdN rayComPage 0x13C
        = setBits (setBits (s.rdN rayComPage 0x13C) 3 1 0) 0 0 1 := by
      refine (State.rdN_setField _ _ _ 0 0 _ (by decide) (by decide)).trans ?_
      rw [State.rdN_setField _ _ _ 3 1 _ (by decide) (by decide)]
      rfl
    rw [State.field, hr, rdN_of_rd (State.rd_raise_key _ (by decide))]
    exact (congrArg (bits · 3 0) hreg).trans (field_staged _)
  · have heq : ∀ j n, (s.journaled j n).modmapStage = (s.journaled j n).setField rayComPage 0x13C 3 1 3 := fun j n =>
      (modmapStage_eq (s := s.journaled j n) hf).trans (by
        rw [show State.mapRead (s.journaled j n) = [] from hl]; rfl)
    obtain ⟨j, n, hk⟩ := modmapStage_keeps hd hf fun j n => by
      rw [heq]
      exact State.Quiet.of hq (rd_status_setField _ 3 1 _) rfl
    rw [heq] at hk
    obtain ⟨hst, hm, hmem, ht, hr⟩ := of_mapKeeps hk
    refine ⟨hst, ?_, hm, hmem, ht⟩
    rw [State.field, hr]
    exact State.field_setField_same _ _ _ 3 1 3 (by decide) (by decide)
  · have heq : ∀ j n, (s.journaled j n).modmapWithdraw = State.setFlag { s.journaled j n with
        ray := { s.ray with staged := none } } rayComPage 0x13C 0 false := fun j n => if_neg (not_bnot hf)
    obtain ⟨j, n, hk⟩ := modmapWithdraw_keeps hd hf fun j n => by
      rw [heq]
      exact State.Quiet.of hq (rd_status_setField _ 0 0 _) rfl
    rw [heq] at hk
    obtain ⟨hst, hm, hmem, ht, hr⟩ := of_mapKeeps hk
    refine ⟨hst, ?_, hm, hmem, ht⟩
    rw [State.flag, hr]
    exact State.flag_setFlag_same _ _ _ 0 false (by decide)

end Sys2Proof.Machine
end

section
/-!
PROOF. Orders to registers (Sections 14.7, 16.1 and 16.3).
-/
namespace Sys2Proof.Machine

/-! ## REGISTER_WRITE -/

/-- The orders of one cycle that reach the register of the first. -/
def State.cycleOrders (s : State) (w : RegOrder) (rivals : List RegOrder) : List RegOrder :=
  w :: rivals.filter fun x => x.off == w.off && (x.page == w.page || (s.leafPages x).any (s.leafPages w).contains)

/-- What the orders of one cycle do. -/
def State.cycleDone (s : State) (w : RegOrder) (ws : List RegOrder) : State :=
  if ws.length == 1 || !pageAssigned w.page then ws.foldl (fun s w => s.order w.origin w.page w.off w.value) s else s.sameCycle ws

theorem registerWrite_ends {s : State} (hs : s.Serves) {w : RegOrder} (rivals : List RegOrder) (hw : Word) (hoff : w.off ≠ offEvt) :
    Ends (exec (.registerWrite w rivals hw) s) (s.cycleDone w (s.cycleOrders w rivals)) :=
  show Ends (execRegisterWrite w rivals hw s) _ from runOn_ends_of hs.on (if_neg (by simpa using hoff))

theorem registerWrite_status {s : State} (hs : s.Serves) {w : RegOrder} (rivals : List RegOrder) (hw : Word) (hoff : w.off = offEvt) :
    Ends (exec (.registerWrite w rivals hw) s) ((List.range 32).foldl (fun s i =>
      if bit hw.toNat i && bit (evtMask (pageKind w.page)) i then s.raise w.page i else s)
      (s.cycleDone w (s.cycleOrders w rivals))) :=
  show Ends (execRegisterWrite w rivals hw s) _ from runOn_ends_of hs.on (if_pos (by simpa using hoff))

/-- An order to a page of one unit: what its write does is answered. -/
theorem order_unit_answer (s : State) (o : Origin) {page : Nat} (off : Nat) (v : Word) (ha : pageAssigned page = true)
    (hc : isCompound page = false) :
    s.order o page off v = ((s.accept o page off v).2.2.applyWrite o page off v).2.accessEnd (s.accept o page off v).1
      (s.accept o page off v).2.1 ((s.accept o page off v).2.2.applyWrite o page off v).1 none := by
  have hs : isSystemUnit page = false := by
    simp only [isCompound, isSystemUnit, Bool.and_eq_false_iff, decide_eq_false_iff_not] at hc ⊢
    omega
  simp [State.order, State.writeAny, hs, State.writeNow, ha, hc]

/-! ## What orders to EVT_ENABLE keep -/

/-- The tiles, memory, the slices, the Gnomon and admission; and what fails. -/
def State.orderKeeps (s : State) : Sparse Tile × List Host.Cell × Sparse Slice × Gnomon × Adm × List Nat × Sparing :=
  (s.tiles, s.mem, s.slices, s.gn, s.adm, s.failing, s.spare)

/-- What a command whose target keeps that leaves. -/
theorem gives_of_orderKeeps {s t : State} {x : Host.Outcome State Fault Refusal} (hs : s.Serves) (he : Ends x t)
    (hk : t.orderKeeps = s.orderKeeps) {P : State → Prop} (hP : ∀ u, Tail t u → P u) :
    Gives x fun u => P u ∧ u.tiles = s.tiles ∧ u.mem = s.mem ∧ u.slices = s.slices ∧ u.gn = s.gn ∧ u.adm = s.adm := by
  simp only [State.orderKeeps, Prod.mk.injEq] at hk
  obtain ⟨htiles, hmem, hsl, hgn, hadm, hf, hsp⟩ := hk
  refine he.gives (State.spared_of (hf.trans hs.settled.2.1) ((congrArg Sparing.spent hsp).trans hs.settled.2.2)) fun u hu => ⟨hP u hu, ?_⟩
  exact ⟨(congrArg State.tiles hu.body :).trans htiles, (congrArg State.mem hu.body :).trans hmem,
    (congrArg State.slices hu.body :).trans hsl, (congrArg State.gn hu.body :).trans hgn,
    (congrArg State.adm hu.body :).trans hadm⟩

/-- The end of a command leaves EVT_ENABLE. -/
theorem Tail.evtEn {t u : State} (h : Tail t u) (page : Nat) : u.rd page offEvtEn = t.rd page offEvtEn :=
  h.reg page offEvtEn (by decide) (by simp [tailRegs, offEvtEn, offStatus, offEvt])

theorem Tail.mem_out {t u : State} (h : Tail t u) {m : Out} (hm : m ∈ t.out) : m ∈ u.out := by
  obtain ⟨l, hl, -⟩ := h.out
  exact hl ▸ List.mem_append_left l hm

theorem Tail.nextSeq {t u : State} (h : Tail t u) : u.host.nextSeq = t.host.nextSeq :=
  (congrArg (fun s : State => s.host.nextSeq) h.body :)

/-! ## The journal's numbers -/

/-- The SEQ of each slot of the journal, and the next. -/
def State.ledger (s : State) : (Nat → Option Nat) × Nat := (fun i => (sfind s.host.journal i).map (·.seq), s.host.nextSeq)

/-- The journal still holds an entry. -/
def State.Holds (s : State) (n : Nat) : Prop := s.ledger.1 (n % 65536) = some n

theorem ledger_put (s : State) {n : Nat} {x y : JEnt} (h : sfind s.host.journal n = some x) (hy : y.seq = x.seq) :
    State.ledger { s with host := { s.host with journal := sput s.host.journal n y } } = s.ledger := by
  refine Prod.ext (funext fun i => ?_) rfl
  show (sfind (sput s.host.journal n y) i).map _ = (sfind s.host.journal i).map _
  by_cases hi : n = i
  · subst hi
    rw [sfind_sput_same, h, Option.map_some, Option.map_some, hy]
  · rw [sfind_sput_other _ _ hi]

theorem ledger_jFinish {s : State} {n : Nat} (h : s.Holds n) (st r : Nat) (e : JEnt) : (s.jFinish n st r e).ledger = s.ledger := by
  obtain ⟨x, hx, hseq⟩ := Option.map_eq_some_iff.1 h
  have he : s.jFinish n st r e = s.journaled (sput s.host.journal (n % 65536)
      { x with status := st, gtDone := s.gn.count, result := r % 2 ^ 32 }) s.host.nextSeq := by
    unfold State.jFinish
    rw [hx]
    exact if_pos (by simp [hseq])
  rw [he]
  exact ledger_put s hx rfl

/-- One entry of a contradiction is linked to the other. -/
def State.linkPut (s : State) (x y : Nat) : State := match sfind s.host.journal (x % 65536) with
  | some e => if e.seq == x then
      { s with host := { s.host with journal := sput s.host.journal (x % 65536) { e with link := y } } } else s
  | none => s

theorem ledger_linkPut (s : State) (x y : Nat) : (s.linkPut x y).ledger = s.ledger := by
  unfold State.linkPut
  split
  · next e h =>
    split
    · exact ledger_put s h rfl
    · rfl
  · rfl

theorem ledger_jLink (s : State) (a b : Nat) : (s.jLink a b).ledger = s.ledger :=
  (ledger_linkPut (s.linkPut a b) b a).trans (ledger_linkPut s a b)

theorem holds_append (s : State) (e : JEnt) : (s.append e).2.Holds s.host.nextSeq := by
  show (sfind (sput s.host.journal (s.host.nextSeq % 65536) { e with seq := s.host.nextSeq }) _).map _ = _
  rw [sfind_sput_same]
  rfl

/-- The next entry leaves the one before it. -/
theorem holds_append_next {s : State} {n : Nat} (h : s.Holds n) (hn : s.host.nextSeq = n + 1) (e : JEnt) :
    (s.append e).2.Holds n := by
  refine Eq.trans (congrArg (Option.map JEnt.seq) ?_) h
  show sfind (sput s.host.journal (s.host.nextSeq % 65536) _) (n % 65536) = sfind s.host.journal (n % 65536)
  exact sfind_sput_other _ _ (by omega)

/-! ## Orders to EVT_ENABLE of a tile -/

theorem notJournalled_evtEn {page : Nat} (hp : page < 0x480) : notJournalled page offEvtEn = false := by
  have hne : page ≠ hostPage := by simp only [hostPage]; omega
  have hst : page ≠ stackPage 0 := by simp only [stackPage]; omega
  simp [notJournalled, isSelector, pageKind_tile hp, hne, hst, kTile, kHost, kJrnl, kAg, kRay, kRayCom, kSlots, kTherm, kPen,
    kMgmt, kFe]

theorem tile_assigned {page : Nat} (hp : page < 0x480) : pageAssigned page = true ∧ isCompound page = false := by
  have hk : pageKind page ≠ 0 := by rw [pageKind_tile hp]; decide
  exact ⟨by simp [pageAssigned, hk], (isCompound_of_pageKind hk).1⟩

theorem fields_evtEn (s : State) (r : Role) {page : Nat} (hp : page < 0x480) (v : Nat) :
    s.fields r page offEvtEn v = allOf 0x3FFFF (anyButDebug r) := by
  have hm : evtMask kTile = 0x3FFFF := by decide
  have h : s.fields r page offEvtEn v = allOf (evtMask (pageKind page)) (anyButDebug r) := by
    unfold State.fields
    exact if_pos (show (offEvtEn == offEvt || offEvtEn == offEvtEn) = true by decide)
  rw [h, pageKind_tile hp, hm]

section
variable {s : State} {page : Nat} (hs : s.Serves) (hp : page < 0x480) (ho : s.spare.opened.contains (page / 36) = false)
include hs hp ho

theorem registerWrite_evtEn (v hw : Word) (o : Origin) (hd : anyButDebug (roleOf o) = true) :
    Gives (exec (.registerWrite { origin := o, page := page, off := offEvtEn, value := v } [] hw) s) fun u =>
      u.rdN page offEvtEn &&& 0x3FFFF = v.toNat &&& 0x3FFFF ∧
      u.tiles = s.tiles ∧ u.mem = s.mem ∧ u.slices = s.slices ∧ u.gn = s.gn ∧ u.adm = s.adm := by
  obtain ⟨hr, hk⟩ := order_evtEn_keeps s v hp hd ho
  have he := registerWrite_ends hs (w := { origin := o, page := page, off := offEvtEn, value := v }) [] hw
    (show offEvtEn ≠ offEvt by decide)
  have hkeep : (s.order o page offEvtEn v).orderKeeps = s.orderKeeps := (congrArg State.orderKeeps hk :)
  exact gives_of_orderKeeps hs he hkeep fun u hu => (congrArg (· &&& 0x3FFFF) (rdN_of_rd (hu.evtEn page))).trans hr

omit hs in
/-- An order of a debug session to EVT_ENABLE is journalled and answered ACCESS. -/
theorem order_evtEn_debug (k : Nat) (v : Word) : s.order (.debug k) page offEvtEn v =
    (State.closeEntry (s.accept (.debug k) page offEvtEn v).2.2 (s.accept (.debug k) page offEvtEn v).2.1 stAccess).say
      (.status (.debug k) stAccess) := by
  obtain ⟨ha, hc⟩ := tile_assigned hp
  have hopen : (s.accept (.debug k) page offEvtEn v).2.2.spare.opened.contains (page / 36) = false := ho
  have happ : State.applyWrite (s.accept (.debug k) page offEvtEn v).2.2 (.debug k) page offEvtEn v
      = (stAccess, (s.accept (.debug k) page offEvtEn v).2.2) := by
    unfold State.applyWrite State.mayWrite
    dsimp only
    rw [fields_evtEn _ _ hp, hopen]
    exact (if_neg (show ¬((0x3FFFF : Nat) == 0) = true by decide)).trans ((if_neg (by simp)).trans (if_pos rfl))
  rw [order_unit_answer s (.debug k) offEvtEn v ha hc, happ]
  rfl

theorem registerWrite_debug (k : Nat) (v hw : Word) :
    Gives (exec (.registerWrite { origin := .debug k, page := page, off := offEvtEn, value := v } [] hw) s) fun u =>
      (u.rd page offEvtEn = s.rd page offEvtEn ∧ Out.status (.debug k) stAccess ∈ u.out ∧ u.host.nextSeq = s.host.nextSeq + 1) ∧
      u.tiles = s.tiles ∧ u.mem = s.mem ∧ u.slices = s.slices ∧ u.gn = s.gn ∧ u.adm = s.adm := by
  have he := registerWrite_ends hs (w := { origin := .debug k, page := page, off := offEvtEn, value := v }) [] hw
    (show offEvtEn ≠ offEvt by decide)
  have hacc : ∃ e, s.accept (.debug k) page offEvtEn v = (.order (.debug k), some (s.host.nextSeq, e), (s.append e).2) := ⟨_, rfl⟩
  obtain ⟨e, hacc⟩ := hacc
  have ht : s.order (.debug k) page offEvtEn v
      = ((s.append e).2.jFinish s.host.nextSeq stAccess 0 e).say (.status (.debug k) stAccess) := by
    rw [order_evtEn_debug hp ho k v, hacc]
    rfl
  obtain ⟨j, m, hj⟩ := jFinish_journaled (s.append e).2 s.host.nextSeq stAccess 0 e
  have hseq : (s.order (.debug k) page offEvtEn v).host.nextSeq = s.host.nextSeq + 1 := by
    rw [ht]
    exact congrArg Prod.snd (ledger_jFinish (holds_append s e) stAccess 0 e)
  rw [hj] at ht
  refine gives_of_orderKeeps hs he ((congrArg State.orderKeeps ht).trans rfl) fun u hu =>
    ⟨(hu.evtEn page).trans ((congrArg (fun u : State => u.rd page offEvtEn) ht).trans rfl), hu.mem_out ?_,
      hu.nextSeq.trans hseq⟩
  show _ ∈ (s.order (.debug k) page offEvtEn v).out
  rw [ht]
  exact List.mem_append_right _ (List.mem_singleton_self _)

end

/-! ## Two orders of one cycle -/

section
variable {s : State} {page : Nat} (hp : page < 0x480) (h k : Nat) {v w : Word}

/-- An order to EVT_ENABLE. -/
def evtEnOrder (o : Origin) (page : Nat) (v : Word) : RegOrder := { origin := o, page := page, off := offEvtEn, value := v }

include hp

theorem leafPages_tile (s : State) (o : Origin) (v : Word) : s.leafPages (evtEnOrder o page v) = [page] := by
  have hk : pageKind page ≠ 0 := by rw [pageKind_tile hp]; decide
  obtain ⟨hc, hsys⟩ := isCompound_of_pageKind hk
  show (if isSystemUnit page then _ else if isCompound page then _ else [page]) = _
  rw [hc, hsys]
  rfl

theorem wouldAct_evtEn (s : State) (o : Origin) (v : Word) (hd : anyButDebug (roleOf o) = true) :
    s.wouldAct (evtEnOrder o page v) = true := by
  have hf := fields_evtEn s (roleOf o) hp v.toNat
  rw [hd] at hf
  have hf' : s.fields (roleOf (evtEnOrder o page v).origin) (evtEnOrder o page v).page (evtEnOrder o page v).off
      (evtEnOrder o page v).value.toNat = allOf 0x3FFFF true := hf
  simp [State.wouldAct, State.mayWrite, hf', allOf]

theorem winnerAt_evtEn (s : State) : s.winnerAt [evtEnOrder (.hart h) page w, evtEnOrder (.operator k) page v] page =
    some (evtEnOrder (.operator k) page v) := by
  have hh : ((s.leafPages (evtEnOrder (.hart h) page w)).contains page && s.wouldAct (evtEnOrder (.hart h) page w)) = true := by
    rw [leafPages_tile hp, wouldAct_evtEn hp _ _ _ rfl]
    simp
  have ho : ((s.leafPages (evtEnOrder (.operator k) page v)).contains page && s.wouldAct (evtEnOrder (.operator k) page v))
      = true := by
    rw [leafPages_tile hp, wouldAct_evtEn hp _ _ _ rfl]
    simp
  have hfil : [evtEnOrder (.hart h) page w, evtEnOrder (.operator k) page v].filter
      (fun x => (s.leafPages x).contains page && s.wouldAct { x with page := page })
      = [evtEnOrder (.hart h) page w, evtEnOrder (.operator k) page v] := by
    rw [List.filter_cons_of_pos (by exact hh), List.filter_cons_of_pos (by exact ho), List.filter_nil]
  exact (congrArg firstOf hfil).trans rfl

/-- The page on which an order loses to the operator's, where it does. -/
theorem lostAt_evtEn (s : State) (o : Origin) (x : Word) (hd : anyButDebug (roleOf o) = true) :
    s.lostAt [evtEnOrder (.hart h) page w, evtEnOrder (.operator k) page v] (evtEnOrder o page x) =
      if (x ^^^ v).toNat &&& 0x3FFFF != 0 then [page] else [] := by
  unfold State.lostAt
  rw [leafPages_tile hp]
  have hf := fields_evtEn s (roleOf o) hp x.toNat
  rw [hd] at hf
  have hc : s.contradict (evtEnOrder o page x) (evtEnOrder (.operator k) page v) = ((x ^^^ v).toNat &&& 0x3FFFF != 0) := by
    show (true && true && ((x ^^^ v).toNat &&& (s.fields (roleOf o) page offEvtEn x.toNat).1) != 0) = _
    rw [hf]
    rfl
  have hw : (match s.winnerAt [evtEnOrder (.hart h) page w, evtEnOrder (.operator k) page v] page with
      | some y => s.wouldAct { evtEnOrder o page x with page := page } &&
          s.contradict { evtEnOrder o page x with page := page } { y with page := page }
      | none => false) = ((x ^^^ v).toNat &&& 0x3FFFF != 0) := by
    rw [winnerAt_evtEn hp]
    exact (congrArg₂ (· && ·) (wouldAct_evtEn hp s o x hd) hc).trans (Bool.true_and _)
  rw [List.filter_cons, List.filter_nil]
  exact ite_congr (congrArg (· = true) hw) (fun _ => rfl) fun _ => rfl

theorem writeAny_lost (t : State) (o : Origin) (a : Asker) (e : Option (Nat × JEnt)) (off : Nat) (x : Word) :
    t.writeAny o a e page off x [page] = t.accessEnd a e stSuperseded none := by
  have hk : pageKind page ≠ 0 := by rw [pageKind_tile hp]; decide
  obtain ⟨hc, hsys⟩ := isCompound_of_pageKind hk
  simp [State.writeAny, hsys, State.writeNow, pageAssigned, hk, hc]

theorem writeAny_evtEn (t : State) (o : Origin) (a : Asker) (e : Option (Nat × JEnt)) (x : Word)
    (hd : anyButDebug (roleOf o) = true) :
    t.writeAny o a e page offEvtEn x [] = (t.evtEnabled page x).accessEnd a e stOk none := by
  have hk : pageKind page ≠ 0 := by rw [pageKind_tile hp]; decide
  obtain ⟨hc, hsys⟩ := isCompound_of_pageKind hk
  simp [State.writeAny, hsys, State.writeNow, pageAssigned, hk, hc, applyWrite_evtEn x hd]

omit hp in
/-- What each order of a cycle does, once all are accepted. -/
def State.cycleStep (s : State) (ws : List RegOrder) (l : List (RegOrder × Asker × Option (Nat × JEnt))) (t : State)
    (x : RegOrder × Asker × Option (Nat × JEnt)) : State :=
  let lost := s.lostAt ws x.1
  let t := t.raiseIf (!lost.isEmpty && classOfOrigin x.1.origin == 4) hostPage 4
  let t := t.writeAny x.1.origin x.2.1 x.2.2 x.1.page x.1.off x.1.value lost
  let stands := (lost.head?.bind (s.winnerAt ws)).bind fun win => (l.find? (·.1 == win)).bind fun y => seqOf y.2
  match stands, seqOf x.2 with
  | some a, some b => t.jLink a b
  | _, _ => t

/-- The two orders once they are accepted under `n` and `n + 1`. -/
def cycleTwo (h k page n : Nat) (v w : Word) (e₁ e₂ : JEnt) : List (RegOrder × Asker × Option (Nat × JEnt)) :=
  [(evtEnOrder (.hart h) page w, .order (.hart h), some (n, e₁)),
   (evtEnOrder (.operator k) page v, .order (.operator k), some (n + 1, e₂))]

theorem cycleStep_hart (s t : State) (n : Nat) (e₁ e₂ : JEnt) (hne : (v ^^^ w).toNat &&& 0x3FFFF ≠ 0) :
    s.cycleStep [evtEnOrder (.hart h) page w, evtEnOrder (.operator k) page v] (cycleTwo h k page n v w e₁ e₂) t
      (evtEnOrder (.hart h) page w, .order (.hart h), some (n, e₁))
    = (((t.raise hostPage 4).jFinish n stSuperseded 0 e₁).say (.status (.hart h) stSuperseded)).jLink (n + 1) n := by
  unfold State.cycleStep
  dsimp only
  rw [lostAt_evtEn hp h k s (.hart h) w rfl, if_pos (by rw [BitVec.xor_comm]; exact bne_iff_ne.2 hne)]
  have hfind : (cycleTwo h k page n v w e₁ e₂).find? (·.1 == evtEnOrder (.operator k) page v)
      = some (evtEnOrder (.operator k) page v, .order (.operator k), some (n + 1, e₂)) := by
    rw [cycleTwo, List.find?_cons_of_neg (by simp [evtEnOrder]), List.find?_cons_of_pos (by simp)]
  have hst : ((List.head? [page]).bind (s.winnerAt [evtEnOrder (.hart h) page w, evtEnOrder (.operator k) page v])).bind
      (fun win => ((cycleTwo h k page n v w e₁ e₂).find? (·.1 == win)).bind fun y => seqOf y.2) = some (n + 1) := by
    rw [List.head?_cons, Option.bind_some, winnerAt_evtEn hp, Option.bind_some, hfind]
    rfl
  rw [hst]
  exact congrArg (fun t : State => t.jLink (n + 1) n) (writeAny_lost hp (t.raise hostPage 4) (.hart h) _ _ offEvtEn w)

theorem cycleStep_operator (s t : State) (n : Nat) (e₁ e₂ : JEnt) :
    s.cycleStep [evtEnOrder (.hart h) page w, evtEnOrder (.operator k) page v] (cycleTwo h k page n v w e₁ e₂) t
      (evtEnOrder (.operator k) page v, .order (.operator k), some (n + 1, e₂))
    = (t.evtEnabled page v).jFinish (n + 1) stOk 0 e₂ := by
  unfold State.cycleStep
  dsimp only
  rw [lostAt_evtEn hp h k s (.operator k) v rfl, if_neg (by simp)]
  exact writeAny_evtEn hp t (.operator k) _ _ v rfl

omit hp in
/-- The next order of a cycle is accepted. -/
def State.acceptStep (x : List (RegOrder × Asker × Option (Nat × JEnt)) × State) (w : RegOrder) :
    List (RegOrder × Asker × Option (Nat × JEnt)) × State :=
  let r := x.2.accept w.origin w.page w.off w.value
  (x.1 ++ [(w, r.1, r.2.1)], r.2.2)

omit hp in
theorem acceptStep_eq {x : List (RegOrder × Asker × Option (Nat × JEnt)) × State} {w : RegOrder} {a : Asker}
    {e : Option (Nat × JEnt)} {t : State} (h : x.2.accept w.origin w.page w.off w.value = (a, e, t)) :
    State.acceptStep x w = (x.1 ++ [(w, a, e)], t) := by
  unfold State.acceptStep
  rw [h]

omit hp in
theorem sameCycle_eq (s : State) (ws : List RegOrder) : s.sameCycle ws =
    (ws.foldl State.acceptStep ([], s)).1.foldl (State.cycleStep (ws.foldl State.acceptStep ([], s)).2 ws
      (ws.foldl State.acceptStep ([], s)).1) (ws.foldl State.acceptStep ([], s)).2 := rfl

/-- Two contradicting orders of one cycle to EVT_ENABLE of a tile, of a hart and of an operator. -/
theorem sameCycle_evtEn (s : State) (hne : (v ^^^ w).toNat &&& 0x3FFFF ≠ 0) : ∃ e₁ e₂,
    s.sameCycle [evtEnOrder (.hart h) page w, evtEnOrder (.operator k) page v] =
      (State.evtEnabled ((((((s.append e₁).2.append e₂).2.raise hostPage 4).jFinish s.host.nextSeq stSuperseded 0 e₁).say
        (.status (.hart h) stSuperseded)).jLink (s.host.nextSeq + 1) s.host.nextSeq) page v).jFinish
        (s.host.nextSeq + 1) stOk 0 e₂ := by
  have hacc : ∃ e, s.accept (.hart h) page offEvtEn w = (.order (.hart h), some (s.host.nextSeq, e), (s.append e).2) := by
    refine ⟨_, if_neg ?_⟩
    rw [notJournalled_evtEn hp]
    decide
  obtain ⟨e₁, h₁⟩ := hacc
  have hacc : ∃ e, (s.append e₁).2.accept (.operator k) page offEvtEn v
      = (.order (.operator k), some (s.host.nextSeq + 1, e), ((s.append e₁).2.append e).2) := ⟨_, rfl⟩
  obtain ⟨e₂, h₂⟩ := hacc
  refine ⟨e₁, e₂, ?_⟩
  have hstep : s.sameCycle [evtEnOrder (.hart h) page w, evtEnOrder (.operator k) page v]
      = (cycleTwo h k page s.host.nextSeq v w e₁ e₂).foldl (State.cycleStep ((s.append e₁).2.append e₂).2
        [evtEnOrder (.hart h) page w, evtEnOrder (.operator k) page v]
        (cycleTwo h k page s.host.nextSeq v w e₁ e₂)) ((s.append e₁).2.append e₂).2 := by
    have ha₁ := acceptStep_eq (x := ([], s)) (w := evtEnOrder (.hart h) page w) h₁
    have ha₂ := acceptStep_eq (x := ([(evtEnOrder (.hart h) page w, .order (.hart h), some (s.host.nextSeq, e₁))], (s.append e₁).2))
      (w := evtEnOrder (.operator k) page v) h₂
    have hl : [evtEnOrder (.hart h) page w, evtEnOrder (.operator k) page v].foldl State.acceptStep ([], s)
        = (cycleTwo h k page s.host.nextSeq v w e₁ e₂, ((s.append e₁).2.append e₂).2) := by
      rw [List.foldl_cons, ha₁, List.nil_append, List.foldl_cons, ha₂, List.foldl_nil]
      rfl
    rw [sameCycle_eq, hl]
  rw [hstep]
  refine (congrArg (State.cycleStep _ _ _ · _) (cycleStep_hart hp h k _ _ _ e₁ e₂ hne)).trans ?_
  exact cycleStep_operator hp h k _ _ _ e₁ e₂

omit hp in
theorem jLink_journaled (s : State) (a b : Nat) : ∃ j n, s.jLink a b = s.journaled j n := by
  have hput : ∀ (s : State) (x y : Nat), ∃ j n, s.linkPut x y = s.journaled j n := fun s x y => by
    unfold State.linkPut
    split
    · split <;> exact ⟨_, _, rfl⟩
    · exact ⟨s.host.journal, s.host.nextSeq, rfl⟩
  obtain ⟨j, n, h⟩ := hput s a b
  obtain ⟨j', n', h'⟩ := hput (s.linkPut a b) b a
  exact ⟨j', n', h'.trans (by rw [h]; rfl)⟩

/-- What the two orders leave, once they are accepted: the operator's value, the answer to the hart, and the journal's
numbers. -/
theorem twoDone_keeps (t : State) (v : Word) (n : Nat) (h₁ : t.Holds n) (h₂ : t.Holds (n + 1))
    (ho : t.spare.opened.contains (page / 36) = false) (e₁ e₂ : JEnt) (m : Out) :
    let u := (State.evtEnabled ((((t.raise hostPage 4).jFinish n stSuperseded 0 e₁).say m).jLink (n + 1) n) page v).jFinish
      (n + 1) stOk 0 e₂
    u.rdN page offEvtEn &&& 0x3FFFF = v.toNat &&& 0x3FFFF ∧ u.orderKeeps = t.orderKeeps ∧ m ∈ u.out ∧
      u.host.nextSeq = t.host.nextSeq := by
  intro u
  have hl : u.ledger = t.ledger := by
    have hA : ((t.raise hostPage 4).jFinish n stSuperseded 0 e₁).ledger = t.ledger := ledger_jFinish (s := t.raise hostPage 4) h₁ _ _ _
    have hB : ((((t.raise hostPage 4).jFinish n stSuperseded 0 e₁).say m).jLink (n + 1) n).ledger = t.ledger :=
      (ledger_jLink _ _ _).trans hA
    have hC : (State.evtEnabled ((((t.raise hostPage 4).jFinish n stSuperseded 0 e₁).say m).jLink (n + 1) n) page v).ledger
        = t.ledger := by
      rw [evtEnabled_regs]
      exact hB
    exact (ledger_jFinish (by unfold State.Holds; rw [hC]; exact h₂) _ _ _).trans hC
  refine ⟨?_, ?_, ?_, congrArg Prod.snd hl⟩
  all_goals
    obtain ⟨j, k, hj⟩ := jFinish_journaled (t.raise hostPage 4) n stSuperseded 0 e₁
    obtain ⟨j', k', hj'⟩ := jLink_journaled (((t.raise hostPage 4).journaled j k).say m) (n + 1) n
    obtain ⟨j₂, k₂, hj₂⟩ := jFinish_journaled (State.evtEnabled ((((t.raise hostPage 4).journaled j k).say m).journaled j' k')
      page v) (n + 1) stOk 0 e₂
    have hu : u = (State.evtEnabled ((((t.raise hostPage 4).journaled j k).say m).journaled j' k') page v).journaled j₂ k₂ := by
      rw [← hj₂, ← hj', ← hj]
    rw [hu]
  · exact rdN_evtEnabled (s := (((t.raise hostPage 4).journaled j k).say m).journaled j' k') v hp ho
  · rw [evtEnabled_regs]
    rfl
  · rw [evtEnabled_regs]
    exact List.mem_append_right _ (List.mem_singleton_self m)

theorem registerWrite_two (hs : s.Serves) (ho : s.spare.opened.contains (page / 36) = false)
    (hne : (v ^^^ w).toNat &&& 0x3FFFF ≠ 0) :
    Gives (exec (.registerWrite (evtEnOrder (.hart h) page w) [evtEnOrder (.operator k) page v] 0) s) fun u =>
      (u.rdN page offEvtEn &&& 0x3FFFF = v.toNat &&& 0x3FFFF ∧ Out.status (.hart h) stSuperseded ∈ u.out ∧
        u.host.nextSeq = s.host.nextSeq + 2) ∧
      u.tiles = s.tiles ∧ u.mem = s.mem ∧ u.slices = s.slices ∧ u.gn = s.gn ∧ u.adm = s.adm := by
  have he := registerWrite_ends hs (w := evtEnOrder (.hart h) page w) [evtEnOrder (.operator k) page v] 0
    (show offEvtEn ≠ offEvt by decide)
  obtain ⟨e₁, e₂, heq⟩ := sameCycle_evtEn hp h k s hne
  have hws : s.cycleOrders (evtEnOrder (.hart h) page w) [evtEnOrder (.operator k) page v]
      = [evtEnOrder (.hart h) page w, evtEnOrder (.operator k) page v] := by
    simp [State.cycleOrders, evtEnOrder]
  have hdone : s.cycleDone (evtEnOrder (.hart h) page w) [evtEnOrder (.hart h) page w, evtEnOrder (.operator k) page v]
      = s.sameCycle [evtEnOrder (.hart h) page w, evtEnOrder (.operator k) page v] :=
    if_neg (by rw [show pageAssigned (evtEnOrder (.hart h) page w).page = true from (tile_assigned hp).1]; exact Bool.false_ne_true)
  rw [hws, hdone, heq] at he
  have hh₁ : ((s.append e₁).2.append e₂).2.Holds s.host.nextSeq := holds_append_next (holds_append s e₁) rfl e₂
  have hh₂ : ((s.append e₁).2.append e₂).2.Holds (s.host.nextSeq + 1) := holds_append (s.append e₁).2 e₂
  generalize hv₀ : ((s.append e₁).2.append e₂).2 = v₀ at he hh₁ hh₂
  have hseq₀ : v₀.host.nextSeq = s.host.nextSeq + 2 := by rw [← hv₀]; rfl
  have hkeep₀ : v₀.orderKeeps = s.orderKeeps := by rw [← hv₀]; rfl
  have ho₀ : v₀.spare.opened.contains (page / 36) = false := by rw [← hv₀]; exact ho
  clear hv₀
  obtain ⟨ht, hk, hm, hl⟩ := twoDone_keeps hp v₀ v s.host.nextSeq hh₁ hh₂ ho₀ e₁ e₂ (.status (.hart h) stSuperseded)
  exact gives_of_orderKeeps hs he (hk.trans hkeep₀) fun u hu =>
    ⟨(congrArg (· &&& 0x3FFFF) (rdN_of_rd (hu.evtEn page))).trans ht, hu.mem_out hm, hu.nextSeq.trans (hl.trans hseq₀)⟩

end

section
variable {s : State} {o : Origin} {page off : Nat} {v : Word}

theorem applyWrite_none (h : (s.fields (roleOf o) page off v.toNat).1 = 0 ∨
    pageKind page = kTile ∧ s.spare.opened.contains (page / 36) = true) : s.applyWrite o page off v = (stOk, s) := by
  unfold State.applyWrite
  dsimp only
  by_cases hf : (s.fields (roleOf o) page off v.toNat).1 = 0
  · exact if_pos (by simpa using hf)
  · exact (if_neg (by simpa using hf)).trans (if_pos (by simpa using h.resolve_left hf))

theorem applyWrite_denied (hf : (s.fields (roleOf o) page off v.toNat).1 ≠ 0)
    (hopen : ¬(pageKind page = kTile ∧ s.spare.opened.contains (page / 36) = true))
    (hm : ¬s.mayWrite (roleOf o) page off v.toNat = true) : s.applyWrite o page off v = (stAccess, s) := by
  unfold State.applyWrite
  exact (if_neg (by simpa using hf)).trans ((if_neg (by simpa using hopen)).trans (if_pos (by simpa using hm)))

theorem applyWrite_may (hf : (s.fields (roleOf o) page off v.toNat).1 ≠ 0)
    (hopen : ¬(pageKind page = kTile ∧ s.spare.opened.contains (page / 36) = true))
    (hm : s.mayWrite (roleOf o) page off v.toNat = true) : s.applyWrite o page off v =
      s.act o page off (s.fields (roleOf o) page off v.toNat).2 (v.toNat &&& (s.fields (roleOf o) page off v.toNat).1) := by
  unfold State.applyWrite
  exact (if_neg (by simpa using hf)).trans ((if_neg (by simpa using hopen)).trans (if_neg (by simpa using hm)))

end

/-- Settles O44. -/
theorem registerOrdersComplete : Obligations.RegisterOrdersComplete := by
  refine ⟨fun s w rivals hw hs => ⟨fun h => registerWrite_ends hs rivals hw h, fun h => registerWrite_status hs rivals hw h⟩,
    fun s o page off v ha hc => ⟨fun h => ?_, fun hf hopen hm => ?_, fun hf hopen hm => ?_⟩,
    fun s page k h v w hs hp ho => ⟨fun o hw hd => registerWrite_evtEn hs hp ho v hw o hd, fun hw _ => ?_, fun hne => ?_⟩⟩
  · refine (order_unit_answer s o off v ha hc).trans ?_
    rw [applyWrite_none h]
  · refine (order_unit_answer s o off v ha hc).trans ?_
    rw [applyWrite_denied hf hopen hm]
  · refine (order_unit_answer s o off v ha hc).trans ?_
    rw [applyWrite_may hf hopen hm]
  · have hd := registerWrite_debug hs hp ho k v hw
    simpa only [and_assoc] using hd
  · have ht := registerWrite_two hp h k hs ho hne
    simp only [and_assoc] at ht
    exact ht

end Sys2Proof.Machine
end

section
/-!
PROOF. A read of a port's FEC counters (Section 16.3): the lowest word of a wider value, which only hardware knows. The model
answers a free value for it, and latches nothing.
-/
namespace Sys2Proof.Machine

/-- A module in service. -/
def serving : State := { pow := { off := false } }

theorem serving_serves : serving.Serves := ⟨rfl, rfl, rfl, rfl⟩

/-- A read of the lowest word of a FEC counter of port 0 latches nothing. -/
theorem fecRead_latches_nothing : (serving.readAny .boot (.order .boot) none (rayPage 0) 0x60).latches = [] := by decide +kernel

/-- Refutes O45: the next word of a FEC counter is not latched. -/
theorem not_latchesAndRecordsComplete : ¬ Obligations.LatchesAndRecordsComplete := by
  unfold Obligations.LatchesAndRecordsComplete
  intro h
  obtain ⟨hread, -⟩ := h serving .boot serving_serves
  obtain ⟨-, hwide⟩ := hread (rayPage 0) 0x60
  obtain ⟨-, -, hlatch⟩ := hwide (by decide) (by decide) (by decide) (by decide) (by decide)
  rw [fecRead_latches_nothing] at hlatch
  exact absurd hlatch (by simp [sfind])

end Sys2Proof.Machine
end

section
/-!
PROOF. Input samples, Dusk, throttle and the loss of a domain (Sections 12.1 to 12.3).
-/
namespace Sys2Proof.Machine

/-! ## Entering Dusk -/

/-- What a change of Dusk and a sample of the input keep. -/
structure DuskKeeps (s u : State) : Prop where
  mem : u.mem = s.mem
  tiles : u.tiles = s.tiles
  adm : u.adm = s.adm
  vin : u.pow.vin = s.pow.vin
  powers : u.pow.powers = s.pow.powers

theorem DuskKeeps.trans {s t u : State} (h : DuskKeeps s t) (h' : DuskKeeps t u) : DuskKeeps s u :=
  ⟨h'.mem.trans h.mem, h'.tiles.trans h.tiles, h'.adm.trans h.adm, h'.vin.trans h.vin, h'.powers.trans h.powers⟩

theorem duskKeeps_bump (s : State) (page off : Nat) : DuskKeeps s (s.bump page off) := by
  unfold State.bump
  dsimp only
  split <;> exact ⟨rfl, rfl, rfl, rfl, rfl⟩

/-- A state without what it has said. -/
def State.silent (s : State) : State := { s with out := [] }

theorem duskPfc_silent (s : State) (pause : Bool) : (s.duskPfc pause).silent = s.silent := by
  unfold State.duskPfc
  refine foldl_keeps State.silent _ (fun s p => ?_) _ _
  split <;> rfl

/-- Dusk, with its start, as STATUS and its counter show it. -/
def State.duskShown (s : State) : State :=
  let s := { s with dusk := true }.setFlag powPage offStatus 0 true
  (s.modPow fun p => { p with duskAt := s.now }).bump powPage 0x11C

/-- What follows: the event, the record, the journal and the pauses of the front end, and a hold request while an image is
active. -/
def State.duskTold (s : State) : State :=
  let s := (s.raise powPage 0).agRecord 0x2003 [s.duskCauses, s.rdN inPage 0x100]
  let s := (s.jDecision 1 0 0xE1 s.duskCauses).duskPfc true
  if s.adm.active.isSome then s.holdRequest 3 else s

theorem duskEnter_first {s : State} (h : s.dusk = false) (c : Nat) : s.duskEnter c = (s.setFlag powPage offStatus c true).duskShown.duskTold := by
  have hd : ¬ (s.setFlag powPage offStatus c true).dusk = true := ne_true_of_eq_false h
  unfold State.duskEnter
  generalize s.setFlag powPage offStatus c true = t at hd ⊢
  exact if_neg hd

theorem duskEnter_again {s : State} (h : s.dusk = true) (c : Nat) : s.duskEnter c = s.setFlag powPage offStatus c true := by
  unfold State.duskEnter
  exact if_pos h

/-- The event, the record, the journal entry and the hold request leave Dusk and its start as they are. -/
theorem duskTold_keeps (s : State) : DuskKeeps s s.duskTold ∧ s.duskTold.dusk = s.dusk ∧
    s.duskTold.regs = (s.raise powPage 0).regs ∧ s.duskTold.pow = s.pow ∧
    (s.adm.active.isSome = true → bit s.duskTold.pen.cause 3 = true) := by
  have hsilent := duskPfc_silent (((s.raise powPage 0).agRecord 0x2003 [s.duskCauses, s.rdN inPage 0x100]).jDecision 1 0 0xE1
    ((s.raise powPage 0).agRecord 0x2003 [s.duskCauses, s.rdN inPage 0x100]).duskCauses) true
  unfold State.duskTold
  dsimp only
  generalize State.duskPfc _ true = u at hsilent ⊢
  have hkeeps : DuskKeeps s u := ⟨(congrArg (·.mem) hsilent :), (congrArg (·.tiles) hsilent :), (congrArg (·.adm) hsilent :),
    (congrArg (·.pow.vin) hsilent :), (congrArg (·.pow.powers) hsilent :)⟩
  have hdusk : u.dusk = s.dusk := (congrArg (·.dusk) hsilent :)
  have hregs : u.regs = (s.raise powPage 0).regs := (congrArg (·.regs) hsilent :)
  have hpow : u.pow = s.pow := (congrArg (·.pow) hsilent :)
  rw [← hkeeps.adm]
  split
  · refine ⟨hkeeps.trans ⟨rfl, rfl, rfl, rfl, rfl⟩, hdusk, hregs, hpow, fun _ => ?_⟩
    exact (Nat.testBit_or _ _ _).trans (Bool.or_eq_true_iff.mpr (.inr (by decide)))
  next hnone => exact ⟨hkeeps, hdusk, hregs, hpow, fun h => absurd h hnone⟩

theorem flag_of_regs {s u : State} (h : u.regs = s.regs) (p o i : Nat) : u.flag p o i = s.flag p o i := by
  unfold State.flag State.rdN State.rd
  rw [h]

theorem rdN_of_regs {s u : State} (h : u.regs = s.regs) (p o : Nat) : u.rdN p o = s.rdN p o := by
  unfold State.rdN State.rd
  rw [h]

/-- A register write, of a field or a flag, leaves another register as it is. -/
theorem rdN_setFlag_other {s : State} {p p' o o' i : Nat} {b : Bool} (ho : regOff o) (ho' : regOff o') (h : ¬ (p' = p ∧ o' = o)) :
    (s.setFlag p o i b).rdN p' o' = s.rdN p' o' :=
  rdN_of_rd (s.rd_wr_other _ ho ho' fun hsame => h ⟨hsame.1.symm, hsame.2.symm⟩)

theorem flag_setFlag_other {s : State} {p p' o o' i j : Nat} {b : Bool} (ho : regOff o) (ho' : regOff o')
    (h : ¬ (p' = p ∧ o' = o)) : (s.setFlag p o i b).flag p' o' j = s.flag p' o' j :=
  congrArg (bit · j) (rdN_setFlag_other ho ho' h)

theorem rdN_raise_other {s : State} {p p' o' i : Nat} (ho' : regOff o') (h : ¬ (p' = p ∧ o' = offEvt)) :
    (s.raise p i).rdN p' o' = s.rdN p' o' :=
  (rdN_of_regs (s := s.setFlag p offEvt i true) rfl p' o').trans (rdN_setFlag_other (by decide) ho' h)

theorem bump_rdN_other {s : State} {p p' o o' : Nat} (ho : regOff o) (ho' : regOff o') (h : ¬ (p' = p ∧ o' = o)) :
    (s.bump p o).rdN p' o' = s.rdN p' o' := by
  unfold State.bump
  dsimp only
  split
  · exact rdN_of_rd (s.rd_wr_other _ ho ho' fun hsame => h ⟨hsame.1.symm, hsame.2.symm⟩)
  · exact rdN_of_rd (s.free.2.rd_wr_other _ ho ho' fun hsame => h ⟨hsame.1.symm, hsame.2.symm⟩)

theorem duskShown_spec (s : State) :
    DuskKeeps s s.duskShown ∧ s.duskShown.dusk = true ∧ s.duskShown.pow.duskAt = s.now ∧
    (∀ i, s.duskShown.flag powPage offStatus i = (s.setFlag powPage offStatus 0 true).flag powPage offStatus i) ∧
    ∀ p o, regOff o → p ≠ powPage → s.duskShown.rdN p o = s.rdN p o := by
  have hbump : ∀ (u : State), (u.bump powPage 0x11C).dusk = u.dusk ∧ (u.bump powPage 0x11C).pow = u.pow := by
    intro u; unfold State.bump; dsimp only; split <;> exact ⟨rfl, rfl⟩
  unfold State.duskShown
  dsimp only
  have hkeeps : ∀ u, DuskKeeps s u → DuskKeeps s (u.bump powPage 0x11C) := fun u h => h.trans (duskKeeps_bump _ _ _)
  refine ⟨hkeeps _ ⟨rfl, rfl, rfl, rfl, rfl⟩, (hbump _).1, congrArg Power.duskAt (hbump _).2,
    fun i => ?_, fun p o ho hp => ?_⟩
  · have hsame : ∀ u : State, (u.bump powPage 0x11C).flag powPage offStatus i = u.flag powPage offStatus i :=
      fun u => congrArg (bit · i) (bump_rdN_other (by decide) (by decide) (by decide))
    exact (hsame _).trans (flag_of_regs rfl _ _ _)
  · refine (bump_rdN_other (by decide) ho (fun h => hp h.1)).trans ?_
    exact rdN_setFlag_other (s := s) (by decide) ho (fun h => hp h.1)

theorem duskEnter_spec (s : State) {c : Nat} (hc : 1 ≤ c) (hc3 : c ≤ 3) :
    DuskKeeps s (s.duskEnter c) ∧ (s.duskEnter c).dusk = true ∧ (s.duskEnter c).flag powPage offStatus c = true ∧
    (s.dusk = false → (s.duskEnter c).flag powPage offStatus 0 = true ∧ (s.duskEnter c).flag powPage offEvt 0 = true ∧
      (s.duskEnter c).pow.duskAt = s.now ∧ (s.adm.active.isSome = true → bit (s.duskEnter c).pen.cause 3 = true)) ∧
    ∀ p o, regOff o → p ≠ powPage → (s.duskEnter c).rdN p o = s.rdN p o := by
  by_cases hd : s.dusk = true
  · rw [duskEnter_again hd]
    exact ⟨⟨rfl, rfl, rfl, rfl, rfl⟩, hd, s.flag_setFlag_same _ _ _ _ (by omega), fun h => absurd (h.symm.trans hd) (by decide),
      fun p o ho hp => rdN_setFlag_other (by decide) ho (fun h => hp h.1)⟩
  · have hd := eq_false_of_ne_true hd
    rw [duskEnter_first hd]
    have hsame : DuskKeeps s (s.setFlag powPage offStatus c true) := ⟨rfl, rfl, rfl, rfl, rfl⟩
    have hset : (s.setFlag powPage offStatus c true).flag powPage offStatus c = true := s.flag_setFlag_same _ _ _ _ (by omega)
    have hother : ∀ p o, regOff o → p ≠ powPage → (s.setFlag powPage offStatus c true).rdN p o = s.rdN p o :=
      fun p o ho hp => rdN_setFlag_other (by decide) ho (fun h => hp h.1)
    have hnow : (s.setFlag powPage offStatus c true).now = s.now := rfl
    generalize s.setFlag powPage offStatus c true = t at hsame hset hother hnow ⊢
    obtain ⟨hkeeps, hdusk, hat, hstatus, hreg⟩ := duskShown_spec t
    obtain ⟨hkeeps', hdusk', hregs, hpow, hhold⟩ := duskTold_keeps t.duskShown
    have hshown : ∀ i, t.duskShown.duskTold.flag powPage offStatus i =
        (t.setFlag powPage offStatus 0 true).flag powPage offStatus i := by
      intro i
      have hraise : (t.duskShown.raise powPage 0).flag powPage offStatus i = t.duskShown.flag powPage offStatus i :=
        congrArg (bit · i) (rdN_raise_other (by decide) (by decide))
      exact (flag_of_regs hregs _ _ _).trans (hraise.trans (hstatus i))
    refine ⟨(hsame.trans hkeeps).trans hkeeps', hdusk'.trans hdusk, ?_, fun _ => ⟨?_, ?_, ?_, fun h => ?_⟩, fun p o ho hp => ?_⟩
    · exact (hshown c).trans ((t.flag_setFlag_bit _ _ _ _ _ (by decide) (by omega)).trans hset)
    · exact (hshown 0).trans (t.flag_setFlag_same _ _ _ _ (by decide))
    · exact (flag_of_regs hregs _ _ _).trans (State.flag_raise_same _ _ _ (by decide))
    · exact (congrArg Power.duskAt hpow).trans (hat.trans hnow)
    · exact hhold ((congrArg (·.active.isSome) (hkeeps.adm.trans hsame.adm) :).trans h)
    · have hraise : (t.duskShown.raise powPage 0).rdN p o = t.duskShown.rdN p o :=
        rdN_raise_other ho (fun h => hp h.1)
      refine (rdN_of_regs hregs p o).trans (hraise.trans ?_)
      exact (hreg p o ho hp).trans (hother p o ho hp)

/-! ## A sample of the input -/

/-- A sample as the input's registers, the record of Dusk and the events show it, before the switch opens. -/
def State.sampled (vin iin : Nat) (s : State) : State :=
  let p := s.pow
  let was := p.vin.getD vin
  let dip := filtered p.below36 (vin < 3600) (was < 3600)
  let under := filtered p.below37 (vin < 3700) (was < 3700)
  let high := filtered p.above44 (vin > 4400) (was > 4400)
  let powers := (vin * iin :: p.powers).take 10000
  let ok := if vin > 3700 then p.okRun + 1 else 0
  let s := s.modPow fun p => { p with
    vin := some vin, powers := powers, okRun := ok, below36 := dip, below37 := under, above44 := high
    dipLen := if dip then p.dipLen + 1 else 0 }
  let s := ((s.wrN inPage 0x100 (vin % 65536)).wrN inPage 0x104 (iin % 65536)).wrN inPage 0x108 (avgW powers 100 % 2048)
  let s := s.wrN inPage 0x10C (avgW powers 10000 % 2048)
  let s := s.wrN inPage 0x110 (min (s.rdN inPage 0x110) (vin % 65536))
  let s := s.wrN inPage 0x114 (max (s.rdN inPage 0x114) (vin % 65536))
  let s := (s.setFlag inPage offStatus 0 (!under && !high)).setFlag inPage offStatus 1 dip
  -- the current limit holds the input at 38 A (assumption 51)
  let s := s.setFlag inPage offStatus 3 (iin ≥ 3800)
  let s := if high && !p.above44 then s.raise inPage 2 else s
  let s := if under && !dip && (!p.below37 || p.below36) then s.raise inPage 0 else s
  let s := if dip && !p.below36 then ((s.raise inPage 1).bump inPage 0x118).duskEnter duskSupply else s
  let s := if p.below36 && !dip then s.wrN inPage 0x11C (p.dipLen / 10 % 2 ^ 32) else s
  let s := if ok ≥ 5000 && s.flag powPage offStatus duskSupply then
      (s.setFlag powPage offStatus duskSupply false).raise inPage 5
    else s
  s

/-- What the writes of a sample to the input's page keep, its voltage and current among them. -/
structure SampleKeeps (s u : State) : Prop where
  keeps : DuskKeeps s u
  volt : u.rdN inPage 0x100 = s.rdN inPage 0x100
  current : u.rdN inPage 0x104 = s.rdN inPage 0x104
  dusk : u.dusk = s.dusk

theorem SampleKeeps.refl (s : State) : SampleKeeps s s := ⟨⟨rfl, rfl, rfl, rfl, rfl⟩, rfl, rfl, rfl⟩

theorem SampleKeeps.trans {s t u : State} (h : SampleKeeps s t) (h' : SampleKeeps t u) : SampleKeeps s u :=
  ⟨h.keeps.trans h'.keeps, h'.volt.trans h.volt, h'.current.trans h.current, h'.dusk.trans h.dusk⟩

theorem sampleKeeps_wrN (s : State) (p o v : Nat) (ho : regOff o) (h : ¬ (p = inPage ∧ (o = 0x100 ∨ o = 0x104))) :
    SampleKeeps s (s.wrN p o v) :=
  ⟨⟨rfl, rfl, rfl, rfl, rfl⟩, rdN_of_rd (s.rd_wr_other _ ho (by decide) fun hsame => h ⟨hsame.1, .inl hsame.2⟩),
    rdN_of_rd (s.rd_wr_other _ ho (by decide) fun hsame => h ⟨hsame.1, .inr hsame.2⟩), rfl⟩

theorem sampleKeeps_setFlag (s : State) (p i : Nat) (b : Bool) : SampleKeeps s (s.setFlag p offStatus i b) :=
  sampleKeeps_wrN s p offStatus _ (by decide) fun h => h.2.elim (by decide) (by decide)

theorem sampleKeeps_raise (s : State) (p i : Nat) : SampleKeeps s (s.raise p i) :=
  ⟨⟨rfl, rfl, rfl, rfl, rfl⟩, rdN_raise_other (by decide) (fun h => absurd h.2 (by decide)),
    rdN_raise_other (by decide) (fun h => absurd h.2 (by decide)), rfl⟩

theorem sampleKeeps_if {s t : State} {c : Prop} [Decidable c] (h : SampleKeeps s t) : SampleKeeps s (if c then t else s) := by
  split
  · exact h
  · exact .refl s

/-- The sample as the input's registers show it. -/
def State.sampleShown (vin iin : Nat) (s : State) : State :=
  let p := s.pow
  let was := p.vin.getD vin
  let dip := filtered p.below36 (vin < 3600) (was < 3600)
  let under := filtered p.below37 (vin < 3700) (was < 3700)
  let high := filtered p.above44 (vin > 4400) (was > 4400)
  let powers := (vin * iin :: p.powers).take 10000
  let ok := if vin > 3700 then p.okRun + 1 else 0
  let s := s.modPow fun p => { p with
    vin := some vin, powers := powers, okRun := ok, below36 := dip, below37 := under, above44 := high
    dipLen := if dip then p.dipLen + 1 else 0 }
  let s := ((s.wrN inPage 0x100 (vin % 65536)).wrN inPage 0x104 (iin % 65536)).wrN inPage 0x108 (avgW powers 100 % 2048)
  let s := s.wrN inPage 0x10C (avgW powers 10000 % 2048)
  let s := s.wrN inPage 0x110 (min (s.rdN inPage 0x110) (vin % 65536))
  let s := s.wrN inPage 0x114 (max (s.rdN inPage 0x114) (vin % 65536))
  let s := (s.setFlag inPage offStatus 0 (!under && !high)).setFlag inPage offStatus 1 dip
  let s := s.setFlag inPage offStatus 3 (iin ≥ 3800)
  let s := if high && !p.above44 then s.raise inPage 2 else s
  if under && !dip && (!p.below37 || p.below36) then s.raise inPage 0 else s

/-- What follows what the sample shows: Dusk where a dip begins, its length where it ends, and the end of the supply's cause. -/
theorem sampled_eq (s : State) (vin iin : Nat) :
    let dip := filtered s.pow.below36 (vin < 3600) (s.pow.vin.getD vin < 3600)
    let ok := if vin > 3700 then s.pow.okRun + 1 else 0
    s.sampled vin iin =
      (let t := s.sampleShown vin iin
       let t := if dip && !s.pow.below36 then ((t.raise inPage 1).bump inPage 0x118).duskEnter duskSupply else t
       let t := if s.pow.below36 && !dip then t.wrN inPage 0x11C (s.pow.dipLen / 10 % 2 ^ 32) else t
       if ok ≥ 5000 && t.flag powPage offStatus duskSupply then
         (t.setFlag powPage offStatus duskSupply false).raise inPage 5
       else t) := rfl

theorem sampleShown_spec (s : State) (vin iin : Nat) :
    let u := s.sampleShown vin iin
    u.rdN inPage 0x100 = vin % 65536 ∧ u.rdN inPage 0x104 = iin % 65536 ∧ u.pow.vin = some vin ∧
    u.pow.powers = (vin * iin :: s.pow.powers).take 10000 ∧ u.mem = s.mem ∧ u.tiles = s.tiles ∧ u.dusk = s.dusk := by
  unfold State.sampleShown
  extract_lets p was dip under high powers ok s1 s2 s3 s4 s5 s6 s7 s8 u
  have h1 : s1.pow.vin = some vin ∧ s1.pow.powers = powers ∧ s1.mem = s.mem ∧ s1.tiles = s.tiles ∧ s1.dusk = s.dusk :=
    ⟨rfl, rfl, rfl, rfl, rfl⟩
  have hvolt : ((s1.wrN inPage 0x100 (vin % 65536)).wrN inPage 0x104 (iin % 65536)).rdN inPage 0x100 = vin % 65536 := by
    rw [rdN_wrN_other (by decide) (by decide) (by decide), State.rdN_wrN_same, Nat.mod_eq_of_lt (by omega)]
  have hcurrent : ((s1.wrN inPage 0x100 (vin % 65536)).wrN inPage 0x104 (iin % 65536)).rdN inPage 0x104 = iin % 65536 := by
    rw [State.rdN_wrN_same, Nat.mod_eq_of_lt (by omega)]
  have h2 : SampleKeeps ((s1.wrN inPage 0x100 (vin % 65536)).wrN inPage 0x104 (iin % 65536)) s2 :=
    sampleKeeps_wrN _ _ _ _ (by decide) (by decide)
  have h3 : SampleKeeps s2 s3 := sampleKeeps_wrN _ _ _ _ (by decide) (by decide)
  have h4 : SampleKeeps s3 s4 := sampleKeeps_wrN _ _ _ _ (by decide) (by decide)
  have h5 : SampleKeeps s4 s5 := sampleKeeps_wrN _ _ _ _ (by decide) (by decide)
  have h6 : SampleKeeps s5 s6 := (sampleKeeps_setFlag _ _ _ _).trans (sampleKeeps_setFlag _ _ _ _)
  have h7 : SampleKeeps s6 s7 := sampleKeeps_setFlag _ _ _ _
  have h8 : SampleKeeps s7 s8 := sampleKeeps_if (sampleKeeps_raise _ _ _)
  have h9 : SampleKeeps s8 u := sampleKeeps_if (sampleKeeps_raise _ _ _)
  have h := h2.trans (h3.trans (h4.trans (h5.trans (h6.trans (h7.trans (h8.trans h9))))))
  obtain ⟨hvin, hpowers, hmem, htiles, hdusk⟩ := h1
  exact ⟨h.volt.trans hvolt, h.current.trans hcurrent, h.keeps.vin.trans hvin, h.keeps.powers.trans hpowers,
    h.keeps.mem.trans hmem, h.keeps.tiles.trans htiles, h.dusk.trans hdusk⟩

theorem filtered_low {a b : Prop} [Decidable a] [Decidable b] : filtered false a b = true ↔ a ∧ b := by
  by_cases ha : a <;> by_cases hb : b <;> simp [filtered, ha, hb]

/-- A dip begins: Dusk. -/
theorem sampled_dip {s : State} {vin iin : Nat} (hb : s.pow.below36 = false) (hdip : vin < 3600 ∧ s.pow.vin.getD vin < 3600) :
    s.sampled vin iin = (((s.sampleShown vin iin).raise inPage 1).bump inPage 0x118).duskEnter duskSupply := by
  have hd : filtered false (decide (vin < 3600)) (decide (s.pow.vin.getD vin < 3600)) = true := filtered_low.mpr hdip
  have hok : ¬ vin > 3700 := by omega
  rw [sampled_eq]
  simp only [hb, hd, hok]
  rfl

/-- No dip begins or ends: at most the supply's cause ends. -/
theorem sampled_keeps {s : State} {vin iin : Nat}
    (h : (filtered s.pow.below36 (vin < 3600) (s.pow.vin.getD vin < 3600) && !s.pow.below36) = false) :
    SampleKeeps (s.sampleShown vin iin) (s.sampled vin iin) := by
  rw [sampled_eq]
  simp only [h, Bool.false_eq_true, if_false]
  generalize s.sampleShown vin iin = t
  have hlen : SampleKeeps t (if (s.pow.below36 && !filtered s.pow.below36 (vin < 3600) (s.pow.vin.getD vin < 3600)) = true then
      t.wrN inPage 0x11C (s.pow.dipLen / 10 % 2 ^ 32) else t) := sampleKeeps_if (sampleKeeps_wrN _ _ _ _ (by decide) (by decide))
  generalize (if (s.pow.below36 && _) = true then _ else t) = r at hlen ⊢
  exact hlen.trans (sampleKeeps_if ((sampleKeeps_setFlag _ _ _ _).trans (sampleKeeps_raise _ _ _)))

/-- A sample that does not open the switch. -/
theorem sampled_spec (s : State) (vin iin : Nat) :
    let u := s.sampled vin iin
    let dip : Prop := vin < 3600 ∧ s.pow.vin.getD vin < 3600
    u.rdN inPage 0x100 = vin % 65536 ∧ u.rdN inPage 0x104 = iin % 65536 ∧ u.pow.vin = some vin ∧
    u.pow.powers = (vin * iin :: s.pow.powers).take 10000 ∧ u.mem = s.mem ∧ u.tiles = s.tiles ∧
    (s.pow.below36 = false → dip → u.dusk = true ∧ u.flag powPage offStatus 1 = true ∧ u.flag inPage offEvt 1 = true) ∧
    (s.pow.below36 = false → ¬dip → u.dusk = s.dusk) := by
  obtain ⟨hvolt, hcurrent, hvin, hpowers, hmem, htiles, hdusk⟩ := sampleShown_spec s vin iin
  by_cases hd : (filtered s.pow.below36 (vin < 3600) (s.pow.vin.getD vin < 3600) && !s.pow.below36) = true
  · obtain ⟨hlow, hb⟩ := Bool.and_eq_true_iff.mp hd
    have hb := Bool.not_eq_true' _ |>.mp hb
    rw [hb] at hlow
    have hdip := filtered_low.mp hlow
    rw [sampled_dip hb hdip]
    generalize s.sampleShown vin iin = t at hvolt hcurrent hvin hpowers hmem htiles
    have hraise := sampleKeeps_raise t inPage 1
    have hevt : (t.raise inPage 1).flag inPage offEvt 1 = true := State.flag_raise_same _ _ _ (by decide)
    generalize t.raise inPage 1 = r at hraise hevt
    have hbump := duskKeeps_bump r inPage 0x118
    have hother : ∀ o, regOff o → o ≠ 0x118 → (r.bump inPage 0x118).rdN inPage o = r.rdN inPage o :=
      fun o ho h => bump_rdN_other (by decide) ho fun hsame => h hsame.2
    generalize r.bump inPage 0x118 = b at hbump hother
    obtain ⟨hkeeps, hon, hstatus, -, hreg⟩ := duskEnter_spec b (c := duskSupply) (by decide) (by decide)
    have hk := hraise.keeps.trans (hbump.trans hkeeps)
    have hr : ∀ o, regOff o → o ≠ 0x118 → (b.duskEnter duskSupply).rdN inPage o = r.rdN inPage o :=
      fun o ho h => (hreg inPage o ho (by decide)).trans (hother o ho h)
    exact ⟨(hr 0x100 (by decide) (by decide)).trans (hraise.volt.trans hvolt),
      (hr 0x104 (by decide) (by decide)).trans (hraise.current.trans hcurrent), hk.vin.trans hvin, hk.powers.trans hpowers,
      hk.mem.trans hmem, hk.tiles.trans htiles,
      fun _ _ => ⟨hon, hstatus, (congrArg (bit · 1) (hr offEvt (by decide) (by decide)) :).trans hevt⟩, fun _ h => absurd hdip h⟩
  · have hk := sampled_keeps (eq_false_of_ne_true hd) (iin := iin)
    refine ⟨hk.volt.trans hvolt, hk.current.trans hcurrent, hk.keeps.vin.trans hvin, hk.keeps.powers.trans hpowers,
      hk.keeps.mem.trans hmem, hk.keeps.tiles.trans htiles, fun hb hdip => absurd ?_ hd, fun _ _ => hk.dusk.trans hdusk⟩
    rw [hb]
    exact Bool.and_eq_true_iff.mpr ⟨filtered_low.mpr hdip, rfl⟩

theorem inputSample_cut {s : State} (hs : s.Serves) {vin iin : Nat} (h : 4700 < vin ∧ 4700 < s.pow.vin.getD vin) :
    Ends (exec (.inputSample vin iin) s) (s.sampled vin iin).stop :=
  show Ends (execInputSample vin iin s) _ from runOn_ends_of hs.on
    (if_pos (Bool.and_eq_true_iff.mpr ⟨decide_eq_true h.1, decide_eq_true h.2⟩))

theorem inputSample_shown {s : State} (hs : s.Serves) {vin iin : Nat} (h : ¬ (4700 < vin ∧ 4700 < s.pow.vin.getD vin)) :
    Ends (exec (.inputSample vin iin) s) (s.sampled vin iin) :=
  show Ends (execInputSample vin iin s) _ from runOn_ends_of hs.on (if_neg fun hcut =>
    h ⟨of_decide_eq_true (Bool.and_eq_true_iff.mp hcut).1, of_decide_eq_true (Bool.and_eq_true_iff.mp hcut).2⟩)

/-! ## Leaving Dusk -/

/-- Dusk ends: the watchdog's period goes on from where it stood, with the event, the record and the journal entry. -/
def State.duskLeft (s : State) : State :=
  let d := s.now - s.pow.duskAt
  let s := { s with dusk := false }.setFlag powPage offStatus 0 false
  let s := s.modPow fun p => { p with duskUs := p.duskUs + d }
  let s := { s with host := { s.host with kickAt := s.host.kickAt + d }
                    pen := { s.pen with duskIn := s.pen.duskIn + d } }
  let s := (s.raise powPage 1).agRecord 0x2004 [d / 200]
  (s.jDecision 1 0 0xE2 (d / 200)).duskPfc false

theorem duskLeft_spec (s : State) :
    s.duskLeft.dusk = false ∧ s.duskLeft.flag powPage offStatus 0 = false ∧ s.duskLeft.flag powPage offEvt 1 = true ∧
    s.duskLeft.host.kickAt = s.host.kickAt + (s.now - s.pow.duskAt) ∧ s.duskLeft.mem = s.mem ∧ s.duskLeft.tiles = s.tiles := by
  unfold State.duskLeft
  extract_lets d s1 s2 x y s3 s4
  have h1 : s1.flag powPage offStatus 0 = false := State.flag_setFlag_same _ _ _ _ _ (by decide)
  have h3 : s3.regs = s1.regs := rfl
  have hevt : (s3.raise powPage 1).flag powPage offEvt 1 = true := State.flag_raise_same _ _ _ (by decide)
  have hraise : (s3.raise powPage 1).rdN powPage offStatus = s3.rdN powPage offStatus := rdN_raise_other (by decide) (by decide)
  have hstatus : (s3.raise powPage 1).flag powPage offStatus 0 = false :=
    (congrArg (bit · 0) hraise :).trans ((flag_of_regs h3 _ _ _).trans h1)
  have hsilent := duskPfc_silent (s4.jDecision 1 0 0xE2 (d / 200)) false
  have hregs : ((s4.jDecision 1 0 0xE2 (d / 200)).duskPfc false).regs = (s3.raise powPage 1).regs :=
    (congrArg (·.regs) hsilent :)
  refine ⟨(congrArg (·.dusk) hsilent :), (flag_of_regs hregs _ _ _).trans hstatus, (flag_of_regs hregs _ _ _).trans hevt,
    (congrArg (·.host.kickAt) hsilent :), (congrArg (·.mem) hsilent :), (congrArg (·.tiles) hsilent :)⟩

/-- Waiting frames are taken at every port. -/
def State.drainPorts (s : State) : State := (List.range 16).foldl (fun s p => s.drainEarly (s.earlyCount p) p) s

/-- The end of an ALERT shows once its pin is high. -/
def State.alertShown (s : State) : State :=
  if s.flag inPage offStatus 2 then s else s.setFlag powPage offStatus duskAlert false

theorem execDuskExit_eq (s : State) : execDuskExit s = runOn s fun s =>
    if !s.alertShown.dusk || s.alertShown.duskCauses != 0 then s.alertShown else s.alertShown.duskLeft.drainPorts := rfl

theorem alertShown_eq (s : State) : ∃ regs, s.alertShown = { s with regs := regs } := by
  unfold State.alertShown
  split
  · exact ⟨s.regs, rfl⟩
  · exact ⟨_, rfl⟩

theorem duskExit_stays {s : State} (hs : s.Serves) (h : s.dusk = false ∨ s.alertShown.duskCauses ≠ 0) :
    Ends (exec .duskExit s) s.alertShown := by
  obtain ⟨regs, hregs⟩ := alertShown_eq s
  have hdusk : s.alertShown.dusk = s.dusk := by rw [hregs]
  refine show Ends (execDuskExit s) _ from ?_
  rw [execDuskExit_eq]
  refine runOn_ends_of hs.on (if_pos ?_)
  rw [hdusk, Bool.or_eq_true_iff, Bool.not_eq_true', bne_iff_ne]
  exact h

theorem duskExit_leaves {s : State} (hs : s.Serves) (h : ¬ (s.dusk = false ∨ s.alertShown.duskCauses ≠ 0)) :
    Ends (exec .duskExit s) s.alertShown.duskLeft.drainPorts := by
  obtain ⟨regs, hregs⟩ := alertShown_eq s
  have hdusk : s.alertShown.dusk = s.dusk := by rw [hregs]
  refine show Ends (execDuskExit s) _ from ?_
  rw [execDuskExit_eq]
  refine runOn_ends_of hs.on (if_neg ?_)
  rw [hdusk, Bool.or_eq_true_iff, Bool.not_eq_true', bne_iff_ne]
  exact h

theorem alertShown_duskLeft (s : State) :
    s.alertShown.duskLeft.dusk = false ∧ s.alertShown.duskLeft.flag powPage offStatus 0 = false ∧
    s.alertShown.duskLeft.flag powPage offEvt 1 = true ∧
    s.alertShown.duskLeft.host.kickAt = s.host.kickAt + (s.now - s.pow.duskAt) ∧ s.alertShown.duskLeft.mem = s.mem ∧
    s.alertShown.duskLeft.tiles = s.tiles := by
  obtain ⟨regs, hregs⟩ := alertShown_eq s
  rw [hregs]
  exact duskLeft_spec _

/-! ## The loss of a domain -/

/-- The loss as the power page shows it. -/
def State.domainLost (s : State) (d : Nat) : State := ((s.raise powPage 5).agRecord 0x200D [d]).setPg d false

/-- A module that runs out of spares stops at the end of the command. -/
theorem spend_stops {o : Host.Outcome State Fault Refusal} {t : State} (h : Ends o t.spend) :
    Gives o fun u => u.pow.off = true := by
  obtain ⟨u, hu, -, hoff⟩ := h
  refine ⟨u, hu, hoff fun hspared => ?_⟩
  have hspent : t.spend.spareFailing.spare.spent = true := spareAll_spent rfl _
  exact absurd (hspent.symm.trans hspared) (by decide)

theorem setPg_spare (s : State) (d : Nat) (v : Bool) : (s.setPg d v).spare = s.spare := by
  unfold State.setPg
  split <;> rfl

theorem domainLost_spare (s : State) (d : Nat) : (s.domainLost d).spare = s.spare := setPg_spare _ d false

/-- What the loss of a domain stops. -/
def State.domainStops (s : State) (d : Nat) : State :=
  if d == 0 then s.cold
  else if d ≤ 32 then
    let s := s.tileSwitch (d - 1) false
    (s.replaceRowSites (d - 1) 3).getD s.spend
  else if d == 33 then s.loseArray 0
  else if d == 34 then s.dieReset 0
  else if d == 35 then s.loseArray 1
  else if d == 36 then s.dieReset 1
  else if d == 46 then s.resetHost
  else s.stop

theorem domainStops_cold (s : State) {d : Nat} (h : d = 0 ∨ (37 ≤ d ∧ d ≠ 46)) : s.domainStops d = s.cold := by
  obtain rfl | ⟨h37, h46⟩ := h
  · rfl
  · have e (n : Nat) (hn : d ≠ n) : ¬ (d == n) = true := by simpa using hn
    have hrow : ¬ d ≤ 32 := by omega
    exact (if_neg (e 0 (by omega))).trans <| (if_neg hrow).trans <| (if_neg (e 33 (by omega))).trans <|
      (if_neg (e 34 (by omega))).trans <| (if_neg (e 35 (by omega))).trans <| (if_neg (e 36 (by omega))).trans <|
      if_neg (e 46 h46)

theorem domainStops_array (s : State) {d : Nat} (h : d = 33 ∨ d = 35) : s.domainStops d = s.loseArray ((d - 33) / 2) := by
  obtain rfl | rfl := h <;> rfl

theorem domainStops_control (s : State) {d : Nat} (h : d = 34 ∨ d = 36) : s.domainStops d = s.dieReset ((d - 34) / 2) := by
  obtain rfl | rfl := h <;> rfl

theorem domainStops_host (s : State) {d : Nat} (h : d = 46) : s.domainStops d = s.resetHost := by
  subst h
  rfl

theorem domainStops_row (s : State) {d : Nat} (h1 : 1 ≤ d) (h32 : d ≤ 32) :
    s.domainStops d = ((s.tileSwitch (d - 1) false).replaceRowSites (d - 1) 3).getD (s.tileSwitch (d - 1) false).spend := by
  have h0 : ¬ (d == 0) = true := by simp; omega
  exact (if_neg h0).trans (if_pos h32)

section
variable {s : State} (hs : s.Serves)
include hs

theorem domainFault_ends {d : Nat} {t : State} (hd : d < 48) (h : (s.domainLost d).domainStops d = t) :
    Ends (exec (.domainFault d) s) t :=
  show Ends (execDomainFault d s) _ from runPart_ends_of (decide_eq_true hd) hs.on h

theorem domainFault_row {d : Nat} (h1 : 1 ≤ d) (h32 : d ≤ 32) :
    Ends (exec (.domainFault d) s) ((((s.domainLost d).tileSwitch (d - 1) false).replaceRowSites (d - 1) 3).getD
      ((s.domainLost d).tileSwitch (d - 1) false).spend) :=
  domainFault_ends hs (by omega) (domainStops_row _ h1 h32)

end

/-- Settles O47: every command of the input, of Dusk and of the throttle unfolds to its effect; what Dusk shows is followed
through the registers that it writes. -/
theorem powerEventsComplete : Obligations.PowerEventsComplete := by
  unfold Obligations.PowerEventsComplete
  refine ⟨fun s hs => ?_, fun s => ⟨rfl, rfl, rfl, rfl, rfl, rfl, rfl⟩, fun s c hc => ?_⟩
  · refine ⟨fun vin iin => ?_, ?_, ?_, ?_, ?_, ?_, ?_, fun d hd => ?_⟩
    · by_cases hcut : 4700 < vin ∧ 4700 < s.pow.vin.getD vin
      · exact ⟨_, inputSample_cut hs hcut, fun _ => rfl, fun h => absurd hcut h⟩
      · exact ⟨_, inputSample_shown hs hcut, fun h => absurd h hcut, fun _ => sampled_spec s vin iin⟩
    · exact show Ends (execBrownOut s) _ from runOn_ends hs.on _
    · exact show Ends (execHsLimit s) _ from runOn_ends hs.on _
    · exact show Ends (execAlertDark s) _ from runOn_ends hs.on _
    · exact show Ends (execAlertDarkNDeasserted s) _ from runOn_ends hs.on _
    · exact ⟨duskExit_stays hs, fun h => ⟨_, duskExit_leaves hs h, alertShown_duskLeft s⟩⟩
    · refine ⟨fun hhot h0 => ?_, fun hhot h0 => ?_, fun hhot => ?_⟩
      · refine show Ends (execThrottleStep s) _ from runOn_ends_of hs.on ((if_pos hhot).trans ?_)
        rw [h0]
        rfl
      · exact show Ends (execThrottleStep s) _ from runOn_ends_of hs.on ((if_pos hhot).trans (if_neg (by simpa using h0)))
      · exact show Ends (execThrottleStep s) _ from runOn_ends_of hs.on (if_neg (ne_true_of_eq_false hhot))
    · refine ⟨fun h => domainFault_ends hs hd (domainStops_cold _ h), fun h => domainFault_ends hs hd (domainStops_array _ h),
        fun h => domainFault_ends hs hd (domainStops_control _ h), fun h => domainFault_ends hs hd ?_,
        fun h1 h32 => ⟨?_, fun u hu => ?_, fun hnone => ?_⟩⟩
      · exact domainStops_host _ h
      · refine (congrArg (·.opened) (setPg_spare _ _ _) :).trans ?_
        exact congrArg (fun x : Sparing => insNat (d - 1) x.opened) (domainLost_spare s d)
      · have hrow := domainFault_row hs h1 h32
        rw [show ((s.domainLost d).tileSwitch (d - 1) false).replaceRowSites (d - 1) 3 = some u from hu] at hrow
        exact hrow
      · have hrow := domainFault_row hs h1 h32
        rw [show ((s.domainLost d).tileSwitch (d - 1) false).replaceRowSites (d - 1) 3 = none from hnone] at hrow
        exact spend_stops hrow
  · have hc13 : 1 ≤ c ∧ c ≤ 3 := by
      obtain rfl | rfl | rfl := hc <;> decide
    obtain ⟨hkeeps, hon, hcause, hfirst, -⟩ := duskEnter_spec s hc13.1 hc13.2
    exact ⟨hon, hcause, hkeeps.mem, hkeeps.tiles, fun h => duskEnter_again h c, hfirst⟩

end Sys2Proof.Machine
end

section
/-!
PROOF. HOLD_REQ at a parked master whose own restore has failed (Sections 13.4 and 13.5): the restore fails, the job ends, and
the moves of residency that are in progress end with it, which copies their blocks.
-/
namespace Sys2Proof.Machine

/-- Section 9 of the image below: one record. -/
def movingImage : Image := { noImage with sects := [(9, ⟨1, 0x100, 32, 0⟩)] }

/-- A parked master whose own restore has failed, while block 0 moves within the slow tier of port 0: from its start, which
holds a 7, to 64 bytes above. -/
def parkedMover : State := State.setHold ((State.wrN {
  pow := { off := false }
  gn := { master := true, running := true }
  adm := { active := some movingImage }
  pen := { failed := true }
  mem := [(13, 8), (14, 1), (0x100, 4), (0x108, 64), (slowBase, 7)]
  moves := [{ block := 0, target := 2, requested := false, running := true }] } (pciePage 0) 0x100 1).setFlag (pciePage 0) offStatus 4 true) 3

theorem parkedMover_serves : parkedMover.Serves := ⟨rfl, rfl, rfl, rfl⟩

/-- HOLD_REQ ends the move, and with it the block's byte stands at its target. -/
theorem holdReq_moves_block : sfind (parkedMover.order (.operator 0) penPage offControl
    (parkedMover.withBit penPage offControl 0 true)).mem (slowBase + 64) = some 7 := by decide +kernel

/-- Refutes O49: HOLD_REQ of an operator does not leave memory as it is. -/
theorem not_holdsComplete : ¬ Obligations.HoldsComplete := by
  unfold Obligations.HoldsComplete
  rintro ⟨-, hreq, -⟩
  obtain ⟨-, hdone⟩ := hreq parkedMover (.operator 0) parkedMover_serves
  obtain ⟨-, hmem, -⟩ := hdone rfl (by decide +kernel)
  have hmoved := holdReq_moves_block
  rw [hmem] at hmoved
  exact absurd hmoved (by decide +kernel)

end Sys2Proof.Machine
end

section
/-!
PROOF. The transmit order of a Ray port (Sections 10.5 and 10.8). An AUDIT frame takes its payload when it is sent, and the
credits that its pool is charged are those of that payload; a frame of a credit pool that waits as AUDIT with a longer payload
is therefore not charged what it held units for.
-/
namespace Sys2Proof.Machine

/-- An AUDIT frame of pool 0 whose payload is longer than the 16 bytes that it is sent with. -/
def longAudit : RayFrame := { emptyFrame with type := 6, pool := 0, payload := List.replicate 256 0 }

/-- Port 0 is UP and holds 100 units of pool 0, in which that frame waits. -/
def auditing : State := State.setPortSt {
  pow := { off := false }
  ray := { ports := [(0, { credits := [(0, 100)], txq := [{ frame := longAudit, pool := 0 }] })] } } 0 3

theorem auditing_serves : auditing.Serves := ⟨rfl, rfl, rfl, rfl⟩

/-- The state that a command answers. -/
def answered (o : Host.Outcome State Fault Refusal) : Option State := match o with
  | .next u => some u
  | _ => none

/-- FRAME_TRANSMIT leaves that port 99 units of the pool, in a module that runs on. -/
theorem transmit_leaves_credits : (answered (exec (.frameTransmit 0) auditing)).map (fun u =>
    (sget 0 (u.port 0).credits 0, u.pow.off)) = some (99, false) := by decide +kernel

/-- Refutes O41: a frame is not always charged the units of the frame that waited. -/
theorem not_portFamilyCompletes : ¬ Obligations.PortFamilyCompletes := by
  unfold Obligations.PortFamilyCompletes
  rintro ⟨htransmit, -⟩
  obtain ⟨-, -, -, hsend⟩ := htransmit auditing 0 auditing_serves (by decide)
  obtain ⟨-, hrun⟩ := hsend { frame := longAudit, pool := 0 } 0 (by decide +kernel) (by decide +kernel) (by decide +kernel)
  obtain ⟨u, ⟨w, hw, hspared, hoff⟩, -, -, -, -, hcredits⟩ := hrun (by decide +kernel)
  have hsent := transmit_leaves_credits
  rw [hw] at hsent
  obtain ⟨hw99, hon⟩ := Prod.mk.inj (Option.some.inj hsent)
  have hu : u.Spared := by
    by_contra hn
    exact absurd ((hoff hn).symm.trans hon) (by decide)
  have hport : w.port 0 = u.port 0 := (congrArg (fun s : State => s.port 0) (hspared hu).body :)
  have hcharged : sget 0 (u.port 0).credits 0 = 95 := (hcredits (by decide)).trans (by decide +kernel)
  rw [← hport, hw99] at hcharged
  exact absurd hcharged (by decide)

end Sys2Proof.Machine
end

section
/-!
PROOF. MERGE_OFF of a slice (Sections 8.4 and 16.3). A debug session's order on CONTROL acts where it changes only the bits
that its role may write. With MERGE_OFF already 1, an order of it that leaves that bit 1 is one, and its effect begins the
change of mode.
-/
namespace Sys2Proof.Machine

/-- A module whose slice 0 shows MERGE_OFF, and merges. -/
def mergeShown : State := serving.setFlag (slicePage 0) offControl 0 true

theorem mergeShown_serves : mergeShown.Serves := ⟨rfl, rfl, rfl, rfl⟩

/-- MERGE_OFF = 1 of a debug session begins the change of mode. -/
theorem mergeOff_recodes : (mergeShown.order (.debug 0) (slicePage 0) offControl
    (mergeShown.withBit (slicePage 0) offControl 0 true)).slices = [(0, { recoding := some true })] := by decide +kernel

/-- Refutes O38: MERGE_OFF of a debug session does not leave the slices as they are. -/
theorem not_sliceEventsComplete : ¬ Obligations.SliceEventsComplete := by
  unfold Obligations.SliceEventsComplete
  rintro ⟨-, -, -, -, -, -, horders⟩
  obtain ⟨hoff, -⟩ := horders mergeShown (.debug 0) 0 0 0 mergeShown_serves (by decide) (by decide)
  obtain ⟨-, hidle⟩ := hoff true
  obtain ⟨hslices, -⟩ := hidle (by decide)
  exact absurd (mergeOff_recodes.symm.trans hslices) (by decide)

end Sys2Proof.Machine
end

section
/-!
PROOF. Orders of firmware, quotes, the key window and CLOSE_ALL (Sections 14.2, 14.4 and 14.6). Each command is an order to a
register of the management page: of a role that may give it, it does what its row of `actMgmt` says; of another role, or where
its condition does not hold, the order changes nothing.
-/
namespace Sys2Proof.Machine

/-! ## Orders that do nothing -/

/-- The answer to an access changes no more than a refused order does. -/
theorem accessEnd_refused {a : Asker} {o : Origin} (ha : a.ofOrder o) (s : State) (e : Option (Nat × JEnt)) (st : Nat) :
    Refused s (s.accessEnd a e st none) := by
  by_cases hst : st = stAccess
  · obtain ⟨is, h, l, -, -, hh⟩ := accessEnd_access ha s e
    have hraise : ∀ (l : List Nat) (u : State), ∃ r e, u.raiseAll hostPage l = { u with regs := r, events := e } := fun l => by
      induction l with
      | nil => exact fun u => ⟨u.regs, u.events, rfl⟩
      | cons i l ih =>
        intro u
        obtain ⟨r, e, hr⟩ := ih (u.raise hostPage i)
        exact ⟨r, e, hr⟩
    obtain ⟨r, e, hr⟩ := hraise is s
    exact ⟨r, e, h, l, by rw [hst, hh, hr]⟩
  · obtain ⟨j, n, c, l, hu⟩ := accessEnd_answered ha s e hst
    exact ⟨s.regs, s.events, _, l, hu⟩

/-- An order that its originator may give, but whose effect leaves the module as it is. -/
theorem order_undone {s : State} {o : Origin} {page off m : Nat} {v : Word} (hk : pageKind page ≠ 0)
    (hopen : pageKind page = kTile → s.spare.opened.contains (page / 36) = false) (hm : m ≠ 0)
    (hf : ∀ j n, (s.journaled j n).fields (roleOf o) page off v.toNat = (m, m)) {st : Nat}
    (hact : ∀ j n, (s.journaled j n).act o page off m (v.toNat &&& m) = (st, s.journaled j n)) :
    Refused s (s.order o page off v) := by
  obtain ⟨hc, hs⟩ := isCompound_of_pageKind hk
  obtain ⟨ha, j, n, hh⟩ := accept_journaled s o page off v
  have hop : (pageKind page == kTile && s.spare.opened.contains (page / 36)) = false := by
    simpa only [Bool.and_eq_false_imp, beq_iff_eq] using hopen
  have happ : (s.journaled j n).applyWrite o page off v = (st, s.journaled j n) := by
    simp only [State.applyWrite, hf j n, State.mayWrite, beq_eq_false_iff_ne.2 hm, bne_iff_ne.2 hm, Nat.xor_self, Nat.and_zero,
      Bool.false_or, Bool.true_and, beq_self_eq_true, Bool.not_true, Bool.false_eq_true, if_false]
    exact (if_neg (ne_true_of_eq_false hop)).trans (hact j n)
  have heq : s.order o page off v = (s.journaled j n).accessEnd (s.accept o page off v).1 (s.accept o page off v).2.1 st none := by
    simp [State.order, State.writeAny, hs, State.writeNow, pageAssigned, hk, hc, hh, happ]
  obtain ⟨r, e, h, l, hu⟩ := accessEnd_refused ha (s.journaled j n) (s.accept o page off v).2.1 st
  exact ⟨r, e, h, l, heq.trans hu⟩

/-- An order to a register all of whose fields belong to other roles. -/
theorem order_noneOf {s : State} {o : Origin} {page off m : Nat} {v : Word} (hk : pageKind page ≠ 0)
    (hf : ∀ j n, (s.journaled j n).fields (roleOf o) page off v.toNat = (m, 0)) : Refused s (s.order o page off v) := by
  by_cases hm : m = 0
  · exact order_refused hk (.inl fun j n => by rw [hf j n, hm])
  · exact order_refused hk (.inr fun j n => by simp [State.mayWrite, hf j n, hm])

/-! ## The management page -/

/-- What an order to the management page leaves as it is. -/
def MgmtKept (s u : State) : Prop := u.tiles = s.tiles ∧ u.gn = s.gn ∧ u.adm = s.adm ∧ u.mem = s.mem

theorem Answered.mgmtKept {s u : State} (h : Answered s u) : MgmtKept s u := by
  obtain ⟨j, n, c, l, rfl⟩ := h; exact ⟨rfl, rfl, rfl, rfl⟩

theorem MgmtKept.trans {s t u : State} (h' : MgmtKept t u) (h : MgmtKept s t) : MgmtKept s u := by
  obtain ⟨htiles, hgn, hadm, hmem⟩ := h
  obtain ⟨htiles', hgn', hadm', hmem'⟩ := h'
  exact ⟨htiles'.trans htiles, hgn'.trans hgn, hadm'.trans hadm, hmem'.trans hmem⟩

theorem Refused.mgmtKept {s u : State} (h : Refused s u) : u.mg = s.mg ∧ MgmtKept s u := by
  obtain ⟨r, e, h, l, rfl⟩ := h; exact ⟨rfl, rfl, rfl, rfl, rfl⟩

theorem Answered.mg {s u : State} (h : Answered s u) : u.mg = s.mg := by
  obtain ⟨j, n, c, l, rfl⟩ := h; rfl

/-- An order to the management page by a role that may give it. -/
theorem order_mgmt {s : State} {o : Origin} {off m : Nat} {v : Word} (hm : m ≠ 0)
    (hf : ∀ j n, (s.journaled j n).fields (roleOf o) mgmtPage off v.toNat = (m, m)) {st : Nat} {g : State → State}
    (hact : ∀ j n, (s.journaled j n).act o mgmtPage off m (v.toNat &&& m) = (st, g (s.journaled j n))) (hst : st ≠ stAccess) :
    ∃ j n, Answered (g (s.journaled j n)) (s.order o mgmtPage off v) := by
  obtain ⟨-, j, n, hh⟩ := accept_journaled s o mgmtPage off v
  exact ⟨j, n, hh ▸ order_allOf (g := g) (by decide) (fun h => absurd h (by decide)) hm hf hact hst⟩

/-- An order to the management page whose condition does not hold. -/
theorem order_mgmt_undone {s : State} {o : Origin} {off m : Nat} {v : Word} (hm : m ≠ 0)
    (hf : ∀ j n, (s.journaled j n).fields (roleOf o) mgmtPage off v.toNat = (m, m)) {st : Nat}
    (hact : ∀ j n, (s.journaled j n).act o mgmtPage off m (v.toNat &&& m) = (st, s.journaled j n)) :
    (s.order o mgmtPage off v).mg = s.mg ∧ MgmtKept s (s.order o mgmtPage off v) :=
  (order_undone (by decide) (fun h => absurd h (by decide)) hm hf hact).mgmtKept

/-! ## FW_CMD -/

section
variable {s : State} {o : Origin}

theorem fields_fwCmd (hop : operatorOnly (roleOf o) = true) (v : Word) (j : Sparse JEnt) (n : Nat) :
    (s.journaled j n).fields (roleOf o) mgmtPage 0x124 v.toNat = (3, 3) := by
  show allOf 3 (operatorOnly (roleOf o)) = _
  rw [hop]; rfl

/-- FW_CMD of a role that may not give it changes nothing. -/
theorem fwCmd_denied (hop : operatorOnly (roleOf o) = false) (v : Word) :
    (s.order o mgmtPage 0x124 v).mg = s.mg ∧ MgmtKept s (s.order o mgmtPage 0x124 v) :=
  (order_noneOf (m := 3) (by decide) fun j n => by
    show allOf 3 (operatorOnly (roleOf o)) = _
    rw [hop]; rfl).mgmtKept

theorem field_fwState (t : State) {n : Nat} (hn : n < 8) : (t.fwState n).field mgmtPage 0x128 2 0 = n := by
  exact (State.field_setField_same t mgmtPage 0x128 2 0 n (by decide) (by decide)).trans (Nat.mod_eq_of_lt hn)

theorem field_of_regs {s u : State} (h : u.regs = s.regs) (p o hi lo : Nat) : u.field p o hi lo = s.field p o hi lo :=
  congrArg (bits · hi lo) (rdN_of_regs h p o)

theorem fwVerify_begins (hop : operatorOnly (roleOf o) = true) (hs : s.mg.staging = false) (hk : s.mg.stagedOk = false) :
    (s.order o mgmtPage 0x124 1).mg = { s.mg with staging := true } ∧
      (s.order o mgmtPage 0x124 1).field mgmtPage 0x128 2 0 = 1 ∧ MgmtKept s (s.order o mgmtPage 0x124 1) := by
  obtain ⟨j, n, hu⟩ := order_mgmt (s := s) (o := o) (off := 0x124) (m := 3) (v := 1) (st := stOk)
    (g := fun t => (t.modMg fun g => { g with staging := true }).fwState 1) (by decide) (fields_fwCmd hop 1)
    (fun j n => by
      show (s.journaled j n).actMgmt 0x124 3 1 = _
      have hb : (s.journaled j n).fwBegin = (false, ((s.journaled j n).modMg fun g => { g with staging := true }).fwState 1) :=
        if_neg (by show ¬ (s.mg.staging || s.mg.stagedOk) = true; simp [hs, hk])
      show ((if (s.journaled j n).fwBegin.1 then stAccess else stOk), (s.journaled j n).fwBegin.2) = _
      rw [hb]; rfl) (by decide)
  exact ⟨hu.mg.trans rfl, (field_of_regs hu.regs _ _ _ _).trans (field_fwState _ (by decide)), hu.mgmtKept⟩

theorem fwVerify_undone (h : operatorOnly (roleOf o) = false ∨ s.mg.staging = true ∨ s.mg.stagedOk = true) :
    (s.order o mgmtPage 0x124 1).mg = s.mg ∧ MgmtKept s (s.order o mgmtPage 0x124 1) := by
  cases hop : operatorOnly (roleOf o) with
  | false => exact fwCmd_denied hop 1
  | true =>
    refine order_mgmt_undone (m := 3) (st := stAccess) (by decide) (fields_fwCmd hop 1) fun j n => ?_
    have hb : (s.journaled j n).fwBegin = (true, s.journaled j n) :=
      if_pos (by
        show (s.mg.staging || s.mg.stagedOk) = true
        rcases h with h | h | h
        · exact absurd (hop.symm.trans h) (by decide)
        · simp [h]
        · simp [h])
    show ((if (s.journaled j n).fwBegin.1 then stAccess else stOk), (s.journaled j n).fwBegin.2) = _
    rw [hb]; rfl

/-- What FW_ACTIVATE leaves of what the activation of a bundle is about. -/
structure Adopted (s u : State) (ok : Bool) : Prop where
  active : u.mg.active = if ok = true ∧ s.mg.floor ≤ s.fwSvn s.otherSlot then s.otherSlot else s.mg.active
  staged : u.mg.stagedOk = false
  keys : u.mg.keys = s.mg.keys
  sessions : u.mg.sessions = s.mg.sessions
  shown : u.field mgmtPage 0x128 2 0 = 0
  kept : MgmtKept s u

/-- A state without the measurement log. -/
def State.unmeasured (t : State) : State := t.modMg fun g => { g with log := [], digest := [] }

theorem measure_unmeasured (t : State) (kind agent svn ver : Nat) (hash : List Byte) :
    (t.measure kind agent svn ver hash).unmeasured = t.unmeasured := by
  unfold State.measure
  dsimp only
  split <;> rfl

theorem measureSlot_unmeasured (t : State) (slot : Nat) : (t.measureSlot slot).unmeasured = t.unmeasured := by
  unfold State.measureSlot
  exact (foldl_keeps State.unmeasured _ (fun u _ => measure_unmeasured u _ _ _ _ _) _ _).trans (measure_unmeasured t _ _ _ _ _)

/-- What `Adopted` speaks of. -/
def State.fwView (u : State) :=
  (u.mg.active, u.mg.stagedOk, u.mg.keys, u.mg.sessions, u.rdN mgmtPage 0x128, u.tiles, u.gn, u.adm, u.mem)

theorem fwView_raise (u : State) (p i : Nat) : (u.raise p i).fwView = u.fwView := by
  unfold State.fwView
  rw [rdN_raise_other (s := u) (p := p) (p' := mgmtPage) (o' := 0x128) (i := i) (by decide) fun h => absurd h.2 (by decide)]
  rfl

theorem fwView_agRecord (u : State) (code : Nat) (p : List Nat) : (u.agRecord code p).fwView = u.fwView := rfl

theorem fwView_status (u : State) (i : Nat) (b : Bool) : (u.setFlag mgmtPage offStatus i b).fwView = u.fwView := by
  unfold State.fwView
  rw [rdN_setFlag_other (s := u) (p := mgmtPage) (o := offStatus) (p' := mgmtPage) (o' := 0x128) (by decide) (by decide)
    fun h => absurd h.2 (by decide)]
  rfl

theorem fwView_measureSlot (u : State) (slot : Nat) : (u.measureSlot slot).fwView = u.fwView :=
  (congrArg State.fwView (measureSlot_unmeasured u slot) :)

theorem adopted_of_view {t u : State} {ok : Bool} {a : Nat}
    (hv : u.fwView = (a, false, t.mg.keys, t.mg.sessions, (t.fwState 0).rdN mgmtPage 0x128, t.tiles, t.gn, t.adm, t.mem))
    (ha : a = if ok = true ∧ t.mg.floor ≤ t.fwSvn t.otherSlot then t.otherSlot else t.mg.active) : Adopted t u ok := by
  simp only [State.fwView, Prod.mk.injEq] at hv
  obtain ⟨hactive, hstaged, hkeys, hsess, hrd, htiles, hgn, hadm, hmem⟩ := hv
  exact ⟨hactive.trans ha, hstaged, hkeys, hsess, (congrArg (bits · 2 0) hrd).trans (field_fwState t (by decide)), htiles, hgn,
    hadm, hmem⟩

/-- The bundle of a checked slot is put in force where its agents pass and its SVN is not below the floor. -/
theorem fwAdopt_adopted {t : State} (h : t.mg.stagedOk = true) (ok : Bool) : Adopted t (t.fwAdopt ok) ok := by
  have h0 : (!t.mg.stagedOk) = false := by rw [h]; rfl
  unfold State.fwAdopt
  rw [if_neg (ne_true_of_eq_false h0)]
  change Adopted t (if (ok && decide (t.mg.floor ≤ t.fwSvn t.otherSlot)) = true then _ else _) ok
  by_cases hg : (ok && decide (t.mg.floor ≤ t.fwSvn t.otherSlot)) = true
  · rw [if_pos hg]
    refine adopted_of_view (a := t.otherSlot) ?_ (by simp_all)
    rw [fwView_agRecord, fwView_raise, fwView_status, fwView_measureSlot]
    rfl
  · rw [if_neg hg]
    refine adopted_of_view (a := t.mg.active) ?_ (by simp_all)
    rw [fwView_agRecord, fwView_raise]
    rfl

theorem fwActivate_adopts (hop : operatorOnly (roleOf o) = true) (hs : s.mg.stagedOk = true) (ha : s.adm.active = none) :
    ∃ ok, Adopted s (s.order o mgmtPage 0x124 2) ok := by
  obtain ⟨j, n, hu⟩ := order_mgmt (s := s) (o := o) (off := 0x124) (m := 3) (v := 2) (st := stOk)
    (g := fun t => t.free.2.fwAdopt (bit t.free.1.toNat 0)) (by decide) (fields_fwCmd hop 2)
    (fun j n => by
      have hb : (s.journaled j n).fwActivateNow =
          (false, (s.journaled j n).free.2.fwAdopt (bit (s.journaled j n).free.1.toNat 0)) :=
        if_neg (by show ¬ (s.adm.active.isSome || !s.mg.stagedOk) = true; simp [hs, ha])
      show ((if (s.journaled j n).fwActivateNow.1 then stAccess else stOk), (s.journaled j n).fwActivateNow.2) = _
      rw [hb]; rfl) (by decide)
  obtain ⟨hactive, hstaged, hkeys, hsess, hshown, hkept⟩ :=
    fwAdopt_adopted (t := (s.journaled j n).free.2) hs (bit (s.journaled j n).free.1.toNat 0)
  exact ⟨_, (congrArg Mgmt.active hu.mg).trans hactive, (congrArg Mgmt.stagedOk hu.mg).trans hstaged,
    (congrArg Mgmt.keys hu.mg).trans hkeys, (congrArg Mgmt.sessions hu.mg).trans hsess,
    (field_of_regs hu.regs _ _ _ _).trans hshown, hu.mgmtKept.trans hkept⟩

theorem fwActivate_undone (h : operatorOnly (roleOf o) = false ∨ s.mg.stagedOk = false ∨ s.adm.active.isSome = true) :
    (s.order o mgmtPage 0x124 2).mg = s.mg ∧ MgmtKept s (s.order o mgmtPage 0x124 2) := by
  cases hop : operatorOnly (roleOf o) with
  | false => exact fwCmd_denied hop 2
  | true =>
    refine order_mgmt_undone (m := 3) (st := stAccess) (by decide) (fields_fwCmd hop 2) fun j n => ?_
    have hb : (s.journaled j n).fwActivateNow = (true, s.journaled j n) :=
      if_pos (by
        show (s.adm.active.isSome || !s.mg.stagedOk) = true
        rcases h with h | h | h
        · exact absurd (hop.symm.trans h) (by decide)
        · simp [h]
        · simp [h])
    show ((if (s.journaled j n).fwActivateNow.1 then stAccess else stOk), (s.journaled j n).fwActivateNow.2) = _
    rw [hb]; rfl

theorem fwDiscard_drops (hop : operatorOnly (roleOf o) = true) (hs : s.mg.stagedOk = true) :
    (s.order o mgmtPage 0x124 3).mg = { s.mg with stagedOk := false } ∧
      (s.order o mgmtPage 0x124 3).field mgmtPage 0x128 2 0 = 0 ∧ MgmtKept s (s.order o mgmtPage 0x124 3) := by
  obtain ⟨j, n, hu⟩ := order_mgmt (s := s) (o := o) (off := 0x124) (m := 3) (v := 3) (st := stOk)
    (g := fun t => (t.modMg fun g => { g with stagedOk := false }).fwState 0) (by decide) (fields_fwCmd hop 3)
    (fun j n => by
      have hb : (s.journaled j n).fwDrop = (false, ((s.journaled j n).modMg fun g => { g with stagedOk := false }).fwState 0) :=
        if_neg (by show ¬ (!s.mg.stagedOk) = true; simp [hs])
      show ((if (s.journaled j n).fwDrop.1 then stAccess else stOk), (s.journaled j n).fwDrop.2) = _
      rw [hb]; rfl) (by decide)
  exact ⟨hu.mg.trans rfl, (field_of_regs hu.regs _ _ _ _).trans (field_fwState _ (by decide)), hu.mgmtKept⟩

theorem fwDiscard_undone (h : operatorOnly (roleOf o) = false ∨ s.mg.stagedOk = false) :
    (s.order o mgmtPage 0x124 3).mg = s.mg ∧ MgmtKept s (s.order o mgmtPage 0x124 3) := by
  cases hop : operatorOnly (roleOf o) with
  | false => exact fwCmd_denied hop 3
  | true =>
    refine order_mgmt_undone (m := 3) (st := stAccess) (by decide) (fields_fwCmd hop 3) fun j n => ?_
    have hb : (s.journaled j n).fwDrop = (true, s.journaled j n) :=
      if_pos (by
        show (!s.mg.stagedOk) = true
        rcases h with h | h
        · exact absurd (hop.symm.trans h) (by decide)
        · simp [h])
    show ((if (s.journaled j n).fwDrop.1 then stAccess else stOk), (s.journaled j n).fwDrop.2) = _
    rw [hb]; rfl

/-! ## QUOTE_CMD, the key window and CLOSE_ALL -/

theorem notDebug_roles (r : Role) : (operatorOnly r || decide (r = .host)) = anyButDebug r := by
  cases r <;> rfl

/-- What QUOTE_CMD asks for. -/
def State.quoteAsked (s : State) (kind : Nat) : QuoteReq :=
  { kind := kind, dst := s.field mgmtPage 0x160 31 6 * 64 + s.field mgmtPage 0x164 15 0 * 2 ^ 32
    nonce := (List.range 8).foldl (fun acc k => acc ++ natLe 4 (s.rdN mgmtPage (0x180 + 4 * k))) [] }

theorem quoteCmd_asks (hd : anyButDebug (roleOf o) = true) {v : Word} (hv : v.toNat &&& 3 = v.toNat) (h0 : v.toNat ≠ 0) :
    (s.order o mgmtPage 0x168 v).mg = { s.mg with quotes := s.mg.quotes ++ [s.quoteAsked v.toNat] } ∧
      MgmtKept s (s.order o mgmtPage 0x168 v) := by
  obtain ⟨j, n, hu⟩ := order_mgmt (s := s) (o := o) (off := 0x168) (m := 3) (v := v) (st := stOk)
    (g := fun t => t.quoteReq v.toNat) (by decide)
    (fun j n => by
      show allOf 3 (operatorOnly (roleOf o) || decide (roleOf o = .host)) = _
      rw [notDebug_roles, hd]; rfl)
    (fun j n => by
      rw [hv]
      exact congrArg (Prod.mk stOk) (if_neg (ne_true_of_eq_false (beq_eq_false_iff_ne.2 h0)))) (by decide)
  exact ⟨hu.mg.trans rfl, hu.mgmtKept⟩

theorem quoteCmd_denied (hd : anyButDebug (roleOf o) = false) (v : Word) :
    (s.order o mgmtPage 0x168 v).mg = s.mg ∧ MgmtKept s (s.order o mgmtPage 0x168 v) :=
  (order_noneOf (m := 3) (by decide) fun j n => by
    show allOf 3 (operatorOnly (roleOf o) || decide (roleOf o = .host)) = _
    rw [notDebug_roles, hd]; rfl).mgmtKept

theorem fields_keyWin (hr : roleOf o = .host) (hk : s.mg.keys = []) (v : Word) (j : Sparse JEnt) (n : Nat) :
    (s.journaled j n).fields (roleOf o) mgmtPage 0x16C v.toNat = (0xFFFFFFFF, 0xFFFFFFFF) := by
  show allOf 0xFFFFFFFF (decide (roleOf o = .host) && s.mg.keys.isEmpty) = _
  rw [hr, hk]; rfl

theorem and_full (v : Word) : v.toNat &&& 0xFFFFFFFF = v.toNat := by
  rw [show (0xFFFFFFFF : Nat) = 2 ^ 32 - 1 from rfl, Nat.and_two_pow_sub_one_eq_mod]
  exact Nat.mod_eq_of_lt v.isLt

/-- The host enrols the first key. -/
theorem keyWin_enrols (hr : roleOf o = .host) (hk : s.mg.keys = []) :
    (s.order o mgmtPage 0x16C 0x100).mg = { s.mg with keys := [(0,
      { key := (List.range 8).foldl (fun acc k => acc ++ natLe 4 (s.rdN mgmtPage (0x1A0 + 4 * k))) [], roles := 7 })] } ∧
    (s.order o mgmtPage 0x16C 0x100).flag mgmtPage offEvt 7 = true ∧ MgmtKept s (s.order o mgmtPage 0x16C 0x100) := by
  obtain ⟨j, n, hu⟩ := order_mgmt (s := s) (o := o) (off := 0x16C) (m := 0xFFFFFFFF) (v := 0x100) (st := stOk)
    (g := fun t => t.enroll 0 ((List.range 8).foldl (fun acc k => acc ++ natLe 4 (t.rdN mgmtPage (0x1A0 + 4 * k))) []) 7)
    (by decide) (fields_keyWin hr hk 0x100)
    (fun j n => by
      have hb : (s.journaled j n).keyWin 0x100 = (false, (s.journaled j n).enroll 0
          ((List.range 8).foldl (fun acc k => acc ++ natLe 4 ((s.journaled j n).rdN mgmtPage (0x1A0 + 4 * k))) []) 7) :=
        (if_neg (by show ¬ (!s.mg.keys.isEmpty) = true; simp [hk])).trans (if_neg (by decide))
      show ((if ((s.journaled j n).keyWin 0x100).1 then stAccess else stOk), ((s.journaled j n).keyWin 0x100).2) = _
      rw [hb]; rfl) (by decide)
  exact ⟨hu.mg.trans (congrArg (fun k => { s.mg with keys := k }) (congrArg (sput · 0 _) hk)),
    (hu.flag _ _ _).trans (State.flag_raise_same _ _ _ (by decide)), hu.mgmtKept⟩

/-- The key window does nothing for another role, with a key enrolled, or for another value. -/
theorem keyWin_undone {v : Word} (h : roleOf o ≠ .host ∨ s.mg.keys ≠ [] ∨ v ≠ 0x100) :
    (s.order o mgmtPage 0x16C v).mg = s.mg ∧ MgmtKept s (s.order o mgmtPage 0x16C v) := by
  by_cases hrk : roleOf o = .host ∧ s.mg.keys = []
  · obtain ⟨hr, hk⟩ := hrk
    have hv : v.toNat ≠ 0x100 := fun hv => by
      rcases h with h | h | h
      · exact h hr
      · exact h hk
      · exact h (BitVec.eq_of_toNat_eq hv)
    refine order_mgmt_undone (m := 0xFFFFFFFF) (st := stOk) (by decide) (fields_keyWin hr hk v) fun j n => ?_
    rw [and_full]
    have hb : (s.journaled j n).keyWin v.toNat = (false, s.journaled j n) :=
      (if_neg (by show ¬ (!s.mg.keys.isEmpty) = true; simp [hk])).trans (if_pos (bne_iff_ne.2 hv))
    show ((if ((s.journaled j n).keyWin v.toNat).1 then stAccess else stOk), ((s.journaled j n).keyWin v.toNat).2) = _
    rw [hb]; rfl
  · refine (order_noneOf (m := 0xFFFFFFFF) (by decide) fun j n => ?_).mgmtKept
    show allOf 0xFFFFFFFF (decide (roleOf o = .host) && s.mg.keys.isEmpty) = _
    have hb : (decide (roleOf o = .host) && s.mg.keys.isEmpty) = false := by
      simpa [Bool.and_eq_false_imp, List.isEmpty_iff] using hrk
    rw [hb]; rfl

/-- A bit of the value that `withBit` writes. -/
theorem withBit_testBit (s : State) (page off i k : Nat) (b : Bool) (hk : k < 32) :
    (s.withBit page off i b).toNat.testBit k = if k = i then b else (s.rdN page off).testBit k := by
  have hv : (s.withBit page off i b).toNat = setBits (s.rdN page off) i i (b2n b) % 2 ^ 32 := BitVec.toNat_ofNat _ _
  rw [hv, Nat.testBit_mod_two_pow, testBit_setBits _ _ _ _ _ (le_refl i), decide_eq_true hk, Bool.true_and]
  by_cases h : k = i
  · rw [if_pos h, if_pos ⟨h.ge, h.le⟩, h, Nat.sub_self]
    cases b <;> rfl
  · rw [if_neg h, if_neg fun hle => h (le_antisymm hle.2 hle.1)]

theorem closeAll_closes (hc : custodianOnly (roleOf o) = true) :
    (s.order o mgmtPage offControl (s.withBit mgmtPage offControl 0 true)).mg = { s.mg with sessions := [] } ∧
      MgmtKept s (s.order o mgmtPage offControl (s.withBit mgmtPage offControl 0 true)) := by
  obtain ⟨j, n, hu⟩ := order_mgmt (s := s) (o := o) (off := offControl) (m := 1)
    (v := s.withBit mgmtPage offControl 0 true) (st := stOk) (g := fun t => t.closeWhere fun _ => true) (by decide)
    (fun j n => by
      show allOf 1 (custodianOnly (roleOf o)) = _
      rw [hc]; rfl)
    (fun j n => by
      refine congrArg (Prod.mk stOk) (if_pos ?_)
      rw [bit, Nat.testBit_and, withBit_testBit s mgmtPage offControl 0 0 true (by decide)]
      rfl) (by decide)
  refine ⟨hu.mg.trans ?_, hu.mgmtKept⟩
  show { s.mg with sessions := s.mg.sessions.filter fun _ => !true } = _
  simp

theorem closeAll_denied (hc : custodianOnly (roleOf o) = false) (v : Word) :
    (s.order o mgmtPage offControl v).mg = s.mg ∧ MgmtKept s (s.order o mgmtPage offControl v) :=
  (order_noneOf (m := 1) (by decide) fun j n => by
    show allOf 1 (custodianOnly (roleOf o)) = _
    rw [hc]; rfl).mgmtKept

end

/-! ## The statement -/

theorem firmwareOrders_end {s : State} (hs : s.Serves) (o : Origin) :
    Ends (exec (.fwVerify o) s) (s.order o mgmtPage 0x124 1) ∧ Ends (exec (.fwActivate o) s) (s.order o mgmtPage 0x124 2) ∧
      Ends (exec (.fwDiscard o) s) (s.order o mgmtPage 0x124 3) :=
  ⟨show Ends (execFwVerify o s) _ from runOn_ends_of hs.on rfl, show Ends (execFwActivate o s) _ from runOn_ends_of hs.on rfl,
    show Ends (execFwDiscard o s) _ from runOn_ends_of hs.on rfl⟩

theorem quoteOrders_end {s : State} (hs : s.Serves) (o : Origin) :
    Ends (exec (.hostQuote o) s) (s.order o mgmtPage 0x168 1) ∧ Ends (exec (.hostCert o) s) (s.order o mgmtPage 0x168 2) ∧
      Ends (exec (.hostMeasLog o) s) (s.order o mgmtPage 0x168 3) :=
  ⟨show Ends (execHostQuote o s) _ from runOn_ends_of hs.on rfl, show Ends (execHostCert o s) _ from runOn_ends_of hs.on rfl,
    show Ends (execHostMeasLog o s) _ from runOn_ends_of hs.on rfl⟩

/-- The end of the check of a slot, and of a quote. -/
theorem checksAndQuotes_end {s : State} (hs : s.Serves) :
    (s.mg.staging = false → ∀ ok, Ends (exec (.fwVerifyDone ok) s) s) ∧
    (∀ ok, s.mg.staging = true →
      let good := ok && s.slotOk s.otherSlot && decide (s.mg.log.length + 1 + (s.fwComps s.otherSlot).length ≤ 256)
      let t := s.modMg fun g => { g with staging := false, stagedOk := good }
      Ends (exec (.fwVerifyDone ok) s) (if good then ((t.fwState 2).raise mgmtPage 3).holdRequest 6 else t.fwState 3)) ∧
    (s.mg.quotes = [] → Ends (exec .quoteDone s) s) ∧
    (∀ q rest, s.mg.quotes = q :: rest →
      let t := s.modMg fun g => { g with quotes := rest }
      let d := if q.kind = 1 then s.quoteOf q.nonce else if q.kind = 2 then Config.certificate else s.logBytes
      Ends (exec .quoteDone s) ((if s.inHost q.dst d.length then t.modWrite q.dst (sound d) else t).raise mgmtPage 8)) := by
  refine ⟨fun h ok => ?_, fun ok h => ?_, fun h => ?_, fun q rest h => ?_⟩
  · exact show Ends (execFwVerifyDone ok s) _ from runOn_ends_of hs.on (if_pos (by rw [h]; rfl))
  · exact show Ends (execFwVerifyDone ok s) _ from runOn_ends_of hs.on (if_neg (by rw [h]; decide))
  · refine show Ends (execQuoteDone s) _ from runOn_ends_of hs.on ?_
    rw [h]
  · refine show Ends (execQuoteDone s) _ from runOn_ends_of hs.on ?_
    simp only [h, beq_iff_eq]
    rfl

/-- Settles O54: each order is one to its register, and the ends of a check and of a quote are what `exec` says. -/
theorem firmwareAndQuotesComplete : Obligations.FirmwareAndQuotesComplete := by
  unfold Obligations.FirmwareAndQuotesComplete
  refine ⟨fun s o hs => ?_, fun s hs => checksAndQuotes_end hs⟩
  obtain ⟨hverify, hactivate, hdiscard⟩ := firmwareOrders_end hs o
  obtain ⟨hquote, hcert, hlog⟩ := quoteOrders_end hs o
  refine ⟨⟨hverify, ?_, ?_⟩, ⟨hactivate, ?_, ?_⟩, ⟨hdiscard, ?_, ?_⟩, ⟨hquote, hcert, hlog, ?_⟩, ?_,
    show Ends (execCloseAll o s) _ from runOn_ends_of hs.on rfl, ?_, ?_⟩
  · exact fwVerify_begins
  · exact fun h => fwVerify_undone (h.imp_left Bool.eq_false_iff.2)
  · intro hop hk ha
    obtain ⟨ok, hactive, hstaged, hkeys, hsess, hshown, hkept⟩ := fwActivate_adopts hop hk ha
    exact ⟨⟨ok, hactive⟩, hstaged, hkeys, hsess, hshown, hkept⟩
  · exact fun h => fwActivate_undone (h.imp_left Bool.eq_false_iff.2)
  · exact fwDiscard_drops
  · exact fun h => fwDiscard_undone (h.imp_left Bool.eq_false_iff.2)
  · intro n hn
    have hn' : n = 1 ∨ n = 2 ∨ n = 3 := by simpa using hn
    refine ⟨fun hd => ?_, fun hd => quoteCmd_denied hd _⟩
    rcases hn' with rfl | rfl | rfl <;> exact quoteCmd_asks hd (by decide) (by decide)
  · intro v
    refine ⟨show Ends (execKeyWinCommit o v s) _ from runOn_ends_of hs.on rfl, ?_, keyWin_undone⟩
    rintro hr hk rfl
    obtain ⟨hmg, hflag, hkept⟩ := keyWin_enrols (s := s) hr hk
    exact ⟨hkept, hflag, hmg⟩
  · exact closeAll_closes
  · exact fun hc => closeAll_denied hc _

end Sys2Proof.Machine
end

section
/-!
PROOF. The commands of STAGE_CMD, and the states of sites (Sections 13.6 and 13.7). A command acts exactly where `stageCmd` has
a result; what that result is follows from what the replacement of sites, the start of a self-test, and the withdrawal of a
staged map do.
-/
namespace Sys2Proof.Machine

/-! ## The state of a site -/

theorem siteEnt_mapPut (s : State) (t : Nat) (e : SiteEnt) : sget (shippedSite t) (mapPut s.map t e) t = e := by
  unfold mapPut
  split
  · next he => rw [sget, sfind_sdel_same, he]; rfl
  · exact sget_sput_same _ _ _ _

/-- What a self-test speaks of, and a new state of a site leaves as it is. -/
def State.testView (s : State) :=
  (s.mem, s.tiles, s.gn, s.spare.test, s.spare.opened, s.flag sparePage offStatus 2)

theorem testView_unstage (s : State) : s.unstage.testView = s.testView := by
  unfold State.testView
  rw [show s.unstage.flag sparePage offStatus 2 = s.flag sparePage offStatus 2 from
    (s.modSpare fun x => { x with staged := none, toOpen := [] }).flag_setFlag_bit sparePage offStatus 0 2 false (by decide)
      (by decide)]
  rfl

theorem testView_siteState (s : State) (t st : Nat) : (s.siteState t st).testView = s.testView := by
  unfold State.siteState
  dsimp only
  split
  · rfl
  · split
    · rfl
    · exact testView_unstage _

theorem testView_siteLater (s : State) (t st : Nat) : (s.siteLater t st).testView = s.testView := by
  unfold State.siteLater
  split
  · rfl
  · exact testView_siteState s t st

/-- While frames run, a new state of a site waits for the boundary. -/
theorem siteLater_running {s : State} (h : s.gn.running = true) (t st : Nat) (b : Bool) :
    s.siteLater t st b = s.modSpare fun x => { x with waiting := x.waiting ++ [(t, st, b)] } := if_pos h

theorem siteLater_waits (l : List Nat) (st : Nat) : ∀ {s : State}, s.gn.running = true →
    l.foldl (fun s t => s.siteLater t st) s = s.modSpare fun x => { x with waiting := x.waiting ++ l.map fun t => (t, st, false) } := by
  induction l with
  | nil => exact fun {s} _ => by simp [State.modSpare]
  | cons t l ih =>
    intro s h
    rw [List.foldl_cons, siteLater_running h, ih (s := s.modSpare _) h]
    simp [State.modSpare]

/-- Where no frames run and no map is staged, a site takes its new state at once. -/
theorem siteLater_now {s : State} (h : s.gn.running = false) (hs : s.spare.staged = none) (t st : Nat) (b : Bool) :
    (s.siteLater t st b).siteEnt t = { s.siteEnt t with tile := 0, st := st } := by
  have hstate : (s.siteState t st).siteEnt t = { s.siteEnt t with tile := 0, st := st } := by
    unfold State.siteState
    simp only [hs]
    exact siteEnt_mapPut s t _
  rw [State.siteLater, if_neg (ne_true_of_eq_false h)]
  cases b
  · exact hstate
  · exact hstate

theorem siteClean_clears (s : State) (t : Nat) : ((s.siteClean t).tile t).cc = [] ∧ ((s.siteClean t).tile t).rcache = [] ∧
    ((s.siteClean t).tile t).dmaq = [] := by
  have htile : (s.siteClean t).tile t = Tile.rcClear { s.tile t with cc := [], kc := [], dmaq := [], mbox := [] } := by
    show ((s.modTile t fun x => { x with cc := [], kc := [], dmaq := [], mbox := [] }).modTile t (·.rcClear)).tile t = _
    simp [State.modTile, State.setTile, State.tile]
  rw [htile]
  exact ⟨rfl, rfl, rfl⟩

/-! ## The start of a self-test -/

/-- The module once a self-test has begun. -/
def State.tested (s : State) (x : SelfTest) : State :=
  let back := x.sites.filter fun t => (s.siteEnt t).st == 1
  let s := (s.modSpare fun y => { y with test := some { x with back := back } }).setFlag sparePage offStatus 2 true
  (x.sites.filter fun t => (s.siteEnt t).st == 1 || (s.siteEnt t).st == 3).foldl (fun s t => s.siteLater t 2) s

theorem beginTest_eq (s : State) (x : SelfTest) :
    s.beginTest x = if s.spare.test.isSome || x.sites.isEmpty then none else some (s.tested x) := rfl

theorem testView_tested (s : State) (x : SelfTest) : (s.tested x).testView = (s.mem, s.tiles, s.gn,
    some { x with back := x.sites.filter fun t => (s.siteEnt t).st == 1 }, s.spare.opened, true) := by
  unfold State.tested
  dsimp only
  rw [foldl_keeps State.testView _ (fun u t => testView_siteLater u t 2)]
  unfold State.testView
  rw [State.flag_setFlag_same _ _ _ _ _ (by decide)]
  rfl

theorem tested_running {s : State} (h : s.gn.running = true) (x : SelfTest) : (s.tested x).map = s.map ∧
    (s.tested x).spare.waiting = s.spare.waiting ++ (x.sites.filter fun t =>
      (s.siteEnt t).st == 1 || (s.siteEnt t).st == 3).map fun t => (t, 2, false) := by
  unfold State.tested
  dsimp only
  rw [siteLater_waits _ 2 (by exact h)]
  exact ⟨rfl, rfl⟩

/-! ## Where a command of STAGE_CMD does not act -/

theorem beginTest_isNone (s : State) (x : SelfTest) : (s.beginTest x).isNone = (s.spare.test.isSome || x.sites.isEmpty) := by
  rw [beginTest_eq]
  cases (s.spare.test.isSome || x.sites.isEmpty) <;> rfl

theorem replaceSites_isNone (s : State) (l : List Nat) (st : Nat) :
    (s.replaceSites l st).isNone = (!s.fuseOk 0 || (moveTiles st l l s.mapBase).isNone) := by
  unfold State.replaceSites
  cases s.fuseOk 0
  · rfl
  · simp

theorem isNone_ite {c : Prop} [Decidable c] {a b a' b' : Option State} (ha : a.isNone = a'.isNone) (hb : b.isNone = b'.isNone) :
    (if c then a else b).isNone = (if c then a' else b').isNone := by
  split
  · exact ha
  · exact hb

/-- Whether a command acts does not depend on the journal. -/
theorem stageCmd_isNone_journaled (s : State) (j : Sparse JEnt) (n : Nat) {v : Nat} (hv : v ∈ [1, 2, 3, 4, 5, 6]) :
    ((s.journaled j n).stageCmd v).isNone = (s.stageCmd v).isNone := by
  have htest : ∀ x, ((s.journaled j n).beginTest x).isNone = (s.beginTest x).isNone := fun x => by
    rw [beginTest_isNone, beginTest_isNone]; rfl
  have hreplace : ∀ l st, ((s.journaled j n).replaceSites l st).isNone = (s.replaceSites l st).isNone := fun l st => by
    rw [replaceSites_isNone, replaceSites_isNone]; rfl
  have hv' : v = 1 ∨ v = 2 ∨ v = 3 ∨ v = 4 ∨ v = 5 ∨ v = 6 := by simpa using hv
  unfold State.stageCmd
  refine isNone_ite rfl ?_
  rcases hv' with rfl | rfl | rfl | rfl | rfl | rfl
  · exact isNone_ite rfl (hreplace _ _)
  · exact isNone_ite rfl (by rw [State.replaceRowSites, State.replaceRowSites, Option.isNone_map, Option.isNone_map, hreplace]; rfl)
  · exact isNone_ite (htest _) rfl
  · exact isNone_ite rfl (by rw [Option.isNone_map, Option.isNone_map, htest]; rfl)
  · exact isNone_ite rfl (htest _)
  · exact isNone_ite rfl rfl

/-! ## STAGE_CMD as an order -/

section
variable {s : State} {o : Origin}

/-- What an order to STAGE_CMD leaves as it is. -/
def StageKept (s u : State) : Prop := u.mem = s.mem ∧ u.tiles = s.tiles ∧ u.gn = s.gn

theorem fields_stageCmd (hd : anyButDebug (roleOf o) = true) (v : Word) (j : Sparse JEnt) (n : Nat) :
    (s.journaled j n).fields (roleOf o) sparePage 0x104 v.toNat = (7, 7) := by
  show allOf 7 (anyButDebug (roleOf o)) = _
  rw [hd]; rfl

/-- STAGE_CMD of a role that may not give it, or that does not act, changes nothing. -/
theorem stageCmd_undone {v : Word} (hv : v.toNat ∈ [1, 2, 3, 4, 5, 6]) (h : anyButDebug (roleOf o) = false ∨ s.stageCmd v.toNat = none) :
    (s.order o sparePage 0x104 v).spare = s.spare ∧ (s.order o sparePage 0x104 v).map = s.map ∧
      StageKept s (s.order o sparePage 0x104 v) := by
  have hkept : ∀ {u : State}, Refused s u → u.spare = s.spare ∧ u.map = s.map ∧ StageKept s u := by
    rintro u ⟨r, e, h, l, rfl⟩
    exact ⟨rfl, rfl, rfl, rfl, rfl⟩
  have hmask : v.toNat &&& 7 = v.toNat := by
    have hv' : v.toNat = 1 ∨ v.toNat = 2 ∨ v.toNat = 3 ∨ v.toNat = 4 ∨ v.toNat = 5 ∨ v.toNat = 6 := by simpa using hv
    rcases hv' with hv' | hv' | hv' | hv' | hv' | hv' <;> rw [hv'] <;> rfl
  cases hd : anyButDebug (roleOf o) with
  | false => exact hkept (order_noneOf (m := 7) (by decide) fun j n => by
      show allOf 7 (anyButDebug (roleOf o)) = _
      rw [hd]; rfl)
  | true =>
    have hnone : s.stageCmd v.toNat = none := h.resolve_left fun h => absurd (hd.symm.trans h) (by decide)
    refine hkept (order_undone (m := 7) (st := stAccess) (by decide) (fun h => absurd h (by decide)) (by decide)
      (fields_stageCmd hd v) fun j n => ?_)
    have hj : (s.journaled j n).stageCmd v.toNat = none := Option.isNone_iff_eq_none.1
      ((stageCmd_isNone_journaled s j n hv).trans (Option.isNone_iff_eq_none.2 hnone))
    rw [hmask]
    show (match (s.journaled j n).stageCmd v.toNat with | some t => (stOk, t) | none => (stAccess, s.journaled j n)) = _
    rw [hj]

/-- STAGE_CMD of a role that may give it, where it acts. -/
theorem stageCmd_acts (hd : anyButDebug (roleOf o) = true) {v : Word} (hmask : v.toNat &&& 7 = v.toNat) {g : State → State}
    (hact : ∀ j n, (s.journaled j n).stageCmd v.toNat = some (g (s.journaled j n))) :
    ∃ j n, Answered (g (s.journaled j n)) (s.order o sparePage 0x104 v) := by
  obtain ⟨-, j, n, hh⟩ := accept_journaled s o sparePage 0x104 v
  refine ⟨j, n, hh ▸ order_allOf (g := g) (m := 7) (st := stOk) (by decide) (fun h => absurd h (by decide)) (by decide)
    (fields_stageCmd hd v) (fun j n => ?_) (by decide)⟩
  rw [hmask]
  show (match (s.journaled j n).stageCmd v.toNat with | some t => (stOk, t) | none => (stAccess, s.journaled j n)) = _
  rw [hact j n]

theorem Answered.stageKept {s u : State} (h : Answered s u) : u.spare = s.spare ∧ u.map = s.map ∧ StageKept s u := by
  obtain ⟨j, n, c, l, rfl⟩ := h; exact ⟨rfl, rfl, rfl, rfl, rfl⟩

theorem retireSite_stages (hd : anyButDebug (roleOf o) = true) (ht : s.field sparePage 0x100 10 0 < 1152)
    (hst : (mapEnt s.mapBase (s.field sparePage 0x100 10 0)).st = 0) (hf : s.fuseOk 0 = true) {m : Sparse SiteEnt}
    (hm : moveTiles 2 [s.field sparePage 0x100 10 0] [s.field sparePage 0x100 10 0] s.mapBase = some m) :
    (s.order o sparePage 0x104 1).spare = { s.spare with staged := some m } ∧ (s.order o sparePage 0x104 1).map = s.map ∧
      StageKept s (s.order o sparePage 0x104 1) := by
  obtain ⟨j, n, hu⟩ := stageCmd_acts (s := s) (v := 1) hd (by decide) (g := fun t => t.stage m) fun j n => by
    refine (if_neg (Nat.not_le.2 ht)).trans ((if_neg (ne_true_of_eq_false ?_)).trans ((if_neg (ne_true_of_eq_false ?_)).trans ?_))
    · exact bne_eq_false_iff_eq.2 hst
    · exact congrArg (!·) hf
    · exact congrArg (Option.map (State.stage (s.journaled j n))) hm
  obtain ⟨hspare, hmap, hkept⟩ := hu.stageKept
  exact ⟨hspare.trans rfl, hmap, hkept⟩

theorem retireRow_stages (hd : anyButDebug (roleOf o) = true) (ht : s.field sparePage 0x100 10 0 < 1152)
    (hopen : s.spare.opened.contains (s.field sparePage 0x100 10 0 / 36) = false)
    (hto : s.spare.toOpen.contains (s.field sparePage 0x100 10 0 / 36) = false) (hf : s.fuseOk 0 = true) {m : Sparse SiteEnt}
    (hm : moveTiles 2 (rowSites (s.field sparePage 0x100 10 0 / 36)) (rowSites (s.field sparePage 0x100 10 0 / 36)) s.mapBase =
      some m) :
    (s.order o sparePage 0x104 2).spare =
        { s.spare with staged := some m, toOpen := insNat (s.field sparePage 0x100 10 0 / 36) s.spare.toOpen } ∧
      (s.order o sparePage 0x104 2).map = s.map ∧ StageKept s (s.order o sparePage 0x104 2) := by
  obtain ⟨j, n, hu⟩ := stageCmd_acts (s := s) (v := 2) hd (by decide)
    (g := fun t => { t.stage m with spare :=
      { (t.stage m).spare with toOpen := insNat (s.field sparePage 0x100 10 0 / 36) (t.stage m).spare.toOpen } })
    fun j n => by
      refine (if_neg (Nat.not_le.2 ht)).trans ((if_neg (ne_true_of_eq_false ?_)).trans ?_)
      · exact Bool.or_eq_false_iff.2 ⟨hopen, hto⟩
      · have hs : (s.journaled j n).replaceSites (rowSites (s.field sparePage 0x100 10 0 / 36)) 2 =
            some ((s.journaled j n).stage m) :=
          (if_neg (ne_true_of_eq_false (congrArg (!·) hf))).trans (congrArg (Option.map (State.stage (s.journaled j n))) hm)
        exact congrArg (Option.map _) hs
  obtain ⟨hspare, hmap, hkept⟩ := hu.stageKept
  exact ⟨hspare.trans rfl, hmap, hkept⟩

theorem withdraw_unstages (hd : anyButDebug (roleOf o) = true) (ht : s.field sparePage 0x100 10 0 < 1152)
    (hs : s.spare.staged.isSome = true) :
    (s.order o sparePage 0x104 6).spare = { s.spare with staged := none, toOpen := [] } ∧
      (s.order o sparePage 0x104 6).map = s.map ∧ StageKept s (s.order o sparePage 0x104 6) := by
  obtain ⟨j, n, hu⟩ := stageCmd_acts (s := s) (v := 6) hd (by decide) (g := State.unstage) fun j n => by
    refine (if_neg (Nat.not_le.2 ht)).trans (if_neg ?_)
    show ¬ s.spare.staged.isNone = true
    simpa [Option.isNone_iff_eq_none, Option.isSome_iff_ne_none] using hs
  obtain ⟨hspare, hmap, hkept⟩ := hu.stageKept
  exact ⟨hspare.trans rfl, hmap, hkept⟩

/-- A self-test has begun. -/
def Begun (s : State) (x : SelfTest) (u : State) : Prop :=
  StageKept s u ∧ u.flag sparePage offStatus 2 = true ∧
    u.spare.test = some { x with back := x.sites.filter fun t => (s.siteEnt t).st == 1 } ∧
    (s.gn.running = true → u.map = s.map ∧ u.spare.waiting = s.spare.waiting ++ (x.sites.filter fun t =>
      (s.siteEnt t).st == 1 || (s.siteEnt t).st == 3).map fun t => (t, 2, false))

theorem tested_begun (s : State) (x : SelfTest) : Begun s x (s.tested x) ∧ (s.tested x).spare.opened = s.spare.opened := by
  have hview := testView_tested s x
  simp only [State.testView, Prod.mk.injEq] at hview
  obtain ⟨hmem, htiles, hgn, htest, hopened, hflag⟩ := hview
  exact ⟨⟨⟨hmem, htiles, hgn⟩, hflag, htest, fun h => tested_running h x⟩, hopened⟩

theorem Answered.begun {t u : State} {x : SelfTest} (h : Answered t u) (hb : Begun s x t) : Begun s x u := by
  obtain ⟨j, n, c, l, rfl⟩ := h; exact hb

theorem begun_journaled {j : Sparse JEnt} {n : Nat} {x : SelfTest} {u : State} (h : Begun (s.journaled j n) x u) : Begun s x u := h

theorem siteTest_begins (hd : anyButDebug (roleOf o) = true) {v : Word} (hmask : v.toNat &&& 7 = v.toNat) {x : SelfTest}
    (hx : x.sites ≠ []) (htest : s.spare.test = none)
    (hact : ∀ j n, (s.journaled j n).stageCmd v.toNat = (s.journaled j n).beginTest x) :
    Begun s x (s.order o sparePage 0x104 v) := by
  obtain ⟨j, n, hu⟩ := stageCmd_acts (s := s) hd hmask (g := fun t => t.tested x) fun j n => by
    rw [hact, beginTest_eq, if_neg]
    show ¬ (s.spare.test.isSome || x.sites.isEmpty) = true
    simp [htest, hx]
  exact hu.begun (begun_journaled (tested_begun (s.journaled j n) x).1)

/-- The switch of a row leaves a self-test as it is. -/
theorem tileSwitch_begun {u : State} {x : SelfTest} (h : Begun s x u) (r : Nat) (on : Bool) : Begun s x (u.tileSwitch r on) := by
  obtain ⟨hkept, hflag, htest, hrun⟩ := h
  have hother : ∀ (t : State) (i : Nat) (off : Nat), regOff off →
      (t.setFlag powPage off i on).flag sparePage offStatus 2 = t.flag sparePage offStatus 2 := fun t i off hoff =>
    flag_setFlag_other hoff (by decide) fun h => absurd h.1 (by decide)
  have hshown : (u.tileSwitch r on).flag sparePage offStatus 2 = true := by
    unfold State.tileSwitch State.setPg
    split
    · exact (hother _ _ _ (by decide)).trans hflag
    · exact (hother _ _ _ (by decide)).trans hflag
  have hrest : ∀ t : State, ∃ regs, t.setPg (r + 1) on = { t with regs := regs } := fun t => by
    unfold State.setPg
    split <;> exact ⟨_, rfl⟩
  obtain ⟨regs, hregs⟩ := hrest (u.modSpare fun y =>
    { y with opened := if on then y.opened.filter (· != r) else insNat r y.opened })
  have hu := (show u.tileSwitch r on = _ from rfl).trans hregs
  rw [hu] at hshown ⊢
  exact ⟨hkept, hshown, htest, hrun⟩

/-- READMIT_ROW closes the row's switch, and begins the test of its sites that are out. -/
theorem rowTest_begins (hd : anyButDebug (roleOf o) = true) (ht : s.field sparePage 0x100 10 0 < 1152)
    (hout : s.outSites (s.field sparePage 0x100 10 0 / 36) ≠ []) (htest : s.spare.test = none) :
    Begun s { sites := s.outSites (s.field sparePage 0x100 10 0 / 36), readmit := true, row := true } (s.order o sparePage 0x104 4) ∧
      (s.order o sparePage 0x104 4).spare.opened = s.spare.opened.filter (· != s.field sparePage 0x100 10 0 / 36) := by
  generalize hr : s.field sparePage 0x100 10 0 / 36 = r at hout ⊢
  let x : SelfTest := { sites := s.outSites r, readmit := true, row := true }
  obtain ⟨j, n, hu⟩ := stageCmd_acts (s := s) (v := 4) hd (by decide) (g := fun t => (t.tested x).tileSwitch r true) fun j n => by
    refine (if_neg (Nat.not_le.2 ht)).trans ?_
    show (if (s.outSites (s.field sparePage 0x100 10 0 / 36)).isEmpty then none
      else ((s.journaled j n).beginTest { sites := s.outSites (s.field sparePage 0x100 10 0 / 36), readmit := true, row := true }).map
        (·.tileSwitch (s.field sparePage 0x100 10 0 / 36) true)) = _
    rw [hr, if_neg (by simpa using hout), beginTest_eq, if_neg]
    · rfl
    · show ¬ (s.spare.test.isSome || (s.outSites r).isEmpty) = true
      simp [htest, hout]
  obtain ⟨hbegun, hopened⟩ := tested_begun (s.journaled j n) x
  refine ⟨hu.begun (begun_journaled (tileSwitch_begun hbegun r true)), ?_⟩
  calc (s.order o sparePage 0x104 4).spare.opened
      = (((s.journaled j n).tested x).tileSwitch r true).spare.opened := congrArg Sparing.opened hu.stageKept.1
    _ = ((s.journaled j n).tested x).spare.opened.filter (· != r) := congrArg Sparing.opened (setPg_spare _ _ _)
    _ = s.spare.opened.filter (· != r) := congrArg (List.filter (· != r)) hopened

end

/-! ## The statement -/

/-- Each command of STAGE_CMD is an order to it. -/
theorem sparingOrders_end {s : State} (hs : s.Serves) (o : Origin) :
    Ends (exec (.retireSite o) s) (s.order o sparePage 0x104 1) ∧ Ends (exec (.retireRow o) s) (s.order o sparePage 0x104 2) ∧
      Ends (exec (.readmitSite o) s) (s.order o sparePage 0x104 3) ∧ Ends (exec (.readmitRow o) s) (s.order o sparePage 0x104 4) ∧
      Ends (exec (.selfTest o) s) (s.order o sparePage 0x104 5) ∧ Ends (exec (.withdrawStagedMap o) s) (s.order o sparePage 0x104 6) :=
  ⟨show Ends (execRetireSite o s) _ from runOn_ends_of hs.on rfl, show Ends (execRetireRow o s) _ from runOn_ends_of hs.on rfl,
    show Ends (execReadmitSite o s) _ from runOn_ends_of hs.on rfl, show Ends (execReadmitRow o s) _ from runOn_ends_of hs.on rfl,
    show Ends (execSelfTest o s) _ from runOn_ends_of hs.on rfl,
    show Ends (execWithdrawStagedMap o s) _ from runOn_ends_of hs.on rfl⟩

/-- Each command of STAGE_CMD, of a role that may give it and where it acts, has its effect. -/
theorem sparingOrders_act (s : State) (o : Origin) :
    let u (n : Word) : State := s.order o sparePage 0x104 n
    let t := s.field sparePage 0x100 10 0
    let r := t / 36
    let st := (s.siteEnt t).st
    let may : Prop := anyButDebug (roleOf o) = true ∧ t < 1152
    (∀ m, may → (mapEnt s.mapBase t).st = 0 → s.fuseOk 0 = true → moveTiles 2 [t] [t] s.mapBase = some m →
      (u 1).spare = { s.spare with staged := some m } ∧ (u 1).map = s.map ∧ StageKept s (u 1)) ∧
    (∀ m, may → s.spare.opened.contains r = false → s.spare.toOpen.contains r = false → s.fuseOk 0 = true →
      moveTiles 2 (rowSites r) (rowSites r) s.mapBase = some m →
      (u 2).spare = { s.spare with staged := some m, toOpen := insNat r s.spare.toOpen } ∧ (u 2).map = s.map ∧ StageKept s (u 2)) ∧
    (may → 2 ≤ st → s.spare.opened.contains r = false → s.spare.test = none →
      Begun s { sites := [t], readmit := true, row := false } (u 3)) ∧
    (may → s.outSites r ≠ [] → s.spare.test = none →
      Begun s { sites := s.outSites r, readmit := true, row := true } (u 4) ∧
      (u 4).spare.opened = s.spare.opened.filter (· != r)) ∧
    (may → st ≠ 3 → st ≠ 0 ∨ s.adm.active = none → s.spare.opened.contains r = false → s.spare.test = none →
      Begun s { sites := [t], readmit := false, row := false } (u 5)) ∧
    (may → s.spare.staged.isSome = true →
      (u 6).spare = { s.spare with staged := none, toOpen := [] } ∧ (u 6).map = s.map ∧ StageKept s (u 6)) := by
  intro u t r st may
  refine ⟨fun m hmay h0 hf hm => retireSite_stages hmay.1 hmay.2 h0 hf hm,
    fun m hmay hopen hto hf hm => retireRow_stages hmay.1 hmay.2 hopen hto hf hm,
    fun hmay hst hopen htest => ?_, fun hmay => rowTest_begins hmay.1 hmay.2, fun hmay h3 h0 hopen htest => ?_,
    fun hmay => withdraw_unstages hmay.1 hmay.2⟩
  · refine siteTest_begins (v := 3) hmay.1 (by decide) (by simp) htest fun j n => (if_neg (Nat.not_le.2 hmay.2)).trans (if_pos ?_)
    show (decide (2 ≤ st) && !s.spare.opened.contains r) = true
    rw [decide_eq_true hst, hopen]; rfl
  · refine siteTest_begins (v := 5) hmay.1 (by decide) (by simp) htest fun j n => (if_neg (Nat.not_le.2 hmay.2)).trans (if_neg ?_)
    show ¬ ((st == 3 || (st == 0 && s.adm.active.isSome) || s.spare.opened.contains r) = true)
    have hactive : (st == 0 && s.adm.active.isSome) = false := by
      rcases h0 with h0 | h0
      · simp [h0]
      · simp [h0]
    rw [hactive, hopen, beq_eq_false_iff_ne.2 h3]
    decide

/-- The end of a self-test. -/
theorem selftestDone_ends {s : State} (hs : s.Serves) :
    (s.spare.test = none → ∀ pass, Ends (exec (.selftestDone pass) s) s) ∧
    (∀ x, s.spare.test = some x →
      let ended : State := (s.modSpare fun y => { y with test := none }).setFlag sparePage offStatus 2 false
      let told (b : Nat) : State := x.sites.foldl (fun s t => s.agRecord 0x1001 [t, b]) ended
      let bad := x.sites.foldl (fun s t =>
        if s.carrying t then ((s.replaceSites [t] 3).getD s.spend).raise sparePage 0 else s.siteLater t 3)
        ((told 1).raise sparePage 4)
      let cut := if x.row then x.sites.foldl (fun s t => s.tileSwitch (t / 36) false) bad else bad
      (x.readmit = true → Ends (exec (.selftestDone true) s)
        (x.sites.foldl (fun s t => (s.siteClean t).siteLater t 1 true) (told 0))) ∧
      (x.readmit = false → Ends (exec (.selftestDone true) s) (x.back.foldl (fun s t => s.siteLater t 1) (told 0))) ∧
      Ends (exec (.selftestDone false) s) (x.sites.foldl (fun s t => s.rowOut (t / 36)) cut)) := by
  refine ⟨fun h pass => ?_, fun x h => ⟨fun hr => ?_, fun hr => ?_, ?_⟩⟩
  · refine show Ends (execSelftestDone pass s) _ from runOn_ends_of hs.on ?_
    rw [h]
  all_goals refine show Ends (execSelftestDone _ s) _ from runOn_ends_of hs.on ?_
  all_goals rw [h]
  · exact if_pos hr
  · exact if_neg (ne_true_of_eq_false hr)
  · rfl

/-- Settles O51: the orders act as `stageCmd` does, and the end of a self-test is what `exec` says. -/
theorem sparingCompletes : Obligations.SparingCompletes := by
  unfold Obligations.SparingCompletes
  refine ⟨fun s o hs => ⟨sparingOrders_end hs o, fun n hn => stageCmd_undone ?_, sparingOrders_act s o⟩,
    fun s hs => selftestDone_ends hs, fun s t st b => ⟨fun h => ?_, fun h _ hstaged => siteLater_now h hstaged t st b,
      siteClean_clears s t⟩⟩
  · have hn' : n = 1 ∨ n = 2 ∨ n = 3 ∨ n = 4 ∨ n = 5 ∨ n = 6 := by simpa using hn
    rcases hn' with rfl | rfl | rfl | rfl | rfl | rfl <;> decide
  · rw [siteLater_running h]
    exact ⟨rfl, rfl⟩

end Sys2Proof.Machine
end

section
/-!
PROOF. Spotlight, LEARN_CLEAR and the thermal sample (Sections 12.6 and 12.7). Messages and tokens follow the rows of `exec`; of
an order on LEARN_CLEAR it matters that the host may write that bit alone; and a thermal sample is followed through the parts
of it that write the thermal page.
-/
namespace Sys2Proof.Machine

/-! ## Registers beside a write -/

theorem wrN_rdN_other {s : State} {p p' o o' v : Nat} (ho : regOff o) (ho' : regOff o') (h : ¬ (p' = p ∧ o' = o)) :
    (s.wrN p o v).rdN p' o' = s.rdN p' o' :=
  rdN_of_rd (s.rd_wr_other _ ho ho' fun hsame => h ⟨hsame.1.symm, hsame.2.symm⟩)

/-- The counter of CTRL frames of a port leaves the power page as it is. -/
theorem ctrlIn_rdN (s : State) {p : Nat} (hp : p < 16) {o : Nat} (ho : regOff o) : (s.ctrlIn p).rdN powPage o = s.rdN powPage o := by
  have hpage : powPage ≠ rayPage p := by
    show 0x2300 ≠ 0x2100 + p
    omega
  unfold State.ctrlIn State.bump64 State.wr64
  rw [wrN_rdN_other (by decide) ho fun h => hpage h.1, wrN_rdN_other (by decide) ho fun h => hpage h.1]
  exact rdN_of_regs rfl _ _

theorem ctrlIn_tokens (s : State) {p : Nat} (hp : p < 16) : (s.ctrlIn p).tokens = s.tokens :=
  congrArg (bits · 10 0) (ctrlIn_rdN s hp (by decide))

theorem ctrlIn_spotOn (s : State) {p : Nat} (hp : p < 16) : (s.ctrlIn p).spotOn = s.spotOn :=
  congrArg (bit · 0) (ctrlIn_rdN s hp (by decide))

/-! ## DEMAND and REPORT -/

theorem demandSend_ends {s : State} (hs : s.Serves) :
    let frame := s.gn.frame
    let now : Prop := s.gn.running = true ∧ frame % 16 = 0 ∧ s.pow.demandAt ≠ some (frame / 16) ∧ s.spotOn = true
    let need := s.spotNeed
    let t := ({ s with pow := { s.pow with demandAt := some (frame / 16), need := need, granted := false } } : State).wrN powPage
      0x124 (s.pow.lowLast % 65536)
    (now → Ends (exec .demandSend s) (t.neighbourPorts.foldl (fun s q => s.sendCtrl q 4 (spotBytes 0
      { emptySpot with demand := t.pow.lowLast, need := need })) t)) ∧ (¬now → Ends (exec .demandSend s) s) := by
  intro frame now need t
  have hcond : (!s.gn.running || s.gn.frame % 16 != 0 || s.pow.demandAt == some (s.gn.frame / 16) || !s.spotOn) = !decide now := by
    rw [Bool.eq_iff_iff]
    simp only [Bool.or_eq_true, Bool.not_eq_true', bne_iff_ne, beq_iff_eq, decide_eq_false_iff_not, now, frame, not_and_or,
      Bool.not_eq_true, ne_eq, not_not, or_assoc]
  refine ⟨fun h => ?_, fun h => ?_⟩
  · exact show Ends (execDemandSend s) _ from runOn_ends_of hs.on (if_neg (by rw [hcond, decide_eq_true h]; decide))
  · exact show Ends (execDemandSend s) _ from runOn_ends_of hs.on (if_pos (by rw [hcond, decide_eq_false h]; rfl))

theorem tokenReportSend_ends {s : State} (hs : s.Serves) :
    let frame := s.gn.frame
    let now : Prop := s.gn.running = true ∧ frame % 64 = 0 ∧ s.pow.auditAt ≠ some (frame / 64 % 8192)
    let own : SpotMsg := { emptySpot with
      unsettled := !s.pow.grants.isEmpty, period := frame / 64 % 8192, count := 1, sumH := s.tokens
      sumBase := s.field powPage 0x100 10 0 }
    (now → Ends (exec .tokenReportSend s)
      ({ s with pow := { s.pow with own := some own, auditAt := some (frame / 64 % 8192) } } : State).tryAudit) ∧
    (¬now → Ends (exec .tokenReportSend s) s) := by
  intro frame now own
  have hcond : (!s.gn.running || s.gn.frame % 64 != 0 || s.pow.auditAt == some (s.gn.frame / 64 % 8192)) = !decide now := by
    rw [Bool.eq_iff_iff]
    simp only [Bool.or_eq_true, Bool.not_eq_true', bne_iff_ne, beq_iff_eq, decide_eq_false_iff_not, now, frame, not_and_or,
      Bool.not_eq_true, ne_eq, not_not, or_assoc]
  refine ⟨fun h => ?_, fun h => ?_⟩
  · exact show Ends (execTokenReportSend s) _ from runOn_ends_of hs.on (if_neg (by rw [hcond, decide_eq_true h]; decide))
  · exact show Ends (execTokenReportSend s) _ from runOn_ends_of hs.on (if_pos (by rw [hcond, decide_eq_false h]; rfl))

/-! ## GRANT -/

/-- The neighbour that a module grants to: of those that ask and whose port is UP, the first with the largest demand. -/
def State.grantTo (s : State) : Option (Nat × SpotMsg) :=
  s.pow.demands.foldl (fun (b : Option (Nat × SpotMsg)) x =>
    if x.2.demand > s.pow.lowLast && s.portUp x.1 && (b.all fun y => x.2.demand > y.2.demand) then some x else b) none

/-- A neighbour asks for tokens. -/
def State.asks (s : State) (x : Nat × SpotMsg) : Prop := x ∈ s.pow.demands ∧ s.pow.lowLast < x.2.demand ∧ s.portUp x.1 = true

/-- One step of the search for the largest: what is best among those seen and one more. -/
theorem foldl_best {α : Type} (ok : α → Bool) (d : α → Nat) (l : List α) : ∀ b : Option α,
    let r := l.foldl (fun (b : Option α) x => if ok x && (b.all fun y => decide (d x > d y)) then some x else b) b
    (r = none → b = none ∧ ∀ x ∈ l, ok x = false) ∧
    ∀ z, r = some z → (b = some z ∨ (z ∈ l ∧ ok z = true)) ∧ (∀ y, b = some y → d y ≤ d z) ∧ ∀ x ∈ l, ok x = true → d x ≤ d z := by
  induction l with
  | nil => exact fun b => ⟨fun h => ⟨h, by simp⟩, fun z h => ⟨.inl h, fun y hy => by rw [Option.some.inj (hy.symm.trans h)], by simp⟩⟩
  | cons a l ih =>
    intro b
    rw [List.foldl_cons]
    obtain ⟨hnone, hsome⟩ := ih (if ok a && (b.all fun y => decide (d a > d y)) then some a else b)
    generalize hr : l.foldl _ _ = r at hnone hsome ⊢
    by_cases hc : (ok a && (b.all fun y => decide (d a > d y))) = true
    · rw [if_pos hc] at hnone hsome
      obtain ⟨hok, hbest⟩ := Bool.and_eq_true_iff.1 hc
      refine ⟨fun h => absurd (hnone h).1 (by simp), fun z hz => ?_⟩
      obtain ⟨hfrom, hle, hall⟩ := hsome z hz
      refine ⟨.inr ?_, fun y hy => ?_, fun x hx hokx => ?_⟩
      · rcases hfrom with h | ⟨h, h'⟩
        · obtain rfl := Option.some.inj h
          exact ⟨List.mem_cons_self, hok⟩
        · exact ⟨List.mem_cons_of_mem _ h, h'⟩
      · rw [hy] at hbest
        have hlt : d y < d a := by simpa using hbest
        exact hlt.le.trans (hle a rfl)
      · rcases List.mem_cons.1 hx with rfl | hx
        · exact hle _ rfl
        · exact hall x hx hokx
    · rw [if_neg hc] at hnone hsome
      have hskip : ok a = true → ∃ y, b = some y ∧ d a ≤ d y := fun hok => by
        cases b with
        | none => exact absurd (Bool.and_eq_true_iff.2 ⟨hok, rfl⟩) hc
        | some y => exact ⟨y, rfl, by simpa [hok] using hc⟩
      refine ⟨fun h => ⟨(hnone h).1, fun x hx => ?_⟩, fun z hz => ?_⟩
      · rcases List.mem_cons.1 hx with rfl | hx
        · refine eq_false_of_ne_true fun hok => ?_
          obtain ⟨y, hy, -⟩ := hskip hok
          exact absurd (hy.symm.trans (hnone h).1) (by simp)
        · exact (hnone h).2 x hx
      · obtain ⟨hfrom, hle, hall⟩ := hsome z hz
        refine ⟨hfrom.imp_right fun h => ⟨List.mem_cons_of_mem _ h.1, h.2⟩, hle, fun x hx hokx => ?_⟩
        rcases List.mem_cons.1 hx with rfl | hx
        · obtain ⟨y, hy, hley⟩ := hskip hokx
          exact hley.trans (hle y hy)
        · exact hall x hx hokx

theorem grantTo_spec (s : State) : (s.grantTo = none → ¬ ∃ x, s.asks x) ∧
    ∀ z, s.grantTo = some z → s.asks z ∧ ∀ y, s.asks y → y.2.demand ≤ z.2.demand := by
  obtain ⟨hnone, hsome⟩ := foldl_best (fun x : Nat × SpotMsg => decide (x.2.demand > s.pow.lowLast) && s.portUp x.1)
    (fun x => x.2.demand) s.pow.demands none
  refine ⟨fun h ⟨x, hx, hd, hup⟩ => ?_, fun z h => ?_⟩
  · have := (hnone h).2 x hx
    simp [hd, hup] at this
  · obtain ⟨hfrom, -, hall⟩ := hsome z h
    obtain ⟨hz, hok⟩ := hfrom.resolve_left (by simp)
    obtain ⟨hd, hup⟩ := Bool.and_eq_true_iff.1 hok
    exact ⟨⟨hz, of_decide_eq_true hd, hup⟩, fun y ⟨hy, hdy, hupy⟩ => hall y hy (by simp [hdy, hupy])⟩

/-- What a grant does. -/
def State.granting (s : State) (port g : Nat) : State :=
  let n := s.pow.gseq % 65536
  let s := s.wrN powPage 0x104 (s.tokens - g)
  let s := s.modPow fun x => { x with
    granted := true, gseq := n + 1, grants := x.grants ++ [{ port := port, gseq := n, tokens := g }] }
  s.sendCtrl port 4 (spotBytes 1 { emptySpot with gseq := n, tokens := g })

theorem granting_tokens (s : State) (port g : Nat) : (s.granting port g).tokens = s.tokens - g := by
  have hlt : s.tokens < 2 ^ 11 := Nat.mod_lt _ (by decide)
  have hrd : (s.granting port g).rdN powPage 0x104 = (s.tokens - g) % 2 ^ 32 :=
    (rdN_of_regs (s := s.wrN powPage 0x104 (s.tokens - g)) rfl _ _).trans (s.rdN_wrN_same _ _ _)
  have hbits : (s.granting port g).tokens = (s.granting port g).rdN powPage 0x104 / 2 ^ 0 % 2 ^ 11 := rfl
  rw [hbits, hrd]
  omega

theorem grantSend_ends {s : State} (hs : s.Serves) :
    let frame := s.gn.frame
    let floor := s.field powPage 0x110 10 0
    let may : Prop := s.gn.running = true ∧ frame % 16 = 1 ∧ s.pow.demandAt = some (frame / 16) ∧ s.pow.granted = false ∧
      s.spotOn = true ∧ s.pow.need < s.tokens ∧ floor < s.tokens
    let g := min (min (s.tokens - s.pow.need) (s.tokens - floor)) 64
    (may → (∃ x, s.asks x) → ∃ x u, s.asks x ∧ (∀ y, s.asks y → y.2.demand ≤ x.2.demand) ∧ Ends (exec .grantSend s) u ∧
      u.tokens = s.tokens - g ∧ u.pow.granted = true ∧ u.mem = s.mem ∧ u.tiles = s.tiles ∧
      u.pow.grants = s.pow.grants ++ [{ port := x.1, gseq := s.pow.gseq % 65536, tokens := g }]) ∧
    (¬may ∨ (¬∃ x, s.asks x) → Ends (exec .grantSend s) s) := by
  intro frame floor may g
  have hcond : (!s.gn.running || s.gn.frame % 16 != 1 || s.pow.demandAt != some (s.gn.frame / 16) || s.pow.granted || !s.spotOn ||
      decide (s.tokens ≤ s.pow.need) || decide (s.tokens ≤ s.field powPage 0x110 10 0)) = !decide may := by
    rw [Bool.eq_iff_iff]
    simp only [Bool.or_eq_true, Bool.not_eq_true', bne_iff_ne, decide_eq_true_eq, decide_eq_false_iff_not, may, frame, floor,
      not_and_or, Bool.not_eq_true, Bool.not_eq_false, not_lt, ne_eq, or_assoc]
  obtain ⟨hnone, hsome⟩ := grantTo_spec s
  refine ⟨fun h hx => ?_, fun h => ?_⟩
  · cases hg : s.grantTo with
    | none => exact absurd hx (hnone hg)
    | some z =>
      obtain ⟨hz, hmax⟩ := hsome z hg
      refine ⟨z, s.granting z.1 g, hz, hmax, ?_, granting_tokens s _ _, rfl, rfl, rfl, rfl⟩
      refine show Ends (execGrantSend s) _ from runOn_ends_of hs.on ((if_neg (by rw [hcond, decide_eq_true h]; decide)).trans ?_)
      show (match s.grantTo with | none => s | some (port, _) => s.granting port g) = _
      rw [hg]
  · refine show Ends (execGrantSend s) _ from runOn_ends_of hs.on ?_
    by_cases hm : may
    · refine (if_neg (by rw [hcond, decide_eq_true hm]; decide)).trans ?_
      show (match s.grantTo with | none => s | some (port, _) => s.granting port g) = _
      cases hg : s.grantTo with
      | none => rfl
      | some z => exact absurd ⟨z, (hsome z hg).1⟩ (h.resolve_left (not_not_intro hm))
    · exact if_pos (by rw [hcond, decide_eq_false hm]; rfl)

/-! ## Messages that come -/

theorem spotDown_ends {s : State} {p : Nat} {m : SpotMsg} (hs : s.Serves) (hp : p < 16) (hup : s.portUp p = false) :
    ∀ c ∈ [Instr.demand p m, .grant p m, .spotlightAck p m, .tokenReport p m], Ends (exec c s) s := by
  have hno : (!s.portUp p) = true := congrArg (!·) hup
  intro c hc
  have hc' : c = .demand p m ∨ c = .grant p m ∨ c = .spotlightAck p m ∨ c = .tokenReport p m := by simpa using hc
  rcases hc' with rfl | rfl | rfl | rfl
  · exact show Ends (execDemand p m s) _ from runPart_ends_of (decide_eq_true hp) hs.on (if_pos hno)
  · exact show Ends (execGrant p m s) _ from runPart_ends_of (decide_eq_true hp) hs.on (if_pos hno)
  · exact show Ends (execSpotlightAck p m s) _ from runPart_ends_of (decide_eq_true hp) hs.on (if_pos hno)
  · exact show Ends (execTokenReport p m s) _ from runPart_ends_of (decide_eq_true hp) hs.on (if_pos hno)

theorem takeFirst_none {α : Type} {q : α → Bool} : ∀ {l : List α}, (∀ x ∈ l, q x = false) → takeFirst q l = none
  | [], _ => rfl
  | x :: l, h => by
    rw [takeFirst, if_neg (ne_true_of_eq_false (h x List.mem_cons_self)), takeFirst_none fun y hy => h y (List.mem_cons_of_mem _ hy)]
    rfl

theorem spotUp_ends {s : State} {p : Nat} (m : SpotMsg) (hs : s.Serves) (hp : p < 16) (hup : s.portUp p = true) :
    let heard := s.ctrlIn p
    let hears (x : Power) : State := { heard with pow := x }
    let took := if s.spotOn then min m.tokens (1200 - s.tokens) else 0
    Ends (exec (.demand p m) s) (hears { s.pow with demands := sput s.pow.demands p m }) ∧
    Ends (exec (.grant p m) s) ((heard.wrN powPage 0x104 (s.tokens + took)).sendCtrl p 4
      (spotBytes 2 { emptySpot with gseq := m.gseq, tokens := m.tokens - took })) ∧
    (∀ g rest, takeFirst (fun (g : Grant) => g.gseq == m.gseq) s.pow.grants = some (g, rest) →
      Ends (exec (.spotlightAck p m) s) ((hears { s.pow with grants := rest }).wrN powPage 0x104 (s.tokens + m.tokens))) ∧
    ((∀ g ∈ s.pow.grants, g.gseq ≠ m.gseq) → Ends (exec (.spotlightAck p m) s) heard) ∧
    Ends (exec (.tokenReport p m) s) (hears { s.pow with kids := sput s.pow.kids p m }).tryAudit := by
  have hyes : ¬ (!s.portUp p) = true := by rw [hup]; decide
  intro heard hears took
  have htok : heard.tokens = s.tokens := ctrlIn_tokens s hp
  have hon : heard.spotOn = s.spotOn := ctrlIn_spotOn s hp
  refine ⟨?_, ?_, fun g rest h => ?_, fun h => ?_, ?_⟩
  · exact show Ends (execDemand p m s) _ from runPart_ends_of (decide_eq_true hp) hs.on (if_neg hyes)
  · refine show Ends (execGrant p m s) _ from runPart_ends_of (decide_eq_true hp) hs.on ((if_neg hyes).trans ?_)
    show (heard.wrN powPage 0x104 (heard.tokens + if heard.spotOn then min m.tokens (1200 - heard.tokens) else 0)).sendCtrl p 4
      (spotBytes 2 { emptySpot with
        gseq := m.gseq, tokens := m.tokens - if heard.spotOn then min m.tokens (1200 - heard.tokens) else 0 }) = _
    rw [htok, hon]
  · refine show Ends (execSpotlightAck p m s) _ from runPart_ends_of (decide_eq_true hp) hs.on ((if_neg hyes).trans ?_)
    show (match takeFirst (fun (g : Grant) => g.gseq == m.gseq) s.pow.grants with
      | none => heard
      | some (_, rest) => (heard.modPow fun x => { x with grants := rest }).wrN powPage 0x104 (heard.tokens + m.tokens)) = _
    rw [h, htok]
    rfl
  · refine show Ends (execSpotlightAck p m s) _ from runPart_ends_of (decide_eq_true hp) hs.on ((if_neg hyes).trans ?_)
    show (match takeFirst (fun (g : Grant) => g.gseq == m.gseq) s.pow.grants with
      | none => heard
      | some (_, rest) => (heard.modPow fun x => { x with grants := rest }).wrN powPage 0x104 (heard.tokens + m.tokens)) = _
    rw [takeFirst_none fun g hg => beq_eq_false_iff_ne.2 (h g hg)]
  · exact show Ends (execTokenReport p m s) _ from runPart_ends_of (decide_eq_true hp) hs.on (if_neg hyes)

/-! ## The audit of tokens -/

/-- The report of a subtree goes up, or the master audits it. -/
def State.audited (s : State) (m : SpotMsg) : State :=
  if !s.gn.master then match s.gn.upstream with
    | some p => s.sendCtrl p 4 (spotBytes 3 m)
    | none => s
  else if m.count == s.modules && !m.unsettled && m.sumH != m.sumBase then
    let d := fieldOf 32 ((m.sumH : Int) - m.sumBase)
    let s := ((s.raise powPage 4).wrN powPage 0x128 d).agRecord 0x200A [d]
    s.consFault 2 ((m.sumH : Int) - m.sumBase)
  else s

/-- The reports of the children for a period. -/
def State.kidReports (s : State) (o : SpotMsg) : List (Option SpotMsg) :=
  s.kidPorts.map fun p => (s.pow.kids.find? fun e => e.1 == p && e.2.period == o.period).map (·.2)

theorem tryAudit_some {s : State} {o : SpotMsg} (h : s.pow.own = some o) : s.tryAudit =
    if (s.kidReports o).any (·.isNone) then s
    else (s.modPow fun p => { p with own := none, kids := [] }).audited ((s.kidReports o).foldl (fun (a : SpotMsg) k => match k with
      | some b => { a with unsettled := a.unsettled || b.unsettled, count := a.count + b.count, sumH := a.sumH + b.sumH,
                           sumBase := a.sumBase + b.sumBase }
      | none => a) o) := by
  unfold State.tryAudit
  rw [h]
  rfl

theorem bump_view {α : Type} (V : State → α) (hfree : ∀ s : State, V s.free.2 = V s) (hreg : ∀ (s : State) p o v, V (s.wr p o v) = V s)
    (s : State) (p o : Nat) : V (s.bump p o) = V s := by
  unfold State.bump
  dsimp only
  split
  · exact hreg _ _ _ _
  · exact (hreg _ _ _ _).trans (hfree _)

theorem raise_silent (s : State) (p i : Nat) : (s.raise p i).pow = s.pow ∧ (s.raise p i).mem = s.mem ∧
    (s.raise p i).tiles = s.tiles := ⟨rfl, rfl, rfl⟩

/-- A conservation fault leaves tokens, memory and tiles, and the power page, as they are. -/
theorem consFault_power (s : State) (k : Nat) (d : Int) : (s.consFault k d).pow = s.pow ∧ (s.consFault k d).mem = s.mem ∧
    (s.consFault k d).tiles = s.tiles ∧ ∀ i, (s.consFault k d).flag powPage offEvt i = s.flag powPage offEvt i := by
  have hview := bump_view (fun u : State => (u.pow, u.mem, u.tiles)) (fun _ => rfl) (fun _ _ _ _ => rfl) (s.raise penPage 10)
    penPage 0x158
  have hother : ∀ i, ((s.raise penPage 10).bump penPage 0x158).flag powPage offEvt i = s.flag powPage offEvt i := fun i =>
    congrArg (bit · i) ((bump_rdN_other (by decide) (by decide) (by decide)).trans (rdN_raise_other (by decide) (by decide)))
  generalize hb : (s.raise penPage 10).bump penPage 0x158 = b at hview hother
  have hend : s.consFault k d = ((b.setField penPage 0x15C 3 0 k).penCount 10).agRecord 0x2009 [k, fieldOf 32 d] := by
    rw [← hb]; rfl
  simp only [Prod.mk.injEq] at hview
  obtain ⟨hpow, hmem, htiles⟩ := hview
  rw [hend]
  refine ⟨?_, ?_, ?_, fun i => ?_⟩
  · exact hpow.trans (raise_silent s penPage 10).1
  · exact hmem.trans (raise_silent s penPage 10).2.1
  · exact htiles.trans (raise_silent s penPage 10).2.2
  have hfield : (b.setField penPage 0x15C 3 0 k).flag powPage offEvt i = b.flag powPage offEvt i :=
    congrArg (bit · i) (wrN_rdN_other (by decide) (by decide) (by decide))
  exact hfield.trans (hother i)

theorem audited_keeps (s : State) (m : SpotMsg) : (s.audited m).pow = s.pow ∧ (s.audited m).mem = s.mem ∧
    (s.audited m).tiles = s.tiles := by
  unfold State.audited
  split
  · split <;> exact ⟨rfl, rfl, rfl⟩
  · split
    · obtain ⟨hpow, hmem, htiles, -⟩ := consFault_power (((s.raise powPage 4).wrN powPage 0x128
        (fieldOf 32 ((m.sumH : Int) - m.sumBase))).agRecord 0x200A [fieldOf 32 ((m.sumH : Int) - m.sumBase)]) 2
        ((m.sumH : Int) - m.sumBase)
      exact ⟨hpow, hmem, htiles⟩
    · exact ⟨rfl, rfl, rfl⟩

/-- A master whose tokens do not add up to the budgets raises the event. -/
theorem audited_raises {s : State} {m : SpotMsg} (hm : s.gn.master = true) (hc : m.count = s.modules) (hu : m.unsettled = false)
    (hne : m.sumH ≠ m.sumBase) : (s.audited m).flag powPage offEvt 4 = true := by
  have hmaster : (!s.gn.master) = false := congrArg (!·) hm
  have hcond : (m.count == s.modules && !m.unsettled && m.sumH != m.sumBase) = true := by
    rw [hc, hu, beq_self_eq_true, bne_iff_ne.2 hne]
    rfl
  unfold State.audited
  rw [if_neg (ne_true_of_eq_false hmaster), if_pos hcond]
  dsimp only
  obtain ⟨-, -, -, hflag⟩ := consFault_power (((s.raise powPage 4).wrN powPage 0x128
    (fieldOf 32 ((m.sumH : Int) - m.sumBase))).agRecord 0x200A [fieldOf 32 ((m.sumH : Int) - m.sumBase)]) 2
    ((m.sumH : Int) - m.sumBase)
  refine (hflag 4).trans ?_
  have hother : ((s.raise powPage 4).wrN powPage 0x128 (fieldOf 32 ((m.sumH : Int) - m.sumBase))).flag powPage offEvt 4 =
      (s.raise powPage 4).flag powPage offEvt 4 := congrArg (bit · 4) (wrN_rdN_other (by decide) (by decide) (by decide))
  exact hother.trans (State.flag_raise_same _ _ _ (by decide))

theorem tryAudit_spec (s : State) :
    let t := s.tryAudit
    (s.pow.own = none → t = s) ∧
    (∀ o, s.pow.own = some o → (∃ q ∈ s.kidPorts, ∀ e ∈ s.pow.kids, e.1 = q → e.2.period ≠ o.period) → t = s) ∧
    (∀ o, s.pow.own = some o → (∀ q ∈ s.kidPorts, ∃ e, s.pow.kids.find? (fun e => e.1 == q && e.2.period == o.period) = some e) →
      t.pow = { s.pow with own := none, kids := [] } ∧ t.mem = s.mem ∧ t.tiles = s.tiles ∧
      (s.gn.master = true → s.kidPorts = [] → s.modules = o.count → o.unsettled = false → o.sumH ≠ o.sumBase →
        t.flag powPage offEvt 4 = true)) := by
  intro t
  refine ⟨fun h => ?_, fun o h ⟨q, hq, hno⟩ => ?_, fun o h hall => ?_⟩
  · show s.tryAudit = s
    unfold State.tryAudit
    rw [h]
  · refine (tryAudit_some h).trans (if_pos (List.any_eq_true.2 ⟨none, List.mem_map.2 ⟨q, hq, ?_⟩, rfl⟩))
    rw [List.find?_eq_none.2 fun e he => ?_]
    · rfl
    · simpa using hno e he
  · have hsome : ¬ (s.kidReports o).any (·.isNone) = true := by
      rw [List.any_eq_true]
      rintro ⟨k, hk, hnone⟩
      obtain ⟨q, hq, rfl⟩ := List.mem_map.1 hk
      obtain ⟨e, he⟩ := hall q hq
      rw [he] at hnone
      exact Bool.false_ne_true hnone
    have ht := (tryAudit_some h).trans (if_neg hsome)
    obtain ⟨hpow, hmem, htiles⟩ := audited_keeps (s.modPow fun p => { p with own := none, kids := [] })
      ((s.kidReports o).foldl (fun (a : SpotMsg) k => match k with
        | some b => { a with unsettled := a.unsettled || b.unsettled, count := a.count + b.count, sumH := a.sumH + b.sumH,
                             sumBase := a.sumBase + b.sumBase }
        | none => a) o)
    refine ⟨(congrArg State.pow ht).trans hpow, (congrArg State.mem ht).trans hmem, (congrArg State.tiles ht).trans htiles,
      fun hm hk hc hu hne => ?_⟩
    have hkids : s.kidReports o = [] := congrArg (List.map _) hk
    rw [show t = _ from ht, hkids]
    exact audited_raises hm hc.symm hu hne

/-! ## LEARN_CLEAR -/

theorem powCurrent (s : State) : s.current powPage offControl = s.rdN powPage offControl := by
  show (s.regValue powPage offControl).toNat = _
  show (BitVec.ofNat 32 (s.rdN powPage offControl)).toNat = _
  rw [BitVec.toNat_ofNat, Nat.mod_eq_of_lt (s.rdN_lt _ _)]

/-- What LEARN_CLEAR does. -/
def State.clearing (s : State) (v : Nat) : State :=
  ((s.keep powPage offControl 1 v).setFlag powPage offControl 1 true).modPow fun p => { p with clear := true }

theorem learnClear_acts {s : State} {o : Origin} (hr : operatorOnly (roleOf o) = true ∨ roleOf o = .host) :
    let v := s.withBit powPage offControl 1 true
    Answered ((s.accept o powPage offControl v).2.2.clearing (v.toNat &&& 3)) (s.order o powPage offControl v) := by
  intro v
  have hv : v.toNat.testBit 1 = true := withBit_testBit s powPage offControl 1 1 true (by decide)
  have hv0 : v.toNat.testBit 0 = (s.rdN powPage offControl).testBit 0 := withBit_testBit s powPage offControl 1 0 true (by decide)
  have hbit : bit (v.toNat &&& 3) 1 = true := by
    rw [bit, Nat.testBit_and, hv]
    rfl
  have hfields : ∀ j n, (s.journaled j n).fields (roleOf o) powPage offControl v.toNat =
      (3, if operatorOnly (roleOf o) then 3 else 2) := fun j n => by
    show eachOf [(0, 1, operatorOnly (roleOf o)), (1, 1, operatorOnly (roleOf o) || roleOf o == .host)] = _
    cases hop : operatorOnly (roleOf o) with
    | true => rw [Bool.true_or]; rfl
    | false =>
      rw [hr.resolve_left fun h => absurd (hop.symm.trans h) (by decide)]
      rfl
  refine order_acts (g := fun t => t.clearing (v.toNat &&& 3)) (f := (3, if operatorOnly (roleOf o) then 3 else 2)) (st := stOk)
    (by decide) hfields (by show (3 : Nat) ≠ 0; decide) (fun h => absurd h (by decide)) (fun j n => ?_) (fun j n => ?_) (by decide)
  · rw [State.mayWrite, hfields]
    cases operatorOnly (roleOf o) with
    | true => simp
    | false =>
      have hsame : (v.toNat ^^^ (s.journaled j n).current powPage offControl) &&& 3 &&& (3 ^^^ 2) = 0 := by
        rw [powCurrent, show (s.journaled j n).rdN powPage offControl = s.rdN powPage offControl from rfl]
        refine Nat.eq_of_testBit_eq fun i => ?_
        rw [Nat.testBit_and, Nat.testBit_and, Nat.testBit_xor, Nat.zero_testBit]
        cases i with
        | zero => rw [hv0, Bool.xor_self]; rfl
        | succ i =>
          have hone : (3 ^^^ 2 : Nat).testBit (i + 1) = false := by
            rw [Nat.testBit_succ]
            exact Nat.zero_testBit i
          rw [hone, Bool.and_false]
      show (_ || (_ && _ == 0)) = true
      rw [show ((if false = true then 3 else 2 : Nat)) = 2 from rfl, hsame]
      rfl
  · exact congrArg (Prod.mk stOk) (if_pos hbit)

theorem learnClear_spec {s : State} (hs : s.Serves) (o : Origin) :
    let u := s.order o powPage offControl (s.withBit powPage offControl 1 true)
    Ends (exec (.learnClear o) s) u ∧ (operatorOnly (roleOf o) = true ∨ roleOf o = .host →
      u.pow = { s.pow with clear := true } ∧ u.flag powPage offControl 1 = true ∧ u.mem = s.mem ∧ u.tiles = s.tiles) := by
  refine ⟨show Ends (execLearnClear o s) _ from runOn_ends_of hs.on rfl, fun hr => ?_⟩
  obtain ⟨-, j, n, hh⟩ := accept_journaled s o powPage offControl (s.withBit powPage offControl 1 true)
  obtain ⟨j', n', c, l, hu⟩ := learnClear_acts hr
  rw [hu, hh]
  refine ⟨rfl, ?_, rfl, rfl⟩
  exact (flag_of_regs rfl _ _ _).trans
    (((s.journaled j n).keep powPage offControl 1 _).flag_setFlag_same powPage offControl 1 true (by decide))

/-! ## The thermal sample -/

/-- What the parts of a thermal sample leave as it is, once the sensors are read. -/
def State.heatView (s : State) := (s.therm.raw, s.mem, s.gn)

theorem heatView_bump (s : State) (p o : Nat) : (s.bump p o).heatView = s.heatView :=
  bump_view State.heatView (fun _ => rfl) (fun _ _ _ _ => rfl) s p o

theorem heatView_duskEnter (s : State) (c : Nat) : (s.duskEnter c).heatView = s.heatView := by
  have hshown : ∀ u : State, u.duskShown.heatView = u.heatView := fun u => heatView_bump _ _ _
  have htold : ∀ u : State, u.duskTold.heatView = u.heatView := fun u => by
    have hsilent := duskPfc_silent (((u.raise powPage 0).agRecord 0x2003 [u.duskCauses, u.rdN inPage 0x100]).jDecision 1 0 0xE1
      ((u.raise powPage 0).agRecord 0x2003 [u.duskCauses, u.rdN inPage 0x100]).duskCauses) true
    unfold State.duskTold
    dsimp only
    generalize State.duskPfc _ true = v at hsilent ⊢
    have hv : v.heatView = u.heatView := (congrArg State.heatView hsilent :)
    split
    · exact hv
    · exact hv
  by_cases hd : s.dusk = true
  · rw [duskEnter_again hd]
    rfl
  · rw [duskEnter_first (eq_false_of_ne_true hd), htold, hshown]
    rfl

theorem senseAll_reads (s : State) (x : ThermalSample) :
    (s.senseAll x).heatView = ((List.range 192).map fun n => (n, s.reading x n), s.mem, s.gn) := by
  have hfold : ∀ (t : Nat → Int) (l : List (Nat × Option Int)) (a : Sparse Int × State),
      let r := l.foldl (fun (acc, s) (n, h) =>
        let r := State.controlTemp s t n h
        (acc ++ [(n, r.1)], r.2)) a
      (r.2.mem, r.2.gn) = (a.2.mem, a.2.gn) := fun t l a => by
    refine foldl_keeps (fun r : Sparse Int × State => (r.2.mem, r.2.gn)) _ (fun acc nh => ?_) l a
    obtain ⟨acc, u⟩ := acc
    obtain ⟨n, h⟩ := nh
    show ((State.controlTemp u t n h).2.mem, (State.controlTemp u t n h).2.gn) = (u.mem, u.gn)
    unfold State.controlTemp
    split
    · rfl
    · split <;> rfl
  unfold State.senseAll
  extract_lets t ns halos
  have h := hfold t halos ([], s)
  dsimp only at h
  generalize List.foldl _ (([] : Sparse Int), s) halos = r at h ⊢
  obtain ⟨ctl, u⟩ := r
  exact congrArg (Prod.mk _) h

theorem heatView_lostCheck (s : State) : s.lostCheck.heatView = s.heatView := by
  unfold State.lostCheck
  dsimp only
  split <;> rfl

theorem heatView_raise (s : State) (p i : Nat) : (s.raise p i).heatView = s.heatView := rfl

theorem heatView_setFlag (s : State) (p o i : Nat) (b : Bool) : (s.setFlag p o i b).heatView = s.heatView := rfl

theorem heatView_wrN (s : State) (p o v : Nat) : (s.wrN p o v).heatView = s.heatView := rfl

theorem heatView_record (s : State) (code : Nat) (l : List Nat) (c : Nat) :
    ((s.agRecord code l).holdRequest c).heatView = s.heatView := rfl

theorem heatView_suspectSensor (s : State) (n : Nat) : (s.suspectSensor n).heatView = s.heatView := by
  unfold State.suspectSensor
  exact (heatView_record _ _ _ _).trans (heatView_raise _ _ _)

theorem heatView_suspectCheck (s : State) : s.suspectCheck.heatView = s.heatView := by
  unfold State.suspectCheck
  refine foldl_keeps State.heatView _ (fun s n => ?_) _ _
  split
  · rfl
  · split
    · split
      · dsimp only
        split
        · exact heatView_suspectSensor s n
        · rfl
      · rfl
    · rfl

theorem heatView_heatDusk (s : State) : s.heatDusk.heatView = s.heatView := by
  unfold State.heatDusk
  extract_lets hot cool began t u
  have ht : t.heatView = s.heatView := rfl
  have hu : u.heatView = t.heatView := by
    show (if began then (t.raise thermPage 2).duskEnter duskThermal else t).heatView = _
    split
    · exact (heatView_duskEnter _ _).trans (heatView_raise _ _ _)
    · rfl
  split
  · exact (heatView_setFlag _ _ _ _ _).trans (hu.trans ht)
  · exact hu.trans ht

/-- The coolant's registers are shown, and the rest of the sample stays. -/
theorem coolant_shows (s : State) (x : ThermalSample) :
    (s.coolant x).heatView = s.heatView ∧ (s.coolant x).rdN thermPage 0x130 = x.flow % 4096 := by
  unfold State.coolant
  extract_lets t n u
  have ht : t.heatView = s.heatView :=
    (heatView_wrN _ _ _ _).trans ((heatView_wrN _ _ _ _).trans (heatView_wrN _ _ _ _))
  have hflow : t.rdN thermPage 0x130 = x.flow % 4096 :=
    (State.rdN_wrN_same _ _ _ _).trans (Nat.mod_eq_of_lt (lt_trans (Nat.mod_lt _ (by decide)) (by decide)))
  have hu : u.heatView = t.heatView := rfl
  have hflow' : u.rdN thermPage 0x130 = x.flow % 4096 := (rdN_of_regs rfl _ _).trans hflow
  split
  · exact ⟨(heatView_raise _ _ _).trans (hu.trans ht), (rdN_raise_other (by decide) (by decide)).trans hflow'⟩
  · exact ⟨hu.trans ht, hflow'⟩

/-- What later parts of the sample leave: the view and the flow of the coolant. -/
def State.heatShown (s : State) := (s.heatView, s.rdN thermPage 0x130)

theorem heatShown_wrN {s : State} {p o v : Nat} (ho : regOff o) (h : o ≠ 0x130) : (s.wrN p o v).heatShown = s.heatShown :=
  Prod.ext (heatView_wrN s p o v) (wrN_rdN_other ho (by decide) fun hsame => h hsame.2.symm)

theorem heatShown_setFlag {s : State} {p o i : Nat} {b : Bool} (ho : regOff o) (h : o ≠ 0x130) :
    (s.setFlag p o i b).heatShown = s.heatShown :=
  Prod.ext (heatView_setFlag s p o i b) (rdN_setFlag_other ho (by decide) fun hsame => h hsame.2.symm)

theorem heatShown_thermRegs (s : State) : s.thermRegs.heatShown = s.heatShown := by
  unfold State.thermRegs
  extract_lets top t0 t1 t2 t3 t4
  have h0 : t0.heatShown = s.heatShown := heatShown_setFlag (by decide) (by decide)
  have h1 : t1.heatShown = t0.heatShown := heatShown_setFlag (by decide) (by decide)
  have h2 : t2.heatShown = t1.heatShown := heatShown_setFlag (by decide) (by decide)
  have h3 : t3.heatShown = t2.heatShown := heatShown_setFlag (by decide) (by decide)
  have h4 : t4.heatShown = t3.heatShown := heatShown_wrN (by decide) (by decide)
  have hrange : List.range 3 = [0, 1, 2] := by decide
  rw [hrange]
  have hend : (t4.wrN thermPage 0x114 (fieldOf 12 (top 0)) |>.wrN thermPage 0x118 (fieldOf 12 (top 1)) |>.wrN thermPage 0x11C
      (fieldOf 12 (top 2))).heatShown = t4.heatShown :=
    (heatShown_wrN (by decide) (by decide)).trans ((heatShown_wrN (by decide) (by decide)).trans
      (heatShown_wrN (by decide) (by decide)))
  exact hend.trans (h4.trans (h3.trans (h2.trans (h1.trans h0))))

theorem heatShown_ticks (s : State) (n : Nat) : (s.modTherm fun y => { y with ticks := n }).heatShown = s.heatShown := rfl

theorem heatShown_setRowMv (s : State) (r : Nat) : (s.setRowMv r).heatShown = s.heatShown := by
  unfold State.setRowMv
  exact foldl_keeps State.heatShown _ (fun u t => heatShown_wrN (by decide) (by decide)) _ _

theorem heatShown_capStep (s : State) : s.capStep.heatShown = s.heatShown := by
  unfold State.capStep
  extract_lets caps pow t want u
  split
  · rfl
  · have hu : u.heatShown = t.heatShown :=
      foldl_keeps State.heatShown _ (fun v t => heatShown_wrN (by decide) (by decide)) _ _
    have ht : t.heatShown = s.heatShown := rfl
    exact (foldl_keeps State.heatShown _ (fun v r => heatShown_setRowMv v r) _ _).trans (hu.trans ht)

/-- The sample as it is shown, before a reading that is too high stops the module. -/
def State.thermShown (s : State) (x : ThermalSample) : State :=
  let was := s.therm.ctl
  let s := ((s.senseAll x).lostCheck).suspectCheck
  let s := if reached was s.therm.ctl 380 then s.raise thermPage 0 else s
  let s := if reached was s.therm.ctl 400 then s.raise thermPage 1 else s
  let s := (s.heatDusk.coolant x).thermRegs
  if s.therm.ticks + 1 < 100 then s.modTherm fun y => { y with ticks := y.ticks + 1 }
    else (s.modTherm fun y => { y with ticks := 0 }).capStep

theorem thermShown_spec (s : State) (x : ThermalSample) : (s.thermShown x).heatShown =
    (((List.range 192).map fun n => (n, s.reading x n), s.mem, s.gn), x.flow % 4096) := by
  unfold State.thermShown
  extract_lets was t0 t1 t2 t3
  have h0 : t0.heatView = ((List.range 192).map fun n => (n, s.reading x n), s.mem, s.gn) :=
    (heatView_suspectCheck _).trans ((heatView_lostCheck _).trans (senseAll_reads s x))
  have hraise : ∀ (b : Bool) (i : Nat) (u : State), (if b then u.raise thermPage i else u).heatView = u.heatView := fun b i u => by
    cases b
    · rfl
    · exact heatView_raise _ _ _
  have h2 : t2.heatView = t0.heatView := (hraise _ 1 t1).trans (hraise _ 0 t0)
  obtain ⟨hview, hflow⟩ := coolant_shows t2.heatDusk x
  have h3 : t3.heatShown = (((List.range 192).map fun n => (n, s.reading x n), s.mem, s.gn), x.flow % 4096) :=
    (heatShown_thermRegs _).trans (Prod.ext (hview.trans ((heatView_heatDusk t2).trans (h2.trans h0))) hflow)
  clear_value t3
  split
  · exact (heatShown_ticks t3 _).trans h3
  · exact (heatShown_capStep _).trans ((heatShown_ticks t3 0).trans h3)

theorem thermalSample_spec {s : State} (hs : s.Serves) (x : ThermalSample) : ∃ u, Ends (exec (.thermalSample x) s) u ∧
    ((∃ n, n < 192 ∧ 440 ≤ s.reading x n) → u.pow.off = true) ∧
    (u.pow.off = true ∨ (u.therm.raw = (List.range 192).map (fun n => (n, s.reading x n)) ∧
      u.rdN thermPage 0x130 = x.flow % 4096 ∧ u.mem = s.mem ∧ u.gn = s.gn)) := by
  have hspec := thermShown_spec s x
  generalize ht : s.thermShown x = t at hspec
  simp only [State.heatShown, State.heatView, Prod.mk.injEq] at hspec
  obtain ⟨⟨hraw, hmem, hgn⟩, hflow⟩ := hspec
  have hends : Ends (exec (.thermalSample x) s)
      (if t.therm.raw.any (440 ≤ ·.2) || t.therm.ctl.any (440 ≤ ·.2) then t.stop else t) :=
    show Ends (execThermalSample x s) _ from runOn_ends_of hs.on (by rw [← ht]; rfl)
  by_cases hc : (t.therm.raw.any (440 ≤ ·.2) || t.therm.ctl.any (440 ≤ ·.2)) = true
  · rw [if_pos hc] at hends
    exact ⟨_, hends, fun _ => rfl, .inl rfl⟩
  · rw [if_neg hc] at hends
    refine ⟨t, hends, fun ⟨n, hn, hhot⟩ => absurd (Bool.or_eq_true_iff.2 (.inl ?_)) hc, .inr ⟨hraw, hflow, hmem, hgn⟩⟩
    rw [hraw, List.any_map]
    exact List.any_eq_true.2 ⟨n, List.mem_range.2 hn, decide_eq_true hhot⟩

/-! ## The statement -/

/-- Settles O48: each command is its row of `exec`. -/
theorem spotlightAndHeatComplete : Obligations.SpotlightAndHeatComplete := by
  unfold Obligations.SpotlightAndHeatComplete
  exact fun s p m hs hp => ⟨demandSend_ends hs, grantSend_ends hs, tokenReportSend_ends hs, spotDown_ends hs hp,
    spotUp_ends m hs hp, tryAudit_spec s, learnClear_spec hs, thermalSample_spec hs⟩

end Sys2Proof.Machine
end

section
/-!
PROOF. POWER_ON and RECOVERY_BUNDLE (Sections 14.1 and 14.2). The boot sequence is followed through its steps with what they
keep (`BootKeeps`): no step but the first writes the boot count, an event once raised stays, and the firmware is what the ROM has
selected.
-/
namespace Sys2Proof.Machine

/-! ## What the steps of the boot sequence keep -/

structure BootKeeps (s u : State) : Prop where
  tiles : u.tiles = s.tiles
  mem : u.mem = s.mem
  map : u.map = s.map
  pow : u.pow = s.pow
  keys : u.mg.keys = s.mg.keys
  floor : u.mg.floor = s.mg.floor
  sessions : u.mg.sessions = s.mg.sessions
  restarted : u.mg.restarted = s.mg.restarted
  sealed : s.mg.sealed = true → u.mg.sealed = true
  count : u.rdN mgmtPage 0x1C4 = s.rdN mgmtPage 0x1C4
  evt : ∀ i, s.flag mgmtPage offEvt i = true → u.flag mgmtPage offEvt i = true

theorem BootKeeps.refl (s : State) : BootKeeps s s := ⟨rfl, rfl, rfl, rfl, rfl, rfl, rfl, rfl, id, rfl, fun _ => id⟩

theorem BootKeeps.trans {s t u : State} (h : BootKeeps s t) (h' : BootKeeps t u) : BootKeeps s u :=
  ⟨h'.tiles.trans h.tiles, h'.mem.trans h.mem, h'.map.trans h.map, h'.pow.trans h.pow, h'.keys.trans h.keys,
    h'.floor.trans h.floor, h'.sessions.trans h.sessions, h'.restarted.trans h.restarted, h'.sealed ∘ h.sealed,
    h'.count.trans h.count, fun i => h'.evt i ∘ h.evt i⟩

theorem BootKeeps.foldl {α : Type} {f : State → α → State} (hf : ∀ s x, BootKeeps s (f s x)) (l : List α) (s : State) :
    BootKeeps s (l.foldl f s) := by
  induction l generalizing s with
  | nil => exact .refl s
  | cons x l ih => exact (hf s x).trans (ih _)

/-- A register beside the boot count and the events. -/
abbrev BootReg (o : Nat) : Prop := regOff o ∧ o ≠ 0x1C4 ∧ o ≠ offEvt

theorem bootKeeps_wrN {s : State} {p o v : Nat} (h : BootReg o) : BootKeeps s (s.wrN p o v) := by
  obtain ⟨ho, hcount, hevt⟩ := h
  refine ⟨rfl, rfl, rfl, rfl, rfl, rfl, rfl, rfl, id, wrN_rdN_other ho (by decide) fun h => hcount h.2.symm, fun i h => ?_⟩
  rw [State.flag, wrN_rdN_other ho (by decide) fun h => hevt h.2.symm]
  exact h

theorem bootKeeps_setField {s : State} {p o hi lo v : Nat} (h : BootReg o) : BootKeeps s (s.setField p o hi lo v) := bootKeeps_wrN h

theorem bootKeeps_setFlag {s : State} {p o i : Nat} {b : Bool} (h : BootReg o) : BootKeeps s (s.setFlag p o i b) := bootKeeps_wrN h

theorem bootKeeps_raise (s : State) (p : Nat) {i : Nat} (hi : i < 32) : BootKeeps s (s.raise p i) :=
  ⟨rfl, rfl, rfl, rfl, rfl, rfl, rfl, rfl, id, rdN_raise_other (by decide) fun h => absurd h.2 (by decide),
    fun _ => flag_raise_stays hi⟩

theorem bootKeeps_of_same {s u : State} (hreg : u.regs = s.regs) (hmg : u.mg = s.mg)
    (hrest : (u.tiles, u.mem, u.map, u.pow) = (s.tiles, s.mem, s.map, s.pow)) : BootKeeps s u := by
  simp only [Prod.mk.injEq] at hrest
  obtain ⟨htiles, hmem, hmap, hpow⟩ := hrest
  refine ⟨htiles, hmem, hmap, hpow, by rw [hmg], by rw [hmg], by rw [hmg], by rw [hmg], by rw [hmg]; exact id,
    rdN_of_regs hreg _ _, fun i h => (flag_of_regs hreg _ _ _).trans h⟩

theorem bootKeeps_agRecord (s : State) (code : Nat) (l : List Nat) : BootKeeps s (s.agRecord code l) := bootKeeps_of_same rfl rfl rfl

theorem bootKeeps_bootStep (s : State) (ms n bound extra : Nat) : BootKeeps s (s.bootStep ms n bound extra).1 :=
  bootKeeps_of_same rfl rfl rfl

/-- The controller's state changes in its measurements, its health, or its wait for recovery. -/
theorem bootKeeps_modMg {s : State} {f : Mgmt → Mgmt} (hkeys : (f s.mg).keys = s.mg.keys) (hfloor : (f s.mg).floor = s.mg.floor)
    (hsess : (f s.mg).sessions = s.mg.sessions) (hre : (f s.mg).restarted = s.mg.restarted)
    (hseal : s.mg.sealed = true → (f s.mg).sealed = true) : BootKeeps s (s.modMg f) :=
  ⟨rfl, rfl, rfl, rfl, hkeys, hfloor, hsess, hre, hseal, rdN_of_regs rfl _ _, fun _ h => (flag_of_regs rfl _ _ _).trans h⟩

theorem bootKeeps_measure (s : State) (kind agent svn ver : Nat) (hash : List Byte) :
    BootKeeps s (s.measure kind agent svn ver hash) := by
  unfold State.measure
  dsimp only
  split
  · exact .refl s
  · exact bootKeeps_modMg rfl rfl rfl rfl id

theorem bootKeeps_measureSlot (s : State) (slot : Nat) : BootKeeps s (s.measureSlot slot) := by
  unfold State.measureSlot
  exact (bootKeeps_measure ..).trans (BootKeeps.foldl (fun u c => bootKeeps_measure ..) _ _)

theorem bootKeeps_boot2 (s : State) (e : BootEnv) : BootKeeps s (s.boot2 e) := by
  unfold State.boot2
  exact (bootKeeps_modMg rfl rfl rfl rfl id).trans ((bootKeeps_measure ..).trans ((bootKeeps_measure ..).trans
    ((bootKeeps_measureSlot ..).trans (bootKeeps_setFlag (by decide)))))

theorem bootKeeps_failSite (s : State) (site : Nat) : BootKeeps s (s.failSite site) := by
  have hnoted : BootKeeps s { s with failing := insNat site s.failing } := bootKeeps_of_same rfl rfl rfl
  exact hnoted.trans (bootKeeps_raise _ sparePage (by decide))

theorem bootKeeps_laneFail (s : State) (k lane : Nat) : BootKeeps s (s.laneFail k lane false) := by
  have hset : ∀ (c h : Nat) (l : List Nat) (y : Slice), BootKeeps s (((s.agRecord c l).holdRequest h).setSlice k y) :=
    fun c h l y => bootKeeps_of_same rfl rfl rfl
  unfold State.laneFail
  extract_lets x y g y1 y2 t u page
  have hu : BootKeeps s u := hset _ _ _ _
  clear_value u
  split
  · exact .refl s
  · split
    · exact hu.trans ((bootKeeps_raise u page (by decide)).trans (bootKeeps_failSite _ _))
    · split
      · exact hu.trans (bootKeeps_raise _ _ (by decide))
      · exact hu

theorem bootKeeps_tuneLanes (s : State) (l : List (Nat × Nat × Nat × Nat)) : BootKeeps s (s.tuneLanes l) := by
  unfold State.tuneLanes
  extract_lets sp t u v w
  have ht : BootKeeps s t := bootKeeps_of_same rfl rfl rfl
  have hu : BootKeeps t u := bootKeeps_of_same rfl rfl rfl
  have hv : BootKeeps u v := bootKeeps_of_same rfl rfl rfl
  have hw : BootKeeps v w := BootKeeps.foldl (fun x e => by
    obtain ⟨k, lane, lo, n⟩ := e
    dsimp only
    split
    · exact .refl x
    · split
      · exact bootKeeps_laneFail x k lane
      · exact bootKeeps_of_same rfl rfl rfl) _ _
  exact ht.trans (hu.trans (hv.trans (hw.trans (BootKeeps.foldl (fun x e => by
    split
    · exact .refl x
    · exact bootKeeps_agRecord ..) _ _))))

theorem bootKeeps_boot3 (s : State) (e : BootEnv) : BootKeeps s (s.boot3 e) := by
  unfold State.boot3
  extract_lets t slices u
  have ht : BootKeeps s t := (bootKeeps_wrN (by decide)).trans (bootKeeps_wrN (by decide))
  have hu : BootKeeps t u := bootKeeps_of_same rfl rfl rfl
  exact ht.trans (hu.trans ((bootKeeps_wrN (by decide)).trans (bootKeeps_tuneLanes _ _)))

theorem bootKeeps_boot4 (s : State) : BootKeeps s s.boot4 ∧ s.boot4.mg.sealed = true := by
  have hrwl : ∀ x ∈ rwlFields, BootReg x.off := by decide
  have hfields : ∀ (l : List (Rwl × Word)) (t : State), (∀ x ∈ l, x.1 ∈ rwlFields) → BootKeeps t (l.foldl (fun (s : State)
      (x : Rwl × Word) => if x.1.ok x.2.toNat then s.wrN x.1.page x.1.off (x.2.toNat &&& x.1.mask) else s) t) := fun l => by
    induction l with
    | nil => exact fun t _ => .refl t
    | cons x l ih =>
      intro t h
      rw [List.foldl_cons]
      refine BootKeeps.trans ?_ (ih _ fun y hy => h y (List.mem_cons_of_mem _ hy))
      split
      · exact bootKeeps_wrN (hrwl x.1 (h x List.mem_cons_self))
      · exact .refl t
  unfold State.boot4
  extract_lets t u
  have ht : BootKeeps s t := by
    show BootKeeps s (match s.mg.config with | none => s | some l => _)
    split
    · exact .refl s
    · exact (hfields _ _ fun x hx => (List.of_mem_zip hx).1).trans (bootKeeps_measure ..)
  clear_value t
  have hu : BootKeeps t u := (bootKeeps_modMg rfl rfl rfl rfl fun _ => rfl).trans (bootKeeps_setFlag (by decide))
  have hsealed : u.mg.sealed = true := rfl
  clear_value u
  exact ⟨ht.trans (hu.trans (bootKeeps_agRecord ..)), hsealed⟩

theorem bootKeeps_setRowMv (s : State) (r : Nat) : BootKeeps s (s.setRowMv r) :=
  BootKeeps.foldl (fun _ _ => bootKeeps_wrN (by decide)) _ _

theorem bootKeeps_spare (s : State) (x : Sparing) : BootKeeps s { s with spare := x } := bootKeeps_of_same rfl rfl rfl

theorem bootKeeps_boot6 (s : State) : BootKeeps s s.boot6 := by
  unfold State.boot6
  extract_lets t down sp
  have ht : BootKeeps s t := (bootKeeps_setFlag (by decide)).trans (bootKeeps_wrN (by decide))
  exact ht.trans ((bootKeeps_spare t _).trans (BootKeeps.foldl (fun _ _ => bootKeeps_setRowMv _ _) _ _))

/-- A front-end port whose link has come up shows it. -/
theorem bootKeeps_feTrained (s : State) (p v : Nat) : BootKeeps s ((s.setField (fePage p) offStatus 2 0 v).raise (fePage p) 0) :=
  (bootKeeps_setField (by decide)).trans (bootKeeps_raise _ _ (by decide))

theorem bootKeeps_boot7 (s : State) (e : BootEnv) : BootKeeps s (s.boot7 e) := by
  unfold State.boot7
  extract_lets t u
  have ht : BootKeeps s t := BootKeeps.foldl (fun _ _ => bootKeeps_setField (by decide)) _ _
  have hu : BootKeeps t u := BootKeeps.foldl (fun v x => by
    split
    · exact bootKeeps_feTrained v _ _
    · exact .refl v) _ _
  exact ht.trans (hu.trans (bootKeeps_modMg rfl rfl rfl rfl id))

theorem bootKeeps_bootHalt (s : State) (step : Nat) : BootKeeps s (s.bootHalt step) := by
  unfold State.bootHalt
  exact (bootKeeps_modMg rfl rfl rfl rfl id).trans ((bootKeeps_raise _ _ (by decide)).trans (bootKeeps_agRecord ..))

theorem bootHalt_halts (s : State) (step : Nat) : (s.bootHalt step).mg.recovery = true ∧
    (s.bootHalt step).flag mgmtPage offEvt 9 = true := by
  have hrecord : ∀ (u : State) (c : Nat) (l : List Nat), (u.agRecord c l).mg = u.mg ∧ (u.agRecord c l).regs = u.regs :=
    fun _ _ _ => ⟨rfl, rfl⟩
  have hraise : ∀ (u : State) (p i : Nat), (u.raise p i).mg = u.mg := fun _ _ _ => rfl
  unfold State.bootHalt
  refine ⟨?_, (flag_of_regs (hrecord _ _ _).2 _ _ _).trans (State.flag_raise_same _ _ _ (by decide))⟩
  rw [(hrecord _ _ _).1, hraise]
  rfl

/-! ## Ports -/

/-- What says which ports a module uses. -/
def State.dimView (s : State) := (s.rdN rayComPage 0x104, s.rdN rayComPage 0x108)

theorem portUnused_of_view {s u : State} (h : u.dimView = s.dimView) (p : Nat) : u.portUnused p = s.portUnused p := by
  simp only [State.dimView, Prod.mk.injEq] at h
  obtain ⟨hdims, hskip⟩ := h
  unfold State.portUnused State.dims State.skipDim State.field
  rw [hdims, hskip]

theorem dimView_setPortSt (s : State) (p v : Nat) : (s.setPortSt p v).dimView = s.dimView := by
  unfold State.setPortSt State.dimView State.setField
  rw [wrN_rdN_other (by decide) (by decide) fun h => absurd h.2 (by decide),
    wrN_rdN_other (by decide) (by decide) fun h => absurd h.2 (by decide)]

theorem portSt_setPortSt (s : State) (p v : Nat) (hv : v < 8) : (s.setPortSt p v).portSt p = v :=
  (State.field_setField_same s (rayPage p) offStatus 2 0 v (by decide) (by decide)).trans (Nat.mod_eq_of_lt hv)

theorem portSt_setPortSt_other (s : State) {p q : Nat} (v : Nat) (h : p ≠ q) : (s.setPortSt p v).portSt q = s.portSt q :=
  congrArg (bits · 2 0) (wrN_rdN_other (by decide) (by decide) fun hsame => h (by
    have hpage : 0x2100 + q = 0x2100 + p := hsame.1
    omega))

/-- Every port starts to train, or is unused. -/
theorem portsTrain (n : Nat) : ∀ s : State,
    let u := (List.range n).foldl (fun s p => s.setPortSt p (if s.portUnused p then 6 else 1)) s
    u.dimView = s.dimView ∧ ∀ p, p < n → u.portSt p = if s.portUnused p then 6 else 1 := by
  induction n with
  | zero => exact fun s => ⟨rfl, fun p hp => absurd hp (by omega)⟩
  | succ n ih =>
    intro s u
    obtain ⟨hview, hst⟩ := ih s
    have hu : u = ((List.range n).foldl (fun s p => s.setPortSt p (if s.portUnused p then 6 else 1)) s).setPortSt n
        (if s.portUnused n then 6 else 1) := by
      rw [← portUnused_of_view hview n]
      show List.foldl _ s (List.range (n + 1)) = _
      rw [List.range_succ, List.foldl_append]
      rfl
    rw [hu]
    refine ⟨(dimView_setPortSt _ _ _).trans hview, fun p hp => ?_⟩
    by_cases hpn : p = n
    · subst hpn
      exact portSt_setPortSt _ _ _ (by split <;> decide)
    · exact (portSt_setPortSt_other _ _ (Ne.symm hpn)).trans (hst p (by omega))

theorem boot7_ports (s : State) (e : BootEnv) (p : Nat) (hp : p < 16) :
    (s.boot7 e).portSt p = if (s.boot7 e).portUnused p then 6 else 1 := by
  obtain ⟨hview, hst⟩ := portsTrain 16 s
  unfold State.boot7
  extract_lets t u
  change t.dimView = _ at hview
  change ∀ p, p < 16 → t.portSt p = _ at hst
  have hfe : (u.dimView, u.portSt p) = (t.dimView, t.portSt p) := by
    refine foldl_keeps (fun v : State => (v.dimView, v.portSt p)) _ (fun v x => ?_) _ _
    split
    · next hx =>
      have hpage : ∀ o, regOff o → (p' : Nat) → (∀ y, y < 2 → p' ≠ fePage y) →
          ((v.setField (fePage x.1) offStatus 2 0 (1 + 2 * (x.2 % 4))).raise (fePage x.1) 0).rdN p' o = v.rdN p' o :=
        fun o ho p' hne => (rdN_raise_other ho fun h => hne _ hx h.1).trans
          (wrN_rdN_other (by decide) ho fun h => hne _ hx h.1)
      have hcom : ∀ y, y < 2 → rayComPage ≠ fePage y := fun y hy => by
        show 0x2110 ≠ 0x2120 + y
        omega
      have hray : ∀ y, y < 2 → rayPage p ≠ fePage y := fun y hy => by
        show 0x2100 + p ≠ 0x2120 + y
        omega
      unfold State.dimView State.portSt State.field
      rw [hpage _ (by decide) _ hcom, hpage _ (by decide) _ hcom, hpage _ (by decide) _ hray]
    · rfl
  simp only [Prod.mk.injEq] at hfe
  obtain ⟨hfv, hfs⟩ := hfe
  have hend : (u.modMg fun g => { g with health := true }).dimView = s.dimView :=
    (show _ = u.dimView from rfl).trans (hfv.trans hview)
  rw [portUnused_of_view hend]
  exact (show _ = u.portSt p from rfl).trans (hfs.trans (hst p hp))

/-! ## Steps 2 to 7 -/

/-- A module that step 7 has brought up, but for its power. -/
structure Ready (s u : State) : Prop where
  keeps : BootKeeps s u
  sealed : u.mg.sealed = true
  health : u.mg.health = true
  ports : ∀ p, p < 16 → u.portSt p = if u.portUnused p then 6 else 1

/-- Steps 6 and 7. -/
def State.bootEnd (s : State) (e : BootEnv) (ms late : Nat) : State :=
  let r := s.free
  let late := if e.alertClear then late else late + r.1.toNat % 2 ^ 30
  let s := if e.alertClear then s else r.2
  let (s, ms) := s.boot6.bootStep ms 6 280 late
  let (s, _) := (s.boot7 e).bootStep ms 7 1000 late
  { s with pow := { s.pow with off := false } }

theorem bootStep_ports (u : State) (ms n bound extra p : Nat) : (u.bootStep ms n bound extra).1.portSt p = u.portSt p ∧
    (u.bootStep ms n bound extra).1.portUnused p = u.portUnused p :=
  ⟨congrArg (bits · 2 0) (rdN_of_regs rfl _ _), portUnused_of_view rfl p⟩

theorem boot7_health (s : State) (e : BootEnv) : (s.boot7 e).mg.health = true := rfl

theorem bootStep_mg (u : State) (ms n bound extra : Nat) : (u.bootStep ms n bound extra).1.mg = u.mg := rfl

/-- Steps 6 and 7 of a sealed module. -/
theorem bootEnd_ready {s : State} (hseal : s.mg.sealed = true) (e : BootEnv) (ms late : Nat) :
    ∃ t, Ready s t ∧ s.bootEnd e ms late = { t with pow := { t.pow with off := false } } := by
  unfold State.bootEnd
  extract_lets r late' u
  have hu : BootKeeps s u := by
    show BootKeeps s (if e.alertClear then s else r.2)
    split
    · exact .refl s
    · exact bootKeeps_of_same rfl rfl rfl
  clear_value u
  have h6 : BootKeeps u (u.boot6.bootStep ms 6 280 late').1 := (bootKeeps_boot6 u).trans (bootKeeps_bootStep ..)
  generalize u.boot6.bootStep ms 6 280 late' = x at h6 ⊢
  obtain ⟨v, m⟩ := x
  dsimp only at h6 ⊢
  have h7 := (bootKeeps_boot7 v e).trans (bootKeeps_bootStep (v.boot7 e) m 7 1000 late')
  have hhealth := (congrArg Mgmt.health (bootStep_mg (v.boot7 e) m 7 1000 late')).trans (boot7_health v e)
  have hports : ∀ p, p < 16 → ((v.boot7 e).bootStep m 7 1000 late').1.portSt p =
      if ((v.boot7 e).bootStep m 7 1000 late').1.portUnused p then 6 else 1 := fun p hp => by
    rw [(bootStep_ports ..).1, (bootStep_ports ..).2]
    exact boot7_ports v e p hp
  generalize (v.boot7 e).bootStep m 7 1000 late' = y at h7 hhealth hports ⊢
  obtain ⟨w, m'⟩ := y
  have hall := hu.trans (h6.trans h7)
  exact ⟨w, ⟨hall, hall.sealed hseal, hhealth, hports⟩, rfl⟩

/-- Steps 3 to 5, and what follows. -/
def State.bootMid (s : State) (e : BootEnv) (ms late : Nat) : State :=
  let (s, ms) := (s.boot3 e).bootStep ms 3 150 late
  let (s, ms) := s.boot4.bootStep ms 4 155 late
  let (s, ms) := (s.setFlag mgmtPage offStatus 2 true).bootStep ms 5 180 late
  if !e.siteMapOk then s.bootHalt 6 else s.bootEnd e ms late

theorem bootMid_cases (s : State) (e : BootEnv) (ms late : Nat) :
    (e.siteMapOk = false → ∃ t, BootKeeps s t ∧ s.bootMid e ms late = t.bootHalt 6) ∧
    (e.siteMapOk = true → ∃ t, Ready s t ∧ s.bootMid e ms late = { t with pow := { t.pow with off := false } }) := by
  unfold State.bootMid
  have h3 := (bootKeeps_boot3 s e).trans (bootKeeps_bootStep (s.boot3 e) ms 3 150 late)
  generalize (s.boot3 e).bootStep ms 3 150 late = x3 at h3 ⊢
  obtain ⟨t3, m3⟩ := x3
  dsimp only at h3 ⊢
  obtain ⟨h4, hseal⟩ := bootKeeps_boot4 t3
  have h4 := h4.trans (bootKeeps_bootStep t3.boot4 m3 4 155 late)
  have hseal := (congrArg Mgmt.sealed (bootStep_mg t3.boot4 m3 4 155 late)).trans hseal
  generalize t3.boot4.bootStep m3 4 155 late = x4 at h4 hseal ⊢
  obtain ⟨t4, m4⟩ := x4
  dsimp only at h4 hseal ⊢
  have h5 : BootKeeps t4 ((t4.setFlag mgmtPage offStatus 2 true).bootStep m4 5 180 late).1 :=
    (bootKeeps_setFlag (by decide)).trans (bootKeeps_bootStep ..)
  generalize (t4.setFlag mgmtPage offStatus 2 true).bootStep m4 5 180 late = x5 at h5 ⊢
  obtain ⟨t5, m5⟩ := x5
  dsimp only at h5 ⊢
  have hall := h3.trans (h4.trans h5)
  refine ⟨fun h => ⟨t5, hall, if_pos (congrArg (!·) h)⟩, fun h => ?_⟩
  obtain ⟨t, hready, ht⟩ := bootEnd_ready (h5.sealed hseal) e m5 late
  refine ⟨t, ⟨hall.trans hready.keeps, hready.sealed, hready.health, hready.ports⟩, ?_⟩
  exact (if_neg (by rw [h]; decide)).trans ht

/-- What the steps after the choice of a slot end with. -/
theorem bootRest_cases (s : State) (e : BootEnv) (ms late : Nat) :
    ((e.softFusesOk && e.siteMapOk) = false → ∃ t n, BootKeeps s t ∧ s.bootRest e ms late = t.bootHalt n) ∧
    (e.softFusesOk = true → e.siteMapOk = true →
      ∃ t, Ready s t ∧ s.bootRest e ms late = { t with pow := { t.pow with off := false } }) := by
  have h2 := (bootKeeps_boot2 s e).trans (bootKeeps_bootStep (s.boot2 e) ms 2 60 late)
  have heq : s.bootRest e ms late = if !e.softFusesOk then ((s.boot2 e).bootStep ms 2 60 late).1.bootHalt 3
      else ((s.boot2 e).bootStep ms 2 60 late).1.bootMid e ((s.boot2 e).bootStep ms 2 60 late).2 late := rfl
  generalize (s.boot2 e).bootStep ms 2 60 late = x at h2 heq
  obtain ⟨hno, hyes⟩ := bootMid_cases x.1 e x.2 late
  cases hf : e.softFusesOk with
  | false => exact ⟨fun _ => ⟨x.1, 3, h2, by rw [heq, hf]; rfl⟩, fun h => absurd h (by decide)⟩
  | true =>
    have heq : s.bootRest e ms late = x.1.bootMid e x.2 late := by rw [heq, hf]; rfl
    refine ⟨fun h => ?_, fun _ h => ?_⟩
    · obtain ⟨t, hkeeps, ht⟩ := hno h
      exact ⟨t, 6, h2.trans hkeeps, heq.trans ht⟩
    · obtain ⟨t, hready, ht⟩ := hyes h
      exact ⟨t, ⟨h2.trans hready.keeps, hready.sealed, hready.health, hready.ports⟩, heq.trans ht⟩

/-! ## Step 1 -/

theorem sfind_filter {α : Type} (q : Nat → Bool) {k : Nat} (hk : q k = true) : ∀ m : Sparse α,
    sfind (m.filter fun e => q e.1) k = sfind m k
  | [] => rfl
  | (i, x) :: m => by
    have ih := sfind_filter q hk m
    by_cases hi : q i = true
    · rw [List.filter_cons_of_pos (p := fun e : Nat × α => q e.1) hi]
      simp only [sfind, ih]
    · rw [List.filter_cons_of_neg (p := fun e : Nat × α => q e.1) hi, ih]
      have hne : (i == k) = false := beq_eq_false_iff_ne.2 fun h => hi (h ▸ hk)
      simp only [sfind, hne, Bool.false_eq_true, if_false]

theorem cold_count (s : State) : s.cold.rdN mgmtPage 0x1C4 = s.rdN mgmtPage 0x1C4 :=
  congrArg (fun o : Option Word => (o.getD (regReset mgmtPage 0x1C4)).toNat)
    (sfind_filter keptReg (k := regKey mgmtPage 0x1C4) (by decide) s.regs)

/-- A module without power once step 1 has counted its boot. -/
structure Counted (s u : State) : Prop where
  tiles : u.tiles = []
  mem : u.mem = s.mem.filter fun c => slowBase ≤ c.1
  map : u.map = s.map
  off : u.pow.off = true
  keys : u.mg.keys = s.mg.keys
  sessions : u.mg.sessions = []
  restarted : u.mg.restarted = false
  firmware : u.firmware = s.firmware
  count : u.rdN mgmtPage 0x1C4 = (s.rdN mgmtPage 0x1C4 + 1) % 2 ^ 32

theorem counted_agRecord {s u : State} (h : Counted s u) (code : Nat) (l : List Nat) : Counted s (u.agRecord code l) :=
  ⟨h.tiles, h.mem, h.map, h.off, h.keys, h.sessions, h.restarted, h.firmware, (rdN_of_regs rfl _ _).trans h.count⟩

theorem counted_gap {s u : State} (h : Counted s u) (a : Ag) (b : Bool) :
    Counted s ({ u with ag := a }.setFlag agPage offStatus 0 b) :=
  ⟨h.tiles, h.mem, h.map, h.off, h.keys, h.sessions, h.restarted, h.firmware,
    (rdN_setFlag_other (by decide) (by decide) (by decide)).trans ((rdN_of_regs rfl _ _).trans h.count)⟩

theorem counted_boot1 (s : State) : Counted s s.cold.boot1 := by
  have hcount : Counted s (s.cold.wrN mgmtPage 0x1C4 (s.cold.rdN mgmtPage 0x1C4 + 1)) :=
    ⟨rfl, rfl, rfl, rfl, rfl, rfl, rfl, rfl, (State.rdN_wrN_same _ _ _ _).trans (by rw [cold_count])⟩
  unfold State.boot1
  extract_lets n t at_ ag u v
  exact counted_agRecord (counted_agRecord (counted_gap hcount _ _) _ _) _ _

theorem counted_step1 (s : State) : Counted s (s.cold.boot1.bootStep 0 1 10 0).1 := by
  have h := counted_boot1 s
  generalize s.cold.boot1 = t at h ⊢
  exact ⟨h.tiles, h.mem, h.map, h.off, h.keys, h.sessions, h.restarted, h.firmware, (rdN_of_regs rfl _ _).trans h.count⟩

/-! ## The slot that the ROM boots -/

theorem selectSlot_active {s : State} (h : s.slotOk s.mg.active = true) : s.selectSlot = some s := if_pos h

theorem selectSlot_other {s : State} (h : s.slotOk s.mg.active = false) (ho : s.slotOk s.otherSlot = true) :
    ∃ u, s.selectSlot = some u ∧ BootKeeps s u ∧ u.mg.active = s.otherSlot ∧ u.flag mgmtPage offEvt 6 = true ∧
      u.mg.recovery = s.mg.recovery ∧ u.flag mgmtPage offStatus 4 = s.flag mgmtPage offStatus 4 := by
  refine ⟨_, (if_neg (ne_true_of_eq_false h)).trans (if_pos ho), ?_, rfl, ?_, rfl, ?_⟩
  · exact (bootKeeps_modMg (f := fun g => { g with active := s.otherSlot }) rfl rfl rfl rfl id).trans
      ((bootKeeps_raise _ mgmtPage (by decide)).trans (bootKeeps_agRecord ..))
  · exact (flag_of_regs rfl _ _ _).trans
      (State.flag_raise_same (s.modMg fun g => { g with active := s.otherSlot }) mgmtPage 6 (by decide))
  · refine (flag_of_regs rfl _ _ _).trans (congrArg (bit · 4) (rdN_raise_other (p := mgmtPage) (i := 6)
      (s := s.modMg fun g => { g with active := s.otherSlot }) (by decide) (by decide)))

theorem selectSlot_none {s : State} (h : s.slotOk s.mg.active = false) (ho : s.slotOk s.otherSlot = false) :
    s.selectSlot = none :=
  (if_neg (ne_true_of_eq_false h)).trans (if_neg (ne_true_of_eq_false ho))

/-- With a sound bundle in slot A a slot is selected. -/
theorem selectSlot_adopts_sound {s : State} (h : s.slotOk 0 = true) : ∃ u, s.selectSlot = some u ∧ BootKeeps s u ∧
    u.mg.recovery = s.mg.recovery ∧ u.slotOk u.mg.active = true ∧ u.flag mgmtPage offStatus 4 = s.flag mgmtPage offStatus 4 := by
  cases h0 : s.slotOk s.mg.active with
  | true => exact ⟨s, selectSlot_active h0, .refl s, rfl, h0, rfl⟩
  | false =>
    have hactive : s.mg.active ≠ 0 := fun h' => by
      rw [h', h] at h0
      exact absurd h0 (by decide)
    have hother : s.otherSlot = 0 := by
      unfold State.otherSlot
      omega
    obtain ⟨u, hu, hkeeps, -, -, hrec, hflag⟩ := selectSlot_other h0 (hother ▸ h)
    exact ⟨u, hu, hkeeps, hrec, State.selectSlot_slotOk hu, hflag⟩

theorem slots_of_firmware {s u : State} (h : u.firmware = s.firmware) :
    u.slotOk = s.slotOk ∧ u.mg.active = s.mg.active ∧ u.otherSlot = s.otherSlot := by
  have hactive : u.mg.active = s.mg.active := congrArg Firmware.active h
  exact ⟨State.slotOk_congr (congrArg Firmware.floor h) (congrArg Firmware.slotA h) (congrArg Firmware.slotB h), hactive,
    congrArg (1 - ·) hactive⟩

theorem bootKeeps_enterRecovery (s : State) : BootKeeps s s.enterRecovery :=
  (bootKeeps_modMg (f := fun g => { g with recovery := true }) rfl rfl rfl rfl id).trans (bootKeeps_setFlag (by decide))

theorem enterRecovery_waits (s : State) : s.enterRecovery.mg.recovery = true ∧
    s.enterRecovery.flag mgmtPage offStatus 4 = true :=
  ⟨rfl, State.flag_setFlag_same _ _ _ _ _ (by decide)⟩

/-- The steps after the choice of a slot keep all but the power. -/
theorem bootRest_keeps (s : State) (e : BootEnv) (ms late : Nat) : BootKeeps s { s.bootRest e ms late with pow := s.pow } := by
  obtain ⟨hno, hyes⟩ := bootRest_cases s e ms late
  have hpow : ∀ t : State, t.pow = s.pow → BootKeeps t { t with pow := s.pow } := fun t h => bootKeeps_of_same rfl rfl (by rw [h])
  cases hok : (e.softFusesOk && e.siteMapOk) with
  | false =>
    obtain ⟨t, n, hkeeps, ht⟩ := hno hok
    rw [ht]
    have h := hkeeps.trans (bootKeeps_bootHalt t n)
    exact h.trans (hpow _ h.pow)
  | true =>
    obtain ⟨hf, hm⟩ := Bool.and_eq_true_iff.1 hok
    obtain ⟨t, hready, ht⟩ := hyes hf hm
    rw [ht]
    exact hready.keeps.trans (hpow t hready.keeps.pow)

/-! ## POWER_ON -/

/-- The module halts at a step of its boot. -/
def Halts (u : State) : Prop := u.pow.off = true ∧ u.mg.recovery = true ∧ u.flag mgmtPage offEvt 9 = true

theorem halts_of {t : State} (h : t.pow.off = true) (n : Nat) : Halts (t.bootHalt n) :=
  ⟨(congrArg Power.off (bootKeeps_bootHalt t n).pow).trans h, bootHalt_halts t n⟩

/-- The module is in service. -/
def InService (u : State) : Prop := u.pow.off = false ∧ u.mg.sealed = true ∧ u.mg.health = true ∧ u.mg.restarted = false ∧
  ∀ p, p < 16 → u.portSt p = if u.portUnused p then 6 else 1

/-- What the steps after the choice of a slot end with, in a module without power. -/
theorem bootRest_ends {s : State} (hoff : s.pow.off = true) (hre : s.mg.restarted = false) (e : BootEnv) (ms late : Nat) :
    ((e.softFusesOk && e.siteMapOk) = false → Halts (s.bootRest e ms late)) ∧
    (e.softFusesOk = true → e.siteMapOk = true → InService (s.bootRest e ms late)) := by
  obtain ⟨hno, hyes⟩ := bootRest_cases s e ms late
  refine ⟨fun h => ?_, fun hf hm => ?_⟩
  · obtain ⟨t, n, hkeeps, ht⟩ := hno h
    rw [ht]
    exact halts_of ((congrArg Power.off hkeeps.pow).trans hoff) n
  · obtain ⟨t, hready, ht⟩ := hyes hf hm
    rw [ht]
    exact ⟨rfl, hready.sealed, hready.health, hready.keeps.restarted.trans hre, fun p hp => hready.ports p hp⟩

/-- The first boot of a module: step 1, and what follows the choice of a slot. -/
theorem powerOn_cold {s : State} (hcold : s.mg.restarted = false) (e : BootEnv) : ∃ t ms, Counted s t ∧
    s.powerOn e = if !e.slotsOk then t.bootHalt 2 else match t.selectSlot with
      | some u => u.bootRest e ms 0
      | none => t.enterRecovery := by
  refine ⟨_, (s.cold.boot1.bootStep 0 1 10 0).2, counted_step1 s, ?_⟩
  exact if_neg (ne_true_of_eq_false hcold)

/-- What the ROM does with the slots of a module that boots. -/
theorem powerOn_cases {s : State} (hcold : s.mg.restarted = false) (e : BootEnv) : ∃ t, Counted s t ∧
    (e.slotsOk = false → s.powerOn e = t.bootHalt 2) ∧
    (e.slotsOk = true → s.slotOk s.mg.active = false → s.slotOk s.otherSlot = false → s.powerOn e = t.enterRecovery) ∧
    (e.slotsOk = true → s.slotOk s.mg.active = true → ∃ ms, s.powerOn e = t.bootRest e ms 0) ∧
    (e.slotsOk = true → s.slotOk s.mg.active = false → s.slotOk s.otherSlot = true → ∃ u ms, BootKeeps t u ∧
      u.mg.active = s.otherSlot ∧ u.flag mgmtPage offEvt 6 = true ∧ s.powerOn e = u.bootRest e ms 0) := by
  obtain ⟨t, ms, ht, heq⟩ := powerOn_cold hcold e
  obtain ⟨hok, hactive, hother⟩ := slots_of_firmware ht.firmware
  rw [← hok, ← hactive, ← hother]
  refine ⟨t, ht, fun h => ?_, fun h h0 h1 => ?_, fun h h0 => ⟨ms, ?_⟩, fun h h0 h1 => ?_⟩
  · rw [heq, h]; rfl
  · rw [heq, h, selectSlot_none h0 h1]; rfl
  · rw [heq, h, selectSlot_active h0]; rfl
  · obtain ⟨u, hu, hkeeps, ha, hf, -, -⟩ := selectSlot_other h0 h1
    exact ⟨u, ms, hkeeps, ha, hf, by rw [heq, h, hu]; rfl⟩

/-- What a boot leaves of a module without power. -/
def Booted (s u : State) : Prop :=
  u.rdN mgmtPage 0x1C4 = (s.rdN mgmtPage 0x1C4 + 1) % 2 ^ 32 ∧ u.tiles = [] ∧
    u.mem = s.mem.filter (fun c => slowBase ≤ c.1) ∧ u.map = s.map ∧ u.mg.keys = s.mg.keys ∧ u.mg.floor = s.mg.floor ∧
    u.mg.sessions = []

theorem booted_of {s t u : State} (h : Counted s t) (hu : BootKeeps t { u with pow := t.pow }) : Booted s u :=
  ⟨(rdN_of_regs rfl _ _).trans (hu.count.trans h.count), hu.tiles.trans h.tiles, hu.mem.trans h.mem, hu.map.trans h.map,
    hu.keys.trans h.keys, hu.floor.trans (congrArg Firmware.floor h.firmware), hu.sessions.trans h.sessions⟩

theorem booted_of_keeps {s t u : State} (h : Counted s t) (hu : BootKeeps t u) : Booted s u :=
  ⟨hu.count.trans h.count, hu.tiles.trans h.tiles, hu.mem.trans h.mem, hu.map.trans h.map,
    hu.keys.trans h.keys, hu.floor.trans (congrArg Firmware.floor h.firmware), hu.sessions.trans h.sessions⟩

theorem powerOn_booted {s : State} (hcold : s.mg.restarted = false) (e : BootEnv) : Booted s (s.powerOn e) := by
  obtain ⟨t, ht, hslots, hnone, hactive, hother⟩ := powerOn_cases hcold e
  cases hs : e.slotsOk with
  | false =>
    rw [hslots hs]
    exact booted_of_keeps ht (bootKeeps_bootHalt ..)
  | true =>
    cases h0 : s.slotOk s.mg.active with
    | true =>
      obtain ⟨ms, heq⟩ := hactive hs h0
      rw [heq]
      exact booted_of ht (bootRest_keeps ..)
    | false =>
      cases h1 : s.slotOk s.otherSlot with
      | false =>
        rw [hnone hs h0 h1]
        exact booted_of_keeps ht (bootKeeps_enterRecovery ..)
      | true =>
        obtain ⟨u, ms, hkeeps, -, -, heq⟩ := hother hs h0 h1
        rw [heq]
        have h := hkeeps.trans (bootRest_keeps u e ms 0)
        rw [hkeeps.pow] at h
        exact booted_of ht h

/-- A module that goes on with its boot ends it, or halts. -/
theorem powerOn_goes {s : State} (hoff : s.pow.off = true) (e : BootEnv)
    (hgoes : s.mg.restarted = true ∨ (e.slotsOk = true ∧ (s.slotOk s.mg.active = true ∨ s.slotOk s.otherSlot = true))) :
    ((e.softFusesOk && e.siteMapOk) = false → Halts (s.powerOn e)) ∧
    (e.softFusesOk = true → e.siteMapOk = true → InService (s.powerOn e)) := by
  cases hre : s.mg.restarted with
  | true =>
    have heq : s.powerOn e = (s.free.2.modMg fun g => { g with restarted := false }).bootRest e 0 (s.free.1.toNat % 2 ^ 30) :=
      if_pos hre
    rw [heq]
    exact bootRest_ends (by exact hoff) rfl e 0 _
  | false =>
    obtain ⟨hs, hsound⟩ := hgoes.resolve_left fun h => absurd (hre.symm.trans h) (by decide)
    obtain ⟨t, ht, -, -, hactive, hother⟩ := powerOn_cases hre e
    cases h0 : s.slotOk s.mg.active with
    | true =>
      obtain ⟨ms, heq⟩ := hactive hs h0
      rw [heq]
      exact bootRest_ends ht.off ht.restarted e ms 0
    | false =>
      have h1 := hsound.resolve_left fun h => absurd (h0.symm.trans h) (by decide)
      obtain ⟨u, ms, hkeeps, -, -, heq⟩ := hother hs h0 h1
      rw [heq]
      exact bootRest_ends ((congrArg Power.off hkeeps.pow).trans ht.off) (hkeeps.restarted.trans ht.restarted) e ms 0

theorem powerOn_spec (s : State) (e : BootEnv) :
    let u := s.powerOn e
    let cold : Prop := s.mg.restarted = false
    let sound : Prop := s.slotOk s.mg.active = true ∨ s.slotOk s.otherSlot = true
    let goes : Prop := s.mg.restarted = true ∨ (e.slotsOk = true ∧ sound)
    (s.pow.off = false → exec (.powerOn e) s = .next s) ∧
    (s.pow.off = true →
      Ends (exec (.powerOn e) s) u ∧ (cold → Booted s u) ∧ (cold → e.slotsOk = false → Halts u) ∧
      (cold → e.slotsOk = true → ¬sound →
        u.pow.off = true ∧ u.mg.recovery = true ∧ u.flag mgmtPage offStatus 4 = true) ∧
      (goes → (e.softFusesOk && e.siteMapOk) = false → Halts u) ∧
      (goes → e.softFusesOk = true → e.siteMapOk = true → InService u) ∧
      (cold → e.slotsOk = true → s.slotOk s.mg.active = true → u.mg.active = s.mg.active) ∧
      (cold → e.slotsOk = true → s.slotOk s.mg.active = false → s.slotOk s.otherSlot = true →
        u.mg.active = s.otherSlot ∧ u.flag mgmtPage offEvt 6 = true)) := by
  intro u cold sound goes
  refine ⟨fun h => ?_, fun hoff => ⟨?_, fun hcold => powerOn_booted hcold e, fun hcold hs => ?_, fun hcold hs hno => ?_,
    fun hgoes => (powerOn_goes hoff e hgoes).1, fun hgoes => (powerOn_goes hoff e hgoes).2, fun hcold hs h0 => ?_,
    fun hcold hs h0 h1 => ?_⟩⟩
  · exact congrArg Host.Outcome.next (if_neg (ne_true_of_eq_false h))
  · have heq : exec (.powerOn e) s = .next (finish s (s.powerOn e)) := congrArg Host.Outcome.next (if_pos hoff)
    rw [heq]
    exact finish_ends s _
  · obtain ⟨t, ht, hslots, -⟩ := powerOn_cases hcold e
    show Halts (s.powerOn e)
    rw [hslots hs]
    exact halts_of ht.off 2
  · obtain ⟨t, ht, -, hnone, -⟩ := powerOn_cases hcold e
    obtain ⟨h0, h1⟩ := not_or.1 hno
    have heq : u = t.enterRecovery := hnone hs (eq_false_of_ne_true h0) (eq_false_of_ne_true h1)
    rw [heq]
    exact ⟨(congrArg Power.off (bootKeeps_enterRecovery t).pow).trans ht.off, enterRecovery_waits t⟩
  · obtain ⟨t, ht, -, -, hactive, -⟩ := powerOn_cases hcold e
    obtain ⟨ms, heq⟩ := hactive hs h0
    show (s.powerOn e).mg.active = _
    rw [heq]
    exact congrArg Firmware.active ((t.bootRest_firmware e ms 0).trans ht.firmware)
  · obtain ⟨t, ht, -, -, -, hother⟩ := powerOn_cases hcold e
    obtain ⟨v, ms, hkeeps, ha, hf, heq⟩ := hother hs h0 h1
    show (s.powerOn e).mg.active = _ ∧ (s.powerOn e).flag mgmtPage offEvt 6 = true
    rw [heq]
    exact ⟨(congrArg Firmware.active (v.bootRest_firmware e ms 0)).trans ha,
      (flag_of_regs rfl _ _ _).trans ((bootRest_keeps v e ms 0).evt 6 hf)⟩

/-! ## RECOVERY_BUNDLE -/

theorem recoveryBundle_spec (s : State) (b : List Byte) :
    let t := s.putSlot 0 0 b
    let v := (t.modMg fun g => { g with recovery := false, restarted := true }).setFlag mgmtPage offStatus 4 false
    let u := v.selectSlot.getD v
    (s.mg.recovery = false ∨ 2 ^ 25 < b.length → exec (.recoveryBundle b) s = .next s) ∧
    (s.mg.recovery = true → b.length ≤ 2 ^ 25 →
      (t.slotOk 0 = false → exec (.recoveryBundle b) s = .next t) ∧
      (t.slotOk 0 = true → Ends (exec (.recoveryBundle b) s) u ∧ u.mg.recovery = false ∧ u.mg.restarted = true ∧
        u.slotOk u.mg.active = true ∧ u.flag mgmtPage offStatus 4 = false ∧ u.mem = s.mem ∧ u.tiles = s.tiles)) := by
  intro t v u
  refine ⟨fun h => congrArg Host.Outcome.next (if_pos ?_), fun hr hb => ⟨fun h => ?_, fun h => ?_⟩⟩
  · rcases h with h | h
    · rw [h]; rfl
    · rw [decide_eq_true h, Bool.or_true]
  · exact congrArg Host.Outcome.next ((if_neg (by simpa [hr] using hb)).trans (if_pos (congrArg (!·) h)))
  · have heq : exec (.recoveryBundle b) s = .next (finish s u) :=
      congrArg Host.Outcome.next ((if_neg (by simpa [hr] using hb)).trans (if_neg (by rw [show t.slotOk 0 = true from h]; decide)))
    have hshown : v.flag mgmtPage offStatus 4 = false := State.flag_setFlag_same _ _ _ _ _ (by decide)
    obtain ⟨hok, -, -⟩ := slots_of_firmware (s := t) (u := v) rfl
    have hsound : v.slotOk 0 = true := (congrFun hok 0).trans h
    have hrec : v.mg.recovery = false := rfl
    have hre : v.mg.restarted = true := rfl
    have hmem : v.mem = s.mem ∧ v.tiles = s.tiles := ⟨rfl, rfl⟩
    rw [heq]
    refine ⟨finish_ends s u, ?_⟩
    obtain ⟨w, hw, hkeeps, hrecw, hslot, hflag⟩ := selectSlot_adopts_sound hsound
    have hu : u = w := congrArg (Option.getD · v) hw
    rw [hu]
    exact ⟨hrecw.trans hrec, hkeeps.restarted.trans hre, hslot, hflag.trans hshown, hkeeps.mem.trans hmem.1,
      hkeeps.tiles.trans hmem.2⟩

/-- Settles O52: the boot sequence and the recovery of a bundle. -/
theorem powerOnCompletes : Obligations.PowerOnCompletes := by
  unfold Obligations.PowerOnCompletes
  exact ⟨powerOn_spec, recoveryBundle_spec⟩

end Sys2Proof.Machine
end

section
/-!
PROOF. What an image's coming into force keeps (Section 5.7): the step, the admission page's state, the half of the slot table
in use, and the Gnomon. Device memory and the Shade are followed with `MemOnly`; the rest write other parts of the state.
-/
namespace Sys2Proof.Machine

/-- The step, the admission, the half of the slot table in use, and the Gnomon. -/
def State.imageView (s : State) := (s.steps.step, s.adm, s.ray.half, s.gn)

theorem imageView_memOnly {s t : State} (h : MemOnly s t) : t.imageView = s.imageView :=
  (congrArg (fun u : State => (u.steps.step, u.adm, u.ray.half, u.gn)) h.rest :)

section
variable (s : State)

theorem imageView_wrN (p o v : Nat) : (s.wrN p o v).imageView = s.imageView := rfl

theorem imageView_raise (p i : Nat) : (s.raise p i).imageView = s.imageView := rfl

theorem imageView_bump (p o n : Nat) : (s.bump p o n).imageView = s.imageView := imageView_memOnly (bump_memOnly s p o n)

theorem imageView_agRecord (code : Nat) (l : List Nat) : (s.agRecord code l).imageView = s.imageView := rfl

theorem imageView_modTile (t : Nat) (f : Tile → Tile) : (s.modTile t f).imageView = s.imageView := rfl

theorem imageView_modSlice (k : Nat) (f : Slice → Slice) : (s.modSlice k f).imageView = s.imageView := rfl

theorem imageView_consFault (k : Nat) (d : Int) : (s.consFault k d).imageView = s.imageView := by
  have hrest : ∀ u : State, (((u.setField penPage 0x15C 3 0 k).penCount 10).agRecord 0x2009 [k, fieldOf 32 d]).imageView =
      u.imageView := fun u => imageView_agRecord ((u.setField penPage 0x15C 3 0 k).penCount 10) _ _
  exact (hrest _).trans ((imageView_bump _ _ _ _).trans (imageView_raise _ _ _))

/-! ## Dimmer -/

theorem imageView_pow (x : Power) : State.imageView { s with pow := x } = s.imageView := rfl

theorem imageView_dimLearn (i : Image) (ph : Nat) : (s.dimLearn i ph).imageView = s.imageView := by
  have hput : ∀ (u : State) (e : DimEnt), (u.putDim e).imageView = u.imageView := fun _ _ => rfl
  unfold State.dimLearn
  dsimp only
  refine (hput _ _).trans ((foldl_keeps (fun x : Sparse Nat × State => x.2.imageView) _ (fun x d => ?_) _ _).trans ?_)
  · rfl
  · rfl

theorem imageView_dimEnd : s.dimEnd.imageView = s.imageView := by
  unfold State.dimEnd
  refine (imageView_pow _ _).trans ?_
  split
  · exact imageView_dimLearn ..
  · rfl

theorem imageView_setRowMv (r : Nat) : (s.setRowMv r).imageView = s.imageView := by
  unfold State.setRowMv
  exact foldl_keeps State.imageView _ (fun u t => imageView_wrN u ..) _ _

theorem imageView_dimApply (i : Image) (ph : Nat) : (s.dimApply i ph).imageView = s.imageView := by
  unfold State.dimApply
  dsimp only
  refine (foldl_keeps State.imageView _ imageView_setRowMv _ _).trans ?_
  refine (imageView_pow _ _).trans ((foldl_keeps State.imageView _ (fun u t => ?_) _ _).trans ?_)
  · exact (imageView_wrN ..).trans (imageView_wrN ..)
  · have hent : ∀ u : State, (u.dimEnt i ph).2.imageView = u.imageView := fun _ => rfl
    refine (hent _).trans ?_
    split <;> rfl

theorem imageView_dimPredict (i : Image) (ph : Nat) : (s.dimPredict i ph).imageView = s.imageView := by
  unfold State.dimPredict
  dsimp only
  split <;> rfl

theorem imageView_dimStart : s.dimStart.imageView = s.imageView := by
  have happly : ∀ (i : Image) (ph v : Nat), (((s.wrN powPage 0x114 v).dimPredict i ph).dimApply i ph).imageView = s.imageView :=
    fun i ph v => (imageView_dimApply ..).trans ((imageView_dimPredict ..).trans (imageView_wrN ..))
  unfold State.dimStart
  split
  · rfl
  · dsimp only
    split
    · exact (imageView_dimPredict ..).trans (happly _ _ _)
    · exact happly _ _ _

/-! ## Moves of blocks -/

theorem imageView_cmdDone (seq st result : Nat) : (s.cmdDone seq st result).imageView = s.imageView := by
  obtain ⟨c, hc⟩ := cmdDone_cmds s seq st result
  rw [hc]
  rfl

theorem imageView_startMoves : s.startMoves.imageView = s.imageView := by
  unfold State.startMoves
  refine foldl_keeps State.imageView _ (fun u m => ?_) _ _
  split <;> rfl

theorem copyRange_memOnly (src dst n cls : Nat) : MemOnly s (s.copyRange src dst n cls) := by
  unfold State.copyRange
  exact (devRead_memOnly s src n cls .module false false).trans (devWrite_memOnly ..)

theorem imageView_endMove (n : Nat) : (s.endMove n).imageView = s.imageView := by
  have hcopied : ∀ (i : Image) (l : List ((Nat × Nat) × (Nat × Nat))),
      (l.foldl (fun s x => s.copyRange x.1.1 x.2.1 x.1.2 5) s).imageView = s.imageView := fun i l =>
    foldl_keeps State.imageView _ (fun u x => imageView_memOnly (copyRange_memOnly u _ _ _ _)) l s
  have htable : ∀ (u : State) (r : Sparse ResEnt) (l : List Move),
      State.imageView { u with res := r, moves := l } = u.imageView := fun _ _ _ => rfl
  have hshown : ∀ (u : State) (b : Bool), (((u.setField (stackPage 0) 0x184 2 1 0).setFlag (stackPage 0) 0x184 0 b).raise
      (stackPage 0) 9).imageView = u.imageView := fun _ _ =>
    (imageView_raise ..).trans ((imageView_wrN ..).trans (imageView_wrN ..))
  unfold State.endMove
  split
  · rfl
  · extract_lets e t u v w x
    have ht : t.imageView = s.imageView := by
      show State.imageView (match s.adm.active with | none => s | some i => _) = _
      split
      · rfl
      · split
        · rfl
        · exact hcopied ‹_› _
    have hv : v.imageView = t.imageView := htable t _ _
    have hw : w.imageView = v.imageView := imageView_bump ..
    have hx : x.imageView = w.imageView := by
      show State.imageView (if _ then _ else w) = _
      split
      · exact hshown w _
      · rfl
    exact (imageView_startMoves x).trans (hx.trans (hw.trans (hv.trans ht)))

theorem imageView_finishMove (b : Nat) : (s.finishMove b).imageView = s.imageView := by
  unfold State.finishMove
  split
  · rfl
  · dsimp only
    split
    · exact (imageView_cmdDone ..).trans (imageView_endMove ..)
    · exact imageView_endMove ..

theorem imageView_settleMoves : s.settleMoves.imageView = s.imageView := by
  unfold State.settleMoves forN
  refine foldl_keeps State.imageView _ (fun u n => ?_) _ _
  split
  · exact imageView_finishMove ..
  · rfl

theorem imageView_askMove (m : Move) : (s.askMove m).imageView = s.imageView := by
  unfold State.askMove
  exact imageView_startMoves { s with moves := s.moves ++ [m] }

theorem imageView_resActivate (i : Image) : (s.resActivate i).imageView = s.imageView := by
  have htable : ∀ (r : Sparse ResEnt), State.imageView { s with res := r, moves := [] } = s.imageView := fun _ => rfl
  unfold State.resActivate
  dsimp only
  split
  · refine (foldl_keeps State.imageView _ (fun u k => ?_) _ _).trans (htable _)
    split
    · exact (imageView_endMove ..).trans (imageView_askMove ..)
    · rfl
  · exact htable _

/-! ## Counters -/

theorem imageView_zeroCounters : s.zeroCounters.imageView = s.imageView := by
  have hif : ∀ (u : State) (c : Prop) [Decidable c] (k : Nat) (d : Int), (if c then u.consFault k d else u).imageView = u.imageView :=
    fun u c _ k d => by
      split
      · exact imageView_consFault ..
      · rfl
  unfold State.zeroCounters
  extract_lets left msgs t u
  exact (show _ = u.imageView from rfl).trans ((hif t _ 4 _).trans (hif s _ 3 _))

theorem imageView_zeroCounts : s.zeroCounts.imageView = s.imageView := by
  unfold State.zeroCounts State.forSites
  refine foldl_keeps State.imageView _ (fun u t => ?_) _ _
  exact foldl_keeps State.imageView _ (fun v o => imageView_wrN v t o 0) _ _

/-! ## The Shade -/

theorem dirClear_memOnly (line : Nat) : MemOnly s (s.dirClear line) := by
  unfold State.dirClear
  dsimp only
  split
  · exact .refl s
  · exact (invalidateAt_memOnly ..).trans (setBank_memOnly ..)

/-- A line whose home changes is written back and dropped, and the requests that waited for it are noted. -/
def homeStep (l : List Place) (x : List SReq × State) (e : Nat × Line) : List SReq × State :=
  if x.2.rehomed l e.2.line then
    (x.1 ++ e.2.joined, ((x.2.evictLine e.1 e.2).dirClear e.2.line).modSlice e.1 fun y =>
      { y with lines := y.lines.filter (·.line != e.2.line) })
  else (x.1, x.2)

theorem homeStep_memOnly (l : List Place) (x : List SReq × State) (e : Nat × Line) : MemOnly x.2 (homeStep l x e).2 := by
  unfold homeStep
  split
  · have hclear := (evictLine_memOnly x.2 e.1 e.2).trans (dirClear_memOnly (x.2.evictLine e.1 e.2) e.2.line)
    dsimp only
    generalize (x.2.evictLine e.1 e.2).dirClear e.2.line = t at hclear ⊢
    exact hclear.trans (modSlice_memOnly t e.1 _)
  · exact .refl x.2

theorem homeChange_eq (l : List Place) : s.homeChange l =
    let lines := s.slices.foldl (fun (acc : List (Nat × Line)) e => acc ++ e.2.lines.map fun l => (e.1, l)) []
    let x := lines.foldl (homeStep l) ([], s)
    let ents := x.2.dirs.foldl (fun (acc : List Nat) b => acc ++ b.2.ents.map (·.line)) []
    (x.1, (ents.filter (x.2.rehomed l)).foldl State.dirClear x.2) := rfl

theorem homeChange_memOnly (l : List Place) : MemOnly s (s.homeChange l).2 := by
  rw [homeChange_eq]
  exact (foldl_proj_memOnly (β := List SReq × State) (·.2) (homeStep l) (homeStep_memOnly l) _ ([], s)).trans
    (foldl_memOnly _ dirClear_memOnly _ _)

theorem freeSet_memOnly (k set : Nat) : MemOnly s (s.freeSet k set) := by
  unfold State.freeSet
  exact (foldl_memOnly _ (fun u (l : Line) => flushMerge_memOnly u k l.line) _ _).trans (modSlice_memOnly ..)

theorem imageView_takeWay (k line : Nat) (w : Bool) : (s.takeWay k line w).imageView = s.imageView := by
  unfold State.takeWay
  extract_lets st t
  have ht : t.imageView = s.imageView := by
    show State.imageView (if _ then _ else s) = _
    split
    · exact imageView_memOnly (freeSet_memOnly ..)
    · rfl
  split
  next u hu => exact (imageView_modSlice ..).trans ((imageView_memOnly (allocate_memOnly hu)).trans ht)
  · exact ht

theorem imageView_applyPins (i : Image) : (s.applyPins i).imageView = s.imageView := by
  unfold State.applyPins
  dsimp only
  refine (foldl_keeps State.imageView _ (fun u p => ?_) _ _).trans
    (foldl_keeps State.imageView _ (fun u e => imageView_modSlice u ..) _ _)
  refine foldl_keeps State.imageView _ (fun v l => ?_) _ _
  split
  · rfl
  · split
    · rfl
    · exact imageView_takeWay ..

theorem imageView_takeWsets (l : List (Nat × Nat)) : (s.takeWsets l).imageView = s.imageView := by
  unfold State.takeWsets
  exact (foldl_keeps State.imageView _ (fun u e => imageView_modSlice u ..) _ _).trans
    (foldl_keeps State.imageView _ (fun u e => imageView_modSlice u ..) _ _)

theorem reject_memOnly (q : SReq) (k : Option Nat) : MemOnly s (s.reject q k) := by
  unfold State.reject
  dsimp only
  refine MemOnly.trans (addrFault_memOnly s q.req.agent q.req.addr) ?_
  cases k with
  | none => exact say_memOnly ..
  | some k => exact ((logAddr_memOnly ..).trans (raise_memOnly ..)).trans (say_memOnly ..)

theorem takeRequest_memOnly (k : Nat) (q : SReq) : MemOnly s (s.takeRequest k q) := by
  unfold State.takeRequest
  dsimp only
  split
  · split
    · exact (countHit_memOnly ..).trans (modSlice_memOnly ..)
    · exact (countHit_memOnly ..).trans (perform_memOnly ..)
  · split
    · exact ((countHit_memOnly ..).trans (storeAround_memOnly ..)).trans (say_memOnly ..)
    · split
      · split
        next u hu => exact ((allocate_memOnly hu).trans (countHit_memOnly ..)).trans (perform_memOnly ..)
        · exact modSlice_memOnly ..
      · split
        · exact modSlice_memOnly ..
        · split
          next u hu => exact ((allocate_memOnly hu).trans (countHit_memOnly ..)).trans (modSlice_memOnly ..)
          · exact modSlice_memOnly ..

theorem request_memOnly (q : SReq) : MemOnly s (s.request q) := by
  unfold State.request
  dsimp only
  split
  · exact reject_memOnly ..
  · split
    · exact reject_memOnly ..
    next k _ =>
      split
      · exact reject_memOnly ..
      · have harrive := arrive_memOnly s k q.line
        generalize s.arrive k q.line = t at harrive ⊢
        generalize (if q.isWrite = true then t.sharersBut q.line q.own else []) = l
        split
        · exact harrive.trans (defer_memOnly ..)
        · split
          · exact harrive.trans (takeRequest_memOnly ..)
          · exact harrive.trans ((foldl_memOnly _ (fun u t => say_memOnly ..) _ _).trans (.of rfl rfl rfl))

theorem release_memOnly (k : Nat) : MemOnly s (s.release k) := by
  unfold State.release
  exact (modSlice_memOnly ..).trans (foldl_memOnly _ (fun u q => request_memOnly u q) _ _)

/-! ## Ports -/

theorem imageView_beginSync (p : Nat) (a : Sparse Nat) : (s.beginSync p a).imageView = s.imageView := by
  unfold State.beginSync
  dsimp only
  split
  · exact (imageView_raise ..).trans (imageView_consFault ..)
  · rfl

theorem imageView_portsAnew : s.portsAnew.imageView = s.imageView := by
  have hflag : ∀ (u : State) p i b, (u.setPortFlag p i b).imageView = u.imageView := fun _ _ _ _ => rfl
  unfold State.portsAnew
  refine foldl_keeps State.imageView _ (fun u p => ?_) _ _
  dsimp only
  refine (imageView_wrN ..).trans ?_
  split
  · exact (hflag _ _ _ _).trans ((hflag _ _ _ _).trans (imageView_beginSync ..))
  · rfl

theorem imageView_enqueue (p : Nat) (f : RayFrame) (h : Option (Nat × Nat × Nat)) (c : Bool) :
    (s.enqueue p f h c).imageView = s.imageView := by
  have hpush : ∀ (u : State) (p : Nat) (x : TxItem), (u.pushTx p x).imageView = u.imageView := fun _ _ _ => rfl
  have hroute : ∀ (u : State) (p : Nat) (x : TxItem), (u.route p x).imageView = u.imageView := fun u p x => by
    unfold State.route
    split
    · unfold State.sendDetour
      dsimp only
      split <;> exact hpush _ _ _
    · split <;> exact hpush _ _ _
  unfold State.enqueue
  exact hroute _ _ _

theorem imageView_sendUnscheduled (f : RayFrame) (x : Option (Nat × Nat × Nat)) :
    (s.sendUnscheduled f x).imageView = s.imageView := by
  have hfree : ∀ (u : State) (h : Nat × Nat × Nat), (u.freeUnits h).imageView = u.imageView := fun u h => by
    unfold State.freeUnits
    split <;> rfl
  unfold State.sendUnscheduled
  split
  · rfl
  · dsimp only
    split
    · have hbump : ∀ p, ((s.raise (rayPage p) 10).bump (rayPage p) 0x11C).imageView = s.imageView := fun p =>
        (imageView_bump ..).trans (imageView_raise ..)
      split
      · exact (hfree _ _).trans (hbump _)
      · exact hbump _
    · split
      · rfl
      · exact imageView_enqueue ..

theorem imageView_loadRoutes : s.loadRoutes.imageView = s.imageView := by
  have hreroute : ∀ u : State, u.rerouteWaiting.imageView = u.imageView := fun u => by
    unfold State.rerouteWaiting
    exact foldl_keeps State.imageView _ (fun v (x : RayFrame × Option (Nat × Nat × Nat)) => imageView_sendUnscheduled v x.1 x.2) _ _
  unfold State.loadRoutes
  exact (hreroute _).trans (imageView_raise ..)

theorem imageView_snapCheck (i : Image) : (s.snapCheck i).imageView = s.imageView := by
  have hwr : ∀ (u : State) (v : Nat) (b : Bool), ((u.wr64 penPage 0x124 v).modPen fun p => { p with snapOk := b }).imageView =
      u.imageView := fun u v b => (show _ = (u.wr64 penPage 0x124 v).imageView from rfl).trans
        ((imageView_wrN ..).trans (imageView_wrN ..))
  unfold State.snapCheck
  dsimp only
  split
  · exact (imageView_raise ..).trans (hwr _ _ _)
  · exact hwr _ _ _

/-! ## Streams and the frame -/

theorem imageView_putScratch (t o : Nat) (d : List Byte) : (s.putScratch t o d).imageView = s.imageView := by
  unfold State.putScratch
  dsimp only
  split
  · exact (imageView_memOnly (addrFault_memOnly ..)).trans (imageView_modTile ..)
  · exact imageView_modTile ..

theorem imageView_writeScalars (t : Nat) : (s.writeScalars t).imageView = s.imageView := by
  unfold State.writeScalars
  split
  · exact imageView_putScratch ..
  · rfl

theorem imageView_reachNext (t : Nat) : (s.reachNext t).imageView = s.imageView := by
  unfold State.reachNext
  split
  · split <;> rfl
  · rfl

theorem imageView_noteFrame : s.noteFrame.imageView = s.imageView := by
  unfold State.noteFrame
  split
  · dsimp only
    split <;> rfl
  · rfl

/-- The stream of a site at the begin of an image. -/
def State.streamBegin (wait : Bool) (s : State) (t : Nat) : State := match s.streamOf t with
  | some (_, r) =>
    let s := if r.proLen != 0 then s
      else if wait then s.modTile t fun x => { x with waitVerdict := true } else s.writeScalars t
    s.reachNext t
  | none => if wait then s else s.writeScalars t

theorem imageView_streamBegin (wait : Bool) (t : Nat) : (s.streamBegin wait t).imageView = s.imageView := by
  unfold State.streamBegin
  split
  · refine (imageView_reachNext ..).trans ?_
    split
    · rfl
    · split
      · rfl
      · exact imageView_writeScalars ..
  · split
    · rfl
    · exact imageView_writeScalars ..

/-! ## An image comes into force -/

/-- The outgoing image's occurrence, moves and counters end, and lines find their homes under the incoming image. -/
def State.bringOut (s : State) (i : Image) : List SReq × State := s.dimEnd.settleMoves.zeroCounters.zeroCounts.homeChange i.places

theorem imageView_bringOut (i : Image) : (s.bringOut i).2.imageView = s.imageView :=
  (imageView_memOnly (homeChange_memOnly _ _)).trans ((imageView_zeroCounts _).trans ((imageView_zeroCounters _).trans
    ((imageView_settleMoves _).trans (imageView_dimEnd _))))

/-- The admission and the half of the slot table in use of the incoming image. -/
def State.bringAdm (s : State) (i : Image) (fa : Nat) (swap wait : Bool) : State :=
  let s := s.modAdm fun x => { x with active := some i, fa := fa, go := none, mustWait := wait }
  if swap then
    { s with adm := { s.adm with state := 0, img := none }, ray := { s.ray with half := 1 - s.ray.half } }
  else s

/-- The Shade, the blocks, the ports and the tiles of the incoming image. -/
def State.bringIn (s : State) (i : Image) (again : List SReq) (wait keep : Bool) : State :=
  let s := (s.applyPins i).takeWsets (s.wsetsNow i)
  let s := s.resActivate { i with continues := i.continues || keep }
  let s := s.portsAnew.loadRoutes.wrN rayComPage 0x128 0
  let s := { s with ray := { s.ray with collPass := b2n (!wait) } }
  let s := s.snapCheck i
  let s := s.tiles.foldl (fun s e => s.modTile e.1 (·.atStart)) s
  let s := s.forSites (State.streamBegin wait)
  let s := (s.slices.map (·.1)).foldl State.release s
  ((again.foldl (fun s q => s.request q) s).raise admPage 3).noteFrame.dimStart

theorem bringUp_eq (i : Image) (fa : Nat) (swap wait keep : Bool) : s.bringUp i fa swap wait keep =
    ((s.bringOut i).2.bringAdm i fa swap wait).bringIn i (s.bringOut i).1 wait keep := by
  unfold State.bringUp State.bringOut
  extract_lets t
  change _ = ((t.homeChange i.places).2.bringAdm i fa swap wait).bringIn i (t.homeChange i.places).1 wait keep
  clear_value t
  generalize t.homeChange i.places = x
  obtain ⟨again, u⟩ := x
  have hstream : State.streamBegin wait = fun s t => match s.streamOf t with
      | some (_, r) =>
        let s := if r.proLen != 0 then s
          else if wait then s.modTile t fun x => { x with waitVerdict := true } else s.writeScalars t
        s.reachNext t
      | none => if wait then s else s.writeScalars t := by
    funext s t
    rfl
  unfold State.bringIn State.bringAdm
  rw [hstream] <;> rfl

theorem imageView_bringIn (i : Image) (again : List SReq) (wait keep : Bool) :
    (s.bringIn i again wait keep).imageView = s.imageView := by
  unfold State.bringIn
  extract_lets t u v r w x y z a
  have ht : t.imageView = s.imageView := (imageView_takeWsets ..).trans (imageView_applyPins ..)
  have hu : u.imageView = t.imageView := imageView_resActivate ..
  have hv : v.imageView = u.imageView := (imageView_wrN ..).trans ((imageView_loadRoutes _).trans (imageView_portsAnew _))
  have hw : w.imageView = v.imageView := rfl
  have hx : x.imageView = w.imageView := imageView_snapCheck ..
  have hy : y.imageView = x.imageView := foldl_keeps State.imageView _ (fun b e => imageView_modTile b ..) _ _
  have hz : z.imageView = y.imageView := foldl_keeps State.imageView _ (fun b t => imageView_streamBegin b wait t) _ _
  have ha : a.imageView = z.imageView := foldl_keeps State.imageView _ (fun b k => imageView_memOnly (release_memOnly b k)) _ _
  have hb : (again.foldl (fun s q => s.request q) a).imageView = a.imageView :=
    foldl_keeps State.imageView _ (fun b q => imageView_memOnly (request_memOnly b q)) _ _
  exact (imageView_dimStart _).trans ((imageView_noteFrame _).trans ((imageView_raise ..).trans
    (hb.trans (ha.trans (hz.trans (hy.trans (hx.trans (hw.trans (hv.trans (hu.trans ht))))))))))

/-- What is in force once an image has come up. -/
theorem bringUp_view (i : Image) (fa : Nat) (swap wait keep : Bool) : (s.bringUp i fa swap wait keep).imageView =
    (s.steps.step, if swap then { s.adm with active := some i, fa := fa, go := none, mustWait := wait, state := 0, img := none }
      else { s.adm with active := some i, fa := fa, go := none, mustWait := wait },
     if swap then 1 - s.ray.half else s.ray.half, s.gn) := by
  have hout := imageView_bringOut s i
  rw [bringUp_eq, imageView_bringIn]
  generalize (s.bringOut i).2 = t at hout ⊢
  simp only [State.imageView, Prod.mk.injEq] at hout
  obtain ⟨hstep, hadm, hhalf, hgn⟩ := hout
  cases swap
  · simp only [State.bringAdm, State.imageView, State.modAdm, Bool.false_eq_true, if_false, hstep, hadm, hhalf, hgn]
  · simp only [State.bringAdm, State.imageView, State.modAdm, if_true, hstep, hadm, hhalf, hgn]

end

end Sys2Proof.Machine
end

section
/-!
PROOF. Parks and restores (Sections 13.4 and 13.5). A park clears queues, counters and messages of every tile; the report READY
and the search for a snapshot that follow leave the tiles and the registers of the hold page as they are (`parkView`). The step
of a restored snapshot stays while its image comes up.
-/
namespace Sys2Proof.Machine

/-! ## What READY and the search for a snapshot keep -/

def State.parkView (s : State) :=
  (s.glints, s.tiles, s.rdN penPage offStatus, s.rdN penPage offControl, s.rdN penPage offEvt, s.pen.pick, s.gn.master)

theorem parkView_of_regs {s u : State} (hreg : u.regs = s.regs)
    (h : (u.glints, u.tiles, u.pen.pick, u.gn.master) = (s.glints, s.tiles, s.pen.pick, s.gn.master)) : u.parkView = s.parkView := by
  simp only [Prod.mk.injEq] at h
  obtain ⟨hg, ht, hp, hm⟩ := h
  simp only [State.parkView, rdN_of_regs hreg, hg, ht, hp, hm]

theorem parkView_sendCtrl (s : State) (p sub : Nat) (b : List Byte) : (s.sendCtrl p sub b).parkView = s.parkView :=
  parkView_of_regs rfl rfl

theorem parkView_penDown (s : State) (mode : Nat) (m : PenumbraMsg) : (s.penDown mode m).parkView = s.parkView :=
  foldl_keeps State.parkView _ (fun u p => parkView_sendCtrl u p _ _) _ _

theorem parkView_jDecision (s : State) (a b c d : Nat) : (s.jDecision a b c d).parkView = s.parkView := parkView_of_regs rfl rfl

/-- READY of a module that is not the master, or that has just parked, fails no restore. -/
theorem parkView_tryReady {s : State}
    (h : s.gn.master = false ∨ (s.pen.ready = [] ∧ s.pen.failed = false ∧ s.pen.sought = false)) : s.tryReady.parkView = s.parkView := by
  unfold State.tryReady
  split
  · rfl
  · extract_lets best lost base own m k no u v
    have hm : s.gn.master = true → m.fail = false := fun hmaster => by
      obtain ⟨hready, hfailed, hsought⟩ := h.resolve_left fun h => absurd (hmaster.symm.trans h) (by decide)
      have hown : m = own := by
        show List.foldl (fun a k => mergePen a k.2) own s.pen.ready = own
        rw [hready]
        rfl
      have hlost : lost = false := by
        show ((newest s.allCands).isNone && s.logicalComing.isSome && s.pen.sought && !s.seeking) = false
        rw [hsought, Bool.and_false, Bool.false_and]
      rw [hown]
      show (match s.logicalComing, best with
        | some _, some c => ({ emptyPen with cause := 128, count := 1, step := c.step, tUs := c.us, fail := s.pen.failed } : PenumbraMsg)
        | _, _ => { emptyPen with cause := 128, step := 2 ^ 48 - 1, fail := s.pen.failed || lost }).fail = false
      rw [hlost, hfailed]
      split <;> rfl
    cases hmaster : s.gn.master with
    | false =>
      rw [if_pos (by rfl)]
      split
      · rfl
      · unfold State.penUp
        split
        · exact parkView_sendCtrl ..
        · rfl
    | true =>
      rw [if_neg (by decide), if_neg (by rw [hm hmaster]; decide)]
      split
      · rfl
      · split
        · rfl
        · have hv : v.parkView = u.parkView := parkView_of_regs rfl rfl
          exact (parkView_jDecision ..).trans (hv.trans (parkView_penDown ..))

theorem parkView_ask (s : State) (dst op arg : Nat) (body : List Byte) (want : MgmtWant) (at_ left : Nat) :
    (s.ask dst op arg body want at_ left).parkView = s.parkView := parkView_of_regs rfl rfl

theorem parkView_bump64_fe (s : State) {p : Nat} (n : Nat) (hp : p < 2) : (s.bump64 (fePage p) 0x40 n).parkView = s.parkView := by
  have hpage : penPage ≠ fePage p := by
    show 0x2400 ≠ 0x2120 + p
    omega
  have hwr : ∀ (u : State) (o v : Nat), regOff o → (u.wrN (fePage p) o v).parkView = u.parkView := fun u o v ho => by
    unfold State.parkView
    rw [wrN_rdN_other ho (by decide) fun h => hpage h.1, wrN_rdN_other ho (by decide) fun h => hpage h.1,
      wrN_rdN_other ho (by decide) fun h => hpage h.1]
    rfl
  unfold State.bump64 State.wr64
  exact (hwr _ _ _ (by decide)).trans (hwr _ _ _ (by decide))

theorem parkView_storeRead (s : State) (remote len key : Nat) : (s.storeRead remote len key).parkView = s.parkView := by
  have hqp : ∀ (u : State) (n : Nat) (q : Qp), (u.setQp n q).parkView = u.parkView := fun _ _ _ => parkView_of_regs rfl rfl
  have hsend : ∀ (u : State) (n : Nat) (o : RdmaOp), (u.sendOp n o).parkView = u.parkView := fun u n o => by
    rcases sendOp_cases u n o with h | h
    · rw [h]
    · rw [h]
      unfold State.opSent
      exact (hqp _ _ _).trans ((show _ = State.parkView (u.bump64 _ _ _) from parkView_of_regs rfl rfl).trans
        (parkView_bump64_fe u _ (Nat.mod_lt _ (by decide))))
  unfold State.storeRead State.postOp
  exact (hsend _ _ _).trans ((hqp _ _ _).trans (parkView_of_regs rfl rfl))

/-- The search for a snapshot, of a module that is not the master. -/
theorem parkView_seek {s : State} (h : s.gn.master = false) : s.seek.parkView = s.parkView := by
  have hsought : (s.modPen fun p => { p with sought := true }).parkView = s.parkView := parkView_of_regs rfl rfl
  have hm : (s.modPen fun p => { p with sought := true }).gn.master = false := h
  unfold State.seek
  split
  · split
    · rfl
    · extract_lets t
      change t.parkView = s.parkView at hsought
      change t.gn.master = false at hm
      clear_value t
      split
      · unfold State.askPartner
        exact (foldl_keeps State.parkView _ (fun u (r : Nat × Nat) => parkView_ask u ..) _ _).trans
          ((parkView_of_regs rfl rfl).trans hsought)
      · unfold State.seekStorage
        split
        · exact hsought
        · split
          · exact (parkView_tryReady (.inl hm)).trans hsought
          · exact (foldl_keeps State.parkView _ (fun u k => parkView_storeRead u ..) _ _).trans hsought
  · rfl

/-! ## A park -/

/-- A tile without queues, counters and messages. -/
def Tile.parked (x : Tile) : Tile := { x with dmaq := [], cc := [], kc := [], mbox := [], spectrum := [] }

theorem sfind_none_of_not_mem {α : Type} {k : Nat} : ∀ {m : Sparse α}, k ∉ m.map (·.1) → sfind m k = none
  | [], _ => rfl
  | (i, x) :: m, h => by
    rw [List.map_cons, List.mem_cons, not_or] at h
    have hne : (i == k) = false := beq_eq_false_iff_ne.2 (Ne.symm h.1)
    simp only [sfind, hne, Bool.false_eq_true, if_false]
    exact sfind_none_of_not_mem h.2

/-- What holds of every tile that a change of all listed tiles leaves. -/
theorem foldl_modTile_all {P : Tile → Prop} {f : Tile → Tile} (hf : ∀ x, P (f x)) (l : List (Nat × Tile)) : ∀ (s : State) (t : Nat),
    t ∈ l.map (·.1) ∨ P (s.tile t) → P ((l.foldl (fun s e => s.modTile e.1 f) s).tile t) := by
  induction l with
  | nil => exact fun s t h => h.resolve_left (by simp)
  | cons e l ih =>
    intro s t h
    refine ih _ t ?_
    by_cases hte : e.1 = t
    · subst hte
      exact .inr (by rw [State.tile_modTile_same]; exact hf _)
    · rw [State.tile_modTile_other s f hte]
      exact h.imp_left fun h => (List.mem_cons.1 h).resolve_left (Ne.symm hte)

theorem tiles_all {P : Tile → Prop} {f : Tile → Tile} (hf : ∀ x, P (f x)) (hinit : P Tile.initial) (s : State) (t : Nat) :
    P ((s.tiles.foldl (fun s e => s.modTile e.1 f) s).tile t) := by
  refine foldl_modTile_all hf s.tiles s t ?_
  by_cases h : t ∈ s.tiles.map (·.1)
  · exact .inl h
  · refine .inr ?_
    show P ((sfind s.tiles t).getD Tile.initial)
    rw [sfind_none_of_not_mem h]
    exact hinit

/-- The module parked, before it raises READY. -/
def State.parkShown (s : State) : State :=
  let s := s.tiles.foldl (fun s e => s.modTile e.1 fun x =>
    { x with dmaq := [], cc := [], kc := [], mbox := [], spectrum := [] }) s
  let s := { s with glints := [], ray := { s.ray with ck := [] } }
  let s := s.modPen fun p => { p with
    fh := none, restore := false, snap := none, cause := p.cause ||| 128, ready := [], cands := [], sought := false
    pick := none, buf := [], failed := false, partner := if p.draining.isSome then p.partner else none }
  ((s.setHold 3).raise penPage 6).agRecord 0x2007 [1]

theorem park_eq {s : State} (h : s.holdState < 3) : s.park = s.parkShown.tryReady := if_neg (Nat.not_le.2 h)

/-- What a park leaves of a tile. -/
def ParkedTile (s u : State) (t : Nat) : Prop := (u.tile t).dmaq = [] ∧ (u.tile t).cc = [] ∧ (u.tile t).kc = [] ∧
  (u.tile t).mbox = [] ∧ (u.tile t).scratch = (s.tile t).scratch

theorem setHold_state (s : State) {v : Nat} (hv : v < 8) : (s.setHold v).holdState = v :=
  (State.field_setField_same s penPage offStatus 2 0 v (by decide) (by decide)).trans (Nat.mod_eq_of_lt hv)

/-- The end of a change of the hold page: the state of the hold, an event, a record. -/
theorem holdShown (s : State) {v i : Nat} (hv : v < 8) (hi : i < 32) (code : Nat) (l : List Nat) :
    let u := ((s.setHold v).raise penPage i).agRecord code l
    u.holdState = v ∧ u.flag penPage offEvt i = true ∧ u.rdN penPage offControl = s.rdN penPage offControl := by
  have hrec : ∀ w : State, (w.agRecord code l).regs = w.regs := fun _ => rfl
  refine ⟨(congrArg (bits · 2 0) ((rdN_of_regs (hrec _) _ _).trans (rdN_raise_other (by decide) (by decide)))).trans
      (setHold_state s hv), (flag_of_regs (hrec _) _ _ _).trans (State.flag_raise_same _ _ _ hi), ?_⟩
  exact (rdN_of_regs (hrec _) _ _).trans ((rdN_raise_other (by decide) (by decide)).trans
    (wrN_rdN_other (by decide) (by decide) (by decide)))

structure Parked (s u : State) : Prop where
  glints : u.glints = []
  tiles : ∀ t, ParkedTile s u t
  hold : u.holdState = 3
  evt : u.flag penPage offEvt 6 = true
  control : u.rdN penPage offControl = s.rdN penPage offControl
  master : u.gn.master = s.gn.master

theorem Parked.of_view {s t u : State} (h : Parked s t) (hv : u.parkView = t.parkView) : Parked s u := by
  simp only [State.parkView, Prod.mk.injEq] at hv
  obtain ⟨hg, ht, hstatus, hcontrol, hevt, -, hm⟩ := hv
  have htile : ∀ n, u.tile n = t.tile n := fun n => congrArg (sget Tile.initial · n) ht
  exact ⟨hg.trans h.glints, fun n => by unfold ParkedTile; rw [htile]; exact h.tiles n,
    (congrArg (bits · 2 0) hstatus).trans h.hold, (congrArg (bit · 6) hevt).trans h.evt, hcontrol.trans h.control,
    hm.trans h.master⟩

theorem parkShown_parked (s : State) : Parked s s.parkShown ∧ s.parkShown.pen.ready = [] ∧ s.parkShown.pen.failed = false ∧
    s.parkShown.pen.sought = false := by
  unfold State.parkShown
  extract_lets t r u v
  have ht : t = s.tiles.foldl (fun s e => s.modTile e.1 Tile.parked) s := rfl
  have htile : ∀ n, ParkedTile s t n := fun n => by
    obtain ⟨hd, hc, hk, hb⟩ := tiles_all (P := fun x => x.dmaq = [] ∧ x.cc = [] ∧ x.kc = [] ∧ x.mbox = [])
      (f := Tile.parked) (fun _ => ⟨rfl, rfl, rfl, rfl⟩) ⟨rfl, rfl, rfl, rfl⟩ s n
    refine ⟨hd, hc, hk, hb, ?_⟩
    rw [ht]
    exact foldl_keeps (fun w : State => (w.tile n).scratch) _
      (fun w (e : Nat × Tile) => modTile_tile_keeps Tile.scratch w e.1 n Tile.parked fun _ => rfl) _ _
  have hmaster : t.gn.master = s.gn.master := by
    rw [ht]
    refine foldl_keeps (fun w : State => w.gn.master) _ (fun _ _ => ?_) _ _
    rfl
  have hregs : v.regs = s.regs := by
    show t.regs = s.regs
    rw [ht]
    refine foldl_keeps State.regs _ (fun _ _ => ?_) _ _
    rfl
  obtain ⟨hhold, hevt, hcontrol⟩ := holdShown v (v := 3) (i := 6) (by decide) (by decide) 0x2007 [1]
  have hrest : ∀ w : State, (((w.setHold 3).raise penPage 6).agRecord 0x2007 [1]).tiles = w.tiles ∧
      (((w.setHold 3).raise penPage 6).agRecord 0x2007 [1]).pen = w.pen ∧
      (((w.setHold 3).raise penPage 6).agRecord 0x2007 [1]).gn = w.gn ∧
      (((w.setHold 3).raise penPage 6).agRecord 0x2007 [1]).glints = w.glints := fun w => by
    have hset : ∀ (w : State) (p i c : Nat) (l : List Nat), ((w.raise p i).agRecord c l).tiles = w.tiles ∧
        ((w.raise p i).agRecord c l).pen = w.pen ∧ ((w.raise p i).agRecord c l).gn = w.gn ∧
        ((w.raise p i).agRecord c l).glints = w.glints := fun _ _ _ _ _ => ⟨rfl, rfl, rfl, rfl⟩
    exact hset (w.setHold 3) penPage 6 0x2007 [1]
  obtain ⟨htiles, hpen, hgn, hglints⟩ := hrest v
  refine ⟨⟨hglints, fun n => ?_, hhold, hevt, hcontrol.trans (rdN_of_regs hregs _ _), ?_⟩, ?_⟩
  · have hn : (((v.setHold 3).raise penPage 6).agRecord 0x2007 [1]).tile n = t.tile n := congrArg (sget Tile.initial · n) htiles
    unfold ParkedTile
    rw [hn]
    exact htile n
  · exact (congrArg Gnomon.master hgn).trans hmaster
  · rw [hpen]
    exact ⟨rfl, rfl, rfl⟩

theorem park_parked {s : State} (h : s.holdState < 3) : Parked s s.park := by
  obtain ⟨hparked, hready⟩ := parkShown_parked s
  rw [park_eq h]
  exact hparked.of_view (parkView_tryReady (.inr hready))

theorem park_again {s : State} (h : 3 ≤ s.holdState) : s.park = s ∧ s.orderPark = s := ⟨if_pos h, if_pos h⟩

/-! ## Parks and the messages of a restore -/

theorem parks_end {s : State} (hs : s.Serves) :
    (3 ≤ s.holdState ∨ (s.steps.rollTo = false ∧ s.gn.upstream = none) → Ends (exec .park s) s) ∧
    (s.holdState < 3 → s.steps.rollTo = true → Ends (exec .park s) s.park.seek) ∧
    (∀ q, s.holdState < 3 → s.steps.rollTo = false → s.gn.upstream = some q →
      Ends (exec .park s) (((s.ctrlIn q).penDown 1 { emptyPen with cause := 128 }).park.seek)) := by
  refine ⟨fun h => ?_, fun h hr => ?_, fun q h hr hq => ?_⟩
  · refine show Ends (execPark s) _ from runOn_ends_of hs.on ?_
    by_cases h3 : s.holdState ≥ 3
    · exact if_pos h3
    · obtain ⟨hr, hq⟩ := h.resolve_left h3
      refine (if_neg h3).trans ((if_neg (ne_true_of_eq_false hr)).trans ?_)
      rw [hq]
  · exact show Ends (execPark s) _ from runOn_ends_of hs.on ((if_neg (Nat.not_le.2 h)).trans (if_pos hr))
  · refine show Ends (execPark s) _ from runOn_ends_of hs.on
      ((if_neg (Nat.not_le.2 h)).trans ((if_neg (ne_true_of_eq_false hr)).trans ?_))
    rw [hq]

theorem holdTimeout_ends {s : State} (hs : s.Serves) :
    let late : Prop := s.gn.master = true ∧ s.holdState = 1 ∧ ∃ f, s.pen.fh = some f ∧ f + 8192 ≤ s.gn.frame
    (late → Ends (exec .holdTimeout s) s.orderPark.seek) ∧ (¬late → Ends (exec .holdTimeout s) s) := by
  intro late
  refine ⟨fun ⟨hm, h1, f, hf, hle⟩ => ?_, fun h => ?_⟩
  · refine show Ends (execHoldTimeout s) _ from runOn_ends_of hs.on ?_
    rw [hf]
    exact if_pos (by simp [hm, h1, hle])
  · refine show Ends (execHoldTimeout s) _ from runOn_ends_of hs.on ?_
    cases hf : s.pen.fh with
    | none => rfl
    | some f =>
      refine if_neg fun hc => h ?_
      simp only [Bool.and_eq_true, beq_iff_eq, decide_eq_true_eq] at hc
      obtain ⟨⟨hm, h1⟩, hle⟩ := hc
      exact ⟨hm, h1, f, hf, hle⟩

theorem ready_ends {s : State} {p : Nat} (m : PenumbraMsg) (hs : s.Serves) (hp : p < 16) :
    (s.portUp p = false → Ends (exec (.ready p m) s) s) ∧
    (s.portUp p = true → Ends (exec (.ready p m) s)
      ({ s.ctrlIn p with pen := { s.pen with ready := sput s.pen.ready p m } } : State).tryReady.seek) :=
  ⟨fun h => show Ends (execReady p m s) _ from runPart_ends_of (decide_eq_true hp) hs.on (if_pos (congrArg (!·) h)),
    fun h => show Ends (execReady p m s) _ from runPart_ends_of (decide_eq_true hp) hs.on (if_neg (by rw [h]; decide))⟩

theorem restoreHold_ends {s : State} (m : PenumbraMsg) (hs : s.Serves) :
    (s.gn.upstream = none → Ends (exec (.restoreHold m) s) s) ∧
    (∀ q, s.gn.upstream = some q →
      let down := (s.ctrlIn q).penDown 2 m
      (s.holdState ≠ 3 → Ends (exec (.restoreHold m) s) down) ∧
      (s.holdState = 3 → Ends (exec (.restoreHold m) s)
        ({ down with pen := { s.pen with fh := some (m.frame + 1), restore := true, target := m.step } } : State).seek)) := by
  refine ⟨fun h => ?_, fun q hq => ?_⟩
  · refine show Ends (execRestoreHold m s) _ from runOn_ends_of hs.on ?_
    rw [h]
  · intro down
    have hhold : down.holdState = s.holdState := by
      refine congrArg (bits · 2 0) ((congrArg (fun v : _ × _ × Nat × _ => v.2.2.1) (parkView_penDown (s.ctrlIn q) 2 m)).trans ?_)
      unfold State.ctrlIn State.bump64 State.wr64
      exact (wrN_rdN_other (by decide) (by decide) fun h => absurd h.2 (by decide)).trans
        ((wrN_rdN_other (by decide) (by decide) fun h => absurd h.2 (by decide)).trans (rdN_of_regs rfl _ _))
    have hpen : down.pen = s.pen := by
      refine foldl_keeps State.pen _ (fun u p => ?_) _ (s.ctrlIn q)
      rfl
    refine ⟨fun h => ?_, fun h => ?_⟩
    · refine show Ends (execRestoreHold m s) _ from runOn_ends_of hs.on ?_
      rw [hq]
      exact if_pos (bne_iff_ne.2 (hhold ▸ h))
    · refine show Ends (execRestoreHold m s) _ from runOn_ends_of hs.on ?_
      rw [hq, ← hpen]
      exact if_neg (by rw [show (s.ctrlIn q).penDown 2 m = down from rfl, hhold, h]; decide)

/-! ## RESTORE_REQ -/

/-- RESTORE_REQ parks a module that is not the master. -/
theorem restoreReq_parks {s : State} (hm : s.gn.master = false) (h : s.holdState < 3) :
    Parked (s.setFlag penPage offControl 1 true) s.restoreReq := by
  have hhold : (s.setFlag penPage offControl 1 true).holdState = s.holdState :=
    congrArg (bits · 2 0) (rdN_setFlag_other (by decide) (by decide) (by decide))
  have hparked := park_parked (s := s.setFlag penPage offControl 1 true) (hhold ▸ h)
  have heq : s.restoreReq = (s.setFlag penPage offControl 1 true).park.seek := by
    have hc : (s.gn.master && s.gn.running) = false := by rw [hm]; rfl
    exact congrArg State.seek (if_neg (ne_true_of_eq_false hc))
  rw [heq]
  exact hparked.of_view (parkView_seek (hparked.master.trans hm))

/-- The order on RESTORE_REQ by an operator. -/
theorem restoreReq_order {s : State} {o : Origin} (hop : operatorOnly (roleOf o) = true) (h0 : s.flag penPage offControl 0 = false)
    (hm : s.gn.master = false) (h : s.holdState < 3) :
    let u := s.order o penPage offControl (s.withBit penPage offControl 1 true)
    u.holdState = 3 ∧ u.flag penPage offControl 1 = true ∧ u.glints = [] ∧
      ∀ t, (u.tile t).dmaq = [] ∧ (u.tile t).scratch = (s.tile t).scratch := by
  intro u
  let v := s.withBit penPage offControl 1 true
  have hv1 : bit (v.toNat &&& 7) 1 = true := by
    rw [bit, Nat.testBit_and, withBit_testBit s penPage offControl 1 1 true (by decide)]
    rfl
  have hv0 : bit (v.toNat &&& 7) 0 = false := by
    rw [bit, Nat.testBit_and, withBit_testBit s penPage offControl 1 0 true (by decide), if_neg (by decide)]
    exact Bool.and_eq_false_iff.2 (.inl h0)
  obtain ⟨-, j, n, hh⟩ := accept_journaled s o penPage offControl v
  have hu : Answered (((s.journaled j n).keep penPage offControl 4 (v.toNat &&& 7)).setFlag penPage offControl 1 true).restoreReq u := by
    have hall := order_allOf (s := s) (o := o) (page := penPage) (off := offControl) (m := 7) (v := v) (st := stOk)
      (g := fun t => ((t.keep penPage offControl 4 (v.toNat &&& 7)).setFlag penPage offControl 1 true).restoreReq) (by decide)
      (fun h => absurd h (by decide)) (by decide) (fun j n => by
        show allOf 7 (operatorOnly (roleOf o)) = _
        rw [hop]; rfl) (fun j n => by
        refine congrArg (Prod.mk stOk) ?_
        show (if bit (v.toNat &&& 7) 1 then State.restoreReq _ else _) = _
        rw [hv1, hv0]
        rfl) (by decide)
    exact hh ▸ hall
  let w := ((s.journaled j n).keep penPage offControl 4 (v.toNat &&& 7)).setFlag penPage offControl 1 true
  have hhold : w.holdState = s.holdState :=
    congrArg (bits · 2 0) ((rdN_setFlag_other (by decide) (by decide) (by decide)).trans
      (wrN_rdN_other (s := s.journaled j n) (by decide) (by decide) (by decide)))
  have hparked := restoreReq_parks (s := w) hm (hhold ▸ h)
  obtain ⟨j', n', c, l, hu⟩ := hu
  rw [hu]
  refine ⟨hparked.hold, ?_, hparked.glints, fun t => ?_⟩
  · exact (congrArg (bit · 1) hparked.control).trans (State.flag_setFlag_same _ _ _ _ _ (by decide))
  · obtain ⟨hd, -, -, -, hsc⟩ := hparked.tiles t
    exact ⟨hd, hsc⟩

/-! ## The end of a restore -/

/-- The first frame's start that the decision for the frame before it gives. -/
def State.restoreStart (s : State) (f : Nat) : Option Nat := match s.gn.dec with
  | some x => if x.frame + 1 = f then some x.next else none
  | none => none

/-- The frame of a restore has come. -/
def State.restoreDue (s : State) (f : Nat) : Prop :=
  if s.gn.running then f ≤ s.gn.frame else ∃ x, s.restoreStart f = some x ∧ x ≤ s.gn.count

/-- A restore that is complete, as the hold page shows it. -/
def State.restoreShown (s : State) (c : Cand) : State :=
  let s := (s.raise penPage 7).agRecord 0x2007 [2, c.step % 2 ^ 32]
  let s := (s.setFlag penPage offControl 1 false).setHold 2
  s.modPen fun p => { p with pick := none, buf := [], cands := [], partner := none, failed := false, sought := false
                             ready := [], served := p.served ++ s.deadPorts }

/-- The restore as its snapshot is brought back. -/
def State.restored (s : State) (c : Cand) (i : Image) (fh : Nat) (start : Option Nat) (d : List PByte) : State :=
  ((if s.gn.running then s
    else s.modGn fun g => { g with running := true, frame := fh, start := start.getD 0 }).restoreFrom i d fh).restoreShown c

/-- RESTORE_DONE with a copy, its image and its frame. -/
theorem restoreDone_ends {s : State} (hs : s.Serves) {c : Cand} {i : Image} {fh : Nat} (hc : s.pen.pick = some c)
    (hi : s.restoreImage = some i) (hf : s.pen.fh = some fh) : Ends (exec .restoreDone s)
      (let start := match s.gn.dec with
        | some x => if x.frame + 1 == fh then some x.next else none
        | none => none
      let due := if s.gn.running then fh ≤ s.gn.frame else start.any (· ≤ s.gn.count)
      if s.holdState != 4 || !due || !s.restoreIn then s
      else if !snapFits i (s.restoreData c).1 then (s.restoreData c).2.restoreRefuse true
      else (s.restoreData c).2.restored c i fh start (s.restoreData c).1) := by
  refine show Ends (execRestoreDone s) _ from runOn_ends_of hs.on ?_
  rw [hc, hi, hf]
  rfl

theorem restoreStart_eq (s : State) (f : Nat) : (match s.gn.dec with
    | some x => if x.frame + 1 == f then some x.next else none
    | none => none) = s.restoreStart f := by
  unfold State.restoreStart
  simp only [beq_iff_eq]

theorem restoreDue_iff (s : State) (f : Nat) :
    (if s.gn.running then f ≤ s.gn.frame else (s.restoreStart f).any (· ≤ s.gn.count) = true) ↔ s.restoreDue f := by
  unfold State.restoreDue
  split
  · exact Iff.rfl
  · rw [Option.any_eq_true]
    simp only [decide_eq_true_eq]

/-- RESTORE_DONE does nothing where a part of what it needs is missing. -/
theorem restoreDone_waits {s : State} (hs : s.Serves)
    (h : ¬ ∃ c i, s.pen.pick = some c ∧ s.restoreImage = some i ∧ (∃ f, s.pen.fh = some f ∧ s.restoreDue f) ∧ s.holdState = 4 ∧
      s.restoreIn = true) : Ends (exec .restoreDone s) s := by
  cases hc : s.pen.pick with
  | none =>
    refine show Ends (execRestoreDone s) _ from runOn_ends_of hs.on ?_
    rw [hc]
  | some c =>
    cases hi : s.restoreImage with
    | none =>
      refine show Ends (execRestoreDone s) _ from runOn_ends_of hs.on ?_
      rw [hc, hi]
    | some i =>
      cases hf : s.pen.fh with
      | none =>
        refine show Ends (execRestoreDone s) _ from runOn_ends_of hs.on ?_
        rw [hc, hi, hf]
      | some f =>
        have hends := restoreDone_ends hs hc hi hf
        dsimp only at hends
        rw [restoreStart_eq, if_pos] at hends
        · exact hends
        · by_contra hn
          simp only [Bool.or_eq_true, bne_iff_ne, Bool.not_eq_true', not_or, not_not, Bool.not_eq_false, ne_eq,
            decide_eq_true_eq] at hn
          obtain ⟨⟨h4, hdue⟩, hin⟩ := hn
          exact h ⟨c, i, hc, hi, ⟨f, hf, (restoreDue_iff s f).1 hdue⟩, h4, hin⟩

theorem restoreData_master (s : State) (c : Cand) : (s.restoreData c).2.gn = s.gn := by
  unfold State.restoreData State.slotData State.modRead
  split
  · exact congrArg (fun v : _ × _ × _ × Gnomon => v.2.2.2) (imageView_memOnly (devRead_memOnly s _ _ 5 .module false false))
  · rfl

/-- A refused restore parks the module again. -/
theorem restoreRefuse_parks {s : State} (hm : s.gn.master = false) : (s.restoreRefuse true).holdState = 3 ∧
    (s.restoreRefuse true).pen.pick = none ∧ (s.restoreRefuse true).flag penPage offEvt 8 = true := by
  unfold State.restoreRefuse
  extract_lets t u
  have ht : t.gn.master = false ∧ t.flag penPage offEvt 8 = true := by
    have hrec : ∀ (w : State) (c : Nat) (l : List Nat), (w.agRecord c l).regs = w.regs ∧ (w.agRecord c l).gn = w.gn :=
      fun _ _ _ => ⟨rfl, rfl⟩
    have hraise : ∀ (w : State) (p i : Nat), (w.raise p i).gn = w.gn := fun _ _ _ => rfl
    have heq : t = (s.raise penPage 8).agRecord 0x2007 [3, s.pen.target % 2 ^ 32] := rfl
    rw [heq]
    refine ⟨?_, (flag_of_regs (hrec _ _ _).1 _ _ _).trans (State.flag_raise_same _ _ _ (by decide))⟩
    rw [(hrec _ _ _).2, hraise]
    exact hm
  have hregs : u.regs = t.regs := rfl
  have hpick : u.pen.pick = none := rfl
  have hgn : u.gn = t.gn := rfl
  clear_value u t
  have hset : ∀ w : State, (w.setHold 3).gn = w.gn ∧ (w.setHold 3).pen = w.pen := fun _ => ⟨rfl, rfl⟩
  have hview := parkView_tryReady (s := u.setHold 3) (.inl (by rw [(hset u).1, hgn]; exact ht.1))
  simp only [State.parkView, Prod.mk.injEq] at hview
  obtain ⟨-, -, hstatus, -, hevt, hpick', -⟩ := hview
  refine ⟨(congrArg (bits · 2 0) hstatus).trans (setHold_state u (by decide)), ?_, ?_⟩
  · rw [hpick', (hset u).2, hpick]
  · refine (congrArg (bit · 8) hevt).trans ?_
    have hother : (u.setHold 3).rdN penPage offEvt = u.rdN penPage offEvt := wrN_rdN_other (by decide) (by decide) (by decide)
    rw [hother, rdN_of_regs hregs]
    exact ht.2

/-! ## The step of the snapshot -/

theorem modWrite_memOnly (s : State) (a : Nat) (d : List PByte) : MemOnly s (s.modWrite a d) := devWrite_memOnly ..

theorem imageView_dropIntake (s : State) : s.dropIntake.imageView = s.imageView := by
  have hhost : ∀ (u : State) (f : HostSt → HostSt), (u.modHost f).imageView = u.imageView := fun _ _ => rfl
  unfold State.dropIntake State.modIntake
  dsimp only
  refine (hhost _ _).trans ?_
  split
  · exact (imageView_cmdDone ..).trans (hhost _ _)
  · exact hhost _ _

theorem restoreFrom_step (s : State) (i : Image) (d : List PByte) (fa : Nat) :
    (s.restoreFrom i d fa).steps.step = fieldAt ((d.take 256).map (·.val)) 8 6 := by
  unfold State.restoreFrom
  extract_lets h step armed t1 t2 t3 t4 t5 t6 t7 t8 t9 r t10
  have h6 : t6.imageView = (step, t5.adm, t5.ray.half, t5.gn) := rfl
  have h7 : t7.imageView = t6.imageView := (show _ = t6.dropIntake.imageView from rfl).trans (imageView_dropIntake t6)
  have h8 : t8.imageView = t7.imageView := by
    show State.imageView (if _ then t7 else _) = _
    split
    · rfl
    · exact imageView_memOnly (modWrite_memOnly ..)
  have h9 : t9.imageView = t8.imageView := foldl_keeps State.imageView _ (fun u e => imageView_modTile u ..) _ _
  have h10 : t10.imageView = t9.imageView := rfl
  have hstep : t10.steps.step = step := congrArg Prod.fst (h10.trans (h9.trans (h8.trans (h7.trans h6))))
  clear_value t10
  have hview := bringUp_view t10 i fa armed false true
  generalize t10.bringUp i fa armed false true = u at hview ⊢
  exact (congrArg Prod.fst hview).trans hstep

/-- What a completed restore shows. -/
theorem restoreShown_shows (t : State) (c : Cand) :
    let u := t.restoreShown c
    u.holdState = 2 ∧ u.pen.pick = none ∧ u.flag penPage offControl 1 = false ∧ u.flag penPage offEvt 7 = true ∧
      u.steps = t.steps := by
  unfold State.restoreShown
  extract_lets v w u
  have hrec : ∀ (x : State) (c : Nat) (l : List Nat), (x.agRecord c l).regs = x.regs ∧ (x.agRecord c l).steps = x.steps :=
    fun _ _ _ => ⟨rfl, rfl⟩
  have hraise : ∀ (x : State) (p i : Nat), (x.raise p i).steps = x.steps := fun _ _ _ => rfl
  have hv : v.flag penPage offEvt 7 = true ∧ v.steps = t.steps :=
    ⟨(flag_of_regs (hrec _ _ _).1 _ _ _).trans (State.flag_raise_same _ _ _ (by decide)), (hrec _ _ _).2.trans (hraise _ _ _)⟩
  clear_value v
  have hw : w.holdState = 2 := setHold_state _ (by decide)
  have hcontrol : w.flag penPage offControl 1 = false :=
    (congrArg (bit · 1) (wrN_rdN_other (by decide) (by decide) (by decide))).trans
      (v.flag_setFlag_same penPage offControl 1 false (by decide))
  have hevt : w.flag penPage offEvt 7 = true :=
    (congrArg (bit · 7) ((wrN_rdN_other (by decide) (by decide) (by decide)).trans
      (wrN_rdN_other (s := v) (by decide) (by decide) (by decide)))).trans hv.1
  have hsteps : w.steps = v.steps := rfl
  clear_value w
  exact ⟨hw, rfl, hcontrol, hevt, hsteps.trans hv.2⟩

theorem restored_shows (s : State) (c : Cand) (i : Image) (fh : Nat) (start : Option Nat) (d : List PByte) :
    let u := s.restored c i fh start d
    u.holdState = 2 ∧ u.pen.pick = none ∧ u.flag penPage offControl 1 = false ∧ u.flag penPage offEvt 7 = true ∧
      u.steps.step = fieldAt ((d.take 256).map (·.val)) 8 6 := by
  unfold State.restored
  generalize (if s.gn.running then s else s.modGn fun g => { g with running := true, frame := fh, start := start.getD 0 }) = v
  have hstep := restoreFrom_step v i d fh
  generalize v.restoreFrom i d fh = t at hstep ⊢
  obtain ⟨hhold, hpick, hcontrol, hevt, hsteps⟩ := restoreShown_shows t c
  exact ⟨hhold, hpick, hcontrol, hevt, (congrArg Steps.step hsteps).trans hstep⟩

theorem restoreDone_spec {s : State} (hs : s.Serves) :
    let ready (c : Cand) (i : Image) : Prop := s.pen.pick = some c ∧ s.restoreImage = some i ∧
      (∃ f, s.pen.fh = some f ∧ s.restoreDue f) ∧ s.holdState = 4 ∧ s.restoreIn = true
    ((¬∃ c i, ready c i) → Ends (exec .restoreDone s) s) ∧
    (∀ c i, ready c i →
      let r := s.restoreData c
      (snapFits i r.1 = false → Ends (exec .restoreDone s) (r.2.restoreRefuse true) ∧
        (s.gn.master = false → (r.2.restoreRefuse true).holdState = 3 ∧ (r.2.restoreRefuse true).pen.pick = none ∧
          (r.2.restoreRefuse true).flag penPage offEvt 8 = true)) ∧
      (snapFits i r.1 = true → ∃ u, Ends (exec .restoreDone s) u ∧ u.holdState = 2 ∧ u.pen.pick = none ∧
        u.flag penPage offControl 1 = false ∧ u.flag penPage offEvt 7 = true ∧
        u.steps.step = fieldAt ((r.1.take 256).map (·.val)) 8 6)) := by
  intro ready
  refine ⟨restoreDone_waits hs, fun c i ⟨hc, hi, ⟨f, hf, hdue⟩, h4, hin⟩ => ?_⟩
  intro r
  have hends := restoreDone_ends hs hc hi hf
  dsimp only at hends
  rw [restoreStart_eq, if_neg] at hends
  · refine ⟨fun h => ?_, fun h => ?_⟩
    · rw [if_pos (by rw [show snapFits i (s.restoreData c).1 = false from h]; rfl)] at hends
      exact ⟨hends, fun hm => restoreRefuse_parks ((congrArg Gnomon.master (restoreData_master s c)).trans hm)⟩
    · rw [if_neg (by rw [show snapFits i (s.restoreData c).1 = true from h]; decide)] at hends
      exact ⟨_, hends, restored_shows ..⟩
  · simp only [Bool.or_eq_true, bne_iff_ne, Bool.not_eq_true', not_or, not_not, Bool.not_eq_false, ne_eq, decide_eq_true_eq]
    exact ⟨⟨h4, (restoreDue_iff s f).2 hdue⟩, hin⟩

/-- Settles O50: parks, their orders, and restores. -/
theorem restoresComplete : Obligations.RestoresComplete := by
  unfold Obligations.RestoresComplete
  refine ⟨fun s p m hs hp => ?_, fun s o hs => ?_, fun s => ?_, fun s hs => restoreDone_spec hs⟩
  · obtain ⟨hstays, hrolls, hparks⟩ := parks_end hs
    obtain ⟨hdown, hup⟩ := ready_ends m hs hp
    exact ⟨hstays, hrolls, hparks, holdTimeout_ends hs, hdown, hup, restoreHold_ends m hs⟩
  · exact ⟨show Ends (execRestoreReq o s) _ from runOn_ends_of hs.on rfl, restoreReq_order⟩
  · refine ⟨park_again, fun h => ?_⟩
    have hparked := park_parked h
    exact ⟨hparked.glints, hparked.tiles, hparked.evt, fun _ => hparked.hold⟩

end Sys2Proof.Machine
end

section
/-!
PROOF. Admission (Sections 5.6 to 5.8): the end of a check, the orders to CMD, and the switch to an image or to none. A command
of CMD answers whether it was rejected and changes the page's state, the half of the slot table not in use, and its events.
-/
namespace Sys2Proof.Machine

/-! ## What the switch of an image keeps -/

section
variable (s : State)

theorem imageView_modWrite (a : Nat) (d : List PByte) : (s.modWrite a d).imageView = s.imageView :=
  imageView_memOnly (modWrite_memOnly ..)

theorem imageView_payloadCopy (i : Image) : (s.payloadCopy i).imageView = s.imageView := by
  unfold State.payloadCopy
  refine foldl_keeps State.imageView _ (fun u p => ?_) _ _
  exact (imageView_modWrite _ _ _).trans (imageView_memOnly (devRead_memOnly u p.2.2 p.2.1 5 .module false false))

theorem imageView_spectrumReset (i : Image) : (s.spectrumReset i).imageView = s.imageView := by
  unfold State.spectrumReset
  split
  · rfl
  · exact imageView_modWrite ..

theorem imageView_movePositions (old : State) : (s.movePositions old).imageView = s.imageView := by
  unfold State.movePositions
  dsimp only
  refine (foldl_keeps State.imageView _ (fun u l => ?_) _ _).trans (foldl_keeps State.imageView _ (fun u l => ?_) _ _)
  · split <;> rfl
  · split <;> rfl

theorem imageView_resetMoved (old : State) : (s.resetMoved old).imageView = s.imageView := by
  unfold State.resetMoved
  refine foldl_keeps State.imageView _ (fun u d => ?_) _ _
  split
  · rfl
  · exact imageView_memOnly (dieReset_memOnly ..)

theorem imageView_tileSwitch (r : Nat) (on : Bool) : (s.tileSwitch r on).imageView = s.imageView := by
  unfold State.tileSwitch State.setPg
  split <;> rfl

theorem imageView_siteMapSwitch (m : Sparse SiteEnt) : (s.siteMapSwitch m).imageView = s.imageView := by
  have hnone : ∀ u : State, ((u.modSpare fun x => { x with toOpen := [] }).setFlag sparePage offStatus 0 false).imageView =
      u.imageView := fun _ => rfl
  unfold State.siteMapSwitch
  split
  · rfl
  · extract_lets old old' down sp t u v moved w x y
    have hold : old.imageView = s.imageView := foldl_keeps State.imageView _ (fun u (e : Nat × Slice) =>
      foldl_keeps State.imageView _ (fun u l => imageView_memOnly (flushMerge_memOnly u e.1 l)) _ _) _ _
    have hu : u.imageView = t.imageView := (imageView_resetMoved ..).trans (imageView_movePositions ..)
    have hv : v.imageView = u.imageView := foldl_keeps State.imageView _ (fun u r =>
      (imageView_agRecord ..).trans (imageView_tileSwitch u r false)) _ _
    have hw : w.imageView = v.imageView := foldl_keeps State.imageView _ (fun u (t : Nat) => imageView_agRecord u 0x200B [0, t]) _ _
    have hx : x.imageView = w.imageView := hnone w
    have hy : y.imageView = x.imageView := foldl_keeps State.imageView _ imageView_setRowMv _ _
    exact (imageView_raise ..).trans (hy.trans (hx.trans (hw.trans (hv.trans (hu.trans hold)))))

theorem imageView_mapSwitch : s.mapSwitch.imageView = s.imageView := by
  unfold State.mapSwitch
  split
  · rfl
  · dsimp only
    split <;> rfl

theorem imageView_giveBack (m : GMsg) : (s.giveBack m).imageView = s.imageView := by
  unfold State.giveBack
  split
  · split <;> rfl
  · exact imageView_sendUnscheduled ..

theorem imageView_dropSpec (tag : Nat) : (s.dropSpec tag).imageView = s.imageView := by
  unfold State.dropSpec
  extract_lets f fly t held gone u
  have hu : u.imageView = t.imageView := foldl_keeps State.imageView _ (fun v e => imageView_modTile v ..) _ _
  exact (foldl_keeps State.imageView _ (fun v g => imageView_giveBack v ..) _ _).trans (hu.trans rfl)

theorem imageView_dropRegions : s.dropRegions.imageView = s.imageView := by
  unfold State.dropRegions
  exact (foldl_keeps State.imageView _ (fun v e => imageView_modTile v ..) _ _).trans (imageView_dropSpec ..)

end

/-! ## What the end of a job leaves in scratch -/

/-- The scratch of every tile. -/
def State.scratches (s : State) : Nat → Sparse Byte := fun t => (s.tile t).scratch

theorem scratches_memOnly {s t : State} (h : MemOnly s t) : t.scratches = s.scratches :=
  funext fun n => (congrArg Tile.scratch (h.tiles n) :)

theorem scratches_frameKeeps {s t : State} (h : t.frameKeeps = s.frameKeeps) : t.scratches = s.scratches :=
  funext fun n => congrArg Prod.snd (congrFun (Prod.mk.inj (Prod.mk.inj h).2).2 n)

section
variable (s : State)

theorem scratches_modTile (t : Nat) {f : Tile → Tile} (h : ∀ x, (f x).scratch = x.scratch) : (s.modTile t f).scratches = s.scratches :=
  funext fun n => modTile_tile_keeps Tile.scratch s t n f h

theorem scratches_tiles {f : Tile → Tile} (h : ∀ x, (f x).scratch = x.scratch) (l : List (Nat × Tile)) :
    (l.foldl (fun s e => s.modTile e.1 f) s).scratches = s.scratches :=
  foldl_keeps State.scratches _ (fun v (e : Nat × Tile) => scratches_modTile v e.1 h) _ _

theorem scratches_wrN (p o v : Nat) : (s.wrN p o v).scratches = s.scratches := rfl

theorem scratches_raise (p i : Nat) : (s.raise p i).scratches = s.scratches := rfl

theorem scratches_giveBack (m : GMsg) : (s.giveBack m).scratches = s.scratches := by
  unfold State.giveBack
  split
  · split
    · exact scratches_modTile s _ fun _ => rfl
    · rfl
  · exact scratches_frameKeeps (frameKeeps_sendUnscheduled ..)

theorem scratches_dropRegions : s.dropRegions.scratches = s.scratches := by
  have hspec : (s.dropSpec s.outTag).scratches = s.scratches := by
    unfold State.dropSpec
    extract_lets f fly t held gone u
    have hu : u.scratches = t.scratches := scratches_tiles t (by exact fun _ => rfl) _
    exact (foldl_keeps State.scratches _ (fun v g => scratches_giveBack v _) _ _).trans (hu.trans rfl)
  unfold State.dropRegions
  exact (scratches_tiles _ (by exact fun _ => rfl) _).trans hspec

theorem scratches_startMoves : s.startMoves.scratches = s.scratches := by
  unfold State.startMoves
  refine foldl_keeps State.scratches _ (fun u m => ?_) _ _
  split <;> rfl

theorem scratches_endMove (n : Nat) : (s.endMove n).scratches = s.scratches := by
  have hcopied : ∀ (l : List ((Nat × Nat) × (Nat × Nat))),
      (l.foldl (fun s x => s.copyRange x.1.1 x.2.1 x.1.2 5) s).scratches = s.scratches := fun l =>
    foldl_keeps State.scratches _ (fun u x => scratches_memOnly (copyRange_memOnly u _ _ _ _)) l s
  have htable : ∀ (u : State) (r : Sparse ResEnt) (l : List Move),
      State.scratches { u with res := r, moves := l } = u.scratches := fun _ _ _ => rfl
  have hshown : ∀ (u : State) (b : Bool), (((u.setField (stackPage 0) 0x184 2 1 0).setFlag (stackPage 0) 0x184 0 b).raise
      (stackPage 0) 9).scratches = u.scratches := fun _ _ =>
    (scratches_raise ..).trans ((scratches_wrN ..).trans (scratches_wrN ..))
  unfold State.endMove
  split
  · rfl
  · extract_lets e t u v w x
    have ht : t.scratches = s.scratches := by
      show State.scratches (match s.adm.active with | none => s | some i => _) = _
      split
      · rfl
      · split
        · rfl
        · exact hcopied _
    have hv : v.scratches = t.scratches := htable t _ _
    have hw : w.scratches = v.scratches := scratches_memOnly (bump_memOnly ..)
    have hx : x.scratches = w.scratches := by
      show State.scratches (if _ then _ else w) = _
      split
      · exact hshown w _
      · rfl
    exact (scratches_startMoves x).trans (hx.trans (hw.trans (hv.trans ht)))

theorem scratches_finishMove (b : Nat) : (s.finishMove b).scratches = s.scratches := by
  have hdone : ∀ (u : State) q st r, (u.cmdDone q st r).scratches = u.scratches := fun u q st r => by
    obtain ⟨c, hc⟩ := cmdDone_cmds u q st r
    rw [hc]
    rfl
  unfold State.finishMove
  split
  · rfl
  · dsimp only
    split
    · exact (hdone ..).trans (scratches_endMove ..)
    · exact scratches_endMove ..

theorem scratches_settleMoves : s.settleMoves.scratches = s.scratches := by
  unfold State.settleMoves forN
  refine foldl_keeps State.scratches _ (fun u n => ?_) _ _
  split
  · exact scratches_finishMove ..
  · rfl

theorem scratches_zeroCounters : s.zeroCounters.scratches = s.scratches := by
  have hif : ∀ (u : State) (c : Prop) [Decidable c] (k : Nat) (d : Int), (if c then u.consFault k d else u).scratches = u.scratches :=
    fun u c _ k d => by
      split
      · exact congrArg (fun x : Sparse Tile => fun t => (sget Tile.initial x t).scratch) (consFault_power u k d).2.2.1
      · rfl
  unfold State.zeroCounters
  extract_lets left msgs t u
  exact (show _ = u.scratches from rfl).trans ((hif t _ 4 _).trans (hif s _ 3 _))

theorem scratches_dimEnd : s.dimEnd.scratches = s.scratches := by
  have hpow : ∀ (u : State) (x : Power), State.scratches { u with pow := x } = u.scratches := fun _ _ => rfl
  unfold State.dimEnd
  refine (hpow _ _).trans ?_
  split
  · exact scratches_frameKeeps (frameKeeps_dimLearn ..)
  · rfl

theorem scratches_takeWsets (l : List (Nat × Nat)) : (s.takeWsets l).scratches = s.scratches := by
  have hslice : ∀ (u : State) (k : Nat) (f : Slice → Slice), (u.modSlice k f).scratches = u.scratches := fun _ _ _ => rfl
  unfold State.takeWsets
  exact (foldl_keeps State.scratches _ (fun u e => hslice u _ _) _ _).trans
    (foldl_keeps State.scratches _ (fun u (e : Nat × Slice) => hslice u e.1 _) _ _)

/-- Before the end of a job, an occurrence in progress ends, every move asked for is made, and counters are taken as zero. -/
def State.jobSettled (s : State) : State := s.dimEnd.settleMoves.zeroCounters

theorem scratches_jobSettled : s.jobSettled.scratches = s.scratches :=
  (scratches_zeroCounters _).trans ((scratches_settleMoves _).trans (scratches_dimEnd s))

theorem imageView_jobSettled : s.jobSettled.imageView = s.imageView :=
  (imageView_zeroCounters _).trans ((imageView_settleMoves _).trans (imageView_dimEnd s))

/-- No image is in force and no frame runs. -/
def State.jobless (s : State) : State :=
  let s := { s with adm := { s.adm with active := none, armedEnd := false, go := none, mustWait := false } }
  let s := s.modGn fun g => { g with running := false, frame := 0, start := 0, dec := none }
  s.modFr fun f => { f with rep := (0, false), lateSeen := false, run := 0 }

theorem scratches_jobless : s.jobless.scratches = s.scratches := rfl

/-- Every tile stands at the start of a pass, and no line is pinned. -/
def State.jobCleared (s : State) : State :=
  let s := s.tiles.foldl (fun s e => s.modTile e.1 (·.atStart)) s
  let s := s.slices.foldl (fun s e => s.modSlice e.1 (·.unpin fun _ => false)) s
  (s.takeWsets []).raise admPage 3

theorem endJob_eq : s.endJob = s.jobSettled.jobless.jobCleared := rfl

theorem imageView_jobCleared : s.jobCleared.imageView = s.imageView := by
  unfold State.jobCleared
  extract_lets t u
  have ht : t.imageView = s.imageView := foldl_keeps State.imageView _ (fun v (e : Nat × Tile) => imageView_modTile v e.1 _) _ _
  have hu : u.imageView = t.imageView := foldl_keeps State.imageView _ (fun v (e : Nat × Slice) => imageView_modSlice v e.1 _) _ _
  exact (imageView_raise ..).trans ((imageView_takeWsets ..).trans (hu.trans ht))

theorem scratches_jobCleared : s.jobCleared.scratches = s.scratches := by
  have hslice : ∀ (u : State) (k : Nat) (f : Slice → Slice), (u.modSlice k f).scratches = u.scratches := fun _ _ _ => rfl
  unfold State.jobCleared
  extract_lets t u
  have ht : t.scratches = s.scratches := scratches_tiles s (by exact fun _ => rfl) _
  have hu : u.scratches = t.scratches := foldl_keeps State.scratches _ (fun v (e : Nat × Slice) => hslice v e.1 _) _ _
  exact (scratches_raise ..).trans ((scratches_takeWsets ..).trans (hu.trans ht))

/-- What the end of a job leaves. -/
theorem endJob_view : (s.endJob.adm.active = none ∧ s.endJob.adm.armedEnd = false) ∧ (s.endJob.gn.running = false ∧
    s.endJob.gn.dec = none ∧ s.endJob.gn.count = s.gn.count) ∧ s.endJob.scratches = s.scratches := by
  rw [endJob_eq]
  have hview : s.jobSettled.jobless.jobCleared.imageView = s.jobSettled.jobless.imageView := imageView_jobCleared _
  have hsettled := imageView_jobSettled s
  have hscr : s.jobSettled.jobless.jobCleared.scratches = s.scratches := (scratches_jobCleared _).trans
    ((scratches_jobless _).trans (scratches_jobSettled s))
  generalize s.jobSettled.jobless.jobCleared = u at hview hscr ⊢
  generalize s.jobSettled = t at hview hsettled
  simp only [State.imageView, Prod.mk.injEq] at hview hsettled
  obtain ⟨-, hadm, -, hgn⟩ := hview
  obtain ⟨-, -, -, hgn'⟩ := hsettled
  rw [hadm, hgn]
  exact ⟨⟨rfl, rfl⟩, ⟨rfl, rfl, (congrArg Gnomon.count hgn' : t.gn.count = s.gn.count)⟩, hscr⟩

end

/-! ## The commands of CMD -/

section
variable {s : State} {o : Origin}

theorem raise_journaled (s : State) (j : Sparse JEnt) (n p i : Nat) : (s.journaled j n).raise p i = (s.raise p i).journaled j n := rfl

theorem cmdReject_journaled (s : State) (j : Sparse JEnt) (n : Nat) :
    (s.journaled j n).cmdReject = (s.cmdReject.1, s.cmdReject.2.journaled j n) :=
  congrArg (Prod.mk true) (raise_journaled s j n admPage 5)

theorem admCheck_journaled (s : State) (o : Origin) (j : Sparse JEnt) (n : Nat) :
    (s.journaled j n).admCheck o = ((s.admCheck o).1, (s.admCheck o).2.journaled j n) := by
  show (if s.adm.state == 1 || s.adm.state == 4 then _ else _) = _
  unfold State.admCheck
  split
  · exact cmdReject_journaled s j n
  · rfl

/-- Whether ARM is refused for an image. -/
def State.armBad (s : State) (i : Image) : Bool :=
  let f := if s.adm.active.isNone then 0 else s.swFrame
  if s.holdState == 3 then false else match s.adm.active with
    | some o => !s.passStart o f || f < s.gn.frame + 4 || !i.continues
    | none => i.continues || s.rd64 admPage 0x11C < s.gn.count + 6 * 4096 || (match s.mapComing with
        | none => true
        | some l => l.length != i.modules)

/-- The module while it arms an image. -/
def State.arming (s : State) (i : Image) : State :=
  let t := { s with ray := { s.ray with halves := sput s.ray.halves (1 - s.ray.half) (s.readSlots i) } }
  t.modAdm fun a => { a with state := 4, armedEnd := false, swFrame := if s.adm.active.isNone then 0 else s.swFrame,
                             g0 := s.rd64 admPage 0x11C, go := none }

/-- The module once an image is armed. -/
def State.armed (s : State) (i : Image) : State := (s.arming i).raise admPage 2

theorem armed_journaled (s : State) (i : Image) (j : Sparse JEnt) (n : Nat) :
    (s.journaled j n).armed i = (s.armed i).journaled j n := by
  unfold State.armed
  rw [show (s.journaled j n).arming i = (s.arming i).journaled j n from rfl]
  exact raise_journaled (s.arming i) j n admPage 2

theorem admArm_eq {i : Image} (h3 : s.adm.state = 3) (hi : s.adm.img = some i) :
    s.admArm = if s.armBad i then s.cmdReject else (false, s.armed i) := by
  unfold State.admArm
  rw [h3, hi]
  rfl

theorem admArm_rejected (h : s.adm.state ≠ 3 ∨ s.adm.img = none) : s.admArm = s.cmdReject := by
  unfold State.admArm
  split
  next i h3 hi => exact absurd h (by simp [h3, hi])
  · rfl

theorem admArm_journaled (s : State) (j : Sparse JEnt) (n : Nat) :
    (s.journaled j n).admArm = (s.admArm.1, s.admArm.2.journaled j n) := by
  by_cases h : s.adm.state ≠ 3 ∨ s.adm.img = none
  · rw [admArm_rejected h, admArm_rejected (s := s.journaled j n) h, cmdReject_journaled]
  · obtain ⟨h3, himg⟩ := not_or.1 h
    obtain ⟨i, hi⟩ := Option.ne_none_iff_exists'.1 himg
    rw [admArm_eq (not_not.1 h3) hi, admArm_eq (s := s.journaled j n) (not_not.1 h3) hi]
    show (if s.armBad i then _ else _) = _
    split
    · exact cmdReject_journaled s j n
    · exact congrArg (Prod.mk false) (armed_journaled s i j n)

/-- The decision point of the switch frame has not come. -/
def State.beforeSwitch (s : State) : Bool :=
  if s.gn.running then s.gn.frame + 2 < s.adm.swFrame || (s.gn.frame + 2 == s.adm.swFrame && s.gn.count < s.gn.start + 2048)
  else s.gn.count + 8192 < s.adm.g0 + 2048

theorem admWithdraw_armed (h : s.adm.state = 4) : s.admWithdraw =
    if s.beforeSwitch && s.adm.go.isNone then (false, s.modAdm fun a => { a with state := 3 }) else s.cmdReject := by
  unfold State.admWithdraw
  dsimp only
  rw [h]
  rfl

theorem admWithdraw_rejected (h1 : s.adm.state ≠ 1) (h3 : s.adm.state ≠ 3) (h4 : s.adm.state ≠ 4) : s.admWithdraw = s.cmdReject := by
  unfold State.admWithdraw
  dsimp only
  split
  · exact absurd ‹_› h1
  · exact absurd ‹_› h3
  · exact absurd ‹_› h4
  · rfl

theorem admWithdraw_checking (h : s.adm.state = 1) : s.admWithdraw = (false, s.modAdm fun a => { a with state := 0 }) := by
  unfold State.admWithdraw
  dsimp only
  rw [h]
  rfl

theorem admWithdraw_admitted (h : s.adm.state = 3) : s.admWithdraw = (false, s.modAdm fun a => { a with state := 0, img := none }) := by
  unfold State.admWithdraw
  dsimp only
  rw [h]
  rfl

theorem admWithdraw_journaled (s : State) (j : Sparse JEnt) (n : Nat) :
    (s.journaled j n).admWithdraw = (s.admWithdraw.1, s.admWithdraw.2.journaled j n) := by
  by_cases h1 : s.adm.state = 1
  · rw [admWithdraw_checking h1, admWithdraw_checking (s := s.journaled j n) h1]; rfl
  by_cases h3 : s.adm.state = 3
  · rw [admWithdraw_admitted h3, admWithdraw_admitted (s := s.journaled j n) h3]; rfl
  by_cases h4 : s.adm.state = 4
  · rw [admWithdraw_armed h4, admWithdraw_armed (s := s.journaled j n) h4]
    show (if s.beforeSwitch && s.adm.go.isNone then _ else _) = _
    split
    · rfl
    · exact cmdReject_journaled s j n
  · rw [admWithdraw_rejected h1 h3 h4, admWithdraw_rejected (s := s.journaled j n) h1 h3 h4, cmdReject_journaled]

/-- Whether END is refused for the image in force. -/
def State.endBad (s : State) (i : Image) : Bool :=
  !(s.adm.state == 0 || s.adm.state == 2 || s.adm.state == 3) || !s.passStart i s.swFrame || s.swFrame < s.gn.frame + 4

/-- The module while it arms the end of its job. -/
def State.endArming (s : State) : State := s.modAdm fun a => { a with armedEnd := true, swFrame := s.swFrame, go := none }

/-- The module once the end of its job is armed. -/
def State.endArmed (s : State) : State := s.endArming.raise admPage 2

theorem endArmed_journaled (s : State) (j : Sparse JEnt) (n : Nat) : (s.journaled j n).endArmed = s.endArmed.journaled j n := by
  have hf : ∀ p o hi lo, (s.journaled j n).field p o hi lo = s.field p o hi lo := fun _ _ _ _ => rfl
  have hr : ∀ p o, (s.journaled j n).rdN p o = s.rdN p o := fun _ _ => rfl
  have hframe : (s.journaled j n).swFrame = s.swFrame := by unfold State.swFrame; rw [hf, hr]
  unfold State.endArmed State.endArming
  rw [hframe]
  generalize s.swFrame = f
  rw [show ∀ g, (s.journaled j n).modAdm g = (s.modAdm g).journaled j n from fun _ => rfl]
  exact raise_journaled (s.modAdm _) j n admPage 2

theorem admEnd_eq {i : Image} (h : s.adm.active = some i) :
    s.admEnd = if s.endBad i then s.cmdReject else (false, s.endArmed) := by
  unfold State.admEnd
  rw [h]
  rfl

theorem admEnd_none (h : s.adm.active = none) : s.admEnd = s.cmdReject := by
  unfold State.admEnd
  rw [h]

theorem admEnd_journaled (s : State) (j : Sparse JEnt) (n : Nat) :
    (s.journaled j n).admEnd = (s.admEnd.1, s.admEnd.2.journaled j n) := by
  cases h : s.adm.active with
  | none => rw [admEnd_none h, admEnd_none (s := s.journaled j n) h, cmdReject_journaled]
  | some i =>
    rw [admEnd_eq h, admEnd_eq (s := s.journaled j n) h]
    show (if s.endBad i then _ else _) = _
    split
    · exact cmdReject_journaled s j n
    · exact congrArg (Prod.mk false) (endArmed_journaled s j n)

/-- A command of CMD does not look at the journal. -/
theorem admCmd_journaled (s : State) (o : Origin) (v : Nat) (j : Sparse JEnt) (n : Nat) :
    (s.journaled j n).admCmd o v = ((s.admCmd o v).1, (s.admCmd o v).2.journaled j n) := by
  unfold State.admCmd
  split
  · exact admCheck_journaled ..
  · exact admArm_journaled ..
  · exact admWithdraw_journaled ..
  · exact admEnd_journaled ..
  · exact cmdReject_journaled ..

/-- What an order to CMD leaves as it is. -/
def CmdKept (s u : State) : Prop := u.tiles = s.tiles ∧ u.mem = s.mem ∧ u.gn = s.gn

theorem raise_kept (s : State) (p i : Nat) : CmdKept s (s.raise p i) := ⟨rfl, rfl, rfl⟩

theorem modAdm_kept (s : State) (f : Adm → Adm) : CmdKept s (s.modAdm f) := ⟨rfl, rfl, rfl⟩

theorem CmdKept.trans {s t u : State} (h : CmdKept t u) (h' : CmdKept s t) : CmdKept s u := by
  obtain ⟨htiles, hmem, hgn⟩ := h
  obtain ⟨htiles', hmem', hgn'⟩ := h'
  exact ⟨htiles.trans htiles', hmem.trans hmem', hgn.trans hgn'⟩

theorem cmdReject_kept (s : State) : CmdKept s s.cmdReject.2 := raise_kept s admPage 5

theorem armed_kept (s : State) (i : Image) : CmdKept s (s.armed i) := by
  obtain ⟨htiles, hmem, hgn⟩ := raise_kept (s.arming i) admPage 2
  exact ⟨htiles, hmem, hgn⟩

theorem endArmed_kept (s : State) : CmdKept s s.endArmed := by
  unfold State.endArmed State.endArming
  exact (raise_kept _ admPage 2).trans (modAdm_kept s _)

theorem admArm_kept (s : State) : CmdKept s s.admArm.2 := by
  by_cases h : s.adm.state ≠ 3 ∨ s.adm.img = none
  · rw [admArm_rejected h]; exact cmdReject_kept s
  · obtain ⟨h3, himg⟩ := not_or.1 h
    obtain ⟨i, hi⟩ := Option.ne_none_iff_exists'.1 himg
    rw [admArm_eq (not_not.1 h3) hi]
    split
    · exact cmdReject_kept s
    · exact armed_kept s i

theorem admWithdraw_kept (s : State) : CmdKept s s.admWithdraw.2 := by
  by_cases h1 : s.adm.state = 1
  · rw [admWithdraw_checking h1]; exact ⟨rfl, rfl, rfl⟩
  by_cases h3 : s.adm.state = 3
  · rw [admWithdraw_admitted h3]; exact ⟨rfl, rfl, rfl⟩
  by_cases h4 : s.adm.state = 4
  · rw [admWithdraw_armed h4]
    split
    · exact ⟨rfl, rfl, rfl⟩
    · exact cmdReject_kept s
  · rw [admWithdraw_rejected h1 h3 h4]; exact cmdReject_kept s

theorem admEnd_kept (s : State) : CmdKept s s.admEnd.2 := by
  cases h : s.adm.active with
  | none => rw [admEnd_none h]; exact cmdReject_kept s
  | some i =>
    rw [admEnd_eq h]
    split
    · exact cmdReject_kept s
    · exact endArmed_kept s

theorem admCmd_kept (s : State) (o : Origin) (v : Nat) : CmdKept s (s.admCmd o v).2 := by
  unfold State.admCmd
  split
  · unfold State.admCheck
    split
    · exact cmdReject_kept s
    · exact ⟨rfl, rfl, rfl⟩
  · exact admArm_kept s
  · exact admWithdraw_kept s
  · exact admEnd_kept s
  · exact cmdReject_kept s

/-- An order to CMD of a role that may write the page. -/
theorem order_cmd (hd : anyButDebug (roleOf o) = true) (v : Word) :
    ∃ h l, s.order o admPage 0x110 v = { (s.admCmd o (v.toNat &&& 7)).2 with host := h, out := l } := by
  obtain ⟨-, j, n, hh⟩ := accept_journaled s o admPage 0x110 v
  obtain ⟨j', n', c, l, hu⟩ := order_allOf (s := s) (o := o) (page := admPage) (off := 0x110) (v := v) (m := 7)
    (st := if (s.admCmd o (v.toNat &&& 7)).1 then stRefused else stOk) (g := fun t => (t.admCmd o (v.toNat &&& 7)).2)
    (by decide) (fun h => absurd h (by decide)) (by decide) (fun j n => by
      show allOf 7 (anyButDebug (roleOf o)) = _
      rw [hd]; rfl) (fun j n => by
      show (if ((s.journaled j n).admCmd o (v.toNat &&& 7)).1 then stRefused else stOk,
        ((s.journaled j n).admCmd o (v.toNat &&& 7)).2) = _
      rw [admCmd_journaled]) (by split <;> decide)
  rw [hh] at hu
  dsimp only at hu
  rw [admCmd_journaled] at hu
  exact ⟨_, l, hu⟩

/-- An order to CMD of a debug session. -/
theorem order_cmd_debug (hd : anyButDebug (roleOf o) = false) (v : Word) :
    ∃ r e h l, s.order o admPage 0x110 v = { s with regs := r, events := e, host := h, out := l } :=
  order_noneOf (m := 7) (by decide) fun j n => by
    show allOf 7 (anyButDebug (roleOf o)) = _
    rw [hd]; rfl

/-- A rejected command leaves the page's state as it is and raises CMD_REJECTED. -/
def CmdRejected (s u : State) : Prop := u.adm = s.adm ∧ u.flag admPage offEvt 5 = true

theorem cmdReject_rejected (s : State) : CmdRejected s s.cmdReject.2 :=
  have hadm : ∀ (u : State) (p i : Nat), (u.raise p i).adm = u.adm := fun _ _ _ => rfl
  ⟨hadm s admPage 5, s.flag_raise_same admPage 5 (by decide)⟩

/-- What an order to CMD leaves on the page, where the command ends in `t`. -/
theorem order_cmd_page (hd : anyButDebug (roleOf o) = true) {v : Word} (hm : v.toNat &&& 7 = v.toNat) {b : Bool} {t : State}
    (h : s.admCmd o v.toNat = (b, t)) : (s.order o admPage 0x110 v).adm = t.adm ∧ (s.order o admPage 0x110 v).ray = t.ray ∧
      ∀ i, (s.order o admPage 0x110 v).flag admPage offEvt i = t.flag admPage offEvt i := by
  obtain ⟨e, l, hu⟩ := order_cmd (s := s) hd v
  rw [hu, hm, h]
  exact ⟨rfl, rfl, fun _ => rfl⟩

theorem order_cmd_rejected (hd : anyButDebug (roleOf o) = true) {v : Word} (hm : v.toNat &&& 7 = v.toNat)
    (h : s.admCmd o v.toNat = s.cmdReject) : CmdRejected s (s.order o admPage 0x110 v) := by
  obtain ⟨hadm, -, hflag⟩ := order_cmd_page hd hm h
  obtain ⟨hr, hf⟩ := cmdReject_rejected s
  exact ⟨hadm.trans hr, (hflag 5).trans hf⟩

theorem order_check (hd : anyButDebug (roleOf o) = true) :
    (s.adm.state ≠ 1 → s.adm.state ≠ 4 →
      (s.order o admPage 0x110 1).adm = { s.adm with state := 1, img := none, base := s.imgBase, by_ := some o }) ∧
    (s.adm.state = 1 ∨ s.adm.state = 4 → CmdRejected s (s.order o admPage 0x110 1)) := by
  refine ⟨fun h1 h4 => (order_cmd_page (v := 1) hd (by decide) (if_neg ?_ : s.admCheck o = _)).1, fun h => order_cmd_rejected (v := 1) hd (by decide) (if_pos ?_)⟩
  · simp [h1, h4]
  · simpa using h

/-- What the page holds once an image is armed. -/
def State.armedAdm (s : State) : Adm :=
  { s.adm with state := 4, armedEnd := false, swFrame := if s.adm.active.isNone then 0 else s.swFrame
               g0 := s.rd64 admPage 0x11C, go := none }

/-- An image is armed: what the page, the half of the slot table not in use, and the event say. -/
theorem armed_page (s : State) (i : Image) : (s.armed i).adm = s.armedAdm ∧
    sfind (s.armed i).ray.halves (1 - s.ray.half) = some (s.readSlots i) ∧ (s.armed i).ray.half = s.ray.half ∧
    (s.armed i).flag admPage offEvt 2 = true := by
  have hraise : ∀ (u : State) (p i : Nat), (u.raise p i).adm = u.adm ∧ (u.raise p i).ray = u.ray := fun _ _ _ => ⟨rfl, rfl⟩
  obtain ⟨hadm, hray⟩ := hraise (s.arming i) admPage 2
  refine ⟨hadm, ?_, (congrArg Ray.half hray).trans rfl, State.flag_raise_same _ admPage 2 (by decide)⟩
  exact (congrArg (fun r : Ray => sfind r.halves (1 - s.ray.half)) hray).trans (sfind_sput_same _ _ _)

theorem order_arm (hd : anyButDebug (roleOf o) = true) {i : Image} (h3 : s.adm.state = 3) (hi : s.adm.img = some i) :
    (s.armBad i = true → CmdRejected s (s.order o admPage 0x110 2)) ∧
    (s.armBad i = false → (s.order o admPage 0x110 2).adm = s.armedAdm ∧
      sfind (s.order o admPage 0x110 2).ray.halves (1 - s.ray.half) = some (s.readSlots i) ∧
      (s.order o admPage 0x110 2).ray.half = s.ray.half ∧ (s.order o admPage 0x110 2).flag admPage offEvt 2 = true) := by
  have heq := admArm_eq h3 hi
  refine ⟨fun hb => order_cmd_rejected hd (by decide) (heq.trans (if_pos hb)), fun hb => ?_⟩
  obtain ⟨hadm, hray, hflag⟩ := order_cmd_page (s := s) (o := o) (v := 2) hd (by decide) (heq.trans (if_neg (ne_true_of_eq_false hb)))
  obtain ⟨hadm', hhalf, hin, hflag'⟩ := armed_page s i
  rw [hray]
  exact ⟨hadm.trans hadm', hhalf, hin, (hflag 2).trans hflag'⟩

/-- The first image may be armed in a parked module, or when it opens a job at a start far enough off with the map it needs. -/
theorem armBad_first {i : Image} (ha : s.adm.active = none) : s.armBad i = false ↔ s.holdState = 3 ∨
    (i.continues = false ∧ s.gn.count + 6 * 4096 ≤ s.rd64 admPage 0x11C ∧ ∃ l, s.mapComing = some l ∧ l.length = i.modules) := by
  unfold State.armBad
  rw [ha]
  by_cases hh : s.holdState = 3
  · simp [hh]
  · cases hm : s.mapComing with
    | none => simp [hh]
    | some l => simp [hh, and_assoc]

/-- A further image may be armed in a parked module, or when it continues at a start of a pass far enough off. -/
theorem armBad_next {i a : Image} (ha : s.adm.active = some a) : s.armBad i = false ↔ s.holdState = 3 ∨
    (i.continues = true ∧ s.passStart a s.swFrame = true ∧ s.gn.frame + 4 ≤ s.swFrame) := by
  unfold State.armBad
  rw [ha]
  by_cases hh : s.holdState = 3
  · simp [hh]
  · simp [hh]
    tauto

theorem armedAdm_first (ha : s.adm.active = none) : s.armedAdm =
    { s.adm with state := 4, armedEnd := false, swFrame := 0, g0 := s.rd64 admPage 0x11C, go := none } := by
  unfold State.armedAdm
  rw [ha]
  rfl

theorem armedAdm_next {a : Image} (ha : s.adm.active = some a) : s.armedAdm =
    { s.adm with state := 4, armedEnd := false, swFrame := s.swFrame, g0 := s.rd64 admPage 0x11C, go := none } := by
  unfold State.armedAdm
  rw [ha]
  rfl

theorem beforeSwitch_iff : s.beforeSwitch = true ↔ if s.gn.running then s.gn.frame + 2 < s.adm.swFrame ∨
    (s.gn.frame + 2 = s.adm.swFrame ∧ s.gn.count < s.gn.start + 2048) else s.gn.count + 8192 < s.adm.g0 + 2048 := by
  unfold State.beforeSwitch
  cases s.gn.running
  · simp only [Bool.false_eq_true, if_false, decide_eq_true_eq]
  · simp only [if_true, Bool.or_eq_true, Bool.and_eq_true, beq_iff_eq, decide_eq_true_eq]

theorem order_withdraw (hd : anyButDebug (roleOf o) = true) :
    (s.adm.state = 1 → (s.order o admPage 0x110 3).adm = { s.adm with state := 0 }) ∧
    (s.adm.state = 3 → (s.order o admPage 0x110 3).adm = { s.adm with state := 0, img := none }) ∧
    (s.adm.state = 4 →
      (s.beforeSwitch = true → s.adm.go = none → (s.order o admPage 0x110 3).adm = { s.adm with state := 3 }) ∧
      (¬s.beforeSwitch = true ∨ s.adm.go.isSome = true → CmdRejected s (s.order o admPage 0x110 3))) ∧
    (s.adm.state ≠ 1 → s.adm.state ≠ 3 → s.adm.state ≠ 4 → CmdRejected s (s.order o admPage 0x110 3)) := by
  refine ⟨fun h => (order_cmd_page (v := 3) hd (by decide) (admWithdraw_checking h)).1,
    fun h => (order_cmd_page (v := 3) hd (by decide) (admWithdraw_admitted h)).1, fun h => ⟨fun hb hg => ?_, fun hb => ?_⟩,
    fun h1 h3 h4 => order_cmd_rejected (v := 3) hd (by decide) (admWithdraw_rejected h1 h3 h4)⟩
  · refine (order_cmd_page (v := 3) hd (by decide) ((admWithdraw_armed h).trans (if_pos ?_))).1
    simp [hb, hg]
  · refine order_cmd_rejected (v := 3) hd (by decide) ((admWithdraw_armed h).trans (if_neg ?_))
    rw [Bool.and_eq_true, Option.isNone_iff_eq_none]
    rintro ⟨hbefore, hgo⟩
    rcases hb with hb | hb
    · exact hb hbefore
    · rw [hgo] at hb
      cases hb

theorem order_end (hd : anyButDebug (roleOf o) = true) {i : Image} (ha : s.adm.active = some i) :
    (s.endBad i = false → (s.order o admPage 0x110 5).adm = { s.adm with armedEnd := true, swFrame := s.swFrame, go := none } ∧
      (s.order o admPage 0x110 5).flag admPage offEvt 2 = true) ∧
    (s.endBad i = true → CmdRejected s (s.order o admPage 0x110 5)) := by
  have heq := admEnd_eq ha
  refine ⟨fun hb => ?_, fun hb => order_cmd_rejected hd (by decide) (heq.trans (if_pos hb))⟩
  obtain ⟨hadm, -, hflag⟩ := order_cmd_page (s := s) (o := o) (v := 5) hd (by decide) (heq.trans (if_neg (ne_true_of_eq_false hb)))
  have hraise : ∀ (u : State) (p i : Nat), (u.raise p i).adm = u.adm := fun _ _ _ => rfl
  exact ⟨hadm.trans (hraise s.endArming admPage 2), (hflag 2).trans (State.flag_raise_same _ admPage 2 (by decide))⟩

theorem endBad_iff {i : Image} : s.endBad i = false ↔ (s.adm.state = 0 ∨ s.adm.state = 2 ∨ s.adm.state = 3) ∧
    s.passStart i s.swFrame = true ∧ s.gn.frame + 4 ≤ s.swFrame := by
  simp only [State.endBad, Bool.or_eq_false_iff, Bool.not_eq_false', Bool.or_eq_true, beq_iff_eq, decide_eq_false_iff_not,
    Nat.not_lt, or_assoc, and_assoc]

end

/-! ## The end of a check -/

section
variable (s : State)

/-- Of two violations, the one that the order of the reasons names. -/
def checkResult (mine flow : Option (Nat × Nat × Nat)) : Option (Nat × Nat × Nat) := match mine, flow with
  | none, x => x
  | some x, none => some x
  | some x, some y => if y.1 < x.1 && 3 < x.1 && x.1 != 0x1E then some y else some x

/-- The image is admitted. -/
def State.checkPassed (s : State) (b : Nat) : State :=
  let i := s.readImage b
  let t := (s.wrN admPage 0x124 0).wrN admPage 0x128 0 |>.wrN admPage 0x12C 0
  (t.setField admPage 0x154 7 0 100).modAdm fun a => { a with state := 3, img := some i }

/-- The image is refused. -/
def State.checkFailed (s : State) (x : Nat × Nat × Nat) : State :=
  let s := (s.wrN admPage 0x124 x.1).wrN admPage 0x128 x.2.1 |>.wrN admPage 0x12C x.2.2
  let (v, s) := s.free
  let s := s.setField admPage 0x154 7 0 (v.toNat % 101)
  let s := (s.modAdm fun a => { a with state := 2 }).raise admPage 1
  s.jOrder (s.adm.by_.getD .boot) 0x02 stRefused (natLe 4 (regAddr admPage 0x110) ++ natLe 4 1) x.1

/-- The end of a check with a result. -/
def State.checkEnds (s : State) (res : Option (Nat × Nat × Nat)) : State := match res with
  | none => (s.raise admPage 0).checkPassed s.adm.base
  | some x => (s.raise admPage 0).checkFailed x

end

theorem checkDone_ends {s : State} (hs : s.Serves) {f : Option (Nat × Nat × Nat)} (h : s.adm.state = 1)
    {mine flow : Option (Nat × Nat × Nat)} (hm : s.checkImage s.adm.base = mine)
    (hf : (f.filter fun x => flowReasons.contains x.1) = flow) :
    Ends (execCheckDone f s) (s.checkEnds (checkResult mine flow)) := by
  refine runOn_ends_of hs.on ((if_neg (by simp [h])).trans ?_)
  unfold State.checkEnds State.checkPassed State.checkFailed
  generalize s.checkImage = check at hm ⊢
  generalize s.raise admPage 0 = u
  generalize (f.filter fun x => flowReasons.contains x.1) = found at hf ⊢
  subst hf
  -- a lemma of its own, so that the kernel compares the two sides with the checks as a variable
  as_aux_lemma =>
    cases mine with
    | none =>
      cases found with
      | none => simp only [hm, checkResult]
      | some y => simp only [hm, checkResult]
    | some x =>
      cases found with
      | none => simp only [hm, checkResult]
      | some y =>
        simp only [hm, checkResult]
        generalize (if (decide (y.1 < x.1) && decide (3 < x.1) && x.1 != 0x1E) = true then some y else some x) = res
        cases res with
        | none => rfl
        | some z => rfl

/-- An image that is admitted. -/
theorem checkPassed_eq (s : State) (b : Nat) : s.checkPassed b =
    { (((s.wrN admPage 0x124 0).wrN admPage 0x128 0).wrN admPage 0x12C 0).setField admPage 0x154 7 0 100 with
      adm := { s.adm with state := 3, img := some (s.readImage b) } } := by
  have hadm : ∀ (u : State) (p : Nat), ((((u.wrN p 0x124 0).wrN p 0x128 0).wrN p 0x12C 0).setField p 0x154 7 0 100).adm = u.adm :=
    fun _ _ => rfl
  unfold State.checkPassed State.modAdm
  dsimp only
  rw [hadm]

/-- An image that is refused. -/
theorem checkFailed_eq (s : State) (x : Nat × Nat × Nat) : s.checkFailed x =
    let v := (((s.wrN admPage 0x124 x.1).wrN admPage 0x128 x.2.1).wrN admPage 0x12C x.2.2).free
    let r := ({ v.2.setField admPage 0x154 7 0 (v.1.toNat % 101) with adm := { s.adm with state := 2 } } : State).raise admPage 1
    r.jOrder (s.adm.by_.getD .boot) 0x02 stRefused (natLe 4 (regAddr admPage 0x110) ++ natLe 4 1) x.1 := by
  have hadm : ∀ (u : State) (p a b c : Nat), (((u.wrN p 0x124 a).wrN p 0x128 b).wrN p 0x12C c).free.2.adm = u.adm :=
    fun _ _ _ _ _ => rfl
  have hfield : ∀ (u : State) (p n : Nat), (u.setField p 0x154 7 0 n).adm = u.adm := fun _ _ _ => rfl
  have hraise : ∀ (u : State) (p i : Nat), (u.raise p i).adm = u.adm := fun _ _ _ => rfl
  unfold State.checkFailed State.modAdm
  dsimp only
  rw [hraise, hfield, hadm]

/-- An admitted image at the end of a check. -/
theorem checkEnds_none (s : State) : s.checkEnds none =
    { ((((s.raise admPage 0).wrN admPage 0x124 0).wrN admPage 0x128 0).wrN admPage 0x12C 0).setField admPage 0x154 7 0 100 with
      adm := { s.adm with state := 3, img := some ((s.raise admPage 0).readImage s.adm.base) } } := by
  have hraise : ∀ (u : State) (p i : Nat), (u.raise p i).adm = u.adm := fun _ _ _ => rfl
  have heq : s.checkEnds none = (s.raise admPage 0).checkPassed s.adm.base := rfl
  rw [heq, checkPassed_eq, hraise]

/-- A refused image at the end of a check. -/
theorem checkEnds_some (s : State) (x : Nat × Nat × Nat) : s.checkEnds (some x) =
    let v := ((((s.raise admPage 0).wrN admPage 0x124 x.1).wrN admPage 0x128 x.2.1).wrN admPage 0x12C x.2.2).free
    let r := ({ v.2.setField admPage 0x154 7 0 (v.1.toNat % 101) with adm := { s.adm with state := 2 } } : State).raise admPage 1
    r.jOrder (s.adm.by_.getD .boot) 0x02 stRefused (natLe 4 (regAddr admPage 0x110) ++ natLe 4 1) x.1 := by
  have hraise : ∀ (u : State) (p i : Nat), (u.raise p i).adm = u.adm := fun _ _ _ => rfl
  have heq : s.checkEnds (some x) = (s.raise admPage 0).checkFailed x := rfl
  rw [heq, checkFailed_eq]
  dsimp only
  rw [hraise]

/-! ## The switch to an image, and to none -/

section
variable {s : State}

/-- The site map staged for the image comes into force, where one is. -/
def State.mapPlaced (s : State) (i : Image) : State := match s.spare.staged with
  | some m => if sha256 (mapBytes m) == i.placement then
      ({ s with spare := { s.spare with staged := none } }).siteMapSwitch m else s
  | none => s

theorem imageView_mapPlaced (s : State) (i : Image) : (s.mapPlaced i).imageView = s.imageView := by
  unfold State.mapPlaced
  split
  · split
    · exact imageView_siteMapSwitch ..
    · rfl
  · rfl

/-- The outgoing image is left: its module map, and its regions. -/
def State.mapLeft (s : State) (first : Bool) : State := if first then s.mapSwitch else s.mapSwitch.dropRegions

theorem imageView_mapLeft (s : State) (first : Bool) : (s.mapLeft first).imageView = s.imageView := by
  unfold State.mapLeft
  split
  · exact imageView_mapSwitch s
  · exact (imageView_dropRegions _).trans (imageView_mapSwitch s)

/-- The first step of a job begins. -/
def State.jobBegun (s : State) (i : Image) (first : Bool) : State :=
  if first then { s with
    steps := { step := s.peekN (stepRec i) 6, ls := signedOf 8 (s.peekN (stepRec i + 8) 1) }
    pen := { s.pen with nextNo := 0, lastEnd := none } }
  else s

theorem jobBegun_view (s : State) (i : Image) (first : Bool) : (s.jobBegun i first).adm = s.adm ∧
    (s.jobBegun i first).ray.half = s.ray.half ∧ (s.jobBegun i first).gn = s.gn := by
  unfold State.jobBegun
  split <;> exact ⟨rfl, rfl, rfl⟩

/-- The outgoing image has left, and the first step of a job has begun. -/
def State.imageLeft (s : State) (i : Image) : State :=
  (((s.payloadCopy i).spectrumReset i).mapPlaced i).mapLeft s.adm.active.isNone

/-- The incoming image is up. -/
def State.imageUp (s : State) (i : Image) : State :=
  ((s.imageLeft i).jobBegun i s.adm.active.isNone).bringUp i s.adm.swFrame true
    (!s.adm.active.isNone && (s.imageLeft i).steps.phase != .exec) false

theorem imageUp_view (i : Image) : ∃ w, (s.imageUp i).adm = { s.adm with
      active := some i, fa := s.adm.swFrame, go := none, mustWait := w, state := 0, img := none } ∧
    (s.imageUp i).ray.half = 1 - s.ray.half ∧ (s.imageUp i).gn = s.gn := by
  have hleft : (s.imageLeft i).imageView = s.imageView := (imageView_mapLeft ..).trans ((imageView_mapPlaced ..).trans
    ((imageView_spectrumReset ..).trans (imageView_payloadCopy ..)))
  unfold State.imageUp
  generalize s.imageLeft i = t at hleft ⊢
  simp only [State.imageView, Prod.mk.injEq] at hleft
  obtain ⟨-, hadm, hhalf, hgn⟩ := hleft
  obtain ⟨hadm', hhalf', hgn'⟩ := jobBegun_view t i s.adm.active.isNone
  have hview := bringUp_view (t.jobBegun i s.adm.active.isNone) i s.adm.swFrame true
    (!s.adm.active.isNone && t.steps.phase != .exec) false
  rw [hadm', hhalf', hgn', hadm, hhalf, hgn] at hview
  generalize (t.jobBegun i s.adm.active.isNone).bringUp i s.adm.swFrame true
    (!s.adm.active.isNone && t.steps.phase != .exec) false = u at hview ⊢
  simp only [State.imageView, if_true, Prod.mk.injEq] at hview
  obtain ⟨-, hadm, hhalf, hgn⟩ := hview
  exact ⟨_, hadm, hhalf, hgn⟩

/-- Frame 0 starts at G0. -/
def State.frameZero (s : State) (g0 : Nat) : State :=
  let t : State := { s with gn := { s.gn with running := true, frame := 0, start := g0, dec := none }, fr := {} }
  ((t.wrN gnPage 0x138 0).wrN gnPage 0x13C 0).resetTokens.noteFrame

theorem imageView_resetTokens (s : State) : s.resetTokens.imageView = s.imageView := by
  unfold State.resetTokens
  have hbudget : ∀ u : State, u.takeBudget.imageView = u.imageView := fun u => by
    unfold State.takeBudget
    exact imageView_wrN u powPage 0x108 _
  exact (hbudget _).trans (imageView_wrN s powPage 0x104 _)

/-- The module once the image is in force. -/
def State.activated (s : State) (i : Image) : State :=
  if s.adm.active.isNone then (s.imageUp i).frameZero s.adm.g0 else s.imageUp i

theorem activated_view (i : Image) : ((s.activated i).adm.active = some i ∧ (s.activated i).adm.fa = s.adm.swFrame ∧
      (s.activated i).adm.state = 0 ∧ (s.activated i).adm.img = none) ∧ (s.activated i).ray.half = 1 - s.ray.half ∧
    (s.activated i).gn.count = s.gn.count ∧
    (s.adm.active.isNone = true → (s.activated i).gn.running = true ∧ (s.activated i).gn.frame = 0 ∧
      (s.activated i).gn.start = s.adm.g0) := by
  obtain ⟨w, hadm, hhalf, hgn⟩ := imageUp_view (s := s) i
  unfold State.activated
  cases hfirst : s.adm.active.isNone with
  | false =>
    rw [if_neg Bool.false_ne_true, hadm, hhalf, hgn]
    exact ⟨⟨rfl, rfl, rfl, rfl⟩, rfl, rfl, fun h => absurd h Bool.false_ne_true⟩
  | true =>
    rw [if_pos rfl]
    generalize s.imageUp i = t at hadm hhalf hgn ⊢
    have hview : (t.frameZero s.adm.g0).imageView =
        (t.steps.step, t.adm, t.ray.half, { t.gn with running := true, frame := 0, start := s.adm.g0, dec := none }) :=
      (imageView_noteFrame _).trans ((imageView_resetTokens _).trans ((imageView_wrN ..).trans (imageView_wrN ..)))
    simp only [State.imageView, Prod.mk.injEq] at hview
    obtain ⟨-, hadm', hhalf', hgn'⟩ := hview
    rw [hadm', hhalf', hgn', hadm, hhalf, hgn]
    exact ⟨⟨rfl, rfl, rfl, rfl⟩, rfl, rfl, fun _ => ⟨rfl, rfl, rfl⟩⟩

/-- Whether the switch decided has come. -/
def State.switchCome (s : State) : Bool := s.gn.running && s.gn.frame == s.adm.swFrame && s.allAtEnd && s.outgoingDone

/-- Whether an image that is armed may come into force. -/
def State.switchDue (s : State) : Prop := s.adm.state = 4 ∧ s.adm.go = some s.adm.swFrame ∧
  (if s.gn.running then s.switchCome = true else s.adm.g0 ≤ s.gn.count)

/-- Whether IMAGE_ACTIVATION finds its image not due. -/
def State.switchUndue (s : State) : Bool :=
  s.adm.state != 4 || s.adm.go != some s.adm.swFrame ||
    !(if s.gn.running then s.gn.frame == s.adm.swFrame && s.allAtEnd && s.outgoingDone else decide (s.adm.g0 ≤ s.gn.count))

theorem switchUndue_iff (s : State) : s.switchUndue = true ↔ ¬s.switchDue := by
  unfold State.switchUndue State.switchDue State.switchCome
  by_cases h4 : s.adm.state = 4
  · by_cases hg : s.adm.go = some s.adm.swFrame
    · cases hr : s.gn.running
      · simp [h4, hg]
      · simp [h4, hg]
        rw [or_assoc, imp_iff_not_or, ← Bool.not_eq_true s.allAtEnd, imp_iff_not_or]
    · simp [hg]
  · simp [h4]

theorem imageActivation_not (hs : s.Serves) (h : s.adm.img = none ∨ ¬s.switchDue) : Ends (exec .imageActivation s) s := by
  refine show Ends (execImageActivation s) s from runOn_ends_of hs.on ?_
  extract_lets -underBinder a
  split
  · rfl
  next i hi =>
    have hi' : s.adm.img = some i := hi
    have hundue : s.switchUndue = true := (switchUndue_iff s).2 (h.resolve_left (by simp [hi']))
    exact if_pos hundue

theorem imageActivation_activates (hs : s.Serves) {i : Image} (hi : s.adm.img = some i) (h : s.switchDue) :
    Ends (exec .imageActivation s) (s.activated i) := by
  refine show Ends (execImageActivation s) _ from runOn_ends_of hs.on ?_
  have hundue : ¬s.switchUndue = true := fun hu => (switchUndue_iff s).1 hu h
  extract_lets -underBinder a
  rw [show a.img = some i from hi]
  refine (if_neg hundue).trans ?_
  unfold State.activated State.imageUp State.imageLeft
  generalize (s.payloadCopy i).spectrumReset i = copied
  extract_lets -underBinder first c placed m left wait pen begun up
  have hp : placed = copied.mapPlaced i := rfl
  have hl : left = placed.mapLeft first := rfl
  have hb : begun = left.jobBegun i first := rfl
  have hu : up = begun.bringUp i a.swFrame true wait false := rfl
  have hw : wait = (!first && left.steps.phase != .exec) := rfl
  have hv : up = (((copied.mapPlaced i).mapLeft first).jobBegun i first).bringUp i a.swFrame true
      (!first && ((copied.mapPlaced i).mapLeft first).steps.phase != .exec) false := by rw [hu, hw, hb, hl, hp]
  clear_value up
  clear hu hb hw hl hp begun pen wait left m placed c
  change _ = if first = true then State.frameZero ((((copied.mapPlaced i).mapLeft first).jobBegun i first).bringUp i a.swFrame true
      (!first && ((copied.mapPlaced i).mapLeft first).steps.phase != .exec) false) a.g0 else
      (((copied.mapPlaced i).mapLeft first).jobBegun i first).bringUp i a.swFrame true
      (!first && ((copied.mapPlaced i).mapLeft first).steps.phase != .exec) false
  rw [← hv]
  rfl

theorem jobEnd_not (hs : s.Serves) (h : s.adm.armedEnd = false ∨ s.adm.go ≠ some s.adm.swFrame ∨ s.switchCome = false) :
    Ends (exec .jobEnd s) s := by
  refine show Ends (execJobEnd s) s from runOn_ends_of hs.on (if_pos ?_)
  rcases h with h | h | h
  · simp [h]
  · simp [h]
  · unfold State.switchCome at h
    simp only [Bool.and_eq_false_iff, beq_eq_false_iff_ne] at h
    rcases h with ((h | h) | h) | h
    · simp [h]
    · simp [h]
    · simp [h]
    · simp [h]

theorem jobEnd_ends (hs : s.Serves) (ha : s.adm.armedEnd = true) (hg : s.adm.go = some s.adm.swFrame) (h : s.switchCome = true) :
    Ends (exec .jobEnd s) s.dropRegions.endJob := by
  refine show Ends (execJobEnd s) _ from runOn_ends_of hs.on (if_neg ?_)
  unfold State.switchCome at h
  simp only [Bool.and_eq_true, beq_iff_eq] at h
  obtain ⟨⟨⟨hr, hf⟩, hend⟩, hout⟩ := h
  simp [ha, hg, hr, hf, hend, hout]

end

/-- Settles O24: the end of a check by its result, the orders to CMD by what each command does, and the switch by what the
coming up of an image and the end of a job leave. -/
theorem admissionFamilyCompletes : Obligations.AdmissionFamilyCompletes := by
  unfold Obligations.AdmissionFamilyCompletes
  refine ⟨fun s f hs => ?_, fun s o hs => ?_, fun s hs => ?_⟩
  · intro mine flow done refused
    have hdone : ∀ {m fl : Option (Nat × Nat × Nat)}, s.adm.state = 1 → mine = m → flow = fl →
        Ends (exec (.checkDone f) s) (s.checkEnds (checkResult m fl)) := fun h hm hf => checkDone_ends hs h hm hf
    have hends : ∀ {t u : State}, t = u → Ends (exec (.checkDone f) s) t → Ends (exec (.checkDone f) s) u := fun h => h ▸ id
    refine ⟨fun h => show Ends (execCheckDone f s) s from runOn_ends_of hs.on (if_pos (bne_iff_ne.2 h)),
      fun h => ⟨fun hm hf => ?_, fun y hm hf => ?_, fun x hm hf => ?_, fun x y hm hf => ?_⟩⟩
    · exact hends (checkEnds_none s) (hdone h hm hf)
    · exact hends (checkEnds_some s y) (hdone h hm hf)
    · exact hends (checkEnds_some s x) (hdone h hm hf)
    · have hres : checkResult (some x) (some y) = some (if y.1 < x.1 ∧ 3 < x.1 ∧ x.1 ≠ 0x1E then y else x) := by
        simp only [checkResult, Bool.and_eq_true, decide_eq_true_eq, bne_iff_ne, and_assoc]
        split <;> rfl
      exact hends ((congrArg s.checkEnds hres).trans (checkEnds_some s _)) (hdone h hm hf)
  · intro u rejected sw g0
    have hkept : ∀ n, CmdKept s (u n) := fun n => by
      cases hd : anyButDebug (roleOf o) with
      | false =>
        obtain ⟨r, e, h, l, hu⟩ := order_cmd_debug (s := s) hd n
        rw [show u n = _ from hu]
        exact ⟨rfl, rfl, rfl⟩
      | true =>
        obtain ⟨h, l, hu⟩ := order_cmd (s := s) hd n
        rw [show u n = _ from hu]
        exact admCmd_kept s o _
    refine ⟨show Ends (execCheck o s) _ from runOn_ends_of hs.on rfl, show Ends (execArm o s) _ from runOn_ends_of hs.on rfl,
      show Ends (execWithdraw o s) _ from runOn_ends_of hs.on rfl, show Ends (execEnd o s) _ from runOn_ends_of hs.on rfl,
      hkept, fun hd n => ?_, fun hd => ?_⟩
    · obtain ⟨r, e, h, l, hu⟩ := order_cmd_debug (s := s) hd n
      rw [show u n = _ from hu]
    · obtain ⟨hcheck, hcheck'⟩ := order_check (s := s) (o := o) hd
      obtain ⟨h1, h3, h4, hno⟩ := order_withdraw (s := s) (o := o) hd
      refine ⟨hcheck, hcheck', fun i hst hi => ?_,
        fun h => order_cmd_rejected (v := 2) hd (by decide) (admArm_rejected h), h1, h3,
        fun h => ?_, hno, fun i ha => ?_, fun h => order_cmd_rejected (v := 5) hd (by decide) (admEnd_none h)⟩
      · obtain ⟨hbad, hgood⟩ := order_arm (s := s) (o := o) hd hst hi
        have hfalse : ∀ {p : Prop}, (s.armBad i = false ↔ s.holdState = 3 ∨ p) → s.holdState ≠ 3 → ¬p → s.armBad i = true :=
          fun h hh hp => Bool.eq_true_of_not_eq_false fun hb => (h.1 hb).elim hh hp
        refine ⟨fun ha h => ?_, fun ha hh hn => hbad (hfalse (armBad_first ha) hh hn), fun a ha h => ?_,
          fun a ha hh hn => hbad (hfalse (armBad_next ha) hh hn)⟩
        · obtain ⟨hadm, hrest⟩ := hgood ((armBad_first ha).2 h)
          exact ⟨hadm.trans (armedAdm_first ha), hrest⟩
        · obtain ⟨hadm, hrest⟩ := hgood ((armBad_next ha).2 h)
          exact ⟨hadm.trans (armedAdm_next ha), hrest⟩
      · obtain ⟨hyes, hnot⟩ := h4 h
        have hbefore := beforeSwitch_iff (s := s)
        exact ⟨fun hb hg => hyes (hbefore.2 hb) hg, fun hb => hnot (hb.imp_left fun hb h => hb (hbefore.1 h))⟩
      · obtain ⟨hyes, hnot⟩ := order_end (s := s) (o := o) hd ha
        exact ⟨fun h => hyes (endBad_iff.2 h), fun h => hnot (Bool.eq_true_of_not_eq_false fun hb => h (endBad_iff.1 hb))⟩
  · refine ⟨fun h => imageActivation_not hs h, fun i hi hdue => ?_, fun h => jobEnd_not hs h, fun ha hg h => ?_⟩
    · intro first copied placed left begun up started u
      have hu : u = s.activated i := by
        have hc : copied = (s.payloadCopy i).spectrumReset i := rfl
        clear_value copied
        have hp : placed = copied.mapPlaced i := rfl
        have hl : left = placed.mapLeft first := rfl
        have hb : begun = left.jobBegun i first := rfl
        have hv : up = begun.bringUp i s.adm.swFrame true (!first && left.steps.phase != .exec) false := rfl
        have hup : up = s.imageUp i := by rw [hv, hb, hl, hp, hc]; rfl
        unfold State.activated
        rw [← hup]
        clear_value up
        rfl
      rw [hu]
      obtain ⟨⟨ha, hf, hst, himg⟩, hhalf, hc, hfirst⟩ := activated_view (s := s) i
      exact ⟨imageActivation_activates hs hi hdue, ha, hf, hst, himg, hhalf, hc, hfirst⟩
    · obtain ⟨⟨hact, harm⟩, ⟨hrun, hdec, hcount⟩, hscr⟩ := endJob_view s.dropRegions
      have hdrop := imageView_dropRegions s
      simp only [State.imageView, Prod.mk.injEq] at hdrop
      obtain ⟨-, -, -, hgn⟩ := hdrop
      exact ⟨jobEnd_ends hs ha hg h, hact, harm, hrun, hdec, hcount.trans (congrArg Gnomon.count hgn),
        fun t => congrFun (hscr.trans (scratches_dropRegions s)) t⟩

end Sys2Proof.Machine
end

section
/-!
PROOF. Frames that come to a port (Sections 10.3, 10.6 and 10.8). A frame that may be taken is taken where no other waits before
it: its effect is that of `State.frameEffect`, and its units are freed.
-/
namespace Sys2Proof.Machine

/-! ## The frame is heard -/

section
variable (s : State)

/-- The bits and frames that came in at a port are counted. -/
def State.rxFrame (s : State) (p : Nat) (f : RayFrame) : State :=
  (s.bump64 (rayPage p) 0x48).bump64 (rayPage p) 0x58 (wireBytes f)

theorem rxFrame_rest (p : Nat) (f : RayFrame) : ∃ r, s.rxFrame p f = { s with regs := r } := ⟨_, rfl⟩

theorem rxFrame_other {p q off : Nat} (f : RayFrame) (hoff : regOff off) (h : rayPage p ≠ q) :
    (s.rxFrame p f).rd q off = s.rd q off := by
  have hwr : ∀ (u : State) (o n : Nat), regOff o → regOff (o + 4) → (u.bump64 (rayPage p) o n).rd q off = u.rd q off := by
    intro u o n ho ho'
    unfold State.bump64 State.wr64
    exact (State.rd_wr_other _ _ ho' hoff fun hsame => h hsame.1).trans (State.rd_wr_other _ _ ho hoff fun hsame => h hsame.1)
  exact (hwr _ _ _ (by decide) (by decide)).trans (hwr _ _ _ (by decide) (by decide))

/-- The frame's ACK and NAK. -/
def State.heardAck (s : State) (p : Nat) (f : RayFrame) : State :=
  let s := (s.rxFrame p f).modPort p (·.acked f.ack)
  if f.nak then s.nakIn p else s

/-- A port that takes a frame's SEQ and its credit return. -/
def Port.tookSeq (x : Port) (f : RayFrame) : Port :=
  let x := { x with rxSeq := f.seq, ackDue := true, nakDue := false }
  if f.crPool < 70 && f.crUnits > 0 then
    { x with credits := sset 0 x.credits f.crPool (sget 0 x.credits f.crPool + f.crUnits)
             rRecv := (x.rRecv + f.crUnits) % 2 ^ 32 }
  else x

/-- A port that discards a frame. -/
def Port.lostSeq (x : Port) (f : RayFrame) : Port :=
  if seqDist f.seq x.rxSeq < 2048 then { x with ackDue := true } else { x with nakDue := true }

theorem port_modPort (p : Nat) (g : Port → Port) : (s.modPort p g).port p = g (s.port p) := sget_sput_same _ _ _ _

theorem port_modPort_other {p q : Nat} (g : Port → Port) (h : p ≠ q) : (s.modPort p g).port q = s.port q := sget_sput_other _ _ _ h

/-- A port that has heard a frame's ACK, and its NAK. -/
def Port.heardAck (x : Port) (f : RayFrame) : Port :=
  let y := x.acked f.ack
  if f.nak && !y.unacked.isEmpty then { y with resend := y.unacked } else y

theorem heardAck_port (p : Nat) (f : RayFrame) : (s.heardAck p f).port p = (s.port p).heardAck f := by
  have hacked : ((s.rxFrame p f).modPort p (·.acked f.ack)).port p = (s.port p).acked f.ack := port_modPort ..
  unfold State.heardAck Port.heardAck
  dsimp only
  generalize (s.rxFrame p f).modPort p (·.acked f.ack) = t at hacked ⊢
  have hraise : ∀ (u : State) q i, (u.raise q i).port p = u.port p := fun _ _ _ => rfl
  cases hn : f.nak with
  | false => exact hacked
  | true =>
    unfold State.nakIn
    dsimp only
    rw [if_pos rfl, hacked]
    cases hu : ((s.port p).acked f.ack).unacked.isEmpty with
    | true => exact hacked
    | false =>
      rw [if_neg Bool.false_ne_true, hraise]
      exact sget_sput_same _ _ _ _

theorem heardAck_other (p : Nat) (f : RayFrame) {q : Nat} (h : p ≠ q) : (s.heardAck p f).port q = s.port q := by
  have hacked : ((s.rxFrame p f).modPort p (·.acked f.ack)).port q = s.port q := port_modPort_other _ _ h
  unfold State.heardAck
  dsimp only
  generalize (s.rxFrame p f).modPort p (·.acked f.ack) = t at hacked ⊢
  have hraise : ∀ (u : State) p i, (u.raise p i).port q = u.port q := fun _ _ _ => rfl
  cases f.nak with
  | false => exact hacked
  | true =>
    unfold State.nakIn
    dsimp only
    rw [if_pos rfl]
    split
    · exact hacked
    · exact (hraise _ _ _).trans ((sget_sput_other _ _ _ h).trans hacked)

theorem Port.heardAck_keeps (x : Port) (f : RayFrame) : (x.heardAck f).rxSeq = x.rxSeq ∧ (x.heardAck f).early = x.early ∧
    (x.heardAck f).credits = x.credits ∧ (x.heardAck f).unacked = (x.acked f.ack).unacked := by
  unfold Port.heardAck
  dsimp only
  split <;> exact ⟨rfl, rfl, rfl, rfl⟩

/-- What the hearing of a frame leaves of the module: all but registers, the ports, and the event of a NAK. -/
theorem heardAck_rest (p : Nat) (f : RayFrame) : ∃ r e l, s.heardAck p f = { s with
    regs := r, events := e, ray := { s.ray with ports := l } } := by
  unfold State.heardAck State.nakIn
  dsimp only
  split
  · split
    · exact ⟨_, _, _, rfl⟩
    · exact ⟨_, _, _, rfl⟩
  · exact ⟨_, _, _, rfl⟩

theorem acceptSeq_next {p : Nat} {f : RayFrame} (h : f.seq = ((s.port p).rxSeq + 1) % 4096) :
    s.acceptSeq p f = (some ((s.heardAck p f).modPort p (·.tookSeq f)), (s.heardAck p f).modPort p (·.tookSeq f)) := by
  refine if_neg ?_
  show ¬(f.seq != (((s.heardAck p f).port p).rxSeq + 1) % 4096) = true
  rw [heardAck_port, (Port.heardAck_keeps _ f).1]
  simpa using h

theorem acceptSeq_other {p : Nat} {f : RayFrame} (h : f.seq ≠ ((s.port p).rxSeq + 1) % 4096) :
    s.acceptSeq p f = (none, (s.heardAck p f).modPort p (·.lostSeq f)) := by
  refine (if_pos ?_).trans ?_
  · show (f.seq != (((s.heardAck p f).port p).rxSeq + 1) % 4096) = true
    rw [heardAck_port, (Port.heardAck_keeps _ f).1]
    simpa using h
  · show (none, (s.heardAck p f).modPort p fun x =>
      if seqDist f.seq ((s.heardAck p f).port p).rxSeq < 2048 then { x with ackDue := true } else { x with nakDue := true }) = _
    unfold State.modPort Port.lostSeq
    rfl

theorem Port.tookSeq_keeps (x : Port) (f : RayFrame) : (x.tookSeq f).rxSeq = f.seq ∧ (x.tookSeq f).ackDue = true ∧
    (x.tookSeq f).unacked = x.unacked ∧ (x.tookSeq f).resend = x.resend ∧ (x.tookSeq f).early = x.early := by
  unfold Port.tookSeq
  dsimp only
  split <;> exact ⟨rfl, rfl, rfl, rfl, rfl⟩

theorem Port.tookSeq_credits (x : Port) {f : RayFrame} (hp : f.crPool < 70) (hu : 0 < f.crUnits) :
    sget 0 (x.tookSeq f).credits f.crPool = sget 0 x.credits f.crPool + f.crUnits := by
  unfold Port.tookSeq
  rw [if_pos (by simp [hp, hu])]
  exact sget_sset_same ..

theorem Port.lostSeq_keeps (x : Port) (f : RayFrame) : (x.lostSeq f).rxSeq = x.rxSeq ∧ (x.lostSeq f).early = x.early ∧
    (x.lostSeq f).resend = x.resend ∧
    (if seqDist f.seq x.rxSeq < 2048 then (x.lostSeq f).ackDue = true else (x.lostSeq f).nakDue = true) := by
  unfold Port.lostSeq
  split
  · exact ⟨rfl, rfl, rfl, rfl⟩
  · exact ⟨rfl, rfl, rfl, rfl⟩

theorem frameIn_closed {p : Nat} {f : RayFrame} (h : s.portOpen p = false) : s.frameIn p f = s := if_pos (by simp [h])

theorem frameIn_other {p : Nat} {f : RayFrame} (ho : s.portOpen p = true) (h : f.seq ≠ ((s.port p).rxSeq + 1) % 4096) :
    s.frameIn p f = (s.acceptSeq p f).2 := by
  unfold State.frameIn
  rw [if_neg (by simp [ho]), acceptSeq_other s h]

/-- The frame enters the buffer of its port. -/
def State.buffered (s : State) (p : Nat) (f : RayFrame) : State :=
  ((s.heardAck p f).modPort p (·.tookSeq f)).modPort p fun x =>
    { x with occ := sset 0 x.occ f.pool (sget 0 x.occ f.pool + frameUnits f), early := x.early ++ [f] }

theorem frameIn_next {p : Nat} {f : RayFrame} (ho : s.portOpen p = true) (h : f.seq = ((s.port p).rxSeq + 1) % 4096) :
    s.frameIn p f = (s.buffered p f).drainEarly ((s.buffered p f).earlyCount p) p := by
  unfold State.frameIn
  rw [if_neg (by simp [ho]), acceptSeq_next s h]
  rfl

theorem acceptSeq_rest (p : Nat) (f : RayFrame) : ∃ r e l, (s.acceptSeq p f).2 = { s with
    regs := r, events := e, ray := { s.ray with ports := l } } := by
  obtain ⟨r, e, l, hr⟩ := heardAck_rest s p f
  by_cases h : f.seq = ((s.port p).rxSeq + 1) % 4096
  · rw [acceptSeq_next s h, hr]
    exact ⟨_, _, _, rfl⟩
  · rw [acceptSeq_other s h, hr]
    exact ⟨_, _, _, rfl⟩

/-- A NAK asks for every frame after its ACK again, and raises the port's event. -/
theorem acceptSeq_nak {p : Nat} {f : RayFrame} (hn : f.nak = true) (hu : ((s.port p).acked f.ack).unacked ≠ []) :
    ((s.acceptSeq p f).2.port p).resend = ((s.port p).acked f.ack).unacked ∧
      (s.acceptSeq p f).2.flag (rayPage p) offEvt 3 = true := by
  have hresend : ((s.port p).heardAck f).resend = ((s.port p).acked f.ack).unacked := by
    unfold Port.heardAck
    rw [if_pos (by simp [hn, hu])]
  have hflag : (s.heardAck p f).flag (rayPage p) offEvt 3 = true := by
    have hacked : ((s.rxFrame p f).modPort p (·.acked f.ack)).port p = (s.port p).acked f.ack := port_modPort ..
    unfold State.heardAck State.nakIn
    dsimp only
    generalize (s.rxFrame p f).modPort p (·.acked f.ack) = t at hacked ⊢
    rw [hn, if_pos rfl, hacked, if_neg (by simp [hu])]
    exact State.flag_raise_same _ _ _ (by decide)
  have hmod : ∀ (g : Port → Port), ((s.heardAck p f).modPort p g).flag (rayPage p) offEvt 3 = true := fun g => hflag
  by_cases h : f.seq = ((s.port p).rxSeq + 1) % 4096
  · rw [acceptSeq_next s h]
    refine ⟨?_, hmod _⟩
    dsimp only
    rw [port_modPort, (Port.tookSeq_keeps _ f).2.2.2.1, heardAck_port, hresend]
  · rw [acceptSeq_other s h]
    refine ⟨?_, hmod _⟩
    dsimp only
    rw [port_modPort, (Port.lostSeq_keeps _ f).2.2.1, heardAck_port, hresend]

end

/-! ## A frame that may be taken -/

/-- The conditions of `State.MayTake` that concern the frame and its order. -/
structure State.Takable (s : State) (p : Nat) (f : RayFrame) : Prop where
  port : p < 16
  light : s.dusk = false
  straight : f.detour = false
  here : (f.stream = 0xFFF ∧ f.dstPhys = s.phys) ∨
    (f.stream ≠ 0xFFF ∧ ∃ st, s.inStream (dirOf p) f = some st ∧ st.deliver = true)
  order : f.xseq < 65536 ∧ f.xseq = sget 0 s.ray.xRx (s.rxKey p f)
  now : f.spec = false ∨ s.stepOfTag f.stepTag < s.steps.step + 2

theorem State.MayTake.takable {s : State} {p : Nat} {f : RayFrame} (h : s.MayTake p f) : s.Takable p f :=
  ⟨h.port, h.awake.light, h.straight, h.here, h.order, h.now⟩

/-- The stream or class of a frame has its next number. -/
def State.counted (s : State) (p : Nat) (f : RayFrame) : State :=
  { s with ray := { s.ray with xRx := sset 0 s.ray.xRx (s.rxKey p f) ((sget 0 s.ray.xRx (s.rxKey p f) + 1) % 65536) } }

/-- The frame has its effect here, and its units are freed. -/
def State.taken (s : State) (p : Nat) (f : RayFrame) : State :=
  ((s.counted p f).frameEffect p f).freeUnits (p, f.pool, frameUnits f)

section
variable {s : State} {p : Nat} {f : RayFrame}

theorem inDirOf_straight (h : f.detour = false) (n : Nat) : inDirOf p f n = dirOf p := if_neg (by simp [h])

theorem deliver_here (h : s.Takable p f) : (s.counted p f).deliver p f = s.taken p f := by
  unfold State.deliver State.taken
  have hphys : (s.counted p f).phys = s.phys := rfl
  have hin : (s.counted p f).inStream (inDirOf p f s.phys) f = s.inStream (dirOf p) f := by
    rw [inDirOf_straight h.straight]; rfl
  dsimp only
  rw [hphys, hin]
  rcases h.here with ⟨hstream, hdst⟩ | ⟨hstream, st, hst, hdeliver⟩
  · rw [if_pos (beq_iff_eq.2 hstream), if_pos (beq_iff_eq.2 hdst)]
  · rw [if_neg (by simpa using hstream), hst]
    exact if_pos hdeliver

theorem tooEarly_not (h : s.Takable p f) : s.tooEarly p f = false := by
  have hlate : (s.dusk || f.spec && decide (s.stepOfTag f.stepTag ≥ s.steps.step + 2)) = false := by
    rw [h.light, Bool.false_or, Bool.and_eq_false_iff]
    exact h.now.imp_right fun hstep => decide_eq_false (Nat.not_le.2 hstep)
  unfold State.tooEarly
  dsimp only
  rw [hlate, Bool.and_false]

theorem tryTake_takes (h : s.Takable p f) : s.tryTake p f = (true, s.taken p f) := by
  obtain ⟨hlt, hseq⟩ := h.order
  have hahead : (f.xseq + 65536 - sget 0 s.ray.xRx (s.rxKey p f)) % 65536 = 0 := by
    rw [← hseq, Nat.add_sub_cancel_left]
  have htook : s.tryTake p f = (true, (s.counted p f).deliver p f) := by
    refine (if_neg (by simp [h.straight])).trans ((if_neg ?_).trans (if_neg ?_))
    · show ¬(f.xseq + 65536 - sget 0 s.ray.xRx (s.rxKey p f)) % 65536 ≥ 32768
      rw [hahead]
      decide
    · show ¬(decide ((f.xseq + 65536 - sget 0 s.ray.xRx (s.rxKey p f)) % 65536 > 0) || s.tooEarly p f) = true
      rw [hahead, tooEarly_not h]
      decide
  rw [htook, deliver_here h]

/-- The direction of a port is that of its twin. -/
theorem mem_portsOf (h : p < 16) : p ∈ portsOf (dirOf p) := by
  have hall : ∀ p < 16, p ∈ portsOf (dirOf p) := by decide
  exact hall p h

theorem nodup_portsOf (h : p < 16) : (portsOf (dirOf p)).Nodup := by
  have hall : ∀ p < 16, (portsOf (dirOf p)).Nodup := by decide
  exact hall p h

theorem earlyCount_one (h : p < 16) (hearly : (s.port p).early = [f])
    (htwin : ∀ q ∈ portsOf (dirOf p), q ≠ p → (s.port q).early = []) : s.earlyCount p = 1 := by
  have hsum : ∀ (l : List Nat) (n : Nat), l.Nodup → (∀ q ∈ l, q ≠ p → (s.port q).early = []) →
      l.foldl (fun n q => n + (s.port q).early.length) n = n + if p ∈ l then 1 else 0 := fun l => by
    induction l with
    | nil => exact fun n _ _ => rfl
    | cons q l ih =>
      intro n hnodup hall
      obtain ⟨hq, hl⟩ := List.nodup_cons.1 hnodup
      rw [List.foldl_cons, ih _ hl fun q hq => hall q (List.mem_cons_of_mem _ hq)]
      by_cases hqp : q = p
      · subst hqp
        simp [hearly, hq]
      · simp [hall q List.mem_cons_self hqp, Ne.symm hqp]
  exact (hsum _ 0 (nodup_portsOf h) htwin).trans (by rw [if_pos (mem_portsOf h)])

/-- Where one frame waits, and it may be taken, it is taken. -/
theorem drainEarly_takes (h : s.Takable p f) (hearly : (s.port p).early = [f])
    (htwin : ∀ q ∈ portsOf (dirOf p), q ≠ p → (s.port q).early = []) :
    s.drainEarly (s.earlyCount p) p = (s.taken p f).modPort p fun x => { x with early := [] } := by
  have hfirst : ∀ l : List Nat, p ∈ l → (∀ q ∈ l, q ≠ p → (s.port q).early = []) → (l.findSome? fun q =>
      match s.takeEarly q [] (s.port q).early with | (true, t) => some t | _ => none) =
      some ((s.taken p f).modPort p fun x => { x with early := [] }) := fun l => by
    induction l with
    | nil => exact fun hp => absurd hp (by simp)
    | cons q l ih =>
      intro hp hall
      rw [List.findSome?_cons]
      by_cases hqp : q = p
      · subst hqp
        rw [hearly]
        unfold State.takeEarly
        rw [tryTake_takes h]
        rfl
      · rw [hall q List.mem_cons_self hqp]
        exact ih ((List.mem_cons.1 hp).resolve_left (Ne.symm hqp)) fun q hq => hall q (List.mem_cons_of_mem _ hq)
  rw [earlyCount_one h.port hearly htwin]
  unfold State.drainEarly
  have hfound := hfirst _ (mem_portsOf h.port) htwin
  generalize (s.taken p f).modPort p (fun x => { x with early := [] }) = t at hfound ⊢
  split
  next u hu => 
    have heq : some u = some t := hu.symm.trans hfound
    cases heq
    rfl
  next hu => 
    have heq : none = some t := hu.symm.trans hfound
    cases heq

/-- Where the frame that a port hears is the one expected, and none waits, it is taken at once. -/
theorem frameIn_takes (h : s.TakesFrame p f) : ∃ r l, let t := { s with regs := r, ray := { s.ray with ports := l } }
    s.frameIn p f = (t.taken p f).modPort p (fun x => { x with early := [] }) ∧ t.phys = s.phys ∧ (t.port p).rxSeq = f.seq := by
  have hear : s.heardAck p f = (s.rxFrame p f).modPort p (·.acked f.ack) := if_neg (by simp [h.sound])
  obtain ⟨r, hr⟩ := rxFrame_rest s p f
  have hbuf : ∃ l, s.buffered p f = { s with regs := r, ray := { s.ray with ports := l } } := by
    unfold State.buffered
    rw [hear, hr]
    exact ⟨_, rfl⟩
  have hport : (s.buffered p f).port p = { ((s.port p).heardAck f).tookSeq f with
      occ := sset 0 (((s.port p).heardAck f).tookSeq f).occ f.pool (sget 0 (((s.port p).heardAck f).tookSeq f).occ f.pool + frameUnits f)
      early := (((s.port p).heardAck f).tookSeq f).early ++ [f] } := by
    unfold State.buffered
    rw [port_modPort, port_modPort, heardAck_port]
  have hother : ∀ q, p ≠ q → (s.buffered p f).port q = s.port q := fun q hq => by
    unfold State.buffered
    rw [port_modPort_other _ _ hq, port_modPort_other _ _ hq, heardAck_other _ _ _ hq]
  have hpage : rayPage p ≠ rayComPage := by
    have hp := h.port
    unfold rayPage rayComPage
    omega
  have hphys : (s.buffered p f).phys = s.phys := by
    have hrd : ∀ off, regOff off → (s.buffered p f).rd rayComPage off = s.rd rayComPage off := fun off hoff => by
      unfold State.buffered
      rw [hear]
      exact rxFrame_other s f hoff hpage
    have hfield : ∀ off hi lo, regOff off → (s.buffered p f).field rayComPage off hi lo = s.field rayComPage off hi lo :=
      fun off hi lo hoff => congrArg (fun v : Word => bits v.toNat hi lo) (hrd off hoff)
    unfold State.phys State.dims State.coord
    rw [hfield _ _ _ (by decide), hfield _ _ _ (by decide), hfield _ _ _ (by decide), hfield _ _ _ (by decide),
      hfield _ _ _ (by decide), hfield _ _ _ (by decide)]
  have hin := frameIn_next s h.opened h.seq
  obtain ⟨l, hl⟩ := hbuf
  rw [hl] at hport hother hphys hin
  have hearly : (State.port { s with regs := r, ray := { s.ray with ports := l } } p).early = [f] := by
    rw [hport]
    show (((s.port p).heardAck f).tookSeq f).early ++ [f] = [f]
    rw [(Port.tookSeq_keeps _ f).2.2.2.2, (Port.heardAck_keeps _ f).2.1, h.first p (mem_portsOf h.port)]
    rfl
  have htakable : State.Takable { s with regs := r, ray := { s.ray with ports := l } } p f := by
    refine ⟨h.port, h.awake.light, h.straight, ?_, ?_, h.now⟩
    · rw [hphys]; exact h.here
    · unfold State.rxKey
      rw [hphys]
      exact h.order
  refine ⟨r, l, ?_, hphys, ?_⟩
  · exact hin.trans (drainEarly_takes htakable hearly fun q hq hqp => by
      rw [hother q (Ne.symm hqp)]
      exact h.first q hq)
  · rw [hport]
    exact (Port.tookSeq_keeps _ f).1

/-! ## The effect of a frame -/

/-- The bytes of a frame land, or its elements are added. -/
def State.frameLand (s : State) (p : Nat) (f : RayFrame) : State :=
  let tag := s.stepOfTag f.stepTag
  if f.akind then
    if f.type == 2 then (s.addT tag f.addr (frameData f) 2 (.ray p)).2 else s.writeT tag f.addr (frameData f) 5 (.ray p)
  else match s.siteOf f.dstTile with
    | none => s
    | some t =>
      let o := f.addr % 2 ^ 20
      let u := if f.type == 2 then s.addScratch (.ray p) false t tag o (frameData f)
        else s.landScratch (.ray p) t tag o (frameData f)
      u.markInbound 1152 t o (frameData f).length

theorem frameEffect_data (h3 : f.type ≠ 3) (h4 : f.type ≠ 4) (h8 : f.type ≠ 8) :
    s.frameEffect p f = (s.frameLand p f).countLast f (s.stepOfTag f.stepTag) := by
  unfold State.frameEffect
  dsimp only
  split
  · exact absurd ‹_› h3
  · exact absurd ‹_› h4
  · exact absurd ‹_› h8
  · rfl

/-- The message of a GLINT frame. -/
def State.glintOf (s : State) (f : RayFrame) : GMsg :=
  let x := fieldAt f.payload 8 8
  let m := ((s.ray.map.getD []).findIdx? (· == f.srcPhys)).getD 0
  { srcMod := m, srcTile := f.srcTile, kc := bits x 12 8, tag := s.stepOfTag f.stepTag
    slot := glintSlot true m f.srcTile x ((f.payload.drop 16).take (bits x 7 0 + 1)) }

theorem frameEffect_glint (h : f.type = 3) : s.frameEffect p f = match s.siteOf (bits (fieldAt f.payload 0 8) 41 32) with
    | none => s
    | some t => { s with nextId := s.nextId + 1, glints := s.glints ++ [{
        id := s.nextId, site := t, mbox := bits (fieldAt f.payload 0 8) 1 0, msg := s.glintOf f }] } := by
  unfold State.frameEffect
  rw [h]
  rfl

theorem frameEffect_give (h : f.type = 4) : s.frameEffect p f = match s.siteOf f.dstTile with
    | some t => s.addKC t f.cc f.giveN (s.stepOfTag f.stepTag)
    | none => s := by
  unfold State.frameEffect
  rw [h]
  rfl

theorem frameEffect_bulk (h : f.type = 8) : s.frameEffect p f = s.devWrite f.addr (frameData f) 5 (.ray p) := by
  unfold State.frameEffect
  rw [h]
  rfl

/-- The state without its tiles, registers and events, and without the step's causes and counts. -/
def State.untiled (s : State) : State := { s.stored with tiles := [] }

theorem untiled_of_stored {s u : State} (h : u.stored = s.stored) : u.untiled = s.untiled :=
  (congrArg (fun x : State => { x with tiles := [] }) h :)

theorem untiled_modTile (s : State) (t : Nat) (g : Tile → Tile) : (s.modTile t g).untiled = s.untiled := rfl

theorem untiled_markInbound (s : State) (m t o n : Nat) : (s.markInbound m t o n).untiled = s.untiled := by
  unfold State.markInbound
  split <;> rfl

theorem untiled_addScratch (s : State) (ag : Agent) (again : Bool) (site tag o : Nat) (d : List PByte) :
    (s.addScratch ag again site tag o d).untiled = s.untiled := by
  have hlog : ∀ (u : State) (t a : Nat), (u.logErr t a).untiled = u.untiled := fun _ _ _ => rfl
  unfold State.addScratch
  extract_lets u
  have hu : u.untiled = s.untiled := by
    refine foldl_keeps State.untiled _ (fun v i => ?_) _ _
    dsimp only
    split
    · refine (untiled_of_stored (cause_stored ..)).trans ((untiled_of_stored (raise_stored ..)).trans ((hlog ..).trans ?_))
      exact untiled_modTile ..
    · split
      · exact (untiled_of_stored (tilePoison_stored ..)).trans (untiled_modTile ..)
      · split
        · split
          · exact (untiled_of_stored (cause_stored ..)).trans (untiled_modTile ..)
          · exact (untiled_of_stored (headerAdd_stored ..)).trans ((untiled_of_stored (cause_stored ..)).trans (untiled_modTile ..))
        · exact untiled_modTile ..
  split
  · exact (untiled_of_stored (addrFault_stored ..)).trans hu
  · exact hu

theorem untiled_landScratch (s : State) (ag : Agent) (t tag o : Nat) (d : List PByte) :
    (s.landScratch ag t tag o d).untiled = s.untiled := (untiled_of_stored (landScratch_stored s ag t tag o d)).trans (untiled_modTile ..)

/-- What a frame's data leaves as it is. -/
def State.dataKeeps (s : State) := (s.gn, s.adm, s.ray, s.glints)

theorem dataKeeps_memOnly {s u : State} (h : MemOnly s u) : u.dataKeeps = s.dataKeeps :=
  (congrArg (fun x : State => (x.gn, x.adm, x.ray, x.glints)) h.rest :)

theorem dataKeeps_untiled {s u : State} (h : u.untiled = s.untiled) : u.dataKeeps = s.dataKeeps :=
  (congrArg (fun x : State => (x.gn, x.adm, x.ray, x.glints)) h :)

theorem frameLand_keeps (s : State) (p : Nat) (f : RayFrame) : (s.frameLand p f).dataKeeps = s.dataKeeps := by
  unfold State.frameLand
  dsimp only
  split
  · split
    · exact dataKeeps_memOnly (addT_memOnly ..)
    · exact dataKeeps_memOnly (writeT_memOnly ..)
  · split
    · rfl
    · refine dataKeeps_untiled ((untiled_markInbound ..).trans ?_)
      split
      · exact untiled_addScratch ..
      · exact untiled_landScratch ..

/-! ## The counters that the last frame names -/

/-- The completion counter that the last frame of a transfer names counts. -/
def State.countTile (s : State) (f : RayFrame) (tag : Nat) : State :=
  if f.ccEn then match s.siteOf f.dstTile with
    | some t => s.addCC t f.cc 1 tag
    | none => s
  else s

theorem countLast_eq (s : State) (f : RayFrame) (tag : Nat) : s.countLast f tag =
    if !f.last then s
    else if f.ckEn then { s.countTile f tag with ray := { (s.countTile f tag).ray with
      ck := sset 0 (s.countTile f tag).ray.ck f.ck ((sget 0 (s.countTile f tag).ray.ck f.ck + 1) % 2 ^ 32) } }
    else s.countTile f tag := rfl

theorem countTile_rest (s : State) (f : RayFrame) (tag : Nat) : ∃ ts, s.countTile f tag = { s with tiles := ts } := by
  unfold State.countTile
  split
  · split
    · exact ⟨_, rfl⟩
    · exact ⟨_, rfl⟩
  · exact ⟨_, rfl⟩

theorem countLast_rest (s : State) (f : RayFrame) (tag : Nat) :
    ∃ ts c, s.countLast f tag = { s with tiles := ts, ray := { s.ray with ck := c } } := by
  obtain ⟨ts, hts⟩ := countTile_rest s f tag
  rw [countLast_eq, hts]
  split
  · exact ⟨_, _, rfl⟩
  · split
    · exact ⟨_, _, rfl⟩
    · exact ⟨_, _, rfl⟩

/-- What the count of a completion counter leaves of a tile. -/
theorem countLast_tile {β : Type} (g : Tile → β) (hg : ∀ x l, g { x with cc := l } = g x) (s : State) (f : RayFrame) (tag i : Nat) :
    g ((s.countLast f tag).tile i) = g (s.tile i) := by
  have hcc : g ((s.countTile f tag).tile i) = g (s.tile i) := by
    unfold State.countTile
    split
    · split
      · exact modTile_tile_keeps g s _ _ _ fun x => hg x _
      · rfl
    · rfl
  rw [countLast_eq]
  split
  · rfl
  · split
    · exact hcc
    · exact hcc

theorem countLast_cc {s : State} {f : RayFrame} {t : Nat} (tag : Nat) (hl : f.last = true) (hc : f.ccEn = true)
    (ht : s.siteOf f.dstTile = some t) : ((s.countLast f tag).tile t).cc =
      sput (s.tile t).cc f.cc ((sget {} (s.tile t).cc f.cc).add 1 (s.speculative tag)) := by
  have hcount : ((s.countTile f tag).tile t).cc =
      sput (s.tile t).cc f.cc ((sget {} (s.tile t).cc f.cc).add 1 (s.speculative tag)) := by
    unfold State.countTile State.addCC
    rw [if_pos hc, ht]
    exact congrArg Tile.cc (State.tile_modTile_same ..)
  rw [countLast_eq, if_neg (by simp [hl])]
  split
  · exact hcount
  · exact hcount

theorem countLast_none {s : State} {f : RayFrame} (tag : Nat) (ht : s.siteOf f.dstTile = none) :
    (s.countLast f tag).tiles = s.tiles := by
  have hcount : (s.countTile f tag).tiles = s.tiles := by
    unfold State.countTile
    rw [ht]
    split <;> rfl
  rw [countLast_eq]
  split
  · rfl
  · split
    · exact hcount
    · exact hcount

theorem countLast_ck {s : State} {f : RayFrame} (tag : Nat) (hl : f.last = true) (hc : f.ckEn = true) :
    sget 0 (s.countLast f tag).ray.ck f.ck = (sget 0 s.ray.ck f.ck + 1) % 2 ^ 32 := by
  obtain ⟨ts, hts⟩ := countTile_rest s f tag
  rw [countLast_eq, if_neg (by simp [hl]), if_pos hc, hts]
  exact sget_sset_same ..

end

/-! ## What a frame that is taken leaves -/

/-- What every frame leaves as it is at its module. -/
def State.effectKeeps (s : State) := (s.gn, s.adm, s.ray.xRx, s.ray.ports)

theorem frameEffect_keeps (s : State) (p : Nat) (f : RayFrame) : (s.frameEffect p f).effectKeeps = s.effectKeeps := by
  have hdata : ∀ {u : State}, u.dataKeeps = s.dataKeeps → u.effectKeeps = s.effectKeeps := fun h => by
    simp only [State.dataKeeps, Prod.mk.injEq] at h
    obtain ⟨hgn, hadm, hray, -⟩ := h
    simp only [State.effectKeeps, hgn, hadm, hray]
  by_cases h3 : f.type = 3
  · rw [frameEffect_glint h3]
    split <;> rfl
  by_cases h4 : f.type = 4
  · rw [frameEffect_give h4]
    split <;> rfl
  by_cases h8 : f.type = 8
  · rw [frameEffect_bulk h8]
    exact hdata (dataKeeps_memOnly (devWrite_memOnly ..))
  · rw [frameEffect_data h3 h4 h8]
    obtain ⟨ts, c, hc⟩ := countLast_rest (s.frameLand p f) f (s.stepOfTag f.stepTag)
    rw [hc]
    exact (show _ = (s.frameLand p f).effectKeeps from rfl).trans (hdata (frameLand_keeps s p f))

section
variable {s : State} {p : Nat} {f : RayFrame}

/-- The tile of a site and the rest of the module once a frame's bytes have landed in its scratch. -/
theorem frameLand_bytes {t : Nat} (h1 : f.type = 1) (ha : f.akind = false) (ht : s.siteOf f.dstTile = some t) :
    (s.frameLand p f).mem = s.mem ∧ (s.frameLand p f).map = s.map ∧
    (∀ tag, (s.frameLand p f).speculative tag = s.speculative tag) ∧
    ((s.frameLand p f).tile t).scratch = ((s.tile t).setBytes (f.addr % 2 ^ 20) ((frameData f).map landedByte)).scratch ∧
    ((s.frameLand p f).tile t).cc = (s.tile t).cc ∧ (∀ i, i ≠ t → (s.frameLand p f).tile i = s.tile i) := by
  have heq : s.frameLand p f = (s.landScratch (.ray p) t (s.stepOfTag f.stepTag) (f.addr % 2 ^ 20) (frameData f)).markInbound 1152 t
      (f.addr % 2 ^ 20) (frameData f).length := by
    unfold State.frameLand
    dsimp only
    rw [ha, ht, h1]
    rfl
  have htile := landScratch_tile s (.ray p) t (s.stepOfTag f.stepTag) (f.addr % 2 ^ 20) (frameData f)
  have hother := fun i (hi : i ≠ t) => landScratch_other s (.ray p) (s.stepOfTag f.stepTag) (f.addr % 2 ^ 20) (frameData f) hi
  have hrest := untiled_landScratch s (.ray p) t (s.stepOfTag f.stepTag) (f.addr % 2 ^ 20) (frameData f)
  rw [heq]
  generalize s.landScratch (.ray p) t (s.stepOfTag f.stepTag) (f.addr % 2 ^ 20) (frameData f) = u at htile hother hrest ⊢
  have hmark : ∀ (g : Tile → Sparse Byte × Sparse Counter), (∀ x l, g { x with inbound := l } = g x) → ∀ i,
      g ((u.markInbound 1152 t (f.addr % 2 ^ 20) (frameData f).length).tile i) = g (u.tile i) := fun g hg i => by
    unfold State.markInbound
    split
    · rfl
    · exact modTile_tile_keeps g u _ _ _ fun x => hg x _
  have hmarked := (untiled_markInbound u 1152 t (f.addr % 2 ^ 20) (frameData f).length).trans hrest
  have hkeep := Prod.mk.inj (hmark (fun x => (x.scratch, x.cc)) (fun _ _ => rfl) t)
  refine ⟨(congrArg State.mem hmarked :), (congrArg State.map hmarked :), fun tag =>
    (congrArg (fun x : State => x.speculative tag) hmarked :), hkeep.1.trans (congrArg Tile.scratch htile), ?_, fun i hi => ?_⟩
  · exact hkeep.2.trans ((congrArg Tile.cc htile).trans (setBytes_keeps Tile.cc (fun _ _ _ => rfl) ..))
  · refine Eq.trans ?_ (hother i hi)
    unfold State.markInbound
    split
    · rfl
    · exact State.tile_modTile_other u _ (Ne.symm hi)

theorem freeUnits_rest (s : State) (h : Nat × Nat × Nat) : ∃ l, s.freeUnits h = { s with ray := { s.ray with ports := l } } := by
  unfold State.freeUnits
  split
  · exact ⟨_, rfl⟩
  · exact ⟨_, rfl⟩

theorem freeUnits_rxSeq (s : State) (h : Nat × Nat × Nat) (p : Nat) : ((s.freeUnits h).port p).rxSeq = (s.port p).rxSeq := by
  unfold State.freeUnits
  split
  · rfl
  · by_cases hp : h.1 = p
    · subst hp
      rw [port_modPort]
    · rw [port_modPort_other _ _ hp]

/-- A frame that is taken: its number is the last of its order, none waits at its port, and all but the ports is as its effect
leaves it. -/
theorem taken_spec (s : State) (p : Nat) (f : RayFrame) (hseq : f.xseq = sget 0 s.ray.xRx (s.rxKey p f)) :
    let u := (s.taken p f).modPort p fun x => { x with early := [] }
    (∃ l, u = { (s.counted p f).frameEffect p f with ray := { ((s.counted p f).frameEffect p f).ray with ports := l } }) ∧
    sget 0 u.ray.xRx (s.rxKey p f) = (f.xseq + 1) % 65536 ∧ (u.port p).early = [] ∧ (u.port p).rxSeq = (s.port p).rxSeq ∧
    u.gn = s.gn ∧ u.adm = s.adm := by
  intro u
  have hkeep := frameEffect_keeps (s.counted p f) p f
  have hu : u = (((s.counted p f).frameEffect p f).freeUnits (p, f.pool, frameUnits f)).modPort p fun x => { x with early := [] } := rfl
  obtain ⟨l, hl⟩ := freeUnits_rest ((s.counted p f).frameEffect p f) (p, f.pool, frameUnits f)
  have hrx := freeUnits_rxSeq ((s.counted p f).frameEffect p f) (p, f.pool, frameUnits f) p
  have hcount : sget 0 (s.counted p f).ray.xRx (s.rxKey p f) = (f.xseq + 1) % 65536 := by
    rw [hseq]
    exact sget_sset_same ..
  have hport : ((s.counted p f).port p).rxSeq = (s.port p).rxSeq := rfl
  have hgn : (s.counted p f).gn = s.gn ∧ (s.counted p f).adm = s.adm := ⟨rfl, rfl⟩
  generalize s.counted p f = c at hkeep hu hl hrx hcount hport hgn ⊢
  generalize c.frameEffect p f = e at hkeep hu hl hrx ⊢
  simp only [State.effectKeeps, Prod.mk.injEq] at hkeep
  obtain ⟨hegn, headm, hexrx, heports⟩ := hkeep
  have heport : (e.port p).rxSeq = (c.port p).rxSeq := by unfold State.port; rw [heports]
  have hux : u.port p = { (e.freeUnits (p, f.pool, frameUnits f)).port p with early := [] } := by rw [hu, port_modPort]
  refine ⟨⟨_, by rw [hu, hl]; rfl⟩, ?_, by rw [hux], ?_, ?_, ?_⟩
  · rw [hu, hl]
    exact (congrArg (fun m => sget 0 m (s.rxKey p f)) hexrx).trans hcount
  · rw [hux]
    exact hrx.trans (heport.trans hport)
  · rw [hu, hl]
    exact hegn.trans hgn.1
  · rw [hu, hl]
    exact headm.trans hgn.2

/-! ## The bytes of a frame -/

theorem frameData_length (f : RayFrame) : (frameData f).length = f.payload.length := by
  simp [frameData]

theorem frameData_get (f : RayFrame) {k : Nat} (h : k < f.payload.length) (h' : k < ((frameData f).map landedByte).length) :
    ((frameData f).map landedByte)[k] = if bit f.poison (k / 64) then 0xFF else f.payload.getD k 0 := by
  simp [frameData, landedByte, List.getD_eq_getElem?_getD, h]

theorem frameData_vals (f : RayFrame) : (frameData f).map (·.val) = f.payload := by
  apply List.ext_getElem
  · simp [frameData]
  · intro i hi hi'
    simp [frameData]

theorem frameData_sound {f : RayFrame} (h : f.poison = 0) : (frameData f).any (·.poison) = false := by
  simp [frameData, h, bit]

theorem num_congr {x y : Tile} (h : x.scratch = y.scratch) (o n : Nat) : x.num o n = y.num o n := by
  unfold Tile.num Tile.bytes
  simp only [byte_congr h]

/-- One sound element that a frame adds. -/
theorem frameLand_adds {t : Nat} (h2 : f.type = 2) (ha : f.akind = false) (ht : s.siteOf f.dstTile = some t)
    (hlen : f.payload.length = 4) (hpoison : f.poison = 0) (hin : f.addr % 2 ^ 20 + 4 ≤ scratchSize)
    (hsound : (s.tile t).firstBad [(f.addr % 2 ^ 20, 4)] = none) : ((s.frameLand p f).tile t).num (f.addr % 2 ^ 20) 4 =
      (satAdd32 (BitVec.ofNat 32 ((s.tile t).num (f.addr % 2 ^ 20) 4)) (BitVec.ofNat 32 (leNat f.payload))).1.toNat := by
  have heq : s.frameLand p f = (s.addScratch (.ray p) false t (s.stepOfTag f.stepTag) (f.addr % 2 ^ 20) (frameData f)).markInbound 1152 t
      (f.addr % 2 ^ 20) (frameData f).length := by
    unfold State.frameLand
    dsimp only
    rw [ha, ht, h2]
    rfl
  obtain ⟨hnum, -⟩ := addScratch_adds (s := s) (ag := .ray p) (again := false) (site := t) (tag := s.stepOfTag f.stepTag)
    (o := f.addr % 2 ^ 20) (d := frameData f) ((frameData_length f).trans hlen) (frameData_sound hpoison) hin hsound rfl
  rw [frameData_vals] at hnum
  rw [heq, ← hnum]
  refine num_congr ?_ _ _
  unfold State.markInbound
  split
  · rfl
  · exact modTile_tile_keeps Tile.scratch _ _ _ _ fun _ => rfl

end

/-! ## The statement -/

section
variable {s : State} (hs : s.Serves) {p : Nat} (hp : p < 16) (f : RayFrame)
include hs hp

theorem frames_come : Ends (exec (.data p f) s) (s.frameIn p { f with type := 1 }) ∧
    Ends (exec (.add p f) s) (s.frameIn p { f with type := 2 }) ∧ Ends (exec (.glint p f) s) (s.frameIn p { f with type := 3 }) ∧
    Ends (exec (.giveFrame p f) s) (s.frameIn p { f with type := 4 }) ∧
    Ends (exec (.bulk p f) s) (s.frameIn p { f with type := 8 }) ∧
    Ends (exec (.specFrameRelease p) s) (s.drainEarly (s.earlyCount p) p) :=
  have hpart : decide (p < 16) = true := decide_eq_true hp
  ⟨show Ends (execData p f s) _ from runPart_ends_of hpart hs.on rfl, show Ends (execAdd p f s) _ from runPart_ends_of hpart hs.on rfl,
    show Ends (execGlint p f s) _ from runPart_ends_of hpart hs.on rfl,
    show Ends (execGiveFrame p f s) _ from runPart_ends_of hpart hs.on rfl,
    show Ends (execBulk p f s) _ from runPart_ends_of hpart hs.on rfl,
    show Ends (execSpecFrameRelease p s) _ from runPart_ends_of hpart hs.on rfl⟩

theorem frames_closed (h : s.portOpen p = false) : Ends (exec (.idle p f) s) s ∧ Ends (exec (.frameFailedCrc p f) s) s ∧
    ∀ again, Ends (exec (.audit p f again) s) s :=
  have hpart : decide (p < 16) = true := decide_eq_true hp
  have hno : ¬s.portOpen p = true := ne_true_of_eq_false h
  ⟨show Ends (execIdle p f s) s from runPart_ends_of hpart hs.on (if_neg hno),
    show Ends (execFrameFailedCrc p f s) s from runPart_ends_of hpart hs.on (if_neg hno),
    fun again => show Ends (execAudit p f again s) s from runPart_ends_of hpart hs.on (if_pos (by simp [h]))⟩

theorem idle_ends (h : s.portOpen p = true) : Ends (exec (.idle p f) s) (s.acceptSeq p f).2 := by
  refine show Ends (execIdle p f s) _ from runPart_ends_of (decide_eq_true hp) hs.on ((if_pos h).trans ?_)
  by_cases hseq : f.seq = ((s.port p).rxSeq + 1) % 4096
  · rw [acceptSeq_next s hseq]; rfl
  · rw [acceptSeq_other s hseq]; rfl

theorem crc_ends (h : s.portOpen p = true) : Ends (exec (.frameFailedCrc p f) s) (s.modPort p fun x => { x with nakDue := true }) :=
  show Ends (execFrameFailedCrc p f s) _ from runPart_ends_of (decide_eq_true hp) hs.on (if_pos h)

/-- The sum of an AUDIT frame over the units of a port. -/
def auditSum (x : Port) (f : RayFrame) : Int :=
  ((fieldAt f.payload 0 4 + sumOf x.occ + sumOf x.freed + x.rSent : Nat) : Int) - (fieldAt f.payload 4 4 : Int) - (sumOf x.rxAlloc : Int)

theorem audit_hears (h : s.portOpen p = true) (again : Bool)
    (hno : ¬f.seq = ((s.port p).rxSeq + 1) % 4096 ∨ again = true ∨ ((s.acceptSeq p f).2.port p).needSync = true ∨
      auditSum ((s.acceptSeq p f).2.port p) f % 2 ^ 32 = 0) : Ends (exec (.audit p f again) s) (s.acceptSeq p f).2 := by
  refine show Ends (execAudit p f again s) _ from runPart_ends_of (decide_eq_true hp) hs.on ((if_neg (by simp [h])).trans ?_)
  by_cases hseq : f.seq = ((s.port p).rxSeq + 1) % 4096
  · rw [acceptSeq_next s hseq] at hno ⊢
    refine if_pos ?_
    have hno' := hno.resolve_left (not_not.2 hseq)
    unfold auditSum at hno'
    simpa only [Bool.or_eq_true, beq_iff_eq, or_assoc] using hno'
  · rw [acceptSeq_other s hseq]

theorem audit_retrains (h : s.portOpen p = true) (hseq : f.seq = ((s.port p).rxSeq + 1) % 4096)
    (hsync : ((s.acceptSeq p f).2.port p).needSync = false) (hsum : auditSum ((s.acceptSeq p f).2.port p) f % 2 ^ 32 ≠ 0) :
    Ends (exec (.audit p f false) s) ((((((s.acceptSeq p f).2.raise (rayPage p) 4).bump (rayPage p) 0x108).bumpSat (rayPage p)
      offErrCount).consFault 1 (auditSum ((s.acceptSeq p f).2.port p) f)).retrainPort p) := by
  refine show Ends (execAudit p f false s) _ from runPart_ends_of (decide_eq_true hp) hs.on ((if_neg (by simp [h])).trans ?_)
  rw [acceptSeq_next s hseq] at hsync hsum ⊢
  refine if_neg ?_
  unfold auditSum at hsum
  dsimp only at hsync hsum ⊢
  simp only [hsync, Bool.or_self, Bool.false_or, beq_iff_eq]
  exact hsum

end

/-- The hearing of a frame, by its SEQ and NAK. -/
theorem acceptSeq_spec (s : State) (p : Nat) (f : RayFrame) :
    let x := s.port p
    let u := (s.acceptSeq p f).2
    (f.nak = false → f.seq = (x.rxSeq + 1) % 4096 →
      (u.port p).rxSeq = f.seq ∧ (u.port p).ackDue = true ∧ (u.port p).unacked = (x.acked f.ack).unacked ∧
      (f.crPool < 70 → 0 < f.crUnits → sget 0 (u.port p).credits f.crPool = sget 0 x.credits f.crPool + f.crUnits)) ∧
    (f.seq ≠ (x.rxSeq + 1) % 4096 → (u.port p).rxSeq = x.rxSeq ∧ (u.port p).early = x.early ∧
      (if seqDist f.seq x.rxSeq < 2048 then (u.port p).ackDue = true else (u.port p).nakDue = true)) := by
  intro x u
  obtain ⟨hrx, hearly, hcredits, hunacked⟩ := Port.heardAck_keeps x f
  refine ⟨fun _ hseq => ?_, fun hseq => ?_⟩
  · have hu : u.port p = (x.heardAck f).tookSeq f := by
      show (s.acceptSeq p f).2.port p = _
      rw [acceptSeq_next s hseq]
      exact (port_modPort ..).trans (congrArg (·.tookSeq f) (heardAck_port ..))
    obtain ⟨hseq', hdue, hun, -, -⟩ := Port.tookSeq_keeps (x.heardAck f) f
    rw [hu]
    exact ⟨hseq', hdue, hun.trans hunacked, fun hpool hunits => by rw [Port.tookSeq_credits _ hpool hunits, hcredits]⟩
  · have hu : u.port p = (x.heardAck f).lostSeq f := by
      show (s.acceptSeq p f).2.port p = _
      rw [acceptSeq_other s hseq]
      exact (port_modPort ..).trans (congrArg (·.lostSeq f) (heardAck_port ..))
    obtain ⟨hseq', hbuf, -, hdue⟩ := Port.lostSeq_keeps (x.heardAck f) f
    rw [hu]
    rw [hrx] at hdue
    exact ⟨hseq'.trans hrx, hbuf.trans hearly, hdue⟩

/-- A frame that passes through goes on with its stream's number. -/
theorem deliver_passes {s : State} {p : Nat} {f : RayFrame} {st : Stream} (h : f.stream ≠ 0xFFF)
    (hst : s.inStream (inDirOf p f s.phys) f = some st) (hd : st.deliver = false) : s.deliver p f = s.enqueue st.outPort
      { f with stream := st.outStream, pool := st.outQueue, detour := false, dirIn := 0 } (some (p, f.pool, frameUnits f)) := by
  unfold State.deliver
  dsimp only
  rw [if_neg (by simpa using h), hst]
  exact if_neg (by simp [hd])

/-- A frame that comes in order and is taken at once, as its effect leaves the module. -/
theorem frameIn_spec {s : State} {p : Nat} {f : RayFrame} (h : s.TakesFrame p f) :
    let u := s.frameIn p f
    (sget 0 u.ray.xRx (s.rxKey p f) = (f.xseq + 1) % 65536 ∧ (u.port p).early = [] ∧ (u.port p).rxSeq = f.seq ∧ u.gn = s.gn ∧
      u.adm = s.adm) ∧
    ∃ r y l, let c : State := { s with regs := r, ray := y }
      u = { c.frameEffect p f with ray := { (c.frameEffect p f).ray with ports := l } } ∧ y.ck = s.ray.ck ∧ y.map = s.ray.map := by
  intro u
  obtain ⟨r, l, hu, hphys, hrx⟩ := frameIn_takes h
  dsimp only at hu hphys hrx
  have hkey : State.rxKey { s with regs := r, ray := { s.ray with ports := l } } p f = s.rxKey p f := by
    unfold State.rxKey
    rw [hphys]
  obtain ⟨⟨l', hl⟩, hxrx, hearly, hseq, hgn, hadm⟩ := taken_spec { s with regs := r, ray := { s.ray with ports := l } } p f
    (by rw [hkey]; exact h.order.2)
  rw [hkey] at hxrx
  have hu' : u = _ := hu
  rw [← hu'] at hl hxrx hearly hseq hgn hadm
  exact ⟨⟨hxrx, hearly, hseq.trans hrx, hgn, hadm⟩, r, _, l', hl, rfl, rfl⟩

/-- The bytes of a frame whose effect is at a tile of this module, and the counters that it names. -/
theorem frameEffect_lands {s : State} {p : Nat} {f : RayFrame} {t : Nat} (h1 : f.type = 1) (ha : f.akind = false)
    (ht : s.siteOf f.dstTile = some t) :
    let e := s.frameEffect p f
    e.mem = s.mem ∧
    (∀ k, k < f.payload.length → f.addr % 2 ^ 20 + k < scratchSize →
      (e.tile t).byte (f.addr % 2 ^ 20 + k) = if bit f.poison (k / 64) then 0xFF else f.payload.getD k 0) ∧
    (∀ i, i ≠ t → (e.tile i).scratch = (s.tile i).scratch) ∧
    (f.last = true → f.ccEn = true → (e.tile t).cc =
      sput (s.tile t).cc f.cc ((sget {} (s.tile t).cc f.cc).add 1 (s.speculative (s.stepOfTag f.stepTag)))) := by
  intro e
  obtain ⟨hmem, hmap, hspec, hscr, hcc, hother⟩ := frameLand_bytes (p := p) h1 ha ht
  have he : e = (s.frameLand p f).countLast f (s.stepOfTag f.stepTag) :=
    frameEffect_data (by simp [h1]) (by simp [h1]) (by simp [h1])
  obtain ⟨ts, c, hrest⟩ := countLast_rest (s.frameLand p f) f (s.stepOfTag f.stepTag)
  have hscratch : ∀ i, (e.tile i).scratch = ((s.frameLand p f).tile i).scratch := fun i => by
    rw [he]
    exact countLast_tile Tile.scratch (fun _ _ => rfl) ..
  refine ⟨by rw [he, hrest]; exact hmem, fun k hk hin => ?_, fun i hi => ?_, fun hl hc => ?_⟩
  · have hk' : k < ((frameData f).map landedByte).length := by rw [List.length_map, frameData_length]; exact hk
    rw [byte_congr ((hscratch t).trans hscr), Tile.byte_setBytes_in _ _ _ _ hk' hin, frameData_get f hk]
  · rw [hscratch, hother i hi]
  · have hsite : (s.frameLand p f).siteOf f.dstTile = some t := by
      unfold State.siteOf
      rw [hmap]
      exact ht
    rw [he, countLast_cc _ hl hc hsite, hcc, hspec]

/-- The collective counter that the last frame of a transfer names. -/
theorem frameEffect_counts {s : State} {p : Nat} {f : RayFrame} (h : f.type = 1 ∨ f.type = 2) (hl : f.last = true)
    (hc : f.ckEn = true) : sget 0 (s.frameEffect p f).ray.ck f.ck = (sget 0 s.ray.ck f.ck + 1) % 2 ^ 32 := by
  have hkeep := frameLand_keeps s p f
  simp only [State.dataKeeps, Prod.mk.injEq] at hkeep
  obtain ⟨-, -, hray, -⟩ := hkeep
  rw [frameEffect_data (by omega) (by omega) (by omega), countLast_ck _ hl hc, hray]

/-- A frame for a tile that no site carries has no effect in this module. -/
theorem frameEffect_lost {s : State} {p : Nat} {f : RayFrame} (h1 : f.type = 1) (ha : f.akind = false)
    (ht : s.siteOf f.dstTile = none) : (s.frameEffect p f).mem = s.mem ∧ (s.frameEffect p f).tiles = s.tiles := by
  have hland : s.frameLand p f = s := by
    unfold State.frameLand
    dsimp only
    rw [ha, ht]
    rfl
  obtain ⟨ts, c, hrest⟩ := countLast_rest s f (s.stepOfTag f.stepTag)
  rw [frameEffect_data (by simp [h1]) (by simp [h1]) (by simp [h1]), hland]
  exact ⟨by rw [hrest], countLast_none _ ht⟩

/-- Settles O40: the SEQ of a frame, the frames that are taken, and the effect of each type. -/
theorem framesComplete : Obligations.FramesComplete := by
  unfold Obligations.FramesComplete
  refine ⟨fun s p f hs hp => ?_, fun s p f => ?_, fun s p f st h hst hd => deliver_passes h hst hd, fun s p f h => ?_,
    fun s p f h hearly htwin => ?_⟩
  · obtain ⟨h1, h2, h3, h4, h8, hspec⟩ := frames_come hs hp f
    exact ⟨h1, h2, h3, h4, h8, hspec, frames_closed hs hp f, fun ho => ⟨idle_ends hs hp f ho, crc_ends hs hp f ho,
      audit_hears hs hp f ho, audit_retrains hs hp f ho⟩⟩
  · obtain ⟨hnext, hother⟩ := acceptSeq_spec s p f
    obtain ⟨r, e, l, hrest⟩ := acceptSeq_rest s p f
    exact ⟨hnext, hother, acceptSeq_nak s, by rw [hrest], by rw [hrest], frameIn_closed s, frameIn_other s⟩
  · intro u tag o
    obtain ⟨hall, r, y, l, hu, hck, hmap⟩ := frameIn_spec h
    change u = _ at hu
    generalize hc : ({ s with regs := r, ray := y } : State) = c at hu
    have htile : ∀ i, u.tile i = (c.frameEffect p f).tile i := fun i => by rw [hu]; rfl
    have hmem : u.mem = (c.frameEffect p f).mem := by rw [hu]
    have hcmem : c.mem = s.mem ∧ c.tiles = s.tiles ∧ c.glints = s.glints ∧ c.nextId = s.nextId := by
      rw [← hc]; exact ⟨rfl, rfl, rfl, rfl⟩
    have hctile : ∀ i, c.tile i = s.tile i := fun i => by rw [← hc]; rfl
    have hcsite : ∀ n, c.siteOf n = s.siteOf n := fun n => by rw [← hc]; rfl
    have hctag : c.stepOfTag f.stepTag = tag ∧ c.speculative tag = s.speculative tag := by rw [← hc]; exact ⟨rfl, rfl⟩
    have hcray : c.ray = y := by rw [← hc]
    obtain ⟨hcm, hct, hcg, hcn⟩ := hcmem
    refine ⟨hall, fun t h1 ha ht => ?_, fun h1 ha ht => ?_, fun ht hl hk => ?_, fun _ hok => State.frameIn_memOk s p f hok,
      fun t h2 ha ht hlen hp0 hin hsound => ?_, fun t h3 ht => ?_, fun t h4 ht => ?_⟩
    · obtain ⟨hm, hbytes, hothers, hcc⟩ := frameEffect_lands (p := p) h1 ha ((hcsite _).trans ht)
      refine ⟨hmem.trans (hm.trans hcm), fun k hk hin => by rw [htile]; exact hbytes k hk hin, fun i hi => by
        rw [htile, hothers i hi, hctile], fun hl hce => ?_⟩
      rw [htile, hcc hl hce, hctile, hctag.1, hctag.2]
    · obtain ⟨hm, hts⟩ := frameEffect_lost (p := p) h1 ha ((hcsite _).trans ht)
      exact ⟨hmem.trans (hm.trans hcm), by rw [hu]; exact hts.trans hct⟩
    · have hcount := frameEffect_counts (s := c) (p := p) ht hl hk
      rw [hcray, hck] at hcount
      rw [hu]
      exact hcount
    · have hnum := frameLand_adds (s := c) (p := p) h2 ha ((hcsite _).trans ht) hlen hp0 hin (by rw [hctile]; exact hsound)
      rw [hctile] at hnum
      refine (num_congr ?_ _ _).trans hnum
      rw [htile, frameEffect_data (by simp [h2]) (by simp [h2]) (by simp [h2])]
      exact countLast_tile Tile.scratch (fun _ _ => rfl) ..
    · intro m x
      have heq := frameEffect_glint (s := c) (p := p) h3
      rw [hcsite, ht] at heq
      dsimp only at heq
      refine ⟨hmem.trans (by rw [heq]; exact hcm), ?_⟩
      rw [hu, heq]
      show c.glints ++ _ = _
      rw [hcg, hcn]
      unfold State.glintOf
      rw [hctag.1, hcray, hmap]
    · have heq := frameEffect_give (s := c) (p := p) h4
      rw [hcsite, ht] at heq
      refine ⟨hmem.trans (by rw [heq]; exact hcm), ?_⟩
      rw [htile, heq]
      refine (congrArg Tile.kc (State.tile_modTile_same ..)).trans ?_
      show sput (c.tile t).kc f.cc ((sget {} (c.tile t).kc f.cc).add f.giveN (c.speculative (c.stepOfTag f.stepTag))) = _
      rw [hctile, hctag.1, hctag.2]
  · intro u
    have hu : u = _ := drainEarly_takes h.takable hearly htwin
    obtain ⟨-, hxrx, hnone, -⟩ := taken_spec s p f h.order.2
    rw [hu]
    exact ⟨hxrx, hnone⟩

end Sys2Proof.Machine
end

section
/-!
PROOF. Sessions: the frame of every session command, what each command does in it, the handshake, and the messages that
are discarded.
-/
namespace Sys2Proof.Machine

/-! ## The frame of a session command -/

/-- The sessions once COMMAND `ctr` of `sid` has been taken. -/
def State.heardMg (s : State) (sid ctr : Nat) : Mgmt :=
  { s.mg with sessions := s.mg.sessions.map fun y => if y.sid == sid then { y with ctr := some ctr, heard := s.now } else y }

def State.heardFrom (s : State) (sid ctr : Nat) : State := s.modMg fun g =>
  { g with sessions := g.sessions.map fun y => if y.sid == sid then { y with ctr := some ctr, heard := s.now } else y }

/-- The journal entry of the COMMAND, before it acts. -/
def State.commandEntry (s : State) (sid ctr code : Nat) (fields : List (List Byte)) (arg : Option Nat) (x : Sess) :
    JEnt × State :=
  (s.heardFrom sid ctr).sessEntry (some x) code stPending
    (natLe 4 sid ++ natLe 8 ctr ++ Config.message (256 + code) fields) arg

def appendOf (e : JEnt × State) : Nat × State := e.2.append e.1

/-- What a COMMAND does once it is in the journal as `e`. -/
def Sess.conclude (x : Sess) (ctr : Nat) (e : JEnt × State) (r : Nat × List Byte × State) : State :=
  if r.1 == stPending then r.2.2 else (r.2.2.jFinish (appendOf e).1 r.1 (leNat r.2.1) e.1).replySess x ctr r.1 r.2.1

section
variable {s : State} {sid ctr code : Nat} {fields : List (List Byte)} {tag : List Byte} {x : Sess}

theorem sessCmd_authentic (h : s.Authentic sid ctr code fields tag x) (arg : Option Nat) (may : Role → Bool)
    (act : Sess → Nat → State → Nat × List Byte × State) :
    s.sessCmd sid ctr code fields tag arg may act =
      x.conclude ctr (s.commandEntry sid ctr code fields arg x)
        (if may (roleOf x.origin) then
          act x (appendOf (s.commandEntry sid ctr code fields arg x)).1 (appendOf (s.commandEntry sid ctr code fields arg x)).2
        else (stAccess, [], (appendOf (s.commandEntry sid ctr code fields arg x)).2)) := by
  obtain ⟨-, hx, ht, hc⟩ := h
  have hnew : (x.ctr.all (· < ctr)) = true := by simpa [Option.all_eq_true] using hc
  have hgo : (tag != tagOfMsg x.key sid ctr (Config.message (256 + code) fields) || !(x.ctr.all (· < ctr))) = false := by
    rw [hnew, ht]
    simp
  unfold State.sessCmd
  rw [hx]
  exact if_neg (ne_true_of_eq_false hgo)

theorem sessCmd_discards (arg : Option Nat) (may : Role → Bool) (act : Sess → Nat → State → Nat × List Byte × State)
    (h : ∀ x ∈ s.mg.sessions.find? (·.sid == sid),
      tag ≠ tagOfMsg x.key sid ctr (Config.message (256 + code) fields) ∨ ∃ c ∈ x.ctr, ctr ≤ c) :
    s.sessCmd sid ctr code fields tag arg may act = s.discardCmd sid ctr code (s.mg.sessions.find? (·.sid == sid))
      (natLe 4 sid ++ natLe 8 ctr ++ Config.message (256 + code) fields) := by
  unfold State.sessCmd
  cases hx : s.mg.sessions.find? (·.sid == sid) with
  | none => rfl
  | some x =>
    refine if_pos ?_
    rcases h x hx with ht | ⟨c, hc, hle⟩
    · simp [ht]
    · have hold : (x.ctr.all (· < ctr)) = false := by
        rw [Option.mem_def.1 hc]
        simpa using hle
      simp [hold]

end

/-- What the answered COMMAND `code` leaves: the management state, the REPLY, and its entry in the journal. -/
def Concluded (s : State) (x : Sess) (ctr code st : Nat) (d : List Byte) (g : Mgmt) (u : State) : Prop :=
  u.mg = g ∧ u.out = s.out ++ [x.reply ctr st d] ∧ u.host.nextSeq = s.host.nextSeq + 1 ∧
  (∃ e, sfind u.host.journal (s.host.nextSeq % 65536) = some e ∧ e.opcode = code ∧ e.status = st ∧
    e.cls = classOfOrigin x.origin ∧ e.source = sourceOf x.origin ∧ e.seq = s.host.nextSeq) ∧
  u.body = { s.body with mg := g, host := u.host, ag := u.body.ag }

/-- The action of a command leaves messages, the host complex and all but management and Afterglow to the frame. -/
structure ActsIn (a u : State) : Prop where
  host : u.host = a.host
  out : u.out = a.out
  body : u.body = { a.body with mg := u.mg, ag := u.body.ag }

/-- The host complex once the entry `e` of a COMMAND, the last that `h` has appended, has its outcome. -/
def HostSt.answered (h : HostSt) (n : Nat) (e : JEnt) (st gt : Nat) (d : List Byte) : HostSt :=
  { h with journal := sput h.journal (n % 65536) { e with seq := n, status := st, gtDone := gt, result := leNat d % 2 ^ 32 } }

theorem conclude_concluded (s : State) (sid ctr code : Nat) (fields : List (List Byte)) (arg : Option Nat) (x : Sess)
    {st : Nat} {d : List Byte} {u : State} (hst : st ≠ stPending)
    (hu : ActsIn (appendOf (s.commandEntry sid ctr code fields arg x)).2 u) :
    ∃ h o, x.conclude ctr (s.commandEntry sid ctr code fields arg x) (st, d, u) = { u with host := h, out := o } ∧
      Concluded s x ctr code st d u.mg { u with host := h, out := o } := by
  obtain ⟨hh, ho, hb⟩ := hu
  have hfind : sfind u.host.journal (s.host.nextSeq % 65536) =
      some { (s.commandEntry sid ctr code fields arg x).1 with seq := s.host.nextSeq } := by
    rw [hh]
    exact sfind_sput_same ..
  refine ⟨u.host.answered s.host.nextSeq (s.commandEntry sid ctr code fields arg x).1 st u.gn.count d,
    u.out ++ [x.reply ctr st d], ?_, rfl, ?_, ?_, ?_, ?_⟩
  · refine (if_neg (by simpa using hst)).trans ?_
    show State.replySess (u.jFinish s.host.nextSeq st (leNat d) _) x ctr st d = _
    unfold State.jFinish
    rw [hfind]
    simp only [beq_self_eq_true, if_true]
    rfl
  · show u.out ++ _ = _
    rw [ho]
    rfl
  · show u.host.nextSeq = _
    rw [hh]
    rfl
  · exact ⟨_, sfind_sput_same .., rfl, rfl, rfl, rfl, rfl⟩
  · exact (congrArg (fun b : State => b.modHost fun _ => u.host.answered s.host.nextSeq _ st u.gn.count d) hb :)

/-- The state in which a COMMAND acts: taken, and in the journal. -/
def State.logged (s : State) (sid ctr code : Nat) (fields : List (List Byte)) (arg : Option Nat) (x : Sess) : State :=
  (appendOf (s.commandEntry sid ctr code fields arg x)).2

section
variable (s : State) (sid ctr code : Nat) (fields : List (List Byte)) (arg : Option Nat) (x : Sess)

theorem logged_eq : s.logged sid ctr code fields arg x =
    { s with mg := s.heardMg sid ctr, freeCount := s.freeCount + 1, host := (s.logged sid ctr code fields arg x).host } := rfl

end

section
variable {s : State} {sid ctr code : Nat} {fields : List (List Byte)} {tag : List Byte} {x : Sess} {arg : Option Nat}
  {may : Role → Bool} {act : Sess → Nat → State → Nat × List Byte × State} {c : Instr}
  (h : s.Authentic sid ctr code fields tag x)
  (hc : exec c s = runOn s fun s => s.sessCmd sid ctr code fields tag arg may act)
include h hc

/-- A COMMAND whose action completes with `st`. -/
theorem command_ends {st : Nat} {d : List Byte} {u : State} (hm : may (roleOf x.origin) = true)
    (ha : ∀ n, act x n (s.logged sid ctr code fields arg x) = (st, d, u)) (hst : st ≠ stPending)
    (hu : ActsIn (s.logged sid ctr code fields arg x) u) :
    ∃ v, Ends (exec c s) v ∧ Concluded s x ctr code st d u.mg v ∧ v.mg = u.mg ∧ v.ag = u.ag ∧ v.regs = u.regs := by
  obtain ⟨w, o, he, hv⟩ := conclude_concluded s sid ctr code fields arg x (st := st) (d := d) (u := u) hst hu
  refine ⟨{ u with host := w, out := o }, ?_, hv, rfl, rfl, rfl⟩
  rw [hc]
  refine runOn_ends_of h.serves.on ?_
  rw [sessCmd_authentic h, if_pos hm, ← he]
  exact congrArg (x.conclude ctr _) (ha _)

/-- A COMMAND that the role may not give. -/
theorem command_refused (hm : may (roleOf x.origin) = false) :
    ∃ u, Ends (exec c s) u ∧ Concluded s x ctr code stAccess [] (s.heardMg sid ctr) u ∧ u.ag = s.ag := by
  obtain ⟨w, o, he, hv⟩ := conclude_concluded s sid ctr code fields arg x (st := stAccess) (d := [])
    (u := s.logged sid ctr code fields arg x) (by decide) ⟨rfl, rfl, rfl⟩
  refine ⟨{ s.logged sid ctr code fields arg x with host := w, out := o }, ?_, hv, rfl⟩
  rw [hc]
  refine runOn_ends_of h.serves.on ?_
  rw [sessCmd_authentic h, if_neg (ne_true_of_eq_false hm), ← he]
  rfl

/-- A COMMAND that changes nothing but the management state and answers `st`. -/
theorem command_same {st : Nat} {d : List Byte} (hm : may (roleOf x.origin) = true) (hst : st ≠ stPending)
    (ha : ∀ n, act x n (s.logged sid ctr code fields arg x) = (st, d, s.logged sid ctr code fields arg x)) :
    ∃ u, Ends (exec c s) u ∧ Concluded s x ctr code st d (s.heardMg sid ctr) u ∧ u.ag = s.ag := by
  obtain ⟨v, he, hv, -, hg, -⟩ := command_ends h hc hm ha hst ⟨rfl, rfl, rfl⟩
  exact ⟨v, he, hv, hg⟩

end

/-- A COMMAND that is not authentic, or not new. -/
theorem command_drops {s : State} {sid ctr code : Nat} {fields : List (List Byte)} {tag : List Byte} {arg : Option Nat}
    {may : Role → Bool} {act : Sess → Nat → State → Nat × List Byte × State} {c : Instr} (hs : s.Serves)
    (hc : exec c s = runOn s fun s => s.sessCmd sid ctr code fields tag arg may act)
    (h : ∀ x ∈ s.mg.sessions.find? (·.sid == sid),
      tag ≠ tagOfMsg x.key sid ctr (Config.message (256 + code) fields) ∨ ∃ c ∈ x.ctr, ctr ≤ c) :
    Ends (exec c s) (s.discardCmd sid ctr code (s.mg.sessions.find? (·.sid == sid))
      (natLe 4 sid ++ natLe 8 ctr ++ Config.message (256 + code) fields)) := by
  rw [hc]
  exact runOn_ends_of hs.on (sessCmd_discards arg may act h)

/-! ## Roles -/

theorem sess_operator (x : Sess) : operatorOnly (roleOf x.origin) = decide (x.role < 2) := by
  unfold Sess.origin
  by_cases h0 : x.role = 0
  · simp [h0, roleOf, operatorOnly]
  · by_cases h1 : x.role = 1
    · simp [h1, roleOf, operatorOnly]
    · have h2 : ¬x.role < 2 := by omega
      simp [h0, h1, h2, roleOf, operatorOnly]

theorem sess_custodian (x : Sess) : custodianOnly (roleOf x.origin) = decide (x.role = 1) := by
  unfold Sess.origin
  by_cases h0 : x.role = 0
  · simp [h0, roleOf, custodianOnly]
  · by_cases h1 : x.role = 1
    · simp [h1, roleOf, custodianOnly]
    · simp [h0, h1, roleOf, custodianOnly]

theorem sess_notDebug (x : Sess) : anyButDebug (roleOf x.origin) = decide (x.role < 2) := by
  unfold Sess.origin
  by_cases h0 : x.role = 0
  · simp [h0, roleOf, anyButDebug]
  · by_cases h1 : x.role = 1
    · simp [h1, roleOf, anyButDebug]
    · have h2 : ¬x.role < 2 := by omega
      simp [h0, h1, h2, roleOf, anyButDebug]

/-! ## The commands -/

section
variable {s : State} {sid ctr : Nat} {tag : List Byte} {x : Sess}

/-! ### FW_WRITE -/

theorem sfind_putAbove (b : Nat) (bs : List Byte) (m : Sparse Byte) {o : Nat} (h : o < b) :
    sfind (((rangeFrom b bs.length).zip bs).foldl (fun m x => sput m x.1 x.2) m) o = sfind m o := by
  have hk : ∀ x ∈ (rangeFrom b bs.length).zip bs, x.1 ≠ o := by
    intro x hx
    obtain ⟨k, -, hk⟩ := List.mem_map.1 (List.of_mem_zip hx).1
    omega
  generalize (rangeFrom b bs.length).zip bs = l at hk ⊢
  induction l generalizing m with
  | nil => rfl
  | cons y ys ih =>
    rw [List.foldl_cons, ih _ fun x hx => hk x (List.mem_cons_of_mem _ hx)]
    exact sfind_sput_other _ _ (hk y List.mem_cons_self)

theorem sfind_putAll (b : Nat) (bs : List Byte) (m : Sparse Byte) {o : Nat} (h1 : b ≤ o) (h2 : o < b + bs.length) :
    sfind (((rangeFrom b bs.length).zip bs).foldl (fun m x => sput m x.1 x.2) m) o = some (bs.getD (o - b) 0) := by
  induction bs generalizing b m with
  | nil =>
    simp only [List.length_nil] at h2
    omega
  | cons y ys ih =>
    have hr : rangeFrom b (ys.length + 1) = b :: rangeFrom (b + 1) ys.length := by
      unfold rangeFrom
      rw [List.range_succ_eq_map, List.map_cons, List.map_map]
      congr 1
      · omega
      · exact List.map_congr_left fun a _ => show a + 1 + b = a + (b + 1) by omega
    rw [List.length_cons, hr, List.zip_cons_cons, List.foldl_cons]
    by_cases ho : o = b
    · subst ho
      rw [Nat.sub_self]
      exact (sfind_putAbove (o + 1) ys _ (by omega)).trans (sfind_sput_same ..)
    · rw [ih (b + 1) _ (by omega) (by simp only [List.length_cons] at h2; omega)]
      obtain ⟨k, rfl⟩ : ∃ k, o = b + 1 + k := ⟨o - (b + 1), by omega⟩
      rw [show b + 1 + k - b = k + 1 by omega, show b + 1 + k - (b + 1) = k by omega]
      rfl

theorem unstageFw_eq (s : State) : ∃ r, s.unstageFw =
    { s with regs := r, mg := { s.mg with staging := false, stagedOk := false } } := by
  unfold State.unstageFw
  by_cases hs : (s.mg.staging || s.mg.stagedOk) = true
  · rw [if_pos hs]
    exact ⟨_, rfl⟩
  · rw [if_neg hs]
    simp only [Bool.or_eq_true, not_or, Bool.not_eq_true] at hs
    obtain ⟨h1, h2⟩ := hs
    have hg : ({ s.mg with staging := s.mg.staging, stagedOk := s.mg.stagedOk } : Mgmt) = s.mg := rfl
    rw [h1, h2] at hg
    exact ⟨s.regs, (congrArg (fun g => s.modMg fun _ => g) hg).symm⟩

/-- The management state with the bytes `d` written to a slot. -/
def Mgmt.putSlot (g : Mgmt) (slot off : Nat) (d : List Byte) : Mgmt :=
  let put (m : Sparse Byte) : Sparse Byte := ((rangeFrom off d.length).zip d).foldl (fun m x => sput m x.1 x.2) m
  if slot == 0 then { g with slotA := put g.slotA } else { g with slotB := put g.slotB }

theorem putSlot_eq (s : State) (slot off : Nat) (d : List Byte) :
    s.putSlot slot off d = { s with mg := s.mg.putSlot slot off d } := rfl

theorem putSlot_others (g : Mgmt) (slot off : Nat) (d : List Byte) :
    (g.putSlot slot off d).staging = g.staging ∧ (g.putSlot slot off d).stagedOk = g.stagedOk ∧
    (g.putSlot slot off d).sessions = g.sessions ∧ (g.putSlot slot off d).active = g.active := by
  unfold Mgmt.putSlot
  by_cases h : (slot == 0) = true
  · rw [if_pos h]
    exact ⟨rfl, rfl, rfl, rfl⟩
  · rw [if_neg h]
    exact ⟨rfl, rfl, rfl, rfl⟩

theorem slotBytes_putSlot {s : State} (g : Mgmt) (slot off : Nat) (d : List Byte) (hg : s.mg = g.putSlot slot off d) :
    s.slotBytes slot off d.length = d := by
  refine List.ext_getElem (by simp [State.slotBytes, rangeFrom]) fun k h1 h2 => ?_
  have hf : ∀ m : Sparse Byte, sfind (((rangeFrom off d.length).zip d).foldl (fun m x => sput m x.1 x.2) m) (k + off)
      = some d[k] := fun m => by
    rw [sfind_putAll off d m (Nat.le_add_left ..) (by omega), Nat.add_sub_cancel, List.getD_eq_getElem _ _ h2]
  unfold State.slotBytes
  simp only [rangeFrom, List.getElem_map, List.getElem_range, hg, Mgmt.putSlot]
  by_cases h : (slot == 0) = true
  · simp only [h, if_true]
    exact congrArg (Option.getD · _) (hf g.slotA)
  · simp only [h, if_false, Bool.false_eq_true]
    exact congrArg (Option.getD · _) (hf g.slotB)

theorem fwWrite_does (off : Nat) (d : List Byte) (h : s.Authentic sid ctr 3 [natLe 4 off, d] tag x) (hr : x.role < 2)
    (hf : d.length ≤ 61440 ∧ off + d.length ≤ 2 ^ 25) :
    ∃ u, Ends (exec (.fwWrite sid ctr off d tag) s) u ∧ Concluded s x ctr 3 stOk [] u.mg u ∧
      u.slotBytes s.otherSlot off d.length = d ∧ u.mg.staging = false ∧ u.mg.stagedOk = false ∧
      u.mg.sessions = (s.heardMg sid ctr).sessions ∧ u.mg.active = s.mg.active ∧
      (s.mg.active = 0 → u.mg.slotA = s.mg.slotA) ∧ (s.mg.active = 1 → u.mg.slotB = s.mg.slotB) := by
  obtain ⟨r, hu⟩ := unstageFw_eq (s.logged sid ctr 3 [natLe 4 off, d] none x)
  have hg : ((s.logged sid ctr 3 [natLe 4 off, d] none x).unstageFw.putSlot s.otherSlot off d).mg =
      ({ s.heardMg sid ctr with staging := false, stagedOk := false } : Mgmt).putSlot s.otherSlot off d := by
    rw [putSlot_eq, hu]
    rfl
  have hact : ∀ n : Nat, (if d.length ≤ 61440 && off + d.length ≤ 2 ^ 25 then
      doneSess [] ((s.logged sid ctr 3 [natLe 4 off, d] none x).unstageFw.putSlot s.otherSlot off d)
      else (stFormat, [], s.logged sid ctr 3 [natLe 4 off, d] none x)) =
      (stOk, [], (s.logged sid ctr 3 [natLe 4 off, d] none x).unstageFw.putSlot s.otherSlot off d) := fun _ =>
    if_pos (by simpa using hf)
  obtain ⟨v, he, hv, hm, -, -⟩ := command_ends h (c := .fwWrite sid ctr off d tag) rfl
    (by rw [sess_operator]; simpa using hr) hact (by decide)
    (by rw [putSlot_eq, hu]; exact ⟨rfl, rfl, rfl⟩)
  obtain ⟨h1, h2, h3, h4⟩ := putSlot_others { s.heardMg sid ctr with staging := false, stagedOk := false } s.otherSlot off d
  refine ⟨v, he, by rw [hm]; exact hv, slotBytes_putSlot _ _ _ _ (hm.trans hg), ?_⟩
  rw [hm, hg]
  refine ⟨h1, h2, h3, h4, fun ha => ?_, fun ha => ?_⟩
  · simp only [Mgmt.putSlot, State.otherSlot, ha]
    rfl
  · simp only [Mgmt.putSlot, State.otherSlot, ha]
    rfl

/-! ### QUOTE -/

theorem slice_append (a b : List Byte) {off n : Nat} (h : off = a.length) (hn : n ≤ b.length) :
    slice (a ++ b) off n = b.take n := by
  unfold slice
  simp only [h, List.drop_left, List.length_take, Nat.min_eq_left hn, Nat.sub_self, List.replicate_zero, List.append_nil]

theorem slice_length (b : List Byte) (off n : Nat) : (slice b off n).length = n := by
  unfold slice
  rw [List.length_append, List.length_replicate, List.length_take]
  omega

/-- Bytes of a longer list that a slice from its start keeps. -/
theorem slice_slice (b c : List Byte) {off n m : Nat} (h : off + n ≤ m) : slice (slice b 0 m ++ c) off n = slice b off n := by
  have hget : ∀ (l : List Byte) (off n k : Nat) (hk : k < (slice l off n).length), (slice l off n)[k] = l.getD (off + k) 0 := by
    intro l off n k hk
    rw [slice_length] at hk
    unfold slice
    simp only [List.getElem_append, List.length_take, List.length_drop, List.getElem_take, List.getElem_drop,
      List.getElem_replicate, List.getD_eq_getElem?_getD]
    by_cases hl : off + k < l.length
    · rw [dif_pos (by omega), List.getElem?_eq_getElem hl]
      rfl
    · rw [dif_neg (by omega), List.getElem?_eq_none (by omega)]
      rfl
  refine List.ext_getElem (by rw [slice_length, slice_length]) fun k h1 h2 => ?_
  rw [hget, hget]
  rw [slice_length] at h1
  have hlt : off + k < (slice b 0 m).length := by
    rw [slice_length]
    omega
  rw [List.getD_eq_getElem _ _ (by rw [List.length_append]; omega), List.getElem_append_left hlt, hget, Nat.zero_add]

theorem slice_mid (a m c : List Byte) {off n : Nat} (h : off = a.length) (hn : n = m.length) :
    slice (a ++ (m ++ c)) off n = m := by
  rw [slice_append a (m ++ c) h (by rw [List.length_append]; omega), hn, List.take_left]

theorem quoteBody_eq (s : State) (nonce : List Byte) : ∃ l, s.quoteBody nonce =
    slice (natLe 8 0x5154335A ++ (slice nonce 0 32 ++ (natLe 8 Config.serial.toNat ++ (s.mg.digest ++ l)))) 0 256 := by
  unfold State.quoteBody
  simp only [List.append_assoc]
  exact ⟨_, rfl⟩

theorem quoteOf_shows (s : State) (nonce : List Byte) : slice (s.quoteOf nonce) 8 32 = slice nonce 0 32 ∧
    (s.mg.digest.length = 32 → slice (s.quoteOf nonce) 48 32 = s.mg.digest) := by
  obtain ⟨l, hl⟩ := quoteBody_eq s nonce
  have hq : s.quoteOf nonce = s.quoteBody nonce ++ Config.identitySign (s.quoteBody nonce) := rfl
  rw [hq, hl]
  refine ⟨?_, fun hd => ?_⟩
  · rw [slice_slice _ _ (by decide), slice_mid _ _ _ (natLe_length ..).symm (slice_length ..).symm]
  · rw [slice_slice _ _ (by decide), ← List.append_assoc, ← List.append_assoc, slice_mid _ _ _ _ hd.symm]
    simp only [List.length_append, natLe_length, slice_length]

theorem quote_does (nonce : List Byte) (h : s.Authentic sid ctr 4 [nonce] tag x) :
    ∃ d, (∃ u, Ends (exec (.quote sid ctr nonce tag) s) u ∧ Concluded s x ctr 4 stOk d (s.heardMg sid ctr) u ∧ u.ag = s.ag) ∧
      slice d 8 32 = slice nonce 0 32 ∧ (s.mg.digest.length = 32 → slice d 48 32 = s.mg.digest) :=
  ⟨(s.logged sid ctr 4 [nonce] none x).quoteOf nonce, command_same h (c := .quote sid ctr nonce tag) rfl rfl (by decide)
    fun _ => rfl, quoteOf_shows (s.logged sid ctr 4 [nonce] none x) nonce⟩

/-! ### The certificate and the log -/

theorem certRead_does (h : s.Authentic sid ctr 5 [] tag x) :
    ∃ u, Ends (exec (.certReadAndLogRead sid ctr tag) s) u ∧
      Concluded s x ctr 5 stOk (Config.certificate ++ s.logBytes) (s.heardMg sid ctr) u ∧ u.ag = s.ag :=
  command_same h (c := .certReadAndLogRead sid ctr tag) rfl rfl (by decide) fun _ => rfl

/-! ### Keys, the configuration record and the floor -/

theorem enroll_acts (a : State) (n : Nat) (key : List Byte) (roles : Nat) : ActsIn a (a.enroll n key roles) :=
  ⟨rfl, rfl, rfl⟩

theorem revoke_acts (a : State) (n : Nat) : ActsIn a (a.revoke n) := ⟨rfl, rfl, rfl⟩

theorem keyEnroll_does (n roles : Nat) (key : List Byte) (h : s.Authentic sid ctr 6 [natLe 1 n, key, natLe 1 roles] tag x)
    (hr : x.role = 1) (hf : n < 16 ∧ key.length = 32 ∧ roles < 8) :
    ∃ u, Ends (exec (.keyEnroll sid ctr n key roles tag) s) u ∧ Concluded s x ctr 6 stOk []
      { s.heardMg sid ctr with keys := sput s.mg.keys n { key := key, roles := roles } } u ∧ u.flag mgmtPage offEvt 7 = true := by
  obtain ⟨u, he, hu, -, -, hrg⟩ := command_ends h (c := .keyEnroll sid ctr n key roles tag) rfl
    (by rw [sess_custodian]; simpa using hr) (fun _ => if_pos (by simpa [and_assoc] using hf)) (by decide) (enroll_acts ..)
  exact ⟨u, he, hu, (flag_of_regs hrg ..).trans (State.flag_raise_same _ _ _ (by decide))⟩

theorem keyRevoke_does (n : Nat) (h : s.Authentic sid ctr 7 [natLe 1 n] tag x) (hr : x.role = 1) (hf : n < 16) :
    ∃ u, Ends (exec (.keyRevoke sid ctr n tag) s) u ∧ Concluded s x ctr 7 stOk [] { s.heardMg sid ctr with
      keys := sdel s.mg.keys n, sessions := (s.heardMg sid ctr).sessions.filter fun y => !(y.slot == n) } u ∧
      u.flag mgmtPage offEvt 7 = true := by
  obtain ⟨u, he, hu, -, -, hrg⟩ := command_ends h (c := .keyRevoke sid ctr n tag) rfl
    (by rw [sess_custodian]; simpa using hr) (fun _ => if_pos hf) (by decide) (revoke_acts ..)
  exact ⟨u, he, hu, (flag_of_regs hrg ..).trans (State.flag_raise_same _ _ _ (by decide))⟩

theorem configWrite_does (rec : List Word) (h : s.Authentic sid ctr 8 (rec.map fun w => natLe 4 w.toNat) tag x)
    (hr : x.role = 1) (hf : rec.length = 7) :
    ∃ u, Ends (exec (.configWrite sid ctr rec tag) s) u ∧
      Concluded s x ctr 8 stOk [] { s.heardMg sid ctr with config := some rec } u ∧ u.ag = s.ag := by
  obtain ⟨u, he, hu, -, hg, -⟩ := command_ends h (c := .configWrite sid ctr rec tag) rfl
    (by rw [sess_custodian]; simpa using hr) (fun _ => if_pos (by simpa using hf)) (by decide) ⟨rfl, rfl, rfl⟩
  exact ⟨u, he, hu, hg⟩

theorem svnCommit_does (h : s.Authentic sid ctr 9 [] tag x) (hr : x.role = 1) :
    ∃ u, Ends (exec (.svnCommit sid ctr tag) s) u ∧ Concluded s x ctr 9 stOk [] { s.heardMg sid ctr with
      floor := max s.mg.floor (min 64 (s.fwSvn s.mg.active)) } u ∧ u.ag = s.ag := by
  obtain ⟨u, he, hu, -, hg, -⟩ := command_ends h (c := .svnCommit sid ctr tag) rfl
    (by rw [sess_custodian]; simpa using hr) (fun _ => rfl) (by decide) ⟨rfl, rfl, rfl⟩
  exact ⟨u, he, hu, hg⟩

theorem close_does (h : s.Authentic sid ctr 11 [] tag x) :
    ∃ u, Ends (exec (.close sid ctr tag) s) u ∧ Concluded s x ctr 11 stOk [] { s.heardMg sid ctr with
      sessions := (s.heardMg sid ctr).sessions.filter fun y => !(y.sid == sid) } u ∧ u.ag = s.ag := by
  obtain ⟨u, he, hu, -, hg, -⟩ := command_ends h (c := .close sid ctr tag) rfl rfl (fun _ => rfl) (by decide) ⟨rfl, rfl, rfl⟩
  exact ⟨u, he, hu, hg⟩

/-! ### AFTERGLOW_CLEAR -/

theorem agClear_later {a : State} (slot : Nat) (hc : a.ag.clearing = true) :
    a.agClear slot = { a with ag := { a.ag with clearReq := a.ag.clearReq ++ [slot] } } := if_pos hc

theorem bump_regs (s : State) (page off n : Nat) :
    ∃ r k, s.bump page off n = { s with regs := r, freeCount := k } := by
  unfold State.bump
  by_cases h : s.rdN page off + n < 2 ^ 32
  · exact ⟨_, _, if_pos h⟩
  · exact ⟨_, _, if_neg h⟩

theorem bump_fits {s : State} {page off n : Nat} (h : s.rdN page off + n < 2 ^ 32) :
    s.bump page off n = s.wrN page off (s.rdN page off + n) := if_pos h

/-- Record 0 of a clear, which is in the kept area at once. -/
def clearRecord (a : State) (slot : Nat) : AgRec :=
  let n := a.ag.heldCount + a.ag.caps.length
  { code := 0x200C, gt := a.gn.count, unlocked := !a.gn.everLock, p := [slot, n % 2 ^ 32, n / 2 ^ 32], lost := false }

/-- Afterglow once a clear has begun: its record alone is kept. -/
def Ag.Cleared (g : Ag) (r : AgRec) : Prop := g.clearing = true ∧ g.next = 1 ∧ g.caps = [] ∧ g.kept = [(0, r)]

theorem agClear_now {a : State} (slot : Nat) (hc : a.ag.clearing = false) :
    ∃ g r k, a.agClear slot = State.raise { a with regs := r, freeCount := k, ag := g } agPage 2 ∧
      g.Cleared (clearRecord a slot) := by
  unfold State.agClear
  rw [if_neg (ne_true_of_eq_false hc)]
  extract_lets n b c d e
  have hcirc : c.ag.circ = [(0, clearRecord a slot)] := rfl
  have hkept : d.ag.kept = [(0, clearRecord a slot)] := by
    show (sfind c.ag.circ 0).elim [] (fun r => [(0, r)]) = _
    rw [hcirc]
    rfl
  have hag : d.ag.Cleared (clearRecord a slot) := ⟨rfl, rfl, rfl, hkept⟩
  have hd : d = { a with ag := d.ag } := rfl
  have he : ∃ r, e = { d with regs := r } := ⟨_, rfl⟩
  clear_value e
  clear_value d
  obtain ⟨re, he⟩ := he
  generalize d.ag = g at hd hag
  obtain ⟨r, k, hb⟩ := bump_regs e agPage 0x11C 1
  rw [hb, he, hd]
  exact ⟨g, r, k, rfl, hag⟩

theorem afterglowClear_later (h : s.Authentic sid ctr 10 [] tag x) (hr : x.role = 1) (hcl : s.ag.clearing = true) :
    ∃ u, Ends (exec (.afterglowClear sid ctr tag) s) u ∧ Concluded s x ctr 10 stOk [] (s.heardMg sid ctr) u ∧
      u.ag = { s.ag with clearReq := s.ag.clearReq ++ [x.slot] } := by
  have ha := agClear_later (a := s.logged sid ctr 10 [] none x) x.slot hcl
  obtain ⟨u, he, hu, -, hg, -⟩ := command_ends h (c := .afterglowClear sid ctr tag) rfl
    (by rw [sess_custodian]; simpa using hr) (fun _ => congrArg (doneSess []) ha) (by decide) ⟨rfl, rfl, rfl⟩
  exact ⟨u, he, hu, hg⟩

theorem afterglowClear_now (h : s.Authentic sid ctr 10 [] tag x) (hr : x.role = 1) (hcl : s.ag.clearing = false) :
    ∃ u, Ends (exec (.afterglowClear sid ctr tag) s) u ∧ Concluded s x ctr 10 stOk [] (s.heardMg sid ctr) u ∧
      u.ag.clearing = true ∧ u.ag.next = 1 ∧ u.ag.caps = [] ∧ u.flag agPage offEvt 2 = true ∧
      ∃ r, u.ag.kept = [(0, r)] ∧ r.code = 0x200C := by
  obtain ⟨g, r, k, ha, h1, h2, h3, h4⟩ := agClear_now (a := s.logged sid ctr 10 [] none x) x.slot hcl
  obtain ⟨u, he, hu, -, hg, hrg⟩ := command_ends h (c := .afterglowClear sid ctr tag) rfl
    (by rw [sess_custodian]; simpa using hr) (fun _ => congrArg (doneSess []) ha) (by decide) ⟨rfl, rfl, rfl⟩
  refine ⟨u, he, hu, ?_⟩
  rw [hg]
  exact ⟨h1, h2, h3, (flag_of_regs hrg ..).trans (State.flag_raise_same _ _ _ (by decide)), _, h4, rfl⟩

/-! ### Register accesses -/

theorem heardMg_debug (s : State) (sid ctr : Nat) :
    (s.heardMg sid ctr).sessions.any (·.role == 2) = s.mg.sessions.any (·.role == 2) := by
  show (s.mg.sessions.map _).any _ = _
  rw [List.any_map]
  congr 1
  funext y
  show ((if y.sid == sid then { y with ctr := some ctr, heard := s.now } else y).role == 2) = _
  by_cases h : (y.sid == sid) = true
  · rw [if_pos h]
  · rw [if_neg h]

/-- The debug registers of a tile depend on the sessions as far as one of them is a debug session. -/
theorem dbgReg_logged (s : State) (h : HostSt) (g : Mgmt) (n t off : Nat)
    (hg : g.sessions.any (·.role == 2) = s.mg.sessions.any (·.role == 2)) :
    State.dbgReg { s with mg := g, freeCount := n, host := h } t off = s.dbgReg t off := by
  have hm : State.debugMode { s with mg := g, freeCount := n, host := h } t = s.debugMode t :=
    congrArg ((s.tile t).halting && ·) hg
  unfold State.dbgReg
  rw [hm]
  rfl

theorem tileReg_logged (s : State) (h : HostSt) (g : Mgmt) (n t off : Nat)
    (hg : g.sessions.any (·.role == 2) = s.mg.sessions.any (·.role == 2)) :
    State.tileReg { s with mg := g, freeCount := n, host := h } t off = s.tileReg t off := by
  unfold State.tileReg
  rw [dbgReg_logged s h g n t off hg]
  rfl

theorem regValue_logged (s : State) (h : HostSt) (g : Mgmt) (n : Nat) {page : Nat} (hp : page < 0x480) (off : Nat)
    (hg : g.sessions.any (·.role == 2) = s.mg.sessions.any (·.role == 2)) :
    State.regValue { s with mg := g, freeCount := n, host := h } page off = s.regValue page off := by
  unfold State.regValue
  rw [pageKind_tile hp]
  simp only [show (kTile == 0) = false from rfl, show (kTile == kTile) = true from rfl, if_true, Bool.false_or,
    tileReg_logged s h g n page off hg]

theorem regRead_value (s : State) (sid ctr : Nat) (x : Sess) {page off : Nat} (hp : page < 0x480) (hw : wideOf page off = none) :
    (s.logged sid ctr 1 [natLe 4 page, natLe 4 off] (some (regAddr page off)) x).readNow x.origin page off =
      (stOk, s.regValue page off, s.logged sid ctr 1 [natLe 4 page, natLe 4 off] (some (regAddr page off)) x) := by
  have hv : (s.logged sid ctr 1 [natLe 4 page, natLe 4 off] (some (regAddr page off)) x).regValue page off =
      s.regValue page off := by
    rw [logged_eq]
    exact regValue_logged s _ _ _ hp off (heardMg_debug s sid ctr)
  rw [readNow_tile _ _ hp hw, hv]

/-- The end of a register access that answers `st`. -/
theorem conclude_answer (e : JEnt × State) {st : Nat} (d : List Byte) (u : State) (hst : st ≠ stPending) :
    x.conclude ctr e (st, d, u) = (u.jFinish (appendOf e).1 st (leNat d) e.1).replySess x ctr st d :=
  if_neg (by simpa using hst)

/-- A command that waits for the members of a unit. -/
theorem conclude_waits (e : JEnt × State) (d : List Byte) (u : State) : x.conclude ctr e (stPending, d, u) = u :=
  if_pos rfl

theorem regRead_own (page off : Nat) (h : s.Authentic sid ctr 1 [natLe 4 page, natLe 4 off] tag x)
    (hu : isSystemUnit page = false) :
    let e := s.commandEntry sid ctr 1 [natLe 4 page, natLe 4 off] (some (regAddr page off)) x
    let r := (appendOf e).2.readNow x.origin page off
    r.1 ≠ stPending → Ends (exec (.sessionRegRead sid ctr page off tag) s)
      ((r.2.2.jFinish (appendOf e).1 r.1 (leNat (natLe 4 r.2.1.toNat)) e.1).replySess x ctr r.1 (natLe 4 r.2.1.toNat)) := by
  intro e r hr
  refine show Ends (execSessionRegRead sid ctr page off tag s) _ from runOn_ends_of h.serves.on ?_
  rw [sessCmd_authentic h, if_pos (show anyRole (roleOf x.origin) = true from rfl), if_neg (ne_true_of_eq_false hu)]
  exact conclude_answer e _ _ hr

theorem regRead_unit (page off : Nat) (h : s.Authentic sid ctr 1 [natLe 4 page, natLe 4 off] tag x)
    (hu : isSystemUnit page = true) :
    let e := s.commandEntry sid ctr 1 [natLe 4 page, natLe 4 off] (some (regAddr page off)) x
    Ends (exec (.sessionRegRead sid ctr page off tag) s) ((appendOf e).2.compBegin x.origin (.session sid ctr)
      ((appendOf e).2.jAt (appendOf e).1) (page - 0x3000) off none) := by
  intro e
  refine show Ends (execSessionRegRead sid ctr page off tag s) _ from runOn_ends_of h.serves.on ?_
  rw [sessCmd_authentic h, if_pos (show anyRole (roleOf x.origin) = true from rfl), if_pos hu]
  exact conclude_waits e _ _

theorem regWrite_own (page off : Nat) (v : Word) (h : s.Authentic sid ctr 2 [natLe 4 page, natLe 4 off, natLe 4 v.toNat] tag x)
    (hu : isSystemUnit page = false) :
    let e := s.commandEntry sid ctr 2 [natLe 4 page, natLe 4 off, natLe 4 v.toNat] (some (regAddr page off)) x
    let r := (appendOf e).2.writeNow x.origin page off v
    r.1 ≠ stPending → Ends (exec (.sessionRegWrite sid ctr page off v tag) s)
      ((r.2.jFinish (appendOf e).1 r.1 (leNat []) e.1).replySess x ctr r.1 []) := by
  intro e r hr
  refine show Ends (execSessionRegWrite sid ctr page off v tag s) _ from runOn_ends_of h.serves.on ?_
  rw [sessCmd_authentic h, if_pos (show anyRole (roleOf x.origin) = true from rfl), if_neg (ne_true_of_eq_false hu)]
  exact conclude_answer e _ _ hr

theorem regWrite_unit (page off : Nat) (v : Word) (h : s.Authentic sid ctr 2 [natLe 4 page, natLe 4 off, natLe 4 v.toNat] tag x)
    (hu : isSystemUnit page = true) :
    let e := s.commandEntry sid ctr 2 [natLe 4 page, natLe 4 off, natLe 4 v.toNat] (some (regAddr page off)) x
    Ends (exec (.sessionRegWrite sid ctr page off v tag) s) ((appendOf e).2.compBegin x.origin (.session sid ctr)
      ((appendOf e).2.jAt (appendOf e).1) (page - 0x3000) off (some v)) := by
  intro e
  refine show Ends (execSessionRegWrite sid ctr page off v tag s) _ from runOn_ends_of h.serves.on ?_
  rw [sessCmd_authentic h, if_pos (show anyRole (roleOf x.origin) = true from rfl), if_pos hu]
  exact conclude_waits e _ _

theorem writeNow_evtEn {a : State} {page : Nat} (v : Word) (hp : page < 0x480) (hr : x.role < 2)
    (ho : a.spare.opened.contains (page / 36) = false) :
    let r := a.writeNow x.origin page offEvtEn v
    r.1 = stOk ∧ r.2.rdN page offEvtEn &&& 0x3FFFF = v.toNat &&& 0x3FFFF ∧ r.2.mem = a.mem ∧ r.2.tiles = a.tiles := by
  obtain ⟨ha, hc⟩ := tile_assigned hp
  have hw : a.writeNow x.origin page offEvtEn v = (stOk, a.evtEnabled page v) := by
    simp [State.writeNow, ha, hc, applyWrite_evtEn v (show anyButDebug (roleOf x.origin) = true by rw [sess_notDebug]; simpa using hr)]
  intro r
  have hr' : r = (stOk, a.evtEnabled page v) := hw
  rw [hr']
  exact ⟨rfl, rdN_evtEnabled v hp ho, by rw [evtEnabled_regs], by rw [evtEnabled_regs]⟩

theorem regWrite_evtEn (s : State) (sid ctr : Nat) (x : Sess) {page off : Nat} (v : Word) (hp : page < 0x480)
    (ho : off = offEvtEn) (hr : x.role < 2) (hop : s.spare.opened.contains (page / 36) = false) :
    let r := (s.logged sid ctr 2 [natLe 4 page, natLe 4 off, natLe 4 v.toNat] (some (regAddr page off)) x).writeNow
      x.origin page off v
    r.1 = stOk ∧ r.2.rdN page offEvtEn &&& 0x3FFFF = v.toNat &&& 0x3FFFF ∧ r.2.mem = s.mem ∧ r.2.tiles = s.tiles := by
  subst ho
  have ha : ∀ a : State, a.spare = s.spare → a.mem = s.mem → a.tiles = s.tiles →
      let r := a.writeNow x.origin page offEvtEn v
      r.1 = stOk ∧ r.2.rdN page offEvtEn &&& 0x3FFFF = v.toNat &&& 0x3FFFF ∧ r.2.mem = s.mem ∧ r.2.tiles = s.tiles := by
    intro a hspare hmem htiles
    rw [← hmem, ← htiles]
    exact writeNow_evtEn v hp hr (by rw [hspare]; exact hop)
  exact ha _ rfl rfl rfl

end

/-! ## The handshake -/

theorem helloDraws (s : State) (l : List Nat) (acc : List Byte) : ∃ own, l.foldl (fun (p : List Byte × State) _ =>
    (p.1 ++ natLe 8 p.2.free.1.toNat, p.2.free.2)) (acc, s) = (own, { s with freeCount := s.freeCount + l.length }) := by
  induction l generalizing s acc with
  | nil => exact ⟨acc, rfl⟩
  | cons y l ih =>
    obtain ⟨own, h⟩ := ih s.free.2 (acc ++ natLe 8 s.free.1.toNat)
    refine ⟨own, h.trans ?_⟩
    rw [List.length_cons, show s.freeCount + (l.length + 1) = s.freeCount + 1 + l.length by omega]
    rfl

/-- The CHALLENGE that answers HELLO, with the nonce `own` and the randomness `r` of its encapsulation key. -/
def helloAnswer (nonce own : List Byte) (slot role : Nat) (r : DWord) : List Byte :=
  let hello := Config.message 0 [nonce, natLe 1 slot, natLe 1 role]
  let ek := Config.kemKey r
  Config.message 1 [own, ek, Config.identitySign (sha256 (hello ++ Config.message 1 [own, ek]))]

/-- The module waits for a RESPONSE to the CHALLENGE `ch`. -/
def State.challenged (s : State) (n : Nat) (x : Shake) (ch : List Byte) : State :=
  (State.modMg { s with freeCount := n, nextId := s.nextId + 1 } fun g => { g with shakes := g.shakes ++ [x] }).say
    (.session s.nextId 1 ch)

section
variable {s : State} (hs : s.Serves)
include hs

theorem hello_does (nonce : List Byte) (slot role : Nat) : ∃ u, Ends (exec (.hello nonce slot role) s) u ∧
    (∃ x : Shake, u.mg = { s.mg with shakes := s.mg.shakes ++ [x] } ∧ x.id = s.nextId ∧ x.slot = slot ∧ x.role = role) ∧
    (∃ d, u.out = s.out ++ [.session s.nextId 1 d]) ∧ u.body = { s.body with mg := u.mg, nextId := s.nextId + 1 } := by
  obtain ⟨own, ho⟩ := helloDraws s (List.range 4) []
  let r : DWord := Config.freeBits (s.freeCount + 4)
  let ch := helloAnswer nonce own slot role r
  let x : Shake := { id := s.nextId, slot := slot, role := role, rand := r
                     script := Config.message 0 [nonce, natLe 1 slot, natLe 1 role] ++ ch }
  have he : Ends (exec (.hello nonce slot role) s) (s.challenged (s.freeCount + 5) x ch) := by
    refine show Ends (execHello nonce slot role s) _ from runOn_ends_of hs.on ?_
    rw [ho]
    rfl
  exact ⟨_, he, ⟨x, rfl, rfl, rfl, rfl⟩, ⟨ch, rfl⟩, rfl⟩

theorem response_unknown (h : Nat) (ct sig : List Byte)
    (hx : takeFirst (fun (x : Shake) => x.id == h) s.mg.shakes = none) : Ends (exec (.response h ct sig) s) s := by
  refine show Ends (execResponse h ct sig s) s from runOn_ends_of hs.on ?_
  rw [hx]

end

/-- Of nine numbers in a row one is free while fewer than nine sessions are open. -/
theorem freshSid_fresh (s : State) (h : s.mg.sessions.length < 9) : ∀ z ∈ s.mg.sessions, z.sid ≠ s.freshSid.1 := by
  have hr : s.freshSid.1 = (s.free.1.toNat + ((List.range 9).find? fun k =>
      !(s.mg.sessions.any fun x => x.sid == (s.free.1.toNat + k) % 2 ^ 32)).getD 0) % 2 ^ 32 := rfl
  rw [hr]
  generalize s.free.1.toNat = b
  generalize s.mg.sessions = l at h ⊢
  cases hf : (List.range 9).find? fun k => !(l.any fun x => x.sid == (b + k) % 2 ^ 32) with
  | some k =>
    intro z hz he
    have hk := List.find?_some hf
    simp only [Bool.not_eq_true', List.any_eq_false, beq_iff_eq] at hk
    exact hk z hz he
  | none =>
    exfalso
    have hall : ∀ k < 9, (b + k) % 2 ^ 32 ∈ l.map (·.sid) := by
      intro k hk
      have hn := List.find?_eq_none.1 hf k (List.mem_range.2 hk)
      simp only [Bool.not_eq_true', Bool.not_eq_false, List.any_eq_true, beq_iff_eq] at hn
      obtain ⟨z, hz, he⟩ := hn
      exact List.mem_map.2 ⟨z, hz, he⟩
    have hnd : ((List.range 9).map fun k => (b + k) % 2 ^ 32).Nodup :=
      (List.nodup_map_iff_inj_on List.nodup_range).2 fun i hi j hj he => by
        rw [List.mem_range] at hi hj
        omega
    have hle := (List.subperm_of_subset hnd fun y hy => by
      obtain ⟨k, hk, rfl⟩ := List.mem_map.1 hy
      exact hall k (List.mem_range.1 hk)).length_le
    simp only [List.length_map, List.length_range] at hle
    omega

theorem mayOpen_length {s : State} {x : Shake} (h : s.mayOpen x = true) : s.mg.sessions.length < 8 := by
  unfold State.mayOpen at h
  split at h
  · exact absurd h Bool.false_ne_true
  · simp only [Bool.and_eq_true, decide_eq_true_eq] at h
    exact h.2

/-- The session of the request `x` has opened. -/
def State.sessionOpened (s : State) (h : Nat) (x : Shake) (rest : List Shake) (ct : List Byte) : State :=
  let s := s.modMg fun g => { g with shakes := rest }
  let hash := sha256 (x.script ++ Config.message 2 [ct])
  let y : Sess := { sid := s.freshSid.1, slot := x.slot, role := x.role
                    key := hkdf32 hash (Config.kemDecaps x.rand ct) (ascii "ZT3 session"), ctr := none, heard := s.now }
  ((s.freshSid.2.modMg fun g => { g with sessions := g.sessions ++ [y] }).raise mgmtPage 0).say
    (.session h 3 (Config.message 3 [natLe 4 s.freshSid.1, natLe 2 x.slot]))

/-- The key under which a RESPONSE must be signed. -/
theorem response_key (s : State) (x : Shake) : (match sfind s.mg.keys x.slot with
    | some k => k.key
    | none => []) = ((sfind s.mg.keys x.slot).map (·.key)).getD [] := by
  cases sfind s.mg.keys x.slot <;> rfl

section
variable {s : State} (hs : s.Serves) {h : Nat} {x : Shake} {rest : List Shake} (ct sig : List Byte)
  (hx : takeFirst (fun (x : Shake) => x.id == h) s.mg.shakes = some (x, rest))
include hs hx

theorem response_rejected
    (hb : (s.mayOpen x && Config.sigVerify (((sfind s.mg.keys x.slot).map (·.key)).getD [])
      (sha256 (x.script ++ Config.message 2 [ct])) sig) = false) :
    Ends (exec (.response h ct sig) s)
      (((s.modMg fun g => { g with shakes := rest }).raise mgmtPage 1).say (.session h 4 (Config.message 4 []))) := by
  refine show Ends (execResponse h ct sig s) _ from runOn_ends_of hs.on ?_
  rw [hx]
  refine if_pos ?_
  rw [← Bool.not_and, Bool.not_eq_true']
  refine Eq.trans ?_ hb
  rw [← response_key s x]
  rfl

theorem response_accepted
    (hg : (s.mayOpen x && Config.sigVerify (((sfind s.mg.keys x.slot).map (·.key)).getD [])
      (sha256 (x.script ++ Config.message 2 [ct])) sig) = true) :
    ∃ u, Ends (exec (.response h ct sig) s) u ∧
      (∃ y : Sess, u.mg = { s.mg with shakes := rest, sessions := s.mg.sessions ++ [y] } ∧ y.slot = x.slot ∧ y.role = x.role ∧
        y.ctr = none ∧
        y.key = hkdf32 (sha256 (x.script ++ Config.message 2 [ct])) (Config.kemDecaps x.rand ct) (ascii "ZT3 session") ∧
        (∀ z ∈ s.mg.sessions, z.sid ≠ y.sid) ∧
        u.out = s.out ++ [.session h 3 (Config.message 3 [natLe 4 y.sid, natLe 2 x.slot])]) ∧
      u.flag mgmtPage offEvt 0 = true ∧ u.body = { s.body with mg := u.mg } := by
  have hlen := mayOpen_length (Bool.and_eq_true_iff.1 hg).1
  refine ⟨s.sessionOpened h x rest ct, show Ends (execResponse h ct sig s) _ from runOn_ends_of hs.on ?_, ?_⟩
  · rw [hx]
    refine if_neg (ne_true_of_eq_false ?_)
    rw [← Bool.not_and, Bool.not_eq_false']
    refine Eq.trans ?_ hg
    rw [← response_key s x]
    rfl
  · have hfresh := freshSid_fresh (s.modMg fun g => { g with shakes := rest }) (show s.mg.sessions.length < 9 by omega)
    exact ⟨⟨_, rfl, rfl, rfl, rfl, rfl, hfresh, rfl⟩, State.flag_raise_same _ _ _ (by decide), rfl⟩

end

/-! ## Discarded messages -/

/-- A discarded COMMAND is in the journal. -/
def State.discardLogged (s : State) (code : Nat) (who : Option Sess) (msg : List Byte) : State :=
  (appendOf (s.free.2.sessEntry who code (s.free.1.toNat % 256) msg none)).2

theorem discardCmd_eq (s : State) (sid ctr code : Nat) (who : Option Sess) (msg : List Byte) :
    s.discardCmd sid ctr code who msg = (((((s.discardLogged code who msg).bump mgmtPage 0x13C).raise mgmtPage 2).modMg fun g =>
      { g with sessions := g.sessions.map fun y =>
        if y.sid == sid then
          { y with fails := y.fails + 1, heard := (((s.discardLogged code who msg).bump mgmtPage 0x13C).raise mgmtPage 2).now }
        else y }).closeWhere fun y => y.sid == sid && 16 ≤ y.fails).say (.discarded sid ctr) := rfl

theorem discardLogged_eq (s : State) (code : Nat) (who : Option Sess) (msg : List Byte) : ∃ j,
    s.discardLogged code who msg = { s with
      freeCount := s.freeCount + 2, host := { s.host with journal := j, nextSeq := s.host.nextSeq + 1 } } := ⟨_, rfl⟩

/-- A count with room, whose event is then raised. -/
theorem rdN_counted {s a : State} (hr : a.regs = s.regs) {f : Mgmt → Mgmt} {p : Sess → Bool} {m : Out}
    (hlt : s.rdN mgmtPage 0x13C + 1 < 2 ^ 32) :
    (((((a.bump mgmtPage 0x13C).raise mgmtPage 2).modMg f).closeWhere p).say m).rdN mgmtPage 0x13C =
      s.rdN mgmtPage 0x13C + 1 := by
  rw [← rdN_of_regs hr] at hlt ⊢
  refine (rdN_raise_other (s := a.bump mgmtPage 0x13C) (p := mgmtPage) (i := 2) (by decide) (by decide)).trans ?_
  rw [bump_fits hlt, State.rdN_wrN_same]
  exact Nat.mod_eq_of_lt hlt

theorem discardCmd_does (s : State) (sid ctr code : Nat) (who : Option Sess) (msg : List Byte) :
    let u := s.discardCmd sid ctr code who msg
    u.out = s.out ++ [.discarded sid ctr] ∧ u.host.nextSeq = s.host.nextSeq + 1 ∧ u.flag mgmtPage offEvt 2 = true ∧
    (s.rdN mgmtPage 0x13C + 1 < 2 ^ 32 → u.rdN mgmtPage 0x13C = s.rdN mgmtPage 0x13C + 1) ∧
    u.mg = { s.mg with sessions := (s.mg.sessions.map fun y =>
      if y.sid == sid then { y with fails := y.fails + 1, heard := s.now } else y).filter fun y =>
        !(y.sid == sid && decide (16 ≤ y.fails)) } ∧
    u.body = { s.body with mg := u.mg, host := u.host } := by
  intro u
  have hu : u = _ := discardCmd_eq s sid ctr code who msg
  clear_value u
  obtain ⟨j, hj⟩ := discardLogged_eq s code who msg
  rw [hj] at hu
  generalize s.freeCount + 2 = n at hu
  obtain ⟨r, k, hb⟩ := bump_regs { s with freeCount := n, host := { s.host with journal := j, nextSeq := s.host.nextSeq + 1 } }
    mgmtPage 0x13C 1
  have hcount : s.rdN mgmtPage 0x13C + 1 < 2 ^ 32 → u.rdN mgmtPage 0x13C = s.rdN mgmtPage 0x13C + 1 := by
    intro hlt
    rw [hu]
    exact rdN_counted (by exact rfl) hlt
  rw [hb] at hu
  have hflag : u.flag mgmtPage offEvt 2 = true := by
    rw [hu]
    exact State.flag_raise_same _ _ _ (by decide)
  refine ⟨?_, ?_, hflag, hcount, ?_, ?_⟩ <;> rw [hu] <;> rfl

/-- Settles O53: the handshake, the frame of the commands with each command's effect, and what is discarded. -/
theorem sessionFamilyCompletes : Obligations.SessionFamilyCompletes := by
  unfold Obligations.SessionFamilyCompletes
  refine ⟨fun s hs => ⟨fun nonce slot role => hello_does hs nonce slot role, fun h ct sig => response_unknown hs h ct sig,
      fun h x rest ct sig hx => ⟨response_accepted hs ct sig hx, response_rejected hs ct sig hx⟩,
      fun sid => show Ends (execSessionIdleTimeout sid s) _ from runOn_ends_of hs.on rfl⟩,
    fun s sid ctr page off v tag x => ⟨fun h => ⟨fun hu => regRead_own page off h hu, fun hu => regRead_unit page off h hu,
        fun hp hw _ => ?_⟩,
      fun h => ⟨fun hu => regWrite_own page off v h hu, fun hu => regWrite_unit page off v h hu, fun hp ho hr hop => ?_⟩⟩,
    fun s sid ctr tag x => ⟨fun off d h => ⟨fun hr => ?_, fun hr hf => ?_, fun hr hf => fwWrite_does off d h hr hf⟩,
      fun nonce h => quote_does nonce h, fun h => certRead_does h,
      fun n key roles h => ⟨fun hr => ?_, fun hr hf => ?_, fun hr hf => keyEnroll_does n roles key h hr hf⟩,
      fun n h => ⟨fun hr => ?_, fun hr hf => ?_, fun hr hf => keyRevoke_does n h hr hf⟩,
      fun rec h => ⟨fun hr => ?_, fun hr hf => ?_, fun hr hf => configWrite_does rec h hr hf⟩,
      fun h => ⟨fun hr => ?_, fun hr => svnCommit_does h hr⟩,
      fun h => ⟨fun hr => ?_, fun hr hcl => afterglowClear_later h hr hcl, fun hr hcl => afterglowClear_now h hr hcl⟩,
      fun h => close_does h⟩,
    fun s sid ctr tag hs => ⟨fun n m v a rec => ⟨?_, ?_, ?_, ?_, ?_, ?_, ?_, ?_, ?_, ?_, ?_⟩,
      fun code msg => discardCmd_does s sid ctr code _ msg⟩⟩
  · have hv := regRead_value s sid ctr x hp hw
    unfold State.logged State.commandEntry State.heardFrom appendOf at hv
    exact hv
  · have hv := regWrite_evtEn s sid ctr x v hp ho hr hop
    unfold State.logged State.commandEntry State.heardFrom appendOf at hv
    beta_reduce
    exact hv
  · exact command_refused h rfl (by rw [sess_operator]; exact decide_eq_false (Nat.not_lt.2 hr))
  · exact command_same h rfl (by rw [sess_operator]; simpa using hr) (by decide) fun _ => if_neg (by simpa using hf)
  · exact command_refused h rfl (by rw [sess_custodian]; simpa using hr)
  · exact command_same h rfl (by rw [sess_custodian]; simpa using hr) (by decide) fun _ =>
      if_neg (by simpa [and_assoc] using hf)
  · exact command_refused h rfl (by rw [sess_custodian]; simpa using hr)
  · exact command_same h rfl (by rw [sess_custodian]; simpa using hr) (by decide) fun _ => if_neg (by simpa using hf)
  · exact command_refused h rfl (by rw [sess_custodian]; simpa using hr)
  · exact command_same h rfl (by rw [sess_custodian]; simpa using hr) (by decide) fun _ => if_neg (by simpa using hf)
  · exact command_refused h rfl (by rw [sess_custodian]; simpa using hr)
  · exact command_refused h rfl (by rw [sess_custodian]; simpa using hr)
  all_goals exact fun hbad => command_drops hs rfl hbad

end Sys2Proof.Machine
end

section
/-!
PROOF. The statement about requests to a slice fails: it lets a request name any class. The hit counters of a slice's page
are for classes 0 to 5 (Table 8.7), and the counter of class 1,900,556 would stand where the management page has the register
that holds the size of the host region. Such a write to stack memory enlarges that region before the line is written, and the
line is left CLEAN, as one of the host region, where the statement says DIRTY.
-/
namespace Sys2Proof.Machine

/-- The line of the lowest address of a host region of two units. -/
def edgeLine : Line := { line := (2 ^ 40 - 2 ^ 35) / 256, set := 0, st := .dirty }

/-- Slice 0 holds that line, and the host region is one unit. -/
def smallRegion : State := { slices := [(0, { lines := [edgeLine] })], regs := [(regKey mgmtPage 0x100, 1)] }

/-- A request to that line under a class that does not exist. -/
def strayRequest : ShadeReq := { addr := 2 ^ 40 - 2 ^ 35, len := 8, cls := 1900556, agent := .module, stamp := false }

def eightBytes : List PByte := List.replicate 8 ⟨0, false⟩

theorem smallRegion_hits : smallRegion.Hits 0 (strayRequest.addr / 256) edgeLine where
  found := by decide +kernel
  state := .inr rfl
  sound := ⟨rfl, rfl, by decide +kernel⟩
  unmerged := fun _ he => absurd he List.not_mem_nil

theorem smallRegion_outside : smallRegion.inHostRegion strayRequest.addr = false := by decide +kernel

theorem strayRequest_leaves_clean : (((smallRegion.takeRequest 0 (.write strayRequest eightBytes)).slice 0).find
    (strayRequest.addr / 256)).map (·.st) = some .clean := by decide +kernel

/-- Refutes O37: a write under a class that does not exist counts its hit in the size of the host region, and leaves a line of
stack memory CLEAN. -/
theorem not_sliceRequestsComplete : ¬ Obligations.SliceRequestsComplete := by
  unfold Obligations.SliceRequestsComplete
  rintro ⟨-, -, -, htaken⟩
  obtain ⟨-, -, -, hwrite, -⟩ := htaken smallRegion strayRequest 0
  obtain ⟨⟨hfound, -⟩, -⟩ := hwrite edgeLine eightBytes smallRegion_hits (by decide) (by decide) (by decide) (by decide)
    (by decide)
  have hst := congrArg (Option.map (·.st)) hfound
  rw [strayRequest_leaves_clean, smallRegion_outside] at hst
  exact absurd hst (by decide)

end Sys2Proof.Machine
end

section
/-!
PROOF. The statement about the stacks and the slow tier fails: it lets a transfer have any class. The hit counters of a
slice's page are for classes 0 to 5 (Table 8.7), and the counter of class 1,650,700 would stand where the page of port 0 has
the size of its expander. When the link of port 0 is lost, a row that waited for the slow tier goes to a line of slice 0 under
that class, after the size has been set to 0; the size then reads 1.
-/
namespace Sys2Proof.Machine

/-- Line 0, which slice 0 holds. -/
def firstLine : Line := { line := 0, set := 0, st := .dirty }

/-- A transfer to device address 0 under a class that does not exist, with one row to come from the slow tier. -/
def strayTransfer : Xfer :=
  { id := 7, site := 0, dst := .device, rows := [{ off := 0, len := 8, src := some slowBase }], cls := 1650700 }

/-- Port 0 has an expander, which has not answered the read of that row. -/
def waitingPort : State :=
  { regs := [(regKey (pciePage 0) offStatus, 16)], slices := [(0, { lines := [firstLine] })], xfers := [strayTransfer]
    slow := [{ id := 1, port := 0, addr := slowBase, len := 8, xfers := [(7, 0)] }] }

theorem waitingPort_linked : waitingPort.flag (pciePage 0) offStatus 4 = true := by decide +kernel

theorem waitingPort_lost_size : (waitingPort.linkLost 0).rdN (pciePage 0) 0x100 = 1 := by decide +kernel

/-- Refutes O39: at the loss of a link, a row that arrives under a class that does not exist counts its hit in the size of
the expander, which has just been cleared. -/
theorem not_stackAndSlowTierComplete : ¬ Obligations.StackAndSlowTierComplete := by
  unfold Obligations.StackAndSlowTierComplete
  rintro ⟨-, -, -, -, -, -, -, -, -, hlost, -⟩
  obtain ⟨-, hsize⟩ := hlost waitingPort 0 (by decide)
  obtain ⟨hzero, -⟩ := hsize waitingPort_linked
  rw [waitingPort_lost_size] at hzero
  exact absurd hzero (by decide)

end Sys2Proof.Machine
end

section
/-!
PROOF. Debug access: orders to CONTROL and to the checker's registers, what they change of a tile, a slice or a stack, and
what they leave.
-/
namespace Sys2Proof.Machine

/-! ## Orders that change one bit of CONTROL -/

/-- A write of one bit that the role may write: every other bit stays as it is. -/
theorem mayWrite_withBit {s : State} {r : Role} {page i : Nat} {b : Bool}
    (hc : s.current page offControl = s.rdN page offControl)
    (h1 : (s.fields r page offControl (s.withBit page offControl i b).toNat).1.testBit i = true)
    (h2 : (s.fields r page offControl (s.withBit page offControl i b).toNat).2.testBit i = true) :
    s.mayWrite r page offControl (s.withBit page offControl i b).toNat = true := by
  have hne : (s.fields r page offControl (s.withBit page offControl i b).toNat).2 ≠ 0 := fun h => by
    rw [h, Nat.zero_testBit] at h2
    exact Bool.false_ne_true h2
  have hsame : ((s.withBit page offControl i b).toNat ^^^ s.current page offControl) &&&
      (s.fields r page offControl (s.withBit page offControl i b).toNat).1 &&&
      ((s.fields r page offControl (s.withBit page offControl i b).toNat).1 ^^^
        (s.fields r page offControl (s.withBit page offControl i b).toNat).2) = 0 := by
    refine Nat.eq_of_testBit_eq fun k => ?_
    rw [Nat.testBit_and, Nat.testBit_and, Nat.testBit_xor, Nat.testBit_xor, Nat.zero_testBit, hc]
    by_cases hk : k < 32
    · rw [withBit_testBit _ _ _ _ _ _ hk]
      by_cases hki : k = i
      · rw [hki, h1, h2, Bool.xor_self, Bool.and_false]
      · rw [if_neg hki, Bool.xor_self, Bool.false_and, Bool.false_and]
    · have hpow : 2 ^ 32 ≤ 2 ^ k := Nat.pow_le_pow_right (by decide) (Nat.not_lt.1 hk)
      rw [Nat.testBit_lt_two_pow (lt_of_lt_of_le (s.withBit page offControl i b).isLt hpow),
        Nat.testBit_lt_two_pow (lt_of_lt_of_le (s.rdN_lt page offControl) hpow)]
      rfl
  unfold State.mayWrite
  dsimp only
  rw [hsame, Bool.or_eq_true, Bool.and_eq_true, bne_iff_ne]
  exact .inr ⟨hne, rfl⟩

/-- An order to change bit `i` of CONTROL, of a role that may. -/
theorem order_control {s : State} {o : Origin} {page i : Nat} {b : Bool} {f : Fields} (hk : pageKind page ≠ 0)
    (hopen : pageKind page = kTile → s.spare.opened.contains (page / 36) = false)
    (hc : ∀ j n, (s.journaled j n).current page offControl = s.rdN page offControl)
    (hf : ∀ j n, (s.journaled j n).fields (roleOf o) page offControl (s.withBit page offControl i b).toNat = f)
    (h1 : f.1.testBit i = true) (h2 : f.2.testBit i = true) {st : Nat} {g : State → State}
    (hact : ∀ j n, (s.journaled j n).act o page offControl f.2 ((s.withBit page offControl i b).toNat &&& f.1) =
      (st, g (s.journaled j n))) (hst : st ≠ stAccess) :
    Answered (g (s.accept o page offControl (s.withBit page offControl i b)).2.2)
      (s.order o page offControl (s.withBit page offControl i b)) := by
  refine order_acts hk hf (fun h => ?_) hopen (fun j n => ?_) hact hst
  · rw [h, Nat.zero_testBit] at h1
    exact Bool.false_ne_true h1
  · refine mayWrite_withBit (s := s.journaled j n) (b := b) (hc j n) ?_ ?_
    · exact (congrArg (fun x : Fields => x.1.testBit i) (hf j n)).trans h1
    · exact (congrArg (fun x : Fields => x.2.testBit i) (hf j n)).trans h2

/-! ## What debug access leaves -/

/-- Time, admission, every other tile, memory, and this tile's scratch. -/
def DebugKeeps (t : Nat) (s u : State) : Prop :=
  ((u.gn = s.gn ∧ u.adm = s.adm ∧ ∀ i, i ≠ t → u.tile i = s.tile i) ∧ u.mem = s.mem ∧ (u.tile t).scratch = (s.tile t).scratch)

theorem DebugKeeps.refl (t : Nat) (s : State) : DebugKeeps t s s := ⟨⟨rfl, rfl, fun _ _ => rfl⟩, rfl, rfl⟩

theorem DebugKeeps.trans {t : Nat} {s u v : State} (h : DebugKeeps t s u) (h' : DebugKeeps t u v) : DebugKeeps t s v := by
  obtain ⟨⟨h1, h2, h3⟩, h4, h5⟩ := h
  obtain ⟨⟨k1, k2, k3⟩, k4, k5⟩ := h'
  exact ⟨⟨k1.trans h1, k2.trans h2, fun i hi => (k3 i hi).trans (h3 i hi)⟩, k4.trans h4, k5.trans h5⟩

/-- What only changes other parts of the state keeps all of that. -/
theorem DebugKeeps.of_eq {t : Nat} {s u : State} (h1 : u.gn = s.gn) (h2 : u.adm = s.adm) (h3 : u.tiles = s.tiles)
    (h4 : u.mem = s.mem) : DebugKeeps t s u := by
  have ht : ∀ i, u.tile i = s.tile i := fun i => congrArg (sget ({} : Tile) · i) h3
  exact ⟨⟨h1, h2, fun i _ => ht i⟩, h4, congrArg Tile.scratch (ht t)⟩

theorem debugKeeps_wrN (t : Nat) (s : State) (p o v : Nat) : DebugKeeps t s (s.wrN p o v) := .of_eq rfl rfl rfl rfl

theorem debugKeeps_modTile (t : Nat) (s : State) {f : Tile → Tile} (hf : (f (s.tile t)).scratch = (s.tile t).scratch) :
    DebugKeeps t s (s.modTile t f) :=
  ⟨⟨rfl, rfl, fun _ hi => State.tile_modTile_other _ _ (Ne.symm hi)⟩, rfl, by rw [State.tile_modTile_same]; exact hf⟩

theorem debugKeeps_accept (t : Nat) (s : State) (o : Origin) (page off : Nat) (v : Word) :
    DebugKeeps t s (s.accept o page off v).2.2 := by
  obtain ⟨-, j, n, h⟩ := accept_journaled s o page off v
  rw [h]
  exact .of_eq rfl rfl rfl rfl

theorem Answered.debugKeeps {s u : State} (h : Answered s u) (t : Nat) : DebugKeeps t s u := by
  obtain ⟨j, n, c, l, rfl⟩ := h
  exact .of_eq rfl rfl rfl rfl

/-! ## CONTROL of a tile -/

theorem tileCurrent {s : State} {t : Nat} (ht : t < 1152) (hopen : s.spare.opened.contains (t / 36) = false) :
    s.current t offControl = s.rdN t offControl := by
  have hk : pageKind t = kTile := pageKind_tile ht
  have hv : s.regValue t offControl = BitVec.ofNat 32 (s.rdN t offControl) := by
    unfold State.regValue
    dsimp only
    rw [hk, hopen]
    rfl
  unfold State.current
  rw [if_neg (by decide), hv, BitVec.toNat_ofNat]
  exact Nat.mod_eq_of_lt (s.rdN_lt _ _)

theorem tileFields_control (s : State) (r : Role) {t : Nat} (ht : t < 1152) (v : Nat) : s.fields r t offControl v =
    eachOf [(0, 1, debugOnly r || (bit v 0 && anyButDebug r)), (1, 1, debugOnly r), (2, 2, anyButDebug r)] := by
  have hk : pageKind t = kTile := pageKind_tile ht
  unfold State.fields
  dsimp only
  rw [hk]
  rfl

theorem tileControl_mask (a b c : Bool) : (eachOf [(0, 1, a), (1, 1, b), (2, 2, c)]).1 = 15 ∧
    (b = true → (eachOf [(0, 1, a), (1, 1, b), (2, 2, c)]).2.testBit 1 = true) ∧
    (c = true → (eachOf [(0, 1, a), (1, 1, b), (2, 2, c)]).2.testBit 2 = true ∧
      (eachOf [(0, 1, a), (1, 1, b), (2, 2, c)]).2.testBit 3 = true) := by
  revert a b c
  decide

/-- An order to a bit of a tile's CONTROL that its role may write. -/
theorem order_tileControl {s : State} {o : Origin} {t i : Nat} {b : Bool} (ht : t < 1152)
    (hopen : s.spare.opened.contains (t / 36) = false)
    (hi : (i = 1 ∧ debugOnly (roleOf o) = true) ∨ ((i = 2 ∨ i = 3) ∧ anyButDebug (roleOf o) = true)) :
    Answered ((s.accept o t offControl (s.withBit t offControl i b)).2.2.actTile t offControl
      ((s.withBit t offControl i b).toNat &&& 15)) (s.order o t offControl (s.withBit t offControl i b)) := by
  have hk : pageKind t = kTile := pageKind_tile ht
  obtain ⟨hm, hm1, hm2⟩ := tileControl_mask
    (debugOnly (roleOf o) || (bit (s.withBit t offControl i b).toNat 0 && anyButDebug (roleOf o))) (debugOnly (roleOf o))
    (anyButDebug (roleOf o))
  have hf : ∀ j n, (s.journaled j n).fields (roleOf o) t offControl (s.withBit t offControl i b).toNat = _ := fun j n =>
    tileFields_control (s.journaled j n) (roleOf o) ht (s.withBit t offControl i b).toNat
  refine order_control (g := fun u => u.actTile t offControl ((s.withBit t offControl i b).toNat &&& 15)) (st := stOk)
    (by rw [hk]; decide) (fun _ => hopen) (fun j n => tileCurrent ht hopen) hf ?_ ?_ (fun j n => ?_) (by decide)
  · rw [hm]
    rcases hi with ⟨rfl, -⟩ | ⟨rfl | rfl, -⟩ <;> decide
  · rcases hi with ⟨rfl, h⟩ | ⟨rfl | rfl, h⟩
    · exact hm1 h
    · exact (hm2 h).1
    · exact (hm2 h).2
  · rw [hm]
    unfold State.act
    dsimp only
    rw [hk]
    rfl

/-! ## What storing the bits of a mask does to its register -/

theorem keep_testBit (s : State) (p o m v i : Nat) : ((s.keep p o m v).rdN p o).testBit i =
    (decide (i < 32) && if m.testBit i then v.testBit i else (s.rdN p o).testBit i) := by
  unfold State.keep
  rw [State.rdN_wrN_same, Nat.testBit_mod_two_pow, Nat.testBit_or, Nat.testBit_xor, Nat.testBit_and, Nat.testBit_and]
  cases m.testBit i <;> cases (s.rdN p o).testBit i <;> cases v.testBit i <;> rfl

theorem debugKeeps_keep (t : Nat) (s : State) (p o m v : Nat) : DebugKeeps t s (s.keep p o m v) := debugKeeps_wrN t s p o _

/-! ## The four effects of a tile's CONTROL -/

/-- HALT of a tile's CONTROL, where its bit has changed. -/
def haltStep (s : State) (t : Nat) (b : Bool) : State := if b != (s.tile t).halting then s.setHalt t b else s

def rcStep (s : State) (t : Nat) (b : Bool) : State := if b then s.modTile t (·.rcClear) else s

def stallStep (s : State) (t : Nat) (b : Bool) : State := if b then s.stallClear t else s

theorem actTile_control (s : State) (t v : Nat) : s.actTile t offControl v =
    stallStep (rcStep (haltStep (s.keep t offControl 1 v) t (bit v 1)) t (bit v 2)) t (bit v 3) := rfl

theorem debugKeeps_haltStep (s : State) (t : Nat) (b : Bool) : DebugKeeps t s (haltStep s t b) := by
  unfold haltStep
  split
  · exact (debugKeeps_wrN t s t offControl _).trans (debugKeeps_modTile t (s.setFlag t offControl 1 b) rfl)
  · exact .refl t s

theorem debugKeeps_rcStep (s : State) (t : Nat) (b : Bool) : DebugKeeps t s (rcStep s t b) := by
  unfold rcStep
  split
  · exact debugKeeps_modTile t s rfl
  · exact .refl t s

/-- A run over the stall counters keeps what no register is part of. -/
theorem stallClear_keeps {β : Type} (g : State → β) (hg : ∀ (s : State) p o v, g (s.wrN p o v) = g s) (s : State) (t : Nat) :
    g (s.stallClear t) = g s := by
  unfold State.stallClear forN
  exact foldl_keeps g _ (fun u i => hg u t (0x40 + 4 * i) 0) _ s

theorem stallClear_tiles (s : State) (t : Nat) : (s.stallClear t).tiles = s.tiles :=
  stallClear_keeps State.tiles (fun _ _ _ _ => rfl) s t

theorem debugKeeps_stallStep (s : State) (t : Nat) (b : Bool) : DebugKeeps t s (stallStep s t b) := by
  unfold stallStep
  split
  · exact .of_eq (stallClear_keeps State.gn (fun _ _ _ _ => rfl) s t) (stallClear_keeps State.adm (fun _ _ _ _ => rfl) s t)
      (stallClear_tiles s t) (stallClear_keeps State.mem (fun _ _ _ _ => rfl) s t)
  · exact .refl t s

theorem haltStep_halting (s : State) (t : Nat) (b : Bool) : ((haltStep s t b).tile t).halting = b := by
  unfold haltStep
  by_cases h : b = (s.tile t).halting
  · rw [if_neg (by simpa using h)]
    exact h.symm
  · rw [if_pos (by simpa using h)]
    unfold State.setHalt
    rw [State.tile_modTile_same]

theorem rcStep_halting (s : State) (t : Nat) (b : Bool) : ((rcStep s t b).tile t).halting = (s.tile t).halting := by
  cases b with
  | false => rfl
  | true => exact (congrArg Tile.halting (State.tile_modTile_same s t (·.rcClear))).trans rfl

theorem rcStep_rcache (s : State) (t : Nat) : ((rcStep s t true).tile t).rcache = [] :=
  congrArg Tile.rcache (State.tile_modTile_same s t (·.rcClear))

theorem stallStep_tile (s : State) (t : Nat) (b : Bool) : (stallStep s t b).tile t = s.tile t := by
  cases b with
  | false => rfl
  | true => exact congrArg (fun m => sget ({} : Tile) m t) (stallClear_tiles s t)

/-- Each of the counters written is zero. -/
theorem stallClear_zero (s : State) (t n i : Nat) (hn : n ≤ 48) (hi : i < n) :
    (forN n s fun s i => s.wrN t (0x40 + 4 * i) 0).rdN t (0x40 + 4 * i) = 0 := by
  induction n with
  | zero => omega
  | succ n ih =>
    rw [forN, List.range_succ, List.foldl_append, List.foldl_cons, List.foldl_nil]
    rcases Nat.lt_succ_iff_lt_or_eq.1 hi with h | rfl
    · rw [rdN_wrN_other (by unfold regOff; omega) (by unfold regOff; omega) (by omega)]
      exact ih (by omega) h
    · exact State.rdN_wrN_same _ t _ 0

theorem debugKeeps_actTile (s : State) (t v : Nat) : DebugKeeps t s (s.actTile t offControl v) :=
  (((debugKeeps_keep t s t offControl 1 v).trans (debugKeeps_haltStep _ t _)).trans (debugKeeps_rcStep _ t _)).trans
    (debugKeeps_stallStep _ t _)

/-- The bit written, under a mask that holds it. -/
theorem bit_withBit (s : State) {page i m : Nat} (b : Bool) (hi : i < 32) (hm : m.testBit i = true) :
    bit ((s.withBit page offControl i b).toNat &&& m) i = b := by
  rw [bit, Nat.testBit_and, withBit_testBit _ _ _ _ _ _ hi, if_pos rfl, hm, Bool.and_true]

/-- Orders to HALT, RC_FLUSH and STALL_CLEAR keep what debug access keeps. -/
theorem tileControl_keeps {s : State} {o : Origin} {t i : Nat} {b : Bool} (ht : t < 1152)
    (hopen : s.spare.opened.contains (t / 36) = false)
    (hi : (i = 1 ∧ debugOnly (roleOf o) = true) ∨ ((i = 2 ∨ i = 3) ∧ anyButDebug (roleOf o) = true)) :
    DebugKeeps t s (s.order o t offControl (s.withBit t offControl i b)) :=
  ((debugKeeps_accept t s o t offControl _).trans (debugKeeps_actTile _ t _)).trans
    ((order_tileControl ht hopen hi).debugKeeps t)

/-- What is said of a module without its answers is said after an order. -/
theorem Answered.tile {s u : State} (h : Answered s u) (t : Nat) : u.tile t = s.tile t := by
  obtain ⟨j, n, c, l, rfl⟩ := h
  rfl

theorem halt_halting {s : State} {o : Origin} {t : Nat} (ht : t < 1152) (hopen : s.spare.opened.contains (t / 36) = false)
    (hd : debugOnly (roleOf o) = true) (b : Bool) :
    ((s.order o t offControl (s.withBit t offControl 1 b)).tile t).halting = b := by
  rw [(order_tileControl (b := b) ht hopen (.inl ⟨rfl, hd⟩)).tile t, actTile_control, stallStep_tile, rcStep_halting,
    haltStep_halting]
  exact bit_withBit s b (by decide) (by decide)

theorem rcFlush_rcache {s : State} {o : Origin} {t : Nat} (ht : t < 1152)
    (hopen : s.spare.opened.contains (t / 36) = false) (hd : anyButDebug (roleOf o) = true) :
    ((s.order o t offControl (s.withBit t offControl 2 true)).tile t).rcache = [] := by
  rw [(order_tileControl (b := true) ht hopen (.inr ⟨.inl rfl, hd⟩)).tile t, actTile_control, stallStep_tile,
    bit_withBit s true (by decide) (by decide)]
  exact rcStep_rcache _ t

theorem stallClear_counters {s : State} {o : Origin} {t : Nat} (ht : t < 1152)
    (hopen : s.spare.opened.contains (t / 36) = false) (hd : anyButDebug (roleOf o) = true) {i : Nat} (hi : i < 48) :
    (s.order o t offControl (s.withBit t offControl 3 true)).rdN t (0x40 + 4 * i) = 0 := by
  rw [rdN_of_regs (order_tileControl (b := true) ht hopen (.inr ⟨.inr rfl, hd⟩)).regs, actTile_control,
    bit_withBit s true (by decide) (by decide)]
  unfold stallStep State.stallClear
  rw [if_pos rfl]
  exact stallClear_zero _ t 48 i (le_refl _) hi

/-! ## DBG_ACC_SEL -/

theorem order_dbgAccSel {s : State} (o : Origin) {t : Nat} (v : Word) (ht : t < 1152)
    (hopen : s.spare.opened.contains (t / 36) = false) (hd : s.debugMode t = true) :
    Answered ((s.accept o t 0x300 v).2.2.actTile t 0x300 (v.toNat &&& 0x1FF)) (s.order o t 0x300 v) := by
  have hk : pageKind t = kTile := pageKind_tile ht
  refine order_allOf (m := 0x1FF) (st := stOk) (g := fun u => u.actTile t 0x300 (v.toNat &&& 0x1FF)) (by rw [hk]; decide)
    (fun _ => hopen) (by decide) (fun j n => ?_) (fun j n => ?_) (by decide)
  · have hf : (s.journaled j n).fields (roleOf o) t 0x300 v.toNat = allOf 0x1FF (s.debugMode t) := by
      unfold State.fields
      dsimp only
      rw [hk]
      rfl
    rw [hf, hd]
    rfl
  · unfold State.act
    dsimp only
    rw [hk]
    rfl

theorem dbgAccSel_selects {s : State} (o : Origin) {t : Nat} (v : Word) (ht : t < 1152)
    (hopen : s.spare.opened.contains (t / 36) = false) (hd : s.debugMode t = true) :
    (s.order o t 0x300 v).rdN t 0x300 &&& 0x1FF = v.toNat &&& 0x1FF ∧
      (s.order o t 0x300 v).tile t = { s.tile t with dbgRow := none } ∧ DebugKeeps t s (s.order o t 0x300 v) := by
  have ha := order_dbgAccSel o v ht hopen hd
  have hact : ∀ u : State, u.actTile t 0x300 (v.toNat &&& 0x1FF) =
      (u.keep t 0x300 0x1FF (v.toNat &&& 0x1FF)).modTile t fun x => { x with dbgRow := none } := fun u => rfl
  have hacc := debugKeeps_accept t s o t 0x300 v
  refine ⟨?_, ?_, (hacc.trans ?_).trans (ha.debugKeeps t)⟩
  · rw [rdN_of_regs ha.regs, hact]
    refine Nat.eq_of_testBit_eq fun i => ?_
    have hk : ∀ u : State, (((u.keep t 0x300 0x1FF (v.toNat &&& 0x1FF)).modTile t fun x => { x with dbgRow := none }).rdN t
        0x300) = (u.keep t 0x300 0x1FF (v.toNat &&& 0x1FF)).rdN t 0x300 := fun _ => rfl
    simp only [hk, Nat.testBit_and, keep_testBit]
    rw [show 0x1FF = 2 ^ 9 - 1 from rfl, Nat.testBit_two_pow_sub_one]
    by_cases hi : i < 9
    · rw [decide_eq_true hi, decide_eq_true (by omega : i < 32)]
      simp
    · rw [decide_eq_false hi]
      simp
  · rw [ha.tile, hact, State.tile_modTile_same]
    obtain ⟨-, j, n, h⟩ := accept_journaled s o t 0x300 v
    rw [h]
    rfl
  · rw [hact]
    exact (debugKeeps_keep t _ t 0x300 0x1FF _).trans (debugKeeps_modTile t _ rfl)

/-! ## ACC_ROW_LATCH -/

theorem accRowLatch_ends {s : State} {t : Nat} (hs : s.Serves) (ht : t < 1152) :
    (s.debugMode t = true ∧ (s.tile t).dbgRow = none ∧ (∀ r ∈ (s.tile t).rescale, r.acc ≠ s.field t 0x300 3 0) →
      Ends (exec (.accRowLatch t) s) (s.setTile t { s.tile t with
        dbgRow := some (s.field t 0x300 3 0, s.field t 0x300 8 4), dbgAcc := (s.tile t).accAt (s.field t 0x300 3 0) })) ∧
    (¬ (s.debugMode t = true ∧ (s.tile t).dbgRow = none ∧ ∀ r ∈ (s.tile t).rescale, r.acc ≠ s.field t 0x300 3 0) →
      Ends (exec (.accRowLatch t) s) s) := by
  have hshut : (!s.debugMode t || (s.tile t).dbgRow.isSome || (s.tile t).rescale.any (·.acc == s.field t 0x300 3 0)) = true ↔
      ¬ (s.debugMode t = true ∧ (s.tile t).dbgRow = none ∧ ∀ r ∈ (s.tile t).rescale, r.acc ≠ s.field t 0x300 3 0) := by
    cases s.debugMode t <;> cases (s.tile t).dbgRow <;> simp
  constructor
  · intro h
    exact show Ends (execAccRowLatch t s) _ from
      runPart_ends_of (decide_eq_true ht) hs.on (if_neg fun hc => (hshut.1 hc) h)
  · intro h
    exact show Ends (execAccRowLatch t s) _ from runPart_ends_of (decide_eq_true ht) hs.on (if_pos (hshut.2 h))

end Sys2Proof.Machine
end

section
/-!
PROOF. Debug access: the checker's test mode and raw accesses, at a slice and at a stack.
-/
namespace Sys2Proof.Machine

/-! ## The pages of slices and stacks -/

theorem slicePage_kind {k : Nat} (hk : k < 2304) : pageKind (slicePage k) = kShadeL ∨ pageKind (slicePage k) = kShadeU := by
  unfold slicePage
  by_cases h : k < 1152
  · rw [if_pos h]
    unfold pageKind
    rw [if_neg (by omega), if_pos (by rw [Bool.and_eq_true, decide_eq_true_eq, decide_eq_true_eq]; omega)]
    exact .inl rfl
  · rw [if_neg h]
    unfold pageKind
    rw [if_neg (by omega), if_neg (by rw [Bool.and_eq_true, decide_eq_true_eq, decide_eq_true_eq]; omega),
      if_pos (by rw [Bool.and_eq_true, decide_eq_true_eq, decide_eq_true_eq]; omega)]
    exact .inr rfl

theorem sliceOfPage_slicePage {k : Nat} (hk : k < 2304) : sliceOfPage (slicePage k) = k := by
  unfold slicePage sliceOfPage
  split
  · rw [if_pos (by omega)]
    omega
  · rw [if_neg (by omega)]
    omega

theorem stackPage_kind {j : Nat} (hj : j < 8) : pageKind (stackPage j) = kStack := by
  unfold stackPage pageKind
  rw [if_neg (by omega), if_neg (by rw [Bool.and_eq_true, decide_eq_true_eq, decide_eq_true_eq]; omega),
    if_neg (by rw [Bool.and_eq_true, decide_eq_true_eq, decide_eq_true_eq]; omega),
    if_pos (by rw [Bool.and_eq_true, decide_eq_true_eq, decide_eq_true_eq]; omega)]

theorem slicePage_notTile {k : Nat} (hk : k < 2304) : pageKind (slicePage k) ≠ kTile := by
  rcases slicePage_kind hk with h | h <;> rw [h] <;> decide

theorem slicePage_notStack {k : Nat} (hk : k < 2304) : (pageKind (slicePage k) == kStack) = false := by
  rcases slicePage_kind hk with h | h <;> rw [h] <;> decide

theorem slicePage_some {k : Nat} (hk : k < 2304) : pageKind (slicePage k) ≠ 0 := by
  rcases slicePage_kind hk with h | h <;> rw [h] <;> decide

theorem stackPage_isStack {j : Nat} (hj : j < 8) : (pageKind (stackPage j) == kStack) = true := by
  rw [stackPage_kind hj]
  decide

theorem stackPage_index (j : Nat) : stackPage j - 0x2000 = j := Nat.add_sub_cancel_left ..

/-- An access to a slice's registers goes to that slice. -/
theorem fields_slice (s : State) (r : Role) {k : Nat} (hk : k < 2304) {off : Nat} (h1 : (off == offEvt || off == offEvtEn) = false)
    (h2 : (off == offForce) = false) (v : Nat) : s.fields r (slicePage k) off v = s.sliceFields r k off v := by
  unfold State.fields
  dsimp only
  rw [h1, h2, sliceOfPage_slicePage hk]
  rcases slicePage_kind hk with h | h <;> rw [h] <;> rfl

theorem act_slice (s : State) (o : Origin) {k : Nat} (hk : k < 2304) {off : Nat} (h1 : (off == offEvt) = false)
    (h2 : (off == offEvtEn) = false) (h3 : (off == offForce) = false) (m v : Nat) :
    s.act o (slicePage k) off m v = (stOk, s.actSlice k off m v) := by
  unfold State.act
  dsimp only
  rw [h1, h2, h3, sliceOfPage_slicePage hk]
  rcases slicePage_kind hk with h | h <;> rw [h] <;> rfl

theorem fields_stack (s : State) (r : Role) {j : Nat} (hj : j < 8) {off : Nat} (h1 : (off == offEvt || off == offEvtEn) = false)
    (h2 : (off == offForce) = false) (v : Nat) : s.fields r (stackPage j) off v = s.stackFields r j off v := by
  unfold State.fields
  dsimp only
  rw [h1, h2, stackPage_kind hj, stackPage_index]
  rfl

theorem act_stack (s : State) (o : Origin) {j : Nat} (hj : j < 8) {off : Nat} (h1 : (off == offEvt) = false)
    (h2 : (off == offEvtEn) = false) (h3 : (off == offForce) = false) (m v : Nat) :
    s.act o (stackPage j) off m v = s.actStack j off m v := by
  unfold State.act
  dsimp only
  rw [h1, h2, h3, stackPage_kind hj, stackPage_index]
  rfl

theorem sliceCurrent {s : State} {k : Nat} (hk : k < 2304) : s.current (slicePage k) offControl = s.rdN (slicePage k) offControl := by
  have hv : s.regValue (slicePage k) offControl = BitVec.ofNat 32 (s.rdN (slicePage k) offControl) := by
    unfold State.regValue
    dsimp only
    rw [sliceOfPage_slicePage hk]
    rcases slicePage_kind hk with h | h <;> rw [h] <;> rfl
  unfold State.current
  rw [if_neg (by decide), hv, BitVec.toNat_ofNat]
  exact Nat.mod_eq_of_lt (s.rdN_lt _ _)

theorem stackCurrent {s : State} {j : Nat} (hj : j < 8) : s.current (stackPage j) offControl = s.rdN (stackPage j) offControl := by
  have hv : s.regValue (stackPage j) offControl = BitVec.ofNat 32 (s.rdN (stackPage j) offControl) := by
    unfold State.regValue
    dsimp only
    rw [stackPage_kind hj, stackPage_index]
    rfl
  unfold State.current
  rw [if_neg (by decide), hv, BitVec.toNat_ofNat]
  exact Nat.mod_eq_of_lt (s.rdN_lt _ _)

/-! ## CHECKER of CONTROL -/

theorem debugKeeps_agRecord (t : Nat) (s : State) (c : Nat) (p : List Nat) : DebugKeeps t s (s.agRecord c p) :=
  .of_eq rfl rfl rfl rfl

theorem debugKeeps_setFlag (t : Nat) (s : State) (p o i : Nat) (b : Bool) : DebugKeeps t s (s.setFlag p o i b) :=
  debugKeeps_wrN t s p o _

theorem debugKeeps_setChecker (t : Nat) (s : State) (page : Nat) (b : Bool) : DebugKeeps t s (s.setChecker page b) := by
  unfold State.setChecker
  split
  · exact .refl t s
  · exact (debugKeeps_setFlag t s page offControl _ b).trans (debugKeeps_agRecord t _ _ _)

/-- The checker's test mode is as it was set. -/
theorem setChecker_chkOn (s : State) (page : Nat) (b : Bool) : (s.setChecker page b).chkOn page = b := by
  unfold State.setChecker
  by_cases h : s.chkOn page = b
  · rw [if_pos (by rw [h]; exact beq_self_eq_true b), h]
  · rw [if_neg (by simpa using h)]
    have hr : ∀ (u : State) c p, (u.agRecord c p).chkOn page = u.chkOn page := fun _ _ _ => rfl
    rw [hr]
    exact State.flag_setFlag_same _ _ _ _ _ (by split <;> decide)

theorem debugKeeps_modSlice (t : Nat) (s : State) (k : Nat) (f : Slice → Slice) : DebugKeeps t s (s.modSlice k f) :=
  .of_eq rfl rfl rfl rfl

theorem debugKeeps_flushMerge (t : Nat) (s : State) (k line : Nat) : DebugKeeps t s (s.flushMerge k line) := by
  unfold State.flushMerge
  dsimp only
  split
  · exact .refl t s
  · split <;> exact .of_eq rfl rfl rfl rfl

theorem debugKeeps_foldl {α : Type} (t : Nat) (f : State → α → State) (hf : ∀ s x, DebugKeeps t s (f s x)) (l : List α) (s : State) :
    DebugKeeps t s (l.foldl f s) := by
  induction l generalizing s with
  | nil => exact .refl t s
  | cons x l ih => exact (hf s x).trans (ih _)

theorem debugKeeps_beginRecode (t : Nat) (s : State) (k : Nat) (b : Bool) : DebugKeeps t s (s.beginRecode k b) := by
  unfold State.beginRecode
  dsimp only
  split
  · exact .refl t s
  · exact (debugKeeps_foldl t _ (fun u l => debugKeeps_flushMerge t u k l) _ s).trans (debugKeeps_modSlice t _ k _)

/-- The change of mode that an order to a slice's CONTROL begins. -/
def modeStep (s : State) (k m v : Nat) : State :=
  if bit v 0 then s.beginRecode k true else if bit m 0 && s.holdState == 2 then s.beginRecode k false else s

theorem actSlice_control (s : State) (k m v : Nat) : s.actSlice k offControl m v =
    (modeStep (s.keep (slicePage k) offControl 7 v) k m v).setChecker (slicePage k) (bit v 3) := rfl

theorem debugKeeps_modeStep (t : Nat) (s : State) (k m v : Nat) : DebugKeeps t s (modeStep s k m v) := by
  unfold modeStep
  split
  · exact debugKeeps_beginRecode t s k true
  · split
    · exact debugKeeps_beginRecode t s k false
    · exact .refl t s

theorem debugKeeps_sliceControl (t : Nat) (s : State) (k m v : Nat) : DebugKeeps t s (s.actSlice k offControl m v) := by
  rw [actSlice_control]
  exact ((debugKeeps_keep t s (slicePage k) offControl 7 v).trans (debugKeeps_modeStep t _ k m v)).trans
    (debugKeeps_setChecker t _ _ _)

theorem actSlice_chkOn (s : State) (k m v : Nat) : (s.actSlice k offControl m v).chkOn (slicePage k) = bit v 3 := by
  rw [actSlice_control]
  exact setChecker_chkOn _ _ _

theorem sliceControl_mask (a b c d : Bool) : (eachOf [(0, 1, a), (1, 1, b), (2, 1, c), (3, 1, d)]).1 = 15 ∧
    (d = true → (eachOf [(0, 1, a), (1, 1, b), (2, 1, c), (3, 1, d)]).2.testBit 3 = true) := by
  revert a b c d
  decide

theorem stackControl_mask (a b c : Bool) : (eachOf [(0, 1, a), (1, 1, b), (8, 8, c)]).1 = 0xFF03 ∧
    (b = true → (eachOf [(0, 1, a), (1, 1, b), (8, 8, c)]).2.testBit 1 = true) := by
  revert a b c
  decide

/-- A debug session may clear CHECKER, and set it in debug mode with no image in force. -/
def CheckerOpen (s : State) (r : Role) (b : Bool) : Prop :=
  debugOnly r = true ∧ (b = true → s.flag mgmtPage 0x108 2 = true ∧ s.adm.active = none)

theorem checkerOk_of_open {s : State} {r : Role} {b : Bool} (h : CheckerOpen s r b) (j : Sparse JEnt) (n : Nat) :
    (s.journaled j n).checkerOk r b = true := by
  obtain ⟨hd, hb⟩ := h
  have hc : (s.journaled j n).checkerOk r b = (debugOnly r && (!b || (s.flag mgmtPage 0x108 2 && s.adm.active.isNone))) := rfl
  rw [hc, hd]
  cases b with
  | false => rfl
  | true => rw [(hb rfl).1, (hb rfl).2]; rfl

/-- The fields of a slice's CONTROL in an order to CHECKER that may be given. -/
theorem sliceChecker_fields {s : State} {r : Role} {k v : Nat} {b : Bool} (hk : k < 2304) (hb : CheckerOpen s r b)
    (hv : bit v 3 = b) : ∃ f : Fields, (∀ j n, (s.journaled j n).fields r (slicePage k) offControl v = f) ∧ f.1 = 15 ∧
      f.2.testBit 3 = true := by
  obtain ⟨hm, hm3⟩ := sliceControl_mask (operatorOnly r && (bit v 0 || s.holdState == 2)) (operatorOnly r)
    (debugOnly r || (bit v 2 && operatorOnly r)) true
  refine ⟨_, fun j n => ?_, hm, hm3 rfl⟩
  rw [fields_slice _ _ hk (by decide) (by decide)]
  unfold State.sliceFields
  dsimp only
  rw [if_pos (by decide), hv, checkerOk_of_open hb j n]
  rfl

/-- The bit that an order writes. -/
theorem withBit_bit (s : State) (page i : Nat) (b : Bool) (hi : i < 32) : bit (s.withBit page offControl i b).toNat i = b := by
  rw [bit, withBit_testBit _ _ _ _ _ _ hi, if_pos rfl]

theorem order_sliceChecker {s : State} {o : Origin} {k : Nat} {b : Bool} (hk : k < 2304) (hb : CheckerOpen s (roleOf o) b) :
    ∃ m, Answered ((s.accept o (slicePage k) offControl (s.withBit (slicePage k) offControl 3 b)).2.2.actSlice k offControl m
      ((s.withBit (slicePage k) offControl 3 b).toNat &&& 15))
      (s.order o (slicePage k) offControl (s.withBit (slicePage k) offControl 3 b)) := by
  obtain ⟨f, hf, hm, hm3⟩ := sliceChecker_fields hk hb (withBit_bit s (slicePage k) 3 b (by decide))
  refine ⟨f.2, order_control (g := fun u => u.actSlice k offControl f.2 ((s.withBit (slicePage k) offControl 3 b).toNat &&& 15))
    (st := stOk) (slicePage_some hk) (fun h => absurd h (slicePage_notTile hk)) (fun j n => sliceCurrent hk) hf ?_ hm3
    (fun j n => ?_) (by decide)⟩
  · rw [hm]
    decide
  · rw [hm]
    exact act_slice _ o hk (by decide) (by decide) (by decide) _ _

theorem sliceChecker_does {s : State} {o : Origin} {k : Nat} {b : Bool} (hk : k < 2304) (hb : CheckerOpen s (roleOf o) b)
    (t : Nat) : (s.order o (slicePage k) offControl (s.withBit (slicePage k) offControl 3 b)).flag (slicePage k) offControl 3 = b ∧
      DebugKeeps t s (s.order o (slicePage k) offControl (s.withBit (slicePage k) offControl 3 b)) := by
  obtain ⟨m, ha⟩ := order_sliceChecker hk hb
  refine ⟨?_, ((debugKeeps_accept t s o _ _ _).trans (debugKeeps_sliceControl t _ k m _)).trans (ha.debugKeeps t)⟩
  have hflag := actSlice_chkOn (s.accept o (slicePage k) offControl (s.withBit (slicePage k) offControl 3 b)).2.2 k m
    ((s.withBit (slicePage k) offControl 3 b).toNat &&& 15)
  rw [bit_withBit s b (by decide) (by decide)] at hflag
  unfold State.chkOn at hflag
  rw [slicePage_notStack hk] at hflag
  rw [flag_of_regs ha.regs]
  exact hflag

theorem stackChecker_fields {s : State} {r : Role} {j v : Nat} {b : Bool} (hj : j < 8) (hb : CheckerOpen s r b)
    (hv : bit v 1 = b) : ∃ f : Fields, (∀ i n, (s.journaled i n).fields r (stackPage j) offControl v = f) ∧ f.1 = 0xFF03 ∧
      f.2.testBit 1 = true := by
  obtain ⟨hm, hm1⟩ := stackControl_mask (debugOnly r || (bit v 0 && operatorOnly r)) true (operatorOnly r)
  refine ⟨_, fun i n => ?_, hm, hm1 rfl⟩
  rw [fields_stack _ _ hj (by decide) (by decide)]
  unfold State.stackFields
  dsimp only
  rw [if_pos (by decide), hv, checkerOk_of_open hb i n]

/-- What an order to a stack's CONTROL does. -/
def stackControl (s : State) (j v : Nat) : State := (s.keep (stackPage j) offControl 0xFF01 v).setChecker (stackPage j) (bit v 1)

theorem actStack_control (s : State) (j m v : Nat) : s.actStack j offControl m v = (stOk, stackControl s j v) := rfl

theorem order_stackChecker {s : State} {o : Origin} {j : Nat} {b : Bool} (hj : j < 8) (hb : CheckerOpen s (roleOf o) b) :
    Answered (stackControl (s.accept o (stackPage j) offControl (s.withBit (stackPage j) offControl 1 b)).2.2 j
      ((s.withBit (stackPage j) offControl 1 b).toNat &&& 0xFF03))
      (s.order o (stackPage j) offControl (s.withBit (stackPage j) offControl 1 b)) := by
  obtain ⟨f, hf, hm, hm1⟩ := stackChecker_fields hj hb (withBit_bit s (stackPage j) 1 b (by decide))
  refine order_control (st := stOk) (g := fun u => stackControl u j ((s.withBit (stackPage j) offControl 1 b).toNat &&& 0xFF03))
    (by rw [stackPage_kind hj]; decide) (fun h => absurd (h.symm.trans (stackPage_kind hj)) (by decide))
    (fun i n => stackCurrent hj) hf ?_ hm1 (fun i n => ?_) (by decide)
  · rw [hm]
    decide
  · rw [hm, act_stack _ o hj (by decide) (by decide) (by decide), actStack_control]

theorem stackControl_chkOn (s : State) (j v : Nat) : (stackControl s j v).chkOn (stackPage j) = bit v 1 := setChecker_chkOn _ _ _

theorem stackChecker_does {s : State} {o : Origin} {j : Nat} {b : Bool} (hj : j < 8) (hb : CheckerOpen s (roleOf o) b)
    (t : Nat) : (s.order o (stackPage j) offControl (s.withBit (stackPage j) offControl 1 b)).flag (stackPage j) offControl 1 = b ∧
      DebugKeeps t s (s.order o (stackPage j) offControl (s.withBit (stackPage j) offControl 1 b)) := by
  have ha := order_stackChecker hj hb
  refine ⟨?_, ((debugKeeps_accept t s o _ _ _).trans ((debugKeeps_keep t _ _ _ 0xFF01 _).trans
    (debugKeeps_setChecker t _ _ _))).trans (ha.debugKeeps t)⟩
  have hflag := stackControl_chkOn (s.accept o (stackPage j) offControl (s.withBit (stackPage j) offControl 1 b)).2.2 j
    ((s.withBit (stackPage j) offControl 1 b).toNat &&& 0xFF03)
  rw [bit_withBit s b (by decide) (by decide)] at hflag
  unfold State.chkOn at hflag
  rw [stackPage_isStack hj] at hflag
  rw [flag_of_regs ha.regs]
  exact hflag

end Sys2Proof.Machine
end

section
/-!
PROOF. Debug access: raw accesses to a slice and to a stack.
-/
namespace Sys2Proof.Machine

/-! ## The check bits of a code word are one byte -/

theorem foldl_xor_lt {α : Type} (g : α → Nat) (p : α → Bool) (l : List α) (hl : ∀ x ∈ l, g x < 2 ^ 8) (c : Nat) (hc : c < 2 ^ 8) :
    l.foldl (fun c x => if p x then c ^^^ g x else c) c < 2 ^ 8 := by
  induction l generalizing c with
  | nil => exact hc
  | cons x l ih =>
    refine ih (fun y hy => hl y (List.mem_cons_of_mem _ hy)) _ ?_
    dsimp only
    split
    · exact Nat.xor_lt_two_pow hc (hl x List.mem_cons_self)
    · exact hc

theorem secCols_lt : ∀ x ∈ secCols.zip (List.range 64), x.1 < 2 ^ 8 := by
  decide

theorem secCheck_lt (d : Nat) : secCheck d < 2 ^ 8 :=
  foldl_xor_lt (fun x : Nat × Nat => x.1) (fun x => bit d x.2) _ secCols_lt 0 (by decide)

theorem parCheck_lt (d : Nat) : parCheck d < 2 ^ 8 := by
  have h : ∀ n, forN n 0 (fun c i => if weight8 (d / 2 ^ (8 * i) % 256) % 2 == 1 then c + 2 ^ i else c) < 2 ^ n := by
    intro n
    induction n with
    | zero => exact Nat.one_pos
    | succ n ih =>
      rw [forN, List.range_succ, List.foldl_append, List.foldl_cons, List.foldl_nil, pow_succ]
      change (if _ then forN n 0 _ + 2 ^ n else forN n 0 _) < _
      split
      · exact (Nat.add_lt_add_right ih _).trans_eq (mul_two _).symm
      · exact lt_of_lt_of_le ih (Nat.le_mul_of_pos_right _ (by decide))
  exact h 8

theorem storedCheck_lt (s : State) (k : Nat) (l : Line) (w : Nat) : s.storedCheck k l w < 2 ^ 32 := by
  unfold State.storedCheck
  have hc : (sget 0 l.chk w).toNat < 2 ^ 8 := (sget (0 : Byte) l.chk w).isLt
  refine lt_trans (Nat.xor_lt_two_pow ?_ hc) (by decide : 2 ^ 8 < 2 ^ 32)
  split
  · exact parCheck_lt _
  · exact secCheck_lt _

theorem leNat_lt (bs : List Byte) : leNat bs < 256 ^ bs.length := by
  induction bs with
  | nil => exact Nat.one_pos
  | cons b bs ih =>
    have hb : b.toNat < 256 := b.isLt
    rw [List.length_cons, pow_succ, leNat]
    omega

theorem fieldAt_lt (bs : List Byte) (off n : Nat) : fieldAt bs off n < 256 ^ n := by
  have h := leNat_lt (slice bs off n)
  rw [slice_length] at h
  exact h

/-! ## Wide registers -/

theorem rd64_wr64 (s : State) {p o v : Nat} (ho : regOff o) (ho' : regOff (o + 4)) (hv : v < 2 ^ 64) : (s.wr64 p o v).rd64 p o = v := by
  unfold State.wr64 State.rd64
  rw [State.rdN_wrN_same, wrN_rdN_other ho' ho (by omega), State.rdN_wrN_same]
  omega

theorem rd64_wrN_other {s : State} {p o o' v : Nat} (ho : regOff o) (ho' : regOff o') (ho4 : regOff (o' + 4)) (h : o ≠ o')
    (h4 : o ≠ o' + 4) : (s.wrN p o v).rd64 p o' = s.rd64 p o' := by
  unfold State.rd64
  rw [wrN_rdN_other ho ho' (by omega), wrN_rdN_other ho ho4 (by omega)]

theorem rdN_wr64_other {s : State} {p o o' v : Nat} (ho : regOff o) (ho4 : regOff (o + 4)) (ho' : regOff o') (h : o' ≠ o)
    (h4 : o' ≠ o + 4) : (s.wr64 p o v).rdN p o' = s.rdN p o' := by
  unfold State.wr64
  rw [wrN_rdN_other ho4 ho' (by omega), wrN_rdN_other ho ho' (by omega)]

/-! ## A raw access to a slice -/

theorem debugKeeps_wr64 (t : Nat) (s : State) (p o v : Nat) : DebugKeeps t s (s.wr64 p o v) := .of_eq rfl rfl rfl rfl

theorem debugKeeps_chkMissed (t : Nat) (s : State) (p : Nat) (b : Bool) : DebugKeeps t s (s.chkMissed p b) :=
  debugKeeps_setFlag t s p _ 1 b

theorem chkMissed_slice (s : State) {k : Nat} (hk : k < 2304) (b : Bool) :
    s.chkMissed (slicePage k) b = s.setFlag (slicePage k) 0x218 1 b := by
  unfold State.chkMissed
  rw [slicePage_notStack hk, if_neg Bool.false_ne_true]

theorem chkMissed_stack (s : State) {j : Nat} (hj : j < 8) (b : Bool) :
    s.chkMissed (stackPage j) b = s.setFlag (stackPage j) 0x28C 1 b := by
  unfold State.chkMissed
  rw [stackPage_isStack hj, if_pos rfl]

/-- A flag is no part of a slice. -/
theorem setFlag_slice (s : State) (p o i : Nat) (b : Bool) (k : Nat) : (s.setFlag p o i b).slice k = s.slice k := rfl

/-- What a raw read of a slice shows. -/
def rawShown (s : State) (k : Nat) (l : Line) (w : Nat) : State :=
  ((s.chkMissed (slicePage k) false).wr64 (slicePage k) 0x208 (l.word w)).wrN (slicePage k) 0x210 (s.storedCheck k l w)

theorem rawSlice_read {s : State} {k w : Nat} {l : Line} (h : s.chkWord k = some (l, w)) : s.rawSlice k false = rawShown s k l w := by
  suffices hf : ∀ f, f = State.rawSlice → f s k false = rawShown s k l w from hf _ rfl
  delta State.rawSlice
  intro f hf
  subst hf
  simp only [h]
  rfl

theorem rawSlice_missed {s : State} {k : Nat} (h : s.chkWord k = none) (b : Bool) : s.rawSlice k b = s.chkMissed (slicePage k) true := by
  suffices hf : ∀ f, f = State.rawSlice → f s k b = s.chkMissed (slicePage k) true from hf _ rfl
  delta State.rawSlice
  intro f hf
  subst hf
  simp only [h]

theorem rawShown_word (s : State) (k : Nat) (l : Line) (w : Nat) : (rawShown s k l w).rd64 (slicePage k) 0x208 = l.word w := by
  unfold rawShown
  rw [rd64_wrN_other (by decide) (by decide) (by decide) (by decide) (by decide), rd64_wr64 _ (by decide) (by decide)]
  exact fieldAt_lt _ _ 8

theorem rawShown_check (s : State) (k : Nat) (l : Line) (w : Nat) :
    (rawShown s k l w).rdN (slicePage k) 0x210 = s.storedCheck k l w := by
  unfold rawShown
  rw [State.rdN_wrN_same, Nat.mod_eq_of_lt (storedCheck_lt s k l w)]

theorem rawShown_found (s : State) {k : Nat} (hk : k < 2304) (l : Line) (w : Nat) :
    (rawShown s k l w).flag (slicePage k) 0x218 1 = false := by
  unfold rawShown State.flag
  rw [wrN_rdN_other (by decide) (by decide) (by omega), rdN_wr64_other (by decide) (by decide) (by decide) (by decide) (by decide),
    chkMissed_slice s hk]
  exact State.flag_setFlag_same s (slicePage k) 0x218 1 false (by decide)

theorem rawShown_slices (s : State) (k : Nat) (l : Line) (w : Nat) : (rawShown s k l w).slices = s.slices := rfl

theorem debugKeeps_rawShown (t : Nat) (s : State) (k : Nat) (l : Line) (w : Nat) : DebugKeeps t s (rawShown s k l w) :=
  ((debugKeeps_chkMissed t s _ false).trans (debugKeeps_wr64 t _ _ _ _)).trans (debugKeeps_wrN t _ _ _ _)

/-! ### Writing -/

theorem find_some {x : Slice} {n : Nat} {l : Line} (h : x.find n = some l) : l.line = n ∧ l.st ≠ .invalid := by
  have := List.find?_some h
  simpa using this

theorem find_put (x : Slice) {l : Line} (h : l.st ≠ .invalid) : (x.put l).find l.line = some l := by
  unfold Slice.put Slice.find
  rw [List.find?_append, List.find?_eq_none.2 fun y hy => ?_]
  · simp [h]
  · have hne := (List.mem_filter.1 hy).2
    simp only [bne_iff_ne, ne_eq] at hne
    simp [hne]

theorem slice_modSlice (s : State) (k : Nat) (f : Slice → Slice) : (s.modSlice k f).slice k = f (s.slice k) := sget_sput_same ..

/-- The line and word that CHK_ADDR names are in the slice. -/
theorem chkWord_find {s : State} {k w : Nat} {l : Line} (h : s.chkWord k = some (l, w)) :
    (s.slice k).find l.line = some l ∧ l.st ≠ .invalid ∧ w < 32 := by
  unfold State.chkWord at h
  dsimp only at h
  split at h
  · exact absurd h (by simp)
  · obtain ⟨x, hx, hl⟩ := Option.bind_eq_some_iff.1 h
    split at hl
    · exact absurd hl (by simp)
    · injection hl with hl
      injection hl with hl hw
      subst hl
      obtain ⟨hline, hst⟩ := find_some hx
      refine ⟨by rw [hline]; exact hx, hst, ?_⟩
      rw [← hw]
      omega

/-- A segment without an entry in the merge buffer has nothing to write back. -/
theorem flushSegment_slice {s : State} {k seg : Nat} (h : ∀ e ∈ (s.slice k).merge, e.seg / 4 ≠ seg / 4) :
    (s.flushSegment k seg).slice k = s.slice k := by
  have hnone : (s.slice k).merge.filter (·.seg == seg) = [] := List.filter_eq_nil_iff.2 fun e he hc =>
    h e he (congrArg (· / 4) (beq_iff_eq.1 hc))
  have hall : (s.slice k).merge.filter (·.seg != seg) = (s.slice k).merge := List.filter_eq_self.2 fun e he =>
    bne_iff_ne.2 fun hc => h e he (congrArg (· / 4) hc)
  unfold State.flushSegment
  rw [slice_modSlice, hnone, hall]
  rfl

theorem debugKeeps_flushSegment (t : Nat) (s : State) (k seg : Nat) : DebugKeeps t s (s.flushSegment k seg) :=
  debugKeeps_modSlice t s k _

/-- The line with the word of CHK_DATA and the check bits of CHK_CHECK put in. -/
def rawPatched (s : State) (k : Nat) (l : Line) (w : Nat) : Line :=
  { l with
    data := patch l.data (8 * w) (natLe 8 (s.rd64 (slicePage k) 0x208))
    chk := sset 0 l.chk w (BitVec.ofNat 8 ((if (s.slice k).parity then parCheck (s.rd64 (slicePage k) 0x208)
      else secCheck (s.rd64 (slicePage k) 0x208)) ^^^ s.field (slicePage k) 0x210 7 0)) }

theorem chkMissed_rawPatched (s : State) {k : Nat} (hk : k < 2304) (b : Bool) (l : Line) (w : Nat) :
    rawPatched (s.chkMissed (slicePage k) b) k l w = rawPatched s k l w := by
  have h64 : (s.chkMissed (slicePage k) b).rd64 (slicePage k) 0x208 = s.rd64 (slicePage k) 0x208 := by
    rw [chkMissed_slice s hk]
    exact rd64_wrN_other (by decide) (by decide) (by decide) (by decide) (by decide)
  have hf : (s.chkMissed (slicePage k) b).field (slicePage k) 0x210 7 0 = s.field (slicePage k) 0x210 7 0 := by
    rw [chkMissed_slice s hk]
    exact congrArg (bits · 7 0) (wrN_rdN_other (by decide) (by decide) (by omega))
  have hs : (s.chkMissed (slicePage k) b).slice k = s.slice k := by
    rw [chkMissed_slice s hk]
    exact setFlag_slice ..
  unfold rawPatched
  rw [h64, hf, hs]

/-- A raw write, where the merge buffer holds nothing of the line. -/
def rawWritten (s : State) (k : Nat) (l : Line) (w : Nat) : State :=
  ((s.chkMissed (slicePage k) false).flushSegment k (l.line * 4 + w / 8)).modSlice k fun x => x.put (rawPatched s k l w)

theorem rawSlice_writes {s : State} {k w : Nat} {l : Line} (hk : k < 2304) (h : s.chkWord k = some (l, w))
    (hm : ∀ e ∈ (s.slice k).merge, e.seg / 4 ≠ l.line) : s.rawSlice k true = rawWritten s k l w := by
  obtain ⟨hfind, -, hw⟩ := chkWord_find h
  have hseg : (l.line * 4 + w / 8) / 4 = l.line := by omega
  have hsl : ((s.chkMissed (slicePage k) false).flushSegment k (l.line * 4 + w / 8)).slice k = s.slice k :=
    flushSegment_slice (s := s.chkMissed (slicePage k) false) (by rw [hseg]; exact hm)
  have hpat : rawPatched ((s.chkMissed (slicePage k) false).flushSegment k (l.line * 4 + w / 8)) k l w = rawPatched s k l w := by
    refine Eq.trans ?_ (chkMissed_rawPatched s hk false l w)
    unfold rawPatched
    rw [hsl]
    rfl
  suffices hf : ∀ f, f = State.rawSlice → f s k true = rawWritten s k l w from hf _ rfl
  delta State.rawSlice
  intro f hf
  subst hf
  simp only [h]
  rw [if_neg (by decide)]
  simp only [hsl, hfind]
  unfold rawWritten
  rw [← hpat]
  unfold rawPatched
  rw [hsl]

/-- A raw write puts the word in the array. -/
theorem rawWritten_find {s : State} {k w : Nat} {l : Line} (h : s.chkWord k = some (l, w)) :
    ((rawWritten s k l w).slice k).find l.line = some (rawPatched s k l w) := by
  obtain ⟨-, hst, -⟩ := chkWord_find h
  unfold rawWritten
  rw [slice_modSlice]
  exact find_put _ (l := rawPatched s k l w) hst

theorem debugKeeps_rawWritten (t : Nat) (s : State) (k : Nat) (l : Line) (w : Nat) : DebugKeeps t s (rawWritten s k l w) :=
  ((debugKeeps_chkMissed t s _ false).trans (debugKeeps_flushSegment t _ k _)).trans (debugKeeps_modSlice t _ k _)

end Sys2Proof.Machine
end

section
/-!
PROOF. Debug access: raw accesses to a stack, and orders to the checker's command registers.
-/
namespace Sys2Proof.Machine

/-! ## Orders to CHK_CMD -/

theorem Answered.slices {s u : State} (h : Answered s u) : u.slices = s.slices := by
  obtain ⟨j, n, c, l, rfl⟩ := h
  rfl

/-- A command of CHK_CMD. -/
def RawCommand (n : Word) : Prop := n = 1 ∨ n = 2

theorem chkFields_may {s : State} {r : Role} {page i m : Nat} (hmay : debugOnly r = true ∨ operatorOnly r = true)
    (hi : (if (pageKind page == kStack) = true then 1 else 3) = i) (hc : s.flag page offControl i = true) :
    s.chkFields r page m = (m, m) := by
  have hon : s.chkOn page = true := by
    unfold State.chkOn
    rw [hi, hc]
  have hr : (debugOnly r || operatorOnly r) = true := by simpa using hmay
  unfold State.chkFields allOf
  rw [hon, hr]
  rfl

/-- A value that is no reserved one starts the access that it names. -/
theorem RawCommand.value {n : Word} (hn : RawCommand n) :
    (n.toNat &&& 3 != 1 && n.toNat &&& 3 != 2) = false ∧ (n.toNat &&& 3 == 2) = (n == 2) := by
  rcases hn with rfl | rfl <;> decide

theorem rawCmd_slice {s : State} {k : Nat} {n : Word} (hk : k < 2304) (hn : RawCommand n) :
    s.rawCmd (slicePage k) (n.toNat &&& 3) = s.rawSlice k (n == 2) := by
  suffices hf : ∀ f, f = State.rawCmd → f s (slicePage k) (n.toNat &&& 3) = s.rawSlice k (n == 2) from hf _ rfl
  delta State.rawCmd
  intro f hf
  subst hf
  obtain ⟨hv, hw⟩ := hn.value
  beta_reduce
  rw [hv, hw, slicePage_notStack hk, sliceOfPage_slicePage hk, if_neg Bool.false_ne_true, if_neg Bool.false_ne_true]

theorem rawCmd_stack {s : State} {j : Nat} {n : Word} (hj : j < 8) (hn : RawCommand n) :
    s.rawCmd (stackPage j) (n.toNat &&& 3) = s.rawStack j (n == 2) := by
  suffices hf : ∀ f, f = State.rawCmd → f s (stackPage j) (n.toNat &&& 3) = s.rawStack j (n == 2) from hf _ rfl
  delta State.rawCmd
  intro f hf
  subst hf
  obtain ⟨hv, hw⟩ := hn.value
  beta_reduce
  rw [hv, hw, stackPage_isStack hj, stackPage_index, if_neg Bool.false_ne_true, if_pos rfl]

theorem sliceFields_cmd (s : State) (r : Role) (k v : Nat) : s.sliceFields r k 0x214 v = s.chkFields r (slicePage k) 3 := by
  unfold State.sliceFields
  rfl

theorem stackFields_cmd (s : State) (r : Role) (j v : Nat) : s.stackFields r j 0x288 v = s.chkFields r (stackPage j) 3 := by
  unfold State.stackFields
  rfl

theorem actSlice_cmd (s : State) (k m v : Nat) : s.actSlice k 0x214 m v = s.rawCmd (slicePage k) v := by
  suffices hf : ∀ f, f = State.actSlice → f s k 0x214 m v = s.rawCmd (slicePage k) v from hf _ rfl
  delta State.actSlice
  intro f hf
  subst hf
  dsimp only
  rw [if_neg (by decide), if_neg (by decide), if_pos (by decide)]

theorem actStack_cmd (s : State) (j m v : Nat) : s.actStack j 0x288 m v = (stOk, s.rawCmd (stackPage j) v) := by
  suffices hf : ∀ f, f = State.actStack → f s j 0x288 m v = (stOk, s.rawCmd (stackPage j) v) from hf _ rfl
  delta State.actStack
  intro f hf
  subst hf
  dsimp only
  rw [if_neg (by decide), if_neg (by decide), if_pos (by decide)]

theorem order_rawSlice {s : State} {o : Origin} {k : Nat} {n : Word} (hk : k < 2304) (hn : RawCommand n)
    (hmay : debugOnly (roleOf o) = true ∨ operatorOnly (roleOf o) = true) (hc : s.flag (slicePage k) offControl 3 = true) :
    Answered ((s.accept o (slicePage k) 0x214 n).2.2.rawSlice k (n == 2)) (s.order o (slicePage k) 0x214 n) := by
  refine order_allOf (m := 3) (st := stOk) (g := fun u => u.rawSlice k (n == 2)) (slicePage_some hk)
    (fun h => absurd h (slicePage_notTile hk)) (by decide) (fun j i => ?_) (fun j i => ?_) (by decide)
  · rw [fields_slice _ _ hk (by decide) (by decide), sliceFields_cmd]
    exact chkFields_may hmay (by rw [slicePage_notStack hk]; rfl) hc
  · rw [act_slice _ o hk (by decide) (by decide) (by decide), actSlice_cmd, rawCmd_slice hk hn]

theorem order_rawStack {s : State} {o : Origin} {j : Nat} {n : Word} (hj : j < 8) (hn : RawCommand n)
    (hmay : debugOnly (roleOf o) = true ∨ operatorOnly (roleOf o) = true) (hc : s.flag (stackPage j) offControl 1 = true) :
    Answered ((s.accept o (stackPage j) 0x288 n).2.2.rawStack j (n == 2)) (s.order o (stackPage j) 0x288 n) := by
  refine order_allOf (m := 3) (st := stOk) (g := fun u => u.rawStack j (n == 2)) (by rw [stackPage_kind hj]; decide)
    (fun h => absurd (h.symm.trans (stackPage_kind hj)) (by decide)) (by decide) (fun i m => ?_) (fun i m => ?_) (by decide)
  · rw [fields_stack _ _ hj (by decide) (by decide), stackFields_cmd]
    exact chkFields_may hmay (by rw [stackPage_isStack hj]; rfl) hc
  · rw [act_stack _ o hj (by decide) (by decide) (by decide), actStack_cmd, rawCmd_stack hj hn]

/-! ## A raw access to a slice, as an order -/

theorem journaled_chkWord (s : State) (j : Sparse JEnt) (n k : Nat) : (s.journaled j n).chkWord k = s.chkWord k := rfl

theorem journaled_storedCheck (s : State) (j : Sparse JEnt) (n k : Nat) (l : Line) (w : Nat) :
    (s.journaled j n).storedCheck k l w = s.storedCheck k l w := rfl

theorem journaled_rawPatched (s : State) (j : Sparse JEnt) (n k : Nat) (l : Line) (w : Nat) :
    rawPatched (s.journaled j n) k l w = rawPatched s k l w := rfl

/-- A raw read of a slice shows the word and its check bits. -/
theorem rawRead_slice {s : State} {o : Origin} {k w : Nat} {l : Line} (hk : k < 2304)
    (hmay : debugOnly (roleOf o) = true ∨ operatorOnly (roleOf o) = true) (hc : s.flag (slicePage k) offControl 3 = true)
    (h : s.chkWord k = some (l, w)) (t : Nat) :
    (s.order o (slicePage k) 0x214 1).rd64 (slicePage k) 0x208 = l.word w ∧
      (s.order o (slicePage k) 0x214 1).rdN (slicePage k) 0x210 = s.storedCheck k l w ∧
      (s.order o (slicePage k) 0x214 1).flag (slicePage k) 0x218 1 = false ∧
      (s.order o (slicePage k) 0x214 1).slices = s.slices ∧ DebugKeeps t s (s.order o (slicePage k) 0x214 1) := by
  have ha := order_rawSlice (n := 1) hk (.inl rfl) hmay hc
  obtain ⟨-, j, n, hacc⟩ := accept_journaled s o (slicePage k) 0x214 1
  have hkeep := debugKeeps_accept t s o (slicePage k) 0x214 1
  rw [hacc] at ha hkeep
  have hread : (s.journaled j n).rawSlice k ((1 : Word) == 2) = rawShown (s.journaled j n) k l w :=
    rawSlice_read ((journaled_chkWord s j n k).trans h)
  rw [hread] at ha
  refine ⟨?_, ?_, ?_, ?_, (hkeep.trans (debugKeeps_rawShown t _ k l w)).trans (ha.debugKeeps t)⟩
  · unfold State.rd64
    rw [rdN_of_regs ha.regs, rdN_of_regs ha.regs]
    exact rawShown_word _ k l w
  · rw [rdN_of_regs ha.regs, rawShown_check, journaled_storedCheck]
  · rw [flag_of_regs ha.regs]
    exact rawShown_found _ hk l w
  · rw [ha.slices, rawShown_slices]
    rfl

/-- A raw write of a slice puts the word and its check bits there. -/
theorem rawWrite_slice {s : State} {o : Origin} {k w : Nat} {l : Line} (hk : k < 2304)
    (hmay : debugOnly (roleOf o) = true ∨ operatorOnly (roleOf o) = true) (hc : s.flag (slicePage k) offControl 3 = true)
    (h : s.chkWord k = some (l, w)) (hm : ∀ e ∈ (s.slice k).merge, e.seg / 4 ≠ l.line) (t : Nat) :
    ((s.order o (slicePage k) 0x214 2).slice k).find l.line = some (rawPatched s k l w) ∧
      DebugKeeps t s (s.order o (slicePage k) 0x214 2) := by
  have ha := order_rawSlice (n := 2) hk (.inr rfl) hmay hc
  obtain ⟨-, j, n, hacc⟩ := accept_journaled s o (slicePage k) 0x214 2
  have hkeep := debugKeeps_accept t s o (slicePage k) 0x214 2
  rw [hacc] at ha hkeep
  have hword := (journaled_chkWord s j n k).trans h
  have hwrite : (s.journaled j n).rawSlice k ((2 : Word) == 2) = rawWritten (s.journaled j n) k l w :=
    rawSlice_writes hk hword hm
  rw [hwrite] at ha
  refine ⟨?_, (hkeep.trans (debugKeeps_rawWritten t _ k l w)).trans (ha.debugKeeps t)⟩
  have hs : (s.order o (slicePage k) 0x214 2).slice k = (rawWritten (s.journaled j n) k l w).slice k :=
    congrArg (fun m => sget ({} : Slice) m k) ha.slices
  rw [hs, rawWritten_find hword, journaled_rawPatched]

/-- A raw access to a slice that names no word says so. -/
theorem rawMissed_slice {s : State} {o : Origin} {k : Nat} {n : Word} (hk : k < 2304) (hn : RawCommand n)
    (hmay : debugOnly (roleOf o) = true ∨ operatorOnly (roleOf o) = true) (hc : s.flag (slicePage k) offControl 3 = true)
    (h : s.chkWord k = none) (t : Nat) : (s.order o (slicePage k) 0x214 n).flag (slicePage k) 0x218 1 = true ∧
      (s.order o (slicePage k) 0x214 n).slices = s.slices ∧ DebugKeeps t s (s.order o (slicePage k) 0x214 n) := by
  have ha := order_rawSlice hk hn hmay hc
  obtain ⟨-, j, i, hacc⟩ := accept_journaled s o (slicePage k) 0x214 n
  have hkeep := debugKeeps_accept t s o (slicePage k) 0x214 n
  rw [hacc] at ha hkeep
  rw [rawSlice_missed ((journaled_chkWord s j i k).trans h), chkMissed_slice _ hk] at ha
  refine ⟨?_, ?_, (hkeep.trans (debugKeeps_setFlag t _ _ _ _ _)).trans (ha.debugKeeps t)⟩
  · rw [flag_of_regs ha.regs]
    exact State.flag_setFlag_same _ _ _ _ _ (by decide)
  · rw [ha.slices]
    rfl

/-! ## A raw access to a stack -/

theorem byte_setByte_same (s : State) (a : Nat) (b : Byte) : (s.setByte a b).byte a = b := sget_sset_same ..

theorem byte_setByte_other (s : State) {a c : Nat} (b : Byte) (h : a ≠ c) : (s.setByte a b).byte c = s.byte c :=
  sget_sset_other _ _ _ _ h

theorem byte_setBytes_before (s : State) {a c : Nat} (bs : List Byte) (h : c < a) : (s.setBytes a bs).byte c = s.byte c := by
  induction bs generalizing s a with
  | nil => rfl
  | cons b bs ih => rw [State.setBytes, ih _ (by omega), byte_setByte_other _ _ (by omega)]

theorem byte_setBytes_after (s : State) {a c : Nat} (bs : List Byte) (h : a + bs.length ≤ c) :
    (s.setBytes a bs).byte c = s.byte c := by
  induction bs generalizing s a with
  | nil => rfl
  | cons b bs ih =>
    rw [List.length_cons] at h
    rw [State.setBytes, ih _ (by omega), byte_setByte_other _ _ (by omega)]

/-- What was written is read again. -/
theorem bytes_stateSetBytes (s : State) (a : Nat) (bs : List Byte) : (s.setBytes a bs).bytes a bs.length = bs := by
  induction bs generalizing s a with
  | nil => rfl
  | cons b bs ih =>
    have htail := ih (s.setByte a b) (a + 1)
    unfold State.bytes at htail ⊢
    rw [State.setBytes, List.length_cons, List.range_succ_eq_map, List.map_cons, List.map_map]
    refine congrArg₂ List.cons ?_ (Eq.trans (List.map_congr_left fun i _ => ?_) htail)
    · exact (byte_setBytes_before _ _ (by omega)).trans (byte_setByte_same s a b)
    · exact congrArg (State.byte _) (by simp only [Nat.succ_eq_add_one]; omega)

theorem bytes_congr {s u : State} {a n : Nat} (h : ∀ i, i < n → u.byte (a + i) = s.byte (a + i)) : u.bytes a n = s.bytes a n :=
  List.map_congr_left fun i hi => h i (List.mem_range.1 hi)

/-- What a granule is after its 64 bytes were written. -/
theorem granule_setBytes_same (s : State) (g : Nat) {bs : List Byte} (h : bs.length = 64) : (s.setBytes (64 * g) bs).granule g = bs := by
  unfold State.granule
  rw [← h]
  exact bytes_stateSetBytes s _ bs

theorem granule_setBytes_other (s : State) {g i : Nat} {bs : List Byte} (h : bs.length = 64) (hi : i ≠ g) :
    (s.setBytes (64 * g) bs).granule i = s.granule i := by
  refine bytes_congr fun n hn => ?_
  rcases Nat.lt_or_gt_of_ne hi with hlt | hgt
  · exact byte_setBytes_before _ _ (by omega)
  · exact byte_setBytes_after _ _ (by omega)

theorem setBytes_keeps_of {β : Type} (f : State → β) (hf : ∀ s a b, f (State.setByte s a b) = f s) (s : State) (a : Nat) (bs : List Byte) :
    f (s.setBytes a bs) = f s := by
  induction bs generalizing s a with
  | nil => rfl
  | cons b bs ih => rw [State.setBytes, ih, hf]

/-- The granule that CHK_DATA holds. -/
def rawGranule (s : State) (j : Nat) : List Byte :=
  (List.range 16).foldl (fun acc i => acc ++ natLe 4 (s.rdN (stackPage j) (0x240 + 4 * i))) []

theorem foldl_words_length (f : Nat → List Byte) (m n : Nat) (hf : ∀ i, (f i).length = m) :
    ((List.range n).foldl (fun acc i => acc ++ f i) []).length = m * n := by
  induction n with
  | zero => rfl
  | succ n ih => rw [List.range_succ, List.foldl_append, List.foldl_cons, List.foldl_nil, List.length_append, ih, hf, Nat.mul_succ]

theorem rawGranule_length (s : State) (j : Nat) : (rawGranule s j).length = 64 :=
  foldl_words_length _ 4 16 fun _ => natLe_length 4 _

/-- A raw write of a granule, with the stored errors `d`. -/
def granuleWritten (s : State) (j g : Nat) (d : DWord) : State := (s.setBytes (64 * g) (rawGranule s j)).setEcc g d

/-- The words of a granule in CHK_DATA. -/
def wordsShown (s : State) (j : Nat) (bs : List Byte) : State :=
  forN 16 s fun u i => u.wrN (stackPage j) (0x240 + 4 * i) (fieldAt bs (4 * i) 4)

/-- A raw read of a granule, with the stored errors `x`. -/
def granuleShown (s : State) (j g x : Nat) : State := (wordsShown s j (s.granule g)).wr64 (stackPage j) 0x280 x

theorem rawStack_read {s : State} {j g : Nat} (h : s.chkGranule j = some g) :
    ∃ x, s.rawStack j false = granuleShown (s.chkMissed (stackPage j) false) j g x := by
  suffices hf : ∀ f, f = State.rawStack → ∃ x, f s j false = granuleShown (s.chkMissed (stackPage j) false) j g x from hf _ rfl
  delta State.rawStack
  intro f hf
  subst hf
  simp only [h]
  exact ⟨_, if_pos rfl⟩

theorem rawStack_write {s : State} {j g : Nat} (h : s.chkGranule j = some g) :
    ∃ d, s.rawStack j true = granuleWritten (s.chkMissed (stackPage j) false) j g d := by
  suffices hf : ∀ f, f = State.rawStack → ∃ d, f s j true = granuleWritten (s.chkMissed (stackPage j) false) j g d from hf _ rfl
  delta State.rawStack
  intro f hf
  subst hf
  simp only [h]
  exact ⟨_, if_neg (by decide)⟩

theorem wordsShown_keeps {β : Type} (f : State → β) (hf : ∀ (s : State) p o v, f (s.wrN p o v) = f s) (s : State) (j : Nat)
    (bs : List Byte) : f (wordsShown s j bs) = f s := by
  unfold wordsShown forN
  exact foldl_keeps f _ (fun u i => hf u (stackPage j) (0x240 + 4 * i) (fieldAt bs (4 * i) 4)) _ s

theorem debugKeeps_granuleShown (t : Nat) (s : State) (j g x : Nat) : DebugKeeps t s (granuleShown s j g x) :=
  DebugKeeps.trans (.of_eq (wordsShown_keeps State.gn (fun _ _ _ _ => rfl) s j _) (wordsShown_keeps State.adm (fun _ _ _ _ => rfl) s j _)
    (wordsShown_keeps State.tiles (fun _ _ _ _ => rfl) s j _) (wordsShown_keeps State.mem (fun _ _ _ _ => rfl) s j _))
    (debugKeeps_wr64 t (wordsShown s j (s.granule g)) (stackPage j) 0x280 x)

/-- Words written in a row from `b` on. -/
theorem forN_wrN_rdN (s : State) (p b n i : Nat) (f : Nat → Nat) (hb : b % 4 = 0) (hn : b + 4 * n ≤ 4096) (hi : i < n)
    (hf : f i < 2 ^ 32) : (forN n s fun u i => u.wrN p (b + 4 * i) (f i)).rdN p (b + 4 * i) = f i := by
  induction n with
  | zero => omega
  | succ n ih =>
    rw [forN, List.range_succ, List.foldl_append, List.foldl_cons, List.foldl_nil]
    rcases Nat.lt_succ_iff_lt_or_eq.1 hi with h | rfl
    · rw [wrN_rdN_other ⟨by omega, by omega⟩ ⟨by omega, by omega⟩ (by omega)]
      exact ih (by omega) h
    · exact (State.rdN_wrN_same _ p _ _).trans (Nat.mod_eq_of_lt hf)

theorem forN_wrN_other (s : State) (p b n o : Nat) (f : Nat → Nat) (hb : b % 4 = 0) (hn : b + 4 * n ≤ 4096) (ho : regOff o)
    (h : ∀ i, i < n → o ≠ b + 4 * i) : (forN n s fun u i => u.wrN p (b + 4 * i) (f i)).rdN p o = s.rdN p o := by
  induction n with
  | zero => rfl
  | succ n ih =>
    rw [forN, List.range_succ, List.foldl_append, List.foldl_cons, List.foldl_nil,
      wrN_rdN_other ⟨by omega, by omega⟩ ho fun hc => h n (by omega) hc.2]
    exact ih (by omega) fun i hi => h i (by omega)

theorem granuleShown_data (s : State) {j g x i : Nat} (hi : i < 16) :
    (granuleShown s j g x).rdN (stackPage j) (0x240 + 4 * i) = fieldAt (s.granule g) (4 * i) 4 := by
  unfold granuleShown wordsShown
  rw [rdN_wr64_other (by decide) (by decide) ⟨by omega, by omega⟩ (by omega) (by omega)]
  exact forN_wrN_rdN s (stackPage j) 0x240 16 i (fun i => fieldAt (s.granule g) (4 * i) 4) (by decide) (by decide) hi
    (fieldAt_lt _ _ 4)

theorem granuleShown_found (s : State) (j g x : Nat) :
    (granuleShown s j g x).flag (stackPage j) 0x28C 1 = s.flag (stackPage j) 0x28C 1 := by
  unfold granuleShown wordsShown State.flag
  rw [rdN_wr64_other (by decide) (by decide) (by decide) (by decide) (by decide)]
  exact congrArg (bit · 1) (forN_wrN_other s (stackPage j) 0x240 16 0x28C (fun i => fieldAt (s.granule g) (4 * i) 4) (by decide)
    (by decide) (by decide) fun _ hi => by omega)

theorem wr64_ecc (s : State) (p o v : Nat) : (s.wr64 p o v).ecc = s.ecc := rfl

theorem granuleShown_ecc (s : State) (j g x : Nat) : (granuleShown s j g x).ecc = s.ecc :=
  (wr64_ecc ..).trans (wordsShown_keeps State.ecc (fun _ _ _ _ => rfl) s j _)

/-- The note of check symbols changes nothing but them. -/
theorem setEcc_granule (s : State) (g : Nat) (d : DWord) (i : Nat) : (s.setEcc g d).granule i = s.granule i := rfl

theorem granuleWritten_granule (s : State) (j g : Nat) (d : DWord) : (granuleWritten s j g d).granule g = rawGranule s j :=
  (setEcc_granule ..).trans (granule_setBytes_same s g (rawGranule_length s j))

theorem granuleWritten_other (s : State) {j g i : Nat} (d : DWord) (h : i ≠ g) :
    (granuleWritten s j g d).granule i = s.granule i ∧ (granuleWritten s j g d).ecc64 i = s.ecc64 i := by
  have he : (s.setBytes (64 * g) (rawGranule s j)).ecc = s.ecc := setBytes_keeps_of State.ecc (fun _ _ _ => rfl) s _ _
  refine ⟨(setEcc_granule ..).trans (granule_setBytes_other s (rawGranule_length s j) h), ?_⟩
  unfold granuleWritten State.ecc64 State.setEcc
  rw [he]
  exact sget_sset_other _ _ _ _ (Ne.symm h)

theorem granuleWritten_keeps_of {β : Type} (f : State → β) (hb : ∀ s a b, f (State.setByte s a b) = f s) (he : ∀ s g d, f (State.setEcc s g d) = f s)
    (s : State) (j g : Nat) (d : DWord) : f (granuleWritten s j g d) = f s := by
  unfold granuleWritten
  rw [he]
  exact setBytes_keeps_of f hb s _ _

theorem granuleWritten_keeps (s : State) (j g : Nat) (d : DWord) : (granuleWritten s j g d).gn = s.gn ∧
    (granuleWritten s j g d).adm = s.adm ∧ (granuleWritten s j g d).tiles = s.tiles :=
  ⟨granuleWritten_keeps_of State.gn (fun _ _ _ => rfl) (fun _ _ _ => rfl) s j g d,
    granuleWritten_keeps_of State.adm (fun _ _ _ => rfl) (fun _ _ _ => rfl) s j g d,
    granuleWritten_keeps_of State.tiles (fun _ _ _ => rfl) (fun _ _ _ => rfl) s j g d⟩

end Sys2Proof.Machine
end

section
/-!
PROOF. Debug access completes.
-/
namespace Sys2Proof.Machine

/-! ## A raw access to a stack, as an order -/

theorem Answered.ecc {s u : State} (h : Answered s u) : u.ecc = s.ecc := by
  obtain ⟨j, n, c, l, rfl⟩ := h
  rfl

theorem journaled_chkGranule (s : State) (e : Sparse JEnt) (n j : Nat) : (s.journaled e n).chkGranule j = s.chkGranule j := rfl

theorem setFlag_granule (s : State) (p o i : Nat) (b : Bool) (g : Nat) : (s.setFlag p o i b).granule g = s.granule g := rfl

theorem journaled_granule (s : State) (e : Sparse JEnt) (n g : Nat) : (s.journaled e n).granule g = s.granule g := rfl

theorem setFlag_ecc (s : State) (p o i : Nat) (b : Bool) : (s.setFlag p o i b).ecc = s.ecc := rfl

/-- What CHK_DATA holds of a granule depends on its registers alone. -/
theorem rawGranule_setFlag (s : State) (j : Nat) (b : Bool) :
    rawGranule (s.setFlag (stackPage j) 0x28C 1 b) j = rawGranule s j := by
  unfold rawGranule
  refine List.foldl_ext _ _ _ fun acc i hi => ?_
  have hlt : i < 16 := List.mem_range.1 hi
  rw [rdN_setFlag_other (by decide) ⟨by omega, by omega⟩ (by omega)]

theorem journaled_rawGranule (s : State) (e : Sparse JEnt) (n j : Nat) : rawGranule (s.journaled e n) j = rawGranule s j := rfl

/-- A raw read of a stack shows the granule. -/
theorem rawRead_stack {s : State} {o : Origin} {j g : Nat} (hj : j < 8)
    (hmay : debugOnly (roleOf o) = true ∨ operatorOnly (roleOf o) = true) (hc : s.flag (stackPage j) offControl 1 = true)
    (h : s.chkGranule j = some g) (t : Nat) :
    (∀ i, i < 16 → (s.order o (stackPage j) 0x288 1).rdN (stackPage j) (0x240 + 4 * i) = fieldAt (s.granule g) (4 * i) 4) ∧
      (s.order o (stackPage j) 0x288 1).flag (stackPage j) 0x28C 1 = false ∧ (s.order o (stackPage j) 0x288 1).ecc = s.ecc ∧
      DebugKeeps t s (s.order o (stackPage j) 0x288 1) := by
  have ha := order_rawStack (n := 1) hj (.inl rfl) hmay hc
  obtain ⟨-, e, n, hacc⟩ := accept_journaled s o (stackPage j) 0x288 1
  have hkeep := debugKeeps_accept t s o (stackPage j) 0x288 1
  rw [hacc] at ha hkeep
  obtain ⟨x, hread⟩ := rawStack_read ((journaled_chkGranule s e n j).trans h)
  rw [show (s.journaled e n).rawStack j ((1 : Word) == 2) = _ from hread, chkMissed_stack _ hj] at ha
  refine ⟨fun i hi => ?_, ?_, ?_, (hkeep.trans ((debugKeeps_setFlag t _ (stackPage j) 0x28C 1 false).trans
    (debugKeeps_granuleShown t _ j g x))).trans (ha.debugKeeps t)⟩
  · rw [rdN_of_regs ha.regs, granuleShown_data _ hi, setFlag_granule, journaled_granule]
  · rw [flag_of_regs ha.regs, granuleShown_found]
    exact State.flag_setFlag_same _ _ _ _ _ (by decide)
  · rw [ha.ecc, granuleShown_ecc, setFlag_ecc]
    rfl

/-- A raw write of a stack puts the granule of CHK_DATA there, and leaves every other. -/
theorem rawWrite_stack {s : State} {o : Origin} {j g : Nat} (hj : j < 8)
    (hmay : debugOnly (roleOf o) = true ∨ operatorOnly (roleOf o) = true) (hc : s.flag (stackPage j) offControl 1 = true)
    (h : s.chkGranule j = some g) :
    (s.order o (stackPage j) 0x288 2).granule g = rawGranule s j ∧
      (∀ i, i ≠ g → (s.order o (stackPage j) 0x288 2).granule i = s.granule i ∧
        (s.order o (stackPage j) 0x288 2).ecc64 i = s.ecc64 i) ∧
      ((s.order o (stackPage j) 0x288 2).gn = s.gn ∧ (s.order o (stackPage j) 0x288 2).adm = s.adm ∧
        ∀ i, (s.order o (stackPage j) 0x288 2).tile i = s.tile i) := by
  have ha := order_rawStack (n := 2) hj (.inr rfl) hmay hc
  obtain ⟨-, e, n, hacc⟩ := accept_journaled s o (stackPage j) 0x288 2
  rw [hacc] at ha
  obtain ⟨d, hwrite⟩ := rawStack_write ((journaled_chkGranule s e n j).trans h)
  rw [show (s.journaled e n).rawStack j ((2 : Word) == 2) = _ from hwrite, chkMissed_stack _ hj] at ha
  have hg : ∀ i, (s.order o (stackPage j) 0x288 2).granule i =
      (granuleWritten ((s.journaled e n).setFlag (stackPage j) 0x28C 1 false) j g d).granule i := fun i =>
    congrArg (fun m => (List.range 64).map fun b => sget (0 : Byte) m (64 * i + b)) ha.mem
  obtain ⟨hgn, hadm, htiles⟩ := granuleWritten_keeps ((s.journaled e n).setFlag (stackPage j) 0x28C 1 false) j g d
  refine ⟨?_, fun i hi => ?_, ?_, ?_, fun i => ?_⟩
  · rw [hg, granuleWritten_granule, rawGranule_setFlag, journaled_rawGranule]
  · obtain ⟨hgr, hec⟩ := granuleWritten_other ((s.journaled e n).setFlag (stackPage j) 0x28C 1 false) (j := j) d hi
    refine ⟨(hg i).trans hgr, Eq.trans ?_ hec⟩
    exact congrArg (fun m => sget (0 : DWord) m i) ha.ecc
  · exact (ha.debugKeeps 0).1.1.trans hgn
  · exact (ha.debugKeeps 0).1.2.1.trans hadm
  · exact (ha.tile i).trans (congrArg (fun m => sget ({} : Tile) m i) htiles)

/-! ## The commands are their orders -/

/-- What the checker's commands act on: a slice's page, or a stack's. -/
theorem checkerPage {page : Nat} (h : pageKind page = kShadeL ∨ pageKind page = kShadeU ∨ pageKind page = kStack) :
    (pageKind page == kShadeL || pageKind page == kShadeU || pageKind page == kStack) = true := by
  rcases h with h | h | h <;> rw [h] <;> decide

theorem checkerPage_slice {k : Nat} (hk : k < 2304) :
    (pageKind (slicePage k) == kShadeL || pageKind (slicePage k) == kShadeU || pageKind (slicePage k) == kStack) = true :=
  checkerPage ((slicePage_kind hk).imp_right .inl)

theorem checkerPage_stack {j : Nat} (hj : j < 8) :
    (pageKind (stackPage j) == kShadeL || pageKind (stackPage j) == kShadeU || pageKind (stackPage j) == kStack) = true :=
  checkerPage (.inr (.inr (stackPage_kind hj)))

theorem chkCmdOff_slice {k : Nat} (hk : k < 2304) : chkCmdOff (slicePage k) = 0x214 := by
  unfold chkCmdOff
  rw [slicePage_notStack hk, if_neg Bool.false_ne_true]

theorem chkCmdOff_stack {j : Nat} (hj : j < 8) : chkCmdOff (stackPage j) = 0x288 := by
  unfold chkCmdOff
  rw [stackPage_isStack hj, if_pos rfl]

theorem checker_slice {s : State} (hs : s.Serves) (o : Origin) {k : Nat} (hk : k < 2304) (b : Bool) :
    Ends (exec (.checker o (slicePage k) b) s) (s.order o (slicePage k) offControl (s.withBit (slicePage k) offControl 3 b)) :=
  show Ends (execChecker o (slicePage k) b s) _ from runPart_ends_of (checkerPage_slice hk) hs.on (by
    rw [slicePage_notStack hk, if_neg Bool.false_ne_true]
    rfl)

theorem checker_stack {s : State} (hs : s.Serves) (o : Origin) {j : Nat} (hj : j < 8) (b : Bool) :
    Ends (exec (.checker o (stackPage j) b) s) (s.order o (stackPage j) offControl (s.withBit (stackPage j) offControl 1 b)) :=
  show Ends (execChecker o (stackPage j) b s) _ from runPart_ends_of (checkerPage_stack hj) hs.on (by
    rw [stackPage_isStack hj, if_pos rfl]
    rfl)

theorem raw_slice {s : State} (hs : s.Serves) (o : Origin) {k : Nat} (hk : k < 2304) :
    Ends (exec (.rawRead o (slicePage k)) s) (s.order o (slicePage k) 0x214 1) ∧
      Ends (exec (.rawWrite o (slicePage k)) s) (s.order o (slicePage k) 0x214 2) :=
  ⟨show Ends (execRawRead o (slicePage k) s) _ from runPart_ends_of (checkerPage_slice hk) hs.on (by rw [chkCmdOff_slice hk]),
    show Ends (execRawWrite o (slicePage k) s) _ from runPart_ends_of (checkerPage_slice hk) hs.on (by rw [chkCmdOff_slice hk])⟩

theorem raw_stack {s : State} (hs : s.Serves) (o : Origin) {j : Nat} (hj : j < 8) :
    Ends (exec (.rawRead o (stackPage j)) s) (s.order o (stackPage j) 0x288 1) ∧
      Ends (exec (.rawWrite o (stackPage j)) s) (s.order o (stackPage j) 0x288 2) :=
  ⟨show Ends (execRawRead o (stackPage j) s) _ from runPart_ends_of (checkerPage_stack hj) hs.on (by rw [chkCmdOff_stack hj]),
    show Ends (execRawWrite o (stackPage j) s) _ from runPart_ends_of (checkerPage_stack hj) hs.on (by rw [chkCmdOff_stack hj])⟩

theorem tileDebug_ends {s : State} (hs : s.Serves) (o : Origin) {t : Nat} (ht : t < 1152) :
    Ends (exec (.rcFlush o t) s) (s.order o t offControl (s.withBit t offControl 2 true)) ∧
      Ends (exec (.stallClear o t) s) (s.order o t offControl (s.withBit t offControl 3 true)) ∧
      Ends (exec (.dbgHalt o t) s) (s.order o t offControl (s.withBit t offControl 1 true)) ∧
      Ends (exec (.dbgResume o t) s) (s.order o t offControl (s.withBit t offControl 1 false)) ∧
      ∀ v, Ends (exec (.dbgAccSel o t v) s) (s.order o t 0x300 v) :=
  ⟨show Ends (execRcFlush o t s) _ from runPart_ends_of (decide_eq_true ht) hs.on rfl,
    show Ends (execStallClear o t s) _ from runPart_ends_of (decide_eq_true ht) hs.on rfl,
    show Ends (execDbgHalt o t s) _ from runPart_ends_of (decide_eq_true ht) hs.on rfl,
    show Ends (execDbgResume o t s) _ from runPart_ends_of (decide_eq_true ht) hs.on rfl,
    fun v => show Ends (execDbgAccSel o t v s) _ from runPart_ends_of (decide_eq_true ht) hs.on rfl⟩

/-- Settles O46, by an order to CONTROL or to a command register for each command, and what that order changes: a tile's
read cache, counters or halt, the checker's mode of a slice or a stack, and one word or granule. -/
theorem debugAccessCompletes : Obligations.DebugAccessCompletes := by
  intro s o t k j hs ht hk hj
  dsimp only
  obtain ⟨hrc, hst, hhalt, hres, hacc⟩ := tileDebug_ends hs o ht
  obtain ⟨hr, hw⟩ := raw_slice hs o hk
  obtain ⟨hrS, hwS⟩ := raw_stack hs o hj
  refine ⟨⟨hrc, hst, hhalt, hres, hacc, fun b => ⟨checker_slice hs o hk b, checker_stack hs o hj b⟩, hr, hw, hrS, hwS⟩,
    fun hopen hd => ?_, fun hopen hd => ?_, fun v hopen hd => ?_, accRowLatch_ends hs ht, fun hd hdbg hidle => ?_,
    fun hd => ?_, fun l w hmay hon hword => ?_, fun hmay hon hword n hn => ?_, fun g hmay hon hgran => ?_⟩
  · exact ⟨rcFlush_rcache ht hopen hd, tileControl_keeps ht hopen (.inr ⟨.inl rfl, hd⟩),
      fun i hi => stallClear_counters ht hopen hd hi, tileControl_keeps ht hopen (.inr ⟨.inr rfl, hd⟩)⟩
  · exact ⟨halt_halting ht hopen hd true, tileControl_keeps ht hopen (.inl ⟨rfl, hd⟩), halt_halting ht hopen hd false,
      tileControl_keeps ht hopen (.inl ⟨rfl, hd⟩)⟩
  · exact dbgAccSel_selects o v ht hopen hd
  · have hb : CheckerOpen s (roleOf o) true := ⟨hd, fun _ => ⟨hdbg, hidle⟩⟩
    obtain ⟨hf, hkeep⟩ := sliceChecker_does hk hb t
    obtain ⟨hfS, hkeepS⟩ := stackChecker_does hj hb t
    exact ⟨hf, hkeep, hfS, hkeepS⟩
  · exact sliceChecker_does hk ⟨hd, fun h => absurd h Bool.false_ne_true⟩ t
  · exact ⟨rawRead_slice hk hmay hon hword t, fun hm => rawWrite_slice hk hmay hon hword hm t⟩
  · exact rawMissed_slice hk (by simpa [RawCommand] using hn) hmay hon hword t
  · obtain ⟨hgr, hother, hgn, hadm, htile⟩ := rawWrite_stack hj hmay hon hgran
    exact ⟨rawRead_stack hj hmay hon hgran t, hgr, hother, hgn, hadm, fun i _ => htile i⟩

end Sys2Proof.Machine
end
